-- ==== Sys2Proof/Word.lean ====
section
/-! DEFINITION. The word types of the panel and their plainest arithmetic (R6, R24, R56). -/

namespace Sys2Proof

/-- A scalar register, an address or a CSR: 64 bits. -/
abbrev Word := BitVec 64

/-- An instruction word or a vector lane: 32 bits. -/
abbrev Half := BitVec 32

/-- The smallest addressable unit. -/
abbrev Byte := BitVec 8

/-- Bits `hi:lo` of a value, as a number (R6). -/
def field (x hi lo : Nat) : Nat := (x >>> lo) % 2 ^ (hi - lo + 1)

/-- Bit `i` of a number. -/
def bitAt (x i : Nat) : Bool := x.testBit i

/-- A Boolean as the bit it stands for. -/
def bit (b : Bool) : Nat := if b then 1 else 0

/-- Little-endian bytes of a number, lowest first (R24). -/
def toBytes : Nat → Nat → List Byte
  | 0, _ => []
  | n + 1, x => BitVec.ofNat 8 x :: toBytes n (x / 256)

/-- The number that little-endian bytes hold (R24). -/
def ofBytes : List Byte → Nat
  | [] => 0
  | b :: bs => b.toNat + 256 * ofBytes bs

/-- Replaces bits `hi:lo` of `x` by `v` (the rest of `x` kept). -/
def setField (x hi lo v : Nat) : Nat :=
  (x >>> (hi + 1)) <<< (hi + 1) + (v % 2 ^ (hi - lo + 1)) <<< lo + x % 2 ^ lo

/-- The two's-complement reading of the low `w` bits of `x`. -/
def signedOf (w x : Nat) : Int :=
  let y := x % 2 ^ w
  if y < 2 ^ (w - 1) then (y : Int) else (y : Int) - (2 : Int) ^ w

/-- The low `w` bits of an integer. -/
def wrapInt (w : Nat) (x : Int) : Nat := (x % (2 : Int) ^ w).toNat

end Sys2Proof
end

