-- ==== Sys2Proof/Machine/Wire.lean ====
section
/-! DEFINITION. Plain data that travels: faults, accesses, journal entries, requests, chunks, tiles and the frames between
panels (R106, R165, R235, R303, R307, R354, R428). -/

namespace Sys2Proof.Machine

/-- A segment's three registers (R153): BASE with bits 5:0 zero, LIMIT of 61 bits, rights P M F X W R in bits 5 to 0. -/
structure Seg where
  base : Word := 0
  limit : Nat := 0
  rights : BitVec 6 := 0
  deriving DecidableEq, Repr

/-- An exact trap or replay fault: code, DETAIL, TVAL (R106). -/
structure Cause where
  code : Nat
  detail : Nat := 0
  tval : Word := 0
  deriving DecidableEq, Repr

/-- What has come back for the access or operation a thread waits on. -/
inductive Reply where
  | none
  | ok
  | data (bs : List Byte)
  | trap (c : Cause)
  deriving DecidableEq, Repr

/-- What an access does at its home. Addresses are canonical (State.mem). -/
inductive HomeOp where
  | load (a len : Nat)
  | store (a : Nat) (bs : List Byte)
  | atomic (op w a : Nat) (b cmp : Word)
  | drain (take : Bool) (a : Nat)
  | fill (a : Nat) (bs : List Byte)
  | probe (a : Nat)
  | clear (a : Nat)
  | waitgen (a g : Nat)
  /-- asks the home whether a store of this length would be taken (R156, R252) -/
  | check (a len : Nat)
  | arm (a n : Nat)
  | addgen (a n : Nat)
  deriving DecidableEq, Repr

/-- The unit an access goes to: SRAM by tier and its canonical core, HBM of this panel, another panel, or the CSR and
device space (R151). -/
inductive Dest where
  | tcm (core : Nat) | spad (core : Nat) | dsram (core : Nat) | hbm | panel (n : Nat) | device
  deriving DecidableEq, Repr

/-- An access to be made, with the effective and domain address it is reported under. -/
structure Access where
  dest : Dest
  op : HomeOp
  ea : Word
  da : Word
  deriving DecidableEq, Repr

/-- What a journal entry carries (R166, R316, R320). -/
inductive JKind where
  | st | stl | stf
  | inbox (ch : Nat) (rel : Bool)
  | spawn (handler : Nat) (rel : Bool)
  deriving DecidableEq, Repr

/-- A journal entry: thread, sequence number, kind, unit and canonical address (for a message the destination core),
the domain address or destination word it is reported under, payload bytes by offset, whether a release obligation
stands, whether it is closed, the cycle at which it was taken or has left its core (R305), its place in the thread's issue
order, whether it has performed, waits elsewhere or has left, and its refusal code. -/
structure JEntry where
  thread : Nat
  seq : Nat
  fn : Nat
  killed : Bool := false
  kind : JKind
  unit : Dest
  addr : Nat
  report : Word
  bytes : List (Nat × Byte)
  rel : Bool := false
  closed : Bool := false
  level : Nat := 0
  since : Nat := 0
  order : Nat := 0
  performed : Bool := false
  queued : Bool := false
  left : Bool := false
  refused : Nat := 0
  deriving DecidableEq, Repr

/-- A request of a thread that is away: who asked, under which generation (R307), what it asks. -/
structure Request where
  thread : Nat
  gen : Nat
  fn : Nat
  level : Nat
  unit : Dest
  op : HomeOp
  ea : Word
  da : Word
  pinned : Bool := false
  relaxed : Bool := false
  replay : Bool := false
  since : Nat := 0
  deriving DecidableEq, Repr

/-- A chunk on its way between members of a collective: sender's rank, phase (0 partial, 1 result), place in the buffer,
bytes, and the lowest rank that has poisoned it. -/
structure Chunk where
  rank : Nat
  phase : Nat
  off : Nat
  bytes : List Byte
  poison : Option Nat := none
  deriving DecidableEq, Repr

/-- What a frame carries (R432, R433, R434, R438). Ordered: requests and answers in the requester's own terms (an answer
may bring the granule it read), journal entries and their acknowledgements with the code of a refusal, the notices of a
wait at another panel's home, arrival updates, gate, abort, hold and collective notices, acknowledgements of bulk chunks
with the fault they met, relay credits, the place of a frame that was discarded, and a frame that comes back NOT_RESIDENT. Bulk: copy and collective chunks. -/
inductive Cargo where
  | request (r : Request)
  | entry (core idx : Nat) (e : JEntry)
  | answer (thread gen : Nat) (r : Reply) (granule : Option (List Byte))
  | ack (core idx seq : Nat) (code : Nat)
  | queued (thread gen : Nat)
  | grant (thread gen : Nat) (r : Reply)
  | confirm (thread gen : Nat) (ok : Bool)
  | gate (fn slice : Nat)
  | abort (fn slice : Nat)
  | hold (cid run die rank : Nat) (resume : Bool)
  | collAbort (cid run die : Nat)
  | bulk (op chunk : Nat) (fn level : Nat) (writes : List (Word × List Byte))
  | chunk (fn cid run die : Nat) (sig : List Nat) (c : Chunk)
  | chunkAck (cid run die : Nat) (rank off phase : Nat)
  | bulkAck (op chunk : Nat) (bad : Option Cause)
  | credit (dst n : Nat)
  | empty
  | notResident (fn : Nat) (seq : Option Nat) (beats : Nat) (c : Cargo)
  deriving DecidableEq, Repr

/-- A frame between panels (R428, R433). -/
structure Frame where
  src : Nat
  dst : Nat
  fn : Nat
  seq : Option Nat
  cargo : Cargo
  beats : Nat := 2
  /-- panel that relays it (R435) -/
  via : Option Nat := none
  deriving DecidableEq, Repr

/-- A tile: data bytes, scales, masks and TGEOM with POIS in bit 9 (R229, R230). -/
structure Tile where
  data : List Byte := List.replicate 2048 0
  scale : List Byte := List.replicate 32 127
  mask : List Word := List.replicate 32 (BitVec.allOnes 64)
  geom : Word := 0
  deriving DecidableEq, Repr

/-- A tile on its way to a ring (R235): contents, ring, and who sent it: a held slot of a neighbour (R237) or a thread
whose TSEND waits (R262). -/
structure Arrival where
  ring : Nat
  tile : Tile
  src : Nat
  forward : Bool
  thread : Nat := 0
  gen : Nat := 0
  deriving DecidableEq, Repr

end Sys2Proof.Machine
end

