-- ==== Sys2Proof/Syntax.lean ====
section
/-! DEFINITION. The steps of the panel: one constructor for each row of spec/opcode_table.json. Rows with a word carry
the fields of their encoding, named by the table's letters; the machine's events carry the unit they act on and, for an
input from outside, what comes in (spec/95). The constructors the machine itself builds stand first: Lean's runtime
gives compiled code to at most 245 constructors with fields of one type. -/

namespace Sys2Proof

/-- An instruction or a machine event of the opcode table. -/
inductive Instr where
  /-- VDADD (R226). FP64 vector addition. -/
  | vdadd (d : BitVec 3) (a : BitVec 3) (b : BitVec 3) (m : BitVec 3) (e : BitVec 1) (s : BitVec 1)
  /-- VDSUB (R226). FP64 vector subtraction. -/
  | vdsub (d : BitVec 3) (a : BitVec 3) (b : BitVec 3) (m : BitVec 3) (e : BitVec 1) (s : BitVec 1)
  /-- VDMUL (R226). FP64 vector multiplication. -/
  | vdmul (d : BitVec 3) (a : BitVec 3) (b : BitVec 3) (m : BitVec 3) (e : BitVec 1) (s : BitVec 1)
  /-- VDFMA (R226). FP64 vector fused multiply-add. -/
  | vdfma (d : BitVec 3) (a : BitVec 3) (b : BitVec 3) (m : BitVec 3) (e : BitVec 1) (s : BitVec 1)
  /-- VDMIN (R226). FP64 vector minimum. -/
  | vdmin (d : BitVec 3) (a : BitVec 3) (b : BitVec 3) (m : BitVec 3) (e : BitVec 1) (s : BitVec 1)
  /-- VDMAX (R226). FP64 vector maximum. -/
  | vdmax (d : BitVec 3) (a : BitVec 3) (b : BitVec 3) (m : BitVec 3) (e : BitVec 1) (s : BitVec 1)
  /-- VDWID (R226). Widens FP32 elements exactly to FP64. -/
  | vdwid (d : BitVec 3) (a : BitVec 3) (k : BitVec 3) (m : BitVec 3) (e : BitVec 1) (s : BitVec 1)
  /-- VDNAR (R226). Rounds FP64 elements into FP32 elements of a part. -/
  | vdnar (d : BitVec 3) (a : BitVec 3) (k : BitVec 3) (m : BitVec 3) (e : BitVec 1) (s : BitVec 1)
  /-- LD (R173). Loads a scalar from memory. -/
  | ld (d : BitVec 5) (b : BitVec 5) (z : BitVec 3) (i : BitVec 13)
  /-- ST (R173). Stores a scalar to memory, directly or through the journal. -/
  | st (s : BitVec 5) (b : BitVec 5) (z : BitVec 3) (i : BitVec 13)
  /-- LDA_WORD (R174). 4-byte acquire load at a scope. -/
  | ldaWord (d : BitVec 5) (b : BitVec 5) (q : BitVec 5) (i : BitVec 8)
  /-- LDA (R174). 8-byte acquire load at a scope. -/
  | lda (d : BitVec 5) (b : BitVec 5) (q : BitVec 5) (i : BitVec 8)
  /-- LDE (R174). Waits for full, loads and empties the word. -/
  | lde (d : BitVec 5) (b : BitVec 5) (i : BitVec 13)
  /-- LDF (R174). Waits for full and loads, leaving the word full. -/
  | ldf (d : BitVec 5) (b : BitVec 5) (i : BitVec 13)
  /-- FEPROBE (R174). Reads a word's full/empty bit and waiter count. -/
  | feprobe (d : BitVec 5) (b : BitVec 5) (i : BitVec 13)
  /-- STL_WORD (R174). 4-byte release store at a scope. -/
  | stlWord (s : BitVec 5) (b : BitVec 5) (q : BitVec 5) (i : BitVec 8)
  /-- STL (R174). 8-byte release store at a scope. -/
  | stl (s : BitVec 5) (b : BitVec 5) (q : BitVec 5) (i : BitVec 8)
  /-- STF (R174). Waits for empty, stores and fills the word. -/
  | stf (s : BitVec 5) (b : BitVec 5) (i : BitVec 13)
  /-- FECLR (R174). Sets a word empty and grants fill waiters. -/
  | feclr (b : BitVec 5) (i : BitVec 13)
  /-- AMOADD (R175). Atomic add at the word's home. -/
  | amoadd (d : BitVec 5) (a : BitVec 5) (b : BitVec 5) (q : BitVec 5) (w : BitVec 1)
  /-- AMOAND (R175). Atomic AND. -/
  | amoand (d : BitVec 5) (a : BitVec 5) (b : BitVec 5) (q : BitVec 5) (w : BitVec 1)
  /-- AMOOR (R175). Atomic OR. -/
  | amoor (d : BitVec 5) (a : BitVec 5) (b : BitVec 5) (q : BitVec 5) (w : BitVec 1)
  /-- AMOXOR (R175). Atomic XOR. -/
  | amoxor (d : BitVec 5) (a : BitVec 5) (b : BitVec 5) (q : BitVec 5) (w : BitVec 1)
  /-- AMOMIN (R175). Atomic signed minimum. -/
  | amomin (d : BitVec 5) (a : BitVec 5) (b : BitVec 5) (q : BitVec 5) (w : BitVec 1)
  /-- AMOMAX (R175). Atomic signed maximum. -/
  | amomax (d : BitVec 5) (a : BitVec 5) (b : BitVec 5) (q : BitVec 5) (w : BitVec 1)
  /-- AMOSWP (R175). Atomic swap. -/
  | amoswp (d : BitVec 5) (a : BitVec 5) (b : BitVec 5) (q : BitVec 5) (w : BitVec 1)
  /-- CAS (R175). Atomic compare and swap. -/
  | cas (d : BitVec 5) (a : BitVec 5) (b : BitVec 5) (q : BitVec 5) (w : BitVec 1)
  /-- FADDF (R175). Atomic FP32 add under RNE. -/
  | faddf (d : BitVec 5) (a : BitVec 5) (b : BitVec 5) (q : BitVec 5)
  /-- FENCE_ACQ (R176). Acquire fence at a scope. -/
  | fenceAcq (a : BitVec 5)
  /-- FENCE_REL (R176). Release fence at a scope. -/
  | fenceRel (a : BitVec 5)
  /-- FENCE_FULL (R176). Full fence at a scope. -/
  | fenceFull (a : BitVec 5)
  /-- SEGR (R176). Reads a segment register. -/
  | segr (d : BitVec 5) (f : BitVec 2) (n : BitVec 3)
  /-- SEGW (R176). Writes a segment register at level S or above. -/
  | segw (a : BitVec 5) (f : BitVec 2) (n : BitVec 3)
  /-- VADD (R205). Vector element addition. -/
  | vadd (d : BitVec 3) (a : BitVec 3) (b : BitVec 3) (m : BitVec 3) (w : BitVec 2) (e : BitVec 1) (t : BitVec 2) (s : BitVec 1)
  /-- VSUB (R205). Vector element subtraction. -/
  | vsub (d : BitVec 3) (a : BitVec 3) (b : BitVec 3) (m : BitVec 3) (w : BitVec 2) (e : BitVec 1) (t : BitVec 2) (s : BitVec 1)
  /-- VMUL (R205). Vector element multiplication. -/
  | vmul (d : BitVec 3) (a : BitVec 3) (b : BitVec 3) (m : BitVec 3) (w : BitVec 2) (e : BitVec 1) (t : BitVec 2) (s : BitVec 1)
  /-- VFMA (R206). Vector fused multiply-add into the destination. -/
  | vfma (d : BitVec 3) (a : BitVec 3) (b : BitVec 3) (m : BitVec 3) (w : BitVec 2) (e : BitVec 1) (t : BitVec 2) (s : BitVec 1)
  /-- VMIN (R205). Vector minimum. -/
  | vmin (d : BitVec 3) (a : BitVec 3) (b : BitVec 3) (m : BitVec 3) (w : BitVec 2) (e : BitVec 1) (t : BitVec 2) (s : BitVec 1)
  /-- VMAX (R205). Vector maximum. -/
  | vmax (d : BitVec 3) (a : BitVec 3) (b : BitVec 3) (m : BitVec 3) (w : BitVec 2) (e : BitVec 1) (t : BitVec 2) (s : BitVec 1)
  /-- VAMIN (R205). Minimum of the destination and a saturated sum. -/
  | vamin (d : BitVec 3) (a : BitVec 3) (b : BitVec 3) (m : BitVec 3) (w : BitVec 2) (e : BitVec 1) (t : BitVec 2) (s : BitVec 1)
  /-- VAMAX (R205). Maximum of the destination and a saturated sum. -/
  | vamax (d : BitVec 3) (a : BitVec 3) (b : BitVec 3) (m : BitVec 3) (w : BitVec 2) (e : BitVec 1) (t : BitVec 2) (s : BitVec 1)
  /-- VAND (R204). Vector bitwise AND. -/
  | vand (d : BitVec 3) (a : BitVec 3) (b : BitVec 3) (m : BitVec 3) (w : BitVec 2) (e : BitVec 1) (t : BitVec 2) (s : BitVec 1)
  /-- VOR (R204). Vector bitwise OR. -/
  | vor (d : BitVec 3) (a : BitVec 3) (b : BitVec 3) (m : BitVec 3) (w : BitVec 2) (e : BitVec 1) (t : BitVec 2) (s : BitVec 1)
  /-- VXOR (R204). Vector bitwise XOR. -/
  | vxor (d : BitVec 3) (a : BitVec 3) (b : BitVec 3) (m : BitVec 3) (w : BitVec 2) (e : BitVec 1) (t : BitVec 2) (s : BitVec 1)
  /-- VSHL (R205). Vector shift left. -/
  | vshl (d : BitVec 3) (a : BitVec 3) (b : BitVec 3) (m : BitVec 3) (w : BitVec 2) (e : BitVec 1) (t : BitVec 2) (s : BitVec 1)
  /-- VSHR (R205). Vector logical shift right. -/
  | vshr (d : BitVec 3) (a : BitVec 3) (b : BitVec 3) (m : BitVec 3) (w : BitVec 2) (e : BitVec 1) (t : BitVec 2) (s : BitVec 1)
  /-- VSHA (R205). Vector arithmetic shift right. -/
  | vsha (d : BitVec 3) (a : BitVec 3) (b : BitVec 3) (m : BitVec 3) (w : BitVec 2) (e : BitVec 1) (t : BitVec 2) (s : BitVec 1)
  /-- VCMP (R207). Vector compare writing one mask bit per lane. -/
  | vcmp (d : BitVec 3) (a : BitVec 3) (b : BitVec 3) (m : BitVec 3) (w : BitVec 2) (e : BitVec 1) (t : BitVec 2) (s : BitVec 1) (c : BitVec 3)
  /-- VSEL (R207). Selects lanes of va or vb by a mask. -/
  | vsel (d : BitVec 3) (a : BitVec 3) (b : BitVec 3) (m : BitVec 3) (s : BitVec 1)
  /-- VLD (R209). Loads 256 contiguous bytes into a vector register. -/
  | vld (d : BitVec 3) (m : BitVec 3) (e : BitVec 1) (b : BitVec 5) (i : BitVec 6)
  /-- VST (R209). Stores a vector register to 256 contiguous bytes. -/
  | vst (d : BitVec 3) (m : BitVec 3) (e : BitVec 1) (b : BitVec 5) (i : BitVec 6)
  /-- VLDX (R210). Gathers lanes from indexed addresses. -/
  | vldx (d : BitVec 3) (x : BitVec 3) (m : BitVec 3) (e : BitVec 1) (b : BitVec 5) (h : BitVec 2)
  /-- VSTX (R210). Scatters lanes to indexed addresses. -/
  | vstx (d : BitVec 3) (x : BitVec 3) (m : BitVec 3) (e : BitVec 1) (b : BitVec 5) (h : BitVec 2)
  /-- VCVT (R213). Converts a part of vector elements between formats. -/
  | vcvt (d : BitVec 3) (a : BitVec 3) (k : BitVec 3) (m : BitVec 3) (s : BitVec 4) (f : BitVec 4) (e : BitVec 1)
  /-- VQNT (R214). Quantises 64 FP32 elements into one SB8 or SB4 block. -/
  | vqnt (d : BitVec 3) (a : BitVec 3) (k : BitVec 3) (p : BitVec 3) (f : BitVec 4)
  /-- VDQNT (R215). Expands a block part into 64 FP32 elements. -/
  | vdqnt (d : BitVec 3) (a : BitVec 3) (k : BitVec 3) (p : BitVec 3) (s : BitVec 4)
  /-- VQSPLIT (R216). Moves outliers above a threshold into the wide core's outlier queue. -/
  | vqsplit (d : BitVec 3) (a : BitVec 3) (k : BitVec 3) (o : BitVec 3)
  /-- VSHUP (R219). Shifts elements up, filling from vb. -/
  | vshup (d : BitVec 3) (a : BitVec 3) (b : BitVec 3) (w : BitVec 2) (n : BitVec 7)
  /-- VSHDN (R219). Shifts elements down, filling from vb. -/
  | vshdn (d : BitVec 3) (a : BitVec 3) (b : BitVec 3) (w : BitVec 2) (n : BitVec 7)
  /-- VROT (R219). Rotates elements. -/
  | vrot (d : BitVec 3) (a : BitVec 3) (w : BitVec 2) (n : BitVec 7)
  /-- VPERM (R219). Permutes elements by indices. -/
  | vperm (d : BitVec 3) (a : BitVec 3) (b : BitVec 3) (m : BitVec 3) (w : BitVec 2) (e : BitVec 1)
  /-- VBCAST (R220). Broadcasts a scalar to every element. -/
  | vbcast (d : BitVec 3) (w : BitVec 2) (s : BitVec 5)
  /-- VEXT (R220). Extracts one element into a scalar register. -/
  | vext (a : BitVec 3) (k : BitVec 3) (w : BitVec 2) (g : BitVec 5) (u : BitVec 1)
  /-- VINS (R220). Inserts a scalar into one element. -/
  | vins (d : BitVec 3) (k : BitVec 3) (w : BitVec 2) (s : BitVec 5)
  /-- VRED (R221). Reduces a vector in pairwise order into element 0. -/
  | vred (d : BitVec 3) (a : BitVec 3) (m : BitVec 3) (w : BitVec 2) (e : BitVec 1) (t : BitVec 2) (o : BitVec 3)
  /-- VSCAN (R221). Forms left-to-right prefixes. -/
  | vscan (d : BitVec 3) (a : BitVec 3) (m : BitVec 3) (w : BitVec 2) (e : BitVec 1) (t : BitVec 2) (o : BitVec 3)
  /-- VDOT (R222). Dot-accumulates lane elements into 32-bit lanes. -/
  | vdot (d : BitVec 3) (a : BitVec 3) (b : BitVec 3) (m : BitVec 3) (w : BitVec 1) (e : BitVec 1) (t : BitVec 2)
  /-- VEXP2 (R223). Computes 2^x per FP32 element. -/
  | vexp2 (d : BitVec 3) (a : BitVec 3) (m : BitVec 3) (e : BitVec 1)
  /-- VLOG2 (R223). Computes log2 per element. -/
  | vlog2 (d : BitVec 3) (a : BitVec 3) (m : BitVec 3) (e : BitVec 1)
  /-- VRCP (R223). Computes the reciprocal per element. -/
  | vrcp (d : BitVec 3) (a : BitVec 3) (m : BitVec 3) (e : BitVec 1)
  /-- VRSQ (R223). Computes the reciprocal square root per element. -/
  | vrsq (d : BitVec 3) (a : BitVec 3) (m : BitVec 3) (e : BitVec 1)
  /-- VMAND (R224). ANDs two mask registers. -/
  | vmand (d : BitVec 3) (a : BitVec 3) (b : BitVec 3)
  /-- VMOR (R224). ORs two mask registers. -/
  | vmor (d : BitVec 3) (a : BitVec 3) (b : BitVec 3)
  /-- VPOPC (R224). Counts the one bits of a mask. -/
  | vpopc (a : BitVec 3) (g : BitVec 5)
  /-- TLD (R254). Loads rows from memory into a tile. -/
  | tld (a : BitVec 5) (b : BitVec 5) (t : BitVec 5)
  /-- TLD_RING (R254). Loads rows from memory into the next slots of a ring. -/
  | tldRing (a : BitVec 5) (b : BitVec 5) (r : BitVec 5)
  /-- TST (R255). Stores a tile's rows to memory. -/
  | tst (a : BitVec 5) (b : BitVec 5) (s : BitVec 5)
  /-- TZERO (R256). Zeroes a tile and clears POIS. -/
  | tzero (d : BitVec 5)
  /-- TMOV (R256). Copies a tile with its companions and descriptor. -/
  | tmov (a : BitVec 5) (d : BitVec 5)
  /-- TTRANS (R256). Transposes a dense tile. -/
  | ttrans (a : BitVec 5) (d : BitVec 5)
  /-- TMMA (R257). Performs one chunk on two tiles into the accumulator. -/
  | tmma (a : BitVec 5) (b : BitVec 5)
  /-- TMMAS (R258). Consumes KCHM1+1 dense chunks from two rings into the accumulator. -/
  | tmmas (a : BitVec 5) (b : BitVec 5)
  /-- TMMASP (R258). As TMMAS with sparse B tiles. -/
  | tmmasp (a : BitVec 5) (b : BitVec 5)
  /-- TACCR (R259). Converts the accumulator into a tile. -/
  | taccr (d : BitVec 5) (h : BitVec 1)
  /-- RINGDEF (R260). Defines or undefines a ring. -/
  | ringdef (a : BitVec 5) (r : BitVec 5)
  /-- TWAIT (R261). Waits until a ring slot is FULL and returns its tile. -/
  | twait (a : BitVec 5) (r : BitVec 5) (d : BitVec 5)
  /-- TFREE (R261). Consumes n ring slots. -/
  | tfree (a : BitVec 5) (r : BitVec 5)
  /-- TADV (R261). Claims n empty slots and marks them FULL as they stand. -/
  | tadv (a : BitVec 5) (r : BitVec 5)
  /-- TSEND (R262). Sends a tile to a ring of another core. -/
  | tsend (a : BitVec 5) (b : BitVec 5) (r : BitVec 5)
  /-- MRECT (R263). Sets or clears the core's rectangle. -/
  | mrect (a : BitVec 5)
  /-- MSTAT (R247). Returns the matrix status word. -/
  | mstat (d : BitVec 5)
  /-- SDESC (R286). Loads a stream descriptor into a context. -/
  | sdesc (a : BitVec 5) (s : BitVec 5)
  /-- SBIND (R287). Binds a loaded context to a register. -/
  | sbind (s : BitVec 5) (k : BitVec 2) (n : BitVec 3)
  /-- SUNBIND (R288). Unbinds a context after pushes drain. -/
  | sunbind (s : BitVec 5)
  /-- SPOS (R289). Reads a context's POS. -/
  | spos (s : BitVec 5) (d : BitVec 5)
  /-- SPOS_SET (R289). Reads and then sets a context's POS. -/
  | sposSet (a : BitVec 5) (s : BitVec 5) (d : BitVec 5)
  /-- SSKIP (R289). Advances POS, discarding skipped elements. -/
  | sskip (a : BitVec 5) (s : BitVec 5)
  /-- SFLUSH (R290). Orders a context against the owner's stores or drains its pushes. -/
  | sflush (s : BitVec 5)
  /-- SSTAT (R290). Returns a context's status word. -/
  | sstat (s : BitVec 5) (d : BitVec 5)
  /-- COPY (R291). Starts a copy described by a parameter block and returns a handle. -/
  | copy (a : BitVec 5) (d : BitVec 5)
  /-- COPYST (R291). Returns the status of a copy handle. -/
  | copyst (a : BitVec 5) (d : BitVec 5)
  /-- WAITGEN (R292). Waits for an arrival word's generation, then acquires. -/
  | waitgen (a : BitVec 5) (b : BitVec 5) (q : BitVec 5)
  /-- ARMGEN (R292). Sets an arrival word's target. -/
  | armgen (a : BitVec 5) (b : BitVec 5)
  /-- ADDGEN (R292). Releases, then adds arrivals to an arrival word. -/
  | addgen (a : BitVec 5) (b : BitVec 5) (q : BitVec 5)
  /-- SEND (R316). Sends an inbox or spawn message with a payload from memory. -/
  | send (a : BitVec 5) (b : BitVec 5) (d : BitVec 5) (r : BitVec 1)
  /-- SENDI (R316). Sends an inbox or spawn message with a payload from gb. -/
  | sendi (a : BitVec 5) (b : BitVec 5) (d : BitVec 5) (r : BitVec 1)
  /-- RECV (R317). Dequeues an inbox entry, parking while none is available. -/
  | recv (h : BitVec 5) (d : BitVec 5)
  /-- RECVT (R317). Dequeues an inbox entry with a deadline. -/
  | recvt (a : BitVec 5) (h : BitVec 5) (d : BitVec 5)
  /-- PEEK (R318). Returns the header RECV would deliver, without dequeuing. -/
  | peek (d : BitVec 5)
  /-- JWAIT (R319). Waits for the thread's journal entries to perform or be refused. -/
  | jwait (a : BitVec 5) (d : BitVec 5)
  /-- JREAD (R320). Reads and optionally frees a refusal record. -/
  | jread (a : BitVec 5) (d : BitVec 5)
  /-- FWDQ (R321). Reports the placement of a logical core. -/
  | fwdq (a : BitVec 5) (d : BitVec 5)
  /-- CDEF (R363). Defines a collective context from a descriptor. -/
  | cdef (a : BitVec 5) (c : BitVec 5)
  /-- CWATCH (R364). Registers a watch on a ready word. -/
  | cwatch (a : BitVec 5) (c : BitVec 5) (b : BitVec 5)
  /-- CWATCH_OFF (R364). Removes a registered watch. -/
  | cwatchOff (c : BitVec 5)
  /-- CSTART (R365). Releases, then starts a collective run. -/
  | cstart (c : BitVec 5)
  /-- CSTAT (R365). Returns a collective context's status word. -/
  | cstat (c : BitVec 5) (d : BitVec 5)
  /-- CBW (R365). Sets a collective context's link share. -/
  | cbw (a : BitVec 5) (c : BitVec 5)
  /-- CABORT (R365). Aborts a collective context. -/
  | cabort (c : BitVec 5) (d : BitVec 5)
  /-- BARM (R380). Defines or frees a barrier context. -/
  | barm (a : BitVec 5) (b : BitVec 5)
  /-- BARA (R381). Releases, then arrives at a barrier generation. -/
  | bara (a : BitVec 5) (q : BitVec 5) (d : BitVec 5)
  /-- BARW (R382). Waits for the release of a barrier generation. -/
  | barw (a : BitVec 5) (q : BitVec 5) (d : BitVec 5)
  /-- BART (R383). Reads barrier tree state at a level. -/
  | bart (a : BitVec 5) (d : BitVec 5)
  /-- BMASK (R384). Edits one die's participant bits. -/
  | bmask (a : BitVec 5) (b : BitVec 5)
  /-- BTIME (R385). Sets a barrier context's timeout. -/
  | btime (a : BitVec 5) (b : BitVec 5)
  /-- ASAMP (R402). Enables or reconfigures an audit entry. -/
  | asamp (a : BitVec 5) (b : BitVec 5)
  /-- ATHR (R403). Arms an audit entry's threshold. -/
  | athr (a : BitVec 5) (b : BitVec 5)
  /-- AHIST (R404). Reads an audit counter. -/
  | ahist (a : BitVec 5) (d : BitVec 5)
  /-- ACLR (R405). Clears or disables an audit entry. -/
  | aclr (a : BitVec 5)
  /-- ASTAT (R406). Returns an audit entry's status, optionally after its audits finish. -/
  | astat (a : BitVec 5) (d : BitVec 5)
  /-- CHKPT (R331). Captures a checkpoint image of the core context. -/
  | chkpt (d : BitVec 5)
  /-- CKREG (R344). Defines a checkpoint region. -/
  | ckreg (a : BitVec 5) (b : BitVec 5) (n : BitVec 3)
  /-- EBRD (R345). Reads a word of an error bank. -/
  | ebrd (a : BitVec 5) (d : BitVec 5) (w : BitVec 2)
  /-- EBCLR (R345). Clears an error bank if word 0 matches. -/
  | ebclr (a : BitVec 5) (b : BitVec 5) (d : BitVec 5)
  /-- KILLT (R346). Kills a named thread. -/
  | killt (a : BitVec 5) (d : BitVec 5)
  /-- KILL_SCRUB_END (R90). The bank scrub of a killed slot ends and the slot becomes FREE. -/
  | killScrubEnd (t : Nat)
  /-- TEXIT_DRAIN_DONE (R144). An exiting thread's conditions hold; events move and the slot is freed. -/
  | texitDrainDone (t : Nat)
  /-- SLOT_FILL (R94). A free ungated slot is filled from migrations, spill queue, spawns or launch threads. -/
  | slotFill (c : Nat)
  /-- SPAWN_MESSAGE (R297). An arriving spawn message is accepted into a slot or spill queue, or refused. -/
  | spawnMessage (c i q : Nat)
  /-- FETCH_LINE_ARRIVAL (R483). A fetched instruction line arrives and the thread issues its word. -/
  | fetchLineArrival (t : Nat)
  /-- FETCH_AHEAD (R483). The next sequential line is fetched ahead into the buffer. -/
  | fetchAhead (t ea : Nat)
  /-- USER_INTERRUPT_ENTRY (R113). A thread takes its oldest enabled pending event before its instruction. -/
  | userInterruptEntry (t : Nat)
  /-- REPLAY_ISSUE (R69). The repetition sequencer issues one replay in a bubble. -/
  | replayIssue (t : Nat)
  /-- REPLAY_FORCED_PLACE (R89). After 16 cycles without a bubble a replay is placed directly into its engine queue. -/
  | replayForcedPlace (t : Nat)
  /-- REPLAY_FAULT_DELIVERY (R110). A faulting replay discards the rest and the trap is delivered at the next issue. -/
  | replayFaultDelivery (t : Nat)
  /-- SLEEP_DEADLINE (R143). A PARK count reaches zero and the thread resumes. -/
  | sleepDeadline (t : Nat)
  /-- RECVT_DEADLINE (R317). A RECVT count reaches zero and the thread completes with V = 0. -/
  | recvtDeadline (t : Nat)
  /-- MIGRATE_ARRIVAL (R100). A thread migrating for EXT.W takes a slot on the target core. -/
  | migrateArrival (t c : Nat)
  /-- SLOT_GATE (R99). The power controller gates a slot. -/
  | slotGate (t : Nat)
  /-- SLOT_UNGATE (R99). The power controller ungates a slot. -/
  | slotUngate (t : Nat)
  /-- TSR_ACCESS_RESUME (R41). A CSR access naming TSR resumes once earlier engine work completes. -/
  | tsrAccessResume (t : Nat)
  /-- EVTHREAD_WRITE (R112). A write to EVTHREAD delivers queued function events in order. -/
  | evthreadWrite (t : Nat) (w : Word)
  /-- TEPC_WRITE (R107). A write to TEPC clears SIGSAVE.V. -/
  | tepcWrite (t : Nat) (w : Word)
  /-- SPILLQ_WRITE (R95). A write to SPILLQ is ignored whole when COUNT is non-zero or SIZE is invalid. -/
  | spillqWrite (t : Nat) (w : Word)
  /-- UIPEND_WRITE (R139). A write to UIPEND sets enables and may clear OVF. -/
  | uipendWrite (t : Nat) (w : Word)
  /-- RNDLFSR_WRITE (R38). A write of 0 to RNDLFSR stores 1. -/
  | rndlfsrWrite (t : Nat) (w : Word)
  /-- ACCESS_REPLY (R91). Data or a write acknowledgement returns for a MEM-parked access. -/
  | accessReply (t : Nat)
  /-- REMOTE_REPLY (R307). A remote reply arrives and is delivered or discarded as stale. -/
  | remoteReply (n : Nat)
  /-- REMOTE_TIMEOUT (R308). RTIMEOUT expires and the access ends with an exact trap. -/
  | remoteTimeout (t e : Nat)
  /-- REMOTE_REQUEST_AT_HOME (R177). A remote load, store, atomic or journal entry performs at its home. -/
  | remoteRequestAtHome (n : Nat)
  /-- JOURNAL_ACK (R296). An acknowledgement retires a journal entry. -/
  | journalAck (c i q : Nat)
  /-- JOURNAL_REFUSAL (R303). A refusal of a journal entry is recorded and a class 1 event queued. -/
  | journalRefusal (c i q : Nat)
  /-- JOURNAL_EXPIRED (R305). An entry unacknowledged for the fabric lifetime is refused with EXPIRED. -/
  | journalExpired (c i q : Nat)
  /-- FE_ARRIVAL (R169). A full/empty operation reaches its home and completes or is queued. -/
  | feArrival (c i q : Nat)
  /-- FE_QUEUED_NOTICE (R310). A queued notice moves a remote waiter from REMOTE to FE. -/
  | feQueuedNotice (t e : Nat)
  /-- FE_GRANT_CONFIRM (R310). A provisional grant is confirmed or returned stale by the requesting core. -/
  | feGrantConfirm (t e : Nat)
  /-- FE_REPROBE (R170). An overflow waiter re-probes its home every 256 cycles. -/
  | feReprobe (q : Nat)
  /-- POSTED_STF_EXPIRE (R170). A posted STF older than the fabric lifetime is removed by its home. -/
  | postedStfExpire (c i q : Nat)
  /-- IMPORT_ENTRY_EXPIRY (R190). An import-buffer entry's 20 microsecond lease ends and it is removed. -/
  | importEntryExpiry (k f g : Nat)
  /-- VECTOR_UNIT_START (R199). The vector unit starts the oldest queued entry of the next core. -/
  | vectorUnitStart (q : Nat)
  /-- VQSPLIT_RELEASE (R216). A waiting VQSPLIT executes once the outlier queue holds 192 or fewer. -/
  | vqsplitRelease (q : Nat)
  /-- MATRIX_UNIT_START (R240). The matrix unit starts its next queued instruction. -/
  | matrixUnitStart (c : Nat)
  /-- TMMAS_CHUNK (R244). One chunk step of TMMAS or TMMASP consumes slots and updates X. -/
  | tmmasChunk (c : Nat)
  /-- TMMAS_RESUME (R245). A held operation reloads X and continues at its chunk. -/
  | tmmasResume (c : Nat)
  /-- TILE_ARRIVAL (R235). An arriving tile claims and fills ring slots. -/
  | tileArrival (c : Nat)
  /-- FORWARD_ACCEPT (R237). A forwarded tile is accepted or refused and the HELD slot becomes EMPTY. -/
  | forwardAccept (c r : Nat)
  /-- TSEND_ACCEPT (R262). A sent tile is claimed at its destination and the sender resumes. -/
  | tsendAccept (t e : Nat)
  /-- STREAM_ELEMENT_ARRIVAL (R271). An element fetched ahead arrives in a context's buffer. -/
  | streamElementArrival (c x e : Nat)
  /-- STREAM_DRAIN (R271). An out context drains an element as a store. -/
  | streamDrain (c x : Nat)
  /-- RING_STREAM_FILL (R275). A ring stream fills the next ring slot from an element. -/
  | ringStreamFill (c x : Nat)
  /-- COPY_CHUNK (R277). A copy performs one 4 KiB chunk. -/
  | copyChunk (c k : Nat)
  /-- COPY_COMPLETE (R278). A copy ends and notifies by inbox or interrupt. -/
  | copyComplete (c k : Nat)
  /-- ARRIVAL_ADD (R282). Arrivals update an arrival word at its home and wake satisfied WAITGENs. -/
  | arrivalAdd (a n : Nat)
  /-- INBOX_MESSAGE (R298). An inbox message or completion is accepted into the inbox or refused. -/
  | inboxMessage (c i q : Nat)
  /-- FORWARD_DELIVER (R311). Held traffic is delivered in order to the new site once the context runs. -/
  | forwardDeliver (c : Nat)
  /-- FORWARD_ENTRY_REMOVE (R313). A forwarding entry is removed once every router switched and 1 ms passed. -/
  | forwardEntryRemove (c : Nat)
  /-- REMAP_EXCEPTION_COMMIT (R328). A remap exception is committed and propagates to every router. -/
  | remapExceptionCommit (c s i : Nat)
  /-- CHKPT_CAPTURE_DONE (R331). A checkpoint image is written, VALID set and threads resume. -/
  | chkptCaptureDone (c : Nat)
  /-- CORE_RETIRE (R334). A retirement cause freezes a core and installs forwarding. -/
  | coreRetire (c : Nat)
  /-- RESTORE_START (R334). A spare is chosen and the frozen core enters RESTORING, or becomes ABSENT. -/
  | restoreStart (c : Nat)
  /-- RESTORE_DONE (R332). The image is streamed into the spare and threads resume with RC set. -/
  | restoreDone (c : Nat)
  /-- ERROR_RECORD (R339). An error arrives at an error bank and updates its record. -/
  | errorRecord (k n : Nat) (cls unit slot : Nat) (a : Word)
  /-- SRAM_PATROL_SCRUB (R341). Patrol scrub checks and rewrites an SRAM word. -/
  | sramPatrolScrub (a bits : Nat)
  /-- HBM_SCRUB (R341). Scrub checks an HBM word. -/
  | hbmScrub (a bits : Nat)
  /-- HBM_REFRESH (R341). HBM refresh as the stack requires. -/
  | hbmRefresh (k : Nat)
  /-- WATCH_REACHED (R359). A store to a watched word reaches the threshold and starts a run. -/
  | watchReached (d x : Nat)
  /-- COLLECTIVE_CHUNK_STEP (R357). The collective engine performs one chunk step of a context. -/
  | collectiveChunkStep (d x : Nat)
  /-- COLLECTIVE_CHUNK_RECEIVE (R354). A chunk from a peer is received against a credit. -/
  | collectiveChunkReceive (d x : Nat)
  /-- COLLECTIVE_COMPLETE (R354). A member ends its run and sends its completion. -/
  | collectiveComplete (d x : Nat)
  /-- COLLECTIVE_ABORT_NOTICE (R355). An abort notice ends the run ABORTED at the next chunk boundary. -/
  | collectiveAbortNotice (d x run : Nat)
  /-- COLLECTIVE_TIMEOUT (R355). No progress for CTIMEOUT ends the run TIMEOUT. -/
  | collectiveTimeout (d x : Nat)
  /-- COLLECTIVE_HOLD (R353). Quota or gang slice end holds a running context at a chunk boundary. -/
  | collectiveHold (d x : Nat)
  /-- COLLECTIVE_RESUME (R353). A held context resumes on refill or next slice. -/
  | collectiveResume (d x : Nat)
  /-- BARRIER_ARRIVAL (R372). An arrival reaches the root and sets its bit. -/
  | barrierArrival (x t : Nat) (w : Word)
  /-- BARRIER_RELEASE_DELIVERY (R373). A release reaches a core and wakes its BARW waiters. -/
  | barrierReleaseDelivery (x g t : Nat)
  /-- BARRIER_EXCUSAL (R374). An ABSENT participant is excused under auto-excuse. -/
  | barrierExcusal (x c : Nat)
  /-- BARRIER_TIMEOUT (R375). A generation's timer expires and the context becomes EXPIRED. -/
  | barrierTimeout (x : Nat)
  /-- AUDIT_RECORD (R393). The trier finishes auditing a record, bins it and may raise an event. -/
  | auditRecord (q : Nat)
  /-- SLICE_REQUEST (R413). A charging point requests a slice from the service die. -/
  | sliceRequest (k n f : Nat)
  /-- SLICE_GRANT (R413). A granted slice reaches a charging point and waiting work resumes. -/
  | sliceGrant (k n f a : Nat)
  /-- SLICE_REFUSAL (R413). A refusal reaches a charging point and stands. -/
  | sliceRefusal (k n f : Nat)
  /-- METER_CALIBRATION (R410). Every 100 ms quad calibration ratios are updated. -/
  | meterCalibration (q r : Nat)
  /-- OPERATING_POINT_CHANGE (R417). A quad's operating point change takes effect. -/
  | operatingPointChange (q : Nat)
  /-- POWER_CAP_STEP (R419). The power controller lowers a quad's CAP one point. -/
  | powerCapStep (q : Nat)
  /-- CALENDAR_REPLACE (R430). A replaced calendar takes effect at a period boundary. -/
  | calendarReplace (es : List (Option Nat))
  /-- OPTICAL_FRAME_RECEIVE (R433). A frame is received, checked and released in sequence. -/
  | opticalFrameReceive (k : Nat) (f : Machine.Frame)
  /-- OPTICAL_FRAME_RETRY (R428). A frame failing its CRC is sent again. -/
  | opticalFrameRetry (k : Nat) (f : Machine.Frame)
  /-- PORT_GROUP_DOWN (R428). A port group whose fibres fail is marked down. -/
  | portGroupDown (k : Nat)
  /-- RELAY_FORWARD (R435). A relaying panel forwards a held bulk frame to its destination. -/
  | relayForward (k : Nat)
  /-- NOT_RESIDENT_RESEND (R438). A frame refused NOT_RESIDENT is sent again in the next direct slot. -/
  | notResidentResend (k : Nat)
  /-- GATE_OPEN (R438). A panel opens its gang slice gate and sends gate notices. -/
  | gateOpen (f : Nat)
  /-- GATE_NOTICE (R438). A gate notice from a gang panel is received. -/
  | gateNotice (f p : Nat)
  /-- GANG_SLICE_ABORT (R439). A gang slice is aborted when its tolerance expires or an abort notice arrives. -/
  | gangSliceAbort (f : Nat)
  /-- QUAD_GROUP_COMPLETE (R457). A quad group completes and the quad goes to SCRUB. -/
  | quadGroupComplete (q : Nat)
  /-- QUAD_SCRUB_END (R456). A quad's scrub ends and it becomes FREE or HELD. -/
  | quadScrubEnd (q : Nat)
  /-- LIVE_MIGRATION_DONE (R101). A moved core context runs on its new core. -/
  | liveMigrationDone (c : Nat)
  /-- MIGR_ORDER_END (R461). A migration order ends and reports to the lease manager. -/
  | migrOrderEnd (o a : Nat)
  /-- RIGHTS_PROPAGATED (R467). Every quad's copy of a changed rights mask is updated. -/
  | rightsPropagated (t : Nat)
  /-- LAUNCH_WINDOW_WRITE (R474). A host write of 64 bytes enters a launch record. -/
  | launchWindowWrite (f p : Nat) (bs : List Byte)
  /-- NONCE_WRITE (R478). Writing the last nonce byte starts a quote. -/
  | nonceWrite (i : Nat) (bs : List Byte)
  /-- FWLOAD (R477). A firmware image is verified and staged for the next power-up. -/
  | fwload (a : Word)
  /-- MGMT_FIELD_WRITE (R475). A host write to a management field with no behaviour of its own. -/
  | mgmtFieldWrite (a : Nat) (w : Word)
  /-- LINK_WRITE (R472). A write flit is performed in SEQ order. -/
  | linkWrite (bs : List Byte)
  /-- LINK_READ_REQUEST (R472). A read request flit is answered by a read reply. -/
  | linkReadRequest (bs : List Byte)
  /-- LINK_READ_REPLY (R468). A read reply flit arrives from the other end. -/
  | linkReadReply (bs : List Byte)
  /-- LINK_IDLE (R468). An idle flit carries acknowledgements. -/
  | linkIdle (bs : List Byte)
  /-- LINK_NAK (R469). A NAK causes replay of every flit after the named SEQ. -/
  | linkNak (bs : List Byte)
  /-- GANG_SLICE_BOUNDARY (R438). At a gang slice start boundary G the partition engine ends the running context's slice and begins the next context's slice. -/
  | gangSliceBoundary (f g : Nat)
  /-- FABRIC_LIFETIME_EXPIRY (R309). A request, reply or acknowledgement reaches the fabric lifetime; routers and homes discard it, and a timed-out request counts as answered so its slot may issue again. -/
  | fabricLifetimeExpiry (n : Nat)
  /-- STREAM_FETCH_ISSUE (R271). The core's stream engine issues the next fetch-ahead access of an in context, one granule per cycle in turn. -/
  | streamFetchIssue (c x : Nat)
  /-- LINK_FLIT_DISCARDED (R469). A received Kwardo flit with a bad CRC, an uncorrectable codeword, an illegal TYPE or LEN, or an unexpected SEQ is discarded and answered by a NAK. -/
  | linkFlitDiscarded (bs : List Byte)
  /-- ADD (R119). Adds two scalar registers modulo 2^64. -/
  | add (d : BitVec 5) (a : BitVec 5) (b : BitVec 5)
  /-- SUB (R119). Subtracts gb from ga modulo 2^64. -/
  | sub (d : BitVec 5) (a : BitVec 5) (b : BitVec 5)
  /-- MUL (R119). Writes the low 64 bits of the product. -/
  | mul (d : BitVec 5) (a : BitVec 5) (b : BitVec 5)
  /-- MULH (R119). Writes the high 64 bits of the signed product. -/
  | mulh (d : BitVec 5) (a : BitVec 5) (b : BitVec 5)
  /-- MULHU (R119). Writes the high 64 bits of the unsigned product. -/
  | mulhu (d : BitVec 5) (a : BitVec 5) (b : BitVec 5)
  /-- DIV (R120). Signed division, truncated toward zero, with no trap. -/
  | div (d : BitVec 5) (a : BitVec 5) (b : BitVec 5)
  /-- DIVU (R120). Unsigned division, with no trap. -/
  | divu (d : BitVec 5) (a : BitVec 5) (b : BitVec 5)
  /-- REM (R120). Signed remainder, taking the sign of the dividend. -/
  | rem (d : BitVec 5) (a : BitVec 5) (b : BitVec 5)
  /-- REMU (R120). Unsigned remainder. -/
  | remu (d : BitVec 5) (a : BitVec 5) (b : BitVec 5)
  /-- AND (R119). Bitwise AND. -/
  | and (d : BitVec 5) (a : BitVec 5) (b : BitVec 5)
  /-- OR (R119). Bitwise OR. -/
  | or (d : BitVec 5) (a : BitVec 5) (b : BitVec 5)
  /-- XOR (R119). Bitwise XOR. -/
  | xor (d : BitVec 5) (a : BitVec 5) (b : BitVec 5)
  /-- ANDN (R119). ANDs ga with the complement of gb. -/
  | andn (d : BitVec 5) (a : BitVec 5) (b : BitVec 5)
  /-- SHL (R119). Shifts left by gb mod 64. -/
  | shl (d : BitVec 5) (a : BitVec 5) (b : BitVec 5)
  /-- SHR (R119). Logical right shift by gb mod 64. -/
  | shr (d : BitVec 5) (a : BitVec 5) (b : BitVec 5)
  /-- SHA (R119). Arithmetic right shift by gb mod 64. -/
  | sha (d : BitVec 5) (a : BitVec 5) (b : BitVec 5)
  /-- ROL (R119). Rotates left by gb mod 64. -/
  | rol (d : BitVec 5) (a : BitVec 5) (b : BitVec 5)
  /-- CLZ (R119). Counts leading zero bits. -/
  | clz (d : BitVec 5) (a : BitVec 5)
  /-- CTZ (R119). Counts trailing zero bits. -/
  | ctz (d : BitVec 5) (a : BitVec 5)
  /-- POPC (R119). Counts the one bits. -/
  | popc (d : BitVec 5) (a : BitVec 5)
  /-- MIN (R119). Signed minimum. -/
  | min (d : BitVec 5) (a : BitVec 5) (b : BitVec 5)
  /-- MAX (R119). Signed maximum. -/
  | max (d : BitVec 5) (a : BitVec 5) (b : BitVec 5)
  /-- MINU (R119). Unsigned minimum. -/
  | minu (d : BitVec 5) (a : BitVec 5) (b : BitVec 5)
  /-- MAXU (R119). Unsigned maximum. -/
  | maxu (d : BitVec 5) (a : BitVec 5) (b : BitVec 5)
  /-- SLT (R119). Sets 1 if ga < gb, signed. -/
  | slt (d : BitVec 5) (a : BitVec 5) (b : BitVec 5)
  /-- SLTU (R119). Sets 1 if ga < gb, unsigned. -/
  | sltu (d : BitVec 5) (a : BitVec 5) (b : BitVec 5)
  /-- SEQ (R119). Sets 1 if ga equals gb. -/
  | seq (d : BitVec 5) (a : BitVec 5) (b : BitVec 5)
  /-- SEL (R119). Selects ga or gb according to gc. -/
  | sel (d : BitVec 5) (a : BitVec 5) (b : BitVec 5) (c : BitVec 5)
  /-- ADDSC (R119). Adds ga and gb shifted left by k. -/
  | addsc (d : BitVec 5) (a : BitVec 5) (b : BitVec 5) (k : BitVec 3)
  /-- EXTS (R119). Sign-extends the low w bits of ga. -/
  | exts (d : BitVec 5) (a : BitVec 5) (w : BitVec 5)
  /-- EXTZ (R119). Zero-extends the low w bits of ga. -/
  | extz (d : BitVec 5) (a : BitVec 5) (w : BitVec 5)
  /-- BEXT (R121). Extracts a bit field of ga. -/
  | bext (d : BitVec 5) (a : BitVec 5) (b : BitVec 5)
  /-- BINS (R121). Inserts a field of ga into gd. -/
  | bins (d : BitVec 5) (a : BitVec 5) (b : BitVec 5)
  /-- COREID (R122). Writes the executing core's logical ID. -/
  | coreid (d : BitVec 5)
  /-- CXY (R122). Forms a core ID from coordinates, or -1. -/
  | cxy (d : BitVec 5) (a : BitVec 5) (b : BitVec 5)
  /-- CREL (R122). Forms the core ID at a signed offset from a core, or -1. -/
  | crel (d : BitVec 5) (a : BitVec 5) (b : BitVec 5)
  /-- ADDI (R123). Adds a sign-extended immediate. -/
  | addi (d : BitVec 5) (a : BitVec 5) (i : BitVec 16)
  /-- ANDI (R123). ANDs a zero-extended immediate. -/
  | andi (d : BitVec 5) (a : BitVec 5) (i : BitVec 16)
  /-- ORI (R123). ORs a zero-extended immediate. -/
  | ori (d : BitVec 5) (a : BitVec 5) (i : BitVec 16)
  /-- XORI (R123). XORs a zero-extended immediate. -/
  | xori (d : BitVec 5) (a : BitVec 5) (i : BitVec 16)
  /-- SLTI (R123). Signed compare with a sign-extended immediate. -/
  | slti (d : BitVec 5) (a : BitVec 5) (i : BitVec 16)
  /-- SLTUI (R123). Unsigned compare with a sign-extended immediate. -/
  | sltui (d : BitVec 5) (a : BitVec 5) (i : BitVec 16)
  /-- SHLI (R124). Shifts left by an immediate amount. -/
  | shli (d : BitVec 5) (a : BitVec 5) (n : BitVec 6)
  /-- SHRI (R124). Logical right shift by an immediate amount. -/
  | shri (d : BitVec 5) (a : BitVec 5) (n : BitVec 6)
  /-- SHAI (R124). Arithmetic right shift by an immediate amount. -/
  | shai (d : BitVec 5) (a : BitVec 5) (n : BitVec 6)
  /-- ROLI (R124). Rotates left by an immediate amount. -/
  | roli (d : BitVec 5) (a : BitVec 5) (n : BitVec 6)
  /-- LHI (R123). Shifts ga left by 16 and ORs the immediate. -/
  | lhi (d : BitVec 5) (a : BitVec 5) (i : BitVec 16)
  /-- BEQ (R126). Branches when ga equals gb. -/
  | beq (a : BitVec 5) (b : BitVec 5) (i : BitVec 16)
  /-- BNE (R126). Branches when ga differs from gb. -/
  | bne (a : BitVec 5) (b : BitVec 5) (i : BitVec 16)
  /-- BLT (R126). Branches when ga < gb, signed. -/
  | blt (a : BitVec 5) (b : BitVec 5) (i : BitVec 16)
  /-- BGE (R126). Branches when ga >= gb, signed. -/
  | bge (a : BitVec 5) (b : BitVec 5) (i : BitVec 16)
  /-- BLTU (R126). Branches when ga < gb, unsigned. -/
  | bltu (a : BitVec 5) (b : BitVec 5) (i : BitVec 16)
  /-- BGEU (R126). Branches when ga >= gb, unsigned. -/
  | bgeu (a : BitVec 5) (b : BitVec 5) (i : BitVec 16)
  /-- LOOP (R127). Decrements ga and branches while it differs from gb. -/
  | loop (a : BitVec 5) (b : BitVec 5) (i : BitVec 16)
  /-- J (R128). Jumps PC-relative. -/
  | j (i : BitVec 26)
  /-- JAL (R128). Writes the link into g31 and jumps. -/
  | jal (i : BitVec 26)
  /-- JALR (R128). Jumps to register plus immediate and writes the link. -/
  | jalr (d : BitVec 5) (a : BitVec 5) (i : BitVec 16)
  /-- FADD (R131). FP32 addition, rounded once into the effective format. -/
  | fadd (d : BitVec 5) (a : BitVec 5) (b : BitVec 5)
  /-- FSUB (R131). FP32 subtraction. -/
  | fsub (d : BitVec 5) (a : BitVec 5) (b : BitVec 5)
  /-- FMUL (R131). FP32 multiplication. -/
  | fmul (d : BitVec 5) (a : BitVec 5) (b : BitVec 5)
  /-- FMA (R131). Fused FP32 multiply-add, rounded once. -/
  | fma (d : BitVec 5) (a : BitVec 5) (b : BitVec 5) (c : BitVec 5)
  /-- FDIV (R131). FP32 division. -/
  | fdiv (d : BitVec 5) (a : BitVec 5) (b : BitVec 5)
  /-- FSQRT (R131). FP32 square root. -/
  | fsqrt (d : BitVec 5) (a : BitVec 5)
  /-- FMIN (R132). FP32 minimum under R48. -/
  | fmin (d : BitVec 5) (a : BitVec 5) (b : BitVec 5)
  /-- FMAX (R132). FP32 maximum under R48. -/
  | fmax (d : BitVec 5) (a : BitVec 5) (b : BitVec 5)
  /-- FCMP (R133). FP32 compare under a condition, writing 1 or 0. -/
  | fcmp (d : BitVec 5) (a : BitVec 5) (b : BitVec 5) (c : BitVec 5)
  /-- FCVT (R134). Converts ga from format fs to format fd. -/
  | fcvt (d : BitVec 5) (a : BitVec 5) (s : BitVec 4) (f : BitVec 4)
  /-- FCLASS (R132). Writes a one-hot class mask of an FP32 value. -/
  | fclass (d : BitVec 5) (a : BitVec 5)
  /-- FSGN (R132). Copies magnitude with a sign chosen by mode. -/
  | fsgn (d : BitVec 5) (a : BitVec 5) (b : BitVec 5) (m : BitVec 5)
  /-- DADD (R135). FP64 addition on a wide core. -/
  | dadd (d : BitVec 5) (a : BitVec 5) (b : BitVec 5)
  /-- DSUB (R135). FP64 subtraction. -/
  | dsub (d : BitVec 5) (a : BitVec 5) (b : BitVec 5)
  /-- DMUL (R135). FP64 multiplication. -/
  | dmul (d : BitVec 5) (a : BitVec 5) (b : BitVec 5)
  /-- DFMA (R135). Fused FP64 multiply-add. -/
  | dfma (d : BitVec 5) (a : BitVec 5) (b : BitVec 5) (c : BitVec 5)
  /-- DDIV (R135). FP64 division. -/
  | ddiv (d : BitVec 5) (a : BitVec 5) (b : BitVec 5)
  /-- DSQRT (R135). FP64 square root. -/
  | dsqrt (d : BitVec 5) (a : BitVec 5)
  /-- DMIN (R135). FP64 minimum. -/
  | dmin (d : BitVec 5) (a : BitVec 5) (b : BitVec 5)
  /-- DMAX (R135). FP64 maximum. -/
  | dmax (d : BitVec 5) (a : BitVec 5) (b : BitVec 5)
  /-- DCMP (R135). FP64 compare under a condition. -/
  | dcmp (d : BitVec 5) (a : BitVec 5) (b : BitVec 5) (c : BitVec 5)
  /-- DCVT (R136). Converts to or from FP64. -/
  | dcvt (d : BitVec 5) (a : BitVec 5) (s : BitVec 4) (f : BitVec 4)
  /-- DCLASS (R135). Classifies an FP64 value. -/
  | dclass (d : BitVec 5) (a : BitVec 5)
  /-- DSGN (R135). FP64 sign injection. -/
  | dsgn (d : BitVec 5) (a : BitVec 5) (b : BitVec 5) (m : BitVec 5)
  /-- ORCV (R225). Removes and returns the oldest outlier entry, or 0. -/
  | orcv (d : BitVec 5)
  /-- XMAC (R225). Adds an exact FP32 product into XACC. -/
  | xmac (a : BitVec 5) (b : BitVec 5)
  /-- XRD (R225). Rounds XACC into gd. -/
  | xrd (d : BitVec 5)
  /-- CSRR (R138). Reads a CSR. -/
  | csrr (d : BitVec 5) (c : BitVec 10)
  /-- CSRW (R138). Writes a CSR and returns its old value. -/
  | csrw (d : BitVec 5) (a : BitVec 5) (c : BitVec 10)
  /-- CSRS (R138). Sets bits of a CSR and returns its old value. -/
  | csrs (d : BitVec 5) (a : BitVec 5) (c : BitVec 10)
  /-- CSRC (R138). Clears bits of a CSR and returns its old value. -/
  | csrc (d : BitVec 5) (a : BitVec 5) (c : BitVec 10)
  /-- TRAP (R141). Raises SOFTWARE, counting as executed. -/
  | trap (a : BitVec 5) (n : BitVec 5)
  /-- PARK (R143). Parks the thread with reason SLEEP for a count of cycles. -/
  | park (a : BitVec 5)
  /-- TFORK (R145). Creates a child thread in a free slot of the core if one is usable. -/
  | tfork (d : BitVec 5) (a : BitVec 5) (b : BitVec 5)
  /-- BSIG (R146). Heads a signed block; no effect beyond the fetch check. -/
  | bsig (l : BitVec 10) (c : BitVec 16)
  /-- PFX (R147). Sets a K=0 prefix for the next instruction. -/
  | pfx (a : BitVec 4) (b : BitVec 4) (d : BitVec 4) (r : BitVec 3) (s : BitVec 1) (e : BitVec 2)
  /-- PFX_TAG (R147). Sets a K=1 prefix with a tensor tag for the next instruction. -/
  | pfxTag (t : BitVec 12) (r : BitVec 3) (s : BitVec 1) (f : BitVec 4) (d : BitVec 4)
  /-- REP (R148). Captures the next n instructions for k replays. -/
  | rep (n : BitVec 4) (k : BitVec 8) (s : BitVec 4)
  /-- MBAL (R421). Reads a function's quota record. -/
  | mbal (a : BitVec 5) (d : BitVec 5) (w : BitVec 2)
  /-- MUSE (R422). Reads cumulative charges of a class. -/
  | muse (a : BitVec 5) (d : BitVec 5)
  /-- MQSET_RATE (R423). Writes a function's refill RATE. -/
  | mqsetRate (a : BitVec 5) (b : BitVec 5) (d : BitVec 5)
  /-- MQSET_CAP (R423). Writes a function's CAP. -/
  | mqsetCap (a : BitVec 5) (b : BitVec 5) (d : BitVec 5)
  /-- MQSET_DEPOSIT (R423). Adds a deposit to a function's balance. -/
  | mqsetDeposit (a : BitVec 5) (b : BitVec 5) (d : BitVec 5)
  /-- MQSET_LIMRATE (R423). Writes LIMRATE. -/
  | mqsetLimrate (a : BitVec 5) (b : BitVec 5) (d : BitVec 5)
  /-- MQSET_LIMCAP (R423). Writes LIMCAP. -/
  | mqsetLimcap (a : BitVec 5) (b : BitVec 5) (d : BitVec 5)
  /-- MQSET_UNL (R423). Writes UNL. -/
  | mqsetUnl (a : BitVec 5) (b : BitVec 5) (d : BitVec 5)
  /-- MSPLIT (R424). Reads the SHARE charged in the last window. -/
  | msplit (a : BitVec 5) (d : BitVec 5)
  /-- MSPLIT_SET (R424). Writes the lease's split MODE. -/
  | msplitSet (a : BitVec 5) (d : BitVec 5)
  /-- MFLOOR (R425). Reads a function's floor contract. -/
  | mfloor (a : BitVec 5) (b : BitVec 5) (d : BitVec 5)
  /-- MFLOOR_SET (R425). Sets a floor contract if admission allows. -/
  | mfloorSet (a : BitVec 5) (b : BitVec 5) (d : BitVec 5)
  /-- OCAL (R443). Reads a calendar entry or header. -/
  | ocal (a : BitVec 5) (d : BitVec 5)
  /-- ONEXT (R444). Describes the next direct slot to a panel. -/
  | onext (a : BitVec 5) (d : BitVec 5)
  /-- OPOL (R445). Reads the relay policy word. -/
  | opol (a : BitVec 5) (d : BitVec 5)
  /-- OPOL_SET (R445). Reads and writes the relay policy word. -/
  | opolSet (a : BitVec 5) (d : BitVec 5)
  /-- OSTAT (R445). Reads a port group word or the gate word. -/
  | ostat (a : BitVec 5) (d : BitVec 5)
  /-- DLAUNCH (R463). Enters a launch record into a function's queue. -/
  | dlaunch (a : BitVec 5) (b : BitVec 5) (d : BitVec 5)
  /-- MIGR_MOVE (R461). Orders live migration of a core context to a spare. -/
  | migrMove (a : BitVec 5) (b : BitVec 5) (d : BitVec 5)
  /-- MIGR_HOME (R461). Orders a core context back to its nominal site. -/
  | migrHome (a : BitVec 5) (b : BitVec 5) (d : BitVec 5)
  /-- MIGR_EVICT (R461). Orders eviction of a function to its save area. -/
  | migrEvict (a : BitVec 5) (b : BitVec 5) (d : BitVec 5)
  /-- MIGR_RESUME (R461). Orders restoration of an evicted function. -/
  | migrResume (a : BitVec 5) (b : BitVec 5) (d : BitVec 5)
  /-- VFCTL_READ_FIELD (R465). Reads a function or lease descriptor field. -/
  | vfctlReadField (a : BitVec 5) (b : BitVec 5) (d : BitVec 5)
  /-- VFCTL_WRITE_FIELD (R465). Writes a descriptor field and returns its old value. -/
  | vfctlWriteField (a : BitVec 5) (b : BitVec 5) (d : BitVec 5)
  /-- VFCTL_CREATE (R465). Creates a function in the lease. -/
  | vfctlCreate (a : BitVec 5) (b : BitVec 5) (d : BitVec 5)
  /-- VFCTL_DESTROY (R465). Destroys a function, withdrawing its records and its ASID. -/
  | vfctlDestroy (a : BitVec 5) (b : BitVec 5) (d : BitVec 5)
  /-- VFCTL_INVAL (R465). Invalidates translations at every port. -/
  | vfctlInval (a : BitVec 5) (b : BitVec 5) (d : BitVec 5)
  /-- VFCTL_WAKE (R465). Wakes the waiters of a page miss. -/
  | vfctlWake (a : BitVec 5) (b : BitVec 5) (d : BitVec 5)
  /-- VFCTL_REFUSE (R465). Refuses the waiters of a page miss. -/
  | vfctlRefuse (a : BitVec 5) (b : BitVec 5) (d : BitVec 5)
  /-- RIGHTS_READ (R466). Reads a rights mask. -/
  | rightsRead (a : BitVec 5) (b : BitVec 5) (d : BitVec 5)
  /-- RIGHTS_GRANT (R466). Grants bits of a rights mask. -/
  | rightsGrant (a : BitVec 5) (b : BitVec 5) (d : BitVec 5)
  /-- RIGHTS_REVOKE (R466). Revokes bits of a rights mask. -/
  | rightsRevoke (a : BitVec 5) (b : BitVec 5) (d : BitVec 5)
  /-- XACZ (R225). Clears the exact accumulator XACC. -/
  | xacz
  /-- XRET (R108). Returns from a trap or user-interrupt handler. -/
  | xret
  /-- TEXIT (R144). Parks the thread until its work drains, then frees its slot. -/
  | texit
  /-- VSHADOW (R202). Recomputes the latched vector instruction and sets lane check values. -/
  | vshadow
  /-- TACCZ (R259). Zeroes the accumulator sub-tile. -/
  | taccz
  /-- MCANCEL (R263). Discards a suspended-operation record and clears FREF. -/
  | mcancel
  /-- MCANCEL_DRAIN (R263). Consumes the record's chunk slots, then discards the record. -/
  | mcancelDrain
  /-- TELEMETRY (R341). Periodic telemetry every 1 ms. -/
  | telemetry
  /-- QUOTA_REFILL (R413). Once every microsecond BAL is refilled by RATE up to CAP. -/
  | quotaRefill
  /-- METER_WINDOW_CLOSE (R416). A 1 ms window closes and LEAK and SHARE are charged. -/
  | meterWindowClose
  /-- POWER_RECOVERY (R419). The power controller undoes its actions after 1 ms below 95 percent. -/
  | powerRecovery
  /-- CALENDAR_SLOT_START (R431). A calendar slot begins and frames may be sent. -/
  | calendarSlotStart
  /-- PLACEMENT_PASS (R458). The partition engine places or reserves for waiting launch heads. -/
  | placementPass
  /-- QUOTE_COMPLETE (R478). A signed attestation quote is formed. -/
  | quoteComplete
  /-- LINK_ENABLE (R471). Link enable moves the link from RESET to TRAIN. -/
  | linkEnable
  /-- LINK_TRAIN_DONE (R471). Every lane sees correct PRBS symbols and the link moves to ALIGN. -/
  | linkTrainDone
  /-- LINK_ALIGN_DONE (R471). Every lane locks to alignment blocks and the link becomes ACTIVE. -/
  | linkAlignDone
  /-- LINK_RETRAIN (R471). Lost alignment, repeated replays or uncorrectable codewords send the link to TRAIN. -/
  | linkRetrain
  /-- LINK_STATE_TIMEOUT (R471). A training state exceeds its limit and returns to TRAIN. -/
  | linkStateTimeout
  /-- LINK_FAILED (R469). 100 ms without ACTIVE marks the link failed. -/
  | linkFailed
  /-- POWER_UP (R476). Power-up runs the bring-up sequence. -/
  | powerUp
  /-- LINK_RESET_RETRY (R471). 1 ms after a failed attempt the link leaves RESET for TRAIN. -/
  | linkResetRetry
  deriving DecidableEq, Repr

end Sys2Proof
end

