-- ==== Sys2Proof/WellFormed.lean ====
section
/-! DEFINITION. The encodings a decoder accepts: register values, operand codes and reserved values that raise
ILLEGAL_INSN at step 4 of R61 (R58, R61, and each instruction's own description). -/

namespace Sys2Proof

/-- Width in bits of an element format code of R22 (0: no single element width). -/
def fmtWidth (f : Nat) : Nat :=
  match f with
  | 0 | 1 | 7 | 8 | 10 | 12 => 8
  | 2 | 5 | 6 => 16
  | 3 | 4 => 32
  | 9 | 11 | 13 => 4
  | 14 => 64
  | _ => 0

/-- A tile field (R58). -/
def tileOk (t : BitVec 5) : Bool := t.toNat < 16

/-- A ring field (R58). -/
def ringOk (r : BitVec 5) : Bool := r.toNat < 4

/-- A stream or collective context field (R58, R362). -/
def ctxOk (x : BitVec 5) : Bool := x.toNat < 16

/-- A mask register field (R58). -/
def maskOk (m : BitVec 3) : Bool := m.toNat < 4

/-- A mask field with its enable: a mask register when ME = 1, zero otherwise (R196). -/
def maskField (m : BitVec 3) (e : BitVec 1) : Bool := if e = 1 then maskOk m else m == 0

/-- The W and T pairs of R195 that name an element type. -/
def typeOk (w t : Nat) : Bool :=
  (w == 0 && t ≤ 1) || (w == 1 && t ≤ 3) || (w == 2 && t ≤ 2)

/-- The type is a floating-point one (R195). -/
def typeFloat (t : Nat) : Bool := 2 ≤ t

/-- Elements of width code `w` in a register (R195). -/
def elems (w : Nat) : Nat := 256 >>> w

/-- Format codes FCVT and VCVT take (R134, R213). -/
def cvtCode (f : Nat) : Bool := f ≤ 9 || f == 13

/-- Format codes DCVT takes (R136). -/
def dcvtCode (f : Nat) : Bool := cvtCode f || f == 14

/-- The part field of a VCVT (R213). -/
def cvtPart (s f k : Nat) : Bool :=
  k < max (fmtWidth s) (fmtWidth f) / min (fmtWidth s) (fmtWidth f)

/-- The part field of VQNT and VDQNT for SB8 (10) and SB4 (11) (R214, R215). -/
def blockPart (f p : Nat) : Bool := (f == 10 && p < 4) || (f == 11 && p < 8)

/-- A form of major 0x20 on all types. -/
def aluAny (w : BitVec 2) (t : BitVec 2) (m : BitVec 3) (e : BitVec 1) : Bool :=
  typeOk w.toNat t.toNat && maskField m e

/-- A form of major 0x20 on integer types only (R204). -/
def aluInt (w : BitVec 2) (t : BitVec 2) (m : BitVec 3) (e : BitVec 1) : Bool :=
  aluAny w t m e && !typeFloat t.toNat

/-- A form of VRED or VSCAN (R221). -/
def redOk (w t : BitVec 2) (o m : BitVec 3) (e : BitVec 1) : Bool :=
  aluAny w t m e && o.toNat ≤ 5 && (o.toNat ≤ 2 || !typeFloat t.toNat)

/-- The encoding rules of step 4 of R61, row by row. -/
def Instr.wf (i : Instr) : Bool :=
  match i with
  | .fcmp _ _ _ c => c.toNat ≤ 4
  | .dcmp _ _ _ c => c.toNat ≤ 4
  | .fsgn _ _ _ m => m.toNat ≤ 2
  | .dsgn _ _ _ m => m.toNat ≤ 2
  | .fcvt _ _ s f => cvtCode s.toNat && cvtCode f.toNat
  | .dcvt _ _ s f => dcvtCode s.toNat && dcvtCode f.toNat && (s.toNat == 14 || f.toNat == 14)
  | .vdadd _ _ _ m e _ => maskField m e
  | .vdsub _ _ _ m e _ => maskField m e
  | .vdmul _ _ _ m e _ => maskField m e
  | .vdfma _ _ _ m e _ => maskField m e
  | .vdmin _ _ _ m e _ => maskField m e
  | .vdmax _ _ _ m e _ => maskField m e
  | .vdwid _ _ k m e s => maskField m e && k.toNat ≤ 1 && s == 0
  | .vdnar _ _ k m e s => maskField m e && k.toNat ≤ 1 && s == 0
  | .bsig l _ => l != 0
  | .ld _ _ z _ => z.toNat != 7
  | .st _ _ z _ => z.toNat < 4
  | .segr _ f _ => f.toNat != 3
  | .segw _ f _ => f.toNat != 3
  | .vadd _ _ _ m w e t _ => aluAny w t m e
  | .vsub _ _ _ m w e t _ => aluAny w t m e
  | .vmul _ _ _ m w e t _ => aluAny w t m e
  | .vfma _ _ _ m w e t _ => aluAny w t m e && typeFloat t.toNat
  | .vmin _ _ _ m w e t _ => aluAny w t m e
  | .vmax _ _ _ m w e t _ => aluAny w t m e
  | .vamin _ _ _ m w e t _ => aluAny w t m e
  | .vamax _ _ _ m w e t _ => aluAny w t m e
  | .vand _ _ _ m w e t _ => aluInt w t m e
  | .vor _ _ _ m w e t _ => aluInt w t m e
  | .vxor _ _ _ m w e t _ => aluInt w t m e
  | .vshl _ _ _ m w e t _ => aluInt w t m e
  | .vshr _ _ _ m w e t _ => aluInt w t m e
  | .vsha _ _ _ m w e t _ => aluInt w t m e
  | .vcmp d _ _ m w e t _ c =>
    maskOk d && aluAny w t m e && c.toNat ≤ 4 && (c.toNat != 4 || typeFloat t.toNat)
  | .vsel _ _ _ m _ => maskOk m
  | .vld _ m e _ _ => maskField m e
  | .vst _ m e _ _ => maskField m e
  | .vldx _ _ m e _ _ => maskField m e
  | .vstx _ _ m e _ _ => maskField m e
  | .vcvt _ _ k m s f e =>
    cvtCode s.toNat && cvtCode f.toNat && cvtPart s.toNat f.toNat k.toNat && maskField m e
  | .vqnt _ _ _ p f => blockPart f.toNat p.toNat
  | .vdqnt _ _ _ p s => blockPart s.toNat p.toNat
  | .vqsplit _ _ _ o => maskOk o
  | .vshup _ _ _ w n => w.toNat < 3 && n.toNat ≤ elems w.toNat
  | .vshdn _ _ _ w n => w.toNat < 3 && n.toNat ≤ elems w.toNat
  | .vrot _ _ w n => w.toNat < 3 && n.toNat < elems w.toNat
  | .vperm _ _ _ m w e => w.toNat < 3 && maskField m e
  | .vbcast _ w _ => w.toNat < 3
  | .vext _ _ w _ _ => w.toNat < 3
  | .vins _ _ w _ => w.toNat < 3
  | .vred _ _ m w e t o => redOk w t o m e
  | .vscan _ _ m w e t o => redOk w t o m e
  | .vdot _ _ _ m w e t => maskField m e && (if w = 1 then typeFloat t.toNat else t.toNat ≤ 1)
  | .vexp2 _ _ m e => maskField m e
  | .vlog2 _ _ m e => maskField m e
  | .vrcp _ _ m e => maskField m e
  | .vrsq _ _ m e => maskField m e
  | .vmand d a b => maskOk d && maskOk a && maskOk b
  | .vmor d a b => maskOk d && maskOk a && maskOk b
  | .vpopc a _ => maskOk a
  | .tld _ _ t => tileOk t
  | .tldRing _ _ r => ringOk r
  | .tst _ _ s => tileOk s
  | .tzero d => tileOk d
  | .tmov a d => tileOk a && tileOk d
  | .ttrans a d => tileOk a && tileOk d
  | .tmma a b => tileOk a && tileOk b
  | .tmmas a b => ringOk a && ringOk b
  | .tmmasp a b => ringOk a && ringOk b
  | .taccr d _ => tileOk d
  | .ringdef _ r => ringOk r
  | .twait _ r _ => ringOk r
  | .tfree _ r => ringOk r
  | .tadv _ r => ringOk r
  | .tsend a _ r => tileOk a && ringOk r
  | .sdesc _ s => ctxOk s
  | .sbind s k n => ctxOk s && k.toNat != 3 && (k.toNat != 2 || n.toNat ≤ 3)
  | .sunbind s => ctxOk s
  | .spos s _ => ctxOk s
  | .sposSet _ s _ => ctxOk s
  | .sskip _ s => ctxOk s
  | .sflush s => ctxOk s
  | .sstat s _ => ctxOk s
  | .recv h d => d.toNat % 2 == 0 && d != 0 && h != d && h != d + 1
  | .recvt _ h d => d.toNat % 2 == 0 && d != 0 && h != d && h != d + 1
  | .cdef _ c => ctxOk c
  | .cwatch _ c _ => ctxOk c
  | .cwatchOff c => ctxOk c
  | .cstart c => ctxOk c
  | .cstat c _ => ctxOk c
  | .cbw _ c => ctxOk c
  | .cabort c _ => ctxOk c
  | .ebrd _ _ w => w.toNat != 3
  | _ => true

end Sys2Proof
end

