-- ==== Sys2Proof/Decode.lean ====
section
/-! DEFINITION. The decoder, total on words and on bytes, and the encoder, both from the encoding tables of the spec
(R56 to R61, R64, R67, R72 and each chapter's own table). -/

namespace Sys2Proof

/-- Words of major 0x01. -/
noncomputable def raw01 (w : Half) : Option Instr :=
  if w.extractLsb' 0 6 = 0#6 then if w.extractLsb' 6 5 = 0#5 then some (.add (w.extractLsb' 21 5) (w.extractLsb' 16 5) (w.extractLsb' 11 5)) else none else
  if w.extractLsb' 0 6 = 1#6 then if w.extractLsb' 6 5 = 0#5 then some (.sub (w.extractLsb' 21 5) (w.extractLsb' 16 5) (w.extractLsb' 11 5)) else none else
  if w.extractLsb' 0 6 = 2#6 then if w.extractLsb' 6 5 = 0#5 then some (.mul (w.extractLsb' 21 5) (w.extractLsb' 16 5) (w.extractLsb' 11 5)) else none else
  if w.extractLsb' 0 6 = 3#6 then if w.extractLsb' 6 5 = 0#5 then some (.mulh (w.extractLsb' 21 5) (w.extractLsb' 16 5) (w.extractLsb' 11 5)) else none else
  if w.extractLsb' 0 6 = 4#6 then if w.extractLsb' 6 5 = 0#5 then some (.mulhu (w.extractLsb' 21 5) (w.extractLsb' 16 5) (w.extractLsb' 11 5)) else none else
  if w.extractLsb' 0 6 = 5#6 then if w.extractLsb' 6 5 = 0#5 then some (.div (w.extractLsb' 21 5) (w.extractLsb' 16 5) (w.extractLsb' 11 5)) else none else
  if w.extractLsb' 0 6 = 6#6 then if w.extractLsb' 6 5 = 0#5 then some (.divu (w.extractLsb' 21 5) (w.extractLsb' 16 5) (w.extractLsb' 11 5)) else none else
  if w.extractLsb' 0 6 = 7#6 then if w.extractLsb' 6 5 = 0#5 then some (.rem (w.extractLsb' 21 5) (w.extractLsb' 16 5) (w.extractLsb' 11 5)) else none else
  if w.extractLsb' 0 6 = 8#6 then if w.extractLsb' 6 5 = 0#5 then some (.remu (w.extractLsb' 21 5) (w.extractLsb' 16 5) (w.extractLsb' 11 5)) else none else
  if w.extractLsb' 0 6 = 16#6 then if w.extractLsb' 6 5 = 0#5 then some (.and (w.extractLsb' 21 5) (w.extractLsb' 16 5) (w.extractLsb' 11 5)) else none else
  if w.extractLsb' 0 6 = 17#6 then if w.extractLsb' 6 5 = 0#5 then some (.or (w.extractLsb' 21 5) (w.extractLsb' 16 5) (w.extractLsb' 11 5)) else none else
  if w.extractLsb' 0 6 = 18#6 then if w.extractLsb' 6 5 = 0#5 then some (.xor (w.extractLsb' 21 5) (w.extractLsb' 16 5) (w.extractLsb' 11 5)) else none else
  if w.extractLsb' 0 6 = 19#6 then if w.extractLsb' 6 5 = 0#5 then some (.andn (w.extractLsb' 21 5) (w.extractLsb' 16 5) (w.extractLsb' 11 5)) else none else
  if w.extractLsb' 0 6 = 20#6 then if w.extractLsb' 6 5 = 0#5 then some (.shl (w.extractLsb' 21 5) (w.extractLsb' 16 5) (w.extractLsb' 11 5)) else none else
  if w.extractLsb' 0 6 = 21#6 then if w.extractLsb' 6 5 = 0#5 then some (.shr (w.extractLsb' 21 5) (w.extractLsb' 16 5) (w.extractLsb' 11 5)) else none else
  if w.extractLsb' 0 6 = 22#6 then if w.extractLsb' 6 5 = 0#5 then some (.sha (w.extractLsb' 21 5) (w.extractLsb' 16 5) (w.extractLsb' 11 5)) else none else
  if w.extractLsb' 0 6 = 23#6 then if w.extractLsb' 6 5 = 0#5 then some (.rol (w.extractLsb' 21 5) (w.extractLsb' 16 5) (w.extractLsb' 11 5)) else none else
  if w.extractLsb' 0 6 = 24#6 then if w.extractLsb' 6 10 = 0#10 then some (.clz (w.extractLsb' 21 5) (w.extractLsb' 16 5)) else none else
  if w.extractLsb' 0 6 = 25#6 then if w.extractLsb' 6 10 = 0#10 then some (.ctz (w.extractLsb' 21 5) (w.extractLsb' 16 5)) else none else
  if w.extractLsb' 0 6 = 26#6 then if w.extractLsb' 6 10 = 0#10 then some (.popc (w.extractLsb' 21 5) (w.extractLsb' 16 5)) else none else
  if w.extractLsb' 0 6 = 32#6 then if w.extractLsb' 6 5 = 0#5 then some (.min (w.extractLsb' 21 5) (w.extractLsb' 16 5) (w.extractLsb' 11 5)) else none else
  if w.extractLsb' 0 6 = 33#6 then if w.extractLsb' 6 5 = 0#5 then some (.max (w.extractLsb' 21 5) (w.extractLsb' 16 5) (w.extractLsb' 11 5)) else none else
  if w.extractLsb' 0 6 = 34#6 then if w.extractLsb' 6 5 = 0#5 then some (.minu (w.extractLsb' 21 5) (w.extractLsb' 16 5) (w.extractLsb' 11 5)) else none else
  if w.extractLsb' 0 6 = 35#6 then if w.extractLsb' 6 5 = 0#5 then some (.maxu (w.extractLsb' 21 5) (w.extractLsb' 16 5) (w.extractLsb' 11 5)) else none else
  if w.extractLsb' 0 6 = 36#6 then if w.extractLsb' 6 5 = 0#5 then some (.slt (w.extractLsb' 21 5) (w.extractLsb' 16 5) (w.extractLsb' 11 5)) else none else
  if w.extractLsb' 0 6 = 37#6 then if w.extractLsb' 6 5 = 0#5 then some (.sltu (w.extractLsb' 21 5) (w.extractLsb' 16 5) (w.extractLsb' 11 5)) else none else
  if w.extractLsb' 0 6 = 38#6 then if w.extractLsb' 6 5 = 0#5 then some (.seq (w.extractLsb' 21 5) (w.extractLsb' 16 5) (w.extractLsb' 11 5)) else none else
  if w.extractLsb' 0 6 = 39#6 then some (.sel (w.extractLsb' 21 5) (w.extractLsb' 16 5) (w.extractLsb' 11 5) (w.extractLsb' 6 5)) else
  if w.extractLsb' 0 6 = 40#6 then if w.extractLsb' 9 2 = 0#2 then some (.addsc (w.extractLsb' 21 5) (w.extractLsb' 16 5) (w.extractLsb' 11 5) (w.extractLsb' 6 3)) else none else
  if w.extractLsb' 0 6 = 48#6 then if w.extractLsb' 11 5 = 0#5 then some (.exts (w.extractLsb' 21 5) (w.extractLsb' 16 5) (w.extractLsb' 6 5)) else none else
  if w.extractLsb' 0 6 = 49#6 then if w.extractLsb' 11 5 = 0#5 then some (.extz (w.extractLsb' 21 5) (w.extractLsb' 16 5) (w.extractLsb' 6 5)) else none else
  if w.extractLsb' 0 6 = 50#6 then if w.extractLsb' 6 5 = 0#5 then some (.bext (w.extractLsb' 21 5) (w.extractLsb' 16 5) (w.extractLsb' 11 5)) else none else
  if w.extractLsb' 0 6 = 51#6 then if w.extractLsb' 6 5 = 0#5 then some (.bins (w.extractLsb' 21 5) (w.extractLsb' 16 5) (w.extractLsb' 11 5)) else none else
  if w.extractLsb' 0 6 = 56#6 then if w.extractLsb' 6 15 = 0#15 then some (.coreid (w.extractLsb' 21 5)) else none else
  if w.extractLsb' 0 6 = 57#6 then if w.extractLsb' 6 5 = 0#5 then some (.cxy (w.extractLsb' 21 5) (w.extractLsb' 16 5) (w.extractLsb' 11 5)) else none else
  if w.extractLsb' 0 6 = 58#6 then if w.extractLsb' 6 5 = 0#5 then some (.crel (w.extractLsb' 21 5) (w.extractLsb' 16 5) (w.extractLsb' 11 5)) else none else
  none

/-- Words of major 0x02. -/
noncomputable def raw02 (w : Half) : Option Instr :=
  some (.addi (w.extractLsb' 21 5) (w.extractLsb' 16 5) (w.extractLsb' 0 16))

/-- Words of major 0x03. -/
noncomputable def raw03 (w : Half) : Option Instr :=
  some (.andi (w.extractLsb' 21 5) (w.extractLsb' 16 5) (w.extractLsb' 0 16))

/-- Words of major 0x04. -/
noncomputable def raw04 (w : Half) : Option Instr :=
  some (.ori (w.extractLsb' 21 5) (w.extractLsb' 16 5) (w.extractLsb' 0 16))

/-- Words of major 0x05. -/
noncomputable def raw05 (w : Half) : Option Instr :=
  some (.xori (w.extractLsb' 21 5) (w.extractLsb' 16 5) (w.extractLsb' 0 16))

/-- Words of major 0x06. -/
noncomputable def raw06 (w : Half) : Option Instr :=
  some (.slti (w.extractLsb' 21 5) (w.extractLsb' 16 5) (w.extractLsb' 0 16))

/-- Words of major 0x07. -/
noncomputable def raw07 (w : Half) : Option Instr :=
  some (.sltui (w.extractLsb' 21 5) (w.extractLsb' 16 5) (w.extractLsb' 0 16))

/-- Words of major 0x08. -/
noncomputable def raw08 (w : Half) : Option Instr :=
  if w.extractLsb' 6 2 = 0#2 then if w.extractLsb' 8 8 = 0#8 then some (.shli (w.extractLsb' 21 5) (w.extractLsb' 16 5) (w.extractLsb' 0 6)) else none else
  if w.extractLsb' 6 2 = 1#2 then if w.extractLsb' 8 8 = 0#8 then some (.shri (w.extractLsb' 21 5) (w.extractLsb' 16 5) (w.extractLsb' 0 6)) else none else
  if w.extractLsb' 6 2 = 2#2 then if w.extractLsb' 8 8 = 0#8 then some (.shai (w.extractLsb' 21 5) (w.extractLsb' 16 5) (w.extractLsb' 0 6)) else none else
  if w.extractLsb' 6 2 = 3#2 then if w.extractLsb' 8 8 = 0#8 then some (.roli (w.extractLsb' 21 5) (w.extractLsb' 16 5) (w.extractLsb' 0 6)) else none else
  none

/-- Words of major 0x09. -/
noncomputable def raw09 (w : Half) : Option Instr :=
  some (.lhi (w.extractLsb' 21 5) (w.extractLsb' 16 5) (w.extractLsb' 0 16))

/-- Words of major 0x0A. -/
noncomputable def raw0A (w : Half) : Option Instr :=
  if w.extractLsb' 0 6 = 0#6 then if w.extractLsb' 6 5 = 0#5 then some (.fadd (w.extractLsb' 21 5) (w.extractLsb' 16 5) (w.extractLsb' 11 5)) else none else
  if w.extractLsb' 0 6 = 1#6 then if w.extractLsb' 6 5 = 0#5 then some (.fsub (w.extractLsb' 21 5) (w.extractLsb' 16 5) (w.extractLsb' 11 5)) else none else
  if w.extractLsb' 0 6 = 2#6 then if w.extractLsb' 6 5 = 0#5 then some (.fmul (w.extractLsb' 21 5) (w.extractLsb' 16 5) (w.extractLsb' 11 5)) else none else
  if w.extractLsb' 0 6 = 3#6 then some (.fma (w.extractLsb' 21 5) (w.extractLsb' 16 5) (w.extractLsb' 11 5) (w.extractLsb' 6 5)) else
  if w.extractLsb' 0 6 = 4#6 then if w.extractLsb' 6 5 = 0#5 then some (.fdiv (w.extractLsb' 21 5) (w.extractLsb' 16 5) (w.extractLsb' 11 5)) else none else
  if w.extractLsb' 0 6 = 5#6 then if w.extractLsb' 6 10 = 0#10 then some (.fsqrt (w.extractLsb' 21 5) (w.extractLsb' 16 5)) else none else
  if w.extractLsb' 0 6 = 6#6 then if w.extractLsb' 6 5 = 0#5 then some (.fmin (w.extractLsb' 21 5) (w.extractLsb' 16 5) (w.extractLsb' 11 5)) else none else
  if w.extractLsb' 0 6 = 7#6 then if w.extractLsb' 6 5 = 0#5 then some (.fmax (w.extractLsb' 21 5) (w.extractLsb' 16 5) (w.extractLsb' 11 5)) else none else
  if w.extractLsb' 0 6 = 8#6 then some (.fcmp (w.extractLsb' 21 5) (w.extractLsb' 16 5) (w.extractLsb' 11 5) (w.extractLsb' 6 5)) else
  if w.extractLsb' 0 6 = 9#6 then if w.extractLsb' 15 1 = 0#1 ∧ w.extractLsb' 10 1 = 0#1 then some (.fcvt (w.extractLsb' 21 5) (w.extractLsb' 16 5) (w.extractLsb' 11 4) (w.extractLsb' 6 4)) else none else
  if w.extractLsb' 0 6 = 10#6 then if w.extractLsb' 6 10 = 0#10 then some (.fclass (w.extractLsb' 21 5) (w.extractLsb' 16 5)) else none else
  if w.extractLsb' 0 6 = 11#6 then some (.fsgn (w.extractLsb' 21 5) (w.extractLsb' 16 5) (w.extractLsb' 11 5) (w.extractLsb' 6 5)) else
  none

/-- Words of major 0x0C. -/
noncomputable def raw0C (w : Half) : Option Instr :=
  some (.beq (w.extractLsb' 21 5) (w.extractLsb' 16 5) (w.extractLsb' 0 16))

/-- Words of major 0x0D. -/
noncomputable def raw0D (w : Half) : Option Instr :=
  some (.bne (w.extractLsb' 21 5) (w.extractLsb' 16 5) (w.extractLsb' 0 16))

/-- Words of major 0x0E. -/
noncomputable def raw0E (w : Half) : Option Instr :=
  some (.blt (w.extractLsb' 21 5) (w.extractLsb' 16 5) (w.extractLsb' 0 16))

/-- Words of major 0x0F. -/
noncomputable def raw0F (w : Half) : Option Instr :=
  some (.bge (w.extractLsb' 21 5) (w.extractLsb' 16 5) (w.extractLsb' 0 16))

/-- Words of major 0x10. -/
noncomputable def raw10 (w : Half) : Option Instr :=
  some (.bltu (w.extractLsb' 21 5) (w.extractLsb' 16 5) (w.extractLsb' 0 16))

/-- Words of major 0x11. -/
noncomputable def raw11 (w : Half) : Option Instr :=
  some (.bgeu (w.extractLsb' 21 5) (w.extractLsb' 16 5) (w.extractLsb' 0 16))

/-- Words of major 0x12. -/
noncomputable def raw12 (w : Half) : Option Instr :=
  some (.loop (w.extractLsb' 21 5) (w.extractLsb' 16 5) (w.extractLsb' 0 16))

/-- Words of major 0x13. -/
noncomputable def raw13 (w : Half) : Option Instr :=
  some (.j (w.extractLsb' 0 26))

/-- Words of major 0x14. -/
noncomputable def raw14 (w : Half) : Option Instr :=
  some (.jal (w.extractLsb' 0 26))

/-- Words of major 0x15. -/
noncomputable def raw15 (w : Half) : Option Instr :=
  some (.jalr (w.extractLsb' 21 5) (w.extractLsb' 16 5) (w.extractLsb' 0 16))

/-- Words of major 0x16. -/
noncomputable def raw16 (w : Half) : Option Instr :=
  some (.ld (w.extractLsb' 21 5) (w.extractLsb' 16 5) (w.extractLsb' 13 3) (w.extractLsb' 0 13))

/-- Words of major 0x17. -/
noncomputable def raw17 (w : Half) : Option Instr :=
  some (.st (w.extractLsb' 21 5) (w.extractLsb' 16 5) (w.extractLsb' 13 3) (w.extractLsb' 0 13))

/-- Words of major 0x18. -/
noncomputable def raw18 (w : Half) : Option Instr :=
  if w.extractLsb' 13 3 = 0#3 then some (.ldaWord (w.extractLsb' 21 5) (w.extractLsb' 16 5) (w.extractLsb' 8 5) (w.extractLsb' 0 8)) else
  if w.extractLsb' 13 3 = 1#3 then some (.lda (w.extractLsb' 21 5) (w.extractLsb' 16 5) (w.extractLsb' 8 5) (w.extractLsb' 0 8)) else
  if w.extractLsb' 13 3 = 2#3 then some (.lde (w.extractLsb' 21 5) (w.extractLsb' 16 5) (w.extractLsb' 0 13)) else
  if w.extractLsb' 13 3 = 3#3 then some (.ldf (w.extractLsb' 21 5) (w.extractLsb' 16 5) (w.extractLsb' 0 13)) else
  if w.extractLsb' 13 3 = 4#3 then some (.feprobe (w.extractLsb' 21 5) (w.extractLsb' 16 5) (w.extractLsb' 0 13)) else
  none

/-- Words of major 0x19. -/
noncomputable def raw19 (w : Half) : Option Instr :=
  if w.extractLsb' 13 3 = 0#3 then some (.stlWord (w.extractLsb' 21 5) (w.extractLsb' 16 5) (w.extractLsb' 8 5) (w.extractLsb' 0 8)) else
  if w.extractLsb' 13 3 = 1#3 then some (.stl (w.extractLsb' 21 5) (w.extractLsb' 16 5) (w.extractLsb' 8 5) (w.extractLsb' 0 8)) else
  if w.extractLsb' 13 3 = 2#3 then some (.stf (w.extractLsb' 21 5) (w.extractLsb' 16 5) (w.extractLsb' 0 13)) else
  if w.extractLsb' 13 3 = 3#3 then if w.extractLsb' 21 5 = 0#5 then some (.feclr (w.extractLsb' 16 5) (w.extractLsb' 0 13)) else none else
  none

/-- Words of major 0x1A. -/
noncomputable def raw1A (w : Half) : Option Instr :=
  if w.extractLsb' 0 5 = 0#5 then some (.amoadd (w.extractLsb' 21 5) (w.extractLsb' 16 5) (w.extractLsb' 11 5) (w.extractLsb' 6 5) (w.extractLsb' 5 1)) else
  if w.extractLsb' 0 5 = 1#5 then some (.amoand (w.extractLsb' 21 5) (w.extractLsb' 16 5) (w.extractLsb' 11 5) (w.extractLsb' 6 5) (w.extractLsb' 5 1)) else
  if w.extractLsb' 0 5 = 2#5 then some (.amoor (w.extractLsb' 21 5) (w.extractLsb' 16 5) (w.extractLsb' 11 5) (w.extractLsb' 6 5) (w.extractLsb' 5 1)) else
  if w.extractLsb' 0 5 = 3#5 then some (.amoxor (w.extractLsb' 21 5) (w.extractLsb' 16 5) (w.extractLsb' 11 5) (w.extractLsb' 6 5) (w.extractLsb' 5 1)) else
  if w.extractLsb' 0 5 = 4#5 then some (.amomin (w.extractLsb' 21 5) (w.extractLsb' 16 5) (w.extractLsb' 11 5) (w.extractLsb' 6 5) (w.extractLsb' 5 1)) else
  if w.extractLsb' 0 5 = 5#5 then some (.amomax (w.extractLsb' 21 5) (w.extractLsb' 16 5) (w.extractLsb' 11 5) (w.extractLsb' 6 5) (w.extractLsb' 5 1)) else
  if w.extractLsb' 0 5 = 6#5 then some (.amoswp (w.extractLsb' 21 5) (w.extractLsb' 16 5) (w.extractLsb' 11 5) (w.extractLsb' 6 5) (w.extractLsb' 5 1)) else
  if w.extractLsb' 0 5 = 7#5 then some (.cas (w.extractLsb' 21 5) (w.extractLsb' 16 5) (w.extractLsb' 11 5) (w.extractLsb' 6 5) (w.extractLsb' 5 1)) else
  if w.extractLsb' 0 5 = 8#5 then if w.extractLsb' 5 1 = 0#1 then some (.faddf (w.extractLsb' 21 5) (w.extractLsb' 16 5) (w.extractLsb' 11 5) (w.extractLsb' 6 5)) else none else
  none

/-- Words of major 0x1B. -/
noncomputable def raw1B (w : Half) : Option Instr :=
  if w.extractLsb' 0 6 = 0#6 then (if w.extractLsb' 21 5 = 0#5 ∧ w.extractLsb' 6 10 = 1#10 then some (.fenceAcq (w.extractLsb' 16 5)) else if w.extractLsb' 21 5 = 0#5 ∧ w.extractLsb' 6 10 = 2#10 then some (.fenceRel (w.extractLsb' 16 5)) else if w.extractLsb' 21 5 = 0#5 ∧ w.extractLsb' 6 10 = 3#10 then some (.fenceFull (w.extractLsb' 16 5)) else none) else
  if w.extractLsb' 0 6 = 1#6 then if w.extractLsb' 11 10 = 0#10 then some (.segr (w.extractLsb' 21 5) (w.extractLsb' 9 2) (w.extractLsb' 6 3)) else none else
  if w.extractLsb' 0 6 = 2#6 then if w.extractLsb' 21 5 = 0#5 ∧ w.extractLsb' 11 5 = 0#5 then some (.segw (w.extractLsb' 16 5) (w.extractLsb' 9 2) (w.extractLsb' 6 3)) else none else
  none

/-- Words of major 0x1C. -/
noncomputable def raw1C (w : Half) : Option Instr :=
  if w.extractLsb' 0 6 = 0#6 then if w.extractLsb' 16 5 = 0#5 then some (.csrr (w.extractLsb' 21 5) (w.extractLsb' 6 10)) else none else
  if w.extractLsb' 0 6 = 1#6 then some (.csrw (w.extractLsb' 21 5) (w.extractLsb' 16 5) (w.extractLsb' 6 10)) else
  if w.extractLsb' 0 6 = 2#6 then some (.csrs (w.extractLsb' 21 5) (w.extractLsb' 16 5) (w.extractLsb' 6 10)) else
  if w.extractLsb' 0 6 = 3#6 then some (.csrc (w.extractLsb' 21 5) (w.extractLsb' 16 5) (w.extractLsb' 6 10)) else
  if w.extractLsb' 0 6 = 8#6 then if w.extractLsb' 21 5 = 0#5 ∧ w.extractLsb' 11 5 = 0#5 then some (.trap (w.extractLsb' 16 5) (w.extractLsb' 6 5)) else none else
  if w.extractLsb' 0 6 = 9#6 then if w.extractLsb' 6 20 = 0#20 then some (.xret) else none else
  if w.extractLsb' 0 6 = 10#6 then if w.extractLsb' 21 5 = 0#5 ∧ w.extractLsb' 6 10 = 0#10 then some (.park (w.extractLsb' 16 5)) else none else
  if w.extractLsb' 0 6 = 11#6 then if w.extractLsb' 6 20 = 0#20 then some (.texit) else none else
  if w.extractLsb' 0 6 = 12#6 then if w.extractLsb' 6 5 = 0#5 then some (.tfork (w.extractLsb' 21 5) (w.extractLsb' 16 5) (w.extractLsb' 11 5)) else none else
  none

/-- Words of major 0x1D. -/
noncomputable def raw1D (w : Half) : Option Instr :=
  some (.bsig (w.extractLsb' 16 10) (w.extractLsb' 0 16))

/-- Words of major 0x1E. -/
noncomputable def raw1E (w : Half) : Option Instr :=
  if w.extractLsb' 25 1 = 0#1 then if w.extractLsb' 0 7 = 0#7 then some (.pfx (w.extractLsb' 21 4) (w.extractLsb' 17 4) (w.extractLsb' 13 4) (w.extractLsb' 10 3) (w.extractLsb' 9 1) (w.extractLsb' 7 2)) else none else
  if w.extractLsb' 25 1 = 1#1 then if w.extractLsb' 0 1 = 0#1 then some (.pfxTag (w.extractLsb' 13 12) (w.extractLsb' 10 3) (w.extractLsb' 9 1) (w.extractLsb' 5 4) (w.extractLsb' 1 4)) else none else
  none

/-- Words of major 0x1F. -/
noncomputable def raw1F (w : Half) : Option Instr :=
  if w.extractLsb' 0 10 = 0#10 then some (.rep (w.extractLsb' 22 4) (w.extractLsb' 14 8) (w.extractLsb' 10 4)) else none

/-- Words of major 0x20. -/
def raw20 (w : Half) : Option Instr :=
  if w.extractLsb' 3 3 = 2#3 then if w.extractLsb' 6 2 = 0#2 then some (.vcmp (w.extractLsb' 23 3) (w.extractLsb' 20 3) (w.extractLsb' 17 3) (w.extractLsb' 14 3) (w.extractLsb' 12 2) (w.extractLsb' 11 1) (w.extractLsb' 9 2) (w.extractLsb' 8 1) (w.extractLsb' 0 3)) else none else
  if w.extractLsb' 0 3 = 0#3 ∧ w.extractLsb' 3 3 = 0#3 then if w.extractLsb' 6 2 = 0#2 then some (.vadd (w.extractLsb' 23 3) (w.extractLsb' 20 3) (w.extractLsb' 17 3) (w.extractLsb' 14 3) (w.extractLsb' 12 2) (w.extractLsb' 11 1) (w.extractLsb' 9 2) (w.extractLsb' 8 1)) else none else
  if w.extractLsb' 0 3 = 1#3 ∧ w.extractLsb' 3 3 = 0#3 then if w.extractLsb' 6 2 = 0#2 then some (.vsub (w.extractLsb' 23 3) (w.extractLsb' 20 3) (w.extractLsb' 17 3) (w.extractLsb' 14 3) (w.extractLsb' 12 2) (w.extractLsb' 11 1) (w.extractLsb' 9 2) (w.extractLsb' 8 1)) else none else
  if w.extractLsb' 0 3 = 2#3 ∧ w.extractLsb' 3 3 = 0#3 then if w.extractLsb' 6 2 = 0#2 then some (.vmul (w.extractLsb' 23 3) (w.extractLsb' 20 3) (w.extractLsb' 17 3) (w.extractLsb' 14 3) (w.extractLsb' 12 2) (w.extractLsb' 11 1) (w.extractLsb' 9 2) (w.extractLsb' 8 1)) else none else
  if w.extractLsb' 0 3 = 3#3 ∧ w.extractLsb' 3 3 = 0#3 then if w.extractLsb' 6 2 = 0#2 then some (.vfma (w.extractLsb' 23 3) (w.extractLsb' 20 3) (w.extractLsb' 17 3) (w.extractLsb' 14 3) (w.extractLsb' 12 2) (w.extractLsb' 11 1) (w.extractLsb' 9 2) (w.extractLsb' 8 1)) else none else
  if w.extractLsb' 0 3 = 4#3 ∧ w.extractLsb' 3 3 = 0#3 then if w.extractLsb' 6 2 = 0#2 then some (.vmin (w.extractLsb' 23 3) (w.extractLsb' 20 3) (w.extractLsb' 17 3) (w.extractLsb' 14 3) (w.extractLsb' 12 2) (w.extractLsb' 11 1) (w.extractLsb' 9 2) (w.extractLsb' 8 1)) else none else
  if w.extractLsb' 0 3 = 5#3 ∧ w.extractLsb' 3 3 = 0#3 then if w.extractLsb' 6 2 = 0#2 then some (.vmax (w.extractLsb' 23 3) (w.extractLsb' 20 3) (w.extractLsb' 17 3) (w.extractLsb' 14 3) (w.extractLsb' 12 2) (w.extractLsb' 11 1) (w.extractLsb' 9 2) (w.extractLsb' 8 1)) else none else
  if w.extractLsb' 0 3 = 6#3 ∧ w.extractLsb' 3 3 = 0#3 then if w.extractLsb' 6 2 = 0#2 then some (.vamin (w.extractLsb' 23 3) (w.extractLsb' 20 3) (w.extractLsb' 17 3) (w.extractLsb' 14 3) (w.extractLsb' 12 2) (w.extractLsb' 11 1) (w.extractLsb' 9 2) (w.extractLsb' 8 1)) else none else
  if w.extractLsb' 0 3 = 7#3 ∧ w.extractLsb' 3 3 = 0#3 then if w.extractLsb' 6 2 = 0#2 then some (.vamax (w.extractLsb' 23 3) (w.extractLsb' 20 3) (w.extractLsb' 17 3) (w.extractLsb' 14 3) (w.extractLsb' 12 2) (w.extractLsb' 11 1) (w.extractLsb' 9 2) (w.extractLsb' 8 1)) else none else
  if w.extractLsb' 0 3 = 0#3 ∧ w.extractLsb' 3 3 = 1#3 then if w.extractLsb' 6 2 = 0#2 then some (.vand (w.extractLsb' 23 3) (w.extractLsb' 20 3) (w.extractLsb' 17 3) (w.extractLsb' 14 3) (w.extractLsb' 12 2) (w.extractLsb' 11 1) (w.extractLsb' 9 2) (w.extractLsb' 8 1)) else none else
  if w.extractLsb' 0 3 = 1#3 ∧ w.extractLsb' 3 3 = 1#3 then if w.extractLsb' 6 2 = 0#2 then some (.vor (w.extractLsb' 23 3) (w.extractLsb' 20 3) (w.extractLsb' 17 3) (w.extractLsb' 14 3) (w.extractLsb' 12 2) (w.extractLsb' 11 1) (w.extractLsb' 9 2) (w.extractLsb' 8 1)) else none else
  if w.extractLsb' 0 3 = 2#3 ∧ w.extractLsb' 3 3 = 1#3 then if w.extractLsb' 6 2 = 0#2 then some (.vxor (w.extractLsb' 23 3) (w.extractLsb' 20 3) (w.extractLsb' 17 3) (w.extractLsb' 14 3) (w.extractLsb' 12 2) (w.extractLsb' 11 1) (w.extractLsb' 9 2) (w.extractLsb' 8 1)) else none else
  if w.extractLsb' 0 3 = 3#3 ∧ w.extractLsb' 3 3 = 1#3 then if w.extractLsb' 6 2 = 0#2 then some (.vshl (w.extractLsb' 23 3) (w.extractLsb' 20 3) (w.extractLsb' 17 3) (w.extractLsb' 14 3) (w.extractLsb' 12 2) (w.extractLsb' 11 1) (w.extractLsb' 9 2) (w.extractLsb' 8 1)) else none else
  if w.extractLsb' 0 3 = 4#3 ∧ w.extractLsb' 3 3 = 1#3 then if w.extractLsb' 6 2 = 0#2 then some (.vshr (w.extractLsb' 23 3) (w.extractLsb' 20 3) (w.extractLsb' 17 3) (w.extractLsb' 14 3) (w.extractLsb' 12 2) (w.extractLsb' 11 1) (w.extractLsb' 9 2) (w.extractLsb' 8 1)) else none else
  if w.extractLsb' 0 3 = 5#3 ∧ w.extractLsb' 3 3 = 1#3 then if w.extractLsb' 6 2 = 0#2 then some (.vsha (w.extractLsb' 23 3) (w.extractLsb' 20 3) (w.extractLsb' 17 3) (w.extractLsb' 14 3) (w.extractLsb' 12 2) (w.extractLsb' 11 1) (w.extractLsb' 9 2) (w.extractLsb' 8 1)) else none else
  if w.extractLsb' 0 3 = 0#3 ∧ w.extractLsb' 3 3 = 3#3 then if w.extractLsb' 9 5 = 20#5 ∧ w.extractLsb' 6 2 = 0#2 then some (.vsel (w.extractLsb' 23 3) (w.extractLsb' 20 3) (w.extractLsb' 17 3) (w.extractLsb' 14 3) (w.extractLsb' 8 1)) else none else
  none

/-- Words of major 0x21. -/
def raw21 (w : Half) : Option Instr :=
  if w.extractLsb' 12 2 = 0#2 then if w.extractLsb' 17 6 = 0#6 then some (.vld (w.extractLsb' 23 3) (w.extractLsb' 14 3) (w.extractLsb' 11 1) (w.extractLsb' 6 5) (w.extractLsb' 0 6)) else none else
  if w.extractLsb' 12 2 = 1#2 then if w.extractLsb' 17 6 = 0#6 then some (.vst (w.extractLsb' 23 3) (w.extractLsb' 14 3) (w.extractLsb' 11 1) (w.extractLsb' 6 5) (w.extractLsb' 0 6)) else none else
  if w.extractLsb' 12 2 = 2#2 then if w.extractLsb' 20 3 = 0#3 ∧ w.extractLsb' 2 4 = 0#4 then some (.vldx (w.extractLsb' 23 3) (w.extractLsb' 17 3) (w.extractLsb' 14 3) (w.extractLsb' 11 1) (w.extractLsb' 6 5) (w.extractLsb' 0 2)) else none else
  if w.extractLsb' 12 2 = 3#2 then if w.extractLsb' 20 3 = 0#3 ∧ w.extractLsb' 2 4 = 0#4 then some (.vstx (w.extractLsb' 23 3) (w.extractLsb' 17 3) (w.extractLsb' 14 3) (w.extractLsb' 11 1) (w.extractLsb' 6 5) (w.extractLsb' 0 2)) else none else
  none

/-- Words of major 0x22. -/
def raw22 (w : Half) : Option Instr :=
  if w.extractLsb' 0 5 = 0#5 then some (.vcvt (w.extractLsb' 23 3) (w.extractLsb' 20 3) (w.extractLsb' 17 3) (w.extractLsb' 14 3) (w.extractLsb' 10 4) (w.extractLsb' 6 4) (w.extractLsb' 5 1)) else
  if w.extractLsb' 0 5 = 1#5 then if w.extractLsb' 10 4 = 4#4 ∧ w.extractLsb' 5 1 = 0#1 then some (.vqnt (w.extractLsb' 23 3) (w.extractLsb' 20 3) (w.extractLsb' 17 3) (w.extractLsb' 14 3) (w.extractLsb' 6 4)) else none else
  if w.extractLsb' 0 5 = 2#5 then if w.extractLsb' 5 5 = 8#5 then some (.vdqnt (w.extractLsb' 23 3) (w.extractLsb' 20 3) (w.extractLsb' 17 3) (w.extractLsb' 14 3) (w.extractLsb' 10 4)) else none else
  if w.extractLsb' 0 5 = 3#5 then if w.extractLsb' 5 9 = 136#9 then some (.vqsplit (w.extractLsb' 23 3) (w.extractLsb' 20 3) (w.extractLsb' 17 3) (w.extractLsb' 14 3)) else none else
  none

/-- Words of major 0x23. -/
def raw23 (w : Half) : Option Instr :=
  if w.extractLsb' 9 5 = 0#5 then if w.extractLsb' 14 3 = 0#3 then some (.vshup (w.extractLsb' 23 3) (w.extractLsb' 20 3) (w.extractLsb' 17 3) (w.extractLsb' 7 2) (w.extractLsb' 0 7)) else none else
  if w.extractLsb' 9 5 = 1#5 then if w.extractLsb' 14 3 = 0#3 then some (.vshdn (w.extractLsb' 23 3) (w.extractLsb' 20 3) (w.extractLsb' 17 3) (w.extractLsb' 7 2) (w.extractLsb' 0 7)) else none else
  if w.extractLsb' 9 5 = 2#5 then if w.extractLsb' 14 6 = 0#6 then some (.vrot (w.extractLsb' 23 3) (w.extractLsb' 20 3) (w.extractLsb' 7 2) (w.extractLsb' 0 7)) else none else
  if w.extractLsb' 9 5 = 3#5 then if w.extractLsb' 0 6 = 0#6 then some (.vperm (w.extractLsb' 23 3) (w.extractLsb' 20 3) (w.extractLsb' 17 3) (w.extractLsb' 14 3) (w.extractLsb' 7 2) (w.extractLsb' 6 1)) else none else
  if w.extractLsb' 9 5 = 4#5 then if w.extractLsb' 14 9 = 0#9 ∧ w.extractLsb' 0 2 = 0#2 then some (.vbcast (w.extractLsb' 23 3) (w.extractLsb' 7 2) (w.extractLsb' 2 5)) else none else
  if w.extractLsb' 9 5 = 5#5 then if w.extractLsb' 23 3 = 0#3 ∧ w.extractLsb' 14 3 = 0#3 ∧ w.extractLsb' 0 1 = 0#1 then some (.vext (w.extractLsb' 20 3) (w.extractLsb' 17 3) (w.extractLsb' 7 2) (w.extractLsb' 2 5) (w.extractLsb' 1 1)) else none else
  if w.extractLsb' 9 5 = 6#5 then if w.extractLsb' 20 3 = 0#3 ∧ w.extractLsb' 14 3 = 0#3 ∧ w.extractLsb' 0 2 = 0#2 then some (.vins (w.extractLsb' 23 3) (w.extractLsb' 17 3) (w.extractLsb' 7 2) (w.extractLsb' 2 5)) else none else
  if w.extractLsb' 9 5 = 8#5 then if w.extractLsb' 17 3 = 0#3 ∧ w.extractLsb' 0 1 = 0#1 then some (.vred (w.extractLsb' 23 3) (w.extractLsb' 20 3) (w.extractLsb' 14 3) (w.extractLsb' 7 2) (w.extractLsb' 6 1) (w.extractLsb' 4 2) (w.extractLsb' 1 3)) else none else
  if w.extractLsb' 9 5 = 9#5 then if w.extractLsb' 17 3 = 0#3 ∧ w.extractLsb' 0 1 = 0#1 then some (.vscan (w.extractLsb' 23 3) (w.extractLsb' 20 3) (w.extractLsb' 14 3) (w.extractLsb' 7 2) (w.extractLsb' 6 1) (w.extractLsb' 4 2) (w.extractLsb' 1 3)) else none else
  if w.extractLsb' 9 5 = 10#5 then if w.extractLsb' 8 1 = 0#1 ∧ w.extractLsb' 0 4 = 0#4 then some (.vdot (w.extractLsb' 23 3) (w.extractLsb' 20 3) (w.extractLsb' 17 3) (w.extractLsb' 14 3) (w.extractLsb' 7 1) (w.extractLsb' 6 1) (w.extractLsb' 4 2)) else none else
  if w.extractLsb' 9 5 = 16#5 then if w.extractLsb' 17 3 = 0#3 ∧ w.extractLsb' 7 2 = 2#2 ∧ w.extractLsb' 0 6 = 0#6 then some (.vexp2 (w.extractLsb' 23 3) (w.extractLsb' 20 3) (w.extractLsb' 14 3) (w.extractLsb' 6 1)) else none else
  if w.extractLsb' 9 5 = 17#5 then if w.extractLsb' 17 3 = 0#3 ∧ w.extractLsb' 7 2 = 2#2 ∧ w.extractLsb' 0 6 = 0#6 then some (.vlog2 (w.extractLsb' 23 3) (w.extractLsb' 20 3) (w.extractLsb' 14 3) (w.extractLsb' 6 1)) else none else
  if w.extractLsb' 9 5 = 18#5 then if w.extractLsb' 17 3 = 0#3 ∧ w.extractLsb' 7 2 = 2#2 ∧ w.extractLsb' 0 6 = 0#6 then some (.vrcp (w.extractLsb' 23 3) (w.extractLsb' 20 3) (w.extractLsb' 14 3) (w.extractLsb' 6 1)) else none else
  if w.extractLsb' 9 5 = 19#5 then if w.extractLsb' 17 3 = 0#3 ∧ w.extractLsb' 7 2 = 2#2 ∧ w.extractLsb' 0 6 = 0#6 then some (.vrsq (w.extractLsb' 23 3) (w.extractLsb' 20 3) (w.extractLsb' 14 3) (w.extractLsb' 6 1)) else none else
  if w.extractLsb' 9 5 = 24#5 then if w.extractLsb' 14 3 = 0#3 ∧ w.extractLsb' 0 9 = 0#9 then some (.vmand (w.extractLsb' 23 3) (w.extractLsb' 20 3) (w.extractLsb' 17 3)) else none else
  if w.extractLsb' 9 5 = 25#5 then if w.extractLsb' 14 3 = 0#3 ∧ w.extractLsb' 0 9 = 0#9 then some (.vmor (w.extractLsb' 23 3) (w.extractLsb' 20 3) (w.extractLsb' 17 3)) else none else
  if w.extractLsb' 9 5 = 26#5 then if w.extractLsb' 23 3 = 0#3 ∧ w.extractLsb' 14 6 = 0#6 ∧ w.extractLsb' 7 2 = 0#2 ∧ w.extractLsb' 0 2 = 0#2 then some (.vpopc (w.extractLsb' 20 3) (w.extractLsb' 2 5)) else none else
  if w.extractLsb' 9 5 = 31#5 then if w.extractLsb' 14 12 = 0#12 ∧ w.extractLsb' 0 9 = 0#9 then some (.vshadow) else none else
  none

/-- Words of major 0x24. -/
def raw24 (w : Half) : Option Instr :=
  if w.extractLsb' 0 6 = 0#6 then (if w.extractLsb' 6 5 = 0#5 then some (.tld (w.extractLsb' 21 5) (w.extractLsb' 16 5) (w.extractLsb' 11 5)) else if w.extractLsb' 6 5 = 1#5 then some (.tldRing (w.extractLsb' 21 5) (w.extractLsb' 16 5) (w.extractLsb' 11 5)) else none) else
  if w.extractLsb' 0 6 = 1#6 then if w.extractLsb' 6 5 = 0#5 then some (.tst (w.extractLsb' 21 5) (w.extractLsb' 16 5) (w.extractLsb' 11 5)) else none else
  if w.extractLsb' 0 6 = 2#6 then if w.extractLsb' 16 10 = 0#10 ∧ w.extractLsb' 6 5 = 0#5 then some (.tzero (w.extractLsb' 11 5)) else none else
  if w.extractLsb' 0 6 = 3#6 then if w.extractLsb' 16 5 = 0#5 ∧ w.extractLsb' 6 5 = 0#5 then some (.tmov (w.extractLsb' 21 5) (w.extractLsb' 11 5)) else none else
  if w.extractLsb' 0 6 = 4#6 then if w.extractLsb' 16 5 = 0#5 ∧ w.extractLsb' 6 5 = 0#5 then some (.ttrans (w.extractLsb' 21 5) (w.extractLsb' 11 5)) else none else
  if w.extractLsb' 0 6 = 8#6 then if w.extractLsb' 6 10 = 0#10 then some (.tmma (w.extractLsb' 21 5) (w.extractLsb' 16 5)) else none else
  if w.extractLsb' 0 6 = 9#6 then if w.extractLsb' 6 10 = 0#10 then some (.tmmas (w.extractLsb' 21 5) (w.extractLsb' 16 5)) else none else
  if w.extractLsb' 0 6 = 10#6 then if w.extractLsb' 6 10 = 0#10 then some (.tmmasp (w.extractLsb' 21 5) (w.extractLsb' 16 5)) else none else
  if w.extractLsb' 0 6 = 11#6 then if w.extractLsb' 6 20 = 0#20 then some (.taccz) else none else
  if w.extractLsb' 0 6 = 12#6 then if w.extractLsb' 16 10 = 0#10 ∧ w.extractLsb' 7 4 = 0#4 then some (.taccr (w.extractLsb' 11 5) (w.extractLsb' 6 1)) else none else
  if w.extractLsb' 0 6 = 16#6 then if w.extractLsb' 16 5 = 0#5 ∧ w.extractLsb' 6 5 = 0#5 then some (.ringdef (w.extractLsb' 21 5) (w.extractLsb' 11 5)) else none else
  if w.extractLsb' 0 6 = 17#6 then if w.extractLsb' 6 5 = 0#5 then some (.twait (w.extractLsb' 21 5) (w.extractLsb' 16 5) (w.extractLsb' 11 5)) else none else
  if w.extractLsb' 0 6 = 18#6 then if w.extractLsb' 16 5 = 0#5 ∧ w.extractLsb' 6 5 = 0#5 then some (.tfree (w.extractLsb' 21 5) (w.extractLsb' 11 5)) else none else
  if w.extractLsb' 0 6 = 19#6 then if w.extractLsb' 16 5 = 0#5 ∧ w.extractLsb' 6 5 = 0#5 then some (.tadv (w.extractLsb' 21 5) (w.extractLsb' 11 5)) else none else
  if w.extractLsb' 0 6 = 20#6 then if w.extractLsb' 6 5 = 0#5 then some (.tsend (w.extractLsb' 21 5) (w.extractLsb' 16 5) (w.extractLsb' 11 5)) else none else
  if w.extractLsb' 0 6 = 24#6 then if w.extractLsb' 6 15 = 0#15 then some (.mrect (w.extractLsb' 21 5)) else none else
  if w.extractLsb' 0 6 = 25#6 then if w.extractLsb' 16 10 = 0#10 ∧ w.extractLsb' 6 5 = 0#5 then some (.mstat (w.extractLsb' 11 5)) else none else
  if w.extractLsb' 0 6 = 26#6 then (if w.extractLsb' 6 20 = 0#20 then some (.mcancel) else if w.extractLsb' 6 20 = 1#20 then some (.mcancelDrain) else none) else
  none

/-- Words of major 0x25. -/
noncomputable def raw25 (w : Half) : Option Instr :=
  if w.extractLsb' 0 6 = 0#6 then if w.extractLsb' 6 10 = 0#10 then some (.sdesc (w.extractLsb' 21 5) (w.extractLsb' 16 5)) else none else
  if w.extractLsb' 0 6 = 1#6 then if w.extractLsb' 21 5 = 0#5 ∧ w.extractLsb' 11 5 = 0#5 then some (.sbind (w.extractLsb' 16 5) (w.extractLsb' 9 2) (w.extractLsb' 6 3)) else none else
  if w.extractLsb' 0 6 = 2#6 then if w.extractLsb' 21 5 = 0#5 ∧ w.extractLsb' 6 10 = 0#10 then some (.sunbind (w.extractLsb' 16 5)) else none else
  if w.extractLsb' 0 6 = 3#6 then (if w.extractLsb' 21 5 = 0#5 ∧ w.extractLsb' 6 5 = 0#5 then some (.spos (w.extractLsb' 16 5) (w.extractLsb' 11 5)) else if w.extractLsb' 6 5 = 1#5 then some (.sposSet (w.extractLsb' 21 5) (w.extractLsb' 16 5) (w.extractLsb' 11 5)) else none) else
  if w.extractLsb' 0 6 = 4#6 then if w.extractLsb' 6 10 = 0#10 then some (.sskip (w.extractLsb' 21 5) (w.extractLsb' 16 5)) else none else
  if w.extractLsb' 0 6 = 5#6 then if w.extractLsb' 21 5 = 0#5 ∧ w.extractLsb' 6 10 = 0#10 then some (.sflush (w.extractLsb' 16 5)) else none else
  if w.extractLsb' 0 6 = 6#6 then if w.extractLsb' 21 5 = 0#5 ∧ w.extractLsb' 6 5 = 0#5 then some (.sstat (w.extractLsb' 16 5) (w.extractLsb' 11 5)) else none else
  if w.extractLsb' 0 6 = 8#6 then if w.extractLsb' 16 5 = 0#5 ∧ w.extractLsb' 6 5 = 0#5 then some (.copy (w.extractLsb' 21 5) (w.extractLsb' 11 5)) else none else
  if w.extractLsb' 0 6 = 9#6 then if w.extractLsb' 16 5 = 0#5 ∧ w.extractLsb' 6 5 = 0#5 then some (.copyst (w.extractLsb' 21 5) (w.extractLsb' 11 5)) else none else
  if w.extractLsb' 0 6 = 16#6 then if w.extractLsb' 6 5 = 0#5 then some (.waitgen (w.extractLsb' 21 5) (w.extractLsb' 16 5) (w.extractLsb' 11 5)) else none else
  if w.extractLsb' 0 6 = 17#6 then if w.extractLsb' 6 10 = 0#10 then some (.armgen (w.extractLsb' 21 5) (w.extractLsb' 16 5)) else none else
  if w.extractLsb' 0 6 = 18#6 then if w.extractLsb' 6 5 = 0#5 then some (.addgen (w.extractLsb' 21 5) (w.extractLsb' 16 5) (w.extractLsb' 11 5)) else none else
  none

/-- Words of major 0x26. -/
noncomputable def raw26 (w : Half) : Option Instr :=
  if w.extractLsb' 0 6 = 0#6 then if w.extractLsb' 7 4 = 0#4 then some (.send (w.extractLsb' 21 5) (w.extractLsb' 16 5) (w.extractLsb' 11 5) (w.extractLsb' 6 1)) else none else
  if w.extractLsb' 0 6 = 1#6 then if w.extractLsb' 7 4 = 0#4 then some (.sendi (w.extractLsb' 21 5) (w.extractLsb' 16 5) (w.extractLsb' 11 5) (w.extractLsb' 6 1)) else none else
  if w.extractLsb' 0 6 = 2#6 then if w.extractLsb' 21 5 = 0#5 ∧ w.extractLsb' 6 5 = 0#5 then some (.recv (w.extractLsb' 16 5) (w.extractLsb' 11 5)) else none else
  if w.extractLsb' 0 6 = 3#6 then if w.extractLsb' 6 5 = 0#5 then some (.recvt (w.extractLsb' 21 5) (w.extractLsb' 16 5) (w.extractLsb' 11 5)) else none else
  if w.extractLsb' 0 6 = 4#6 then if w.extractLsb' 16 10 = 0#10 ∧ w.extractLsb' 6 5 = 0#5 then some (.peek (w.extractLsb' 11 5)) else none else
  if w.extractLsb' 0 6 = 8#6 then if w.extractLsb' 16 5 = 0#5 ∧ w.extractLsb' 6 5 = 0#5 then some (.jwait (w.extractLsb' 21 5) (w.extractLsb' 11 5)) else none else
  if w.extractLsb' 0 6 = 9#6 then if w.extractLsb' 16 5 = 0#5 ∧ w.extractLsb' 6 5 = 0#5 then some (.jread (w.extractLsb' 21 5) (w.extractLsb' 11 5)) else none else
  if w.extractLsb' 0 6 = 12#6 then if w.extractLsb' 16 5 = 0#5 ∧ w.extractLsb' 6 5 = 0#5 then some (.fwdq (w.extractLsb' 21 5) (w.extractLsb' 11 5)) else none else
  none

/-- Words of major 0x27. -/
noncomputable def raw27 (w : Half) : Option Instr :=
  if w.extractLsb' 0 6 = 0#6 then if w.extractLsb' 6 10 = 0#10 then some (.cdef (w.extractLsb' 21 5) (w.extractLsb' 16 5)) else none else
  if w.extractLsb' 0 6 = 1#6 then (if w.extractLsb' 6 5 = 0#5 then some (.cwatch (w.extractLsb' 21 5) (w.extractLsb' 16 5) (w.extractLsb' 11 5)) else if w.extractLsb' 21 5 = 0#5 ∧ w.extractLsb' 6 10 = 1#10 then some (.cwatchOff (w.extractLsb' 16 5)) else none) else
  if w.extractLsb' 0 6 = 2#6 then if w.extractLsb' 21 5 = 0#5 ∧ w.extractLsb' 6 10 = 0#10 then some (.cstart (w.extractLsb' 16 5)) else none else
  if w.extractLsb' 0 6 = 3#6 then if w.extractLsb' 21 5 = 0#5 ∧ w.extractLsb' 6 5 = 0#5 then some (.cstat (w.extractLsb' 16 5) (w.extractLsb' 11 5)) else none else
  if w.extractLsb' 0 6 = 4#6 then if w.extractLsb' 6 10 = 0#10 then some (.cbw (w.extractLsb' 21 5) (w.extractLsb' 16 5)) else none else
  if w.extractLsb' 0 6 = 5#6 then if w.extractLsb' 21 5 = 0#5 ∧ w.extractLsb' 6 5 = 0#5 then some (.cabort (w.extractLsb' 16 5) (w.extractLsb' 11 5)) else none else
  none

/-- Words of major 0x28. -/
noncomputable def raw28 (w : Half) : Option Instr :=
  if w.extractLsb' 0 6 = 0#6 then if w.extractLsb' 6 10 = 0#10 then some (.barm (w.extractLsb' 21 5) (w.extractLsb' 16 5)) else none else
  if w.extractLsb' 0 6 = 1#6 then if w.extractLsb' 6 5 = 0#5 then some (.bara (w.extractLsb' 21 5) (w.extractLsb' 16 5) (w.extractLsb' 11 5)) else none else
  if w.extractLsb' 0 6 = 2#6 then if w.extractLsb' 6 5 = 0#5 then some (.barw (w.extractLsb' 21 5) (w.extractLsb' 16 5) (w.extractLsb' 11 5)) else none else
  if w.extractLsb' 0 6 = 3#6 then if w.extractLsb' 16 5 = 0#5 ∧ w.extractLsb' 6 5 = 0#5 then some (.bart (w.extractLsb' 21 5) (w.extractLsb' 11 5)) else none else
  if w.extractLsb' 0 6 = 4#6 then if w.extractLsb' 6 10 = 0#10 then some (.bmask (w.extractLsb' 21 5) (w.extractLsb' 16 5)) else none else
  if w.extractLsb' 0 6 = 5#6 then if w.extractLsb' 6 10 = 0#10 then some (.btime (w.extractLsb' 21 5) (w.extractLsb' 16 5)) else none else
  none

/-- Words of major 0x29. -/
noncomputable def raw29 (w : Half) : Option Instr :=
  if w.extractLsb' 0 6 = 0#6 then if w.extractLsb' 6 10 = 0#10 then some (.asamp (w.extractLsb' 21 5) (w.extractLsb' 16 5)) else none else
  if w.extractLsb' 0 6 = 1#6 then if w.extractLsb' 6 10 = 0#10 then some (.athr (w.extractLsb' 21 5) (w.extractLsb' 16 5)) else none else
  if w.extractLsb' 0 6 = 2#6 then if w.extractLsb' 16 5 = 0#5 ∧ w.extractLsb' 6 5 = 0#5 then some (.ahist (w.extractLsb' 21 5) (w.extractLsb' 11 5)) else none else
  if w.extractLsb' 0 6 = 3#6 then if w.extractLsb' 6 15 = 0#15 then some (.aclr (w.extractLsb' 21 5)) else none else
  if w.extractLsb' 0 6 = 4#6 then if w.extractLsb' 16 5 = 0#5 ∧ w.extractLsb' 6 5 = 0#5 then some (.astat (w.extractLsb' 21 5) (w.extractLsb' 11 5)) else none else
  none

/-- Words of major 0x2A. -/
noncomputable def raw2A (w : Half) : Option Instr :=
  if w.extractLsb' 0 6 = 0#6 then if w.extractLsb' 16 5 = 0#5 ∧ w.extractLsb' 8 3 = 0#3 then some (.mbal (w.extractLsb' 21 5) (w.extractLsb' 11 5) (w.extractLsb' 6 2)) else none else
  if w.extractLsb' 0 6 = 1#6 then if w.extractLsb' 16 5 = 0#5 ∧ w.extractLsb' 6 5 = 0#5 then some (.muse (w.extractLsb' 21 5) (w.extractLsb' 11 5)) else none else
  if w.extractLsb' 0 6 = 2#6 then (if w.extractLsb' 6 5 = 0#5 then some (.mqsetRate (w.extractLsb' 21 5) (w.extractLsb' 16 5) (w.extractLsb' 11 5)) else if w.extractLsb' 6 5 = 1#5 then some (.mqsetCap (w.extractLsb' 21 5) (w.extractLsb' 16 5) (w.extractLsb' 11 5)) else if w.extractLsb' 6 5 = 2#5 then some (.mqsetDeposit (w.extractLsb' 21 5) (w.extractLsb' 16 5) (w.extractLsb' 11 5)) else if w.extractLsb' 6 5 = 3#5 then some (.mqsetLimrate (w.extractLsb' 21 5) (w.extractLsb' 16 5) (w.extractLsb' 11 5)) else if w.extractLsb' 6 5 = 4#5 then some (.mqsetLimcap (w.extractLsb' 21 5) (w.extractLsb' 16 5) (w.extractLsb' 11 5)) else if w.extractLsb' 6 5 = 5#5 then some (.mqsetUnl (w.extractLsb' 21 5) (w.extractLsb' 16 5) (w.extractLsb' 11 5)) else none) else
  if w.extractLsb' 0 6 = 3#6 then (if w.extractLsb' 16 5 = 0#5 ∧ w.extractLsb' 6 5 = 0#5 then some (.msplit (w.extractLsb' 21 5) (w.extractLsb' 11 5)) else if w.extractLsb' 16 5 = 0#5 ∧ w.extractLsb' 6 5 = 1#5 then some (.msplitSet (w.extractLsb' 21 5) (w.extractLsb' 11 5)) else none) else
  if w.extractLsb' 0 6 = 4#6 then (if w.extractLsb' 6 5 = 0#5 then some (.mfloor (w.extractLsb' 21 5) (w.extractLsb' 16 5) (w.extractLsb' 11 5)) else if w.extractLsb' 6 5 = 1#5 then some (.mfloorSet (w.extractLsb' 21 5) (w.extractLsb' 16 5) (w.extractLsb' 11 5)) else none) else
  none

/-- Words of major 0x2B. -/
noncomputable def raw2B (w : Half) : Option Instr :=
  if w.extractLsb' 0 6 = 0#6 then if w.extractLsb' 16 5 = 0#5 ∧ w.extractLsb' 6 5 = 0#5 then some (.ocal (w.extractLsb' 21 5) (w.extractLsb' 11 5)) else none else
  if w.extractLsb' 0 6 = 1#6 then if w.extractLsb' 16 5 = 0#5 ∧ w.extractLsb' 6 5 = 0#5 then some (.onext (w.extractLsb' 21 5) (w.extractLsb' 11 5)) else none else
  if w.extractLsb' 0 6 = 2#6 then (if w.extractLsb' 16 5 = 0#5 ∧ w.extractLsb' 6 5 = 0#5 then some (.opol (w.extractLsb' 21 5) (w.extractLsb' 11 5)) else if w.extractLsb' 16 5 = 0#5 ∧ w.extractLsb' 6 5 = 1#5 then some (.opolSet (w.extractLsb' 21 5) (w.extractLsb' 11 5)) else none) else
  if w.extractLsb' 0 6 = 3#6 then if w.extractLsb' 16 5 = 0#5 ∧ w.extractLsb' 6 5 = 0#5 then some (.ostat (w.extractLsb' 21 5) (w.extractLsb' 11 5)) else none else
  none

/-- Words of major 0x2C. -/
noncomputable def raw2C (w : Half) : Option Instr :=
  if w.extractLsb' 0 6 = 0#6 then if w.extractLsb' 16 10 = 0#10 ∧ w.extractLsb' 6 5 = 0#5 then some (.chkpt (w.extractLsb' 11 5)) else none else
  if w.extractLsb' 0 6 = 1#6 then if w.extractLsb' 9 7 = 0#7 then some (.ckreg (w.extractLsb' 21 5) (w.extractLsb' 16 5) (w.extractLsb' 6 3)) else none else
  if w.extractLsb' 0 6 = 2#6 then if w.extractLsb' 16 5 = 0#5 ∧ w.extractLsb' 8 3 = 0#3 ∧ w.extractLsb' 6 2 ≠ 3#2 then some (.ebrd (w.extractLsb' 21 5) (w.extractLsb' 11 5) (w.extractLsb' 6 2)) else none else
  if w.extractLsb' 0 6 = 3#6 then if w.extractLsb' 6 5 = 0#5 then some (.ebclr (w.extractLsb' 21 5) (w.extractLsb' 16 5) (w.extractLsb' 11 5)) else none else
  if w.extractLsb' 0 6 = 4#6 then if w.extractLsb' 16 5 = 0#5 ∧ w.extractLsb' 6 5 = 0#5 then some (.killt (w.extractLsb' 21 5) (w.extractLsb' 11 5)) else none else
  none

/-- Words of major 0x2D. -/
noncomputable def raw2D (w : Half) : Option Instr :=
  if w.extractLsb' 0 6 = 0#6 then if w.extractLsb' 6 5 = 0#5 then some (.dlaunch (w.extractLsb' 21 5) (w.extractLsb' 16 5) (w.extractLsb' 11 5)) else none else
  if w.extractLsb' 0 6 = 1#6 then if w.extractLsb' 6 5 = 0#5 then some (.migrMove (w.extractLsb' 21 5) (w.extractLsb' 16 5) (w.extractLsb' 11 5)) else none else
  if w.extractLsb' 0 6 = 2#6 then if w.extractLsb' 6 5 = 0#5 then some (.vfctlReadField (w.extractLsb' 21 5) (w.extractLsb' 16 5) (w.extractLsb' 11 5)) else none else
  if w.extractLsb' 0 6 = 3#6 then (if w.extractLsb' 6 5 = 0#5 then some (.rightsRead (w.extractLsb' 21 5) (w.extractLsb' 16 5) (w.extractLsb' 11 5)) else if w.extractLsb' 6 5 = 1#5 then some (.rightsGrant (w.extractLsb' 21 5) (w.extractLsb' 16 5) (w.extractLsb' 11 5)) else if w.extractLsb' 6 5 = 2#5 then some (.rightsRevoke (w.extractLsb' 21 5) (w.extractLsb' 16 5) (w.extractLsb' 11 5)) else none) else
  none

/-- Words of major 0x38. -/
noncomputable def raw38 (w : Half) : Option Instr :=
  if w.extractLsb' 0 2 = 1#2 then
    if w.extractLsb' 2 9 = 0#9 then if w.extractLsb' 11 10 = 0#10 then some (.orcv (w.extractLsb' 21 5)) else none else
    if w.extractLsb' 2 9 = 1#9 then if w.extractLsb' 11 15 = 0#15 then some (.xacz) else none else
    if w.extractLsb' 2 9 = 2#9 then if w.extractLsb' 21 5 = 0#5 then some (.xmac (w.extractLsb' 16 5) (w.extractLsb' 11 5)) else none else
    if w.extractLsb' 2 9 = 3#9 then if w.extractLsb' 11 10 = 0#10 then some (.xrd (w.extractLsb' 21 5)) else none else
    none
  else if w.extractLsb' 0 2 = 0#2 then
    if w.extractLsb' 2 4 = 0#4 then if w.extractLsb' 6 5 = 0#5 then some (.dadd (w.extractLsb' 21 5) (w.extractLsb' 16 5) (w.extractLsb' 11 5)) else none else
    if w.extractLsb' 2 4 = 1#4 then if w.extractLsb' 6 5 = 0#5 then some (.dsub (w.extractLsb' 21 5) (w.extractLsb' 16 5) (w.extractLsb' 11 5)) else none else
    if w.extractLsb' 2 4 = 2#4 then if w.extractLsb' 6 5 = 0#5 then some (.dmul (w.extractLsb' 21 5) (w.extractLsb' 16 5) (w.extractLsb' 11 5)) else none else
    if w.extractLsb' 2 4 = 3#4 then some (.dfma (w.extractLsb' 21 5) (w.extractLsb' 16 5) (w.extractLsb' 11 5) (w.extractLsb' 6 5)) else
    if w.extractLsb' 2 4 = 4#4 then if w.extractLsb' 6 5 = 0#5 then some (.ddiv (w.extractLsb' 21 5) (w.extractLsb' 16 5) (w.extractLsb' 11 5)) else none else
    if w.extractLsb' 2 4 = 5#4 then if w.extractLsb' 6 10 = 0#10 then some (.dsqrt (w.extractLsb' 21 5) (w.extractLsb' 16 5)) else none else
    if w.extractLsb' 2 4 = 6#4 then if w.extractLsb' 6 5 = 0#5 then some (.dmin (w.extractLsb' 21 5) (w.extractLsb' 16 5) (w.extractLsb' 11 5)) else none else
    if w.extractLsb' 2 4 = 7#4 then if w.extractLsb' 6 5 = 0#5 then some (.dmax (w.extractLsb' 21 5) (w.extractLsb' 16 5) (w.extractLsb' 11 5)) else none else
    if w.extractLsb' 2 4 = 8#4 then some (.dcmp (w.extractLsb' 21 5) (w.extractLsb' 16 5) (w.extractLsb' 11 5) (w.extractLsb' 6 5)) else
    if w.extractLsb' 2 4 = 9#4 then if w.extractLsb' 15 1 = 0#1 ∧ w.extractLsb' 10 1 = 0#1 then some (.dcvt (w.extractLsb' 21 5) (w.extractLsb' 16 5) (w.extractLsb' 11 4) (w.extractLsb' 6 4)) else none else
    if w.extractLsb' 2 4 = 10#4 then if w.extractLsb' 6 10 = 0#10 then some (.dclass (w.extractLsb' 21 5) (w.extractLsb' 16 5)) else none else
    if w.extractLsb' 2 4 = 11#4 then some (.dsgn (w.extractLsb' 21 5) (w.extractLsb' 16 5) (w.extractLsb' 11 5) (w.extractLsb' 6 5)) else
    none
  else if w.extractLsb' 0 2 = 2#2 then
    if w.extractLsb' 2 4 = 0#4 then if w.extractLsb' 6 6 = 0#6 then some (.vdadd (w.extractLsb' 23 3) (w.extractLsb' 20 3) (w.extractLsb' 17 3) (w.extractLsb' 14 3) (w.extractLsb' 13 1) (w.extractLsb' 12 1)) else none else
    if w.extractLsb' 2 4 = 1#4 then if w.extractLsb' 6 6 = 0#6 then some (.vdsub (w.extractLsb' 23 3) (w.extractLsb' 20 3) (w.extractLsb' 17 3) (w.extractLsb' 14 3) (w.extractLsb' 13 1) (w.extractLsb' 12 1)) else none else
    if w.extractLsb' 2 4 = 2#4 then if w.extractLsb' 6 6 = 0#6 then some (.vdmul (w.extractLsb' 23 3) (w.extractLsb' 20 3) (w.extractLsb' 17 3) (w.extractLsb' 14 3) (w.extractLsb' 13 1) (w.extractLsb' 12 1)) else none else
    if w.extractLsb' 2 4 = 3#4 then if w.extractLsb' 6 6 = 0#6 then some (.vdfma (w.extractLsb' 23 3) (w.extractLsb' 20 3) (w.extractLsb' 17 3) (w.extractLsb' 14 3) (w.extractLsb' 13 1) (w.extractLsb' 12 1)) else none else
    if w.extractLsb' 2 4 = 4#4 then if w.extractLsb' 6 6 = 0#6 then some (.vdmin (w.extractLsb' 23 3) (w.extractLsb' 20 3) (w.extractLsb' 17 3) (w.extractLsb' 14 3) (w.extractLsb' 13 1) (w.extractLsb' 12 1)) else none else
    if w.extractLsb' 2 4 = 5#4 then if w.extractLsb' 6 6 = 0#6 then some (.vdmax (w.extractLsb' 23 3) (w.extractLsb' 20 3) (w.extractLsb' 17 3) (w.extractLsb' 14 3) (w.extractLsb' 13 1) (w.extractLsb' 12 1)) else none else
    if w.extractLsb' 2 4 = 6#4 then if w.extractLsb' 6 6 = 0#6 then some (.vdwid (w.extractLsb' 23 3) (w.extractLsb' 20 3) (w.extractLsb' 17 3) (w.extractLsb' 14 3) (w.extractLsb' 13 1) (w.extractLsb' 12 1)) else none else
    if w.extractLsb' 2 4 = 7#4 then if w.extractLsb' 6 6 = 0#6 then some (.vdnar (w.extractLsb' 23 3) (w.extractLsb' 20 3) (w.extractLsb' 17 3) (w.extractLsb' 14 3) (w.extractLsb' 13 1) (w.extractLsb' 12 1)) else none else
    none
  else none

/-- The row of the opcode table a word belongs to, by its major opcode (R59) and function fields. -/
noncomputable def rawWord (w : Half) : Option Instr :=
  if w.extractLsb' 26 6 = 1#6 then raw01 w else
  if w.extractLsb' 26 6 = 2#6 then raw02 w else
  if w.extractLsb' 26 6 = 3#6 then raw03 w else
  if w.extractLsb' 26 6 = 4#6 then raw04 w else
  if w.extractLsb' 26 6 = 5#6 then raw05 w else
  if w.extractLsb' 26 6 = 6#6 then raw06 w else
  if w.extractLsb' 26 6 = 7#6 then raw07 w else
  if w.extractLsb' 26 6 = 8#6 then raw08 w else
  if w.extractLsb' 26 6 = 9#6 then raw09 w else
  if w.extractLsb' 26 6 = 10#6 then raw0A w else
  if w.extractLsb' 26 6 = 12#6 then raw0C w else
  if w.extractLsb' 26 6 = 13#6 then raw0D w else
  if w.extractLsb' 26 6 = 14#6 then raw0E w else
  if w.extractLsb' 26 6 = 15#6 then raw0F w else
  if w.extractLsb' 26 6 = 16#6 then raw10 w else
  if w.extractLsb' 26 6 = 17#6 then raw11 w else
  if w.extractLsb' 26 6 = 18#6 then raw12 w else
  if w.extractLsb' 26 6 = 19#6 then raw13 w else
  if w.extractLsb' 26 6 = 20#6 then raw14 w else
  if w.extractLsb' 26 6 = 21#6 then raw15 w else
  if w.extractLsb' 26 6 = 22#6 then raw16 w else
  if w.extractLsb' 26 6 = 23#6 then raw17 w else
  if w.extractLsb' 26 6 = 24#6 then raw18 w else
  if w.extractLsb' 26 6 = 25#6 then raw19 w else
  if w.extractLsb' 26 6 = 26#6 then raw1A w else
  if w.extractLsb' 26 6 = 27#6 then raw1B w else
  if w.extractLsb' 26 6 = 28#6 then raw1C w else
  if w.extractLsb' 26 6 = 29#6 then raw1D w else
  if w.extractLsb' 26 6 = 30#6 then raw1E w else
  if w.extractLsb' 26 6 = 31#6 then raw1F w else
  if w.extractLsb' 26 6 = 32#6 then raw20 w else
  if w.extractLsb' 26 6 = 33#6 then raw21 w else
  if w.extractLsb' 26 6 = 34#6 then raw22 w else
  if w.extractLsb' 26 6 = 35#6 then raw23 w else
  if w.extractLsb' 26 6 = 36#6 then raw24 w else
  if w.extractLsb' 26 6 = 37#6 then raw25 w else
  if w.extractLsb' 26 6 = 38#6 then raw26 w else
  if w.extractLsb' 26 6 = 39#6 then raw27 w else
  if w.extractLsb' 26 6 = 40#6 then raw28 w else
  if w.extractLsb' 26 6 = 41#6 then raw29 w else
  if w.extractLsb' 26 6 = 42#6 then raw2A w else
  if w.extractLsb' 26 6 = 43#6 then raw2B w else
  if w.extractLsb' 26 6 = 44#6 then raw2C w else
  if w.extractLsb' 26 6 = 45#6 then raw2D w else
  if w.extractLsb' 26 6 = 56#6 then raw38 w else
  none

/-- Why a word or a byte string is no instruction. Every reason but the last raises ILLEGAL_INSN (R61). -/
inductive Reject where
  /-- a major opcode that R59 leaves illegal or reserved (step 1) -/
  | major
  /-- a major of the extension space that no core lists (step 2) -/
  | extension
  /-- an unassigned function code or a non-zero unused field (step 4) -/
  | function
  /-- an operand code or register value its description refuses (step 4) -/
  | operand
  /-- fewer than four bytes, or a word that is not the table's width -/
  | short
  deriving DecidableEq, Repr

/-- The majors of step 1 of R61. -/
def reservedMajor (m : Nat) : Bool :=
  m == 0 || m == 0x0B || (0x2E ≤ m && m ≤ 0x37) || m == 0x3F

/-- The majors of step 2 of R61. -/
def extensionMajor (m : Nat) : Bool := 0x39 ≤ m && m ≤ 0x3E

/-- The major opcode of a word (R56). -/
def majorOf (w : Half) : Nat := (w.extractLsb' 26 6).toNat

/-- The instruction a word stands for, or why there is none: steps 1, 2 and 4 of R61. The words that MIGR and VFCTL
share among their rows decode to MIGR_MOVE and VFCTL_READ_FIELD; the value of ga selects the row when the word is
issued (R464, R465). -/
noncomputable def decode (w : Half) : Except Reject Instr :=
  if reservedMajor (majorOf w) then .error .major
  else if extensionMajor (majorOf w) then .error .extension
  else
    match rawWord w with
    | none => .error .function
    | some i => if i.wf then .ok i else .error .operand

/-- Decodes the first little-endian word of a byte string (R56) and answers the rest with it. -/
noncomputable def decodeBytes : List Byte → Except Reject (Instr × List Byte)
  | b0 :: b1 :: b2 :: b3 :: rest =>
    match decode (b3 ++ b2 ++ b1 ++ b0) with
    | .ok i => .ok (i, rest)
    | .error e => .error e
  | _ => .error .short

/-- The little-endian bytes of a word. -/
def wordBytes (w : Half) : List Byte :=
  [w.extractLsb' 0 8, w.extractLsb' 8 8, w.extractLsb' 16 8, w.extractLsb' 24 8]

/-- What the decoder reads from an instruction whose bits are `w` in the table's numbering. -/
noncomputable def decodeTableWord (nbits w : Nat) : Option Instr :=
  if nbits ≤ 32 then
    match decodeBytes (wordBytes (BitVec.ofNat 32 (w % 2 ^ nbits))) with
    | .ok (i, _) => some i
    | .error _ => none
  else none

/-- The word of an instruction, from the same encoding tables; a machine event has no word and answers 0. -/
def encode (i : Instr) : Half :=
  match i with
  | .add d a b => 1#6 ++ d ++ a ++ b ++ 0#5 ++ 0#6
  | .sub d a b => 1#6 ++ d ++ a ++ b ++ 0#5 ++ 1#6
  | .mul d a b => 1#6 ++ d ++ a ++ b ++ 0#5 ++ 2#6
  | .mulh d a b => 1#6 ++ d ++ a ++ b ++ 0#5 ++ 3#6
  | .mulhu d a b => 1#6 ++ d ++ a ++ b ++ 0#5 ++ 4#6
  | .div d a b => 1#6 ++ d ++ a ++ b ++ 0#5 ++ 5#6
  | .divu d a b => 1#6 ++ d ++ a ++ b ++ 0#5 ++ 6#6
  | .rem d a b => 1#6 ++ d ++ a ++ b ++ 0#5 ++ 7#6
  | .remu d a b => 1#6 ++ d ++ a ++ b ++ 0#5 ++ 8#6
  | .and d a b => 1#6 ++ d ++ a ++ b ++ 0#5 ++ 16#6
  | .or d a b => 1#6 ++ d ++ a ++ b ++ 0#5 ++ 17#6
  | .xor d a b => 1#6 ++ d ++ a ++ b ++ 0#5 ++ 18#6
  | .andn d a b => 1#6 ++ d ++ a ++ b ++ 0#5 ++ 19#6
  | .shl d a b => 1#6 ++ d ++ a ++ b ++ 0#5 ++ 20#6
  | .shr d a b => 1#6 ++ d ++ a ++ b ++ 0#5 ++ 21#6
  | .sha d a b => 1#6 ++ d ++ a ++ b ++ 0#5 ++ 22#6
  | .rol d a b => 1#6 ++ d ++ a ++ b ++ 0#5 ++ 23#6
  | .clz d a => 1#6 ++ d ++ a ++ 0#10 ++ 24#6
  | .ctz d a => 1#6 ++ d ++ a ++ 0#10 ++ 25#6
  | .popc d a => 1#6 ++ d ++ a ++ 0#10 ++ 26#6
  | .min d a b => 1#6 ++ d ++ a ++ b ++ 0#5 ++ 32#6
  | .max d a b => 1#6 ++ d ++ a ++ b ++ 0#5 ++ 33#6
  | .minu d a b => 1#6 ++ d ++ a ++ b ++ 0#5 ++ 34#6
  | .maxu d a b => 1#6 ++ d ++ a ++ b ++ 0#5 ++ 35#6
  | .slt d a b => 1#6 ++ d ++ a ++ b ++ 0#5 ++ 36#6
  | .sltu d a b => 1#6 ++ d ++ a ++ b ++ 0#5 ++ 37#6
  | .seq d a b => 1#6 ++ d ++ a ++ b ++ 0#5 ++ 38#6
  | .sel d a b c => 1#6 ++ d ++ a ++ b ++ c ++ 39#6
  | .addsc d a b k => 1#6 ++ d ++ a ++ b ++ 0#2 ++ k ++ 40#6
  | .exts d a w => 1#6 ++ d ++ a ++ 0#5 ++ w ++ 48#6
  | .extz d a w => 1#6 ++ d ++ a ++ 0#5 ++ w ++ 49#6
  | .bext d a b => 1#6 ++ d ++ a ++ b ++ 0#5 ++ 50#6
  | .bins d a b => 1#6 ++ d ++ a ++ b ++ 0#5 ++ 51#6
  | .coreid d => 1#6 ++ d ++ 0#15 ++ 56#6
  | .cxy d a b => 1#6 ++ d ++ a ++ b ++ 0#5 ++ 57#6
  | .crel d a b => 1#6 ++ d ++ a ++ b ++ 0#5 ++ 58#6
  | .addi d a i => 2#6 ++ d ++ a ++ i
  | .andi d a i => 3#6 ++ d ++ a ++ i
  | .ori d a i => 4#6 ++ d ++ a ++ i
  | .xori d a i => 5#6 ++ d ++ a ++ i
  | .slti d a i => 6#6 ++ d ++ a ++ i
  | .sltui d a i => 7#6 ++ d ++ a ++ i
  | .shli d a n => 8#6 ++ d ++ a ++ 0#8 ++ 0#2 ++ n
  | .shri d a n => 8#6 ++ d ++ a ++ 0#8 ++ 1#2 ++ n
  | .shai d a n => 8#6 ++ d ++ a ++ 0#8 ++ 2#2 ++ n
  | .roli d a n => 8#6 ++ d ++ a ++ 0#8 ++ 3#2 ++ n
  | .lhi d a i => 9#6 ++ d ++ a ++ i
  | .beq a b i => 12#6 ++ a ++ b ++ i
  | .bne a b i => 13#6 ++ a ++ b ++ i
  | .blt a b i => 14#6 ++ a ++ b ++ i
  | .bge a b i => 15#6 ++ a ++ b ++ i
  | .bltu a b i => 16#6 ++ a ++ b ++ i
  | .bgeu a b i => 17#6 ++ a ++ b ++ i
  | .loop a b i => 18#6 ++ a ++ b ++ i
  | .j i => 19#6 ++ i
  | .jal i => 20#6 ++ i
  | .jalr d a i => 21#6 ++ d ++ a ++ i
  | .fadd d a b => 10#6 ++ d ++ a ++ b ++ 0#5 ++ 0#6
  | .fsub d a b => 10#6 ++ d ++ a ++ b ++ 0#5 ++ 1#6
  | .fmul d a b => 10#6 ++ d ++ a ++ b ++ 0#5 ++ 2#6
  | .fma d a b c => 10#6 ++ d ++ a ++ b ++ c ++ 3#6
  | .fdiv d a b => 10#6 ++ d ++ a ++ b ++ 0#5 ++ 4#6
  | .fsqrt d a => 10#6 ++ d ++ a ++ 0#10 ++ 5#6
  | .fmin d a b => 10#6 ++ d ++ a ++ b ++ 0#5 ++ 6#6
  | .fmax d a b => 10#6 ++ d ++ a ++ b ++ 0#5 ++ 7#6
  | .fcmp d a b c => 10#6 ++ d ++ a ++ b ++ c ++ 8#6
  | .fcvt d a s f => 10#6 ++ d ++ a ++ 0#1 ++ s ++ 0#1 ++ f ++ 9#6
  | .fclass d a => 10#6 ++ d ++ a ++ 0#10 ++ 10#6
  | .fsgn d a b m => 10#6 ++ d ++ a ++ b ++ m ++ 11#6
  | .dadd d a b => 56#6 ++ d ++ a ++ b ++ 0#5 ++ 0#4 ++ 0#2
  | .dsub d a b => 56#6 ++ d ++ a ++ b ++ 0#5 ++ 1#4 ++ 0#2
  | .dmul d a b => 56#6 ++ d ++ a ++ b ++ 0#5 ++ 2#4 ++ 0#2
  | .dfma d a b c => 56#6 ++ d ++ a ++ b ++ c ++ 3#4 ++ 0#2
  | .ddiv d a b => 56#6 ++ d ++ a ++ b ++ 0#5 ++ 4#4 ++ 0#2
  | .dsqrt d a => 56#6 ++ d ++ a ++ 0#10 ++ 5#4 ++ 0#2
  | .dmin d a b => 56#6 ++ d ++ a ++ b ++ 0#5 ++ 6#4 ++ 0#2
  | .dmax d a b => 56#6 ++ d ++ a ++ b ++ 0#5 ++ 7#4 ++ 0#2
  | .dcmp d a b c => 56#6 ++ d ++ a ++ b ++ c ++ 8#4 ++ 0#2
  | .dcvt d a s f => 56#6 ++ d ++ a ++ 0#1 ++ s ++ 0#1 ++ f ++ 9#4 ++ 0#2
  | .dclass d a => 56#6 ++ d ++ a ++ 0#10 ++ 10#4 ++ 0#2
  | .dsgn d a b m => 56#6 ++ d ++ a ++ b ++ m ++ 11#4 ++ 0#2
  | .orcv d => 56#6 ++ d ++ 0#10 ++ 0#9 ++ 1#2
  | .xacz => 56#6 ++ 0#15 ++ 1#9 ++ 1#2
  | .xmac a b => 56#6 ++ 0#5 ++ a ++ b ++ 2#9 ++ 1#2
  | .xrd d => 56#6 ++ d ++ 0#10 ++ 3#9 ++ 1#2
  | .vdadd d a b m e s => 56#6 ++ d ++ a ++ b ++ m ++ e ++ s ++ 0#6 ++ 0#4 ++ 2#2
  | .vdsub d a b m e s => 56#6 ++ d ++ a ++ b ++ m ++ e ++ s ++ 0#6 ++ 1#4 ++ 2#2
  | .vdmul d a b m e s => 56#6 ++ d ++ a ++ b ++ m ++ e ++ s ++ 0#6 ++ 2#4 ++ 2#2
  | .vdfma d a b m e s => 56#6 ++ d ++ a ++ b ++ m ++ e ++ s ++ 0#6 ++ 3#4 ++ 2#2
  | .vdmin d a b m e s => 56#6 ++ d ++ a ++ b ++ m ++ e ++ s ++ 0#6 ++ 4#4 ++ 2#2
  | .vdmax d a b m e s => 56#6 ++ d ++ a ++ b ++ m ++ e ++ s ++ 0#6 ++ 5#4 ++ 2#2
  | .vdwid d a k m e s => 56#6 ++ d ++ a ++ k ++ m ++ e ++ s ++ 0#6 ++ 6#4 ++ 2#2
  | .vdnar d a k m e s => 56#6 ++ d ++ a ++ k ++ m ++ e ++ s ++ 0#6 ++ 7#4 ++ 2#2
  | .csrr d c => 28#6 ++ d ++ 0#5 ++ c ++ 0#6
  | .csrw d a c => 28#6 ++ d ++ a ++ c ++ 1#6
  | .csrs d a c => 28#6 ++ d ++ a ++ c ++ 2#6
  | .csrc d a c => 28#6 ++ d ++ a ++ c ++ 3#6
  | .trap a n => 28#6 ++ 0#5 ++ a ++ 0#5 ++ n ++ 8#6
  | .xret => 28#6 ++ 0#20 ++ 9#6
  | .park a => 28#6 ++ 0#5 ++ a ++ 0#10 ++ 10#6
  | .texit => 28#6 ++ 0#20 ++ 11#6
  | .tfork d a b => 28#6 ++ d ++ a ++ b ++ 0#5 ++ 12#6
  | .bsig l c => 29#6 ++ l ++ c
  | .pfx a b d r s e => 30#6 ++ 0#1 ++ a ++ b ++ d ++ r ++ s ++ e ++ 0#7
  | .pfxTag t r s f d => 30#6 ++ 1#1 ++ t ++ r ++ s ++ f ++ d ++ 0#1
  | .rep n k s => 31#6 ++ n ++ k ++ s ++ 0#10
  | .ld d b z i => 22#6 ++ d ++ b ++ z ++ i
  | .st s b z i => 23#6 ++ s ++ b ++ z ++ i
  | .ldaWord d b q i => 24#6 ++ d ++ b ++ 0#3 ++ q ++ i
  | .lda d b q i => 24#6 ++ d ++ b ++ 1#3 ++ q ++ i
  | .lde d b i => 24#6 ++ d ++ b ++ 2#3 ++ i
  | .ldf d b i => 24#6 ++ d ++ b ++ 3#3 ++ i
  | .feprobe d b i => 24#6 ++ d ++ b ++ 4#3 ++ i
  | .stlWord s b q i => 25#6 ++ s ++ b ++ 0#3 ++ q ++ i
  | .stl s b q i => 25#6 ++ s ++ b ++ 1#3 ++ q ++ i
  | .stf s b i => 25#6 ++ s ++ b ++ 2#3 ++ i
  | .feclr b i => 25#6 ++ 0#5 ++ b ++ 3#3 ++ i
  | .amoadd d a b q w => 26#6 ++ d ++ a ++ b ++ q ++ w ++ 0#5
  | .amoand d a b q w => 26#6 ++ d ++ a ++ b ++ q ++ w ++ 1#5
  | .amoor d a b q w => 26#6 ++ d ++ a ++ b ++ q ++ w ++ 2#5
  | .amoxor d a b q w => 26#6 ++ d ++ a ++ b ++ q ++ w ++ 3#5
  | .amomin d a b q w => 26#6 ++ d ++ a ++ b ++ q ++ w ++ 4#5
  | .amomax d a b q w => 26#6 ++ d ++ a ++ b ++ q ++ w ++ 5#5
  | .amoswp d a b q w => 26#6 ++ d ++ a ++ b ++ q ++ w ++ 6#5
  | .cas d a b q w => 26#6 ++ d ++ a ++ b ++ q ++ w ++ 7#5
  | .faddf d a b q => 26#6 ++ d ++ a ++ b ++ q ++ 0#1 ++ 8#5
  | .fenceAcq a => 27#6 ++ 0#5 ++ a ++ 1#10 ++ 0#6
  | .fenceRel a => 27#6 ++ 0#5 ++ a ++ 2#10 ++ 0#6
  | .fenceFull a => 27#6 ++ 0#5 ++ a ++ 3#10 ++ 0#6
  | .segr d f n => 27#6 ++ d ++ 0#10 ++ f ++ n ++ 1#6
  | .segw a f n => 27#6 ++ 0#5 ++ a ++ 0#5 ++ f ++ n ++ 2#6
  | .vadd d a b m w e t s => 32#6 ++ d ++ a ++ b ++ m ++ w ++ e ++ t ++ s ++ 0#2 ++ 0#3 ++ 0#3
  | .vsub d a b m w e t s => 32#6 ++ d ++ a ++ b ++ m ++ w ++ e ++ t ++ s ++ 0#2 ++ 0#3 ++ 1#3
  | .vmul d a b m w e t s => 32#6 ++ d ++ a ++ b ++ m ++ w ++ e ++ t ++ s ++ 0#2 ++ 0#3 ++ 2#3
  | .vfma d a b m w e t s => 32#6 ++ d ++ a ++ b ++ m ++ w ++ e ++ t ++ s ++ 0#2 ++ 0#3 ++ 3#3
  | .vmin d a b m w e t s => 32#6 ++ d ++ a ++ b ++ m ++ w ++ e ++ t ++ s ++ 0#2 ++ 0#3 ++ 4#3
  | .vmax d a b m w e t s => 32#6 ++ d ++ a ++ b ++ m ++ w ++ e ++ t ++ s ++ 0#2 ++ 0#3 ++ 5#3
  | .vamin d a b m w e t s => 32#6 ++ d ++ a ++ b ++ m ++ w ++ e ++ t ++ s ++ 0#2 ++ 0#3 ++ 6#3
  | .vamax d a b m w e t s => 32#6 ++ d ++ a ++ b ++ m ++ w ++ e ++ t ++ s ++ 0#2 ++ 0#3 ++ 7#3
  | .vand d a b m w e t s => 32#6 ++ d ++ a ++ b ++ m ++ w ++ e ++ t ++ s ++ 0#2 ++ 1#3 ++ 0#3
  | .vor d a b m w e t s => 32#6 ++ d ++ a ++ b ++ m ++ w ++ e ++ t ++ s ++ 0#2 ++ 1#3 ++ 1#3
  | .vxor d a b m w e t s => 32#6 ++ d ++ a ++ b ++ m ++ w ++ e ++ t ++ s ++ 0#2 ++ 1#3 ++ 2#3
  | .vshl d a b m w e t s => 32#6 ++ d ++ a ++ b ++ m ++ w ++ e ++ t ++ s ++ 0#2 ++ 1#3 ++ 3#3
  | .vshr d a b m w e t s => 32#6 ++ d ++ a ++ b ++ m ++ w ++ e ++ t ++ s ++ 0#2 ++ 1#3 ++ 4#3
  | .vsha d a b m w e t s => 32#6 ++ d ++ a ++ b ++ m ++ w ++ e ++ t ++ s ++ 0#2 ++ 1#3 ++ 5#3
  | .vcmp d a b m w e t s c => 32#6 ++ d ++ a ++ b ++ m ++ w ++ e ++ t ++ s ++ 0#2 ++ 2#3 ++ c
  | .vsel d a b m s => 32#6 ++ d ++ a ++ b ++ m ++ 20#5 ++ s ++ 0#2 ++ 3#3 ++ 0#3
  | .vld d m e b i => 33#6 ++ d ++ 0#6 ++ m ++ 0#2 ++ e ++ b ++ i
  | .vst d m e b i => 33#6 ++ d ++ 0#6 ++ m ++ 1#2 ++ e ++ b ++ i
  | .vldx d x m e b h => 33#6 ++ d ++ 0#3 ++ x ++ m ++ 2#2 ++ e ++ b ++ 0#4 ++ h
  | .vstx d x m e b h => 33#6 ++ d ++ 0#3 ++ x ++ m ++ 3#2 ++ e ++ b ++ 0#4 ++ h
  | .vcvt d a k m s f e => 34#6 ++ d ++ a ++ k ++ m ++ s ++ f ++ e ++ 0#5
  | .vqnt d a k p f => 34#6 ++ d ++ a ++ k ++ p ++ 4#4 ++ f ++ 0#1 ++ 1#5
  | .vdqnt d a k p s => 34#6 ++ d ++ a ++ k ++ p ++ s ++ 8#5 ++ 2#5
  | .vqsplit d a k o => 34#6 ++ d ++ a ++ k ++ o ++ 136#9 ++ 3#5
  | .vshup d a b w n => 35#6 ++ d ++ a ++ b ++ 0#3 ++ 0#5 ++ w ++ n
  | .vshdn d a b w n => 35#6 ++ d ++ a ++ b ++ 0#3 ++ 1#5 ++ w ++ n
  | .vrot d a w n => 35#6 ++ d ++ a ++ 0#6 ++ 2#5 ++ w ++ n
  | .vperm d a b m w e => 35#6 ++ d ++ a ++ b ++ m ++ 3#5 ++ w ++ e ++ 0#6
  | .vbcast d w s => 35#6 ++ d ++ 0#9 ++ 4#5 ++ w ++ s ++ 0#2
  | .vext a k w g u => 35#6 ++ 0#3 ++ a ++ k ++ 0#3 ++ 5#5 ++ w ++ g ++ u ++ 0#1
  | .vins d k w s => 35#6 ++ d ++ 0#3 ++ k ++ 0#3 ++ 6#5 ++ w ++ s ++ 0#2
  | .vred d a m w e t o => 35#6 ++ d ++ a ++ 0#3 ++ m ++ 8#5 ++ w ++ e ++ t ++ o ++ 0#1
  | .vscan d a m w e t o => 35#6 ++ d ++ a ++ 0#3 ++ m ++ 9#5 ++ w ++ e ++ t ++ o ++ 0#1
  | .vdot d a b m w e t => 35#6 ++ d ++ a ++ b ++ m ++ 10#5 ++ 0#1 ++ w ++ e ++ t ++ 0#4
  | .vexp2 d a m e => 35#6 ++ d ++ a ++ 0#3 ++ m ++ 16#5 ++ 2#2 ++ e ++ 0#6
  | .vlog2 d a m e => 35#6 ++ d ++ a ++ 0#3 ++ m ++ 17#5 ++ 2#2 ++ e ++ 0#6
  | .vrcp d a m e => 35#6 ++ d ++ a ++ 0#3 ++ m ++ 18#5 ++ 2#2 ++ e ++ 0#6
  | .vrsq d a m e => 35#6 ++ d ++ a ++ 0#3 ++ m ++ 19#5 ++ 2#2 ++ e ++ 0#6
  | .vmand d a b => 35#6 ++ d ++ a ++ b ++ 0#3 ++ 24#5 ++ 0#9
  | .vmor d a b => 35#6 ++ d ++ a ++ b ++ 0#3 ++ 25#5 ++ 0#9
  | .vpopc a g => 35#6 ++ 0#3 ++ a ++ 0#6 ++ 26#5 ++ 0#2 ++ g ++ 0#2
  | .vshadow => 35#6 ++ 0#12 ++ 31#5 ++ 0#9
  | .tld a b t => 36#6 ++ a ++ b ++ t ++ 0#5 ++ 0#6
  | .tldRing a b r => 36#6 ++ a ++ b ++ r ++ 1#5 ++ 0#6
  | .tst a b s => 36#6 ++ a ++ b ++ s ++ 0#5 ++ 1#6
  | .tzero d => 36#6 ++ 0#10 ++ d ++ 0#5 ++ 2#6
  | .tmov a d => 36#6 ++ a ++ 0#5 ++ d ++ 0#5 ++ 3#6
  | .ttrans a d => 36#6 ++ a ++ 0#5 ++ d ++ 0#5 ++ 4#6
  | .tmma a b => 36#6 ++ a ++ b ++ 0#10 ++ 8#6
  | .tmmas a b => 36#6 ++ a ++ b ++ 0#10 ++ 9#6
  | .tmmasp a b => 36#6 ++ a ++ b ++ 0#10 ++ 10#6
  | .taccz => 36#6 ++ 0#20 ++ 11#6
  | .taccr d h => 36#6 ++ 0#10 ++ d ++ 0#4 ++ h ++ 12#6
  | .ringdef a r => 36#6 ++ a ++ 0#5 ++ r ++ 0#5 ++ 16#6
  | .twait a r d => 36#6 ++ a ++ r ++ d ++ 0#5 ++ 17#6
  | .tfree a r => 36#6 ++ a ++ 0#5 ++ r ++ 0#5 ++ 18#6
  | .tadv a r => 36#6 ++ a ++ 0#5 ++ r ++ 0#5 ++ 19#6
  | .tsend a b r => 36#6 ++ a ++ b ++ r ++ 0#5 ++ 20#6
  | .mrect a => 36#6 ++ a ++ 0#15 ++ 24#6
  | .mstat d => 36#6 ++ 0#10 ++ d ++ 0#5 ++ 25#6
  | .mcancel => 36#6 ++ 0#20 ++ 26#6
  | .mcancelDrain => 36#6 ++ 1#20 ++ 26#6
  | .sdesc a s => 37#6 ++ a ++ s ++ 0#10 ++ 0#6
  | .sbind s k n => 37#6 ++ 0#5 ++ s ++ 0#5 ++ k ++ n ++ 1#6
  | .sunbind s => 37#6 ++ 0#5 ++ s ++ 0#10 ++ 2#6
  | .spos s d => 37#6 ++ 0#5 ++ s ++ d ++ 0#5 ++ 3#6
  | .sposSet a s d => 37#6 ++ a ++ s ++ d ++ 1#5 ++ 3#6
  | .sskip a s => 37#6 ++ a ++ s ++ 0#10 ++ 4#6
  | .sflush s => 37#6 ++ 0#5 ++ s ++ 0#10 ++ 5#6
  | .sstat s d => 37#6 ++ 0#5 ++ s ++ d ++ 0#5 ++ 6#6
  | .copy a d => 37#6 ++ a ++ 0#5 ++ d ++ 0#5 ++ 8#6
  | .copyst a d => 37#6 ++ a ++ 0#5 ++ d ++ 0#5 ++ 9#6
  | .waitgen a b q => 37#6 ++ a ++ b ++ q ++ 0#5 ++ 16#6
  | .armgen a b => 37#6 ++ a ++ b ++ 0#10 ++ 17#6
  | .addgen a b q => 37#6 ++ a ++ b ++ q ++ 0#5 ++ 18#6
  | .send a b d r => 38#6 ++ a ++ b ++ d ++ 0#4 ++ r ++ 0#6
  | .sendi a b d r => 38#6 ++ a ++ b ++ d ++ 0#4 ++ r ++ 1#6
  | .recv h d => 38#6 ++ 0#5 ++ h ++ d ++ 0#5 ++ 2#6
  | .recvt a h d => 38#6 ++ a ++ h ++ d ++ 0#5 ++ 3#6
  | .peek d => 38#6 ++ 0#10 ++ d ++ 0#5 ++ 4#6
  | .jwait a d => 38#6 ++ a ++ 0#5 ++ d ++ 0#5 ++ 8#6
  | .jread a d => 38#6 ++ a ++ 0#5 ++ d ++ 0#5 ++ 9#6
  | .fwdq a d => 38#6 ++ a ++ 0#5 ++ d ++ 0#5 ++ 12#6
  | .cdef a c => 39#6 ++ a ++ c ++ 0#10 ++ 0#6
  | .cwatch a c b => 39#6 ++ a ++ c ++ b ++ 0#5 ++ 1#6
  | .cwatchOff c => 39#6 ++ 0#5 ++ c ++ 1#10 ++ 1#6
  | .cstart c => 39#6 ++ 0#5 ++ c ++ 0#10 ++ 2#6
  | .cstat c d => 39#6 ++ 0#5 ++ c ++ d ++ 0#5 ++ 3#6
  | .cbw a c => 39#6 ++ a ++ c ++ 0#10 ++ 4#6
  | .cabort c d => 39#6 ++ 0#5 ++ c ++ d ++ 0#5 ++ 5#6
  | .barm a b => 40#6 ++ a ++ b ++ 0#10 ++ 0#6
  | .bara a q d => 40#6 ++ a ++ q ++ d ++ 0#5 ++ 1#6
  | .barw a q d => 40#6 ++ a ++ q ++ d ++ 0#5 ++ 2#6
  | .bart a d => 40#6 ++ a ++ 0#5 ++ d ++ 0#5 ++ 3#6
  | .bmask a b => 40#6 ++ a ++ b ++ 0#10 ++ 4#6
  | .btime a b => 40#6 ++ a ++ b ++ 0#10 ++ 5#6
  | .asamp a b => 41#6 ++ a ++ b ++ 0#10 ++ 0#6
  | .athr a b => 41#6 ++ a ++ b ++ 0#10 ++ 1#6
  | .ahist a d => 41#6 ++ a ++ 0#5 ++ d ++ 0#5 ++ 2#6
  | .aclr a => 41#6 ++ a ++ 0#15 ++ 3#6
  | .astat a d => 41#6 ++ a ++ 0#5 ++ d ++ 0#5 ++ 4#6
  | .mbal a d w => 42#6 ++ a ++ 0#5 ++ d ++ 0#3 ++ w ++ 0#6
  | .muse a d => 42#6 ++ a ++ 0#5 ++ d ++ 0#5 ++ 1#6
  | .mqsetRate a b d => 42#6 ++ a ++ b ++ d ++ 0#5 ++ 2#6
  | .mqsetCap a b d => 42#6 ++ a ++ b ++ d ++ 1#5 ++ 2#6
  | .mqsetDeposit a b d => 42#6 ++ a ++ b ++ d ++ 2#5 ++ 2#6
  | .mqsetLimrate a b d => 42#6 ++ a ++ b ++ d ++ 3#5 ++ 2#6
  | .mqsetLimcap a b d => 42#6 ++ a ++ b ++ d ++ 4#5 ++ 2#6
  | .mqsetUnl a b d => 42#6 ++ a ++ b ++ d ++ 5#5 ++ 2#6
  | .msplit a d => 42#6 ++ a ++ 0#5 ++ d ++ 0#5 ++ 3#6
  | .msplitSet a d => 42#6 ++ a ++ 0#5 ++ d ++ 1#5 ++ 3#6
  | .mfloor a b d => 42#6 ++ a ++ b ++ d ++ 0#5 ++ 4#6
  | .mfloorSet a b d => 42#6 ++ a ++ b ++ d ++ 1#5 ++ 4#6
  | .ocal a d => 43#6 ++ a ++ 0#5 ++ d ++ 0#5 ++ 0#6
  | .onext a d => 43#6 ++ a ++ 0#5 ++ d ++ 0#5 ++ 1#6
  | .opol a d => 43#6 ++ a ++ 0#5 ++ d ++ 0#5 ++ 2#6
  | .opolSet a d => 43#6 ++ a ++ 0#5 ++ d ++ 1#5 ++ 2#6
  | .ostat a d => 43#6 ++ a ++ 0#5 ++ d ++ 0#5 ++ 3#6
  | .chkpt d => 44#6 ++ 0#10 ++ d ++ 0#5 ++ 0#6
  | .ckreg a b n => 44#6 ++ a ++ b ++ 0#7 ++ n ++ 1#6
  | .ebrd a d w => 44#6 ++ a ++ 0#5 ++ d ++ 0#3 ++ w ++ 2#6
  | .ebclr a b d => 44#6 ++ a ++ b ++ d ++ 0#5 ++ 3#6
  | .killt a d => 44#6 ++ a ++ 0#5 ++ d ++ 0#5 ++ 4#6
  | .dlaunch a b d => 45#6 ++ a ++ b ++ d ++ 0#5 ++ 0#6
  | .migrMove a b d => 45#6 ++ a ++ b ++ d ++ 0#5 ++ 1#6
  | .migrHome a b d => 45#6 ++ a ++ b ++ d ++ 0#5 ++ 1#6
  | .migrEvict a b d => 45#6 ++ a ++ b ++ d ++ 0#5 ++ 1#6
  | .migrResume a b d => 45#6 ++ a ++ b ++ d ++ 0#5 ++ 1#6
  | .vfctlReadField a b d => 45#6 ++ a ++ b ++ d ++ 0#5 ++ 2#6
  | .vfctlWriteField a b d => 45#6 ++ a ++ b ++ d ++ 0#5 ++ 2#6
  | .vfctlCreate a b d => 45#6 ++ a ++ b ++ d ++ 0#5 ++ 2#6
  | .vfctlDestroy a b d => 45#6 ++ a ++ b ++ d ++ 0#5 ++ 2#6
  | .vfctlInval a b d => 45#6 ++ a ++ b ++ d ++ 0#5 ++ 2#6
  | .vfctlWake a b d => 45#6 ++ a ++ b ++ d ++ 0#5 ++ 2#6
  | .vfctlRefuse a b d => 45#6 ++ a ++ b ++ d ++ 0#5 ++ 2#6
  | .rightsRead a b d => 45#6 ++ a ++ b ++ d ++ 0#5 ++ 3#6
  | .rightsGrant a b d => 45#6 ++ a ++ b ++ d ++ 1#5 ++ 3#6
  | .rightsRevoke a b d => 45#6 ++ a ++ b ++ d ++ 2#5 ++ 3#6
  | _ => 0#32

/-- The row has a word in the opcode table. -/
def Instr.hasWord (i : Instr) : Bool := encode i != 0#32

/-- The row whose constructor the decoder answers for a shared word: MIGR_MOVE for the MIGR rows, VFCTL_READ_FIELD for
the VFCTL rows, the row itself otherwise. -/
noncomputable def Instr.canon (i : Instr) : Instr :=
  match i with
  | .migrHome a b d => .migrMove a b d
  | .migrEvict a b d => .migrMove a b d
  | .migrResume a b d => .migrMove a b d
  | .vfctlWriteField a b d => .vfctlReadField a b d
  | .vfctlCreate a b d => .vfctlReadField a b d
  | .vfctlDestroy a b d => .vfctlReadField a b d
  | .vfctlInval a b d => .vfctlReadField a b d
  | .vfctlWake a b d => .vfctlReadField a b d
  | .vfctlRefuse a b d => .vfctlReadField a b d
  | _ => i

end Sys2Proof
end

