-- ==== Sys2Proof/Config.lean ====
section
/-! DEFINITION. What the spec leaves open: free values without a body (log entries name each), and nothing else. -/

namespace Sys2Proof.Config

/-- The next of the due alternatives, by draw number and count (log entry 5); used modulo the count. -/
opaque choose : Nat → Nat → Nat

/-- A free yes or no, by draw number: whether a relaxed store merges (R180), whether a cached translation or import
entry is still held (R159, R188), whether a cache access misses (R149, R164). -/
opaque flip : Nat → Bool

/-- A digest or signature the service die forms (R477, R478): 48 bytes for a byte string and a draw number. -/
opaque digest : Nat → List Byte → List Byte

/-- Whether a firmware image's signature verifies (R477). -/
opaque verifies : List Byte → Bool

/-- A value that the spec does not state, by draw number. -/
opaque unstated : Nat → Nat

/-- The channel of a stack that serves an HBM address; the spec lays no channels out (R338). -/
opaque channel : Nat → Nat

/-- A quantity measured by a sensor or counted by a clock of its own (R410, R416, R419). -/
opaque sensor : Nat → Nat

/-- Whether Faldor enrols a core for checkpoints at boot (R330, R340). -/
opaque enrolled : Nat → Bool

/-- The bytes of a core-state block, whose layout is not architectural (R460), by draw number. -/
opaque blockByte : Nat → Nat → Byte

/-- The panels of a gang (R438), by function. -/
opaque gangPanel : Nat → Nat → Bool

/-- Whether panel `m` reaches panel `d` in a slot of the calendar numbered by EPOCH (R430): epoch, m, d, slot. -/
opaque reaches : Nat → Nat → Nat → Nat → Bool

/-- The panel is an IF9-C24 (R1). -/
opaque isC24 : Bool

/-- The panel's number and the panels of its system, as Faldor sets them (R63). -/
opaque panelNumber : Nat

/-- See `panelNumber`. -/
opaque systemPanels : Nat

/-- The bring-up step that fails, by draw number; outside 1 to 6: none (R476). -/
opaque failingStep : Nat → Nat

/-- A site's router or die SRAM fails its test (R476). -/
opaque siteFails : Nat → Bool

/-- A physical core fails its test: site * 64 + index (R476). -/
opaque coreFails : Nat → Bool

end Sys2Proof.Config
end

