-- ==== Sys2Proof/Machine/State.lean ====
section
/-! DEFINITION. The state of one panel, as plain data: every thread slot, core, quad, die, home and controller that the
spec names. Sparse parts are sorted lists of key and value (`SMap`) whose unlisted keys hold the named default. -/

namespace Sys2Proof.Machine

/-- A sparse map: keys rising, no entry equal to the map's default. -/
abbrev SMap (α : Type) := List (Nat × α)

/-! ## Threads (R90 to R114) -/

/-- The park reasons of R91. -/
inductive Park where
  | mem | remote | fe | page | engine | waitgen | recv | barrier | quota | power | sleep | migrate | gang
  deriving DecidableEq, Repr

/-- A slot's own state (R90). Gating, live migration, eviction and retirement hold the slot from outside (the core's
fields) and leave this state as the former state it returns to. -/
inductive SlotState where
  | free | run | parked (why : Park) | killed
  deriving DecidableEq, Repr

/-- A vector lane: data, check value and check bit (R194). -/
structure Lane where
  data : BitVec 32 := 0
  ck : BitVec 8 := 0
  c : Bool := false
  deriving DecidableEq, Repr

/-- The fields of TSR (R103). -/
structure Tsr where
  res : Bool := false
  pair : Bool := false
  sc : Bool := false
  rc : Bool := false
  uia : Bool := false
  uie : Bool := false
  th : Bool := false
  sg : Bool := false
  pp : Bool := false
  pl : BitVec 2 := 0
  rm : BitVec 3 := 0
  flags : BitVec 5 := 0
  deriving DecidableEq, Repr

/-- An asynchronous event of a thread's FIFO (R111): class, subcode, bits 23:16 of UICAUSE, identifier. -/
structure Event where
  cls : Nat
  sub : Nat := 0
  extra : Nat := 0
  id : Nat := 0
  deriving DecidableEq, Repr

/-- The state of the exact-dot accumulator (R225). -/
inductive XState where
  | finite | posInf | negInf | nan
  deriving DecidableEq, Repr

/-- A line of the fetch buffer (R483): effective address of the line and its sixteen words. -/
structure Line where
  ea : Nat
  words : List (BitVec 32)
  deriving DecidableEq, Repr

/-- An open signed block (R114): words left, running CRC, and the CRC its BSIG names. -/
structure Block where
  left : Nat
  crc : BitVec 16
  want : BitVec 16
  deriving DecidableEq, Repr

/-- One captured instruction of a repetition (R68): the step, its word and its own prefix. -/
structure Capture where
  insn : Instr
  word : BitVec 32
  pfx : Option (BitVec 26)
  deriving DecidableEq, Repr

/-- The shadow latch (R202): destination register and the lanes the latched instruction wrote, with their results, and the
unit cycles it took (R199). -/
structure Latch where
  vd : Nat
  lanes : List (Nat × BitVec 32)
  cycles : Nat := 1
  deriving DecidableEq, Repr

/-- A refusal record (R303, R320). -/
structure RefRec where
  code : Nat
  kind : Nat
  seq : Nat
  index : Nat
  addr : Word
  deriving DecidableEq, Repr

/-- What a thread that is parked, or that resumes, keeps of its operation: the parked instruction, how far it has come,
the bytes gathered, a number of its own, what has come back, the cycle at which PARK, RECVT or RTIMEOUT ends (none: no
count), whether the page it names was refused (R160), whether the next issue continues a word already issued, and the accesses still to
be made with the address they are reported under. -/
structure Op where
  insn : Option Instr := none
  word : BitVec 32 := 0
  phase : Nat := 0
  got : List Byte := []
  aux : Nat := 0
  reply : Reply := .none
  deadline : Option Nat := none
  refused : Bool := false
  again : Bool := false
  todo : List Access := []
  ea : Word := 0
  da : Word := 0
  pinned : Bool := false
  relaxed : Bool := false
  /-- the instruction waits for the service die (R462) -/
  service : Bool := false
  /-- the accesses fetch an instruction line (R483) -/
  fetch : Bool := false
  /-- panel and address of a full/empty word there at which the thread waits (R190) -/
  feAt : Option (Nat × Nat) := none
  deriving DecidableEq, Repr

/-- A unit instruction accepted by a unit's queue: thread, instruction, its word, prefix and the scalar operands read
at issue (R240, R199). `started` and `geom`: the matrix unit reads rows for it under this descriptor (R254). -/
structure UnitOp where
  thread : Nat
  insn : Instr
  word : BitVec 32
  pfx : Option (BitVec 26)
  a : Word := 0
  b : Word := 0
  replay : Bool := false
  started : Bool := false
  geom : Word := 0
  deriving DecidableEq, Repr

/-- How an issued replay is held: not at all, returned to the sequencer for a page (R160), or waiting for a remote answer
(R211). -/
inductive RepHold where
  | none | page | remote
  deriving DecidableEq, Repr

/-- A replay that has issued and has not completed (R89, R110): its instruction as its engine took it, whether the vector
unit did, REPSTATE if it faults (R71), the scalar registers it reads as it found them, what holds it, and the accesses it
makes outside its core (R211). -/
structure Flight where
  o : UnitOp
  vec : Bool
  state : BitVec 29
  scal : List (Nat × Word) := []
  hold : RepHold := .none
  op : Op := {}
  deriving DecidableEq, Repr

/-- A thread's repetition buffer (R67 to R70, R110): captures, k, s, next replay `i` and index `j`; `since` is the
cycle of the last replay or capture (R89); `live` while replays remain unissued. -/
structure Rep where
  caps : List Capture := []
  k : Nat := 0
  s : Nat := 0
  i : Nat := 0
  j : Nat := 0
  since : Nat := 0
  live : Bool := false
  /-- words still to be captured, and a captured PFX that waits for its target (R68) -/
  want : Nat := 0
  pfx : Option (BitVec 26) := none
  deriving DecidableEq, Repr

/-- An entry of the load-value queue of a paired thread (R335): the word and its place, the registers it wrote, whether
a scope was clamped, or the trap it came to. -/
structure LoadValue where
  word : BitVec 32
  pc : Word
  vals : List (Nat × Word) := []
  sc : Bool := false
  trap : Option Cause := none
  deriving DecidableEq, Repr

/-- One thread slot of a logical core, with everything a thread carries (R96 to R114, R153, R194, R225, R304). -/
structure Thread where
  st : SlotState := .free
  pc : Word := 0
  g : Vector Word 32 := Vector.replicate 32 0
  /-- the residue modulo 15 that goes with each scalar register (R336) -/
  residue : Vector Nat 32 := Vector.replicate 32 0
  v : Vector (Vector Lane 64) 8 := Vector.replicate 8 (Vector.replicate 64 {})
  m : Vector Word 4 := Vector.replicate 4 0
  xacc : BitVec 640 := 0
  xstate : XState := .finite
  tsr : Tsr := {}
  pfxsave : BitVec 26 := 0
  repstate : BitVec 29 := 0
  rndlfsr : BitVec 32 := 1
  utvec : Word := 0
  uiepc : Word := 0
  uipfx : BitVec 26 := 0
  uicause : BitVec 32 := 0
  uixid : Word := 0
  uienable : BitVec 16 := 0
  uiovf : Bool := false
  fifo : List Event := []
  rtimeout : Word := 0x100000
  home : Nat := 0
  origin : Nat := 0
  launch : Nat := 0
  /-- the slot of the birth, which GROUP keeps through a migration (R100, R104) -/
  slot : Nat := 0
  fn : Nat := 0
  lease : Nat := 0
  tepc : Word := 0
  tcause : BitVec 18 := 0
  tval : Word := 0
  tstat : Word := 0
  tpfx : BitVec 26 := 0
  sigV : Bool := false
  sigRem : Nat := 0
  sigCrc : BitVec 16 := 0
  stvec : Word := 0
  ltvec : Word := 0
  ptvec : Word := 0
  segs : Vector Seg 8 := Vector.replicate 8 {}
  /-- the CRC named by the block that SIGSAVE describes -/
  sigWant : BitVec 16 := 0
  /-- the open block before the word at pc, and after it once that word has been fetched for issue -/
  blk : Option Block := none
  blkNext : Option Block := none
  fbuf : List Line := []
  /-- the line that is being fetched ahead from another panel, with the number of its request (R483) -/
  ahead : Option (Nat × Nat) := none
  rep : Rep := {}
  /-- the replay in flight, and the fault of a replay that waits for the thread's next issue (R110) -/
  fly : Option Flight := none
  repFault : Option Cause := none
  latch : Option Latch := none
  nseq : BitVec 16 := 0
  rovf : Bool := false
  refusals : List RefRec := []
  /-- the slot's 2-bit generation (R307); kept across births -/
  gen : BitVec 2 := 0
  /-- generations whose timed-out request is still unanswered, with the cycle they expire (R309) -/
  unanswered : List (Nat × Nat) := []
  /-- the operation the thread is parked in, or resumes -/
  op : Op := {}
  /-- a residue-mode integer instruction has used its first issue (R336) -/
  resHalf : Bool := false
  /-- a paired copy presents an instruction that needs both copies (R335) -/
  present : Bool := false
  /-- values the leading copy has loaded and the trailing one has not taken yet (R335) -/
  lvq : List LoadValue := []
  /-- the word the thread executes, kept while it resumes it -/
  word : BitVec 32 := 0
  deriving DecidableEq, Repr

/-! ## Accesses, the journal and what is in flight (R165 to R170, R180, R303, R307) -/

/-- An item on the way: a request, its answer, a journal entry of this panel or of another one, a provisional grant from
another panel. -/
inductive Item where
  | request (r : Request)
  | answer (thread gen : Nat) (r : Reply) (replay : Bool) (since : Nat)
  | entry (core idx seq : Nat)
  | foreign (panel core idx : Nat) (e : JEntry)
  | grant (panel thread gen : Nat) (r : Reply)
  deriving DecidableEq, Repr

/-- Who waits at a home's wait table (R169). -/
inductive Waiter where
  | thread (t gen : Nat) (far : Bool)
  | journal (core idx seq : Nat)
  deriving DecidableEq, Repr

/-- The kinds of wait-table entries: LDE and LDF (drain), STF (fill, with its bytes), WAITGEN (the generation named). -/
inductive WaitKind where
  | drain (take : Bool)
  | fill (bs : List Byte)
  | gen (g : Nat)
  deriving DecidableEq, Repr

/-- A wait-table entry or an overflow waiter with its ticket (R169, R170). `held`: a provisional grant to a remote
waiter is out and the word is held for its confirmation (R310); `since`: the cycle of its arrival. -/
structure WaitEntry where
  addr : Nat
  who : Waiter
  kind : WaitKind
  ticket : Nat := 0
  held : Bool := false
  since : Nat := 0
  deriving DecidableEq, Repr

/-- A waiter of a translation miss at a quad's port (R160): a thread or, for a replay, its sequencer. -/
structure PageWaiter where
  asid : Nat
  page : Nat
  thread : Nat
  replay : Bool
  deriving DecidableEq, Repr

/-- A combined entry of a port's translation cache (R159): ASID, 64 KiB FVA page, physical page, rights, pin. -/
structure TlbEntry where
  asid : Nat
  page : Nat
  phys : Nat
  r : Bool
  w : Bool
  d : Bool
  pin : Bool
  deriving DecidableEq, Repr

/-- An import-buffer entry (R188): function, lease, panel and granule it copies, and the cycle at which it ends. -/
structure ImportEntry where
  fn : Nat
  lease : Nat
  panel : Nat
  granule : Nat
  bytes : List Byte
  ends : Nat
  deriving DecidableEq, Repr

/-- An inbox entry: header bits other than V and COUNT, payload, thread it is bound to (R298 to R301). -/
structure InboxEntry where
  header : Word
  payload : List Byte
  bound : Option Nat := none
  /-- the completed operation wrote another panel (R191) -/
  far : Bool := false
  deriving DecidableEq, Repr

/-! ## Streams and copies (R265 to R280) -/

/-- A stream descriptor (R266). -/
structure Desc where
  base : Word := 0
  s : List Int := [0, 0, 0, 0]
  n : List Nat := [0, 0, 0, 0]
  c : List Int := [0, 0, 0, 0]
  e : List Nat := [0, 0, 0, 0]
  aux : Word := 0
  cstep : Int := 0
  esz : Nat := 0
  dirOut : Bool := false
  sx : Bool := false
  deriving DecidableEq, Repr

/-- Whose segments, level and function an engine's accesses are checked under (R271, R276, R348). -/
structure Agent where
  fn : Nat := 0
  lease : Nat := 0
  level : Nat := 0
  home : Nat := 0
  segs : Vector Seg 8 := Vector.replicate 8 {}
  deriving DecidableEq, Repr

/-- An element fetched ahead: its bytes, or the fault it met; or one pushed, with its checked place and the address it is
reported under (R271). -/
inductive Elem where
  | ok (bs : List Byte)
  | bad (c : Cause)
  | page
  | out (bs : List Byte) (d : Dest) (a : Nat) (da ea : Word)
  deriving DecidableEq, Repr

/-- A stream context (R265 to R271). `buf`: elements fetched ahead (in) or pushed and not drained (out) by index;
`asked`: elements whose access has been issued; `refused`: the address of a drained store that was refused. `fn`, `lease`
and `level` are the owner's at the binding, `epoch` counts the windows opened (R272), `got` holds what a ring fill has
read so far. -/
structure Ctx where
  loaded : Bool := false
  bound : Bool := false
  susp : Bool := false
  kind : Nat := 0
  n : Nat := 0
  owner : Nat := 0
  err : Nat := 0
  desc : Desc := {}
  pos : Nat := 0
  buf : List (Nat × Elem) := []
  asked : List Nat := []
  refused : Option Word := none
  fn : Nat := 0
  lease : Nat := 0
  level : Nat := 0
  epoch : Nat := 0
  got : List Byte := []
  /-- the ring fill in progress: the first of its claimed slots, their number, and the descriptor that governs them (R275) -/
  fill : Option (Nat × Nat × Word) := none
  /-- what its owner could access when it was killed, for what goes on after the kill (R249, R274) -/
  heir : Option Agent := none
  deriving DecidableEq, Repr

/-- States of a copy slot (R279). -/
inductive CopyState where
  | free | queued | running | held | ended
  deriving DecidableEq, Repr

/-- A copy slot (R276 to R280): what it may access, its parameter block, bytes performed, whether a chunk is in progress,
what it has read of it and how many of its steps on other panels are done, the panels to which frames have gone, and whether
it waits for another panel's answer. -/
structure Copy where
  st : CopyState := .free
  seq : Nat := 0
  thread : Nat := 0
  who : Agent := {}
  block : List Byte := []
  done : Nat := 0
  inChunk : Bool := false
  got : List Byte := []
  step : Nat := 0
  frames : List Nat := []
  waiting : Bool := false
  far : Bool := false
  code : Nat := 0
  detail : Nat := 0
  ended : Nat := 0
  /-- the thread's birth is over: its events go to the event thread (R278) -/
  orphan : Bool := false
  deriving DecidableEq, Repr

/-! ## The matrix unit (R229 to R249) -/

/-- A ring: definition and counters (R233). `pend` lists the CLAIMED slots from the oldest, `true` for one whose fill has
ended out of order; NL is their number (R234). -/
structure Ring where
  first : Nat := 0
  fwd : Nat := 0
  len : Nat := 0
  pend : List Bool := []
  nh : Nat := 0
  nf : Nat := 0
  fi : Nat := 0
  ci : Nat := 0
  pi : Nat := 0
  deriving DecidableEq, Repr

/-- Slots that are CLAIMED (R234). -/
def Ring.nl (r : Ring) : Nat := r.pend.length

/-- The running accumulator of one C element in the internal format (R50) or an exact INT32. -/
inductive Acc where
  | zero (neg : Bool)
  | fin (neg : Bool) (man : Nat) (exp : Int)
  | inf (neg : Bool)
  | nan
  | int (v : Int)
  deriving DecidableEq, Repr

/-- A multi-chunk operation in progress (R244): the instruction, its chunk, accumulators, the formats of this run's
first chunk, whether it is held after a spill and why, whether its thread was killed (R249), its function, ACCG as it took
it, and the mode, saturate bit, LFSR and flags that belong to its thread (R253). -/
structure MatOp where
  op : UnitOp
  chunk : Nat
  acc : List Acc := []
  loaded : Bool := false
  fmts : Option (Nat × Nat) := none
  held : Nat := 0
  dead : Bool := false
  fn : Nat := 0
  accg : Word := 0
  mode : Nat := 0
  sat : Bool := false
  lfsr : BitVec 32 := 1
  flags : BitVec 5 := 0
  deriving DecidableEq, Repr

/-- A HELD slot (R237): its ring, the neighbour its tile goes to, and whether it is still to be sent, sent, or accepted. -/
structure Forward where
  ring : Nat
  dest : Option Nat
  phase : Nat := 0
  deriving DecidableEq, Repr

/-- The suspended-operation record (R247). -/
structure MatRec where
  v : Bool := false
  cause : Nat := 0
  tile : Nat := 0
  ra : Nat := 0
  rb : Nat := 0
  sparse : Bool := false
  acce : Bool := false
  chunk : Nat := 0
  deriving DecidableEq, Repr

/-! ## Containment (R311 to R341) -/

/-- Service state of a logical core (R334) and of its context (R101). -/
inductive Service where
  | inService | frozen | restoring | absent
  deriving DecidableEq, Repr

/-- Where a logical core's context runs: physical site and core index, latency band, EPOCH, forwarding in force and the
cycle of the vacate point, held traffic in order of arrival (R311 to R329). -/
structure Place where
  site : Nat := 0
  index : Nat := 0
  band : Nat := 0
  epoch : Nat := 0
  exception : Bool := false
  fwd : Bool := false
  vacated : Nat := 0
  /-- cycle of the commit of the exception since the vacate point, and the cores whose routers send to the new site (R312,
  R328) -/
  commit : Option Nat := none
  switched : List Nat := []
  service : Service := .inService
  held : List Instr := []
  /-- the head of the held traffic has been offered to the new site -/
  offered : Bool := false
  /-- the core at the nominal place has failed -/
  unsound : Bool := false
  /-- cycles of the uncorrectable errors of classes 0x06 to 0x09 in the last second (R334) -/
  errors : List Nat := []
  deriving DecidableEq, Repr

/-- A checkpoint image's header and thread state (R330); its regions lie in the buddy's die SRAM. -/
structure Image where
  epoch : BitVec 32
  ckrg : Vector (Nat × Nat) 8
  htabEn : Bool
  htabBase : BitVec 9
  spillCount : Nat
  spillHead : Nat
  spillSize : Nat
  spillBase : BitVec 11
  inbox : List InboxEntry
  rwait : List Nat
  threads : List Thread
  deriving DecidableEq, Repr

/-- An error bank: record words as fields (R338). -/
structure Bank where
  v : Bool := false
  sev : Bool := false
  ovf : Bool := false
  cls : Nat := 0
  lastCls : Nat := 0
  count : Nat := 0
  seq : Nat := 0
  unit : Nat := 0
  slot : Nat := 0
  addr : Word := 0
  cycle : Word := 0
  deriving DecidableEq, Repr

/-- An error on its way into a bank (R339): the bank's kind (0 quad, 1 die, 2 HBM edge die, 3 optical edge die) and number,
and what its record will hold. -/
structure BankError where
  kind : Nat
  num : Nat
  cls : Nat
  unit : Nat
  slot : Nat
  addr : Word
  cycle : Word
  deriving DecidableEq, Repr

/-! ## Collectives (R347 to R361) -/

/-- States of a collective context (R353). -/
inductive CollState where
  | free | defined | armed | running | held | ended
  deriving DecidableEq, Repr

/-- A collective context (R348, R353 to R361): its definition; `core` executed CDEF; the stage and chunk of the run it
has come to, granules received and not used (at most two chunks of them beyond what the next step needs), chunks sent and not yet accepted with their receiver's rank (`true`: on their
way to another panel); the cycle of the last progress; peers that have reported HELD and since when; completions still to
be sent, with owner, core and identifier. Members are panel * 1024 + die. -/
structure Coll where
  st : CollState := .free
  back : CollState := .defined
  owner : Nat := 0
  who : Agent := {}
  core : Nat := 0
  buf : Word := 0
  len : Nat := 0
  members : List Nat := []
  cid : Nat := 0
  kind : Nat := 0
  op : Nat := 0
  type : Nat := 0
  sat : Bool := false
  chlog : Nat := 8
  ncore : Nat := 0
  tag : Word := 0
  ctimeout : Nat := 0
  rank : Nat := 0
  run : Nat := 0
  share : Nat := 16
  code : Nat := 0
  flags : BitVec 5 := 0
  prank : Nat := 0
  pcnt : Nat := 0
  stage : Nat := 0
  chunk : Nat := 0
  rx : List Chunk := []
  unsent : List (Nat × Chunk × Bool) := []
  /-- hold notices that stand, by rank and run, and runs of which an abort notice came before this member began them -/
  heldPeers : List (Nat × Nat) := []
  aborts : List Nat := []
  paused : Nat := 0
  progress : Nat := 0
  outbox : List (Nat × Nat × Nat × InboxEntry) := []
  deriving DecidableEq, Repr

/-! ## Barriers (R368 to R378) -/

/-- States of a barrier context (R372). -/
inductive BarState where
  | free | opened | expired
  deriving DecidableEq, Repr

/-- A barrier context: root state, masks of the die subtrees by die number, threads parked in BARW (R368, R372). `test`: an
arrival, an excusal or BMASK of this cycle asks for the test for completion, `emptied`: it has taken PCOUNT to 0, `ranOut`:
the timer has reached the timeout in this cycle. -/
structure Barrier where
  st : BarState := .free
  owner : Nat := 0
  ae : Bool := false
  gen : Nat := 0
  exc : Bool := false
  lexc : Bool := false
  lpcount : Nat := 0
  btime : Nat := 0
  timer : Option Nat := none
  part : SMap Word := []
  arr : SMap Word := []
  early : SMap Word := []
  waiters : List (Nat × Nat) := []
  test : Bool := false
  emptied : Bool := false
  ranOut : Bool := false
  deriving DecidableEq, Repr

/-! ## The trier (R388 to R400) -/

/-- An audit entry (R388, R394, R395). -/
structure AuditEntry where
  en : Bool := false
  tag : Nat := 0
  a : Bool := false
  q : Bool := false
  period : Nat := 1
  seed : BitVec 32 := 1
  lfsr : BitVec 32 := 1
  n : Nat := 0
  tbin : Nat := 0
  tcount : Nat := 0
  win : Nat := 0
  dest : Bool := false
  trip : Bool := false
  lost : Bool := false
  wcnt : Nat := 0
  wsamp : Nat := 0
  bins : List Nat := List.replicate 16 0
  samp : Nat := 0
  nanc : Nat := 0
  lostc : Nat := 0
  deriving DecidableEq, Repr

/-- An audit record (R391): entry, issuing thread and whether its life is over (R396), kind, core and the bubbles that its
audit has taken (R392). A quantisation record retains the inputs, the output elements, their format and the scale; an
arithmetic record the chunk's tiles, A at 0 and B at 2 with what a pair adds behind each, and the sums that the unit formed. -/
structure AuditRecord where
  entry : Nat
  thread : Nat
  gone : Bool := false
  quant : Bool
  core : Nat
  ins : List Nat := []
  outs : List Nat := []
  fmt : Nat := 0
  scale : Nat := 0
  tiles : List Tile := []
  sums : List Acc := []
  work : Nat := 0
  deriving DecidableEq, Repr

/-- A quad's trier (R388): its entries, the records of its audit buffer, oldest first, and the candidates of the current
cycle, which it counts at the cycle's end in ascending core index (R390). -/
structure Trier where
  entries : Vector AuditEntry 16 := Vector.replicate 16 {}
  records : List AuditRecord := []
  cands : List AuditRecord := []
  deriving DecidableEq, Repr

/-- Changes every record that a trier holds. -/
def Trier.mapRecords (f : AuditRecord → AuditRecord) (x : Trier) : Trier :=
  { x with records := x.records.map f, cands := x.cands.map f }

/-! ## Metering (R409 to R419) -/

/-- A function's allowance at a charging point, and the refusal that stands there (R411, R413): `waiting` records work
held on a failed test, `asked` a request in flight. -/
structure Allowance where
  amount : Int := 0
  refused : Bool := false
  asked : Bool := false
  waiting : Bool := false
  deriving DecidableEq, Repr

/-- Cumulative charges of one function: energy and events of each class (R422). -/
structure Usage where
  energy : Nat := 0
  events : Nat := 0
  deriving DecidableEq, Repr

/-- A charging point: allowances and usage by function; usage is keyed by function * 32 + class; `posted` is what has
been told to the service die (R422). -/
structure Meter where
  allow : SMap Allowance := []
  usage : SMap Usage := []
  posted : SMap Usage := []
  deriving DecidableEq, Repr

/-! ## The optical edge (R428 to R441) -/

/-- An optical edge die: port group; occupancy of the relay buffer in 64-byte units; egress queue, sequence numbers and
frames held early of the peers whose number is congruent to it; frames of this panel that came back NOT_RESIDENT; frames
held for another panel; bulk frames held here with the next chunk by sender and operation; relay credits held and granted
by panel * 128 + destination; bulk parts sent by relay with function and units; end of the last transmission in the slot
in sixteenths of a cycle (R428 to R440). -/
structure ODie where
  up : Bool := false
  txf : Nat := 0
  rxf : Nat := 0
  relayB : Nat := 0
  egress : List Frame := []
  nextSeq : SMap Nat := []
  expect : SMap Nat := []
  early : List Frame := []
  notRes : List Frame := []
  relay : List Frame := []
  bulk : List Frame := []
  chunks : List (Nat × Nat × Nat) := []
  credits : SMap Nat := []
  granted : SMap Nat := []
  relayed : List (List Nat × Nat × Nat) := []
  busy : Nat := 0
  imports : List ImportEntry := []
  /-- the translation cache of its memory port (R163) -/
  tlb : List TlbEntry := []
  bank : Bank := {}
  meter : Meter := {}
  deriving DecidableEq, Repr

/-- The calendar (R430): S, EPOCH, current slot, cycle at which the slot began, peers by slot * 16 + port group (a peer
is its panel number; none: DARK), and a replacement that waits for a period boundary. -/
structure Calendar where
  s : Nat := 0
  epoch : Nat := 0
  slot : Nat := 0
  began : Nat := 0
  entries : List (Option Nat) := []
  next : Option (List (Option Nat)) := none
  deriving DecidableEq, Repr

/-! ## The partition engine (R447 to R467) -/

/-- Function states (R448). -/
inductive FnState where
  | none | idle | active | evicted
  deriving DecidableEq, Repr

/-- A launch record in a queue or in force (R81, R454). `origin`: the core of its origin; `quads`: those it has been
placed on; `births`: slots whose threads are still to be born; `tmpl`: the template in force. -/
structure Launch where
  number : Nat
  fn : Nat
  bytes : List Byte
  origin : Nat := 0
  quads : List Nat := []
  births : List Nat := []
  started : Bool := false
  tmpl : List Byte := []
  deriving DecidableEq, Repr

/-- A function: descriptor, event thread and queue, quota record, relay policy, gate word, launch queues (R112, R413,
R440, R441, R448, R454). -/
structure Func where
  st : FnState := .none
  lease : Nat := 0
  asid : Nat := 0
  lroot : Nat := 0
  scopemax : Nat := 6
  route : Nat := 0
  rights : BitVec 8 := 0
  svct : Nat := 0
  svcm : Nat := 0
  svcn : Nat := 0
  qmax : Nat := 0
  tmpl : Word := 0
  tmplCopy : List Byte := List.replicate 256 0
  save : Nat := 0
  gang : Word := 0
  evthread : Word := 0
  evqueue : List Event := []
  evdrop : Nat := 0
  opol : Word := 0
  gateOpen : Bool := false
  gateLate : Bool := false
  slice : Nat := 0
  sliceG : Nat := 0
  notices : List Nat := []
  bal : Int := 0
  rate : Nat := 0
  cap : Nat := 0
  limrate : Nat := 0
  limcap : Nat := 0
  unl : Bool := false
  boundary : Bool := false
  mfloor : Nat := 0
  share : Nat := 0
  shareNow : Nat := 0
  usage : SMap Usage := []
  dyn : Nat := 0
  quadUs : Nat := 0
  queues : Vector (List Launch) 4 := Vector.replicate 4 []
  saved : List Nat := []
  resume : List Nat := []
  deriving DecidableEq, Repr

/-- A lease (R448, R481). -/
structure Lease where
  live : Bool := false
  proot : Nat := 0
  mgmt : Nat := 0
  ltvec : Word := 0
  rights : BitVec 8 := 0
  qmax : Nat := 0
  mode : Bool := false
  mgrfn : Nat := 0
  queue : List Event := []
  dropped : Nat := 0
  quadUs : Nat := 0
  carry : Nat := 0
  deriving DecidableEq, Repr

/-- Quad states of the partition pool (R456). -/
inductive Hold where
  | out | free
  | reserved (fn : Nat)
  | held (fn launch : Nat) (scrub : Bool)
  | scrub (next : Option Nat)
  deriving DecidableEq, Repr

/-! ## Cores, quads, dies, panel -/

/-- A logical core (R11). Of the matrix unit: the instruction it executes (`munit`), one that goes on after its thread was
killed, which is kept here (`morphan`, R249), held slots in the order in which they were consumed (`forwards`), and threads
that wait with a control instruction (`ctrl`). -/
structure Core where
  cycleOff : Nat := 0
  gated : BitVec 16 := 0
  /-- the context is between sites, saved, or waits for its gang slice: every slot is held (R101, R331, R334) -/
  moving : Bool := false
  /-- a live migration has been ordered: the slots are held while what the units have accepted completes (R245, R279) -/
  leaving : Bool := false
  ganged : Bool := false
  capturing : Bool := false
  htabEn : Bool := false
  htabBase : BitVec 9 := 0
  spillCount : Nat := 0
  spillHead : Nat := 0
  spillSize : Nat := 0
  spillBase : BitVec 11 := 0
  perfreq : BitVec 4 := 0
  /-- one more than the last cycle whose issue was used, by a thread or by the user of its bubble (R88) -/
  spent : Nat := 0
  inbound : List Nat := []
  journal : SMap JEntry := []
  jorder : Nat := 0
  stalereply : Word := 0
  inbox : List InboxEntry := []
  rwait : List Nat := []
  mq : List UnitOp := []
  mwait : List UnitOp := []
  vq : List UnitOp := []
  vwait : List UnitOp := []
  tiles : Vector Tile 16 := Vector.replicate 16 {}
  rings : Vector Ring 4 := Vector.replicate 4 {}
  munit : Option UnitOp := none
  morphan : Option Thread := none
  arrivals : List Arrival := []
  /-- tiles of TSENDs that have not left the send buffer (R240, R309) -/
  sendBuf : List (Nat × Arrival) := []
  forwards : List Forward := []
  accg : Word := 0
  mrect : BitVec 33 := 0
  mrec : MatRec := {}
  accPois : Bool := false
  fref : Bool := false
  mop : Option MatOp := none
  ctrl : List Nat := []
  ctxs : Vector Ctx 16 := Vector.replicate 16 {}
  copies : Vector Copy 16 := Vector.replicate 16 {}
  copySeq : Nat := 0
  oq : List Word := []
  oqWait : List UnitOp := []
  oqLost : Bool := false
  ckEn : Bool := false
  ckValid : Bool := false
  ckEpoch : BitVec 32 := 0
  ckrg : Vector (Nat × Nat) 8 := Vector.replicate 8 (0, 0)
  ckFor : List Nat := []
  image : Option Image := none
  place : Place := {}
  deriving DecidableEq, Repr

/-- A quad of an evicted function (R460): its cores and threads, full/empty bits of its SRAM, and the draws that seal the
core-state blocks. -/
structure Saved where
  cores : List Core := []
  threads : List Thread := []
  full : List Nat := []
  seals : List Nat := []
  deriving DecidableEq, Repr

/-- A quad (R11): partition state, error bank, trier, meter, calibration, operating point, wait table, port. -/
structure Quad where
  hold : Hold := .free
  bank : Bank := {}
  trier : Trier := {}
  meter : Meter := {}
  q : Nat := 256
  cap : Nat := 6
  cur : Nat := 6
  waits : List WaitEntry := []
  tickets : List WaitEntry := []
  nextTicket : Nat := 0
  tlb : List TlbEntry := []
  pages : List PageWaiter := []
  vturn : Nat := 0
  /-- copies of the rights masks: function, then 1000 + lease (R467) -/
  rights : SMap (BitVec 8) := []
  heldSince : Nat := 0
  deriving DecidableEq, Repr

/-- A die: bank, collective engine and its charging point with its calibration ratio (R410). -/
structure Die where
  bank : Bank := {}
  colls : Vector Coll 16 := Vector.replicate 16 {}
  turn : Nat := 0
  meter : Meter := {}
  q : Nat := 256
  deriving DecidableEq, Repr

/-- The Kwardo link's state (R471). -/
inductive LinkState where
  | reset | train | align | active
  deriving DecidableEq, Repr

/-- The Kwardo link as the panel's end holds it (R468 to R472, R475). `txSeq` and `rxSeq` count flits sent and received in
order since RESET, `acked` those acknowledged; `buf` is the replay buffer, `out` what has been put on the lanes, `reads`
the read requests not answered yet. -/
structure Link where
  st : LinkState := .reset
  txSeq : Nat := 0
  rxSeq : Nat := 0
  acked : Nat := 0
  buf : List (List Byte) := []
  out : List (List Byte) := []
  reads : List (Nat × Nat) := []
  nakSent : Bool := false
  replays : Nat := 0
  replaysOfOne : Nat := 0
  corrected : Nat := 0
  uncorrectable : Nat := 0
  retraining : Bool := false
  failed : Bool := false
  since : Nat := 0
  stateSince : Nat := 0
  recent : List Nat := []
  deriving DecidableEq, Repr

/-- An order of MIGR in progress (R461): order code, core or function, who reports, end code so far. -/
structure Order where
  code : Nat
  arg : Nat
  lease : Nat
  stop : Nat := 0
  deriving DecidableEq, Repr

/-- The service die (R416, R475 to R478). -/
structure ServiceDie where
  ptvec : Word := 0
  bootStep : Nat := 0
  bootFail : Nat := 0
  nonce : List Byte := List.replicate 48 0
  quote : List Byte := List.replicate 384 0
  quoting : Bool := false
  fused : Nat := 0
  firmware : List Byte := []
  staged : Option (List Byte × Nat) := none
  launchStatus : SMap Word := []
  sreq : Bool := false
  pool : Nat := 0
  windowFrom : Nat := 0
  refillAt : Nat := 0
  actions : List (Nat × Nat) := []
  lowSince : Nat := 0
  /-- events sent to Faldor and not answered (R160) -/
  events : List Event := []
  deriving DecidableEq, Repr

/-- The panel. `agenda` lists the events and inputs that are due and may happen next in any order; `cur` is the thread
whose word is being executed, `cursor` the next core to be offered an issue in this cycle, `fresh` the index of the next
free value of Config: these four are the model's own. -/
structure State where
  cur : Nat
  cursor : Nat
  cycle : Nat
  fresh : Nat
  agenda : List Instr
  threads : SMap Thread
  cores : SMap Core
  quads : SMap Quad
  dies : SMap Die
  odies : SMap ODie
  hbmBanks : SMap Bank
  /-- the errors of this cycle, in ascending class order (R339) -/
  errors : List BankError
  mem : List Host.Cell
  full : List Nat
  poison : List Nat
  lines : SMap Nat
  net : SMap Item
  nextNet : Nat
  barriers : SMap Barrier
  /-- watches of collective engines: word, threshold, die, context (R359) -/
  watches : List (Nat × Word × Nat × Nat)
  funcs : SMap Func
  leases : SMap Lease
  freeAsids : List Nat
  running : List Launch
  nextLaunch : Nat
  orders : List Order
  /-- saved quads by function * 16384 + quad -/
  saved : SMap Saved
  panelCap : Word
  netCap : Word
  cal : Calendar
  dieSite : SMap Nat
  spareUsed : List Nat
  spareSites : List Nat
  service : ServiceDie
  link : Link
  deriving DecidableEq, Repr

/-- Why the machine stops: an event or outside input names a unit that this panel does not have. -/
inductive Fault where
  /-- raised by the meaning of a machine event whose payload names no thread slot, core, quad, die, context or function
  of the panel; no instruction word raises it. Safe: no such event exists. -/
  | noSuchUnit
  deriving DecidableEq, Repr

/-- Why a step has no meaning. -/
inductive Refusal where
  /-- raised by an arm of exec whose instruction has no meaning yet. Safe: nothing is claimed of it. -/
  | notModelled (mnemonic : String)
  deriving DecidableEq, Repr

/-- The panel right after reset: every record unlisted and so at its default, NETCAP as R63 gives it before boot, POWER_UP
due (log entries 1 to 4). -/
def State.reset : State where
  cur := 0
  cursor := 0
  cycle := 0
  fresh := 0
  agenda := [.powerUp]
  threads := []
  cores := []
  quads := []
  dies := []
  odies := []
  hbmBanks := []
  errors := []
  mem := []
  full := []
  poison := []
  lines := []
  net := []
  nextNet := 0
  barriers := []
  watches := []
  funcs := []
  leases := []
  freeAsids := []
  running := []
  nextLaunch := 0
  orders := []
  saved := []
  panelCap := 0
  netCap := 0x0000000100104040#64
  cal := {}
  dieSite := []
  spareUsed := []
  spareSites := []
  service := {}
  link := {}

end Sys2Proof.Machine
end

