-- ==== Sys2Proof/Machine/Access.lean ====
section
/-! DEFINITION. Sparse maps, the coordinates of R7, and the accessors through which every part of the state is read and
written. -/

namespace Sys2Proof.Machine

/-! ## Sparse maps -/

/-- The value at a key, or the map's default. -/
def smGet {α : Type} (d : α) : SMap α → Nat → α
  | [], _ => d
  | (k', v) :: m, k => if k' = k then v else smGet d m k

/-- Removes a key. -/
def smDrop {α : Type} : SMap α → Nat → SMap α
  | [], _ => []
  | (k', v) :: m, k => if k' = k then smDrop m k else (k', v) :: smDrop m k

/-- Inserts a key that is not listed, keys rising. -/
def smPut {α : Type} : SMap α → Nat → α → SMap α
  | [], k, v => [(k, v)]
  | (k', v') :: m, k, v => if k' < k then (k', v') :: smPut m k v else (k, v) :: (k', v') :: m

/-- Sets the value at a key; setting the default removes the entry. -/
def smSet {α : Type} [DecidableEq α] (d : α) (m : SMap α) (k : Nat) (v : α) : SMap α :=
  if v = d then smDrop m k else smPut (smDrop m k) k v

/-- A sorted list of keys with one more. -/
def keyAdd : List Nat → Nat → List Nat
  | [], k => [k]
  | k' :: l, k => if k' < k then k' :: keyAdd l k else if k' = k then k' :: l else k :: k' :: l

/-- A sorted list of keys with one less. -/
def keyDel (l : List Nat) (k : Nat) : List Nat := l.filter (fun x => x ≠ k)

/-- Applies a function to every place of a file of registers, by list recursion. -/
def vmap {α β : Type} {n : Nat} (f : α → β) (v : Vector α n) : Vector β n :=
  ⟨(v.toList.map f).toArray, by simp⟩

/-- The entry at an index of a file, or a default. -/
def vget {α : Type} {n : Nat} (d : α) (v : Vector α n) (i : Nat) : α := v.toList.getD i d

/-- Changes one entry of a file. -/
def vmod {α : Type} {n : Nat} (d : α) (v : Vector α n) (i : Nat) (f : α → α) : Vector α n :=
  v.setIfInBounds i (f (vget d v i))

/-! ## Coordinates (R7) -/

/-- The x coordinate of a core ID. -/
def xOf (c : Nat) : Nat := c % 256

/-- The y coordinate of a core ID. -/
def yOf (c : Nat) : Nat := c / 256

/-- The core ID of (x, y). -/
def coreAt (x y : Nat) : Nat := y * 256 + x

/-- A core ID that R7 allows. -/
def validCore (c : Nat) : Bool := xOf c < 240 && yOf c < 240

/-- The quad number qy * 120 + qx of a core. -/
def quadOf (c : Nat) : Nat := yOf c / 2 * 120 + xOf c / 2

/-- The core's index in its quad; index 3 is the wide core. -/
def quadIdx (c : Nat) : Nat := xOf c % 2 + 2 * (yOf c % 2)

/-- The core of index `i` of a quad. -/
def coreOfQuad (q i : Nat) : Nat := coreAt (2 * (q % 120) + i % 2) (2 * (q / 120) + i / 2)

/-- The die number dy * 30 + dx of a core. -/
def dieOf (c : Nat) : Nat := yOf c / 8 * 30 + xOf c / 8

/-- The die of a quad. -/
def dieOfQuad (q : Nat) : Nat := q / 120 / 4 * 30 + q % 120 / 4

/-- The core's index within its die (R330). -/
def dieIdx (c : Nat) : Nat := xOf c % 8 + 8 * (yOf c % 8)

/-- The core of index `i` within a die. -/
def coreOfDie (d i : Nat) : Nat := coreAt (8 * (d % 30) + i % 8) (8 * (d / 30) + i / 8)

/-- The quad whose slice holds an offset of a die's SRAM (R156): index (qx & 3) + 4 * (qy & 3). -/
def quadOfDie (d k : Nat) : Nat := (4 * (d / 30) + k / 4) * 120 + 4 * (d % 30) + k % 4

/-- The region gy * 5 + gx of a die. -/
def regionOf (d : Nat) : Nat := d / 30 / 6 * 5 + d % 30 / 6

/-- Manhattan distance of two cores (R62). -/
def dist (c e : Nat) : Nat :=
  (xOf c - xOf e) + (xOf e - xOf c) + ((yOf c - yOf e) + (yOf e - yOf c))

/-- The core of a thread key. -/
def coreOf (t : Nat) : Nat := t / 16

/-- The slot of a thread key. -/
def slotOf (t : Nat) : Nat := t % 16

/-- A thread key that names a slot of a core of the grid. -/
def validThread (t : Nat) : Bool := validCore (coreOf t)

/-! ## Parts of the state -/

namespace State

/-- The thread in a slot. -/
def thr (s : State) (t : Nat) : Thread := smGet {} s.threads t

/-- Writes a slot. -/
def setThr (s : State) (t : Nat) (th : Thread) : State := { s with threads := smSet {} s.threads t th }

/-- Changes a slot. -/
def modThr (s : State) (t : Nat) (f : Thread → Thread) : State := s.setThr t (f (s.thr t))

/-- The thread whose word is being executed. -/
def me (s : State) : Thread := s.thr s.cur

/-- Changes it. -/
def modMe (s : State) (f : Thread → Thread) : State := s.modThr s.cur f

/-- A logical core. -/
def core (s : State) (c : Nat) : Core := smGet {} s.cores c

/-- Writes a core. -/
def setCore (s : State) (c : Nat) (k : Core) : State := { s with cores := smSet {} s.cores c k }

/-- Changes a core. -/
def modCore (s : State) (c : Nat) (f : Core → Core) : State := s.setCore c (f (s.core c))

/-- A quad. -/
def quad (s : State) (q : Nat) : Quad := smGet {} s.quads q

/-- Changes a quad. -/
def modQuad (s : State) (q : Nat) (f : Quad → Quad) : State :=
  { s with quads := smSet {} s.quads q (f (s.quad q)) }

/-- A die. -/
def die (s : State) (d : Nat) : Die := smGet {} s.dies d

/-- Changes a die. -/
def modDie (s : State) (d : Nat) (f : Die → Die) : State := { s with dies := smSet {} s.dies d (f (s.die d)) }

/-- An optical edge die. -/
def odie (s : State) (k : Nat) : ODie := smGet {} s.odies k

/-- Changes an optical edge die. -/
def modOdie (s : State) (k : Nat) (f : ODie → ODie) : State :=
  { s with odies := smSet {} s.odies k (f (s.odie k)) }

/-- A function. -/
def fn (s : State) (f : Nat) : Func := smGet {} s.funcs f

/-- Changes a function. -/
def modFn (s : State) (f : Nat) (g : Func → Func) : State := { s with funcs := smSet {} s.funcs f (g (s.fn f)) }

/-- A lease. -/
def lse (s : State) (l : Nat) : Lease := smGet {} s.leases l

/-- Changes a lease. -/
def modLse (s : State) (l : Nat) (g : Lease → Lease) : State := { s with leases := smSet {} s.leases l (g (s.lse l)) }

/-- A barrier context. -/
def bar (s : State) (x : Nat) : Barrier := smGet {} s.barriers x

/-- Changes a barrier context. -/
def modBar (s : State) (x : Nat) (g : Barrier → Barrier) : State :=
  { s with barriers := smSet {} s.barriers x (g (s.bar x)) }

/-- Adds a due event. -/
def due (s : State) (e : Instr) : State := { s with agenda := s.agenda ++ [e] }

/-- Adds a due event unless it stands already. -/
def dueOnce (s : State) (e : Instr) : State := if s.agenda.contains e then s else s.due e

/-- The core that executes the current word. -/
def here (s : State) : Nat := coreOf s.cur

/-- Draws the next free yes or no. -/
def flip (s : State) : Bool × State := (Config.flip s.fresh, { s with fresh := s.fresh + 1 })

/-- Draws a value that the spec does not state. -/
def unstated (s : State) : Nat × State := (Config.unstated s.fresh, { s with fresh := s.fresh + 1 })

/-! ## Capability words (R63) -/

/-- An IF9-P48's FP64 classes are present. -/
def hasFp64 (s : State) : Bool := s.panelCap.getLsbD 0

/-- The optical edge engine is present. -/
def hasOptical (s : State) : Bool := s.panelCap.getLsbD 1

/-- HBM stacks present. -/
def stackCount (s : State) : Nat := field s.panelCap.toNat 23 16

/-- This panel's number. -/
def panelNo (s : State) : Nat := field s.panelCap.toNat 39 32

/-- Panels in the system. -/
def sysPanels (s : State) : Nat := field s.panelCap.toNat 47 40

/-- The core lists EXT.W class 01 (EXTCAP.XW): every wide core. -/
def xw (_ : State) (c : Nat) : Bool := quadIdx c == 3

/-- The core lists the FP64 classes (EXTCAP.W64). -/
def w64 (s : State) (c : Nat) : Bool := quadIdx c == 3 && s.hasFp64

/-- The core lists an EXT.W class (R60). -/
def listsClass (s : State) (c cl : Nat) : Bool :=
  if cl = 1 then s.xw c else if cl = 0 || cl = 2 then s.w64 c else true

/-- The function that holds a quad (R456). -/
def holder (s : State) (q : Nat) : Option Nat :=
  match (s.quad q).hold with
  | .held f _ _ => some f
  | _ => none

/-- A function holds the quad of a core. -/
def holds (s : State) (f c : Nat) : Bool := s.holder (quadOf c) == some f

end State

end Sys2Proof.Machine
end

