-- ==== Sys2Proof/Machine/Flags.lean ====
section
/-! DEFINITION. The exception flags of R40 and where they go (R41). -/

namespace Sys2Proof.Machine

/-- The five flags NV, DZ, OF, UF, NX (R40). -/
abbrev Flags := BitVec 5

/-- Invalid. -/
def fNV : Flags := 16#5
/-- Division by zero. -/
def fDZ : Flags := 8#5
/-- Overflow. -/
def fOF : Flags := 4#5
/-- Underflow. -/
def fUF : Flags := 2#5
/-- Inexact. -/
def fNX : Flags := 1#5

/-- A flag when a condition holds. -/
def fIf (b : Bool) (f : Flags) : Flags := if b then f else 0#5

/-- The flags of one finite rounding (R40): overflow, underflow and inexact, from the rounded result's place. -/
def roundFlags (overflow tiny zero inexact : Bool) : Flags :=
  if overflow then fOF ||| fNX
  else fIf (tiny && inexact && !zero) fUF ||| fIf inexact fNX

/-- ORs flags into a thread's TSR.FLAGS; nothing clears a flag (R40, R41). -/
def State.raise (s : State) (t : Nat) (f : Flags) : State :=
  if f = 0#5 then s else s.modThr t fun th => { th with tsr := { th.tsr with flags := th.tsr.flags ||| f } }

end Sys2Proof.Machine
end

