-- ==== Sys2Proof/Machine/Numbers.lean ====
section
/-! DEFINITION. The element formats of R22 to R34, exact values, and the one rounding of R37 to R46 that every engine
uses. -/

namespace Sys2Proof.Machine

/-- An exact value: a NaN (signalling or not), an infinity, or man * 2^exp; `st` says that the value lies strictly
between man and man + 1 units of 2^exp. -/
inductive Num where
  | nan (sig : Bool)
  | inf (neg : Bool)
  | fin (neg : Bool) (man : Nat) (exp : Int) (st : Bool)
  deriving DecidableEq, Repr

/-- A floating-point format: precision, least normal exponent, largest finite significand and its exponent, exponent and
fraction field widths (R26, R28). -/
structure FloatFmt where
  p : Nat
  emin : Int
  maxMan : Nat
  maxExp : Int
  ebits : Nat
  fbits : Nat
  deriving DecidableEq, Repr

/-- The layout of a floating-point format code (R22, R26, R28). -/
def floatFmt (f : Nat) : Option FloatFmt :=
  match f with
  | 4 => some ⟨24, -126, 0xFFFFFF, 104, 8, 23⟩
  | 5 => some ⟨8, -126, 0xFF, 120, 8, 7⟩
  | 6 => some ⟨11, -14, 0x7FF, 5, 5, 10⟩
  | 7 => some ⟨4, -6, 14, 5, 4, 3⟩
  | 8 => some ⟨3, -14, 7, 13, 5, 2⟩
  | 9 => some ⟨2, 0, 3, 1, 2, 1⟩
  | 14 => some ⟨53, -1022, 0x1FFFFFFFFFFFFF, 971, 11, 52⟩
  | _ => none

/-- An integer format code. -/
def isIntFmt (f : Nat) : Bool := f ≤ 3 || f == 13

/-- The range of an integer format (R25). -/
def intRange (f : Nat) : Int × Int :=
  match f with
  | 0 => (-128, 127)
  | 1 => (0, 255)
  | 2 => (-32768, 32767)
  | 13 => (-8, 7)
  | _ => (-2147483648, 2147483647)

/-- A value clamped to a range. -/
def clampInt (r : Int × Int) (v : Int) : Int := if v < r.1 then r.1 else if r.2 < v then r.2 else v

/-- An integer narrowed to a format: wrapped, or clamped when it saturates (R25); the low bits of the element. -/
def narrowInt (f : Nat) (sat : Bool) (v : Int) : Nat :=
  wrapInt (fmtWidth f) (if sat then clampInt (intRange f) v else v)

/-- An exact integer as a value. -/
def numOfInt (v : Int) : Num := .fin (v < 0) v.natAbs 0 false

/-- Reads an element of a format code (R25, R26, R28). -/
def readNum (f : Nat) (bits : Nat) : Num :=
  match floatFmt f with
  | none => numOfInt (if f = 1 then ((bits % 256 : Nat) : Int) else signedOf (fmtWidth f) bits)
  | some k =>
    let frac := bits % 2 ^ k.fbits
    let e := bits / 2 ^ k.fbits % 2 ^ k.ebits
    let neg := bitAt bits (k.fbits + k.ebits)
    let top := 2 ^ k.ebits - 1
    if f = 7 ∧ e = top ∧ frac = 7 then .nan false
    else if f ≠ 7 ∧ f ≠ 9 ∧ e = top then
      if frac = 0 then .inf neg else .nan (!bitAt frac (k.fbits - 1))
    else if e = 0 then .fin neg frac (k.emin - (k.p - 1 : Nat)) false
    else .fin neg (2 ^ k.fbits + frac) (k.emin + (e - 1 : Nat) - (k.p - 1 : Nat)) false

/-- The sign bit of a format set in an encoded magnitude. -/
def withSign (k : FloatFmt) (neg : Bool) (mag : Nat) : Nat :=
  if neg then mag + 2 ^ (k.fbits + k.ebits) else mag

/-- The canonical NaN of a format (R27); 0 for F4 and the integers (R44, R46). -/
def canonNaN (f : Nat) : Nat :=
  match f with
  | 4 => 0x7FC00000
  | 5 => 0x7FC0
  | 6 => 0x7E00
  | 7 => 0x7F
  | 8 => 0x7E
  | 14 => 0x7FF8000000000000
  | _ => 0

/-- Encodes a significand at an exponent that the format can hold. -/
def encodeMag (k : FloatFmt) (man : Nat) (exp : Int) : Nat :=
  if man < 2 ^ (k.p - 1) then man
  else if man < 2 ^ k.p then (exp + (k.p - 1 : Nat) - k.emin + 1).toNat * 2 ^ k.fbits + (man - 2 ^ k.fbits)
  else (exp + k.p - k.emin + 1).toNat * 2 ^ k.fbits + (man / 2 - 2 ^ k.fbits)

/-- Whether a discarded part rounds the magnitude up under a mode of R37; `z` is the LFSR's low 24 bits (R38). -/
def roundsUp (mode z : Nat) (neg odd st : Bool) (lo sh : Nat) : Bool :=
  match mode with
  | 0 => 2 ^ sh < 2 * lo || (2 ^ sh == 2 * lo && (st || odd))
  | 2 => !neg && (lo != 0 || st)
  | 3 => neg && (lo != 0 || st)
  | 4 => 2 ^ 24 ≤ lo * 2 ^ 24 / 2 ^ sh + z
  | _ => false

/-- Rounds a magnitude to `p` bits with least exponent `emin`, the exponent unbounded above: significand, its exponent,
and whether the result differs (R37, R38). -/
def roundMag (p : Nat) (emin : Int) (mode z : Nat) (neg : Bool) (man : Nat) (exp : Int) (st : Bool) :
    Nat × Int × Bool :=
  let top : Int := if man = 0 then emin else exp + Nat.log2 man
  let q : Int := max top emin - (p - 1 : Nat)
  if q ≤ exp then (man * 2 ^ (exp - q).toNat, q, st)
  else
    let sh := (q - exp).toNat
    let lo := man % 2 ^ sh
    let hi := man / 2 ^ sh
    let up := roundsUp mode z neg (hi % 2 == 1) st lo sh
    (if up then hi + 1 else hi, q, lo != 0 || st)

/-- Whether `m * 2^e` exceeds `m' * 2^e'`. -/
def magGt (m : Nat) (e : Int) (m' : Nat) (e' : Int) : Bool :=
  let b := min e e'
  m' * 2 ^ (e' - b).toNat < m * 2 ^ (e - b).toNat

/-- The overflow result of a format (R44): the IEEE result of the mode, the saturated value, or F8E4's NaN. -/
def overflowBits (f : Nat) (k : FloatFmt) (mode : Nat) (sat neg : Bool) : Nat :=
  let big := withSign k neg (encodeMag k k.maxMan k.maxExp)
  let inf := withSign k neg ((2 ^ k.ebits - 1) * 2 ^ k.fbits)
  if f = 9 || sat then big
  else if f = 7 then 0x7F
  else match mode with
    | 1 => big
    | 2 => if neg then big else inf
    | 3 => if neg then inf else big
    | _ => inf

/-- Rounds a value once into a format under a mode and saturate bit: the element's bits and the flags of the rounding
(R40, R42, R44, R46). A NaN that comes in has been flagged by the operation that read it. -/
def roundTo (f mode : Nat) (sat : Bool) (z : Nat) (v : Num) : Nat × Flags :=
  match floatFmt f with
  | some k =>
    match v with
    | .nan _ => (canonNaN f, fIf (f == 9) fNV)
    | .inf neg =>
      if f = 9 then (overflowBits f k mode true neg, fOF ||| fNX)
      else if f = 7 then if sat then (overflowBits f k mode true neg, fOF ||| fNX) else (0x7F, fNV)
      else if f = 8 && sat then (withSign k neg ((2 ^ k.ebits - 1) * 2 ^ k.fbits), 0#5)
      else (withSign k neg ((2 ^ k.ebits - 1) * 2 ^ k.fbits), 0#5)
    | .fin neg man exp st =>
      let (m, q, ix) := roundMag k.p k.emin mode z neg man exp st
      if magGt m q k.maxMan k.maxExp then (overflowBits f k mode sat neg, fOF ||| fNX)
      else (withSign k neg (encodeMag k m q), roundFlags false (m < 2 ^ (k.p - 1)) (m == 0) ix)
  | none =>
    let r := intRange f
    match v with
    | .nan _ => (0, fNV)
    | .inf neg => (wrapInt (fmtWidth f) (if neg then r.1 else r.2), fNV)
    | .fin neg man exp st =>
      let sh := (-exp).toNat
      let (hi, lo) := if 0 ≤ exp then (man * 2 ^ exp.toNat, 0) else (man / 2 ^ sh, man % 2 ^ sh)
      let up := if 0 ≤ exp then false else roundsUp mode z neg (hi % 2 == 1) st lo sh
      let m := if up then hi + 1 else hi
      let i : Int := if neg then -(m : Int) else m
      if i < r.1 ∨ r.2 < i then (wrapInt (fmtWidth f) (clampInt r i), fNV)
      else (wrapInt (fmtWidth f) i, fIf (lo != 0 || st) fNX)

/-! ## Exact operations (R27, R48) -/

/-- A value is a NaN. -/
def Num.isNaN : Num → Bool
  | .nan _ => true
  | _ => false

/-- A value is a signalling NaN. -/
def Num.isSig : Num → Bool
  | .nan b => b
  | _ => false

/-- The sign of a value. -/
def Num.neg? : Num → Bool
  | .nan _ => false
  | .inf n => n
  | .fin n _ _ _ => n

/-- A value is a zero. -/
def Num.isZero : Num → Bool
  | .fin _ 0 _ false => true
  | _ => false

/-- A value is an infinity. -/
def Num.isInf : Num → Bool
  | .inf _ => true
  | _ => false

/-- The value with its sign turned. -/
def Num.negate : Num → Num
  | .nan b => .nan b
  | .inf n => .inf (!n)
  | .fin n m e st => .fin (!n) m e st

/-- NV when an operand signals (R27). -/
def sigFlag (xs : List Num) : Flags := fIf (xs.any Num.isSig) fNV

/-- The quiet NaN that every NaN result becomes. -/
def qnan : Num := .nan false

/-- The exact sum of two finite values; `rdn` selects the sign of an exact zero sum of opposite signs (R48). -/
def finAdd (rdn : Bool) (n₁ : Bool) (m₁ : Nat) (e₁ : Int) (n₂ : Bool) (m₂ : Nat) (e₂ : Int) : Num :=
  let b := min e₁ e₂
  let a : Int := m₁ * 2 ^ (e₁ - b).toNat
  let c : Int := m₂ * 2 ^ (e₂ - b).toNat
  let v := (if n₁ then -a else a) + (if n₂ then -c else c)
  if v = 0 then .fin (if n₁ == n₂ then n₁ else rdn) 0 0 false
  else .fin (v < 0) v.natAbs b false

/-- a + b exactly, NaN and infinity rules of R40 and R48. -/
def numAdd (rdn : Bool) (a b : Num) : Num × Flags :=
  match a, b with
  | .fin n₁ m₁ e₁ _, .fin n₂ m₂ e₂ _ => (finAdd rdn n₁ m₁ e₁ n₂ m₂ e₂, 0#5)
  | .inf n, .inf m => if n == m then (.inf n, 0#5) else (qnan, fNV)
  | .inf n, .fin _ _ _ _ => (.inf n, 0#5)
  | .fin _ _ _ _, .inf n => (.inf n, 0#5)
  | _, _ => (qnan, sigFlag [a, b])

/-- a * b exactly. -/
def numMul (a b : Num) : Num × Flags :=
  match a, b with
  | .fin n₁ m₁ e₁ _, .fin n₂ m₂ e₂ _ => (.fin (n₁ != n₂) (m₁ * m₂) (e₁ + e₂) false, 0#5)
  | .inf n, .inf m => (.inf (n != m), 0#5)
  | .inf n, .fin m k _ _ => if k = 0 then (qnan, fNV) else (.inf (n != m), 0#5)
  | .fin m k _ _, .inf n => if k = 0 then (qnan, fNV) else (.inf (n != m), 0#5)
  | _, _ => (qnan, sigFlag [a, b])

/-- a * b + c, rounded nowhere (R48): an invalid product is invalid even with a quiet NaN addend. -/
def numFma (rdn : Bool) (a b c : Num) : Num × Flags :=
  let (p, f) := numMul a b
  let (r, g) := numAdd rdn p c
  (r, f ||| g ||| sigFlag [a, b, c])

/-- a / b with 160 quotient bits and a sticky remainder (R48, R131). -/
def numDiv (a b : Num) : Num × Flags :=
  match a, b with
  | .fin n₁ m₁ e₁ _, .fin n₂ m₂ e₂ _ =>
    if m₂ = 0 then if m₁ = 0 then (qnan, fNV) else (.inf (n₁ != n₂), fDZ)
    else
      let k := 160 + Nat.log2 m₂
      (.fin (n₁ != n₂) (m₁ * 2 ^ k / m₂) (e₁ - e₂ - k) (m₁ * 2 ^ k % m₂ != 0), 0#5)
  | .inf _, .inf _ => (qnan, fNV)
  | .inf n, .fin m _ _ _ => (.inf (n != m), 0#5)
  | .fin n _ _ _, .inf m => (.fin (n != m) 0 0 false, 0#5)
  | _, _ => (qnan, sigFlag [a, b])

/-- The integer square root, bit by bit from 2^n. -/
def isqrt (x : Nat) : Nat → Nat → Nat
  | 0, r => if (r + 1) * (r + 1) ≤ x then r + 1 else r
  | n + 1, r => isqrt x n (if (r + 2 ^ (n + 1)) * (r + 2 ^ (n + 1)) ≤ x then r + 2 ^ (n + 1) else r)

/-- sqrt(a) with at least 160 bits and a sticky remainder (R131). -/
def numSqrt (a : Num) : Num × Flags :=
  match a with
  | .nan b => (qnan, fIf b fNV)
  | .inf n => if n then (qnan, fNV) else (.inf false, 0#5)
  | .fin n m e _ =>
    if m = 0 then (.fin n 0 0 false, 0#5)
    else if n then (qnan, fNV)
    else
      let k : Nat := 320 + (e % 2).toNat
      let x := m * 2 ^ k
      let r := isqrt x (Nat.log2 x / 2 + 1) 0
      (.fin false r ((e - k) / 2) (r * r != x), 0#5)

/-- Orders two values that are not NaN; -0 equals +0 (R133). -/
def numLt (a b : Num) : Bool :=
  match a, b with
  | .inf n, .inf m => n && !m
  | .inf n, .fin _ _ _ _ => n
  | .fin _ _ _ _, .inf n => !n
  | .fin n₁ m₁ e₁ _, .fin n₂ m₂ e₂ _ =>
    let c := min e₁ e₂
    let x : Int := m₁ * 2 ^ (e₁ - c).toNat
    let y : Int := m₂ * 2 ^ (e₂ - c).toNat
    (if n₁ then -x else x) < (if n₂ then -y else y)
  | _, _ => false

/-- Equality of two values that are not NaN; -0 equals +0. -/
def numEq (a b : Num) : Bool := !a.isNaN && !b.isNaN && !numLt a b && !numLt b a

/-- The relations of R133 by condition code, with NV. -/
def numCmp (c : Nat) (a b : Num) : Bool × Flags :=
  let un := a.isNaN || b.isNaN
  let nv := fIf (a.isSig || b.isSig) fNV
  match c with
  | 0 => (numEq a b, nv)
  | 1 => (!un && numLt a b, fIf un fNV)
  | 2 => (!un && (numLt a b || numEq a b), fIf un fNV)
  | 3 => (un, nv)
  | _ => (!numEq a b, nv)

/-- min or max of two operand bit patterns of a format (R48, R132): -0 below +0, the other operand for one NaN. -/
def minMaxBits (f : Nat) (wantMax : Bool) (x y : Nat) : Nat × Flags :=
  let a := readNum f x
  let b := readNum f y
  let fl := sigFlag [a, b]
  if a.isNaN then (if b.isNaN then canonNaN f else y, fl)
  else if b.isNaN then (x, fl)
  else
    let less := numLt a b || (numEq a b && a.neg? && !b.neg?)
    (if less == wantMax then y else x, fl)

/-! ## Transcendental functions (R223) -/

/-- Fixed-point bits of the transcendental series. -/
def fixBits : Nat := 320

/-- ln 2 in fixed point: sum over k of 2 / ((2k + 1) 3^(2k + 1)). -/
def ln2Fix : Nat → Nat → Nat → Nat
  | 0, _, acc => acc
  | n + 1, z, acc =>
    let k := 110 - (n + 1)
    ln2Fix n (z / 9) (acc + 2 * z / (2 * k + 1))

/-- ln 2, scaled by 2^fixBits. -/
def ln2 : Nat := ln2Fix 110 (2 ^ fixBits / 3) 0

/-- The exponential series of a fixed-point `x` below ln 2. -/
def expFix (x : Nat) : Nat → Nat → Nat → Nat
  | 0, _, acc => acc
  | n + 1, term, acc =>
    let k := 81 - (n + 1)
    let t := term * x / 2 ^ fixBits / k
    expFix x n t (acc + t)

/-- atanh series of a fixed-point `z` at most 1/3. -/
def atanhFix (z2 : Nat) : Nat → Nat → Nat → Nat
  | 0, _, acc => acc
  | n + 1, p, acc =>
    let k := 110 - (n + 1)
    atanhFix z2 n (p * z2 / 2 ^ fixBits) (acc + p / (2 * k + 1))

/-- 2^x of a finite value: exact for an integer x, otherwise at least 300 bits with a sticky rest (2^x is irrational
then); |x| of 2^12 or more stands for 2^12. -/
def numExp2 (a : Num) : Num × Flags :=
  match a with
  | .nan b => (qnan, fIf b fNV)
  | .inf n => if n then (.fin false 0 0 false, 0#5) else (.inf false, 0#5)
  | .fin n m e _ =>
    if m = 0 then (.fin false 1 0 false, 0#5)
    else if 12 ≤ e + Nat.log2 m then (.fin false 1 (if n then -4096 else 4096) true, 0#5)
    else
      let ip := if 0 ≤ e then m * 2 ^ e.toNat else m / 2 ^ (-e).toNat
      let fp := if 0 ≤ e then 0 else m % 2 ^ (-e).toNat
      if fp = 0 then (.fin false 1 (if n then -(ip : Int) else ip) false, 0#5)
      else
        let fx := fp * 2 ^ fixBits / 2 ^ (-e).toNat
        let (i, fr) : Int × Nat := if n then (-(ip : Int) - 1, 2 ^ fixBits - fx) else (ip, fx)
        let y := expFix (fr * ln2 / 2 ^ fixBits) 80 (2 ^ fixBits) (2 ^ fixBits)
        (.fin false y (i - fixBits) true, 0#5)

/-- log2(x): exact for a power of two, otherwise a fixed-point value with a sticky rest. -/
def numLog2 (a : Num) : Num × Flags :=
  match a with
  | .nan b => (qnan, fIf b fNV)
  | .inf n => if n then (qnan, fNV) else (.inf false, 0#5)
  | .fin n m e _ =>
    if m = 0 then (.inf true, fDZ)
    else if n then (qnan, fNV)
    else
      let l := Nat.log2 m
      let i : Int := e + l
      if m = 2 ^ l then (numOfInt i, 0#5)
      else
        let z := (m - 2 ^ l) * 2 ^ fixBits / (m + 2 ^ l)
        let ln := 2 * atanhFix (z * z / 2 ^ fixBits) 110 z 0
        let v : Int := i * (2 ^ fixBits : Nat) + (ln * 2 ^ fixBits / ln2 : Nat)
        if v < 0 then (.fin true (v.natAbs - 1) (-(fixBits : Int)) true, 0#5)
        else (.fin false v.toNat (-(fixBits : Int)) true, 0#5)

/-- 1 / sqrt(x), exact only when the significand is a power of four times a power of two. -/
def numRsq (a : Num) : Num × Flags :=
  match a with
  | .nan b => (qnan, fIf b fNV)
  | .inf n => if n then (qnan, fNV) else (.fin false 0 0 false, 0#5)
  | .fin n m e _ =>
    if m = 0 then (.inf n, fDZ)
    else if n then (qnan, fNV)
    else
      let (m', e') : Nat × Int := if e % 2 = 0 then (m, e) else (2 * m, e - 1)
      let k := 200 + Nat.log2 m'
      let x := 2 ^ (2 * k) / m'
      let r := isqrt x k 0
      (.fin false r (-(e' / 2) - k) (r * r * m' != 2 ^ (2 * k)), 0#5)

/-! ## Conversions between element formats (R42 to R47) -/

/-- An element of format `fs` converted to `fd`: integer to integer under R25, every other pair through the exact
value. -/
def convertBits (fs fd mode : Nat) (sat : Bool) (z : Nat) (bits : Nat) : Nat × Flags :=
  let v := readNum fs bits
  if isIntFmt fs && isIntFmt fd then
    match v with
    | .fin n m _ _ => (narrowInt fd sat (if n then -(m : Int) else m), 0#5)
    | _ => (0, 0#5)
  else
    let (r, f) := roundTo fd mode sat z v
    (r, f ||| fIf v.isSig fNV)

/-- One step of the LFSR (R38). -/
def lfsrStep (x : BitVec 32) : BitVec 32 :=
  let nb := x.getLsbD 31 ^^ x.getLsbD 21 ^^ x.getLsbD 1 ^^ x.getLsbD 0
  (x <<< 1) ||| (if nb then 1#32 else 0#32)

/-- The 24 bits that stochastic rounding adds (R38). -/
def lfsrZ (x : BitVec 32) : Nat := x.toNat % 2 ^ 24

/-- The element `f * 2^(s - 127)` of a scaled block (R29, R47). -/
def scaledNum (f : Nat) (s : Nat) (bits : Nat) : Num :=
  if s = 255 then .nan false
  else match readNum (if f = 10 then 7 else if f = 11 then 9 else f) bits with
    | .fin n m e st => .fin n m (e + (s : Int) - 127) st
    | v => v

end Sys2Proof.Machine
end

