-- ==== Sys2Proof/Machine/Operands.lean ====
section
/-! DEFINITION. The operand forms: scalar registers, immediates, TSR and the other thread words, vector registers by
element, effective addresses, scopes (R24, R57, R103, R116, R171, R172, R194, R195). -/

namespace Sys2Proof.Machine

/-! ## Scalar registers -/

/-- A scalar register of a thread; g0 reads zero (R96, R116). -/
def Thread.reg (th : Thread) (r : Nat) : Word := if r = 0 then 0 else th.g.toList.getD r 0

/-- The residue of a value (R336). -/
def residueOf (v : Word) : Nat := v.toNat % 15

/-- Writes a scalar register of a thread, with its residue; a write to g0 is discarded (R116, R336). -/
def Thread.put (th : Thread) (r : Nat) (v : Word) : Thread :=
  if r = 0 then th else { th with g := th.g.setIfInBounds r v, residue := th.residue.setIfInBounds r (residueOf v) }

/-- The residue that a scalar register carries is not that of its value (R336). -/
def Thread.residueBad (th : Thread) (r : Nat) : Bool := th.residue.toList.getD r 0 != residueOf (th.reg r)

/-- Reads a scalar register named by a 5-bit field. -/
def State.g (s : State) (r : BitVec 5) : Word := s.me.reg r.toNat

/-- Writes a scalar register named by a 5-bit field. -/
def State.setG (s : State) (r : BitVec 5) (v : Word) : State := s.modMe fun th => th.put r.toNat v

/-- Reads a scalar register as an unsigned number. -/
def State.gn (s : State) (r : BitVec 5) : Nat := (s.g r).toNat

/-- Writes a number modulo 2^64. -/
def State.setGn (s : State) (r : BitVec 5) (v : Nat) : State := s.setG r (BitVec.ofNat 64 v)

/-- A Boolean as a 64-bit word. -/
def boolWord (b : Bool) : Word := if b then 1 else 0

/-- A sign-extended immediate (R57, R123). -/
def sext {n : Nat} (i : BitVec n) : Word := i.signExtend 64

/-- A zero-extended immediate. -/
def zext {n : Nat} (i : BitVec n) : Word := i.zeroExtend 64

/-! ## TSR (R103) -/

/-- TSR as a word. -/
def Tsr.word (t : Tsr) : Word :=
  BitVec.ofNat 64 (bit t.res <<< 23 + bit t.pair <<< 22 + bit t.sc <<< 21 + bit t.rc <<< 20 + bit t.uia <<< 19 +
    bit t.uie <<< 18 + bit t.th <<< 17 + bit t.sg <<< 16 + bit t.pp <<< 15 + t.pl.toNat <<< 8 + t.rm.toNat <<< 5 +
    t.flags.toNat)

/-- The fields of a word laid out as TSR. -/
def Tsr.ofWord (w : Word) : Tsr where
  res := w.getLsbD 23
  pair := w.getLsbD 22
  sc := w.getLsbD 21
  rc := w.getLsbD 20
  uia := w.getLsbD 19
  uie := w.getLsbD 18
  th := w.getLsbD 17
  sg := w.getLsbD 16
  pp := w.getLsbD 15
  pl := w.extractLsb' 8 2
  rm := w.extractLsb' 5 3
  flags := w.extractLsb' 0 5

/-- The privilege level of the executing thread as a number: 0 U, 1 S, 2 L, 3 P (R105). -/
def State.level (s : State) : Nat := s.me.tsr.pl.toNat

/-! ## The pending prefix (R64) -/

/-- A prefix payload of layout K = 1. -/
def pfxK (p : BitVec 26) : Bool := p.getLsbD 25

/-- Format code of source A. -/
def pfxA (p : BitVec 26) : Nat := if pfxK p then (p.extractLsb' 5 4).toNat else (p.extractLsb' 21 4).toNat

/-- Format code of source B. -/
def pfxB (p : BitVec 26) : Nat := if pfxK p then (p.extractLsb' 5 4).toNat else (p.extractLsb' 17 4).toNat

/-- Format code of the destination. -/
def pfxD (p : BitVec 26) : Nat := if pfxK p then (p.extractLsb' 1 4).toNat else (p.extractLsb' 13 4).toNat

/-- Rounding-mode code. -/
def pfxRm (p : BitVec 26) : Nat := (p.extractLsb' 10 3).toNat

/-- Saturate bit. -/
def pfxSat (p : BitVec 26) : Bool := p.getLsbD 9

/-- Scale selection; none under K = 1. -/
def pfxSsel (p : BitVec 26) : Nat := if pfxK p then 0 else (p.extractLsb' 7 2).toNat

/-- Tensor tag; 0 under K = 0. -/
def pfxTag (p : BitVec 26) : Nat := if pfxK p then (p.extractLsb' 13 12).toNat else 0

/-- The pending prefix of the executing thread. -/
def State.pending (s : State) : Option (BitVec 26) := if s.me.tsr.pp then some s.me.pfxsave else none

/-- Rounding mode in force: the prefix's, or TSR.RM for code 7 or no prefix (R118, R37). -/
def roundMode (rm : Nat) (p : Option (BitVec 26)) : Nat :=
  match p with
  | some q => if pfxRm q = 7 then rm else pfxRm q
  | none => rm

/-! ## Vector and mask registers (R24, R194 to R196) -/

/-- A vector register of a thread. -/
def Thread.vec (th : Thread) (r : Nat) : Vector Lane 64 := th.v.toList.getD (r % 8) (Vector.replicate 64 {})

/-- Lane `i` of a vector register. -/
def Thread.lane (th : Thread) (r i : Nat) : Lane := (th.vec r).toList.getD i {}

/-- Element `e` of width code `w` (0: 8, 1: 16, 2: 32 bits), packed from the low end of its lane (R24, R195). -/
def Thread.elem (th : Thread) (r w e : Nat) : Nat :=
  let per := 4 >>> w
  ((th.lane r (e / per)).data.toNat >>> ((e % per) * (8 <<< w))) % 2 ^ (8 <<< w)

/-- A mask register. -/
def Thread.mask (th : Thread) (m : Nat) : Word := th.m.toList.getD (m % 4) 0

/-- Sets lane `i` of a register. -/
def Thread.setLane (th : Thread) (r i : Nat) (l : Lane) : Thread :=
  { th with v := th.v.setIfInBounds (r % 8) ((th.vec r).setIfInBounds i l) }

/-- Sets a mask register. -/
def Thread.setMask (th : Thread) (m : Nat) (v : Word) : Thread := { th with m := th.m.setIfInBounds (m % 4) v }

/-- The 32-bit lane that elements of width code `w` fill. -/
def packLane (w : Nat) : List Nat → Nat
  | [] => 0
  | x :: xs => x % 2 ^ (8 <<< w) + (packLane w xs) <<< (8 <<< w)

/-- The bytes of a vector register in element order (R24). -/
def Thread.vecBytes (th : Thread) (r : Nat) : List Byte :=
  (th.vec r).toList.flatMap fun l => toBytes 4 l.data.toNat

/-- Splits bytes into little-endian numbers of `n` bytes each. -/
def chunksOf (n : Nat) : Nat → List Byte → List Nat
  | 0, _ => []
  | k + 1, bs => ofBytes (bs.take n) :: chunksOf n k (bs.drop n)

/-! ## Addresses and scopes -/

/-- Effective address of a format-M form (R171). -/
def State.ea {n : Nat} (s : State) (b : BitVec 5) (disp : BitVec n) : Word := s.g b + sext disp

/-- A scope operand as R172 lays it out. -/
def scopeKind (q : Word) : Nat := (q.extractLsb' 32 8).toNat

/-- A scope operand is valid (R172). -/
def scopeValid (q : Word) : Bool :=
  q.extractLsb' 40 24 == 0 && scopeKind q ≤ 7 &&
    (scopeKind q != 0 ||
      (field q.toNat 7 0 ≤ field q.toNat 23 16 && field q.toNat 23 16 ≤ 239 &&
       field q.toNat 15 8 ≤ field q.toNat 31 24 && field q.toNat 31 24 ≤ 239))

/-- A segment's rights as SEGA bits (R153). -/
def rightR : Nat := 1
/-- Stores allowed. -/
def rightW : Nat := 2
/-- Instruction fetch allowed. -/
def rightX : Nat := 4
/-- Full/empty operations allowed. -/
def rightF : Nat := 8

end Sys2Proof.Machine
end

