-- ==== Sys2Proof/Machine/Ops.lean ====
section
/-! DEFINITION. The operations every engine shares: error banks, charges, events, kills, taking an exception and
returning from one, parking and waking (R87 to R113, R338, R339, R409 to R415). -/

namespace Sys2Proof.Machine

/-! ## Error banks (R338, R339) -/

/-- A class is uncorrectable. -/
def uncorrectable (cls : Nat) : Bool := cls != 1 && cls != 3 && cls != 0x0B

/-- An error arrives at a bank (R339). -/
def Bank.record (b : Bank) (cls unit slot : Nat) (addr cycle : Word) : Bank :=
  let sev := uncorrectable cls
  let seq := (b.seq + 1) % 256
  let cnt := min 65535 (b.count + 1)
  let prim : Bank := { b with v := true, sev := sev, cls := cls, unit := unit, slot := slot, addr := addr,
                              cycle := cycle, seq := seq }
  if !b.v then prim
  else if !b.sev && sev then { prim with count := cnt, lastCls := b.cls }
  else if b.sev && sev then { b with ovf := true, count := cnt, lastCls := cls, seq := seq }
  else { b with count := cnt, lastCls := cls, seq := seq }

/-- Word `w` of a bank (R338). -/
def Bank.word (b : Bank) (w : Nat) : Word :=
  match w with
  | 0 => BitVec.ofNat 64 (bit b.v <<< 63 + bit b.sev <<< 62 + bit b.ovf <<< 61 + (b.cls % 256) <<< 53 +
           (b.lastCls % 256) <<< 45 + (b.count % 65536) <<< 29 + (b.seq % 256) <<< 21 + (b.unit % 64) <<< 15 +
           (b.slot % 16) <<< 11)
  | 1 => b.addr
  | 2 => b.cycle
  | _ => 0

/-- The CYCLE of a core (R86, R101). -/
def State.cycleOf (s : State) (c : Nat) : Nat := s.cycle + (s.core c).cycleOff

/-- A bank: quad (0), die (1), HBM edge die (2), optical edge die (3). -/
def State.bankAt (s : State) (k n : Nat) : Bank :=
  match k with
  | 0 => (s.quad n).bank
  | 1 => (s.die n).bank
  | 2 => smGet {} s.hbmBanks n
  | _ => (s.odie n).bank

/-- Changes a bank. -/
def State.setBank (s : State) (k n : Nat) (b : Bank) : State :=
  match k with
  | 0 => s.modQuad n fun x => { x with bank := b }
  | 1 => s.modDie n fun x => { x with bank := b }
  | 2 => { s with hbmBanks := smSet {} s.hbmBanks n b }
  | _ => s.modOdie n fun x => { x with bank := b }

/-- Errors of one cycle stand in ascending class order, those of one class in order of arrival (R339). -/
def insertError (e : BankError) : List BankError → List BankError
  | [] => [e]
  | x :: xs => if e.cls < x.cls then e :: x :: xs else x :: insertError e xs

/-- An error arrives at a bank, which enters it at the end of the cycle (R339). -/
def State.noteError (s : State) (e : BankError) : State := { s with errors := insertError e s.errors }

/-- An error enters its bank. -/
def State.enterError (s : State) (e : BankError) : State :=
  s.setBank e.kind e.num ((s.bankAt e.kind e.num).record e.cls e.unit e.slot e.addr e.cycle)

/-- The banks at the end of a cycle. -/
def State.errorCycle (s : State) : State :=
  { s.errors.foldl State.enterError s with errors := [] }

/-- An error of a core is recorded at its quad's bank, and against the core's retirement (R334, R338). -/
def State.quadError (s : State) (c cls slot : Nat) (addr : Word) : State :=
  let s := s.noteError { kind := 0, num := quadOf c, cls := cls, unit := quadIdx c, slot := slot, addr := addr
                         cycle := BitVec.ofNat 64 (s.cycleOf c) }
  if 6 ≤ cls && cls ≤ 9 then
    let s := s.modCore c fun k =>
      { k with place := { k.place with errors := s.cycle :: k.place.errors.filter (fun x => s.cycle < x + 1500000000) } }
    if 3 ≤ (s.core c).place.errors.length then s.dueOnce (.coreRetire c) else s
  else if cls = 0x0A then s.dueOnce (.coreRetire c)
  else s

/-- An error recorded at the bank of a die or an edge die. -/
def State.bankError (s : State) (k n cls unit : Nat) (addr : Word) (slot : Nat := 0) : State :=
  s.noteError { kind := k, num := n, cls := cls, unit := unit, slot := slot, addr := addr, cycle := BitVec.ofNat 64 s.cycle }

/-- An error recorded at a die's bank. -/
def State.dieError (s : State) (d cls unit : Nat) (addr : Word) : State := s.bankError 1 d cls unit addr

/-! ## Charges (R409 to R413) -/

/-- Nominal entries in 1/256 pJ, by class code (R409). LEAK and SHARE are posted as amounts. -/
def nominalEntry : List Nat :=
  [4096, 2048, 65536, 262144, 2097152, 4194304, 8388608, 131072, 16384, 262144, 64, 128, 256, 512, 786432, 786432,
   16384, 10240, 3072, 6144, 90112, 49152, 12288, 33554432, 524288, 1024, 32768, 6144, 8192, 1, 1, 0]

/-- The factor f_p of an operating point (R417). -/
def pointFactor (p : Nat) : Nat := [256, 115, 141, 169, 200, 228, 256].getD p 256

/-- The entry in force at a quad (R410). -/
def entryAt (q : Quad) (cls : Nat) : Nat := nominalEntry.getD cls 0 * pointFactor q.cur / 256 * q.q / 256

/-- A function's allowance at a meter. -/
def Meter.al (m : Meter) (f : Nat) : Allowance := smGet {} m.allow f

/-- Changes an allowance. -/
def Meter.modAl (m : Meter) (f : Nat) (g : Allowance → Allowance) : Meter :=
  { m with allow := smSet {} m.allow f (g (m.al f)) }

/-- Takes an amount of a class at a meter and counts it. -/
def Meter.take (m : Meter) (f cls amount events : Nat) : Meter :=
  let u := smGet {} m.usage (f * 32 + cls)
  { m.modAl f (fun a => { a with amount := a.amount - amount }) with
    usage := smSet {} m.usage (f * 32 + cls) { energy := u.energy + amount, events := u.events + events } }

/-- The threshold below which a charging point asks for a slice: 5 µJ (R413). -/
def sliceLow : Int := 5000000 * 256

/-- A quad's meter takes `num / den` counts of a class for a function, and asks for a slice when the allowance runs
low. -/
def State.chargePart (s : State) (q f cls num den : Nat) : State :=
  if num = 0 then s
  else
    let s := s.modQuad q fun k => { k with meter := k.meter.take f cls (num * entryAt k cls / den) (max 1 (num / den)) }
    let a := (s.quad q).meter.al f
    if a.amount < sliceLow && !a.asked && !a.refused then
      (s.modQuad q fun k => { k with meter := k.meter.modAl f fun a => { a with asked := true } }).due
        (.sliceRequest 0 q f)
    else s

/-- A quad's meter takes `n` counts of a class for a function. -/
def State.charge (s : State) (q f cls n : Nat) : State := s.chargePart q f cls n 1

/-- A collective engine's meter takes `n` counts of a class at its own entries (R410, R412). -/
def State.chargeDie (s : State) (d f cls n : Nat) : State :=
  let s := s.modDie d fun k => { k with meter := k.meter.take f cls (n * (nominalEntry.getD cls 0 * k.q / 256)) n }
  let a := (s.die d).meter.al f
  if a.amount < sliceLow && !a.asked && !a.refused then
    (s.modDie d fun k => { k with meter := k.meter.modAl f fun a => { a with asked := true } }).due
      (.sliceRequest 1 d f)
  else s

/-- The charge of the thread `t`'s function at the quad where it runs. -/
def State.chargeThread (s : State) (t cls n : Nat) : State := s.charge (quadOf (coreOf t)) (s.thr t).fn cls n

/-- Posts an amount to a function's central balance (R411, R416). -/
def State.post (s : State) (f cls amount : Nat) : State :=
  s.modFn f fun k =>
    let u := smGet {} k.usage cls
    { k with bal := k.bal - amount
             usage := smSet {} k.usage cls { energy := u.energy + amount, events := u.events + 1 } }

/-- Posts an amount to the pool of R416. -/
def State.postPool (s : State) (amount : Nat) : State :=
  { s with service := { s.service with pool := s.service.pool + amount } }

/-- The test of R411 at a die's collective engine. -/
def State.dieQuotaOk (s : State) (d f : Nat) : Bool :=
  (s.fn f).unl || (!(s.fn f).boundary && 0 < ((s.die d).meter.al f).amount)

/-- A failed test there (R411). -/
def State.dieQuotaFail (s : State) (d f : Nat) : State :=
  let a := (s.die d).meter.al f
  let s := s.modDie d fun k => { k with meter := k.meter.modAl f fun a => { a with waiting := true } }
  if a.refused then if (s.fn f).boundary then s else s.dueOnce (.sliceRefusal 1 d f)
  else if a.asked then s
  else (s.modDie d fun k => { k with meter := k.meter.modAl f fun a => { a with asked := true } }).due
         (.sliceRequest 1 d f)

/-- The test of R411 at a quad: the allowance is above zero, or no test of the function ever fails. -/
def State.quotaOk (s : State) (q f : Nat) : Bool :=
  let k := s.fn f
  k.unl || (!k.boundary && 0 < ((s.quad q).meter.al f).amount)

/-- A failed test: it waits, and asks for a slice or, where a refusal stands, ends at the boundary (R411, R414). -/
def State.quotaFail (s : State) (q f : Nat) : State :=
  let a := (s.quad q).meter.al f
  let s := s.modQuad q fun k => { k with meter := k.meter.modAl f fun a => { a with waiting := true } }
  if a.refused then if (s.fn f).boundary then s else s.dueOnce (.sliceRefusal 0 q f)
  else if a.asked then s
  else (s.modQuad q fun k => { k with meter := k.meter.modAl f fun a => { a with asked := true } }).due
         (.sliceRequest 0 q f)

/-! ## Events (R111, R112, R481) -/

/-- A thread parked for one of the interruptible reasons of R91. -/
def SlotState.interruptible : SlotState → Bool
  | .parked .fe => true
  | .parked .waitgen => true
  | .parked .recv => true
  | .parked .sleep => true
  | _ => false

/-- Classes pending in a FIFO, as a mask. -/
def pendingClasses (l : List Event) : Nat := l.foldl (fun m e => m ||| 1 <<< e.cls) 0

/-- The oldest event of the lowest enabled class, with the rest. -/
def takeEvent (en : BitVec 16) (l : List Event) : Option (Event × List Event) :=
  match (List.range 16).find? (fun k => en.getLsbD k && l.any (fun e => e.cls == k)) with
  | none => none
  | some k =>
    match l.find? (fun e => e.cls == k) with
    | none => none
    | some e => some (e, l.erase e)

/-- A user interrupt is deliverable to a thread (R113). -/
def Thread.deliverable (th : Thread) : Bool :=
  th.tsr.uie && !th.tsr.uia && !th.tsr.th && (takeEvent th.uienable th.fifo).isSome

/-- An interruptible park takes a pending event at once (R113). -/
def State.offerInterrupt (s : State) (t : Nat) : State :=
  if (s.thr t).st.interruptible && (s.thr t).deliverable then s.dueOnce (.userInterruptEntry t) else s

/-- Queues an event in a thread's FIFO of 8, or drops it with OVF (R111). -/
def State.queueEvent (s : State) (t : Nat) (e : Event) : State :=
  let th := s.thr t
  if 8 ≤ th.fifo.length then s.modThr t fun th => { th with uiovf := true }
  else (s.modThr t fun th => { th with fifo := th.fifo ++ [e] }).offerInterrupt t

/-- Class of an event addressed to a function: class 3 for quota notices, otherwise 4 (R112). -/
def contextEvent (sub id : Nat) (extra : Nat := 0) : Event := { cls := 4, sub := sub, extra := extra, id := id }

/-- The thread an EVTHREAD names, when it is valid and neither FREE nor KILLED (R112). -/
def State.eventThread (s : State) (f : Nat) : Option Nat :=
  let w := (s.fn f).evthread
  let t := (w.extractLsb' 0 16).toNat * 16 + (w.extractLsb' 16 4).toNat
  if w.getLsbD 63 then
    match (s.thr t).st with
    | .free => none
    | .killed => none
    | _ => some t
  else none

/-- An event addressed to a function: to its event thread, or to the function's queue of 16 (R112). What the queue holds
waits for the next write of EVTHREAD, also when the slot that EVTHREAD names is in use again: newer events then pass it
(DESIGN CHOICE, log entry 75). -/
def State.fnEvent (s : State) (f : Nat) (e : Event) : State :=
  match s.eventThread f with
  | some t => s.queueEvent t e
  | none =>
    if (s.fn f).evqueue.length < 16 then s.modFn f fun k => { k with evqueue := k.evqueue ++ [e] }
    else s.modFn f fun k => { k with evdrop := k.evdrop + 1 }

/-- An event addressed to a lease's manager (R481). -/
def State.leaseEvent (s : State) (l : Nat) (e : Event) : State :=
  let m := (s.lse l).mgrfn
  if (s.fn m).st != .none && (s.fn m).lease == l then s.fnEvent m e
  else if (s.lse l).queue.length < 16 then s.modLse l fun k => { k with queue := k.queue ++ [e] }
  else s.modLse l fun k => { k with dropped := k.dropped + 1 }

/-- An event addressed to Faldor (R160). -/
def State.faldorEvent (s : State) (e : Event) : State :=
  { s with service := { s.service with events := s.service.events ++ [e] } }

/-! ## Waiters, and the end of a thread's operation (R109, R113, R170, R300, R307) -/

/-- The waiter is the thread `t`. -/
def Waiter.isThread (t : Nat) : Waiter → Bool
  | .thread u _ _ => u == t
  | .journal _ _ _ => false

/-- Binds inbox entries that are not bound to the waiters of a core, oldest first (R300). -/
def bindInbox : List InboxEntry → List Nat → List InboxEntry × List Nat
  | [], ws => ([], ws)
  | e :: es, ws =>
    match e.bound, ws with
    | none, w :: ws' => let (es', r) := bindInbox es ws'; ({ e with bound := some w } :: es', r)
    | _, _ => let (es', r) := bindInbox es ws; (e :: es', r)

/-- What is left of a count that ends at a cycle. -/
def Op.pause (o : Op) (now : Nat) : Op := { o with deadline := o.deadline.map (· - now) }

/-- The count goes on from now. -/
def Op.unpause (o : Op) (now : Nat) : Op := { o with deadline := o.deadline.map (· + now) }

/-- A RECV waiter whose entry is bound takes its instruction up again, from the start (R87, R300); a RECVT keeps what is
left of its count (R317). -/
def Thread.granted (th : Thread) (now : Nat) : Thread :=
  if th.st = .parked .recv then { th with st := .run, op := th.op.pause now } else th

/-- Binds what the inbox of a core holds to its waiters and wakes them (R300). -/
def State.bindWaiters (s : State) (c : Nat) : State :=
  let k := s.core c
  let (ib, rw) := bindInbox k.inbox k.rwait
  (k.rwait.filter fun w => !rw.contains w).foldl (fun s w => s.modThr w fun th => th.granted s.cycle)
    (s.modCore c fun k => { k with inbox := ib, rwait := rw })

/-- The generation of a slot advances; `away` says that a request of the old generation is still unanswered (R307,
R309). -/
def Thread.nextGen (th : Thread) (away : Bool) (now : Nat) : Thread :=
  { th with gen := th.gen + 1
            unanswered := if away then th.unanswered ++ [(th.gen.toNat, now + 6000000)] else th.unanswered }

/-- A quad's home and port without the waits of a thread; a provisional grant that is out stays until it is returned
(R310). -/
def Quad.forget (k : Quad) (t : Nat) : Quad :=
  { k with waits := k.waits.filter (fun w => !w.who.isThread t || w.held)
           tickets := k.tickets.filter (fun w => !w.who.isThread t)
           pages := k.pages.filter (fun p => p.thread != t || p.replay) }

/-- A barrier without the waits of a thread. -/
def Barrier.forget (b : Barrier) (t : Nat) : Barrier := { b with waiters := b.waiters.filter fun w => w.1 != t }

/-- The waits of a thread away from its core end with no effect: its entries and tickets at home wait tables, its place
among the page waiters of its port, its BARW (R113, R160, R170, R376). -/
def State.leaveHomes (s : State) (t : Nat) : State :=
  { s with quads := s.quads.map fun p => (p.1, p.2.forget t)
           barriers := s.barriers.map fun p => (p.1, p.2.forget t) }

/-- Every wait of a thread ends with no effect, its place among the inbox waiters of its core too (R113, R300). -/
def State.abandon (s : State) (t : Nat) : State :=
  let c := coreOf t
  let s := s.leaveHomes t
  let k := s.core c
  if k.inbox.any (fun e => e.bound == some t) || k.rwait.contains t then
    (s.modCore c fun k =>
      { k with inbox := k.inbox.map fun e => if e.bound == some t then { e with bound := none } else e
               rwait := k.rwait.filter fun w => w != t }).bindWaiters c
  else s

/-- Whether a thread is away in a remote request that has left its core (R307). -/
def Thread.away (th : Thread) : Bool :=
  match th.st with
  | .parked .remote => th.op.phase != 0
  | .parked .engine => th.op.phase != 0 && th.op.todo != []
  | _ => false

/-- The agent of a thread as it stands now. -/
def Thread.agent (th : Thread) : Agent :=
  { fn := th.fn, lease := th.lease, level := th.tsr.pl.toNat, home := th.home, segs := th.segs }

/-- A context that is let go becomes LOADED with its POS: fetched elements are discarded; accepted pushes still perform, and
a ring fill in progress ends (R249, R274, R288). -/
def Ctx.release (x : Ctx) : Ctx :=
  if x.desc.dirOut || x.fill.isSome then { x with bound := false, susp := false }
  else { x with bound := false, susp := false, asked := [], buf := [], epoch := x.epoch + 1 }

/-- Changes the contexts of a core that a thread owns. -/
def State.modOwned (s : State) (t : Nat) (f : Ctx → Ctx) : State :=
  if (s.core (coreOf t)).ctxs.toList.any (fun x => x.bound && x.owner == t) then
    s.modCore (coreOf t) fun k => { k with ctxs := vmap (fun x => if x.bound && x.owner == t then f x else x) k.ctxs }
  else s

/-- The life of a thread is over: the events of its audits go to the event thread (R396). -/
def State.endAudits (s : State) (t : Nat) : State :=
  { s with quads := s.quads.map fun p =>
      if (p.2.trier.records ++ p.2.trier.cands).any (fun r => r.thread == t && !r.gone) then
        (p.1, { p.2 with trier := p.2.trier.mapRecords fun r => if r.thread == t then { r with gone := true } else r })
      else p }

/-- A thread no longer waits for the outlier queue of its quad's wide core (R216). -/
def State.leaveOutlier (s : State) (t : Nat) : State :=
  let w := coreOfQuad (quadOf (coreOf t)) 3
  if (s.core w).oqWait.any (fun o => o.thread == t) then
    s.modCore w fun k => { k with oqWait := k.oqWait.filter fun o => o.thread != t }
  else s

/-- Changes the entries of a thread in every journal that holds one: it leaves them behind when it migrates (R100, R166). -/
def State.modEntriesOf (s : State) (t : Nat) (f : JEntry → JEntry) : State :=
  { s with cores := s.cores.map fun p =>
      if p.2.journal.any (fun e => e.2.thread == t && !e.2.killed) then
        (p.1, { p.2 with journal := p.2.journal.map fun e =>
          if e.2.thread = t && !e.2.killed then (e.1, f e.2) else e })
      else p }

/-- The shadow latches of a core's threads are emptied: every one of them parks (R202). -/
def State.emptyLatches (s : State) (c : Nat) : State :=
  (List.range 16).foldl (fun s i =>
    if (s.thr (c * 16 + i)).latch.isSome then s.modThr (c * 16 + i) fun th => { th with latch := none } else s) s

/-- What a killed thread leaves to the matrix unit that still executes an instruction of it: its operation, taken from its
sequencer for a replay (R249). -/
def Thread.orphaned (th : Thread) (replay : Bool) : Thread :=
  { th with st := .parked .engine, fly := none
            op := match replay, th.fly with
              | true, some f => f.op
              | _, _ => th.op }

/-- A kill of one slot (R109): the slot is KILLED and its bank scrubbed; the event follows at the scrub's end. -/
def State.killOne (s : State) (t code : Nat) (detail : Nat := 0) : State :=
  let th := s.thr t
  if th.st = .free || th.st = .killed then s
  else
    let s := (s.abandon t).endAudits t
    let s := s.modOwned t fun x => { x.release with heir := some th.agent }
    let s := match th.st with
      | .parked .migrate =>
        (s.modCore th.op.aux fun k => { k with inbound := k.inbound.filter (· != t) }).dueOnce (.slotFill th.op.aux)
      | _ => s
    let s := (s.leaveOutlier t).modEntriesOf t fun e => { e with killed := true }
    let s := s.modCore (coreOf t) fun k =>
      { k with vq := k.vq.filter fun o => o.thread != t
               vwait := k.vwait.filter fun o => o.thread != t
               mq := k.mq.filter fun o => o.thread != t
               mwait := k.mwait.filter fun o => o.thread != t
               ctrl := k.ctrl.filter (· != t)
               sendBuf := k.sendBuf.filter fun x => x.2.thread != t
               morphan := if k.munit.any (fun o => o.thread == t) then some (th.orphaned (k.munit.any (·.replay))) else k.morphan
               munit := k.munit.map fun o => if o.thread = t then { o with replay := false } else o
               mop := k.mop.map fun m => if m.op.thread = t then { m with dead := true, lfsr := th.rndlfsr } else m
               copies := vmap (fun x => if x.thread == t then { x with orphan := true } else x) k.copies }
    let old := th.nextGen th.away s.cycle
    let s := s.setThr t { st := .killed, gen := old.gen, unanswered := old.unanswered, fn := th.fn, lease := th.lease,
                          home := th.home, origin := th.origin, launch := th.launch, op := { aux := code } }
    let s := if code = 0x20 then s.quadError (coreOf t) 0x07 (slotOf t) 0
      else if code = 0x23 && slotOf t < 8 then s.quadError (coreOf t) 0x08 (slotOf t) 0
      else if code = 0x24 then s.quadError (coreOf t) (if detail = 1 then 0x09 else 0x06) (slotOf t) 0
      else s
    let s := if (s.core (coreOf t)).morphan.isSome then s.dueOnce (.matrixUnitStart (coreOf t)) else s
    s.due (.killScrubEnd t)

/-- The other copy of a paired thread (R335). -/
def mateOf (t : Nat) : Nat := if slotOf t < 8 then t + 8 else t - 8

/-- A kill (R109); in a paired context both copies end together. -/
def State.kill (s : State) (t code : Nat) (detail : Nat := 0) : State :=
  let p := (s.thr t).tsr.pair
  let s := s.killOne t code detail
  if p then s.killOne (mateOf t) code detail else s

/-! ## Taking an exception and returning from one (R107, R108) -/

/-- Codes of R106. -/
def cIllegal : Nat := 1
/-- ILLEGAL_PREFIX. -/
def cPrefix : Nat := 2
/-- PRIVILEGE. -/
def cPrivilege : Nat := 3
/-- UNIT_ABSENT. -/
def cAbsent : Nat := 4
/-- SOFTWARE. -/
def cSoftware : Nat := 5
/-- SEG. -/
def cSeg : Nat := 8
/-- MISALIGN. -/
def cMisalign : Nat := 9
/-- MEM_UE. -/
def cMemUe : Nat := 0x0A
/-- REMOTE_TIMEOUT. -/
def cTimeout : Nat := 0x0B
/-- REMOTE_FATAL. -/
def cFatal : Nat := 0x0C
/-- SCOPE. -/
def cScope : Nat := 0x0D
/-- STREAM_OVF. -/
def cStream : Nat := 0x12

/-- The level a trap code is routed to (R106, R451). -/
def State.routeOf (s : State) (th : Thread) (code : Nat) : Nat :=
  let r := ((s.fn th.fn).route >>> (2 * code)) % 4
  let lv := if r = 0 then (if code = cMemUe || code = cFatal then 2 else 1) else r
  max lv th.tsr.pl.toNat

/-- The block-check state that SIGSAVE holds; no block is open with no words left (R114). -/
def sigOf (b : Option Block) : Block := b.getD { left := 0, crc := 0, want := 0 }

/-- The thread after trap entry (R107): what is saved, the new status, the handler's address. -/
def Thread.enterTrap (th : Thread) (lv : Nat) (c : Cause) (tepc : Word) (replay away : Bool) : Thread :=
  let t0 := if c.code = cPrefix then { th.tsr with pp := false } else th.tsr
  { th with
    tepc := tepc
    tcause := BitVec.ofNat 18 (c.code % 256 + (c.detail % 256) <<< 8 + bit replay <<< 16 + bit away <<< 17)
    tval := c.tval
    tstat := t0.word
    tpfx := if c.code = cPrefix then 0 else th.pfxsave
    sigV := true
    sigRem := (sigOf th.blk).left
    sigCrc := (sigOf th.blk).crc
    sigWant := (sigOf th.blk).want
    blk := none
    blkNext := none
    resHalf := false
    tsr := { th.tsr with pl := BitVec.ofNat 2 lv, th := true, pp := false, uie := false }
    pc := if lv = 3 then th.ptvec else if lv = 2 then th.ltvec else th.stvec
    st := .run
    op := {}
    fbuf := []
    ahead := none
    latch := none }

/-- An exact trap of thread `t` (R107): at TSR.TH = 1 a kill with DOUBLE_TRAP, else entry to the routed handler. -/
def State.takeTrapAt (s : State) (t : Nat) (c : Cause) (tepc : Word) (replay : Bool) : State :=
  let th := s.thr t
  if th.tsr.th then s.kill t 0x21
  else
    let lv := s.routeOf th c.code
    (s.modOwned t fun x => { x with susp := true }).modThr t fun th =>
      th.enterTrap lv c tepc replay (coreOf t != th.home)

/-- An exact trap of the executing thread at its own word. -/
def State.takeTrap (s : State) (c : Cause) : State := s.takeTrapAt s.cur c s.me.pc false

/-- The thread after XRET from a trap (R108). A mode that R37 does not name stays out of TSR.RM (DEDUCED, log entry 74). -/
def Thread.leaveTrap (th : Thread) : Thread :=
  let t := Tsr.ofWord th.tstat
  { th with
    pc := th.tepc
    tsr := { t with flags := th.tsr.flags, rc := th.tsr.rc, sc := th.tsr.sc, th := false
                    rm := if t.rm.toNat ≤ 4 then t.rm else th.tsr.rm
                    pl := if t.pl.toNat ≤ th.tsr.pl.toNat then t.pl else th.tsr.pl }
    pfxsave := th.tpfx
    blk := if th.sigV && th.sigRem != 0 then some { left := th.sigRem, crc := th.sigCrc, want := th.sigWant } else none
    fbuf := []
    ahead := none }

/-- The thread after user-interrupt entry with event `e` (R113). -/
def Thread.enterUser (th : Thread) (e : Event) (rest : List Event) : Thread :=
  { th with
    uiepc := th.pc
    uipfx := th.pfxsave
    uicause := BitVec.ofNat 32 (e.cls % 16 + (e.sub % 256) <<< 8 + (e.extra % 256) <<< 16 + bit th.tsr.pp <<< 31)
    uixid := BitVec.ofNat 64 e.id
    fifo := rest
    tsr := { th.tsr with uia := true, pp := false }
    pc := th.utvec
    sigV := th.sigV
    blk := none
    st := .run
    op := {}
    fbuf := []
    ahead := none
    latch := none }

/-- The thread after XRET from a user interrupt (R108, R113). -/
def Thread.leaveUser (th : Thread) : Thread :=
  { th with
    pc := th.uiepc
    pfxsave := th.uipfx
    tsr := { th.tsr with uia := false, pp := th.uicause.getLsbD 31 }
    blk := none
    fbuf := []
    ahead := none }

/-! ## Parking and waking (R87, R91) -/

/-- Parks a thread; a park for any reason but ENGINE empties the shadow latch (R202), and an interruptible one takes an
event that is pending at once (R113). -/
def State.park (s : State) (t : Nat) (why : Park) (op : Op) : State :=
  (s.modThr t fun th => { th with st := .parked why, op := op, latch := if why = .engine then th.latch else none }).offerInterrupt
    t

/-- Wakes a thread that resumes at the parked instruction ("same"), or at its first execution. -/
def State.wakeSame (s : State) (t : Nat) : State :=
  s.modThr t fun th => match th.st with
    | .parked _ => { th with st := .run }
    | _ => th

/-- A thread is parked for a reason. -/
def State.parkedFor (s : State) (t : Nat) (why : Park) : Bool := (s.thr t).st == .parked why

/-! ## Replays in flight (R89, R110) -/

/-- Changes the replay in flight. -/
def Thread.modFly (th : Thread) (f : Flight → Flight) : Thread := { th with fly := th.fly.map f }

/-- How the replay in flight is held. -/
def Thread.flyHold (th : Thread) : RepHold := (th.fly.map (·.hold)).getD .none

/-- The accesses of the replay in flight. -/
def Thread.flyOp (th : Thread) : Op := (th.fly.map (·.op)).getD {}

/-- Replays remain unissued: one has not been placed yet, or the sequencer holds one for a page (R70, R110, R160). -/
def Thread.unissued (th : Thread) : Bool := th.rep.live || th.flyHold == .page

/-- The sequencer has a replay to place, or one in flight to go on with. -/
def Thread.replaying (th : Thread) : Bool := th.rep.live || th.fly.isSome

/-- The context of a core is between a vacate point and its first run at the new site. -/
def Core.away (k : Core) : Bool := k.moving || k.place.service == .frozen || k.place.service == .restoring

/-- The thread's slot is held from outside: gated (R99), its context between sites, saved, or captured (R101, R331,
R334). -/
def State.held (s : State) (t : Nat) : Bool :=
  let k := s.core (coreOf t)
  k.gated.getLsbD (slotOf t) || k.leaving || k.moving || k.ganged || k.capturing || k.place.service != .inService

/-! ## Bubbles (R88) -/

/-- The core's current issue cycle is a bubble that nothing has used: its slot is ungated and holds no RUN thread. -/
def State.bubble (s : State) (c : Nat) : Bool :=
  let i := s.cycleOf c % 16
  !(s.core c).gated.getLsbD i && (s.core c).spent != s.cycle + 1 && ((s.thr (c * 16 + i)).st != .run || s.held (c * 16 + i))

/-- The core's current issue cycle is used. -/
def State.spend (s : State) (c : Nat) : State := s.modCore c fun k => { k with spent := s.cycle + 1 }

/-- A replay is back in the sequencer, which places it again (R160). -/
def Flight.returned (f : Flight) : Bool :=
  f.hold == .none && f.op.phase == 0 && f.op.insn.isNone && f.op.reply == .none

/-- The sequencer has a replay of the thread to place: one that has come back, or the next one while none is in flight and no
fault is due. -/
def Thread.toPlace (th : Thread) : Bool :=
  match th.fly with
  | some f => f.returned
  | none => th.rep.live && th.repFault.isNone

/-- The sequencer of a core places no replay while the context is to move, waits for its gang slice, or is away (R101,
R245, R461). -/
def Core.mayPlace (k : Core) : Bool := !k.away && !k.leaving && !k.ganged && k.place.service == .inService

/-- The sequencer of a core has a replay to place, and is offered a bubble before the trier (R88). -/
def State.sequencing (s : State) (c : Nat) : Bool :=
  (s.core c).mayPlace && (List.range 16).any fun i => (s.thr (c * 16 + i)).toPlace

/-- An outcome that is a next state. -/
abbrev Out := Host.Outcome State Fault Refusal

end Sys2Proof.Machine
end

