-- ==== Sys2Proof/Machine/Memory.lean ====
section
/-! DEFINITION. Memory: bytes, full/empty bits and poison; domain addresses, segments, owners and translation; what an
access does at its home (R149 to R169, R177, R178, R281, R282). -/

namespace Sys2Proof.Machine

/-! ## Bytes in one canonical form -/

/-- The byte at a canonical address; an unlisted address reads zero (R168, log entry 2). -/
def memGet : List Host.Cell → Nat → Byte
  | [], _ => 0
  | (b, v) :: m, a => if b = a then v else memGet m a

/-- Writes one byte and keeps the form: addresses rising, no zero listed. -/
def memPut : List Host.Cell → Nat → Byte → List Host.Cell
  | [], a, v => if v = 0 then [] else [(a, v)]
  | (b, w) :: m, a, v =>
    if b < a then (b, w) :: memPut m a v
    else if b = a then (if v = 0 then m else (a, v) :: m)
    else if v = 0 then (b, w) :: m else (a, v) :: (b, w) :: m

/-- The canonical form: strictly rising addresses, no byte equal to what an unlisted address reads as. -/
def Memory.wf : List Host.Cell → Bool
  | [] => true
  | [(_, v)] => v != 0
  | (a, v) :: (b, w) :: m => v != 0 && a < b && Memory.wf ((b, w) :: m)

/-- `n` bytes from an address. -/
def memRead (m : List Host.Cell) (a : Nat) : Nat → List Byte
  | 0 => []
  | n + 1 => memGet m a :: memRead m (a + 1) n

/-- Writes bytes from an address. -/
def memWrite (m : List Host.Cell) (a : Nat) : List Byte → List Host.Cell
  | [] => m
  | b :: bs => memWrite (memPut m a b) (a + 1) bs

/-- Reads bytes of the panel. -/
def State.rd (s : State) (a n : Nat) : List Byte := memRead s.mem a n

/-- Reads an 8-byte little-endian word. -/
def State.rd64 (s : State) (a : Nat) : Nat := ofBytes (s.rd a 8)

/-- Writes bytes of the panel. -/
def State.wr (s : State) (a : Nat) (bs : List Byte) : State := { s with mem := memWrite s.mem a bs }

/-- The addresses of the 8-byte words that `n` bytes from `a` touch. -/
def wordsOf (a n : Nat) : List Nat :=
  if n = 0 then [] else (List.range ((a + n - 1) / 8 - a / 8 + 1)).map fun i => (a / 8 + i) * 8

/-- Some word touched is uncorrectable (R150). -/
def State.poisoned (s : State) (a n : Nat) : Bool := (wordsOf a n).any s.poison.contains

/-- A store's bytes at a home (R150): a word written whole is no longer poisoned; a narrower write into a poisoned word
is refused. -/
def State.storeAt (s : State) (a : Nat) (bs : List Byte) : Option State :=
  let n := bs.length
  let part := (wordsOf a n).filter fun w => !(a ≤ w && w + 8 ≤ a + n)
  if part.any s.poison.contains then none
  else
    let s := s.wr a bs
    if s.poison = [] then some s
    else some { s with poison := s.poison.filter fun w => !(a ≤ w && w + 8 ≤ a + n) }

/-- The first uncorrectable word that a store of `n` bytes would write in part (R150). -/
def State.storeBad (s : State) (a n : Nat) : Option Nat :=
  (wordsOf a n).find? fun w => !(a ≤ w && w + 8 ≤ a + n) && s.poison.contains w

/-- The domain address at which such a store is refused. -/
def State.storeUe (s : State) (a n : Nat) (da : Word) : Option Word := (s.storeBad a n).map fun w => da + BitVec.ofNat 64 (w - a)

/-- A word's full/empty bit (R168). -/
def State.isFull (s : State) (a : Nat) : Bool := s.full.contains a

/-- Sets a word's full/empty bit. -/
def State.setFull (s : State) (a : Nat) (b : Bool) : State :=
  { s with full := if b then keyAdd s.full a else keyDel s.full a }

/-- Zeroes `n` bytes from an address, full/empty bits and poison with them (R168, R457). -/
def State.scrub (s : State) (a n : Nat) : State :=
  { s with mem := s.mem.filter (fun c => c.1 < a || a + n ≤ c.1)
           full := s.full.filter (fun w => w < a || a + n ≤ w)
           poison := s.poison.filter (fun w => w < a || a + n ≤ w) }

/-! ## Domain addresses (R151, R152) -/

/-- Base of the canonical addresses of HBM. -/
def hbmBase : Nat := 2 ^ 62

/-- Canonical address of a place in TCM (0), scratchpad (1) or die SRAM (2), by the core that names the unit. -/
def sramAddr (core tier off : Nat) : Nat := core <<< 40 + tier <<< 37 + off

/-- The core of index 0 of a core's quad. -/
def quadCore (c : Nat) : Nat := coreOfQuad (quadOf c) 0

/-- The core of index 0 of a core's die. -/
def dieCore (c : Nat) : Nat := coreOfDie (dieOf c) 0

/-- An SRAM location: unit and canonical address. -/
def sramPlace (core tier off : Nat) : Option (Dest × Nat) :=
  if !validCore core then none
  else if tier = 0 ∧ off < 2 ^ 18 then some (.tcm core, sramAddr core 0 off)
  else if tier = 1 ∧ off < 2 ^ 21 then some (.spad (quadCore core), sramAddr (quadCore core) 1 off)
  else if tier = 2 ∧ off < 2 ^ 24 then some (.dsram (dieCore core), sramAddr (dieCore core) 2 off)
  else none

/-- Where a domain address lies: the unit, and a canonical address (in HBM the 48 address bits, on another panel the
canonical address it has there). Whether HBM is there is the panel stage's matter, or at level P the segment check's: an
absent stack is no location (DESIGN CHOICE, log entry 76). -/
def State.locate (s : State) (da : Word) : Option (Dest × Nat) :=
  let a := da.toNat
  match a / 2 ^ 62 with
  | 0 => if field a 61 56 = 0 then sramPlace (field a 55 40) (field a 39 37) (field a 36 0) else none
  | 1 => if field a 61 48 = 0 then some (.hbm, field a 47 0) else none
  | 2 =>
    let p := field a 61 55
    if s.sysPanels ≤ p then none
    else
      let r := if bitAt a 54 then (if field a 53 48 = 0 then some (Dest.hbm, field a 47 0) else none)
               else sramPlace (field a 53 38) (field a 37 35) (field a 34 0)
      if p = s.panelNo then r
      else r.map fun (d, x) => (.panel p, if d = .hbm then hbmBase + x else x)
  | _ => if field a 61 60 = 3 then none else some (.device, a)

/-- A stack is present: all 48, or the even-numbered ones (R162). -/
def State.stackPresent (s : State) (k : Nat) : Bool := k < 48 && (s.stackCount != 24 || k % 2 == 0)

/-- A physical address names a present stack (R157, R162). -/
def State.physPresent (s : State) (pa : Nat) : Bool := pa / 2 ^ 42 == 0 && s.stackPresent (field pa 41 36)

/-- The unit of R154's check of DETAIL 2: SRAM units of other panels are told apart by core and tier. -/
def unitOf (x : Dest × Nat) : Dest × Nat :=
  match x.1 with
  | .panel p => (.panel p, if hbmBase ≤ x.2 then 2 ^ 25 else x.2 >>> 37)
  | d => (d, 0)

/-- R155. -/
def homeUnit (home : Nat) : Dest → Bool
  | .tcm c => c == home
  | .spad c => c == quadCore home
  | .dsram c => c == dieCore home
  | .hbm => true
  | _ => false

/-- Whether a function of a lease holds the quad of a core (R452). -/
def State.leaseHolds (s : State) (l c : Nat) : Bool :=
  match s.holder (quadOf c) with
  | some f => (s.fn f).lease == l
  | none => false

/-- The core whose quad owns an SRAM word (R156): its core, its quad, or the quad of its die-SRAM slice. -/
def ownerCore (d : Dest) (a : Nat) : Nat :=
  match d with
  | .tcm c => c
  | .spad c => c
  | .dsram c => coreOfQuad (quadOfDie (dieOf c) (field a 23 20)) 0
  | _ => 0

/-- The die of which a die is the buddy (R330). -/
def buddy (d : Nat) : Nat := (d / 30) * 30 + (if d % 30 % 2 = 0 then d % 30 + 1 else d % 30 - 1)

/-- Slices 8 to 15 of a die are reserved as checkpoint store of its buddy (R156, R330). -/
def State.reservedSlice (s : State) (d : Nat) : Bool :=
  (List.range 64).any fun i => (s.core (coreOfDie (buddy d) i)).ckEn

/-- The owner check of R156 for a function. -/
def State.ownerOk (s : State) (f : Nat) (d : Dest) (a : Nat) : Bool :=
  match d with
  | .dsram c => !(8 ≤ field a 23 20 && s.reservedSlice (dieOf c)) && s.holds f (ownerCore d a)
  | .tcm _ => s.holds f (ownerCore d a)
  | .spad _ => s.holds f (ownerCore d a)
  | _ => true

/-- Rights in force at level L for a lease, at a quad's copy (R449, R467). -/
def State.leaseRights (s : State) (q l : Nat) : BitVec 8 := smGet (s.lse l).rights (s.quad q).rights (1000 + l)

/-- The rights check of R452 for a thread at level L or P. -/
def State.levelOk (s : State) (th : Thread) (q : Nat) (x : Dest × Nat) (store : Bool) : Bool :=
  if th.tsr.pl.toNat = 3 then true
  else match x.1 with
    | .hbm => !store || (s.leaseRights q th.lease).getLsbD 3
    | .device => field x.2 61 60 == 1 && field x.2 59 55 == th.lease
    | .panel _ => x.2 < hbmBase || !store || (s.leaseRights q th.lease).getLsbD 3
    | d => s.leaseHolds th.lease (ownerCore d x.2)

/-- A segment of a thread. -/
def Thread.seg (th : Thread) (n : Nat) : Seg := vget {} th.segs n

/-- The check of R154 at levels U and S, of R452 at L and P: the domain address and where it lies, or the trap. -/
def State.segCheck (s : State) (th : Thread) (q : Nat) (ea : Word) (size need : Nat) :
    Except Cause (Word × Dest × Nat) :=
  let bad (d : Nat) : Except Cause (Word × Dest × Nat) := .error { code := cSeg, detail := d, tval := ea }
  if 2 ≤ th.tsr.pl.toNat then
    match s.locate ea, s.locate (ea + BitVec.ofNat 64 (size - 1)) with
    | some x, some y =>
      if unitOf x != unitOf y then bad 2
      else if th.tsr.pl.toNat = 3 && x.1 == .hbm && !(s.physPresent x.2 && s.physPresent y.2) then bad 2
      else if s.levelOk th q x (need &&& rightW != 0) then .ok (ea, x) else bad 3
    | _, _ => bad 2
  else
    let g := th.seg (field ea.toNat 63 61)
    let off := field ea.toNat 60 0
    if g.limit < off + size - 1 then bad 0
    else if need &&& g.rights.toNat != need then bad 1
    else
      let da := g.base + BitVec.ofNat 64 off
      if da.extractLsb' 62 2 != g.base.extractLsb' 62 2 then bad 0
      else if da.extractLsb' 62 2 == 3 then bad 1
      else match s.locate da, s.locate (da + BitVec.ofNat 64 (size - 1)) with
        | some x, some y =>
          if unitOf x != unitOf y then bad 2
          else if !g.rights.getLsbD 4 && !homeUnit th.home x.1 then bad 1
          else .ok (da, x)
        | _, _ => bad 2

/-- The access through an effective address is pinned (R163). -/
def Thread.pinned (th : Thread) (ea : Word) : Bool :=
  th.tsr.pl.toNat < 2 && (th.seg (field ea.toNat 63 61)).rights.getLsbD 5

/-! ## Translation (R157 to R163) -/

/-- The unit of a canonical SRAM address. -/
def unitAt (a : Nat) : Dest :=
  if hbmBase ≤ a then .hbm
  else match field a 39 37 with
    | 0 => .tcm (field a 55 40)
    | 1 => .spad (field a 55 40)
    | _ => .dsram (field a 55 40)

/-- The page or table address of an entry (R158). -/
def entryAddr (e : Nat) : Nat := (field e 47 8) * 256

/-- An entry is malformed at a level (R158): the check of bits 63:48 asks for V = 1, those of ADDR and LEAF do not
(log entry 77). -/
def entryBad (lvl e : Nat) : Bool :=
  (bitAt e 0 && e / 2 ^ 48 != 0) || (lvl == 1 && (bitAt e 1 || entryAddr e % 4096 != 0)) ||
    (lvl == 2 && bitAt e 1 && entryAddr e % 2 ^ 21 != 0) || (lvl == 3 && (!bitAt e 1 || entryAddr e % 2 ^ 16 != 0))

/-- Function `f` has dirtied the HBM lines of `n` bytes at `a` (R164). -/
def State.dirtied (s : State) (f a n : Nat) : State :=
  { s with lines := (List.range ((a % 128 + n + 127) / 128)).foldl (fun m i => smSet 0 m (a / 128 + i) (f + 1)) s.lines }

/-- The channel that serves an HBM address (R338). -/
def channelOf (a : Nat) : Nat := Config.channel (a - hbmBase) % 64

/-- An uncorrectable word met by an access is recorded at the bank of its home (R150, R338); in HBM the unit is the
channel. -/
def State.recordUe (s : State) (a : Nat) (da : Word) : State :=
  if hbmBase ≤ a then
    s.bankError 2 (field a 41 36) 0x04 (channelOf a) da
  else s.quadError (ownerCore (unitAt a) a) 0x02 0 da

/-- What the port's read of a table word comes to: its physical address and value, a place that the panel stage does not
map (a malformed entry or an absent stack is told apart), an uncorrectable word. -/
inductive TableRead where
  | ok (s : State) (pa e : Nat)
  | below (s : State) (bad : Bool)
  | ue (s : State)

/-- How a radix walk ends: at a leaf (its entry's physical address, the entry, the page and its size in address bits), at
an entry that is not valid or malformed, or at a table that cannot be read. -/
inductive Walk where
  | leaf (s : State) (pa e page bits : Nat)
  | none (s : State) (pa e bits : Nat) (bad : Bool)
  | below (s : State) (bad : Bool)
  | ue (s : State)

/-- One level of a walk: the entry at an index of a table, passed on when it is valid. -/
def walkStep (r : TableRead) (lvl bits : Nat) (next : State → Nat → Nat → Walk) : Walk :=
  match r with
  | .below s bad => .below s bad
  | .ue s => .ue s
  | .ok s p e =>
    if entryBad lvl e then .none s p e bits true else if !bitAt e 0 then .none s p e bits false else next s p e

/-- A three-level walk (R157) with `read` giving table words. -/
def walk (read : State → Nat → TableRead) (s : State) (root va : Nat) : Walk :=
  walkStep (read s (root + 8 * (va / 2 ^ 30 % 2 ^ 18))) 1 30 fun s _ e1 =>
    walkStep (read s (entryAddr e1 + 8 * (va / 2 ^ 21 % 512))) 2 21 fun s p2 e2 =>
      if bitAt e2 1 then .leaf s p2 e2 (entryAddr e2) 21
      else walkStep (read s (entryAddr e2 + 8 * (va / 2 ^ 16 % 32))) 3 16 fun s p3 e3 => .leaf s p3 e3 (entryAddr e3) 16

/-- The address a leaf gives. -/
def leafAddr (page bits va : Nat) : Nat := page + va % 2 ^ bits

/-- A table word at a physical address. -/
def State.physWord (s : State) (pa : Nat) : TableRead :=
  if !s.physPresent pa then .below s true
  else if s.poison.contains (hbmBase + pa / 8 * 8) then .ue (s.recordUe (hbmBase + pa) (BitVec.ofNat 64 (hbmBase + pa)))
  else .ok s pa (s.rd64 (hbmBase + pa))

/-- The panel stage of a lease address under a root. -/
def State.panelWalk (s : State) (proot la : Nat) : Walk := walk State.physWord s proot la

/-- Sets A, and D for a write, in a leaf at its home for function `f` (R158, R164). -/
def State.touchLeaf (s : State) (f pa e : Nat) (write : Bool) : State :=
  let e' := e ||| 64 ||| (if write then 128 else 0)
  if e' = e then s else (s.wr (hbmBase + pa) (toBytes 8 e')).dirtied f (hbmBase + pa) 8

/-- The physical place of a lease address that the port itself reads or writes, with A and D set in the panel leaf; no
right is asked of that leaf (log entry 77). -/
def State.panelPlace (s : State) (f proot la : Nat) (write : Bool) : TableRead :=
  match s.panelWalk proot la with
  | .leaf s pa e page bits => (s.touchLeaf f pa e write).physWord (leafAddr page bits la)
  | .none s _ _ _ bad => .below s bad
  | .below s bad => .below s bad
  | .ue s => .ue s

/-- The lease stage of a function-virtual address. -/
def State.leaseWalk (s : State) (f proot lroot va : Nat) : Walk :=
  walk (fun s a => s.panelPlace f proot a false) s lroot va

/-- What a translation comes to: a physical address with the rights R and W of both stages, a miss (subcode, kind, stage),
a fatal context error (R163), an uncorrectable table word (R150). -/
inductive Trans where
  | ok (s : State) (pa rw : Nat)
  | miss (s : State) (sub kind stage : Nat)
  | fatal (s : State)
  | ue (s : State)

/-- Number of the attach die of a stack (R162). -/
def attachDie (k : Nat) : Nat :=
  let c := (5 * (k % 12)) / 2 + 1
  match k / 12 with
  | 0 => c
  | 1 => c * 30 + 29
  | 2 => 29 * 30 + (29 - c)
  | _ => (29 - c) * 30

/-- Distance of two dies. -/
def dieDist (d e : Nat) : Nat :=
  (d % 30 - e % 30) + (e % 30 - d % 30) + ((d / 30 - e / 30) + (e / 30 - d / 30))

/-- Stacks from the nearest to a die outwards, ties to the lower number (R162). -/
def State.stacksBy (s : State) (d : Nat) : List Nat :=
  let ks := (List.range 48).filter s.stackPresent
  (List.range 60).flatMap fun r => ks.filter fun k => dieDist d (attachDie k) == r

/-- What a first-touch pool gives (R161): a page's lease address, nothing, or a word of its own that cannot be read. -/
inductive Popped where
  | page (s : State) (la : Nat)
  | empty (s : State)
  | below (s : State) (bad : Bool)
  | ue (s : State)

/-- Goes on with a table word. -/
def TableRead.andThen (r : TableRead) (k : State → Nat → Nat → Popped) : Popped :=
  match r with
  | .ok s pa e => k s pa e
  | .below s bad => .below s bad
  | .ue s => .ue s

/-- Pops a page of the nearest non-empty first-touch pool of a lease (R161). -/
def State.popPool (s : State) (f proot mgmt : Nat) : List Nat → Popped
  | [] => .empty s
  | k :: ks =>
    (s.panelPlace f proot (mgmt + 16 * k + 8) false).andThen fun s _ w =>
      if field w 31 0 = 0 then s.popPool f proot mgmt ks
      else (s.panelPlace f proot (mgmt + 16 * k) false).andThen fun s _ base =>
        (s.panelPlace f proot (base + 8 * (field w 31 0 - 1)) false).andThen fun s _ page =>
          (s.panelPlace f proot (mgmt + 16 * k + 8) true).andThen fun s p _ =>
            .page ((s.wr (hbmBase + p) (toBytes 4 (field w 31 0 - 1))).dirtied f (hbmBase + p) 4) page

/-- A leaf gives no right that an access needs: fetches and loads need R, stores W, atomics both (R159). -/
def rightLost (need e : Nat) : Bool := (need % 2 = 1 || need &&& rightX != 0) && !bitAt e 2 || need &&& rightW != 0 && !bitAt e 3

/-- A translation fails: a miss, or under a pinned access a fatal context error. -/
def Trans.lost (pinned : Bool) (s : State) (sub kind stage : Nat) : Trans :=
  if pinned then .fatal s else .miss s sub kind stage

/-- An uncorrectable table word (R150, R163). -/
def Trans.bad (pinned : Bool) (s : State) : Trans := if pinned then .fatal s else .ue s

/-- The panel stage of a translation, with its rights and pin. A leaf or a table that names an absent stack, or sets one
of bits 47:42, is taken as a malformed entry (DESIGN CHOICE, log entry 76). -/
def State.panelStage (s : State) (f proot la need : Nat) (pinned : Bool) (kind : Nat) : Trans :=
  match s.panelWalk proot la with
  | .leaf s pa e page bits =>
    if !s.physPresent (leafAddr page bits la) then .lost pinned s 0x20 3 1
    else if pinned && !bitAt e 4 then .fatal s
    else if rightLost need e then .lost pinned s 0x20 kind 1
    else .ok (s.touchLeaf f pa e (need &&& rightW != 0)) (leafAddr page bits la) (field e 3 2)
  | .none s _ _ _ bad => .lost pinned s 0x20 (if bad then 3 else kind) 1
  | .below s _ => .lost pinned s 0x20 3 1
  | .ue s => .bad pinned s

/-- A lease-stage leaf and the panel stage behind it. -/
def State.leaseLeaf (s : State) (f proot va pa e page bits need : Nat) (pinned : Bool) (kind : Nat) : Trans :=
  if pinned && !bitAt e 4 then .fatal s
  else if rightLost need e then .lost pinned s 0x20 kind 0
  else match s.panelStage f proot (leafAddr page bits va) need pinned kind with
    | .ok s2 x rw => .ok (s2.touchLeaf f pa e (need &&& rightW != 0)) x (rw &&& field e 3 2)
    | r => r

/-- Translates the address bits of an HBM access that needs rights `need` (R157 to R163, R452): both stages below level L,
the panel stage at L, none at P. `die` is the die whose port translates. First touch keeps the leaf's R and W and leaves
its PIN, A and D at 0 (DESIGN CHOICE, log entry 77). -/
def State.translateWalk (s : State) (die f lease level va need : Nat) (pinned : Bool) (kind : Nat) : Trans :=
  let l := s.lse lease
  if level = 3 then if s.physPresent va then .ok s va 3 else .fatal s
  else if level = 2 then s.panelStage f l.proot va need pinned kind
  else
    match s.leaseWalk f l.proot (s.fn f).lroot va with
    | .leaf s pa e page bits => s.leaseLeaf f l.proot va pa e page bits need pinned kind
    | .below s bad => .lost pinned s 0x20 (if bad then 3 else kind) 1
    | .ue s => .bad pinned s
    | .none s pa e bits bad =>
      if bad then .lost pinned s 0x20 3 0
      else if pinned then .fatal s
      else if bitAt e 5 && bitAt e 1 then
        match s.popPool f l.proot l.mgmt (s.stacksBy die) with
        | .empty s => .miss s 0x21 kind 0
        | .below s bad => .miss s 0x20 (if bad then 3 else kind) 1
        | .ue s => .ue s
        | .page s la =>
          let e' := field la 47 8 * 256 + field e 3 2 * 4 + 3
          let s := (s.wr (hbmBase + pa) (toBytes 8 e')).dirtied f (hbmBase + pa) 8
          if entryBad (if bits = 21 then 2 else 3) e' then .miss s 0x20 3 0
          else s.leaseLeaf f l.proot va pa e' (entryAddr e') bits need pinned kind
      else .miss s 0x20 kind 0

/-- Whether a cached entry serves an access with no table change needed: its rights suffice and D is known set. -/
def TlbEntry.serves (e : TlbEntry) (need : Nat) (pinned : Bool) : Bool :=
  !rightLost need (bit e.r * 4 + bit e.w * 8) && (need &&& rightW = 0 || e.d) && (!pinned || e.pin)

/-- The reads of a walk that the meter charges (R159, R409): the most a miss makes. -/
def walkReads (level : Nat) : Nat := if level = 3 then 0 else if level = 2 then 3 else 15

/-- A memory port: a quad's, by its number, or that of an optical edge die, numbered from `edgePort` (R163). -/
def edgePort : Nat := 14400

/-- The translation cache of a port. -/
def State.portTlb (s : State) (p : Nat) : List TlbEntry :=
  if p < edgePort then (s.quad p).tlb else (s.odie (p - edgePort)).tlb

/-- Writes the translation cache of a port. -/
def State.setTlb (s : State) (p : Nat) (l : List TlbEntry) : State :=
  if p < edgePort then s.modQuad p fun k => { k with tlb := l } else s.modOdie (p - edgePort) fun k => { k with tlb := l }

/-- The die of a port. -/
def portDie (p : Nat) : Nat := if p < edgePort then dieOfQuad p else attachDie (4 * ((p - edgePort) / 4))

/-- A new entry takes its place in a cache of 2,048; which one it replaces in a full cache is not architectural (R159). -/
def tlbAdd (e : TlbEntry) (l : List TlbEntry) : List TlbEntry :=
  e :: (l.filter fun x => x.asid != e.asid || x.page != e.page).take 2047

/-- Translation at a port (R159): an entry of its cache may still be held, and then serves whatever the tables say now;
otherwise both stages are walked and the entry is cached with the rights of both. Whether the entry is held is free (log
entry 6). -/
def State.translate (s : State) (p f lease level va need : Nat) (pinned : Bool) (kind : Nat) : Trans :=
  let asid := (s.fn f).asid
  let page := va / 2 ^ 16
  let walkNow (s : State) : Trans :=
    match s.translateWalk (portDie p) f lease level va need pinned kind with
    | .ok s2 pa rw =>
      let s2 := if p < edgePort then s2.charge p f 16 (walkReads level) else s2
      if level < 2 then
        let e : TlbEntry := { asid := asid, page := page, phys := pa / 2 ^ 16, r := bitAt rw 0, w := bitAt rw 1
                              d := need &&& rightW != 0, pin := pinned }
        .ok (s2.setTlb p (tlbAdd e (s2.portTlb p))) pa rw
      else .ok s2 pa rw
    | r => r
  if 2 ≤ level then walkNow s
  else match (s.portTlb p).find? (fun e => e.asid == asid && e.page == page) with
    | none => walkNow s
    | some e =>
      if e.serves need pinned then
        let (held, s) := s.flip
        if held then .ok s (e.phys * 2 ^ 16 + va % 2 ^ 16) (bit e.r + 2 * bit e.w) else walkNow s
      else walkNow s

/-- The miss event of R160, sent once for each page that has waiters at a port. -/
def State.pageMiss (s : State) (t : Nat) (replay : Bool) (va sub kind stage : Nat) : State :=
  let q := quadOf (coreOf t)
  let th := s.thr t
  let asid := (s.fn th.fn).asid
  let page := va / 2 ^ 16
  let first := !(s.quad q).pages.any fun w => w.asid == asid && w.page == page
  let s := s.modQuad q fun k => { k with pages := k.pages ++ [{ asid := asid, page := page, thread := t, replay := replay }] }
  if first then
    let e := contextEvent sub (q <<< 50 + kind <<< 48 + (page % 2 ^ 32) <<< 16 + stage <<< 10 + asid)
    if stage = 0 then s.leaseEvent th.lease e else s.faldorEvent e
  else s

/-! ## HBM lines (R164, R412) -/

/-- The charges of an HBM access at its stack cache: SCHIT for its bytes, SCFILL when the line misses (free, log entry
6), SCEVICT to the function that dirtied a line written back. -/
def State.hbmLine (s : State) (q f a n : Nat) : State :=
  let s := s.charge q f 13 n
  let (miss, s) := s.flip
  let s := if miss then s.charge q f 14 1 else s
  if miss then
    match s.lines with
    | [] => s
    | (l, g) :: rest =>
      let (ev, s) := s.flip
      if ev && l != a / 128 then { s with lines := rest }.post (g - 1) 15 (nominalEntry.getD 15 0) else s
  else s

/-! ## Full/empty words at their home (R168 to R170, R281 to R283, R310) -/

/-- Threads of another panel that wait at a home here are numbered from this base, by panel (log entry 8). -/
def foreignBase : Nat := 2 ^ 40

/-- A thread of another panel. -/
def foreignThread (p t : Nat) : Nat := foreignBase * (p + 1) + t

/-- The quad whose wait table holds a word (R169). -/
def homeQuad (d : Dest) (a : Nat) : Nat := quadOf (ownerCore d a)

/-- A word is held for the confirmation of a provisional grant (R310). -/
def State.wordHeld (s : State) (a : Nat) : Bool :=
  (s.quad (homeQuad (unitAt a) a)).waits.any fun w => w.held && w.addr == a / 8 * 8

/-- The class of a waiter: drain, fill, generation. -/
def WaitKind.cls : WaitKind → Nat
  | .drain _ => 0
  | .fill _ => 1
  | .gen _ => 2

/-- Tabled waiters of a class for a word. -/
def State.waitersOf (s : State) (q a cls : Nat) : List WaitEntry :=
  (s.quad q).waits.filter fun w => w.addr == a && w.kind.cls == cls

/-- Removes the first tabled waiter equal to `w`. -/
def State.dropWait (s : State) (q : Nat) (w : WaitEntry) : State :=
  s.modQuad q fun k => { k with waits := k.waits.erase w }

/-- A result reaches a waiter: a near thread reissues with it, a posted STF is acknowledged. -/
def State.giveWaiter (s : State) (w : WaitEntry) (r : Reply) : State :=
  match w.who with
  | .thread t gen _ =>
    if (s.thr t).gen.toNat = gen then
      (s.modThr t fun th => { th with op := { th.op with reply := r } }).wakeSame t
    else s
  | .journal c i seq =>
    (s.modCore c fun k => { k with journal := k.journal.map fun (j, e) =>
        (j, if j = i ∧ e.seq = seq then { e with performed := true } else e) }).due (.journalAck c i seq)

/-- Every store and atomic that performs at a watched word is compared with its threshold; a watch that is reached is
removed, and starts its run (R359). -/
def State.watchHit (s : State) (a n : Nat) : State :=
  let hit := s.watches.filter fun w =>
    w.1 < a + n && a < w.1 + 8 && ((BitVec.ofNat 64 (s.rd64 w.1)) - w.2.1).toNat < 2 ^ 63
  if hit = [] then s
  else hit.foldl (fun s w => s.due (.watchReached w.2.2.1 w.2.2.2))
    { s with watches := s.watches.filter fun w => !hit.contains w }

/-- Performs a grant at the home (R169): a poisoned word gives MEM_UE and keeps data and state; LDE empties; STF writes
the whole word, fills it and clears poison. -/
def State.applyGrant (s : State) (a : Nat) (k : WaitKind) : State × Reply :=
  match k with
  | .drain take =>
    if s.poison.contains a then (s, .trap { code := cMemUe, tval := BitVec.ofNat 64 a })
    else (if take then s.setFull a false else s, .data (s.rd a 8))
  | .fill bs => (({ s.wr a bs with poison := keyDel s.poison a }.setFull a true).watchHit a 8, .ok)
  | .gen _ => (s, .ok)

/-- Grants the waiters of a word in order until none can be granted (R169); a remote thread's grant is provisional and
holds the word (R310). -/
def State.grantLoop (s : State) (q a : Nat) : Nat → State
  | 0 => s
  | n + 1 =>
    if (s.quad q).waits.any (fun w => w.held && w.addr == a) then s
    else
      match s.waitersOf q a (if s.isFull a then 0 else 1) with
      | [] => s
      | w :: _ =>
        match w.who with
        | .thread t gen true =>
          (s.modQuad q fun k => { k with waits := k.waits.map fun x => if x = w then { x with held := true } else x }).due
            (.feGrantConfirm t gen)
        | _ =>
          let (s, r) := (s.dropWait q w).applyGrant a w.kind
          (s.giveWaiter w r).grantLoop q a n

/-- Grants at a word after its state changed. -/
def State.grants (s : State) (a : Nat) : State :=
  let q := homeQuad (unitAt a) a
  let s := s.grantLoop q a ((s.quad q).waits.length + 1)
  match (s.quad q).tickets with
  | [] => s
  | _ => if (s.quad q).waits.length < 256 then s.dueOnce (.feReprobe q) else s

/-- What an access does at its home: an answer, a place in the wait table, or, on a word held for a confirmation, a
wait at the home (R310). -/
inductive Performed where
  | reply (s : State) (r : Reply)
  | queued (s : State)
  | hold

/-- A full/empty operation arrives at its home (R169, R170). -/
def State.feArrive (s : State) (who : Waiter) (a : Nat) (k : WaitKind) : Performed :=
  let q := homeQuad (unitAt a) a
  let ready := match k with
    | .drain _ => s.isFull a
    | .fill _ => !s.isFull a
    | .gen g => ((s.rd64 a >>> 48) + 65536 - g) % 65536 < 32768
  if s.wordHeld a then .hold
  else if ready && (k.cls == 2 || (s.waitersOf q a k.cls).isEmpty) then
    let (s, r) := s.applyGrant a k
    .reply (s.grants a) r
  else
    let w : WaitEntry := { addr := a, who := who, kind := k, since := s.cycle }
    if (s.quad q).waits.length < 256 then .queued (s.modQuad q fun k => { k with waits := k.waits ++ [w] })
    else .queued ((s.modQuad q fun k =>
      { k with tickets := k.tickets ++ [{ w with ticket := k.nextTicket }], nextTicket := k.nextTicket + 1 }).dueOnce
        (.feReprobe q))

/-- The generation, target and count of an arrival word after `n` arrivals (R281, R282). -/
def arrive (w n : Nat) : Nat :=
  let count := field w 22 0
  let target := field w 45 23
  let gen := w >>> 48
  if target = 0 then
    if 2 ^ 23 - 1 < count + n then setField (setField w 22 0 (2 ^ 23 - 1)) 47 47 1 else setField w 22 0 (count + n)
  else
    let adv := (count + n) / target
    let w := setField (setField w 22 0 ((count + n) % target)) 63 48 ((gen + adv) % 65536)
    if 1 < adv then setField w 47 47 1 else w

/-- Wakes every WAITGEN that an arrival word now satisfies (R282). -/
def State.wakeGens (s : State) (a : Nat) : State :=
  let q := homeQuad (unitAt a) a
  let now := s.rd64 a >>> 48
  let ok (w : WaitEntry) : Bool := match w.kind with
    | .gen g => w.addr == a && (now + 65536 - g) % 65536 < 32768
    | _ => false
  let ws := (s.quad q).waits.filter ok
  if ws = [] then s
  else
    let s := s.modQuad q fun k => { k with waits := k.waits.filter fun w => !ok w }
    (ws.map fun w => match w.who with
      | .thread t g _ => (t, g)
      | .journal c _ _ => (c, 0)).foldl
      (fun s (t, g) => if foreignBase ≤ t then s.due (.feGrantConfirm t g)
        else if (s.thr t).gen.toNat = g then
          (s.modThr t fun th => { th with op := { th.op with reply := .ok } }).dueOnce (.accessReply t) else s) s

/-- Adds arrivals to an arrival word at its home; only an advance of the generation wakes its waiters (R282). -/
def State.addArrivals (s : State) (a n : Nat) : State :=
  let w := s.rd64 a
  let s := s.wr a (toBytes 8 (arrive w n))
  if field w 45 23 != 0 && field w 45 23 ≤ field w 22 0 + n then s.wakeGens a else s

/-- The new value of an atomic (R175); FADDF rounds under RNE. -/
def atomicNew (op w : Nat) (old b cmp : Nat) : Nat :=
  match op with
  | 0 => (old + b) % 2 ^ w
  | 1 => old &&& b
  | 2 => old ||| b
  | 3 => old ^^^ b
  | 4 => if signedOf w old ≤ signedOf w b then old else b
  | 5 => if signedOf w old ≤ signedOf w b then b else old
  | 6 => b
  | 7 => if old = cmp then b else old
  | _ => (roundTo 4 0 false 0 (numAdd false (readNum 4 old) (readNum 4 b)).1).1

/-- The domain address that MEM_UE reports of an access at `a` with domain address `da`: the access's own, or for one of
more than a word, such as the lanes of a vector, that of its first byte in an uncorrectable word (R150, log entry 17). -/
def State.ueAddr (s : State) (a n : Nat) (da : Word) : Word :=
  if n ≤ 8 then da else da + BitVec.ofNat 64 (((wordsOf a n).find? s.poison.contains).getD a - a)

/-- What an access does to its words at their home. -/
def State.performAt (s : State) (who : Waiter) (da : Word) (op : HomeOp) : Performed :=
  let ue : Reply := .trap { code := cMemUe, tval := da }
  match op with
  | .load a n =>
    if (wordsOf a n).any s.wordHeld then .hold
    else if s.poisoned a n then
      .reply (s.recordUe a (s.ueAddr a n da)) (.trap { code := cMemUe, tval := s.ueAddr a n da })
    else .reply s (.data (s.rd a n))
  | .store a bs =>
    if (wordsOf a bs.length).any s.wordHeld then .hold
    else match s.storeAt a bs with
      | some s2 => .reply s2 .ok
      | none => .reply s (.trap { code := cMemUe, tval := (s.storeUe a bs.length da).getD da })
  | .atomic op w a b cmp =>
    let n := w / 8
    if s.wordHeld a then .hold
    else if s.poisoned a n then .reply (s.recordUe a da) ue
    else
      let old := ofBytes (s.rd a n)
      let m := 2 ^ w
      let new := atomicNew op w old (b.toNat % m) (cmp.toNat % m)
      .reply (if op = 7 && old != cmp.toNat % m then s else s.wr a (toBytes n new)) (.data (toBytes n old))
  | .drain take a =>
    if s.isFull a && (s.waitersOf (homeQuad (unitAt a) a) a 0).isEmpty && s.poison.contains a && !s.wordHeld a
    then .reply (s.recordUe a da) ue else s.feArrive who a (.drain take)
  | .fill a bs => s.feArrive who a (.fill bs)
  | .probe a =>
    let n := ((s.quad (homeQuad (unitAt a) a)).waits.filter fun w => w.addr == a).length
    .reply s (.data (toBytes 8 (bit (s.isFull a) + (min 255 n) * 256)))
  | .clear a => if s.wordHeld a then .hold else .reply ((s.setFull a false).grants a) .ok
  | .waitgen a g =>
    if !s.wordHeld a && s.poisoned a 8 then .reply (s.recordUe a da) ue else s.feArrive who a (.gen g)
  | .arm a n =>
    if s.wordHeld a then .hold
    else if s.poisoned a 8 then .reply (s.recordUe a da) ue
    else .reply ((s.wr a (toBytes 8 (setField (s.rd64 a) 45 23 n))).addArrivals a 0) .ok
  | .addgen a n =>
    if s.wordHeld a then .hold
    else if s.poisoned a 8 then .reply (s.recordUe a da) ue
    else .reply (s.addArrivals a n) .ok
  | .check a n =>
    .reply s (match s.storeUe a n da with
      | some x => .trap { code := cMemUe, tval := x }
      | none => .ok)

/-- The address an operation names. -/
def HomeOp.addr : HomeOp → Nat
  | .load a _ => a
  | .store a _ => a
  | .atomic _ _ a _ _ => a
  | .drain _ a => a
  | .fill a _ => a
  | .probe a => a
  | .clear a => a
  | .waitgen a _ => a
  | .arm a _ => a
  | .addgen a _ => a
  | .check a _ => a

/-- Bytes an operation moves at its home. -/
def HomeOp.size : HomeOp → Nat
  | .load _ n => n
  | .store _ bs => bs.length
  | .atomic _ w _ _ _ => w / 8
  | .check _ _ => 0
  | _ => 8

/-- The operation needs the right to write its location. -/
def HomeOp.writes : HomeOp → Bool
  | .load _ _ => false
  | .probe _ => false
  | .waitgen _ _ => false
  | _ => true

/-- The operation removes the import entry of its granule and blocks fills of it until it has performed (R190): every
store, atomic and full/empty operation. -/
def HomeOp.touches : HomeOp → Bool
  | .load _ _ => false
  | .waitgen _ _ => false
  | .check _ _ => false
  | _ => true

/-- The operation changes the bytes of its location when it is answered; a fill compares with a watch where it is
performed. -/
def HomeOp.stores : HomeOp → Bool
  | .store _ _ => true
  | .atomic _ _ _ _ _ => true
  | .arm _ _ => true
  | .addgen _ _ => true
  | _ => false

/-- An access performs at its home, whose owner check has passed (R177, R178). -/
def State.perform (s : State) (who : Waiter) (da : Word) (op : HomeOp) : Performed :=
  match s.performAt who da op with
  | .reply s2 r => .reply (if op.stores then s2.watchHit op.addr op.size else s2) r
  | p => p

/-- An operation with this answer has written its location: not a failed comparison, nor a refused store. -/
def HomeOp.wrote (op : HomeOp) (r : Reply) : Bool :=
  match op, r with
  | .store _ _, .ok => true
  | .atomic 7 w _ _ cmp, .data bs => ofBytes bs == cmp.toNat % 2 ^ w
  | .atomic _ _ _ _ _, .data _ => true
  | _, _ => false

/-- An access of function `f` performs at its home, which records in an HBM line who dirtied it (R164). -/
def State.performFor (s : State) (f : Nat) (who : Waiter) (da : Word) (op : HomeOp) : Performed :=
  match s.perform who da op with
  | .reply s2 r => .reply (if hbmBase ≤ op.addr && op.wrote r then s2.dirtied f op.addr op.size else s2) r
  | p => p

/-- The operation is charged ATOM (R409). -/
def HomeOp.atom : HomeOp → Bool
  | .load _ _ => false
  | .store _ _ => false
  | .check _ _ => false
  | _ => true

end Sys2Proof.Machine
end

