-- ==== Sys2Proof/Machine/Paths.lean ====
section
/-! DEFINITION. How an access travels: its path and granule, the posted-store journal, forwarding, scopes and their
obligations, requests and frames (R149, R165 to R167, R179 to R190, R303, R307 to R310). -/

namespace Sys2Proof.Machine

/-! ## Paths (R149, R165) -/

/-- How an access of a core reaches a unit. -/
inductive Path where
  | own | mem | remote | far
  deriving DecidableEq, Repr

/-- The path from a core to a unit. -/
def pathOf (c : Nat) (d : Dest) : Path :=
  match d with
  | .tcm x => if x = c then .own else .remote
  | .spad x => if x = quadCore c then .own else .remote
  | .dsram x => if x = dieCore c then .mem else .remote
  | .hbm => .mem
  | .device => .mem
  | .panel _ => .far

/-- The granule of a path in bytes. -/
def granule : Path → Nat
  | .remote => 16
  | _ => 64

/-- Splits `n` bytes from `a` at granule boundaries. -/
def splitAt (g : Nat) : Nat → Nat → Nat → List (Nat × Nat)
  | 0, _, _ => []
  | fuel + 1, a, n =>
    let k := g - a % g
    if n = 0 then [] else if n ≤ k then [(a, n)] else (a, k) :: splitAt g fuel (a + k) (n - k)

/-- Where an access comes to: its parts by unit and canonical address, a trap, or a wait for a page. -/
inductive Reach where
  | ok (s : State) (da : Word) (parts : List (Dest × Nat × Nat))
  | trap (s : State) (c : Cause)
  | page (s : State)

/-- Translates the parts of an HBM access that needs rights `need`, all before any is performed (R165). -/
def State.translateParts (s : State) (t : Nat) (da : Word) (need : Nat) (pinned : Bool) (kind : Nat) (replay : Bool) :
    List (Nat × Nat) → List (Dest × Nat × Nat) → Reach
  | [], acc => .ok s da acc.reverse
  | (a, n) :: ps, acc =>
    let th := s.thr t
    match s.translate (quadOf (coreOf t)) th.fn th.lease th.tsr.pl.toNat a need pinned kind with
    | .ok s2 pa _ => s2.translateParts t da need pinned kind replay ps ((.hbm, hbmBase + pa, n) :: acc)
    | .miss s2 sub k stage => .page (s2.pageMiss t replay a sub k stage)
    | .fatal s2 => .trap (s2.quadError (coreOf t) 0x0E (slotOf t) da) { code := cFatal, tval := da }
    | .ue s2 => .trap s2 { code := cMemUe, tval := da }

/-- The whole way of an access: segment or rights check, full/empty rule, alignment, refused pages and translation
(R154, R160, R168, R171). `kind` is the miss kind of R160. A full/empty operation on the device space of levels L and P,
of which the spec says nothing, ends as one on HBM does (DESIGN CHOICE, log entry 76). -/
def State.reach (s : State) (t : Nat) (ea : Word) (n need align kind : Nat) (fe : Bool) (replay : Bool := false) :
    Reach :=
  let th := s.thr t
  let c := coreOf t
  match s.segCheck th (quadOf c) ea n need with
  | .error e => .trap s e
  | .ok (da, d, x) =>
    let inHbm := d == .hbm || (match d with
      | .panel _ => hbmBase ≤ x
      | _ => false)
    if fe && (inHbm || d == .device) then .trap s { code := cSeg, detail := 4, tval := ea }
    else if da.toNat % align != 0 then .trap s { code := cMisalign, tval := ea }
    else
      let parts := splitAt (granule (pathOf c d)) (n / 16 + 2) x n
      if d = .hbm then
        if (if replay then th.flyOp.refused else th.op.refused) then .trap s { code := cSeg, detail := 5, tval := ea }
        else s.translateParts t da need (th.pinned ea) kind replay parts []
      else .ok s da (parts.map fun p => (d, p.1, p.2))

/-! ## The posted-store journal (R166, R180, R303) -/

/-- An entry that has not performed, and whose refusal, if any, its core has not recorded yet (R303, R319). -/
def JEntry.pending (e : JEntry) : Bool := !e.performed

/-- An entry that its home has neither performed nor refused. -/
def JEntry.unserved (e : JEntry) : Bool := !e.performed && e.refused == 0

/-- The unit to which an entry goes: for a message, the inbox or slots of a core. -/
def JEntry.context (e : JEntry) : Dest :=
  match e.kind with
  | .inbox _ _ => .tcm e.addr
  | .spawn _ _ => .tcm e.addr
  | _ => e.unit

/-- The core whose context an access to a unit reaches. -/
def contextOf : Dest → Option Nat
  | .tcm c => some c
  | _ => none

/-- The journal entries of a thread, by index: those of its core, and those that a core it has left still holds (R100,
R166). -/
def State.journalOf (s : State) (t : Nat) : List (Nat × JEntry) :=
  s.cores.flatMap fun p => p.2.journal.filter fun e => e.2.thread == t && !e.2.killed

/-- The pending entries of a thread. -/
def State.entriesOf (s : State) (t : Nat) : List (Nat × JEntry) := (s.journalOf t).filter (·.2.pending)

/-- Pushes of a thread's out contexts that are still to be drained (R272). -/
def State.pushesOf (s : State) (t : Nat) : Bool :=
  (s.core (coreOf t)).ctxs.toList.any fun x => x.bound && x.owner == t && x.desc.dirOut && x.buf != []

/-- The release obligation of R183 is met: every earlier store of the thread has performed or been refused. -/
def State.released (s : State) (t : Nat) : Bool := (s.entriesOf t).isEmpty && !s.pushesOf t

/-- A byte of a pending entry lies at an address of a unit. -/
def JEntry.covers (e : JEntry) (d : Dest) (a : Nat) : Option Byte :=
  if e.unit != d then none
  else match e.kind with
    | .inbox _ _ => none
    | .spawn _ _ => none
    | _ => (e.bytes.find? fun b => e.addr + b.1 == a).map (·.2)

/-- The youngest pending byte a thread has posted to an address (R179). -/
def State.forwardByte (s : State) (t : Nat) (d : Dest) (a : Nat) : Option Byte :=
  ((s.entriesOf t).foldl (fun (acc : Option (Nat × Byte)) e =>
    match e.2.covers d a, acc with
    | some b, some (o, _) => if o < e.2.order then some (e.2.order, b) else acc
    | some b, none => some (e.2.order, b)
    | none, _ => acc) none).map (·.2)

/-- Bytes of an access that the thread's pending entries hold, in address order. -/
def State.forwarded (s : State) (t : Nat) (parts : List (Dest × Nat × Nat)) : List (Option Byte) :=
  parts.flatMap fun (d, a, n) => (List.range n).map fun i => s.forwardByte t d (a + i)

/-- Free journal indices of a core. -/
def freeIndices (j : SMap JEntry) : List Nat := (List.range 64).filter fun i => !j.any fun e => e.1 == i

/-- The journal and the thread's share have room for `n` entries (R166). -/
def State.journalRoom (s : State) (t n : Nat) : Bool :=
  let c := coreOf t
  n ≤ (freeIndices (s.core c).journal).length && (s.journalOf t).length + n ≤ 16

/-- The event that performs an entry at its home. -/
def JEntry.event (e : JEntry) (c i : Nat) : Option Instr :=
  match e.kind with
  | .stf => some (.feArrival c i e.seq)
  | .inbox _ _ => some (.inboxMessage c i e.seq)
  | .spawn _ _ => some (.spawnMessage c i e.seq)
  | _ => none

/-- Puts an item on the way under the next number, with its arrival and the end of its life (R305, R309). -/
def State.launchItem (s : State) (it : Item) (reply : Bool) : State :=
  let n := s.nextNet
  { s with net := smPut s.net n it, nextNet := n + 1
           agenda := s.agenda ++ [if reply then .remoteReply n else .remoteRequestAtHome n, .fabricLifetimeExpiry n] }

/-- Takes a journal entry (R166, R303): the least free index, the thread's next sequence number. -/
def State.takeEntry (s : State) (t : Nat) (e : JEntry) : State × Nat × Nat :=
  let c := coreOf t
  let i := (freeIndices (s.core c).journal).headD 0
  let seq := (s.thr t).nseq.toNat
  let e := { e with thread := t, seq := seq, fn := (s.thr t).fn, level := (s.thr t).tsr.pl.toNat, since := s.cycle,
                    order := (s.core c).jorder }
  let s := s.modCore c fun k => { k with journal := smPut k.journal i e, jorder := k.jorder + 1 }
  let s := s.modThr t fun th => { th with nseq := th.nseq + 1 }
  let s := match e.event c i with
    | some ev => s.due ev
    | none => s.launchItem (.entry c i seq) false
  (s.due (.journalExpired c i seq), i, seq)

/-- The thread's youngest pending entry in the journal of its core. -/
def State.youngest (s : State) (t : Nat) : Option (Nat × JEntry) :=
  ((s.core (coreOf t)).journal.filter fun e => e.2.thread == t && e.2.pending && !e.2.killed).foldl
    (fun acc e => match acc with
      | some a => if a.2.order < e.2.order then some e else acc
      | none => some e) none

/-- Closes the thread's youngest entry: nothing later merges into it (R180). -/
def State.closeYoungest (s : State) (t : Nat) : State :=
  match s.youngest t with
  | some (i, e) =>
    s.modCore (coreOf t) fun k => { k with journal := k.journal.map fun p =>
      if p.1 = i then (i, { e with closed := true }) else p }
  | none => s

/-- Bytes with their offsets. -/
def indexed (bs : List Byte) : List (Nat × Byte) := (List.range bs.length).zip bs

/-- Merges a store's bytes into an entry: later bytes replace earlier ones (R180). -/
def JEntry.merge (e : JEntry) (a : Nat) (bs : List Byte) : JEntry :=
  let base := min e.addr a
  let old := e.bytes.map fun b => (b.1 + (e.addr - base), b.2)
  let new := (indexed bs).map fun b => (b.1 + (a - base), b.2)
  { e with addr := base, bytes := old.filter (fun b => !new.any fun c => c.1 == b.1) ++ new
           report := e.report - BitVec.ofNat 64 (e.addr - base) }

/-- Posts one part of a store: merged into the youngest entry where R180 allows it, the entry has not left the core, and
the free choice takes it (log entry 6), or as an entry of its own. -/
def State.postStore (s : State) (t : Nat) (kind : JKind) (rel : Bool) (d : Dest) (a : Nat) (report : Word)
    (bs : List Byte) : State :=
  let g := granule (pathOf (coreOf t) d)
  let fresh (s : State) : State :=
    ((if kind = .st then s else s.closeYoungest t).takeEntry t
      { thread := t, seq := 0, fn := 0, kind := kind, unit := d, addr := a, report := report, bytes := indexed bs,
        rel := rel, closed := kind != .st }).1
  match s.youngest t with
  | some (i, e) =>
    if kind = .st && e.kind = .st && !e.closed && !e.queued && !e.left && e.unit = d && e.addr / g = a / g then
      let (yes, s) := s.flip
      if yes then s.modCore (coreOf t) fun k => { k with journal := k.journal.map fun p =>
          if p.1 = i then (i, e.merge a bs) else p }
      else fresh s
    else fresh s
  | none => fresh s

/-- The home unit of a canonical address as a number (R177): a stack cache, the slice of a die's SRAM, a scratchpad, or a
core's TCM. -/
def unitNo (a : Nat) : Nat :=
  if hbmBase ≤ a then 2 ^ 62 + field a 41 36
  else match unitAt a with
    | .dsram x => ownerCore (.dsram x) a * 8 + 2
    | _ => a / 2 ^ 37

/-- The unit at which an entry keeps its place among the thread's earlier ones (R180, R294), by panel, own panel first: the
home unit of a store, the destination core of a message. A store to another panel's HBM has none here: its stack is known
there alone, where arrivals keep the order. -/
def JEntry.key (e : JEntry) : Option (Nat × Nat) :=
  let p := match e.unit with
    | .panel p => p + 1
    | _ => 0
  match e.kind with
  | .inbox _ _ => some (p, e.addr * 8)
  | .spawn _ _ => some (p, e.addr * 8)
  | _ => if e.unit = .device then some (0, 2 ^ 63) else if p != 0 && hbmBase ≤ e.addr then none else some (p, unitNo e.addr)

/-- An entry waits for an earlier one of its thread: for all of them under a release obligation, for those of its unit
otherwise (R180, R183, R294). To another panel's HBM they only leave in order. -/
def JEntry.follows (e f : JEntry) : Bool :=
  e.rel || (match e.key with
    | some k => f.key == some k
    | none => f.key.isNone && f.unit == e.unit && !f.left)

/-- An entry may leave its core and perform: the earlier entries of its thread that it waits for have performed or been
refused. -/
def State.mayPerform (s : State) (e : JEntry) : Bool :=
  s.cores.all (fun k => k.2.journal.all fun p =>
    let f := p.2
    f.thread != e.thread || f.killed != e.killed || e.order ≤ f.order || !f.unserved || !e.follows f) &&
  (!e.rel || e.killed || !s.pushesOf e.thread)

/-- Changes the entry at an index of a core's journal. -/
def State.modEntryAt (s : State) (c i : Nat) (f : JEntry → JEntry) : State :=
  s.modCore c fun k => { k with journal := k.journal.map fun p => if p.1 = i then (i, f p.2) else p }

/-- Marks an entry performed; its acknowledgement is on the way. -/
def State.entryDone (s : State) (c i q : Nat) : State :=
  (s.modEntryAt c i fun e => { e with performed := true }).due (.journalAck c i q)

/-- Marks an entry refused with a code of R299; the refusal is on the way. -/
def State.entryRefused (s : State) (c i q code : Nat) : State :=
  (s.modEntryAt c i fun e => { e with refused := code }).due (.journalRefusal c i q)

/-- The entry at an index with a sequence number. -/
def State.entryAt? (s : State) (c i q : Nat) : Option JEntry :=
  match (s.core c).journal.find? (fun p => p.1 == i && p.2.seq == q) with
  | some p => some p.2
  | none => none

/-! ## Hops and packets (R293, R411, R412, R480) -/

/-- The attach core of a stack (R480). -/
def attachCore (k : Nat) : Nat :=
  let d := attachDie k
  match k / 12 with
  | 0 => coreAt (8 * (d % 30) + 3) 0
  | 1 => coreAt 239 (8 * (d / 30) + 3)
  | 2 => coreAt (8 * (d % 30) + 3) 239
  | _ => coreAt 0 (8 * (d / 30) + 3)

/-- The core at the far end of an access (R480). -/
def farEnd (d : Dest) (a : Nat) : Nat :=
  match d with
  | .hbm => attachCore (field a 41 36)
  | .tcm c => c
  | .spad c => c
  | .dsram _ => ownerCore d a
  | _ => 0

/-- Charges a packet of the message mesh at its injection: every flit of the request and its answer per hop and die
edge, the bytes at its home and ATOM (R411, R412). -/
def State.chargePacket (s : State) (c f : Nat) (far flits cls bytes : Nat) (atom : Bool) : State :=
  let q := quadOf c
  let s := s.charge q f 18 (flits * dist c far)
  let s := s.charge q f 19 (flits * dieDist (dieOf c) (dieOf far))
  let s := s.charge q f cls bytes
  if atom then s.charge q f 27 1 else s

/-- The class of the bytes of a unit. -/
def byteClass : Dest → Nat
  | .tcm _ => 10
  | .spad _ => 11
  | .dsram _ => 12
  | _ => 13

/-- Request and answer flits of an operation (R293); one that is queued at its home adds its queued notice and its
confirmation there. -/
def opFlits : HomeOp → Nat
  | .load _ _ => 3
  | .probe _ => 3
  | .store _ bs => 2 + (bs.length + 15) / 16
  | .drain _ _ => 3
  | .waitgen _ _ => 3
  | .fill _ _ => 3
  | .check _ _ => 2
  | _ => 4

/-- Charges an access that leaves the core. -/
def State.chargeAccess (s : State) (c f : Nat) (d : Dest) (op : HomeOp) : State :=
  match pathOf c d with
  | .own => (s.charge (quadOf c) f (byteClass d) op.size).charge (quadOf c) f 27 (bit op.atom)
  | .mem => (if d = .hbm then s.hbmLine (quadOf c) f op.addr op.size
             else s.charge (quadOf c) f (byteClass d) op.size).charge (quadOf c) f 27 (bit op.atom)
  | .remote => s.chargePacket c f (farEnd d op.addr) (opFlits op) (byteClass d) op.size op.atom
  | .far =>
    let s := s.charge (quadOf c) f 20 2
    (s.charge (quadOf c) f (if hbmBase ≤ op.addr then 13 else 12) op.size).charge (quadOf c) f 27 (bit op.atom)

/-! ## Scopes and what they oblige (R172, R181 to R184, R188, R190) -/

/-- A scope after its check: THREAD alone, spanning panels, and whether it was clamped. -/
structure Scope where
  thread : Bool
  spans : Bool
  clamped : Bool
  deriving DecidableEq, Repr

/-- The rectangle of cores of a scope kind, where it is one. -/
def scopeRect (q : Word) (c : Nat) : Option (Nat × Nat × Nat × Nat) :=
  match scopeKind q with
  | 0 => some (field q.toNat 7 0, field q.toNat 15 8, field q.toNat 23 16, field q.toNat 31 24)
  | 2 => some (xOf c, yOf c, xOf c, yOf c)
  | 3 => some (xOf c / 2 * 2, yOf c / 2 * 2, xOf c / 2 * 2 + 1, yOf c / 2 * 2 + 1)
  | 4 => some (xOf c / 8 * 8, yOf c / 8 * 8, xOf c / 8 * 8 + 7, yOf c / 8 * 8 + 7)
  | 6 => some (0, 0, 239, 239)
  | 7 => some (0, 0, 239, 239)
  | _ => none

/-- Quads a function holds. -/
def State.quadsOf (s : State) (f : Nat) : List Nat :=
  (s.quads.filter fun p => match p.2.hold with
    | .held g _ _ => g == f
    | _ => false).map (·.1)

/-- The reach of one scope lies within that of another, for a function at a core (R181, R182). -/
def State.reachWithin (s : State) (f c : Nat) (q m : Word) : Bool :=
  if scopeKind q = 1 then true
  else if scopeKind q = 7 && scopeKind m != 7 && 1 < s.sysPanels then false
  else match scopeRect q c, scopeRect m c with
    | some (a0, b0, a1, b1), some (x0, y0, x1, y1) => x0 ≤ a0 && y0 ≤ b0 && a1 ≤ x1 && b1 ≤ y1
    | none, some (x0, y0, x1, y1) =>
      (s.quadsOf f).all fun k =>
        x0 ≤ 2 * (k % 120) && 2 * (k % 120) + 1 ≤ x1 && y0 ≤ 2 * (k / 120) && 2 * (k / 120) + 1 ≤ y1
    | some (a0, b0, a1, b1), none =>
      ((s.quadsOf f).filter fun k =>
        a0 / 2 ≤ k % 120 && k % 120 ≤ a1 / 2 && b0 / 2 ≤ k / 120 && k / 120 ≤ b1 / 2).length ==
        (a1 / 2 - a0 / 2 + 1) * (b1 / 2 - b0 / 2 + 1)
    | none, none => true

/-- A scope operand of a kind with nothing else. -/
def scopeWord (k : Nat) : Word := BitVec.ofNat 64 (k <<< 32)

/-- The check of a scope value against R172 and SCOPEMAX (R182). -/
def State.checkScope (s : State) (t : Nat) (q : Word) : Except Cause Scope :=
  let th := s.thr t
  let sm := (s.fn th.fn).scopemax
  let max := if sm % 8 < 2 then 2 else sm % 8
  if !scopeValid q then .error { code := cScope, tval := q }
  else if scopeKind q = 1 then .ok { thread := true, spans := false, clamped := false }
  else if s.reachWithin th.fn (coreOf t) q (scopeWord max) then
    .ok { thread := false, spans := scopeKind q == 7 && 1 < s.sysPanels, clamped := false }
  else if bitAt sm 3 then .error { code := cScope, detail := 1, tval := q }
  else .ok { thread := false, spans := false, clamped := true }

/-- TSR.SC records a clamp (R182). -/
def State.noteClamp (s : State) (t : Nat) (x : Scope) : State :=
  if x.clamped then s.modThr t fun th => { th with tsr := { th.tsr with sc := true } } else s

/-- The implicit scope of a full/empty operation and of a message with release (R181, R302). -/
def implicitScope (far : Bool) : Word := scopeWord (if far then 7 else 6)

/-- The optical edge die whose import buffer serves a core (R188). -/
def bufferOf (c : Nat) : Nat := dieOf c % 30 / 8 + 4 * (dieOf c / 30 / 8)

/-- The acquire effect: the function's entries leave the serving buffer, and requests already out install nothing
(R183, R190). Elements a context fetched ahead before an acquire are discarded (R272). -/
def State.acquire (s : State) (t : Nat) (x : Scope) : State :=
  if x.thread then s
  else
    let s := s.modOwned t fun c =>
      if c.desc.dirOut || c.kind = 2 then c else { c with buf := [], asked := [], epoch := c.epoch + 1 }
    if x.spans && !bitAt (s.fn (s.thr t).fn).scopemax 4 then
      let f := (s.thr t).fn
      let b := bufferOf (coreOf t)
      let s : State := { s with threads := s.threads.map fun p =>
        if p.2.op.relaxed && p.2.fn == f && bufferOf (coreOf p.1) == b then
          (p.1, { p.2 with op := { p.2.op with relaxed := false } })
        else p }
      s.modOdie b fun o => { o with imports := o.imports.filter fun e => e.fn != f }
    else s

/-- A store, atomic or full/empty operation to another panel removes the granule's entry at issue (R190). -/
def State.blockFill (s : State) (t : Nat) (p a : Nat) : State :=
  let th := s.thr t
  s.modOdie (bufferOf (coreOf t)) fun o =>
    { o with imports := o.imports.filter fun e => !(e.fn == th.fn && e.panel == p && e.granule == a / 64) }

/-- A store, atomic or full/empty operation to a granule of another panel that a core's buffer serves has been issued and
has not performed: no fill installs the granule (R190). -/
def State.fillBlocked (s : State) (b f p g : Nat) : Bool :=
  let hits (a : Access) : Bool := a.dest == .panel p && a.op.touches && a.op.addr / 64 == g
  (s.cores.any fun k => bufferOf k.1 == b && k.2.journal.any fun j =>
    let e := j.2
    e.fn == f && e.pending && e.unit == .panel p && (match e.kind with
      | .inbox _ _ => false
      | .spawn _ _ => false
      | _ => e.addr / 64 == g)) ||
  (s.threads.any fun x => bufferOf (coreOf x.1) == b && x.2.fn == f &&
    ((x.2.st != .run && x.2.op.todo.any hits) || x.2.flyOp.todo.any hits ||
      x.2.op.feAt.any fun y => y.1 == p && y.2 / 64 == g))

/-- A live import entry for a granule of another panel (R188); whether it is still held is drawn where it is used (log
entry 6). -/
def State.importHit (s : State) (t : Nat) (p a : Nat) : Option ImportEntry :=
  let th := s.thr t
  if bitAt (s.fn th.fn).scopemax 4 then none
  else (s.odie (bufferOf (coreOf t))).imports.find? fun e =>
    e.fn == th.fn && e.lease == th.lease && e.panel == p && e.granule == a / 64 && s.cycle < e.ends

/-! ## Frames and requests -/

/-- The optical edge die that sends to a panel. -/
def odieFor (p : Nat) : Nat := p % 16

/-- Queues an ordered frame to a panel (R432, R433). -/
def State.sendFrame (s : State) (p f : Nat) (cargo : Cargo) (beats : Nat) : State :=
  s.modOdie (odieFor p) fun o =>
    let n := smGet 0 o.nextSeq p
    { o with egress := o.egress ++ [{ src := s.panelNo, dst := p, fn := f, seq := some n, cargo := cargo, beats := beats }]
             nextSeq := smSet 0 o.nextSeq p ((n + 1) % 2 ^ 32) }

/-- A packet is injected when its function's allowance permits (R411). -/
def State.mayInject (s : State) (c f level : Nat) : Bool := 2 ≤ level || s.quotaOk (quadOf c) f

/-- A request of the slot's generation is still unanswered (R309). -/
def State.tagBusy (s : State) (t : Nat) : Bool :=
  let th := s.thr t
  th.unanswered.any fun u => u.1 == th.gen.toNat && s.cycle < u.2

/-- RTIMEOUT in force (R308). -/
def Thread.timeout (th : Thread) : Nat := max 4096 (min 6000000 th.rtimeout.toNat)

/-- The park reason of an operation whose access goes by a path: CDEF and the partition instructions park with reason
ENGINE (R363, R462), as do the rows of a tile (R240); SDESC parks with reason MEM (R286). -/
def Op.reason (o : Op) (p : Park) : Park :=
  if o.service then .engine else match o.insn with
  | some (.cdef _ _) => .engine
  | some (.tld _ _ _) => .engine
  | some (.tldRing _ _ _) => .engine
  | some (.tst _ _ _) => .engine
  | some (.sdesc _ _) => .mem
  | _ => p

/-! ## The fetch buffer (R483) -/

/-- Effective address of the line that holds an address. -/
def lineOf (a : Nat) : Nat := a / 64 * 64

/-- The line of the buffer at an effective address. -/
def Thread.heldLine (th : Thread) (ea : Nat) : Option Line := th.fbuf.find? fun l => l.ea == ea

/-- A line from its 64 bytes. -/
def lineFrom (ea : Nat) (bs : List Byte) : Line := { ea := ea, words := (chunksOf 4 16 bs).map (BitVec.ofNat 32) }

/-- The word at an address of a line. -/
def Line.at (l : Line) (a : Nat) : Half := l.words.getD (a % 64 / 4) 0

/-- A new line replaces the one that was fetched earlier. -/
def Thread.addLine (th : Thread) (l : Line) : Thread := { th with fbuf := th.fbuf.getLast?.toList ++ [l] }

/-- A line fetched ahead takes the other place beside the line at `cur`. -/
def Thread.addAhead (th : Thread) (cur : Nat) (l : Line) : Thread :=
  { th with fbuf := th.fbuf.filter (fun x => x.ea == cur) ++ [l] }

/-- The key of a line that is fetched ahead from another panel, in its request. -/
def aheadKey (t : Nat) : Nat := 2 ^ 22 + t

/-! ## The routers while a context moves (R311, R312, R328) -/

/-- Traffic of core `b` for the context of core `c` has left and is neither acknowledged nor answered. -/
def State.unansweredTo (s : State) (b c : Nat) : Bool :=
  let goes (o : Op) : Bool := o.todo.head?.any fun a => contextOf a.dest == some c
  (s.core b).journal.any (fun p => p.2.left && contextOf p.2.context == some c) ||
  s.net.any (fun p => match p.2 with
    | .request r => r.thread < 2 ^ 20 && coreOf r.thread == b && contextOf r.unit == some c
    | _ => false) ||
  (List.range 16).any fun i =>
    let th := s.thr (b * 16 + i)
    (th.op.phase != 0 && goes th.op) || (th.flyHold == .remote && goes th.flyOp)

/-- Cycles in which a new remap exception reaches every router: 50 µs (R328). -/
def exceptionReach : Nat := 75000

/-- Before traffic of core `b` for a unit leaves, the router of `b` turns to the new site of a moved context if it holds
the new exception and nothing unanswered of `b` went to the old one (R312). When a router receives an exception within its
50 µs is free. -/
def State.route (s : State) (b : Nat) (d : Dest) : State :=
  match contextOf d with
  | none => s
  | some c =>
    let p := (s.core c).place
    match p.commit with
    | none => s
    | some n =>
      if !p.fwd || p.switched.contains b || s.unansweredTo b c then s
      else
        let (got, s) := if n + exceptionReach ≤ s.cycle then (true, s) else s.flip
        if got then s.modCore c fun k => { k with place := { k.place with switched := keyAdd k.place.switched b } } else s

/-- An entry leaves its core (R180, R305): when its order and its function's allowance permit, it is charged and its
6,000,000 cycles begin. -/
def State.entryLeaves (s : State) (c i : Nat) (e : JEntry) (charge : State → State) : Bool × State :=
  if e.left then (true, s)
  else if !s.mayPerform e then (false, s)
  else if !s.mayInject c e.fn e.level then (false, s.quotaFail (quadOf c) e.fn)
  else
    let s := charge (s.route c e.context)
    (true, s.modEntryAt c i fun e => { e with left := true, since := s.cycle })

/-- Starts the next access that a thread still has to make: MEM, or REMOTE with its request sent under the slot's
generation (R307, R309). -/
def State.nextAccess (s : State) (t : Nat) : State :=
  let th := s.thr t
  match th.op.todo with
  | [] => s
  | a :: _ =>
    let d := a.dest
    let op := a.op
    match pathOf (coreOf t) d with
    | .own => (s.park t (th.op.reason .mem) { th.op with phase := 0 }).dueOnce (.accessReply t)
    | .mem => (s.park t (th.op.reason .mem) { th.op with phase := 0 }).dueOnce (.accessReply t)
    | p =>
      let park (s : State) : State :=
        (s.park t (th.op.reason .remote) { th.op with phase := 0 }).dueOnce (.accessReply t)
      let sent (s : State) : State :=
        (s.park t (th.op.reason .remote) { th.op with phase := 1, deadline := some (s.cycle + th.timeout) }).due
          (.remoteTimeout t th.gen.toNat)
      let (hit, s) := match d with
        | .panel n =>
          if th.op.relaxed && (s.importHit t n op.addr).isSome then
            let (yes, s2) := s.flip
            if yes then (s.importHit t n op.addr, s2) else (none, s2)
          else (none, s)
        | _ => (none, s)
      if th.flyHold == .remote || s.tagBusy t then park s
      else match hit with
        | some e =>
          (sent s).launchItem (.answer t th.gen.toNat (.data ((e.bytes.drop (op.addr % 64)).take op.size)) false s.cycle) true
        | none =>
          if !s.mayInject (coreOf t) th.fn th.tsr.pl.toNat then park (s.quotaFail (quadOf (coreOf t)) th.fn)
          else
            let r : Request := { thread := t, gen := th.gen.toNat, fn := th.fn, level := th.tsr.pl.toNat, unit := d,
                                 op := op, ea := a.ea, da := a.da, pinned := th.op.pinned, relaxed := th.op.relaxed,
                                 since := s.cycle }
            let s := (sent (s.route (coreOf t) d)).chargeAccess (coreOf t) th.fn d op
            match p, d with
            | .far, .panel n => s.sendFrame n th.fn (.request r) 2
            | _, _ => s.launchItem (.request r) false

end Sys2Proof.Machine
end

