-- ==== Sys2Proof/Machine/Run.lean ====
section
/-! DEFINITION. What surrounds every instruction word: the checks 3 and 5 to 7 of R61, the registers that stream contexts
stand behind (R266 to R274), and how an instruction ends (R65, R86, R87, R107, R114). -/

namespace Sys2Proof.Machine

/-- How the meaning of a word ends: completed at the next word, completed with a transfer of control, an exact trap, or
with everything said already (a park, a kill, a return from an exception). -/
inductive Res where
  | done (s : State)
  | goto (s : State) (pc : Word)
  | trap (s : State) (c : Cause)
  | keep (s : State)

/-- The prefixes a target accepts (R66): codes of source A, of source B, of the destination, a scale register, and what
must hold of them together. -/
structure PfxRule where
  a : List Nat
  b : List Nat
  d : List Nat
  ssel : Bool := false
  also : Nat → Nat → Nat → Bool := fun _ _ _ => true

/-- What an instruction tells of itself before it executes: its word, its prefix rule, the privilege level it needs, its
own checks of step 4 and 6 that depend on state, the scalar registers it reads and writes, whether it runs as a replay,
which parks no thread (R110), and how its operands outside the scalar registers compare. -/
structure Form where
  word : Half
  pfx : Option PfxRule := none
  level : Nat := 0
  early : State → Option Cause := fun _ => none
  srcs : List Nat := []
  dsts : List Nat := []
  replay : Bool := false
  /-- the vector and mask operands that two copies of a paired thread hold are the same (R335) -/
  same : Thread → Thread → Bool := fun _ _ => true

/-- A trap whose value is the word. -/
def Form.fault (f : Form) (code : Nat) (detail : Nat := 0) : Cause :=
  { code := code, detail := detail, tval := f.word.zeroExtend 64 }

/-- A prefix payload that a target accepts (R66). -/
def PfxRule.accepts (r : PfxRule) (p : BitVec 26) : Bool :=
  r.a.contains (pfxA p) && r.b.contains (pfxB p) && r.d.contains (pfxD p) &&
    pfxRm p != 5 && pfxRm p != 6 && (r.ssel || pfxSsel p == 0) && r.also (pfxA p) (pfxB p) (pfxD p)

/-! ## Elements of a stream (R266, R267) -/

/-- The address of an element, PAD, or OVF. -/
inductive ElemAddr where
  | pad
  | ovf
  | at (a : Word)
  deriving DecidableEq, Repr

/-- Element count T. -/
def Desc.total (d : Desc) : Nat := d.n.foldl (· * ·) 1

/-- A signed 64-bit value, or overflow. -/
def int64 (v : Int) : Option Int := if -(2 : Int) ^ 63 ≤ v ∧ v < (2 : Int) ^ 63 then some v else none

/-- BASE plus the sum of products, each checked (R267). -/
def strideSum : Int → List (Int × Int) → Option Int
  | acc, [] => some acc
  | acc, (a, s) :: r => ((int64 (a * s)).bind fun p => int64 (acc + p)).bind fun x => strideSum x r

/-- Coordinates of an element, i0 fastest. -/
def coords : Nat → List Nat → List Nat
  | _, [] => []
  | e, n :: ns => e % n :: coords (e / n) ns

/-- The address of element `e` from a base with strides (R267). -/
def Desc.addr (d : Desc) (base : Word) (e : Nat) : ElemAddr :=
  let a := (d.c.zip (coords e d.n)).map fun p => p.1 + (p.2 : Int)
  if (d.e.zip a).any fun p => p.1 != 0 && (p.2 < 0 || (p.1 : Int) ≤ p.2) then .pad
  else match strideSum base.toInt (a.zip d.s) with
    | some v => .at (BitVec.ofInt 64 v)
    | none => .ovf

/-- Element size in bytes. -/
def Desc.size (d : Desc) : Nat := 1 <<< d.esz

/-- The cause STREAM_OVF (R268). -/
def streamOvf (x kind : Nat) (e : Nat) : Cause :=
  { code := cStream, detail := x + kind <<< 4, tval := BitVec.ofNat 64 e }

/-- A context of a core. -/
def Core.ctx (k : Core) (x : Nat) : Ctx := vget {} k.ctxs x

/-- Changes a context. -/
def State.modCtx (s : State) (c x : Nat) (f : Ctx → Ctx) : State :=
  s.modCore c fun k => { k with ctxs := vmod {} k.ctxs x f }

/-- The context of a thread bound to a register of a kind, while it is not suspended (R269, R274). -/
def State.boundTo (s : State) (t kind n : Nat) : Option Nat :=
  (List.range 16).find? fun x =>
    let k := (s.core (coreOf t)).ctx x
    k.bound && !k.susp && k.owner == t && k.kind == kind && k.n == n

/-- The context bound to a scalar register. -/
def State.boundG (s : State) (t r : Nat) : Option Nat :=
  if 16 ≤ r && r ≤ 23 then s.boundTo t 0 (r - 16) else none

/-- What a pop of one element comes to. -/
inductive Pop where
  | val (bs : List Byte)
  | trap (s : State) (c : Cause)
  | wait (s : State) (page : Bool)

/-- The stream engine has work on a context. -/
def State.stir (s : State) (c x : Nat) : State :=
  s.dueOnce (if ((s.core c).ctx x).desc.dirOut then .streamDrain c x else .streamFetchIssue c x)

/-- A word waits for a context: its thread parks and then completes it, or reissues it after a page (R271); a replay
waits in the sequencer (R160). -/
def Form.wait (f : Form) (x : Nat) (page : Bool) (s : State) : Res :=
  if f.replay then .keep (if page then s.modMe fun th => th.modFly fun x => { x with hold := .page } else s)
  else if page then .keep (s.park s.cur .page {})
  else .keep (s.park s.cur .mem { s.me.op with again := true, aux := x + 1 })

/-- The element at an index of an in context (R267, R270, R271). -/
def State.popElem (s : State) (t x e : Nat) (replay : Bool) : Pop :=
  let c := coreOf t
  let k := (s.core c).ctx x
  match k.desc.addr k.desc.base e with
  | .pad => .val (List.replicate k.desc.size 0)
  | .ovf => .trap s (streamOvf x 0 e)
  | .at a =>
    if a.toNat % k.desc.size != 0 then .trap s { code := cMisalign, tval := a }
    else match k.buf.find? (fun p => p.1 == e) with
      | some (_, .ok bs) => .val bs
      | some (_, .bad f) => .trap s f
      | some (_, .out _ _ _ _ _) => .wait (s.stir c x) false
      | some (_, .page) =>
        let s1 := s.modCtx c x fun k => { k with buf := k.buf.filter fun p => p.1 != e }
        match s.reach t a k.desc.size rightR 1 0 false replay with
        | .page s2 => .wait s2 true
        | .trap s2 f => .trap s2 f
        | .ok _ _ _ => .wait (s1.stir c x) false
      | none => .wait (s.stir c x) false

/-- Extends a popped element into 64 bits (R269). -/
def Desc.extend (d : Desc) (bs : List Byte) : Word :=
  if d.sx then BitVec.ofInt 64 (signedOf (8 * d.size) (ofBytes bs)) else BitVec.ofNat 64 (ofBytes bs)

/-- A push has room (R271). -/
def Ctx.room (k : Ctx) (n : Nat) : Bool := (k.buf.length + n) * k.desc.size ≤ 1024

/-- The scalar pops of an instruction: its registers with their values. -/
def State.popScalars (f : Form) (s : State) (t : Nat) : List (Nat × Nat) → List (Nat × Word) → Except Res (List (Nat × Word))
  | [], acc => .ok acc
  | (r, x) :: rest, acc =>
    let k := (s.core (coreOf t)).ctx x
    if k.desc.total ≤ k.pos then .error (.trap s (streamOvf x 1 k.pos))
    else match s.popElem t x k.pos f.replay with
      | .val bs => State.popScalars f s t rest ((r, k.desc.extend bs) :: acc)
      | .trap s1 e => .error (.trap s1 e)
      | .wait s1 page => .error (f.wait x page s1)

/-- The checks of one pushed element before its instruction executes, but for room: a recorded refusal, which any next push
takes, address, alignment (R267, R270, R271). -/
def State.pushBad (s : State) (t x e : Nat) : Option Res :=
  let c := coreOf t
  let k := (s.core c).ctx x
  if let some r := k.refused then
    some (.trap (s.modCtx c x fun k => { k with refused := none }) { code := cSeg, detail := 3, tval := r })
  else match k.desc.addr k.desc.base e with
  | .ovf => some (.trap s (streamOvf x 0 e))
  | .pad => none
  | .at a =>
    if a.toNat % k.desc.size != 0 then some (.trap s { code := cMisalign, tval := a })
    else match s.segCheck (s.thr t) (quadOf c) a k.desc.size rightW with
      | .error e => some (.trap s e)
      | .ok _ => none

/-- The checks of pushes of `n` elements each: end of stream, every element, room (R270, R271). -/
def State.pushReady (f : Form) (n : Nat → Nat) (s : State) (t : Nat) : List (Nat × Nat) → Option Res
  | [] => none
  | (_, x) :: rest =>
    let c := coreOf t
    let k := (s.core c).ctx x
    let es := (List.range (min (n x) (k.desc.total - k.pos))).map (k.pos + ·)
    if k.desc.total ≤ k.pos then some (.trap s (streamOvf x 1 k.pos))
    else match es.findSome? (s.pushBad t x) with
      | some r => some r
      | none => if k.room es.length then State.pushReady f n s t rest else some (f.wait x false (s.stir c x))

/-- Whether an element is PAD. -/
def Desc.isPad (d : Desc) (e : Nat) : Bool := d.addr d.base e == .pad

/-- Consumes elements of an in context; PAD is never charged (R267). -/
def State.consume (s : State) (t x n : Nat) : State :=
  let c := coreOf t
  let k := (s.core c).ctx x
  let s := s.chargeThread t 25 ((List.range n).filter fun i => !k.desc.isPad (k.pos + i)).length
  let s := s.modCtx c x fun k =>
    { k with pos := k.pos + n, buf := k.buf.filter (fun p => k.pos + n ≤ p.1), asked := k.asked.filter (fun e => k.pos + n ≤ e) }
  s.dueOnce (.streamFetchIssue c x)

/-- Appends one pushed element of an out context; a PAD element is dropped. -/
def State.push (s : State) (t x : Nat) (v : Nat) : State :=
  let c := coreOf t
  let k := (s.core c).ctx x
  let s := s.chargeThread t 25 (bit (!k.desc.isPad k.pos))
  let item : List (Nat × Elem) := match k.desc.addr k.desc.base k.pos with
    | .at a =>
      match s.segCheck (s.thr t) (quadOf c) a k.desc.size rightW with
      | .ok (da, d, p) => [(k.pos, .out (toBytes k.desc.size v) d p da a)]
      | .error _ => []
    | _ => []
  let s := s.modCtx c x fun k => { k with pos := k.pos + 1, buf := k.buf ++ item }
  s.dueOnce (.streamDrain c x)

/-- Puts a register's own contents back after an instruction that used its stream. -/
def State.restoreRegs (s : State) (t : Nat) (old : Thread) (rs : List Nat) : State :=
  match (s.thr t).st with
  | .free => s
  | .killed => s
  | _ => s.modThr t fun th => rs.foldl (fun th r => th.put r (old.reg r)) th

/-- Some register of a thread stands for a stream. -/
def State.streaming (s : State) (t : Nat) : Bool :=
  (s.core (coreOf t)).ctxs.toList.any fun x => x.bound && !x.susp && x.owner == t && x.kind == 0

/-- Runs a meaning with the streams of its registers (R270): each in-bound source pops once, each out-bound destination
pushes, and only when the instruction completes. -/
def withStreams (f : Form) (body : State → Res) (s : State) : Res :=
  if !s.streaming s.cur then body s
  else
    let t := s.cur
    let c := s.here
    let ins := f.srcs.eraseDups.filterMap fun r => (s.boundG t r).map fun x => (r, x)
    let outs := f.dsts.eraseDups.filterMap fun r => (s.boundG t r).map fun x => (r, x)
    if ins.any (fun p => ((s.core c).ctx p.2).desc.dirOut) || outs.any (fun p => !((s.core c).ctx p.2).desc.dirOut) then
      .trap s (f.fault cIllegal 3)
    else match State.popScalars f s t ins [] with
      | .error r => r
      | .ok vals =>
        match State.pushReady f (fun _ => 1) s t outs with
        | some r => r
        | none =>
          let old := s.me
          let rs := (ins ++ outs).map (·.1)
          let s1 := s.modMe fun th => vals.foldl (fun th p => th.put p.1 p.2) th
          let finish (s2 : State) : State :=
            let outv := outs.map fun p => (p.2, (s2.thr t).reg p.1)
            let s3 := s2.restoreRegs t old rs
            let s3 := ins.foldl (fun s p => s.consume t p.2 1) s3
            outv.foldl (fun s p => s.push t p.1 p.2.toNat) s3
          match body s1 with
          | .done s2 => .done (finish s2)
          | .goto s2 pc => .goto (finish s2) pc
          | .trap s2 e => .trap (s2.restoreRegs t old rs) e
          | .keep s2 => .keep (s2.restoreRegs t old rs)

/-! ## Migration for EXT.W (R62, R100, R274) -/

/-- The core a thread migrates to for a class: the wide core of its own quad, or the nearest listing core. -/
def State.extTarget (s : State) (t cl : Nat) : Option Nat :=
  let c := coreOf t
  let f := (s.thr t).fn
  let own := coreOfQuad (quadOf c) 3
  if s.listsClass own cl && s.holds f own then some own
  else
    ((s.quadsOf f).map fun q => coreOfQuad q 3).foldl (fun best k =>
      if !s.listsClass k cl then best
      else match best with
        | none => some k
        | some b => if dist c k < dist c b || (dist c k == dist c b && k < b) then some k else best) none

/-- Step 3 of R61 at a core that does not list a word's class; the thread joins the target's inbound migrations once its
engine work is done (R100). -/
def State.migrateFor (s : State) (t cl : Nat) (f : Form) : Res :=
  match s.extTarget t cl with
  | none => .trap s (f.fault cIllegal)
  | some k =>
    let c := coreOf t
    match (List.range 16).find? (fun x => ((s.core c).ctx x).bound && ((s.core c).ctx x).owner == t) with
    | some x => .trap s (streamOvf x 2 ((s.core c).ctx x).pos)
    | none =>
      .keep ((s.park t .migrate { again := true, aux := k }).due (.migrateArrival t k))

/-- Class of an EXT.W word. -/
def extClass (w : Half) : Nat := (w.extractLsb' 0 2).toNat

/-- The major of a word as a number. -/
def majorNat (w : Half) : Nat := (w.extractLsb' 26 6).toNat

/-- An engine instruction: it waits for the replays of its thread's REP (R110). -/
def engineWord (w : Half) : Bool :=
  (0x20 ≤ majorNat w && majorNat w ≤ 0x2D) || (majorNat w == 0x38 && extClass w == 2)

/-- An instruction of the vector unit. -/
def vectorWord (w : Half) : Bool := (0x20 ≤ majorNat w && majorNat w ≤ 0x23) || (majorNat w == 0x38 && extClass w == 2)

/-- An engine instruction does not issue yet: replays of the thread's REP remain unissued (R110), or the replay in flight
stands before it in the same engine (R16). -/
def Thread.heldBack (th : Thread) (w : Half) : Bool :=
  engineWord w && (th.unissued ||
    (match th.fly with
     | some f => if f.vec then vectorWord w else majorNat w == 0x24
     | none => false))

/-! ## An instruction from its checks to its end -/

/-- A word that computes an address from its scalar sources, or stores them (R336). -/
def addressWord (w : Half) : Bool :=
  let m := majorNat w
  (0x16 ≤ m && m ≤ 0x1A) || m == 0x21 || (m == 0x24 && (w.extractLsb' 0 11).toNat ≤ 1)

/-- Under TSR.RES, a scalar source of an address computation or a store does not have its residue (R336). -/
def Thread.residueFails (th : Thread) (f : Form) : Bool :=
  th.tsr.res && addressWord f.word && f.srcs.any th.residueBad

/-- Steps 3 and 5 to 8 of R61 around a meaning, and the residue check of R336. -/
def attempt (f : Form) (body : State → Res) (s : State) : Res :=
  if majorNat f.word = 0x38 && !s.listsClass s.here (extClass f.word) then s.migrateFor s.cur (extClass f.word) f
  else match f.early s with
    | some c => .trap s c
    | none =>
      if majorNat f.word = 0x2B && !s.hasOptical then .trap s (f.fault cAbsent)
      else if s.level < f.level then .trap s (f.fault cPrivilege)
      else if s.me.tsr.pp && !(match f.pfx with
          | some r => r.accepts s.me.pfxsave
          | none => false) then
        .trap (s.modMe fun th => { th with tsr := { th.tsr with pp := false } })
          { code := cPrefix, tval := f.word ++ (30#6 ++ s.me.pfxsave) }
      else if s.me.heldBack f.word then .keep (s.park s.cur .engine { again := true })
      else if s.me.residueFails f then .keep (s.kill s.cur 0x24 1)
      else withStreams f body s

/-- The thread after its instruction has completed: the prefix it executed under is spent (R65), nothing of a park is
left, the pc stands at the next instruction. -/
def Thread.complete (th : Thread) (pc : Word) (spent : Bool) : Thread :=
  { th with pc := pc, st := .run, op := {}, blk := th.blkNext, resHalf := false
            tsr := if spent then { th.tsr with pp := false } else th.tsr }

/-- A transfer of control before the last word of an open block is a signature error (R114). -/
def Thread.breaksBlock (th : Thread) : Bool := th.tsr.sg && th.blkNext.isSome

/-- Ends an instruction that began in `s`. -/
def settle (s : State) : Res → State
  | .done s1 => s1.modThr s.cur fun th => th.complete (s.me.pc + 4) s.me.tsr.pp
  | .goto s1 pc =>
    if s.me.breaksBlock then s1.kill s.cur 0x20
    else s1.modThr s.cur fun th => th.complete pc s.me.tsr.pp
  | .trap s1 c => s1.takeTrapAt s.cur c s.me.pc false
  | .keep s1 => s1

/-! ## Paired execution (R335) -/

/-- The leading copy of a paired thread. -/
def leadOf (t : Nat) : Nat := if slotOf t < 8 then t else t - 8

/-- A word whose value the trailing copy takes from the load-value queue: a load without an effect on memory, a read of a
CSR. -/
def valueWord (w : Half) : Bool :=
  let m := majorNat w
  m == 0x16 || (m == 0x18 && (w.extractLsb' 13 3).toNat != 2) || (m == 0x1C && (w.extractLsb' 0 6).toNat == 0)

/-- A word whose effect leaves the thread's registers. -/
def outwardWord (w : Half) : Bool :=
  let m := majorNat w
  !valueWord w && !(m == 0x1B && (w.extractLsb' 0 6).toNat == 1) &&
    ((0x16 ≤ m && m ≤ 0x1B) || (m == 0x1C && !([8, 9, 10] : List Nat).contains (w.extractLsb' 0 6).toNat) || m == 0x1F ||
      (0x20 ≤ m && m ≤ 0x2D) || m == 0x38)

/-- Some register of the word stands for a stream. -/
def State.usesStream (s : State) (f : Form) : Bool := (f.srcs ++ f.dsts).any fun r => (s.boundG (leadOf s.cur) r).isSome

/-- Both copies present the word before it executes. -/
def State.outward (s : State) (f : Form) : Bool := outwardWord f.word || s.usesStream f

/-- A copy presents its word and waits for the other. -/
def Thread.presents (th : Thread) : Thread := { th with st := .parked .engine, op := { again := true }, present := true }

/-- The two copies disagree on the word or on its operands, and with them on its address. -/
def State.copiesDiffer (s : State) (f : Form) (l : Nat) : Bool :=
  let a := s.thr l
  let b := s.thr (mateOf l)
  a.pc != b.pc || a.word != b.word || f.srcs.any (fun r => a.reg r != b.reg r) || !f.same a b

/-- A word of a paired thread that both copies must present: it is executed once, by the leading copy, when the second
presents it; copies that disagree are killed. -/
def State.pairRun (s : State) (f : Form) (body : State → Res) : State :=
  let l := leadOf s.cur
  let m := mateOf l
  if !(s.thr (mateOf s.cur)).present then s.modThr s.cur Thread.presents
  else if s.copiesDiffer f l then s.kill l 0x23
  else
    let s1 : State := if s.cur = l then s
      else (s.modThr l fun th => { th with st := .run, op := {}, present := false }).modThr m Thread.presents
    let s2 : State := { s1 with cur := l }
    settle s2 (attempt f body s2)

/-- A copy that waits at the load-value queue goes on. -/
def State.wakeQueue (s : State) (t : Nat) : State :=
  s.modThr t fun th => if th.st = .parked .mem && th.op.again then { th with st := .run } else th

/-- The leading copy adds an entry to the load-value queue. -/
def State.queueValue (s : State) (l : Nat) (v : LoadValue) : State :=
  (s.modThr l fun th => { th with lvq := th.lvq ++ [v] }).wakeQueue (mateOf l)

/-- The leading copy executes a word whose value the other takes from the queue; it waits, parked with reason MEM, while
the queue of 16 is full. -/
def State.leadValue (s : State) (f : Form) (body : State → Res) : State :=
  let l := s.cur
  let v : LoadValue := { word := f.word, pc := s.me.pc }
  if 16 ≤ s.me.lvq.length then s.park l .mem { again := true }
  else match attempt f body s with
    | .done s1 => (settle s (.done s1)).queueValue l
        { v with vals := f.dsts.map fun r => (r, s1.me.reg r), sc := s1.me.tsr.sc }
    | .trap s1 c => settle s (.trap (s1.queueValue l { v with trap := some c }) c)
    | r => settle s r

/-- The trailing copy takes the oldest value; it waits for one that is not there yet. -/
def State.trailValue (s : State) : State :=
  let m := s.cur
  let l := leadOf m
  match (s.thr l).lvq with
  | [] => s.park m .mem { again := true }
  | v :: rest =>
    let s := (s.modThr l fun th => { th with lvq := rest }).wakeQueue l
    if v.word != s.me.word || v.pc != s.me.pc then s.kill l 0x23
    else match v.trap with
      | some c => settle s (.trap s c)
      | none => settle s (.done (s.modMe fun th =>
          { v.vals.foldl (fun th p => th.put p.1 p.2) th with tsr := { th.tsr with sc := th.tsr.sc || v.sc } }))

/-- The other copy as the leading one stands: it keeps its slot's own generation and holds no events and no repetition of its
own. -/
def Thread.follow (b a : Thread) : Thread :=
  { a with st := .run, op := {}, gen := b.gen, unanswered := b.unanswered, fifo := [], rep := {}, fly := none
           repFault := none, lvq := [], present := false }

/-- The trailing copy takes over what the word that both presented left in the leading copy: results, the handler entered. -/
def State.pairSync (s : State) (l : Nat) : State :=
  let a := s.thr l
  let m := mateOf l
  let b := s.thr m
  if a.tsr.pair && slotOf l < 8 && b.present && !a.present && a.rep.want = 0 && a.op.reply = .none && !a.op.again then
    s.setThr m (b.follow a)
  else s

/-- One instruction word of the executing thread. -/
def run (f : Form) (body : State → Res) (s : State) : Out :=
  .next (if s.me.tsr.pair && s.outward f then s.pairRun f body
         else if s.me.tsr.pair && valueWord f.word then
           (if slotOf s.cur < 8 then s.leadValue f body else s.trailValue)
         else settle s (attempt f body s))

/-- An instruction that only computes a scalar register from the state. -/
def runG (f : Form) (d : BitVec 5) (v : State → Word) (s : State) : Out :=
  run f (fun s => .done (s.setG d (v s))) s

/-- What a thread or its sequencer waits for has come: the word it names is taken up again. -/
def State.answerOp (s : State) (t : Nat) (replay : Bool) (r : Reply) : State :=
  if replay then
    (s.modThr t fun th => th.modFly fun x => { x with op := { x.op with reply := r }, hold := .none }).dueOnce
      (.replayIssue t)
  else if (s.thr t).op.fetch then
    (s.modThr t fun th => { th with op := { th.op with reply := r } }).dueOnce (.fetchLineArrival t)
  else s.modThr t fun th => match th.st with
    | .parked _ => { th with st := .run, op := { th.op with reply := r, again := true } }
    | _ => th

/-- A machine event whose payload names units of the panel; no other exists. -/
def eventIf (ok : Bool) (s : State) : Out := if ok then .next s else .fault .noSuchUnit

/-- An event that is due but may not happen yet stays due. -/
def State.defer (s : State) (e : Instr) : State := s.dueOnce e

/-- The word of a trap raised inside a meaning: ILLEGAL_INSN with a detail. -/
def illegal (w : Half) (detail : Nat) (s : State) : Res :=
  .trap s { code := cIllegal, detail := detail, tval := w.zeroExtend 64 }

/-- A trap that leaves the state as it was. -/
def raise (code : Nat) (tval : Word) (detail : Nat) (s : State) : Res :=
  .trap s { code := code, detail := detail, tval := tval }

end Sys2Proof.Machine
end

