-- ==== Sys2Proof/Machine/LoadStore.lean ====
section
/-! DEFINITION. The memory engine's instructions: loads, stores, ordered and full/empty forms, atomics, fences and segment
registers (R165 to R176, R181 to R183). -/

namespace Sys2Proof.Machine

/-- Puts MEM_UE's value right: it is the domain address of the access (R150, R169). -/
def fixUe (o : Op) (c : Cause) : Cause := if c.code = cMemUe then { c with tval := o.da } else c

/-- Waits with reason MEM, or the reason of its own that an instruction has, and takes the instruction up again from its
obligations (R166, R183). -/
def waitMem (insn : Instr) (s : State) : Res :=
  let o : Op := { insn := some insn }
  .keep ((s.park s.cur (o.reason .mem) o).dueOnce (.accessReply s.cur))

/-- Parks with reason ENGINE until the service die answers; what is checked before is checked again at the answer (R420,
R462). -/
def atService (act : State → Res) (s : State) : Res :=
  if s.me.op.service then act s
  else .keep ((s.park s.cur .engine { service := true }).dueOnce (.accessReply s.cur))

/-- Marks the park of an instruction that waits until an engine or a level has taken it. -/
def takenMark : Nat := 2 ^ 16

/-- An instruction that another unit takes: its thread parks, and its effect and its end follow when the unit has taken
it. -/
def whenTaken (insn : Instr) (why : Park) (body : State → Res) (s : State) : Res :=
  if s.me.op.aux = takenMark then body s
  else .keep ((s.park s.cur why { insn := some insn, aux := takenMark }).dueOnce (.accessReply s.cur))

/-- A read whose thread parks also at its own units (R363). -/
def parkedLoad (insn : Instr) (ea : Word) (s : State) (da : Word) (parts : List (Dest × Nat × Nat)) : Res :=
  if (s.forwarded s.cur parts).any (·.isSome) then waitMem insn s
  else
    let o : Op := { insn := some insn, todo := parts.map fun p => { dest := p.1, op := .load p.2.1 p.2.2, ea := ea, da := da }
                    ea := ea, da := da, pinned := s.me.pinned ea, relaxed := true }
    .keep ((s.modMe fun th => { th with op := o }).nextAccess s.cur)

/-- Leaves the core with the accesses of an instruction. -/
def startAccess (insn : Instr) (ea da : Word) (relaxed : Bool) (ops : List (Dest × HomeOp)) (s : State) : Res :=
  let o : Op := { insn := some insn, todo := ops.map fun p => { dest := p.1, op := p.2, ea := ea, da := da }, ea := ea,
                  da := da, pinned := s.me.pinned ea, relaxed := relaxed }
  .keep ((s.modMe fun th => { th with op := o }).nextAccess s.cur)

/-- The skeleton of a memory instruction: the first time `go` acts on the parts of its address; a reissue with a granted
result repeats the address check; `fin` ends it with the bytes that came back. -/
def memAccess (ea : Word) (n need align kind : Nat) (fe : Bool) (go : State → Word → List (Dest × Nat × Nat) → Res)
    (fin : List Byte → State → Res) (s : State) : Res :=
  match s.me.op.reply with
  | .trap c => .trap s (fixUe s.me.op c)
  | .none =>
    match s.reach s.cur ea n need align kind fe with
    | .trap s c => .trap s c
    | .page s => .keep (s.park s.cur .page {})
    | .ok s da parts => go s da parts
  | r =>
    let bs := match r with
      | .data bs => bs
      | _ => s.me.op.got
    if s.me.op.insn.isSome || s.me.op.service then fin bs s
    else match s.segCheck s.me (quadOf s.here) ea n need with
      | .error c => .trap s c
      | .ok _ => fin bs s

/-- Performs an operation on the executing core's own unit, within the rotation (R149, R166). -/
def ownOp (insn : Instr) (da : Word) (d : Dest) (op : HomeOp) (fin : List Byte → State → Res) (s : State) : Res :=
  let s1 := s.chargeAccess s.here s.me.fn d op
  match s1.perform (.thread s.cur s.me.gen.toNat false) da op with
  | .reply s2 (.trap c) => .trap s2 { c with tval := da }
  | .reply s2 (.data bs) => fin bs s2
  | .reply s2 _ => fin [] s2
  | .queued s2 => .keep (s2.park s.cur (match op with
      | .waitgen _ _ => .waitgen
      | _ => .fe) { da := da })
  | .hold => waitMem insn s

/-- The unit of the first part. -/
def firstUnit (parts : List (Dest × Nat × Nat)) : Dest := (parts.headD (.device, 0, 0)).1

/-- The address of the first part. -/
def firstAddr (parts : List (Dest × Nat × Nat)) : Nat := (parts.headD (.device, 0, 0)).2.1

/-- Loads: forwarding from the journal, own units in the rotation, other units by their path (R166, R173, R179). -/
def loadGo (insn : Instr) (ea : Word) (n : Nat) (relaxed : Bool) (fin : List Byte → State → Res) (s : State) (da : Word)
    (parts : List (Dest × Nat × Nat)) : Res :=
  let fw := s.forwarded s.cur parts
  if fw.all (·.isSome) then fin (fw.map fun b => b.getD 0) s
  else if fw.any (·.isSome) then waitMem insn s
  else match pathOf s.here (firstUnit parts) with
    | .own => ownOp insn da (firstUnit parts) (.load (firstAddr parts) n) fin s
    | _ => startAccess insn ea da relaxed (parts.map fun p => (p.1, .load p.2.1 p.2.2)) s

/-- The value of a load's bytes under a size code (R173). -/
def loadValue (z : Nat) (bs : List Byte) : Word :=
  let v := ofBytes bs
  match z with
  | 4 => BitVec.ofInt 64 (signedOf 8 v)
  | 5 => BitVec.ofInt 64 (signedOf 16 v)
  | 6 => BitVec.ofInt 64 (signedOf 32 v)
  | _ => BitVec.ofNat 64 v

/-- Width in bytes of a size code (R173). -/
def sizeOf (z : Nat) : Nat := 1 <<< (z % 4)

/-- LD (R173). -/
def ldBody (insn : Instr) (d b : BitVec 5) (z : BitVec 3) (i : BitVec 13) (s : State) : Res :=
  let ea := s.ea b i
  let n := sizeOf z.toNat
  let fin (bs : List Byte) (s : State) : Res := .done (s.setG d (loadValue z.toNat bs))
  memAccess ea n rightR 1 0 false (loadGo insn ea n true fin) fin s

/-- Posts the parts of a store, both entries or neither (R165, R166). -/
def postParts (kind : JKind) (rel : Bool) (da : Word) : List (Dest × Nat × Nat) → Nat → List Byte → State → State
  | [], _, _, s => s
  | (d, a, n) :: ps, off, bs, s =>
    let s := match d with
      | .panel p => s.blockFill s.cur p a
      | _ => s
    postParts kind rel da ps (off + n) (bs.drop n)
      (s.postStore s.cur kind rel d a (da + BitVec.ofNat 64 off) (bs.take n))

/-- A store: to an own unit at once, otherwise through the journal (R166); `rel` carries a release obligation. -/
def storeGo (insn : Instr) (kind : JKind) (rel : Bool) (fin : State → State) (bs : List Byte) (s : State) (da : Word)
    (parts : List (Dest × Nat × Nat)) : Res :=
  match pathOf s.here (firstUnit parts) with
  | .own =>
    if rel && !s.released s.cur then waitMem insn s
    else if (s.forwarded s.cur parts).any (·.isSome) then waitMem insn s
    else
      let s := if kind = .st then s else s.closeYoungest s.cur
      ownOp insn da (firstUnit parts) (.store (firstAddr parts) bs) (fun _ s => .done (fin s)) s
  | _ =>
    if s.journalRoom s.cur parts.length then .done (fin (postParts kind rel da parts 0 bs s))
    else waitMem insn s

/-- ST (R173). -/
def stBody (insn : Instr) (r b : BitVec 5) (z : BitVec 3) (i : BitVec 13) (s : State) : Res :=
  let n := sizeOf z.toNat
  let bs := toBytes n (s.gn r)
  memAccess (s.ea b i) n rightW 1 1 false (storeGo insn .st false id bs) (fun _ s => .done s) s

/-- The scope of an instruction, or its SCOPE trap. -/
def withScope (q : Word) (k : Scope → State → Res) (s : State) : Res :=
  match s.checkScope s.cur q with
  | .error c => .trap s c
  | .ok x => k x s

/-- LDA (R174): a load that acquires at its scope. -/
def ldaBody (insn : Instr) (n : Nat) (d b q : BitVec 5) (i : BitVec 8) (s : State) : Res :=
  withScope (s.g q) (fun x s =>
    let ea := s.ea b i
    let fin (bs : List Byte) (s : State) : Res :=
      .done (((s.setGn d (ofBytes bs)).acquire s.cur x).noteClamp s.cur x)
    memAccess ea n rightR 1 0 false (loadGo insn ea n false fin) fin s) s

/-- STL (R174): a store that releases at its scope. -/
def stlBody (insn : Instr) (n : Nat) (r b q : BitVec 5) (i : BitVec 8) (s : State) : Res :=
  withScope (s.g q) (fun x s =>
    memAccess (s.ea b i) n rightW 1 1 false
      (storeGo insn .stl (!x.thread) (fun s => s.noteClamp s.cur x) (toBytes n (s.gn r))) (fun _ s => .done s) s) s

/-- The parts lie on another panel. -/
def isFar (parts : List (Dest × Nat × Nat)) : Bool :=
  match firstUnit parts with
  | .panel _ => true
  | _ => false

/-- LDE and LDF (R169, R174): acquires at the implicit scope; an own pending store to the word performs first (R179). -/
def drainBody (insn : Instr) (take : Bool) (d b : BitVec 5) (i : BitVec 13) (s : State) : Res :=
  let ea := s.ea b i
  let fin (x : Scope) (bs : List Byte) (s : State) : Res :=
    .done (((s.setGn d (ofBytes bs)).acquire s.cur x).noteClamp s.cur x)
  let need := if take then rightR + rightW + rightF else rightR + rightF
  let far := match s.segCheck s.me (quadOf s.here) ea 8 need with
    | .ok (_, .panel _, _) => true
    | _ => false
  match s.checkScope s.cur (implicitScope far) with
  | .error c =>
    match s.reach s.cur ea 8 need 8 1 true with
    | .trap s c => .trap s c
    | _ => .trap s c
  | .ok x =>
    memAccess ea 8 need 8 (if take then 1 else 0) true (fun s da parts =>
      let op := HomeOp.drain take (firstAddr parts)
      if (s.forwarded s.cur parts).any (·.isSome) then waitMem insn s
      else
      let s := match firstUnit parts with
        | .panel p => s.blockFill s.cur p (firstAddr parts)
        | _ => s
      match pathOf s.here (firstUnit parts) with
      | .own => ownOp insn da (firstUnit parts) op (fin x) s
      | _ => startAccess insn ea da false [(firstUnit parts, op)] s) (fin x) s

/-- STF (R169, R174): in an own unit it waits, elsewhere it is posted; a release at the implicit scope. -/
def stfBody (insn : Instr) (r b : BitVec 5) (i : BitVec 13) (s : State) : Res :=
  memAccess (s.ea b i) 8 (rightW + rightF) 8 1 true (fun s da parts =>
    let bs := toBytes 8 (s.gn r)
    withScope (implicitScope (isFar parts)) (fun x s =>
      match pathOf s.here (firstUnit parts) with
      | .own =>
        if !s.released s.cur then waitMem insn s
        else ownOp insn da (firstUnit parts) (.fill (firstAddr parts) bs)
          (fun _ s => .done (s.noteClamp s.cur x)) (s.closeYoungest s.cur)
      | _ =>
        if s.journalRoom s.cur 1 then .done ((postParts .stf true da parts 0 bs s).noteClamp s.cur x)
        else waitMem insn s) s) (fun _ s => .done s) s

/-- A full/empty operation that never waits at its home: FEPROBE and FECLR (R174); the thread's own pending stores to the word
perform first (R179). -/
def feBody (insn : Instr) (need : Nat) (ea : Word) (op : Nat → HomeOp) (fin : List Byte → State → Res) (s : State) :
    Res :=
  memAccess ea 8 need 8 (if need &&& rightW = 0 then 0 else 1) true (fun s da parts =>
    let o := op (firstAddr parts)
    if (s.forwarded s.cur parts).any (·.isSome) then waitMem insn s
    else
    let s := match firstUnit parts with
      | .panel p => if o.touches then s.blockFill s.cur p (firstAddr parts) else s
      | _ => s
    match pathOf s.here (firstUnit parts) with
    | .own => ownOp insn da (firstUnit parts) o fin s
    | _ => startAccess insn ea da false [(firstUnit parts, o)] s) fin s

/-- An atomic (R175, R183): it waits for its release obligation, or under THREAD for the entries it overlaps. -/
def amoBody (insn : Instr) (op w : Nat) (d a b q : BitVec 5) (s : State) : Res :=
  withScope (s.g q) (fun x s =>
    let n := w / 8
    let ea := s.g a
    let fin (bs : List Byte) (s : State) : Res :=
      let old := ofBytes bs
      let v := if op = 8 then BitVec.ofNat 64 old else BitVec.ofInt 64 (signedOf w old)
      .done (((s.setG d v).acquire s.cur x).noteClamp s.cur x)
    memAccess ea n (rightR + rightW) n 1 false (fun s da parts =>
      let s := s.closeYoungest s.cur
      let o := HomeOp.atomic op w (firstAddr parts) (s.g b) (s.g d)
      if !x.thread && !s.released s.cur then waitMem insn s
      else if x.thread && (s.forwarded s.cur parts).any (·.isSome) then waitMem insn s
      else
        let s := match firstUnit parts with
          | .panel p => s.blockFill s.cur p (firstAddr parts)
          | _ => s
        match pathOf s.here (firstUnit parts) with
        | .own => ownOp insn da (firstUnit parts) o fin s
        | _ => startAccess insn ea da false [(firstUnit parts, o)] s) fin s) s

/-- Width of an atomic's W bit. -/
def amoWidth (w : BitVec 1) : Nat := if w = 0 then 32 else 64

/-- FENCE (R176, R183): `rel` waits for earlier stores, `acq` performs the acquire effect and empties the fetch buffer. -/
def fenceBody (insn : Instr) (rel acq : Bool) (a : BitVec 5) (s : State) : Res :=
  withScope (s.g a) (fun x s =>
    if rel && !x.thread && !s.released s.cur then waitMem insn s
    else
      let s := s.noteClamp s.cur x
      if acq && !x.thread then .done ((s.acquire s.cur x).modMe fun th => { th with fbuf := [], ahead := none })
      else .done s) s

/-- LD (R173). Loads a scalar from memory. -/
def execLd (d : BitVec 5) (b : BitVec 5) (z : BitVec 3) (i : BitVec 13) (s : State) : Out :=
  run { word := 22#6 ++ d ++ b ++ z ++ i, srcs := [b.toNat], dsts := [d.toNat] }
    (ldBody (.ld d b z i) d b z i) s

/-- ST (R173). Stores a scalar to memory, directly or through the journal. -/
def execSt (s : BitVec 5) (b : BitVec 5) (z : BitVec 3) (i : BitVec 13) (st : State) : Out :=
  run { word := 23#6 ++ s ++ b ++ z ++ i, srcs := [s.toNat, b.toNat] }
    (stBody (.st s b z i) s b z i) st

/-- LDA_WORD (R174). 4-byte acquire load at a scope. -/
def execLdaWord (d : BitVec 5) (b : BitVec 5) (q : BitVec 5) (i : BitVec 8) (s : State) : Out :=
  run { word := 24#6 ++ d ++ b ++ 0#3 ++ q ++ i, srcs := [b.toNat, q.toNat], dsts := [d.toNat] }
    (ldaBody (.ldaWord d b q i) 4 d b q i) s

/-- LDA (R174). 8-byte acquire load at a scope. -/
def execLda (d : BitVec 5) (b : BitVec 5) (q : BitVec 5) (i : BitVec 8) (s : State) : Out :=
  run { word := 24#6 ++ d ++ b ++ 1#3 ++ q ++ i, srcs := [b.toNat, q.toNat], dsts := [d.toNat] }
    (ldaBody (.lda d b q i) 8 d b q i) s

/-- LDE (R174). Waits for full, loads and empties the word. -/
def execLde (d : BitVec 5) (b : BitVec 5) (i : BitVec 13) (s : State) : Out :=
  run { word := 24#6 ++ d ++ b ++ 2#3 ++ i, srcs := [b.toNat], dsts := [d.toNat] }
    (drainBody (.lde d b i) true d b i) s

/-- LDF (R174). Waits for full and loads, leaving the word full. -/
def execLdf (d : BitVec 5) (b : BitVec 5) (i : BitVec 13) (s : State) : Out :=
  run { word := 24#6 ++ d ++ b ++ 3#3 ++ i, srcs := [b.toNat], dsts := [d.toNat] }
    (drainBody (.ldf d b i) false d b i) s

/-- FEPROBE (R174). Reads a word's full/empty bit and waiter count. -/
def execFeprobe (d : BitVec 5) (b : BitVec 5) (i : BitVec 13) (s : State) : Out :=
  run { word := 24#6 ++ d ++ b ++ 4#3 ++ i, srcs := [b.toNat], dsts := [d.toNat] }
    (fun s => feBody (.feprobe d b i) (rightR + rightF) (s.ea b i) .probe
    (fun bs s => .done (s.setGn d (ofBytes bs))) s) s

/-- STL_WORD (R174). 4-byte release store at a scope. -/
def execStlWord (s : BitVec 5) (b : BitVec 5) (q : BitVec 5) (i : BitVec 8) (st : State) : Out :=
  run { word := 25#6 ++ s ++ b ++ 0#3 ++ q ++ i, srcs := [s.toNat, b.toNat, q.toNat] }
    (stlBody (.stlWord s b q i) 4 s b q i) st

/-- STL (R174). 8-byte release store at a scope. -/
def execStl (s : BitVec 5) (b : BitVec 5) (q : BitVec 5) (i : BitVec 8) (st : State) : Out :=
  run { word := 25#6 ++ s ++ b ++ 1#3 ++ q ++ i, srcs := [s.toNat, b.toNat, q.toNat] }
    (stlBody (.stl s b q i) 8 s b q i) st

/-- STF (R174). Waits for empty, stores and fills the word. -/
def execStf (s : BitVec 5) (b : BitVec 5) (i : BitVec 13) (st : State) : Out :=
  run { word := 25#6 ++ s ++ b ++ 2#3 ++ i, srcs := [s.toNat, b.toNat] }
    (stfBody (.stf s b i) s b i) st

/-- FECLR (R174). Sets a word empty and grants fill waiters. -/
def execFeclr (b : BitVec 5) (i : BitVec 13) (s : State) : Out :=
  run { word := 25#6 ++ 0#5 ++ b ++ 3#3 ++ i, srcs := [b.toNat] }
    (fun s => feBody (.feclr b i) (rightW + rightF) (s.ea b i) .clear (fun _ s => .done s) s) s

/-- AMOADD (R175). Atomic add at the word's home. -/
def execAmoadd (d : BitVec 5) (a : BitVec 5) (b : BitVec 5) (q : BitVec 5) (w : BitVec 1) (s : State) : Out :=
  run { word := 26#6 ++ d ++ a ++ b ++ q ++ w ++ 0#5, srcs := [a.toNat, b.toNat, q.toNat], dsts := [d.toNat] }
    (amoBody (.amoadd d a b q w) 0 (amoWidth w) d a b q) s

/-- AMOAND (R175). Atomic AND. -/
def execAmoand (d : BitVec 5) (a : BitVec 5) (b : BitVec 5) (q : BitVec 5) (w : BitVec 1) (s : State) : Out :=
  run { word := 26#6 ++ d ++ a ++ b ++ q ++ w ++ 1#5, srcs := [a.toNat, b.toNat, q.toNat], dsts := [d.toNat] }
    (amoBody (.amoand d a b q w) 1 (amoWidth w) d a b q) s

/-- AMOOR (R175). Atomic OR. -/
def execAmoor (d : BitVec 5) (a : BitVec 5) (b : BitVec 5) (q : BitVec 5) (w : BitVec 1) (s : State) : Out :=
  run { word := 26#6 ++ d ++ a ++ b ++ q ++ w ++ 2#5, srcs := [a.toNat, b.toNat, q.toNat], dsts := [d.toNat] }
    (amoBody (.amoor d a b q w) 2 (amoWidth w) d a b q) s

/-- AMOXOR (R175). Atomic XOR. -/
def execAmoxor (d : BitVec 5) (a : BitVec 5) (b : BitVec 5) (q : BitVec 5) (w : BitVec 1) (s : State) : Out :=
  run { word := 26#6 ++ d ++ a ++ b ++ q ++ w ++ 3#5, srcs := [a.toNat, b.toNat, q.toNat], dsts := [d.toNat] }
    (amoBody (.amoxor d a b q w) 3 (amoWidth w) d a b q) s

/-- AMOMIN (R175). Atomic signed minimum. -/
def execAmomin (d : BitVec 5) (a : BitVec 5) (b : BitVec 5) (q : BitVec 5) (w : BitVec 1) (s : State) : Out :=
  run { word := 26#6 ++ d ++ a ++ b ++ q ++ w ++ 4#5, srcs := [a.toNat, b.toNat, q.toNat], dsts := [d.toNat] }
    (amoBody (.amomin d a b q w) 4 (amoWidth w) d a b q) s

/-- AMOMAX (R175). Atomic signed maximum. -/
def execAmomax (d : BitVec 5) (a : BitVec 5) (b : BitVec 5) (q : BitVec 5) (w : BitVec 1) (s : State) : Out :=
  run { word := 26#6 ++ d ++ a ++ b ++ q ++ w ++ 5#5, srcs := [a.toNat, b.toNat, q.toNat], dsts := [d.toNat] }
    (amoBody (.amomax d a b q w) 5 (amoWidth w) d a b q) s

/-- AMOSWP (R175). Atomic swap. -/
def execAmoswp (d : BitVec 5) (a : BitVec 5) (b : BitVec 5) (q : BitVec 5) (w : BitVec 1) (s : State) : Out :=
  run { word := 26#6 ++ d ++ a ++ b ++ q ++ w ++ 6#5, srcs := [a.toNat, b.toNat, q.toNat], dsts := [d.toNat] }
    (amoBody (.amoswp d a b q w) 6 (amoWidth w) d a b q) s

/-- CAS (R175). Atomic compare and swap. -/
def execCas (d : BitVec 5) (a : BitVec 5) (b : BitVec 5) (q : BitVec 5) (w : BitVec 1) (s : State) : Out :=
  run { word := 26#6 ++ d ++ a ++ b ++ q ++ w ++ 7#5, srcs := [a.toNat, b.toNat, q.toNat, d.toNat], dsts := [d.toNat] }
    (amoBody (.cas d a b q w) 7 (amoWidth w) d a b q) s

/-- FADDF (R175). Atomic FP32 add under RNE. -/
def execFaddf (d : BitVec 5) (a : BitVec 5) (b : BitVec 5) (q : BitVec 5) (s : State) : Out :=
  run { word := 26#6 ++ d ++ a ++ b ++ q ++ 0#1 ++ 8#5, srcs := [a.toNat, b.toNat, q.toNat], dsts := [d.toNat] }
    (amoBody (.faddf d a b q) 8 32 d a b q) s

/-- FENCE_ACQ (R176). Acquire fence at a scope. -/
def execFenceAcq (a : BitVec 5) (s : State) : Out :=
  run { word := 27#6 ++ 0#5 ++ a ++ 1#10 ++ 0#6, srcs := [a.toNat] }
    (fenceBody (.fenceAcq a) false true a) s

/-- FENCE_REL (R176). Release fence at a scope. -/
def execFenceRel (a : BitVec 5) (s : State) : Out :=
  run { word := 27#6 ++ 0#5 ++ a ++ 2#10 ++ 0#6, srcs := [a.toNat] }
    (fenceBody (.fenceRel a) true false a) s

/-- FENCE_FULL (R176). Full fence at a scope. -/
def execFenceFull (a : BitVec 5) (s : State) : Out :=
  run { word := 27#6 ++ 0#5 ++ a ++ 3#10 ++ 0#6, srcs := [a.toNat] }
    (fenceBody (.fenceFull a) true true a) s

/-- A segment register read whole (R153, R176). -/
def Seg.word (g : Seg) (f : Nat) : Word :=
  match f with
  | 0 => g.base
  | 1 => BitVec.ofNat 64 g.limit
  | _ => g.rights.zeroExtend 64

/-- A segment register with its RW fields written (R153). -/
def Seg.write (g : Seg) (f : Nat) (w : Word) : Seg :=
  match f with
  | 0 => { g with base := w &&& ~~~63 }
  | 1 => { g with limit := field w.toNat 60 0 }
  | _ => { g with rights := w.setWidth 6 }

/-- SEGR (R176). Reads a segment register. -/
def execSegr (d : BitVec 5) (f : BitVec 2) (n : BitVec 3) (s : State) : Out :=
  runG { word := 27#6 ++ d ++ 0#10 ++ f ++ n ++ 1#6, dsts := [d.toNat] } d
    (fun s => (s.me.seg n.toNat).word f.toNat) s

/-- SEGW (R176). Writes a segment register at level S or above. -/
def execSegw (a : BitVec 5) (f : BitVec 2) (n : BitVec 3) (s : State) : Out :=
  run { word := 27#6 ++ 0#5 ++ a ++ 0#5 ++ f ++ n ++ 2#6, level := 1, srcs := [a.toNat] }
    (fun s => .done (s.modMe fun th =>
    { th with segs := vmod {} th.segs n.toNat (fun g => g.write f.toNat (s.g a)), fbuf := []
              ahead := none })) s

end Sys2Proof.Machine
end

