-- ==== Sys2Proof/Machine/System.lean ====
section
/-! DEFINITION. The system instructions: CSR access, TRAP, XRET, PARK, TEXIT, TFORK, and the words that shape other words
(R41, R64, R67, R72, R95 to R98, R102 to R108, R137 to R148), with the CSRs of every engine. -/

namespace Sys2Proof.Machine

/-! ## The CSRs (R63, R102 to R104, R182, R217, R232, R304, R340, R417) -/

/-- Read level and write level of a CSR number; no write level: it cannot be written. -/
def csrLevels (n : Nat) : Option (Nat × Option Nat) :=
  match n with
  | 0x000 => some (0, some 0)
  | 0x001 => some (0, some 1)
  | 0x002 => some (0, some 1)
  | 0x003 => some (0, some 0)
  | 0x004 => some (0, some 0)
  | 0x005 => some (0, some 0)
  | 0x006 => some (0, none)
  | 0x007 => some (0, none)
  | 0x008 => some (0, some 0)
  | 0x009 => some (0, some 0)
  | 0x00A => some (0, some 1)
  | 0x00B => some (0, none)
  | 0x00C => some (0, none)
  | 0x010 => some (0, none)
  | 0x011 => some (0, none)
  | 0x012 => some (0, none)
  | 0x013 => some (0, none)
  | 0x014 => some (0, none)
  | 0x015 => some (1, none)
  | 0x016 => some (0, some 1)
  | 0x017 => some (0, some 1)
  | 0x018 => some (0, none)
  | 0x019 => some (1, some 1)
  | 0x01A => some (1, some 1)
  | 0x100 => some (1, some 1)
  | 0x101 => some (1, some 1)
  | 0x102 => some (1, some 1)
  | 0x103 => some (1, some 1)
  | 0x104 => some (1, some 1)
  | 0x105 => some (1, none)
  | 0x106 => some (1, some 1)
  | 0x107 => some (2, some 2)
  | 0x108 => some (3, some 3)
  | 0x200 => some (0, none)
  | 0x210 => some (0, some 0)
  | 0x23C => some (0, some 0)
  | 0x23D => some (0, none)
  | 0x240 => some (0, some 1)
  | 0x241 => some (0, some 0)
  | 0x250 => some (0, none)
  | 0x259 => some (2, none)
  | 0x260 => some (0, none)
  | _ =>
    if 0x220 ≤ n && n ≤ 0x22F then some (0, some 0)
    else if 0x230 ≤ n && n ≤ 0x23B then some (0, none)
    else if 0x251 ≤ n && n ≤ 0x258 then some (0, none)
    else none

/-- The effective operating-point request of a core (R417). -/
def effReq (r : BitVec 4) : Nat := if r = 0 || 7 ≤ r.toNat then 6 else r.toNat

/-- Highest effective request of a quad's four cores. -/
def State.quadReq (s : State) (q : Nat) : Nat :=
  ((List.range 4).map fun i => effReq (s.core (coreOfQuad q i)).perfreq).foldl max 1

/-- MPSTAT of a quad. -/
def State.mpstat (s : State) (q : Nat) : Nat := (s.quad q).cap <<< 8 + s.quadReq q <<< 4 + (s.quad q).cur

/-- CNSTAT: SREQ, spare dies with no core in use, free spare cores, remap exceptions, ABSENT cores (R340). A place in
use on a spare die is numbered site * 64 + index. -/
def State.cnstat (s : State) : Nat :=
  let dies := (s.spareSites.filter fun d => !s.spareUsed.any fun x => x / 64 == d).length
  let cores := s.spareSites.length * 64 - s.spareUsed.length
  let remaps := (s.cores.filter fun p => p.2.place.exception).length
  let absent := (s.cores.filter fun p => p.2.place.service == .absent).length
  bit s.service.sreq <<< 63 + dies <<< 48 + cores <<< 32 + remaps <<< 16 + absent

/-- SPILLQ as a word (R95). -/
def Core.spillq (k : Core) : Nat := k.spillCount <<< 52 + k.spillHead <<< 40 + k.spillSize <<< 32 + k.spillBase.toNat <<< 7

/-- HTAB as a word (R97). -/
def Core.htab (k : Core) : Nat := k.htabBase.toNat <<< 9 + bit k.htabEn

/-- UIPEND as a word (R111). -/
def Thread.uipend (th : Thread) : Nat := pendingClasses th.fifo + th.uienable.toNat <<< 16 + bit th.uiovf <<< 32

/-- JSTAT as a word (R304). -/
def State.jstat (s : State) (t : Nat) : Nat :=
  let th := s.thr t
  bit th.rovf <<< 32 + th.nseq.toNat <<< 16 + th.refusals.length <<< 8 + (s.entriesOf t).length

/-- SIGSAVE as a word (R114). -/
def Thread.sigsave (th : Thread) : Nat := bit th.sigV <<< 63 + (th.sigRem % 1024) <<< 32 + th.sigCrc.toNat

/-- GROUP as a word (R104). -/
def Thread.group (th : Thread) : Nat :=
  (th.home % 65536) <<< 48 + (th.origin % 65536) <<< 32 + (th.launch % 65536) <<< 16 + th.slot % 16

/-- A ring register: RINGB, RINGL, RINGP (R233). -/
def Ring.word (r : Ring) (which : Nat) : Nat :=
  match which with
  | 0 => r.fwd <<< 6 + r.first
  | 1 => r.len
  | _ => r.nl <<< 22 + r.nh <<< 17 + r.nf <<< 12 + r.fi <<< 8 + r.ci <<< 4 + r.pi

/-- CSR(n) for a thread. -/
def State.csrRead (s : State) (t n : Nat) : Nat :=
  let th := s.thr t
  let c := coreOf t
  let k := s.core c
  match n with
  | 0x000 => th.tsr.word.toNat
  | 0x001 => th.pfxsave.toNat
  | 0x002 => th.repstate.toNat
  | 0x003 => th.rndlfsr.toNat
  | 0x004 => th.utvec.toNat
  | 0x005 => th.uipend
  | 0x006 => th.uicause.toNat
  | 0x007 => th.uixid.toNat
  | 0x008 => th.uiepc.toNat
  | 0x009 => th.uipfx.toNat
  | 0x00A => th.rtimeout.toNat
  | 0x00B => s.cycleOf c
  | 0x00C => th.group
  | 0x010 => c
  | 0x011 => bit (s.w64 c) <<< 7 + bit (s.xw c)
  | 0x012 => s.panelCap.toNat
  | 0x013 => s.netCap.toNat
  | 0x014 => th.lease <<< 16 + th.fn
  | 0x015 => (s.fn th.fn).asid
  | 0x016 => (s.fn th.fn).evthread.toNat
  | 0x017 => k.perfreq.toNat
  | 0x018 => k.gated.toNat
  | 0x019 => k.htab
  | 0x01A => k.spillq
  | 0x100 => th.tepc.toNat
  | 0x101 => th.tcause.toNat
  | 0x102 => th.tval.toNat
  | 0x103 => th.tstat.toNat
  | 0x104 => th.tpfx.toNat
  | 0x105 => th.sigsave
  | 0x106 => th.stvec.toNat
  | 0x107 => th.ltvec.toNat
  | 0x108 => th.ptvec.toNat
  | 0x200 => (s.fn th.fn).scopemax % 32
  | 0x210 => if quadIdx c = 3 then bit k.oqLost <<< 16 + k.oq.length else 0
  | 0x23C => k.accg.toNat
  | 0x23D => k.mrect.toNat
  | 0x240 => k.stalereply.toNat
  | 0x241 => s.jstat t
  | 0x250 => bit k.ckEn <<< 63 + bit k.ckValid <<< 62 + bit k.capturing <<< 61 + k.ckEpoch.toNat
  | 0x259 => s.cnstat
  | 0x260 => s.mpstat (quadOf c)
  | _ =>
    if 0x220 ≤ n && n ≤ 0x22F then (vget {} k.tiles (n - 0x220)).geom.toNat
    else if 0x230 ≤ n && n ≤ 0x23B then (vget {} k.rings ((n - 0x230) % 4)).word ((n - 0x230) / 4)
    else if 0x251 ≤ n && n ≤ 0x258 then
      (vget (0, 0) k.ckrg (n - 0x251)).1 <<< 18 + (vget (0, 0) k.ckrg (n - 0x251)).2
    else 0

/-- A write of TSR at a level: only the fields writable there, RM only with a mode of R37 (R103, R139). -/
def Tsr.write (t w : Tsr) (lvl : Nat) : Tsr :=
  { t with
    res := if 3 ≤ lvl then w.res else t.res
    sg := if 1 ≤ lvl then w.sg else t.sg
    sc := w.sc
    rc := w.rc
    uie := w.uie
    rm := if w.rm.toNat ≤ 4 then w.rm else t.rm
    flags := w.flags }

/-- A write of RNDLFSR: 0 stores 1 (R38). -/
def State.writeLfsr (s : State) (t : Nat) (w : Word) : State :=
  s.modThr t fun th => { th with rndlfsr := if w.setWidth 32 = 0 then 1 else w.setWidth 32 }

/-- A write of UIPEND: the enables, and OVF cleared by a 0 (R111, R139). -/
def State.writeUipend (s : State) (t : Nat) (w : Word) : State :=
  (s.modThr t fun th => { th with uienable := w.extractLsb' 16 16, uiovf := th.uiovf && w.getLsbD 32 }).offerInterrupt t

/-- A write of TEPC clears SIGSAVE.V (R107). -/
def State.writeTepc (s : State) (t : Nat) (w : Word) : State :=
  s.modThr t fun th => { th with tepc := w, sigV := false }

/-- A write of SPILLQ, ignored whole when SIZE would be 12 to 15, or while COUNT is non-zero and SIZE or BASE would
change (R95). -/
def State.writeSpillq (s : State) (t : Nat) (w : Word) : State :=
  let size := field w.toNat 35 32
  let base := w.extractLsb' 7 11
  let k := s.core (coreOf t)
  if 12 ≤ size || (k.spillCount != 0 && (size != k.spillSize || base != k.spillBase)) then s
  else s.modCore (coreOf t) fun k => { k with spillSize := size, spillBase := base }

/-- Delivers events to a function in order. -/
def State.deliverAll (s : State) (f : Nat) : List Event → State
  | [] => s
  | e :: es => (s.fnEvent f e).deliverAll f es

/-- A write of EVTHREAD delivers the function's queue in order (R112). -/
def State.writeEvthread (s : State) (f : Nat) (w : Word) : State :=
  let w' := BitVec.ofNat 64 (bit (w.getLsbD 63) <<< 63 + field w.toNat 19 0)
  let q := (s.fn f).evqueue
  (s.modFn f fun k => { k with evthread := w', evqueue := [] }).deliverAll f q

/-- WriteFields(n, new) at a level (R138, R139). -/
def State.csrWrite (s : State) (t n : Nat) (w : Word) (lvl : Nat) : State :=
  let c := coreOf t
  let th (f : Thread → Thread) : State := s.modThr t f
  match n with
  | 0x000 => th fun x => { x with tsr := x.tsr.write (Tsr.ofWord w) lvl }
  | 0x001 => th fun x => { x with pfxsave := w.setWidth 26 }
  | 0x002 => th fun x => { x with repstate := w.setWidth 29 }
  | 0x003 => s.writeLfsr t w
  | 0x004 => th fun x => { x with utvec := w }
  | 0x005 => s.writeUipend t w
  | 0x008 => th fun x => { x with uiepc := w }
  | 0x009 => th fun x => { x with uipfx := w.setWidth 26 }
  | 0x00A => th fun x => { x with rtimeout := w }
  | 0x016 => s.writeEvthread (s.thr t).fn w
  | 0x017 => (s.modCore c fun k => { k with perfreq := w.setWidth 4 }).dueOnce (.operatingPointChange (quadOf c))
  | 0x019 => s.modCore c fun k => { k with htabEn := w.getLsbD 0, htabBase := w.extractLsb' 9 9 }
  | 0x01A => s.writeSpillq t w
  | 0x100 => s.writeTepc t w
  | 0x101 => th fun x => { x with tcause := w.setWidth 18 }
  | 0x102 => th fun x => { x with tval := w }
  | 0x103 => th fun x => { x with tstat := w }
  | 0x104 => th fun x => { x with tpfx := w.setWidth 26 }
  | 0x106 => th fun x => { x with stvec := w }
  | 0x107 => th fun x => { x with ltvec := w }
  | 0x108 => th fun x => { x with ptvec := w }
  | 0x210 => if quadIdx c = 3 then s.modCore c fun k => { k with oqLost := k.oqLost && w.getLsbD 16 } else s
  | 0x23C => s.modCore c fun k => { k with accg := w &&& 0xFFFF000F0003F000 }
  | 0x240 => s.modCore c fun k => { k with stalereply := w }
  | 0x241 => th fun x => { x with rovf := x.rovf && w.getLsbD 32 }
  | _ =>
    if 0x220 ≤ n && n ≤ 0x22F then
      s.modCore c fun k => { k with tiles := vmod {} k.tiles (n - 0x220) fun x =>
        { x with geom := (w &&& 0xFFFFFFFFFFFFFC0F) ||| (x.geom &&& 0x200) } }
    else s

/-- The checks a CSR form makes before it executes, in the order of R138. -/
def csrEarly (word : Half) (n : Nat) (w : Bool) (s : State) : Option Cause :=
  let bad (code detail : Nat) : Option Cause := some { code := code, detail := detail, tval := word.zeroExtend 64 }
  match csrLevels n with
  | none => bad cIllegal 0
  | some (rl, wl) =>
    if s.level < rl then bad cPrivilege 0
    else if w && wl.isNone then bad cIllegal 1
    else if w && s.level < wl.getD 0 then bad cPrivilege 0
    else none

/-- Every earlier vector, matrix and replayed operation of a thread has completed (R41, R110). -/
def State.engineIdle (s : State) (t : Nat) : Bool :=
  let k := s.core (coreOf t)
  !(s.thr t).replaying && !(k.vq ++ k.vwait ++ k.mq ++ k.mwait ++ k.oqWait).any (fun o => o.thread == t) &&
    !(match k.mop with
      | some m => m.op.thread == t && !m.dead
      | none => false)

/-- What a CSR form does once it may (R138): `op` 0 reads, 1 writes, 2 sets bits, 3 clears bits. -/
def csrApply (op : Nat) (d a : BitVec 5) (n : Nat) (s : State) : State :=
  let old := BitVec.ofNat 64 (s.csrRead s.cur n)
  let new := if op = 1 then s.g a else if op = 2 then old ||| s.g a else old &&& ~~~(s.g a)
  let s1 := if op = 1 || (op != 0 && a != 0) then s.csrWrite s.cur n new s.level else s
  s1.setG d old

/-- A CSR form: one that names TSR parks until the thread's engine work is complete (R41, R138). -/
def csrBody (word : Half) (op : Nat) (d a : BitVec 5) (n : Nat) (s : State) : Res :=
  if n = 0 && !s.engineIdle s.cur then
    .keep ((s.park s.cur .engine { word := word }).due (.tsrAccessResume s.cur))
  else .done (csrApply op d a n s)

/-- CSRR (R138). Reads a CSR. -/
def execCsrr (d : BitVec 5) (c : BitVec 10) (s : State) : Out :=
  run { word := 28#6 ++ d ++ 0#5 ++ c ++ 0#6, early := csrEarly (28#6 ++ d ++ 0#5 ++ c ++ 0#6) c.toNat false, dsts :=
        [d.toNat] }
    (csrBody (28#6 ++ d ++ 0#5 ++ c ++ 0#6) 0 d 0 c.toNat) s

/-- CSRW (R138). Writes a CSR and returns its old value. -/
def execCsrw (d : BitVec 5) (a : BitVec 5) (c : BitVec 10) (s : State) : Out :=
  run { word := 28#6 ++ d ++ a ++ c ++ 1#6, early := csrEarly (28#6 ++ d ++ a ++ c ++ 1#6) c.toNat true, srcs :=
        [a.toNat], dsts := [d.toNat] }
    (csrBody (28#6 ++ d ++ a ++ c ++ 1#6) 1 d a c.toNat) s

/-- CSRS (R138). Sets bits of a CSR and returns its old value. -/
def execCsrs (d : BitVec 5) (a : BitVec 5) (c : BitVec 10) (s : State) : Out :=
  run { word := 28#6 ++ d ++ a ++ c ++ 2#6, early := csrEarly (28#6 ++ d ++ a ++ c ++ 2#6) c.toNat (a != 0), srcs :=
        [a.toNat], dsts := [d.toNat] }
    (csrBody (28#6 ++ d ++ a ++ c ++ 2#6) 2 d a c.toNat) s

/-- CSRC (R138). Clears bits of a CSR and returns its old value. -/
def execCsrc (d : BitVec 5) (a : BitVec 5) (c : BitVec 10) (s : State) : Out :=
  run { word := 28#6 ++ d ++ a ++ c ++ 3#6, early := csrEarly (28#6 ++ d ++ a ++ c ++ 3#6) c.toNat (a != 0), srcs :=
        [a.toNat], dsts := [d.toNat] }
    (csrBody (28#6 ++ d ++ a ++ c ++ 3#6) 3 d a c.toNat) s

/-! ## TRAP, XRET, PARK, TEXIT, TFORK -/

/-- TRAP counts as executed: the saved pc is that of the next word (R141). -/
def trapBody (a n : BitVec 5) (s : State) : Res :=
  .keep ((s.modMe fun th => { th with blk := th.blkNext }).takeTrapAt s.cur
    { code := cSoftware, detail := n.toNat, tval := s.g a } (s.me.pc + 4) false)

/-- TRAP (R141). Raises SOFTWARE, counting as executed. -/
def execTrap (a : BitVec 5) (n : BitVec 5) (s : State) : Out :=
  run { word := 28#6 ++ 0#5 ++ a ++ 0#5 ++ n ++ 8#6, srcs := [a.toNat] }
    (trapBody a n) s

/-- A thread's contexts act again unless an outer handler still runs (R274). -/
def State.resumeStreams (s : State) (t : Nat) : State :=
  let h := (s.thr t).tsr.uia || (s.thr t).tsr.th
  s.modOwned t fun x => { x with susp := h }

/-- XRET (R108, R113, R142): from a trap, from a user interrupt, otherwise illegal. -/
def xretBody (word : Half) (s : State) : Res :=
  let th := s.me
  if th.tsr.th then
    if th.breaksBlock then .keep (s.kill s.cur 0x20)
    else .keep ((s.modMe Thread.leaveTrap).resumeStreams s.cur)
  else if th.tsr.pl = 0 && th.tsr.uia then
    if th.breaksBlock then .keep (s.kill s.cur 0x20)
    else .keep ((s.modMe Thread.leaveUser).resumeStreams s.cur)
  else illegal word 0 s

/-- XRET (R108). Returns from a trap or user-interrupt handler. -/
def execXret (s : State) : Out :=
  run { word := 28#6 ++ 0#20 ++ 9#6 }
    (xretBody (28#6 ++ 0#20 ++ 9#6)) s

/-- PARK (R143): no park for 0, no deadline for all ones. It completes, with its pop, when the count has come to its end. -/
def parkBody (a : BitVec 5) (s : State) : Res :=
  let n := s.gn a
  if n = 0 || s.me.op.phase = 1 then .done s
  else if n = 2 ^ 64 - 1 then .keep (s.park s.cur .sleep {})
  else .keep ((s.park s.cur .sleep { deadline := some (s.cycle + n) }).due (.sleepDeadline s.cur))

/-- PARK (R143). Parks the thread with reason SLEEP for a count of cycles. -/
def execPark (a : BitVec 5) (s : State) : Out :=
  run { word := 28#6 ++ 0#5 ++ a ++ 0#10 ++ 10#6, srcs := [a.toNat] }
    (parkBody a) s

/-- TEXIT (R144): in a paired context slots i and i + 8 end together. -/
def texitBody (s : State) : Res :=
  .keep ((s.park s.cur .engine { aux := 0x54 }).due (.texitDrainDone s.cur))

/-- TEXIT (R144). Parks the thread until its work drains, then frees its slot. -/
def execTexit (s : State) : Out :=
  run { word := 28#6 ++ 0#20 ++ 11#6 }
    (texitBody) s

/-- A slot may be given to a new thread: FREE, ungated, of a core whose context runs (R94, R99). -/
def State.slotFree (s : State) (t : Nat) : Bool := (s.thr t).st == .free && !s.held t

/-- The slot a new thread would take on a core: the lowest free one; of a pair both i and i + 8. -/
def State.freeSlot (s : State) (c : Nat) (pair : Bool) : Option Nat :=
  (List.range (if pair then 8 else 16)).find? fun i =>
    s.slotFree (c * 16 + i) && (!pair || s.slotFree (c * 16 + i + 8))

/-- Gives a slot to a new thread; the slot keeps its generation (R307). -/
def State.birth (s : State) (t : Nat) (th : Thread) : State :=
  let old := s.thr t
  s.setThr t { th with st := .run, slot := slotOf t, gen := old.gen, unanswered := old.unanswered }

/-- The thread TFORK creates (R96, R145). -/
def Thread.child (p : Thread) (c : Nat) (pc arg : Word) : Thread :=
  let base : Thread :=
    { pc := pc
      tsr := { pl := p.tsr.pl, rm := p.tsr.rm, sg := p.tsr.sg, pair := p.tsr.pair }
      utvec := p.utvec, rtimeout := p.rtimeout, stvec := p.stvec, ltvec := p.ltvec, ptvec := p.ptvec
      segs := p.segs, home := p.home, origin := p.origin, launch := p.launch, fn := p.fn, lease := p.lease }
  (base.put 1 (BitVec.ofNat 64 c)).put 8 arg

/-- TFORK (R98, R145): only at issue, and only when nothing that R94 fills first waits. -/
def tforkBody (d a b : BitVec 5) (s : State) : Res :=
  let c := s.here
  let k := s.core c
  if (s.g a).extractLsb' 0 2 != 0 then raise cMisalign (s.g a) 0 s
  else
    let slot := if k.inbound != [] || k.spillCount != 0 then none else s.freeSlot c s.me.tsr.pair
    match slot with
    | none => .done (s.setG d (-1))
    | some i =>
      let ch := s.me.child c (s.g a) (s.g b)
      let s1 := s.birth (c * 16 + i) ch
      let s1 := if s.me.tsr.pair then s1.birth (c * 16 + i + 8) ch else s1
      .done (s1.setGn d i)

/-- TFORK (R145). Creates a child thread in a free slot of the core if one is usable. -/
def execTfork (d : BitVec 5) (a : BitVec 5) (b : BitVec 5) (s : State) : Out :=
  run { word := 28#6 ++ d ++ a ++ b ++ 0#5 ++ 12#6, srcs := [a.toNat, b.toNat], dsts := [d.toNat] }
    (tforkBody d a b) s

/-! ## BSIG, PFX, REP -/

/-- BSIG (R146). Heads a signed block; no effect beyond the fetch check. -/
def execBsig (l : BitVec 10) (c : BitVec 16) (s : State) : Out :=
  run { word := 29#6 ++ l ++ c }
    (fun s => .done s) s

/-- PFX: PP is set and the payload saved (R65). -/
def pfxBody (p : BitVec 26) (s : State) : Res :=
  .done (s.modMe fun th => { th with pfxsave := p, tsr := { th.tsr with pp := true } })

/-- PFX (R147). Sets a K=0 prefix for the next instruction. -/
def execPfx (a : BitVec 4) (b : BitVec 4) (d : BitVec 4) (r : BitVec 3) (s : BitVec 1) (e : BitVec 2) (st : State) :
        Out :=
  run { word := 30#6 ++ 0#1 ++ a ++ b ++ d ++ r ++ s ++ e ++ 0#7 }
    (pfxBody (0#1 ++ a ++ b ++ d ++ r ++ s ++ e ++ 0#7)) st

/-- PFX_TAG (R147). Sets a K=1 prefix with a tensor tag for the next instruction. -/
def execPfxTag (t : BitVec 12) (r : BitVec 3) (s : BitVec 1) (f : BitVec 4) (d : BitVec 4) (st : State) : Out :=
  run { word := 30#6 ++ 1#1 ++ t ++ r ++ s ++ f ++ d ++ 0#1 }
    (pfxBody (1#1 ++ t ++ r ++ s ++ f ++ d ++ 0#1)) st

/-- REP: parks until the last replay of an earlier REP has issued (R70); otherwise the next words are captured (R68). -/
def repBody (n : BitVec 4) (k : BitVec 8) (st : BitVec 4) (s : State) : Res :=
  if s.me.unissued then .keep (s.park s.cur .engine { again := true })
  else .done (s.modMe fun th => { th with rep := { want := n.toNat + 1, k := k.toNat + 1, s := st.toNat } })

/-- REP (R148). Captures the next n instructions for k replays. -/
def execRep (n : BitVec 4) (k : BitVec 8) (s : BitVec 4) (st : State) : Out :=
  run { word := 31#6 ++ n ++ k ++ s ++ 0#10 }
    (repBody n k s) st

end Sys2Proof.Machine
end

