-- ==== Sys2Proof/Machine/Tiles.lean ====
section
/-! DEFINITION. Tiles and the accumulator's arithmetic: descriptors, rows in their formats, CB8 blocks, sparse groups, chunk
sums and their rounding (R30 to R35, R49 to R53, R229 to R231, R254). -/

namespace Sys2Proof.Machine

/-! ## Descriptors (R230, R231) -/

/-- The fields of a TGEOM register. -/
structure Geom where
  fmt : Nat
  sp : Nat
  kvm1 : Nat
  nrm1 : Nat
  soff : Nat
  cstr : Nat
  stride : Nat

/-- Bit POIS of a tile's TGEOM. -/
def poisBit : Word := 0x200

/-- The descriptor that a TGEOM value holds. -/
def geomOf (w : Word) : Geom :=
  let g := w.toNat
  { fmt := field g 3 0, sp := field g 12 10, kvm1 := field g 18 13, nrm1 := field g 23 19, soff := field g 33 24,
    cstr := field g 43 34, stride := field g 63 44 }

/-- The descriptor of a tile. -/
def Tile.desc (t : Tile) : Geom := geomOf t.geom

/-- The tile is poisoned. -/
def Tile.pois (t : Tile) : Bool := t.geom.getLsbD 9

/-- Sets or clears the poison mark. -/
def Tile.setPois (t : Tile) (b : Bool) : Tile :=
  { t with geom := if b then t.geom ||| poisBit else t.geom &&& ~~~poisBit }

/-- Stored values of a row: 64 dense, N sparse. -/
def Geom.n (g : Geom) : Nat := if g.sp = 0 then 64 else 4 <<< g.sp

/-- Bytes of a stored row. -/
def Geom.rowBytes (g : Geom) : Nat := g.n * fmtWidth g.fmt / 8

/-- The tile is the even one of a pair. -/
def Geom.pair (g : Geom) : Bool := g.rowBytes == 128 && g.fmt != 14

/-- Tiles per chunk (R231). -/
def Geom.slots (g : Geom) : Nat := if g.pair then 2 else 1

/-- Rows carry scales. -/
def Geom.scaled (g : Geom) : Bool := g.fmt == 10 || g.fmt == 11

/-- The descriptor passes R231. -/
def Geom.ok (g : Geom) : Bool :=
  !(([2, 3, 4, 14, 15] : List Nat).contains g.fmt) && g.sp ≤ 4 && !(g.sp != 0 && g.fmt == 12)

/-- The descriptor passes R231 at a tile number. -/
def Geom.okAt (g : Geom) (t : Nat) : Bool := g.ok && (!g.pair || t % 2 == 0)

/-- An integer operand format of the matrix unit (R52). -/
def intOperand (f : Nat) : Bool := f == 0 || f == 1 || f == 13

/-- A tile of a core. -/
def Core.tile (k : Core) (t : Nat) : Tile := vget {} k.tiles (t % 16)

/-- Changes a tile. -/
def Core.modTile (k : Core) (t : Nat) (f : Tile → Tile) : Core := { k with tiles := vmod {} k.tiles (t % 16) f }

/-! ## Rows as elements (R24, R29, R35) -/

/-- Elements of a width packed in bytes, low end first. -/
def elemsOf (w n : Nat) (bs : List Byte) : List Nat :=
  let x := ofBytes bs
  (List.range n).map fun k => x >>> (k * w) % 2 ^ w

/-- Bytes that hold elements of a width. -/
def packElems (w nbytes : Nat) (es : List Nat) : List Byte :=
  toBytes nbytes (es.foldr (fun e acc => e % 2 ^ w + acc <<< w) 0)

/-- Bits set in a mask. -/
def popcount (m : Word) : Nat := (List.range 64).countP fun i => m.getLsbD i

/-- The 64 lanes of a sparse group: stored values in ascending lane order (R35). -/
def spread (m : Word) (d : Nat) (vals : List Nat) : List (Option Nat) :=
  (List.range 64).map fun i =>
    if m.getLsbD i then some (vals.getD ((List.range i).countP fun j => m.getLsbD j) d) else none

/-- Bytes of a row of a tile or of a pair. -/
def Core.rowOf (k : Core) (t : Nat) (pair : Bool) (i : Nat) : List Byte :=
  let row (x : Tile) : List Byte := (x.data.drop (64 * i)).take 64
  row (k.tile t) ++ (if pair then row (k.tile (t + 1)) else [])

/-- The 64 row elements of row `i`, with `none` for a lane that is not stored. -/
def Core.rowElems (k : Core) (t i : Nat) : List (Option Nat) :=
  let g := (k.tile t).desc
  let es := elemsOf (fmtWidth g.fmt) g.n (k.rowOf t g.pair i)
  if g.sp = 0 then es.map some else spread ((k.tile t).mask.getD i 0) 0 es

/-- The values of row `i`. -/
def Core.rowNums (k : Core) (t i : Nat) : List Num :=
  let x := k.tile t
  let f := x.desc.fmt
  let sc := (x.scale.getD i 127).toNat
  (k.rowElems t i).map fun e => match e with
    | none => .fin false 0 0 false
    | some b => if f = 10 || f = 11 then scaledNum f sc b else readNum (if f = 12 then 7 else f) b

/-- The integers of row `i`. -/
def Core.rowInts (k : Core) (t i : Nat) : List Int :=
  let f := (k.tile t).desc.fmt
  (k.rowElems t i).map fun e => match e with
    | none => 0
    | some b => if f = 1 then (b : Int) else signedOf (fmtWidth f) b

/-! ## Coded blocks (R31 to R33) -/

/-- Bits of bytes from the most significant bit of each down. -/
def bitsOf (bs : List Byte) : List Bool := bs.flatMap fun b => (List.range 8).map fun i => b.getLsbD (7 - i)

/-- A raw exponent field. -/
def rawField : List Bool → Option (Int × List Bool)
  | a :: b :: c :: d :: r => some ((8 * bit a + 4 * bit b + 2 * bit c + bit d : Nat), r)
  | _ => none

/-- ReadToken (R32, R33): the exponent field and the rest of the stream. -/
def readToken (table : Nat) (e0 : Int) (l : List Bool) : Option (Int × List Bool) :=
  match table, l with
  | 0, false :: r => some (e0, r)
  | 0, true :: false :: b :: r => some (if b then e0 - 1 else e0 + 1, r)
  | 0, true :: true :: false :: b :: r => some (if b then e0 - 2 else e0 + 2, r)
  | 0, true :: true :: true :: r => rawField r
  | 1, false :: false :: r => some (e0, r)
  | 1, false :: true :: b :: r => some (if b then e0 - 1 else e0 + 1, r)
  | 1, true :: false :: b :: r => some (if b then e0 - 2 else e0 + 2, r)
  | 1, true :: true :: false :: b :: r => some (if b then e0 - 3 else e0 + 3, r)
  | 1, true :: true :: true :: r => rawField r
  | 2, false :: r => some (e0, r)
  | 2, true :: false :: r => some (e0 - 1, r)
  | 2, true :: true :: false :: r => some (e0 - 2, r)
  | 2, true :: true :: true :: r => rawField r
  | 3, r => rawField r
  | _, _ => none

/-- The elements of a block from its nibbles and token stream, with the rest of the stream. -/
def readElems (table : Nat) (e0 : Int) : List Nat → List Bool → Option (List Byte × List Bool)
  | [], l => some ([], l)
  | nib :: ns, l =>
    match readToken table e0 l with
    | none => none
    | some (ex, r) =>
      if ex < 0 ∨ 15 < ex then none
      else (readElems table e0 ns r).map fun p =>
        (BitVec.ofNat 8 ((nib / 8) * 128 + ex.toNat * 8 + nib % 8) :: p.1, p.2)

/-- Decodes a block of 16·L bytes; none for a malformed one (R33). -/
def decodeCb8 (b : List Byte) : Option (List Byte) :=
  let L := (b.getD 0 0).toNat
  let h := (b.getD 1 0).toNat
  if L < 3 || 6 < L || field h 5 4 != 0 then none
  else
    let stream := bitsOf ((b.take (16 * L)).drop 34)
    match readElems (h / 64) (h % 16 : Nat) (elemsOf 4 64 ((b.drop 2).take 32)) stream with
    | none => none
    | some (es, rest) =>
      let used := stream.length - rest.length
      if L != (34 + (used + 7) / 8 + 15) / 16 || rest.any id then none else some es

/-! ## Rows from memory (R254) -/

/-- A row as it enters a tile: data, and its scale and mask where they are written. -/
structure TileRow where
  data : List Byte
  scale : Option Byte := none
  mask : Option Word := none

/-- The low N bits. -/
def lowBits (n : Nat) : Word := BitVec.ofNat 64 (2 ^ n - 1)

/-- A row that is not loaded. -/
def Geom.blank (g : Geom) : TileRow :=
  { data := List.replicate (64 * g.slots) 0, scale := some 127, mask := some (lowBits g.n) }

/-- Address, size and alignment of every access of a row, and whether it is the row's data. -/
def Geom.rowAccess (g : Geom) (a b : Word) (i : Nat) : List (Word × Nat × Nat) :=
  let off (base : Word) (n : Nat) : Word := base + BitVec.ofNat 64 n
  let row := (off a (i * g.stride), if g.fmt = 12 then 64 else g.rowBytes, 32)
  if g.sp = 0 then row :: (if g.scaled then [(off b (i * g.cstr), 1, 1)] else [])
  else row :: (off b (i * g.cstr), 8, 8) :: (if g.scaled then [(off b (64 * g.soff + i * (g.cstr / 8)), 1, 1)] else [])

/-- The accesses that the blocks of a CB8 tile still need, after the bytes that have come: a length, then its block. -/
def cb8Need : Nat → Word → Nat → List Byte → Except Cause (List (Word × Nat × Nat))
  | 0, _, _, _ => .ok []
  | n + 1, b, al, got =>
    match got with
    | [] => .ok [(b, 1, al)]
    | l :: rest =>
      if l.toNat < 3 || 6 < l.toNat then .error { code := 0x10, tval := b }
      else if rest.length < 16 * l.toNat then
        .ok [(b + BitVec.ofNat 64 rest.length, 16 * l.toNat - rest.length, if rest = [] then 16 else 1)]
      else if (decodeCb8 (rest.take (16 * l.toNat))).isNone then .error { code := 0x10, tval := b }
      else cb8Need n (b + BitVec.ofNat 64 (16 * l.toNat)) 16 (rest.drop (16 * l.toNat))

/-- The accesses a TLD still needs after the bytes that have come. -/
def Geom.need (g : Geom) (a b : Word) (got : List Byte) : Except Cause (List (Word × Nat × Nat)) :=
  if g.fmt = 12 then cb8Need (g.nrm1 + 1) a 64 got
  else if got = [] then .ok ((List.range (g.nrm1 + 1)).flatMap (g.rowAccess a b)) else .ok []

/-- Row `i` from its bytes: elements past KVM1 zero, the scale, the mask with its check (R35); and the bytes left. -/
def Geom.row (g : Geom) (b : Word) (i : Nat) (got : List Byte) : Except Cause (TileRow × List Byte) :=
  let bytes := got.take g.rowBytes
  let rest := got.drop g.rowBytes
  if g.sp = 0 then
    let v := ofBytes bytes % 2 ^ ((g.kvm1 + 1) * fmtWidth g.fmt)
    let data := toBytes (64 * g.slots) v
    if g.scaled then .ok ({ data := data, scale := rest.head? }, rest.drop 1) else .ok ({ data := data }, rest)
  else
    let data := bytes ++ List.replicate (64 * g.slots - g.rowBytes) 0
    let m : Word := BitVec.ofNat 64 (ofBytes (rest.take 8))
    let rest := rest.drop 8
    if popcount m != g.n then .error { code := 0x11, tval := b + BitVec.ofNat 64 (i * g.cstr) }
    else if g.scaled then .ok ({ data := data, scale := rest.head?, mask := some m }, rest.drop 1)
    else .ok ({ data := data, mask := some m }, rest)

/-- Rows `i` to 31 of a tile from the bytes that were read; `b` walks over the blocks of a CB8 tile. -/
def Geom.rows (g : Geom) (gb : Word) : Nat → Nat → Word → List Byte → Except Cause (List TileRow)
  | 0, _, _, _ => .ok []
  | n + 1, i, b, got =>
    if g.nrm1 < i then (g.rows gb n (i + 1) b got).map fun rs => g.blank :: rs
    else if g.fmt = 12 then
      let L := (got.headD 0).toNat
      match decodeCb8 ((got.drop 1).take (16 * L)) with
      | none => .error { code := 0x10, tval := b }
      | some es => (g.rows gb n (i + 1) (b + BitVec.ofNat 64 (16 * L)) (got.drop (1 + 16 * L))).map fun rs =>
          { data := es } :: rs
    else match g.row gb i got with
      | .error c => .error c
      | .ok (r, rest) => (g.rows gb n (i + 1) b rest).map fun rs => r :: rs

/-- A tile with its rows written and its mark cleared. -/
def Tile.withRows (t : Tile) (rs : List TileRow) : Tile :=
  ({ t with data := rs.flatMap fun (r : TileRow) => r.data.take 64
            scale := (rs.zip t.scale).map fun (p : TileRow × Byte) => p.1.scale.getD p.2
            mask := (rs.zip t.mask).map fun (p : TileRow × Word) => p.1.mask.getD p.2 }).setPois false

/-- Writes rows into a tile, and into the tile after it for a pair. -/
def Core.putRows (k : Core) (t t2 : Nat) (pair : Bool) (rs : List TileRow) : Core :=
  let k := k.modTile t fun x => x.withRows rs
  if pair then
    k.modTile t2 fun x => { (x.setPois false) with data := rs.flatMap fun r => (r.data.drop 64).take 64 }
  else k

/-- The descriptor bits that travel with a tile. -/
def descMask : Word := 0xFFFFFF

/-- A tile that takes another's contents and descriptor, and keeps its own STRIDE, CSTR and SOFF. -/
def Tile.take (t src : Tile) : Tile :=
  { src with geom := (t.geom &&& ~~~descMask) ||| (src.geom &&& descMask) }

/-! ## The accumulator (R49 to R53) -/

/-- The value of an accumulator. -/
def Acc.num : Acc → Num
  | .zero n => .fin n 0 0 false
  | .fin n m e => .fin n m e false
  | .inf n => .inf n
  | .nan => .nan false
  | .int v => numOfInt v

/-- RNE into the internal format X (R50, R51). -/
def roundX (v : Num) : Acc × Flags :=
  match v with
  | .nan _ => (.nan, 0#5)
  | .inf n => (.inf n, 0#5)
  | .fin n m e st =>
    let (m', q, ix) := roundMag 36 (-510) 0 0 n m e st
    if m' = 0 then (.zero n, fIf ix fNX)
    else if magGt m' q (2 ^ 36 - 1) 476 then (.inf n, fOF ||| fNX)
    else (.fin n m' q, fIf ix fNX)

/-- The exact sum of the products of one chunk with the special values of R49; a signalling NaN operand sets NV (R27). -/
def chunkSum (xs ys : List Num) : Num × Flags :=
  let ps := (xs.zip ys).map fun p =>
    if p.1.isNaN || p.2.isNaN then (qnan, fIf (p.1 == .nan true || p.2 == .nan true) fNV) else numMul p.1 p.2
  let fl : Flags := ps.foldl (fun f p => f ||| p.2) 0#5
  let both := ps.any (fun p => p.1 == .inf false) && ps.any (fun p => p.1 == .inf true)
  let fl := fl ||| fIf both fNV
  if both || ps.any (fun p => p.1.isNaN) then (qnan, fl)
  else match ps.find? fun p => p.1.isInf with
    | some p => (p.1, fl)
    | none => (match ps with
        | [] => (.fin false 0 0 false, fl)
        | p :: r => (r.foldl (fun acc q => (numAdd false acc q.1).1) p.1, fl))

/-- The exact sum of the integer products of one chunk (R52). -/
def chunkSumInt (xs ys : List Int) : Int := (xs.zip ys).foldl (fun acc p => acc + p.1 * p.2) 0

/-- AddChunk (R51, R52): element (m, n) of the accumulator after a chunk, and its flags. -/
def addChunk (k : Core) (ta tb : Nat) (int sat : Bool) (x : Acc) (m n : Nat) : Acc × Flags :=
  if int then
    let v := (match x with
      | .int v => v
      | _ => 0) + chunkSumInt (k.rowInts ta m) (k.rowInts tb n)
    (.int (signedOf 32 (narrowInt 3 sat v)), 0#5)
  else
    let (sum, f1) := chunkSum (k.rowNums ta m) (k.rowNums tb n)
    let (r, f2) := roundX (numAdd false x.num sum).1
    (r, f1 ||| f2)

/-- One chunk on all 1,024 elements: the new accumulator and the flags. -/
def addChunks (k : Core) (ta tb : Nat) (int sat : Bool) (xs : List Acc) : List Acc × Flags :=
  let rs := (List.range 1024).map fun i => addChunk k ta tb int sat (xs.getD i (.zero false)) (i / 32) (i % 32)
  (rs.map (·.1), rs.foldl (fun f r => f ||| r.2) 0#5)

/-- The accumulator from its 4,096 bytes (R239). -/
def loadAccs (afmt : Nat) (bs : List Byte) : List Acc :=
  (chunksOf 4 1024 bs).map fun b =>
    if afmt = 3 then .int (signedOf 32 b)
    else match readNum 4 b with
      | .nan _ => .nan
      | .inf n => .inf n
      | .fin n m e _ => if m = 0 then .zero n else .fin n m e

/-- The bytes of an element under a rounding, widened into FP32 (R253). -/
def accWord (fd mode : Nat) (sat : Bool) (z : Nat) (x : Acc) : Nat × Flags :=
  match x with
  | .int v => (wrapInt 32 v, 0#5)
  | x =>
    let (b, fl) := roundTo fd mode sat z x.num
    (if fd = 5 then b <<< 16 else if fd = 6 then (convertBits 6 4 0 false 0 b).1 else b, fl)

/-- The final rounding in row-major order; the LFSR steps once an element under RST (R39, R51). -/
def storeAccs (fd mode : Nat) (sat : Bool) (xs : List Acc) (l : BitVec 32) : List Byte × Flags × BitVec 32 :=
  let int := xs.any fun x => match x with
    | .int _ => true
    | _ => false
  let rec go : List Acc → BitVec 32 → List Byte → Flags → List Byte × Flags × BitVec 32
    | [], l, bs, fl => (bs.reverse, fl, l)
    | x :: xs, l, bs, fl =>
      let l1 := if mode = 4 && !int then lfsrStep l else l
      let (b, f) := accWord fd mode sat (lfsrZ l1) x
      go xs l1 ((toBytes 4 b).reverse ++ bs) (fl ||| f)
  go xs l [] 0#5

/-- A spill: RNE into FP32, OF alone when it overflows (R53, R245). -/
def spillAccs (xs : List Acc) : List Byte × Flags :=
  let rs := xs.map fun x => accWord 4 0 false 0 x
  (rs.flatMap fun r => toBytes 4 r.1, rs.foldl (fun f r => f ||| (r.2 &&& fOF)) 0#5)

end Sys2Proof.Machine
end

