-- ==== Sys2Proof/Machine/Trier.lean ====
section
/-! DEFINITION. The trier's candidates: selection, retention and the divergence of every element (R389 to R394). -/

namespace Sys2Proof.Machine

/-- The bin of a relative difference num / den of R394, `den` not zero. -/
def binOf (num den : Nat) : Nat :=
  if num = 0 then 0
  else ((List.range 14).find? fun k => num * 2 ^ (14 - k) < den).elim 15 (· + 1)

/-- The divergence bin of an observed value against a finite reference (R393, R394). -/
def divergence (o x : Num) : Nat :=
  match x, o with
  | .fin n₁ m₁ e₁ _, .fin n₂ m₂ e₂ _ =>
    if m₁ = 0 then if m₂ = 0 then 0 else 15
    else match finAdd false n₂ m₂ e₂ (!n₁) m₁ e₁ with
      | .fin _ d e _ =>
        let b := min e e₁
        binOf (d * 2 ^ (e - b).toNat) (m₁ * 2 ^ (e₁ - b).toNat)
      | _ => 15
  | _, _ => 15

/-- The divergences of a quantised block: FP32 inputs, output elements of a format, scale; with the count of inputs that
are not finite. -/
def blockBins (fd sc : Nat) (xs : List Num) (ys : List Nat) : List Nat × Nat :=
  let ps := xs.zip ys
  let fin := ps.filter fun p => !(p.1.isNaN || p.1.isInf)
  (fin.map fun p => divergence (scaledNum fd sc p.2) p.1, ps.length - fin.length)

/-- Adds to a 32-bit counter that saturates. -/
def satAdd (x n : Nat) : Nat := min (2 ^ 32 - 1) (x + n)

/-- Changes an entry of a quad's trier. -/
def State.modEntry (s : State) (q i : Nat) (f : AuditEntry → AuditEntry) : State :=
  s.modQuad q fun k => { k with trier := { k.trier with entries := vmod {} k.trier.entries i f } }

/-- The entry a candidate belongs to (R389). -/
def Trier.entryOf (t : Trier) (quant : Bool) (tag : Nat) : Option Nat :=
  (List.range 16).find? fun i =>
    let e := vget {} t.entries i
    e.en && tag != 0 && e.tag == tag && (if quant then e.q else e.a)

/-- An entry after one more candidate, and whether it is selected (R390). -/
def AuditEntry.count (e : AuditEntry) : AuditEntry × Bool :=
  let l := if e.n % e.period = 0 then lfsrStep e.lfsr else e.lfsr
  let pos := (l.toNat % 65536 * e.period) >>> 16
  ({ e with n := e.n + 1, lfsr := l }, e.n % e.period == pos)

/-- Candidates of one cycle stand in ascending core index, those of one core in order of execution (R390). -/
def insertCandidate (r : AuditRecord) : List AuditRecord → List AuditRecord
  | [] => [r]
  | x :: xs => if r.core < x.core then r :: x :: xs else x :: insertCandidate r xs

/-- A candidate executes at a quad, under the entry that its tag names (R389). -/
def State.candidate (s : State) (q tag : Nat) (r : AuditRecord) : State :=
  match (s.quad q).trier.entryOf r.quant tag with
  | none => s
  | some i => s.modQuad q fun k => { k with trier := { k.trier with cands := insertCandidate { r with entry := i } k.trier.cands } }

/-- A candidate is counted, and retained when it is selected and the buffer has room (R390, R391). -/
def State.countCandidate (s : State) (q : Nat) (r : AuditRecord) : State :=
  let (e, sel) := (vget {} (s.quad q).trier.entries r.entry).count
  if !sel then s.modEntry q r.entry fun _ => e
  else if 8 ≤ (s.quad q).trier.records.length then
    s.modEntry q r.entry fun _ => { e with lost := true, lostc := satAdd e.lostc 1 }
  else
    ((s.modEntry q r.entry fun _ => e).modQuad q fun k =>
      { k with trier := { k.trier with records := k.trier.records ++ [r] } }).dueOnce (.auditRecord q)

/-- The candidates of a cycle reach their quad's trier. -/
def State.trierEnter (s : State) (q : Nat) : State :=
  (s.quad q).trier.cands.foldl (fun s r => s.countCandidate q r)
    (s.modQuad q fun k => { k with trier := { k.trier with cands := [] } })

/-- The triers of all quads at the end of a cycle. -/
def State.trierCycle (s : State) : State :=
  (s.quads.filter fun p => p.2.trier.cands != []).foldl (fun s p => s.trierEnter p.1) s

/-! ## What an audit finds (R393, R394) -/

/-- The exact value of a chunk sum, as an accumulator holds it. -/
def exactAcc : Num → Acc
  | .nan _ => .nan
  | .inf n => .inf n
  | .fin n m e _ => if m = 0 then .zero n else .fin n m e

/-- The 1,024 chunk sums of an A tile and a B tile (R49, R52). -/
def chunkSums (k : Core) (ta tb : Nat) : List Acc :=
  (List.range 1024).map fun i =>
    if intOperand (k.tile ta).desc.fmt then .int (chunkSumInt (k.rowInts ta (i / 32)) (k.rowInts tb (i % 32)))
    else exactAcc (chunkSum (k.rowNums ta (i / 32)) (k.rowNums tb (i % 32))).1

/-- The record of a chunk: the tiles of A and B, with the second of a pair, and the unit's sums. -/
def chunkRecord (k : Core) (t core ta tb : Nat) : AuditRecord :=
  { entry := 0, thread := t, quant := false, core := core
    tiles := [k.tile ta, k.tile (ta + 1), k.tile tb, k.tile (tb + 1)], sums := chunkSums k ta tb }

/-- The bin of a unit's sum against the exact one: two NaNs are equal. -/
def sumBin (o r : Acc) : Nat := if o == r then 0 else divergence o.num r.num

/-- What the audit of a record finds: the bin of every finite element, and the count of inputs that are not finite. -/
def AuditRecord.found (r : AuditRecord) : List Nat × Nat :=
  if r.quant then blockBins r.fmt r.scale (r.ins.map (readNum 4)) r.outs
  else
    let k : Core := { tiles := (List.range 4).foldl (fun v i => vmod {} v i fun _ => r.tiles.getD i {}) (Vector.replicate 16 {}) }
    ((r.sums.zip (chunkSums k 0 2)).map fun p => sumBin p.1 p.2, 0)

/-- The tag a prefix carries. -/
def tagOf (p : Option (BitVec 26)) : Nat :=
  match p with
  | some p => pfxTag p
  | none => 0

end Sys2Proof.Machine
end

