-- ==== Sys2Proof/Machine/Audit.lean ====
section
/-! DEFINITION. The audit engine's instructions, major 0x29, and the end of an audit (R388 to R406). -/

namespace Sys2Proof.Machine

/-- An entry of the executing quad's trier. -/
def State.entry (s : State) (i : Nat) : AuditEntry := vget {} (s.quad (quadOf s.here)).trier.entries i

/-- Discards an entry's records that have not been audited (R398). -/
def State.dropRecords (s : State) (q i : Nat) : State :=
  s.modQuad q fun k => { k with trier := { k.trier with records := k.trier.records.filter fun r => r.entry != i
                                                        cands := k.trier.cands.filter fun r => r.entry != i } }

/-- The histogram and what ASAMP and ACLR clear with it (R402, R405). -/
def AuditEntry.cleared (e : AuditEntry) : AuditEntry :=
  { e with bins := List.replicate 16 0, samp := 0, nanc := 0, lostc := 0, trip := false, wcnt := 0, wsamp := 0 }

/-! ## The way to the trier (R398, R401) -/

/-- A record of an entry that a thread's candidates produced is still to be audited. -/
def State.recordsOf (s : State) (t i : Nat) : Bool :=
  let k := (s.quad (quadOf (coreOf t))).trier
  (k.records ++ k.cands).any fun r => r.entry == i && r.thread == t && !r.gone

/-- Earlier vector and matrix work of a thread is not complete, or not counted at its quad's trier yet (R401). -/
def State.unitsBusy (s : State) (t : Nat) : Bool :=
  !s.engineIdle t || (s.quad (quadOf (coreOf t))).trier.cands.any fun r => r.thread == t

/-- What an audit instruction of a thread waits for before it goes to the trier: its earlier vector and matrix work, for ASTAT
with W = 1 its earlier engine work and the audit of what that produced (R401, R406). -/
def State.trierWaits (s : State) (t : Nat) : Instr → Bool
  | .asamp _ _ => s.unitsBusy t
  | .athr _ _ => s.unitsBusy t
  | .aclr _ => s.unitsBusy t
  | .astat a _ =>
    let n := ((s.thr t).reg a.toNat).toNat
    bitAt n 4 && (vget {} (s.quad (quadOf (coreOf t))).trier.entries (n % 16)).en &&
      (!s.engineIdle t || s.recordsOf t (n % 16))
  | _ => false

/-- An audit instruction. -/
def auditInsn : Instr → Bool
  | .asamp _ _ => true
  | .athr _ _ => true
  | .ahist _ _ => true
  | .aclr _ => true
  | .astat _ _ => true
  | _ => false

/-- The cycle in which a thread's audit instruction issued, if it is on its way to the trier with nothing to wait for. -/
def State.toTrier (s : State) (t : Nat) : Option Nat :=
  let th := s.thr t
  match th.op.insn with
  | some i =>
    if (th.st == .run || th.st == .parked .engine) && th.op.aux == takenMark && auditInsn i && !s.trierWaits t i then
      some th.op.ea.toNat
    else none
  | none => none

/-- An audit instruction that issued before cycle `n`, or in it on a core below `c`, is on its way to the trier of a quad
(R398). -/
def State.trierBefore (s : State) (q n c : Nat) : Bool :=
  (List.range 64).any fun i =>
    let u := coreOfQuad q (i / 16) * 16 + i % 16
    match s.toTrier u with
    | some m => m < n || (m == n && coreOf u < c)
    | none => false

/-- An audit instruction parks with reason ENGINE and acts at the trier in its order, after what it waits for (R398,
R401). -/
def atTrier (insn : Instr) (act : State → Res) (s : State) : Res :=
  let park (s : State) (n : Nat) : Res :=
    .keep ((s.park s.cur .engine { insn := some insn, aux := takenMark, ea := BitVec.ofNat 64 n }).dueOnce (.accessReply s.cur))
  let n := s.me.op.ea.toNat
  if s.me.op.aux != takenMark then park s s.cycle
  else if s.trierWaits s.cur insn || s.trierBefore (quadOf s.here) n s.here then park s n
  else act s

/-! ## Instructions (R402 to R406) -/

/-- ASAMP (R402). -/
def asampBody (insn : Instr) (word : Half) (a b : BitVec 5) (s : State) : Res :=
  let n := s.gn a
  let q := quadOf s.here
  let i := n % 16
  let tag := field n 15 4
  let seed : BitVec 32 := BitVec.ofNat 32 (s.gn b)
  if field n 23 18 != 0 || field n 63 32 != 0 || field (s.gn b) 63 32 != 0 || tag = 0 || field n 17 16 = 0 then
    illegal word 2 s
  else atTrier insn (fun s =>
    if (List.range 16).any (fun j => j != i && (s.entry j).en && (s.entry j).tag == tag) then illegal word 3 s
    else
      let e := s.entry i
      let changed := !e.en || e.tag != tag
      let e := if changed then { e.cleared with tbin := 0, win := 0, tcount := 0 } else e
      let l := if seed = 0 then 1 else seed
      let s := if changed then s.dropRecords q i else s
      .done (s.modEntry q i fun _ =>
        { e with en := true, tag := tag, a := bitAt n 16, q := bitAt n 17, period := field n 31 24 + 1, seed := l, lfsr := l
                 n := 0 })) s

/-- ATHR (R403). -/
def athrBody (insn : Instr) (word : Half) (a b : BitVec 5) (s : State) : Res :=
  let n := s.gn a
  let m := s.gn b
  let i := n % 16
  if field n 7 4 != 0 || field n 63 13 != 0 || field m 63 32 != 0 || (field m 31 12 = 0 && field n 11 8 != 0) then
    illegal word 2 s
  else atTrier insn (fun s =>
    if !(s.entry i).en then illegal word 3 s
    else .done (s.modEntry (quadOf s.here) i fun e =>
      { e with tbin := field n 11 8, dest := bitAt n 12, win := field m 11 0, tcount := field m 31 12, trip := false
               wcnt := 0, wsamp := 0 })) s

/-- A counter of an entry (R404). -/
def AuditEntry.counter (e : AuditEntry) (k : Nat) : Nat :=
  if !e.en then 0 else if k < 16 then e.bins.getD k 0 else if k = 16 then e.samp else if k = 17 then e.nanc else e.lostc

/-- AHIST (R404). -/
def ahistBody (insn : Instr) (word : Half) (a d : BitVec 5) (s : State) : Res :=
  let n := s.gn a
  if field n 7 4 != 0 || field n 63 13 != 0 || 19 ≤ field n 12 8 then illegal word 2 s
  else atTrier insn (fun s => .done (s.setGn d ((s.entry (n % 16)).counter (field n 12 8)))) s

/-- ACLR (R405). -/
def aclrBody (insn : Instr) (word : Half) (a : BitVec 5) (s : State) : Res :=
  let n := s.gn a
  let q := quadOf s.here
  let i := n % 16
  if field n 63 5 != 0 then illegal word 2 s
  else atTrier insn (fun s =>
    if !(s.entry i).en then .done s
    else .done ((s.dropRecords q i).modEntry q i fun e => if bitAt n 4 then {} else { e.cleared with lost := false })) s

/-- The status word of an entry (R400). -/
def State.auditWord (s : State) (i : Nat) : Nat :=
  let e := s.entry i
  let pend := ((s.quad (quadOf s.here)).trier.records.filter fun r => r.entry == i).length
  if !e.en then 0
  else bit e.en <<< 63 + bit e.trip <<< 62 + bit e.a <<< 61 + bit e.q <<< 60 + bit e.lost <<< 59 + (e.tag % 4096) <<< 47 +
    (pend % 16) <<< 43 + (e.wcnt % 2 ^ 20) <<< 23 + (e.wsamp % 4096) <<< 11

/-- ASTAT (R406). -/
def astatBody (insn : Instr) (word : Half) (a d : BitVec 5) (s : State) : Res :=
  let n := s.gn a
  if field n 63 5 != 0 then illegal word 2 s
  else atTrier insn (fun s => .done (s.setGn d (s.auditWord (n % 16)))) s

/-- ASAMP (R402). Enables or reconfigures an audit entry. -/
def execAsamp (a : BitVec 5) (b : BitVec 5) (s : State) : Out :=
  run { word := 41#6 ++ a ++ b ++ 0#10 ++ 0#6, srcs := [a.toNat, b.toNat] }
    (asampBody (.asamp a b) (41#6 ++ a ++ b ++ 0#10 ++ 0#6) a b) s

/-- ATHR (R403). Arms an audit entry's threshold. -/
def execAthr (a : BitVec 5) (b : BitVec 5) (s : State) : Out :=
  run { word := 41#6 ++ a ++ b ++ 0#10 ++ 1#6, srcs := [a.toNat, b.toNat] }
    (athrBody (.athr a b) (41#6 ++ a ++ b ++ 0#10 ++ 1#6) a b) s

/-- AHIST (R404). Reads an audit counter. -/
def execAhist (a : BitVec 5) (d : BitVec 5) (s : State) : Out :=
  run { word := 41#6 ++ a ++ 0#5 ++ d ++ 0#5 ++ 2#6, srcs := [a.toNat], dsts := [d.toNat] }
    (ahistBody (.ahist a d) (41#6 ++ a ++ 0#5 ++ d ++ 0#5 ++ 2#6) a d) s

/-- ACLR (R405). Clears or disables an audit entry. -/
def execAclr (a : BitVec 5) (s : State) : Out :=
  run { word := 41#6 ++ a ++ 0#15 ++ 3#6, srcs := [a.toNat] }
    (aclrBody (.aclr a) (41#6 ++ a ++ 0#15 ++ 3#6) a) s

/-- ASTAT (R406). Returns an audit entry's status, optionally after its audits finish. -/
def execAstat (a : BitVec 5) (d : BitVec 5) (s : State) : Out :=
  run { word := 41#6 ++ a ++ 0#5 ++ d ++ 0#5 ++ 4#6, srcs := [a.toNat], dsts := [d.toNat] }
    (astatBody (.astat a d) (41#6 ++ a ++ 0#5 ++ d ++ 0#5 ++ 4#6) a d) s

/-! ## The end of an audit (R392 to R396) -/

/-- Advances one bin. -/
def bumpBin (bins : List Nat) (k : Nat) : List Nat := bins.set k (satAdd (bins.getD k 0) 1)

/-- An entry after one of its records has been audited, and whether its threshold is reached (R394, R395). -/
def AuditEntry.audit (e : AuditEntry) (r : AuditRecord) : AuditEntry × Bool :=
  let (bins, nans) := r.found
  let above := if e.tbin = 0 then 0 else (bins.filter fun b => e.tbin ≤ b).length
  let wcnt := min (2 ^ 20 - 1) (e.wcnt + above)
  let wsamp := min 4095 (e.wsamp + 1)
  let trip := e.tbin != 0 && !e.trip && e.tcount ≤ wcnt
  let full := e.win != 0 && wsamp == e.win
  ({ e with bins := bins.foldl bumpBin e.bins, samp := satAdd e.samp 1, nanc := satAdd e.nanc nans
            trip := e.trip || trip, wcnt := if full then 0 else wcnt, wsamp := if full then 0 else wsamp }, trip)

/-- The event of a threshold (R396). -/
def State.auditEvent (s : State) (f i : Nat) (e : AuditEntry) (r : AuditRecord) : State :=
  if e.dest || r.gone then s.fnEvent f (contextEvent 0x70 (e.tag + i <<< 16 + bit r.quant <<< 20))
  else s.queueEvent r.thread { cls := 2, sub := i + 16 * bit r.quant, id := e.tag }

/-- Bubbles that the audit of a record takes (R392). -/
def AuditRecord.cost (r : AuditRecord) : Nat := if r.quant then 8 else 512

/-- The trier takes this cycle's bubbles of its quad's cores, as far as their sequencers leave them and the oldest record
needs them (R88, R392). -/
def State.trierBubbles (s : State) (q : Nat) : State :=
  (List.range 4).foldl (fun s i =>
    let c := coreOfQuad q i
    match (s.quad q).trier.records with
    | r :: rest =>
      if r.work < r.cost && s.bubble c && !s.sequencing c then
        (s.spend c).modQuad q fun k => { k with trier := { k.trier with records := { r with work := r.work + 1 } :: rest } }
      else s
    | [] => s) s

/-- AUDIT_RECORD (R393). The trier finishes auditing a record, bins it and may raise an event. -/
def execAuditRecord (q : Nat) (s : State) : Out :=
  eventIf (q < 14400)
    (match (s.quad q).trier.records, s.holder q with
     | r :: rest, some f =>
       if (s.fn f).boundary && !(s.fn f).unl then s.defer (.auditRecord q)
       else if !s.quotaOk q f then (s.quotaFail q f).defer (.auditRecord q)
       else if r.work < r.cost then (s.trierBubbles q).defer (.auditRecord q)
       else if s.trierBefore q (s.cycle + 1) 0 then s.defer (.auditRecord q)
       else
         let s := s.charge q f (if r.quant then 24 else 23) 1
         let s := s.modQuad q fun k => { k with trier := { k.trier with records := rest } }
         let (e, trip) := (vget {} (s.quad q).trier.entries r.entry).audit r
         let s := s.modEntry q r.entry fun _ => e
         let s := if !r.quant && r.found.1.any (· != 0) then s.quadError (coreOfQuad q r.core) 0x0A 0 0 else s
         let s := if trip then s.auditEvent f r.entry e r else s
         if rest = [] then s else s.dueOnce (.auditRecord q)
     | _, _ => s)

end Sys2Proof.Machine
end

