-- ==== Sys2Proof/Machine/Engine.lean ====
section
/-! DEFINITION. Accesses that an engine makes on behalf of a thread that does not wait for them: stream fills, drains and
copies, collectives (R163, R271, R275, R277). -/

namespace Sys2Proof.Machine

/-- A thread that stands for an agent in the checks of R154. -/
def Agent.thread (w : Agent) : Thread :=
  { segs := w.segs, fn := w.fn, lease := w.lease, home := w.home, tsr := { pl := BitVec.ofNat 2 w.level } }

/-- Where an engine's access comes to. -/
inductive Resolved where
  | ok (s : State) (da : Word) (d : Dest) (a : Nat)
  | fail (s : State) (c : Cause)
  | miss (s : State) (va sub kind stage : Nat)

/-- The check, owner check and translation of an access inside one 64-byte granule; `pin` for a pinned one. -/
def State.engineResolve (s : State) (c : Nat) (w : Agent) (pin : Bool) (ea : Word) (n need : Nat) : Resolved :=
  let q := quadOf c
  match s.segCheck w.thread q ea n need with
  | .error e => .fail s e
  | .ok (da, d, x) =>
    let fatal (s : State) : Resolved := .fail (s.quadError c 0x0E 0 da) { code := cFatal, tval := da }
    match d with
    | .device => .fail s { code := cSeg, detail := 2, tval := ea }
    | .panel _ => .ok s da d x
    | .hbm =>
      match s.translate q w.fn w.lease w.level x need pin (bit (need &&& rightW != 0)) with
      | .ok s2 pa _ => .ok s2 da d (hbmBase + pa)
      | .miss s2 sub kind stage => if pin then fatal s2 else .miss s2 x sub kind stage
      | .fatal s2 => fatal s2
      | .ue s2 => .fail s2 { code := cMemUe, tval := da }
    | _ => if w.level < 2 && !s.ownerOk w.fn d x then .fail s { code := cSeg, detail := 3, tval := ea } else .ok s da d x

/-- What an engine's access comes to: done with its bytes, on its way to another panel, waiting at a held word, a fault,
a translation miss. -/
inductive EngRun where
  | done (s : State) (bs : List Byte)
  | sent (s : State) (bs : List Byte)
  | hold (s : State) (bs : List Byte)
  | fail (s : State) (c : Cause)
  | miss (s : State) (va sub kind stage : Nat)

/-- A unit of this panel takes an engine's access now: its context is not away, and no earlier traffic is held for it
(R311). -/
def State.passes (s : State) (c : Nat) (d : Dest) : Bool :=
  match contextOf d with
  | some x => !(s.core x).away && ((s.core x).place.held == [] || (s.core x).place.switched.contains c)
  | none => true

/-- The core of a unit is ABSENT (R314). -/
def State.unitAbsent (s : State) (d : Dest) : Bool :=
  match contextOf d with
  | some c => (s.core c).place.service == .absent
  | none => false

/-- Performs an access that has been resolved; `key` and `gen` name the engine's operation in a request to another
panel. -/
def State.engineDo (s : State) (c : Nat) (w : Agent) (key gen : Nat) (ea da : Word) (d : Dest) (op : HomeOp)
    (got : List Byte) : EngRun :=
  if s.unitAbsent d then .fail s { code := cSeg, detail := 3, tval := ea }
  else if !s.passes c d then .hold s got
  else
  let s := s.chargeAccess c w.fn d op
  match d with
  | .panel p =>
    let r : Request := { thread := key, gen := gen, fn := w.fn, level := w.level, unit := d, op := op, ea := ea, da := da,
                         pinned := true, since := s.cycle }
    .sent (s.sendFrame p w.fn (.request r) 2) got
  | _ =>
    match s.performFor w.fn (.thread key gen false) da op with
    | .reply s2 (.data bs) => .done s2 (got ++ bs)
    | .reply s2 (.trap e) => .fail s2 { e with tval := da }
    | .reply s2 _ => .done s2 got
    | .queued _ => .hold s got
    | .hold => .hold s got

/-- One access of an engine. -/
def State.engineOne (s : State) (c : Nat) (w : Agent) (pin : Bool) (key gen : Nat) (ea : Word) (n need : Nat)
    (op : Nat → HomeOp) (got : List Byte) : EngRun :=
  match s.engineResolve c w pin ea n need with
  | .fail s e => .fail s e
  | .miss s va sub kind stage => .miss s va sub kind stage
  | .ok s da d a => s.engineDo c w key gen ea da d (op a) got

/-- Reads pieces in order from the first that has not come yet. -/
def State.engineReads (s : State) (c : Nat) (w : Agent) (key gen : Nat) : List (Word × Nat) → List Byte → EngRun
  | [], got => .done s got
  | (ea, n) :: ps, got =>
    match s.engineOne c w true key gen ea n rightR (fun a => .load a n) got with
    | .done s2 bs => s2.engineReads c w key gen ps bs
    | r => r

/-- Keys of an engine's operations in requests: stream contexts and copies. -/
def ctxKey (c x : Nat) : Nat := 2 ^ 20 + c * 16 + x

/-- Key of a copy slot. -/
def copyKey (c k : Nat) : Nat := 2 ^ 21 + c * 16 + k

/-- Queues a bulk frame to a panel (R432, R434). -/
def State.sendBulk (s : State) (p f : Nat) (cargo : Cargo) (beats : Nat) : State :=
  s.modOdie (odieFor p) fun o =>
    { o with egress := o.egress ++ [{ src := s.panelNo, dst := p, fn := f, seq := none, cargo := cargo, beats := beats }] }

/-- The arrival update of an engine at its home (R282). -/
def State.arrivalDue (s : State) (a n : Nat) : State := s.due (.arrivalAdd a n)

end Sys2Proof.Machine
end

