-- ==== Sys2Proof/Machine/Lanes.lean ====
section
/-! DEFINITION. What every vector instruction shares: elements and lanes, the check fields and the shadow latch, vector
stream registers, the unit's queue, accesses of lanes (R194 to R203, R208 to R211, R269 to R271). -/

namespace Sys2Proof.Machine

/-! ## Lanes and elements (R194 to R196, R201, R202) -/

/-- A lane's data with the elements that are written, low element first. -/
def laneData (bits : Nat) : Nat → List (Option Nat) → Nat
  | _, [] => 0
  | old, x :: xs => x.getD old % 2 ^ bits + 2 ^ bits * laneData bits (old / 2 ^ bits) xs

/-- Writes elements, `per` to a lane; a lane with none written stays, one that is written takes C = 0 (R201). -/
def writeLanes (bits per : Nat) : List Lane → List (Option Nat) → List Lane
  | [], _ => []
  | l :: ls, vs =>
    (if (vs.take per).all (·.isNone) then l
     else { l with data := BitVec.ofNat 32 (laneData bits l.data.toNat (vs.take per)), c := false }) ::
      writeLanes bits per ls (vs.drop per)

@[simp] theorem writeLanes_length (bits per : Nat) (ls : List Lane) (vs : List (Option Nat)) :
    (writeLanes bits per ls vs).length = ls.length := by
  induction ls generalizing vs with
  | nil => rfl
  | cons l ls ih => simp [writeLanes, ih]

/-- Lanes that a list of elements writes. -/
def writtenLanes (per : Nat) (vs : List (Option Nat)) : List Nat :=
  (List.range 64).filter fun l => ((vs.drop (l * per)).take per).any (·.isSome)

/-- Writes elements of a width of at most 32 bits into a vector register and latches what was written (R202). -/
def Thread.writeVec (th : Thread) (vd bits : Nat) (vs : List (Option Nat)) : Thread :=
  let per := 32 / bits
  let v : Vector Lane 64 := ⟨(writeLanes bits per (th.vec vd).toList vs).toArray, by simp⟩
  { th with v := th.v.setIfInBounds (vd % 8) v
            latch := some { vd := vd % 8, lanes := (writtenLanes per vs).map fun l => (l, (v.toList.getD l {}).data) } }

/-- Element `e` of a width of at most 32 bits. -/
def Thread.at (th : Thread) (r bits e : Nat) : Nat :=
  ((th.lane r (e * bits / 32)).data.toNat >>> (e * bits % 32)) % 2 ^ bits

/-- A 64-bit element. -/
def Thread.at64 (th : Thread) (r e : Nat) : Nat := (th.lane r (2 * e)).data.toNat + (th.lane r (2 * e + 1)).data.toNat <<< 32

/-- A lane is selected: no mask, or its bit set (R196). -/
def Thread.on (th : Thread) (m : BitVec 3) (e : BitVec 1) (lane : Nat) : Bool :=
  e == 0 || (th.mask m.toNat).getLsbD lane

/-- Selected lanes. -/
def Thread.onLanes (th : Thread) (m : BitVec 3) (e : BitVec 1) : List Nat := (List.range 64).filter (th.on m e)

/-- Every lane. -/
def allLanes : List Nat := List.range 64

/-- Lanes that elements of a width lie in. -/
def lanesOf (bits : Nat) (es : List Nat) : List Nat := (es.map fun e => e * bits / 32).eraseDups

/-- Element results in ascending order, with their flags and the LFSR; it steps once for each element when the rounding
is stochastic (R38, R39). -/
def elemFold (rst : Bool) (f : Nat → Nat → Option (Nat × Flags)) :
    List Nat → BitVec 32 → List (Option Nat) × Flags × BitVec 32
  | [], l => ([], 0#5, l)
  | e :: es, l =>
    let l1 := if rst then lfsrStep l else l
    let r := f e (lfsrZ l1)
    let (vs, fl, l2) := elemFold rst f es l1
    (r.map (·.1) :: vs, (r.map (·.2)).getD 0#5 ||| fl, l2)

/-- Rounding mode of a unit instruction (R118, R198). -/
def UnitOp.mode (o : UnitOp) (th : Thread) : Nat := roundMode th.tsr.rm.toNat o.pfx

/-- Saturate bit of a unit instruction. -/
def UnitOp.sat (o : UnitOp) : Bool :=
  match o.pfx with
  | some p => pfxSat p
  | none => false

/-- Completes a vector instruction that writes elements. -/
def vecDone (vd bits : Nat) (r : List (Option Nat) × Flags × BitVec 32) (s : State) : Res :=
  .done ((s.modMe fun th => ({ th with rndlfsr := r.2.2 }).writeVec vd bits r.1).raise s.cur r.2.1)

/-! ## Check fields (R203) -/

/-- A lane fails its check. -/
def Lane.bad (l : Lane) : Bool :=
  l.c && ((toBytes 4 l.data.toNat).foldl (fun n b => n + b.toNat) 0) % 255 != l.ck.toNat

/-- The first failing lane of the registers that are read. -/
def Thread.checkFail (th : Thread) (rs : List (Nat × List Nat)) : Option Cause :=
  rs.findSome? fun (r, ls) =>
    (ls.find? fun l => (th.lane r l).bad).map fun l => { code := 0x13, detail := r % 8, tval := BitVec.ofNat 64 l }

/-! ## Vector registers that stand for streams (R269, R270) -/

/-- Elements that fill a register. -/
def Desc.perReg (d : Desc) : Nat := 256 / d.size

/-- The bytes of one vector pop: elements past the end read zero. -/
def State.popVec (f : Form) (s : State) (t x : Nat) : List Nat → List Byte → Except Res (List Byte)
  | [], acc => .ok acc
  | e :: es, acc =>
    let k := (s.core (coreOf t)).ctx x
    if k.desc.total ≤ e then State.popVec f s t x es (acc ++ List.replicate k.desc.size 0)
    else match s.popElem t x e f.replay with
      | .val bs => State.popVec f s t x es (acc ++ bs)
      | .trap s1 c => .error (.trap s1 c)
      | .wait s1 page => .error (f.wait x page s1)

/-- The pops of a list of registers with their contexts. -/
def State.popVecs (f : Form) (s : State) (t : Nat) : List (Nat × Nat) → List (Nat × List Byte) →
    Except Res (List (Nat × List Byte))
  | [], acc => .ok acc
  | (r, x) :: rest, acc =>
    let k := (s.core (coreOf t)).ctx x
    if k.desc.total ≤ k.pos then .error (.trap s (streamOvf x 1 k.pos))
    else match State.popVec f s t x ((List.range k.desc.perReg).map (k.pos + ·)) [] with
      | .ok bs => State.popVecs f s t rest ((r, bs) :: acc)
      | .error e => .error e

/-- A register filled with bytes, every lane with C = 0. -/
def fillVec (bs : List Byte) : Vector Lane 64 :=
  ⟨((chunksOf 4 64 bs).map fun n => ({ data := BitVec.ofNat 32 n } : Lane)).toArray, by
    have h : ∀ n (l : List Byte), (chunksOf 4 n l).length = n := by
      intro n; induction n with
      | zero => intro l; rfl
      | succ k ih => intro l; simp [chunksOf, ih]
    simp [h]⟩

/-- Pushes the elements of a register. -/
def State.pushVec (s : State) (t x : Nat) (bs : List Byte) : State :=
  let k := (s.core (coreOf t)).ctx x
  (chunksOf k.desc.size (min k.desc.perReg (k.desc.total - k.pos)) bs).foldl (fun s v => s.push t x v) s

/-- Runs a vector meaning with the streams of its registers: each bound source pops once, each bound destination pushes,
when the unit executes the instruction (R270). -/
def withVecStreams (f : Form) (reads writes : List Nat) (body : State → Res) (s : State) : Res :=
  let t := s.cur
  let c := s.here
  if !(s.core c).ctxs.toList.any (fun x => x.bound && !x.susp && x.owner == t && x.kind == 1) then body s
  else
    let ins := reads.eraseDups.filterMap fun r => (s.boundTo t 1 r).map fun x => (r, x)
    let outs := writes.eraseDups.filterMap fun r => (s.boundTo t 1 r).map fun x => (r, x)
    if ins.any (fun p => ((s.core c).ctx p.2).desc.dirOut) || outs.any (fun p => !((s.core c).ctx p.2).desc.dirOut) then
      .trap s (f.fault cIllegal 3)
    else match State.popVecs f s t ins [] with
      | .error r => r
      | .ok vals =>
        match State.pushReady f (fun x => ((s.core c).ctx x).desc.perReg) s t outs with
        | some r => r
        | none =>
          let old := s.me.v
          let put (v : Vector (Vector Lane 64) 8) (rs : List (Nat × Vector Lane 64)) : Vector (Vector Lane 64) 8 :=
            rs.foldl (fun v p => v.setIfInBounds (p.1 % 8) p.2) v
          let own : List (Nat × Vector Lane 64) := (ins ++ outs).map fun p => (p.1, s.me.vec p.1)
          let s1 := s.modMe fun th => { th with v := put old (vals.map fun p => (p.1, fillVec p.2)) }
          let back (s2 : State) : State :=
            match (s2.thr t).st with
            | .free => s2
            | .killed => s2
            | _ => s2.modThr t fun th => { th with v := put th.v own }
          match body s1 with
          | .done s2 =>
            let outv := outs.map fun p => (p.2, (s2.thr t).vecBytes p.1)
            let s3 := (back s2).modThr t fun th => if outs = [] then th else { th with latch := none }
            let s3 := ins.foldl (fun s p =>
              let k := (s.core c).ctx p.2
              s.consume t p.2 (min k.desc.perReg (k.desc.total - k.pos))) s3
            .done (outv.foldl (fun s p => s.pushVec t p.1 p.2) s3)
          | .goto s2 pc => .goto (back s2) pc
          | .trap s2 e => .trap (back s2) e
          | .keep s2 => .keep (back s2)

/-! ## Lanes in memory (R208 to R211) -/

/-- Consecutive lanes at consecutive addresses of one unit, inside one part of the access. -/
structure LaneRun where
  dest : Dest
  addr : Nat
  lane : Nat
  count : Nat
  ea : Word
  da : Word

/-- The selected lanes of one part of a contiguous access, from byte `off`. -/
def runsOf (sel : Nat → Bool) (ea da : Word) (d : Dest) (a off : Nat) : Nat → Nat → Option LaneRun → List LaneRun
  | 0, _, cur => cur.toList
  | n + 1, i, cur =>
    let lane := off / 4 + i
    if sel lane then
      match cur with
      | some r => runsOf sel ea da d a off n (i + 1) (some { r with count := r.count + 1 })
      | none => runsOf sel ea da d a off n (i + 1)
          (some { dest := d, addr := a + 4 * i, lane := lane, count := 1, ea := ea,
                  da := da + BitVec.ofNat 64 (4 * lane) })
    else cur.toList ++ runsOf sel ea da d a off n (i + 1) none

/-- The runs of every part of a contiguous access. -/
def partRuns (sel : Nat → Bool) (ea da : Word) : Nat → List (Dest × Nat × Nat) → List LaneRun
  | _, [] => []
  | off, (d, a, n) :: ps => runsOf sel ea da d a off (n / 4) 0 none ++ partRuns sel ea da (off + n) ps

/-- What the lanes of an access come to. -/
inductive LaneReach where
  | ok (s : State) (runs : List LaneRun)
  | trap (s : State) (c : Cause)
  | page (s : State)

/-- VLD and VST: one check of all 256 bytes (R209). -/
def State.reachBlock (s : State) (ea : Word) (sel : Nat → Bool) (need kind : Nat) (replay : Bool) : LaneReach :=
  match s.reach s.cur ea 256 need 4 kind false replay with
  | .ok s2 da parts => .ok s2 (partRuns sel ea da 0 parts)
  | .trap s2 c => .trap s2 c
  | .page s2 => .page s2

/-- VLDX and VSTX: each selected lane in ascending order (R210). -/
def State.reachLanes (s : State) (ea : Nat → Word) (need kind : Nat) (replay : Bool) : List Nat → List LaneRun → LaneReach
  | [], acc => .ok s acc.reverse
  | l :: ls, acc =>
    match s.reach s.cur (ea l) 4 need 4 kind false replay with
    | .ok s2 da ((d, a, _) :: _) =>
      s2.reachLanes ea need kind replay ls ({ dest := d, addr := a, lane := l, count := 1, ea := ea l, da := da } :: acc)
    | .ok s2 _ [] => s2.reachLanes ea need kind replay ls acc
    | .trap s2 c => .trap s2 c
    | .page s2 => .page s2

/-- Gives selected lanes the words of a list of bytes, in ascending order. -/
def laneVals (sel : List Nat) (bs : List Byte) : List (Option Nat) :=
  let ws := sel.zip (chunksOf 4 sel.length bs)
  (List.range 64).map fun l => (ws.find? fun p => p.1 == l).map (·.2)

/-- The operation a vector instruction continues: its thread's, or its sequencer's (R211). -/
def UnitOp.going (o : UnitOp) (th : Thread) : Op := if o.replay then th.flyOp else th.op

/-- A vector instruction waits with reason MEM for its thread's journal; a replay waits in the sequencer. -/
def UnitOp.wait (o : UnitOp) (s : State) : Res := if o.replay then .keep s else waitMem o.insn s

/-- Leaves the core with the accesses of an instruction or of a replay. -/
def UnitOp.start (o : UnitOp) (ops : List Access) (s : State) (got : List Byte := []) : Res :=
  let w : Op := { insn := some o.insn, todo := ops, got := got }
  if o.replay then .keep (s.modMe fun th => th.modFly fun x => { x with op := w })
  else .keep ((s.modMe fun th => { th with op := w }).nextAccess s.cur)

/-- An operation on the core's own units, one access after the other. -/
def ownAccesses (s : State) (got : List Byte) : List Access → Except (Option (State × Cause)) (State × List Byte)
  | [] => .ok (s, got)
  | a :: as =>
    match (s.chargeAccess s.here s.me.fn a.dest a.op).perform (.thread s.cur s.me.gen.toNat false) a.da a.op with
    | .reply s2 (.trap c) => .error (some (s2, c))
    | .reply s2 (.data bs) => ownAccesses s2 (got ++ bs) as
    | .reply s2 _ => ownAccesses s2 got as
    | _ => .error none

/-- The owner check of every target of a store, before any lane is written (R156, R211). -/
def State.ownerFail (s : State) (runs : List LaneRun) : Option LaneRun :=
  runs.find? fun r => s.level < 2 && !s.ownerOk s.me.fn r.dest r.addr

/-- The unit lies on another panel. -/
def Dest.isFar : Dest → Bool
  | .panel _ => true
  | _ => false

/-- A store on this panel would write an uncorrectable word in part: the trap of the first, before any is performed
(R107, R150). -/
def State.storeFail (s : State) (as : List Access) : Option Cause :=
  as.findSome? fun a => match a.op with
    | .store x bs =>
      if a.dest.isFar then none else (s.storeUe x bs.length a.da).map fun v => { code := cMemUe, tval := v }
    | _ => none

/-- The questions that precede stores to other panels: whether each home would take its store (R211, R252). -/
def farChecks (as : List Access) : List Access :=
  as.filterMap fun a => match a.op with
    | .store x bs => if a.dest.isFar then some { a with op := .check x bs.length } else none
    | _ => none

/-- Stores to other panels remove import entries when they are issued (R190). -/
def State.blockFills (s : State) (as : List Access) : State :=
  as.foldl (fun s a => match a.dest with
    | .panel p => if a.op.touches then s.blockFill s.cur p a.op.addr else s
    | _ => s) s

/-- A word of an access is held for a confirmation at its home (R310). -/
def State.heldAny (s : State) (parts : List (Dest × Nat × Nat)) : Bool :=
  parts.any fun p => (wordsOf p.2.1 p.2.2).any s.wordHeld

/-- The accesses of a load or store of lanes that have been checked. -/
def laneAccess (o : UnitOp) (load : Bool) (data : Nat → BitVec 32) (fin : List Byte → State → Res) (runs : List LaneRun)
    (s : State) : Res :=
  let parts := runs.map fun r => (r.dest, r.addr, 4 * r.count)
  let ops := runs.map fun r =>
    { dest := r.dest, ea := r.ea, da := r.da
      op := if load then HomeOp.load r.addr (4 * r.count)
            else .store r.addr ((List.range r.count).flatMap fun i => toBytes 4 (data (r.lane + i)).toNat) : Access }
  let own := runs.all fun r => pathOf s.here r.dest == .own
  if (load || own) && (s.forwarded s.cur parts).any (·.isSome) then o.wait s
  else if !load && !own && !(s.entriesOf s.cur).isEmpty then o.wait s
  else match (if load then none else s.ownerFail runs), s.storeFail ops with
    | some r, _ => .trap s { code := cSeg, detail := 3, tval := r.ea }
    | none, some c => .trap s c
    | none, none =>
      if !own then o.start (farChecks ops ++ ops) (s.blockFills ops)
      else if s.heldAny parts then o.wait s
      else match ownAccesses s [] ops with
        | .ok (s2, bs) => fin bs s2
        | .error (some (s2, c)) => .trap s2 c
        | .error none => o.wait s

/-- A vector load or store: the answer of accesses that are complete, or a new start. -/
def laneMem (o : UnitOp) (load : Bool) (reach : State → LaneReach) (data : Nat → BitVec 32)
    (fin : List Byte → State → Res) (s : State) : Res :=
  match (o.going s.me).reply with
  | .trap c => .trap s c
  | .none =>
    match reach s with
    | .trap s c => .trap s c
    | .page s =>
      if o.replay then .keep (s.modMe fun th => th.modFly fun x => { x with hold := .page })
      else .keep (s.park s.cur .page {})
    | .ok s runs => laneAccess o load data fin runs s
  | _ => fin (o.going s.me).got s

end Sys2Proof.Machine
end

