-- ==== Sys2Proof/Machine/Message.lean ====
section
/-! DEFINITION. The message engine: SEND to FWDQ, the inbox, spawn messages and births, the end of a journal entry
(R94 to R97, R293 to R321). -/

namespace Sys2Proof.Machine

/-! ## The inbox (R298, R300, R301) -/

/-- An entry enters the inbox tail and goes to the oldest waiter, if one stands (R300). -/
def State.inboxPut (s : State) (c : Nat) (e : InboxEntry) : State :=
  (s.modCore c fun k => { k with inbox := k.inbox ++ [e] }).bindWaiters c

/-- The entry a thread would dequeue: the oldest that is unbound or bound to it. -/
def inboxFind (t : Nat) (ib : List InboxEntry) : Option InboxEntry :=
  ib.find? fun e => e.bound == none || e.bound == some t

/-- Removes it. -/
def inboxTake (t : Nat) : List InboxEntry → List InboxEntry
  | [] => []
  | e :: es => if e.bound == none || e.bound == some t then es else e :: inboxTake t es

/-- The header of an inbox entry (R301) without V and COUNT. -/
def header (kind panel ch src : Nat) : Word :=
  BitVec.ofNat 64 ((kind % 8) <<< 60 + (panel % 128) <<< 32 + (ch % 256) <<< 24 + src % 65536)

/-- Bit V of a header. -/
def vBit : Word := BitVec.ofNat 64 (2 ^ 63)

/-- Checks 1 and 2 of R297: the refusal code of R299, 0 for none. -/
def State.acceptCode (s : State) (f c : Nat) : Nat :=
  if (s.core c).place.service == .absent then 1 else if !s.holds f c then 2 else 0

/-- What the dequeue of an entry acquires (R191, R302). -/
def State.acquireEntry (s : State) (t : Nat) (e : InboxEntry) : State :=
  let kind := (e.header.extractLsb' 60 3).toNat
  if kind = 0 then s
  else
    let far := if kind = 1 then (e.header.extractLsb' 32 7).toNat != s.panelNo else e.far
    s.acquire t { thread := false, spans := far, clamped := false }

/-- The dequeue of RECV and RECVT. -/
def takeInbox (h d : BitVec 5) (e : InboxEntry) (s : State) : Res :=
  let s1 := s.modCore s.here fun k => { k with inbox := inboxTake s.cur k.inbox, rwait := k.rwait.filter (· != s.cur) }
  let s2 := s1.modMe fun th =>
    ((th.put d.toNat (BitVec.ofNat 64 (ofBytes (e.payload.take 8)))).put (d.toNat + 1)
      (BitVec.ofNat 64 (ofBytes (e.payload.drop 8)))).put h.toNat (e.header ||| vBit)
  .done (s2.acquireEntry s.cur e)

/-- A thread joins the inbox waiters of its core and parks with reason RECV. -/
def recvWait (o : Op) (s : State) : State :=
  let s := s.modCore s.here fun k =>
    { k with rwait := if k.rwait.contains s.cur then k.rwait else k.rwait ++ [s.cur] }
  s.park s.cur .recv o

/-- RECV (R317). -/
def recvBody (h d : BitVec 5) (s : State) : Res :=
  match inboxFind s.cur (s.core s.here).inbox with
  | some e => takeInbox h d e s
  | none => .keep (recvWait {} s)

/-- RECVT (R317): the count is recorded at the first park. While the thread is parked `deadline` is the cycle at which the
count ends, otherwise what is left of it. -/
def recvtBody (a h d : BitVec 5) (s : State) : Res :=
  match inboxFind s.cur (s.core s.here).inbox with
  | some e => takeInbox h d e s
  | none =>
    let o := s.me.op
    if s.g a = 0 || o.deadline = some 0 then
      .done ((s.modCore s.here fun k => { k with rwait := k.rwait.filter (· != s.cur) }).setG h 0)
    else if s.g a = -1 then .keep (recvWait {} s)
    else .keep ((recvWait { deadline := some (s.cycle + o.deadline.getD (s.gn a)) } s).dueOnce (.recvtDeadline s.cur))

/-- PEEK (R318). -/
def State.peek (s : State) : Word :=
  let ib := (s.core s.here).inbox
  let cnt := BitVec.ofNat 64 (ib.length <<< 48)
  match inboxFind s.cur ib with
  | some e => e.header ||| vBit ||| cnt
  | none => cnt

/-! ## SEND and SENDI (R295, R302, R316) -/

/-- Waits for journal room with the payload already read. -/
def holdData (insn : Instr) (bs : List Byte) (s : State) : Res :=
  .keep ((s.park s.cur .mem { insn := some insn, got := bs, reply := .ok }).dueOnce (.accessReply s.cur))

/-- Takes the entry of a message whose payload is known. -/
def sendEntry (insn : Instr) (d : BitVec 5) (w : Word) (rel : Bool) (bs : List Byte) (s : State) : Res :=
  let n := w.toNat
  let far := bitAt n 23 && field n 22 16 != s.panelNo
  let take (s : State) : Res :=
    if !s.journalRoom s.cur 1 then holdData insn bs s
    else
      let dest := field n 15 0
      let e : JEntry := { thread := s.cur, seq := 0, fn := 0,
                          kind := if field n 33 32 = 0 then .inbox (field n 31 24) rel else .spawn (field n 29 24) rel,
                          unit := if far then .panel (field n 22 16) else .tcm dest, addr := dest, report := w,
                          bytes := indexed bs, rel := rel, closed := true }
      let (s1, i, q) := (s.closeYoungest s.cur).takeEntry s.cur e
      .done (s1.setGn d (q * 256 + i))
  if rel then
    match s.checkScope s.cur (implicitScope far) with
    | .error c => .trap s c
    | .ok x => take (s.noteClamp s.cur x)
  else take s

/-- A destination word that R295 calls illegal. -/
def badDest (n : Nat) : Bool :=
  field n 63 34 != 0 || 1 < field n 33 32 || (field n 33 32 == 1 && field n 31 30 != 0) ||
    (!bitAt n 23 && field n 22 16 != 0)

/-- SEND (`mem`) and SENDI (R316). -/
def sendBody (insn : Instr) (word : Half) (mem : Bool) (a b d : BitVec 5) (r : BitVec 1) (s : State) : Res :=
  let w := s.g a
  let n := w.toNat
  let len := if field n 33 32 = 0 then 16 else 64
  if badDest n then illegal word 2 s
  else if !validCore (field n 15 0) || (bitAt n 23 && s.sysPanels ≤ field n 22 16) then raise cSeg w 2 s
  else if mem then
    let ea := s.g b
    if ea.toNat % 8 != 0 then raise cMisalign ea 0 s
    else
      let fin := sendEntry insn d w (r == 1)
      memAccess ea len rightR 1 0 false (loadGo insn ea len true fin) fin s
  else sendEntry insn d w (r == 1) (toBytes len (s.gn b)) s

/-! ## JWAIT, JREAD, FWDQ (R319 to R321) -/

/-- JWAIT (R319). -/
def jwaitBody (insn : Instr) (word : Half) (a d : BitVec 5) (s : State) : Res :=
  let n := s.gn a
  if field n 62 24 != 0 then illegal word 2 s
  else
    let waits := (s.entriesOf s.cur).any fun p =>
      bitAt n 63 || (field n 23 8 + 65536 - p.2.seq % 65536) % 65536 < 32768
    if waits then waitMem insn s else .done (s.setGn d s.me.refusals.length)

/-- The record word of R320. -/
def RefRec.word (r : RefRec) : Nat :=
  2 ^ 63 + (r.code % 16) <<< 59 + (r.kind % 8) <<< 56 + (r.seq % 65536) <<< 40 + r.index % 64

/-- JREAD (R320). -/
def jreadBody (word : Half) (a d : BitVec 5) (s : State) : Res :=
  let n := s.gn a
  if field n 7 6 != 0 || field n 63 10 != 0 then illegal word 2 s
  else match s.me.refusals.find? (fun r => r.index == field n 5 0) with
    | none => .done (s.setG d 0)
    | some r =>
      let v := if bitAt n 8 then r.addr else BitVec.ofNat 64 r.word
      .done ((if bitAt n 9 then s.modMe fun th => { th with refusals := th.refusals.erase r } else s).setG d v)

/-- FWDQ (R321); a record here never lags the panel (DESIGN CHOICE, log entry 78). -/
def State.fwdq (s : State) (n : Nat) : Nat :=
  if field n 63 16 != 0 || !validCore n then 0
  else
    let k := s.core n
    2 ^ 63 + bit (k.place.service == .absent) <<< 21 + bit (s.holds s.me.fn n) <<< 20 + bit k.place.fwd <<< 19 +
      bit k.away <<< 18 + (k.place.band % 4) <<< 16 + k.place.epoch % 65536

/-- SEND (R316). Sends an inbox or spawn message with a payload from memory. -/
def execSend (a : BitVec 5) (b : BitVec 5) (d : BitVec 5) (r : BitVec 1) (s : State) : Out :=
  run { word := 38#6 ++ a ++ b ++ d ++ 0#4 ++ r ++ 0#6, srcs := [a.toNat, b.toNat], dsts := [d.toNat] }
    (sendBody (.send a b d r) (38#6 ++ a ++ b ++ d ++ 0#4 ++ r ++ 0#6) true a b d r) s

/-- SENDI (R316). Sends an inbox or spawn message with a payload from gb. -/
def execSendi (a : BitVec 5) (b : BitVec 5) (d : BitVec 5) (r : BitVec 1) (s : State) : Out :=
  run { word := 38#6 ++ a ++ b ++ d ++ 0#4 ++ r ++ 1#6, srcs := [a.toNat, b.toNat], dsts := [d.toNat] }
    (sendBody (.sendi a b d r) (38#6 ++ a ++ b ++ d ++ 0#4 ++ r ++ 1#6) false a b d r) s

/-- RECV (R317). Dequeues an inbox entry, parking while none is available. -/
def execRecv (h : BitVec 5) (d : BitVec 5) (s : State) : Out :=
  run { word := 38#6 ++ 0#5 ++ h ++ d ++ 0#5 ++ 2#6, dsts := [d.toNat, d.toNat+1, h.toNat] }
    (recvBody h d) s

/-- RECVT (R317). Dequeues an inbox entry with a deadline. -/
def execRecvt (a : BitVec 5) (h : BitVec 5) (d : BitVec 5) (s : State) : Out :=
  run { word := 38#6 ++ a ++ h ++ d ++ 0#5 ++ 3#6, srcs := [a.toNat], dsts := [d.toNat, d.toNat+1, h.toNat] }
    (recvtBody a h d) s

/-- PEEK (R318). Returns the header RECV would deliver, without dequeuing. -/
def execPeek (d : BitVec 5) (s : State) : Out :=
  runG { word := 38#6 ++ 0#10 ++ d ++ 0#5 ++ 4#6, dsts := [d.toNat] } d
    (fun s => s.peek) s

/-- JWAIT (R319). Waits for the thread's journal entries to perform or be refused. -/
def execJwait (a : BitVec 5) (d : BitVec 5) (s : State) : Out :=
  run { word := 38#6 ++ a ++ 0#5 ++ d ++ 0#5 ++ 8#6, srcs := [a.toNat], dsts := [d.toNat] }
    (jwaitBody (.jwait a d) (38#6 ++ a ++ 0#5 ++ d ++ 0#5 ++ 8#6) a d) s

/-- JREAD (R320). Reads and optionally frees a refusal record. -/
def execJread (a : BitVec 5) (d : BitVec 5) (s : State) : Out :=
  run { word := 38#6 ++ a ++ 0#5 ++ d ++ 0#5 ++ 9#6, srcs := [a.toNat], dsts := [d.toNat] }
    (jreadBody (38#6 ++ a ++ 0#5 ++ d ++ 0#5 ++ 9#6) a d) s

/-- FWDQ (R321). Reports the placement of a logical core. -/
def execFwdq (a : BitVec 5) (d : BitVec 5) (s : State) : Out :=
  runG { word := 38#6 ++ a ++ 0#5 ++ d ++ 0#5 ++ 12#6, srcs := [a.toNat], dsts := [d.toNat] } d
    (fun s => BitVec.ofNat 64 (s.fwdq (s.gn a))) s

/-! ## Births (R38, R94 to R97, R453) -/

/-- A doubleword of a block of bytes. -/
def dword (bs : List Byte) (i : Nat) : Nat := ofBytes ((bs.drop (8 * i)).take 8)

/-- The segment registers of a template block (R453). -/
def tmplSegs (bs : List Byte) : Vector Seg 8 :=
  ⟨((List.range 8).map fun i =>
      let g : Seg := {}
      ((g.write 0 (BitVec.ofNat 64 (dword bs i))).write 1 (BitVec.ofNat 64 (dword bs (8 + i)))).write 2
        (BitVec.ofNat 64 (dword bs (16 + i)))).toArray, by simp⟩

/-- A thread as a function's template starts it (R96): the launch it belongs to gives ORIGIN, LAUNCH, SG and PAIR; the
vectors of levels L and P are the lease's and the service die's. -/
def State.newThread (s : State) (l : Launch) (c : Nat) (pc : Word) : Thread :=
  let f := s.fn l.fn
  let t := l.tmpl
  { pc := pc, segs := tmplSegs t, stvec := BitVec.ofNat 64 (dword t 24), rtimeout := BitVec.ofNat 64 (dword t 26)
    ltvec := (s.lse f.lease).ltvec, ptvec := s.service.ptvec
    tsr := { sg := ((l.bytes.getD 13 0).getLsbD 3), pair := ((l.bytes.getD 13 0).getLsbD 2) }
    home := c, origin := l.origin, launch := l.number, fn := l.fn, lease := f.lease }

/-- The launch that holds a core's quad. -/
def State.launchAt (s : State) (c : Nat) : Option Launch :=
  match (s.quad (quadOf c)).hold with
  | .held f n _ => s.running.find? fun l => l.fn == f && l.number == n
  | _ => none

/-- Handler-table entry of a core: its effective address, or the refusal code of R297. -/
def State.handler (s : State) (c k : Nat) : Except Nat Word :=
  let a := sramAddr c 0 (((s.core c).htabBase.toNat <<< 9) + 8 * (k % 64))
  if !(s.core c).htabEn then .error 4
  else if s.poison.contains a then .error 3
  else if s.rd64 a = 0 then .error 4
  else .ok (BitVec.ofNat 64 (s.rd64 a))

/-- Places a spawned thread in a slot (R96): g1 the source core, g8 to g15 the payload. With `acq` its birth performs the
acquire effect of a message that crossed panels (R302). -/
def State.spawnInto (s : State) (c slot src : Nat) (pc : Word) (payload : List Byte) (acq : Bool) : State :=
  match s.launchAt c with
  | none => s
  | some l =>
    let th := (s.newThread l c pc).put 1 (BitVec.ofNat 64 src)
    let th := (List.range 8).foldl (fun th i => th.put (8 + i) (BitVec.ofNat 64 (dword payload i))) th
    let s := s.birth (c * 16 + slot) th
    let s := if th.tsr.pair then s.birth (c * 16 + slot + 8) th else s
    if acq then s.acquire (c * 16 + slot) { thread := false, spans := true, clamped := false } else s

/-- Address of entry `i` of a core's spill queue (R95). -/
def State.spillAddr (s : State) (c i : Nat) : Nat :=
  sramAddr c 0 (((s.core c).spillBase.toNat <<< 7 + 128 * i) % 2 ^ 18)

/-- A spill entry's bytes (R95). -/
def spillBytes (src k : Nat) (payload : List Byte) : List Byte :=
  toBytes 2 src ++ [BitVec.ofNat 8 (k % 64)] ++ List.replicate 5 0 ++ payload ++ List.replicate 56 0

/-- The launch of a core is paired. -/
def State.pairedAt (s : State) (c : Nat) : Bool :=
  match s.launchAt c with
  | some l => (l.bytes.getD 13 0).getLsbD 2
  | none => false

/-- A spawn message at its destination (R297): the code of its refusal, or 0 with the thread born or spilled. -/
def State.spawnAt (s : State) (f c k src : Nat) (payload : List Byte) (acq : Bool) : State × Nat :=
  match s.acceptCode f c with
  | 0 =>
    match s.handler c k with
    | .error 3 => (s.quadError c 0x02 0 (BitVec.ofNat 64 (((s.core c).htabBase.toNat <<< 9) + 8 * (k % 64) + c <<< 40)), 3)
    | .error n => (s, n)
    | .ok pc =>
      let q := s.core c
      match (if q.inbound = [] && q.spillCount = 0 then s.freeSlot c (s.pairedAt c) else none) with
      | some i => (s.spawnInto c i src pc payload acq, 0)
      | none =>
        if q.spillSize != 0 && q.spillCount < 2 ^ q.spillSize then
          let s := s.wr (s.spillAddr c ((q.spillHead + q.spillCount) % 2 ^ q.spillSize)) (spillBytes src k payload)
          let a := s.spillAddr c ((q.spillHead + q.spillCount) % 2 ^ q.spillSize)
          let s := { s with poison := s.poison.filter fun w => w < a || a + 128 ≤ w }
          ((s.modCore c fun k => { k with spillCount := k.spillCount + 1 }).dueOnce (.slotFill c), 0)
        else (s, 5)
  | n => (s, n)

/-- An inbox message at its destination (R298). -/
def State.inboxAt (s : State) (f c : Nat) (e : InboxEntry) : State × Nat :=
  match s.acceptCode f c with
  | 0 => if 32 ≤ (s.core c).inbox.length then (s, 6) else (s.inboxPut c e, 0)
  | n => (s, n)

/-! ## Traffic that meets a moved context (R311, R313) -/

/-- Traffic joins what a core's forwarding entry holds; arrivals are counted one by one. -/
def Core.hold (k : Core) (ev : Instr) : Core :=
  let twice := match ev with
    | .arrivalAdd _ _ => true
    | _ => false
  { k with place := { k.place with held :=
      if !twice && k.place.held.contains ev then k.place.held else k.place.held ++ [ev] } }

/-- What an item's way through a forwarding entry adds to its path is charged to the function of the core that caused it. How
many flit hops and die edges that is, the spec does not state: hops are counted between logical cores (R412, R480; log
entry 83). -/
def State.chargeDetour (s : State) (payer : Option Nat) : State :=
  match payer.bind fun c => (s.holder (quadOf c)).map fun f => (quadOf c, f) with
  | none => s
  | some (q, f) =>
    let (h, s) := s.unstated
    let (x, s) := s.unstated
    (s.charge q f 18 (h % 2 ^ 16)).charge q f 19 (x % 2 ^ 16)

/-- Traffic `ev` of core `src` reaches a core: held in order of arrival while the context is away or, if it came by the old
site, while earlier traffic is held (R311, R312); true when it may act now. Core `payer` caused it. -/
def State.gate (s : State) (c : Nat) (ev : Instr) (src : Option Nat := none) (payer : Option Nat := src) : Bool × State :=
  let k := s.core c
  let add (s : State) : State := (s.modCore c fun k => k.hold ev).dueOnce (.forwardDeliver c)
  if k.away then (false, add s)
  else match k.place.held with
    | [] => (true, s)
    | h :: r =>
      if h = ev then
        (true, (s.modCore c fun k => { k with place := { k.place with held := r, offered := false } }).chargeDetour payer)
      else if src.any k.place.switched.contains then (true, s)
      else (false, add s)

/-- Traffic to a unit passes the forwarding entry of its core, if the unit moves with a context (R311). -/
def State.gateUnit (s : State) (d : Dest) (ev : Instr) (src : Option Nat := none) : Bool × State :=
  match contextOf d with
  | some c => s.gate c ev src
  | none => (true, s)

/-! ## The end of an entry (R296, R303, R305, R306) -/

/-- Frees an entry's index. -/
def State.freeEntry (s : State) (c i : Nat) : State := s.modCore c fun k => { k with journal := smDrop k.journal i }

/-- An acknowledgement or reply is discarded as stale (R304). -/
def State.stale (s : State) (c : Nat) : State := s.modCore c fun k => { k with stalereply := k.stalereply + 1 }

/-- A reply that matches no request is discarded; the generation it carries is answered (R307, R309). -/
def State.staleReply (s : State) (t gen : Nat) : State :=
  (s.modThr t fun th => { th with unanswered := th.unanswered.filter fun u => u.1 != gen }).stale (coreOf t)

/-- Code of an entry's kind in a refusal record (R320). -/
def JKind.code : JKind → Nat
  | .st => 0
  | .stl => 1
  | .stf => 2
  | .inbox _ _ => 3
  | .spawn _ _ => 4

/-- A refusal of an entry is recorded, and the entry freed (R303, R306). -/
def State.refuseEntry (s : State) (c i : Nat) (e : JEntry) (code : Nat) : State :=
  let s := s.freeEntry c i
  if e.killed then s.fnEvent e.fn (contextEvent 0x40 (c <<< 32 + (e.seq % 65536) <<< 16 + i))
  else
    let r : RefRec := { code := code, kind := e.kind.code, seq := e.seq, index := i, addr := e.report }
    (s.modThr e.thread fun th =>
      if th.refusals.length < 4 then { th with refusals := th.refusals ++ [r] }
      else { th with refusals := th.refusals.drop 1 ++ [r], rovf := true }).queueEvent e.thread
        { cls := 1, id := (e.seq % 65536) <<< 16 + i }

/-- An entry of another panel's core: the core's number there, with the panel (log entry 8). -/
def foreignCore (p c : Nat) : Nat := 2 ^ 24 * (p + 1) + c

/-- An answer to a core's entries reaches it: held while its context is away (R311). -/
def State.toCore (s : State) (c : Nat) (ev : Instr) (act : State → State) : State :=
  let (now, s) := s.gate c ev none (some c)
  if now then act s else s

/-- JOURNAL_ACK (R296). An acknowledgement retires a journal entry. -/
def execJournalAck (c i q : Nat) (s : State) : Out :=
  eventIf (validCore c || 2 ^ 24 ≤ c)
    (if 2 ^ 24 ≤ c then s.sendFrame (c / 2 ^ 24 - 1) 0 (.ack (c % 2 ^ 24) i q 0) 2
     else s.toCore c (.journalAck c i q) fun s => match s.entryAt? c i q with
       | some e => if e.performed then s.freeEntry c i else s.stale c
       | none => s.stale c)

/-- JOURNAL_REFUSAL (R303). A refusal of a journal entry is recorded and a class 1 event queued. -/
def execJournalRefusal (c i q : Nat) (s : State) : Out :=
  eventIf (validCore c)
    (s.toCore c (.journalRefusal c i q) fun s => match s.entryAt? c i q with
       | some e => if e.refused != 0 then s.refuseEntry c i e e.refused else s.stale c
       | none => s.stale c)

/-- JOURNAL_EXPIRED (R305). An entry unacknowledged for the fabric lifetime after it left its core is refused with
EXPIRED. -/
def execJournalExpired (c i q : Nat) (s : State) : Out :=
  eventIf (validCore c)
    (match s.entryAt? c i q with
     | some e => if !e.left || s.cycle < e.since + 6000000 || (s.core c).away then s.defer (.journalExpired c i q)
                 else s.refuseEntry c i e 8
     | none => s)

/-- Flits of an entry and its acknowledgement (R293). -/
def JEntry.flits (e : JEntry) : Nat := 2 + (e.bytes.length + 15) / 16

/-- Sends an entry to another panel; there it is as old as it is here. -/
def State.sendAway (s : State) (c i p : Nat) (e : JEntry) (beats : Nat) : State :=
  s.sendFrame p e.fn (.entry c i { e with left := true, since := s.cycle }) beats

/-- Sends an entry to its destination; then what it does there, with the code of a refusal. -/
def State.deliverEntry (s : State) (c i : Nat) (e : JEntry) (ev : Instr) (dest : Nat) (act : State → State × Nat) :
    State :=
  if !e.unserved then s
  else match e.unit with
    | .panel p =>
      if e.left then s
      else match s.entryLeaves c i e fun s => s.charge (quadOf c) e.fn 20 2 with
        | (false, s) => s.defer ev
        | (true, s) => s.sendAway c i p e 2
    | _ =>
      match s.entryLeaves c i e fun s => s.chargePacket c e.fn dest e.flits 10 0 false with
      | (false, s) => s.defer ev
      | (true, s) =>
        let (ok, s) := s.gate dest ev (some c)
        if !ok then s
        else
          let (s, code) := act s
          if code = 0 then s.entryDone c i e.seq else s.entryRefused c i e.seq code

/-- Bytes of an entry in order. -/
def JEntry.payload (e : JEntry) : List Byte := e.bytes.map (·.2)

/-- INBOX_MESSAGE (R298). An inbox message or completion is accepted into the inbox or refused. -/
def execInboxMessage (c i q : Nat) (s : State) : Out :=
  eventIf (validCore c)
    (match s.entryAt? c i q with
     | some e =>
       let (ch, rel) := match e.kind with
         | .inbox ch rel => (ch, rel)
         | _ => (0, false)
       s.deliverEntry c i e (.inboxMessage c i q) e.addr fun s =>
         s.inboxAt e.fn e.addr { header := header (bit rel) s.panelNo ch c, payload := e.payload }
     | none => s)

/-- SPAWN_MESSAGE (R297). An arriving spawn message is accepted into a slot or spill queue, or refused. -/
def execSpawnMessage (c i q : Nat) (s : State) : Out :=
  eventIf (validCore c)
    (match s.entryAt? c i q with
     | some e =>
       let k := match e.kind with
         | .spawn k _ => k
         | _ => 0
       s.deliverEntry c i e (.spawnMessage c i q) e.addr fun s => s.spawnAt e.fn e.addr k c e.payload false
     | none => s)

/-- RECVT_DEADLINE (R317). A RECVT count reaches zero and the thread completes with V = 0. -/
def execRecvtDeadline (t : Nat) (s : State) : Out :=
  eventIf (validThread t)
    (match (s.thr t).st, (s.thr t).op.deadline with
     | .parked .recv, some n =>
       if s.cycle < n || s.held t then s.defer (.recvtDeadline t)
       else (s.modCore (coreOf t) fun k => { k with rwait := k.rwait.filter (· != t) }).modThr t fun th =>
         { th with st := .run, op := { th.op with deadline := some 0 } }
     | _, _ => s)

/-- Held traffic that is still under way is offered in its turn; what has ended meanwhile, its entry expired or its item
discarded, leaves the queue. -/
def State.offerHeld (s : State) (c : Nat) (h : Instr) (r : List Instr) : State :=
  let p := (s.core c).place
  if s.agenda.contains h then s
  else if p.offered then s.modCore c fun k => { k with place := { k.place with held := r, offered := false } }
  else (s.due h).modCore c fun k => { k with place := { k.place with offered := true } }

/-- FORWARD_DELIVER (R311). Held traffic is delivered in order to the new site once the context runs. -/
def execForwardDeliver (c : Nat) (s : State) : Out :=
  eventIf (validCore c)
    (match (s.core c).place.held with
     | [] => s
     | h :: r => if (s.core c).away then s.defer (.forwardDeliver c) else (s.offerHeld c h r).defer (.forwardDeliver c))

end Sys2Proof.Machine
end

