-- ==== Sys2Proof/Machine/Matrix.lean ====
section
/-! DEFINITION. The matrix engine: major 0x24, its unit and its events (R229 to R264). -/

namespace Sys2Proof.Machine

/-! ## Rings (R233 to R237) -/

/-- A ring of a core. -/
def Core.ring (k : Core) (r : Nat) : Ring := vget {} k.rings (r % 4)

/-- Changes a ring. -/
def Core.modRing (k : Core) (r : Nat) (f : Ring → Ring) : Core := { k with rings := vmod {} k.rings (r % 4) f }

/-- The tile of a slot. -/
def Ring.tile (r : Ring) (slot : Nat) : Nat := (r.first + slot) % 16

/-- EMPTY slots. -/
def Ring.empties (r : Ring) : Nat := r.len - r.nl - r.nf - r.nh

/-- Slots at PI are claimed (R234). -/
def Ring.claim (r : Ring) (n : Nat) : Ring :=
  { r with pi := (r.pi + n) % r.len, pend := r.pend ++ List.replicate n false }

/-- CLAIMED slots whose fill has ended become FULL, in the order of their claims (R234). -/
def Ring.settle (r : Ring) : Ring :=
  let n := (r.pend.takeWhile id).length
  { r with pend := r.pend.drop n, nf := r.nf + n }

/-- The fill of `n` claimed slots from `slot` on has ended. -/
def Ring.filled (r : Ring) (slot n : Nat) : Ring :=
  let k := (slot + r.len - (r.ci + r.nf) % r.len) % r.len
  Ring.settle { r with pend := ((List.range r.pend.length).zip r.pend).map fun p => p.2 || (k ≤ p.1 && p.1 < k + n) }

/-- Slots at PI are claimed and filled at once. -/
def Ring.fill (r : Ring) (n : Nat) : Ring := (r.claim n).filled r.pi n

/-- The tiles of CLAIMED slots whose fill has not ended (R243). -/
def Ring.open (r : Ring) : List Nat :=
  ((List.range r.pend.length).filter fun i => !(r.pend[i]?.getD true)).map fun i => r.tile ((r.ci + r.nf + i) % r.len)

/-- A tile is being filled (R243). -/
def Core.filling (k : Core) (t : Nat) : Bool := k.rings.toList.any fun r => r.open.contains t

/-- The slots at PI are kept for the TLD that reads rows for them: it claims them when every row has come (R252, R254). -/
def Core.reserved (k : Core) (r : Nat) : Bool :=
  k.munit.any fun o => o.started && (match o.insn with
    | .tldRing _ _ n => n.toNat % 4 == r % 4
    | _ => false)

/-- Slots that a producer may claim (R235). -/
def Core.empties (k : Core) (r : Nat) : Nat := if k.reserved r then 0 else (k.ring r).empties

/-- Slots at CI are consumed. -/
def Ring.consume (r : Ring) (n : Nat) : Ring := { r with ci := (r.ci + n) % r.len, nf := r.nf - n, nh := r.nh + n }

/-- The neighbour that a slot consumed now is forwarded to (R237). -/
def Core.forwardDest (k : Core) (c : Nat) (fwd : Nat) : Option Nat :=
  let m := k.mrect.toNat
  if !bitAt m 32 then none
  else if fwd = 1 && xOf c + 1 ≤ field m 23 16 then some (coreAt (xOf c + 1) (yOf c))
  else if fwd = 2 && yOf c + 1 ≤ field m 31 24 then some (coreAt (xOf c) (yOf c + 1))
  else none

/-- The oldest held slot of a ring. -/
def Core.oldest (k : Core) (r : Nat) : Option Forward := k.forwards.find? fun f => f.ring == r

/-- Changes the oldest held slot of a ring. -/
def modOldest (r : Nat) (g : Forward → Option Forward) : List Forward → List Forward
  | [] => []
  | f :: fs => if f.ring = r then (g f).toList ++ fs else f :: modOldest r g fs

/-- Held slots that need no forward, or whose forward has ended, become EMPTY in order. -/
def Core.release (r : Nat) : Nat → Core → Core
  | 0, k => k
  | n + 1, k =>
    match k.oldest r with
    | none => k
    | some f =>
      if f.dest = none || f.phase = 2 then
        Core.release r n ({ k with forwards := modOldest r (fun _ => none) k.forwards }.modRing r fun g =>
          { g with fi := (g.fi + 1) % g.len, nh := g.nh - 1 })
      else k

/-- Arrivals that wait for a core's rings are offered again. -/
def State.offer (s : State) (c : Nat) : State := if (s.core c).arrivals = [] then s else s.dueOnce (.tileArrival c)

/-- Releases what may be released, and sends the oldest slot that is left. -/
def State.settleHeld (s : State) (c r : Nat) : State :=
  let s := (s.modCore c fun k => k.release r (k.forwards.length + 1)).offer c
  match (s.core c).oldest r with
  | some f => if f.phase = 0 then s.dueOnce (.forwardAccept c r) else s
  | none => s

/-- Consumes slots of a ring and hands them to forwarding (R236, R237). -/
def State.consumeSlots (s : State) (c r n : Nat) : State :=
  (s.modCore c fun k =>
    let d := k.forwardDest c (k.ring r).fwd
    { k.modRing r (fun g => g.consume n) with
      forwards := k.forwards ++ List.replicate n { ring := r, dest := d } }).settleHeld c r

/-! ## The unit (R240) -/

/-- The unit is free of an instruction and takes up the next. -/
def UnitOp.leave (o : UnitOp) (s : State) : State :=
  let c := coreOf o.thread
  (s.modCore c fun k => match k.munit with
    | some u => if u.thread = o.thread && u.replay == o.replay then { k with munit := none, morphan := none } else k
    | none => k).dueOnce (.matrixUnitStart c) |>.offer c

/-- The unit executes an instruction whose thread was killed (R249). -/
def State.orphaned (s : State) : Bool := (s.core s.here).morphan.isSome

/-- Keeps what the unit has of an instruction. -/
def UnitOp.keep (o : UnitOp) (s : State) : State :=
  s.modCore s.here fun k => { k with munit := k.munit.map fun u => if u.thread = o.thread then o else u }

/-- The row accesses of an instruction leave the unit: by its thread, its sequencer, or the unit itself after a kill; the
thread stays parked with reason ENGINE (R240). -/
def UnitOp.rows (o : UnitOp) (ops : List Access) (s : State) (got : List Byte) : Res :=
  let o := { o with started := true }
  let s := o.keep s
  if s.orphaned then
    .keep ((s.modMe fun th => { th with op := { insn := some o.insn, todo := ops, got := got } }).nextAccess s.cur)
  else o.start ops s got

/-- A unit instruction waits inside the unit. -/
def UnitOp.stay (o : UnitOp) (s : State) : Res :=
  if o.replay then .keep s
  else .keep ((s.park s.cur .engine { insn := some o.insn, phase := 2 }).dueOnce (.matrixUnitStart s.here))

/-- A page miss of a unit instruction: it leaves the unit and is issued again (R160); after a kill it waits in the unit. -/
def UnitOp.page (o : UnitOp) (s : State) : Res :=
  if s.orphaned then .keep s
  else
    let s := o.leave s
    if o.replay then .keep (s.modMe fun th => th.modFly fun x => { x with hold := .page })
    else .keep (s.park s.cur .page {})

/-! ## TLD and TST (R254, R255) -/

/-- What a list of row accesses comes to. -/
inductive RowReach where
  | ok (s : State) (l : List Access)
  | trap (s : State) (c : Cause)
  | page (s : State)

/-- Parts of one access; a store takes its bytes in order. -/
def rowParts (ea da : Word) : List (Dest × Nat × Nat) → Option (List Byte) → Nat → List Access
  | [], _, _ => []
  | (d, a, n) :: ps, bs, off =>
    { dest := d, ea := ea, da := da + BitVec.ofNat 64 off
      op := match bs with
        | none => .load a n
        | some b => .store a ((b.drop off).take n) } :: rowParts ea da ps bs (off + n)

/-- Every row is checked before any is read or written. -/
def State.reachRows (s : State) (replay : Bool) : List ((Word × Nat × Nat) × Option (List Byte)) → List Access → RowReach
  | [], acc => .ok s acc
  | ((ea, n, al), bs) :: rs, acc =>
    match s.reach s.cur ea n (if bs.isSome then rightW else rightR) al (bit bs.isSome) false replay with
    | .ok s2 da parts => s2.reachRows replay rs (acc ++ rowParts ea da parts bs 0)
    | .trap s2 c => .trap s2 c
    | .page s2 => .page s2

/-- The owner check of the targets of rows (R156). -/
def State.rowOwner (s : State) (l : List Access) : Option Access :=
  l.find? fun a => s.level < 2 && !s.ownerOk s.me.fn a.dest a.op.addr

/-- What the accesses of rows come to: done with the bytes, or an end. Nothing is written before every check has passed
(R252); rows outside the core's own TCM and scratchpad are performed one after the other (R242). -/
def rowAccesses (o : UnitOp) (got : List Byte) (l : List Access) (fin : List Byte → State → Res) (s : State) : Res :=
  let own := l.all fun a => pathOf s.here a.dest == .own
  if !own && !(s.entriesOf s.cur).isEmpty then o.stay s
  else match s.rowOwner l, s.storeFail l with
    | some a, _ => .trap s { code := cSeg, detail := 3, tval := a.ea }
    | none, some c => .trap s c
    | none, none =>
      if !own then o.rows (farChecks l ++ l) (s.blockFills l) got
      else match ownAccesses s got l with
        | .ok (s2, bs) => fin bs s2
        | .error (some (s2, c)) => .trap s2 c
        | .error none => o.stay s

/-- Reads rows until nothing is needed; a CB8 block's place follows from the one before it (R254). -/
def tldGo (o : UnitOp) (g : Geom) (fin : List Byte → State → Res) : Nat → List Byte → State → Res
  | 0, got, s => fin got s
  | n + 1, got, s =>
    match g.need o.a o.b got with
    | .error c => .trap s c
    | .ok [] => fin got s
    | .ok rs =>
      match s.reachRows o.replay (rs.map fun r => (r, none)) [] with
      | .trap s2 c => .trap s2 c
      | .page s2 => o.page s2
      | .ok s2 l => rowAccesses o got l (fun bs s => tldGo o g fin n bs s) s2

/-- TLD into the tile `t`, or into the next slots of the ring `ring` (R254); the descriptor is the one that stood when its
first row was asked for, and a ring's slots are claimed when every row has come (R252). -/
def tldBody (o : UnitOp) (ring : Option Nat) (t : Nat) (s : State) : Res :=
  let k := s.core s.here
  let rg := k.ring (ring.getD 0)
  let t := if ring.isSome then rg.tile rg.pi else t
  let t2 := if ring.isSome then rg.tile ((rg.pi + 1) % max 1 rg.len) else t + 1
  let o := if o.started then o else { o with geom := (k.tile t).geom }
  let g := geomOf o.geom
  if ring.isSome && rg.len = 0 then illegal o.word 2 s
  else if !g.okAt t || (g.sp != 0 && g.scaled && g.cstr % 8 != 0) then illegal o.word 2 s
  else if ring.isSome && g.pair && t2 != t + 1 then illegal o.word 2 s
  else if ring.isSome && rg.empties < g.slots then o.stay s
  else
    let fin (bs : List Byte) (s : State) : Res :=
      match g.rows o.b 32 0 o.a bs with
      | .error c => .trap s c
      | .ok rs => .done (s.modCore s.here fun k =>
          let k := k.putRows t t2 g.pair rs
          match ring with
          | some r => k.modRing r fun x => x.fill g.slots
          | none => k)
    match (o.going s.me).reply with
    | .trap c => .trap s c
    | .none => tldGo o g fin 70 [] s
    | _ => tldGo o g fin 70 (o.going s.me).got s

/-- The bytes that TST writes for a row, with their places. -/
def Core.rowStores (k : Core) (t : Nat) (a b : Word) (i : Nat) : List ((Word × Nat × Nat) × Option (List Byte)) :=
  let x := k.tile t
  let g := x.desc
  let data := (k.rowOf t g.pair i).take (if g.fmt = 12 then 64 else g.rowBytes)
  let vals := if g.sp = 0 then [data, [x.scale.getD i 127]]
    else [data, toBytes 8 (x.mask.getD i 0).toNat, [x.scale.getD i 127]]
  (g.rowAccess a b i).zip (vals.map some)

/-- TST (R255). -/
def tstBody (o : UnitOp) (t : Nat) (s : State) : Res :=
  let k := s.core s.here
  let g := (k.tile t).desc
  if !g.okAt t || (g.sp != 0 && g.scaled && g.cstr % 8 != 0) then illegal o.word 2 s
  else if (k.tile t).pois then raise 0x14 0 t s
  else if g.pair && (k.tile (t + 1)).pois then raise 0x14 0 (t + 1) s
  else match (o.going s.me).reply with
    | .trap c => .trap s c
    | .none =>
      match s.reachRows o.replay ((List.range (g.nrm1 + 1)).flatMap (k.rowStores t o.a o.b)) [] with
      | .trap s2 c => .trap s2 c
      | .page s2 => o.page s2
      | .ok s2 l => rowAccesses o [] l (fun _ s => .done s) s2
    | _ => .done s

/-! ## TZERO, TMOV, TTRANS (R256) -/

/-- TZERO. -/
def tzeroBody (word : Half) (d : Nat) (s : State) : Res :=
  let g := ((s.core s.here).tile d).desc
  if !g.ok then illegal word 2 s
  else .done (s.modCore s.here fun k => k.modTile d fun x =>
    ({ x with data := List.replicate 2048 0, scale := List.replicate 32 127
              mask := List.replicate 32 (lowBits g.n) } : Tile).setPois false)

/-- TMOV. -/
def tmovBody (word : Half) (a d : Nat) (s : State) : Res :=
  let x := (s.core s.here).tile a
  if !x.desc.ok then illegal word 2 s
  else .done (s.modCore s.here fun k => k.modTile d fun y => if a = d then y else y.take x)

/-- The data of a transposed tile, in elements of `w` bytes: 8-bit tiles by halves, 16-bit tiles within themselves. -/
def transposed (w : Nat) (data : List Byte) : List Byte :=
  (List.range 32).flatMap fun i => (List.range 64).map fun b =>
    if w = 1 then data.getD (64 * (b % 32) + (b / 32) * 32 + i) 0
    else data.getD (64 * (b / 2) + 2 * i + b % 2) 0

/-- TTRANS. -/
def ttransBody (word : Half) (a d : Nat) (s : State) : Res :=
  let x := (s.core s.here).tile a
  let f := x.desc.fmt
  if x.desc.sp != 0 || !(([0, 1, 5, 6, 7, 8] : List Nat).contains f) then illegal word 2 s
  else
    let y : Tile :=
      { x with data := transposed (fmtWidth f / 8) x.data, scale := List.replicate 32 127
               mask := List.replicate 32 (BitVec.allOnes 64)
               geom := BitVec.ofNat 64 (setField (setField x.geom.toNat 23 19 31) 18 13 63) }
    .done (s.modCore s.here fun k => k.modTile d fun z => z.take y)

/-! ## The accumulator (R238, R239, R244 to R246, R253, R257, R259) -/

/-- AFMT of an ACCG value. -/
def afmtOf (g : Word) : Nat := field g.toNat 35 32

/-- Canonical address of the sub-tile that an ACCG value names on a core, which is its domain address too. -/
def accAt (c : Nat) (g : Word) : Nat := sramAddr c 0 (field g.toNat 17 12 * 4096)

/-- AFMT of a core. -/
def Core.afmt (k : Core) : Nat := afmtOf k.accg

/-- Canonical address of a core's sub-tile. -/
def State.accAddr (s : State) (c : Nat) : Nat := accAt c (s.core c).accg

/-- The first poisoned word of the sub-tile at an address. -/
def State.subTileBad (s : State) (a : Nat) : Option Nat :=
  if s.poisoned a 4096 then (wordsOf a 4096).find? s.poison.contains else none

/-- The first poisoned word of a core's sub-tile. -/
def State.accBad (s : State) (c : Nat) : Option Nat := s.subTileBad (s.accAddr c)

/-- Writes the 1,024 elements of the sub-tile at an address; they are stores like others to a watch (R359). -/
def State.putAcc (s : State) (a : Nat) (bs : List Byte) : State :=
  let s := s.wr a bs
  (if s.poison = [] then s else { s with poison := s.poison.filter fun w => w < a || a + 4096 ≤ w }).watchHit a 4096

/-- A record of CAUSE 3 or 4 exists (R246). -/
def Core.stopped (k : Core) : Bool := k.mrec.v && (k.mrec.cause == 3 || k.mrec.cause == 4)

/-- Accepts (R244): `afmt` is the operation's, `sp` says whether B must be sparse, `fmts` are the formats of this run's
first chunk. -/
def Core.accepts (k : Core) (afmt ta tb : Nat) (sp : Option Bool) (pfx : Option (BitVec 26)) (fmts : Option (Nat × Nat)) :
    Bool :=
  let a := (k.tile ta).desc
  let b := (k.tile tb).desc
  let want := match pfx with
    | some p => (pfxA p, pfxB p)
    | none => fmts.getD (a.fmt, b.fmt)
  a.okAt ta && b.okAt tb && (a.fmt, b.fmt) == want && intOperand a.fmt == intOperand b.fmt &&
    afmt == (if intOperand a.fmt then 3 else 4) && a.sp == 0 &&
    (match sp with
     | none => true
     | some x => x == (b.sp != 0))

/-- Destination format of the final rounding (R253). -/
def accDest (pfx : Option (BitVec 26)) : Nat :=
  match pfx with
  | some p => if pfxD p = 3 then 4 else pfxD p
  | none => 4

/-- Charges a chunk by its widest operand and its sparsity (R409). -/
def State.chargeChunk (s : State) (c f ta tb : Nat) : State :=
  let a := ((s.core c).tile ta).desc
  let b := ((s.core c).tile tb).desc
  let w := max (fmtWidth a.fmt) (fmtWidth b.fmt)
  s.chargePart (quadOf c) f (if w = 4 then 4 else if w = 8 then 5 else 6) (if b.sp = 0 then 64 else max b.n 16) 64

/-- A chunk is a candidate of the trier (R389, R391). -/
def State.chunkCandidate (s : State) (t c ta tb : Nat) (pfx : Option (BitVec 26)) : State :=
  s.candidate (quadOf c) (tagOf pfx) (chunkRecord (s.core c) t (quadIdx c) ta tb)

/-- TMMA (R257): an uncorrectable word of the accumulator raises MEM_UE and leaves no record (log entry 79). -/
def tmmaBody (o : UnitOp) (ta tb : Nat) (s : State) : Res :=
  let c := s.here
  let k := s.core c
  let pa := (k.tile ta).desc.pair
  let pb := (k.tile tb).desc.pair
  if k.stopped || !k.accepts k.afmt ta tb none o.pfx none then illegal o.word 2 s
  else match ([ta] ++ (if pa then [ta + 1] else []) ++ [tb] ++ (if pb then [tb + 1] else [])).find?
      (fun t => (k.tile t).pois) with
    | some t => raise 0x14 0 t s
    | none =>
      match s.accBad c with
      | some w => .trap (s.recordUe w (BitVec.ofNat 64 w)) { code := cMemUe, tval := BitVec.ofNat 64 w }
      | none =>
        let int := intOperand (k.tile ta).desc.fmt
        let (xs, fl) := addChunks k ta tb int o.sat (loadAccs k.afmt (s.rd (s.accAddr c) 4096))
        let (bs, f2, l) := storeAccs (accDest o.pfx) (o.mode s.me) o.sat xs s.me.rndlfsr
        let s := (s.chargeChunk c s.me.fn ta tb).chunkCandidate s.cur c ta tb o.pfx
        .done (((s.putAcc (s.accAddr c) bs).modMe fun th => { th with rndlfsr := l }).raise s.cur (fl ||| f2))

/-- TMMAS and TMMASP take the unit for a multi-chunk operation (R244, R246, R258). -/
def tmmasBody (o : UnitOp) (sp : Bool) (ra rb : Nat) (s : State) : Res :=
  let c := s.here
  let k := s.core c
  match (o.going s.me).reply with
  | .trap e => .trap s e
  | .none =>
    if ra = rb || (k.ring ra).len = 0 || (k.ring rb).len = 0 || !(k.afmt == 3 || k.afmt == 4) ||
        (k.stopped && !(k.mrec.ra == ra && k.mrec.rb == rb && k.mrec.sparse == sp)) then illegal o.word 2 s
    else
      let m : MatOp := { op := o, chunk := if k.mrec.v then k.mrec.chunk else 0, fn := s.me.fn, accg := k.accg,
                         mode := o.mode s.me, sat := o.sat, lfsr := s.me.rndlfsr }
      let w : Op := { insn := some o.insn, phase := 2 }
      let s := s.modCore c fun k => { k with munit := none, mop := some m, accPois := if k.mrec.v then false else k.accPois
                                             mrec := {} }
      let s := s.dueOnce (.tmmasChunk c)
      if o.replay then .keep (s.modMe fun th => th.modFly fun x => { x with op := w })
      else .keep (s.park s.cur .engine w)
  | _ => .done s

/-- TACCZ (R259). -/
def tacczBody (word : Half) (s : State) : Res :=
  let c := s.here
  if (s.core c).stopped then illegal word 2 s
  else .done ((s.putAcc (s.accAddr c) (List.replicate 4096 0)).modCore c fun k => { k with accPois := false })

/-- TACCR (R259). -/
def taccrBody (o : UnitOp) (d h : Nat) (s : State) : Res :=
  let c := s.here
  let k := s.core c
  let x := k.tile d
  let f := x.desc.fmt
  let w := fmtWidth f
  let src := k.afmt
  let bad := match o.pfx with
    | some p => pfxA p != src || pfxD p != f
    | none => false
  if !(src == 3 || src == 4) || !x.desc.okAt d || (w == 16 && d % 2 == 1) ||
      !(([0, 1, 5, 6, 7, 8, 9, 13] : List Nat).contains f) || bad then illegal o.word 2 s
  else
    let es := chunksOf 4 1024 (s.rd (s.accAddr c) 4096)
    let mode := o.mode s.me
    let one (i z : Nat) : Option (Nat × Flags) := some (convertBits src f mode o.sat z (es.getD i 0))
    let (vs, fl, l) := elemFold (mode == 4) one (List.range 1024) s.me.rndlfsr
    let rowVal (m : Nat) : Nat := ((vs.drop (32 * m)).take 32).foldr (fun v acc => v.getD 0 % 2 ^ w + acc <<< w) 0
    let dt := if w = 16 then d + h else d
    let lo := if w = 16 then 0 else 32 * h * w
    let old := (k.tile dt).data
    let data := (List.range 32).flatMap fun m =>
      toBytes 64 (setField (ofBytes ((old.drop (64 * m)).take 64)) (lo + 32 * w - 1) lo (rowVal m))
    let pois := k.accPois || (s.accBad c).isSome
    let mark (y : Tile) : Tile := if pois then y.setPois true else y
    .done (((s.modCore c fun k =>
      let k := k.modTile dt fun y => mark { y with data := data }
      if w = 16 then k.modTile (if h = 0 then d + 1 else d) mark else k).modMe fun th => { th with rndlfsr := l }).raise
        s.cur fl)

/-! ## RINGDEF, TSEND, MRECT, MSTAT, MCANCEL (R247, R260, R262, R263) -/

/-- Tiles of a ring. -/
def Ring.tiles (r : Ring) : List Nat := (List.range r.len).map r.tile

/-- RINGDEF (R260). -/
def ringdefBody (o : UnitOp) (r : Nat) (s : State) : Res :=
  let k := s.core s.here
  let n := o.a.toNat
  let g : Ring := { first := field n 3 0, fwd := field n 7 6, len := field n 12 8 }
  let shares := (List.range 4).any fun j => j != r && (k.ring j).tiles.any g.tiles.contains
  if n &&& 0x1FCF != n || g.fwd = 3 || 16 < g.len || (g.len = 0 && n != 0) || shares ||
      (k.stopped && (k.mrec.ra == r || k.mrec.rb == r)) then illegal o.word 2 s
  else if (k.ring r).nl != 0 || (k.ring r).nh != 0 then o.stay s
  else .done ((s.modCore s.here fun k => k.modRing r fun _ => g).offer s.here)

/-- Charges a tile on the data mesh (R293, R412). -/
def State.chargeTile (s : State) (c f d : Nat) : State :=
  (s.charge (quadOf c) f 17 (37 * dist c d)).charge (quadOf c) f 19 (37 * dieDist (dieOf c) (dieOf d))

/-- What a TSEND whose tile is in the send buffer waits with: phase 3 until the tile leaves, then 1. -/
def sendOp (o : UnitOp) : Op := { insn := some o.insn, phase := 3 }

/-- The tile of thread `a.thread` leaves the send buffer for core `d`: as the thread's one outstanding access, when no
request of its generation is still unanswered and its function's allowance permits; RTIMEOUT counts from then (R167, R240,
R262, R309, R411). -/
def State.tileLeaves (s : State) (c : Nat) (x : Nat × Arrival) : State :=
  let t := x.2.thread
  let th := s.thr t
  let replay := th.flyOp.phase == 3
  if s.tagBusy t || (if replay then th.away else th.flyHold == .remote) then s
  else if !s.mayInject c th.fn th.tsr.pl.toNat then s.quotaFail (quadOf c) th.fn
  else
    let a := { x.2 with gen := th.gen.toNat }
    let go (o : Op) : Op := { o with phase := 1, deadline := some (s.cycle + th.timeout) }
    let s := (s.route c (.tcm x.1)).chargeTile c th.fn x.1
    let s := (s.modCore c fun k => { k with sendBuf := k.sendBuf.erase x }).modThr t fun th =>
      if replay then th.modFly fun f => { f with op := go f.op, hold := .remote } else { th with op := go th.op }
    ((s.modCore x.1 fun k => { k with arrivals := k.arrivals ++ [a] }).dueOnce (.tileArrival x.1)).due
      (.remoteTimeout t th.gen.toNat)

/-- Tiles leave the send buffer of a core in the order in which they entered it. -/
def State.sendTurn (s : State) (c : Nat) : State := (s.core c).sendBuf.foldl (fun s x => s.tileLeaves c x) s

/-- TSEND (R262): the tile is copied into the send buffer and the unit goes on; its thread waits with reason REMOTE
(R240). -/
def tsendBody (o : UnitOp) (ta r : Nat) (s : State) : Res :=
  let c := s.here
  let gb := o.b.toNat
  let x := (s.core c).tile ta
  match (o.going s.me).reply with
  | .trap e => .trap s e
  | .none =>
    if !validCore gb then raise cSeg o.b 2 s
    else if s.acceptCode s.me.fn gb != 0 then raise cSeg o.b 3 s
    else if !x.desc.ok then illegal o.word 2 s
    else if s.orphaned then .done s
    else
      let a : Arrival := { ring := r, tile := x, src := c, forward := false, thread := s.cur }
      let s := (o.leave s).modCore c fun k => { k with sendBuf := k.sendBuf ++ [(gb, a)] }
      let s := if o.replay then s.modMe fun th => th.modFly fun f => { f with op := sendOp o }
        else s.park s.cur .remote (sendOp o)
      .keep (s.sendTurn c)
  | _ => .done s

/-- MRECT (R263). -/
def mrectBody (o : UnitOp) (s : State) : Res :=
  let n := o.a.toNat
  let c := s.here
  let rect := (field n 7 0, field n 15 8, field n 23 16, field n 31 24)
  if n = 0 then .done (s.modCore c fun k => { k with mrect := BitVec.ofNat 33 (field k.mrect.toNat 31 0) })
  else if !scopeValid o.a || scopeKind o.a != 0 then raise cScope o.a 0 s
  else if !(rect.1 ≤ xOf c && xOf c ≤ rect.2.2.1 && rect.2.1 ≤ yOf c && yOf c ≤ rect.2.2.2) then raise cScope o.a 2 s
  else
    let quads := (List.range (rect.2.2.1 / 2 - rect.1 / 2 + 1)).flatMap fun i =>
      (List.range (rect.2.2.2 / 2 - rect.2.1 / 2 + 1)).map fun j => (rect.2.1 / 2 + j) * 120 + rect.1 / 2 + i
    if quads.any fun q => s.holder q != some s.me.fn then raise cScope o.a 3 s
    else .done (s.modCore c fun k => { k with mrect := BitVec.ofNat 33 (2 ^ 32 + field n 31 0) })

/-- The status word of R247. -/
def Core.mstat (k : Core) : Nat :=
  let r := k.mrec
  bit r.v <<< 63 + bit k.accPois <<< 62 + bit (k.munit.isSome || k.mop.isSome || k.mq != []) <<< 61 + bit k.fref <<< 60 +
    (r.cause % 16) <<< 56 + (r.tile % 16) <<< 52 + (r.ra % 4) <<< 50 + (r.rb % 4) <<< 48 + bit r.sparse <<< 47 +
    bit r.acce <<< 16 + r.chunk % 65536

/-- Slots that a ring's next chunk takes (R231). -/
def Core.chunkSlots (k : Core) (r : Nat) : Nat := (k.tile ((k.ring r).tile (k.ring r).ci)).desc.slots

/-- The slots of a ring's next chunk are FULL. -/
def Core.chunkFull (k : Core) (r : Nat) : Bool := 0 < (k.ring r).nf && k.chunkSlots r ≤ (k.ring r).nf

/-- A ring that feeds pairs has FIRST, LEN and CI even (R236). -/
def Core.evenFor (k : Core) (r slots : Nat) : Bool :=
  slots == 1 || ((k.ring r).first % 2 == 0 && (k.ring r).len % 2 == 0 && (k.ring r).ci % 2 == 0)

/-- MCANCEL (R263); with DRAIN it is a consumer of both rings of the record (R236). -/
def mcancelBody (o : UnitOp) (drain : Bool) (s : State) : Res :=
  let c := s.here
  let k := s.core c
  let a := k.mrec.ra
  let b := k.mrec.rb
  let na := k.chunkSlots a
  let nb := k.chunkSlots b
  if !k.stopped then .done (s.modCore c fun k => { k with fref := false })
  else if drain && !(k.chunkFull a && k.chunkFull b) then o.stay s
  else if drain && !(k.evenFor a na && k.evenFor b nb) then illegal o.word 2 s
  else
    let s := if drain then (s.consumeSlots c a na).consumeSlots c b nb else s
    let s := s.modCore c fun k => { k with fref := false, mrec := {} }
    .done (if k.mrec.cause = 3 then { s with poison := (wordsOf (s.accAddr c) 4096).foldl keyAdd s.poison } else s)

/-! ## Control instructions (R241, R261) -/

/-- A control instruction on a ring with its count may act: TWAIT, TFREE, TADV by `op`. -/
def Core.ctrlReady (k : Core) (op r n : Nat) : Bool :=
  if op = 0 then n < (k.ring r).nf else if op = 1 then n ≤ (k.ring r).nf else n ≤ k.empties r

/-- The TFREE or TADV that a thread, or its sequencer, waits with: its kind, ring and count. -/
def Thread.ctrlOf (th : Thread) : Option (Nat × Nat × Nat) :=
  let of (o : Op) : Option (Nat × Nat × Nat) := match o.insn with
    | some (.tfree _ r) => some (1, r.toNat, o.aux)
    | some (.tadv _ r) => some (2, r.toNat, o.aux)
    | _ => none
  (of th.flyOp).orElse fun _ => of th.op

/-- An earlier control instruction that waits on a ring may act now: it acts first (R241). -/
def State.ctrlEarlier (s : State) (c t r : Nat) : Bool :=
  ((s.core c).ctrl.takeWhile (· != t)).any fun u => (s.thr u).ctrlOf.any fun x =>
    x.2.1 == r && (s.core c).ctrlReady x.1 r x.2.2

/-- TWAIT, TFREE and TADV by `op`: act when they may, else wait in the core's list of control instructions; a replay waits
in its sequencer. -/
def ctrlBody (op : Nat) (insn : Instr) (word : Half) (a : BitVec 5) (r : Nat) (d : BitVec 5) (replay : Bool) (s : State) :
    Res :=
  let c := s.here
  let g := (s.core c).ring r
  let n := s.gn a
  let bad := if op = 0 then g.len ≤ n else n = 0 || g.len < n
  let out := s.modCore c fun k => { k with ctrl := k.ctrl.filter (· != s.cur) }
  if g.len = 0 || bad then illegal word 2 out
  else if !(s.core c).ctrlReady op r n || (op != 0 && s.ctrlEarlier c s.cur r) then
    let s := s.modCore c fun k => { k with ctrl := if k.ctrl.contains s.cur then k.ctrl else k.ctrl ++ [s.cur] }
    let w : Op := { insn := some insn, phase := 3, aux := n }
    if replay then .keep ((s.modMe fun th => th.modFly fun f => { f with op := w }).dueOnce (.matrixUnitStart c))
    else .keep ((s.park s.cur .engine w).dueOnce (.matrixUnitStart c))
  else if op = 0 then .done (out.setGn d (g.tile ((g.ci + n) % g.len)))
  else if op = 1 then
    (if !(s.core c).evenFor r ((s.core c).chunkSlots r) then illegal word 2 out else .done (out.consumeSlots c r n))
  else .done (out.modCore c fun k => k.modRing r fun g => g.fill n)

/-! ## Issue (R232, R240, R411) -/

/-- Scalar registers an instruction reads and writes; gb is not read for a tile that needs no companion (R254). -/
def matScalars (i : Instr) (k : Core) : List Nat × List Nat :=
  let two (a b : BitVec 5) (t : Nat) : List Nat × List Nat :=
    let g := (k.tile t).desc
    (if g.sp != 0 || g.scaled then [a.toNat, b.toNat] else [a.toNat], [])
  match i with
  | .tld a b t => two a b t.toNat
  | .tldRing a b r => two a b ((k.ring r.toNat).tile (k.ring r.toNat).pi)
  | .tst a b t => two a b t.toNat
  | .ringdef a _ => ([a.toNat], [])
  | .twait a _ d => ([a.toNat], [d.toNat])
  | .tfree a _ => ([a.toNat], [])
  | .tadv a _ => ([a.toNat], [])
  | .tsend _ b _ => ([b.toNat], [])
  | .mrect a => ([a.toNat], [])
  | .mstat d => ([], [d.toNat])
  | _ => ([], [])

/-- The values of ga and gb at issue. -/
def matOperands (i : Instr) (s : State) : Word × Word :=
  match i with
  | .tld a b _ => (s.g a, s.g b)
  | .tldRing a b _ => (s.g a, s.g b)
  | .tst a b _ => (s.g a, s.g b)
  | .ringdef a _ => (s.g a, 0)
  | .tsend _ b _ => (0, s.g b)
  | .mrect a => (s.g a, 0)
  | _ => (0, 0)

/-- The prefixes of R253. -/
def matRule (i : Instr) : Option PfxRule :=
  let ops : List Nat := [0, 1, 5, 6, 7, 8, 9, 10, 11, 12, 13]
  let chunk : PfxRule :=
    { a := ops, b := ops, d := [3, 4, 5, 6]
      also := fun a b d => intOperand a == intOperand b && intOperand a == (d == 3) }
  match i with
  | .tmma _ _ => some chunk
  | .tmmas _ _ => some chunk
  | .tmmasp _ _ => some chunk
  | .taccr _ _ => some { a := [3, 4], b := [3, 4], d := [0, 1, 5, 6, 7, 8, 9, 13], also := fun a b _ => a == b }
  | _ => none

/-- The charges of an instruction at its acceptance: classes and counts (R409, R411). -/
def matCharge (i : Instr) (k : Core) : List (Nat × Nat) :=
  let tile (t : Nat) : List (Nat × Nat) :=
    let g := (k.tile t).desc
    (7, g.slots) :: (if g.fmt = 12 then [(8, g.nrm1 + 1)] else [])
  match i with
  | .tld _ _ t => tile t.toNat
  | .tldRing _ _ r => tile ((k.ring r.toNat).tile (k.ring r.toNat).pi)
  | .tst _ _ t => [(7, (k.tile t.toNat).desc.slots)]
  | .tzero _ => [(7, 1)]
  | .tmov _ _ => [(7, 1)]
  | .ttrans _ _ => [(7, 1)]
  | .taccr _ _ => [(7, 1)]
  | .tsend _ _ _ => [(7, 1)]
  | .tmma _ _ => [(9, 2)]
  | .tmmas _ _ => [(9, 2)]
  | .tmmasp _ _ => [(9, 2)]
  | .taccz => [(9, 1)]
  | _ => []

/-- What a unit instruction does when the unit executes it. -/
def matEffect (o : UnitOp) (s : State) : Res :=
  match o.insn with
  | .tld _ _ t => tldBody o none t.toNat s
  | .tldRing _ _ r => tldBody o (some r.toNat) 0 s
  | .tst _ _ t => tstBody o t.toNat s
  | .tzero d => tzeroBody o.word d.toNat s
  | .tmov a d => tmovBody o.word a.toNat d.toNat s
  | .ttrans a d => ttransBody o.word a.toNat d.toNat s
  | .tmma a b => tmmaBody o a.toNat b.toNat s
  | .tmmas a b => tmmasBody o false a.toNat b.toNat s
  | .tmmasp a b => tmmasBody o true a.toNat b.toNat s
  | .taccz => tacczBody o.word s
  | .taccr d h => taccrBody o d.toNat h.toNat s
  | .ringdef _ r => ringdefBody o r.toNat s
  | .tsend a _ r => tsendBody o a.toNat r.toNat s
  | .mrect _ => mrectBody o s
  | .mcancel => mcancelBody o false s
  | .mcancelDrain => mcancelBody o true s
  | _ => .done s

/-- The tiles that an instruction reads or writes directly (R243). -/
def Core.directTiles (k : Core) (i : Instr) : List Nat :=
  let pair (t : Nat) : List Nat := if (k.tile t).desc.pair then [t % 16, (t + 1) % 16] else [t % 16]
  match i with
  | .tld _ _ t => pair t.toNat
  | .tst _ _ t => pair t.toNat
  | .tzero d => [d.toNat % 16]
  | .tmov a d => [a.toNat % 16, d.toNat % 16]
  | .ttrans a d => [a.toNat % 16, d.toNat % 16]
  | .tmma a b => pair a.toNat ++ pair b.toNat
  | .taccr d _ => pair d.toNat
  | .tsend a _ _ => [a.toNat % 16]
  | _ => []

/-- A unit instruction's turn; when it ends the unit is free. -/
def matTurn (o : UnitOp) (s : State) : Res :=
  match (if (o.going s.me).reply = .none && ((s.core s.here).directTiles o.insn).any (s.core s.here).filling then o.stay s
         else matEffect o s) with
  | .done s => .done (o.leave s)
  | .goto s pc => .goto (o.leave s) pc
  | .trap s c => .trap (o.leave s) c
  | .keep s => .keep s

/-- The unit can take an instruction at once. -/
def Core.unitIdle (k : Core) : Bool := k.munit.isNone && k.mop.isNone && k.mq == [] && k.mwait == []

/-- An instruction is accepted by the unit: its charges are taken. -/
def State.acceptMat (s : State) (t : Nat) (i : Instr) : State :=
  (matCharge i (s.core (coreOf t))).foldl (fun s p => s.chargeThread t p.1 p.2) s

/-- The test of a unit instruction's acceptance (R411). -/
def State.mayAccept (s : State) (t : Nat) : Bool :=
  2 ≤ (s.thr t).tsr.pl.toNat || s.quotaOk (quadOf (coreOf t)) (s.thr t).fn

/-- The unit instruction of the executing thread. -/
def State.unitOp (s : State) (insn : Instr) (word : Half) (replay : Bool) : UnitOp :=
  { thread := s.cur, insn := insn, word := word, pfx := s.pending, a := (matOperands insn s).1
    b := (matOperands insn s).2, replay := replay }

/-- A unit instruction at issue: executed at once when the unit is idle and the charge is taken (log entry 11), otherwise
queued or waiting for the queue; a word that the unit has started continues. -/
def matIssue (insn : Instr) (word : Half) (s : State) : Res :=
  let o := s.unitOp insn word false
  let p := s.me.op
  let c := s.here
  let k := s.core c
  if p.phase = 2 || p.reply != .none || p.insn.isSome then
    matTurn (match k.munit with
      | some u => if u.thread = s.cur && !u.replay then u else o
      | none => o) s
  else if k.unitIdle && s.mayAccept s.cur then
    matTurn o ((s.acceptMat s.cur insn).modCore c fun k => { k with munit := some o })
  else
    let s := if k.mwait = [] && k.mq.length < 4 && s.mayAccept s.cur then
        (s.acceptMat s.cur insn).modCore c fun k => { k with mq := k.mq ++ [o] }
      else s.modCore c fun k => { k with mwait := k.mwait ++ [o] }
    .keep ((s.park s.cur .engine {}).dueOnce (.matrixUnitStart c))

/-- The form of a matrix word. -/
def matForm (insn : Instr) (word : Half) (s : State) : Form :=
  { word := word, pfx := matRule insn, srcs := (matScalars insn (s.core s.here)).1
    dsts := (matScalars insn (s.core s.here)).2 }

/-- A matrix unit instruction word. -/
def matRun (insn : Instr) (word : Half) (s : State) : Out := run (matForm insn word s) (matIssue insn word) s

/-- A control instruction word. -/
def ctrlRun (insn : Instr) (word : Half) (s : State) : Out :=
  match insn with
  | .twait a r d => run (matForm insn word s) (ctrlBody 0 insn word a r.toNat d false) s
  | .tfree a r => run (matForm insn word s) (ctrlBody 1 insn word a r.toNat 0 false) s
  | .tadv a r => run (matForm insn word s) (ctrlBody 2 insn word a r.toNat 0 false) s
  | _ => .next s

/-- TLD (R254). Loads rows from memory into a tile. -/
def execTld (a : BitVec 5) (b : BitVec 5) (t : BitVec 5) (s : State) : Out :=
  matRun (.tld a b t) (36#6 ++ a ++ b ++ t ++ 0#5 ++ 0#6) s

/-- TLD_RING (R254). Loads rows from memory into the next slots of a ring. -/
def execTldRing (a : BitVec 5) (b : BitVec 5) (r : BitVec 5) (s : State) : Out :=
  matRun (.tldRing a b r) (36#6 ++ a ++ b ++ r ++ 1#5 ++ 0#6) s

/-- TST (R255). Stores a tile's rows to memory. -/
def execTst (a : BitVec 5) (b : BitVec 5) (s : BitVec 5) (st : State) : Out :=
  matRun (.tst a b s) (36#6 ++ a ++ b ++ s ++ 0#5 ++ 1#6) st

/-- TZERO (R256). Zeroes a tile and clears POIS. -/
def execTzero (d : BitVec 5) (s : State) : Out :=
  matRun (.tzero d) (36#6 ++ 0#10 ++ d ++ 0#5 ++ 2#6) s

/-- TMOV (R256). Copies a tile with its companions and descriptor. -/
def execTmov (a : BitVec 5) (d : BitVec 5) (s : State) : Out :=
  matRun (.tmov a d) (36#6 ++ a ++ 0#5 ++ d ++ 0#5 ++ 3#6) s

/-- TTRANS (R256). Transposes a dense tile. -/
def execTtrans (a : BitVec 5) (d : BitVec 5) (s : State) : Out :=
  matRun (.ttrans a d) (36#6 ++ a ++ 0#5 ++ d ++ 0#5 ++ 4#6) s

/-- TMMA (R257). Performs one chunk on two tiles into the accumulator. -/
def execTmma (a : BitVec 5) (b : BitVec 5) (s : State) : Out :=
  matRun (.tmma a b) (36#6 ++ a ++ b ++ 0#10 ++ 8#6) s

/-- TMMAS (R258). Consumes KCHM1+1 dense chunks from two rings into the accumulator. -/
def execTmmas (a : BitVec 5) (b : BitVec 5) (s : State) : Out :=
  matRun (.tmmas a b) (36#6 ++ a ++ b ++ 0#10 ++ 9#6) s

/-- TMMASP (R258). As TMMAS with sparse B tiles. -/
def execTmmasp (a : BitVec 5) (b : BitVec 5) (s : State) : Out :=
  matRun (.tmmasp a b) (36#6 ++ a ++ b ++ 0#10 ++ 10#6) s

/-- TACCZ (R259). Zeroes the accumulator sub-tile. -/
def execTaccz (s : State) : Out :=
  matRun .taccz (36#6 ++ 0#20 ++ 11#6) s

/-- TACCR (R259). Converts the accumulator into a tile. -/
def execTaccr (d : BitVec 5) (h : BitVec 1) (s : State) : Out :=
  matRun (.taccr d h) (36#6 ++ 0#10 ++ d ++ 0#4 ++ h ++ 12#6) s

/-- RINGDEF (R260). Defines or undefines a ring. -/
def execRingdef (a : BitVec 5) (r : BitVec 5) (s : State) : Out :=
  matRun (.ringdef a r) (36#6 ++ a ++ 0#5 ++ r ++ 0#5 ++ 16#6) s

/-- TWAIT (R261). Waits until a ring slot is FULL and returns its tile. -/
def execTwait (a : BitVec 5) (r : BitVec 5) (d : BitVec 5) (s : State) : Out :=
  ctrlRun (.twait a r d) (36#6 ++ a ++ r ++ d ++ 0#5 ++ 17#6) s

/-- TFREE (R261). Consumes n ring slots. -/
def execTfree (a : BitVec 5) (r : BitVec 5) (s : State) : Out :=
  ctrlRun (.tfree a r) (36#6 ++ a ++ 0#5 ++ r ++ 0#5 ++ 18#6) s

/-- TADV (R261). Claims n empty slots and marks them FULL as they stand. -/
def execTadv (a : BitVec 5) (r : BitVec 5) (s : State) : Out :=
  ctrlRun (.tadv a r) (36#6 ++ a ++ 0#5 ++ r ++ 0#5 ++ 19#6) s

/-- TSEND (R262). Sends a tile to a ring of another core. -/
def execTsend (a : BitVec 5) (b : BitVec 5) (r : BitVec 5) (s : State) : Out :=
  matRun (.tsend a b r) (36#6 ++ a ++ b ++ r ++ 0#5 ++ 20#6) s

/-- MRECT (R263). Sets or clears the core's rectangle. -/
def execMrect (a : BitVec 5) (s : State) : Out :=
  matRun (.mrect a) (36#6 ++ a ++ 0#15 ++ 24#6) s

/-- MCANCEL (R263). Discards a suspended-operation record and clears FREF. -/
def execMcancel (s : State) : Out :=
  matRun .mcancel (36#6 ++ 0#20 ++ 26#6) s

/-- MCANCEL_DRAIN (R263). Consumes the record's chunk slots, then discards the record. -/
def execMcancelDrain (s : State) : Out :=
  matRun .mcancelDrain (36#6 ++ 1#20 ++ 26#6) s

/-- MSTAT (R247). Returns the matrix status word. -/
def execMstat (d : BitVec 5) (s : State) : Out :=
  runG { word := 36#6 ++ 0#10 ++ d ++ 0#5 ++ 25#6, dsts := [d.toNat] } d
    (fun s => BitVec.ofNat 64 (s.core s.here).mstat) s

/-! ## Control instructions that wait, and the unit's turn (R240, R241) -/

/-- The next state of an outcome; an instruction word has no other. -/
def nextOf (s : State) : Out → State
  | .next t => t
  | _ => s

/-- Waiting control instructions act in issue order; a replay's is taken up by its sequencer. -/
def State.ctrlTurn (s : State) (c : Nat) : State :=
  (s.core c).ctrl.foldl (fun s t =>
    match (s.thr t).flyOp.insn, (s.thr t).op.insn with
    | some _, _ => s.dueOnce (.replayIssue t)
    | none, some i => nextOf s (ctrlRun i (s.thr t).word { s with cur := t })
    | none, none => s) s

/-- An instruction whose thread was killed while the unit executed it goes on with what its thread was (R249): after its
next access, its page, or what it waits for in the unit. -/
def State.orphanTurn (s : State) (c : Nat) (o : UnitOp) (th : Thread) : State :=
  let t := o.thread
  let now := s.thr t
  let back (s : State) : State := s.setThr t now
  let s1 : State := { s.setThr t th with cur := t }
  if th.op.reply = .none && (s.quad (quadOf c)).pages.any (·.thread == t) then s
  else if th.op.reply = .none && th.op.todo != [] then
    if th.away then s
    else
      let s2 := s1.nextAccess t
      (back s2).modCore c fun k => { k with morphan := some (s2.thr t) }
  else match matTurn o s1 with
  | .keep s2 => if (s2.core c).munit.isSome then (back s2).modCore c fun k => { k with morphan := some (s2.thr t) } else back s2
  | .done s2 => back s2
  | .goto s2 _ => back s2
  | .trap s2 _ => back s2

/-- The unit admits waiting instructions while the queue has room and their test passes. -/
def State.admitMat (c : Nat) : Nat → State → State
  | 0, s => s
  | n + 1, s =>
    match (s.core c).mwait with
    | o :: r =>
      if (s.core c).mq.length < 4 && s.mayAccept o.thread then
        State.admitMat c n ((s.acceptMat o.thread o.insn).modCore c fun k => { k with mwait := r, mq := k.mq ++ [o] })
      else if s.mayAccept o.thread then s
      else s.quotaFail (quadOf c) (s.thr o.thread).fn
    | [] => s

/-- A multi-chunk operation. -/
def chunked : Instr → Bool
  | .tmmas _ _ => true
  | .tmmasp _ _ => true
  | _ => false

/-- The accepted instruction that the unit starts next: the oldest; while an operation is held for a move of the context,
the oldest that is none of its kind (R240, R245). -/
def Core.nextUnitOp (k : Core) : Option UnitOp := k.mq.find? fun o => k.mop.isNone || !chunked o.insn

/-- What the unit has accepted before a move has completed, but for operations that are held and MCANCEL waiting for tiles
(R245; log entry 37). -/
def Core.unitDrained (k : Core) : Bool :=
  k.nextUnitOp.isNone && k.munit.all fun o => match o.insn with
    | .mcancelDrain => true
    | _ => false

/-- The unit continues or starts its oldest instruction. -/
def State.matrixTurn (s : State) (c : Nat) : State :=
  let k := s.core c
  match k.munit, k.morphan with
  | some o, some th => s.orphanTurn c o th
  | some o, none =>
    let th := s.thr o.thread
    if th.st = .parked .engine && th.op.phase = 2 && !o.replay then
      nextOf s (matRun o.insn o.word { s with cur := o.thread })
    else s
  | none, _ =>
    if k.mop.isSome && !k.leaving then s
    else
      let s := if k.leaving then s else s.admitMat c k.mwait.length
      match (s.core c).nextUnitOp with
      | none => s
      | some o =>
        let s := s.modCore c fun k => { k with mq := k.mq.erase o, munit := some o }
        let s := s.modThr o.thread fun th => { th with op := { th.op with phase := 2 } }
        nextOf s (matRun o.insn o.word { s with cur := o.thread })

/-- Work is left for MATRIX_UNIT_START. -/
def Core.matrixWork (k : Core) : Bool :=
  k.ctrl != [] || k.mwait != [] || k.mq != [] || k.sendBuf != [] || k.morphan.isSome || k.munit.any fun o => !o.replay

/-- MATRIX_UNIT_START (R240). The matrix unit starts its next queued instruction. -/
def execMatrixUnitStart (c : Nat) (s : State) : Out :=
  eventIf (validCore c)
    (if (s.core c).away then s.defer (.matrixUnitStart c)
     else
       let s := ((s.ctrlTurn c).matrixTurn c).sendTurn c
       if (s.core c).matrixWork then s.defer (.matrixUnitStart c) else s)

/-! ## TMMAS and TMMASP by chunks (R244 to R249) -/

/-- The rings of a multi-chunk operation. -/
def MatOp.rings (m : MatOp) : Nat × Nat :=
  match m.op.insn with
  | .tmmas a b => (a.toNat, b.toNat)
  | .tmmasp a b => (a.toNat, b.toNat)
  | _ => (0, 0)

/-- The operation is a TMMASP. -/
def MatOp.sparse (m : MatOp) : Bool :=
  match m.op.insn with
  | .tmmasp _ _ => true
  | _ => false

/-- ORs flags into the issuing thread while it lives (R244). -/
def State.raiseFor (s : State) (m : MatOp) (f : Flags) : State := if m.dead then s else s.raise m.op.thread f

/-- Ends a multi-chunk operation: its thread completes or traps; a dead thread's stop is told to the function (R249). -/
def State.endMat (s : State) (c : Nat) (m : MatOp) (r : Reply) : State :=
  let s := (s.modCore c fun k => { k with mop := none }).dueOnce (.matrixUnitStart c)
  if m.dead then
    match r with
    | .trap _ => s.fnEvent m.fn (contextEvent 0x28 (c <<< 16 + m.chunk % 65536))
    | _ => s
  else s.answerOp m.op.thread m.op.replay r

/-- Spill(k, c) (R245): the accumulator is stored and the record set. -/
def State.spill (s : State) (c : Nat) (m : MatOp) (cause tile : Nat) (acce : Bool) : State :=
  let (ra, rb) := m.rings
  let (bs, fl) := spillAccs m.acc
  let s := if acce then s else (s.putAcc (accAt c m.accg) bs).raiseFor m fl
  s.modCore c fun k =>
    { k with accPois := k.accPois || cause == 3
             mrec := { v := true, cause := cause, tile := tile, ra := ra, rb := rb, sparse := m.sparse, acce := acce,
                       chunk := m.chunk } }

/-- The unit holds a running operation for a quota boundary (1), a move (2) or the end of a gang slice (5) (R245). -/
def State.holdMat (s : State) (c cause : Nat) : State :=
  match (s.core c).mop with
  | some m =>
    if m.held != 0 then s
    else
      let s := if m.loaded then (s.raiseFor m m.flags).spill c m cause 0 false
        else s.modCore c fun k => { k with mrec := { v := true, cause := cause, ra := m.rings.1, rb := m.rings.2
                                                     sparse := m.sparse, chunk := m.chunk } }
      (s.modCore c fun k => { k with mop := some { m with held := cause, loaded := false, acc := [], flags := 0 } }).dueOnce
        (.tmmasResume c)
  | none => s

/-- Stops an operation at its chunk (R246). -/
def State.stopMat (s : State) (c : Nat) (m : MatOp) (cause tile : Nat) (acce : Bool) (e : Cause) : State :=
  (((s.raiseFor m m.flags).spill c m cause tile acce).endMat c m (.trap e))

/-- The chunk at the rings' heads: its tiles. -/
def Core.chunkTiles (k : Core) (m : MatOp) : Nat × Nat :=
  let (ra, rb) := m.rings
  ((k.ring ra).tile (k.ring ra).ci, (k.ring rb).tile (k.ring rb).ci)

/-- The tile at a chunk that Accepts refuses: the A tile when it fails a check of its own, else the B tile (log entry 19). -/
def Core.refusedTile (k : Core) (m : MatOp) : Nat :=
  let (ra, _) := m.rings
  let (ta, tb) := k.chunkTiles m
  let a := (k.tile ta).desc
  let want := match m.op.pfx with
    | some p => pfxA p
    | none => (m.fmts.map (·.1)).getD a.fmt
  if a.okAt ta && k.evenFor ra (k.chunkSlots ra) && a.fmt == want && a.sp == 0 &&
      afmtOf m.accg == (if intOperand a.fmt then 3 else 4) then tb else ta

/-- One chunk of a loaded operation whose slots are FULL. -/
def State.matChunk (s : State) (c : Nat) (m : MatOp) : State :=
  let k := s.core c
  let (ra, rb) := m.rings
  let (ta, tb) := k.chunkTiles m
  let na := k.chunkSlots ra
  let nb := k.chunkSlots rb
  let tiles := (List.range na).map (ta + ·) ++ (List.range nb).map (tb + ·)
  let word : Word := m.op.word.zeroExtend 64
  if (s.fn m.fn).boundary && !(s.fn m.fn).unl then s.holdMat c 1
  else match tiles.find? fun t => (k.tile t).pois with
    | some t => s.stopMat c m 3 (t % 16) false { code := 0x14, detail := t % 16, tval := BitVec.ofNat 64 m.chunk }
    | none =>
      if !(k.accepts (afmtOf m.accg) ta tb (some m.sparse) m.op.pfx m.fmts && k.evenFor ra na && k.evenFor rb nb) then
        s.stopMat c m 4 (k.refusedTile m % 16) false { code := cIllegal, detail := 2, tval := word }
      else if !(m.dead || s.mayAccept m.op.thread) || (m.dead && !s.quotaOk (quadOf c) m.fn) then
        (s.quotaFail (quadOf c) m.fn).defer (.tmmasChunk c)
      else
        let s := s.chargeChunk c m.fn ta tb
        let (xs, fl) := addChunks k ta tb (intOperand (k.tile ta).desc.fmt) m.sat m.acc
        let s := s.chunkCandidate m.op.thread c ta tb m.op.pfx
        let m2 := { m with acc := xs, flags := m.flags ||| fl, chunk := m.chunk + 1
                           fmts := some (m.fmts.getD ((k.tile ta).desc.fmt, (k.tile tb).desc.fmt)) }
        let s := s.modCore c fun k => { k with mop := some m2 }
        ((s.consumeSlots c ra na).consumeSlots c rb nb).defer (.tmmasChunk c)

/-- The end of an operation: one rounding with its thread's LFSR as it then stands, the store, the flags (R39, R244). -/
def State.matFinish (s : State) (c : Nat) (m : MatOp) : State :=
  let (bs, fl, l) := storeAccs (accDest m.op.pfx) m.mode m.sat m.acc (if m.dead then m.lfsr else (s.thr m.op.thread).rndlfsr)
  let s := (s.putAcc (accAt c m.accg) bs).raiseFor m (m.flags ||| fl)
  let s := if m.dead then s else s.modThr m.op.thread fun th => { th with rndlfsr := l }
  s.endMat c m .ok

/-- One step of the operation in progress. -/
def State.matStep (s : State) (c : Nat) (m : MatOp) : State :=
  let k := s.core c
  let (ra, rb) := m.rings
  if m.held != 0 then s
  else if !m.loaded then
    match s.subTileBad (accAt c m.accg) with
    | some w =>
      (s.recordUe w (BitVec.ofNat 64 w)).stopMat c m 3 0 true
        { code := 0x14, detail := 16, tval := BitVec.ofNat 64 m.chunk }
    | none =>
      (s.modCore c fun k =>
        { k with mop := some { m with loaded := true
                                      acc := loadAccs (afmtOf m.accg) (s.rd (accAt c m.accg) 4096) } }).defer
          (.tmmasChunk c)
  else if field m.accg.toNat 63 48 < m.chunk then s.matFinish c m
  else if k.chunkFull ra && k.chunkFull rb then s.matChunk c m
  else s.defer (.tmmasChunk c)

/-- TMMAS_CHUNK (R244). One chunk step of TMMAS or TMMASP consumes slots and updates X. -/
def execTmmasChunk (c : Nat) (s : State) : Out :=
  eventIf (validCore c)
    (if (s.core c).away then s.defer (.tmmasChunk c)
     else if (s.core c).leaving then s.holdMat c 2
     else
       let s := s.ctrlTurn c
       match (s.core c).mop with
       | some m => s.matStep c m
       | none => s)

/-- TMMAS_RESUME (R245). A held operation reloads X and continues at its chunk. -/
def execTmmasResume (c : Nat) (s : State) : Out :=
  eventIf (validCore c)
    (match (s.core c).mop with
     | some m =>
       let k := s.core c
       if m.held = 0 then s
       else if k.away || k.leaving || k.ganged || ((s.fn m.fn).boundary && !(s.fn m.fn).unl) then s.defer (.tmmasResume c)
       else (s.modCore c fun k => { k with mop := some { m with held := 0, fmts := none }, mrec := {} }).dueOnce
        (.tmmasChunk c)
     | none => s)

/-! ## Tiles on their way (R235, R237, R262) -/

/-- The end of an arrival is told to its sender: a held slot's forward, or a TSEND. -/
def State.arrived (s : State) (c : Nat) (a : Arrival) (bad : Bool) : State :=
  if a.forward then
    let mark (f : Forward) : Option Forward := some { f with phase := 2 }
    (s.modCore a.src fun k =>
      { k with forwards := modOldest a.ring mark k.forwards, fref := k.fref || bad }).dueOnce (.forwardAccept a.src a.ring)
  else if bad then
    s.launchItem (.answer a.thread a.gen (.trap { code := cSeg, detail := 3, tval := BitVec.ofNat 64 c })
      ((s.thr a.thread).flyHold == .remote) s.cycle) true
  else s.due (.tsendAccept a.thread a.gen)

/-- An arrival is claimed: its tile enters the next slot (R235). -/
def Core.claim (k : Core) (a : Arrival) : Core :=
  let g := k.ring a.ring
  (k.modTile (g.tile g.pi) fun t => t.take a.tile).modRing a.ring fun g => g.fill 1

/-- The first arrival that is refused or can be claimed; those of one ring keep their order. -/
def State.nextArrival (s : State) (c : Nat) : List Nat → List Arrival → Option (Arrival × Bool)
  | _, [] => none
  | seen, a :: as =>
    let g := (s.core c).ring a.ring
    let bad := match s.holder (quadOf a.src) with
      | some f => s.acceptCode f c != 0
      | none => true
    if seen.contains a.ring then s.nextArrival c seen as
    else if bad then some (a, true)
    else if g.len != 0 && (s.core c).empties a.ring != 0 then some (a, false)
    else s.nextArrival c (a.ring :: seen) as

/-- TILE_ARRIVAL (R235). An arriving tile claims and fills ring slots. -/
def execTileArrival (c : Nat) (s : State) : Out :=
  eventIf (validCore c)
    (let (now, s) := s.gate c (.tileArrival c) none ((s.core c).arrivals.head?.map (·.src))
     if !now then s
     else match s.nextArrival c [] (s.core c).arrivals with
       | none => s
       | some (a, bad) =>
         let s := s.modCore c fun k => { k with arrivals := k.arrivals.erase a }
         let s := if bad then s else s.modCore c fun k => k.claim a
         (s.arrived c a bad).offer c)

/-- FORWARD_ACCEPT (R237). A forwarded tile is accepted or refused and the HELD slot becomes EMPTY. -/
def execForwardAccept (c r : Nat) (s : State) : Out :=
  eventIf (validCore c && r < 4)
    (if (s.core c).away then s.defer (.forwardAccept c r) else match (s.core c).oldest r with
     | some { dest := some d, phase := 0, .. } =>
       let f := (s.holder (quadOf c)).getD 0
       if !s.quotaOk (quadOf c) f then (s.quotaFail (quadOf c) f).defer (.forwardAccept c r)
       else
         let g := (s.core c).ring r
         let a : Arrival := { ring := r, tile := (s.core c).tile (g.tile g.fi), src := c, forward := true }
         let sent (f : Forward) : Option Forward := some { f with phase := 1 }
         let s := ((s.route c (.tcm d)).chargeTile c f d).modCore c fun k => { k with forwards := modOldest r sent k.forwards }
         (s.modCore d fun k => { k with arrivals := k.arrivals ++ [a] }).dueOnce (.tileArrival d)
     | _ => s.settleHeld c r)

/-- TSEND_ACCEPT (R262). A sent tile is claimed at its destination and the sender resumes. -/
def execTsendAccept (t e : Nat) (s : State) : Out :=
  eventIf (validThread t)
    (s.toCore (coreOf t) (.tsendAccept t e) fun s =>
      let th := s.thr t
      if th.gen.toNat = e && th.flyHold == .remote then s.answerOp t true .ok
      else if th.gen.toNat = e && th.st = .parked .remote then s.answerOp t false .ok
      else s.staleReply t e)

end Sys2Proof.Machine
end

