-- ==== Sys2Proof/Machine/Stream.lean ====
section
/-! DEFINITION. The stream and copy engine: major 0x25 and its events (R265 to R292). -/

namespace Sys2Proof.Machine

/-! ## Descriptors (R265, R266) -/

/-- A signed field of a block of bytes. -/
def signedAt (bs : List Byte) (off n : Nat) : Int := signedOf (8 * n) (ofBytes ((bs.drop off).take n))

/-- An unsigned field of a block of bytes. -/
def natAt (bs : List Byte) (off n : Nat) : Nat := ofBytes ((bs.drop off).take n)

/-- A descriptor from its 128 bytes (R266). -/
def Desc.ofBytes (bs : List Byte) : Desc :=
  { base := BitVec.ofNat 64 (natAt bs 0 8)
    s := (List.range 4).map fun i => signedAt bs (8 + 8 * i) 8
    n := (List.range 4).map fun i => natAt bs (40 + 4 * i) 4
    c := (List.range 4).map fun i => signedAt bs (56 + 4 * i) 4
    e := (List.range 4).map fun i => natAt bs (72 + 4 * i) 4
    aux := BitVec.ofNat 64 (natAt bs 88 8)
    cstep := signedAt bs 96 4
    esz := natAt bs 100 1 % 4
    dirOut := bitAt (natAt bs 101 1) 0
    sx := bitAt (natAt bs 101 1) 1 }

/-- A block that SDESC refuses (R266). -/
def badDesc (bs : List Byte) : Bool :=
  let d := Desc.ofBytes bs
  d.n.any (· == 0) || 2 ^ 44 - 1 < d.total || 4 ≤ natAt bs 100 1 || 4 ≤ natAt bs 101 1 || (bs.drop 102).any (· != 0)

/-- The word of SSTAT (R265). -/
def Ctx.word (k : Ctx) (slot : Nat) : Nat :=
  bit k.bound <<< 63 + bit k.loaded <<< 62 + bit k.susp <<< 61 + bit (k.loaded && k.pos == k.desc.total) <<< 60 +
    bit k.desc.dirOut <<< 59 + (if k.bound then k.kind <<< 57 + k.n <<< 54 + slot <<< 50 else 0) + (k.err % 16) <<< 44 +
    k.pos % 2 ^ 44

/-- A new window opens: what was fetched ahead is discarded (R272). -/
def Ctx.reopen (k : Ctx) : Ctx :=
  if k.desc.dirOut then k else { k with buf := [], asked := [], got := [], epoch := k.epoch + 1 }

/-- Pushes are still to be drained, or a ring fill is in progress: what discards or replaces them waits for their end, which
R274, R275 and R288 promise (log entry 80). -/
def Ctx.busy (k : Ctx) : Bool := (k.desc.dirOut && k.buf != []) || k.fill.isSome

/-- An instruction that acts on a bound context first waits, parked with reason ENGINE, until its thread's replays have
completed (R285). -/
def afterReplays (x : Nat) (body : State → Res) (s : State) : Res :=
  if ((s.core s.here).ctx x).bound && s.me.replaying then .keep (s.park s.cur .engine { again := true }) else body s

/-! ## Instructions on contexts (R285 to R290) -/

/-- A state refusal (R270). -/
def stateRefusal (word : Half) (s : State) : Res := illegal word 3 s

/-- SDESC (R286). -/
def sdescBody (insn : Instr) (word : Half) (a : BitVec 5) (x : Nat) (s : State) : Res :=
  let fin (bs : List Byte) (s : State) : Res :=
    if ((s.core s.here).ctx x).bound then stateRefusal word s
    else if badDesc bs then illegal word 2 s
    else if ((s.core s.here).ctx x).busy then waitMem insn s
    else .done (s.modCtx s.here x fun k => { loaded := true, desc := Desc.ofBytes bs, epoch := k.epoch + 1 })
  if ((s.core s.here).ctx x).bound then stateRefusal word s
  else memAccess (s.g a) 128 rightR 64 0 false (loadGo insn (s.g a) 128 false fin) fin s

/-- SBIND (R287). -/
def sbindBody (insn : Instr) (word : Half) (x kind n : Nat) (s : State) : Res :=
  let c := s.here
  let k := (s.core c).ctx x
  let all := (s.core c).ctxs.toList
  let taken := all.any fun y => y.bound && y.owner == s.cur && y.kind == kind && y.n == n
  let ringTaken := kind == 2 && all.any fun y => y.bound && y.kind == 2 && y.n == n
  if !k.loaded || k.bound || taken || (kind == 2 && k.desc.dirOut) || ringTaken then stateRefusal word s
  else if k.busy then waitMem insn s
  else if s.me.replaying then .keep (s.park s.cur .engine { again := true })
  else
    let s := s.modCtx c x fun k =>
      { k.reopen with bound := true, susp := false, heir := none, kind := kind, n := n, owner := s.cur, fn := s.me.fn
                      lease := s.me.lease, level := s.level }
    .done (if k.desc.dirOut then s else s.dueOnce (if kind = 2 then .ringStreamFill c x else .streamFetchIssue c x))

/-- A context bound to the executing thread. -/
def Ctx.mine (k : Ctx) (t : Nat) : Bool := k.bound && k.owner == t

/-- SUNBIND (R288): an out stream is drained, and a ring's fill in progress ends, before it lets go. -/
def sunbindBody (insn : Instr) (word : Half) (x : Nat) (s : State) : Res :=
  let k := (s.core s.here).ctx x
  if !k.mine s.cur then stateRefusal word s
  else if k.busy then waitMem insn s
  else .done (s.modCtx s.here x Ctx.release)

/-- SPOS and SSKIP may act: a LOADED context for any thread, a BOUND one for its owner (R289). -/
def Ctx.movable (k : Ctx) (t : Nat) : Bool := k.loaded && (!k.bound || k.owner == t)

/-- The engine takes a repositioned context up again. -/
def State.restir (s : State) (c x : Nat) : State :=
  let k := (s.core c).ctx x
  if !k.bound || k.desc.dirOut then s
  else s.dueOnce (if k.kind = 2 then .ringStreamFill c x else .streamFetchIssue c x)

/-- SPOS (R289). -/
def sposBody (word : Half) (x : Nat) (d : BitVec 5) (s : State) : Res :=
  let k := (s.core s.here).ctx x
  if k.movable s.cur then .done (s.setGn d k.pos) else stateRefusal word s

/-- SPOS with W = 1 (R289). -/
def sposSetBody (insn : Instr) (word : Half) (a : BitVec 5) (x : Nat) (d : BitVec 5) (s : State) : Res :=
  let k := (s.core s.here).ctx x
  let n := s.gn a
  if !k.movable s.cur || k.desc.total < n then stateRefusal word s
  else if k.fill.isSome then waitMem insn s
  else .done (((s.modCtx s.here x fun k => { k.reopen with pos := n }).restir s.here x).setGn d k.pos)

/-- SSKIP (R289). -/
def sskipBody (insn : Instr) (word : Half) (a : BitVec 5) (x : Nat) (s : State) : Res :=
  let k := (s.core s.here).ctx x
  if !k.movable s.cur then stateRefusal word s
  else if k.fill.isSome then waitMem insn s
  else .done ((s.modCtx s.here x fun k => { k.reopen with pos := min (k.pos + s.gn a) k.desc.total }).restir s.here x)

/-- SFLUSH (R290). -/
def sflushBody (insn : Instr) (word : Half) (x : Nat) (s : State) : Res :=
  let k := (s.core s.here).ctx x
  if !k.mine s.cur then stateRefusal word s
  else if k.desc.dirOut then
    if k.buf != [] then waitMem insn s
    else match k.refused with
      | some a => .trap (s.modCtx s.here x fun k => { k with refused := none }) { code := cSeg, detail := 3, tval := a }
      | none => .done s
  else if !s.released s.cur || k.fill.isSome then waitMem insn s
  else .done ((s.modCtx s.here x Ctx.reopen).restir s.here x)

/-! ## Copies (R276 to R280, R291) -/

/-- Bytes of a copy. -/
def Copy.total (k : Copy) : Nat := natAt k.block 32 4 * natAt k.block 36 4

/-- Transfer ID. -/
def Copy.xid (k : Copy) : Nat := natAt k.block 48 4

/-- A parameter block that COPY refuses (R291). -/
def badCopy (bs : List Byte) : Bool :=
  natAt bs 32 4 = 0 || natAt bs 36 4 = 0 || 2 ^ 44 < natAt bs 32 4 * natAt bs 36 4 || 4 ≤ natAt bs 54 1 ||
    natAt bs 55 1 != 0 || (bs.drop 72).any (· != 0)

/-- A copy that has not ended. -/
def Copy.live (k : Copy) : Bool := k.st == .queued || k.st == .running || k.st == .held

/-- The slot COPY takes: a FREE one, else the oldest that has ended (R279). -/
def Core.copySlot (k : Core) : Option Nat :=
  match (List.range 16).find? fun i => (vget {} k.copies i).st == .free with
  | some i => some i
  | none =>
    (List.range 16).foldl (fun best i =>
      let x := vget {} k.copies i
      if x.st != .ended then best
      else match best with
        | some j => if x.ended < (vget {} k.copies j).ended then some i else best
        | none => some i) none

/-- COPY (R291). -/
def copyBody (insn : Instr) (word : Half) (a d : BitVec 5) (s : State) : Res :=
  let fin (bs : List Byte) (s : State) : Res :=
    if badCopy bs then illegal word 2 s
    else
      let c := s.here
      match (s.core c).copySlot with
      | none =>
        .keep ((s.park s.cur .engine { insn := some insn, got := bs, reply := .ok }).dueOnce (.accessReply s.cur))
      | some i =>
        let n := (s.core c).copySeq
        let x : Copy := { st := .queued, seq := n, thread := s.cur, who := s.me.agent, block := bs }
        let s := s.modCore c fun k => { k with copies := k.copies.setIfInBounds i x, copySeq := (n + 1) % 2 ^ 56 }
        .done ((s.dueOnce (.copyChunk c i)).setGn d (n * 256 + i))
  match s.me.op.reply with
  | .none =>
    if !s.released s.cur then waitMem insn s
    else memAccess (s.g a) 128 rightR 64 0 false (loadGo insn (s.g a) 128 false fin) fin s
  | _ => memAccess (s.g a) 128 rightR 64 0 false (loadGo insn (s.g a) 128 false fin) fin s

/-- The state code of COPYST (R280). -/
def CopyState.code : CopyState → Nat
  | .free => 0
  | .queued => 1
  | .running => 2
  | .held => 3
  | .ended => 4

/-- The word of COPYST for a handle (R280, R291). -/
def Core.copyst (k : Core) (h : Nat) : Nat :=
  let x := vget {} k.copies (h % 16)
  if field h 7 4 != 0 || x.st == .free || x.seq != h / 256 then 0
  else x.st.code <<< 60 + (if x.st == .ended then (x.code % 16) <<< 56 + (x.detail % 256) <<< 48 else 0) + x.done % 2 ^ 44

/-! ## Arrival words (R281 to R283, R292) -/

/-- WAITGEN (R292). -/
def waitgenBody (insn : Instr) (a b q : BitVec 5) (s : State) : Res :=
  withScope (s.g q) (fun x s =>
    feBody insn rightR (s.g a) (fun p => .waitgen p (field (s.gn b) 15 0))
      (fun _ s => .done ((s.acquire s.cur x).noteClamp s.cur x)) s) s

/-- ARMGEN (R292). -/
def armgenBody (insn : Instr) (word : Half) (a b : BitVec 5) (s : State) : Res :=
  if field (s.gn b) 63 23 != 0 then illegal word 2 s
  else feBody insn (rightR + rightW) (s.g a) (fun p => .arm p (s.gn b)) (fun _ s => .done s) s

/-- ADDGEN (R292). -/
def addgenBody (insn : Instr) (word : Half) (a b q : BitVec 5) (s : State) : Res :=
  if field (s.gn b) 63 23 != 0 then illegal word 2 s
  else withScope (s.g q) (fun x s =>
    if s.me.op.reply == .none && !x.thread && !s.released s.cur then waitMem insn s
    else feBody insn (rightR + rightW) (s.g a) (fun p => .addgen p (s.gn b))
      (fun _ s => .done (s.noteClamp s.cur x)) s) s

/-- SDESC (R286). Loads a stream descriptor into a context. -/
def execSdesc (a : BitVec 5) (s : BitVec 5) (st : State) : Out :=
  run { word := 37#6 ++ a ++ s ++ 0#10 ++ 0#6, srcs := [a.toNat] }
    (sdescBody (.sdesc a s) (37#6 ++ a ++ s ++ 0#10 ++ 0#6) a s.toNat) st

/-- SBIND (R287). Binds a loaded context to a register. -/
def execSbind (s : BitVec 5) (k : BitVec 2) (n : BitVec 3) (st : State) : Out :=
  run { word := 37#6 ++ 0#5 ++ s ++ 0#5 ++ k ++ n ++ 1#6 }
    (sbindBody (.sbind s k n) (37#6 ++ 0#5 ++ s ++ 0#5 ++ k ++ n ++ 1#6) s.toNat k.toNat n.toNat) st

/-- SUNBIND (R288). Unbinds a context after pushes drain. -/
def execSunbind (s : BitVec 5) (st : State) : Out :=
  run { word := 37#6 ++ 0#5 ++ s ++ 0#10 ++ 2#6 }
    (afterReplays s.toNat (sunbindBody (.sunbind s) (37#6 ++ 0#5 ++ s ++ 0#10 ++ 2#6) s.toNat)) st

/-- SPOS (R289). Reads a context's POS. -/
def execSpos (s : BitVec 5) (d : BitVec 5) (st : State) : Out :=
  run { word := 37#6 ++ 0#5 ++ s ++ d ++ 0#5 ++ 3#6, dsts := [d.toNat] }
    (afterReplays s.toNat (sposBody (37#6 ++ 0#5 ++ s ++ d ++ 0#5 ++ 3#6) s.toNat d)) st

/-- SPOS_SET (R289). Reads and then sets a context's POS. -/
def execSposSet (a : BitVec 5) (s : BitVec 5) (d : BitVec 5) (st : State) : Out :=
  run { word := 37#6 ++ a ++ s ++ d ++ 1#5 ++ 3#6, srcs := [a.toNat], dsts := [d.toNat] }
    (afterReplays s.toNat (sposSetBody (.sposSet a s d) (37#6 ++ a ++ s ++ d ++ 1#5 ++ 3#6) a s.toNat d)) st

/-- SSKIP (R289). Advances POS, discarding skipped elements. -/
def execSskip (a : BitVec 5) (s : BitVec 5) (st : State) : Out :=
  run { word := 37#6 ++ a ++ s ++ 0#10 ++ 4#6, srcs := [a.toNat] }
    (afterReplays s.toNat (sskipBody (.sskip a s) (37#6 ++ a ++ s ++ 0#10 ++ 4#6) a s.toNat)) st

/-- SFLUSH (R290). Orders a context against the owner's stores or drains its pushes. -/
def execSflush (s : BitVec 5) (st : State) : Out :=
  run { word := 37#6 ++ 0#5 ++ s ++ 0#10 ++ 5#6 }
    (afterReplays s.toNat (sflushBody (.sflush s) (37#6 ++ 0#5 ++ s ++ 0#10 ++ 5#6) s.toNat)) st

/-- SSTAT (R290). Returns a context's status word. -/
def execSstat (s : BitVec 5) (d : BitVec 5) (st : State) : Out :=
  run { word := 37#6 ++ 0#5 ++ s ++ d ++ 0#5 ++ 6#6, dsts := [d.toNat] }
    (fun st => .done (st.setGn d (((st.core st.here).ctx s.toNat).word
    (slotOf ((st.core st.here).ctx s.toNat).owner)))) st

/-- COPY (R291). Starts a copy described by a parameter block and returns a handle. -/
def execCopy (a : BitVec 5) (d : BitVec 5) (s : State) : Out :=
  run { word := 37#6 ++ a ++ 0#5 ++ d ++ 0#5 ++ 8#6, srcs := [a.toNat], dsts := [d.toNat] }
    (copyBody (.copy a d) (37#6 ++ a ++ 0#5 ++ d ++ 0#5 ++ 8#6) a d) s

/-- COPYST (R291). Returns the status of a copy handle. -/
def execCopyst (a : BitVec 5) (d : BitVec 5) (s : State) : Out :=
  runG { word := 37#6 ++ a ++ 0#5 ++ d ++ 0#5 ++ 9#6, srcs := [a.toNat], dsts := [d.toNat] } d
    (fun s => BitVec.ofNat 64 ((s.core s.here).copyst (s.gn a))) s

/-- WAITGEN (R292). Waits for an arrival word's generation, then acquires. -/
def execWaitgen (a : BitVec 5) (b : BitVec 5) (q : BitVec 5) (s : State) : Out :=
  run { word := 37#6 ++ a ++ b ++ q ++ 0#5 ++ 16#6, srcs := [a.toNat, b.toNat, q.toNat] }
    (waitgenBody (.waitgen a b q) a b q) s

/-- ARMGEN (R292). Sets an arrival word's target. -/
def execArmgen (a : BitVec 5) (b : BitVec 5) (s : State) : Out :=
  run { word := 37#6 ++ a ++ b ++ 0#10 ++ 17#6, srcs := [a.toNat, b.toNat] }
    (armgenBody (.armgen a b) (37#6 ++ a ++ b ++ 0#10 ++ 17#6) a b) s

/-- ADDGEN (R292). Releases, then adds arrivals to an arrival word. -/
def execAddgen (a : BitVec 5) (b : BitVec 5) (q : BitVec 5) (s : State) : Out :=
  run { word := 37#6 ++ a ++ b ++ q ++ 0#5 ++ 18#6, srcs := [a.toNat, b.toNat, q.toNat] }
    (addgenBody (.addgen a b q) (37#6 ++ a ++ b ++ q ++ 0#5 ++ 18#6) a b q) s

/-! ## Fetching ahead and draining (R271, R272) -/

/-- The agent a context's accesses are checked as: its owner, as it is or as it was killed, at the level of the binding. -/
def State.ctxAgent (s : State) (k : Ctx) : Agent :=
  { k.heir.getD (s.thr k.owner).agent with fn := k.fn, lease := k.lease, level := k.level }

/-- An engine step on a context may be charged (R411). -/
def State.ctxQuota (s : State) (c : Nat) (k : Ctx) : Bool := 2 ≤ k.level || s.quotaOk (quadOf c) k.fn

/-- An element that the engine can fetch: not PAD, not OVF, aligned. -/
def Ctx.fetchable (k : Ctx) (e : Nat) : Bool :=
  match k.desc.addr k.desc.base e with
  | .at a => a.toNat % k.desc.size == 0
  | _ => false

/-- The next element to fetch: the first in the buffer's window that is neither held nor asked for. -/
def Ctx.nextFetch (k : Ctx) : Option Nat :=
  ((List.range (min (1024 / k.desc.size) (k.desc.total - k.pos))).map (k.pos + ·)).find? fun e =>
    k.fetchable e && !k.asked.contains e && !k.buf.any fun p => p.1 == e

/-- Wakes the owner that waits for a context. -/
def State.wakeCtx (s : State) (c x : Nat) : State :=
  let t := ((s.core c).ctx x).owner
  let th := s.thr t
  if th.replaying && th.st != .parked .mem then s.dueOnce (.replayIssue t)
  else if th.st = .parked .mem && th.op.again && th.op.aux = x + 1 then s.wakeSame t else s

/-- STREAM_FETCH_ISSUE (R271). The core's stream engine issues the next fetch-ahead access of an in context, one granule per cycle in turn. -/
def execStreamFetchIssue (c x : Nat) (s : State) : Out :=
  eventIf (validCore c && x < 16)
    (let k := (s.core c).ctx x
     if !k.bound || k.desc.dirOut || k.kind = 2 then s
     else if (s.core c).away then s.defer (.streamFetchIssue c x)
     else match k.nextFetch with
       | none => s
       | some e =>
         if !s.ctxQuota c k then (s.quotaFail (quadOf c) k.fn).defer (.streamFetchIssue c x)
         else ((s.modCtx c x fun k => { k with asked := k.asked ++ [e] }).due (.streamElementArrival c x e)).defer
           (.streamFetchIssue c x))

/-- Puts a fetched element into the buffer. -/
def State.putElem (s : State) (c x e : Nat) (v : Elem) : State :=
  (s.modCtx c x fun k => { k with asked := k.asked.filter (· != e), buf := k.buf ++ [(e, v)] }).wakeCtx c x

/-- Generation of a context's request for an element: a reply from before the window opened is stale. -/
def Ctx.genOf (k : Ctx) (e : Nat) : Nat := k.epoch * 2 ^ 44 + e

/-- STREAM_ELEMENT_ARRIVAL (R271). An element fetched ahead arrives in a context's buffer. -/
def execStreamElementArrival (c x e : Nat) (s : State) : Out :=
  eventIf (validCore c && x < 16)
    (let k := (s.core c).ctx x
     if !k.bound || !k.asked.contains e then s
     else if (s.core c).away then s.defer (.streamElementArrival c x e)
     else match k.desc.addr k.desc.base e with
       | .at a =>
         match s.engineOne c (s.ctxAgent k) false (ctxKey c x) (k.genOf e) a k.desc.size rightR
             (fun p => .load p k.desc.size) [] with
         | .done s2 bs => s2.putElem c x e (.ok bs)
         | .sent s2 _ => s2
         | .hold s2 _ => s2.defer (.streamElementArrival c x e)
         | .fail s2 f => s2.putElem c x e (.bad f)
         | .miss s2 _ _ _ _ => s2.putElem c x e .page
       | _ => s)

/-- A push has performed or been refused: the next follows. -/
def State.drained (s : State) (c x e : Nat) (bad : Option Word) : State :=
  let s := s.modCtx c x fun k =>
    { k with asked := k.asked.filter (· != e), buf := k.buf.filter fun p => p.1 != e
             refused := if bad.isSome then bad else k.refused }
  let s := s.wakeCtx c x
  if ((s.core c).ctx x).buf = [] then s else s.dueOnce (.streamDrain c x)

/-- STREAM_DRAIN (R271). An out context drains an element as a store. -/
def execStreamDrain (c x : Nat) (s : State) : Out :=
  eventIf (validCore c && x < 16)
    (let k := (s.core c).ctx x
     match k.buf with
     | (e, .out bs d a da ea) :: _ =>
       let w := s.ctxAgent k
       let q := quadOf c
       if k.asked.contains e then s
       else if (s.core c).away then s.defer (.streamDrain c x)
       else if !s.ctxQuota c k then (s.quotaFail q k.fn).defer (.streamDrain c x)
       else
         let go (s : State) (a : Nat) : State :=
           match s.engineDo c w (ctxKey c x) (k.genOf e) ea da d (.store a bs) [] with
           | .done s2 _ => s2.drained c x e none
           | .sent s2 _ => s2.modCtx c x fun k => { k with asked := k.asked ++ [e] }
           | .hold s2 _ => s2.defer (.streamDrain c x)
           | .fail s2 _ => s2.drained c x e (some ea)
           | .miss s2 _ _ _ _ => s2
         if d = .hbm then
           match s.translate q k.fn k.lease k.level a rightW false 1 with
           | .ok s2 pa _ => go s2 (hbmBase + pa)
           | .miss s2 sub kind stage =>
             let first := !(s.quad q).pages.any fun p => p.asid == (s.fn k.fn).asid && p.page == a / 2 ^ 16
             (if first then s2.pageMiss k.owner true a sub kind stage else s2).defer (.streamDrain c x)
           | .fatal s2 => (s2.quadError c 0x0E (slotOf k.owner) da).drained c x e (some ea)
           | .ue s2 => s2.drained c x e (some ea)
         else if w.level < 2 && !s.ownerOk k.fn d a then s.drained c x e (some ea)
         else go s a
     | _ => s)

/-! ## Ring streams (R275) -/

/-- The code of ERR for a fault of a fill (R265). -/
def errCode (c : Cause) : Nat :=
  if c.code = cSeg then 1 else if c.code = cStream then 2 else if c.code = cMemUe then 3 else if c.code = 0x10 then 4
  else if c.code = 0x11 then 5 else if c.code = cMisalign then 6 else if c.code = cFatal then 7 else 8

/-- The piece of a list of accesses that follows `off` bytes: address, bytes within a granule, alignment at its start. -/
def nextPiece : List (Word × Nat × Nat) → Nat → Option (Word × Nat × Nat)
  | [], _ => none
  | (ea, n, al) :: r, off =>
    if off < n then
      let a := ea + BitVec.ofNat 64 off
      some (a, min (n - off) (64 - a.toNat % 64), if off = 0 then al else 1)
    else nextPiece r (off - n)

/-- What a tile's fill reads next. -/
def Geom.piece (g : Geom) (ga gb : Word) (got : List Byte) : Except Cause (Option (Word × Nat × Nat)) :=
  if g.fmt = 12 then (g.need ga gb got).map fun l => nextPiece l 0
  else .ok (nextPiece ((List.range (g.nrm1 + 1)).flatMap (g.rowAccess ga gb)) got.length)

/-- How far a fill has come: its bytes complete, waiting, or a fault. -/
inductive FillRun where
  | full (s : State) (bs : List Byte)
  | wait (s : State) (bs : List Byte) (sent : Bool)
  | bad (s : State) (c : Cause)

/-- Reads a tile's rows for a fill. -/
def State.fillReads (s : State) (c x : Nat) (k : Ctx) (g : Geom) (ga gb : Word) : Nat → List Byte → FillRun
  | 0, got => .full s got
  | n + 1, got =>
    match g.piece ga gb got with
    | .error e => .bad s e
    | .ok none => .full s got
    | .ok (some (ea, len, al)) =>
      if ea.toNat % al != 0 then .bad s { code := cMisalign, tval := ea }
      else match s.engineOne c (s.ctxAgent k) true (ctxKey c x) (k.genOf k.pos) ea len rightR (fun a => .load a len) got with
        | .done s2 bs => s2.fillReads c x k g ga gb n bs
        | .sent s2 bs => .wait s2 bs true
        | .hold s2 bs => .wait s2 bs false
        | .fail s2 e => .bad s2 e
        | .miss s2 _ _ _ _ => .bad s2 { code := cFatal }

/-- The tiles of a fill's slots from `slot` on. -/
def Core.fillTiles (k : Core) (r slot : Nat) : Nat × Nat :=
  ((k.ring r).tile slot, (k.ring r).tile ((slot + 1) % max 1 (k.ring r).len))

/-- The fill in progress ends: its slots become FULL, poisoned with the code of a fault, which stops the context. -/
def State.fillDone (s : State) (c x err : Nat) (put : Nat → Nat → Core → Core) : State :=
  let k := (s.core c).ctx x
  match k.fill with
  | none => s
  | some (slot, slots, _) =>
    let s := s.modCore c fun core =>
      let (t, t2) := core.fillTiles k.n slot
      let core := if err = 0 then put t t2 core
        else (if slots = 2 then core.modTile t2 fun y => y.setPois true else core).modTile t fun y => y.setPois true
      core.modRing k.n fun g => g.filled slot slots
    let s := s.modCtx c x fun k =>
      { k with pos := k.pos + 1, got := [], asked := [], fill := none, err := if err = 0 then k.err else err }
    let s := s.dueOnce (.matrixUnitStart c)
    if err = 0 then s.dueOnce (.ringStreamFill c x) else s

/-- The companion address of an element (R275). -/
def Desc.companion (d : Desc) (e : Nat) : Option Word :=
  (strideSum d.aux.toInt [((e : Int), d.cstep)]).map (BitVec.ofInt 64)

/-- The rows of a PAD tile (R275). -/
def padRows (g : Geom) : List TileRow :=
  List.replicate 32 { data := List.replicate (64 * g.slots) 0, scale := some 127, mask := some (BitVec.allOnes 64) }

/-- The slots that a tile's descriptor needs; one where the descriptor is refused. -/
def Geom.claims (g : Geom) : Nat := if g.ok then g.slots else 1

/-- A fill claims the slots at PI for the next element; the descriptor of the tile there governs it. -/
def State.fillStart (s : State) (c x : Nat) : State :=
  let r := ((s.core c).ctx x).n
  let rg := (s.core c).ring r
  let w := ((s.core c).tile (rg.tile rg.pi)).geom
  (s.modCore c fun k => k.modRing r fun g => g.claim (geomOf w).claims).modCtx c x fun k =>
    { k with fill := some (rg.pi, (geomOf w).claims, w), got := [], asked := [] }

/-- One step of the fill in progress. -/
def State.fillStep (s : State) (c x slot : Nat) (g : Geom) : State :=
  let k := (s.core c).ctx x
  let (t, t2) := (s.core c).fillTiles k.n slot
  let put (s : State) (rs : List TileRow) : State := s.fillDone c x 0 fun t t2 core => core.putRows t t2 g.pair rs
  let bad (s : State) (err : Nat) : State := s.fillDone c x err fun _ _ core => core
  if !g.okAt t || (g.sp != 0 && g.scaled && g.cstr % 8 != 0) || (g.pair && t2 != t + 1) then bad s 8
  else match k.desc.addr k.desc.base k.pos, k.desc.companion k.pos with
    | .pad, _ => put s (padRows g)
    | .at ga, some gb =>
      match s.fillReads c x k g ga gb 400 k.got with
      | .bad s2 e => bad s2 (errCode e)
      | .wait s2 bs sent =>
        let s3 := s2.modCtx c x fun k => { k with got := bs, asked := if sent then [k.pos] else [] }
        if sent then s3 else s3.defer (.ringStreamFill c x)
      | .full s2 bs =>
        match g.rows gb 32 0 ga bs with
        | .error e => bad s2 (errCode e)
        | .ok rs =>
          put ((s2.charge (quadOf c) k.fn 7 g.slots).charge (quadOf c) k.fn 8 (if g.fmt = 12 then g.nrm1 + 1 else 0)) rs
    | _, _ => bad s 2

/-- RING_STREAM_FILL (R275). A ring stream fills the next ring slot from an element: at the quota boundary no new tile
begins; a fill in progress ends, also after a kill (R249). -/
def execRingStreamFill (c x : Nat) (s : State) : Out :=
  eventIf (validCore c && x < 16)
    (let k := (s.core c).ctx x
     let r := (s.core c).ring k.n
     if k.kind != 2 || k.asked != [] then s
     else if (s.core c).away then s.defer (.ringStreamFill c x)
     else match k.fill with
       | some (slot, _, w) => s.fillStep c x slot (geomOf w)
       | none =>
         if !k.bound || k.err != 0 || k.desc.total ≤ k.pos then s
         else if !s.ctxQuota c k then (s.quotaFail (quadOf c) k.fn).defer (.ringStreamFill c x)
         else if r.len = 0 || (s.core c).empties k.n < (geomOf ((s.core c).tile (r.tile r.pi)).geom).claims then
           s.defer (.ringStreamFill c x)
         else (s.fillStart c x).defer (.ringStreamFill c x))

/-! ## Copy chunks (R277, R278) -/

/-- A copy slot of a core. -/
def Core.copy (k : Core) (i : Nat) : Copy := vget {} k.copies i

/-- Changes a copy slot. -/
def State.modCopy (s : State) (c i : Nat) (f : Copy → Copy) : State :=
  s.modCore c fun k => { k with copies := vmod {} k.copies i f }

/-- The address of byte `b` of a row, or overflow. -/
def rowAddr (base stride : Word) (row : Int) (b : Nat) : Option Word :=
  (strideSum base.toInt [(row, stride.toInt), ((b : Int), 1)]).map (BitVec.ofInt 64)

/-- The pieces of one side of a chunk: byte index, address or overflow, bytes within a granule and a row. -/
def copyPieces (base stride : Word) (row0 : Int) (len : Nat) : Nat → Nat → Nat → List (Nat × Option Word × Nat)
  | 0, _, _ => []
  | fuel + 1, pos, last =>
    if last ≤ pos then []
    else match rowAddr base stride (row0 + (pos / len : Nat)) (pos % len) with
      | none => [(pos, none, 1)]
      | some a =>
        let n := min (min (len - pos % len) (last - pos)) (64 - a.toNat % 64)
        (pos, some a, n) :: copyPieces base stride row0 len fuel (pos + n) last

/-- Source pieces of the chunk that starts at `pos`. -/
def Copy.srcPieces (k : Copy) (pos last : Nat) : List (Nat × Option Word × Nat) :=
  copyPieces (BitVec.ofNat 64 (natAt k.block 0 8)) (BitVec.ofNat 64 (natAt k.block 16 8)) (signedAt k.block 40 4)
    (natAt k.block 32 4) 4097 pos last

/-- Destination pieces. -/
def Copy.dstPieces (k : Copy) (pos last : Nat) : List (Nat × Option Word × Nat) :=
  copyPieces (BitVec.ofNat 64 (natAt k.block 8 8)) (BitVec.ofNat 64 (natAt k.block 24 8)) (signedAt k.block 44 4)
    (natAt k.block 32 4) 4097 pos last

/-- The first byte of one side that fails its check: index, a rank (overflow before SEG), code, DETAIL. -/
def State.pieceFail (s : State) (c : Nat) (w : Agent) (need : Nat) (ps : List (Nat × Option Word × Nat)) :
    Option (Nat × Nat × Nat × Nat) :=
  ps.findSome? fun (i, a, n) =>
    match a with
    | none => some (i, 0, 2, 0)
    | some a =>
      (List.range n).findSome? fun b =>
        match s.segCheck w.thread (quadOf c) (a + BitVec.ofNat 64 b) 1 need with
        | .error e => some (i + b, 1, 1, e.detail)
        | .ok _ => none

/-- The failure that comes first by byte, overflow first, then the source. -/
def firstFail (a b : Option (Nat × Nat × Nat × Nat)) : Option (Nat × Nat × Nat × Nat) :=
  match a, b with
  | some x, some y => if y.1 < x.1 || (y.1 == x.1 && y.2.1 < x.2.1) then some y else some x
  | some x, none => some x
  | none, y => y

/-- Code of a copy's failure for a fault of an access (R278). -/
def copyCode (e : Cause) : Nat × Nat :=
  if e.code = cMemUe then (3, 0) else if e.code = cFatal then (4, 0) else (1, e.detail)

/-- A copy ends with a code (R277, R279). -/
def State.copyEnd (s : State) (c i code detail : Nat) : State :=
  (s.modCopy c i fun k => { k with code := code, detail := detail, inChunk := false, got := [], step := 0, waiting := false
                                   }).due (.copyComplete c i)

/-- The stores of a chunk, every one resolved and checked before any is performed (R277). -/
def State.copyStores (s : State) (c : Nat) (w : Agent) : List (Nat × Option Word × Nat) → List Byte → List Access →
    Except (State × Cause) (State × List Access)
  | [], _, as => .ok (s, as.reverse)
  | (_, none, _) :: _, _, _ => .error (s, { code := cStream })
  | (_, some ea, n) :: ps, bs, as =>
    match s.engineResolve c w true ea n rightW with
    | .fail s e => .error (s, e)
    | .miss s _ _ _ _ => .error (s, { code := cFatal })
    | .ok s2 da d a =>
      if s2.unitAbsent d then .error (s2, { code := cSeg, detail := 3, tval := ea })
      else s2.copyStores c w ps (bs.drop n) ({ dest := d, op := .store a (bs.take n), ea := ea, da := da } :: as)

/-- The panel of an access. -/
def Access.panel? (a : Access) : Option Nat :=
  match a.dest with
  | .panel p => some p
  | _ => none

/-- A chunk has performed: the next, or the end (R277). -/
def State.chunkDone (s : State) (c i last : Nat) : State :=
  let s := s.modCopy c i fun k => { k with done := last, inChunk := false, got := [], step := 0, waiting := false }
  if ((s.core c).copy i).total ≤ last then s.due (.copyComplete c i) else s.dueOnce (.copyChunk c i)

/-- Performs the stores of a chunk on this panel; none while one of them has to wait. -/
def State.copyLocal (s : State) (c i last : Nat) (w : Agent) (as : List Access) : State :=
  if as.any fun a => !s.passes c a.dest || s.heldAny [(a.dest, a.op.addr, a.op.size)] then s.defer (.copyChunk c i)
  else (as.foldl (fun s a => match s.engineDo c w 0 0 a.ea a.da a.dest a.op [] with
    | .done s2 _ => s2
    | _ => s) s).chunkDone c i last

/-- The frame of the bulk writes of a chunk to one panel; frames of an operation to a panel are numbered from 0 (R434). -/
def State.copyFrame (s : State) (c i : Nat) (k : Copy) (p : Nat) (as : List Access) : State :=
  let ws := (as.filter fun a => a.panel? == some p).filterMap fun a => match a.op with
    | .store _ bs => some (a.da, bs)
    | _ => none
  let beats := 1 + ((ws.map fun w => w.2.length).sum + 63) / 64
  ((s.charge (quadOf c) k.who.fn 20 beats).sendBulk p k.who.fn
    (.bulk (copyKey c i + 2 ^ 22 * k.seq) (k.frames.count p) k.who.fn k.who.level ws) beats).modCopy c i fun k =>
      { k with waiting := true, far := true, frames := p :: k.frames }

/-- The writes of a chunk that has been read: first the homes on other panels are asked whether they take their stores,
then one bulk frame goes to each such panel, and at last the stores on this panel are performed. -/
def State.copyWrite (s : State) (c i last : Nat) (k : Copy) (as : List Access) : State :=
  let asks := farChecks as
  let panels := (as.filterMap Access.panel?).eraseDups
  match s.storeFail as, asks[k.step]?, panels[k.step - asks.length]? with
  | some e, _, _ => s.copyEnd c i (copyCode e).1 (copyCode e).2
  | none, some a, _ =>
    (match s.engineDo c k.who (copyKey c i) k.seq a.ea a.da a.dest a.op [] with
      | .sent s2 _ => s2
      | _ => s).modCopy c i fun k => { k with waiting := true, far := true }
  | none, none, some p => s.copyFrame c i k p as
  | none, none, none => s.copyLocal c i last k.who (as.filter fun a => !a.dest.isFar)

/-- One step of a chunk whose charge is taken: checks, reads, writes. -/
def State.copyStep (s : State) (c i : Nat) : State :=
  let k := (s.core c).copy i
  let last := min k.total (k.done + 4096)
  let src := k.srcPieces k.done last
  let dst := k.dstPieces k.done last
  match firstFail (s.pieceFail c k.who rightR src) (s.pieceFail c k.who rightW dst) with
  | some (_, _, code, detail) => s.copyEnd c i code detail
  | none =>
    match s.engineReads c k.who (copyKey c i) k.seq ((src.filterMap fun p => p.2.1.map fun a => (a, p.2.2)).foldl
        (fun (acc : List (Word × Nat) × Nat) p =>
          if acc.2 + p.2 ≤ k.got.length then (acc.1, acc.2 + p.2) else (acc.1 ++ [p], acc.2 + p.2)) ([], 0)).1 k.got with
    | .fail s2 e => s2.copyEnd c i (copyCode e).1 (copyCode e).2
    | .sent s2 bs => s2.modCopy c i fun k => { k with got := bs, waiting := true, far := true }
    | .hold s2 bs => (s2.modCopy c i fun k => { k with got := bs }).defer (.copyChunk c i)
    | .miss s2 _ _ _ _ => s2.copyEnd c i 4 0
    | .done s2 bs =>
      let s2 := s2.modCopy c i fun k => { k with got := bs }
      match s2.copyStores c k.who dst bs [] with
      | .error (s3, e) => s3.copyEnd c i (copyCode e).1 (copyCode e).2
      | .ok (s3, as) => s3.copyWrite c i last k as

/-- The copy at the head of a core's copies: the oldest that has not ended (R277, R279). -/
def Core.headCopy (k : Core) : Option Nat :=
  (List.range 16).foldl (fun best i =>
    if !(k.copy i).live then best
    else match best with
      | some j => if (k.copy i).seq < (k.copy j).seq then some i else best
      | none => some i) none

/-- COPY_CHUNK (R277). A copy performs one 4 KiB chunk; the quota boundary is looked at before the chunk, never inside it
(R279). -/
def execCopyChunk (c k : Nat) (s : State) : Out :=
  eventIf (validCore c && k < 16)
    (let x := (s.core c).copy k
     let f := x.who.fn
     if (s.core c).headCopy != some k || x.waiting || x.total ≤ x.done || x.code != 0 then s
     else if (s.core c).away then s.defer (.copyChunk c k)
     else if x.inChunk then s.copyStep c k
     else if (s.core c).leaving then s.defer (.copyChunk c k)
     else if (s.fn f).boundary && !(s.fn f).unl then (s.modCopy c k fun x => { x with st := .held }).defer (.copyChunk c k)
     else if x.who.level < 2 && !s.quotaOk (quadOf c) f then (s.quotaFail (quadOf c) f).defer (.copyChunk c k)
     else ((s.charge (quadOf c) f 26 1).modCopy c k fun x => { x with st := .running, inChunk := true }).copyStep c k)

/-- The core that a completion message goes to. -/
def Copy.ncore (k : Copy) (c : Nat) : Nat := if natAt k.block 52 2 = 0xFFFF then c else natAt k.block 52 2

/-- The end of a copy is told under MODE (R278). -/
def State.copyNotify (s : State) (c i : Nat) : State :=
  let k := (s.core c).copy i
  let mode := natAt k.block 54 1
  let payload := toBytes 8 (natAt k.block 56 8) ++ toBytes 4 k.xid ++ [BitVec.ofNat 8 k.code, BitVec.ofNat 8 k.detail] ++
    toBytes 2 c
  let s := if bitAt mode 0 then
      let r := if validCore (k.ncore c) then
          s.inboxAt k.who.fn (k.ncore c) { header := header 2 s.panelNo 0 c, payload := payload, far := k.far }
        else (s, 1)
      if r.2 = 0 then r.1 else r.1.fnEvent k.who.fn (contextEvent 0x31 k.xid)
    else s
  if bitAt mode 1 then
    if k.orphan then s.fnEvent k.who.fn (contextEvent 0x10 k.xid)
    else s.queueEvent k.thread { cls := 0, sub := k.code, id := k.xid }
  else s

/-- The slot is ENDED, and the next copy starts (R279). -/
def State.copyClose (s : State) (c i : Nat) : State :=
  let s := (s.copyNotify c i).modCopy c i fun k => { k with st := .ended, ended := s.cycle, got := [], waiting := false }
  match (s.core c).headCopy with
  | some j => s.dueOnce (.copyChunk c j)
  | none => s

/-- The arrival update of a copy (R277, R282): true when it has performed or there is none. -/
def State.copyArrive (s : State) (c i : Nat) : State × Bool :=
  let k := (s.core c).copy i
  let a : Word := BitVec.ofNat 64 (natAt k.block 64 8)
  if k.code != 0 || a = 0 then (s, true)
  else if a.toNat % 8 != 0 then (s.modCopy c i fun k => { k with code := 1 }, true)
  else match s.engineResolve c k.who true a 8 (rightR + rightW) with
    | .fail s2 e => (s2.modCopy c i fun k => { k with code := (copyCode e).1, detail := (copyCode e).2 }, true)
    | .miss s2 _ _ _ _ => (s2.modCopy c i fun k => { k with code := 4 }, true)
    | .ok s2 da d p =>
      if d = .hbm then (s2.modCopy c i fun k => { k with code := 1, detail := 4 }, true)
      else match s2.engineDo c k.who (copyKey c i) k.seq a da d (.addgen p 1) [] with
        | .done s3 _ => (s3, true)
        | .sent s3 _ => (s3.modCopy c i fun k => { k with waiting := true, far := true }, false)
        | .hold _ _ => (s.defer (.copyComplete c i), false)
        | .fail s3 e => (s3.modCopy c i fun k => { k with code := (copyCode e).1 }, true)
        | .miss s3 _ _ _ _ => (s3, true)

/-- COPY_COMPLETE (R278). A copy ends and notifies by inbox or interrupt. -/
def execCopyComplete (c k : Nat) (s : State) : Out :=
  eventIf (validCore c && k < 16)
    (let x := (s.core c).copy k
     if !x.live || x.waiting then s
     else if (s.core c).away || (s.core (x.ncore c)).away then s.defer (.copyComplete c k)
     else
       let (s, ok) := s.copyArrive c k
       if ok then s.copyClose c k else s)

/-- An answer from another panel comes to a stream context or a copy. -/
def State.engineAnswer (s : State) (key gen : Nat) (r : Reply) : State :=
  let n := key % 2 ^ 20
  let c := n / 16
  let x := n % 16
  if key < 2 ^ 21 then
    let k := (s.core c).ctx x
    let e := gen % 2 ^ 44
    if gen / 2 ^ 44 != k.epoch || !k.asked.contains e then s.stale c
    else if k.desc.dirOut then
      match r, k.buf with
      | .trap _, (_, .out _ _ _ _ ea) :: _ => s.drained c x e (some ea)
      | _, _ => s.drained c x e none
    else if k.kind = 2 then
      let s := s.modCtx c x fun k => { k with asked := [] }
      match r with
      | .data bs => (s.modCtx c x fun k => { k with got := k.got ++ bs }).dueOnce (.ringStreamFill c x)
      | .trap e => s.fillDone c x (errCode e) fun _ _ core => core
      | _ => s.dueOnce (.ringStreamFill c x)
    else s.putElem c x e (match r with
      | .data bs => .ok bs
      | .trap f => .bad f
      | _ => .bad { code := cFatal })
  else
    let k := (s.core c).copy x
    if k.seq != gen || !k.waiting then s.stale c
    else
      let s := s.modCopy c x fun k => { k with waiting := false }
      match r with
      | .data bs => (s.modCopy c x fun k => { k with got := k.got ++ bs }).dueOnce (.copyChunk c x)
      | .trap e => s.copyEnd c x (copyCode e).1 (copyCode e).2
      | _ =>
        if k.total ≤ k.done then s.copyClose c x
        else (s.modCopy c x fun k => { k with step := k.step + 1 }).dueOnce (.copyChunk c x)

/-- A bulk frame of a copy has been acknowledged, or met a fault (R434). -/
def State.copyAcked (s : State) (key chunk : Nat) (bad : Option Cause) : State :=
  let n := key % 2 ^ 20
  let k := (s.core (n / 16)).copy (n % 16)
  if k.waiting && k.seq == key / 2 ^ 22 && k.frames.head?.any (fun p => k.frames.count p == chunk + 1) && k.inChunk then
    match bad with
    | some e => (if e.code = cFatal then s.quadError (n / 16) 0x0E 0 e.tval else s).copyEnd (n / 16) (n % 16) (copyCode e).1
        (copyCode e).2
    | none => (s.modCopy (n / 16) (n % 16) fun k => { k with waiting := false, step := k.step + 1 }).dueOnce
        (.copyChunk (n / 16) (n % 16))
  else s

/-- ARRIVAL_ADD (R282). Arrivals update an arrival word at its home and wake satisfied WAITGENs. -/
def execArrivalAdd (a n : Nat) (s : State) : Out :=
  eventIf (a % 8 = 0 && a < hbmBase)
    (let (now, s) := s.gateUnit (unitAt a) (.arrivalAdd a n)
     if !now || s.unitAbsent (unitAt a) then s
     else if s.wordHeld a then s.defer (.arrivalAdd a n)
     else match s.perform (.thread 0 0 false) (BitVec.ofNat 64 a) (.addgen a n) with
       | .reply s2 _ => s2
       | .queued s2 => s2
       | .hold => s)

end Sys2Proof.Machine
end

