-- ==== Sys2Proof/Machine/Collective.lean ====
section
/-! DEFINITION. The collective engine: major 0x27 and its events (R347 to R365). -/

namespace Sys2Proof.Machine

/-- A context of a die's engine. -/
def State.coll (s : State) (d x : Nat) : Coll := vget {} (s.die d).colls x

/-- Changes a context. -/
def State.modColl (s : State) (d x : Nat) (f : Coll → Coll) : State :=
  s.modDie d fun k => { k with colls := vmod {} k.colls x f }

/-- A context runs or is held. -/
def Coll.active (k : Coll) : Bool := k.st == .running || k.st == .held

/-! ## The descriptor (R348, R349, R363) -/

/-- An entry of the member list as panel * 1024 + die, the executing panel for XP = 0. -/
def memberOf (panel e : Nat) : Nat := (if bitAt e 23 then field e 22 16 else panel) * 1024 + field e 9 0

/-- The entries of a member list. -/
def listEntries (bs : List Byte) : Nat → List Nat
  | 0 => []
  | n + 1 => natAt bs 0 4 :: listEntries (bs.drop 4) n

/-- A descriptor field outside its range (R348). -/
def badColl (bs : List Byte) : Bool :=
  natAt bs 16 4 % 64 != 0 || natAt bs 16 4 = 0 || 2 ^ 31 < natAt bs 16 4 || natAt bs 20 2 = 0 || 4096 < natAt bs 20 2 ||
    4 ≤ natAt bs 24 1 || 3 ≤ natAt bs 25 1 || (natAt bs 24 1 == 3 && natAt bs 25 1 != 0) || 32 ≤ natAt bs 26 1 ||
    !(3 ≤ natAt bs 26 1 % 16 && natAt bs 26 1 % 16 ≤ 6) || natAt bs 27 1 < 8 || 16 < natAt bs 27 1 ||
    natAt bs 30 2 != 0 || (bs.drop 44).any (· != 0)

/-- A list that R363 refuses: reserved bits, die numbers above 899, a die named twice, the executing die not named. -/
def badMembers (panel die : Nat) (es : List Nat) : Bool :=
  let ms := es.map (memberOf panel)
  es.any (fun e => e / 2 ^ 24 != 0 || field e 15 10 != 0 || 900 ≤ field e 9 0) || ms.eraseDups.length != ms.length ||
    !ms.contains (panel * 1024 + die)

/-- What a member needs of its buffer (R363). -/
def bufNeed (kind rank : Nat) : Nat :=
  if (kind = 2 ∧ rank ≠ 0) ∨ (kind = 3 ∧ rank = 0) then rightR else rightR + rightW

/-- A trap SEG whose value the spec does not state: no address is accessed. -/
def segFree (detail : Nat) (s : State) : Res :=
  let (v, s) := s.unstated
  raise cSeg (BitVec.ofNat 64 v) detail s

/-- The checks of R363 after both reads, and the definition. -/
def cdefFinish (word : Half) (x : Nat) (bs ml : List Byte) (s : State) : Res :=
  let c := s.here
  let d := dieOf c
  let k := s.coll d x
  let buf : Word := BitVec.ofNat 64 (natAt bs 0 8)
  let es := listEntries ml (natAt bs 20 2)
  let ms := es.map (memberOf s.panelNo)
  let rank := ms.idxOf (s.panelNo * 1024 + d)
  let ncore := if natAt bs 28 2 = 0xFFFF then c else natAt bs 28 2
  if buf.toNat % 64 != 0 then raise cMisalign buf 0 s
  else if k.st == .armed || k.active then illegal word 3 s
  else if badColl bs || badMembers s.panelNo d es then illegal word 2 s
  else if ms.any (fun m => s.sysPanels ≤ m / 1024) then segFree 2 s
  else match s.segCheck s.me (quadOf c) buf (natAt bs 16 4) (bufNeed (natAt bs 24 1) rank) with
    | .error e => .trap s e
    | .ok (_, .panel _, _) => raise cSeg buf 1 s
    | .ok _ =>
      if !validCore ncore || !s.holds s.me.fn ncore then segFree 3 s
      else
        let v : Coll :=
          { st := .defined, owner := s.me.fn, who := s.me.agent, core := c, buf := buf, len := natAt bs 16 4, members := ms
            cid := natAt bs 22 2, kind := natAt bs 24 1, op := natAt bs 25 1, type := natAt bs 26 1 % 16
            sat := bitAt (natAt bs 26 1) 4, chlog := natAt bs 27 1, ncore := ncore, tag := BitVec.ofNat 64 (natAt bs 32 8)
            ctimeout := natAt bs 40 4, rank := rank, share := if k.st == .free then 16 else k.share, outbox := k.outbox }
        .done (s.modColl d x fun _ => v)

/-- A context that belongs to another function (R347). -/
def State.foreign (s : State) (x : Nat) : Bool :=
  let k := s.coll (dieOf s.here) x
  k.st != .free && k.owner != s.me.fn

/-- CDEF: the descriptor, then the member list, then the checks (R363). -/
def cdefBody (insn : Instr) (word : Half) (a : BitVec 5) (x : Nat) (s : State) : Res :=
  let second (bs : List Byte) (s : State) : Res :=
    let ml : Word := BitVec.ofNat 64 (natAt bs 8 8)
    let n := 4 * natAt bs 20 2
    if ml.toNat % 4 != 0 then raise cMisalign ml 0 s
    else if n = 0 || 4 * 4096 < n then cdefFinish word x bs [] s
    else match s.reach s.cur ml n rightR 4 0 false with
      | .trap s c => .trap s c
      | .page s => .keep (s.park s.cur .page {})
      | .ok s da parts =>
        match parkedLoad insn ml s da parts with
        | .keep s2 => .keep (if s2.me.op.todo = [] then s2 else s2.modMe fun th => { th with op := { th.op with got := bs } })
        | r => r
  let fin (bs : List Byte) (s : State) : Res :=
    if bs.length ≤ 128 then second bs s else cdefFinish word x (bs.take 128) (bs.drop 128) s
  if s.foreign x then segFree 3 s
  else memAccess (s.g a) 128 rightR 64 0 false (parkedLoad insn (s.g a)) fin s

/-! ## Partition (R350) and steps (R351) -/

/-- A step of a member's run: its part of the buffer, whether it reads the buffer, the members whose chunks it takes in
order with their phase and whether its own value comes first, whether it writes the result, and whom it sends to in which
phase. -/
structure CollStep where
  lo : Nat
  len : Nat
  own : Bool
  ins : List Nat
  phase : Nat := 0
  ownFirst : Bool := true
  write : Bool
  out : Nat := 0
  dests : List Nat := []
  deriving DecidableEq, Repr

/-- Members P. -/
def Coll.p (k : Coll) : Nat := k.members.length

/-- Chunk size. -/
def Coll.ch (k : Coll) : Nat := 1 <<< k.chlog

/-- Segment `i` of RAR: first byte and end. -/
def Coll.segment (k : Coll) (i : Nat) : Nat × Nat :=
  (64 * (i * (k.len / 64) / k.p), 64 * ((i + 1) * (k.len / 64) / k.p))

/-- Children of a rank in the tree. -/
def Coll.children (k : Coll) : List Nat := [2 * k.rank + 1, 2 * k.rank + 2].filter (· < k.p)

/-- Stages of a run. -/
def Coll.stages (k : Coll) : Nat :=
  if k.p = 1 then 0 else if k.kind = 0 then 2 * k.p - 1 else 2

/-- Part of the buffer that a stage covers (none: this member has no such stage). -/
def Coll.region (k : Coll) (t : Nat) : Option (Nat × Nat) :=
  if k.kind = 0 then
    some (k.segment ((k.rank + 2 * k.p - 1 - (if t < k.p then t else t - k.p)) % k.p))
  else
    let up := k.kind != 3
    let down := k.kind != 2
    if t = 0 then (if up || k.rank = 0 then some (0, k.len) else none)
    else if down && k.rank != 0 then some (0, k.len) else none

/-- The step of a stage over a part of the buffer. -/
def Coll.stepOf (k : Coll) (t lo len : Nat) : CollStep :=
  let parent := (k.rank - 1) / 2
  if k.kind = 0 then
    let prev := (k.rank + k.p - 1) % k.p
    let next := (k.rank + 1) % k.p
    if t = 0 then { lo := lo, len := len, own := true, ins := [], write := false, dests := [next] }
    else if t + 1 < k.p then
      { lo := lo, len := len, own := true, ins := [prev], ownFirst := false, write := false, dests := [next] }
    else if t + 1 = k.p then
      { lo := lo, len := len, own := true, ins := [prev], ownFirst := false, write := true, out := 1, dests := [next] }
    else
      { lo := lo, len := len, own := false, ins := [prev], phase := 1, write := true, out := 1
        dests := if t + 2 = 2 * k.p then [] else [next] }
  else if k.kind = 3 then
    if k.rank = 0 then { lo := lo, len := len, own := true, ins := [], write := false, out := 1, dests := k.children }
    else { lo := lo, len := len, own := false, ins := [parent], phase := 1, write := true, out := 1, dests := k.children }
  else if t = 0 then
    if k.rank = 0 then
      { lo := lo, len := len, own := true, ins := k.children, write := true, out := 1
        dests := if k.kind = 1 then k.children else [] }
    else { lo := lo, len := len, own := true, ins := k.children, write := false, dests := [parent] }
  else { lo := lo, len := len, own := false, ins := [parent], phase := 1, write := true, out := 1, dests := k.children }

/-- The next step from a stage and chunk, past the stages that are empty; none at the end of the run. -/
def Coll.stepFrom (k : Coll) : Nat → Nat → Nat → Option (Nat × Nat × CollStep)
  | 0, _, _ => none
  | fuel + 1, t, c =>
    if k.stages ≤ t then none
    else match k.region t with
      | some (lo, hi) =>
        let a := lo + c * k.ch
        if a < hi then some (t, c, k.stepOf t a (min k.ch (hi - a))) else k.stepFrom fuel (t + 1) 0
      | none => k.stepFrom fuel (t + 1) 0

/-- The step a run has come to. -/
def Coll.step? (k : Coll) : Option (Nat × Nat × CollStep) := k.stepFrom (k.stages + 1) k.stage k.chunk

/-- Granules of a part of the buffer. -/
def granules (lo len : Nat) : List Nat := (List.range (len / 64)).map fun i => lo + 64 * i

/-- The granules of a part that have come from a rank in a phase, in order; none while one is missing. -/
def Coll.gather (k : Coll) (rank phase : Nat) : List Nat → Option (List Chunk)
  | [] => some []
  | o :: os =>
    match k.rx.find? (fun c => c.rank == rank && c.phase == phase && c.off == o) with
    | none => none
    | some c => (k.gather rank phase os).map fun l => c :: l

/-- A whole chunk from its granules: bytes, and the lowest rank that poisoned one (R361). -/
def joinChunks (l : List Chunk) : List Byte × Option Nat :=
  (l.flatMap (·.bytes), l.foldl (fun m c => match m, c.poison with
    | some a, some b => some (min a b)
    | none, b => b
    | a, none => a) none)

/-- The inputs of a step; none while one is missing. -/
def Coll.inputs (k : Coll) (t : CollStep) : List Nat → Option (List (List Byte × Option Nat))
  | [] => some []
  | r :: rs =>
    match k.gather r t.phase (granules t.lo t.len), k.inputs t rs with
    | some l, some ls => some (joinChunks l :: ls)
    | _, _ => none

/-- A chunk step is ready: everything sent has been accepted, everything it takes has come. -/
def Coll.ready (k : Coll) : Bool :=
  k.st == .running && k.unsent == [] && match k.step? with
    | some (_, _, t) => (k.inputs t t.ins).isSome
    | none => false

/-! ## Combination (R351, R361) -/

/-- Width of an element in bytes. -/
def Coll.width (k : Coll) : Nat := if k.type = 3 ∨ k.type = 4 then 4 else 2

/-- op(a, b) of two elements, with its flags. -/
def Coll.comb (k : Coll) (a b : Nat) : Nat × Flags :=
  if k.op = 0 then
    if k.type = 3 then (narrowInt 3 k.sat (signedOf 32 a + signedOf 32 b), 0)
    else
      let (v, f) := numAdd false (readNum k.type a) (readNum k.type b)
      let (r, g) := roundTo k.type 0 false 0 v
      (r, f ||| g)
  else minMaxBits k.type (k.op == 2) a b

/-- Combines two buffers element by element. -/
def Coll.combBytes (k : Coll) : Nat → List Byte → List Byte → List Byte × Flags
  | 0, _, _ => ([], 0)
  | n + 1, a, b =>
    let w := k.width
    let (v, f) := k.comb (ofBytes (a.take w)) (ofBytes (b.take w))
    let (r, g) := k.combBytes n (a.drop w) (b.drop w)
    (toBytes w v ++ r, f ||| g)

/-- Combines two chunks; a poisoned one poisons the result under the lower rank. -/
def Coll.combChunk (k : Coll) (a b : List Byte × Option Nat) : (List Byte × Option Nat) × Flags :=
  match a.2, b.2 with
  | none, none =>
    let (r, f) := k.combBytes (a.1.length / k.width) a.1 b.1
    ((r, none), f)
  | some x, some y => ((a.1, some (min x y)), 0)
  | some x, none => ((a.1, some x), 0)
  | none, some y => ((a.1, some y), 0)

/-- Combines a list in order. -/
def Coll.fold (k : Coll) : List Byte × Option Nat → List (List Byte × Option Nat) → (List Byte × Option Nat) × Flags
  | a, [] => (a, 0)
  | a, b :: bs =>
    let (r, f) := k.combChunk a b
    let (v, g) := k.fold r bs
    (v, f ||| g)

/-! ## The status word, the end of a run, notices (R354 to R356) -/

/-- Code of a state. -/
def CollState.code : CollState → Nat
  | .free => 0
  | .defined => 1
  | .armed => 2
  | .running => 3
  | .held => 4
  | .ended => 5

/-- The status word for the owner (R356). -/
def Coll.word (k : Coll) : Nat :=
  k.st.code <<< 60 + (if k.st = .ended then k.code else 0) <<< 56 + 1 <<< 55 + k.flags.toNat <<< 50 +
    (k.kind % 4) <<< 48 + (k.run % 65536) <<< 32 + (k.rank % 4096) <<< 20 + (k.prank % 4096) <<< 8 + k.pcnt % 256

/-- The status word as a function reads it. -/
def Coll.wordFor (k : Coll) (f : Nat) : Nat := if k.st = .free || k.owner != f then 0 else k.word

/-- The context of a die that a collective's traffic names: function and identifier (R354). -/
def State.collOf (s : State) (d f cid : Nat) : Option Nat :=
  (List.range 16).find? fun x =>
    let k := s.coll d x
    k.st != .free && k.owner == f && k.cid == cid

/-- Takes a watch away (R359). -/
def State.unwatch (s : State) (d x : Nat) : State :=
  { s with watches := s.watches.filter fun w => !(w.2.2.1 == d && w.2.2.2 == x)
           agenda := s.agenda.filter fun e => e != .watchReached d x }

/-- An abort notice of a member's run to every member: those on this panel whose context is in that run, and frames to
other panels (R355). -/
def State.notifyAbort (s : State) (d x : Nat) : State :=
  let k := s.coll d x
  k.members.foldl (fun s m =>
    if m / 1024 = s.panelNo then
      if m % 1024 = d then s
      else match s.collOf (m % 1024) k.owner k.cid with
        | some y => if (s.coll (m % 1024) y).active && (s.coll (m % 1024) y).run == k.run
                    then s.dueOnce (.collectiveAbortNotice (m % 1024) y k.run) else s
        | none => s
    else s.sendFrame (m / 1024) k.owner (.collAbort k.cid k.run (m % 1024)) 2) s

/-- A member's context ends with a code: its completion is to be sent, and notices for the codes 2 to 7 (R354, R355). -/
def State.collEnd (s : State) (d x code : Nat) (tell : Bool := true) : State :=
  let k := s.coll d x
  let k := { k with st := .ended, code := code, rx := [], unsent := [] }
  let e : InboxEntry := { header := header 3 s.panelNo 0 k.core, payload := toBytes 8 k.tag.toNat ++ toBytes 8 k.word }
  let k := if tell then { k with outbox := k.outbox ++ [(k.owner, k.ncore, k.cid <<< 16 + x, e)] } else k
  let s := ((s.unwatch d x).modColl d x fun _ => k).dueOnce (.collectiveComplete d x)
  if 2 ≤ code then s.notifyAbort d x else s

/-- A run starts (R353, R360); an abort notice of a member that ended this run early stands. -/
def State.collStart (s : State) (d x : Nat) : State :=
  let s := (s.unwatch d x).modColl d x fun k =>
    { k with st := .running, run := (k.run + 1) % 65536, code := 0, flags := 0, prank := 0, pcnt := 0, stage := 0, chunk := 0
             rx := [], unsent := [], paused := s.cycle, progress := s.cycle }
  let k := s.coll d x
  let s := if k.ctimeout = 0 then s else s.dueOnce (.collectiveTimeout d x)
  let overlap := k.members.any fun m => m / 1024 == s.panelNo && m % 1024 != d &&
    match s.collOf (m % 1024) k.owner k.cid with
    | some y => (s.coll (m % 1024) y).st == .ended && 2 ≤ (s.coll (m % 1024) y).code && (s.coll (m % 1024) y).run == k.run
    | none => false
  let overlap := overlap || k.aborts.contains k.run
  let s := if overlap then s.dueOnce (.collectiveAbortNotice d x k.run) else s
  ((s.dueOnce (.collectiveHold d x)).dueOnce (.collectiveChunkReceive d x)).dueOnce (.collectiveChunkStep d x)

/-- The engine's last quad of a function on a die is released: its contexts end without a completion (R347). -/
def State.collRelease (s : State) (f d : Nat) : State :=
  (List.range 16).foldl (fun s x =>
    let k := s.coll d x
    if k.st = .free || k.owner != f then s
    else
      let s := if k.active then s.notifyAbort d x else s
      (s.unwatch d x).modColl d x fun k => { outbox := k.outbox }) s

/-- An engine fault (class 0x0A): every context ends LOST; whether the engine can still send its completions is free
(R353). -/
def State.collLost (s : State) (d : Nat) : State :=
  (List.range 16).foldl (fun s x =>
    if (s.coll d x).st = .free then s
    else
      let (tell, s) := s.flip
      s.collEnd d x 7 tell) s

/-! ## Instructions (R362 to R365) -/

/-- The place of a watch word (R359). -/
def watchPlace (d : Nat) : Dest → Bool
  | .tcm c => dieOf c == d
  | .spad c => dieOf c == d
  | .dsram c => dieOf c == d
  | _ => false

/-- CWATCH with OFF = 0 (R364): the thread is parked with reason REMOTE until the watch stands and the word was tested. -/
def cwatchBody (insn : Instr) (word : Half) (a b : BitVec 5) (x : Nat) (s : State) : Res :=
  let d := dieOf s.here
  let ea := s.g a
  let k := s.coll d x
  if s.foreign x then segFree 3 s
  else match s.segCheck s.me (quadOf s.here) ea 8 rightR with
    | .error c => .trap s c
    | .ok (da, u, p) =>
      if da.toNat % 8 != 0 then raise cMisalign ea 0 s
      else if !watchPlace d u then raise cSeg ea 1 s
      else if s.level < 2 && !s.ownerOk s.me.fn u p then raise cSeg ea 3 s
      else if k.st != .defined && k.st != .ended then illegal word 3 s
      else whenTaken insn .remote (fun s =>
        let s := { s with watches := s.watches ++ [(p, s.g b, d, x)] }
        .done ((s.modColl d x fun k => { k with st := .armed, back := k.st }).watchHit p 8)) s

/-- CWATCH with OFF = 1 (R364). -/
def cwatchOffBody (insn : Instr) (word : Half) (x : Nat) (s : State) : Res :=
  let d := dieOf s.here
  if s.foreign x then segFree 3 s
  else if (s.coll d x).st != .armed then illegal word 3 s
  else whenTaken insn .engine (fun s =>
    if s.watches.any fun w => w.2.2.1 == d && w.2.2.2 == x then
      .done ((s.unwatch d x).modColl d x fun k => { k with st := k.back })
    else .done s) s

/-- CSTART (R360, R365). -/
def cstartBody (insn : Instr) (word : Half) (x : Nat) (s : State) : Res :=
  let d := dieOf s.here
  let st := (s.coll d x).st
  if s.foreign x then segFree 3 s
  else if st != .defined && st != .armed && st != .ended then illegal word 3 s
  else if !s.released s.cur then waitMem insn s
  else whenTaken insn .engine (fun s => .done (s.collStart d x)) s

/-- CBW (R365). -/
def cbwBody (insn : Instr) (word : Half) (a : BitVec 5) (x : Nat) (s : State) : Res :=
  let d := dieOf s.here
  if s.foreign x then segFree 3 s
  else if (s.coll d x).st = .free then illegal word 3 s
  else if s.gn a = 0 || 16 < s.gn a then illegal word 2 s
  else whenTaken insn .engine (fun s => .done (s.modColl d x fun k => { k with share := s.gn a })) s

/-- CABORT (R353, R365). -/
def cabortBody (insn : Instr) (x : Nat) (r : BitVec 5) (s : State) : Res :=
  let d := dieOf s.here
  if s.foreign x then segFree 3 s
  else whenTaken insn .engine (fun s =>
    let k := s.coll d x
    let w := k.wordFor s.me.fn
    if k.st = .free || k.st = .ended then .done (s.setGn r w)
    else
      let s := if k.active then s else s.modColl d x fun k => { k with run := (k.run + 1) % 65536 }
      .done ((s.collEnd d x 2).setGn r w)) s

/-- CDEF (R363). Defines a collective context from a descriptor. -/
def execCdef (a : BitVec 5) (c : BitVec 5) (s : State) : Out :=
  run { word := 39#6 ++ a ++ c ++ 0#10 ++ 0#6, srcs := [a.toNat] }
    (cdefBody (.cdef a c) (39#6 ++ a ++ c ++ 0#10 ++ 0#6) a c.toNat) s

/-- CWATCH (R364). Registers a watch on a ready word. -/
def execCwatch (a : BitVec 5) (c : BitVec 5) (b : BitVec 5) (s : State) : Out :=
  run { word := 39#6 ++ a ++ c ++ b ++ 0#5 ++ 1#6, srcs := [a.toNat, b.toNat] }
    (cwatchBody (.cwatch a c b) (39#6 ++ a ++ c ++ b ++ 0#5 ++ 1#6) a b c.toNat) s

/-- CWATCH_OFF (R364). Removes a registered watch. -/
def execCwatchOff (c : BitVec 5) (s : State) : Out :=
  run { word := 39#6 ++ 0#5 ++ c ++ 1#10 ++ 1#6 }
    (cwatchOffBody (.cwatchOff c) (39#6 ++ 0#5 ++ c ++ 1#10 ++ 1#6) c.toNat) s

/-- CSTART (R365). Releases, then starts a collective run. -/
def execCstart (c : BitVec 5) (s : State) : Out :=
  run { word := 39#6 ++ 0#5 ++ c ++ 0#10 ++ 2#6 }
    (cstartBody (.cstart c) (39#6 ++ 0#5 ++ c ++ 0#10 ++ 2#6) c.toNat) s

/-- CSTAT (R365). Returns a collective context's status word. -/
def execCstat (c : BitVec 5) (d : BitVec 5) (s : State) : Out :=
  runG { word := 39#6 ++ 0#5 ++ c ++ d ++ 0#5 ++ 3#6, dsts := [d.toNat] } d
    (fun s => BitVec.ofNat 64 ((s.coll (dieOf s.here) c.toNat).wordFor s.me.fn)) s

/-- CBW (R365). Sets a collective context's link share. -/
def execCbw (a : BitVec 5) (c : BitVec 5) (s : State) : Out :=
  run { word := 39#6 ++ a ++ c ++ 0#10 ++ 4#6, srcs := [a.toNat] }
    (cbwBody (.cbw a c) (39#6 ++ a ++ c ++ 0#10 ++ 4#6) a c.toNat) s

/-- CABORT (R365). Aborts a collective context. -/
def execCabort (c : BitVec 5) (d : BitVec 5) (s : State) : Out :=
  run { word := 39#6 ++ 0#5 ++ c ++ d ++ 0#5 ++ 5#6, dsts := [d.toNat] }
    (cabortBody (.cabort c d) c.toNat d) s

/-! ## Chunk steps (R352, R355, R357, R361) -/

/-- How an engine's chunk fares: its granules resolved or read, a wait at a held word or a context that moves, a failed
access. -/
inductive CollTry (α : Type) where
  | ok (s : State) (v : α)
  | hold
  | fail (s : State) (da : Word)

/-- Resolves the granules of a chunk: unit, domain and canonical address of each. -/
def State.collResolve (s : State) (k : Coll) (need : Nat) : List Nat → List (Dest × Word × Nat) →
    CollTry (List (Dest × Word × Nat))
  | [], acc => .ok s acc.reverse
  | o :: os, acc =>
    match s.engineResolve k.core k.who true (k.buf + BitVec.ofNat 64 o) 64 need with
    | .ok s2 da d a =>
      if s2.unitAbsent d then .fail s da
      else if !s2.passes k.core d || (wordsOf a 64).any s2.wordHeld then .hold else s2.collResolve k need os ((d, da, a) :: acc)
    | .fail _ e => .fail s e.tval
    | .miss _ _ _ _ _ => .fail s (k.buf + BitVec.ofNat 64 o)

/-- Reads the granules of a chunk; an uncorrectable word poisons it under this member's rank (R361). -/
def State.collRead (s : State) (k : Coll) (key : Nat) : List (Dest × Word × Nat) → State × List Byte × Option Nat
  | [] => (s, [], none)
  | (_, da, a) :: ps =>
    match s.perform (.thread key 0 false) da (.load a 64) with
    | .reply s2 (.data bs) =>
      let (s3, r, p) := s2.collRead k key ps
      (s3, bs ++ r, p)
    | .reply s2 _ =>
      let (s3, r, _) := s2.collRead k key ps
      (s3, List.replicate 64 0 ++ r, some k.rank)
    | _ =>
      let (s3, r, p) := s.collRead k key ps
      (s3, List.replicate 64 0 ++ r, p)

/-- Writes a delivered chunk, or its poisoned words (R361). -/
def State.collWrite (s : State) (key : Nat) (poison : Bool) : List (Dest × Word × Nat) → List Byte → State
  | [], _ => s
  | (_, da, a) :: ps, bs =>
    let s := if poison then { s with poison := (wordsOf a 64).foldl keyAdd s.poison }
      else match s.perform (.thread key 0 false) da (.store a (bs.take 64)) with
        | .reply s2 _ => s2
        | _ => s
    s.collWrite key poison ps (bs.drop 64)

/-- The signature of a collective that its first chunk carries (R354). -/
def Coll.sig (k : Coll) : List Nat := [k.kind, k.op, k.type + 16 * bit k.sat, k.len, k.p]

/-- The centre of a die that hops are counted from. -/
def engineCore (d : Nat) : Nat := coreOfDie d 0

/-- Every core of a die is ABSENT: traffic to it is refused (R314, R355). -/
def State.dieAbsent (s : State) (d : Nat) : Bool :=
  (List.range 64).all fun i => (s.core (coreOfDie d i)).place.service == .absent

/-- Sends a chunk to a rank (R354, R357). -/
def State.collSend (s : State) (d x : Nat) (c : Chunk) (r : Nat) : State :=
  let k := s.coll d x
  let m := k.members.getD r 0
  let n := c.bytes.length / 64
  let far := m / 1024 != s.panelNo
  if k.st != .running then s
  else if !far && s.dieAbsent (m % 1024) then s.collEnd d x 6
  else
  let s := s.modColl d x fun k => { k with unsent := k.unsent ++ [(r, c, far)] }
  if far then
    (s.chargeDie d k.owner 20 (n + 1)).sendBulk (m / 1024) k.owner
      (.chunk k.owner k.cid k.run (m % 1024) k.sig c) (n + 1)
  else
    let e := m % 1024
    let s := (s.chargeDie d k.owner 17 (n * dist (engineCore d) (engineCore e))).chargeDie d k.owner 19 (n * dieDist d e)
    match s.collOf e k.owner k.cid with
    | some y => s.dueOnce (.collectiveChunkReceive e y)
    | none => s

/-- Counts a poisoned chunk (R361). -/
def Coll.count (k : Coll) (c : Nat) : Coll :=
  { k with prank := if k.pcnt = 0 then c else min k.prank c, pcnt := min 255 (k.pcnt + 1) }

/-- Charges of a chunk's bytes at a unit. -/
def State.chargeBytes (s : State) (d f : Nat) : List (Dest × Word × Nat) → State
  | [] => s
  | (u, _, _) :: ps => (s.chargeDie d f (byteClass u) 64).chargeBytes d f ps

/-- One chunk step of a context that is ready and charged: every access resolved, then read, combined, written, sent. -/
def State.collStep (s : State) (d x : Nat) : State :=
  let k := s.coll d x
  match k.step? with
  | none => s
  | some (t, c, st) =>
    let gs := granules st.lo st.len
    let need := (if st.own then rightR else 0) + (if st.write then rightW else 0)
    let key := 2 ^ 22 + d * 16 + x
    match s.collResolve k need (if need = 0 then [] else gs) [] with
    | .hold => s.defer (.collectiveChunkStep d x)
    | .fail s2 da => (s2.dieError d 0x0E 0 da).collEnd d x 5
    | .ok s2 ps =>
      let s2 := s2.chargeDie d k.owner 22 (st.len / 64)
      let s2 := if st.own then s2.chargeBytes d k.owner ps else s2
      let s2 := if st.write then s2.chargeBytes d k.owner ps else s2
      let (s3, own) : State × List (List Byte × Option Nat) :=
        if st.own then
          let (s3, bs, p) := s2.collRead k key ps
          (s3, [(bs, p)])
        else (s2, [])
      let ins := (k.inputs st st.ins).getD []
      match (if st.ownFirst then own ++ ins else ins ++ own) with
      | [] => s
      | v :: vs =>
        let (r, f) := k.fold v vs
        let counted := r.2.isSome && (st.write || (k.kind == 2 && k.rank != 0) || (k.kind == 3 && k.rank == 0))
        let s4 := if st.write then s3.collWrite key r.2.isSome ps r.1 else s3
        let s5 := s4.modColl d x fun k =>
          let k := { k with stage := t, chunk := c + 1, flags := k.flags ||| f, progress := s.cycle
                            rx := k.rx.filter fun g => !(st.ins.contains g.rank && g.phase == st.phase && gs.contains g.off) }
          if counted then k.count (r.2.getD 0) else k
        let out : Chunk := { rank := k.rank, phase := st.out, off := st.lo, bytes := r.1, poison := r.2 }
        ((st.dests.foldl (fun s r => s.collSend d x out r) s5).dueOnce (.collectiveChunkReceive d x)).dueOnce
          (.collectiveChunkStep d x)

/-- A context must stop at a chunk boundary: its owner is at its quota boundary, or its gang slice has ended (R353). -/
def State.collStopped (s : State) (k : Coll) : Bool :=
  ((s.fn k.owner).boundary && !(s.fn k.owner).unl) || (s.core k.core).ganged

/-- The context the engine serves next: the first that is ready after the one served last (R357). -/
def State.collTurn (s : State) (d : Nat) : Option Nat :=
  ((List.range 16).map fun i => ((s.die d).turn + 1 + i) % 16).find? fun y =>
    (s.coll d y).ready && !s.collStopped (s.coll d y)

/-- COLLECTIVE_CHUNK_STEP (R357). The collective engine performs one chunk step of a context. -/
def execCollectiveChunkStep (d x : Nat) (s : State) : Out :=
  eventIf (d < 900 && x < 16)
    (let k := s.coll d x
     if k.st != .running then s
     else if s.collStopped k then s.dueOnce (.collectiveHold d x)
     else if k.unsent == [] && k.step? == none then s.dueOnce (.collectiveComplete d x)
     else if !k.ready then s
     else if s.collTurn d != some x then s.defer (.collectiveChunkStep d x)
     else if k.who.level < 2 && !s.dieQuotaOk d k.owner then (s.dieQuotaFail d k.owner).defer (.collectiveChunkStep d x)
     else (s.modDie d fun q => { q with turn := x }).collStep d x)

/-! ## Chunks received (R354) -/

/-- A chunk cut into granules. -/
def Chunk.cut (c : Chunk) : List Chunk :=
  (List.range (c.bytes.length / 64)).map fun i =>
    { c with off := c.off + 64 * i, bytes := (c.bytes.drop (64 * i)).take 64 }

/-- What a receiver does with a chunk of a run: it waits at the sender, is discarded, ends both in MISMATCH, or is
accepted. -/
inductive Accept where
  | wait | drop | mismatch | take
  deriving DecidableEq, Repr

/-- The bytes that the next step still waits for. -/
def Coll.missing (k : Coll) (t : CollStep) : Nat :=
  (t.ins.map fun r => 64 * ((granules t.lo t.len).filter fun o => !k.rx.any fun c =>
    c.rank == r && c.phase == t.phase && c.off == o).length).sum

/-- A credit stands for a chunk: the next step needs it, or the buffer of two chunks has room for it beside what that step
still waits for. -/
def Coll.credit (k : Coll) (c : Chunk) : Bool :=
  match k.step? with
  | none => true
  | some (_, _, t) =>
    (t.ins.contains c.rank && c.phase == t.phase && c.off < t.lo + t.len && t.lo < c.off + c.bytes.length) ||
      (k.rx.map (·.bytes.length)).sum + k.missing t + c.bytes.length ≤ 2 * k.ch

/-- The receiver's side of R354: a credit for run k is granted only while RUNNING in run k. -/
def Coll.accept (k : Coll) (run : Nat) (sig : List Nat) (c : Chunk) : Accept :=
  let ahead := (k.run + 65536 - run) % 65536
  if ahead = 0 then (if k.st != .running then (if k.st == .ended then .drop else .wait)
                     else if k.sig != sig then .mismatch else if k.credit c then .take else .wait)
  else if ahead < 32768 then .drop else .wait

/-- A chunk is in a receiver's buffer. -/
def State.collTake (s : State) (d x : Nat) (c : Chunk) : State :=
  (s.modColl d x fun k => { k with rx := k.rx ++ c.cut, progress := s.cycle }).dueOnce (.collectiveChunkStep d x)

/-- A chunk that a member sent has been accepted. -/
def State.collSent (s : State) (d x rank off phase : Nat) : State :=
  (s.modColl d x fun k =>
    { k with unsent := k.unsent.filter fun u => !(u.1 == rank && u.2.1.off == off && u.2.1.phase == phase)
             progress := s.cycle }).dueOnce (.collectiveChunkStep d x)

/-- Takes what one member of this panel holds for a context. -/
def State.collPull (s : State) (d x m : Nat) : State :=
  let k := s.coll d x
  if m / 1024 != s.panelNo || m % 1024 = d then s
  else match s.collOf (m % 1024) k.owner k.cid with
    | none => s
    | some y =>
      let p := s.coll (m % 1024) y
      if !p.active then s
      else (p.unsent.filter fun u => u.1 == k.rank && !u.2.2).foldl (fun s u =>
        match (s.coll d x).accept p.run p.sig u.2.1 with
        | .take => (s.collTake d x u.2.1).collSent (m % 1024) y u.1 u.2.1.off u.2.1.phase
        | .mismatch => (s.collEnd d x 3).collEnd (m % 1024) y 3
        | _ => s) s

/-- COLLECTIVE_CHUNK_RECEIVE (R354). A chunk from a peer is received against a credit. -/
def execCollectiveChunkReceive (d x : Nat) (s : State) : Out :=
  eventIf (d < 900 && x < 16)
    (let k := s.coll d x
     if k.st != .running then s else k.members.foldl (fun s m => s.collPull d x m) s)

/-- A chunk comes from another panel: the state, and the acknowledgement's phase (2: MISMATCH), or none while it waits. -/
def State.collChunkIn (s : State) (f cid run d : Nat) (sig : List Nat) (c : Chunk) : Option (State × Option Nat) :=
  match s.collOf d f cid with
  | none => none
  | some x =>
    match (s.coll d x).accept run sig c with
    | .take => some (s.collTake d x c, some c.phase)
    | .mismatch => some (s.collEnd d x 3, some 2)
    | .drop => some (s, none)
    | .wait => none

/-- The answer to a chunk sent to another panel: accepted by `rank`, or MISMATCH. -/
def State.collAckIn (s : State) (f cid run d rank off phase : Nat) : State :=
  match s.collOf d f cid with
  | none => s
  | some x =>
    if !(s.coll d x).active || (s.coll d x).run != run then s
    else if phase = 2 then s.collEnd d x 3 else s.collSent d x rank off phase

/-! ## The other events (R353 to R355, R359) -/

/-- WATCH_REACHED (R359). A store to a watched word reaches the threshold and starts a run. -/
def execWatchReached (d x : Nat) (s : State) : Out :=
  eventIf (d < 900 && x < 16)
    (if (s.coll d x).st = .armed then s.collStart d x else s)

/-- Delivers the completions that a context still has to send; a refused one becomes an event (R354). -/
def State.collOutbox (s : State) (d x : Nat) : State :=
  match (s.coll d x).outbox with
  | [] => s
  | (f, n, id, e) :: r =>
    if (s.core n).away then s.defer (.collectiveComplete d x)
    else
      let s := s.modColl d x fun k => { k with outbox := r }
      let (s, code) := s.inboxAt f n e
      let s := if code = 0 then s else s.fnEvent f (contextEvent 0x60 id)
      if r = [] then s else s.dueOnce (.collectiveComplete d x)

/-- COLLECTIVE_COMPLETE (R354). A member ends its run and sends its completion. -/
def execCollectiveComplete (d x : Nat) (s : State) : Out :=
  eventIf (d < 900 && x < 16)
    (let k := s.coll d x
     let s := if k.st = .running && k.unsent == [] && k.step? == none then s.collEnd d x (if k.pcnt = 0 then 0 else
        1) else s
     s.collOutbox d x)

/-- COLLECTIVE_ABORT_NOTICE (R355). An abort notice ends the run ABORTED at the next chunk boundary. -/
def execCollectiveAbortNotice (d x run : Nat) (s : State) : Out :=
  eventIf (d < 900 && x < 16)
    (if (s.coll d x).active && (s.coll d x).run = run then s.collEnd d x 2
     else s)

/-- A member of the run has reported HELD. -/
def Coll.peerHeld (k : Coll) : Bool := k.heldPeers.any fun p => p.2 == k.run

/-- COLLECTIVE_TIMEOUT (R355). No progress for CTIMEOUT ends the run TIMEOUT. -/
def execCollectiveTimeout (d x : Nat) (s : State) : Out :=
  eventIf (d < 900 && x < 16)
    (let k := s.coll d x
     if !k.active || k.ctimeout = 0 then s
     else if k.st = .running && !k.peerHeld && !k.ready && k.progress + k.ctimeout * 1024 ≤ s.cycle then
        s.collEnd d x 4
     else s.defer (.collectiveTimeout d x))

/-- A member's hold or resume notice of a run reaches a context, which may not have begun that run yet: its timeout is
suspended while any member has reported HELD. -/
def State.collPeerHeld (s : State) (d x rank run : Nat) (resume : Bool) : State :=
  s.modColl d x fun k =>
    let rest := k.heldPeers.filter fun p => p.1 != rank && (p.2 + 65536 - k.run) % 65536 < 32768
    let k2 := { k with heldPeers := if resume then rest else (rank, run) :: rest }
    if !k.peerHeld && k2.peerHeld then { k2 with paused := s.cycle }
    else if k.peerHeld && !k2.peerHeld then { k2 with progress := k.progress + (s.cycle - k.paused) }
    else k2

/-- An abort notice of a run reaches a context from another panel: at once, or when it begins that run. -/
def State.collAbortIn (s : State) (d x run : Nat) : State :=
  let k := s.coll d x
  if k.active && k.run == run then s.dueOnce (.collectiveAbortNotice d x run)
  else if 0 < (run + 65536 - k.run) % 65536 && (run + 65536 - k.run) % 65536 < 32768 then
    s.modColl d x fun k => { k with aborts := run :: k.aborts.filter fun r => (r + 65536 - k.run) % 65536 < 32768 }
  else s

/-- Sends a hold or resume notice to every member. -/
def State.collTellHeld (s : State) (d x : Nat) (resume : Bool) : State :=
  let k := s.coll d x
  k.members.foldl (fun s m =>
    if m / 1024 = s.panelNo then
      if m % 1024 = d then s
      else match s.collOf (m % 1024) k.owner k.cid with
        | some y => s.collPeerHeld (m % 1024) y k.rank k.run resume
        | none => s
    else s.sendFrame (m / 1024) k.owner (.hold k.cid k.run (m % 1024) k.rank resume) 2) s

/-- COLLECTIVE_HOLD (R353). Quota or gang slice end holds a running context at a chunk boundary. -/
def execCollectiveHold (d x : Nat) (s : State) : Out :=
  eventIf (d < 900 && x < 16)
    (let k := s.coll d x
     if k.st != .running then s
     else if !s.collStopped k then s.defer (.collectiveHold d x)
     else ((s.modColl d x fun k => { k with st := .held }).collTellHeld d x false).dueOnce (.collectiveResume d x))

/-- COLLECTIVE_RESUME (R353). A held context resumes on refill or next slice. -/
def execCollectiveResume (d x : Nat) (s : State) : Out :=
  eventIf (d < 900 && x < 16)
    (let k := s.coll d x
     if k.st != .held then s
     else if s.collStopped k then s.defer (.collectiveResume d x)
     else ((((s.modColl d x fun k => { k with st := .running, progress := s.cycle }).collTellHeld d x true).dueOnce
       (.collectiveHold d x)).dueOnce (.collectiveChunkReceive d x)).dueOnce (.collectiveChunkStep d x))

end Sys2Proof.Machine
end

