-- ==== Sys2Proof/Machine/Barrier.lean ====
section
/-! DEFINITION. The barrier engine: major 0x28 and its events (R368 to R385). -/

namespace Sys2Proof.Machine

/-! ## Masks (R368) -/

/-- Set bits of a word. -/
def ones (w : Word) : Nat := ((List.range 64).filter w.getLsbD).length

/-- Set bits of the masks of every die. -/
def onesIn (m : SMap Word) : Nat := m.foldl (fun n p => n + ones p.2) 0

/-- PCOUNT. -/
def Barrier.pcount (b : Barrier) : Nat := onesIn b.part

/-- ACOUNT: the arrivals counted in the current generation. -/
def Barrier.acount (b : Barrier) : Nat := onesIn b.arr

/-- The missing cores of a die: PART & ~ARR. -/
def Barrier.missing (b : Barrier) (d : Nat) : Word := smGet 0 b.part d &&& ~~~(smGet 0 b.arr d)

/-- No die is missing. -/
def Barrier.complete (b : Barrier) : Bool := b.part.all fun p => b.missing p.1 == 0

/-- Bit of a core in its die's masks. -/
def coreBit (c : Nat) : Word := 1#64 <<< dieIdx c

/-- A core's bit in a mask. -/
def hasCore (m : SMap Word) (c : Nat) : Bool := (smGet 0 m (dieOf c)).getLsbD (dieIdx c)

/-- Sets or clears bits in a die's mask. -/
def maskOr (m : SMap Word) (d : Nat) (w : Word) : SMap Word := smSet 0 m d (smGet 0 m d ||| w)

/-- Clears bits in a die's mask. -/
def maskClear (m : SMap Word) (d : Nat) (w : Word) : SMap Word := smSet 0 m d (smGet 0 m d &&& ~~~w)

/-- (GEN - g) mod 2^16 (R371). -/
def Barrier.age (b : Barrier) (g : Nat) : Nat := (b.gen + 65536 - g) % 65536

/-- A generation is past. -/
def Barrier.past (b : Barrier) (g : Nat) : Bool := 1 ≤ b.age g && b.age g ≤ 32768

/-- A generation is neither current, next nor past: the class without a name in R371. -/
def Barrier.unclassed (b : Barrier) (g : Nat) : Bool := b.age g != 0 && b.age g != 65535 && !b.past g

/-! ## Release, timer, wake-ups (R372, R373, R375) -/

/-- The barrier after its release (R373). -/
def Barrier.release (b : Barrier) (now : Nat) : Barrier :=
  let arr := (b.early.map fun p => (p.1, p.2 &&& smGet 0 b.part p.1)).filter fun p => p.2 != 0
  { b with st := .opened, lexc := b.exc, lpcount := b.pcount, gen := (b.gen + 1) % 65536, arr := arr, early := []
           exc := false, ranOut := false, timer := if arr = [] then none else some now }

/-- Charges one release delivery to every core of the owner's quads, and brings the release of g to the waiters. -/
def State.deliverRelease (s : State) (x g : Nat) : State :=
  let b := s.bar x
  let s := (s.quadsOf b.owner).foldl (fun s q => s.charge q b.owner 28 4) s
  (b.waiters.filter fun w => w.2 = g).foldl (fun s w => s.due (.barrierReleaseDelivery x g w.1)) s

/-- The timer of a context runs: its event is due. -/
def State.armTimer (s : State) (x : Nat) : State :=
  if (s.bar x).timer.isSome && (s.bar x).btime != 0 && (s.bar x).st == .opened then s.dueOnce (.barrierTimeout x) else s

/-- The test for completion (R372, R373): `emptied` says that PCOUNT has just reached 0. -/
def State.barTest (s : State) (x : Nat) (emptied : Bool) : Nat → State
  | 0 => s
  | n + 1 =>
    let b := s.bar x
    if b.st = .free then s
    else if b.complete && (b.pcount != 0 || emptied) then
      let s := (s.modBar x fun b => b.release s.cycle).deliverRelease x b.gen
      (s.armTimer x).barTest x false n
    else s

/-- Wakes every BARW of a context with no release (R372, R375), but for those whose release has not been delivered yet. -/
def State.barWake (s : State) (x : Nat) (late : Bool) : State :=
  (s.bar x).waiters.foldl (fun s p =>
      s.answerOp p.1 false (if (s.bar x).past p.2 then .ok else .data [BitVec.ofNat 8 (bit late)]))
    (s.modBar x fun b => { b with waiters := [] })

/-- The result word of BARW (R382). -/
def Barrier.result (b : Barrier) (g : Nat) (rel late : Bool) : Word :=
  let last := g == (b.gen + 65535) % 65536
  BitVec.ofNat 64 (bit rel <<< 63 + bit (last && b.lexc) <<< 62 + bit late <<< 61 + bit (rel && !last) <<< 60 +
    (b.gen % 65536) <<< 32 + (g % 65536) <<< 16 + (if last then b.lpcount % 65536 else 0))

/-- A context becomes FREE: waiters wake with REL = 0 and TO = 0, all bits cleared (R372). -/
def State.barFree (s : State) (x : Nat) : State :=
  (s.barWake x false).modBar x fun _ => {}

/-- What the root does at the end of a cycle in which something reached it (R372): the test for completion, then the timer. -/
def State.barSettle (s : State) (x : Nat) : State :=
  let b := s.bar x
  let s := if b.test then (s.modBar x fun b => { b with test := false, emptied := false }).barTest x b.emptied 2 else s
  if !(s.bar x).ranOut then s
  else
    let s := s.modBar x fun b => { b with ranOut := false }
    let b := s.bar x
    if b.st != .opened then s
    else
      let s := s.fnEvent b.owner (contextEvent 0x02 (x <<< 16 + b.gen % 65536))
      (s.modBar x fun b => { b with st := .expired }).barWake x true

/-- The roots of all contexts come to the end of a cycle. -/
def State.barCycle (s : State) : State :=
  (s.barriers.filter fun p => p.2.test || p.2.ranOut).foldl (fun s p => s.barSettle p.1) s

/-- The owner's last quad on the panel is released (R372). -/
def State.barRelease (s : State) (f : Nat) : State :=
  (List.range 64).foldl (fun s x => if (s.bar x).st != .free && (s.bar x).owner = f then s.barFree x else s) s

/-! ## Instructions (R379 to R385) -/

/-- The context belongs to another function. -/
def State.barForeign (s : State) (x : Nat) : Bool := (s.bar x).st != .free && (s.bar x).owner != s.me.fn

/-- Cores of a rectangle with strides. -/
def gridCores (x0 y0 x1 y1 sx sy : Nat) : List Nat :=
  (List.range ((y1 - y0) / sy + 1)).flatMap fun j =>
    (List.range ((x1 - x0) / sx + 1)).map fun i => coreAt (x0 + sx * i) (y0 + sy * j)

/-- A core that cannot take part: its quad is not held, or it is ABSENT (R380, R384). -/
def State.notPart (s : State) (f c : Nat) : Bool := !s.holds f c || (s.core c).place.service == .absent

/-- BARM (R380). -/
def barmBody (insn : Instr) (word : Half) (a b : BitVec 5) (s : State) : Res :=
  let n := s.gn b
  let q := s.g a
  let r := q.toNat
  let x := n % 64
  let sx := field n 15 8
  let sy := field n 23 16
  if field n 63 24 != 0 || (q != 0 && (bitAt n 7 || sx = 0 || 240 < sx || sy = 0 || 240 < sy)) then illegal word 2 s
  else if q != 0 && (!scopeValid q || scopeKind q != 0) then raise cScope q 0 s
  else if s.barForeign x then segFree 3 s
  else if q = 0 then .done (if (s.bar x).st = .free then s else s.barFree x)
  else
    let cs := gridCores (field r 7 0) (field r 15 8) (field r 23 16) (field r 31 24) sx sy
    let k := s.bar x
    if cs.any (s.notPart s.me.fn) then segFree 3 s
    else if k.st != .free && (k.acount != 0 || k.early != [] || k.waiters != []) then illegal word 3 s
    else whenTaken insn .engine (fun s => .done (s.modBar x fun k =>
      { k with st := .opened, owner := s.me.fn, ae := bitAt n 6, timer := none, arr := [], early := []
               part := cs.foldl (fun m c => maskOr m (dieOf c) (coreBit c)) [] })) s

/-- An arrival word's checks (R379, R381). -/
def barWord (word : Half) (a q : BitVec 5) (k : Nat → Nat → Scope → State → Res) (s : State) : Res :=
  let n := s.gn a
  if field n 15 6 != 0 || field n 63 32 != 0 then illegal word 2 s
  else withScope (s.g q) (fun sc s =>
    if s.barForeign (n % 64) then segFree 3 s
    else if (s.bar (n % 64)).st = .free then illegal word 3 s
    else k (n % 64) (field n 31 16) sc s) s

/-- The number that marks a BARA's wait and the arrival that ends it. -/
def arrivalMark (n : Nat) : Nat := 2 ^ 32 + n % 2 ^ 32

/-- BARA (R381): the arrival carries its mark above the arrival word. -/
def baraBody (insn : Instr) (word : Half) (a q d : BitVec 5) (s : State) : Res :=
  match s.me.op.reply with
  | .data bs => .done (s.setGn d (ofBytes bs))
  | .trap c => .trap s c
  | _ =>
    barWord word a q (fun x g sc s =>
      let b := s.bar x
      if b.unclassed g then illegal word 3 s
      else if !sc.thread && !s.released s.cur then waitMem insn s
      else
        let n := s.nextNet
        let s : State := { s with nextNet := n + 1 }
        .keep (((s.noteClamp s.cur sc).park s.cur .engine { insn := some insn, aux := arrivalMark n }).due
          (.barrierArrival x s.cur (BitVec.ofNat 64 ((n % 2 ^ 32) <<< 32 + (s.gn a) % 2 ^ 32))))) s

/-- BARW completes: with REL = 1 it acquires (R376, R382). -/
def barwEnd (a q d : BitVec 5) (rel late : Bool) (s : State) : Res :=
  let w := s.gn a
  let r := (s.bar (w % 64)).result (field w 31 16) rel late
  if rel then withScope (s.g q) (fun sc s => .done ((s.setG d r).acquire s.cur sc)) s else .done (s.setG d r)

/-- BARW (R382). -/
def barwBody (insn : Instr) (word : Half) (a q d : BitVec 5) (s : State) : Res :=
  match s.me.op.reply with
  | .ok => barwEnd a q d true false s
  | .data bs => barwEnd a q d false (bs == [1#8]) s
  | _ =>
    barWord word a q (fun x g sc s =>
      let s := s.noteClamp s.cur sc
      if (s.bar x).past g then barwEnd a q d true false s
      else .keep ((s.modBar x fun b => { b with waiters := b.waiters ++ [(s.cur, g)] }).park s.cur .barrier
        { insn := some insn, aux := x })) s

/-- The status word of a context (R378). -/
def Barrier.word (b : Barrier) : Word :=
  BitVec.ofNat 64 ((match b.st with
    | .free => 0
    | .opened => 1
    | .expired => 2) <<< 61 + bit b.ae <<< 60 + 1 <<< 59 + bit b.exc <<< 58 + bit b.lexc <<< 57 +
    (b.gen % 65536) <<< 32 + (b.pcount % 65536) <<< 16 + b.acount % 65536)

/-- Index of a die within its region. -/
def dieInRegion (d : Nat) : Nat := d % 30 % 6 + 6 * (d / 30 % 6)

/-- A set of bits as a word. -/
def wordOfBits (l : List Nat) : Word := l.foldl (fun w i => w ||| 1#64 <<< i) 0

/-- What BART reads (R383). -/
def Barrier.read (b : Barrier) (level what n : Nat) : Word :=
  let ds := (b.part.map (·.1)).filter fun d => what == 1 || b.missing d != 0
  match level with
  | 0 => if what = 1 then smGet 0 b.part n else b.missing n
  | 1 => wordOfBits ((ds.filter fun d => regionOf d == n).map dieInRegion)
  | 2 => wordOfBits (ds.map regionOf)
  | _ => b.word

/-- BART (R383). -/
def bartBody (insn : Instr) (word : Half) (a d : BitVec 5) (s : State) : Res :=
  let n := s.gn a
  let level := field n 7 6
  let num := field n 25 16
  let what := field n 8 8
  if field n 15 9 != 0 || field n 63 26 != 0 || (level = 0 && 900 ≤ num) || (level = 1 && 25 ≤ num) ||
      (2 ≤ level && num != 0) || (level = 3 && what = 1) then illegal word 2 s
  else whenTaken insn .remote (fun s =>
    let b := s.bar (n % 64)
    .done (s.setG d (if b.st = .free || b.owner != s.me.fn then 0 else b.read level what num))) s

/-- BMASK's new PART of a die (R384). -/
def maskEdit (op : Nat) (old w : Word) : Word :=
  match op with
  | 0 => old ||| w
  | 1 => old &&& ~~~w
  | _ => w

/-- Edits a die's PART (R384). -/
def Barrier.edit (b : Barrier) (d : Nat) (new : Word) : Barrier :=
  let gone := smGet 0 b.part d &&& ~~~new
  { b with part := smSet 0 b.part d new, arr := maskClear b.arr d gone, early := maskClear b.early d gone
           exc := b.exc || gone != 0 }

/-- Edits a context's masks; the root tests it for completion. -/
def State.barEdit (s : State) (x d : Nat) (new : Word) : State :=
  s.modBar x fun b =>
    let b' := b.edit d new
    { b' with test := true, emptied := b.emptied || (b.pcount != 0 && b'.pcount == 0) }

/-- BMASK (R384): the edit, and then a wait until the root has tested the generation. -/
def bmaskBody (insn : Instr) (word : Half) (a b : BitVec 5) (s : State) : Res :=
  let n := s.gn a
  let x := n % 64
  let op := field n 9 8
  let d := field n 25 16
  let w := s.g b
  if s.me.op.aux = takenMark then .done s
  else if field n 7 6 != 0 || field n 15 10 != 0 || field n 63 26 != 0 || op = 3 || 900 ≤ d then illegal word 2 s
  else if s.barForeign x then segFree 3 s
  else if (s.bar x).st = .free then illegal word 3 s
  else if op != 1 && (List.range 64).any (fun i => w.getLsbD i && s.notPart s.me.fn (coreOfDie d i)) then segFree 3 s
  else .keep ((((s.barEdit x d (maskEdit op (smGet 0 (s.bar x).part d) w)).park s.cur .engine
    { insn := some insn, aux := takenMark })).dueOnce (.accessReply s.cur))

/-- BTIME (R385). -/
def btimeBody (word : Half) (a b : BitVec 5) (s : State) : Res :=
  let n := s.gn a
  let x := n % 64
  if field n 63 6 != 0 || field (s.gn b) 63 32 != 0 then illegal word 2 s
  else if s.barForeign x then segFree 3 s
  else if (s.bar x).st = .free then illegal word 3 s
  else .done ((s.modBar x fun k =>
    { k with btime := s.gn b, timer := if k.timer.isSome then some s.cycle else none }).armTimer x)

/-- BARM (R380). Defines or frees a barrier context. -/
def execBarm (a : BitVec 5) (b : BitVec 5) (s : State) : Out :=
  run { word := 40#6 ++ a ++ b ++ 0#10 ++ 0#6, srcs := [a.toNat, b.toNat] }
    (barmBody (.barm a b) (40#6 ++ a ++ b ++ 0#10 ++ 0#6) a b) s

/-- BARA (R381). Releases, then arrives at a barrier generation. -/
def execBara (a : BitVec 5) (q : BitVec 5) (d : BitVec 5) (s : State) : Out :=
  run { word := 40#6 ++ a ++ q ++ d ++ 0#5 ++ 1#6, srcs := [a.toNat, q.toNat], dsts := [d.toNat] }
    (baraBody (.bara a q d) (40#6 ++ a ++ q ++ d ++ 0#5 ++ 1#6) a q d) s

/-- BARW (R382). Waits for the release of a barrier generation. -/
def execBarw (a : BitVec 5) (q : BitVec 5) (d : BitVec 5) (s : State) : Out :=
  run { word := 40#6 ++ a ++ q ++ d ++ 0#5 ++ 2#6, srcs := [a.toNat, q.toNat], dsts := [d.toNat] }
    (barwBody (.barw a q d) (40#6 ++ a ++ q ++ d ++ 0#5 ++ 2#6) a q d) s

/-- BART (R383). Reads barrier tree state at a level. -/
def execBart (a : BitVec 5) (d : BitVec 5) (s : State) : Out :=
  run { word := 40#6 ++ a ++ 0#5 ++ d ++ 0#5 ++ 3#6, srcs := [a.toNat], dsts := [d.toNat] }
    (bartBody (.bart a d) (40#6 ++ a ++ 0#5 ++ d ++ 0#5 ++ 3#6) a d) s

/-- BMASK (R384). Edits one die's participant bits. -/
def execBmask (a : BitVec 5) (b : BitVec 5) (s : State) : Out :=
  run { word := 40#6 ++ a ++ b ++ 0#10 ++ 4#6, srcs := [a.toNat, b.toNat] }
    (bmaskBody (.bmask a b) (40#6 ++ a ++ b ++ 0#10 ++ 4#6) a b) s

/-- BTIME (R385). Sets a barrier context's timeout. -/
def execBtime (a : BitVec 5) (b : BitVec 5) (s : State) : Out :=
  run { word := 40#6 ++ a ++ b ++ 0#10 ++ 5#6, srcs := [a.toNat, b.toNat] }
    (btimeBody (40#6 ++ a ++ b ++ 0#10 ++ 5#6) a b) s

/-! ## Events (R370 to R375) -/

/-- What an arrival of a core for a generation does: the new context and RES (R370, R371, R381). -/
def Barrier.arrive (b : Barrier) (c g now : Nat) : Barrier × Nat :=
  if !hasCore b.part c then (b, 3)
  else if b.age g = 0 then
    if hasCore b.arr c then (b, 1)
    else ({ b with arr := maskOr b.arr (dieOf c) (coreBit c), timer := b.timer.orElse fun _ => some now }, 0)
  else if b.age g = 65535 then
    if hasCore b.early c then (b, 1) else ({ b with early := maskOr b.early (dieOf c) (coreBit c) }, 0)
  else (b, 2)

/-- An excusal of a context has come to its root and has not been taken (R372). -/
def State.excusalDue (s : State) (x : Nat) : Bool :=
  s.agenda.any fun e => match e with
    | .barrierExcusal y _ => y == x
    | _ => false

/-- The reply to a BARA that still waits for this arrival. -/
def State.answerArrival (s : State) (t mark : Nat) (r : Reply) : State :=
  if (s.thr t).st == .parked .engine && (s.thr t).op.aux == arrivalMark mark then s.answerOp t false r else s

/-- BARRIER_ARRIVAL (R372). An arrival reaches the root, after the excusals of its cycle, and sets its bit. -/
def execBarrierArrival (x t : Nat) (w : Word) (s : State) : Out :=
  eventIf (validThread t && x < 64)
    (let g := field w.toNat 31 16
     let mark := field w.toNat 63 32
     let b := s.bar x
     let word := (s.thr t).word.zeroExtend 64
     if s.excusalDue x then s.defer (.barrierArrival x t w)
     else if b.st != .free && !s.holds b.owner (coreOf t) then
       let (v, s) := s.unstated
       s.answerArrival t mark (.trap { code := cSeg, detail := 3, tval := BitVec.ofNat 64 v })
     else if b.st = .free || b.unclassed g then
       s.answerArrival t mark (.trap { code := cIllegal, detail := 3, tval := word })
     else
       let (b2, res) := b.arrive (coreOf t) g s.cycle
       let s := s.charge (quadOf (coreOf t)) b.owner 28 1
       let s := (s.modBar x fun _ => { b2 with test := b2.test || (res = 0 && b.age g = 0) }).armTimer x
       s.answerArrival t mark (.data (toBytes 8 (res <<< 62 + (b.gen % 65536) <<< 32 + (g % 65536) <<< 16))))

/-- BARRIER_RELEASE_DELIVERY (R373). A release reaches a core and wakes its BARW waiters. -/
def execBarrierReleaseDelivery (x g t : Nat) (s : State) : Out :=
  eventIf (validThread t && x < 64)
    (if (s.core (coreOf t)).away then
       s.defer (.barrierReleaseDelivery x g t)
     else if (s.bar x).waiters.contains (t, g) then
       (s.modBar x fun b => { b with waiters := b.waiters.erase (t, g) }).answerOp t false .ok
     else s)

/-- BARRIER_EXCUSAL (R374). An ABSENT participant is excused under auto-excuse. -/
def execBarrierExcusal (x c : Nat) (s : State) : Out :=
  eventIf (validCore c && x < 64)
    (let b := s.bar x
     if b.st = .free || !b.ae || !hasCore b.part c || (s.core c).place.service != .absent then s
     else s.barEdit x (dieOf c) (smGet 0 b.part (dieOf c) &&& ~~~(coreBit c)))

/-- BARRIER_TIMEOUT (R375). A generation's timer reaches the timeout; at the end of the cycle, if no release has come first,
the context becomes EXPIRED (R372). -/
def execBarrierTimeout (x : Nat) (s : State) : Out :=
  eventIf (x < 64)
    (let b := s.bar x
     match b.st, b.timer with
     | .opened, some n =>
       if b.btime = 0 then s
       else if s.cycle < n + b.btime * 1024 then s.defer (.barrierTimeout x)
       else s.modBar x fun b => { b with ranOut := true }
     | _, _ => s)

end Sys2Proof.Machine
end

