-- ==== Sys2Proof/Machine/Contain.lean ====
section
/-! DEFINITION. The containment engine: major 0x2C, error banks, checkpoints, retirement and restore, forwarding entries,
scrubs (R311 to R314, R327 to R346). -/

namespace Sys2Proof.Machine

/-! ## Sites and spares (R327 to R329, R340) -/

/-- Number of site(i, j): rows in order. -/
def siteAt (i j : Nat) : Nat := j * 32 + i

/-- The nominal site of a die (R10). -/
def nominalSite (d : Nat) : Nat := siteAt (d % 30 + 1) (d / 30 + 1)

/-- The site of a logical die: the nominal one unless the placement at boot shifted it. -/
def State.siteOf (s : State) (d : Nat) : Nat :=
  match s.dieSite.find? (fun p => p.1 == d) with
  | some p => p.2
  | none => nominalSite d

/-- Region of a spare site: that of the nearest nominal site (R329). -/
def spareRegion (site : Nat) : Nat :=
  regionOf ((max 1 (min 30 (site / 32)) - 1) * 30 + (max 1 (min 30 (site % 32)) - 1))

/-- Free spare cores as site * 64 + index, in row order of their sites. -/
def State.freeSpares (s : State) : List Nat :=
  s.spareSites.flatMap fun p => ((List.range 64).map fun i => p * 64 + i).filter fun x => !s.spareUsed.contains x

/-- The spare that a core would take (R334): in the region of its die when one is free there. -/
def State.spareFor (s : State) (c : Nat) : Option Nat :=
  match s.freeSpares.find? (fun x => spareRegion (x / 64) == regionOf (dieOf c)) with
  | some x => some x
  | none => s.freeSpares.head?

/-- Remap exceptions in use. -/
def State.remaps (s : State) : Nat := (s.cores.filter fun p => p.2.place.exception).length

/-- SREQ is raised below 16 spare dies or 256 spare cores, and stays (R340). -/
def State.serviceRequest (s : State) : State :=
  let dies := (s.spareSites.filter fun d => !s.spareUsed.any fun x => x / 64 == d).length
  let cores := s.spareSites.length * 64 - s.spareUsed.length
  if dies < 16 || cores < 256 then { s with service := { s.service with sreq := true } } else s

/-- Latency band of a spare site for a core (R329). -/
def bandOf (c site : Nat) : Nat := if spareRegion site = regionOf (dieOf c) then 2 else 3

/-! ## Error banks (R338, R339, R345) -/

/-- A bank that the panel has. -/
def State.bankExists (s : State) (k n : Nat) : Bool :=
  match k with
  | 0 => n < 14400
  | 1 => n < 900
  | 2 => s.stackPresent n
  | 3 => n < 16 && s.hasOptical
  | _ => false

/-- A cleared bank: reset values, SEQ advanced (R345). -/
def Bank.clear (b : Bank) : Bank := { seq := (b.seq + 1) % 256 }

/-- An instruction that acts elsewhere parks with reason REMOTE, and acts when it is taken up again. -/
def remoteFirst (insn : Instr) (near : Bool) (act : State → Res) (s : State) : Res :=
  if near || s.me.op.insn.isSome then act s
  else .keep ((s.park s.cur .remote { insn := some insn }).dueOnce (.accessReply s.cur))

/-- EBRD and EBCLR: the bank that ga names, or the trap (R345). -/
def withBank (insn : Instr) (word : Half) (a : BitVec 5) (act : Nat → Nat → State → Res) (s : State) : Res :=
  let w := s.gn a
  let k := field w 17 16
  let n := field w 13 0
  if field w 15 14 != 0 || field w 63 18 != 0 || !s.bankExists k n then segFree 2 s
  else if s.level < 2 && !(k == 0 && s.holder n == some s.me.fn) then raise cPrivilege (word.zeroExtend 64) 0 s
  else remoteFirst insn (k == 0 && n == quadOf s.here) (act k n) s

/-- EBCLR clears only the record that was read (R345). -/
def ebclrAct (b d : BitVec 5) (k n : Nat) (s : State) : Res :=
  if (s.bankAt k n).word 0 = s.g b then .done ((s.setBank k n (s.bankAt k n).clear).setG d 1) else .done (s.setG d 0)

/-! ## CKREG and KILLT (R344, R346) -/

/-- The regions of a core with one replaced are allowed (R344). -/
def regionsOk (rs : List (Nat × Nat)) (n base len : Nat) : Bool :=
  let others := ((List.range 8).zip rs).filter fun p => p.1 != n && p.2.2 != 0
  base % 64 == 0 && len % 64 == 0 && base + len ≤ 2 ^ 18 &&
    others.foldl (fun t p => t + p.2.2) len ≤ 65536 &&
    (len == 0 || others.all fun p => base + len ≤ p.2.1 || p.2.1 + p.2.2 ≤ base)

/-- CKREG (R344). -/
def ckregBody (word : Half) (a b : BitVec 5) (n : BitVec 3) (s : State) : Res :=
  let rs := (s.core s.here).ckrg.toList
  if !regionsOk rs n.toNat (s.gn a) (s.gn b) then illegal word 2 s
  else
    .done (s.modCore s.here fun k => { k with ckrg := vmod (0, 0) k.ckrg n.toNat fun _ => (s.gn a, s.gn b) })

/-- KILLT at the target's core (R346): the kill, and what gd receives. -/
def killtAct (insn : Instr) (t : Nat) (d : BitVec 5) (s : State) : Res :=
  if (s.core (coreOf t)).away then .keep ((s.park s.cur .remote { insn := some insn }).dueOnce (.accessReply s.cur))
  else match (s.thr t).st with
    | .free => .done (s.setG d 0)
    | .killed => .done (s.setG d 0)
    | _ => .done ((s.kill t 0x22).setG d 1)

/-- KILLT (R346). -/
def killtBody (insn : Instr) (a d : BitVec 5) (s : State) : Res :=
  let t := s.gn a
  if 2 ^ 20 ≤ t then segFree 2 s
  else if !validThread t || !s.holds s.me.fn (coreOf t) then segFree 3 s
  else if t = s.cur || (s.me.tsr.pair && t = mateOf s.cur) then .keep (s.kill s.cur 0x22)
  else remoteFirst insn (coreOf t == s.here) (killtAct insn t d) s

/-! ## Checkpoints (R330 to R333, R343) -/

/-- CHKPT (R343): nothing on a core that is not enrolled; otherwise a capture, or a wait for the one in progress. -/
def chkptBody (d : BitVec 5) (s : State) : Res :=
  let c := s.here
  match s.me.op.reply with
  | .data bs => .done (s.setGn d (ofBytes bs))
  | _ =>
    if !(s.core c).ckEn then .done (s.setG d 0)
    else
      let first := !(s.core c).capturing
      let s := s.park s.cur (if first then .migrate else .engine) { insn := some (.chkpt d) }
      let s := s.modCore c fun k => { k with ckFor := k.ckFor ++ [s.cur], capturing := true }
      .keep (if first then (s.emptyLatches c).due (.chkptCaptureDone c) else s)

/-- CHKPT (R331). Captures a checkpoint image of the core context. -/
def execChkpt (d : BitVec 5) (s : State) : Out :=
  run { word := 44#6 ++ 0#10 ++ d ++ 0#5 ++ 0#6, dsts := [d.toNat] }
    (chkptBody d) s

/-- CKREG (R344). Defines a checkpoint region. -/
def execCkreg (a : BitVec 5) (b : BitVec 5) (n : BitVec 3) (s : State) : Out :=
  run { word := 44#6 ++ a ++ b ++ 0#7 ++ n ++ 1#6, level := 1, srcs := [a.toNat, b.toNat] }
    (ckregBody (44#6 ++ a ++ b ++ 0#7 ++ n ++ 1#6) a b n) s

/-- EBRD (R345). Reads a word of an error bank. -/
def execEbrd (a : BitVec 5) (d : BitVec 5) (w : BitVec 2) (s : State) : Out :=
  run { word := 44#6 ++ a ++ 0#5 ++ d ++ 0#3 ++ w ++ 2#6, level := 1, srcs := [a.toNat], dsts := [d.toNat] }
    (withBank (.ebrd a d w) (44#6 ++ a ++ 0#5 ++ d ++ 0#3 ++ w ++ 2#6) a
    fun k n s => .done (s.setG d ((s.bankAt k n).word w.toNat))) s

/-- EBCLR (R345). Clears an error bank if word 0 matches. -/
def execEbclr (a : BitVec 5) (b : BitVec 5) (d : BitVec 5) (s : State) : Out :=
  run { word := 44#6 ++ a ++ b ++ d ++ 0#5 ++ 3#6, level := 1, srcs := [a.toNat, b.toNat], dsts := [d.toNat] }
    (withBank (.ebclr a b d) (44#6 ++ a ++ b ++ d ++ 0#5 ++ 3#6) a (ebclrAct b d)) s

/-- KILLT (R346). Kills a named thread. -/
def execKillt (a : BitVec 5) (d : BitVec 5) (s : State) : Out :=
  run { word := 44#6 ++ a ++ 0#5 ++ d ++ 0#5 ++ 4#6, level := 1, srcs := [a.toNat], dsts := [d.toNat] }
    (killtBody (.killt a d) a d) s

/-- Base of a core's image in its buddy's die SRAM (R330). -/
def imageBase (c : Nat) : Nat := sramAddr (coreOfDie (buddy (dieOf c)) 0) 2 (0x800000 + 0x20000 * dieIdx c)

/-- Copies words with their full/empty bits and poison. -/
def State.copyWords (s : State) (src dst n : Nat) : State :=
  let inside (w : Nat) : Bool := src ≤ w && w < src + n
  let fresh (w : Nat) : Bool := w < dst || dst + n ≤ w
  let full := ((s.full.filter inside).map fun w => w - src + dst).foldl keyAdd (s.full.filter fresh)
  let poison := ((s.poison.filter inside).map fun w => w - src + dst).foldl keyAdd (s.poison.filter fresh)
  { s.wr dst (s.rd src n) with full := full, poison := poison }

/-- The regions of an image in order: TCM offset, offset in the image, length. -/
def placeRegions : Nat → List (Nat × Nat) → List (Nat × Nat × Nat)
  | _, [] => []
  | o, (b, n) :: rs => if n = 0 then placeRegions o rs else (b, o, n) :: placeRegions (o + n) rs

/-- The bytes of a block whose layout the spec does not give, by their offsets from `off`: a draw (log entry 46). -/
def sealBytes (draw off : Nat) : List Byte := (List.range 65536).map fun i => Config.blockByte draw (off + i)

/-- The issuing thread as the image holds it: past its CHKPT, gd the new EPOCH (R331). -/
def Thread.pastChkpt (th : Thread) (ep : BitVec 32) : Thread :=
  match th.op.insn with
  | some (.chkpt d) => (th.put d.toNat (ep.zeroExtend 64)).complete (th.pc + 4) false
  | _ => th

/-- A thread as the image holds it: the issuing thread past its CHKPT; a trailing copy that has presented a word which the
leading one has completed follows it (R331, R335, R343). -/
def State.imageThread (s : State) (issuer : Nat) (ep : BitVec 32) (t : Nat) : Thread :=
  let th := s.thr t
  let lead (l : Nat) : Thread := if l = issuer then (s.thr l).pastChkpt ep else s.thr l
  let a := lead (leadOf t)
  if th.tsr.pair && 8 ≤ slotOf t && th.present && !a.present && a.st == .run && !a.op.again then th.follow a
  else lead t

/-- Writes the image of a core and commits it (R330, R331 step 3): the bytes of header and thread state are a draw. -/
def State.capture (s : State) (c : Nat) : State :=
  let k := s.core c
  let ep := k.ckEpoch + 1
  let issuer := k.ckFor.headD 0
  let im : Image := { epoch := ep, ckrg := k.ckrg, htabEn := k.htabEn, htabBase := k.htabBase,
                      spillCount := k.spillCount, spillHead := k.spillHead, spillSize := k.spillSize,
                      spillBase := k.spillBase, inbox := k.inbox, rwait := k.rwait,
                      threads := (List.range 16).map fun i => s.imageThread issuer ep (c * 16 + i) }
  let s := { s with poison := s.poison.filter fun w => w < imageBase c || imageBase c + 0x10000 ≤ w }
  let s := { s.wr (imageBase c) (sealBytes s.fresh 0) with fresh := s.fresh + 1 }
  let s := (placeRegions 0x10000 k.ckrg.toList).foldl
    (fun s r => s.copyWords (sramAddr c 0 r.1) (imageBase c + r.2.1) r.2.2) s
  s.modCore c fun k => { k with image := some im, ckValid := true, ckEpoch := ep }

/-- A capture is over: every thread returns to its former state, and those that wait for it resume (R331 step 4). -/
def State.endCapture (s : State) (c : Nat) (v : Nat) : State :=
  let ts := (s.core c).ckFor
  ts.foldl (fun s t => match (s.thr t).op.insn with
      | some (.chkpt _) => s.answerOp t false (.data (toBytes 8 v))
      | _ => s)
    (s.modCore c fun k => { k with capturing := false, ckFor := [] })

/-- CHKPT_CAPTURE_DONE (R331). A checkpoint image is written, VALID set and threads resume. -/
def execChkptCaptureDone (c : Nat) (s : State) : Out :=
  eventIf (validCore c)
    (let k := s.core c
     if !k.capturing then s
     else if k.away || k.journal.any (fun p => p.2.pending) then s.defer (.chkptCaptureDone c)
     else
       let s := s.capture c
       s.endCapture c (s.core c).ckEpoch.toNat)

/-- A capture fails: no VALID image stands, class 0x0D is recorded (R333, R334, R338). -/
def State.failCapture (s : State) (c : Nat) : State :=
  if !(s.core c).capturing then s
  else
    let (v, s) := s.unstated
    (s.modCore c fun k => { k with ckValid := false, image := none }).endCapture c (v % 2 ^ 32)

/-! ## Restore (R332, R333, R335) -/

/-- A replay in flight begins again in its engine. -/
def Flight.again (f : Flight) : Flight := { f with hold := .none, op := {}, o := { f.o with started := false } }

/-- A restored thread (R332): RUN, RC set, vector lanes with C = 0, nothing outside the image carried on; a replay that was in
flight begins again. -/
def Thread.restored (th : Thread) : Thread :=
  { th with st := .run, op := {}, fbuf := [], ahead := none, latch := none, present := false, resHalf := false
            v := vmap (fun r => vmap (fun l => { l with c := false }) r) th.v
            fly := th.fly.map Flight.again
            tsr := { th.tsr with rc := true } }

/-- Puts a slot of an image in place, under the slot's next generation. -/
def State.restoreSlot (s : State) (t : Nat) (im : Thread) : State :=
  let old := (s.thr t).nextGen (s.thr t).away s.cycle
  let base : Thread := match im.st with
    | .free => {}
    | .killed => {}
    | _ => im.restored
  let s := (s.setThr t { base with gen := old.gen, unanswered := old.unanswered }).leaveOutlier t
  if base.replaying then s.dueOnce (.replayIssue t) else s

/-- The image of a core as it can still be read (R332, R333). -/
def State.validImage (s : State) (c : Nat) : Option Image :=
  let b := imageBase c
  if (s.core c).ckValid && !s.poison.any (fun w => b ≤ w && w < b + 0x10000) then (s.core c).image else none

/-- Journal traffic of a core that a restore leaves behind. -/
def staleEvent (c : Nat) : Instr → Bool
  | .journalAck x _ _ => x == c
  | .journalRefusal x _ _ => x == c
  | .journalExpired x _ _ => x == c
  | .inboxMessage x _ _ => x == c
  | .spawnMessage x _ _ => x == c
  | .feArrival x _ _ => x == c
  | _ => false

/-- The core as it starts on the spare: from the image's header, or at reset values; tiles, rings, contexts, the outlier
queue and the journal empty (R217, R248, R265, R330, R333). Tiles that wait for its rings wait on, as do the instructions of
the quad's other cores that wait for the outlier queue (R216, R235, R237). -/
def Core.restart (k : Core) (c : Nat) (im : Option Image) : Core :=
  let b : Core := { gated := k.gated, inbound := k.inbound, copies := k.copies, copySeq := k.copySeq, arrivals := k.arrivals
                    oqWait := k.oqWait, ckEn := k.ckEn, place := { k.place with service := .inService }
                    oqLost := quadIdx c == 3 }
  match im with
  | some im =>
    { b with ckValid := true, ckEpoch := im.epoch, image := some im, ckrg := im.ckrg, htabEn := im.htabEn,
             htabBase := im.htabBase, spillCount := im.spillCount, spillHead := im.spillHead, spillSize := im.spillSize,
             spillBase := im.spillBase, inbox := im.inbox, rwait := im.rwait }
  | none => b

/-- The import entries of a core's function leave the core's serving buffer: it is served there from now on (R190). -/
def State.clearImports (s : State) (c : Nat) : State :=
  match s.holder (quadOf c) with
  | some f => s.modOdie (bufferOf c) fun o => { o with imports := o.imports.filter fun e => e.fn != f }
  | none => s

/-- The context runs on the spare (R332, R333). -/
def State.restore (s : State) (c : Nat) : State :=
  let im := s.validImage c
  let regions := match im with
    | some i => placeRegions 0x10000 i.ckrg.toList
    | none => []
  let s := { s with agenda := s.agenda.filter (fun e => !staleEvent c e)
                    net := s.net.filter fun p => match p.2 with
                      | .entry x _ _ => x != c
                      | _ => true }
  let s := regions.foldl (fun s r => s.copyWords (imageBase c + r.2.1) (sramAddr c 0 r.1) r.2.2)
    (s.scrub (sramAddr c 0 0) (2 ^ 18))
  let (off, s) := s.unstated
  let s := s.modCore c fun k => { k.restart c im with cycleOff := off }
  let s := (List.range 16).foldl (fun s i =>
    s.restoreSlot (c * 16 + i) (match im with
      | some x => x.threads.getD i {}
      | none => {})) s
  let s : State := match s.holder (quadOf c) with
    | some f => s.fnEvent f (contextEvent (if im.isSome then 0x03 else 0x50) c)
    | none => s
  let s := if (s.core c).oqWait = [] then s else s.dueOnce (.vqsplitRelease (quadOf c))
  (((s.clearImports c).offer c).dueOnce (.forwardDeliver c)).dueOnce (.slotFill c) |>.dueOnce (.forwardEntryRemove c)

/-- A killed pair is restored alone from the image, TCM untouched (R335). -/
def State.restorePair (s : State) (t : Nat) : State :=
  let c := coreOf t
  let i := slotOf t % 8
  match s.validImage c with
  | none => (s.restoreSlot (c * 16 + i) {}).restoreSlot (c * 16 + i + 8) {}
  | some im =>
    (s.restoreSlot (c * 16 + i) (im.threads.getD i {})).restoreSlot (c * 16 + i + 8) (im.threads.getD (i + 8) {})

/-! ## Retirement (R279, R311, R313, R334, R392) -/

/-- A pending copy of a retired core ends LOST and is told to the event thread (R279). -/
def State.loseCopies (s : State) (c : Nat) : State :=
  (List.range 16).foldl (fun s i =>
    let x := (s.core c).copies.toList.getD i {}
    if x.st = .queued || x.st = .running || x.st = .held then
      (s.modCore c fun k => { k with copies := vmod {} k.copies i fun y =>
          { y with st := .ended, code := 5, ended := s.cycle, got := [], waiting := false } }).fnEvent x.who.fn
        (contextEvent 0x30 (ofBytes ((x.block.drop 48).take 4)))
    else s) s

/-- Audit records taken from a core are discarded and counted (R392). -/
def State.loseRecords (s : State) (c : Nat) : State :=
  (s.trierEnter (quadOf c)).modQuad (quadOf c) fun q =>
    let n (i : Nat) : Nat := (q.trier.records.filter fun r => r.core == c && r.entry == i).length
    { q with trier :=
      { entries := ⟨((List.range 16).map fun i =>
          let e := vget {} q.trier.entries i
          if n i = 0 then e else { e with lost := true, lostc := satAdd e.lostc (n i) }).toArray, by simp⟩
        records := q.trier.records.filter fun r => r.core != c } }

/-- The vacate point of a context is set; no router has turned to a new site yet (R311, R312). -/
def Place.leave (p : Place) (now : Nat) : Place := { p with fwd := true, vacated := now, commit := none, switched := [] }

/-- A core's place as its context is lost: the vacate point is set, a core at its nominal place is sound no more, and the
errors recorded against the core count no more (R334). -/
def Place.vacate (p : Place) (now : Nat) : Place :=
  { p.leave now with service := .frozen, unsound := p.unsound || !p.exception, errors := [] }

/-- A core freezes: it stops issue, the vacate point is set and forwarding entries stand (R311, R334). -/
def State.freeze (s : State) (c : Nat) : State :=
  let s := s.failCapture c
  let s := (List.range 16).foldl (fun s i => s.abandon (c * 16 + i)) s
  let s := (s.loseCopies c).loseRecords c
  (s.modCore c fun k => { k with moving := false, leaving := false
                                 place := k.place.vacate s.cycle }).dueOnce (.restoreStart c)

/-- CORE_RETIRE (R334). A retirement cause freezes a core and installs forwarding. -/
def execCoreRetire (c : Nat) (s : State) : Out :=
  eventIf (validCore c)
    (let k := s.core c
     if k.moving || k.leaving then
       let (readable, s) := s.flip
       if readable then s else s.freeze c
     else match k.place.service with
       | .frozen => s
       | .absent => s
       | _ => s.freeze c)

/-- A quad with an ABSENT core that no function holds leaves the partition pool at once; a scrub in progress takes it out at
its end (R340). -/
def Hold.without : Hold → Hold
  | .free => .out
  | .reserved _ => .out
  | h => h

/-- A core becomes ABSENT: its threads are gone, its quad leaves the pool with the end of its groups, barriers in auto-excuse
mode clear its bits, and what waits for it is refused (R313, R314, R340, R374). -/
def State.makeAbsent (s : State) (c : Nat) : State :=
  let s := (List.range 16).foldl (fun s i => s.restoreSlot (c * 16 + i) {}) s
  let s := s.modCore c fun k => { k.restart c none with ckEn := k.ckEn, place := { k.place with service := .absent } }
  let s := (s.modQuad (quadOf c) fun q => { q with hold := q.hold.without }).dueOnce .placementPass
  let s := s.barriers.foldl (fun s p => s.due (.barrierExcusal p.1 c)) s
  ((s.offer c).dueOnce (.forwardDeliver c)).dueOnce (.forwardEntryRemove c)

/-- A core that has no exception cannot have one: 256 are in use (R328, R334). -/
def State.remapsFull (s : State) (c : Nat) : Bool := 256 ≤ s.remaps && !(s.core c).place.exception

/-- RESTORE_START (R334). A spare is chosen and the frozen core enters RESTORING, or becomes ABSENT. -/
def execRestoreStart (c : Nat) (s : State) : Out :=
  eventIf (validCore c)
    (if (s.core c).place.service != .frozen then s
     else if s.remapsFull c then s.makeAbsent c
     else match s.spareFor c with
       | none => s.makeAbsent c
       | some x => s.due (.remapExceptionCommit c (x / 64) (x % 64)))

/-- What the units of a core have accepted before a move has completed: its matrix instructions, and the chunks of its copies
(R245, R279). -/
def Core.drained (k : Core) : Bool := k.unitDrained && k.copies.toList.all fun x => !x.inChunk

/-- The vacate point of a live migration: the context is between sites, and elements that its in contexts have fetched ahead
are discarded (R274, R311). -/
def State.vacate (s : State) (c : Nat) : State :=
  s.modCore c fun k => { k with
    moving := true, leaving := false, place := k.place.leave s.cycle
    ctxs := vmap (fun x => if x.desc.dirOut || x.fill.isSome then x else { x with buf := [], asked := [], epoch := x.epoch + 1 })
      k.ctxs }

/-- Orders on a core will end with a code (R461). -/
def State.stopOrders (s : State) (c stop : Nat) : State :=
  { s with orders := s.orders.map fun o => if o.code < 2 && o.arg == c then { o with stop := stop } else o }

/-- REMAP_EXCEPTION_COMMIT (R328). A remap exception is committed and propagates to every router. -/
def execRemapExceptionCommit (c s i : Nat) (st : State) : Out :=
  eventIf (validCore c)
    (let x := s * 64 + i
     let k := st.core c
     if st.spareUsed.contains x || !st.spareSites.contains s || st.remapsFull c then
       (if k.place.service = .frozen then st.dueOnce (.restoreStart c)
        else if !k.moving && !k.leaving then st
        else match if st.remapsFull c then none else st.spareFor c with
          | some y => st.due (.remapExceptionCommit c (y / 64) (y % 64))
          | none => (st.stopOrders c 1).due (.liveMigrationDone c))
     else if k.leaving && !k.drained then st.defer (.remapExceptionCommit c s i)
     else
       let st := if k.leaving then st.vacate c else st
       let st := ({ st with spareUsed := keyAdd st.spareUsed x }.modCore c fun k =>
         { k with place := { k.place with site := s, index := i, band := bandOf c s, exception := true
                                          commit := some st.cycle
                                          epoch := (k.place.epoch + 1) % 65536 } }).serviceRequest
       if k.place.service = .frozen then
         (st.modCore c fun k => { k with place := { k.place with service := .restoring } }).due (.restoreDone c)
       else if k.moving || k.leaving then st.due (.liveMigrationDone c) else st)

/-- RESTORE_DONE (R332). The image is streamed into the spare and threads resume with RC set. -/
def execRestoreDone (c : Nat) (s : State) : Out :=
  eventIf (validCore c)
    (if (s.core c).place.service = .restoring then s.restore c else s)

/-- Every router has turned to the new site of a context: it holds the exception, and nothing that its core sent to the old
site is unanswered (R312). -/
def State.allSwitched (s : State) (c : Nat) : Bool :=
  (match (s.core c).place.commit with
   | some n => n + exceptionReach ≤ s.cycle
   | none => true) &&
    s.cores.all fun k => (s.core c).place.switched.contains k.1 || !s.unansweredTo k.1 c

/-- FORWARD_ENTRY_REMOVE (R313). A forwarding entry is removed once every router switched and 1 ms passed. -/
def execForwardEntryRemove (c : Nat) (s : State) : Out :=
  eventIf (validCore c)
    (let p := (s.core c).place
     if !p.fwd then s
     else if (s.core c).away || p.held != [] || s.cycle < p.vacated + 1500000 || !s.allSwitched c then
       s.defer (.forwardEntryRemove c)
     else s.modCore c fun k => { k with place := { k.place with fwd := false } })

/-! ## Errors and scrubs (R150, R229, R334, R335 to R341) -/

/-- What an error brings about beside its record: kills, POIS of a tile, retirement. -/
def State.quadFault (s : State) (n cls unit slot : Nat) (a : Word) : State :=
  let c := coreOfQuad n (unit % 4)
  let t := c * 16 + slot % 16
  match cls with
  | 0x05 => (s.quadError c cls slot a).modCore c fun k =>
      { k with tiles := vmod {} k.tiles slot fun x => { x with geom := x.geom ||| 0x200 } }
  | 0x06 => match (s.thr t).st with
    | .free => s.quadError c cls slot a
    | .killed => s.quadError c cls slot a
    | _ => s.kill t 0x24
  | 0x07 => match (s.thr t).st with
    | .free => s.quadError c cls slot a
    | .killed => s.quadError c cls slot a
    | _ => s.kill t 0x20
  | 0x08 => if (s.thr t).tsr.pair then s.kill t 0x23 else s.quadError c cls slot a
  | 0x09 => match (s.thr t).st with
    | .free => s.quadError c cls slot a
    | .killed => s.quadError c cls slot a
    | _ => if (s.thr t).tsr.res then s.kill t 0x24 1 else s.quadError c cls slot a
  | 0x0D => (s.quadError c cls slot a).failCapture c
  | _ => s.quadError c cls slot a

/-- ERROR_RECORD (R339). An error arrives at an error bank and updates its record. -/
def execErrorRecord (k n : Nat) (cls unit slot : Nat) (a : Word) (s : State) : Out :=
  eventIf (s.bankExists k n && 1 ≤ cls && cls ≤ 0x0E)
    (match k with
     | 0 => s.quadFault n cls unit slot a
     | _ =>
       let s := s.bankError k n cls unit a slot
       if k = 1 && cls = 0x0A then s.collLost n else s)

/-- SRAM_PATROL_SCRUB (R341). Patrol scrub checks and rewrites an SRAM word. -/
def execSramPatrolScrub (a bits : Nat) (s : State) : Out :=
  eventIf (a % 8 = 0 && a < hbmBase && validCore (ownerCore (unitAt a) a))
    (
     let c := ownerCore (unitAt a) a
     if bits = 0 then s
     else if bits = 1 then s.quadError c 0x01 0 (BitVec.ofNat 64 a)
     else { s.quadError c 0x02 0 (BitVec.ofNat 64 a) with poison := keyAdd s.poison a })

/-- An error at an HBM edge die. -/
def State.hbmError (s : State) (k cls : Nat) (a : Nat) : State :=
  s.bankError 2 k cls (channelOf a) (BitVec.ofNat 64 a)

/-- HBM_SCRUB (R341). Scrub checks an HBM word. -/
def execHbmScrub (a bits : Nat) (s : State) : Out :=
  eventIf (a % 8 = 0 && a < 2 ^ 48 && s.stackPresent (field a 41 36))
    (if bits = 0 then s
     else if bits = 1 then s.hbmError (field a 41 36) 0x03 (hbmBase + a)
     else { s.hbmError (field a 41 36) 0x04 (hbmBase + a) with poison := keyAdd s.poison (hbmBase + a) })

/-- HBM_REFRESH (R341). HBM refresh as the stack requires. -/
def execHbmRefresh (k : Nat) (s : State) : Out :=
  eventIf (s.stackPresent k)
    ({ s.postPool (Config.sensor s.fresh) with fresh := s.fresh + 1 })

end Sys2Proof.Machine
end

