-- ==== Sys2Proof/Machine/Control.lean ====
section
/-! DEFINITION. Branches, LOOP and jumps (R57, R126 to R129). -/

namespace Sys2Proof.Machine

/-- A target at a distance in words from the executing word (R57). -/
def State.target {n : Nat} (s : State) (disp : BitVec n) : Word := s.me.pc + (sext disp <<< 2)

/-- A conditional branch. -/
def branch (taken : Bool) (i : BitVec 16) (s : State) : Res :=
  if taken then .goto s (s.target i) else .done s

/-- BEQ (R126). Branches when ga equals gb. -/
def execBeq (a : BitVec 5) (b : BitVec 5) (i : BitVec 16) (s : State) : Out :=
  run { word := 12#6 ++ a ++ b ++ i, srcs := [a.toNat, b.toNat] }
    (fun s => branch (s.g a == s.g b) i s) s

/-- BNE (R126). Branches when ga differs from gb. -/
def execBne (a : BitVec 5) (b : BitVec 5) (i : BitVec 16) (s : State) : Out :=
  run { word := 13#6 ++ a ++ b ++ i, srcs := [a.toNat, b.toNat] }
    (fun s => branch (s.g a != s.g b) i s) s

/-- BLT (R126). Branches when ga < gb, signed. -/
def execBlt (a : BitVec 5) (b : BitVec 5) (i : BitVec 16) (s : State) : Out :=
  run { word := 14#6 ++ a ++ b ++ i, srcs := [a.toNat, b.toNat] }
    (fun s => branch ((s.g a).slt (s.g b)) i s) s

/-- BGE (R126). Branches when ga >= gb, signed. -/
def execBge (a : BitVec 5) (b : BitVec 5) (i : BitVec 16) (s : State) : Out :=
  run { word := 15#6 ++ a ++ b ++ i, srcs := [a.toNat, b.toNat] }
    (fun s => branch (!(s.g a).slt (s.g b)) i s) s

/-- BLTU (R126). Branches when ga < gb, unsigned. -/
def execBltu (a : BitVec 5) (b : BitVec 5) (i : BitVec 16) (s : State) : Out :=
  run { word := 16#6 ++ a ++ b ++ i, srcs := [a.toNat, b.toNat] }
    (fun s => branch ((s.g a).ult (s.g b)) i s) s

/-- BGEU (R126). Branches when ga >= gb, unsigned. -/
def execBgeu (a : BitVec 5) (b : BitVec 5) (i : BitVec 16) (s : State) : Out :=
  run { word := 17#6 ++ a ++ b ++ i, srcs := [a.toNat, b.toNat] }
    (fun s => branch (!(s.g a).ult (s.g b)) i s) s

/-- LOOP: ga counts down by one; for g0 nothing is written and the test is 0 against gb (R127). -/
def loopBody (a b : BitVec 5) (i : BitVec 16) (s : State) : Res :=
  let s1 := s.setG a (s.g a - 1)
  branch (s1.g a != s1.g b) i s1

/-- LOOP (R127). Decrements ga and branches while it differs from gb. -/
def execLoop (a : BitVec 5) (b : BitVec 5) (i : BitVec 16) (s : State) : Out :=
  run { word := 18#6 ++ a ++ b ++ i, srcs := [a.toNat, b.toNat], dsts := [a.toNat] }
    (loopBody a b i) s

/-- J (R128). Jumps PC-relative. -/
def execJ (i : BitVec 26) (s : State) : Out :=
  run { word := 19#6 ++ i }
    (fun s => .goto s (s.target i)) s

/-- JAL (R128). Writes the link into g31 and jumps. -/
def execJal (i : BitVec 26) (s : State) : Out :=
  run { word := 20#6 ++ i, dsts := [(31#5).toNat] }
    (fun s => .goto (s.setG 31#5 (s.me.pc + 4)) (s.target i)) s

/-- JALR: a misaligned target raises MISALIGN and writes nothing (R128). -/
def jalrBody (d a : BitVec 5) (i : BitVec 16) (s : State) : Res :=
  let t := s.g a + sext i
  if t.extractLsb' 0 2 != 0 then raise cMisalign t 0 s else .goto (s.setG d (s.me.pc + 4)) t

/-- JALR (R128). Jumps to register plus immediate and writes the link. -/
def execJalr (d : BitVec 5) (a : BitVec 5) (i : BitVec 16) (s : State) : Out :=
  run { word := 21#6 ++ d ++ a ++ i, srcs := [a.toNat], dsts := [d.toNat] }
    (jalrBody d a i) s

end Sys2Proof.Machine
end

