-- ==== Sys2Proof/Machine/LinkCode.lean ====
section
/-! DEFINITION. The bits of the Kwardo link: CRC-32 of a flit, the Reed-Solomon code RS(272, 256) over GF(2^8), lanes and
PAM4 levels, alignment blocks, PRBS31 (R468, R470, R471). -/

namespace Sys2Proof.Machine

/-! ## CRC-32 (R468) -/

/-- One bit of the reflected CRC-32 with polynomial 0x04C11DB7. -/
def crcBit (c : BitVec 32) : BitVec 32 := if c.getLsbD 0 then (c >>> 1) ^^^ 0xEDB88320#32 else c >>> 1

/-- One byte of it. -/
def crcByte (c : BitVec 32) (b : Byte) : BitVec 32 :=
  crcBit (crcBit (crcBit (crcBit (crcBit (crcBit (crcBit (crcBit (c ^^^ b.zeroExtend 32))))))))

/-- CRC-32 of IEEE 802.3: initial value 0xFFFFFFFF, final complement. -/
def crc32 (bs : List Byte) : BitVec 32 := ~~~(bs.foldl crcByte 0xFFFFFFFF#32)

/-! ## GF(2^8) modulo x^8 + x^4 + x^3 + x^2 + 1 (R470) -/

/-- Multiplication by α = 0x02. -/
def gfTwice (a : Byte) : Byte := if a.getLsbD 7 then (a <<< 1) ^^^ 0x1D#8 else a <<< 1

/-- Multiplication. -/
def gfMul (a b : Byte) : Byte :=
  ((List.range 8).foldl (fun (p : Byte × Byte) i => (if b.getLsbD i then p.1 ^^^ p.2 else p.1, gfTwice p.2)) (0#8, a)).1

/-- Powers. -/
def gfPow (a : Byte) : Nat → Byte
  | 0 => 1
  | n + 1 => gfMul a (gfPow a n)

/-- α^n. -/
def gfExp (n : Nat) : Byte := gfPow 2 (n % 255)

/-- The inverse, a^254. -/
def gfInv (a : Byte) : Byte := gfPow a 254

/-- Polynomial product; coefficients from the constant term up. -/
def polyMul : List Byte → List Byte → List Byte
  | [], _ => []
  | a :: as, bs =>
    let low := bs.map (gfMul a)
    let high := 0 :: polyMul as bs
    (List.range (max low.length high.length)).map fun i => low.getD i 0 ^^^ high.getD i 0

/-- Value of a polynomial at a point. -/
def polyAt (p : List Byte) (x : Byte) : Byte := p.foldr (fun c acc => c ^^^ gfMul x acc) 0

/-- The generator (x - α^0)(x - α^1) … (x - α^15). -/
def rsGenerator : List Byte := (List.range 16).foldl (fun g i => polyMul g [gfExp i, 1]) [1]

/-- The 16 check bytes, coefficients of x^15 down to x^0 of the remainder. -/
def rsCheck (data : List Byte) : List Byte :=
  let g := (rsGenerator.take 16).reverse
  data.foldl (fun r d =>
    let f := d ^^^ r.headD 0
    let sh := r.drop 1 ++ [0]
    (List.range 16).map fun i => sh.getD i 0 ^^^ gfMul f (g.getD i 0)) (List.replicate 16 0)

/-- The codeword of a flit. -/
def rsEncode (flit : List Byte) : List Byte := flit ++ rsCheck flit

/-- The 16 syndromes of a codeword: its values at α^0 to α^15. -/
def rsSyndromes (c : List Byte) : List Byte :=
  (List.range 16).map fun i => c.foldl (fun acc b => gfMul (gfExp i) acc ^^^ b) 0

/-- One step of the search for the error locator: locator, earlier locator, length, gap, earlier discrepancy. -/
def rsLocStep (s : List Byte) (n : Nat) (x : List Byte × List Byte × Nat × Nat × Byte) :
    List Byte × List Byte × Nat × Nat × Byte :=
  let (c, b, l, m, bb) := x
  let d := (List.range (l + 1)).foldl (fun acc i => acc ^^^ gfMul (c.getD i 0) (if i ≤ n then s.getD (n - i) 0 else 0)) 0
  if d = 0 then (c, b, l, m + 1, bb)
  else
    let f := gfMul d (gfInv bb)
    let sh := List.replicate m 0 ++ b.map (gfMul f)
    let c' := (List.range (max c.length sh.length)).map fun i => c.getD i 0 ^^^ sh.getD i 0
    if 2 * l ≤ n then (c', c, n + 1 - l, 1, d) else (c', b, l, m + 1, bb)

/-- The error locator of the syndromes and its degree. -/
def rsLocator (s : List Byte) : List Byte × Nat :=
  let r := (List.range 16).foldl (fun x n => rsLocStep s n x) ([1], [1], 0, 1, 1)
  (r.1, r.2.2.1)

/-- The CRC of a flit holds (R468). -/
def crcOk (flit : List Byte) : Bool := ofBytes ((flit.drop 252).take 4) == (crc32 (flit.take 252)).toNat

/-- The places that a root of the locator may stand for: α has order 255 and a codeword 272 bytes, so the places r and
r + 255 have one root. -/
def rsPlaces : List Nat → List (List Nat)
  | [] => [[]]
  | r :: rs => (rsPlaces rs).flatMap fun ps => if r + 255 < 272 then [r :: ps, (r + 255) :: ps] else [r :: ps]

/-- Corrects the bytes at the places of the roots (Forney's formula). -/
def rsFix (c om dl : List Byte) (ps : List Nat) : List Byte :=
  ps.foldl (fun c p =>
    let x := gfExp p
    let e := gfMul x (gfMul (polyAt om (gfInv x)) (gfInv (polyAt dl (gfInv x))))
    c.set (271 - p) (c.getD (271 - p) 0 ^^^ e)) c

/-- The codeword that a received word stands for: at most 8 bytes differ from it (R470); with the number of bytes
corrected. Where two places share a root, the one under which the CRC holds is taken. None: it cannot be corrected. -/
def rsCorrect (c : List Byte) : Option (List Byte × Nat) :=
  let s := rsSyndromes c
  if c.length != 272 then none
  else if s.all (· == 0) then some (c, 0)
  else
    let (loc, n) := rsLocator s
    let roots := (List.range 255).filter fun p => polyAt loc (gfInv (gfExp p)) == 0
    if 8 < n || roots.length != n then none
    else
      let om := (polyMul s loc).take 16
      let dl := (List.range (loc.length - 1)).map fun i => if i % 2 = 0 then loc.getD (i + 1) 0 else 0
      match ((rsPlaces roots).map (rsFix c om dl)).filter fun x => (rsSyndromes x).all (· == 0) with
      | [] => none
      | [x] => some (x, n)
      | xs => (xs.find? fun x => crcOk (x.take 256)).map fun x => (x, n)

/-! ## Lanes (R470, R471) -/

/-- The bytes of a codeword on lane `k`. -/
def laneBytes (c : List Byte) (k : Nat) : List Byte := (List.range 17).map fun i => c.getD (16 * i + k) 0

/-- The PAM4 level of two bits under the Gray map. -/
def pamLevel (b : BitVec 2) : Nat :=
  match b.toNat with
  | 0 => 0
  | 1 => 1
  | 3 => 2
  | _ => 3

/-- The four symbols of a byte, bits 7:6 first. -/
def pamSymbols (b : Byte) : List Nat :=
  [pamLevel (b.extractLsb' 6 2), pamLevel (b.extractLsb' 4 2), pamLevel (b.extractLsb' 2 2), pamLevel (b.extractLsb' 0 2)]

/-- The alignment block of a lane after `n` earlier ones. -/
def alignBlock (lane n : Nat) : List Byte :=
  let h := [0x4B#8, BitVec.ofNat 8 lane] ++ toBytes 2 n
  h ++ h.map fun b => ~~~b

/-- One step of PRBS31, x^31 + x^28 + 1: the next bit enters at the low end. -/
def prbsStep (x : BitVec 31) : BitVec 31 := (x <<< 1) ||| (if x.getLsbD 30 != x.getLsbD 27 then 1 else 0)

/-- The seed of a lane's generator. -/
def prbsSeed (lane : Nat) : BitVec 31 := BitVec.ofNat 31 (lane + 1)

end Sys2Proof.Machine
end

