-- ==== Sys2Proof/Machine/Meter.lean ====
section
/-! DEFINITION. The metering engine: major 0x2A, slices and the quota boundary, windows, calibration and the power
controller (R409 to R425). -/

namespace Sys2Proof.Machine

/-! ## Who may name what (R420, R449, R450) -/

/-- A function exists. -/
def State.exists? (s : State) (f : Nat) : Bool := (s.fn f).st != .none

/-- Rights in force for the executing thread at its quad: all at P, the lease's mask at L, the function's ANDed with the
lease's below (R449). -/
def State.hasRight (s : State) (i : Nat) : Bool :=
  let q := quadOf s.here
  if s.level = 3 then true
  else (s.leaseRights q s.me.lease).getLsbD i &&
    (s.level = 2 || (smGet (s.fn s.me.fn).rights (s.quad q).rights s.me.fn).getLsbD i)

/-- A right that a form needs is in force at its issue; work that has passed its check runs to its end (R450). -/
def State.allowed (s : State) (i : Nat) : Bool := s.me.op.service || s.me.op.reply != .none || s.hasRight i

/-- The function a selector names: own for OTH = 0, bits 8:0 otherwise, or the trap (R420, R462). -/
def State.selector (s : State) (word : Half) (n : Nat) : Except Cause Nat :=
  let w : Word := word.zeroExtend 64
  let f := field n 8 0
  if bitAt n 15 then
    if s.level < 2 then .error { code := cPrivilege, tval := w }
    else if 384 ≤ f then .error { code := cIllegal, detail := 2, tval := w }
    else if s.level = 2 && s.exists? f && (s.fn f).lease != s.me.lease then .error { code := cPrivilege, tval := w }
    else .ok f
  else if 384 ≤ f then .error { code := cIllegal, detail := 2, tval := w }
  else .ok s.me.fn

/-- A privilege trap with a detail: 0 for the level, 1 for a right. -/
def noRight (word : Half) (detail : Nat) (s : State) : Res := raise cPrivilege (word.zeroExtend 64) detail s

/-- Runs a body on the function that a selector names. -/
def withFn (word : Half) (n : Nat) (k : Nat → State → Res) (s : State) : Res :=
  match s.selector word n with
  | .error c => .trap s c
  | .ok f => k f s

/-! ## Balance and boundary (R413, R414) -/

/-- 10 µJ in units of 1/256 pJ. -/
def tenMicro : Int := 10000000 * 256

/-- Amount of a function's allowances at every charging point. -/
def State.outstanding (s : State) (f : Nat) : Int :=
  s.quads.foldl (fun n p => n + (p.2.meter.al f).amount) 0 + s.dies.foldl (fun n p => n + (p.2.meter.al f).amount) 0 +
    s.odies.foldl (fun n p => n + (p.2.meter.al f).amount) 0

/-- Changes a function's allowance at every charging point that holds one. -/
def State.eachAllow (s : State) (f : Nat) (g : Allowance → Allowance) : State :=
  let ch (m : Meter) : Meter := if m.allow.any (fun p => p.1 == f) then m.modAl f g else m
  { s with quads := s.quads.map fun p => (p.1, { p.2 with meter := ch p.2.meter })
           dies := s.dies.map fun p => (p.1, { p.2 with meter := ch p.2.meter })
           odies := s.odies.map fun p => (p.1, { p.2 with meter := ch p.2.meter }) }

/-- Threads of a function that are parked QUOTA, at cores that satisfy `at?`, issue again. -/
def State.wakeQuota (s : State) (f : Nat) (at? : Nat → Bool) : State :=
  { s with threads := s.threads.map fun p =>
      if p.2.st == .parked .quota && p.2.fn == f && at? (coreOf p.1) then (p.1, { p.2 with st := .run }) else p }

/-- Changes a function's allowance at a charging point. -/
def State.modAllow (s : State) (k n f : Nat) (g : Allowance → Allowance) : State :=
  match k with
  | 0 => s.modQuad n fun x => { x with meter := x.meter.modAl f g }
  | 1 => s.modDie n fun x => { x with meter := x.meter.modAl f g }
  | _ => s.modOdie n fun x => { x with meter := x.meter.modAl f g }

/-- Refusals of a function that are on their way are cleared with those that stand: messages of the service die arrive in
order (R413, R414; log entry 20). -/
def State.clearRefusals (s : State) (f : Nat) : State :=
  let late := s.agenda.filterMap fun i => match i with
    | .sliceRefusal k n f' => if f' = f then some (k, n) else none
    | _ => none
  late.foldl (fun s p => s.modAllow p.1 p.2 f fun a => { a with asked := false })
    { s with agenda := s.agenda.filter fun i => match i with
        | .sliceRefusal _ _ f' => f' != f
        | _ => true }

/-- The function becomes ACTIVE: refusals cleared, held work resumes (R414). -/
def State.activate (s : State) (f : Nat) : State :=
  (((s.clearRefusals f).modFn f fun k => { k with boundary := false }).eachAllow f fun a => { a with refused := false, waiting := false }).wakeQuota
    f fun _ => true

/-- Whether a refill, a deposit or a write leaves enough to be ACTIVE (R414). -/
def Func.enough (k : Func) : Bool := k.unl || tenMicro ≤ k.bal || (0 < k.bal && (k.cap : Int) * 256 ≤ k.bal)

/-- Applies R414 after a refill, a deposit or a write. -/
def State.settleQuota (s : State) (f : Nat) : State :=
  if (s.fn f).boundary && (s.fn f).enough then s.activate f else s

/-- The function reaches its boundary: every allowance is recalled, the events are queued (R414). -/
def State.toBoundary (s : State) (f : Nat) : State :=
  if (s.fn f).boundary || (s.fn f).unl then s
  else
    let all := s.outstanding f
    let s := (s.modFn f fun k => { k with boundary := true, bal := k.bal + all }).eachAllow f fun a => { a with amount := 0 }
    (s.fnEvent f { cls := 3, sub := 1, id := f }).leaseEvent (s.fn f).lease (contextEvent 0x80 f)

/-! ## The five instructions (R421 to R425) -/

/-- A signed amount in whole pJ, rounded toward minus infinity. -/
def wholePj (v : Int) : Word := BitVec.ofInt 64 (v / 256)

/-- What MBAL reads (R421). -/
def State.mbal (s : State) (f what : Nat) : Word :=
  let k := s.fn f
  let a := (s.quad (quadOf s.here)).meter.al f
  if k.st = .none then 0
  else match what with
    | 0 => wholePj k.bal
    | 1 => BitVec.ofNat 64 (bit k.boundary <<< 63 + bit k.unl <<< 62 + bit a.refused <<< 61 + k.rate % 2 ^ 32)
    | 2 => BitVec.ofInt 64 a.amount
    | _ => BitVec.ofNat 64 k.cap

/-- MBAL (R421). -/
def mbalBody (word : Half) (a d : BitVec 5) (what : Nat) (s : State) : Res :=
  let n := s.gn a
  if field n 14 9 != 0 || field n 63 16 != 0 then illegal word 2 s
  else withFn word n (fun f s =>
    if bitAt n 15 && !s.allowed 6 then noRight word 1 s
    else if what = 2 then .done (s.setG d (s.mbal f what))
    else atService (fun s => .done (s.setG d (s.mbal f what))) s) s

/-- Cumulative charges of a class, or of all classes (R422). -/
def usageOf (get : Nat → Usage) (cls : Nat) : Usage :=
  if cls = 31 then
    (List.range 31).foldl (fun u c => { energy := u.energy + (get c).energy, events := u.events + (get c).events }) {}
  else get cls

/-- MUSE (R422). -/
def museBody (word : Half) (a d : BitVec 5) (s : State) : Res :=
  let n := s.gn a
  let cls := field n 20 16
  if field n 14 9 != 0 || field n 63 23 != 0 || (bitAt n 21 && 29 ≤ cls) then illegal word 2 s
  else withFn word n (fun f s =>
    if bitAt n 15 && !s.allowed 6 then noRight word 1 s
    else
      let value (u : Usage) (s : State) : Res :=
        .done (s.setGn d (if (s.fn f).st = .none then 0 else if bitAt n 21 then u.events else u.energy))
      if bitAt n 22 then atService (fun s => value (usageOf (smGet {} (s.fn f).usage) cls) s) s
      else value (usageOf (fun c => smGet {} (s.quad (quadOf s.here)).meter.usage (f * 32 + c)) cls) s) s

/-- MQSET (R423): `ok` is the field's range, `old` what it returns. -/
def mqsetBody (word : Half) (a b d : BitVec 5) (ok : Func → Word → Bool → Bool) (old : Func → Word)
    (put : Func → Word → Func) (s : State) : Res :=
  let n := s.gn a
  if field n 14 9 != 0 || field n 63 16 != 0 then illegal word 2 s
  else withFn word n (fun f s =>
    let own := f == s.me.fn
    if (s.level = 1 || !own) && !s.allowed 2 then noRight word 1 s
    else if !s.exists? f then illegal word 3 s
    else if !ok (s.fn f) (s.g b) (s.level == 1) then illegal word 2 s
    else atService (fun s => .done (((s.modFn f fun k => put k (s.g b)).settleQuota f).setG d (old (s.fn f)))) s) s

/-- MSPLIT with SET = 0 (R424). -/
def msplitBody (word : Half) (a d : BitVec 5) (s : State) : Res :=
  let n := s.gn a
  if field n 14 9 != 0 || field n 63 16 != 0 then illegal word 2 s
  else withFn word n (fun f s =>
    if !s.allowed 6 then noRight word 1 s
    else atService (fun s => .done (s.setGn d (if s.exists? f then (s.fn f).share else 0))) s) s

/-- MSPLIT with SET = 1 (R424). -/
def msplitSetBody (word : Half) (a d : BitVec 5) (s : State) : Res :=
  let n := s.gn a
  let l := s.me.lease
  if !s.allowed 6 then noRight word 1 s
  else if 2 ≤ n then illegal word 2 s
  else atService (fun s => .done ((s.modLse l fun k => { k with mode := n == 1 }).setGn d (bit (s.lse l).mode))) s

/-- Sustained watts of the variant (R418). -/
def State.sustained (s : State) : Nat := if s.stackCount = 24 then 28400 else 32000

/-- FLOOR of a launch record (R81). -/
def floorOf (bs : List Byte) : Nat := ofBytes ((bs.drop 16).take 4)

/-- The panel's admitted floors (R418). -/
def State.floors (s : State) : Nat :=
  s.funcs.foldl (fun n p => n + p.2.mfloor) 0 + s.running.foldl (fun n l => n + floorOf l.bytes) 0

/-- MFLOOR with SET = 0 (R425). -/
def mfloorBody (word : Half) (a d : BitVec 5) (s : State) : Res :=
  let n := s.gn a
  if field n 14 9 != 0 || field n 63 16 != 0 then illegal word 2 s
  else withFn word n (fun f s => atService (fun s => .done (s.setGn d (if s.exists? f then (s.fn f).mfloor else 0))) s) s

/-- MFLOOR with SET = 1 (R425). -/
def mfloorSetBody (word : Half) (a b d : BitVec 5) (s : State) : Res :=
  let n := s.gn a
  let w := s.gn b
  if field n 14 9 != 0 || field n 63 16 != 0 then illegal word 2 s
  else withFn word n (fun f s =>
    if !s.allowed 4 then noRight word 1 s
    else if 32000 < w then illegal word 2 s
    else if !s.exists? f then illegal word 3 s
    else atService (fun s =>
      let old := (s.fn f).mfloor
      if s.sustained < s.floors - old + w + 2000 then .done (s.setG d (-1))
      else .done ((s.modFn f fun k => { k with mfloor := w }).setGn d old)) s) s

/-- MBAL (R421). Reads a function's quota record. -/
def execMbal (a : BitVec 5) (d : BitVec 5) (w : BitVec 2) (s : State) : Out :=
  run { word := 42#6 ++ a ++ 0#5 ++ d ++ 0#3 ++ w ++ 0#6, srcs := [a.toNat], dsts := [d.toNat] }
    (mbalBody (42#6 ++ a ++ 0#5 ++ d ++ 0#3 ++ w ++ 0#6) a d w.toNat) s

/-- MUSE (R422). Reads cumulative charges of a class. -/
def execMuse (a : BitVec 5) (d : BitVec 5) (s : State) : Out :=
  run { word := 42#6 ++ a ++ 0#5 ++ d ++ 0#5 ++ 1#6, srcs := [a.toNat], dsts := [d.toNat] }
    (museBody (42#6 ++ a ++ 0#5 ++ d ++ 0#5 ++ 1#6) a d) s

/-- MQSET_RATE (R423). Writes a function's refill RATE. -/
def execMqsetRate (a : BitVec 5) (b : BitVec 5) (d : BitVec 5) (s : State) : Out :=
  run { word := 42#6 ++ a ++ b ++ d ++ 0#5 ++ 2#6, level := 1, srcs := [a.toNat, b.toNat], dsts := [d.toNat] }
    (mqsetBody (42#6 ++ a ++ b ++ d ++ 0#5 ++ 2#6) a b d
    (fun k v atS => v.toNat < 2 ^ 32 && (!atS || v.toNat ≤ k.limrate)) (fun k => BitVec.ofNat 64 k.rate)
    (fun k v => { k with rate := v.toNat })) s

/-- MQSET_CAP (R423). Writes a function's CAP. -/
def execMqsetCap (a : BitVec 5) (b : BitVec 5) (d : BitVec 5) (s : State) : Out :=
  run { word := 42#6 ++ a ++ b ++ d ++ 1#5 ++ 2#6, level := 1, srcs := [a.toNat, b.toNat], dsts := [d.toNat] }
    (mqsetBody (42#6 ++ a ++ b ++ d ++ 1#5 ++ 2#6) a b d
    (fun k v atS => v.toNat < 2 ^ 62 && (!atS || v.toNat ≤ k.limcap)) (fun k => BitVec.ofNat 64 k.cap)
    (fun k v => { k with cap := v.toNat })) s

/-- MQSET_DEPOSIT (R423). Adds a deposit to a function's balance. -/
def execMqsetDeposit (a : BitVec 5) (b : BitVec 5) (d : BitVec 5) (s : State) : Out :=
  run { word := 42#6 ++ a ++ b ++ d ++ 2#5 ++ 2#6, level := 2, srcs := [a.toNat, b.toNat], dsts := [d.toNat] }
    (mqsetBody (42#6 ++ a ++ b ++ d ++ 2#5 ++ 2#6) a b d
    (fun k v _ => (int64 (k.bal + 256 * v.toInt)).isSome) (fun k => wholePj k.bal)
    (fun k v => { k with bal := k.bal + 256 * v.toInt })) s

/-- MQSET_LIMRATE (R423). Writes LIMRATE. -/
def execMqsetLimrate (a : BitVec 5) (b : BitVec 5) (d : BitVec 5) (s : State) : Out :=
  run { word := 42#6 ++ a ++ b ++ d ++ 3#5 ++ 2#6, level := 2, srcs := [a.toNat, b.toNat], dsts := [d.toNat] }
    (mqsetBody (42#6 ++ a ++ b ++ d ++ 3#5 ++ 2#6) a b d
    (fun _ v _ => v.toNat < 2 ^ 32) (fun k => BitVec.ofNat 64 k.limrate) (fun k v => { k with limrate := v.toNat })) s

/-- MQSET_LIMCAP (R423). Writes LIMCAP. -/
def execMqsetLimcap (a : BitVec 5) (b : BitVec 5) (d : BitVec 5) (s : State) : Out :=
  run { word := 42#6 ++ a ++ b ++ d ++ 4#5 ++ 2#6, level := 2, srcs := [a.toNat, b.toNat], dsts := [d.toNat] }
    (mqsetBody (42#6 ++ a ++ b ++ d ++ 4#5 ++ 2#6) a b d
    (fun _ v _ => v.toNat < 2 ^ 62) (fun k => BitVec.ofNat 64 k.limcap) (fun k v => { k with limcap := v.toNat })) s

/-- MQSET_UNL (R423). Writes UNL. -/
def execMqsetUnl (a : BitVec 5) (b : BitVec 5) (d : BitVec 5) (s : State) : Out :=
  run { word := 42#6 ++ a ++ b ++ d ++ 5#5 ++ 2#6, level := 2, srcs := [a.toNat, b.toNat], dsts := [d.toNat] }
    (mqsetBody (42#6 ++ a ++ b ++ d ++ 5#5 ++ 2#6) a b d
    (fun _ v _ => v.toNat < 2) (fun k => BitVec.ofNat 64 (bit k.unl)) (fun k v => { k with unl := v == 1 })) s

/-- MSPLIT (R424). Reads the SHARE charged in the last window. -/
def execMsplit (a : BitVec 5) (d : BitVec 5) (s : State) : Out :=
  run { word := 42#6 ++ a ++ 0#5 ++ d ++ 0#5 ++ 3#6, srcs := [a.toNat], dsts := [d.toNat] }
    (msplitBody (42#6 ++ a ++ 0#5 ++ d ++ 0#5 ++ 3#6) a d) s

/-- MSPLIT_SET (R424). Writes the lease's split MODE. -/
def execMsplitSet (a : BitVec 5) (d : BitVec 5) (s : State) : Out :=
  run { word := 42#6 ++ a ++ 0#5 ++ d ++ 1#5 ++ 3#6, level := 2, srcs := [a.toNat], dsts := [d.toNat] }
    (msplitSetBody (42#6 ++ a ++ 0#5 ++ d ++ 1#5 ++ 3#6) a d) s

/-- MFLOOR (R425). Reads a function's floor contract. -/
def execMfloor (a : BitVec 5) (b : BitVec 5) (d : BitVec 5) (s : State) : Out :=
  run { word := 42#6 ++ a ++ b ++ d ++ 0#5 ++ 4#6, srcs := [a.toNat, b.toNat], dsts := [d.toNat] }
    (mfloorBody (42#6 ++ a ++ b ++ d ++ 0#5 ++ 4#6) a d) s

/-- MFLOOR_SET (R425). Sets a floor contract if admission allows. -/
def execMfloorSet (a : BitVec 5) (b : BitVec 5) (d : BitVec 5) (s : State) : Out :=
  run { word := 42#6 ++ a ++ b ++ d ++ 1#5 ++ 4#6, level := 2, srcs := [a.toNat, b.toNat], dsts := [d.toNat] }
    (mfloorSetBody (42#6 ++ a ++ b ++ d ++ 1#5 ++ 4#6) a b d) s

/-! ## Slices (R413, R414) -/

/-- A charging point's meter: quad (0), die (1), optical edge die (2). -/
def State.meterAt (s : State) (k n : Nat) : Meter :=
  match k with
  | 0 => (s.quad n).meter
  | 1 => (s.die n).meter
  | _ => (s.odie n).meter

/-- A charging point of the panel. -/
def chargePoint (k n : Nat) : Bool :=
  match k with
  | 0 => n < 14400
  | 1 => n < 900
  | 2 => n < 16
  | _ => false

/-- A meter instruction is on its way to the service die, which takes it before grants and refills (R413). -/
def State.meterPending (s : State) : Bool :=
  s.threads.any fun p => p.2.op.service && p.2.word.toNat >>> 26 == 42 && (p.2.st == .run || p.2.st == .parked .engine) &&
    !(s.core (coreOf p.1)).away

/-- SLICE_REQUEST (R413). A charging point requests a slice from the service die. -/
def execSliceRequest (k n f : Nat) (s : State) : Out :=
  eventIf (chargePoint k n && f < 384)
    (let b := (s.fn f).bal
     if s.meterPending then s.defer (.sliceRequest k n f)
     else if (s.fn f).boundary || b ≤ 0 then s.due (.sliceRefusal k n f)
     else
       let g := min tenMicro b
       (s.modFn f fun x => { x with bal := x.bal - g }).due (.sliceGrant k n f g.toNat))

/-- SLICE_GRANT (R413). A granted slice reaches a charging point and waiting work resumes. -/
def execSliceGrant (k n f a : Nat) (s : State) : Out :=
  eventIf (chargePoint k n && f < 384)
    (if (s.fn f).boundary then
       ((s.modAllow k n f fun x => { x with asked := false }).modFn f fun x => { x with bal := x.bal + (a : Int)
        }).settleQuota f
     else
       (s.modAllow k n f fun x => { x with amount := x.amount + (a : Int), asked := false, waiting := false
        }).wakeQuota f
         fun c => k == 0 && quadOf c == n)

/-- SLICE_REFUSAL (R413). A refusal reaches a charging point and stands. -/
def execSliceRefusal (k n f : Nat) (s : State) : Out :=
  eventIf (chargePoint k n && f < 384)
    (let s := s.modAllow k n f fun x => { x with refused := true, asked := false }
     if ((s.meterAt k n).al f).waiting then s.toBoundary f else s)

/-- A period of the service die's clock in cycles. -/
def microsecond : Nat := 1500

/-- QUOTA_REFILL (R413). Once every microsecond BAL is refilled by RATE up to CAP. -/
def execQuotaRefill (s : State) : Out :=
  .next
    (if s.cycle < s.service.refillAt + microsecond || s.meterPending then s.defer .quotaRefill
     else
       let s := { s with service := { s.service with refillAt := s.service.refillAt + microsecond } }
       let fs := (s.funcs.filter fun p => p.2.st != .none && p.2.bal < (p.2.cap : Int) * 256).map (·.1)
       (fs.foldl (fun s f => (s.modFn f fun k =>
           { k with bal := min ((k.cap : Int) * 256) (k.bal + (k.rate : Int) * 256) }).settleQuota f) s).due
        .quotaRefill)

/-! ## Windows (R416, R448) -/

/-- What a meter has taken and not yet told the service die, by function * 32 + class. -/
def Meter.unposted (m : Meter) : List (Nat × Usage) :=
  m.usage.map fun p =>
    let o := smGet {} m.posted p.1
    (p.1, { energy := p.2.energy - o.energy, events := p.2.events - o.events })

/-- Adds charges to the totals of their functions (R422). -/
def State.addTotals (s : State) (l : List (Nat × Usage)) : State :=
  l.foldl (fun s p => s.modFn (p.1 / 32) fun k =>
    let u := smGet {} k.usage (p.1 % 32)
    { k with usage := smSet {} k.usage (p.1 % 32) { energy := u.energy + p.2.energy, events := u.events + p.2.events } }) s

/-- A meter whose charges have been told. -/
def Meter.told (m : Meter) : Meter := { m with posted := m.usage }

/-- Every charging point tells the service die what it has charged (R341, R422). -/
def State.tell (s : State) : State :=
  let l := s.quads.flatMap (fun p => p.2.meter.unposted) ++ s.dies.flatMap (fun p => p.2.meter.unposted) ++
    s.odies.flatMap (fun p => p.2.meter.unposted)
  let s : State :=
    { s with quads := s.quads.map fun p => (p.1, { p.2 with meter := p.2.meter.told })
             dies := s.dies.map fun p => (p.1, { p.2 with meter := p.2.meter.told })
             odies := s.odies.map fun p => (p.1, { p.2 with meter := p.2.meter.told }) }
  s.addTotals l

/-- TELEMETRY (R341). Periodic telemetry every 1 ms. -/
def execTelemetry (s : State) : Out :=
  .next
    (s.tell.dueOnce .telemetry)

/-- Draws a quantity that a sensor measures. -/
def State.sensor (s : State) : Nat × State := (Config.sensor s.fresh, { s with fresh := s.fresh + 1 })

/-- Posts an amount that is no count of events (R409, R416). -/
def State.postAmount (s : State) (f cls amount : Nat) : State :=
  s.modFn f fun k =>
    let u := smGet {} k.usage cls
    { k with bal := k.bal - amount, usage := smSet {} k.usage cls { u with energy := u.energy + amount } }

/-- A holding of a quad by a function ends, or a window closes on it: its time in the window and its leakage, which a
sensor measures. -/
def State.closeHolding (s : State) (q f : Nat) : State :=
  let t := s.cycle - max (s.quad q).heldSince s.service.windowFrom
  let (leak, s) := s.sensor
  let s := s.postAmount f 29 leak
  (s.modFn f fun k => { k with quadUs := k.quadUs + t }).modLse (s.fn f).lease fun l => { l with quadUs := l.quadUs + t }

/-- Divides an amount by weights: the floor of each share, and the rest one at a time in descending weight, ties to the
lower number (R416). -/
def splitBy (amount : Nat) (ws : List (Nat × Nat)) : List (Nat × Nat) :=
  let total := ws.foldl (fun n w => n + w.2) 0
  if total = 0 then []
  else
    let base := ws.map fun w => (w.1, w.2, amount * w.2 / total)
    let rest := amount - base.foldl (fun n b => n + b.2.2) 0
    base.map fun b =>
      let before := (base.filter fun c => b.2.1 < c.2.1 || (c.2.1 == b.2.1 && c.1 < b.1)).length
      (b.1, b.2.2 + bit (before < rest))

/-- Dynamic energy of a function as the service die knows it. -/
def Func.dynamic (k : Func) : Nat := (usageOf (smGet {} k.usage) 31).energy - (smGet {} k.usage 29).energy - (smGet {} k.usage 30).energy

/-- Splits a lease's share among its functions (R416): weights by MODE; without weight to the lowest-numbered function,
without a function carried over. -/
def State.splitLease (s : State) (l share : Nat) : State :=
  let fs := s.funcs.filter fun p => p.2.st != .none && p.2.lease == l
  let ws := fs.map fun p => (p.1, if (s.lse l).mode then p.2.dynamic - p.2.dyn else p.2.quadUs)
  let give (s : State) (x : Nat × Nat) : State :=
    (s.postAmount x.1 30 (x.2 * 256)).modFn x.1 fun k => { k with shareNow := k.shareNow + x.2 }
  match splitBy share ws, fs with
  | [], [] => s.modLse l fun k => { k with carry := share }
  | [], p :: _ => (give s (p.1, share)).modLse l fun k => { k with carry := 0 }
  | xs, _ => (xs.foldl give s).modLse l fun k => { k with carry := 0 }

/-- The leakage of a lease's quads that no function holds: those reserved for one of its functions (R416, R456). -/
def State.idleLeak (s : State) (l : Nat) : Nat × State :=
  let mine (f : Nat) : Bool := (s.fn f).lease == l
  if s.quads.any (fun p => match p.2.hold with
      | .reserved f => mine f
      | .scrub (some f) => mine f
      | _ => false) then s.sensor
  else (0, s)

/-- Closes a window (R416, R448). -/
def State.closeWindow (s : State) : State :=
  let held := s.quads.filterMap fun p => match p.2.hold with
    | .held f _ _ => some (p.1, f)
    | _ => none
  let s := held.foldl (fun s h => s.closeHolding h.1 h.2) s
  let (shared, s) := s.sensor
  let pool := s.service.pool + shared
  let ls := s.leases.filter fun p => p.2.live
  let shares := splitBy (pool / 256) (ls.map fun p => (p.1, p.2.quadUs))
  let s := { s with service := { s.service with pool := if shares = [] then pool else pool % 256 } }
  let s := ls.foldl (fun s p =>
    let (idle, s) := s.idleLeak p.1
    s.splitLease p.1 (((shares.find? fun x => x.1 == p.1).map (·.2)).getD 0 + idle + p.2.carry)) s
  { s with
    funcs := s.funcs.map fun p => (p.1, { p.2 with share := p.2.shareNow, shareNow := 0, quadUs := 0, dyn := p.2.dynamic
                                                   svcm := p.2.svcn, svcn := 0 })
    leases := s.leases.map fun p => (p.1, { p.2 with quadUs := 0 })
    service := { s.service with windowFrom := s.service.windowFrom + 1000 * microsecond } }

/-- METER_WINDOW_CLOSE (R416). A 1 ms window closes and LEAK and SHARE are charged. -/
def execMeterWindowClose (s : State) : Out :=
  .next
    (if s.cycle < s.service.windowFrom + 1000 * microsecond then s.defer .meterWindowClose
     else s.closeWindow.due .meterWindowClose)

/-! ## Calibration and power (R99, R410, R417, R419) -/

/-- METER_CALIBRATION (R410). Every 100 ms quad calibration ratios are updated; a number from 14400 on names a die's charging
point, whose entries follow their own sensors in the same way. -/
def execMeterCalibration (q r : Nat) (s : State) : Out :=
  let ratio := max 192 (min 320 r)
  eventIf (q < 15300)
    (if q < 14400 then s.modQuad q fun k => { k with q := ratio }
     else s.modDie (q - 14400) fun k => { k with q := ratio })

/-- The effective request of a core (R417). -/
def Core.request (k : Core) : Nat := let r := k.perfreq.toNat; if r = 0 || 7 ≤ r then 6 else r

/-- The highest effective request of a quad. -/
def State.quadRequest (s : State) (q : Nat) : Nat :=
  (List.range 4).foldl (fun m i => max m (s.core (coreOfQuad q i)).request) 0

/-- OPERATING_POINT_CHANGE (R417). A quad's operating point change takes effect. -/
def execOperatingPointChange (q : Nat) (s : State) : Out :=
  eventIf (q < 14400)
    (s.modQuad q fun k => { k with cur := min k.cap (s.quadRequest q) })

/-- Rank of a slot in the order of gating (R99): free, parked, running; within a rank slot 15 first. -/
def Thread.gateRank (th : Thread) : Nat :=
  match th.st with
  | .free => 0
  | .run => 2
  | _ => 1

/-- The slot that gating removes next from a core. -/
def State.nextGate (s : State) (c : Nat) : Option Nat :=
  [0, 1, 2].findSome? fun r => ((List.range 16).map (15 - ·)).find? fun i =>
    !(s.core c).gated.getLsbD i && (s.thr (c * 16 + i)).gateRank == r

/-- The power controller lowers CAP by one point, or at point 1 gates a slot of each core (R419). -/
def State.capStep (s : State) (q : Nat) : State :=
  if 1 < (s.quad q).cap then
    ({ s with service := { s.service with actions := (q, 0) :: s.service.actions } }.modQuad q fun k =>
      { k with cap := k.cap - 1 }).dueOnce (.operatingPointChange q)
  else
    (List.range 4).foldl (fun s i =>
      let c := coreOfQuad q i
      match s.nextGate c with
      | some k => { s with service := { s.service with actions := (c * 16 + k, 1) :: s.service.actions } }.due
          (.slotGate (c * 16 + k))
      | none => s) s

/-- POWER_CAP_STEP (R419). The power controller lowers a quad's CAP one point. -/
def execPowerCapStep (q : Nat) (s : State) : Out :=
  eventIf (q < 14400)
    (s.capStep q)

/-- POWER_RECOVERY (R419). The power controller undoes its actions after 1 ms below 95 percent. -/
def execPowerRecovery (s : State) : Out :=
  .next
    (match s.service.actions with
     | [] => s
     | (n, k) :: rest =>
       let s := { s with service := { s.service with actions := rest } }
       if k = 0 then (s.modQuad n fun x => { x with cap := x.cap + 1 }).dueOnce (.operatingPointChange n)
       else s.due (.slotUngate n))

/-- SLOT_GATE (R99). The power controller gates a slot. -/
def execSlotGate (t : Nat) (s : State) : Out :=
  eventIf (validThread t)
    ((s.modCore (coreOf t) fun k => { k with gated := k.gated ||| 1#16 <<< slotOf t }).modThr t fun th =>
       { th with latch := none })

/-- SLOT_UNGATE (R99). The power controller ungates a slot. -/
def execSlotUngate (t : Nat) (s : State) : Out :=
  eventIf (validThread t)
    ((s.modCore (coreOf t) fun k => { k with gated := k.gated &&& ~~~(1#16 <<< slotOf t) }).dueOnce
       (.slotFill (coreOf t)))

end Sys2Proof.Machine
end

