-- ==== Sys2Proof/Machine/Partition.lean ====
section
/-! DEFINITION. The partition engine: major 0x2D, placement, quads and launches, births, eviction and migration orders,
gang slices (R94, R101, R438, R439, R447 to R467, R481). -/

namespace Sys2Proof.Machine

/-! ## Functions (R448) -/

/-- Quads held or reserved by a function. -/
def State.claimed (s : State) (f : Nat) : List Nat :=
  (s.quads.filter fun p => match p.2.hold with
    | .held g _ _ => g == f
    | .reserved g => g == f
    | _ => false).map (·.1)

/-- STATE of a function (R448). -/
def State.fnState (s : State) (f : Nat) : Nat :=
  match (s.fn f).st with
  | .none => 0
  | .evicted => 3
  | _ => if s.claimed f != [] || (s.fn f).queues.toList.any (· != []) then 2 else 1

/-- The function is a gang. -/
def Func.isGang (k : Func) : Bool := k.gang.getLsbD 63

/-- GANGTOL in µs. -/
def Func.gangTol (k : Func) : Nat := if field k.gang.toNat 19 0 = 0 then 200 else field k.gang.toNat 19 0

/-! ## Launch records (R81, R454, R455) -/

/-- Byte `i` of a record. -/
def byteAt (bs : List Byte) (i : Nat) : Nat := (bs.getD i 0).toNat

/-- Width of a launch in quads. -/
def launchW (bs : List Byte) : Nat := byteAt bs 8
/-- Height of a launch in quads. -/
def launchH (bs : List Byte) : Nat := byteAt bs 9
/-- The launch names its origin. -/
def launchFixed (bs : List Byte) : Bool := byteAt bs 10 != 255
/-- Threads per core. -/
def launchTpc (bs : List Byte) : Nat := byteAt bs 12
/-- The launch is paired. -/
def launchPaired (bs : List Byte) : Bool := (bs.getD 13 0).getLsbD 2

/-- A record that breaks a limit of R81 (code FORMAT). -/
def badRecord (bs : List Byte) : Bool :=
  let w := launchW bs
  let h := launchH bs
  let x := byteAt bs 10
  let y := byteAt bs 11
  bs.length != 64 || byteAt bs 0 % 4 != 0 || w = 0 || 120 < w || h = 0 || 120 < h ||
    (x == 255) != (y == 255) || (x != 255 && (119 < x || 120 < x + w || 119 < y || 120 < y + h)) ||
    launchTpc bs = 0 || 16 < launchTpc bs || (launchPaired bs && 8 < launchTpc bs) || 16 ≤ byteAt bs 13 ||
    byteAt bs 14 != 0 || byteAt bs 15 != 0 || ((bs.drop 20).take 4).any (· != 0) || (bs.drop 56).any (· != 0)

/-- A record enters a queue of a function: its number, or the code of its refusal at entry (R454, R455). -/
def State.enterLaunch (s : State) (f : Nat) (bs : List Byte) : State × Except Nat Nat :=
  let p := byteAt bs 13 % 4
  let size := launchW bs * launchH bs
  if badRecord bs then (s, .error 1)
  else if 16 ≤ (vget [] (s.fn f).queues p).length then (s, .error 2)
  else if (s.fn f).qmax < size || (s.lse (s.fn f).lease).qmax < size then (s, .error 3)
  else
    let n := s.nextLaunch % 65536
    let s := s.modFn f fun k => { k with queues := vmod [] k.queues p fun q => q ++ [{ number := n, fn := f, bytes := bs }] }
    ({ s with nextLaunch := (n + 1) % 65536 }.dueOnce .placementPass, .ok n)

/-- The word of R463. -/
def launchWord : Except Nat Nat → Nat
  | .ok n => n
  | .error c => 2 ^ 63 + c <<< 56

/-- A queued record is dropped with a placement code (R455). -/
def State.refuseLaunch (s : State) (l : Launch) (code : Nat) : State :=
  (s.modFn l.fn fun k => { k with queues := vmap (fun q => q.erase l) k.queues }).fnEvent l.fn
    (contextEvent 0xA0 (code <<< 16 + l.number))

/-! ## Instructions that the service die answers (R462) -/

/-- The service die waits for the thread's earlier stores (R183). -/
def afterRelease (act : State → Res) (s : State) : Res :=
  atService (fun s =>
    if s.released s.cur then act s
    else .keep ((s.park s.cur .engine { service := true }).dueOnce (.accessReply s.cur))) s

/-- Reads a block for the service die's answer as relaxed loads. -/
def serviceRead (ea : Word) (n align : Nat) (fin : List Byte → State → Res) (s : State) : Res :=
  memAccess ea n rightR align 0 false (fun s da parts =>
    let o : Op := { service := true, ea := ea, da := da, pinned := s.me.pinned ea, relaxed := true
                    todo := parts.map fun p => { dest := p.1, op := .load p.2.1 p.2.2, ea := ea, da := da } }
    .keep ((s.modMe fun th => { th with op := o }).nextAccess s.cur)) fin s

/-- A function selector whose other bits are zero (R420, R462). -/
def withSelector (word : Half) (n : Nat) (k : Nat → State → Res) (s : State) : Res :=
  if field n 14 9 != 0 || field n 63 16 != 0 then illegal word 2 s else withFn word n k s

/-- DLAUNCH (R463). -/
def dlaunchBody (word : Half) (a b d : BitVec 5) (s : State) : Res :=
  let ea := s.g a
  withSelector word (s.gn b) (fun f s =>
    if !s.allowed 0 then noRight word 1 s
    else if !s.exists? f then illegal word 3 s
    else if ea.toNat % 64 != 0 then raise cMisalign ea 0 s
    else withScope (scopeWord 5) (fun x s =>
      let fin (bs : List Byte) (s : State) : Res :=
        let (s, r) := s.enterLaunch f bs
        .done ((s.setGn d (launchWord r)).noteClamp s.cur x)
      match s.me.op.reply with
      | .none => afterRelease (serviceRead ea 64 64 fin) s
      | _ => serviceRead ea 64 64 fin s) s) s

/-- DLAUNCH (R463). Enters a launch record into a function's queue. -/
def execDlaunch (a : BitVec 5) (b : BitVec 5) (d : BitVec 5) (s : State) : Out :=
  run { word := 45#6 ++ a ++ b ++ d ++ 0#5 ++ 0#6, level := 1, srcs := [a.toNat, b.toNat], dsts := [d.toNat] }
    (dlaunchBody (45#6 ++ a ++ b ++ d ++ 0#5 ++ 0#6) a b d) s

/-! ## Placement (R456, R458, R459) -/

/-- Quads of a rectangle from an origin quad. -/
def rectQuads (o w h : Nat) : List Nat :=
  (List.range h).flatMap fun j => (List.range w).map fun i => o + 120 * j + i

/-- A quad is in the way of a launch of `f`: HELD, or RESERVED by another. -/
def Hold.blocks (f : Nat) : Hold → Bool
  | .out => true
  | .held _ _ _ => true
  | .reserved g => g != f
  | .scrub (some g) => g != f
  | _ => false

/-- Quads of a rectangle that are in the way. -/
def State.inWay (s : State) (f : Nat) (qs : List Nat) : Nat := (qs.filter fun q => (s.quad q).hold.blocks f).length

/-- The origins a launch may take: its own, or every origin with all quads not OUT. -/
def State.origins (s : State) (bs : List Byte) : List Nat :=
  if launchFixed bs then [byteAt bs 11 * 120 + byteAt bs 10]
  else
    ((List.range (121 - launchH bs)).flatMap fun y => (List.range (121 - launchW bs)).map fun x => y * 120 + x).filter
      fun o => (rectQuads o (launchW bs) (launchH bs)).all fun q => (s.quad q).hold != .out

/-- The candidate with the fewest quads in the way; ties lie with the earlier in row order. -/
def State.bestOrigin (s : State) (f : Nat) (bs : List Byte) : Option (Nat × Nat) :=
  (s.origins bs).foldl (fun best o =>
    let n := s.inWay f (rectQuads o (launchW bs) (launchH bs))
    match best with
    | none => some (o, n)
    | some (p, m) => if n < m then some (o, n) else some (p, m)) none

/-- Quads reserved for a function and not in a list become FREE. -/
def State.unreserve (s : State) (f : Nat) (keep : List Nat) : State :=
  let qs := (s.quads.filter fun p => p.2.hold == .reserved f && !keep.contains p.1).map (·.1)
  qs.foldl (fun s q => (s.modQuad q fun k => { k with hold := .free }).dueOnce .placementPass) s

/-- The slots of a launch's threads (R96): slots 0 to TPC - 1 of every core of its quads that is in service; of a pair the
leading copy's. -/
def State.launchSlots (s : State) (l : Launch) : List Nat :=
  l.quads.flatMap fun q => (List.range 4).flatMap fun i =>
    let c := coreOfQuad q i
    if (s.core c).place.service = .absent then []
    else (List.range (launchTpc l.bytes)).map fun k => c * 16 + k

/-- A launch starts when every one of its quads has ended its scrub (R457). -/
def State.startLaunch (s : State) (l : Launch) : State :=
  let scrubbed := l.quads.all fun q => match (s.quad q).hold with
    | .held _ _ scrub => !scrub
    | _ => false
  if l.started || !scrubbed then s
  else
    let births := s.launchSlots l
    let s := { s with running := s.running.map fun x => if x = l then { l with started := true, births := births } else x }
    ((births.map coreOf).eraseDups).foldl (fun s c => s.dueOnce (.slotFill c)) s

/-- Places a launch (R458): its quads are HELD, those still scrubbing with their scrub pending. -/
def State.placeLaunch (s : State) (l : Launch) (o : Nat) : State :=
  let qs := rectQuads o (launchW l.bytes) (launchH l.bytes)
  let s := s.modFn l.fn fun k => { k with queues := vmap (fun q => q.erase l) k.queues, st := .active }
  let s := qs.foldl (fun s q => s.modQuad q fun k =>
    { k with heldSince := s.cycle
             hold := .held l.fn l.number (match k.hold with
               | .scrub _ => true
               | _ => false) }) s
  let l' := { l with origin := coreOfQuad o 0, quads := qs, tmpl := (s.fn l.fn).tmplCopy }
  (({ s with running := s.running ++ [l'] }.unreserve l.fn []).startLaunch l')

/-- The head of a function's highest queue that is not empty. -/
def Func.head (k : Func) : Option Launch :=
  [3, 2, 1, 0].findSome? fun p => (vget [] k.queues p).head?

/-- Quads held by the functions of a lease, or reserved by those other than `f`. -/
def State.leaseClaim (s : State) (l f : Nat) : Nat :=
  (s.quads.filter fun p => match p.2.hold with
    | .held g _ _ => (s.fn g).lease == l
    | .reserved g => g != f && (s.fn g).lease == l
    | _ => false).length

/-- Rights of a function at S as the service die holds them (R449). -/
def State.fnRight (s : State) (f i : Nat) : Bool := ((s.fn f).rights &&& (s.lse (s.fn f).lease).rights).getLsbD i

/-- One function's turn in a pass (R458); a refused head lets the next one be tried. -/
def State.placeFor (s : State) (f : Nat) (first : Bool) : Nat → State
  | 0 => s
  | n + 1 =>
    match (s.fn f).head with
    | none => s
    | some l =>
      let size := launchW l.bytes * launchH l.bytes
      let refuse (c : Nat) : State := ((s.refuseLaunch l c).unreserve f []).placeFor f first n
      if (floorOf l.bytes != 0 && !s.fnRight f 4) || (launchFixed l.bytes && !s.fnRight f 5) then refuse 5
      else if s.sustained < s.floors + floorOf l.bytes + 2000 then refuse 4
      else if (s.lse (s.fn f).lease).qmax < s.leaseClaim (s.fn f).lease f + size ||
          (s.fn f).qmax < (s.quadsOf f).length + size then s
      else match s.bestOrigin f l.bytes with
        | none => s
        | some (o, 0) => s.placeLaunch l o
        | some (o, _) =>
          if first then
            let qs := rectQuads o (launchW l.bytes) (launchH l.bytes)
            qs.foldl (fun s q => if (s.quad q).hold = .free then s.modQuad q fun k => { k with hold := .reserved f } else s)
              (s.unreserve f qs)
          else s

/-- Functions with a waiting head in descending deficit, ties to the lower number (R458). -/
def State.passOrder (s : State) : List Nat :=
  let fs := (s.funcs.filter fun p => p.2.st != .none && p.2.st != .evicted && p.2.head.isSome).map fun p =>
    (p.1, (p.2.svct : Int) - p.2.svcm)
  let ins (l : List (Nat × Int)) (x : Nat × Int) : List (Nat × Int) :=
    (l.takeWhile fun y => x.2 ≤ y.2) ++ [x] ++ (l.dropWhile fun y => x.2 ≤ y.2)
  (fs.foldl ins []).map (·.1)

/-- A placement pass (R458). -/
def State.pass (s : State) : State :=
  let fs := s.passOrder
  fs.foldl (fun s f => s.placeFor f (fs.head? == some f) 65) s

/-- PLACEMENT_PASS (R458). The partition engine places or reserves for waiting launch heads. -/
def execPlacementPass (s : State) : Out :=
  .next
    (s.pass)

/-! ## Births (R94, R96) -/

/-- A thread of a launch record (R96). -/
def State.launchThread (s : State) (l : Launch) (c : Nat) : Thread :=
  let th := (s.newThread l c (BitVec.ofNat 64 (dword l.bytes 0))).put 1 (BitVec.ofNat 64 l.origin)
  (List.range 4).foldl (fun th i => th.put (8 + i) (BitVec.ofNat 64 (dword l.bytes (3 + i)))) th

/-- Takes the head of a core's spill queue into a slot, or removes it with its event (R95, R97). The entry does not tell
whether its message had REL = 1; the birth performs the acquire effect always (R302; log entry 26). -/
def State.spillHeadTake (s : State) (c slot : Nat) : State :=
  let k := s.core c
  let a := s.spillAddr c k.spillHead
  let bs := if s.poisoned a 8 then List.replicate 8 0 else s.rd a 8
  let s1 := s.modCore c fun k =>
    { k with spillCount := k.spillCount - 1, spillHead := (k.spillHead + 1) % 2 ^ k.spillSize }
  let f := (s.holder (quadOf c)).getD 0
  let src := ofBytes (bs.take 2)
  let h := byteAt bs 2 % 64
  let drop (s : State) (cause : Nat) : State :=
    s.fnEvent f (contextEvent 0x12 (cause <<< 56 + k.spillHead <<< 32 + h <<< 16 + src))
  if s.poisoned a 128 then drop (s1.quadError c 0x02 0 (BitVec.ofNat 64 a)) 1
  else match s.handler c h with
    | .ok pc => s1.spawnInto c slot src pc (s.rd (a + 8) 64) true
    | .error 3 =>
      drop (s1.quadError c 0x02 0 (BitVec.ofNat 64 (sramAddr c 0 ((k.htabBase.toNat <<< 9) + 8 * h)))) 3
    | .error _ => drop s1 2

/-- The first launch thread that waits for a slot of a core, with its launch. -/
def State.nextBirth (s : State) (c : Nat) : Option (Launch × Nat) :=
  s.running.findSome? fun l => (l.births.find? fun t =>
    coreOf t == c && s.slotFree t && (!launchPaired l.bytes || s.slotFree (t + 8))).map fun t => (l, t)

/-- Fills one slot (R94): a waiting migration goes first, then the spill queue, then launch threads. -/
def State.fillSlot (s : State) (c : Nat) : State :=
  let k := s.core c
  if k.inbound != [] then s
  else if k.spillCount != 0 then
    match s.freeSlot c (s.pairedAt c) with
    | some i => (s.spillHeadTake c i).dueOnce (.slotFill c)
    | none => s
  else match s.nextBirth c with
    | some (l, t) =>
      let s := { s with running := s.running.map fun x => if x = l then { l with births := l.births.erase t } else x }
      let th := s.launchThread l c
      let s := s.birth t th
      (if launchPaired l.bytes then s.birth (t + 8) th else s).dueOnce (.slotFill c)
    | none => s

/-- SLOT_FILL (R94). A free ungated slot is filled from migrations, spill queue, spawns or launch threads. -/
def execSlotFill (c : Nat) (s : State) : Out :=
  eventIf (validCore c)
    (if (s.core c).away then s.defer (.slotFill c) else s.fillSlot c)

/-! ## The end of a quad group (R457) -/

/-- Words that the scrub of a quad zeroes: TCM of its cores, scratchpad, its slice of the die SRAM. -/
def State.scrubSrams (s : State) (q : Nat) : State :=
  let s := (List.range 4).foldl (fun s i => s.scrub (sramAddr (coreOfQuad q i) 0 0) (2 ^ 18)) s
  let s := s.scrub (sramAddr (coreOfQuad q 0) 1 0) (2 ^ 21)
  let k := q % 120 % 4 + 4 * (q / 120 % 4)
  if 8 ≤ k && s.reservedSlice (dieOfQuad q) then s
  else s.scrub (sramAddr (coreOfDie (dieOfQuad q) 0) 2 (k <<< 20)) (2 ^ 20)

/-- A core after the scrub: enrolment, the request for an operating point and what belongs to the place are kept, and the
performed entries of the journal that still wait for their acknowledgement. -/
def Core.scrubbed (k : Core) : Core :=
  { cycleOff := k.cycleOff, gated := k.gated, moving := k.moving, leaving := k.leaving, perfreq := k.perfreq, inbound := k.inbound
    journal := k.journal, jorder := k.jorder, stalereply := k.stalereply, ckEn := k.ckEn, place := k.place }

/-- The scrub of a quad (R457). -/
def State.scrubQuad (s : State) (q : Nat) : State :=
  let s := (s.scrubSrams q).tell
  let s := (List.range 4).foldl (fun s i => s.modCore (coreOfQuad q i) Core.scrubbed) s
  s.modQuad q fun k => { k with trier := {}, waits := [], tickets := [], meter := { k.meter with usage := [], posted := [] } }

/-- The import entries of a function are removed (R190). -/
def State.dropImportsOf (s : State) (f : Nat) : State :=
  { s with odies := s.odies.map fun p => (p.1, { p.2 with imports := p.2.imports.filter fun e => e.fn != f }) }

/-- What ends with a function's hold of a quad (R190, R416, and the last quad of a die or of the panel). -/
def State.release (s : State) (q f : Nat) : State :=
  let s := s.closeHolding q f
  let s := s.dropImportsOf f
  let left := s.quadsOf f
  let s := if left.any (fun x => dieOfQuad x == dieOfQuad q) then s else s.collRelease f (dieOfQuad q)
  if left = [] then s.barRelease f else s

/-- The three conditions of R457 for a quad held under a launch. -/
def State.groupDone (s : State) (q n : Nat) : Bool :=
  (List.range 4).all fun i =>
    let c := coreOfQuad q i
    let k := s.core c
    (List.range 16).all (fun x => (s.thr (c * 16 + x)).st == .free) &&
      k.copies.toList.all (fun x => x.st == .free || x.st == .ended) && !k.journal.any (fun p => p.2.pending) &&
      !s.running.any (fun l => l.number == n && l.births.any fun t => coreOf t == c)

/-- Every thread of the quad has ended and none is to be born. -/
def State.quadEmpty (s : State) (q : Nat) : Bool :=
  (List.range 4).all fun i => (List.range 16).all fun x => (s.thr (coreOfQuad q i * 16 + x)).st == .free

/-- A core of the quad is ABSENT. -/
def State.stricken (s : State) (q : Nat) : Bool :=
  (List.range 4).any fun i => (s.core (coreOfQuad q i)).place.service == .absent

/-- A quad group completes: the quad goes to SCRUB, or OUT when a core of it is ABSENT (R340, R457). -/
def State.endGroup (s : State) (q f n : Nat) : State :=
  let out := s.stricken q
  let s := s.modQuad q fun k => { k with hold := if out then .out else .scrub none }
  let s := (s.release q f).modFn f fun k => { k with svcn := k.svcn + 1 }
  let s := { s with running := s.running.filter fun l =>
    !(l.fn == f && l.number == n) || l.quads.any fun x => match (s.quad x).hold with
      | .held g m _ => g == f && m == n
      | _ => false }
  if out then (s.scrubQuad q).dueOnce .placementPass else (s.due (.quadScrubEnd q)).dueOnce .placementPass

/-- QUAD_GROUP_COMPLETE (R457). A quad group completes and the quad goes to SCRUB. -/
def execQuadGroupComplete (q : Nat) (s : State) : Out :=
  eventIf (q < 14400)
    (match (s.quad q).hold with
     | .held f n false =>
       if s.groupDone q n then s.endGroup q f n
       else if s.quadEmpty q && !s.running.any (fun l => l.number == n && l.births.any fun t => quadOf (coreOf t) ==
        q) then
         s.defer (.quadGroupComplete q)
       else s
     | _ => s)

/-- A FREE quad goes to a function whose RESUME waits for it, ahead of every deficit (R461). -/
def State.freeQuad (s : State) (q : Nat) : State :=
  match s.funcs.find? (fun p => p.2.resume.contains q) with
  | some p => s.modQuad q fun k => { k with hold := .reserved p.1 }
  | none => (s.modQuad q fun k => { k with hold := .free }).dueOnce .placementPass

/-- QUAD_SCRUB_END (R456). A quad's scrub ends and it becomes FREE or HELD. -/
def execQuadScrubEnd (q : Nat) (s : State) : Out :=
  eventIf (q < 14400)
    (let s1 := s.scrubQuad q
     match (s.quad q).hold with
     | .scrub _ => if s.stricken q then s1.modQuad q fun k => { k with hold := .out } else s1.freeQuad q
     | .held f n true =>
       let s2 := s1.modQuad q fun k => { k with hold := .held f n false }
       (s2.running.filter fun l => l.fn == f && l.number == n).foldl (fun s l => s.startLaunch l) s2
     | _ => s)

/-! ## Orders (R101, R461, R464) -/

/-- An order on a core or function is in progress. -/
def State.busyOrder (s : State) (core : Bool) (a : Nat) : Bool :=
  s.orders.any fun o => (o.code < 2) == core && o.arg == a

/-- The fetch buffers of a core's threads are emptied, and import entries of its function removed (R190, R483). -/
def State.resettle (s : State) (c : Nat) : State :=
  let s := (List.range 16).foldl (fun s i =>
    if (s.thr (c * 16 + i)).st = .free then s else s.modThr (c * 16 + i) fun th => { th with fbuf := [], ahead := none }) s
  s.clearImports c

/-- The units of a core that was held go on. -/
def State.stirCore (s : State) (c : Nat) : State :=
  let k := s.core c
  let s := ((s.dueOnce (.slotFill c)).dueOnce (.forwardDeliver c)).dueOnce (.matrixUnitStart c)
  let s := if k.mop.isSome then s.dueOnce (.tmmasResume c) else s
  let s := if k.vq != [] || k.vwait != [] then s.dueOnce (.vectorUnitStart (quadOf c)) else s
  let s := if k.arrivals != [] then s.dueOnce (.tileArrival c) else s
  let s := (List.range 16).foldl (fun s x =>
    let y := k.ctx x
    if y.bound && y.kind != 2 then s.stir c x else if y.bound then s.dueOnce (.ringStreamFill c x) else s) s
  (List.range 16).foldl (fun s i =>
    let y := k.copies.toList.getD i {}
    if y.st = .queued || y.st = .running || y.st = .held then s.dueOnce (.copyChunk c i) else s) s

/-- A live migration starts: every slot is held, a running operation spills; the vacate point comes when what the units have
accepted has completed (R101, R202, R245, R279). -/
def State.startMove (s : State) (c : Nat) : State :=
  ((s.modCore c fun k => { k with leaving := true }).holdMat c 2).emptyLatches c

/-- The context runs on its new core (R101). -/
def State.finishMove (s : State) (c : Nat) : State :=
  if !(s.core c).moving then s
  else
    let (off, s) := s.unstated
    let s := (s.modCore c fun k => { k with moving := false, cycleOff := off }).resettle c
    let s := (s.stirCore c).dueOnce (.forwardEntryRemove c)
    s.orders.foldl (fun s o => if o.code < 2 && o.arg = c then s.due (.migrOrderEnd o.code c) else s) s

/-- An order of a code on a core that goes on. -/
def State.ordered (s : State) (code c : Nat) : Bool := s.orders.any fun o => o.code == code && o.arg == c && o.stop == 0

/-- A context leaves for the nominal place of its core: the exception ends (R328, R461). -/
def State.goHome (s : State) (c : Nat) : State :=
  let p := (s.core c).place
  let site := s.siteOf (dieOf c)
  let s : State := { s.vacate c with spareUsed := keyDel s.spareUsed (p.site * 64 + p.index) }
  s.modCore c fun k => { k with place := { k.place with
    site := site, index := dieIdx c, exception := false, band := if site = nominalSite (dieOf c) then 0 else 1
    commit := some s.cycle, epoch := (k.place.epoch + 1) % 65536 } }

/-- A move that has found no spare is given up, and the context goes on where it is (R461). -/
def State.dropMove (s : State) (c : Nat) : State :=
  let s := (s.modCore c fun k => { k with leaving := false }).stirCore c
  s.orders.foldl (fun s o => if o.code < 2 && o.arg = c then s.due (.migrOrderEnd o.code c) else s) s

/-- LIVE_MIGRATION_DONE (R101). A moved core context runs on its new core. -/
def execLiveMigrationDone (c : Nat) (s : State) : Out :=
  eventIf (validCore c)
    (let k := s.core c
     if !k.leaving then s.finishMove c
     else if !s.ordered 1 c then s.dropMove c
     else if k.drained then (s.goHome c).due (.liveMigrationDone c)
     else s.defer (.liveMigrationDone c))

/-- Registers an order of the executing thread's lease. -/
def State.order (s : State) (code arg stop : Nat) : State :=
  { s with orders := s.orders ++ [{ code := code, arg := arg, lease := s.me.lease, stop := stop }] }

/-- Common checks of MIGR (R464): level, right, order word. -/
def withMigr (word : Half) (o : Nat) (a : BitVec 5) (act : State → Res) (s : State) : Res :=
  if !s.allowed 5 then noRight word 1 s
  else if s.gn a != o then illegal word 2 s
  else atService act s

/-- MOVE and HOME: the core named lies in a quad held by a function of the issuing lease (R464). -/
def withCore (b : BitVec 5) (act : Nat → State → Res) (s : State) : Res :=
  let c := s.gn b
  if 65536 ≤ c || !validCore c || !s.leaseHolds s.me.lease c then segFree 3 s else act c s

/-- MOVE (R461, R464). -/
def migrMoveAct (d : BitVec 5) (c : Nat) (s : State) : Res :=
  let k := s.core c
  if s.busyOrder true c then .done (s.setG d 0)
  else if k.away || k.place.service == .absent then .done (((s.order 0 c 3).due (.migrOrderEnd 0 c)).setG d 1)
  else match s.spareFor c with
    | none => .done (s.setG d 0)
    | some x =>
      if s.remapsFull c then .done (s.setG d 0)
      else .done ((((s.order 0 c 0).startMove c).due (.remapExceptionCommit c (x / 64) (x % 64))).setG d 1)

/-- HOME (R461): the nominal place, when the core there is sound. -/
def migrHomeAct (d : BitVec 5) (c : Nat) (s : State) : Res :=
  let k := s.core c
  if s.busyOrder true c then .done (s.setG d 0)
  else if k.away || k.place.service == .absent then .done (((s.order 1 c 3).due (.migrOrderEnd 1 c)).setG d 1)
  else if !k.place.exception || k.place.unsound then .done (((s.order 1 c 1).due (.migrOrderEnd 1 c)).setG d 1)
  else
    .done ((((s.order 1 c 0).startMove c).due (.liveMigrationDone c)).setG d 1)

/-- Every core of a function's quads waits with reason GANG (R101, R461). -/
def State.gangHold (s : State) (f : Nat) : State :=
  (s.quadsOf f).foldl (fun s q => (List.range 4).foldl (fun s i =>
    ((s.modCore (coreOfQuad q i) fun k => { k with ganged := true }).holdMat (coreOfQuad q i) 5).emptyLatches
      (coreOfQuad q i)) s) s

/-- Registers an order. -/
def State.addOrder (s : State) (o : Order) : State := { s with orders := s.orders ++ [o] }

/-- EVICT is accepted. -/
def State.startEvict (s : State) (f lease : Nat) : State :=
  ((s.addOrder { code := 2, arg := f, lease := lease }).gangHold f).due (.migrOrderEnd 2 f)

/-- RESUME is accepted: the quads named in the save area are reserved as they are FREE, ahead of every deficit. -/
def State.startResume (s : State) (f lease : Nat) : State :=
  let qs := (s.fn f).saved
  let s := (s.addOrder { code := 3, arg := f, lease := lease }).modFn f fun k => { k with resume := qs }
  let s := qs.foldl (fun s q => match (s.quad q).hold with
    | .free => s.modQuad q fun k => { k with hold := .reserved f }
    | .reserved _ => s.modQuad q fun k => { k with hold := .reserved f }
    | _ => s) s
  s.due (.migrOrderEnd 3 f)

/-- MIGR_MOVE (R461). Orders live migration of a core context to a spare. -/
def execMigrMove (a : BitVec 5) (b : BitVec 5) (d : BitVec 5) (s : State) : Out :=
  run { word := 45#6 ++ a ++ b ++ d ++ 0#5 ++ 1#6, level := 2, srcs := [a.toNat, b.toNat], dsts := [d.toNat] }
    (withMigr (45#6 ++ a ++ b ++ d ++ 0#5 ++ 1#6) 0 a (withCore b (migrMoveAct d))) s

/-- MIGR_HOME (R461). Orders a core context back to its nominal site. -/
def execMigrHome (a : BitVec 5) (b : BitVec 5) (d : BitVec 5) (s : State) : Out :=
  run { word := 45#6 ++ a ++ b ++ d ++ 0#5 ++ 1#6, level := 2, srcs := [a.toNat, b.toNat], dsts := [d.toNat] }
    (withMigr (45#6 ++ a ++ b ++ d ++ 0#5 ++ 1#6) 1 a (withCore b (migrHomeAct d))) s

/-- MIGR_EVICT (R461). Orders eviction of a function to its save area. -/
def execMigrEvict (a : BitVec 5) (b : BitVec 5) (d : BitVec 5) (s : State) : Out :=
  run { word := 45#6 ++ a ++ b ++ d ++ 0#5 ++ 1#6, level := 2, srcs := [a.toNat, b.toNat], dsts := [d.toNat] }
    (withMigr (45#6 ++ a ++ b ++ d ++ 0#5 ++ 1#6) 2 a
    (fun s => withSelector (45#6 ++ a ++ b ++ d ++ 0#5 ++ 1#6) (s.gn b) (fun f s =>
      if s.fnState f != 2 || s.busyOrder false f then .done (s.setG d 0)
      else .done ((s.startEvict f s.me.lease).setG d 1)) s)) s

/-- MIGR_RESUME (R461). Orders restoration of an evicted function. -/
def execMigrResume (a : BitVec 5) (b : BitVec 5) (d : BitVec 5) (s : State) : Out :=
  run { word := 45#6 ++ a ++ b ++ d ++ 0#5 ++ 1#6, level := 2, srcs := [a.toNat, b.toNat], dsts := [d.toNat] }
    (withMigr (45#6 ++ a ++ b ++ d ++ 0#5 ++ 1#6) 3 a
    (fun s => withSelector (45#6 ++ a ++ b ++ d ++ 0#5 ++ 1#6) (s.gn b) (fun f s =>
      if s.fnState f != 3 || s.busyOrder false f then .done (s.setG d 0)
      else .done ((s.startResume f s.me.lease).setG d 1)) s)) s

/-! ## Saving and restoring contexts (R460) -/

/-- Copies bytes and poison between SRAM and the HBM of a lease address, page by page through the panel stage; `out`
says that SRAM is read. None: a page is not mapped and pinned. -/
def State.savePages (s : State) (f proot sram la : Nat) (out : Bool) : Nat → Option State
  | 0 => some s
  | n + 1 =>
    match s.panelStage f proot la (if out then rightW else rightR) true 1 with
    | .ok s pa _ =>
      let (src, dst) := if out then (sram, hbmBase + pa) else (hbmBase + pa, sram)
      let bad := (s.poison.filter fun w => src ≤ w && w < src + 65536).map fun w => w - src + dst
      let s := { s.wr dst (s.rd src 65536) with
        poison := bad.foldl keyAdd (s.poison.filter fun w => w < dst || dst + 65536 ≤ w) }
      s.savePages f proot (sram + 65536) (la + 65536) out n
    | _ => none

/-- The SRAM parts of a quad with their offsets in the save area and lengths in pages (R460). -/
def saveParts (q : Nat) : List (Nat × Nat × Nat) :=
  ((List.range 4).map fun i => (sramAddr (coreOfQuad q i) 0 0, 0x40000 * i, 4)) ++
    [(sramAddr (coreOfQuad q 0) 1 0, 0x100000, 32),
     (sramAddr (coreOfDie (dieOfQuad q) 0) 2 ((q % 120 % 4 + 4 * (q / 120 % 4)) <<< 20), 0x300000, 16)]

/-- Moves every SRAM part of a quad to or from its save area. -/
def State.saveQuad (s : State) (f proot la : Nat) (out : Bool) : List (Nat × Nat × Nat) → Option State
  | [] => some s
  | (a, o, n) :: ps =>
    match s.savePages f proot a (la + o) out n with
    | some s => s.saveQuad f proot la out ps
    | none => none

/-- Writes the two pages of a core-state block. -/
def State.writeBlock (s : State) (f proot la draw : Nat) : Option State :=
  match s.panelStage f proot la rightW true 1 with
  | .ok s pa _ =>
    let s := s.wr (hbmBase + pa) (sealBytes draw 0)
    match s.panelStage f proot (la + 65536) rightW true 1 with
    | .ok s pb _ => some (s.wr (hbmBase + pb) (sealBytes draw 65536))
    | _ => none
  | _ => none

/-- The block still holds what was written (its CRC holds), or the page is not mapped. -/
def State.blockHolds (s : State) (f proot la draw : Nat) : Bool :=
  match s.panelStage f proot la rightR true 0, s.panelStage f proot (la + 65536) rightR true 0 with
  | .ok _ pa _, .ok _ pb _ =>
    s.rd (hbmBase + pa) 65536 == sealBytes draw 0 && s.rd (hbmBase + pb) 65536 == sealBytes draw 65536 &&
      !s.poison.any fun w => (hbmBase + pa ≤ w && w < hbmBase + pa + 65536) || (hbmBase + pb ≤ w && w < hbmBase + pb + 65536)
  | _, _ => false

/-- A thread whose context leaves its quad: an operation that a unit has taken, and a wait for an inbox entry or a deadline,
go on there later, with what is left of a count; any other wait ended at its home, and its instruction is issued again (R101;
log entry 50). -/
def Thread.saved (th : Thread) (inUnit : Bool) (now : Nat) : Thread :=
  let th : Thread := { th with fbuf := [], ahead := none, latch := none, fly := th.fly.map Flight.again }
  match th.st with
  | .parked .sleep => { th with op := th.op.pause now }
  | .parked .recv => { th with op := th.op.pause now }
  | .parked .engine => if inUnit || th.op.aux = 0x54 || th.present then th else { th with st := .run, op := {} }
  | .parked _ => { th with st := .run, op := {} }
  | _ => th

/-- A unit of a core holds an operation of a thread. -/
def Core.inUnit (k : Core) (t : Nat) : Bool :=
  (k.vq ++ k.vwait ++ k.oqWait ++ k.mq ++ k.mwait ++ k.munit.toList).any (fun o => o.thread == t) ||
    (match k.mop with
    | some m => m.op.thread == t
    | none => false)

/-- What a quad's contexts are saved as. -/
def State.savedOf (s : State) (q : Nat) (seals : List Nat) : Saved :=
  let cs := (List.range 4).map (coreOfQuad q)
  { cores := cs.map s.core
    threads := cs.flatMap fun c => (List.range 16).map fun i =>
      (s.thr (c * 16 + i)).saved ((s.core c).inUnit (c * 16 + i)) s.cycle
    full := (saveParts q).flatMap fun p => s.full.filter fun w => p.1 ≤ w && w < p.1 + 65536 * p.2.2
    seals := seals }

/-- A thread waits with reason ENGINE for the answer to something that has had its effect: an arrival at a barrier, an edit of
its masks, a change of rights. -/
def Thread.answerDue (th : Thread) : Bool :=
  th.st == .parked .engine && (takenMark ≤ th.op.aux || (th.op.insn.isNone && th.op.got != []))

/-- Every request of the quads is answered, and their journals and units have nothing on its way. -/
def State.settled (s : State) (qs : List Nat) : Bool :=
  qs.all fun q => (List.range 4).all fun i =>
    let c := coreOfQuad q i
    let k := s.core c
    !k.journal.any (fun p => p.2.pending) && !k.away && !k.leaving && !k.capturing && k.arrivals.all (·.forward) &&
      k.inbound.isEmpty && k.copies.toList.all (fun x => !x.waiting) &&
      (List.range 16).all fun x =>
        let th := s.thr (c * 16 + x)
        !th.away && !th.answerDue && th.flyHold != .remote

/-- Saves the quads of a function one after the other (R460); none: the area is not mapped and pinned. -/
def State.saveAll (s : State) (f : Nat) : List Nat → Nat → Option State
  | [], _ => some s
  | q :: qs, i =>
    let proot := (s.lse (s.fn f).lease).proot
    let la := (s.fn f).save + 0x480000 * i
    match s.saveQuad f proot la true (saveParts q) with
    | none => none
    | some s =>
      let seals := (List.range 4).map (s.fresh + ·)
      let s := { s with fresh := s.fresh + 4 }
      match (List.range 4).foldl (fun (o : Option State) j =>
          o.bind fun s => s.writeBlock f proot (la + 0x400000 + 0x20000 * j) (seals.getD j 0)) (some s) with
      | none => none
      | some s => { s with saved := smSet {} s.saved (f * 16384 + q) (s.savedOf q seals) }.saveAll f qs (i + 1)

/-- A slot whose context has left; its generation stays (R307). -/
def State.vacateSlot (s : State) (t : Nat) : State :=
  let th := s.thr t
  s.setThr t { gen := th.gen, unanswered := th.unanswered }

/-- A quad's contexts have been saved: it goes to SCRUB (R456, R457, R461). Contexts of collectives and barriers stay with the
function, whose next slice goes on with them (R353; log entry 50). -/
def State.vacateQuad (s : State) (q f : Nat) : State :=
  let cs := (List.range 4).map (coreOfQuad q)
  let s := s.dropImportsOf f
  let s := cs.foldl (fun s c => (List.range 16).foldl (fun s i => s.vacateSlot (c * 16 + i)) s) s
  let s := cs.foldl (fun s c => s.modCore c fun k => { k.scrubbed with ganged := false }) s
  let s := s.modQuad q fun k => { k with hold := .scrub (some f) }
  (s.closeHolding q f).due (.quadScrubEnd q)

/-- Reports the end of an order (R461). -/
def State.reportOrder (s : State) (o : Order) (stop : Nat) : State :=
  { s with orders := s.orders.erase o }.leaseEvent o.lease
    (contextEvent 0xA1 (o.code <<< 60 + stop <<< 56 + o.arg))

/-- Cores of a function run again after GANG. -/
def State.gangFree (s : State) (f : Nat) : State :=
  (s.quadsOf f).foldl (fun s q => (List.range 4).foldl (fun s i =>
    (s.modCore (coreOfQuad q i) fun k => { k with ganged := false }).stirCore (coreOfQuad q i)) s) s

/-- EVICT ends: the contexts are saved and the quads scrubbed, or the save failed (R460, R461). -/
def State.endEvict (s : State) (o : Order) : State :=
  let f := o.arg
  let qs := s.quadsOf f
  if !s.settled qs then s.defer (.migrOrderEnd 2 f)
  else
    match (qs.foldl (fun s q => (List.range 4).foldl (fun s i => (List.range 16).foldl (fun s x =>
      s.leaveHomes (coreOfQuad q i * 16 + x)) s) s) s).saveAll f qs 0 with
    | none => (s.gangFree f).reportOrder o 2
    | some s =>
      let s := (qs.foldl (fun s q => s.vacateQuad q f) s).modFn f fun k => { k with st := .evicted, saved := qs }
      (s.unreserve f []).reportOrder o 0

/-- Puts a saved core and its threads in place; a block whose CRC fails leaves every slot FREE (R460). -/
def State.restoreCore (s : State) (q i : Nat) (v : Saved) (ok : Bool) (f : Nat) : State :=
  let c := coreOfQuad q i
  let k := v.cores.getD i {}
  let s := if ok then s.modCore c fun x => { k with place := x.place, gated := x.gated, cycleOff := x.cycleOff
                                                    inbound := x.inbound, ganged := false, moving := x.moving }
    else (s.modCore c Core.scrubbed).fnEvent f (contextEvent 0xA3 c)
  let s := if !ok then s
    else (List.range 16).foldl (fun s x =>
      let th := v.threads.getD (i * 16 + x) {}
      let old := s.thr (c * 16 + x)
      let s := s.setThr (c * 16 + x) { th with gen := old.gen, unanswered := old.unanswered }
      let s := match th.st with
        | .parked .sleep => (s.modThr (c * 16 + x) fun th => { th with op := th.op.unpause s.cycle }).dueOnce
            (.sleepDeadline (c * 16 + x))
        | .parked .recv => (s.modThr (c * 16 + x) fun th => { th with op := th.op.unpause s.cycle }).dueOnce
            (.recvtDeadline (c * 16 + x))
        | _ => s
      let s := s.offerInterrupt (c * 16 + x)
      let s := if th.op.aux = 0x54 && th.st = .parked .engine then s.dueOnce (.texitDrainDone (c * 16 + x)) else s
      let s := if th.st = .killed then s.dueOnce (.killScrubEnd (c * 16 + x)) else s
      if th.replaying then s.dueOnce (.replayIssue (c * 16 + x)) else s) s
  s.stirCore c

/-- Restores one quad of an evicted function. -/
def State.restoreQuad (s : State) (f q i : Nat) : State :=
  let proot := (s.lse (s.fn f).lease).proot
  let la := (s.fn f).save + 0x480000 * i
  let v := smGet {} s.saved (f * 16384 + q)
  let s := match s.saveQuad f proot la false (saveParts q) with
    | some s => s
    | none => s
  let s := { s with full := v.full.foldl keyAdd s.full, saved := smDrop s.saved (f * 16384 + q) }
  let n := (v.threads.find? fun t => t.st != .free).map (·.launch)
  let l := s.running.find? fun l => l.fn == f && l.quads.contains q
  let s := s.modQuad q fun k =>
    { k with hold := .held f ((l.map (·.number)).getD (n.getD 0)) false, heldSince := s.cycle }
  let s := (List.range 4).foldl (fun s j =>
    s.restoreCore q j v (s.blockHolds f proot (la + 0x400000 + 0x20000 * j) (v.seals.getD j 0)) f) s
  s.dueOnce (.quadGroupComplete q)

/-- RESUME ends once every quad is reserved for the function (R461). -/
def State.endResume (s : State) (o : Order) : State :=
  let f := o.arg
  let qs := (s.fn f).saved
  if !qs.all (fun q => (s.quad q).hold == .reserved f) then s.defer (.migrOrderEnd 3 f)
  else
    let s := (qs.zip (List.range qs.length)).foldl (fun s p => s.restoreQuad f p.1 p.2) s
    (s.modFn f fun k => { k with st := .active, saved := [], resume := [] }).reportOrder o 0

/-- MIGR_ORDER_END (R461). A migration order ends and reports to the lease manager. -/
def execMigrOrderEnd (o a : Nat) (s : State) : Out :=
  eventIf (o < 4)
    (match s.orders.find? (fun x => x.code == o && x.arg == a) with
     | none => s
     | some x => match o with
       | 2 => s.endEvict x
       | 3 => s.endResume x
       | _ => if (s.core a).moving || (s.core a).leaving then s.defer (.migrOrderEnd o a) else s.reportOrder x x.stop)

/-! ## VFCTL (R448, R465) -/

/-- What a control word names: a function, or a lease. -/
def withControl (word : Half) (a : BitVec 5) (sub : Nat) (kf kl : Nat → State → Res) (s : State) : Res :=
  let n := s.gn a
  let lse := bitAt n 23
  if s.level = 1 && (sub != 0 || lse || bitAt n 15) then noRight word 0 s
  else if field n 63 38 != 0 || field n 31 30 != 0 || field n 22 21 != 0 || field n 14 9 != 0 ||
      (s.level < 3 && field n 20 16 != 0) || 7 ≤ field n 29 24 || field n 29 24 != sub then illegal word 2 s
  else if lse then kl (if s.level = 3 then field n 20 16 else s.me.lease) s
  else withFn word (field n 15 0) kf s

/-- FIELD of a control word. -/
def State.fieldNo (s : State) (a : BitVec 5) : Nat := field (s.gn a) 37 32

/-- A field of a function's descriptor (R448). -/
def State.fnField (s : State) (f i : Nat) : Nat :=
  let k := s.fn f
  if k.st = .none then 0
  else match i with
    | 0 => s.fnState f
    | 1 => k.asid
    | 2 => k.lroot
    | 3 => k.scopemax
    | 4 => k.route
    | 5 => k.rights.toNat
    | 6 => k.svct
    | 7 => k.svcm
    | 8 => k.qmax
    | 9 => k.tmpl.toNat
    | 10 => k.save
    | _ => k.gang.toNat

/-- A field of a lease's descriptor (R448). -/
def State.lseField (s : State) (l i : Nat) : Nat :=
  let k := s.lse l
  match i with
  | 0 => bit k.live
  | 1 => k.proot
  | 2 => k.mgmt
  | 3 => k.ltvec.toNat
  | 4 => k.rights.toNat
  | 5 => k.qmax
  | 6 => bit k.mode
  | _ => k.mgrfn

/-- READ FIELD. -/
def readBody (word : Half) (a b d : BitVec 5) (s : State) : Res :=
  withControl word a 0
    (fun f s => if 12 ≤ s.fieldNo a || s.g b != 0 then illegal word 2 s
                else atService (fun s => .done (s.setGn d (s.fnField f (s.fieldNo a)))) s)
    (fun l s => if 8 ≤ s.fieldNo a || s.g b != 0 then illegal word 2 s
                else atService (fun s => .done (s.setGn d (s.lseField l (s.fieldNo a)))) s) s

/-- Trap codes that R106 lists and a route may name (R451). -/
def routedCodes : List Nat := [1, 2, 3, 4, 5, 8, 9, 0x0A, 0x0B, 0x0C, 0x0D, 0x10, 0x11, 0x12, 0x13, 0x14]

/-- A ROUTE value is allowed at a level (R451). -/
def routeOk (lv v : Nat) : Bool :=
  v < 2 ^ 42 && (List.range 21).all fun c =>
    let r := (v >>> (2 * c)) % 4
    if routedCodes.contains c then 3 ≤ lv || r != 3 else r == 0

/-- The right that a write of a function field needs. -/
def fieldRight (i : Nat) : Option Nat :=
  match i with
  | 2 => some 3
  | 4 => some 7
  | 6 => some 5
  | 8 => some 5
  | _ => none

/-- A value lies in the range of a function field. -/
def fieldOk (lv i v : Nat) : Bool :=
  match i with
  | 2 => v < 2 ^ 48 && v % 2 ^ 21 == 0
  | 3 => v < 32
  | 4 => routeOk lv v
  | 6 => v < 2 ^ 32
  | 8 => 1 ≤ v && v ≤ 14400
  | 10 => v < 2 ^ 48 && v % 65536 == 0
  | 11 => field v 62 20 == 0 && field v 19 0 ≤ 1000000
  | _ => true

/-- Stores a function field. -/
def Func.setField (k : Func) (i v : Nat) : Func :=
  match i with
  | 2 => { k with lroot := v }
  | 3 => { k with scopemax := if v % 8 < 2 then v / 8 * 8 + 2 else v }
  | 4 => { k with route := v }
  | 6 => { k with svct := v }
  | 8 => { k with qmax := v }
  | 10 => { k with save := v }
  | 11 => { k with gang := BitVec.ofNat 64 (if field v 19 0 = 0 then v + 200 else v) }
  | _ => k

/-- The template block is allowed (R453). -/
def tmplOk (bs : List Byte) : Bool := byteAt bs 216 < 2 && ((bs.drop 217).all (· == 0))

/-- Takes a template (R413, R441, R453): its copy, the relay policy and UNL. -/
def Func.setTmpl (k : Func) (v : Word) (bs : List Byte) : Func :=
  { k with tmpl := v, tmplCopy := bs, opol := BitVec.ofNat 64 (dword bs 25), unl := (bs.getD 216 0).getLsbD 0 }

/-- WRITE FIELD of a function. -/
def writeFn (word : Half) (a b d : BitVec 5) (f : Nat) (s : State) : Res :=
  let i := s.fieldNo a
  let v := s.g b
  let old := s.fnField f i
  if 12 ≤ i then illegal word 2 s
  else if i = 0 || i = 1 || i = 5 || i = 7 then noRight word 0 s
  else if !(match fieldRight i with
      | some r => s.allowed r
      | none => true) then noRight word 1 s
  else if !s.exists? f then illegal word 3 s
  else if !fieldOk s.level i v.toNat then illegal word 2 s
  else if i = 9 then
    let fin (bs : List Byte) (s : State) : Res :=
      if !tmplOk bs then illegal word 2 s
      else .done (((s.modFn f fun k => k.setTmpl v bs).settleQuota f).setGn d old)
    if v.toNat % 64 != 0 then raise cMisalign v 0 s
    else match s.me.op.reply with
    | .none => atService (serviceRead v 256 64 fin) s
    | _ => serviceRead v 256 64 fin s
  else atService (fun s =>
    let s := (s.modFn f fun k => k.setField i v.toNat).setGn d old
    .done (if i = 6 || i = 8 then s.dueOnce .placementPass else s)) s

/-- Moves the events that a lease holds to the manager it names now (R481). -/
def State.moveLeaseQueue (s : State) (l : Nat) : State :=
  let m := (s.lse l).mgrfn
  if s.exists? m && (s.fn m).lease == l then
    let es := (s.lse l).queue
    (s.modLse l fun k => { k with queue := [] }).deliverAll m es
  else s

/-- Stores a lease field. -/
def Lease.setField (k : Lease) (i : Nat) (v : Word) : Lease :=
  match i with
  | 1 => { k with proot := v.toNat }
  | 2 => { k with mgmt := v.toNat }
  | 3 => { k with ltvec := v }
  | 5 => { k with qmax := v.toNat }
  | 6 => { k with mode := v == 1 }
  | _ => { k with mgrfn := v.toNat }

/-- A value lies in the range of a lease field; MGRFN names no function of another lease (R481). -/
def State.lseOk (s : State) (l i v : Nat) : Bool :=
  match i with
  | 1 => v < 2 ^ 42
  | 2 => v < 2 ^ 48
  | 5 => v ≤ 14400
  | 6 => v < 2
  | 7 => v < 512 && !(s.exists? v && (s.fn v).lease != l)
  | _ => true

/-- WRITE FIELD of a lease. -/
def writeLse (word : Half) (a b d : BitVec 5) (l : Nat) (s : State) : Res :=
  let i := s.fieldNo a
  let v := s.g b
  if 8 ≤ i then illegal word 2 s
  else if i = 0 || i = 4 || ((i = 1 || i = 5) && s.level < 3) then noRight word 0 s
  else if !s.lseOk l i v.toNat then illegal word 2 s
  else atService (fun s =>
    let old := s.lseField l i
    let s := (s.modLse l fun k => k.setField i v).setGn d old
    .done (if i = 7 then s.moveLeaseQueue l else if i = 5 then s.dueOnce .placementPass else s)) s

/-- Inserts an ASID among the free ones. -/
def State.freeAsid (s : State) (n : Nat) : State := { s with freeAsids := keyAdd s.freeAsids n }

/-- CREATE. -/
def createAct (d : BitVec 5) (l f : Nat) (s : State) : Res :=
  match s.freeAsids with
  | [] => .done (s.setG d 0)
  | n :: rest =>
    if s.exists? f || !(s.lse l).live then .done (s.setG d 0)
    else .done (({ s with freeAsids := rest }.modFn f fun _ =>
      { st := .idle, lease := l, asid := n, qmax := (s.lse l).qmax }).setG d 1)

/-- Drops translations of an ASID at every port, those of the optical edge dies among them (R159, R163). -/
def State.invalidate (s : State) (asid : Nat) (page : Option Nat) : State :=
  let kept (l : List TlbEntry) := l.filter fun e => e.asid != asid || !(page == none || page == some e.page)
  { s with quads := s.quads.map fun p => (p.1, { p.2 with tlb := kept p.2.tlb })
           odies := s.odies.map fun p => (p.1, { p.2 with tlb := kept p.2.tlb }) }

/-- DESTROY. What gd receives for a function that does not exist is not stated. -/
def destroyAct (d : BitVec 5) (f : Nat) (s : State) : Res :=
  if !s.exists? f then
    let (v, s) := s.unstated
    .done (s.setGn d v)
  else if s.claimed f != [] || (s.fn f).st == .evicted then .done (s.setG d 0)
  else
    let k := s.fn f
    let s := (k.queues.toList.flatMap id).foldl (fun s l => s.refuseLaunch l 6) s
    let s := (s.invalidate k.asid none).freeAsid k.asid
    .done ((s.modFn f fun _ => {}).setG d 1)

/-- An ASID of a function of the thread's lease; any at level P. -/
def State.ownAsid (s : State) (n : Nat) : Bool :=
  s.level = 3 || s.funcs.any fun p => p.2.st != .none && p.2.lease == s.me.lease && p.2.asid == n

/-- INVAL. -/
def invalBody (word : Half) (b d : BitVec 5) (s : State) : Res :=
  let v := s.gn b
  if !s.allowed 3 then noRight word 1 s
  else if field v 63 48 != 0 || field v 15 11 != 0 || !s.ownAsid (field v 9 0) then illegal word 2 s
  else withScope (scopeWord 6) (fun x s => afterRelease (fun s =>
    .done (((s.invalidate (field v 9 0) (if bitAt v 10 then none else some (field v 47 16))).setG d 1).noteClamp s.cur x))
      s) s

/-- The answer to a miss reaches a waiter: it issues again, or issues again to find its page refused (R160). -/
def State.answerPage (s : State) (refused : Bool) (w : PageWaiter) : State :=
  if w.replay then
    (s.modThr w.thread fun th => th.modFly fun x => match x.hold with
      | .page => { x with hold := .none, op := { x.op with refused := refused } }
      | _ => x).dueOnce (.replayIssue w.thread)
  else s.modThr w.thread fun th => match th.st with
    | .parked .page => { th with st := .run, op := { refused := refused, fetch := refused && th.op.fetch } }
    | _ => th

/-- WAKE and REFUSE. -/
def answerBody (refused : Bool) (word : Half) (b d : BitVec 5) (s : State) : Res :=
  let v := s.gn b
  if !s.allowed 3 then noRight word 1 s
  else if field v 15 11 != 0 || 14400 ≤ field v 63 50 || !s.ownAsid (field v 9 0) then illegal word 2 s
  else withScope (scopeWord 6) (fun x s => afterRelease (fun s =>
    let q := field v 63 50
    let mine (w : PageWaiter) : Bool := w.asid == field v 9 0 && w.page == field v 47 16
    let ws := (s.quad q).pages.filter mine
    let s := s.modQuad q fun k => { k with pages := k.pages.filter fun w => !mine w }
    .done (((ws.foldl (fun s w => s.answerPage refused w) s).setG d 1).noteClamp s.cur x)) s) s

/-- VFCTL_READ_FIELD (R465). Reads a function or lease descriptor field. -/
def execVfctlReadField (a : BitVec 5) (b : BitVec 5) (d : BitVec 5) (s : State) : Out :=
  run { word := 45#6 ++ a ++ b ++ d ++ 0#5 ++ 2#6, level := 1, srcs := [a.toNat, b.toNat], dsts := [d.toNat] }
    (readBody (45#6 ++ a ++ b ++ d ++ 0#5 ++ 2#6) a b d) s

/-- VFCTL_WRITE_FIELD (R465). Writes a descriptor field and returns its old value. -/
def execVfctlWriteField (a : BitVec 5) (b : BitVec 5) (d : BitVec 5) (s : State) : Out :=
  run { word := 45#6 ++ a ++ b ++ d ++ 0#5 ++ 2#6, level := 1, srcs := [a.toNat, b.toNat], dsts := [d.toNat] }
    (withControl (45#6 ++ a ++ b ++ d ++ 0#5 ++ 2#6) a 1
    (writeFn (45#6 ++ a ++ b ++ d ++ 0#5 ++ 2#6) a b d) (writeLse (45#6 ++ a ++ b ++ d ++ 0#5 ++ 2#6) a b d)) s

/-- A control word that must name a function and no field, with gb zero. -/
def onlyFn (word : Half) (a b : BitVec 5) (sub : Nat) (k : Nat → State → Res) (s : State) : Res :=
  withControl word a sub
    (fun f s => if s.fieldNo a != 0 || s.g b != 0 then illegal word 2 s else if !s.allowed 1 then noRight word 1 s
                else atService (k f) s)
    (fun _ s => illegal word 2 s) s

/-- VFCTL_CREATE (R465). Creates a function in the lease. -/
def execVfctlCreate (a : BitVec 5) (b : BitVec 5) (d : BitVec 5) (s : State) : Out :=
  run { word := 45#6 ++ a ++ b ++ d ++ 0#5 ++ 2#6, level := 1, srcs := [a.toNat, b.toNat], dsts := [d.toNat] }
    (onlyFn (45#6 ++ a ++ b ++ d ++ 0#5 ++ 2#6) a b 2
    (fun f s => createAct d (if s.level = 3 then field (s.gn a) 20 16 else s.me.lease) f s)) s

/-- VFCTL_DESTROY (R465). Destroys a function, withdrawing its records and its ASID. -/
def execVfctlDestroy (a : BitVec 5) (b : BitVec 5) (d : BitVec 5) (s : State) : Out :=
  run { word := 45#6 ++ a ++ b ++ d ++ 0#5 ++ 2#6, level := 1, srcs := [a.toNat, b.toNat], dsts := [d.toNat] }
    (onlyFn (45#6 ++ a ++ b ++ d ++ 0#5 ++ 2#6) a b 3 (destroyAct d)) s

/-- VFCTL_INVAL (R465). Invalidates translations at every port. -/
def execVfctlInval (a : BitVec 5) (b : BitVec 5) (d : BitVec 5) (s : State) : Out :=
  run { word := 45#6 ++ a ++ b ++ d ++ 0#5 ++ 2#6, level := 1, srcs := [a.toNat, b.toNat], dsts := [d.toNat] }
    (withControl (45#6 ++ a ++ b ++ d ++ 0#5 ++ 2#6) a 4
    (fun _ => invalBody (45#6 ++ a ++ b ++ d ++ 0#5 ++ 2#6) b d)
    (fun _ => invalBody (45#6 ++ a ++ b ++ d ++ 0#5 ++ 2#6) b d)) s

/-- VFCTL_WAKE (R465). Wakes the waiters of a page miss. -/
def execVfctlWake (a : BitVec 5) (b : BitVec 5) (d : BitVec 5) (s : State) : Out :=
  run { word := 45#6 ++ a ++ b ++ d ++ 0#5 ++ 2#6, level := 1, srcs := [a.toNat, b.toNat], dsts := [d.toNat] }
    (withControl (45#6 ++ a ++ b ++ d ++ 0#5 ++ 2#6) a 5
    (fun _ => answerBody false (45#6 ++ a ++ b ++ d ++ 0#5 ++ 2#6) b d)
    (fun _ => answerBody false (45#6 ++ a ++ b ++ d ++ 0#5 ++ 2#6) b d)) s

/-- VFCTL_REFUSE (R465). Refuses the waiters of a page miss. -/
def execVfctlRefuse (a : BitVec 5) (b : BitVec 5) (d : BitVec 5) (s : State) : Out :=
  run { word := 45#6 ++ a ++ b ++ d ++ 0#5 ++ 2#6, level := 1, srcs := [a.toNat, b.toNat], dsts := [d.toNat] }
    (withControl (45#6 ++ a ++ b ++ d ++ 0#5 ++ 2#6) a 6
    (fun _ => answerBody true (45#6 ++ a ++ b ++ d ++ 0#5 ++ 2#6) b d)
    (fun _ => answerBody true (45#6 ++ a ++ b ++ d ++ 0#5 ++ 2#6) b d)) s

/-! ## RIGHTS (R466, R467) -/

/-- The mask named, by key: a function, or 1000 + a lease. -/
def State.rightsMask (s : State) (key : Nat) : BitVec 8 :=
  if key < 1000 then (s.fn key).rights else (s.lse (key - 1000)).rights

/-- Sets a mask. -/
def State.setRights (s : State) (key : Nat) (m : BitVec 8) : State :=
  if key < 1000 then s.modFn key fun k => { k with rights := m } else s.modLse (key - 1000) fun k => { k with rights := m }

/-- The checks of RIGHTS, and the key of the mask (R466). -/
def withMask (word : Half) (a b : BitVec 5) (write : Bool) (k : Nat → State → Res) (s : State) : Res :=
  let n := s.gn a
  let lse := bitAt n 23
  if s.level = 1 && (write || lse || bitAt n 15) then noRight word 0 s
  else if s.level = 2 && write && lse then noRight word 0 s
  else if field n 63 24 != 0 || field n 22 21 != 0 || field n 14 9 != 0 || (s.level < 3 && field n 20 16 != 0) ||
      field (s.gn b) 63 8 != 0 then illegal word 2 s
  else if lse then k (1000 + (if s.level = 3 then field n 20 16 else s.me.lease)) s
  else withFn word (field n 15 0) (fun f s => if write && !s.exists? f then illegal word 3 s else k f s) s

/-- Every quad whose copy is not updated at once keeps the old mask until the change has spread (R467). -/
def State.keepOld (s : State) (key : Nat) (old : BitVec 8) : List Nat → State
  | [] => s
  | q :: qs =>
    let (late, s) := s.flip
    (if late then s.modQuad q fun k => { k with rights := smPut (smDrop k.rights key) key old } else s).keepOld key old qs

/-- A grant or revoke: the mask changes, and the thread waits until every quad holds it. -/
def rightsChange (d : BitVec 5) (key : Nat) (new : BitVec 8) (s : State) : Res :=
  match s.me.op.reply with
  | .data bs => .done (s.setGn d (ofBytes bs))
  | _ =>
    let old := s.rightsMask key
    let s := ((s.setRights key new).keepOld key old (s.quads.map (·.1))).dueOnce .placementPass
    .keep ((s.park s.cur .engine { got := toBytes 8 old.toNat }).due (.rightsPropagated s.cur))

/-- RIGHTS_READ (R466). Reads a rights mask. -/
def execRightsRead (a : BitVec 5) (b : BitVec 5) (d : BitVec 5) (s : State) : Out :=
  run { word := 45#6 ++ a ++ b ++ d ++ 0#5 ++ 3#6, level := 1, srcs := [a.toNat, b.toNat], dsts := [d.toNat] }
    (withMask (45#6 ++ a ++ b ++ d ++ 0#5 ++ 3#6) a b false
    (fun key => atService fun s => .done (s.setGn d (s.rightsMask key).toNat))) s

/-- RIGHTS_GRANT (R466). Grants bits of a rights mask. -/
def execRightsGrant (a : BitVec 5) (b : BitVec 5) (d : BitVec 5) (s : State) : Out :=
  run { word := 45#6 ++ a ++ b ++ d ++ 1#5 ++ 3#6, level := 1, srcs := [a.toNat, b.toNat], dsts := [d.toNat] }
    (withMask (45#6 ++ a ++ b ++ d ++ 1#5 ++ 3#6) a b true (fun key s =>
      let m := (s.g b).setWidth 8
      if s.level < 3 && m &&& (s.lse s.me.lease).rights != m then illegal (45#6 ++ a ++ b ++ d ++ 1#5 ++ 3#6) 2 s
      else rightsChange d key (s.rightsMask key ||| m) s)) s

/-- RIGHTS_REVOKE (R466). Revokes bits of a rights mask. -/
def execRightsRevoke (a : BitVec 5) (b : BitVec 5) (d : BitVec 5) (s : State) : Out :=
  run { word := 45#6 ++ a ++ b ++ d ++ 2#5 ++ 3#6, level := 1, srcs := [a.toNat, b.toNat], dsts := [d.toNat] }
    (withMask (45#6 ++ a ++ b ++ d ++ 2#5 ++ 3#6) a b true (fun key s =>
      rightsChange d key (s.rightsMask key &&& ~~~((s.g b).setWidth 8)) s)) s

/-- RIGHTS_PROPAGATED (R467). Every quad's copy of a changed rights mask is updated. -/
def execRightsPropagated (t : Nat) (s : State) : Out :=
  eventIf (validThread t)
    (
     let s : State := { s with quads := s.quads.map fun p => (p.1, { p.2 with rights := [] }) }
     match (s.thr t).st with
     | .parked .engine => s.answerOp t false (.data (s.thr t).op.got)
     | _ => s)

/-! ## Which row a shared word is (R464, R465) -/

/-- The value a source register will have for the word about to execute: the next element of the context bound to it, or
its own contents (R269, R270). -/
def State.operandNow (s : State) (r : BitVec 5) : Word :=
  match s.boundG s.cur r.toNat with
  | none => s.g r
  | some x =>
    let k := (s.core s.here).ctx x
    match s.popElem s.cur x k.pos false with
    | .val bs => k.desc.extend bs
    | _ => s.g r

/-- Words of MIGR and VFCTL are told apart by an operand. -/
noncomputable def selectRow (i : Instr) (s : State) : Instr :=
  match i with
  | .migrMove a b d => match field (s.operandNow a).toNat 1 0 with
    | 0 => .migrMove a b d
    | 1 => .migrHome a b d
    | 2 => .migrEvict a b d
    | _ => .migrResume a b d
  | .vfctlReadField a b d => match field (s.operandNow a).toNat 29 24 with
    | 1 => .vfctlWriteField a b d
    | 2 => .vfctlCreate a b d
    | 3 => .vfctlDestroy a b d
    | 4 => .vfctlInval a b d
    | 5 => .vfctlWake a b d
    | 6 => .vfctlRefuse a b d
    | _ => .vfctlReadField a b d
  | i => i

/-! ## Gang slices (R438, R439, R461) -/

/-- Gangs in force on quads that a gang's save area names. -/
def State.rivals (s : State) (f : Nat) : List Nat :=
  (s.funcs.filter fun p => p.1 != f && p.2.isGang && p.2.st != .evicted && p.2.st != .none &&
    (s.quadsOf p.1).any fun q => (s.fn f).saved.contains q).map (·.1)

/-- A slice of a gang starts at its boundary: contexts in the way leave, its own context comes back, its gate is to be
opened within the tolerance. -/
def State.beginSlice (s : State) (f g : Nat) : State :=
  let l := (s.fn f).lease
  let s := (s.rivals f).foldl (fun s h =>
    let s := if s.busyOrder false h then s else s.startEvict h l
    s.modFn h fun k => { k with gateOpen := false }) s
  let s := if (s.fn f).st = .evicted && !s.busyOrder false f then s.startResume f l else s
  let s := s.modFn f fun k => { k with slice := (k.slice + 1) % 65536, sliceG := g, notices := [], gateOpen := false
                                       gateLate := false }
  (s.dueOnce (.gateOpen f)).dueOnce (.gangSliceAbort f)

end Sys2Proof.Machine
end

