-- ==== Sys2Proof/Machine/Host.lean ====
section
/-! DEFINITION. Management space and launch windows, the Kwardo link at the panel's end, firmware and quotes, bring-up
(R327, R430, R468 to R478). -/

namespace Sys2Proof.Machine

/-! ## Management space (R473 to R475) -/

/-- LINKSTAT (R475). -/
def Link.stat (l : Link) : Nat :=
  min 65535 l.replays + bit l.retraining <<< 16 + bit l.failed <<< 17 + (min 65535 l.corrected) <<< 32 +
    (min 65535 l.uncorrectable) <<< 48

/-- A word of the panel management window that software may read (R475); while a quote is formed QUOTE reads zero
(R478). -/
def State.mgmtWord (s : State) (o : Nat) : Option Nat :=
  if o = 0 then some s.link.stat
  else if o = 8 then some s.service.ptvec.toNat
  else if o = 0x10 then some s.cnstat
  else if o = 0x18 then some (s.service.bootStep + s.service.bootFail <<< 4)
  else if 0x200 ≤ o && o < 0x380 then
    some (if s.service.quoting then 0 else ofBytes ((s.service.quote.drop (o - 0x200)).take 8))
  else if 0x1000 ≤ o && o < 0x3000 && o % 0x100 < 0x40 then some (s.lseField ((o - 0x1000) / 0x100) (o % 0x100 / 8))
  else none

/-- A word of device space that software may read: the management window, or the status of a launch window (R474). -/
def State.deviceWord (s : State) (a : Nat) : Option Nat :=
  match field a 61 60 with
  | 0 => s.mgmtWord (field a 59 0)
  | 2 => if field a 43 0 = 0x40 && field a 59 55 = 0 then
      some (smGet 0 s.service.launchStatus (field a 54 46 * 4 + field a 45 44)).toNat else none
  | _ => none

/-- Bytes of device space by words; where the spec gives a word no readable content its value is free (log entry 3). -/
def State.deviceBytes (s : State) (a : Nat) : Nat → State × List Byte
  | 0 => (s, [])
  | n + 1 =>
    let (s, v) := match s.deviceWord a with
      | some v => (s, v)
      | none => let (v, s) := s.unstated; (s, v)
    let (s, bs) := s.deviceBytes (a + 8) n
    (s, toBytes 8 v ++ bs)

/-- Reads `n` bytes of device space. -/
def State.deviceRead (s : State) (a n : Nat) : State × List Byte :=
  let (s, bs) := s.deviceBytes (a / 8 * 8) ((a % 8 + n + 7) / 8)
  (s, (bs.drop (a % 8)).take n)

/-- A record enters through a launch window (R474): the window's priority is the queue's. The status word keeps what
became of it. -/
def State.windowLaunch (s : State) (f p : Nat) (bs : List Byte) : State :=
  let (s, r) :=
    if bs.length != 64 || !s.exists? f then (s, .error 1)
    else if !s.fnRight f 0 then (s, .error 5)
    else s.enterLaunch f (bs.set 13 (BitVec.ofNat 8 (byteAt bs 13 / 4 * 4 + p)))
  { s with service := { s.service with
    launchStatus := smSet 0 s.service.launchStatus (f * 4 + p) (BitVec.ofNat 64 (launchWord r)) } }

/-- Bytes of the nonce from place `i`; the last one starts a quote; ignored while one is formed (R475, R478). -/
def State.nonceWrite (s : State) (i : Nat) (bs : List Byte) : State :=
  if s.service.quoting then s
  else
    let bs := bs.take (48 - i)
    let s := { s with service := { s.service with nonce := (s.service.nonce.take i ++ bs ++ s.service.nonce.drop (i + bs.length)) } }
    if i < 48 && 48 ≤ i + bs.length then { s with service := { s.service with quoting := true } }.dueOnce .quoteComplete
    else s

/-- A firmware image in HBM: its length and the place of its version are not given (R477). -/
def State.imageAt (s : State) (a : Word) : List Byte × Nat :=
  (s.rd (hbmBase + field a.toNat 47 0) (Config.unstated s.fresh), Config.unstated (s.fresh + 1) % 2 ^ 32)

/-- FWLOAD (R477): an image that verifies and is no older than the fuses is staged for the next power-up and raises the
fused version; any other sets the failure code. -/
def State.fwLoad (s : State) (a : Word) : State :=
  let (im, v) := s.imageAt a
  let code := Config.unstated (s.fresh + 2) % 256
  let s := { s with fresh := s.fresh + 3 }
  if Config.verifies im && s.service.fused ≤ v then
    { s with service := { s.service with staged := some (im, v), fused := v } }
  else { s with service := { s.service with bootFail := code } }

/-- A management field with no behaviour of its own is written whole (R475): PTVEC and the lease fields; other offsets
take no write. A lease field keeps its value when the new one is out of its range. -/
def State.mgmtField (s : State) (o : Nat) (w : Word) : State :=
  if o = 8 then { s with service := { s.service with ptvec := w } }
  else if 0x1000 ≤ o && o < 0x3000 && o % 0x100 < 0x40 && o % 8 = 0 then
    let l := (o - 0x1000) / 0x100
    match o % 0x100 / 8 with
    | 0 => s.modLse l fun k => { k with live := w.getLsbD 0 }
    | 4 => (s.setRights (1000 + l) (w.setWidth 8)).dueOnce .placementPass
    | i =>
      if !s.lseOk l i w.toNat then s
      else
        let s := s.modLse l fun k => k.setField i w
        if i = 7 then s.moveLeaseQueue l else if i = 5 then s.dueOnce .placementPass else s
  else s

/-- Writes the part of an 8-byte field that `bs` from address `a` covers; the rest of the field keeps its bytes. -/
def State.mgmtPart (s : State) (o a : Nat) (bs : List Byte) : State :=
  let old := toBytes 8 ((s.mgmtWord o).getD 0)
  let new := (List.range 8).map fun i => if a ≤ o + i then (bs[o + i - a]?).getD (old.getD i 0) else old.getD i 0
  let w : Word := BitVec.ofNat 64 (ofBytes new)
  if o = 0x800 then s.fwLoad w else s.mgmtField o w

/-- A store to the panel management window: the nonce by bytes, every other field by words in ascending order. -/
def State.mgmtWrite (s : State) (o : Nat) (bs : List Byte) : State :=
  let s := (wordsOf o bs.length).foldl (fun s w => if 0x100 ≤ w && w < 0x130 then s else s.mgmtPart w o bs) s
  if o < 0x130 && 0x100 < o + bs.length then
    s.nonceWrite (max o 0x100 - 0x100) (bs.drop (max o 0x100 - o))
  else s

/-- A store to device space. -/
def State.deviceWrite (s : State) (a : Nat) (bs : List Byte) : State :=
  match field a 61 60 with
  | 0 => s.mgmtWrite (field a 59 0) bs
  | 2 => if field a 59 55 = 0 && field a 43 0 = 0 then s.windowLaunch (field a 54 46) (field a 45 44) bs
         else s.windowLaunch (field a 54 46) (field a 45 44) []
  | _ => s

/-! ## The host's accesses (R15, R472) -/

/-- A host write: device space, or HBM as a relaxed store at level P. A narrow write into a poisoned word is refused and
does nothing; other spaces take none. -/
def State.hostWrite (s : State) (a : Word) (bs : List Byte) : State :=
  match s.locate a with
  | some (.device, x) => s.deviceWrite x bs
  | some (.hbm, x) =>
    ((s.storeAt (hbmBase + x) bs).map fun s => s.watchHit (hbmBase + x) bs.length).getD s
  | _ => s

/-- A host read. -/
def State.hostRead (s : State) (a : Word) (n : Nat) : State × List Byte :=
  match s.locate a with
  | some (.device, x) => s.deviceRead x n
  | some (.hbm, x) => (s, s.rd (hbmBase + x) n)
  | _ => (s, List.replicate n 0)

/-! ## Flits (R468, R469) -/

/-- The ACK field: the highest SEQ received in order, 0 at first. -/
def Link.ackField (l : Link) : Nat := if l.rxSeq = 0 then 0 else (l.rxSeq - 1) % 65536

/-- A flit of the panel. -/
def Link.flit (l : Link) (type len : Nat) (a : Word) (payload : List Byte) : List Byte :=
  let body := toBytes 2 (l.txSeq % 65536) ++ toBytes 2 l.ackField ++ [BitVec.ofNat 8 type, BitVec.ofNat 8 len, 0, 0] ++
    toBytes 8 a.toNat ++ payload ++ List.replicate (236 - payload.length) 0
  body ++ toBytes 4 (crc32 body).toNat

/-- Sends a flit: it stands in the replay buffer until it is acknowledged, and leaves now when the link is ACTIVE. -/
def Link.send (l : Link) (type len : Nat) (a : Word) (payload : List Byte) : Link :=
  let f := l.flit type len a payload
  { l with txSeq := l.txSeq + 1, buf := l.buf ++ [f]
           out := if l.st = .active then l.out ++ [rsEncode f] else l.out }

/-- Replays what is not acknowledged. -/
def Link.replay (l : Link) : Link := { l with out := l.out ++ l.buf.map rsEncode }

/-- An acknowledgement: every flit up to the named SEQ leaves the replay buffer. ACK is 0 before anything has been
received, so it never frees the very first flit by itself. -/
def Link.acknowledge (l : Link) (a : Nat) : Link :=
  let n := (a + 65537 - l.acked % 65536) % 65536
  if n = 0 || l.buf.length < n || (l.acked = 0 && a = 0) then l
  else { l with acked := l.acked + n, buf := l.buf.drop n, replaysOfOne := 0 }

/-- The link leaves a state for TRAIN. -/
def State.toTrain (s : State) : State :=
  let l : Link := { s.link with st := .train, stateSince := s.cycle
                                retraining := s.link.retraining || s.link.st == .active
                                since := if s.link.st = .active || s.link.st = .reset then s.cycle else s.link.since
                                recent := [], replaysOfOne := 0 }
  let s : State := { s with link := l }
  (s.dueOnce .linkStateTimeout).dueOnce .linkFailed

/-- The first flit that is discarded is answered by a NAK (R469). -/
def State.linkDiscard (s : State) : State :=
  if s.link.nakSent || 512 ≤ s.link.buf.length then s
  else { s with link := { s.link.send 4 0 0 [] with nakSent := true } }

/-- A NAK: every flit after the SEQ it names is replayed; after 16 replays of one flit in a row the link retrains. -/
def State.linkNak (s : State) : State :=
  if s.link.buf = [] then s
  else
    let l := { s.link.replay with replays := min 65535 (s.link.replays + 1), replaysOfOne := s.link.replaysOfOne + 1 }
    let s := { s with link := l }
    if 16 ≤ l.replaysOfOne then s.toTrain else s

/-- Read requests are answered in order while the replay buffer has room. -/
def State.answerReads (s : State) : Nat → State
  | 0 => s
  | n + 1 =>
    match s.link.reads with
    | [] => s
    | (a, len) :: rest =>
      if 512 ≤ s.link.buf.length then s
      else
        let s := { s with link := { s.link with reads := rest } }
        let (s, bs) := s.hostRead (BitVec.ofNat 64 a) len
        { s with link := s.link.send 3 len (BitVec.ofNat 64 a) bs }.answerReads n

/-- A flit that is accepted: what it says is performed in SEQ order (R472). -/
def State.linkAccept (s : State) (f : List Byte) : State :=
  let len := byteAt f 5
  let a := natAt f 8 8
  let payload := (f.drop 16).take len
  let s := { s with link := { s.link.acknowledge (natAt f 2 2) with rxSeq := s.link.rxSeq + 1, nakSent := false } }
  let s := match byteAt f 4 with
    | 1 => s.hostWrite (BitVec.ofNat 64 a) payload
    | 2 => { s with link := { s.link with reads := s.link.reads ++ [(a, len)] } }
    | 4 => s.linkNak
    | _ => s
  s.answerReads 512

/-- A flit is discarded for what it carries (R469). -/
def Link.refuses (l : Link) (f : List Byte) : Bool :=
  let type := byteAt f 4
  let len := byteAt f 5
  !crcOk f || 4 < type || ((type = 1 || type = 2 || type = 3) && (len = 0 || 236 < len)) ||
    natAt f 0 2 != l.rxSeq % 65536

/-- A codeword arrives (R468 to R471). -/
def State.linkReceive (s : State) (cw : List Byte) : State :=
  if s.link.st != .active then s
  else match rsCorrect cw with
    | none =>
      let recent := s.cycle :: s.link.recent.filter fun x => s.cycle < x + 1500000
      let s := { s with link := { s.link with uncorrectable := min 65535 (s.link.uncorrectable + 1), recent := recent } }
      if 32 ≤ recent.length then s.toTrain else s.linkDiscard
    | some (c, n) =>
      let s := { s with link := { s.link with corrected := min 65535 (s.link.corrected + (if n = 0 then 0 else 1)) } }
      if s.link.refuses (c.take 256) then s.linkDiscard else s.linkAccept (c.take 256)

/-- LAUNCH_WINDOW_WRITE (R474). A host write of 64 bytes enters a launch record. -/
def execLaunchWindowWrite (f p : Nat) (bs : List Byte) (s : State) : Out :=
  eventIf (f < 512 && p < 4)
    (s.windowLaunch f p bs)

/-- NONCE_WRITE (R478). Writing the last nonce byte starts a quote. -/
def execNonceWrite (i : Nat) (bs : List Byte) (s : State) : Out :=
  eventIf (i < 48)
    (s.nonceWrite i bs)

/-- A quote (R478): nonce, digests of the image, of the remap table and of PANELCAP with NETCAP, the fused version, the
signature; the digests and the signature are free (log entry 9). -/
def State.quoteBytes (s : State) : List Byte :=
  let cut (n k : Nat) (bs : List Byte) : List Byte :=
    let d := Config.digest (s.fresh + k) bs
    d.take n ++ List.replicate (n - (d.take n).length) 0
  let head := s.service.nonce ++ cut 48 0 s.service.firmware ++
    cut 48 1 (s.cores.flatMap fun p => if p.2.place.exception then
      toBytes 2 p.1 ++ toBytes 2 p.2.place.site ++ toBytes 1 p.2.place.index else []) ++
    cut 48 2 (toBytes 8 s.panelCap.toNat ++ toBytes 8 s.netCap.toNat) ++ toBytes 4 s.service.fused
  let all := head ++ cut 96 3 head
  all ++ List.replicate (384 - all.length) 0

/-- QUOTE_COMPLETE (R478). A signed attestation quote is formed. -/
def execQuoteComplete (s : State) : Out :=
  .next
    (if !s.service.quoting then s
   else { s with service := { s.service with quote := s.quoteBytes, quoting := false }, fresh := s.fresh + 4 })

/-- FWLOAD (R477). A firmware image is verified and staged for the next power-up. -/
def execFwload (a : Word) (s : State) : Out :=
  .next
    (s.fwLoad a)

/-- MGMT_FIELD_WRITE (R475). A host write to a management field with no behaviour of its own. -/
def execMgmtFieldWrite (a : Nat) (w : Word) (s : State) : Out :=
  .next
    (s.mgmtField a w)

/-- LINK_WRITE (R472). A write flit is performed in SEQ order. -/
def execLinkWrite (bs : List Byte) (s : State) : Out :=
  .next
    (s.linkReceive bs)

/-- LINK_READ_REQUEST (R472). A read request flit is answered by a read reply. -/
def execLinkReadRequest (bs : List Byte) (s : State) : Out :=
  .next
    (s.linkReceive bs)

/-- LINK_READ_REPLY (R468). A read reply flit arrives from the other end. -/
def execLinkReadReply (bs : List Byte) (s : State) : Out :=
  .next
    (s.linkReceive bs)

/-- LINK_IDLE (R468). An idle flit carries acknowledgements. -/
def execLinkIdle (bs : List Byte) (s : State) : Out :=
  .next
    (s.linkReceive bs)

/-- LINK_NAK (R469). A NAK causes replay of every flit after the named SEQ. -/
def execLinkNak (bs : List Byte) (s : State) : Out :=
  .next
    (s.linkReceive bs)

/-- LINK_FLIT_DISCARDED (R469). A received Kwardo flit with a bad CRC, an uncorrectable codeword, an illegal TYPE or LEN, or an unexpected SEQ is discarded and answered by a NAK. -/
def execLinkFlitDiscarded (bs : List Byte) (s : State) : Out :=
  .next
    (s.linkReceive bs)

/-! ## Training (R471) -/

/-- LINK_ENABLE (R471). Link enable moves the link from RESET to TRAIN. -/
def execLinkEnable (s : State) : Out :=
  .next
    (if s.link.st = .reset then s.toTrain else s)

/-- LINK_TRAIN_DONE (R471). Every lane sees correct PRBS symbols and the link moves to ALIGN. -/
def execLinkTrainDone (s : State) : Out :=
  .next
    (if s.link.st != .train then s
   else { s with link := { s.link with st := .align, stateSince := s.cycle } }.dueOnce .linkStateTimeout)

/-- LINK_ALIGN_DONE (R471). Every lane locks to alignment blocks and the link becomes ACTIVE. -/
def execLinkAlignDone (s : State) : Out :=
  .next
    (if s.link.st != .align then s
   else { s with link := { s.link with st := .active, stateSince := s.cycle, retraining := false
                                       failed := false }.replay }.answerReads 512)

/-- LINK_RETRAIN (R471). Lost alignment, repeated replays or uncorrectable codewords send the link to TRAIN. -/
def execLinkRetrain (s : State) : Out :=
  .next
    (if s.link.st = .active then s.toTrain else s)

/-- Limit of a training state in cycles. -/
def LinkState.limit : LinkState → Nat
  | .train => 30000000
  | _ => 7500000

/-- LINK_STATE_TIMEOUT (R471). A training state exceeds its limit and returns to TRAIN. -/
def execLinkStateTimeout (s : State) : Out :=
  .next
    (match s.link.st with
   | .reset => s
   | .active => s
   | x => if s.cycle ≤ s.link.stateSince + x.limit then s.defer .linkStateTimeout else s.toTrain)

/-- LINK_FAILED (R469). 100 ms without ACTIVE marks the link failed. -/
def execLinkFailed (s : State) : Out :=
  .next
    (match s.link.st with
   | .reset => s
   | .active => s
   | _ => if s.cycle < s.link.since + 150000000 then s.defer .linkFailed
     else { s with link := { failed := true, out := s.link.out, replays := s.link.replays, corrected := s.link.corrected
                             uncorrectable := s.link.uncorrectable, stateSince := s.cycle } }.dueOnce .linkResetRetry)

/-- LINK_RESET_RETRY (R471). 1 ms after a failed attempt the link leaves RESET for TRAIN. -/
def execLinkResetRetry (s : State) : Out :=
  .next
    (if s.link.st != .reset || !s.link.failed then s
   else if s.cycle < s.link.stateSince + 1500000 then s.defer .linkResetRetry else s.toTrain)

/-! ## Bring-up (R327, R476) -/

/-- A site is dead: its router, its die SRAM or more than 8 of its cores fail. -/
def siteDead (x : Nat) : Bool := Config.siteFails x || 8 < (List.range 64).countP fun i => Config.coreFails (x * 64 + i)

/-- The row step (R327): where a die lies after it. `dead` says which sites are dead. -/
def rowStep (dead : Nat → Bool) (d : Nat) : Nat :=
  let i := d % 30 + 1
  let j := d / 30 + 1
  let west := i ≤ 15
  let ring := if west then 0 else 31
  match (List.range 16).filter fun k => dead (siteAt (if west then k else 16 + k) j) with
  | [k] =>
    let b := if west then k else 16 + k
    if b = ring then siteAt i j
    else if west && i ≤ b then siteAt (i - 1) j
    else if !west && b ≤ i then siteAt (i + 1) j
    else siteAt i j
  | _ => siteAt i j

/-- The column step for one die (R327): sites of dies so far, with those left ABSENT. -/
def columnStep (dead : Nat → Bool) (x : List Nat × List Nat) (d : Nat) : List Nat × List Nat :=
  let at_ := x.1.getD d 0
  if !dead at_ then x
  else
    let i := at_ % 32
    let j := at_ / 32
    let chain := if j ≤ 15 then (List.range j).map fun k => siteAt i k else (List.range (31 - j)).map fun k => siteAt i (j + 1 + k)
    if chain.any dead then (x.1, x.2 ++ [d])
    else (x.1.map fun p => if p = at_ || chain.contains p then (if j ≤ 15 then p - 32 else p + 32) else p, x.2)

/-- Places the logical dies: their sites by die number, and the dies that find none (R327). -/
def placeDies (dead : Nat → Bool) : List Nat × List Nat :=
  (List.range 900).foldl (columnStep dead) ((List.range 900).map (rowStep dead), [])

/-- The sites are known: shifted dies take band 1, dies without a site are ABSENT, other live sites are spare (R327,
R329). -/
def State.placed (s : State) (dead : Nat → Bool) : State :=
  let (sites, lost) := placeDies dead
  let ds := List.range 900
  let s := { s with dieSite := (ds.filter fun d => sites.getD d 0 != nominalSite d).map fun d => (d, sites.getD d 0)
                    spareSites := (List.range 1024).filter fun x => !dead x && !sites.contains x }
  let s := { s with spareUsed := (s.spareSites.flatMap fun p => (List.range 64).map fun i => p * 64 + i).filter
                      Config.coreFails }
  ds.foldl (fun s d => (List.range 64).foldl (fun s i =>
    if lost.contains d then s.modCore (coreOfDie d i) fun k => { k with place := { k.place with service := .absent } }
    else if sites.getD d 0 != nominalSite d then
      s.modCore (coreOfDie d i) fun k => { k with place := { k.place with band := 1 } }
    else s) s) s

/-- A failing core of a placed die becomes a remap exception, or ABSENT beyond 256 (R328, R476). -/
def State.remapBoot (s : State) (c : Nat) : State :=
  if (s.core c).place.service = .absent || !Config.coreFails (s.siteOf (dieOf c) * 64 + dieIdx c) then s
  else match (if s.remaps < 256 then s.spareFor c else none) with
    | none => s.modCore c fun k => { k with place := { k.place with service := .absent, unsound := true } }
    | some x =>
      { s with spareUsed := keyAdd s.spareUsed x }.modCore c fun k =>
        { k with place := { k.place with site := x / 64, index := x % 64, band := bandOf c (x / 64), exception := true
                                         unsound := true } }

/-- PANELCAP of the variant (R63). -/
def panelCapWord (c24 : Bool) (no sys : Nat) : Word :=
  BitVec.ofNat 64 (if c24 then 1 <<< 40 + 24 <<< 16 + 30 <<< 8
    else sys <<< 40 + no <<< 32 + 16 <<< 24 + 48 <<< 16 + 30 <<< 8 + 3)

/-- NETCAP of the variant (R63). -/
def netCapWord (c24 : Bool) : Word :=
  BitVec.ofNat 64 (1 <<< 32 + (if c24 then 0 else 64) <<< 24 + 16 <<< 16 + 64 <<< 8 + 64)

/-- Step 7 of bring-up: stores of checkpoints reserved, capability words set (R63, R330). -/
def State.reserveStores (s : State) (cores : List Nat) : State :=
  let s := cores.foldl (fun s c => if Config.enrolled c then s.modCore c fun k => { k with ckEn := true } else s) s
  let sys := Config.systemPanels % 128 + 1
  { s with panelCap := panelCapWord Config.isC24 (Config.panelNumber % sys) sys, netCap := netCapWord Config.isC24 }

/-- Step 9 of bring-up: ports and calendar run, and with them what recurs. -/
def State.openPanel (s : State) : State :=
  let s := if Config.isC24 then s
    else (List.range 16).foldl (fun s k => s.modOdie k fun o => { o with up := true, txf := 8, rxf := 8 })
           (s.due .calendarSlotStart)
  ((s.serviceRequest.due .quotaRefill).due .meterWindowClose).due .telemetry

/-- The steps of bring-up up to step `n` (R476): placement, remap exceptions, capabilities, quads FREE, launches accepted. -/
def State.bringUp (s : State) (n : Nat) : State :=
  let cores := (List.range 900).flatMap fun d => (List.range 64).map (coreOfDie d)
  let s : State := { s with freeAsids := List.range 1024, service := { s.service with bootStep := n } }
  let s := if n < 5 then s else s.placed siteDead
  let s := if n < 6 then s
    else
      let s := cores.foldl State.remapBoot s
      (s.cores.filter fun p => p.2.place.service == .absent).foldl
        (fun s p => s.modQuad (quadOf p.1) fun q => { q with hold := .out }) s
  let s := if n < 7 then s else s.reserveStores cores
  if n < 9 then s else s.openPanel

/-- The image that runs: one that was staged, or the one before (R477). -/
def ServiceDie.booted (v : ServiceDie) : ServiceDie :=
  { fused := v.fused
    firmware := match v.staged with
      | some (im, _) => im
      | none => v.firmware }

/-- POWER_UP (R476). Power-up runs the bring-up sequence. -/
def execPowerUp (s : State) : Out :=
  .next
    (let k := Config.failingStep s.fresh
     let s1 : State := { State.reset with agenda := [], fresh := s.fresh + 2, service := s.service.booted }
     if 1 ≤ k && k ≤ 9 then
       ({ s1 with service := { s1.service with bootFail := Config.unstated (s.fresh + 1) % 256 } }).bringUp (k - 1)
     else s1.bringUp 9)

end Sys2Proof.Machine
end

