-- ==== Sys2Proof/Machine/Home.lean ====
section
/-! DEFINITION. What happens away from the executing word: accesses of waiting threads, requests and journal entries at
their home, replies and timeouts, full/empty waits and their grants (R156, R165 to R170, R303 to R314). -/

namespace Sys2Proof.Machine

/-! ## What comes back to a thread -/

/-- The access at the head of an operation has been answered. -/
def Op.advance (o : Op) (bs : List Byte) : Op :=
  { o with got := o.got ++ bs, todo := o.todo.drop 1, phase := 0, deadline := none }

/-- An answer for a thread, or for its sequencer, is delivered: a fault ends the operation, the last answer completes it,
and a waiter of a full/empty word or a generation reissues with it. -/
def State.accessDone (s : State) (t : Nat) (replay : Bool) (r : Reply) : State :=
  let bs := match r with
    | .data bs => bs
    | _ => []
  match r, replay with
  | .trap c, _ => s.answerOp t replay (.trap c)
  | _, true =>
    let s := s.modThr t fun th => th.modFly fun x => { x with op := x.op.advance bs, hold := .none }
    if (s.thr t).flyOp.todo = [] then s.answerOp t true .ok else s.dueOnce (.replayIssue t)
  | r, false =>
    match (s.thr t).st with
    | .parked .fe => (s.modThr t fun th => { th with op := { th.op with reply := r, phase := 0 } }).wakeSame t
    | .parked .waitgen => (s.modThr t fun th => { th with op := { th.op with reply := r, phase := 0 } }).wakeSame t
    | _ =>
      let s := s.modThr t fun th => { th with op := th.op.advance bs }
      if (s.thr t).op.todo = [] then s.answerOp t false .ok else s.nextAccess t

/-- A request of the slot is out: an access that left the core, or a wait at another unit's home (R307, R310). -/
def Thread.outstanding (th : Thread) : Bool :=
  th.away || (th.op.phase != 0 && (th.st == .parked .fe || th.st == .parked .waitgen))

/-- Acts on the matrix operation that goes on after its thread was killed (R249), as on a thread. -/
def State.asOrphan (s : State) (t : Nat) (act : State → State) : State :=
  let c := coreOf t
  match (s.core c).morphan with
  | none => s
  | some th =>
    let now := s.thr t
    let s := act (s.setThr t th)
    let th := s.thr t
    ((s.setThr t now).modCore c fun k => { k with morphan := some th }).dueOnce (.matrixUnitStart c)

/-- The matrix unit goes on with an operation of thread `t` that was killed. -/
def State.orphanOf (s : State) (t : Nat) : Option Thread :=
  let k := s.core (coreOf t)
  if k.munit.any (fun o => o.thread == t) then k.morphan else none

/-! ## Accesses on the core's own paths (R149, R156, R166) -/

/-- A device access. An atomic on device space, of which the spec says nothing, raises SEG with DETAIL 2 (DESIGN CHOICE, log
entry 76). -/
def State.deviceAccess (s : State) (ea : Word) : HomeOp → State × Reply
  | .load a n => let (s, bs) := s.deviceRead a n; (s, .data bs)
  | .store a bs => (s.deviceWrite a bs, .ok)
  | _ => (s, .trap { code := cSeg, detail := 2, tval := ea })

/-- The next access of a waiting thread. -/
def State.accessTurn (s : State) (t : Nat) : State :=
  let th := s.thr t
  let c := coreOf t
  match th.op.todo with
  | [] => if th.op.insn.isSome || th.op.service then s.answerOp t false th.op.reply else s
  | a :: _ =>
    if th.op.phase != 0 then s
    else match pathOf c a.dest with
      | .remote => s.nextAccess t
      | .far => s.nextAccess t
      | _ =>
        if !s.mayInject c th.fn th.tsr.pl.toNat then (s.quotaFail (quadOf c) th.fn).defer (.accessReply t)
        else if a.dest = .device then
          let (s, r) := s.deviceAccess a.ea a.op
          s.accessDone t false r
        else if th.tsr.pl.toNat < 2 && !s.ownerOk th.fn a.dest a.op.addr then
          s.accessDone t false (.trap { code := cSeg, detail := 3, tval := a.ea })
        else
          match (s.chargeAccess c th.fn a.dest a.op).performFor th.fn (.thread t th.gen.toNat false) a.da a.op with
          | .reply s2 r => s2.accessDone t false r
          | .queued s2 => s2.park t (match a.op with
              | .waitgen _ _ => .waitgen
              | _ => .fe) { da := a.da }
          | .hold => s.defer (.accessReply t)

/-- What a thread waits for is taken up: its next access, its obligations, or the result it was given. -/
def State.accessFor (s : State) (t : Nat) : State :=
  match (s.thr t).st with
  | .parked .waitgen => if (s.thr t).op.reply = .none then s else s.wakeSame t
  | .parked .mem => s.accessTurn t
  | .parked .remote => s.accessTurn t
  | .parked .engine => s.accessTurn t
  | _ => s

/-- ACCESS_REPLY (R91). Data or a write acknowledgement returns for a MEM-parked access. -/
def execAccessReply (t : Nat) (s : State) : Out :=
  eventIf (validThread t)
    (if (s.core (coreOf t)).away then s.defer (.accessReply t)
   else if (s.orphanOf t).isSome then s.asOrphan t fun s => s.accessTurn t
   else s.accessFor t)

/-! ## Requests at their home (R156, R177, R310, R314) -/

/-- What is under way under a number. -/
def State.item? (s : State) (n : Nat) : Option Item := (s.net.find? fun p => p.1 == n).map (·.2)

/-- It has arrived. -/
def State.dropItem (s : State) (n : Nat) : State := { s with net := smDrop s.net n }

/-- The answer to a request: to this panel, or by frame to the panel that asked, with the granule that a relaxed load
read (R188). -/
def State.answerTo (s : State) (r : Request) (rep : Reply) : State :=
  if foreignBase ≤ r.thread then
    let g := match r.op, rep with
      | .load a _, .data _ =>
        let b := a / 64 * 64
        if r.relaxed && !s.poisoned b 64 then some (s.rd b 64) else none
      | _, _ => none
    s.sendFrame (r.thread / foreignBase - 1) r.fn (.answer (r.thread % foreignBase) r.gen rep g) (if g.isSome then 3 else 2)
  else s.launchItem (.answer r.thread r.gen rep r.replay s.cycle) true

/-- A request performs at its home. -/
def State.serveRequest (s : State) (n : Nat) (r : Request) : State :=
  let (now, s) := s.gateUnit r.unit (.remoteRequestAtHome n) (if r.thread < 2 ^ 20 then some (coreOf r.thread) else none)
  let seg : Reply := .trap { code := cSeg, detail := 3, tval := r.ea }
  if !now then s
  else if s.unitAbsent r.unit || (r.level < 2 && !s.ownerOk r.fn r.unit r.op.addr) then (s.dropItem n).answerTo r seg
  else match s.performFor r.fn (.thread r.thread r.gen true) r.da r.op with
    | .reply s2 rep => (s2.dropItem n).answerTo r rep
    | .queued s2 =>
      let s2 := s2.dropItem n
      if foreignBase ≤ r.thread then
        s2.sendFrame (r.thread / foreignBase - 1) r.fn (.queued (r.thread % foreignBase) r.gen) 2
      else s2.due (.feQueuedNotice r.thread r.gen)
    | .hold => s.defer (.remoteRequestAtHome n)

/-! ## Journal entries at their home (R166, R180, R296 to R299) -/

/-- Puts a byte among bytes by offset. -/
def insertByte (b : Nat × Byte) : List (Nat × Byte) → List (Nat × Byte)
  | [] => [b]
  | c :: cs => if c.1 < b.1 then c :: insertByte b cs else b :: c :: cs

/-- The entry's bytes as runs of consecutive addresses. -/
def JEntry.runs (e : JEntry) : List (Nat × List Byte) :=
  (e.bytes.foldr insertByte []).foldr (fun b rs => match rs with
    | (a, bs) :: rest => if e.addr + b.1 + 1 = a then (e.addr + b.1, b.2 :: bs) :: rest else (e.addr + b.1, [b.2]) :: rs
    | [] => [(e.addr + b.1, [b.2])]) []

/-- What an entry comes to at its home. -/
inductive EntryEnd where
  | done | refused (code : Nat) | queued | hold

/-- Stores every run for function `f`, or none when one meets a poisoned word with less than the word. -/
def State.storeRuns (s : State) (f : Nat) : List (Nat × List Byte) → Option State
  | [] => some s
  | (a, bs) :: rs => (s.storeAt a bs).bind fun s =>
      (if hbmBase ≤ a then (s.watchHit a bs.length).dirtied f a bs.length else s.watchHit a bs.length).storeRuns f rs

/-- An entry from core `c` of panel `p` at its home; `who` stands for it in a wait table. The birth of a spawn with REL = 1
that has crossed panels performs the acquire effect (R302). -/
def State.entryAtHome (s : State) (who : Waiter) (p c : Nat) (e : JEntry) : State × EntryEnd :=
  let coded (x : State × Nat) : State × EntryEnd := (x.1, if x.2 = 0 then .done else .refused x.2)
  match e.kind with
  | .inbox ch rel => coded (s.inboxAt e.fn e.addr { header := header (bit rel) p ch c, payload := e.payload })
  | .spawn k rel => coded (s.spawnAt e.fn e.addr k c e.payload (rel && p != s.panelNo))
  | kind =>
    if s.unitAbsent e.unit then (s, .refused 1)
    else if e.level < 2 && !s.ownerOk e.fn e.unit e.addr then (s, .refused 2)
    else if kind = .stf then
      match s.performFor e.fn who e.report (.fill e.addr e.payload) with
      | .reply s2 _ => (s2, .done)
      | .queued s2 => (s2, .queued)
      | .hold => (s, .hold)
    else if e.unit = .device then (e.runs.foldl (fun s r => s.deviceWrite r.1 r.2) s, .done)
    else if e.runs.any fun r => (wordsOf r.1 r.2.length).any s.wordHeld then (s, .hold)
    else match s.storeRuns e.fn e.runs with
      | some s2 => (s2, .done)
      | none => (s, .refused 3)

/-- A store entry of this panel's core `c` leaves its core and goes to its home (R180, R305, R411); true when it has ended
here, or has gone to another panel or into a wait table. -/
def State.serveEntry (s : State) (c i : Nat) (e : JEntry) (ev : Instr) : State × Bool :=
  if !e.unserved || e.queued then (s, true)
  else match s.entryLeaves c i e fun s => s.chargeAccess c e.fn e.unit (.store e.addr e.payload) with
    | (false, s) => (s.defer ev, false)
    | (true, s) =>
      match e.unit with
      | .panel p => (if e.left then s else s.sendAway c i p e 3, true)
      | _ =>
        let (now, s) := s.gateUnit e.unit ev (some c)
        if !now then (s, false)
        else match s.entryAtHome (.journal c i e.seq) s.panelNo c e with
          | (s2, .done) => (s2.entryDone c i e.seq, true)
          | (s2, .refused k) => (s2.entryRefused c i e.seq k, true)
          | (s2, .queued) => ((s2.modEntryAt c i fun e => { e with queued := true }).due (.postedStfExpire c i e.seq), true)
          | (_, .hold) => (s.defer ev, false)

/-- An earlier entry of the same thread of another panel for the same unit is still on its way here (R180, R294). -/
def State.foreignEarlier (s : State) (n p c : Nat) (e : JEntry) : Bool :=
  s.net.any fun x => x.1 < n && (match x.2 with
    | .foreign p' c' _ e' => p' == p && c' == c && e'.thread == e.thread && e'.key == e.key
    | _ => false)

/-- An entry of another panel's core at its home here; its acknowledgement goes back on the ordered path. -/
def State.serveForeign (s : State) (n p c i : Nat) (e : JEntry) : State :=
  let ev : Instr := .remoteRequestAtHome n
  let (now, s) := s.gateUnit e.context ev
  if !now then s
  else if s.foreignEarlier n p c e then s.defer ev
  else match s.entryAtHome (.journal (foreignCore p c) i e.seq) p c e with
    | (s2, .done) => (s2.dropItem n).sendFrame p e.fn (.ack c i e.seq 0) 2
    | (s2, .refused k) => (s2.dropItem n).sendFrame p e.fn (.ack c i e.seq k) 2
    | (s2, .queued) => (s2.dropItem n).due (.postedStfExpire (foreignCore p c) i e.seq)
    | (_, .hold) => s.defer ev

/-- REMOTE_REQUEST_AT_HOME (R177). A remote load, store, atomic or journal entry performs at its home. -/
def execRemoteRequestAtHome (n : Nat) (s : State) : Out :=
  .next
    (match s.item? n with
   | some (.request r) => s.serveRequest n r
   | some (.entry c i q) => match s.entryAt? c i q with
     | some e => let (s, ended) := s.serveEntry c i e (.remoteRequestAtHome n); if ended then s.dropItem n else s
     | none => s.dropItem n
   | some (.foreign p c i e) => s.serveForeign n p c i e
   | _ => s)

/-- FE_ARRIVAL (R169). A full/empty operation reaches its home and completes or is queued. -/
def execFeArrival (c i q : Nat) (s : State) : Out :=
  eventIf (validCore c)
    (match s.entryAt? c i q with
   | some e => (s.serveEntry c i e (.feArrival c i q)).1
   | none => s)

/-! ## Replies, timeouts, the end of what is under way (R305, R307 to R309) -/

/-- A reply reaches a slot. -/
def State.deliverReply (s : State) (t gen : Nat) (r : Reply) (replay : Bool) : State :=
  let th := s.thr t
  let s := match r with
    | .trap c => if c.code = cFatal then s.quadError (coreOf t) 0x0E (slotOf t) c.tval else s
    | _ => s
  if replay && th.flyHold == .remote && th.gen.toNat = gen then s.accessDone t true r
  else if !replay && th.outstanding && th.gen.toNat = gen then s.accessDone t false r
  else if (s.orphanOf t).any (fun m => m.gen.toNat = gen && m.away) then
    (s.modThr t fun th => { th with unanswered := th.unanswered.filter fun u => u.1 != gen }).asOrphan t fun s =>
      s.accessDone t false r
  else s.staleReply t gen

/-- A provisional grant from another panel reaches its slot: confirmed, or returned (R310). -/
def State.takeGrant (s : State) (p t gen : Nat) (r : Reply) : State :=
  let th := s.thr t
  let ok := th.gen.toNat = gen && th.st == .parked .fe && th.op.phase != 0
  let s := s.sendFrame p th.fn (.confirm t gen ok) 2
  if ok then s.accessDone t false r else s.staleReply t gen

/-- A line that was fetched ahead from another panel comes; a fault it meets is left for the fetch of its words (R483). -/
def State.aheadAnswer (s : State) (t n : Nat) (r : Reply) : State :=
  match (s.thr t).ahead, r with
  | some (ea, m), .data bs =>
    if m != n then s.stale (coreOf t)
    else s.modThr t fun th =>
      let th : Thread := { th with ahead := none }
      if (th.heldLine (ea - 64)).isSome && (th.heldLine ea).isNone then th.addAhead (ea - 64) (lineFrom ea bs) else th
  | some (_, m), _ => if m = n then s.modThr t fun th => { th with ahead := none } else s.stale (coreOf t)
  | none, _ => s.stale (coreOf t)

/-- A reply to an engine of a core, or to a thread's fetch ahead, which the core's forwarding entry holds while the context
is away (R311). -/
def State.engineReply (s : State) (n key gen : Nat) (r : Reply) : State :=
  s.toCore (key % 2 ^ 20 / 16) (.remoteReply n) fun s =>
    let s := s.dropItem n
    if 2 ^ 22 ≤ key then s.aheadAnswer (key - 2 ^ 22) gen r else s.engineAnswer key gen r

/-- REMOTE_REPLY (R307). A remote reply arrives and is delivered or discarded as stale. -/
def execRemoteReply (n : Nat) (s : State) : Out :=
  .next
    (match s.item? n with
   | some (.answer t gen r replay _) =>
     if 2 ^ 20 ≤ t then s.engineReply n t gen r
     else
       let (now, s) := s.gate (coreOf t) (.remoteReply n) none (some (coreOf t))
       if !now then s
       else if (s.core (coreOf t)).place.service = .absent then s.dropItem n
       else (s.dropItem n).deliverReply t gen r replay
   | some (.grant p t gen r) =>
     let (now, s) := s.gate (coreOf t) (.remoteReply n) none (some (coreOf t))
     if now then (s.dropItem n).takeGrant p t gen r else s
   | _ => s)

/-- The request tag of R307. -/
def State.tag (s : State) (t gen : Nat) : Word :=
  BitVec.ofNat 64 (s.panelNo <<< 22 + gen <<< 20 + slotOf t <<< 16 + coreOf t)

/-- The generation of a slot whose request has timed out advances; the old one stays unanswered for a lifetime. -/
def Thread.timedOut (th : Thread) (left : Nat) : Thread :=
  { th with gen := th.gen + 1, unanswered := th.unanswered ++ [(th.gen.toNat, left + 6000000)] }

/-- REMOTE_TIMEOUT (R308). RTIMEOUT expires and the access ends with an exact trap. -/
def execRemoteTimeout (t e : Nat) (s : State) : Out :=
  eventIf (validThread t)
    (let th := s.thr t
   let c : Cause := { code := cTimeout, tval := s.tag t e }
   let late (d : Option Nat) : Bool := d.any fun d => d ≤ s.cycle
   let left (d : Option Nat) : Nat := d.getD 0 - th.timeout
   if th.gen.toNat = e && th.away && th.op.deadline.isSome then
     (if !late th.op.deadline || (s.core (coreOf t)).away then s.defer (.remoteTimeout t e)
      else (s.modThr t fun th => th.timedOut (left th.op.deadline)).accessDone t false (.trap c))
   else if th.gen.toNat = e && th.flyHold == .remote && th.flyOp.deadline.isSome then
     (if !late th.flyOp.deadline || (s.core (coreOf t)).away then s.defer (.remoteTimeout t e)
      else (s.modThr t fun th => th.timedOut (left th.flyOp.deadline)).accessDone t true (.trap c))
   else match s.orphanOf t with
     | some m =>
       if m.gen.toNat != e || !m.away then s
       else if !late m.op.deadline then s.defer (.remoteTimeout t e)
       else s.asOrphan t fun s => s.accessDone t false (.trap c)
     | none => s)

/-- The cycle at which an item left its core. -/
def State.itemSince (s : State) : Item → Nat
  | .request r => r.since
  | .answer _ _ _ _ since => since
  | .entry c i q => match s.entryAt? c i q with
    | some e => e.since
    | none => 0
  | .foreign _ _ _ e => e.since
  | .grant _ _ _ _ => s.cycle

/-- FABRIC_LIFETIME_EXPIRY (R309). A request, reply or acknowledgement reaches the fabric lifetime; routers and homes discard it, and a timed-out request counts as answered so its slot may issue again. -/
def execFabricLifetimeExpiry (n : Nat) (s : State) : Out :=
  .next
    (match s.item? n with
   | none => s
   | some x => if s.cycle < s.itemSince x + 6000000 then s.defer (.fabricLifetimeExpiry n) else s.dropItem n)

/-! ## Full/empty waits (R169, R170, R310) -/

/-- The queued notice and the confirmation of an operation queued at another core's home: two flits more (R293, R412). -/
def State.chargeQueued (s : State) (t f : Nat) (a : Access) : State :=
  let c := coreOf t
  match pathOf c a.dest with
  | .remote =>
    let far := farEnd a.dest a.op.addr
    (s.charge (quadOf c) f 18 (2 * dist c far)).charge (quadOf c) f 19 (2 * dieDist (dieOf c) (dieOf far))
  | _ => s

/-- FE_QUEUED_NOTICE (R310). A queued notice moves a remote waiter from REMOTE to FE. -/
def execFeQueuedNotice (t e : Nat) (s : State) : Out :=
  eventIf (validThread t)
    (let (now, s) := s.gate (coreOf t) (.feQueuedNotice t e) none (some (coreOf t))
   let th := s.thr t
   if !now || th.gen.toNat != e || !th.away then s
   else match th.op.todo with
     | [] => s
     | a :: _ =>
       let why := match a.op with
         | .waitgen _ _ => Park.waitgen
         | _ => Park.fe
       let at_ := match a.dest with
         | .panel p => if why = .fe then some (p, a.op.addr) else none
         | _ => none
       let s := if why = .fe then s.chargeQueued t th.fn a else s
       let s := s.park t why { da := a.da, phase := 1, reply := th.op.reply, feAt := at_ }
       if th.op.reply = .none then s else s.dueOnce (.accessReply t))

/-- The wait-table entry whose provisional grant is out to a remote waiter. -/
def State.heldGrant (s : State) (t e : Nat) : Option (Nat × WaitEntry) :=
  s.quads.findSome? fun p => (p.2.waits.find? fun w => w.held && w.who == .thread t e true).map fun w => (p.1, w)

/-- A grant is confirmed: the home applies it; or returned: the waiter never arrived (R310). -/
def State.endGrant (s : State) (q : Nat) (w : WaitEntry) (ok : Bool) : State × Reply :=
  let s := s.dropWait q w
  let (s, r) := if ok then s.applyGrant w.addr w.kind else (s, .none)
  (s.grants w.addr, r)

/-- FE_GRANT_CONFIRM (R310). A provisional grant is confirmed or returned stale by the requesting core. -/
def execFeGrantConfirm (t e : Nat) (s : State) : Out :=
  .next
    (match s.heldGrant t e with
   | none => if foreignBase ≤ t then s.sendFrame (t / foreignBase - 1) 0 (.answer (t % foreignBase) e .ok none) 2 else s
   | some (q, w) =>
     if foreignBase ≤ t then
       s.sendFrame (t / foreignBase - 1) 0 (.grant (t % foreignBase) e (s.applyGrant w.addr w.kind).2) 2
     else if s.agenda.contains (.feQueuedNotice t e) then s.defer (.feGrantConfirm t e)
     else
       let (now, s) := s.gate (coreOf t) (.feGrantConfirm t e) none (some (coreOf t))
       if !now then s
       else
         let th := s.thr t
         let ok := th.gen.toNat = e && th.st == .parked .fe && th.op.phase != 0
         let (s, r) := s.endGrant q w ok
         if ok then s.accessDone t false r else s.staleReply t e)

/-- An overflow waiter's condition holds and no tabled waiter of its class for the word is queued (R170). -/
def State.reprobeReady (s : State) (q : Nat) (w : WaitEntry) : Bool :=
  (match w.kind with
    | .drain _ => s.isFull w.addr
    | .fill _ => !s.isFull w.addr
    | .gen g => ((s.rd64 w.addr >>> 48) + 65536 - g) % 65536 < 32768) &&
  !s.wordHeld w.addr && (w.kind.cls == 2 || (s.waitersOf q w.addr w.kind.cls).isEmpty)

/-- A waiter that completes at its re-probe: near at once, by a reply over the network otherwise. -/
def State.reprobeGive (s : State) (w : WaitEntry) (r : Reply) : State :=
  match w.who with
  | .thread t gen true =>
    if foreignBase ≤ t then s.sendFrame (t / foreignBase - 1) 0 (.answer (t % foreignBase) gen r none) 2
    else s.launchItem (.answer t gen r false s.cycle) true
  | .thread t gen false =>
    if w.kind.cls = 2 then
      (if (s.thr t).gen.toNat = gen then
        (s.modThr t fun th => { th with op := { th.op with reply := .ok } }).dueOnce (.accessReply t) else s)
    else s.giveWaiter w r
  | _ => s.giveWaiter w r

/-- FE_REPROBE (R170). An overflow waiter re-probes its home every 256 cycles. -/
def execFeReprobe (q : Nat) (s : State) : Out :=
  eventIf (q < 14400)
    (let ts := (s.quad q).tickets
   let i := Config.choose s.fresh ts.length % ts.length
   let s := { s with fresh := s.fresh + 1 }
   match ts[i]? with
   | none => s
   | some w =>
     let s1 := s.modQuad q fun k => { k with tickets := k.tickets.erase w }
     let s2 := if s.reprobeReady q w then
         let (s2, r) := s1.applyGrant w.addr w.kind
         (s2.reprobeGive w r).grants w.addr
       else if (s.quad q).waits.length < 256 then
         (match ts with
           | [] => s
           | h :: rest => (s.modQuad q fun k => { k with waits := k.waits ++ [h], tickets := rest }).grants h.addr)
       else s
     if (s2.quad q).tickets = [] then s2 else s2.dueOnce (.feReprobe q))

/-- The waits of a journal entry. -/
def isEntry (c i q : Nat) (w : WaitEntry) : Bool := w.who == .journal c i q

/-- POSTED_STF_EXPIRE (R170). A posted STF older than the fabric lifetime is removed by its home. -/
def execPostedStfExpire (c i q : Nat) (s : State) : Out :=
  .next
    (match s.quads.findSome? (fun p =>
       ((p.2.waits ++ p.2.tickets).find? (isEntry c i q)).map fun w => (p.1, w)) with
   | none => s
   | some (k, w) =>
     let since := match s.entryAt? c i q with
       | some e => e.since
       | none => w.since
     if s.cycle < since + 6000000 then s.defer (.postedStfExpire c i q)
     else (s.modQuad k fun x => { x with waits := x.waits.filter (fun w => !isEntry c i q w)
                                         tickets := x.tickets.filter (fun w => !isEntry c i q w) }).grants w.addr)

/-- IMPORT_ENTRY_EXPIRY (R190). An import-buffer entry's 20 microsecond lease ends and it is removed. -/
def execImportEntryExpiry (k f g : Nat) (s : State) : Out :=
  eventIf (k < 16)
    (let old (x : ImportEntry) : Bool := x.fn == f && x.granule == g
   let s := s.modOdie k fun o => { o with imports := o.imports.filter fun x => !(old x && x.ends ≤ s.cycle) }
   if (s.odie k).imports.any old then s.defer (.importEntryExpiry k f g) else s)

end Sys2Proof.Machine
end

