-- ==== Sys2Proof/Machine/Optical.lean ====
section
/-! DEFINITION. The optical edge engine: major 0x2B, the calendar and its slots, ordered and bulk frames, relay, the import
buffer's fills, gang gates (R163, R188, R190, R428 to R445). -/

namespace Sys2Proof.Machine

/-! ## The calendar (R430, R431) -/

/-- Phase of the current slot in cycles. -/
def State.phase (s : State) : Nat := min 4799 (s.cycle - s.cal.began)

/-- The peer of a port group in a slot of the calendar in force. -/
def Calendar.peer (k : Calendar) (slot g : Nat) : Option Nat := k.entries.getD (slot * 16 + g) none

/-- Port groups in service that reach a panel in a slot. -/
def State.groups (s : State) (slot p : Nat) : List Nat :=
  (List.range 16).filter fun g => (s.odie g).up && s.cal.peer slot g == some p

/-- A frame of `beats` beats that starts at a phase given in sixteenths of a cycle ends its last beat before the guard. -/
def fitsSlot (start beats : Nat) : Bool := start + 3 * beats < 4512 * 16

/-- Slots until one in which a frame could start directly to a panel (R444). -/
def State.directWait (s : State) (p beats : Nat) : Option Nat :=
  let ok (w : Nat) : Bool := s.groups ((s.cal.slot + w) % s.cal.s) p != []
  if s.cal.s = 0 then none
  else (List.range (s.cal.s + 1)).find? fun w => ok w && (w != 0 || fitsSlot (16 * s.phase) beats)

/-! ## Instructions (R443 to R445) -/

/-- OCAL (R443). -/
def ocalBody (word : Half) (a d : BitVec 5) (s : State) : Res :=
  let n := s.gn a
  let slot := field n 5 0
  let g := field n 11 8
  let h := bitAt n 15
  if field n 7 6 != 0 || field n 14 12 != 0 || field n 63 16 != 0 || (h && (slot != 0 || g != 0)) then illegal word 2 s
  else if h then
    .done (s.setGn d (s.cal.epoch <<< 48 + s.cal.s <<< 40 + s.cal.slot <<< 32 + s.phase))
  else if s.cal.s ≤ slot then .done (s.setG d 0)
  else match s.cal.peer slot g with
    | some p => .done (s.setGn d (2 ^ 63 + p))
    | none => .done (s.setGn d (2 ^ 63 + 2 ^ 62))

/-- ONEXT (R444): the least frame has two beats. -/
def onextBody (word : Half) (a d : BitVec 5) (s : State) : Res :=
  let p := s.gn a
  if 128 ≤ p || s.sysPanels ≤ p then illegal word 2 s
  else match (if p = s.panelNo then none else s.directWait p 2) with
    | none => .done (s.setG d 0)
    | some w =>
      let slot := (s.cal.slot + w) % s.cal.s
      .done (s.setGn d (2 ^ 63 + slot <<< 48 + (w % s.cal.s) <<< 32 + ((s.groups slot p).map fun g => 1 <<< g).sum))

/-- OPOL without SET (R445). -/
def opolBody (d : BitVec 5) (s : State) : Res := .done (s.setG d (s.fn s.me.fn).opol)

/-- OPOL with SET (R441, R445). -/
def opolSetBody (word : Half) (a d : BitVec 5) (s : State) : Res :=
  let n := s.gn a
  if field n 63 14 != 0 || field n 7 2 != 0 || field n 1 0 = 3 then illegal word 2 s
  else atService (fun s =>
    let old := (s.fn s.me.fn).opol
    .done ((s.modFn s.me.fn fun k => { k with opol := s.g a }).setG d old)) s

/-- The gate word of a function (R440). -/
def Func.gateWord (k : Func) : Nat :=
  bit k.gateOpen <<< 63 + bit k.gateLate <<< 62 + bit k.isGang <<< 61 + (k.slice % 65536) <<< 40 + k.gangTol

/-- OSTAT (R440, R445). -/
def ostatBody (word : Half) (a d : BitVec 5) (s : State) : Res :=
  let n := s.gn a
  let g := field n 3 0
  let what := field n 9 8
  if field n 7 4 != 0 || field n 63 10 != 0 || 2 ≤ what || (what = 1 && g != 0) then illegal word 2 s
  else if what = 1 then .done (s.setGn d (s.fn s.me.fn).gateWord)
  else
    let o := s.odie g
    .done (s.setGn d (bit o.up <<< 63 + o.txf <<< 56 + o.rxf <<< 52 + o.relayB <<< 24))

/-- OCAL (R443). Reads a calendar entry or header. -/
def execOcal (a : BitVec 5) (d : BitVec 5) (s : State) : Out :=
  run { word := 43#6 ++ a ++ 0#5 ++ d ++ 0#5 ++ 0#6, srcs := [a.toNat], dsts := [d.toNat] }
    (ocalBody (43#6 ++ a ++ 0#5 ++ d ++ 0#5 ++ 0#6) a d) s

/-- ONEXT (R444). Describes the next direct slot to a panel. -/
def execOnext (a : BitVec 5) (d : BitVec 5) (s : State) : Out :=
  run { word := 43#6 ++ a ++ 0#5 ++ d ++ 0#5 ++ 1#6, srcs := [a.toNat], dsts := [d.toNat] }
    (onextBody (43#6 ++ a ++ 0#5 ++ d ++ 0#5 ++ 1#6) a d) s

/-- OPOL (R445). Reads the relay policy word. -/
def execOpol (a : BitVec 5) (d : BitVec 5) (s : State) : Out :=
  run { word := 43#6 ++ a ++ 0#5 ++ d ++ 0#5 ++ 2#6, dsts := [d.toNat] }
    (opolBody d) s

/-- OPOL_SET (R445). Reads and writes the relay policy word. -/
def execOpolSet (a : BitVec 5) (d : BitVec 5) (s : State) : Out :=
  run { word := 43#6 ++ a ++ 0#5 ++ d ++ 1#5 ++ 2#6, level := 1, srcs := [a.toNat], dsts := [d.toNat] }
    (opolSetBody (43#6 ++ a ++ 0#5 ++ d ++ 1#5 ++ 2#6) a d) s

/-- OSTAT (R445). Reads a port group word or the gate word. -/
def execOstat (a : BitVec 5) (d : BitVec 5) (s : State) : Out :=
  run { word := 43#6 ++ a ++ 0#5 ++ d ++ 0#5 ++ 3#6, srcs := [a.toNat], dsts := [d.toNat] }
    (ostatBody (43#6 ++ a ++ 0#5 ++ d ++ 0#5 ++ 3#6) a d) s

/-! ## Sending (R428, R431 to R435) -/

/-- Sends a frame of `beats` beats to a panel over the port group that is free first, if it still fits in the slot. -/
def State.transmit (s : State) (p beats : Nat) : Option State :=
  let start (g : Nat) : Nat := max (16 * s.phase) (s.odie g).busy
  match (s.groups s.cal.slot p).foldl (fun (best : Option Nat) g => match best with
      | none => some g
      | some b => if start g < start b then some g else some b) none with
  | none => none
  | some g =>
    if fitsSlot (start g) beats then some (s.modOdie g fun o => { o with busy := start g + 3 * beats }) else none

/-- What names a bulk part in its acknowledgement. -/
def Cargo.bulkKey : Cargo → List Nat
  | .bulk op j _ _ _ => [op, j]
  | .chunk f cid run _ _ c => [f, cid, run, c.off, c.phase]
  | _ => []

/-- Slots from now until panel `m`, having received a frame in slot now + `w`, delivers it to panel `d`. -/
def State.delivery (s : State) (m d w : Nat) : Option Nat :=
  (List.range s.cal.s).findSome? fun i =>
    if Config.reaches s.cal.epoch m d ((s.cal.slot + w + 1 + i) % s.cal.s) then some (w + 1 + i) else none

/-- The intermediate panel that relays a bulk frame, with the slots until it can be sent there (R435). -/
def State.relayVia (s : State) (f : Frame) : Option (Nat × Nat) :=
  let pol := (s.fn f.fn).opol.toNat
  let direct := s.directWait f.dst f.beats
  let late := match direct with
    | some w => field pol 13 8 < w % s.cal.s
    | none => true
  if field pol 1 0 = 0 || (field pol 1 0 = 1 && !late) then none
  else
    let best := (List.range s.sysPanels).foldl (fun (b : Option (Nat × Nat × Nat)) m =>
      if m = s.panelNo || m = f.dst || smGet 0 (s.odie (odieFor f.dst)).credits (m * 128 + f.dst) = 0 then b
      else match s.directWait m f.beats with
        | none => b
        | some w => match s.delivery m f.dst w with
          | none => b
          | some x =>
            if direct.any (fun y => y ≤ x) then b
            else match b with
              | some (_, _, y) => if x < y then some (m, w, x) else b
              | none => some (m, w, x)) none
    best.map fun x => (x.1, x.2.1)

/-- Sends a bulk frame: directly now, or through a panel that relays it, against one of its credits. -/
def State.sendBulkNow (s : State) (f : Frame) : Option State :=
  match s.transmit f.dst f.beats with
  | some s => some s
  | none =>
    match s.relayVia f with
    | some (m, 0) =>
      (s.transmit m f.beats).map fun s => s.modOdie (odieFor f.dst) fun o =>
        { o with credits := smSet 0 o.credits (m * 128 + f.dst) (smGet 0 o.credits (m * 128 + f.dst) - 1)
                 relayed := o.relayed ++ [(f.cargo.bulkKey, f.fn, f.beats)] }
    | _ => none

/-- The frames of an egress queue that can leave now leave: ordered frames to one panel in sequence, bulk frames as they
can. -/
def State.sendQueue (s : State) : List Frame → List Nat → List Frame → State × List Frame
  | [], _, kept => (s, kept.reverse)
  | f :: fs, blocked, kept =>
    if f.seq.isSome then
      if blocked.contains f.dst then s.sendQueue fs blocked (f :: kept)
      else match s.transmit f.dst f.beats with
        | some s => s.sendQueue fs blocked kept
        | none => s.sendQueue fs (f.dst :: blocked) (f :: kept)
    else match s.sendBulkNow f with
      | some s => s.sendQueue fs blocked kept
      | none => s.sendQueue fs blocked (f :: kept)

/-- Every optical edge die sends what it can. -/
def State.sendAll (s : State) : State :=
  (List.range 16).foldl (fun s k =>
    let (s, rest) := s.sendQueue (s.odie k).egress [] []
    s.modOdie k fun o => { o with egress := rest }) s

/-- The next slot begins; at a period boundary a replacement of the calendar takes effect (R430). -/
def State.nextSlot (s : State) : State :=
  let k := s.cal
  let wrap := k.s ≤ k.slot + 1
  let k := { k with slot := if wrap then 0 else k.slot + 1, began := k.began + 4800 }
  let k : Calendar := match k.next with
    | some es => if wrap then { k with entries := es, s := es.length / 16, epoch := (k.epoch + 1) % 65536, next := none } else k
    | none => k
  let s := (List.range 16).foldl (fun s g => s.modOdie g fun o => { o with busy := 0 }) { s with cal := k }
  { s.postPool (Config.sensor s.fresh) with fresh := s.fresh + 1 }

/-- A panel may be granted a credit for one frame of 64 payload beats while it will fit beside what is held and granted
(R435); whether it is, and to whom, is free. -/
def State.grantCredit (s : State) : State :=
  let (yes, s) := s.flip
  let (a, s) := s.unstated
  let (d, s) := s.unstated
  let a := a % 128
  let d := d % 128
  let k := odieFor a
  let o := s.odie k
  if !yes || a = s.panelNo || d = s.panelNo || a = d || s.sysPanels ≤ a || s.sysPanels ≤ d ||
      524288 < o.relayB + 64 * ((o.granted.map (·.2)).sum + 1) then s
  else
    (s.modOdie k fun o => { o with granted := smSet 0 o.granted (a * 128 + d) (smGet 0 o.granted (a * 128 + d) + 1) }).sendFrame
      a 0 (.credit d 1) 2

/-- CALENDAR_SLOT_START (R431). A calendar slot begins and frames may be sent. -/
def execCalendarSlotStart (s : State) : Out :=
  .next
    (if !s.hasOptical then s
   else if s.cycle < s.cal.began + 4800 then s.sendAll.defer .calendarSlotStart
   else (s.nextSlot.grantCredit.sendAll).defer .calendarSlotStart)

/-- CALENDAR_REPLACE (R430). A replaced calendar takes effect at a period boundary. -/
def execCalendarReplace (es : List (Option Nat)) (s : State) : Out :=
  eventIf (s.hasOptical && es.length % 16 = 0 && 16 ≤ es.length && es.length ≤ 1024 && es.all (fun e => e.all (· < 128)))
    ({ s with cal := { s.cal with next := some es } })

/-- OPTICAL_FRAME_RETRY (R428). A frame failing its CRC is sent again. -/
def execOpticalFrameRetry (k : Nat) (f : Frame) (s : State) : Out :=
  eventIf (s.hasOptical && k < 16 && f.src = s.panelNo)
    (let s := s.bankError 3 k 0x0B 0 0
   (s.postPool (f.beats * nominalEntry.getD 20 0)).modOdie (odieFor f.dst) fun o => { o with egress := f :: o.egress })

/-- PORT_GROUP_DOWN (R428). A port group whose fibres fail is marked down. -/
def execPortGroupDown (k : Nat) (s : State) : Out :=
  eventIf (s.hasOptical && k < 16)
    (let s := s.bankError 3 k 0x0C 0 0
   let (t, s) := s.unstated
   let (r, s) := s.unstated
   s.modOdie k fun o => { o with up := false, txf := t % 9, rxf := r % 9 })

/-! ## Accesses that arrive from another panel (R156, R163) -/

/-- An error that an optical edge die records. -/
def State.odieError (s : State) (k cls : Nat) (a : Word) : State :=
  s.bankError 3 k cls 0 a

/-- The rights that an access of another panel needs of the leaf. -/
def HomeOp.need : HomeOp → Nat
  | .load _ _ => rightR
  | .store _ _ => rightW
  | .check _ _ => rightW
  | _ => rightR + rightW

/-- The unit and address of an access from another panel that needs rights `need`: the pinned translation of the port of
the edge die that receives it (R163), and at level L the rights of R452. -/
def State.arriveAt (s : State) (k f level : Nat) (a need : Nat) (da : Word) : Except Cause (State × Dest × Nat) × State :=
  let lease := (s.fn f).lease
  let write := need &&& rightW != 0
  let seg : Cause := { code := cSeg, detail := 3, tval := da }
  if a < hbmBase then
    let d := unitAt a
    if level = 2 && !s.leaseHolds lease (ownerCore d a) then (.error seg, s) else (.ok (s, d, a), s)
  else if level = 2 && (!(s.lse lease).live || (write && !(s.lse lease).rights.getLsbD 3)) then (.error seg, s)
  else
    let fatal (s : State) : Except Cause (State × Dest × Nat) × State :=
      (.error { code := cFatal, tval := da }, s.odieError k 0x0E da)
    match s.translate (edgePort + k) f lease level (a - hbmBase) need true (bit write) with
    | .ok s2 pa _ => (.ok (s2, .hbm, hbmBase + pa), s)
    | .miss s2 _ _ _ => fatal s2
    | .fatal s2 => fatal s2
    | .ue s2 => fatal s2

/-- An operation at another address. -/
def HomeOp.moved (x : Nat) : HomeOp → HomeOp
  | .load _ n => .load x n
  | .store _ bs => .store x bs
  | .atomic o w _ b c => .atomic o w x b c
  | .drain t _ => .drain t x
  | .fill _ bs => .fill x bs
  | .probe _ => .probe x
  | .clear _ => .clear x
  | .waitgen _ g => .waitgen x g
  | .arm _ n => .arm x n
  | .addgen _ n => .addgen x n
  | .check _ n => .check x n

/-- A request from panel `p` enters the mesh at die `k`. -/
def State.takeRequest (s : State) (k p : Nat) (r : Request) : State :=
  let r := { r with thread := foreignThread p r.thread, since := s.cycle }
  match s.arriveAt k r.fn r.level r.op.addr r.op.need r.da with
  | (.ok (s, d, x), _) => s.launchItem (.request { r with unit := d, op := r.op.moved x }) false
  | (.error c, s) => s.answerTo r (.trap (if c.code = cSeg then { c with tval := r.ea } else c))

/-- A journal entry of panel `p` enters the mesh at die `k`. -/
def State.takeForeign (s : State) (k p c i : Nat) (e : JEntry) : State :=
  let e := { e with since := s.cycle }
  match e.kind with
  | .inbox _ _ => s.launchItem (.foreign p c i e) false
  | .spawn _ _ => s.launchItem (.foreign p c i e) false
  | _ =>
    match s.arriveAt k e.fn e.level e.addr rightW e.report with
    | (.ok (s, d, x), _) => s.launchItem (.foreign p c i { e with unit := d, addr := x }) false
    | (.error f, s) => s.sendFrame p e.fn (.ack c i e.seq (if f.code = cFatal then 7 else 2)) 2

/-! ## Replies and the import buffer (R188, R190) -/

/-- An ordered reply to a relaxed load installs its granule in the serving buffer, unless an acquire or a fill in the way
forbids it. -/
def State.install (s : State) (p t gen : Nat) (g : Option (List Byte)) : State :=
  let th := s.thr t
  let b := bufferOf (coreOf t)
  match g, th.op.todo with
  | some bs, a :: _ =>
    let n := a.op.addr / 64
    if t < 2 ^ 20 && th.gen.toNat = gen && th.away && th.op.relaxed && a.dest == .panel p && !bitAt (s.fn th.fn).scopemax 4 &&
        !s.fillBlocked b th.fn p n then
      (s.modOdie b fun o =>
        { o with imports := (o.imports.filter fun e => !(e.fn == th.fn && e.panel == p && e.granule == n)) ++
            [{ fn := th.fn, lease := th.lease, panel := p, granule := n, bytes := bs, ends := s.cycle + 30000 }] }).dueOnce
        (.importEntryExpiry b th.fn n)
    else s
  | _, _ => s

/-! ## Gang gates and slices (R438, R439) -/

/-- Panels of a gang other than this one. -/
def State.gangPanels (s : State) (f : Nat) : List Nat :=
  (List.range s.sysPanels).filter fun p => p != s.panelNo && Config.gangPanel f p

/-- The start of the next calendar period. -/
def State.nextPeriod (s : State) : Nat := s.cal.began + 4800 * (max 1 s.cal.s - s.cal.slot)

/-- A held frame gives up its place: nothing is left of it but its sequence number. -/
def Frame.emptied (f : Frame) : Frame := { f with cargo := .empty, beats := 2, fn := 0 }

/-- A frame that is discarded is a posted entry of a core: it is refused with EXPIRED. -/
def State.discardFrame (s : State) (f : Frame) : State :=
  match f.cargo with
  | .entry c i e => s.entryRefused c i e.seq 8
  | _ => s

/-- A slice is aborted on this panel (R439). -/
def State.abortSlice (s : State) (f : Nat) : State :=
  let held := (List.range 16).flatMap fun k => (s.odie k).notRes.filter fun x => x.fn == f
  let s := held.foldl State.discardFrame s
  let s := (List.range 16).foldl (fun s k => s.modOdie k fun o =>
    let gone := o.notRes.filter fun x => x.fn == f
    { o with notRes := o.notRes.filter fun x => x.fn != f
             relayB := o.relayB - (gone.map fun x => x.beats - 1).sum
             egress := (gone.filter (·.seq.isSome)).map Frame.emptied ++ o.egress }) s
  let s := (s.gangHold f).modFn f fun k => { k with gateOpen := false, gateLate := true }
  (s.leaseEvent (s.fn f).lease (contextEvent 0x90 f)).due (.gangSliceBoundary f s.nextPeriod)

/-- The slice of a gang is in force and not yet settled. -/
def Func.slicing (k : Func) : Bool := k.isGang && k.st != .none && !k.gateLate

/-- GANG_SLICE_BOUNDARY (R438). At a gang slice start boundary G the partition engine ends the running context's slice and begins the next context's slice. -/
def execGangSliceBoundary (f g : Nat) (s : State) : Out :=
  eventIf (f < 512)
    (if !(s.fn f).isGang || (s.fn f).st = .none then s
   else if s.cycle < g then s.defer (.gangSliceBoundary f g)
   else s.beginSlice f g)

/-- GATE_OPEN (R438). A panel opens its gang slice gate and sends gate notices. -/
def execGateOpen (f : Nat) (s : State) : Out :=
  eventIf (f < 512)
    (let k := s.fn f
   if !k.slicing || k.gateOpen || k.sliceG + 1500 * k.gangTol < s.cycle then s
   else if k.st = .evicted || s.rivals f != [] || s.busyOrder false f then s.defer (.gateOpen f)
   else (s.gangPanels f).foldl (fun s p => s.sendFrame p f (.gate f k.slice) 2)
     ((s.gangFree f).modFn f fun k => { k with gateOpen := true }))

/-- GATE_NOTICE (R438). A gate notice from a gang panel is received. -/
def execGateNotice (f p : Nat) (s : State) : Out :=
  eventIf (f < 512 && p < 128)
    (s.modFn f fun k => { k with notices := keyAdd k.notices p })

/-- GANG_SLICE_ABORT (R439). A gang slice is aborted when its tolerance expires or an abort notice arrives. -/
def execGangSliceAbort (f : Nat) (s : State) : Out :=
  eventIf (f < 512)
    (let k := s.fn f
   let limit := k.sliceG + 1500 * k.gangTol
   let heard := (s.gangPanels f).all k.notices.contains
   if !k.slicing || (k.gateOpen && heard) then s
   else if (!k.gateOpen && limit < s.cycle) || (!heard && limit + 4800 * s.cal.s < s.cycle) then
     (s.gangPanels f).foldl (fun s p => s.sendFrame p f (.abort f k.slice) 2) (s.abortSlice f)
   else s.defer (.gangSliceAbort f))

/-! ## Receiving (R433, R434, R438) -/

/-- A bulk part that went by relay has been acknowledged: RELAY and the beats of the second hop are settled (R435). -/
def State.settleRelay (s : State) (k : Nat) (key : List Nat) : State :=
  match (s.odie k).relayed.find? fun x => x.1 == key with
  | some x =>
    let s := s.modOdie k fun o => { o with relayed := o.relayed.erase x }
    (s.post x.2.1 21 ((x.2.2 - 1) * nominalEntry.getD 21 0)).post x.2.1 20 (x.2.2 * nominalEntry.getD 20 0)
  | none => s

/-- The address of a write of a bulk chunk on this panel. -/
def State.bulkPlace (s : State) (k f level : Nat) (w : Word × List Byte) : Except Cause (State × Dest × Nat) × State :=
  match s.locate w.1 with
  | none => (.error { code := cSeg, detail := 2, tval := w.1 }, s)
  | some (d, x) => s.arriveAt k f level (if d = .hbm then hbmBase + x else x) rightW w.1

/-- A write of a chunk waits for the context of its unit: the unit's core is restoring or frozen, or traffic for it is held
before (R311). -/
def State.unitHeld (s : State) (d : Dest) : Bool :=
  match contextOf d with
  | some c => (s.core c).away || (s.core c).place.held != []
  | none => false

/-- Performs the writes of a bulk chunk: all of them, none with the fault one of them meets, or none yet where a word is
held or a unit is away. -/
def State.bulkWrites (s : State) (k f level : Nat) : List (Word × List Byte) → Option (Except Cause State)
  | [] => some (.ok s)
  | w :: ws =>
    match s.bulkPlace k f level w with
    | (.error c, _) => some (.error c)
    | (.ok (s2, d, x), _) =>
      if s2.unitAbsent d || level < 2 && !s2.ownerOk f d x then some (.error { code := cSeg, detail := 3, tval := w.1 })
      else if s2.unitHeld d || (wordsOf x w.2.length).any s2.wordHeld then none
      else match s2.storeRuns f [(x, w.2)] with
        | none => some (.error { code := cMemUe, tval := w.1 })
        | some s3 => s3.bulkWrites k f level ws

/-- The chunk of an operation that is written next. -/
def ODie.nextChunk (o : ODie) (src op : Nat) : Nat :=
  match o.chunks.find? fun x => x.1 == src && x.2.1 == op with
  | some x => x.2.2
  | none => 0

/-- Notes that a chunk of an operation has been written; an earlier operation of the same copy slot is forgotten. -/
def ODie.chunkWritten (o : ODie) (src op chunk : Nat) : ODie :=
  { o with chunks := (src, op, chunk + 1) :: o.chunks.filter fun x => !(x.1 == src && x.2.1 % 2 ^ 22 == op % 2 ^ 22) }

/-- A bulk frame for this panel acts: the state, or nothing while it waits for the chunks before it, a held word or its
collective's run (R434, R354). -/
def State.bulkAct (s : State) (k : Nat) (f : Frame) : Option State :=
  match f.cargo with
  | .bulk op chunk g level ws =>
    if (s.odie k).nextChunk f.src op != chunk then none
    else match s.bulkWrites k g level ws with
      | none => none
      | some (.error c) =>
        let s := if c.code = cFatal then s.odieError k 0x0E c.tval else s
        some ((s.modOdie k fun o => o.chunkWritten f.src op chunk).sendFrame f.src g (.bulkAck op chunk (some c)) 2)
      | some (.ok s) =>
        some ((s.modOdie k fun o => o.chunkWritten f.src op chunk).sendFrame f.src g (.bulkAck op chunk none) 2)
  | .chunk g cid run d sig c =>
    match s.collChunkIn g cid run d sig c with
    | none => none
    | some (s, none) => some s
    | some (s, some ph) =>
      let (from_, rank) := match s.collOf d g cid with
        | some x => ((s.coll d x).members.getD c.rank 0 % 1024, (s.coll d x).rank)
        | none => (0, 0)
      some (s.sendFrame f.src g (.chunkAck cid run from_ rank c.off ph) 2)
  | _ => some s

/-- Bulk frames that wait at a die act when they can; their room in the relay buffer is given back. -/
def State.drainBulk (s : State) (k : Nat) : List Frame → State
  | [] => s
  | f :: fs =>
    match s.bulkAct k f with
    | some s2 => (s2.modOdie k fun o => { o with bulk := o.bulk.erase f, relayB := o.relayB - (f.beats - 1) }).drainBulk k fs
    | none => s.drainBulk k fs

/-- An ordered frame is released into the mesh. -/
def State.release1 (s : State) (k : Nat) (f : Frame) : State :=
  match f.cargo with
  | .request r => s.takeRequest k f.src r
  | .entry c i e => s.takeForeign k f.src c i e
  | .answer t gen r g =>
    let s := s.install f.src t gen g
    s.launchItem (.answer t gen r (t < 2 ^ 20 && (s.thr t).flyHold == .remote) s.cycle) true
  | .ack c i q code => match s.entryAt? c i q with
    | some e =>
      if code = 0 then s.entryDone c i q
      else (if code = 7 then s.quadError c 0x0E (slotOf e.thread) e.report else s).entryRefused c i q code
    | none => s.stale c
  | .queued t gen => s.due (.feQueuedNotice t gen)
  | .grant t gen r => s.launchItem (.grant f.src t gen r) true
  | .confirm t gen ok => match s.heldGrant (foreignThread f.src t) gen with
    | some (q, w) => (s.endGrant q w ok).1
    | none => s
  | .gate g slice => if (s.fn g).slice = slice then s.due (.gateNotice g f.src) else s
  | .abort g slice => if (s.fn g).slice = slice && (s.fn g).slicing then s.abortSlice g else s
  | .hold cid run d rank resume => match s.collOf d f.fn cid with
    | some x => s.collPeerHeld d x rank run resume
    | none => s
  | .collAbort cid run d => match s.collOf d f.fn cid with
    | some x => s.collAbortIn d x run
    | none => s
  | .chunkAck cid run d rank off ph =>
    (s.settleRelay k [f.fn, cid, run, off, ph]).collAckIn f.fn cid run d rank off ph
  | .bulkAck op chunk bad => (s.settleRelay k [op, chunk]).copyAcked op chunk bad
  | .credit d n => s.modOdie (odieFor d) fun o =>
      { o with credits := smSet 0 o.credits (f.src * 128 + d) (smGet 0 o.credits (f.src * 128 + d) + n) }
  | .notResident g seq beats c =>
    let x : Frame := { src := s.panelNo, dst := f.src, fn := g, seq := seq, cargo := c, beats := beats }
    (s.modOdie (odieFor f.src) fun o => { o with notRes := o.notRes ++ [x], relayB := o.relayB + (beats - 1) }).dueOnce
      (.notResidentResend (odieFor f.src))
  | _ => s

/-- The frame belongs to a gang whose gate is not open (R438); notices and what a refusal itself sends pass. -/
def State.gateShut (s : State) (f : Frame) : Bool :=
  (s.fn f.fn).isGang && !(s.fn f.fn).gateOpen && (match f.cargo with
    | .gate _ _ => false
    | .abort _ _ => false
    | .credit _ _ => false
    | .empty => false
    | .notResident _ _ _ _ => false
    | _ => true)

/-- NOT_RESIDENT goes back with the frame. -/
def State.refuseFrame (s : State) (f : Frame) : State :=
  s.sendFrame f.src 0 (.notResident f.fn f.seq f.beats f.cargo) f.beats

/-- Releases the frames of a panel that are next in sequence (R433). -/
def State.releaseFrames (s : State) (p : Nat) : Nat → State
  | 0 => s
  | n + 1 =>
    let k := odieFor p
    let o := s.odie k
    let next := smGet 0 o.expect p
    match o.early.find? fun f => f.src == p && f.seq == some next with
    | none => s
    | some f =>
      let s := s.modOdie k fun o => { o with early := o.early.erase f }
      if s.gateShut f then s.refuseFrame f
      else ((s.modOdie k fun o => { o with expect := smSet 0 o.expect p ((next + 1) % 2 ^ 32) }).release1 k f).releaseFrames p n

/-- Distance of a sequence number from the next one expected. -/
def seqAhead (next n : Nat) : Nat := (n + 2 ^ 32 - next) % 2 ^ 32

/-- A frame arrives over a port group (R433 to R435). -/
def State.receiveFrame (s : State) (f : Frame) : State :=
  if f.dst != s.panelNo then
    let k := odieFor f.src
    let n := smGet 0 (s.odie k).granted (f.src * 128 + f.dst)
    if f.seq.isSome || n = 0 then s
    else (s.modOdie k fun o =>
      { o with granted := smSet 0 o.granted (f.src * 128 + f.dst) (n - 1), relay := o.relay ++ [f]
               relayB := o.relayB + (f.beats - 1) }).dueOnce (.relayForward k)
  else
    let k := odieFor f.src
    match f.seq with
    | some n =>
      if 2 ^ 31 ≤ seqAhead (smGet 0 (s.odie k).expect f.src) n || (s.odie k).early.any (fun x => x.src == f.src && x.seq == f.seq)
      then s
      else (s.modOdie k fun o => { o with early := o.early ++ [f] }).releaseFrames f.src ((s.odie k).early.length + 1)
    | none =>
      if s.gateShut f then s.refuseFrame f
      else match s.bulkAct k f with
        | some s2 => s2.drainBulk k (s2.odie k).bulk
        | none => (s.modOdie k fun o => { o with bulk := o.bulk ++ [f], relayB := o.relayB + (f.beats - 1) }).dueOnce
            (.relayForward k)

/-- OPTICAL_FRAME_RECEIVE (R433). A frame is received, checked and released in sequence. -/
def execOpticalFrameReceive (k : Nat) (f : Frame) (s : State) : Out :=
  eventIf (s.hasOptical && k < 16 && f.src < 128 && f.dst < 128 && f.src != s.panelNo)
    (if (s.odie k).up then s.receiveFrame f else s)

/-- Frames held for other panels leave in a slot that reaches them. -/
def State.forwardRelays (s : State) (k : Nat) : List Frame → State
  | [] => s
  | f :: fs =>
    match s.transmit f.dst f.beats with
    | some s2 => (s2.modOdie k fun o => { o with relay := o.relay.erase f, relayB := o.relayB - (f.beats - 1) }).forwardRelays k fs
    | none => s.forwardRelays k fs

/-- RELAY_FORWARD (R435). A relaying panel forwards a held bulk frame to its destination. -/
def execRelayForward (k : Nat) (s : State) : Out :=
  eventIf (s.hasOptical && k < 16)
    (let s := s.forwardRelays k (s.odie k).relay
   let s := s.drainBulk k (s.odie k).bulk
   if (s.odie k).relay = [] && (s.odie k).bulk = [] then s else s.defer (.relayForward k))

/-- NOT_RESIDENT_RESEND (R438). A frame refused NOT_RESIDENT is sent again in the next direct slot. -/
def execNotResidentResend (k : Nat) (s : State) : Out :=
  eventIf (s.hasOptical && k < 16)
    (let o := s.odie k
   let now (f : Frame) : Bool := s.groups s.cal.slot f.dst != []
   let go := o.notRes.filter now
   let s := s.modOdie k fun o =>
     { o with notRes := o.notRes.filter fun f => !now f, relayB := o.relayB - (go.map fun f => f.beats - 1).sum
              egress := go ++ o.egress }
   if (s.odie k).notRes = [] then s else s.defer (.notResidentResend k))

end Sys2Proof.Machine
end

