-- ==== Sys2Proof/Machine/Vector.lean ====
section
/-! DEFINITION. The vector engine: majors 0x20 to 0x23 and EXT.W class 10 (R194 to R226). -/

namespace Sys2Proof.Machine

/-! ## Elements of the ALU forms (R195, R204 to R207) -/

/-- Prefix code of a type (R195). -/
def typeCode (w t : Nat) : Nat :=
  if t = 2 then (if w = 1 then 6 else 4)
  else if t = 3 then 5
  else if w = 0 then t
  else if w = 1 then 2 else 3

/-- Range of an integer type. -/
def typeRange (w t : Nat) : Int × Int :=
  let b := 8 <<< w
  if t = 1 then (0, (2 : Int) ^ b - 1) else (-(2 : Int) ^ (b - 1), (2 : Int) ^ (b - 1) - 1)

/-- Reading of an integer element. -/
def typeInt (w t x : Nat) : Int := if t = 1 then (x % 2 ^ (8 <<< w) : Nat) else signedOf (8 <<< w) x

/-- An integer result wrapped or clamped to a type. -/
def typeNarrow (w t : Nat) (sat : Bool) (v : Int) : Nat :=
  wrapInt (8 <<< w) (if sat then clampInt (typeRange w t) v else v)

/-- Minimum or maximum under an integer type. -/
def intMinMax (w t : Nat) (wantMax : Bool) (a b : Nat) : Nat :=
  if decide (typeInt w t a < typeInt w t b) == wantMax then b else a

/-- Integer element results of major 0x20 by OP (R205). -/
def aluIntOp (op w t : Nat) (sat : Bool) (a b d : Nat) : Nat :=
  let n := 8 <<< w
  match op with
  | 0 => typeNarrow w t sat (typeInt w t a + typeInt w t b)
  | 1 => typeNarrow w t sat (typeInt w t a - typeInt w t b)
  | 2 => typeNarrow w t sat (typeInt w t a * typeInt w t b)
  | 4 => intMinMax w t false a b
  | 5 => intMinMax w t true a b
  | 6 => intMinMax w t false d (typeNarrow w t true (typeInt w t a + typeInt w t b))
  | 7 => intMinMax w t true d (typeNarrow w t true (typeInt w t a + typeInt w t b))
  | 8 => a &&& b
  | 9 => a ||| b
  | 10 => a ^^^ b
  | 11 => if n ≤ b then 0 else (a <<< b) % 2 ^ n
  | 12 => if n ≤ b then 0 else a >>> b
  | _ => wrapInt n (signedOf n a / (2 : Int) ^ (min b n))

/-- Floating-point element results of major 0x20 by OP (R206). -/
def aluFloatOp (op f mode : Nat) (sat : Bool) (z a b d : Nat) : Nat × Flags :=
  let x := readNum f a
  let y := readNum f b
  let rdn := mode == 3
  let rnd (r : Num × Flags) (sat : Bool) : Nat × Flags :=
    let (v, fl) := roundTo f mode sat z r.1
    (v, fl ||| r.2)
  let sum := rnd (numAdd rdn x y) true
  let fold (wantMax : Bool) : Nat × Flags :=
    let (v, fl) := minMaxBits f wantMax d sum.1
    (v, fl ||| sum.2)
  match op with
  | 0 => rnd (numAdd rdn x y) sat
  | 1 => rnd (numAdd rdn x y.negate) sat
  | 2 => rnd (numMul x y) sat
  | 3 => rnd (numFma rdn x y (readNum f d)) sat
  | 4 => minMaxBits f false a b
  | 5 => minMaxBits f true a b
  | 6 => fold false
  | _ => fold true

/-- The forms of major 0x20 that round (R39, R198). -/
def aluRounds (op : Nat) : Bool := op ≤ 3 || op == 6 || op == 7

/-- The low `bits` of the scalar operand g(16 + k) (R197). -/
def Thread.scalarAt (th : Thread) (k : BitVec 3) (bits : Nat) : Nat := (th.reg (16 + k.toNat)).toNat % 2 ^ bits

/-- Source B of element `e`. -/
def Thread.srcB (th : Thread) (b : BitVec 3) (s : BitVec 1) (bits e : Nat) : Nat :=
  if s = 1 then th.scalarAt b bits else th.at b.toNat bits e

/-- A form of major 0x20 that writes elements (R204). -/
def aluBody (op : Nat) (d a b m : BitVec 3) (w : BitVec 2) (e : BitVec 1) (t : BitVec 2) (sc : BitVec 1) (o : UnitOp)
    (s : State) : Res :=
  let th := s.me
  let bits := 8 <<< w.toNat
  let flt := typeFloat t.toNat
  let mode := o.mode th
  let one (i z : Nat) : Option (Nat × Flags) :=
    if !th.on m e (i * bits / 32) then none
    else
      let x := th.at a.toNat bits i
      let y := th.srcB b sc bits i
      let z0 := th.at d.toNat bits i
      some (if flt then aluFloatOp op (typeCode w.toNat t.toNat) mode o.sat z x y z0
            else (aluIntOp op w.toNat t.toNat o.sat x y z0, 0#5))
  vecDone d.toNat bits (elemFold (flt && aluRounds op && mode == 4) one (List.range (elems w.toNat)) th.rndlfsr) s

/-- Condition code of R133 for a VCMP condition (R207). -/
def vcmpCode (c : Nat) : Nat :=
  match c with
  | 0 => 0
  | 1 => 4
  | 2 => 1
  | 3 => 2
  | _ => 3

/-- An integer comparison (R207). -/
def intCmp (c : Nat) (x y : Int) : Bool :=
  match c with
  | 0 => x == y
  | 1 => x != y
  | 2 => x < y
  | _ => x ≤ y

/-- VCMP (R207). -/
def vcmpBody (d a b m : BitVec 3) (w : BitVec 2) (e : BitVec 1) (t : BitVec 2) (sc : BitVec 1) (c : BitVec 3)
    (s : State) : Res :=
  let th := s.me
  let bits := 8 <<< w.toNat
  let per := 32 / bits
  let one (i : Nat) : Bool × Flags :=
    let x := th.at a.toNat bits i
    let y := th.srcB b sc bits i
    if typeFloat t.toNat then
      numCmp (vcmpCode c.toNat) (readNum (typeCode w.toNat t.toNat) x) (readNum (typeCode w.toNat t.toNat) y)
    else (intCmp c.toNat (typeInt w.toNat t.toNat x) (typeInt w.toNat t.toNat y), 0#5)
  let lane (l : Nat) : List (Bool × Flags) := (List.range per).map fun j => one (l * per + j)
  let live := th.onLanes m e
  let rs := live.map fun l => (l, lane l)
  let old := th.mask d.toNat
  let new := rs.foldl (fun (v : Nat) p =>
    let keep := v - (if v.testBit p.1 then 2 ^ p.1 else 0)
    if p.2.all (·.1) then keep + 2 ^ p.1 else keep) old.toNat
  let fl := rs.foldl (fun f p => p.2.foldl (fun f q => f ||| q.2) f) 0#5
  .done ((s.modMe fun th => th.setMask d.toNat (BitVec.ofNat 64 new)).raise s.cur fl)

/-- VSEL (R207). -/
def vselBody (d a b m : BitVec 3) (sc : BitVec 1) (s : State) : Res :=
  let th := s.me
  let vs := allLanes.map fun l =>
    some (if (th.mask m.toNat).getLsbD l then th.at a.toNat 32 l else th.srcB b sc 32 l)
  vecDone d.toNat 32 (vs, 0#5, th.rndlfsr) s

/-! ## Conversion and quantisation (R212 to R217) -/

/-- First source and destination element and count of a VCVT (R213). -/
def cvtRange (fs fd k : Nat) : Nat × Nat × Nat :=
  let ws := fmtWidth fs
  let wd := fmtWidth fd
  let n := 2048 / max ws wd
  (if ws < wd then k * n else 0, if wd < ws then k * n else 0, n)

/-- VCVT (R213). -/
def vcvtBody (d a k m : BitVec 3) (fs fd : BitVec 4) (e : BitVec 1) (o : UnitOp) (s : State) : Res :=
  let th := s.me
  let (s0, d0, n) := cvtRange fs.toNat fd.toNat k.toNat
  let wd := fmtWidth fd.toNat
  let one (i z : Nat) : Option (Nat × Flags) :=
    if !th.on m e ((d0 + i) * wd / 32) then none
    else some (convertBits fs.toNat fd.toNat (o.mode th) o.sat z (th.at a.toNat (fmtWidth fs.toNat) (s0 + i)))
  let (vs, fl, l) := elemFold (o.mode th == 4) one (List.range n) th.rndlfsr
  vecDone d.toNat wd (List.replicate d0 none ++ vs, fl, l) s

/-- Floor of log2 of a finite non-zero value. -/
def floorLog2 : Num → Int
  | .fin _ m e _ => e + Nat.log2 m
  | _ => 0

/-- The scale of a block (R214). -/
def blockScale (emax : Int) (xs : List Num) : Nat :=
  let big := xs.foldl (fun acc x => if x.isZero then acc else
    match acc with
    | none => some (floorLog2 x)
    | some b => some (max b (floorLog2 x))) none
  match big with
  | none => 127
  | some b => (clampInt (0, 254) (127 + b - emax)).toNat

/-- A value times 2^k. -/
def Num.shift (k : Int) : Num → Num
  | .fin n m e st => .fin n m (e + k) st
  | v => v

/-- VQNT (R214). -/
def vqntBody (d a k p : BitVec 3) (fd : BitVec 4) (o : UnitOp) (s : State) : Res :=
  let th := s.me
  let xs := allLanes.map fun l => readNum 4 (th.at a.toNat 32 l)
  let (el, bits, emax) : Nat × Nat × Int := if fd = 10 then (7, 8, 8) else (9, 4, 2)
  let bad := xs.any fun x => x.isNaN || x.isInf
  let sc := if bad then 255 else blockScale emax xs
  let one (i z : Nat) : Option (Nat × Flags) :=
    some (if bad then (0, 0#5)
          else roundTo el (o.mode th) true z ((xs.getD i qnan).shift (127 - (sc : Int))))
  let (vs, fl, l) := elemFold (o.mode th == 4) one allLanes th.rndlfsr
  let fl := if bad then fIf (xs.any fun x => x.isSig || x.isInf) fNV else fl
  let s1 := s.modMe fun th => th.put (16 + k.toNat) (BitVec.ofNat 64 sc)
  let s2 := s1.candidate (quadOf s.here) (tagOf o.pfx)
    { entry := 0, thread := s.cur, quant := true, core := quadIdx s.here, ins := allLanes.map (th.at a.toNat 32)
      outs := vs.map fun v => v.getD 0, fmt := fd.toNat, scale := sc }
  vecDone d.toNat bits (List.replicate (64 * p.toNat) none ++ vs, fl, l) s2

/-- VDQNT (R215). -/
def vdqntBody (d a k p : BitVec 3) (fs : BitVec 4) (o : UnitOp) (s : State) : Res :=
  let th := s.me
  let sc := th.scalarAt k 8
  let bits := if fs = 10 then 8 else 4
  let one (i z : Nat) : Option (Nat × Flags) :=
    some (roundTo 4 (o.mode th) o.sat z (scaledNum fs.toNat sc (th.at a.toNat bits (64 * p.toNat + i))))
  vecDone d.toNat 32 (elemFold (o.mode th == 4) one allLanes th.rndlfsr) s

/-- An outlier entry (R216). -/
def outlier (tag slot core idx v : Nat) : Word :=
  BitVec.ofNat 64 (2 ^ 63 + (tag % 4096) <<< 48 + (slot % 16) <<< 44 + (core % 4) <<< 42 + (idx % 64) <<< 32 + v % 2 ^ 32)

/-- The wide core of a core's quad. -/
def wideOf (c : Nat) : Nat := coreOfQuad (quadOf c) 3

/-- The oldest waiter of the outlier wait list is this instruction (R216). -/
def oqFirst (o : UnitOp) : List UnitOp → Bool
  | [] => true
  | w :: _ => w.thread == o.thread && w.replay == o.replay

/-- VQSPLIT (R216): it waits while the queue holds more than 192 entries or others wait before it. -/
def vqsplitBody (d a k m : BitVec 3) (o : UnitOp) (s : State) : Res :=
  let th := s.me
  let w := wideOf s.here
  let q := s.core w
  if 192 < q.oq.length || !oqFirst o q.oqWait then
    let listed := q.oqWait.any fun x => x.thread == o.thread && x.replay == o.replay
    let s := if listed then s else s.modCore w fun q => { q with oqWait := q.oqWait ++ [o] }
    let s := s.dueOnce (.vqsplitRelease (quadOf s.here))
    if o.replay then .keep s else .keep (s.park s.cur .engine { insn := some o.insn, phase := 2 })
  else
    let t := readNum 4 (th.scalarAt k 32)
    let isOut (l : Nat) : Bool :=
      match readNum 4 (th.at a.toNat 32 l) with
      | .nan _ => false
      | .inf _ => !t.isNaN && numLt t (.inf false)
      | .fin _ m e st => !t.isNaN && numLt t (.fin false m e st)
    let outs := allLanes.filter isOut
    let vs := allLanes.map fun l => some (if isOut l then 0 else th.at a.toNat 32 l)
    let es := outs.map fun l => outlier (tagOf o.pfx) (slotOf s.cur) (quadIdx s.here) l (th.at a.toNat 32 l)
    let mask := BitVec.ofNat 64 (outs.foldl (fun n l => n + 2 ^ l) 0)
    let s := s.modCore w fun q => { q with oq := q.oq ++ es, oqWait := q.oqWait.filter fun x =>
      !(x.thread == o.thread && x.replay == o.replay) }
    vecDone d.toNat 32 (vs, 0#5, th.rndlfsr) (s.modMe fun th => th.setMask m.toNat mask)

/-! ## Special forms (R218 to R224) -/

/-- VSHUP, VSHDN and VROT by OP (R219). -/
def shiftSrc (op n N i : Nat) : Bool × Nat :=
  match op with
  | 0 => if n ≤ i then (true, i - n) else (false, N - n + i)
  | 1 => if i + n < N then (true, i + n) else (false, i + n - N)
  | _ => (true, (i + N - n) % N)

/-- The lane shifts (R219). -/
def laneShift (op : Nat) (d a b : BitVec 3) (w : BitVec 2) (n : BitVec 7) (s : State) : Res :=
  let th := s.me
  let bits := 8 <<< w.toNat
  let N := elems w.toNat
  let vs := (List.range N).map fun i =>
    let (x, j) := shiftSrc op n.toNat N i
    some (th.at (if x then a else b).toNat bits j)
  vecDone d.toNat bits (vs, 0#5, th.rndlfsr) s

/-- VPERM (R219). -/
def vpermBody (d a b m : BitVec 3) (w : BitVec 2) (e : BitVec 1) (s : State) : Res :=
  let th := s.me
  let bits := 8 <<< w.toNat
  let N := elems w.toNat
  let vs := (List.range N).map fun i =>
    if th.on m e (i * bits / 32) then some (th.at a.toNat bits (th.at b.toNat bits i % N)) else none
  vecDone d.toNat bits (vs, 0#5, th.rndlfsr) s

/-- VBCAST (R220). -/
def vbcastBody (d : BitVec 3) (w : BitVec 2) (g : BitVec 5) (s : State) : Res :=
  let bits := 8 <<< w.toNat
  vecDone d.toNat bits (List.replicate (elems w.toNat) (some (s.gn g % 2 ^ bits)), 0#5, s.me.rndlfsr) s

/-- The element that g(16 + k) selects (R220). -/
def Thread.pick (th : Thread) (k : BitVec 3) (w : BitVec 2) : Nat := (th.reg (16 + k.toNat)).toNat % elems w.toNat

/-- VEXT (R220). -/
def vextBody (a k : BitVec 3) (w : BitVec 2) (g : BitVec 5) (u : BitVec 1) (s : State) : Res :=
  let bits := 8 <<< w.toNat
  let x := s.me.at a.toNat bits (s.me.pick k w)
  .done (s.setG g (if u = 1 then BitVec.ofNat 64 x else BitVec.ofInt 64 (signedOf bits x)))

/-- VINS (R220). -/
def vinsBody (d k : BitVec 3) (w : BitVec 2) (g : BitVec 5) (s : State) : Res :=
  let bits := 8 <<< w.toNat
  let i := s.me.pick k w
  let vs := (List.range (elems w.toNat)).map fun j => if j = i then some (s.gn g % 2 ^ bits) else none
  vecDone d.toNat bits (vs, 0#5, s.me.rndlfsr) s

/-- One combination of VRED or VSCAN; an absent element passes the other through, and under a stochastic add every
combination steps the LFSR (R39, R54, R55, R221). -/
def combine (op w t mode : Nat) (sat : Bool) (x y : Option Nat) (l : BitVec 32) : Option Nat × Flags × BitVec 32 :=
  let l1 := if typeFloat t && mode == 4 then lfsrStep l else l
  match x, y with
  | some a, some b =>
    if typeFloat t then
      let (v, fl) := aluFloatOp (if op = 0 then 0 else op + 3) (typeCode w t) mode sat (lfsrZ l1) a b 0
      (some v, fl, l1)
    else (some (aluIntOp (if op = 0 then 0 else if op ≤ 2 then op + 3 else op + 5) w t sat a b 0), 0#5, l1)
  | some a, none => (some a, 0#5, l1)
  | none, y => (y, 0#5, l1)

/-- One level of VRED: element i with element i + n/2 (R54). -/
def redLevel (f : Option Nat → Option Nat → BitVec 32 → Option Nat × Flags × BitVec 32) :
    List (Option Nat) → List (Option Nat) → BitVec 32 → List (Option Nat) × Flags × BitVec 32
  | x :: xs, y :: ys, l =>
    let (r, fl, l1) := f x y l
    let (rs, fl2, l2) := redLevel f xs ys l1
    (r :: rs, fl ||| fl2, l2)
  | _, _, l => ([], 0#5, l)

/-- All levels of VRED. -/
def redAll (f : Option Nat → Option Nat → BitVec 32 → Option Nat × Flags × BitVec 32) :
    Nat → List (Option Nat) → Flags → BitVec 32 → Option Nat × Flags × BitVec 32
  | 0, xs, fl, l => (xs.headD none, fl, l)
  | k + 1, xs, fl, l =>
    let h := xs.length / 2
    let (ys, g, l1) := redLevel f (xs.take h) (xs.drop h) l
    redAll f k ys (fl ||| g) l1

/-- The prefixes of VSCAN (R55). -/
def scanAll (f : Option Nat → Option Nat → BitVec 32 → Option Nat × Flags × BitVec 32) :
    Option Nat → List (Option Nat) → BitVec 32 → List (Option Nat) × Flags × BitVec 32
  | _, [], l => ([], 0#5, l)
  | p, x :: xs, l =>
    let (r, fl, l1) := f p x l
    let (rs, g, l2) := scanAll f r xs l1
    (r :: rs, fl ||| g, l2)

/-- The selected elements of a register. -/
def Thread.chosen (th : Thread) (a m : BitVec 3) (w : BitVec 2) (e : BitVec 1) : List (Option Nat) :=
  let bits := 8 <<< w.toNat
  (List.range (elems w.toNat)).map fun i => if th.on m e (i * bits / 32) then some (th.at a.toNat bits i) else none

/-- VRED (R54, R221). -/
def vredBody (d a m : BitVec 3) (w : BitVec 2) (e : BitVec 1) (t : BitVec 2) (op : BitVec 3) (o : UnitOp) (s : State) :
    Res :=
  let th := s.me
  let f := combine op.toNat w.toNat t.toNat (o.mode th) o.sat
  let (r, fl, l) := redAll f (8 - w.toNat) (th.chosen a m w e) 0#5 th.rndlfsr
  vecDone d.toNat (8 <<< w.toNat) (some (r.getD 0) :: List.replicate (elems w.toNat - 1) (some 0), fl, l) s

/-- VSCAN (R55, R221). -/
def vscanBody (d a m : BitVec 3) (w : BitVec 2) (e : BitVec 1) (t : BitVec 2) (op : BitVec 3) (o : UnitOp) (s : State) :
    Res :=
  let th := s.me
  let f := combine op.toNat w.toNat t.toNat (o.mode th) o.sat
  let xs := th.chosen a m w e
  let p0 := xs.headD none
  let (rs, fl, l) := scanAll f p0 (xs.drop 1) th.rndlfsr
  vecDone d.toNat (8 <<< w.toNat) ((p0 :: rs).map (fun x => some (x.getD 0)), fl, l) s

/-- The exact sum of terms under the special values of R49. -/
def exactSum (rdn : Bool) (ts : List (Num × Flags)) : Num × Flags :=
  let both := ts.any (fun t => t.1 == .inf false) && ts.any (fun t => t.1 == .inf true)
  let fl := ts.foldl (fun f t => f ||| t.2) (fIf both fNV)
  if both || ts.any (fun t => t.1.isNaN) then (qnan, fl)
  else match ts with
    | [] => (.fin false 0 0 false, fl)
    | t :: rest => (rest.foldl (fun acc x => (numAdd rdn acc x.1).1) t.1, fl)

/-- VDOT (R222). -/
def vdotBody (d a b m : BitVec 3) (w : BitVec 1) (e : BitVec 1) (t : BitVec 2) (o : UnitOp) (s : State) : Res :=
  let th := s.me
  let bits := 8 <<< w.toNat
  let per := 32 / bits
  let flt := typeFloat t.toNat
  let f := typeCode w.toNat t.toNat
  let mode := o.mode th
  let one (l z : Nat) : Option (Nat × Flags) :=
    if !th.on m e l then none
    else
      let js := (List.range per).map fun j => (th.at a.toNat bits (l * per + j), th.at b.toNat bits (l * per + j))
      let old := th.at d.toNat 32 l
      if flt then
        let x0 := readNum 4 old
        let ts := (x0, fIf x0.isSig fNV) :: js.map fun p =>
          let x := readNum f p.1
          let y := readNum f p.2
          let (v, fl) := numMul x y
          (v, fl ||| sigFlag [x, y])
        let (v, fl) := exactSum (mode == 3) ts
        let (r, g) := roundTo 4 mode o.sat z v
        some (r, fl ||| g)
      else
        let sum := js.foldl (fun (acc : Int) p => acc + typeInt w.toNat t.toNat p.1 * typeInt w.toNat t.toNat p.2)
          (signedOf 32 old)
        some (narrowInt 3 o.sat sum, 0#5)
  vecDone d.toNat 32 (elemFold (flt && mode == 4) one allLanes th.rndlfsr) s

/-- The transcendentals by OP: 2^x, log2, 1/x, 1/sqrt x (R223). -/
def transOp (op : Nat) (x : Num) : Num × Flags :=
  match op with
  | 0 => numExp2 x
  | 1 => numLog2 x
  | 2 => numDiv (numOfInt 1) x
  | _ => numRsq x

/-- A transcendental form (R223). -/
def transBody (op : Nat) (d a m : BitVec 3) (e : BitVec 1) (o : UnitOp) (s : State) : Res :=
  let th := s.me
  let one (l z : Nat) : Option (Nat × Flags) :=
    if !th.on m e l then none
    else
      let (v, fl) := transOp op (readNum 4 (th.at a.toNat 32 l))
      let (r, g) := roundTo 4 (o.mode th) o.sat z v
      some (r, fl ||| g)
  vecDone d.toNat 32 (elemFold (o.mode th == 4) one allLanes th.rndlfsr) s

/-- VSHADOW (R202): check values of the latched instruction's lanes. -/
def vshadowBody (s : State) : Res :=
  match s.me.latch with
  | none => .done s
  | some k =>
    let ck (v : BitVec 32) : BitVec 8 := BitVec.ofNat 8 (((toBytes 4 v.toNat).foldl (fun n b => n + b.toNat) 0) % 255)
    .done (s.modMe fun th =>
      { k.lanes.foldl (fun th p => th.setLane k.vd p.1 { th.lane k.vd p.1 with ck := ck p.2, c := true }) th with
        latch := none })

/-! ## Class 10 (R226) -/

/-- A 64-bit element as two lanes. -/
def twoLanes (x : Option Nat) : List (Option Nat) :=
  match x with
  | some v => [some (v % 2 ^ 32), some (v / 2 ^ 32)]
  | none => [none, none]

/-- The FP64 element forms by OP (R226). -/
def vdBody (op : Nat) (d a b m : BitVec 3) (e sc : BitVec 1) (o : UnitOp) (s : State) : Res :=
  let th := s.me
  let mode := o.mode th
  let one (j z : Nat) : Option (Nat × Flags) :=
    if !th.on m e (2 * j) then none
    else
      let y := if sc = 1 then (th.reg (16 + b.toNat)).toNat else th.at64 b.toNat j
      some (aluFloatOp op 14 mode o.sat z (th.at64 a.toNat j) y (th.at64 d.toNat j))
  let (vs, fl, l) := elemFold (op ≤ 3 && mode == 4) one (List.range 32) th.rndlfsr
  vecDone d.toNat 32 (vs.flatMap twoLanes, fl, l) s

/-- VDWID (R226): exact. -/
def vdwidBody (d a k m : BitVec 3) (e : BitVec 1) (s : State) : Res :=
  let th := s.me
  let one (j _ : Nat) : Option (Nat × Flags) :=
    if !th.on m e (2 * j) then none
    else some (convertBits 4 14 0 false 0 (th.at a.toNat 32 (32 * k.toNat + j)))
  let (vs, fl, l) := elemFold false one (List.range 32) th.rndlfsr
  vecDone d.toNat 32 (vs.flatMap twoLanes, fl, l) s

/-- VDNAR (R226). -/
def vdnarBody (d a k m : BitVec 3) (e : BitVec 1) (o : UnitOp) (s : State) : Res :=
  let th := s.me
  let one (j z : Nat) : Option (Nat × Flags) :=
    if !th.on m e (2 * j) then none else some (convertBits 14 4 (o.mode th) o.sat z (th.at64 a.toNat j))
  let (vs, fl, l) := elemFold (o.mode th == 4) one (List.range 32) th.rndlfsr
  vecDone d.toNat 32 (List.replicate (32 * k.toNat) none ++ vs, fl, l) s

/-! ## Memory forms (R208 to R211) -/

/-- Displacement of VLD and VST in units of 256 bytes. -/
def State.vea (s : State) (b : BitVec 5) (i : BitVec 6) : Word := s.g b + (sext i <<< 8)

/-- VLD (R209, R211). -/
def vldBody (d m : BitVec 3) (e : BitVec 1) (b : BitVec 5) (i : BitVec 6) (o : UnitOp) (s : State) : Res :=
  let sel := s.me.onLanes m e
  laneMem o true (fun s => s.reachBlock (s.vea b i) (s.me.on m e) rightR 0 o.replay) (fun _ => 0)
    (fun bs s => .done (s.modMe fun th => { th.writeVec d.toNat 32 (laneVals sel bs) with latch := none })) s

/-- VST (R209, R211). -/
def vstBody (d m : BitVec 3) (e : BitVec 1) (b : BitVec 5) (i : BitVec 6) (o : UnitOp) (s : State) : Res :=
  laneMem o false (fun s => s.reachBlock (s.vea b i) (s.me.on m e) rightW 1 o.replay)
    (fun l => (s.me.lane d.toNat l).data) (fun _ s => .done s) s

/-- Address of a lane of VLDX and VSTX (R210). -/
def State.xea (s : State) (b : BitVec 5) (x : BitVec 3) (h : BitVec 2) (l : Nat) : Word :=
  s.g b + (((s.me.lane x.toNat l).data.signExtend 64) <<< h.toNat)

/-- VLDX (R210, R211). -/
def vldxBody (d x m : BitVec 3) (e : BitVec 1) (b : BitVec 5) (h : BitVec 2) (o : UnitOp) (s : State) : Res :=
  let sel := s.me.onLanes m e
  laneMem o true (fun s => s.reachLanes (s.xea b x h) rightR 0 o.replay sel []) (fun _ => 0)
    (fun bs s => .done (s.modMe fun th => { th.writeVec d.toNat 32 (laneVals sel bs) with latch := none })) s

/-- VSTX (R210, R211). -/
def vstxBody (d x m : BitVec 3) (e : BitVec 1) (b : BitVec 5) (h : BitVec 2) (o : UnitOp) (s : State) : Res :=
  let sel := s.me.onLanes m e
  laneMem o false (fun s => s.reachLanes (s.xea b x h) rightW 1 o.replay sel [])
    (fun l => (s.me.lane d.toNat l).data) (fun _ s => .done s) s

/-! ## What every vector instruction reads and writes -/

/-- Registers and lanes a form of major 0x20 reads; `old` when it reads its destination. -/
def aluReads (th : Thread) (old : Bool) (d a b m : BitVec 3) (e sc : BitVec 1) : List (Nat × List Nat) :=
  let ls := th.onLanes m e
  [(a.toNat, ls)] ++ (if sc = 1 then [] else [(b.toNat, ls)]) ++ (if old then [(d.toNat, ls)] else [])

/-- Lanes of selected FP64 elements. -/
def Thread.on64 (th : Thread) (m : BitVec 3) (e : BitVec 1) : List Nat :=
  ((List.range 32).filter fun j => th.on m e (2 * j)).flatMap fun j => [2 * j, 2 * j + 1]

/-- Vector registers an instruction reads, with the lanes of each (R203). -/
def vecReads (i : Instr) (th : Thread) : List (Nat × List Nat) :=
  match i with
  | .vadd d a b m _ e _ s => aluReads th false d a b m e s
  | .vsub d a b m _ e _ s => aluReads th false d a b m e s
  | .vmul d a b m _ e _ s => aluReads th false d a b m e s
  | .vfma d a b m _ e _ s => aluReads th true d a b m e s
  | .vmin d a b m _ e _ s => aluReads th false d a b m e s
  | .vmax d a b m _ e _ s => aluReads th false d a b m e s
  | .vamin d a b m _ e _ s => aluReads th true d a b m e s
  | .vamax d a b m _ e _ s => aluReads th true d a b m e s
  | .vand d a b m _ e _ s => aluReads th false d a b m e s
  | .vor d a b m _ e _ s => aluReads th false d a b m e s
  | .vxor d a b m _ e _ s => aluReads th false d a b m e s
  | .vshl d a b m _ e _ s => aluReads th false d a b m e s
  | .vshr d a b m _ e _ s => aluReads th false d a b m e s
  | .vsha d a b m _ e _ s => aluReads th false d a b m e s
  | .vcmp d a b m _ e _ s _ => aluReads th false d a b m e s
  | .vsel _ a b m s =>
    [(a.toNat, th.onLanes m 1)] ++
      (if s = 1 then [] else [(b.toNat, allLanes.filter fun l => !(th.mask m.toNat).getLsbD l)])
  | .vst d m e _ _ => [(d.toNat, th.onLanes m e)]
  | .vldx _ x m e _ _ => [(x.toNat, th.onLanes m e)]
  | .vstx d x m e _ _ => [(x.toNat, th.onLanes m e), (d.toNat, th.onLanes m e)]
  | .vcvt _ a k m s f e =>
    let (s0, d0, n) := cvtRange s.toNat f.toNat k.toNat
    let wd := fmtWidth f.toNat
    [(a.toNat, lanesOf (fmtWidth s.toNat)
      (((List.range n).filter fun i => th.on m e ((d0 + i) * wd / 32)).map (s0 + ·)))]
  | .vqnt _ a _ _ _ => [(a.toNat, allLanes)]
  | .vdqnt _ a _ p s =>
    let bits := if s = 10 then 8 else 4
    [(a.toNat, lanesOf bits ((List.range 64).map (64 * p.toNat + ·)))]
  | .vqsplit _ a _ _ => [(a.toNat, allLanes)]
  | .vshup _ a b w n =>
    let bits := 8 <<< w.toNat
    let N := elems w.toNat
    [(a.toNat, lanesOf bits (List.range (N - n.toNat))),
     (b.toNat, lanesOf bits ((List.range n.toNat).map (N - n.toNat + ·)))]
  | .vshdn _ a b w n =>
    let bits := 8 <<< w.toNat
    let N := elems w.toNat
    [(a.toNat, lanesOf bits ((List.range (N - n.toNat)).map (n.toNat + ·))), (b.toNat, lanesOf bits (List.range n.toNat))]
  | .vrot _ a _ _ => [(a.toNat, allLanes)]
  | .vperm _ a b m w e =>
    let bits := 8 <<< w.toNat
    let live := (List.range (elems w.toNat)).filter fun i => th.on m e (i * bits / 32)
    [(a.toNat, lanesOf bits (live.map fun i => th.at b.toNat bits i % elems w.toNat)), (b.toNat, th.onLanes m e)]
  | .vext a k w _ _ => [(a.toNat, lanesOf (8 <<< w.toNat) [th.pick k w])]
  | .vred _ a m _ e _ _ => [(a.toNat, th.onLanes m e)]
  | .vscan _ a m _ e _ _ => [(a.toNat, th.onLanes m e)]
  | .vdot d a b m _ e _ => aluReads th true d a b m e 0
  | .vexp2 _ a m e => [(a.toNat, th.onLanes m e)]
  | .vlog2 _ a m e => [(a.toNat, th.onLanes m e)]
  | .vrcp _ a m e => [(a.toNat, th.onLanes m e)]
  | .vrsq _ a m e => [(a.toNat, th.onLanes m e)]
  | .vdadd _ a b m e s =>
    [(a.toNat, th.on64 m e)] ++ (if s = 1 then [] else [(b.toNat, th.on64 m e)])
  | .vdsub _ a b m e s =>
    [(a.toNat, th.on64 m e)] ++ (if s = 1 then [] else [(b.toNat, th.on64 m e)])
  | .vdmul _ a b m e s =>
    [(a.toNat, th.on64 m e)] ++ (if s = 1 then [] else [(b.toNat, th.on64 m e)])
  | .vdfma d a b m e s =>
    [(a.toNat, th.on64 m e)] ++ (if s = 1 then [] else [(b.toNat, th.on64 m e)]) ++ [(d.toNat, th.on64 m e)]
  | .vdmin _ a b m e s =>
    [(a.toNat, th.on64 m e)] ++ (if s = 1 then [] else [(b.toNat, th.on64 m e)])
  | .vdmax _ a b m e s =>
    [(a.toNat, th.on64 m e)] ++ (if s = 1 then [] else [(b.toNat, th.on64 m e)])
  | .vdwid _ a k m e _ =>
    [(a.toNat, ((List.range 32).filter fun j => th.on m e (2 * j)).map (32 * k.toNat + ·))]
  | .vdnar _ a _ m e _ => [(a.toNat, th.on64 m e)]
  | _ => []

/-- The vector register an instruction writes. -/
def vecWrites (i : Instr) : List Nat :=
  match i with
  | .vadd d _ _ _ _ _ _ _ => [d.toNat]
  | .vsub d _ _ _ _ _ _ _ => [d.toNat]
  | .vmul d _ _ _ _ _ _ _ => [d.toNat]
  | .vfma d _ _ _ _ _ _ _ => [d.toNat]
  | .vmin d _ _ _ _ _ _ _ => [d.toNat]
  | .vmax d _ _ _ _ _ _ _ => [d.toNat]
  | .vamin d _ _ _ _ _ _ _ => [d.toNat]
  | .vamax d _ _ _ _ _ _ _ => [d.toNat]
  | .vand d _ _ _ _ _ _ _ => [d.toNat]
  | .vor d _ _ _ _ _ _ _ => [d.toNat]
  | .vxor d _ _ _ _ _ _ _ => [d.toNat]
  | .vshl d _ _ _ _ _ _ _ => [d.toNat]
  | .vshr d _ _ _ _ _ _ _ => [d.toNat]
  | .vsha d _ _ _ _ _ _ _ => [d.toNat]
  | .vsel d _ _ _ _ => [d.toNat]
  | .vld d _ _ _ _ => [d.toNat]
  | .vldx d _ _ _ _ _ => [d.toNat]
  | .vcvt d _ _ _ _ _ _ => [d.toNat]
  | .vqnt d _ _ _ _ => [d.toNat]
  | .vdqnt d _ _ _ _ => [d.toNat]
  | .vqsplit d _ _ _ => [d.toNat]
  | .vshup d _ _ _ _ => [d.toNat]
  | .vshdn d _ _ _ _ => [d.toNat]
  | .vrot d _ _ _ => [d.toNat]
  | .vperm d _ _ _ _ _ => [d.toNat]
  | .vbcast d _ _ => [d.toNat]
  | .vins d _ _ _ => [d.toNat]
  | .vred d _ _ _ _ _ _ => [d.toNat]
  | .vscan d _ _ _ _ _ _ => [d.toNat]
  | .vdot d _ _ _ _ _ _ => [d.toNat]
  | .vexp2 d _ _ _ => [d.toNat]
  | .vlog2 d _ _ _ => [d.toNat]
  | .vrcp d _ _ _ => [d.toNat]
  | .vrsq d _ _ _ => [d.toNat]
  | .vdadd d _ _ _ _ _ => [d.toNat]
  | .vdsub d _ _ _ _ _ => [d.toNat]
  | .vdmul d _ _ _ _ _ => [d.toNat]
  | .vdfma d _ _ _ _ _ => [d.toNat]
  | .vdmin d _ _ _ _ _ => [d.toNat]
  | .vdmax d _ _ _ _ _ => [d.toNat]
  | .vdwid d _ _ _ _ _ => [d.toNat]
  | .vdnar d _ _ _ _ _ => [d.toNat]
  | _ => []

/-- The scalar operand of source B, where there is one. -/
def scalarB (b : BitVec 3) (s : BitVec 1) : List Nat := if s = 1 then [16 + b.toNat] else []

/-- Scalar registers an instruction reads and writes (R197). -/
def vecScalars (i : Instr) : List Nat × List Nat :=
  match i with
  | .vadd _ _ b _ _ _ _ s => (scalarB b s, [])
  | .vsub _ _ b _ _ _ _ s => (scalarB b s, [])
  | .vmul _ _ b _ _ _ _ s => (scalarB b s, [])
  | .vfma _ _ b _ _ _ _ s => (scalarB b s, [])
  | .vmin _ _ b _ _ _ _ s => (scalarB b s, [])
  | .vmax _ _ b _ _ _ _ s => (scalarB b s, [])
  | .vamin _ _ b _ _ _ _ s => (scalarB b s, [])
  | .vamax _ _ b _ _ _ _ s => (scalarB b s, [])
  | .vand _ _ b _ _ _ _ s => (scalarB b s, [])
  | .vor _ _ b _ _ _ _ s => (scalarB b s, [])
  | .vxor _ _ b _ _ _ _ s => (scalarB b s, [])
  | .vshl _ _ b _ _ _ _ s => (scalarB b s, [])
  | .vshr _ _ b _ _ _ _ s => (scalarB b s, [])
  | .vsha _ _ b _ _ _ _ s => (scalarB b s, [])
  | .vdadd _ _ b _ _ s => (scalarB b s, [])
  | .vdsub _ _ b _ _ s => (scalarB b s, [])
  | .vdmul _ _ b _ _ s => (scalarB b s, [])
  | .vdfma _ _ b _ _ s => (scalarB b s, [])
  | .vdmin _ _ b _ _ s => (scalarB b s, [])
  | .vdmax _ _ b _ _ s => (scalarB b s, [])
  | .vcmp _ _ b _ _ _ _ s _ => (scalarB b s, [])
  | .vsel _ _ b _ s => (scalarB b s, [])
  | .vld _ _ _ b _ => ([b.toNat], [])
  | .vst _ _ _ b _ => ([b.toNat], [])
  | .vldx _ _ _ _ b _ => ([b.toNat], [])
  | .vstx _ _ _ _ b _ => ([b.toNat], [])
  | .vqnt _ _ k _ _ => ([], [16 + k.toNat])
  | .vdqnt _ _ k _ _ => ([16 + k.toNat], [])
  | .vqsplit _ _ k _ => ([16 + k.toNat], [])
  | .vbcast _ _ g => ([g.toNat], [])
  | .vext _ k _ g _ => ([16 + k.toNat], [g.toNat])
  | .vins _ k _ g => ([g.toNat, 16 + k.toNat], [])
  | .vpopc _ g => ([], [g.toNat])
  | _ => ([], [])

/-- Prefixes that accept one code throughout. -/
def oneRule (f : Nat) : Option PfxRule := some { a := [f], b := [f], d := [f] }

/-- Prefixes of a pair of codes. -/
def twoRule (f g : Nat) : Option PfxRule := some { a := [f], b := [f], d := [g] }

/-- The prefixes a vector instruction accepts (R198). -/
def vecRule (i : Instr) : Option PfxRule :=
  match i with
  | .vadd _ _ _ _ w _ t _ => oneRule (typeCode w.toNat t.toNat)
  | .vsub _ _ _ _ w _ t _ => oneRule (typeCode w.toNat t.toNat)
  | .vmul _ _ _ _ w _ t _ => oneRule (typeCode w.toNat t.toNat)
  | .vfma _ _ _ _ w _ t _ => oneRule (typeCode w.toNat t.toNat)
  | .vamin _ _ _ _ w _ t _ => oneRule (typeCode w.toNat t.toNat)
  | .vamax _ _ _ _ w _ t _ => oneRule (typeCode w.toNat t.toNat)
  | .vred _ _ _ w _ t o => if o = 0 then oneRule (typeCode w.toNat t.toNat) else none
  | .vscan _ _ _ w _ t o => if o = 0 then oneRule (typeCode w.toNat t.toNat) else none
  | .vdot _ _ _ _ w _ t => twoRule (typeCode w.toNat t.toNat) (if typeFloat t.toNat then 4 else 3)
  | .vcvt _ _ _ _ s f _ => twoRule s.toNat f.toNat
  | .vqnt _ _ _ _ f => twoRule 4 f.toNat
  | .vdqnt _ _ _ _ s => twoRule s.toNat 4
  | .vqsplit _ _ _ _ => oneRule 4
  | .vexp2 _ _ _ _ => oneRule 4
  | .vlog2 _ _ _ _ => oneRule 4
  | .vrcp _ _ _ _ => oneRule 4
  | .vrsq _ _ _ _ => oneRule 4
  | .vdadd _ _ _ _ _ _ => oneRule 14
  | .vdsub _ _ _ _ _ _ => oneRule 14
  | .vdmul _ _ _ _ _ _ => oneRule 14
  | .vdfma _ _ _ _ _ _ => oneRule 14
  | .vdnar _ _ _ _ _ _ => twoRule 14 4
  | _ => none

/-- The access of VLD and VST lies in the thread's own TCM or own scratchpad, at a multiple of 256 (R199). -/
def State.blockNear (s : State) (b : BitVec 5) (i : BitVec 6) (need : Nat) : Bool :=
  match s.segCheck s.me (quadOf s.here) (s.vea b i) 256 need with
  | .ok (da, d, _) => pathOf s.here d == .own && da.toNat % 256 == 0
  | .error _ => false

/-- Unit cycles of an instruction of the executing thread (R199). -/
def State.vecCycles (s : State) (i : Instr) : Nat :=
  match i with
  | .vcvt _ _ _ _ _ _ _ => 2
  | .vqnt _ _ _ _ _ => 2
  | .vdqnt _ _ _ _ _ => 2
  | .vqsplit _ _ _ _ => 2
  | .vexp2 _ _ _ _ => 4
  | .vlog2 _ _ _ _ => 4
  | .vrcp _ _ _ _ => 4
  | .vrsq _ _ _ _ => 4
  | .vred _ _ _ _ _ _ _ => 8
  | .vscan _ _ _ w _ t _ => if typeFloat t.toNat then elems w.toNat else 8
  | .vld _ _ _ b j => if s.blockNear b j rightR then 1 else 2
  | .vst _ _ _ b j => if s.blockNear b j rightW then 1 else 2
  | .vldx _ _ _ _ _ _ => 4
  | .vstx _ _ _ _ _ _ => 4
  | .vshadow => (s.me.latch.map (·.cycles)).getD 1
  | _ => 1

/-- An instruction of EXT.W class 10, with its four cycles on the wide core's FP64 unit (R199). -/
def isWide64 (w : Half) : Bool := majorNat w == 0x38

/-- The cycles for which a latched instruction stands. -/
def State.latchCycles (s : State) (o : UnitOp) : Nat := if isWide64 o.word then 4 else s.vecCycles o.insn

/-- What a vector instruction does once its streams and checks are done. -/
def vecEffect (o : UnitOp) (s : State) : Res :=
  match o.insn with
  | .vadd d a b m w e t c => aluBody 0 d a b m w e t c o s
  | .vsub d a b m w e t c => aluBody 1 d a b m w e t c o s
  | .vmul d a b m w e t c => aluBody 2 d a b m w e t c o s
  | .vfma d a b m w e t c => aluBody 3 d a b m w e t c o s
  | .vmin d a b m w e t c => aluBody 4 d a b m w e t c o s
  | .vmax d a b m w e t c => aluBody 5 d a b m w e t c o s
  | .vamin d a b m w e t c => aluBody 6 d a b m w e t c o s
  | .vamax d a b m w e t c => aluBody 7 d a b m w e t c o s
  | .vand d a b m w e t c => aluBody 8 d a b m w e t c o s
  | .vor d a b m w e t c => aluBody 9 d a b m w e t c o s
  | .vxor d a b m w e t c => aluBody 10 d a b m w e t c o s
  | .vshl d a b m w e t c => aluBody 11 d a b m w e t c o s
  | .vshr d a b m w e t c => aluBody 12 d a b m w e t c o s
  | .vsha d a b m w e t c => aluBody 13 d a b m w e t c o s
  | .vcmp d a b m w e t sc c => vcmpBody d a b m w e t sc c s
  | .vsel d a b m c => vselBody d a b m c s
  | .vld d m e b i => vldBody d m e b i o s
  | .vst d m e b i => vstBody d m e b i o s
  | .vldx d x m e b h => vldxBody d x m e b h o s
  | .vstx d x m e b h => vstxBody d x m e b h o s
  | .vcvt d a k m fs fd e => vcvtBody d a k m fs fd e o s
  | .vqnt d a k p f => vqntBody d a k p f o s
  | .vdqnt d a k p f => vdqntBody d a k p f o s
  | .vqsplit d a k m => vqsplitBody d a k m o s
  | .vshup d a b w n => laneShift 0 d a b w n s
  | .vshdn d a b w n => laneShift 1 d a b w n s
  | .vrot d a w n => laneShift 2 d a a w n s
  | .vperm d a b m w e => vpermBody d a b m w e s
  | .vbcast d w g => vbcastBody d w g s
  | .vext a k w g u => vextBody a k w g u s
  | .vins d k w g => vinsBody d k w g s
  | .vred d a m w e t op => vredBody d a m w e t op o s
  | .vscan d a m w e t op => vscanBody d a m w e t op o s
  | .vdot d a b m w e t => vdotBody d a b m w e t o s
  | .vexp2 d a m e => transBody 0 d a m e o s
  | .vlog2 d a m e => transBody 1 d a m e o s
  | .vrcp d a m e => transBody 2 d a m e o s
  | .vrsq d a m e => transBody 3 d a m e o s
  | .vmand d a b => .done (s.modMe fun th => th.setMask d.toNat (th.mask a.toNat &&& th.mask b.toNat))
  | .vmor d a b => .done (s.modMe fun th => th.setMask d.toNat (th.mask a.toNat ||| th.mask b.toNat))
  | .vpopc a g => .done (s.setGn g (allLanes.countP fun l => (s.me.mask a.toNat).getLsbD l))
  | .vshadow => vshadowBody s
  | .vdadd d a b m e c => vdBody 0 d a b m e c o s
  | .vdsub d a b m e c => vdBody 1 d a b m e c o s
  | .vdmul d a b m e c => vdBody 2 d a b m e c o s
  | .vdfma d a b m e c => vdBody 3 d a b m e c o s
  | .vdmin d a b m e c => vdBody 4 d a b m e c o s
  | .vdmax d a b m e c => vdBody 5 d a b m e c o s
  | .vdwid d a k m e _ => vdwidBody d a k m e s
  | .vdnar d a k m e _ => vdnarBody d a k m e o s
  | _ => .done s

/-- A vector instruction at the unit: streams, check fields (R203), effect; every vector instruction but VSHADOW empties
the shadow latch, and one that writes lanes fills it again (R202). -/
def vecExec (o : UnitOp) (s : State) : Res :=
  let f : Form := { word := o.word, replay := o.replay }
  withVecStreams f ((vecReads o.insn s.me).map (·.1)) (vecWrites o.insn) (fun s =>
    match s.me.checkFail (vecReads o.insn s.me) with
    | some c => .trap s c
    | none =>
      match vecEffect o (if o.insn = .vshadow then s else s.modMe fun th => { th with latch := none }) with
      | .done s2 => .done (s2.modMe fun th =>
          { th with latch := th.latch.map fun k => { k with cycles := s.latchCycles o } })
      | r => r) s

/-! ## Issue (R199, R200, R411) -/

/-- A unit instruction of the executing thread is accepted: VF64 for class 10, otherwise its unit cycles (R409, R411). -/
def State.acceptVec (s : State) (o : UnitOp) : State :=
  if isWide64 o.word then s.chargeThread s.cur 3 1 else s.chargeThread s.cur 2 (s.vecCycles o.insn)

/-- Mask registers that an instruction reads and that the lanes of `vecReads` do not show. -/
def vecMasks (i : Instr) : List Nat :=
  match i with
  | .vld _ m e _ _ => if e = 1 then [m.toNat] else []
  | .vsel _ _ _ m _ => [m.toNat]
  | .vmand _ a b => [a.toNat, b.toNat]
  | .vmor _ a b => [a.toNat, b.toNat]
  | .vpopc a _ => [a.toNat]
  | _ => []

/-- Two threads hold the same vector and mask operands of an instruction (R335). -/
def vecSame (i : Instr) (a b : Thread) : Bool :=
  vecReads i a == vecReads i b && (vecReads i a).all (fun p => p.2.all fun l => a.lane p.1 l == b.lane p.1 l) &&
    (vecMasks i).all fun m => a.mask m == b.mask m

/-- Starts the unit's turn for a quad. -/
def State.vecDue (s : State) : State := s.dueOnce (.vectorUnitStart (quadOf s.here))

/-- A vector instruction at issue: executed at once when its core's queue is empty and the charge is taken (log entry 11),
otherwise queued or, with the queue full or the test failing, waiting for it; `phase` 2 says that the unit has started
it. -/
def vecIssue (insn : Instr) (word : Half) (s : State) : Res :=
  let o : UnitOp := { thread := s.cur, insn := insn, word := word, pfx := s.pending }
  let p := s.me.op
  let k := s.core s.here
  if p.phase = 2 || p.reply != .none || p.insn.isSome then vecExec o s
  else if k.vq = [] && k.vwait = [] && (2 ≤ s.level || s.quotaOk (quadOf s.here) s.me.fn) then
    vecExec o ((s.acceptVec o).modMe fun th => { th with op := { phase := 2 } })
  else
    let s := if k.vwait = [] && k.vq.length < 4 && (2 ≤ s.level || s.quotaOk (quadOf s.here) s.me.fn) then
        (s.acceptVec o).modCore s.here fun k => { k with vq := k.vq ++ [o] }
      else s.modCore s.here fun k => { k with vwait := k.vwait ++ [o] }
    .keep ((s.park s.cur .engine {}).vecDue)

/-- A vector instruction word. -/
def vecRun (insn : Instr) (word : Half) (s : State) : Out :=
  run { word := word, pfx := vecRule insn, srcs := (vecScalars insn).1, dsts := (vecScalars insn).2, same := vecSame insn }
    (vecIssue insn word) s

/-- VDADD (R226). FP64 vector addition. -/
def execVdadd (d : BitVec 3) (a : BitVec 3) (b : BitVec 3) (m : BitVec 3) (e : BitVec 1) (s : BitVec 1) (st : State)
      : Out :=
  vecRun (.vdadd d a b m e s) (56#6 ++ d ++ a ++ b ++ m ++ e ++ s ++ 0#6 ++ 0#4 ++ 2#2) st

/-- VDSUB (R226). FP64 vector subtraction. -/
def execVdsub (d : BitVec 3) (a : BitVec 3) (b : BitVec 3) (m : BitVec 3) (e : BitVec 1) (s : BitVec 1) (st : State)
      : Out :=
  vecRun (.vdsub d a b m e s) (56#6 ++ d ++ a ++ b ++ m ++ e ++ s ++ 0#6 ++ 1#4 ++ 2#2) st

/-- VDMUL (R226). FP64 vector multiplication. -/
def execVdmul (d : BitVec 3) (a : BitVec 3) (b : BitVec 3) (m : BitVec 3) (e : BitVec 1) (s : BitVec 1) (st : State)
      : Out :=
  vecRun (.vdmul d a b m e s) (56#6 ++ d ++ a ++ b ++ m ++ e ++ s ++ 0#6 ++ 2#4 ++ 2#2) st

/-- VDFMA (R226). FP64 vector fused multiply-add. -/
def execVdfma (d : BitVec 3) (a : BitVec 3) (b : BitVec 3) (m : BitVec 3) (e : BitVec 1) (s : BitVec 1) (st : State)
      : Out :=
  vecRun (.vdfma d a b m e s) (56#6 ++ d ++ a ++ b ++ m ++ e ++ s ++ 0#6 ++ 3#4 ++ 2#2) st

/-- VDMIN (R226). FP64 vector minimum. -/
def execVdmin (d : BitVec 3) (a : BitVec 3) (b : BitVec 3) (m : BitVec 3) (e : BitVec 1) (s : BitVec 1) (st : State)
      : Out :=
  vecRun (.vdmin d a b m e s) (56#6 ++ d ++ a ++ b ++ m ++ e ++ s ++ 0#6 ++ 4#4 ++ 2#2) st

/-- VDMAX (R226). FP64 vector maximum. -/
def execVdmax (d : BitVec 3) (a : BitVec 3) (b : BitVec 3) (m : BitVec 3) (e : BitVec 1) (s : BitVec 1) (st : State)
      : Out :=
  vecRun (.vdmax d a b m e s) (56#6 ++ d ++ a ++ b ++ m ++ e ++ s ++ 0#6 ++ 5#4 ++ 2#2) st

/-- VDWID (R226). Widens FP32 elements exactly to FP64. -/
def execVdwid (d : BitVec 3) (a : BitVec 3) (k : BitVec 3) (m : BitVec 3) (e : BitVec 1) (s : BitVec 1) (st : State)
      : Out :=
  vecRun (.vdwid d a k m e s) (56#6 ++ d ++ a ++ k ++ m ++ e ++ s ++ 0#6 ++ 6#4 ++ 2#2) st

/-- VDNAR (R226). Rounds FP64 elements into FP32 elements of a part. -/
def execVdnar (d : BitVec 3) (a : BitVec 3) (k : BitVec 3) (m : BitVec 3) (e : BitVec 1) (s : BitVec 1) (st : State)
      : Out :=
  vecRun (.vdnar d a k m e s) (56#6 ++ d ++ a ++ k ++ m ++ e ++ s ++ 0#6 ++ 7#4 ++ 2#2) st

/-- VADD (R205). Vector element addition. -/
def execVadd (d : BitVec 3) (a : BitVec 3) (b : BitVec 3) (m : BitVec 3) (w : BitVec 2) (e : BitVec 1) (t : BitVec 2)
      (s : BitVec 1) (st : State) : Out :=
  vecRun (.vadd d a b m w e t s) (32#6 ++ d ++ a ++ b ++ m ++ w ++ e ++ t ++ s ++ 0#2 ++ 0#3 ++ 0#3) st

/-- VSUB (R205). Vector element subtraction. -/
def execVsub (d : BitVec 3) (a : BitVec 3) (b : BitVec 3) (m : BitVec 3) (w : BitVec 2) (e : BitVec 1) (t : BitVec 2)
      (s : BitVec 1) (st : State) : Out :=
  vecRun (.vsub d a b m w e t s) (32#6 ++ d ++ a ++ b ++ m ++ w ++ e ++ t ++ s ++ 0#2 ++ 0#3 ++ 1#3) st

/-- VMUL (R205). Vector element multiplication. -/
def execVmul (d : BitVec 3) (a : BitVec 3) (b : BitVec 3) (m : BitVec 3) (w : BitVec 2) (e : BitVec 1) (t : BitVec 2)
      (s : BitVec 1) (st : State) : Out :=
  vecRun (.vmul d a b m w e t s) (32#6 ++ d ++ a ++ b ++ m ++ w ++ e ++ t ++ s ++ 0#2 ++ 0#3 ++ 2#3) st

/-- VFMA (R206). Vector fused multiply-add into the destination. -/
def execVfma (d : BitVec 3) (a : BitVec 3) (b : BitVec 3) (m : BitVec 3) (w : BitVec 2) (e : BitVec 1) (t : BitVec 2)
      (s : BitVec 1) (st : State) : Out :=
  vecRun (.vfma d a b m w e t s) (32#6 ++ d ++ a ++ b ++ m ++ w ++ e ++ t ++ s ++ 0#2 ++ 0#3 ++ 3#3) st

/-- VMIN (R205). Vector minimum. -/
def execVmin (d : BitVec 3) (a : BitVec 3) (b : BitVec 3) (m : BitVec 3) (w : BitVec 2) (e : BitVec 1) (t : BitVec 2)
      (s : BitVec 1) (st : State) : Out :=
  vecRun (.vmin d a b m w e t s) (32#6 ++ d ++ a ++ b ++ m ++ w ++ e ++ t ++ s ++ 0#2 ++ 0#3 ++ 4#3) st

/-- VMAX (R205). Vector maximum. -/
def execVmax (d : BitVec 3) (a : BitVec 3) (b : BitVec 3) (m : BitVec 3) (w : BitVec 2) (e : BitVec 1) (t : BitVec 2)
      (s : BitVec 1) (st : State) : Out :=
  vecRun (.vmax d a b m w e t s) (32#6 ++ d ++ a ++ b ++ m ++ w ++ e ++ t ++ s ++ 0#2 ++ 0#3 ++ 5#3) st

/-- VAMIN (R205). Minimum of the destination and a saturated sum. -/
def execVamin (d : BitVec 3) (a : BitVec 3) (b : BitVec 3) (m : BitVec 3) (w : BitVec 2) (e : BitVec 1) (t : BitVec
      2) (s : BitVec 1) (st : State) : Out :=
  vecRun (.vamin d a b m w e t s) (32#6 ++ d ++ a ++ b ++ m ++ w ++ e ++ t ++ s ++ 0#2 ++ 0#3 ++ 6#3) st

/-- VAMAX (R205). Maximum of the destination and a saturated sum. -/
def execVamax (d : BitVec 3) (a : BitVec 3) (b : BitVec 3) (m : BitVec 3) (w : BitVec 2) (e : BitVec 1) (t : BitVec
      2) (s : BitVec 1) (st : State) : Out :=
  vecRun (.vamax d a b m w e t s) (32#6 ++ d ++ a ++ b ++ m ++ w ++ e ++ t ++ s ++ 0#2 ++ 0#3 ++ 7#3) st

/-- VAND (R204). Vector bitwise AND. -/
def execVand (d : BitVec 3) (a : BitVec 3) (b : BitVec 3) (m : BitVec 3) (w : BitVec 2) (e : BitVec 1) (t : BitVec 2)
      (s : BitVec 1) (st : State) : Out :=
  vecRun (.vand d a b m w e t s) (32#6 ++ d ++ a ++ b ++ m ++ w ++ e ++ t ++ s ++ 0#2 ++ 1#3 ++ 0#3) st

/-- VOR (R204). Vector bitwise OR. -/
def execVor (d : BitVec 3) (a : BitVec 3) (b : BitVec 3) (m : BitVec 3) (w : BitVec 2) (e : BitVec 1) (t : BitVec 2)
      (s : BitVec 1) (st : State) : Out :=
  vecRun (.vor d a b m w e t s) (32#6 ++ d ++ a ++ b ++ m ++ w ++ e ++ t ++ s ++ 0#2 ++ 1#3 ++ 1#3) st

/-- VXOR (R204). Vector bitwise XOR. -/
def execVxor (d : BitVec 3) (a : BitVec 3) (b : BitVec 3) (m : BitVec 3) (w : BitVec 2) (e : BitVec 1) (t : BitVec 2)
      (s : BitVec 1) (st : State) : Out :=
  vecRun (.vxor d a b m w e t s) (32#6 ++ d ++ a ++ b ++ m ++ w ++ e ++ t ++ s ++ 0#2 ++ 1#3 ++ 2#3) st

/-- VSHL (R205). Vector shift left. -/
def execVshl (d : BitVec 3) (a : BitVec 3) (b : BitVec 3) (m : BitVec 3) (w : BitVec 2) (e : BitVec 1) (t : BitVec 2)
      (s : BitVec 1) (st : State) : Out :=
  vecRun (.vshl d a b m w e t s) (32#6 ++ d ++ a ++ b ++ m ++ w ++ e ++ t ++ s ++ 0#2 ++ 1#3 ++ 3#3) st

/-- VSHR (R205). Vector logical shift right. -/
def execVshr (d : BitVec 3) (a : BitVec 3) (b : BitVec 3) (m : BitVec 3) (w : BitVec 2) (e : BitVec 1) (t : BitVec 2)
      (s : BitVec 1) (st : State) : Out :=
  vecRun (.vshr d a b m w e t s) (32#6 ++ d ++ a ++ b ++ m ++ w ++ e ++ t ++ s ++ 0#2 ++ 1#3 ++ 4#3) st

/-- VSHA (R205). Vector arithmetic shift right. -/
def execVsha (d : BitVec 3) (a : BitVec 3) (b : BitVec 3) (m : BitVec 3) (w : BitVec 2) (e : BitVec 1) (t : BitVec 2)
      (s : BitVec 1) (st : State) : Out :=
  vecRun (.vsha d a b m w e t s) (32#6 ++ d ++ a ++ b ++ m ++ w ++ e ++ t ++ s ++ 0#2 ++ 1#3 ++ 5#3) st

/-- VCMP (R207). Vector compare writing one mask bit per lane. -/
def execVcmp (d : BitVec 3) (a : BitVec 3) (b : BitVec 3) (m : BitVec 3) (w : BitVec 2) (e : BitVec 1) (t : BitVec 2)
      (s : BitVec 1) (c : BitVec 3) (st : State) : Out :=
  vecRun (.vcmp d a b m w e t s c) (32#6 ++ d ++ a ++ b ++ m ++ w ++ e ++ t ++ s ++ 0#2 ++ 2#3 ++ c) st

/-- VSEL (R207). Selects lanes of va or vb by a mask. -/
def execVsel (d : BitVec 3) (a : BitVec 3) (b : BitVec 3) (m : BitVec 3) (s : BitVec 1) (st : State) : Out :=
  vecRun (.vsel d a b m s) (32#6 ++ d ++ a ++ b ++ m ++ 20#5 ++ s ++ 0#2 ++ 3#3 ++ 0#3) st

/-- VLD (R209). Loads 256 contiguous bytes into a vector register. -/
def execVld (d : BitVec 3) (m : BitVec 3) (e : BitVec 1) (b : BitVec 5) (i : BitVec 6) (s : State) : Out :=
  vecRun (.vld d m e b i) (33#6 ++ d ++ 0#6 ++ m ++ 0#2 ++ e ++ b ++ i) s

/-- VST (R209). Stores a vector register to 256 contiguous bytes. -/
def execVst (d : BitVec 3) (m : BitVec 3) (e : BitVec 1) (b : BitVec 5) (i : BitVec 6) (s : State) : Out :=
  vecRun (.vst d m e b i) (33#6 ++ d ++ 0#6 ++ m ++ 1#2 ++ e ++ b ++ i) s

/-- VLDX (R210). Gathers lanes from indexed addresses. -/
def execVldx (d : BitVec 3) (x : BitVec 3) (m : BitVec 3) (e : BitVec 1) (b : BitVec 5) (h : BitVec 2) (s : State) :
      Out :=
  vecRun (.vldx d x m e b h) (33#6 ++ d ++ 0#3 ++ x ++ m ++ 2#2 ++ e ++ b ++ 0#4 ++ h) s

/-- VSTX (R210). Scatters lanes to indexed addresses. -/
def execVstx (d : BitVec 3) (x : BitVec 3) (m : BitVec 3) (e : BitVec 1) (b : BitVec 5) (h : BitVec 2) (s : State) :
      Out :=
  vecRun (.vstx d x m e b h) (33#6 ++ d ++ 0#3 ++ x ++ m ++ 3#2 ++ e ++ b ++ 0#4 ++ h) s

/-- VCVT (R213). Converts a part of vector elements between formats. -/
def execVcvt (d : BitVec 3) (a : BitVec 3) (k : BitVec 3) (m : BitVec 3) (s : BitVec 4) (f : BitVec 4) (e : BitVec 1)
      (st : State) : Out :=
  vecRun (.vcvt d a k m s f e) (34#6 ++ d ++ a ++ k ++ m ++ s ++ f ++ e ++ 0#5) st

/-- VQNT (R214). Quantises 64 FP32 elements into one SB8 or SB4 block. -/
def execVqnt (d : BitVec 3) (a : BitVec 3) (k : BitVec 3) (p : BitVec 3) (f : BitVec 4) (s : State) : Out :=
  vecRun (.vqnt d a k p f) (34#6 ++ d ++ a ++ k ++ p ++ 4#4 ++ f ++ 0#1 ++ 1#5) s

/-- VDQNT (R215). Expands a block part into 64 FP32 elements. -/
def execVdqnt (d : BitVec 3) (a : BitVec 3) (k : BitVec 3) (p : BitVec 3) (s : BitVec 4) (st : State) : Out :=
  vecRun (.vdqnt d a k p s) (34#6 ++ d ++ a ++ k ++ p ++ s ++ 8#5 ++ 2#5) st

/-- VQSPLIT (R216). Moves outliers above a threshold into the wide core's outlier queue. -/
def execVqsplit (d : BitVec 3) (a : BitVec 3) (k : BitVec 3) (o : BitVec 3) (s : State) : Out :=
  vecRun (.vqsplit d a k o) (34#6 ++ d ++ a ++ k ++ o ++ 136#9 ++ 3#5) s

/-- VSHUP (R219). Shifts elements up, filling from vb. -/
def execVshup (d : BitVec 3) (a : BitVec 3) (b : BitVec 3) (w : BitVec 2) (n : BitVec 7) (s : State) : Out :=
  vecRun (.vshup d a b w n) (35#6 ++ d ++ a ++ b ++ 0#3 ++ 0#5 ++ w ++ n) s

/-- VSHDN (R219). Shifts elements down, filling from vb. -/
def execVshdn (d : BitVec 3) (a : BitVec 3) (b : BitVec 3) (w : BitVec 2) (n : BitVec 7) (s : State) : Out :=
  vecRun (.vshdn d a b w n) (35#6 ++ d ++ a ++ b ++ 0#3 ++ 1#5 ++ w ++ n) s

/-- VROT (R219). Rotates elements. -/
def execVrot (d : BitVec 3) (a : BitVec 3) (w : BitVec 2) (n : BitVec 7) (s : State) : Out :=
  vecRun (.vrot d a w n) (35#6 ++ d ++ a ++ 0#6 ++ 2#5 ++ w ++ n) s

/-- VPERM (R219). Permutes elements by indices. -/
def execVperm (d : BitVec 3) (a : BitVec 3) (b : BitVec 3) (m : BitVec 3) (w : BitVec 2) (e : BitVec 1) (s : State) :
      Out :=
  vecRun (.vperm d a b m w e) (35#6 ++ d ++ a ++ b ++ m ++ 3#5 ++ w ++ e ++ 0#6) s

/-- VBCAST (R220). Broadcasts a scalar to every element. -/
def execVbcast (d : BitVec 3) (w : BitVec 2) (s : BitVec 5) (st : State) : Out :=
  vecRun (.vbcast d w s) (35#6 ++ d ++ 0#9 ++ 4#5 ++ w ++ s ++ 0#2) st

/-- VEXT (R220). Extracts one element into a scalar register. -/
def execVext (a : BitVec 3) (k : BitVec 3) (w : BitVec 2) (g : BitVec 5) (u : BitVec 1) (s : State) : Out :=
  vecRun (.vext a k w g u) (35#6 ++ 0#3 ++ a ++ k ++ 0#3 ++ 5#5 ++ w ++ g ++ u ++ 0#1) s

/-- VINS (R220). Inserts a scalar into one element. -/
def execVins (d : BitVec 3) (k : BitVec 3) (w : BitVec 2) (s : BitVec 5) (st : State) : Out :=
  vecRun (.vins d k w s) (35#6 ++ d ++ 0#3 ++ k ++ 0#3 ++ 6#5 ++ w ++ s ++ 0#2) st

/-- VRED (R221). Reduces a vector in pairwise order into element 0. -/
def execVred (d : BitVec 3) (a : BitVec 3) (m : BitVec 3) (w : BitVec 2) (e : BitVec 1) (t : BitVec 2) (o : BitVec 3)
      (s : State) : Out :=
  vecRun (.vred d a m w e t o) (35#6 ++ d ++ a ++ 0#3 ++ m ++ 8#5 ++ w ++ e ++ t ++ o ++ 0#1) s

/-- VSCAN (R221). Forms left-to-right prefixes. -/
def execVscan (d : BitVec 3) (a : BitVec 3) (m : BitVec 3) (w : BitVec 2) (e : BitVec 1) (t : BitVec 2) (o : BitVec
      3) (s : State) : Out :=
  vecRun (.vscan d a m w e t o) (35#6 ++ d ++ a ++ 0#3 ++ m ++ 9#5 ++ w ++ e ++ t ++ o ++ 0#1) s

/-- VDOT (R222). Dot-accumulates lane elements into 32-bit lanes. -/
def execVdot (d : BitVec 3) (a : BitVec 3) (b : BitVec 3) (m : BitVec 3) (w : BitVec 1) (e : BitVec 1) (t : BitVec 2)
      (s : State) : Out :=
  vecRun (.vdot d a b m w e t) (35#6 ++ d ++ a ++ b ++ m ++ 10#5 ++ 0#1 ++ w ++ e ++ t ++ 0#4) s

/-- VEXP2 (R223). Computes 2^x per FP32 element. -/
def execVexp2 (d : BitVec 3) (a : BitVec 3) (m : BitVec 3) (e : BitVec 1) (s : State) : Out :=
  vecRun (.vexp2 d a m e) (35#6 ++ d ++ a ++ 0#3 ++ m ++ 16#5 ++ 2#2 ++ e ++ 0#6) s

/-- VLOG2 (R223). Computes log2 per element. -/
def execVlog2 (d : BitVec 3) (a : BitVec 3) (m : BitVec 3) (e : BitVec 1) (s : State) : Out :=
  vecRun (.vlog2 d a m e) (35#6 ++ d ++ a ++ 0#3 ++ m ++ 17#5 ++ 2#2 ++ e ++ 0#6) s

/-- VRCP (R223). Computes the reciprocal per element. -/
def execVrcp (d : BitVec 3) (a : BitVec 3) (m : BitVec 3) (e : BitVec 1) (s : State) : Out :=
  vecRun (.vrcp d a m e) (35#6 ++ d ++ a ++ 0#3 ++ m ++ 18#5 ++ 2#2 ++ e ++ 0#6) s

/-- VRSQ (R223). Computes the reciprocal square root per element. -/
def execVrsq (d : BitVec 3) (a : BitVec 3) (m : BitVec 3) (e : BitVec 1) (s : State) : Out :=
  vecRun (.vrsq d a m e) (35#6 ++ d ++ a ++ 0#3 ++ m ++ 19#5 ++ 2#2 ++ e ++ 0#6) s

/-- VMAND (R224). ANDs two mask registers. -/
def execVmand (d : BitVec 3) (a : BitVec 3) (b : BitVec 3) (s : State) : Out :=
  vecRun (.vmand d a b) (35#6 ++ d ++ a ++ b ++ 0#3 ++ 24#5 ++ 0#9) s

/-- VMOR (R224). ORs two mask registers. -/
def execVmor (d : BitVec 3) (a : BitVec 3) (b : BitVec 3) (s : State) : Out :=
  vecRun (.vmor d a b) (35#6 ++ d ++ a ++ b ++ 0#3 ++ 25#5 ++ 0#9) s

/-- VPOPC (R224). Counts the one bits of a mask. -/
def execVpopc (a : BitVec 3) (g : BitVec 5) (s : State) : Out :=
  vecRun (.vpopc a g) (35#6 ++ 0#3 ++ a ++ 0#6 ++ 26#5 ++ 0#2 ++ g ++ 0#2) s

/-- VSHADOW (R202). Recomputes the latched vector instruction and sets lane check values. -/
def execVshadow (s : State) : Out :=
  vecRun .vshadow (35#6 ++ 0#12 ++ 31#5 ++ 0#9) s

end Sys2Proof.Machine
end

