-- ==== Sys2Proof/Machine/Threads.lean ====
section
/-! DEFINITION. What happens to threads between their issues: replays of REP, the vector unit's turns, user interrupts,
the ends of kills, exits, sleeps and migrations, and the CSR writes with effects of their own (R69, R88 to R90, R100, R109
to R113, R143, R144, R199, R200, R216). -/

namespace Sys2Proof.Machine

/-! ## The register fields that a replay staggers (R69, R196, R251) -/

/-- A vector register field `d` further on. -/
def stagV (d : Nat) (f : BitVec 3) : BitVec 3 := f + BitVec.ofNat 3 d

/-- A mask field. -/
def stagM (d : Nat) (f : BitVec 3) : BitVec 3 := (f + BitVec.ofNat 3 d) &&& 3#3

/-- A mask field that is in use when ME = 1. -/
def stagIf (e : BitVec 1) (d : Nat) (f : BitVec 3) : BitVec 3 := if e = 1 then stagM d f else f

/-- A source B field: a vector register unless SC = 1. -/
def stagB (c : BitVec 1) (d : Nat) (f : BitVec 3) : BitVec 3 := if c = 1 then f else stagV d f

/-- A tile field. -/
def stagT (d : Nat) (f : BitVec 5) : BitVec 5 := (f + BitVec.ofNat 5 d) &&& 15#5

/-- A captured instruction with every vector, mask and tile field `n` further on; all other fields stay. -/
def staggered (n : Nat) (i : Instr) : Instr :=
  let v := stagV n
  let m := stagM n
  let t := stagT n
  match i with
  | .vadd d a b k w e ty c => .vadd (v d) (v a) (stagB c n b) (stagIf e n k) w e ty c
  | .vsub d a b k w e ty c => .vsub (v d) (v a) (stagB c n b) (stagIf e n k) w e ty c
  | .vmul d a b k w e ty c => .vmul (v d) (v a) (stagB c n b) (stagIf e n k) w e ty c
  | .vfma d a b k w e ty c => .vfma (v d) (v a) (stagB c n b) (stagIf e n k) w e ty c
  | .vmin d a b k w e ty c => .vmin (v d) (v a) (stagB c n b) (stagIf e n k) w e ty c
  | .vmax d a b k w e ty c => .vmax (v d) (v a) (stagB c n b) (stagIf e n k) w e ty c
  | .vamin d a b k w e ty c => .vamin (v d) (v a) (stagB c n b) (stagIf e n k) w e ty c
  | .vamax d a b k w e ty c => .vamax (v d) (v a) (stagB c n b) (stagIf e n k) w e ty c
  | .vand d a b k w e ty c => .vand (v d) (v a) (stagB c n b) (stagIf e n k) w e ty c
  | .vor d a b k w e ty c => .vor (v d) (v a) (stagB c n b) (stagIf e n k) w e ty c
  | .vxor d a b k w e ty c => .vxor (v d) (v a) (stagB c n b) (stagIf e n k) w e ty c
  | .vshl d a b k w e ty c => .vshl (v d) (v a) (stagB c n b) (stagIf e n k) w e ty c
  | .vshr d a b k w e ty c => .vshr (v d) (v a) (stagB c n b) (stagIf e n k) w e ty c
  | .vsha d a b k w e ty c => .vsha (v d) (v a) (stagB c n b) (stagIf e n k) w e ty c
  | .vcmp d a b k w e ty c o => .vcmp (m d) (v a) (stagB c n b) (stagIf e n k) w e ty c o
  | .vsel d a b k c => .vsel (v d) (v a) (stagB c n b) (m k) c
  | .vld d k e b j => .vld (v d) (stagIf e n k) e b j
  | .vst d k e b j => .vst (v d) (stagIf e n k) e b j
  | .vldx d x k e b h => .vldx (v d) (v x) (stagIf e n k) e b h
  | .vstx d x k e b h => .vstx (v d) (v x) (stagIf e n k) e b h
  | .vcvt d a p k fs fd e => .vcvt (v d) (v a) p (stagIf e n k) fs fd e
  | .vqnt d a k p f => .vqnt (v d) (v a) k p f
  | .vdqnt d a k p f => .vdqnt (v d) (v a) k p f
  | .vqsplit d a k o => .vqsplit (v d) (v a) k (m o)
  | .vshup d a b w j => .vshup (v d) (v a) (v b) w j
  | .vshdn d a b w j => .vshdn (v d) (v a) (v b) w j
  | .vrot d a w j => .vrot (v d) (v a) w j
  | .vperm d a b k w e => .vperm (v d) (v a) (v b) (stagIf e n k) w e
  | .vbcast d w g => .vbcast (v d) w g
  | .vext a k w g u => .vext (v a) k w g u
  | .vins d k w g => .vins (v d) k w g
  | .vred d a k w e ty o => .vred (v d) (v a) (stagIf e n k) w e ty o
  | .vscan d a k w e ty o => .vscan (v d) (v a) (stagIf e n k) w e ty o
  | .vdot d a b k w e ty => .vdot (v d) (v a) (v b) (stagIf e n k) w e ty
  | .vexp2 d a k e => .vexp2 (v d) (v a) (stagIf e n k) e
  | .vlog2 d a k e => .vlog2 (v d) (v a) (stagIf e n k) e
  | .vrcp d a k e => .vrcp (v d) (v a) (stagIf e n k) e
  | .vrsq d a k e => .vrsq (v d) (v a) (stagIf e n k) e
  | .vmand d a b => .vmand (m d) (m a) (m b)
  | .vmor d a b => .vmor (m d) (m a) (m b)
  | .vpopc a g => .vpopc (m a) g
  | .tld a b x => .tld a b (t x)
  | .tst a b x => .tst a b (t x)
  | .tzero d => .tzero (t d)
  | .tmov a d => .tmov (t a) (t d)
  | .ttrans a d => .ttrans (t a) (t d)
  | .tmma a b => .tmma (t a) (t b)
  | .taccr d h => .taccr (t d) h
  | .tsend a b r => .tsend (t a) b r
  | i => i

/-! ## Replays (R69, R70, R88, R89, R110, R160, R200, R211) -/

/-- The sequencer has a replay to place: in a bubble, or directly when none comes. -/
def State.replayDue (s : State) (t : Nat) : State := (s.dueOnce (.replayIssue t)).dueOnce (.replayForcedPlace t)

/-- REPSTATE of a fault of the next replay (R71). -/
def Rep.state (r : Rep) : BitVec 29 :=
  BitVec.ofNat 29 (2 ^ 28 + (r.s % 16) <<< 24 + ((r.k - 1) % 256) <<< 16 + ((r.caps.length - 1) % 16) <<< 12 +
    (r.j % 16) <<< 8 + r.i % 256)

/-- The buffer after a replay has been placed: the next captured instruction, or the next replay; none remains unissued after
the last (R70). -/
def Rep.advance (r : Rep) (now : Nat) : Rep :=
  let last := r.caps.length ≤ r.j + 1
  let i := if last then r.i + 1 else r.i
  { r with j := if last then 0 else r.j + 1, i := i, since := now, live := decide (i < r.k) }

/-- The scalar registers that a replay reads. -/
def State.replaySrcs (s : State) (o : UnitOp) (vec : Bool) : List Nat :=
  if vec then (vecScalars o.insn).1 else (matScalars o.insn (s.core s.here)).1

/-- The scalar registers that a replay writes. -/
def State.replayDsts (s : State) (o : UnitOp) (vec : Bool) : List Nat :=
  if vec then (vecScalars o.insn).2 else (matScalars o.insn (s.core s.here)).2

/-- The replay that the sequencer of the executing thread places next: the one that has come back to it, or the next of its
REP with what its scalar registers hold (R69). -/
def State.nextFlight (s : State) : Option Flight :=
  let th := s.me
  let r := th.rep
  match th.fly with
  | some f => if f.returned then some f else none
  | none =>
    if !th.toPlace then none
    else match r.caps[r.j]? with
      | none => none
      | some cap =>
        let vec := majorNat cap.word != 0x24
        let o : UnitOp := { thread := s.cur, insn := staggered (r.i * r.s) cap.insn, word := cap.word, pfx := cap.pfx
                            replay := true }
        some { o := o, vec := vec, state := r.state, scal := (s.replaySrcs o vec).map fun n => (n, th.reg n) }

/-- An instruction that waits for the thread's replays is taken up again, to find whether it still waits (R70, R110). -/
def State.freeHeld (s : State) (t : Nat) : State :=
  let th := s.thr t
  if !th.unissued && th.st == .parked .engine && th.op.again && !th.present then s.wakeSame t else s

/-- A replay has completed: the next one follows, and what waited for it may go on. -/
def State.replayDone (s : State) (t : Nat) : State :=
  let s := (s.modThr t fun th => { th with fly := none }).freeHeld t
  if (s.thr t).rep.live then s.replayDue t else s

/-- The thread after a replay fault: what is left of that REP is discarded, and the fault is due. An instruction that waits
for the replays, an exit, or a migration is given up for it (R100, R110, R144, R148). -/
def Thread.replayFault (th : Thread) (f : Flight) (c : Cause) : Thread :=
  let th : Thread := { th with repstate := f.state, rep := if th.rep.live then {} else th.rep, fly := none, repFault := some c }
  let held := match th.st with
    | .parked .engine => !th.present && (th.op.again || th.op.word != 0 || (th.op.aux == 0x54 && th.op.insn.isNone))
    | .parked .migrate => th.op.again
    | _ => false
  if held then { th with st := .run, op := {} } else th

/-- A replay faults: REPSTATE is written, and the fault waits for the thread's next issue (R110). -/
def State.replayFault (s : State) (t : Nat) (f : Flight) (c : Cause) : State :=
  let th := s.thr t
  let s := if th.st = .parked .migrate && th.op.again then
      (s.modCore th.op.aux fun k => { k with inbound := k.inbound.filter (· != t) }).dueOnce (.slotFill th.op.aux)
    else s
  s.modThr t fun th => th.replayFault f c

/-- The instruction takes a place in the matrix unit. -/
def usesMatrix (i : Instr) : Bool :=
  match i with
  | .twait _ _ _ => false
  | .tfree _ _ => false
  | .tadv _ _ => false
  | .mstat _ => false
  | _ => true

/-- What a replayed matrix instruction does. It has taken the unit, or takes it when it is free; a control instruction that
cannot act yet waits in the core's list (R241). -/
def matReplay (o : UnitOp) (s : State) : Res :=
  let k := s.core s.here
  match o.insn with
  | .twait a r d => ctrlBody 0 o.insn o.word a r.toNat d true s
  | .tfree a r => ctrlBody 1 o.insn o.word a r.toNat 0 true s
  | .tadv a r => ctrlBody 2 o.insn o.word a r.toNat 0 true s
  | .mstat d => .done (s.setG d (BitVec.ofNat 64 k.mstat))
  | _ =>
    match k.munit.filter fun u => u.thread == s.cur && u.replay with
    | some u => matTurn u s
    | none =>
      if s.me.flyOp.reply != .none then matTurn o s
      else if !k.unitIdle then .keep s
      else
        let o := { o with a := (matOperands o.insn s).1, b := (matOperands o.insn s).2 }
        matTurn o (s.modCore s.here fun k => { k with munit := some o })

/-- Executes the replay in flight of the executing thread, or takes it up again, on the scalar registers that it found at its
issue. -/
def State.replayRun (s : State) : State :=
  let t := s.cur
  let old := s.me
  match old.fly with
  | none => s
  | some f =>
    let o := f.o
    let dsts := s.replayDsts o f.vec
    let other := f.scal.filter fun p => old.reg p.1 != p.2
    let back (s : State) (keep : List Nat) : State :=
      s.restoreRegs t old ((other.map (·.1)).filter fun r => !keep.contains r)
    let s1 := s.modMe fun th => other.foldl (fun th p => th.put p.1 p.2) th
    let r := if f.vec then
        withStreams { word := o.word, srcs := (vecScalars o.insn).1, dsts := dsts, replay := true } (vecExec o) s1
      else withStreams { matForm o.insn o.word s1 with replay := true } (matReplay o) s1
    match r with
    | .done s => (back s dsts).replayDone t
    | .goto s _ => (back s dsts).replayDone t
    | .trap s c => (back s []).replayFault t f c
    | .keep s =>
      let s := back s []
      match (s.thr t).flyHold with
      | .none => if (s.thr t).fly.isSome then s.dueOnce (.replayIssue t) else s
      | .page => s.modThr t fun th => th.modFly fun f => { f with op := {}, o := { f.o with started := false } }
      | .remote => s

/-- The engine of a replay can take it now (R89, R199, R240). -/
def Core.replayRoom (k : Core) (f : Flight) : Bool :=
  if f.vec then k.vq == [] && k.vwait == [] else !usesMatrix f.o.insn || k.unitIdle

/-- Places the next replay of thread `t` in its engine, in a bubble or not: its issue and its acceptance are charged together
(R89, R411). -/
def State.replayStart (s : State) (t : Nat) (bubble : Bool) : State :=
  let c := coreOf t
  let s : State := { s with cur := t }
  match s.nextFlight with
  | none => s
  | some f =>
    if !s.mayAccept t then (s.quotaFail (quadOf c) (s.thr t).fn).replayDue t
    else if !(s.core c).replayRoom f then s.replayDue t
    else
      let s := (if bubble then s.spend c else s).chargeThread t 0 1
      let s := if f.vec then s.acceptVec f.o else s.acceptMat t f.o.insn
      let s := s.modThr t fun th =>
        { th with fly := some { f with op := { f.op with phase := 2 } }
                  rep := if th.fly.isSome then th.rep else th.rep.advance s.cycle }
      (s.freeHeld t).replayRun

/-- The next access of a replayed vector or tile form that reaches another unit; a remote one is the thread's one
outstanding access (R167, R211). -/
def State.replayAccess (s : State) (t : Nat) (a : Access) : State :=
  let th := s.thr t
  let c := coreOf t
  let r : Request := { thread := t, gen := th.gen.toNat, fn := th.fn, level := th.tsr.pl.toNat, unit := a.dest, op := a.op,
                       ea := a.ea, da := a.da, replay := true, since := s.cycle }
  let away := pathOf c a.dest == .remote || pathOf c a.dest == .far
  if !s.mayInject c th.fn th.tsr.pl.toNat then (s.quotaFail (quadOf c) th.fn).dueOnce (.replayIssue t)
  else if away && (th.outstanding || s.tagBusy t) then s.dueOnce (.replayIssue t)
  else if away then
    let s := ((s.route c a.dest).chargeAccess c th.fn a.dest a.op).modThr t fun th => th.modFly fun f =>
      { f with hold := .remote, op := { f.op with phase := 1, deadline := some (s.cycle + th.timeout) } }
    let s := s.due (.remoteTimeout t th.gen.toNat)
    match a.dest with
    | .panel n => s.sendFrame n th.fn (.request r) 2
    | _ => s.launchItem (.request r) false
  else if a.dest = .device then
    let (s, x) := s.deviceAccess a.ea a.op
    s.accessDone t true x
  else if th.tsr.pl.toNat < 2 && !s.ownerOk th.fn a.dest a.op.addr then
    s.accessDone t true (.trap { code := cSeg, detail := 3, tval := a.ea })
  else match (s.chargeAccess c th.fn a.dest a.op).performFor th.fn (.thread t th.gen.toNat false) a.da a.op with
    | .reply s2 x => s2.accessDone t true x
    | _ => s.dueOnce (.replayIssue t)

/-- A replay that the matrix unit executes by chunks waits for its last one. -/
def Core.replaying (k : Core) (t : Nat) : Bool :=
  match k.mop with
  | some m => m.op.thread == t && m.op.replay && !m.dead
  | none => false

/-- The replay in flight of a thread goes on. -/
def State.replayGo (s : State) (t : Nat) : State :=
  let s : State := { s with cur := t }
  match s.me.fly with
  | none => s
  | some f =>
    if f.hold != .none || f.returned || (s.core s.here).replaying t then s
    else match f.op.reply, f.op.todo with
      | .none, a :: _ => s.replayAccess t a
      | _, _ => s.replayRun

/-- REPLAY_ISSUE (R69). The repetition sequencer issues one replay in a bubble; one that is in flight goes on. -/
def execReplayIssue (t : Nat) (s : State) : Out :=
  eventIf (validThread t)
    (let th := s.thr t
   let k := s.core (coreOf t)
   if k.away then if th.replaying then s.defer (.replayIssue t) else s
   else if !th.toPlace then s.replayGo t
   else if k.mayPlace && s.bubble (coreOf t) then s.replayStart t true
   else s.replayDue t)

/-- REPLAY_FORCED_PLACE (R89). After 16 cycles without a bubble a replay is placed directly into its engine queue. -/
def execReplayForcedPlace (t : Nat) (s : State) : Out :=
  eventIf (validThread t)
    (let th := s.thr t
   if !th.toPlace then s
   else if !(s.core (coreOf t)).mayPlace || s.cycle < th.rep.since + 16 then s.defer (.replayForcedPlace t)
   else s.replayStart t false)

/-- The copies of a pair stand at the same word, and neither is inside one. -/
def State.aligned (s : State) (l : Nat) : Bool :=
  let a := s.thr l
  let b := s.thr (mateOf l)
  !a.tsr.pair || (slotOf l < 8 && b.st == .run && b.pc == a.pc && !b.present && !b.op.again)

/-- A thread that is about to issue a word of its own: not inside one, not answered, not capturing for REP. -/
def Thread.fresh (th : Thread) : Bool := th.st == .run && !th.op.again && th.op.reply == .none && th.rep.want == 0

/-- The trailing copy of a pair takes over what the leading one entered. -/
def State.pairEnter (s : State) (l : Nat) : State :=
  let a := s.thr l
  if a.tsr.pair && slotOf l < 8 then s.setThr (mateOf l) ((s.thr (mateOf l)).follow a) else s

/-- The fault of a replay can be delivered at the next issue (R110). -/
def State.faultReady (s : State) (t : Nat) : Bool := (s.thr t).repFault.isSome && (s.thr t).fresh && s.aligned t

/-- REPLAY_FAULT_DELIVERY (R110). A faulting replay discards the rest and the trap is delivered at the next issue. -/
def execReplayFaultDelivery (t : Nat) (s : State) : Out :=
  eventIf (validThread t)
    (match (s.thr t).repFault with
   | some c =>
     if s.faultReady t then
       let s := ((s.modThr t fun th => { th with repFault := none }).takeTrapAt t c (s.thr t).pc true).pairEnter t
       if (s.thr t).rep.live then s.replayDue t else s
     else s
   | none => s)

/-! ## The vector unit's turn (R199, R216, R411) -/

/-- Instructions that wait for their core's queue enter it while it has room and their test passes. -/
def State.admitVec (c : Nat) : Nat → State → State
  | 0, s => s
  | n + 1, s =>
    match (s.core c).vwait with
    | [] => s
    | o :: r =>
      if 4 ≤ (s.core c).vq.length then s
      else if s.mayAccept o.thread then
        let s : State := { s with cur := o.thread }
        State.admitVec c n ((s.acceptVec o).modCore c fun k => { k with vwait := r, vq := k.vq ++ [o] })
      else s.quotaFail (quadOf c) (s.thr o.thread).fn

/-- The unit starts the oldest entry of one core, in turn after the core it last served. -/
def State.vectorTurn (s : State) (q : Nat) : State :=
  let ready (s : State) (i : Nat) : Bool :=
    let k := s.core (coreOfQuad q i)
    !k.away && k.vq != []
  let s := (List.range 4).foldl (fun s i =>
    let c := coreOfQuad q i
    if (s.core c).away then s else State.admitVec c (s.core c).vwait.length s) s
  match ((List.range 4).map fun i => ((s.quad q).vturn + 1 + i) % 4).find? (ready s) with
  | none => s
  | some i =>
    let c := coreOfQuad q i
    match (s.core c).vq with
    | [] => s
    | o :: r =>
      let s := (s.modCore c fun k => { k with vq := r }).modQuad q fun k => { k with vturn := i }
      let s := s.modThr o.thread fun th => { th with op := { th.op with phase := 2 } }
      let s : State := { s with cur := o.thread }
      nextOf s (vecRun o.insn o.word s)

/-- A core of the quad still has vector instructions waiting. -/
def State.vectorWork (s : State) (q : Nat) : Bool :=
  (List.range 4).any fun i =>
    let k := s.core (coreOfQuad q i)
    k.vq != [] || k.vwait != []

/-- VECTOR_UNIT_START (R199). The vector unit starts the oldest queued entry of the next core. -/
def execVectorUnitStart (q : Nat) (s : State) : Out :=
  eventIf (q < 14400)
    (let s := s.vectorTurn q
   if s.vectorWork q then s.defer (.vectorUnitStart q) else s)

/-- VQSPLIT_RELEASE (R216). A waiting VQSPLIT executes once the outlier queue holds 192 or fewer. -/
def execVqsplitRelease (q : Nat) (s : State) : Out :=
  eventIf (q < 14400)
    (match (s.core (coreOfQuad q 3)).oqWait with
   | [] => s
   | o :: _ =>
     if 192 < (s.core (coreOfQuad q 3)).oq.length || (s.core (coreOf o.thread)).away then s.defer (.vqsplitRelease q)
     else
       let s1 : State := { s with cur := o.thread }
       let s2 := if o.replay then s.dueOnce (.replayIssue o.thread) else nextOf s1 (vecRun o.insn o.word s1)
       if (s2.core (coreOfQuad q 3)).oqWait = [] then s2 else s2.dueOnce (.vqsplitRelease q))

/-! ## User interrupts (R91, R113) -/

/-- The other copy of a pair is at the word in which this one is parked. -/
def State.mateParked (s : State) (t : Nat) : Bool :=
  let a := s.thr t
  let b := s.thr (mateOf t)
  !a.tsr.pair || (slotOf t < 8 && b.pc == a.pc && (b.present || b.st == a.st))

/-- A user interrupt may be taken now: at an issue, or in an interruptible park. A granted word is completed first, and the
words that REP captures take none (DEDUCED, log entries 81 and 82). -/
def State.mayInterrupt (s : State) (t : Nat) : Bool :=
  let th := s.thr t
  th.deliverable && !s.held t && ((th.st.interruptible && s.mateParked t) || (th.fresh && s.aligned t))

/-- A user interrupt is taken: the parked instruction, or what a RECV waiter was bound to, is given up, contexts stand
still, the handler is entered. -/
def State.interrupt (s : State) (t : Nat) : State :=
  let th := s.thr t
  match takeEvent th.uienable th.fifo with
  | none => s
  | some (e, rest) =>
    let s := s.abandon t
    let s := if th.outstanding then s.modThr t fun th => th.nextGen true s.cycle else s
    ((s.modOwned t fun x => { x with susp := true }).modThr t fun th => th.enterUser e rest).pairEnter t

/-- USER_INTERRUPT_ENTRY (R113). A thread takes its oldest enabled pending event before its instruction; a parked thread
whose slot is held from outside takes it once it is free (R93). -/
def execUserInterruptEntry (t : Nat) (s : State) : Out :=
  eventIf (validThread t)
    (if s.mayInterrupt t then s.interrupt t
     else if (s.thr t).deliverable && (s.thr t).st.interruptible then s.defer (.userInterruptEntry t)
     else s)

/-! ## The ends of sleeps, kills and exits (R90, R109, R143, R144) -/

/-- SLEEP_DEADLINE (R143). A PARK count reaches zero: the instruction completes, with its pop (R270), and the thread
resumes. -/
def execSleepDeadline (t : Nat) (s : State) : Out :=
  eventIf (validThread t)
    (let th := s.thr t
   match th.st, th.op.deadline with
   | .parked .sleep, some d =>
     if s.cycle < d || (s.core (coreOf t)).away then s.defer (.sleepDeadline t)
     else
       let s : State := { s.modThr t fun th => { th with op := { phase := 1 } } with cur := t }
       nextOf s (execPark (th.word.extractLsb' 16 5) s)
   | _, _ => s)

/-- A slot is FREE again; its generation and unanswered requests stay (R307). -/
def State.freeSlotOf (s : State) (t : Nat) : State :=
  let th := s.thr t
  ((s.setThr t { gen := th.gen, unanswered := th.unanswered }).dueOnce (.slotFill (coreOf t))).dueOnce
    (.quadGroupComplete (quadOf (coreOf t)))

/-- The bank scrub of a killed slot ends: its event is queued, and the slot is FREE; of a mismatched pair both copies are
scrubbed before the pair is restored (R335). -/
def State.scrubEnd (s : State) (t : Nat) : State :=
  let th := s.thr t
  let code := th.op.aux
  let s := s.fnEvent th.fn (contextEvent 0x01 t code)
  if code = 0x23 && s.agenda.contains (.killScrubEnd (mateOf t)) then s
  else if code = 0x23 then
    let s := (s.freeSlotOf t).freeSlotOf (mateOf t)
    s.restorePair t
  else s.freeSlotOf t

/-- KILL_SCRUB_END (R90). The bank scrub of a killed slot ends and the slot becomes FREE. -/
def execKillScrubEnd (t : Nat) (s : State) : Out :=
  eventIf (validThread t)
    (if (s.thr t).st = .killed then s.scrubEnd t else s)

/-- The conditions of R144: earlier work complete, replays and ring fills done, posted stores answered. -/
def State.exitReady (s : State) (t : Nat) : Bool :=
  s.engineIdle t && (s.journalOf t).isEmpty && !s.pushesOf t &&
    !(s.core (coreOf t)).ctxs.toList.any fun x => x.bound && x.owner == t && x.fill.isSome

/-- Ends a thread: contexts are unbound, what its copies, audits and FIFO still hold goes to the event thread. -/
def State.exitThread (s : State) (t : Nat) : State :=
  let th := s.thr t
  let s := (s.modOwned t Ctx.release).endAudits t
  let s := s.modCore (coreOf t) fun k =>
    { k with copies := vmap (fun x => if x.thread == t then { x with orphan := true } else x) k.copies }
  let s := s.freeSlotOf t
  th.fifo.foldl (fun s e => s.fnEvent th.fn (contextEvent 0x10 e.id e.cls)) s

/-- TEXIT_DRAIN_DONE (R144). An exiting thread's conditions hold; events move and the slot is freed. -/
def execTexitDrainDone (t : Nat) (s : State) : Out :=
  eventIf (validThread t)
    (let th := s.thr t
   if th.st != .parked .engine || th.op.aux != 0x54 then s
   else if (s.core (coreOf t)).away || !s.exitReady t then s.defer (.texitDrainDone t)
   else if th.tsr.pair then (s.exitThread t).exitThread (mateOf t)
   else s.exitThread t)

/-! ## Migration for EXT.W (R62, R94, R100, R190, R483) -/

/-- What names a thread by its slot follows it: its copies and its audits. -/
def State.renameThread (s : State) (t u : Nat) : State :=
  let s := if (s.core (coreOf t)).copies.toList.any (fun x => x.thread == t && !x.orphan) then
      s.modCore (coreOf t) fun k =>
        { k with copies := vmap (fun x => if x.thread == t && !x.orphan then { x with thread := u } else x) k.copies }
    else s
  { s with quads := s.quads.map fun p =>
      if (p.2.trier.records ++ p.2.trier.cands).any (fun r => r.thread == t && !r.gone) then
        (p.1, { p.2 with trier := p.2.trier.mapRecords fun r =>
          if r.thread == t && !r.gone then { r with thread := u } else r })
      else p }

/-- A thread takes a slot of another core and leaves its own FREE. Entries that its old core still holds stay there and are
now those of the new slot, before all that it issues from now on (R100, R166). -/
def State.moveThread (s : State) (t u : Nat) : State :=
  let th := s.thr t
  let old := s.thr u
  let s := s.setThr u { th with st := if th.present then th.st else .run, gen := old.gen, unanswered := old.unanswered
                                fbuf := [], ahead := none, latch := none }
  let s := s.modEntriesOf t fun e => { e with thread := u }
  let s := s.modCore (coreOf u) fun k => { k with jorder := max k.jorder (s.core (coreOf t)).jorder }
  (s.renameThread t u).freeSlotOf t

/-- The imports of a function that a buffer holds are removed when one of its threads comes to be served by it. -/
def State.dropImports (s : State) (f c c' : Nat) : State :=
  if bufferOf c = bufferOf c' then s
  else s.modOdie (bufferOf c') fun o => { o with imports := o.imports.filter fun e => e.fn != f }

/-- A migrating thread takes the slot `i` of core `c`. -/
def State.arriveAtSlot (s : State) (t c i : Nat) : State :=
  let th := s.thr t
  let s := s.modCore c fun k => { k with inbound := k.inbound.filter (· != t) }
  let s := s.moveThread t (c * 16 + i)
  let s := if th.tsr.pair then s.moveThread (mateOf t) (c * 16 + i + 8) else s
  (s.dropImports th.fn (coreOf t) c).dueOnce (.slotFill c)

/-- MIGRATE_ARRIVAL (R94, R100). A thread migrating for EXT.W joins the inbound migrations of its target once its engine
instructions and its replays are done, and takes a slot there in its turn. -/
def execMigrateArrival (t c : Nat) (s : State) : Out :=
  eventIf (validThread t && validCore c)
    (let th := s.thr t
   if th.st != .parked .migrate || !th.op.again || th.op.aux != c then s
   else if (s.core c).away || (s.core (coreOf t)).away || !s.engineIdle t then s.defer (.migrateArrival t c)
   else
     let s := if (s.core c).inbound.contains t then s else s.modCore c fun k => { k with inbound := k.inbound ++ [t] }
     match s.freeSlot c th.tsr.pair with
     | some i => if (s.core c).inbound.head? = some t then s.arriveAtSlot t c i else s.defer (.migrateArrival t c)
     | none => s.defer (.migrateArrival t c))

/-! ## CSR accesses that wait, and CSR writes with effects of their own (R41, R138, R139) -/

/-- A CSR form from its word. -/
def csrExec (w : Half) (s : State) : Out :=
  let d := w.extractLsb' 21 5
  let a := w.extractLsb' 16 5
  let c := w.extractLsb' 6 10
  match (w.extractLsb' 0 6).toNat with
  | 0 => execCsrr d c s
  | 1 => execCsrw d a c s
  | 2 => execCsrs d a c s
  | _ => execCsrc d a c s

/-- TSR_ACCESS_RESUME (R41). A CSR access naming TSR resumes once earlier engine work completes. -/
def execTsrAccessResume (t : Nat) (s : State) : Out :=
  eventIf (validThread t)
    (let th := s.thr t
   if th.st != .parked .engine || th.op.word = 0 then s
   else if (s.core (coreOf t)).away || !s.engineIdle t then s.defer (.tsrAccessResume t)
   else
     let s : State := { s with cur := t }
     nextOf s (csrExec th.op.word s))

/-- EVTHREAD_WRITE (R112). A write to EVTHREAD delivers queued function events in order. -/
def execEvthreadWrite (t : Nat) (w : Word) (s : State) : Out :=
  eventIf (validThread t)
    (s.writeEvthread (s.thr t).fn w)

/-- TEPC_WRITE (R107). A write to TEPC clears SIGSAVE.V. -/
def execTepcWrite (t : Nat) (w : Word) (s : State) : Out :=
  eventIf (validThread t)
    (s.writeTepc t w)

/-- SPILLQ_WRITE (R95). A write to SPILLQ is ignored whole when COUNT is non-zero or SIZE is invalid. -/
def execSpillqWrite (t : Nat) (w : Word) (s : State) : Out :=
  eventIf (validThread t)
    (s.writeSpillq t w)

/-- UIPEND_WRITE (R139). A write to UIPEND sets enables and may clear OVF. -/
def execUipendWrite (t : Nat) (w : Word) (s : State) : Out :=
  eventIf (validThread t)
    (s.writeUipend t w)

/-- RNDLFSR_WRITE (R38). A write of 0 to RNDLFSR stores 1. -/
def execRndlfsrWrite (t : Nat) (w : Word) (s : State) : Out :=
  eventIf (validThread t)
    (s.writeLfsr t w)

end Sys2Proof.Machine
end

