-- ==== Sys2Proof/Machine/Fetch.lean ====
section
/-! DEFINITION. Instruction fetch: the fetch buffer, line fetches, fetching ahead, and signatures at fetch (R73, R114, R482,
R483). -/

namespace Sys2Proof.Machine

/-! ## Fetches (R482, R483) -/

/-- What a fetch comes to: the word, a fault exact at it, or a wait. -/
inductive Fetched where
  | word (s : State) (w : Half)
  | trap (s : State) (c : Cause)
  | wait (s : State)

/-- The accesses that read a line: by the parts of its path (R165), reported under the fetched word's address. -/
def lineAccesses (c : Nat) (d : Dest) (base : Nat) (pc da : Word) : List Access :=
  (splitAt (granule (pathOf c d)) 6 base 64).map fun p =>
    { dest := d, op := .load p.1 p.2, ea := pc, da := da - BitVec.ofNat 64 (pc.toNat % 64) + BitVec.ofNat 64 (p.1 - base) }

/-- A line outside the core's own units is on its way: the thread parks until it arrives. -/
def State.fetchAway (s : State) (t : Nat) (d : Dest) (base : Nat) (pc da : Word) : State :=
  (s.modThr t fun th => { th with op := { todo := lineAccesses (coreOf t) d base pc da, ea := pc, da := da, fetch := true
                                          pinned := th.pinned pc } }).nextAccess t

/-- The fetch of the word at a thread's pc (R482, R483): from a held line, from an own unit within the rotation, or after
a wait. -/
def State.fetch (s : State) (t : Nat) : Fetched :=
  let th := s.thr t
  let pc := th.pc
  let line := lineOf pc.toNat
  if pc.toNat % 4 != 0 then .trap s { code := cMisalign, tval := pc }
  else match th.heldLine line with
    | some l => .word s (l.at pc.toNat)
    | none =>
      match s.reach t pc 4 rightX 1 2 false with
      | .trap s c => .trap s c
      | .page s => .wait (s.park t .page { fetch := true })
      | .ok s da parts =>
        let d := firstUnit parts
        let base := firstAddr parts - pc.toNat % 64
        match pathOf (coreOf t) d with
        | .own =>
          let s1 := s.chargeAccess (coreOf t) th.fn d (.load base 64)
          match s1.perform (.thread t th.gen.toNat false) (da - BitVec.ofNat 64 (pc.toNat % 64)) (.load base 64) with
          | .reply s2 (.data bs) =>
            .word (s2.modThr t fun th => th.addLine (lineFrom line bs)) ((lineFrom line bs).at pc.toNat)
          | .reply s2 (.trap c) => .trap s2 c
          | _ => .wait (s.fetchAway t d base pc da)
        | _ => .wait (s.fetchAway t d base pc da)

/-- A fault of a fetched word, exact at it; a REP that was capturing is discarded (R68). -/
def State.wordTrap (s : State) (t : Nat) (c : Cause) : State :=
  (s.modThr t fun th => if th.rep.want = 0 then th else { th with rep := {} }).takeTrapAt t c (s.thr t).pc false

/-- FETCH_LINE_ARRIVAL (R483). A fetched instruction line arrives and the thread issues its word. -/
def execFetchLineArrival (t : Nat) (s : State) : Out :=
  eventIf (validThread t)
    (let th := s.thr t
   if !th.op.fetch || th.op.reply = .none then s
   else if (s.core (coreOf t)).away then s.defer (.fetchLineArrival t)
   else match th.op.reply with
     | .trap c => s.wordTrap t c
     | _ => s.modThr t fun th => { th.addLine (lineFrom (lineOf th.op.ea.toNat) th.op.got) with st := .run, op := {} })

/-- The line at an effective address is fetched ahead: read now, or asked for at another panel by a relaxed load past
the import buffer; a fault, or a unit that cannot answer now, leaves it for the fetch of its words. -/
def State.lineAhead (s : State) (t ea : Nat) : State :=
  let th := s.thr t
  let c := coreOf t
  let va := BitVec.ofNat 64 ea
  let put (s : State) (bs : List Byte) : State := s.modThr t fun th => th.addAhead (ea - 64) (lineFrom ea bs)
  let near (s : State) (d : Dest) (a : Nat) : State :=
    if s.poisoned a 64 || (wordsOf a 64).any s.wordHeld then s
    else put (s.chargeAccess c th.fn d (.load a 64)) (s.rd a 64)
  match s.segCheck th (quadOf c) va 4 rightX with
  | .error _ => s
  | .ok (da, d, x) =>
    if !s.mayInject c th.fn th.tsr.pl.toNat then s
    else match d with
      | .hbm =>
        match s.translate (quadOf c) th.fn th.lease th.tsr.pl.toNat x rightX (th.pinned va) 2 with
        | .ok s2 pa _ => near s2 .hbm (hbmBase + pa)
        | _ => s
      | .device => let (s2, bs) := s.deviceRead x 64; put s2 bs
      | .panel p =>
        let n := s.nextNet
        let r : Request := { thread := aheadKey t, gen := n, fn := th.fn, level := th.tsr.pl.toNat, unit := d
                             op := .load x 64, ea := va, da := da, pinned := true, since := s.cycle }
        let s : State := { s with nextNet := n + 1 }
        ((s.chargeAccess c th.fn d r.op).modThr t fun th => { th with ahead := some (ea, n) }).sendFrame p th.fn (.request r) 2
      | _ =>
        if th.tsr.pl.toNat < 2 && !s.ownerOk th.fn d x || s.unitAbsent d || !s.passes c d then s else near s d x

/-- FETCH_AHEAD (R483). The next sequential line is fetched ahead into the buffer. -/
def execFetchAhead (t ea : Nat) (s : State) : Out :=
  eventIf (validThread t)
    (let th := s.thr t
   if (th.heldLine (ea - 64)).isNone || (th.heldLine ea).isSome || (s.core (coreOf t)).away ||
       th.ahead.any (fun x => x.1 == ea) then s
   else s.lineAhead t ea)

/-! ## Signatures at fetch (R73, R114) -/

/-- One bit of the CRC-16. -/
def sigBit (c : BitVec 16) : BitVec 16 := if c.getLsbD 15 then (c <<< 1) ^^^ 0x1021#16 else c <<< 1

/-- One byte of the CRC-16. -/
def sigByte (c : BitVec 16) (b : Byte) : BitVec 16 :=
  sigBit (sigBit (sigBit (sigBit (sigBit (sigBit (sigBit (sigBit (c ^^^ (b.setWidth 16 <<< 8)))))))))

/-- One word, least significant byte first. -/
def sigWord (c : BitVec 16) (w : Half) : BitVec 16 := (toBytes 4 w.toNat).foldl sigByte c

/-- The block that a BSIG word opens. -/
def openBlock (w : Half) : Option Block :=
  if w.extractLsb' 16 10 = 0 then none
  else some { left := (w.extractLsb' 16 10).toNat, crc := 0xFFFF, want := w.extractLsb' 0 16 }

/-- The open block after a word has been fetched; none outside: the word is a signature error. -/
def Thread.sign (th : Thread) (w : Half) : Option (Option Block) :=
  if !th.tsr.sg then some none
  else match th.blk with
    | none => if majorNat w = 0x1D then some (openBlock w) else none
    | some b =>
      let c := sigWord b.crc w
      if 1 < b.left then some (some { b with left := b.left - 1, crc := c })
      else if c = b.want then some none
      else none

end Sys2Proof.Machine
end

