-- ==== Sys2Proof/Machine/Integer.lean ====
section
/-! DEFINITION. The integer instructions of majors 0x01 to 0x09 (R116, R119 to R124). -/

namespace Sys2Proof.Machine

/-- High half of the signed product. -/
def mulHigh (a b : Word) : Word := BitVec.ofInt 64 (a.toInt * b.toInt / (2 : Int) ^ 64)

/-- High half of the unsigned product. -/
def mulHighU (a b : Word) : Word := BitVec.ofNat 64 (a.toNat * b.toNat / 2 ^ 64)

/-- Signed quotient of R120. -/
def divS (a b : Word) : Word := if b = 0 then -1 else BitVec.ofInt 64 (a.toInt.tdiv b.toInt)

/-- Signed remainder of R120. -/
def remS (a b : Word) : Word := if b = 0 then a else BitVec.ofInt 64 (a.toInt.tmod b.toInt)

/-- Unsigned quotient of R120. -/
def divUn (a b : Word) : Word := if b = 0 then -1 else a / b

/-- Unsigned remainder of R120. -/
def remUn (a b : Word) : Word := if b = 0 then a else a % b

/-- The shift amount of a register form (R119). -/
def shAmt (b : Word) : Nat := b.toNat % 64

/-- Rotation to the left by fewer than 64 places. -/
def rotl (a : Word) (n : Nat) : Word := if n = 0 then a else (a <<< n) ||| (a >>> (64 - n))

/-- Count of leading zero bits. -/
def clz64 (a : Word) : Nat := if a = 0 then 64 else 63 - Nat.log2 a.toNat

/-- Count of trailing zero bits. -/
def ctz64 (a : Word) : Nat := ((List.range 64).find? fun i => a.getLsbD i).getD 64

/-- Count of one bits. -/
def popc64 (a : Word) : Nat := ((List.range 64).filter fun i => a.getLsbD i).length

/-- Position and length of a field (R121): bits that would lie above bit 63 do not exist. -/
def fieldMask (b : Word) : Nat × Word :=
  let pos := b.toNat % 64
  let len := if field b.toNat 13 8 = 0 then 64 else field b.toNat 13 8
  (pos, BitVec.ofNat 64 (2 ^ min len (64 - pos) - 1))

/-- CXY (R122). -/
def cxy (a b : Word) : Word := if a.toNat ≤ 239 && b.toNat ≤ 239 then (b <<< 8) ||| a else -1

/-- CREL (R122). -/
def crel (a b : Word) : Word :=
  let x : Int := field a.toNat 7 0 + signedOf 8 b.toNat
  let y : Int := field a.toNat 15 8 + signedOf 8 (b.toNat / 256)
  if a.toNat < 65536 && field a.toNat 7 0 ≤ 239 && field a.toNat 15 8 ≤ 239 && 0 ≤ x && x ≤ 239 && 0 ≤ y && y ≤ 239
  then BitVec.ofInt 64 (y * 256 + x) else -1

/-- ADD (R119). Adds two scalar registers modulo 2^64. -/
def execAdd (d : BitVec 5) (a : BitVec 5) (b : BitVec 5) (s : State) : Out :=
  runG { word := 1#6 ++ d ++ a ++ b ++ 0#5 ++ 0#6, srcs := [a.toNat, b.toNat], dsts := [d.toNat] } d
    (fun s => s.g a + s.g b) s

/-- SUB (R119). Subtracts gb from ga modulo 2^64. -/
def execSub (d : BitVec 5) (a : BitVec 5) (b : BitVec 5) (s : State) : Out :=
  runG { word := 1#6 ++ d ++ a ++ b ++ 0#5 ++ 1#6, srcs := [a.toNat, b.toNat], dsts := [d.toNat] } d
    (fun s => s.g a - s.g b) s

/-- MUL (R119). Writes the low 64 bits of the product. -/
def execMul (d : BitVec 5) (a : BitVec 5) (b : BitVec 5) (s : State) : Out :=
  runG { word := 1#6 ++ d ++ a ++ b ++ 0#5 ++ 2#6, srcs := [a.toNat, b.toNat], dsts := [d.toNat] } d
    (fun s => s.g a * s.g b) s

/-- MULH (R119). Writes the high 64 bits of the signed product. -/
def execMulh (d : BitVec 5) (a : BitVec 5) (b : BitVec 5) (s : State) : Out :=
  runG { word := 1#6 ++ d ++ a ++ b ++ 0#5 ++ 3#6, srcs := [a.toNat, b.toNat], dsts := [d.toNat] } d
    (fun s => mulHigh (s.g a) (s.g b)) s

/-- MULHU (R119). Writes the high 64 bits of the unsigned product. -/
def execMulhu (d : BitVec 5) (a : BitVec 5) (b : BitVec 5) (s : State) : Out :=
  runG { word := 1#6 ++ d ++ a ++ b ++ 0#5 ++ 4#6, srcs := [a.toNat, b.toNat], dsts := [d.toNat] } d
    (fun s => mulHighU (s.g a) (s.g b)) s

/-- DIV (R120). Signed division, truncated toward zero, with no trap. -/
def execDiv (d : BitVec 5) (a : BitVec 5) (b : BitVec 5) (s : State) : Out :=
  runG { word := 1#6 ++ d ++ a ++ b ++ 0#5 ++ 5#6, srcs := [a.toNat, b.toNat], dsts := [d.toNat] } d
    (fun s => divS (s.g a) (s.g b)) s

/-- DIVU (R120). Unsigned division, with no trap. -/
def execDivu (d : BitVec 5) (a : BitVec 5) (b : BitVec 5) (s : State) : Out :=
  runG { word := 1#6 ++ d ++ a ++ b ++ 0#5 ++ 6#6, srcs := [a.toNat, b.toNat], dsts := [d.toNat] } d
    (fun s => divUn (s.g a) (s.g b)) s

/-- REM (R120). Signed remainder, taking the sign of the dividend. -/
def execRem (d : BitVec 5) (a : BitVec 5) (b : BitVec 5) (s : State) : Out :=
  runG { word := 1#6 ++ d ++ a ++ b ++ 0#5 ++ 7#6, srcs := [a.toNat, b.toNat], dsts := [d.toNat] } d
    (fun s => remS (s.g a) (s.g b)) s

/-- REMU (R120). Unsigned remainder. -/
def execRemu (d : BitVec 5) (a : BitVec 5) (b : BitVec 5) (s : State) : Out :=
  runG { word := 1#6 ++ d ++ a ++ b ++ 0#5 ++ 8#6, srcs := [a.toNat, b.toNat], dsts := [d.toNat] } d
    (fun s => remUn (s.g a) (s.g b)) s

/-- AND (R119). Bitwise AND. -/
def execAnd (d : BitVec 5) (a : BitVec 5) (b : BitVec 5) (s : State) : Out :=
  runG { word := 1#6 ++ d ++ a ++ b ++ 0#5 ++ 16#6, srcs := [a.toNat, b.toNat], dsts := [d.toNat] } d
    (fun s => s.g a &&& s.g b) s

/-- OR (R119). Bitwise OR. -/
def execOr (d : BitVec 5) (a : BitVec 5) (b : BitVec 5) (s : State) : Out :=
  runG { word := 1#6 ++ d ++ a ++ b ++ 0#5 ++ 17#6, srcs := [a.toNat, b.toNat], dsts := [d.toNat] } d
    (fun s => s.g a ||| s.g b) s

/-- XOR (R119). Bitwise XOR. -/
def execXor (d : BitVec 5) (a : BitVec 5) (b : BitVec 5) (s : State) : Out :=
  runG { word := 1#6 ++ d ++ a ++ b ++ 0#5 ++ 18#6, srcs := [a.toNat, b.toNat], dsts := [d.toNat] } d
    (fun s => s.g a ^^^ s.g b) s

/-- ANDN (R119). ANDs ga with the complement of gb. -/
def execAndn (d : BitVec 5) (a : BitVec 5) (b : BitVec 5) (s : State) : Out :=
  runG { word := 1#6 ++ d ++ a ++ b ++ 0#5 ++ 19#6, srcs := [a.toNat, b.toNat], dsts := [d.toNat] } d
    (fun s => s.g a &&& ~~~(s.g b)) s

/-- SHL (R119). Shifts left by gb mod 64. -/
def execShl (d : BitVec 5) (a : BitVec 5) (b : BitVec 5) (s : State) : Out :=
  runG { word := 1#6 ++ d ++ a ++ b ++ 0#5 ++ 20#6, srcs := [a.toNat, b.toNat], dsts := [d.toNat] } d
    (fun s => s.g a <<< shAmt (s.g b)) s

/-- SHR (R119). Logical right shift by gb mod 64. -/
def execShr (d : BitVec 5) (a : BitVec 5) (b : BitVec 5) (s : State) : Out :=
  runG { word := 1#6 ++ d ++ a ++ b ++ 0#5 ++ 21#6, srcs := [a.toNat, b.toNat], dsts := [d.toNat] } d
    (fun s => s.g a >>> shAmt (s.g b)) s

/-- SHA (R119). Arithmetic right shift by gb mod 64. -/
def execSha (d : BitVec 5) (a : BitVec 5) (b : BitVec 5) (s : State) : Out :=
  runG { word := 1#6 ++ d ++ a ++ b ++ 0#5 ++ 22#6, srcs := [a.toNat, b.toNat], dsts := [d.toNat] } d
    (fun s => (s.g a).sshiftRight (shAmt (s.g b))) s

/-- ROL (R119). Rotates left by gb mod 64. -/
def execRol (d : BitVec 5) (a : BitVec 5) (b : BitVec 5) (s : State) : Out :=
  runG { word := 1#6 ++ d ++ a ++ b ++ 0#5 ++ 23#6, srcs := [a.toNat, b.toNat], dsts := [d.toNat] } d
    (fun s => rotl (s.g a) (shAmt (s.g b))) s

/-- CLZ (R119). Counts leading zero bits. -/
def execClz (d : BitVec 5) (a : BitVec 5) (s : State) : Out :=
  runG { word := 1#6 ++ d ++ a ++ 0#10 ++ 24#6, srcs := [a.toNat], dsts := [d.toNat] } d
    (fun s => BitVec.ofNat 64 (clz64 (s.g a))) s

/-- CTZ (R119). Counts trailing zero bits. -/
def execCtz (d : BitVec 5) (a : BitVec 5) (s : State) : Out :=
  runG { word := 1#6 ++ d ++ a ++ 0#10 ++ 25#6, srcs := [a.toNat], dsts := [d.toNat] } d
    (fun s => BitVec.ofNat 64 (ctz64 (s.g a))) s

/-- POPC (R119). Counts the one bits. -/
def execPopc (d : BitVec 5) (a : BitVec 5) (s : State) : Out :=
  runG { word := 1#6 ++ d ++ a ++ 0#10 ++ 26#6, srcs := [a.toNat], dsts := [d.toNat] } d
    (fun s => BitVec.ofNat 64 (popc64 (s.g a))) s

/-- MIN (R119). Signed minimum. -/
def execMin (d : BitVec 5) (a : BitVec 5) (b : BitVec 5) (s : State) : Out :=
  runG { word := 1#6 ++ d ++ a ++ b ++ 0#5 ++ 32#6, srcs := [a.toNat, b.toNat], dsts := [d.toNat] } d
    (fun s => if (s.g a).sle (s.g b) then s.g a else s.g b) s

/-- MAX (R119). Signed maximum. -/
def execMax (d : BitVec 5) (a : BitVec 5) (b : BitVec 5) (s : State) : Out :=
  runG { word := 1#6 ++ d ++ a ++ b ++ 0#5 ++ 33#6, srcs := [a.toNat, b.toNat], dsts := [d.toNat] } d
    (fun s => if (s.g a).sle (s.g b) then s.g b else s.g a) s

/-- MINU (R119). Unsigned minimum. -/
def execMinu (d : BitVec 5) (a : BitVec 5) (b : BitVec 5) (s : State) : Out :=
  runG { word := 1#6 ++ d ++ a ++ b ++ 0#5 ++ 34#6, srcs := [a.toNat, b.toNat], dsts := [d.toNat] } d
    (fun s => if (s.g a).ule (s.g b) then s.g a else s.g b) s

/-- MAXU (R119). Unsigned maximum. -/
def execMaxu (d : BitVec 5) (a : BitVec 5) (b : BitVec 5) (s : State) : Out :=
  runG { word := 1#6 ++ d ++ a ++ b ++ 0#5 ++ 35#6, srcs := [a.toNat, b.toNat], dsts := [d.toNat] } d
    (fun s => if (s.g a).ule (s.g b) then s.g b else s.g a) s

/-- SLT (R119). Sets 1 if ga < gb, signed. -/
def execSlt (d : BitVec 5) (a : BitVec 5) (b : BitVec 5) (s : State) : Out :=
  runG { word := 1#6 ++ d ++ a ++ b ++ 0#5 ++ 36#6, srcs := [a.toNat, b.toNat], dsts := [d.toNat] } d
    (fun s => boolWord ((s.g a).slt (s.g b))) s

/-- SLTU (R119). Sets 1 if ga < gb, unsigned. -/
def execSltu (d : BitVec 5) (a : BitVec 5) (b : BitVec 5) (s : State) : Out :=
  runG { word := 1#6 ++ d ++ a ++ b ++ 0#5 ++ 37#6, srcs := [a.toNat, b.toNat], dsts := [d.toNat] } d
    (fun s => boolWord ((s.g a).ult (s.g b))) s

/-- SEQ (R119). Sets 1 if ga equals gb. -/
def execSeq (d : BitVec 5) (a : BitVec 5) (b : BitVec 5) (s : State) : Out :=
  runG { word := 1#6 ++ d ++ a ++ b ++ 0#5 ++ 38#6, srcs := [a.toNat, b.toNat], dsts := [d.toNat] } d
    (fun s => boolWord (s.g a == s.g b)) s

/-- SEL (R119). Selects ga or gb according to gc. -/
def execSel (d : BitVec 5) (a : BitVec 5) (b : BitVec 5) (c : BitVec 5) (s : State) : Out :=
  runG { word := 1#6 ++ d ++ a ++ b ++ c ++ 39#6, srcs := [a.toNat, b.toNat, c.toNat], dsts := [d.toNat] } d
    (fun s => if s.g c != 0 then s.g a else s.g b) s

/-- ADDSC (R119). Adds ga and gb shifted left by k. -/
def execAddsc (d : BitVec 5) (a : BitVec 5) (b : BitVec 5) (k : BitVec 3) (s : State) : Out :=
  runG { word := 1#6 ++ d ++ a ++ b ++ 0#2 ++ k ++ 40#6, srcs := [a.toNat, b.toNat], dsts := [d.toNat] } d
    (fun s => s.g a + (s.g b <<< k.toNat)) s

/-- EXTS (R119). Sign-extends the low w bits of ga. -/
def execExts (d : BitVec 5) (a : BitVec 5) (w : BitVec 5) (s : State) : Out :=
  runG { word := 1#6 ++ d ++ a ++ 0#5 ++ w ++ 48#6, srcs := [a.toNat], dsts := [d.toNat] } d
    (fun s => BitVec.ofInt 64 (signedOf (w.toNat + 1) (s.gn a))) s

/-- EXTZ (R119). Zero-extends the low w bits of ga. -/
def execExtz (d : BitVec 5) (a : BitVec 5) (w : BitVec 5) (s : State) : Out :=
  runG { word := 1#6 ++ d ++ a ++ 0#5 ++ w ++ 49#6, srcs := [a.toNat], dsts := [d.toNat] } d
    (fun s => BitVec.ofNat 64 (s.gn a % 2 ^ (w.toNat + 1))) s

/-- BEXT (R121). Extracts a bit field of ga. -/
def execBext (d : BitVec 5) (a : BitVec 5) (b : BitVec 5) (s : State) : Out :=
  runG { word := 1#6 ++ d ++ a ++ b ++ 0#5 ++ 50#6, srcs := [a.toNat, b.toNat], dsts := [d.toNat] } d
    (fun s => (s.g a >>> (fieldMask (s.g b)).1) &&& (fieldMask (s.g b)).2) s

/-- BINS (R121). Inserts a field of ga into gd. -/
def execBins (d : BitVec 5) (a : BitVec 5) (b : BitVec 5) (s : State) : Out :=
  runG { word := 1#6 ++ d ++ a ++ b ++ 0#5 ++ 51#6, srcs := [a.toNat, b.toNat, d.toNat], dsts := [d.toNat] } d
    (fun s => (s.g d &&& ~~~((fieldMask (s.g b)).2 <<< (fieldMask (s.g b)).1)) |||
    ((s.g a &&& (fieldMask (s.g b)).2) <<< (fieldMask (s.g b)).1)) s

/-- COREID (R122). Writes the executing core's logical ID. -/
def execCoreid (d : BitVec 5) (s : State) : Out :=
  runG { word := 1#6 ++ d ++ 0#15 ++ 56#6, dsts := [d.toNat] } d
    (fun s => BitVec.ofNat 64 s.here) s

/-- CXY (R122). Forms a core ID from coordinates, or -1. -/
def execCxy (d : BitVec 5) (a : BitVec 5) (b : BitVec 5) (s : State) : Out :=
  runG { word := 1#6 ++ d ++ a ++ b ++ 0#5 ++ 57#6, srcs := [a.toNat, b.toNat], dsts := [d.toNat] } d
    (fun s => cxy (s.g a) (s.g b)) s

/-- CREL (R122). Forms the core ID at a signed offset from a core, or -1. -/
def execCrel (d : BitVec 5) (a : BitVec 5) (b : BitVec 5) (s : State) : Out :=
  runG { word := 1#6 ++ d ++ a ++ b ++ 0#5 ++ 58#6, srcs := [a.toNat, b.toNat], dsts := [d.toNat] } d
    (fun s => crel (s.g a) (s.g b)) s

/-- ADDI (R123). Adds a sign-extended immediate. -/
def execAddi (d : BitVec 5) (a : BitVec 5) (i : BitVec 16) (s : State) : Out :=
  runG { word := 2#6 ++ d ++ a ++ i, srcs := [a.toNat], dsts := [d.toNat] } d
    (fun s => s.g a + sext i) s

/-- ANDI (R123). ANDs a zero-extended immediate. -/
def execAndi (d : BitVec 5) (a : BitVec 5) (i : BitVec 16) (s : State) : Out :=
  runG { word := 3#6 ++ d ++ a ++ i, srcs := [a.toNat], dsts := [d.toNat] } d
    (fun s => s.g a &&& zext i) s

/-- ORI (R123). ORs a zero-extended immediate. -/
def execOri (d : BitVec 5) (a : BitVec 5) (i : BitVec 16) (s : State) : Out :=
  runG { word := 4#6 ++ d ++ a ++ i, srcs := [a.toNat], dsts := [d.toNat] } d
    (fun s => s.g a ||| zext i) s

/-- XORI (R123). XORs a zero-extended immediate. -/
def execXori (d : BitVec 5) (a : BitVec 5) (i : BitVec 16) (s : State) : Out :=
  runG { word := 5#6 ++ d ++ a ++ i, srcs := [a.toNat], dsts := [d.toNat] } d
    (fun s => s.g a ^^^ zext i) s

/-- SLTI (R123). Signed compare with a sign-extended immediate. -/
def execSlti (d : BitVec 5) (a : BitVec 5) (i : BitVec 16) (s : State) : Out :=
  runG { word := 6#6 ++ d ++ a ++ i, srcs := [a.toNat], dsts := [d.toNat] } d
    (fun s => boolWord ((s.g a).slt (sext i))) s

/-- SLTUI (R123). Unsigned compare with a sign-extended immediate. -/
def execSltui (d : BitVec 5) (a : BitVec 5) (i : BitVec 16) (s : State) : Out :=
  runG { word := 7#6 ++ d ++ a ++ i, srcs := [a.toNat], dsts := [d.toNat] } d
    (fun s => boolWord ((s.g a).ult (sext i))) s

/-- SHLI (R124). Shifts left by an immediate amount. -/
def execShli (d : BitVec 5) (a : BitVec 5) (n : BitVec 6) (s : State) : Out :=
  runG { word := 8#6 ++ d ++ a ++ 0#8 ++ 0#2 ++ n, srcs := [a.toNat], dsts := [d.toNat] } d
    (fun s => s.g a <<< n.toNat) s

/-- SHRI (R124). Logical right shift by an immediate amount. -/
def execShri (d : BitVec 5) (a : BitVec 5) (n : BitVec 6) (s : State) : Out :=
  runG { word := 8#6 ++ d ++ a ++ 0#8 ++ 1#2 ++ n, srcs := [a.toNat], dsts := [d.toNat] } d
    (fun s => s.g a >>> n.toNat) s

/-- SHAI (R124). Arithmetic right shift by an immediate amount. -/
def execShai (d : BitVec 5) (a : BitVec 5) (n : BitVec 6) (s : State) : Out :=
  runG { word := 8#6 ++ d ++ a ++ 0#8 ++ 2#2 ++ n, srcs := [a.toNat], dsts := [d.toNat] } d
    (fun s => (s.g a).sshiftRight n.toNat) s

/-- ROLI (R124). Rotates left by an immediate amount. -/
def execRoli (d : BitVec 5) (a : BitVec 5) (n : BitVec 6) (s : State) : Out :=
  runG { word := 8#6 ++ d ++ a ++ 0#8 ++ 3#2 ++ n, srcs := [a.toNat], dsts := [d.toNat] } d
    (fun s => rotl (s.g a) n.toNat) s

/-- LHI (R123). Shifts ga left by 16 and ORs the immediate. -/
def execLhi (d : BitVec 5) (a : BitVec 5) (i : BitVec 16) (s : State) : Out :=
  runG { word := 9#6 ++ d ++ a ++ i, srcs := [a.toNat], dsts := [d.toNat] } d
    (fun s => (s.g a <<< 16) ||| zext i) s

end Sys2Proof.Machine
end

