-- ==== Sys2Proof/Machine/ScalarFp.lean ====
section
/-! DEFINITION. Scalar FP32 and the FP64 scalar class of EXT.W (R117, R118, R130 to R136). -/

namespace Sys2Proof.Machine

/-- Prefixes of the FP32 arithmetic forms (R117). -/
def fpRule : Option PfxRule := some { a := [4], b := [4], d := [4, 5, 6, 7, 8] }

/-- Prefixes of the FP64 arithmetic forms (R117). -/
def dpRule : Option PfxRule := some { a := [14], b := [14], d := [14, 4, 5, 6] }

/-- Prefixes of a conversion: its own formats (R117). -/
def cvtRule (s f : Nat) : Option PfxRule := some { a := [s], b := [s], d := [f] }

/-- Effective destination format, mode and saturate bit (R118). -/
def State.fpForm (s : State) (natural : Nat) : Nat × Nat × Bool :=
  match s.pending with
  | some p => (pfxD p, roundMode s.me.tsr.rm.toNat (some p), pfxSat p)
  | none => (natural, s.me.tsr.rm.toNat, false)

/-- Rounds one result into a register with its flags; under RST the LFSR steps (R38, R39, R118). -/
def State.fpWrite (s : State) (d : BitVec 5) (natural : Nat) (v : Num) (fl : Flags) : Res :=
  let (f, mode, sat) := s.fpForm natural
  let (r, g) := roundTo f mode sat (lfsrZ (lfsrStep s.me.rndlfsr)) v
  let s := if mode = 4 then s.modMe fun th => { th with rndlfsr := lfsrStep th.rndlfsr } else s
  .done ((s.setGn d r).raise s.cur (fl ||| g))

/-- An operand in a format, from the low bits of a register (R24). -/
def State.fp (s : State) (f : Nat) (r : BitVec 5) : Num := readNum f (s.gn r)

/-- The mode in force rounds down: the sign of an exact zero sum (R48). -/
def State.rdn (s : State) (natural : Nat) : Bool := (s.fpForm natural).2.1 == 3

/-- An exact two-operand operation rounded once. -/
def fpBin (f : Nat) (op : Bool → Num → Num → Num × Flags) (d a b : BitVec 5) (s : State) : Res :=
  let (v, fl) := op (s.rdn f) (s.fp f a) (s.fp f b)
  s.fpWrite d f v fl

/-- Fused multiply-add. -/
def fpFma (f : Nat) (d a b c : BitVec 5) (s : State) : Res :=
  let (v, fl) := numFma (s.rdn f) (s.fp f a) (s.fp f b) (s.fp f c)
  s.fpWrite d f v fl

/-- Square root. -/
def fpSqrt (f : Nat) (d a : BitVec 5) (s : State) : Res :=
  let (v, fl) := numSqrt (s.fp f a)
  s.fpWrite d f v fl

/-- Width of the operands of a scalar format. -/
def fpLow (f : Nat) (x : Word) : Nat := x.toNat % 2 ^ fmtWidth f

/-- Minimum or maximum (R132). -/
def fpMinMax (f : Nat) (wantMax : Bool) (d a b : BitVec 5) (s : State) : Res :=
  let (r, fl) := minMaxBits f wantMax (fpLow f (s.g a)) (fpLow f (s.g b))
  .done ((s.setGn d r).raise s.cur fl)

/-- Comparison (R133). -/
def fpCmp (f : Nat) (d a b c : BitVec 5) (s : State) : Res :=
  let (r, fl) := numCmp c.toNat (s.fp f a) (s.fp f b)
  .done ((s.setG d (boolWord r)).raise s.cur fl)

/-- The class mask of a value (R132). -/
def fpClassOf (f : Nat) (x : Nat) : Nat :=
  match floatFmt f, readNum f x with
  | _, .nan sig => if sig then 256 else 512
  | _, .inf neg => if neg then 1 else 128
  | some k, .fin neg man _ _ =>
    if man = 0 then (if neg then 8 else 16)
    else if man < 2 ^ (k.p - 1) then (if neg then 4 else 32)
    else (if neg then 2 else 64)
  | none, _ => 0

/-- Sign copy (R132): the sign of gb, its inverse, or the exclusive or of both signs. -/
def fpSgn (f : Nat) (m : Nat) (x y : Nat) : Nat :=
  let w := fmtWidth f - 1
  let sx := bitAt x w
  let sy := bitAt y w
  let sign := if m = 0 then sy else if m = 1 then !sy else xor sx sy
  x % 2 ^ w + bit sign * 2 ^ w

/-- A conversion's register result: integers sign-extended but for UINT8, others zero-extended (R134). -/
def cvtResult (f r : Nat) : Word :=
  if isIntFmt f && f != 1 then BitVec.ofInt 64 (signedOf (fmtWidth f) r) else BitVec.ofNat 64 r

/-- FCVT and DCVT (R134, R136): a prefix gives only RM and SAT. -/
def fpCvt (d a : BitVec 5) (fs fd : Nat) (s : State) : Res :=
  let mode := roundMode s.me.tsr.rm.toNat s.pending
  let sat := match s.pending with
    | some p => pfxSat p
    | none => false
  let (r, fl) := convertBits fs fd mode sat (lfsrZ (lfsrStep s.me.rndlfsr)) (s.gn a % 2 ^ fmtWidth fs)
  let s := if mode = 4 then s.modMe fun th => { th with rndlfsr := lfsrStep th.rndlfsr } else s
  .done ((s.setG d (cvtResult fd r)).raise s.cur fl)

/-- FADD (R131). FP32 addition, rounded once into the effective format. -/
def execFadd (d : BitVec 5) (a : BitVec 5) (b : BitVec 5) (s : State) : Out :=
  run { word := 10#6 ++ d ++ a ++ b ++ 0#5 ++ 0#6, pfx := fpRule, srcs := [a.toNat, b.toNat], dsts := [d.toNat] }
    (fpBin 4 numAdd d a b) s

/-- FSUB (R131). FP32 subtraction. -/
def execFsub (d : BitVec 5) (a : BitVec 5) (b : BitVec 5) (s : State) : Out :=
  run { word := 10#6 ++ d ++ a ++ b ++ 0#5 ++ 1#6, pfx := fpRule, srcs := [a.toNat, b.toNat], dsts := [d.toNat] }
    (fpBin 4 (fun r x y => numAdd r x y.negate) d a b) s

/-- FMUL (R131). FP32 multiplication. -/
def execFmul (d : BitVec 5) (a : BitVec 5) (b : BitVec 5) (s : State) : Out :=
  run { word := 10#6 ++ d ++ a ++ b ++ 0#5 ++ 2#6, pfx := fpRule, srcs := [a.toNat, b.toNat], dsts := [d.toNat] }
    (fpBin 4 (fun _ => numMul) d a b) s

/-- FMA (R131). Fused FP32 multiply-add, rounded once. -/
def execFma (d : BitVec 5) (a : BitVec 5) (b : BitVec 5) (c : BitVec 5) (s : State) : Out :=
  run { word := 10#6 ++ d ++ a ++ b ++ c ++ 3#6, pfx := fpRule, srcs := [a.toNat, b.toNat, c.toNat], dsts := [d.toNat] }
    (fpFma 4 d a b c) s

/-- FDIV (R131). FP32 division. -/
def execFdiv (d : BitVec 5) (a : BitVec 5) (b : BitVec 5) (s : State) : Out :=
  run { word := 10#6 ++ d ++ a ++ b ++ 0#5 ++ 4#6, pfx := fpRule, srcs := [a.toNat, b.toNat], dsts := [d.toNat] }
    (fpBin 4 (fun _ => numDiv) d a b) s

/-- FSQRT (R131). FP32 square root. -/
def execFsqrt (d : BitVec 5) (a : BitVec 5) (s : State) : Out :=
  run { word := 10#6 ++ d ++ a ++ 0#10 ++ 5#6, pfx := fpRule, srcs := [a.toNat], dsts := [d.toNat] }
    (fpSqrt 4 d a) s

/-- FMIN (R132). FP32 minimum under R48. -/
def execFmin (d : BitVec 5) (a : BitVec 5) (b : BitVec 5) (s : State) : Out :=
  run { word := 10#6 ++ d ++ a ++ b ++ 0#5 ++ 6#6, srcs := [a.toNat, b.toNat], dsts := [d.toNat] }
    (fpMinMax 4 false d a b) s

/-- FMAX (R132). FP32 maximum under R48. -/
def execFmax (d : BitVec 5) (a : BitVec 5) (b : BitVec 5) (s : State) : Out :=
  run { word := 10#6 ++ d ++ a ++ b ++ 0#5 ++ 7#6, srcs := [a.toNat, b.toNat], dsts := [d.toNat] }
    (fpMinMax 4 true d a b) s

/-- FCMP (R133). FP32 compare under a condition, writing 1 or 0. -/
def execFcmp (d : BitVec 5) (a : BitVec 5) (b : BitVec 5) (c : BitVec 5) (s : State) : Out :=
  run { word := 10#6 ++ d ++ a ++ b ++ c ++ 8#6, srcs := [a.toNat, b.toNat], dsts := [d.toNat] }
    (fpCmp 4 d a b c) s

/-- FCVT (R134). Converts ga from format fs to format fd. -/
def execFcvt (d : BitVec 5) (a : BitVec 5) (s : BitVec 4) (f : BitVec 4) (st : State) : Out :=
  run { word := 10#6 ++ d ++ a ++ 0#1 ++ s ++ 0#1 ++ f ++ 9#6, pfx := cvtRule s.toNat f.toNat, srcs := [a.toNat],
        dsts := [d.toNat] }
    (fpCvt d a s.toNat f.toNat) st

/-- FCLASS (R132). Writes a one-hot class mask of an FP32 value. -/
def execFclass (d : BitVec 5) (a : BitVec 5) (s : State) : Out :=
  runG { word := 10#6 ++ d ++ a ++ 0#10 ++ 10#6, srcs := [a.toNat], dsts := [d.toNat] } d
    (fun s => BitVec.ofNat 64 (fpClassOf 4 (s.gn a))) s

/-- FSGN (R132). Copies magnitude with a sign chosen by mode. -/
def execFsgn (d : BitVec 5) (a : BitVec 5) (b : BitVec 5) (m : BitVec 5) (s : State) : Out :=
  runG { word := 10#6 ++ d ++ a ++ b ++ m ++ 11#6, srcs := [a.toNat, b.toNat], dsts := [d.toNat] } d
    (fun s => BitVec.ofNat 64 (fpSgn 4 m.toNat (s.gn a) (s.gn b))) s

/-- DADD (R135). FP64 addition on a wide core. -/
def execDadd (d : BitVec 5) (a : BitVec 5) (b : BitVec 5) (s : State) : Out :=
  run { word := 56#6 ++ d ++ a ++ b ++ 0#5 ++ 0#4 ++ 0#2, pfx := dpRule, srcs := [a.toNat, b.toNat], dsts := [d.toNat] }
    (fpBin 14 numAdd d a b) s

/-- DSUB (R135). FP64 subtraction. -/
def execDsub (d : BitVec 5) (a : BitVec 5) (b : BitVec 5) (s : State) : Out :=
  run { word := 56#6 ++ d ++ a ++ b ++ 0#5 ++ 1#4 ++ 0#2, pfx := dpRule, srcs := [a.toNat, b.toNat], dsts := [d.toNat] }
    (fpBin 14 (fun r x y => numAdd r x y.negate) d a b) s

/-- DMUL (R135). FP64 multiplication. -/
def execDmul (d : BitVec 5) (a : BitVec 5) (b : BitVec 5) (s : State) : Out :=
  run { word := 56#6 ++ d ++ a ++ b ++ 0#5 ++ 2#4 ++ 0#2, pfx := dpRule, srcs := [a.toNat, b.toNat], dsts := [d.toNat] }
    (fpBin 14 (fun _ => numMul) d a b) s

/-- DFMA (R135). Fused FP64 multiply-add. -/
def execDfma (d : BitVec 5) (a : BitVec 5) (b : BitVec 5) (c : BitVec 5) (s : State) : Out :=
  run { word := 56#6 ++ d ++ a ++ b ++ c ++ 3#4 ++ 0#2, pfx := dpRule, srcs := [a.toNat, b.toNat, c.toNat], dsts :=
        [d.toNat] }
    (fpFma 14 d a b c) s

/-- DDIV (R135). FP64 division. -/
def execDdiv (d : BitVec 5) (a : BitVec 5) (b : BitVec 5) (s : State) : Out :=
  run { word := 56#6 ++ d ++ a ++ b ++ 0#5 ++ 4#4 ++ 0#2, pfx := dpRule, srcs := [a.toNat, b.toNat], dsts := [d.toNat] }
    (fpBin 14 (fun _ => numDiv) d a b) s

/-- DSQRT (R135). FP64 square root. -/
def execDsqrt (d : BitVec 5) (a : BitVec 5) (s : State) : Out :=
  run { word := 56#6 ++ d ++ a ++ 0#10 ++ 5#4 ++ 0#2, pfx := dpRule, srcs := [a.toNat], dsts := [d.toNat] }
    (fpSqrt 14 d a) s

/-- DMIN (R135). FP64 minimum. -/
def execDmin (d : BitVec 5) (a : BitVec 5) (b : BitVec 5) (s : State) : Out :=
  run { word := 56#6 ++ d ++ a ++ b ++ 0#5 ++ 6#4 ++ 0#2, srcs := [a.toNat, b.toNat], dsts := [d.toNat] }
    (fpMinMax 14 false d a b) s

/-- DMAX (R135). FP64 maximum. -/
def execDmax (d : BitVec 5) (a : BitVec 5) (b : BitVec 5) (s : State) : Out :=
  run { word := 56#6 ++ d ++ a ++ b ++ 0#5 ++ 7#4 ++ 0#2, srcs := [a.toNat, b.toNat], dsts := [d.toNat] }
    (fpMinMax 14 true d a b) s

/-- DCMP (R135). FP64 compare under a condition. -/
def execDcmp (d : BitVec 5) (a : BitVec 5) (b : BitVec 5) (c : BitVec 5) (s : State) : Out :=
  run { word := 56#6 ++ d ++ a ++ b ++ c ++ 8#4 ++ 0#2, srcs := [a.toNat, b.toNat], dsts := [d.toNat] }
    (fpCmp 14 d a b c) s

/-- DCVT (R136). Converts to or from FP64. -/
def execDcvt (d : BitVec 5) (a : BitVec 5) (s : BitVec 4) (f : BitVec 4) (st : State) : Out :=
  run { word := 56#6 ++ d ++ a ++ 0#1 ++ s ++ 0#1 ++ f ++ 9#4 ++ 0#2, pfx := cvtRule s.toNat f.toNat, srcs :=
        [a.toNat], dsts := [d.toNat] }
    (fpCvt d a s.toNat f.toNat) st

/-- DCLASS (R135). Classifies an FP64 value. -/
def execDclass (d : BitVec 5) (a : BitVec 5) (s : State) : Out :=
  runG { word := 56#6 ++ d ++ a ++ 0#10 ++ 10#4 ++ 0#2, srcs := [a.toNat], dsts := [d.toNat] } d
    (fun s => BitVec.ofNat 64 (fpClassOf 14 (s.gn a))) s

/-- DSGN (R135). FP64 sign injection. -/
def execDsgn (d : BitVec 5) (a : BitVec 5) (b : BitVec 5) (m : BitVec 5) (s : State) : Out :=
  runG { word := 56#6 ++ d ++ a ++ b ++ m ++ 11#4 ++ 0#2, srcs := [a.toNat, b.toNat], dsts := [d.toNat] } d
    (fun s => BitVec.ofNat 64 (fpSgn 14 m.toNat (s.gn a) (s.gn b))) s

end Sys2Proof.Machine
end

