-- ==== Sys2Proof/Machine/Wide.lean ====
section
/-! DEFINITION. EXT.W class 01: exact dot accumulation and outlier reception (R217, R225). -/

namespace Sys2Proof.Machine

/-- XACC as an integer, in units of 2^-300. -/
def Thread.xval (th : Thread) : Int := th.xacc.toInt

/-- Stores a finite XACC, or the infinity that a magnitude of 2^339 becomes (R225). -/
def Thread.setX (th : Thread) (v : Int) : Thread × Flags :=
  if 2 ^ 639 ≤ v.natAbs then ({ th with xacc := 0, xstate := if v < 0 then .negInf else .posInf }, fOF)
  else ({ th with xacc := BitVec.ofInt 640 v, xstate := .finite }, 0#5)

/-- XMAC of two FP32 values (R225). -/
def Thread.xmac (th : Thread) (x y : Num) : Thread × Flags :=
  let nan : Thread × Flags := ({ th with xacc := 0, xstate := .nan }, fNV)
  match x, y with
  | .nan _, _ => nan
  | _, .nan _ => nan
  | _, _ =>
    match (numMul x y).1 with
    | .nan _ => nan
    | .inf neg =>
      match th.xstate with
      | .nan => (th, 0#5)
      | .posInf => if neg then nan else (th, 0#5)
      | .negInf => if neg then (th, 0#5) else nan
      | .finite => ({ th with xacc := 0, xstate := if neg then .negInf else .posInf }, 0#5)
    | .fin neg m e _ =>
      if th.xstate = .finite then
        let p : Int := m * 2 ^ (e + 300).toNat
        th.setX (th.xval + if neg then -p else p)
      else (th, 0#5)

/-- XACC as a value. -/
def Thread.xnum (th : Thread) : Num :=
  match th.xstate with
  | .nan => qnan
  | .posInf => .inf false
  | .negInf => .inf true
  | .finite => .fin (th.xval < 0) th.xval.natAbs (-300) false

/-- Prefixes of XRD (R198). -/
def xrdRule (w64 : Bool) : Option PfxRule := some { a := [4], b := [4], d := if w64 then [4, 14] else [4] }

/-- ORCV: the oldest outlier entry, or zero (R225). -/
def orcvBody (d : BitVec 5) (s : State) : Res :=
  match (s.core s.here).oq with
  | [] => .done (s.setG d 0)
  | v :: vs =>
    let s1 := s.modCore s.here fun k => { k with oq := vs }
    .done ((if (s.core s.here).oqWait = [] then s1 else s1.dueOnce (.vqsplitRelease (quadOf s.here))).setG d v)

/-- XMAC. -/
def xmacBody (a b : BitVec 5) (s : State) : Res :=
  let (th, fl) := s.me.xmac (s.fp 4 a) (s.fp 4 b)
  .done ((s.modMe fun _ => th).raise s.cur fl)

/-- ORCV (R225). Removes and returns the oldest outlier entry, or 0. -/
def execOrcv (d : BitVec 5) (s : State) : Out :=
  run { word := 56#6 ++ d ++ 0#10 ++ 0#9 ++ 1#2, dsts := [d.toNat] }
    (orcvBody d) s

/-- XACZ (R225). Clears the exact accumulator XACC. -/
def execXacz (s : State) : Out :=
  run { word := 56#6 ++ 0#15 ++ 1#9 ++ 1#2 }
    (fun s => .done (s.modMe fun th => { th with xacc := 0, xstate := .finite })) s

/-- XMAC (R225). Adds an exact FP32 product into XACC. -/
def execXmac (a : BitVec 5) (b : BitVec 5) (s : State) : Out :=
  run { word := 56#6 ++ 0#5 ++ a ++ b ++ 2#9 ++ 1#2, srcs := [a.toNat, b.toNat] }
    (xmacBody a b) s

/-- XRD (R225). Rounds XACC into gd. -/
def execXrd (d : BitVec 5) (s : State) : Out :=
  run { word := 56#6 ++ d ++ 0#10 ++ 3#9 ++ 1#2, pfx := xrdRule (s.w64 s.here), dsts := [d.toNat] }
    (fun s => s.fpWrite d 4 s.me.xnum 0#5) s

end Sys2Proof.Machine
end

