-- ==== Sys2Proof/Machine/Dispatch.lean ====
section
/-! DEFINITION. One arm for every row of the opcode table, each a call of its meaning. -/

namespace Sys2Proof.Machine

def exec (i : Instr) (s : State) : Host.Outcome State Fault Refusal :=
  match i with
  | .vdadd d a b m e s_ => Sys2Proof.Machine.execVdadd d a b m e s_ s
  | .vdsub d a b m e s_ => Sys2Proof.Machine.execVdsub d a b m e s_ s
  | .vdmul d a b m e s_ => Sys2Proof.Machine.execVdmul d a b m e s_ s
  | .vdfma d a b m e s_ => Sys2Proof.Machine.execVdfma d a b m e s_ s
  | .vdmin d a b m e s_ => Sys2Proof.Machine.execVdmin d a b m e s_ s
  | .vdmax d a b m e s_ => Sys2Proof.Machine.execVdmax d a b m e s_ s
  | .vdwid d a k m e s_ => Sys2Proof.Machine.execVdwid d a k m e s_ s
  | .vdnar d a k m e s_ => Sys2Proof.Machine.execVdnar d a k m e s_ s
  | .ld d b z i_ => Sys2Proof.Machine.execLd d b z i_ s
  | .st s_ b z i_ => Sys2Proof.Machine.execSt s_ b z i_ s
  | .ldaWord d b q i_ => Sys2Proof.Machine.execLdaWord d b q i_ s
  | .lda d b q i_ => Sys2Proof.Machine.execLda d b q i_ s
  | .lde d b i_ => Sys2Proof.Machine.execLde d b i_ s
  | .ldf d b i_ => Sys2Proof.Machine.execLdf d b i_ s
  | .feprobe d b i_ => Sys2Proof.Machine.execFeprobe d b i_ s
  | .stlWord s_ b q i_ => Sys2Proof.Machine.execStlWord s_ b q i_ s
  | .stl s_ b q i_ => Sys2Proof.Machine.execStl s_ b q i_ s
  | .stf s_ b i_ => Sys2Proof.Machine.execStf s_ b i_ s
  | .feclr b i_ => Sys2Proof.Machine.execFeclr b i_ s
  | .amoadd d a b q w => Sys2Proof.Machine.execAmoadd d a b q w s
  | .amoand d a b q w => Sys2Proof.Machine.execAmoand d a b q w s
  | .amoor d a b q w => Sys2Proof.Machine.execAmoor d a b q w s
  | .amoxor d a b q w => Sys2Proof.Machine.execAmoxor d a b q w s
  | .amomin d a b q w => Sys2Proof.Machine.execAmomin d a b q w s
  | .amomax d a b q w => Sys2Proof.Machine.execAmomax d a b q w s
  | .amoswp d a b q w => Sys2Proof.Machine.execAmoswp d a b q w s
  | .cas d a b q w => Sys2Proof.Machine.execCas d a b q w s
  | .faddf d a b q => Sys2Proof.Machine.execFaddf d a b q s
  | .fenceAcq a => Sys2Proof.Machine.execFenceAcq a s
  | .fenceRel a => Sys2Proof.Machine.execFenceRel a s
  | .fenceFull a => Sys2Proof.Machine.execFenceFull a s
  | .segr d f n => Sys2Proof.Machine.execSegr d f n s
  | .segw a f n => Sys2Proof.Machine.execSegw a f n s
  | .vadd d a b m w e t s_ => Sys2Proof.Machine.execVadd d a b m w e t s_ s
  | .vsub d a b m w e t s_ => Sys2Proof.Machine.execVsub d a b m w e t s_ s
  | .vmul d a b m w e t s_ => Sys2Proof.Machine.execVmul d a b m w e t s_ s
  | .vfma d a b m w e t s_ => Sys2Proof.Machine.execVfma d a b m w e t s_ s
  | .vmin d a b m w e t s_ => Sys2Proof.Machine.execVmin d a b m w e t s_ s
  | .vmax d a b m w e t s_ => Sys2Proof.Machine.execVmax d a b m w e t s_ s
  | .vamin d a b m w e t s_ => Sys2Proof.Machine.execVamin d a b m w e t s_ s
  | .vamax d a b m w e t s_ => Sys2Proof.Machine.execVamax d a b m w e t s_ s
  | .vand d a b m w e t s_ => Sys2Proof.Machine.execVand d a b m w e t s_ s
  | .vor d a b m w e t s_ => Sys2Proof.Machine.execVor d a b m w e t s_ s
  | .vxor d a b m w e t s_ => Sys2Proof.Machine.execVxor d a b m w e t s_ s
  | .vshl d a b m w e t s_ => Sys2Proof.Machine.execVshl d a b m w e t s_ s
  | .vshr d a b m w e t s_ => Sys2Proof.Machine.execVshr d a b m w e t s_ s
  | .vsha d a b m w e t s_ => Sys2Proof.Machine.execVsha d a b m w e t s_ s
  | .vcmp d a b m w e t s_ c => Sys2Proof.Machine.execVcmp d a b m w e t s_ c s
  | .vsel d a b m s_ => Sys2Proof.Machine.execVsel d a b m s_ s
  | .vld d m e b i_ => Sys2Proof.Machine.execVld d m e b i_ s
  | .vst d m e b i_ => Sys2Proof.Machine.execVst d m e b i_ s
  | .vldx d x m e b h => Sys2Proof.Machine.execVldx d x m e b h s
  | .vstx d x m e b h => Sys2Proof.Machine.execVstx d x m e b h s
  | .vcvt d a k m s_ f e => Sys2Proof.Machine.execVcvt d a k m s_ f e s
  | .vqnt d a k p f => Sys2Proof.Machine.execVqnt d a k p f s
  | .vdqnt d a k p s_ => Sys2Proof.Machine.execVdqnt d a k p s_ s
  | .vqsplit d a k o => Sys2Proof.Machine.execVqsplit d a k o s
  | .vshup d a b w n => Sys2Proof.Machine.execVshup d a b w n s
  | .vshdn d a b w n => Sys2Proof.Machine.execVshdn d a b w n s
  | .vrot d a w n => Sys2Proof.Machine.execVrot d a w n s
  | .vperm d a b m w e => Sys2Proof.Machine.execVperm d a b m w e s
  | .vbcast d w s_ => Sys2Proof.Machine.execVbcast d w s_ s
  | .vext a k w g u => Sys2Proof.Machine.execVext a k w g u s
  | .vins d k w s_ => Sys2Proof.Machine.execVins d k w s_ s
  | .vred d a m w e t o => Sys2Proof.Machine.execVred d a m w e t o s
  | .vscan d a m w e t o => Sys2Proof.Machine.execVscan d a m w e t o s
  | .vdot d a b m w e t => Sys2Proof.Machine.execVdot d a b m w e t s
  | .vexp2 d a m e => Sys2Proof.Machine.execVexp2 d a m e s
  | .vlog2 d a m e => Sys2Proof.Machine.execVlog2 d a m e s
  | .vrcp d a m e => Sys2Proof.Machine.execVrcp d a m e s
  | .vrsq d a m e => Sys2Proof.Machine.execVrsq d a m e s
  | .vmand d a b => Sys2Proof.Machine.execVmand d a b s
  | .vmor d a b => Sys2Proof.Machine.execVmor d a b s
  | .vpopc a g => Sys2Proof.Machine.execVpopc a g s
  | .tld a b t => Sys2Proof.Machine.execTld a b t s
  | .tldRing a b r => Sys2Proof.Machine.execTldRing a b r s
  | .tst a b s_ => Sys2Proof.Machine.execTst a b s_ s
  | .tzero d => Sys2Proof.Machine.execTzero d s
  | .tmov a d => Sys2Proof.Machine.execTmov a d s
  | .ttrans a d => Sys2Proof.Machine.execTtrans a d s
  | .tmma a b => Sys2Proof.Machine.execTmma a b s
  | .tmmas a b => Sys2Proof.Machine.execTmmas a b s
  | .tmmasp a b => Sys2Proof.Machine.execTmmasp a b s
  | .taccr d h => Sys2Proof.Machine.execTaccr d h s
  | .ringdef a r => Sys2Proof.Machine.execRingdef a r s
  | .twait a r d => Sys2Proof.Machine.execTwait a r d s
  | .tfree a r => Sys2Proof.Machine.execTfree a r s
  | .tadv a r => Sys2Proof.Machine.execTadv a r s
  | .tsend a b r => Sys2Proof.Machine.execTsend a b r s
  | .mrect a => Sys2Proof.Machine.execMrect a s
  | .mstat d => Sys2Proof.Machine.execMstat d s
  | .sdesc a s_ => Sys2Proof.Machine.execSdesc a s_ s
  | .sbind s_ k n => Sys2Proof.Machine.execSbind s_ k n s
  | .sunbind s_ => Sys2Proof.Machine.execSunbind s_ s
  | .spos s_ d => Sys2Proof.Machine.execSpos s_ d s
  | .sposSet a s_ d => Sys2Proof.Machine.execSposSet a s_ d s
  | .sskip a s_ => Sys2Proof.Machine.execSskip a s_ s
  | .sflush s_ => Sys2Proof.Machine.execSflush s_ s
  | .sstat s_ d => Sys2Proof.Machine.execSstat s_ d s
  | .copy a d => Sys2Proof.Machine.execCopy a d s
  | .copyst a d => Sys2Proof.Machine.execCopyst a d s
  | .waitgen a b q => Sys2Proof.Machine.execWaitgen a b q s
  | .armgen a b => Sys2Proof.Machine.execArmgen a b s
  | .addgen a b q => Sys2Proof.Machine.execAddgen a b q s
  | .send a b d r => Sys2Proof.Machine.execSend a b d r s
  | .sendi a b d r => Sys2Proof.Machine.execSendi a b d r s
  | .recv h d => Sys2Proof.Machine.execRecv h d s
  | .recvt a h d => Sys2Proof.Machine.execRecvt a h d s
  | .peek d => Sys2Proof.Machine.execPeek d s
  | .jwait a d => Sys2Proof.Machine.execJwait a d s
  | .jread a d => Sys2Proof.Machine.execJread a d s
  | .fwdq a d => Sys2Proof.Machine.execFwdq a d s
  | .cdef a c => Sys2Proof.Machine.execCdef a c s
  | .cwatch a c b => Sys2Proof.Machine.execCwatch a c b s
  | .cwatchOff c => Sys2Proof.Machine.execCwatchOff c s
  | .cstart c => Sys2Proof.Machine.execCstart c s
  | .cstat c d => Sys2Proof.Machine.execCstat c d s
  | .cbw a c => Sys2Proof.Machine.execCbw a c s
  | .cabort c d => Sys2Proof.Machine.execCabort c d s
  | .barm a b => Sys2Proof.Machine.execBarm a b s
  | .bara a q d => Sys2Proof.Machine.execBara a q d s
  | .barw a q d => Sys2Proof.Machine.execBarw a q d s
  | .bart a d => Sys2Proof.Machine.execBart a d s
  | .bmask a b => Sys2Proof.Machine.execBmask a b s
  | .btime a b => Sys2Proof.Machine.execBtime a b s
  | .asamp a b => Sys2Proof.Machine.execAsamp a b s
  | .athr a b => Sys2Proof.Machine.execAthr a b s
  | .ahist a d => Sys2Proof.Machine.execAhist a d s
  | .aclr a => Sys2Proof.Machine.execAclr a s
  | .astat a d => Sys2Proof.Machine.execAstat a d s
  | .chkpt d => Sys2Proof.Machine.execChkpt d s
  | .ckreg a b n => Sys2Proof.Machine.execCkreg a b n s
  | .ebrd a d w => Sys2Proof.Machine.execEbrd a d w s
  | .ebclr a b d => Sys2Proof.Machine.execEbclr a b d s
  | .killt a d => Sys2Proof.Machine.execKillt a d s
  | .killScrubEnd t => Sys2Proof.Machine.execKillScrubEnd t s
  | .texitDrainDone t => Sys2Proof.Machine.execTexitDrainDone t s
  | .slotFill c => Sys2Proof.Machine.execSlotFill c s
  | .spawnMessage c i_ q => Sys2Proof.Machine.execSpawnMessage c i_ q s
  | .fetchLineArrival t => Sys2Proof.Machine.execFetchLineArrival t s
  | .fetchAhead t ea => Sys2Proof.Machine.execFetchAhead t ea s
  | .userInterruptEntry t => Sys2Proof.Machine.execUserInterruptEntry t s
  | .replayIssue t => Sys2Proof.Machine.execReplayIssue t s
  | .replayForcedPlace t => Sys2Proof.Machine.execReplayForcedPlace t s
  | .replayFaultDelivery t => Sys2Proof.Machine.execReplayFaultDelivery t s
  | .sleepDeadline t => Sys2Proof.Machine.execSleepDeadline t s
  | .recvtDeadline t => Sys2Proof.Machine.execRecvtDeadline t s
  | .migrateArrival t c => Sys2Proof.Machine.execMigrateArrival t c s
  | .slotGate t => Sys2Proof.Machine.execSlotGate t s
  | .slotUngate t => Sys2Proof.Machine.execSlotUngate t s
  | .tsrAccessResume t => Sys2Proof.Machine.execTsrAccessResume t s
  | .evthreadWrite t w => Sys2Proof.Machine.execEvthreadWrite t w s
  | .tepcWrite t w => Sys2Proof.Machine.execTepcWrite t w s
  | .spillqWrite t w => Sys2Proof.Machine.execSpillqWrite t w s
  | .uipendWrite t w => Sys2Proof.Machine.execUipendWrite t w s
  | .rndlfsrWrite t w => Sys2Proof.Machine.execRndlfsrWrite t w s
  | .accessReply t => Sys2Proof.Machine.execAccessReply t s
  | .remoteReply n => Sys2Proof.Machine.execRemoteReply n s
  | .remoteTimeout t e => Sys2Proof.Machine.execRemoteTimeout t e s
  | .remoteRequestAtHome n => Sys2Proof.Machine.execRemoteRequestAtHome n s
  | .journalAck c i_ q => Sys2Proof.Machine.execJournalAck c i_ q s
  | .journalRefusal c i_ q => Sys2Proof.Machine.execJournalRefusal c i_ q s
  | .journalExpired c i_ q => Sys2Proof.Machine.execJournalExpired c i_ q s
  | .feArrival c i_ q => Sys2Proof.Machine.execFeArrival c i_ q s
  | .feQueuedNotice t e => Sys2Proof.Machine.execFeQueuedNotice t e s
  | .feGrantConfirm t e => Sys2Proof.Machine.execFeGrantConfirm t e s
  | .feReprobe q => Sys2Proof.Machine.execFeReprobe q s
  | .postedStfExpire c i_ q => Sys2Proof.Machine.execPostedStfExpire c i_ q s
  | .importEntryExpiry k f g => Sys2Proof.Machine.execImportEntryExpiry k f g s
  | .vectorUnitStart q => Sys2Proof.Machine.execVectorUnitStart q s
  | .vqsplitRelease q => Sys2Proof.Machine.execVqsplitRelease q s
  | .matrixUnitStart c => Sys2Proof.Machine.execMatrixUnitStart c s
  | .tmmasChunk c => Sys2Proof.Machine.execTmmasChunk c s
  | .tmmasResume c => Sys2Proof.Machine.execTmmasResume c s
  | .tileArrival c => Sys2Proof.Machine.execTileArrival c s
  | .forwardAccept c r => Sys2Proof.Machine.execForwardAccept c r s
  | .tsendAccept t e => Sys2Proof.Machine.execTsendAccept t e s
  | .streamElementArrival c x e => Sys2Proof.Machine.execStreamElementArrival c x e s
  | .streamDrain c x => Sys2Proof.Machine.execStreamDrain c x s
  | .ringStreamFill c x => Sys2Proof.Machine.execRingStreamFill c x s
  | .copyChunk c k => Sys2Proof.Machine.execCopyChunk c k s
  | .copyComplete c k => Sys2Proof.Machine.execCopyComplete c k s
  | .arrivalAdd a n => Sys2Proof.Machine.execArrivalAdd a n s
  | .inboxMessage c i_ q => Sys2Proof.Machine.execInboxMessage c i_ q s
  | .forwardDeliver c => Sys2Proof.Machine.execForwardDeliver c s
  | .forwardEntryRemove c => Sys2Proof.Machine.execForwardEntryRemove c s
  | .remapExceptionCommit c s_ i_ => Sys2Proof.Machine.execRemapExceptionCommit c s_ i_ s
  | .chkptCaptureDone c => Sys2Proof.Machine.execChkptCaptureDone c s
  | .coreRetire c => Sys2Proof.Machine.execCoreRetire c s
  | .restoreStart c => Sys2Proof.Machine.execRestoreStart c s
  | .restoreDone c => Sys2Proof.Machine.execRestoreDone c s
  | .errorRecord k n cls unit slot a => Sys2Proof.Machine.execErrorRecord k n cls unit slot a s
  | .sramPatrolScrub a bits => Sys2Proof.Machine.execSramPatrolScrub a bits s
  | .hbmScrub a bits => Sys2Proof.Machine.execHbmScrub a bits s
  | .hbmRefresh k => Sys2Proof.Machine.execHbmRefresh k s
  | .watchReached d x => Sys2Proof.Machine.execWatchReached d x s
  | .collectiveChunkStep d x => Sys2Proof.Machine.execCollectiveChunkStep d x s
  | .collectiveChunkReceive d x => Sys2Proof.Machine.execCollectiveChunkReceive d x s
  | .collectiveComplete d x => Sys2Proof.Machine.execCollectiveComplete d x s
  | .collectiveAbortNotice d x run => Sys2Proof.Machine.execCollectiveAbortNotice d x run s
  | .collectiveTimeout d x => Sys2Proof.Machine.execCollectiveTimeout d x s
  | .collectiveHold d x => Sys2Proof.Machine.execCollectiveHold d x s
  | .collectiveResume d x => Sys2Proof.Machine.execCollectiveResume d x s
  | .barrierArrival x t w => Sys2Proof.Machine.execBarrierArrival x t w s
  | .barrierReleaseDelivery x g t => Sys2Proof.Machine.execBarrierReleaseDelivery x g t s
  | .barrierExcusal x c => Sys2Proof.Machine.execBarrierExcusal x c s
  | .barrierTimeout x => Sys2Proof.Machine.execBarrierTimeout x s
  | .auditRecord q => Sys2Proof.Machine.execAuditRecord q s
  | .sliceRequest k n f => Sys2Proof.Machine.execSliceRequest k n f s
  | .sliceGrant k n f a => Sys2Proof.Machine.execSliceGrant k n f a s
  | .sliceRefusal k n f => Sys2Proof.Machine.execSliceRefusal k n f s
  | .meterCalibration q r => Sys2Proof.Machine.execMeterCalibration q r s
  | .operatingPointChange q => Sys2Proof.Machine.execOperatingPointChange q s
  | .powerCapStep q => Sys2Proof.Machine.execPowerCapStep q s
  | .calendarReplace es => Sys2Proof.Machine.execCalendarReplace es s
  | .opticalFrameReceive k f => Sys2Proof.Machine.execOpticalFrameReceive k f s
  | .opticalFrameRetry k f => Sys2Proof.Machine.execOpticalFrameRetry k f s
  | .portGroupDown k => Sys2Proof.Machine.execPortGroupDown k s
  | .relayForward k => Sys2Proof.Machine.execRelayForward k s
  | .notResidentResend k => Sys2Proof.Machine.execNotResidentResend k s
  | .gateOpen f => Sys2Proof.Machine.execGateOpen f s
  | .gateNotice f p => Sys2Proof.Machine.execGateNotice f p s
  | .gangSliceAbort f => Sys2Proof.Machine.execGangSliceAbort f s
  | .quadGroupComplete q => Sys2Proof.Machine.execQuadGroupComplete q s
  | .quadScrubEnd q => Sys2Proof.Machine.execQuadScrubEnd q s
  | .liveMigrationDone c => Sys2Proof.Machine.execLiveMigrationDone c s
  | .migrOrderEnd o a => Sys2Proof.Machine.execMigrOrderEnd o a s
  | .rightsPropagated t => Sys2Proof.Machine.execRightsPropagated t s
  | .launchWindowWrite f p bs => Sys2Proof.Machine.execLaunchWindowWrite f p bs s
  | .nonceWrite i_ bs => Sys2Proof.Machine.execNonceWrite i_ bs s
  | .fwload a => Sys2Proof.Machine.execFwload a s
  | .mgmtFieldWrite a w => Sys2Proof.Machine.execMgmtFieldWrite a w s
  | .linkWrite bs => Sys2Proof.Machine.execLinkWrite bs s
  | .linkReadRequest bs => Sys2Proof.Machine.execLinkReadRequest bs s
  | .linkReadReply bs => Sys2Proof.Machine.execLinkReadReply bs s
  | .linkIdle bs => Sys2Proof.Machine.execLinkIdle bs s
  | .linkNak bs => Sys2Proof.Machine.execLinkNak bs s
  | .gangSliceBoundary f g => Sys2Proof.Machine.execGangSliceBoundary f g s
  | .fabricLifetimeExpiry n => Sys2Proof.Machine.execFabricLifetimeExpiry n s
  | .streamFetchIssue c x => Sys2Proof.Machine.execStreamFetchIssue c x s
  | .linkFlitDiscarded bs => Sys2Proof.Machine.execLinkFlitDiscarded bs s
  | .add d a b => Sys2Proof.Machine.execAdd d a b s
  | .sub d a b => Sys2Proof.Machine.execSub d a b s
  | .mul d a b => Sys2Proof.Machine.execMul d a b s
  | .mulh d a b => Sys2Proof.Machine.execMulh d a b s
  | .mulhu d a b => Sys2Proof.Machine.execMulhu d a b s
  | .div d a b => Sys2Proof.Machine.execDiv d a b s
  | .divu d a b => Sys2Proof.Machine.execDivu d a b s
  | .rem d a b => Sys2Proof.Machine.execRem d a b s
  | .remu d a b => Sys2Proof.Machine.execRemu d a b s
  | .and d a b => Sys2Proof.Machine.execAnd d a b s
  | .or d a b => Sys2Proof.Machine.execOr d a b s
  | .xor d a b => Sys2Proof.Machine.execXor d a b s
  | .andn d a b => Sys2Proof.Machine.execAndn d a b s
  | .shl d a b => Sys2Proof.Machine.execShl d a b s
  | .shr d a b => Sys2Proof.Machine.execShr d a b s
  | .sha d a b => Sys2Proof.Machine.execSha d a b s
  | .rol d a b => Sys2Proof.Machine.execRol d a b s
  | .clz d a => Sys2Proof.Machine.execClz d a s
  | .ctz d a => Sys2Proof.Machine.execCtz d a s
  | .popc d a => Sys2Proof.Machine.execPopc d a s
  | .min d a b => Sys2Proof.Machine.execMin d a b s
  | .max d a b => Sys2Proof.Machine.execMax d a b s
  | .minu d a b => Sys2Proof.Machine.execMinu d a b s
  | .maxu d a b => Sys2Proof.Machine.execMaxu d a b s
  | .slt d a b => Sys2Proof.Machine.execSlt d a b s
  | .sltu d a b => Sys2Proof.Machine.execSltu d a b s
  | .seq d a b => Sys2Proof.Machine.execSeq d a b s
  | .sel d a b c => Sys2Proof.Machine.execSel d a b c s
  | .addsc d a b k => Sys2Proof.Machine.execAddsc d a b k s
  | .exts d a w => Sys2Proof.Machine.execExts d a w s
  | .extz d a w => Sys2Proof.Machine.execExtz d a w s
  | .bext d a b => Sys2Proof.Machine.execBext d a b s
  | .bins d a b => Sys2Proof.Machine.execBins d a b s
  | .coreid d => Sys2Proof.Machine.execCoreid d s
  | .cxy d a b => Sys2Proof.Machine.execCxy d a b s
  | .crel d a b => Sys2Proof.Machine.execCrel d a b s
  | .addi d a i_ => Sys2Proof.Machine.execAddi d a i_ s
  | .andi d a i_ => Sys2Proof.Machine.execAndi d a i_ s
  | .ori d a i_ => Sys2Proof.Machine.execOri d a i_ s
  | .xori d a i_ => Sys2Proof.Machine.execXori d a i_ s
  | .slti d a i_ => Sys2Proof.Machine.execSlti d a i_ s
  | .sltui d a i_ => Sys2Proof.Machine.execSltui d a i_ s
  | .shli d a n => Sys2Proof.Machine.execShli d a n s
  | .shri d a n => Sys2Proof.Machine.execShri d a n s
  | .shai d a n => Sys2Proof.Machine.execShai d a n s
  | .roli d a n => Sys2Proof.Machine.execRoli d a n s
  | .lhi d a i_ => Sys2Proof.Machine.execLhi d a i_ s
  | .beq a b i_ => Sys2Proof.Machine.execBeq a b i_ s
  | .bne a b i_ => Sys2Proof.Machine.execBne a b i_ s
  | .blt a b i_ => Sys2Proof.Machine.execBlt a b i_ s
  | .bge a b i_ => Sys2Proof.Machine.execBge a b i_ s
  | .bltu a b i_ => Sys2Proof.Machine.execBltu a b i_ s
  | .bgeu a b i_ => Sys2Proof.Machine.execBgeu a b i_ s
  | .loop a b i_ => Sys2Proof.Machine.execLoop a b i_ s
  | .j i_ => Sys2Proof.Machine.execJ i_ s
  | .jal i_ => Sys2Proof.Machine.execJal i_ s
  | .jalr d a i_ => Sys2Proof.Machine.execJalr d a i_ s
  | .fadd d a b => Sys2Proof.Machine.execFadd d a b s
  | .fsub d a b => Sys2Proof.Machine.execFsub d a b s
  | .fmul d a b => Sys2Proof.Machine.execFmul d a b s
  | .fma d a b c => Sys2Proof.Machine.execFma d a b c s
  | .fdiv d a b => Sys2Proof.Machine.execFdiv d a b s
  | .fsqrt d a => Sys2Proof.Machine.execFsqrt d a s
  | .fmin d a b => Sys2Proof.Machine.execFmin d a b s
  | .fmax d a b => Sys2Proof.Machine.execFmax d a b s
  | .fcmp d a b c => Sys2Proof.Machine.execFcmp d a b c s
  | .fcvt d a s_ f => Sys2Proof.Machine.execFcvt d a s_ f s
  | .fclass d a => Sys2Proof.Machine.execFclass d a s
  | .fsgn d a b m => Sys2Proof.Machine.execFsgn d a b m s
  | .dadd d a b => Sys2Proof.Machine.execDadd d a b s
  | .dsub d a b => Sys2Proof.Machine.execDsub d a b s
  | .dmul d a b => Sys2Proof.Machine.execDmul d a b s
  | .dfma d a b c => Sys2Proof.Machine.execDfma d a b c s
  | .ddiv d a b => Sys2Proof.Machine.execDdiv d a b s
  | .dsqrt d a => Sys2Proof.Machine.execDsqrt d a s
  | .dmin d a b => Sys2Proof.Machine.execDmin d a b s
  | .dmax d a b => Sys2Proof.Machine.execDmax d a b s
  | .dcmp d a b c => Sys2Proof.Machine.execDcmp d a b c s
  | .dcvt d a s_ f => Sys2Proof.Machine.execDcvt d a s_ f s
  | .dclass d a => Sys2Proof.Machine.execDclass d a s
  | .dsgn d a b m => Sys2Proof.Machine.execDsgn d a b m s
  | .orcv d => Sys2Proof.Machine.execOrcv d s
  | .xmac a b => Sys2Proof.Machine.execXmac a b s
  | .xrd d => Sys2Proof.Machine.execXrd d s
  | .csrr d c => Sys2Proof.Machine.execCsrr d c s
  | .csrw d a c => Sys2Proof.Machine.execCsrw d a c s
  | .csrs d a c => Sys2Proof.Machine.execCsrs d a c s
  | .csrc d a c => Sys2Proof.Machine.execCsrc d a c s
  | .trap a n => Sys2Proof.Machine.execTrap a n s
  | .park a => Sys2Proof.Machine.execPark a s
  | .tfork d a b => Sys2Proof.Machine.execTfork d a b s
  | .bsig l c => Sys2Proof.Machine.execBsig l c s
  | .pfx a b d r s_ e => Sys2Proof.Machine.execPfx a b d r s_ e s
  | .pfxTag t r s_ f d => Sys2Proof.Machine.execPfxTag t r s_ f d s
  | .rep n k s_ => Sys2Proof.Machine.execRep n k s_ s
  | .mbal a d w => Sys2Proof.Machine.execMbal a d w s
  | .muse a d => Sys2Proof.Machine.execMuse a d s
  | .mqsetRate a b d => Sys2Proof.Machine.execMqsetRate a b d s
  | .mqsetCap a b d => Sys2Proof.Machine.execMqsetCap a b d s
  | .mqsetDeposit a b d => Sys2Proof.Machine.execMqsetDeposit a b d s
  | .mqsetLimrate a b d => Sys2Proof.Machine.execMqsetLimrate a b d s
  | .mqsetLimcap a b d => Sys2Proof.Machine.execMqsetLimcap a b d s
  | .mqsetUnl a b d => Sys2Proof.Machine.execMqsetUnl a b d s
  | .msplit a d => Sys2Proof.Machine.execMsplit a d s
  | .msplitSet a d => Sys2Proof.Machine.execMsplitSet a d s
  | .mfloor a b d => Sys2Proof.Machine.execMfloor a b d s
  | .mfloorSet a b d => Sys2Proof.Machine.execMfloorSet a b d s
  | .ocal a d => Sys2Proof.Machine.execOcal a d s
  | .onext a d => Sys2Proof.Machine.execOnext a d s
  | .opol a d => Sys2Proof.Machine.execOpol a d s
  | .opolSet a d => Sys2Proof.Machine.execOpolSet a d s
  | .ostat a d => Sys2Proof.Machine.execOstat a d s
  | .dlaunch a b d => Sys2Proof.Machine.execDlaunch a b d s
  | .migrMove a b d => Sys2Proof.Machine.execMigrMove a b d s
  | .migrHome a b d => Sys2Proof.Machine.execMigrHome a b d s
  | .migrEvict a b d => Sys2Proof.Machine.execMigrEvict a b d s
  | .migrResume a b d => Sys2Proof.Machine.execMigrResume a b d s
  | .vfctlReadField a b d => Sys2Proof.Machine.execVfctlReadField a b d s
  | .vfctlWriteField a b d => Sys2Proof.Machine.execVfctlWriteField a b d s
  | .vfctlCreate a b d => Sys2Proof.Machine.execVfctlCreate a b d s
  | .vfctlDestroy a b d => Sys2Proof.Machine.execVfctlDestroy a b d s
  | .vfctlInval a b d => Sys2Proof.Machine.execVfctlInval a b d s
  | .vfctlWake a b d => Sys2Proof.Machine.execVfctlWake a b d s
  | .vfctlRefuse a b d => Sys2Proof.Machine.execVfctlRefuse a b d s
  | .rightsRead a b d => Sys2Proof.Machine.execRightsRead a b d s
  | .rightsGrant a b d => Sys2Proof.Machine.execRightsGrant a b d s
  | .rightsRevoke a b d => Sys2Proof.Machine.execRightsRevoke a b d s
  | .xacz => Sys2Proof.Machine.execXacz s
  | .xret => Sys2Proof.Machine.execXret s
  | .texit => Sys2Proof.Machine.execTexit s
  | .vshadow => Sys2Proof.Machine.execVshadow s
  | .taccz => Sys2Proof.Machine.execTaccz s
  | .mcancel => Sys2Proof.Machine.execMcancel s
  | .mcancelDrain => Sys2Proof.Machine.execMcancelDrain s
  | .telemetry => Sys2Proof.Machine.execTelemetry s
  | .quotaRefill => Sys2Proof.Machine.execQuotaRefill s
  | .meterWindowClose => Sys2Proof.Machine.execMeterWindowClose s
  | .powerRecovery => Sys2Proof.Machine.execPowerRecovery s
  | .calendarSlotStart => Sys2Proof.Machine.execCalendarSlotStart s
  | .placementPass => Sys2Proof.Machine.execPlacementPass s
  | .quoteComplete => Sys2Proof.Machine.execQuoteComplete s
  | .linkEnable => Sys2Proof.Machine.execLinkEnable s
  | .linkTrainDone => Sys2Proof.Machine.execLinkTrainDone s
  | .linkAlignDone => Sys2Proof.Machine.execLinkAlignDone s
  | .linkRetrain => Sys2Proof.Machine.execLinkRetrain s
  | .linkStateTimeout => Sys2Proof.Machine.execLinkStateTimeout s
  | .linkFailed => Sys2Proof.Machine.execLinkFailed s
  | .powerUp => Sys2Proof.Machine.execPowerUp s
  | .linkResetRetry => Sys2Proof.Machine.execLinkResetRetry s

end Sys2Proof.Machine
end

