-- ==== Sys2Proof/Machine/Issue.lean ====
section
/-! DEFINITION. An issue of a thread: what precedes its word, the word's decoding and execution, its capture by REP (R61, R68,
R86 to R88, R93, R113, R114, R336, R411). -/

namespace Sys2Proof.Machine

/-- An ILLEGAL_INSN of a word that does not decode, exact at it (R61). -/
def State.undecoded (s : State) (w : Half) : State :=
  s.wordTrap s.cur { code := cIllegal, tval := w.zeroExtend 64 }

/-- The decoding of a word as the executing core takes it: an EXT.W word of a class that the core does not list migrates
before its function code is looked at (R61, R62). -/
noncomputable def State.runWord (s : State) (w : Half) : Out :=
  match decode w with
  | .ok i => exec (selectRow i s) s
  | .error _ =>
    if majorNat w = 0x38 && extClass w != 3 && !s.listsClass s.here (extClass w) then
      .next (settle s (s.migrateFor s.cur (extClass w) { word := w }))
    else .next (s.undecoded w)

/-- The charges of an issued word: ISSUE, with FPOP or VCYC for its class (R409, R411). -/
def State.chargeIssue (s : State) (w : Half) : State :=
  let s := s.chargeThread s.cur 0 1
  let m := majorNat w
  if m = 0x0A || (m = 0x38 && extClass w = 0) then s.chargeThread s.cur 1 1
  else if m = 0x38 && extClass w = 1 then s.chargeThread s.cur 2 1
  else s

/-- An integer instruction of residue mode, which takes two rotations (R336). -/
def Thread.twoIssues (th : Thread) (w : Half) : Bool :=
  th.tsr.res && ((1 ≤ majorNat w && majorNat w ≤ 9) || majorNat w == 0x15)

/-- The prefixes that a word to be captured accepts (R66, R68). -/
def captureRule (w : Half) (i : Instr) : Option PfxRule := if majorNat w = 0x24 then matRule i else vecRule i

/-- A prefix is accepted by a word's rule. -/
def PfxRule.acceptsFor (r : Option PfxRule) (p : BitVec 26) : Bool :=
  match r with
  | some r => r.accepts p
  | none => false

/-- The thread passes a captured word. -/
def Thread.passWord (th : Thread) (r : Rep) : Thread := { th with pc := th.pc + 4, blk := th.blkNext, rep := r }

/-- A word is added to the buffer; with the last one the replays become due (R68). -/
def State.captureAdd (s : State) (c : Capture) : State :=
  let r := s.me.rep
  let r' : Rep := { r with caps := r.caps ++ [c], pfx := none, want := r.want - 1, live := r.want == 1, since := s.cycle }
  let s := s.modMe fun th => th.passWord r'
  if r'.live then s.replayDue s.cur else s

/-- The capture of one fetched word by REP. -/
noncomputable def State.captureWord (s : State) (w : Half) : State :=
  let r := s.me.rep
  match decode w with
  | .error _ => s.undecoded w
  | .ok i =>
    if majorNat w = 0x1E && r.pfx.isNone then s.modMe fun th => th.passWord { r with pfx := some (w.extractLsb' 0 26) }
    else if !(0x20 ≤ majorNat w && majorNat w ≤ 0x24) then s.undecoded w
    else match r.pfx with
      | none => s.captureAdd { insn := i, word := w, pfx := none }
      | some p =>
        if PfxRule.acceptsFor (captureRule w i) p then s.captureAdd { insn := i, word := w, pfx := some p }
        else s.wordTrap s.cur { code := cPrefix, tval := w ++ (30#6 ++ p) }

/-- The next sequential line is fetched ahead when the first word of a line issues (R483). -/
def State.ahead (s : State) (t : Nat) : State :=
  let th := s.thr t
  if th.pc.toNat % 64 = 0 && (th.heldLine (th.pc.toNat + 64)).isNone then s.dueOnce (.fetchAhead t (th.pc.toNat + 64)) else s

/-- A fetched word is issued: checked against its block, captured, or charged and executed. -/
noncomputable def State.issueWord (s : State) (w : Half) : Out :=
  let t := s.cur
  match s.me.sign w with
  | none => .next (s.kill t 0x20)
  | some b =>
    let s := (s.ahead t).modMe fun th => { th with word := w, blkNext := b }
    if s.me.rep.want != 0 then .next (s.captureWord w)
    else if s.me.twoIssues w then .next ((s.chargeIssue w).modMe fun th => { th with resHalf := true })
    else (s.chargeIssue w).runWord w

/-- The word at pc comes back with what its wait brought, a granted result or a refused page (R160, R169); it has been
fetched, and is not fetched again (log entry 18). -/
def Thread.returns (th : Thread) : Bool := !th.op.fetch && (th.op.reply != .none || th.op.refused)

/-- A word is CHKPT. -/
noncomputable def isChkpt (w : Half) : Bool :=
  match decode w with
  | .ok (.chkpt _) => true
  | _ => false

/-- An issue of a thread whose core captures its context: a CHKPT at its pc is executed (R343); before any other word the thread
stays as it is until the capture has ended (R331). -/
noncomputable def State.issueCapturing (s : State) (t : Nat) : Out :=
  if !s.me.fresh || s.me.resHalf || s.me.repFault.isSome || !s.mayAccept t then .next s
  else match s.fetch t with
    | .word s2 w => if isChkpt w then s2.issueWord w else .next s
    | _ => .next s

/-- An issue of thread `t` (R86): a word it is inside continues; a replay fault is delivered; at the quota boundary it parks;
a user interrupt is taken, and the handler's first word may issue in the same cycle; otherwise the word at its pc is
fetched and issued. -/
noncomputable def State.issue (s : State) (t : Nat) : Out :=
  let s : State := { s with cur := t }.pairSync t
  let th := s.me
  if (s.core s.here).capturing then s.issueCapturing t
  else if th.op.again then (s.modMe fun th => { th with op := { th.op with again := false } }).runWord th.word
  else if th.resHalf then (s.modMe fun th => { th with resHalf := false }).runWord th.word
  else if s.faultReady t then exec (.replayFaultDelivery t) s
  else if th.rep.want = 0 && !s.mayAccept t then .next ((s.quotaFail (quadOf (coreOf t)) th.fn).park t .quota th.op)
  else if s.mayInterrupt t then
    match exec (.userInterruptEntry t) s with
    | .next s' => .next { s' with cursor := coreOf t }
    | r => r
  else if th.returns then s.issueWord th.word
  else match s.fetch t with
    | .wait s => .next s
    | .trap s c => .next (s.wordTrap t c)
    | .word s w => s.issueWord w

end Sys2Proof.Machine
end

