-- ==== Sys2Proof/Machine/Step.lean ====
section
/-! DEFINITION. One step of the panel: an issue of the thread whose turn it is, else a due event or input, else the next
cycle (R86; log entries 4 and 5). -/

namespace Sys2Proof.Machine

/-- A slot issues: it is not held from outside, or only by the capture of its core's context, during which a CHKPT may still
issue (R331, R343). -/
def State.issues (s : State) (t : Nat) : Bool :=
  !s.held t || !State.held (s.modCore (coreOf t) fun k => { k with capturing := false }) t

/-- The thread that issues next in this cycle: RUN, not held from outside, its slot the one of its core's cycle, on the
first core that has not had its turn. -/
def State.turn (s : State) : Option Nat :=
  (s.threads.find? fun p =>
    p.2.st == .run && s.cycleOf (coreOf p.1) % 16 == slotOf p.1 && s.cursor ≤ coreOf p.1 && s.issues p.1).map (·.1)

/-- The turn of thread `t`: its core has had its issue of this cycle, which is no bubble (R88). -/
def State.atTurn (s : State) (t : Nat) : State := State.spend { s with cursor := coreOf t + 1 } (coreOf t)

/-- The next cycle begins, after what the barrier engine, the error banks and the triers do at the end of this one (R339, R372,
R390). -/
def State.tick (s : State) : State :=
  let s := s.barCycle.errorCycle.trierCycle
  { s with cycle := s.cycle + 1, cursor := 0 }

/-- One step. After the issues of a cycle, which due event or input comes next, or none, is free (log entry 5). -/
noncomputable def step (s : State) : Host.Outcome State Fault Refusal :=
  match s.turn with
  | some t => (s.atTurn t).issue t
  | none =>
    if s.agenda = [] then .next s.tick
    else
      let i := Config.choose s.fresh (s.agenda.length + 1) % (s.agenda.length + 1)
      let s1 : State := { s with fresh := s.fresh + 1 }
      match s.agenda[i]? with
      | some e => exec e { s1 with agenda := s.agenda.eraseIdx i }
      | none => .next s1.tick

/-- The thread that `withFetchWord` gives an instruction: as a launch leaves it, at level U, at effective address 0, with
one segment that reaches its own TCM. -/
def Thread.placed (th : Thread) : Thread :=
  { th with st := .run, pc := 0, tsr := {}, op := {}, fbuf := [], ahead := none, rep := {}, fly := none, repFault := none
            resHalf := false, present := false, fn := 0, home := 0, segs := vmod {} th.segs 0 fun _ => { base := 0, limit := 2 ^ 61 - 1, rights := 0x1F } }

/-- A state in which the next step fetches and runs the word `w`: it is stored at the start of core 0's TCM, and a thread
of function 0 in the slot whose turn it is stands there, in a quad that the function holds and with no quota test to fail
(log entry 4). -/
def State.withFetchWord (s : State) (_nbits w : Nat) : State :=
  let t := s.cycleOf 0 % 16
  let s1 : State := { s with cursor := 0, poison := s.poison.filter fun a => 64 ≤ a }
  let s2 := s1.modThr t Thread.placed
  let s3 := s2.modCore 0 fun k => { k with gated := 0, moving := false, leaving := false, ganged := false, capturing := false
                                           place := { k.place with service := .inService } }
  let s4 := (s3.modQuad 0 fun q => { q with hold := .held 0 0 false }).modFn 0 fun f => { f with st := .active, unl := true }
  s4.wr 0 (toBytes 4 w)

end Sys2Proof.Machine
end

