-- ==== Sys2Proof/Safety.lean ====
section
/-! DEFINITION. What statements call sound: the canonical form of memory, the fixed readings of registers, and the plain
situations in which an instruction runs with nothing else pending. -/

namespace Sys2Proof.Machine

/-- Memory is in its canonical form. -/
def State.memOk (s : State) : Prop := Memory.wf s.mem = true

/-- In residue mode every scalar register has the residue of its value (R336). -/
def Thread.residuesHold (th : Thread) : Prop := th.tsr.res = true → ∀ r, th.residueBad r = false

/-- The executing thread runs a word by itself: it is not one of a pair, no stream is bound to a scalar register, no
repetition is in progress, the residues of its registers hold, nothing is left of a park (R110, R269, R335, R336). A prefix
may be pending. -/
structure State.Alone (s : State) : Prop where
  single : s.me.tsr.pair = false
  noStreams : s.streaming s.cur = false
  noReplays : s.me.replaying = false
  residues : s.me.residuesHold
  freshOp : s.me.op = {}

/-- The executing thread runs a word by itself and no prefix is pending (R65). -/
structure State.Plain (s : State) : Prop where
  alone : s.Alone
  noPrefix : s.me.tsr.pp = false

/-- The executing thread runs a word by itself with no prefix pending; streams may be bound to its registers. -/
structure State.Idle (s : State) : Prop where
  single : s.me.tsr.pair = false
  noReplays : s.me.replaying = false
  residues : s.me.residuesHold
  freshOp : s.me.op = {}
  noPrefix : s.me.tsr.pp = false

/-- The executing thread takes up a word that its engine, level or unit has taken (`takenMark`), with nothing else pending. -/
structure State.Taken (s : State) : Prop where
  single : s.me.tsr.pair = false
  noStreams : s.streaming s.cur = false
  noReplays : s.me.replaying = false
  residues : s.me.residuesHold
  noPrefix : s.me.tsr.pp = false
  taken : s.me.op.aux = takenMark
  fresh : s.me.op.reply = .none

/-- The executing thread takes up a word that the service die has answered (R462), with nothing else pending. -/
structure State.Served (s : State) : Prop where
  single : s.me.tsr.pair = false
  noStreams : s.streaming s.cur = false
  noReplays : s.me.replaying = false
  residues : s.me.residuesHold
  noPrefix : s.me.tsr.pp = false
  service : s.me.op.service = true
  fresh : s.me.op.reply = .none

/-- The executing thread takes up a word whose bytes or answer `bs` have come, with nothing else pending. -/
structure State.Answered (s : State) (bs : List Byte) : Prop where
  single : s.me.tsr.pair = false
  noStreams : s.streaming s.cur = false
  noReplays : s.me.replaying = false
  residues : s.me.residuesHold
  noPrefix : s.me.tsr.pp = false
  reply : s.me.op.reply = .data bs

/-- The executing thread takes up a word whose accesses have read the bytes `bs`, with nothing else pending. -/
structure State.Fetched (s : State) (bs : List Byte) : Prop where
  single : s.me.tsr.pair = false
  noStreams : s.streaming s.cur = false
  noReplays : s.me.replaying = false
  residues : s.me.residuesHold
  noPrefix : s.me.tsr.pp = false
  due : s.me.op.insn.isSome = true ∨ s.me.op.service = true
  reply : s.me.op.reply = .ok
  got : s.me.op.got = bs

/-- `t` is `s` after a completed word that wrote `v` to scalar register `d`, with memory as it was. -/
structure State.Wrote (s t : State) (d : BitVec 5) (v : Word) : Prop where
  reg : ∀ k, (t.thr s.cur).reg k = if k = d.toNat ∧ k ≠ 0 then v else s.me.reg k
  pc : (t.thr s.cur).pc = s.me.pc + 4
  running : (t.thr s.cur).st = .run
  mem : t.mem = s.mem

/-- A pending prefix, where there is one, is one that the word's rule accepts (R66). -/
def State.prefixFits (s : State) (rule : Option PfxRule) : Prop :=
  s.me.tsr.pp = true → ∃ r, rule = some r ∧ r.accepts s.me.pfxsave = true

/-- A control transfer may leave the word: no signed block stays open (R114). -/
def State.mayBranch (s : State) : Prop := s.me.breaksBlock = false

/-- The executing thread after a completed word that changed it from `s` to `s1`: at the next word, with what it holds of a
signed block after that word. -/
def State.after (s s1 : State) : State := settle s (.done s1)

/-- The executing thread after a taken transfer to `pc`. -/
def State.jumped (s : State) (s1 : State) (pc : Word) : State := settle s (.goto s1 pc)

/-- Nothing of the machine but the executing thread differs. -/
def State.elsewhere (s t : State) : Prop :=
  { t with threads := s.threads } = s ∧ ∀ k, k ≠ s.cur → t.thr k = s.thr k

/-- The executing thread waits, parked with a reason, until its word has been taken: what follows is due, and nothing else of
the machine differs. -/
structure State.Waits (s t : State) (why : Park) : Prop where
  parked : (t.thr s.cur).st = .parked why
  marked : (t.thr s.cur).op.aux = takenMark
  pc : (t.thr s.cur).pc = s.me.pc
  regs : (t.thr s.cur).g = s.me.g
  answer : .accessReply s.cur ∈ t.agenda
  same : s.elsewhere { t with agenda := s.agenda }

/-- The executing thread waits, parked with reason ENGINE, for the service die's answer to its word (R462): what follows is
due, and nothing else of the machine differs. -/
structure State.AwaitsService (s t : State) : Prop where
  parked : (t.thr s.cur).st = .parked .engine
  service : (t.thr s.cur).op.service = true
  pc : (t.thr s.cur).pc = s.me.pc
  regs : (t.thr s.cur).g = s.me.g
  answer : .accessReply s.cur ∈ t.agenda
  same : s.elsewhere { t with agenda := s.agenda }

/-- An audit instruction of the executing thread acts at its quad's trier: it has been taken, it waits for nothing, and none
that issued before it is still on its way (R398, R401). -/
structure State.AtTrier (s : State) (i : Instr) : Prop where
  taken : s.Taken
  waits : s.trierWaits s.cur i = false
  first : s.trierBefore (quadOf s.here) s.me.op.ea.toNat s.here = false

/-- A selector names a function that the executing thread may act on: its own, or from level L with the rights another, at
level L one of its lease (R420). -/
def State.selects (s : State) (x f : Nat) : Prop :=
  x < 384 ∧ f = s.me.fn ∨
    2 ≤ s.level ∧ x = 32768 + f ∧ f < 384 ∧ (s.level = 2 → (s.fn f).lease = s.me.lease) ∧ s.hasRight 2 = true ∧
      s.hasRight 6 = true

/-- The state in which a floating-point instruction has rounded an exact value, with its flags, into a register (R118). -/
def State.roundedInto (s : State) (d : BitVec 5) (natural : Nat) (x : Num × Flags) : State :=
  match s.fpWrite d natural x.1 x.2 with
  | .done t => t
  | _ => s

/-- An access of `n` bytes at effective address `ea` by the executing thread reaches its core's own TCM, at domain address
`da` and canonical address `x`: the checks pass, the words are sound, no posted store of the core is pending and nothing
waits on a full/empty word; memory is canonical. -/
structure State.OwnTcm (s : State) (ea da : Word) (x n need : Nat) : Prop where
  place : s.segCheck s.me (quadOf s.here) ea n need = .ok (da, .tcm s.here, x)
  noPosted : (s.core s.here).journal = []
  noWaiters : ∀ q, (s.quad q).waits = [] ∧ (s.quad q).tickets = []
  sound : s.poisoned x n = false
  canon : s.memOk

/-- `t` is `s` after a completed word that wrote `v` to scalar register `d`: no other register, no flag and no byte of
memory has changed, and the thread stands at the next word. -/
structure State.Loaded (s t : State) (d : BitVec 5) (v : Word) : Prop where
  reg : ∀ k, (t.thr s.cur).reg k = if k = d.toNat ∧ k ≠ 0 then v else s.me.reg k
  pc : (t.thr s.cur).pc = s.me.pc + 4
  running : (t.thr s.cur).st = .run
  flags : (t.thr s.cur).tsr.flags = s.me.tsr.flags
  mem : t.mem = s.mem
  poison : t.poison = s.poison
  others : ∀ k, k ≠ s.cur → (t.thr k).g = (s.thr k).g ∧ (t.thr k).pc = (s.thr k).pc

/-- `t` is `s` after a completed word that stored the bytes `bs` from canonical address `x`: every other byte of memory,
every register and every flag is as before, and the thread stands at the next word. -/
structure State.Stored (s t : State) (x : Nat) (bs : List Byte) : Prop where
  inside : ∀ i, i < bs.length → memGet t.mem (x + i) = bs.getD i 0
  outside : ∀ a, a < x ∨ x + bs.length ≤ a → memGet t.mem a = memGet s.mem a
  regs : (t.thr s.cur).g = s.me.g
  pc : (t.thr s.cur).pc = s.me.pc + 4
  running : (t.thr s.cur).st = .run
  flags : (t.thr s.cur).tsr.flags = s.me.tsr.flags
  others : ∀ k, k ≠ s.cur → t.thr k = s.thr k

/-- The vector unit takes a word of the executing thread at once: the thread runs by itself under a prefix that fits, no
stream stands behind a vector register, nothing is queued at the unit, the quota allows it, the lanes it reads pass their
checks, and the core lists its class (R199, R203, R411). -/
structure State.VectorReady (s : State) (i : Instr) : Prop where
  alone : s.Alone
  fits : s.prefixFits (vecRule i)
  noStreams : (s.core s.here).ctxs.toList.any (fun x => x.bound && !x.susp && x.owner == s.cur && x.kind == 1) = false
  idle : (s.core s.here).vq = [] ∧ (s.core s.here).vwait = []
  quota : 2 ≤ s.level ∨ s.quotaOk (quadOf s.here) s.me.fn = true
  checked : s.me.checkFail (vecReads i s.me) = none
  listed : majorOf (encode i) = 0x38 → s.w64 s.here = true

/-- What no vector word that writes only its own destinations changes: other vector registers (VSHADOW writes check fields of
the latched one), memory, other threads; the thread stands at the next word. -/
structure State.VecFrame (s t : State) (i : Instr) : Prop where
  vec : ∀ r, r < 8 → r ∉ vecWrites i → (i = .vshadow → ∀ k, s.me.latch = some k → r ≠ k.vd % 8) →
    (t.thr s.cur).vec r = s.me.vec r
  data : ∀ r l, r < 8 → l < 64 → r ∉ vecWrites i → ((t.thr s.cur).lane r l).data = (s.me.lane r l).data
  mem : t.mem = s.mem
  full : t.full = s.full
  others : ∀ k, k ≠ s.cur → t.thr k = s.thr k
  pc : (t.thr s.cur).pc = s.me.pc + 4
  running : (t.thr s.cur).st = .run
  level : (t.thr s.cur).tsr.pl = s.me.tsr.pl

/-- The pointers of a ring agree with its counts (R234): PI is NF + NL slots past CI. -/
def Ring.inStep (r : Ring) : Prop := r.pi = (r.ci + r.nf + r.nl) % r.len

/-- The matrix unit takes a word of the executing thread at once: the thread runs by itself under a prefix that fits, the
unit and its queue are idle, the quota allows it, and no tile that it reads or writes directly is being filled (R240, R243,
R411). -/
structure State.MatrixReady (s : State) (i : Instr) : Prop where
  alone : s.Alone
  fits : s.prefixFits (matRule i)
  idle : (s.core s.here).unitIdle = true
  quota : s.mayAccept s.cur = true
  settled : ((s.core s.here).directTiles i).any (s.core s.here).filling = false

/-- What no matrix word changes: the registers of threads, other threads, the accumulator's geometry; the thread stands at
the next word. -/
structure State.MatFrame (s t : State) : Prop where
  regs : (t.thr s.cur).g = s.me.g
  vec : (t.thr s.cur).v = s.me.v ∧ (t.thr s.cur).m = s.me.m
  others : ∀ k, k ≠ s.cur → t.thr k = s.thr k
  accg : (t.core s.here).accg = (s.core s.here).accg
  free : (t.core s.here).munit = none
  pc : (t.thr s.cur).pc = s.me.pc + 4
  running : (t.thr s.cur).st = .run
  level : (t.thr s.cur).tsr.pl = s.me.tsr.pl

/-- The context of a core is present: it runs where traffic reaches it, and none is held for it (R311, R314). -/
structure Core.Present (k : Core) : Prop where
  here : k.away = false
  served : k.place.service ≠ .absent
  noHeld : k.place.held = []

/-- Nothing waits on a full/empty or arrival word of the panel. -/
def State.noWaits (s : State) : Prop := ∀ q, (s.quad q).waits = [] ∧ (s.quad q).tickets = []

/-- The executing thread's accesses to its own TCM pass the owner check of rows (R156). -/
def State.ownsTcm (s : State) : Prop := 2 ≤ s.level ∨ ∀ y, s.ownerOk s.me.fn (.tcm s.here) y = true

end Sys2Proof.Machine

namespace Sys2Proof

/-- The instructions of majors 0x01 to 0x09, with their destination: they only write a scalar register. -/
def Instr.isInteger (i : Instr) (d : BitVec 5) : Prop :=
  (∃ a b, i = .add d a b ∨ i = .sub d a b ∨ i = .mul d a b ∨ i = .mulh d a b ∨ i = .mulhu d a b ∨ i = .div d a b ∨
    i = .divu d a b ∨ i = .rem d a b ∨ i = .remu d a b ∨ i = .and d a b ∨ i = .or d a b ∨ i = .xor d a b ∨
    i = .andn d a b ∨ i = .shl d a b ∨ i = .shr d a b ∨ i = .sha d a b ∨ i = .rol d a b ∨ i = .min d a b ∨
    i = .max d a b ∨ i = .minu d a b ∨ i = .maxu d a b ∨ i = .slt d a b ∨ i = .sltu d a b ∨ i = .seq d a b ∨
    i = .bext d a b ∨ i = .bins d a b ∨ i = .cxy d a b ∨ i = .crel d a b) ∨
  (∃ a, i = .clz d a ∨ i = .ctz d a ∨ i = .popc d a) ∨ i = .coreid d ∨ (∃ a b c, i = .sel d a b c) ∨
  (∃ a b k, i = .addsc d a b k) ∨ (∃ a w, i = .exts d a w ∨ i = .extz d a w) ∨
  (∃ a n, i = .addi d a n ∨ i = .andi d a n ∨ i = .ori d a n ∨ i = .xori d a n ∨ i = .slti d a n ∨ i = .sltui d a n ∨
    i = .lhi d a n) ∨
  (∃ a n, i = .shli d a n ∨ i = .shri d a n ∨ i = .shai d a n ∨ i = .roli d a n)

/-- The privilege level that a form needs (R61 step 6): 0 U, 1 S, 2 L. -/
def Instr.levelNeeded (i : Instr) : Nat :=
  match i with
  | .segw _ _ _ => 1
  | .mqsetRate _ _ _ => 1
  | .mqsetCap _ _ _ => 1
  | .mqsetDeposit _ _ _ => 2
  | .mqsetLimrate _ _ _ => 2
  | .mqsetLimcap _ _ _ => 2
  | .mqsetUnl _ _ _ => 2
  | .msplitSet _ _ => 2
  | .mfloorSet _ _ _ => 2
  | .opolSet _ _ => 1
  | .ckreg _ _ _ => 1
  | .ebrd _ _ _ => 1
  | .ebclr _ _ _ => 1
  | .killt _ _ => 1
  | .dlaunch _ _ _ => 1
  | .migrMove _ _ _ => 2
  | .migrHome _ _ _ => 2
  | .migrEvict _ _ _ => 2
  | .migrResume _ _ _ => 2
  | .vfctlReadField _ _ _ => 1
  | .vfctlWriteField _ _ _ => 1
  | .vfctlCreate _ _ _ => 1
  | .vfctlDestroy _ _ _ => 1
  | .vfctlInval _ _ _ => 1
  | .vfctlWake _ _ _ => 1
  | .vfctlRefuse _ _ _ => 1
  | .rightsRead _ _ _ => 1
  | .rightsGrant _ _ _ => 1
  | .rightsRevoke _ _ _ => 1
  | _ => 0

/-- The vector forms that compute on registers alone. -/
def Instr.isLaneOp (i : Instr) : Bool :=
  match i with
  | .vadd _ _ _ _ _ _ _ _ => true
  | .vsub _ _ _ _ _ _ _ _ => true
  | .vmul _ _ _ _ _ _ _ _ => true
  | .vfma _ _ _ _ _ _ _ _ => true
  | .vmin _ _ _ _ _ _ _ _ => true
  | .vmax _ _ _ _ _ _ _ _ => true
  | .vamin _ _ _ _ _ _ _ _ => true
  | .vamax _ _ _ _ _ _ _ _ => true
  | .vand _ _ _ _ _ _ _ _ => true
  | .vor _ _ _ _ _ _ _ _ => true
  | .vxor _ _ _ _ _ _ _ _ => true
  | .vshl _ _ _ _ _ _ _ _ => true
  | .vshr _ _ _ _ _ _ _ _ => true
  | .vsha _ _ _ _ _ _ _ _ => true
  | .vcmp _ _ _ _ _ _ _ _ _ => true
  | .vsel _ _ _ _ _ => true
  | .vcvt _ _ _ _ _ _ _ => true
  | .vqnt _ _ _ _ _ => true
  | .vdqnt _ _ _ _ _ => true
  | .vshup _ _ _ _ _ => true
  | .vshdn _ _ _ _ _ => true
  | .vrot _ _ _ _ => true
  | .vperm _ _ _ _ _ _ => true
  | .vbcast _ _ _ => true
  | .vext _ _ _ _ _ => true
  | .vins _ _ _ _ => true
  | .vred _ _ _ _ _ _ _ => true
  | .vscan _ _ _ _ _ _ _ => true
  | .vdot _ _ _ _ _ _ _ => true
  | .vexp2 _ _ _ _ => true
  | .vlog2 _ _ _ _ => true
  | .vrcp _ _ _ _ => true
  | .vrsq _ _ _ _ => true
  | .vmand _ _ _ => true
  | .vmor _ _ _ => true
  | .vpopc _ _ => true
  | .vshadow => true
  | .vdadd _ _ _ _ _ _ => true
  | .vdsub _ _ _ _ _ _ => true
  | .vdmul _ _ _ _ _ _ => true
  | .vdfma _ _ _ _ _ _ => true
  | .vdmin _ _ _ _ _ _ => true
  | .vdmax _ _ _ _ _ _ => true
  | .vdwid _ _ _ _ _ _ => true
  | .vdnar _ _ _ _ _ _ => true
  | _ => false

/-- The mask register a vector form writes. -/
def Instr.maskDest (i : Instr) : Option Nat :=
  match i with
  | .vcmp d _ _ _ _ _ _ _ _ => some d.toNat
  | .vmand d _ _ => some d.toNat
  | .vmor d _ _ => some d.toNat
  | .vqsplit _ _ _ o => some o.toNat
  | _ => none

end Sys2Proof
end

