-- ==== Sys2Proof/Certificates/Slice0/Obligations.lean ====
section
/-! DEFINITION. The statements about the model, each a proposition named for what it states. -/

open Sys2Proof Sys2Proof.Machine

/-! ## The machine -/

/-- R61, R86. A step with a thread whose turn it is, outside a word it has begun, with no fault, interrupt, capture or quota
boundary before its word, uses its core's issue of the cycle, fetches the word at its pc, charges it, and is the meaning of
the instruction that the word decodes to, applied to the state in which the thread notes the word and what it leaves of its
signed block. The words of MIGR and VFCTL name their row by an operand; every other word is its own row. -/
def Obligations.StepRunsDecodedInstruction : Prop :=
  ∀ (s s1 s2 s3 : State) (t : Nat) (w : Half) (b : Option Block) (i : Instr),
    s.turn = some t → s1 = { s.atTurn t with cur := t } → (s1.core s1.here).capturing = false →
    s1.me.op.again = false → s1.me.resHalf = false → s1.me.repFault = none → s1.me.rep.want = 0 →
    s1.mayAccept t = true → s1.mayInterrupt t = false → s1.me.tsr.pair = false → s1.me.returns = false →
    s1.fetch t = .word s2 w → s2.me.sign w = some b → s2.me.rep.want = 0 → s2.me.twoIssues w = false →
    decode w = .ok i →
    s3 = (((s2.ahead s2.cur).modMe fun th => { th with word := w, blkNext := b }).chargeIssue w) →
    step s = exec (selectRow i s3) s3 ∧
      ((∀ x y z, i ≠ .migrMove x y z) → (∀ x y z, i ≠ .vfctlReadField x y z) → selectRow i s3 = i)

/-- R483. A fetch from the core's own TCM of a line that the buffer does not hold delivers the four bytes at the pc,
least significant first, and changes no byte of memory. R61. A word that no row of the opcode table has raises
ILLEGAL_INSN, exact at it, with the word as value; an EXT.W word of a class that the core does not list is left to
R62. -/
def Obligations.FetchAndRefusedWords : Prop :=
  (∀ (s : State) (t : Nat) (da : Word) (x : Nat),
     (s.thr t).pc.toNat % 4 = 0 → (s.thr t).heldLine (lineOf (s.thr t).pc.toNat) = none →
     s.segCheck (s.thr t) (quadOf (coreOf t)) (s.thr t).pc 4 rightX = .ok (da, .tcm (coreOf t), x) →
     x % 64 = (s.thr t).pc.toNat % 64 →
     (wordsOf (x - x % 64) 64).any s.wordHeld = false → s.poisoned (x - x % 64) 64 = false →
     ∃ s', s.fetch t = .word s' (BitVec.ofNat 32 (ofBytes (s.rd x 4))) ∧ s'.mem = s.mem) ∧
  (∀ (s : State) (w : Half) (e : Reject), decode w = .error e →
     (majorNat w = 0x38 → extClass w = 3 ∨ s.listsClass s.here (extClass w) = true) →
     s.runWord w = .next (s.wordTrap s.cur { code := 1, tval := w.zeroExtend 64 }))

/-- Words that the spec writes out decode to the instructions it writes them for (R64, R67, R72, R119, R125, R137). -/
def Obligations.DecodeWords : Prop :=
  decode 0x04841800#32 = .ok (.add 4 4 3) ∧ decode 0x0864FFFE#32 = .ok (.addi 3 4 0xFFFE) ∧
  decode 0x4860FFFF#32 = .ok (.loop 3 0 0xFFFF) ∧ decode 0x4FFFFFC0#32 = .ok (.j 0x3FFFFC0) ∧
  decode 0x541F0000#32 = .ok (.jalr 0 31 0) ∧ decode 0x24600123#32 = .ok (.lhi 3 0 0x123) ∧
  decode 0x28A21903#32 = .ok (.fma 5 2 3 4) ∧ decode 0x28C72149#32 = .ok (.fcvt 6 7 4 5) ∧
  decode 0x70A00000#32 = .ok (.csrr 5 0) ∧ decode 0x70040281#32 = .ok (.csrw 0 4 10) ∧
  decode 0x74065A3C#32 = .ok (.bsig 6 0x5A3C) ∧ decode 0x7C40C400#32 = .ok (.rep 1 3 1) ∧
  decode 0x8E3A0081#32 = .ok (.vshup 4 3 5 1 1) ∧ decode 0x90010009#32 = .ok (.tmmas 0 1) ∧
  decode 0x6C0500C0#32 = .ok (.fenceFull 5) ∧ decode 0x6C8002C1#32 = .ok (.segr 4 1 3) ∧
  decode 0xE0221800#32 = .ok (.dadd 1 2 3)

/-- The encoder and the decoder agree: every well-formed instruction that has a word is what the decoder reads from
its word, every operand at every value; the rows of MIGR and VFCTL, whose words are shared, come back as the one row
the decoder names for them. -/
def Obligations.EncodeDecode : Prop :=
  ∀ i : Instr, i.hasWord = true → i.wf = true → decode (encode i) = .ok i.canon

/-- The decoder reads every field of the words it accepts: what it reads from a word is well formed (R61 step 4) and
the encoder gives that very word back. -/
def Obligations.DecodedEncodes : Prop :=
  ∀ (w : Half) (i : Instr), decode w = .ok i → i.wf = true ∧ i.hasWord = true ∧ encode i = w

/-- R38, R63, R90, R168. After reset every word of SRAM, and by the model's choice of HBM (log entry 2), is zero, empty
and sound, the memory is in its canonical form, every slot is FREE with RNDLFSR 1, NETCAP gives one outstanding access, flits of 16 and 64 bytes and 64 barrier contexts, the link is in
RESET, and the one event due is the power-up of R476 (that the bring-up is an event of the agenda is the model's own
form, log entry 4). -/
def Obligations.Reset : Prop :=
  State.reset.memOk ∧ State.reset.agenda = [.powerUp] ∧ State.reset.link.st = .reset ∧
    State.reset.netCap.extractLsb' 32 8 = 1 ∧ State.reset.netCap.extractLsb' 16 8 = 16 ∧
    State.reset.netCap.extractLsb' 8 8 = 64 ∧ State.reset.netCap.extractLsb' 0 8 = 64 ∧
    (∀ a, memGet State.reset.mem a = 0 ∧ State.reset.isFull a = false ∧ State.reset.poisoned a 8 = false) ∧
    ∀ t, (State.reset.thr t).st = .free ∧ (State.reset.thr t).rndlfsr = 1

/-- The invariant of the model's memory: whatever a step does, an issue of any word or any event, memory in its
canonical form (addresses rising, no entry equal to what an unlisted address reads as) stays so. -/
def Obligations.StepKeepsMemoryCanonical : Prop :=
  ∀ s t : State, s.memOk → step s = .next t → t.memOk

/-! ## Scalar instructions -/

/-- R116, R119: the register forms of major 0x01 that add, multiply and combine bits write the value of the table to
gd and go on at the next word. R120. Division truncates toward zero and a remainder takes the sign of the dividend;
division by zero gives all ones and the dividend, overflow the most negative number and 0; nothing traps. -/
def Obligations.IntegerArithmetic : Prop :=
  (∀ (s : State) (d a b : BitVec 5), s.Plain →
     exec (.add d a b) s = .next (s.after (s.setG d (s.g a + s.g b))) ∧
     exec (.sub d a b) s = .next (s.after (s.setG d (s.g a - s.g b))) ∧
     exec (.mul d a b) s = .next (s.after (s.setG d (s.g a * s.g b))) ∧
     exec (.mulh d a b) s =
       .next (s.after (s.setG d (((s.g a).signExtend 128 * (s.g b).signExtend 128).extractLsb' 64 64))) ∧
     exec (.mulhu d a b) s =
       .next (s.after (s.setG d (((s.g a).zeroExtend 128 * (s.g b).zeroExtend 128).extractLsb' 64 64))) ∧
     exec (.and d a b) s = .next (s.after (s.setG d (s.g a &&& s.g b))) ∧
     exec (.or d a b) s = .next (s.after (s.setG d (s.g a ||| s.g b))) ∧
     exec (.xor d a b) s = .next (s.after (s.setG d (s.g a ^^^ s.g b))) ∧
     exec (.andn d a b) s = .next (s.after (s.setG d (s.g a &&& ~~~(s.g b)))) ∧
     ∀ k : BitVec 3, exec (.addsc d a b k) s = .next (s.after (s.setG d (s.g a + s.g b * (1 <<< k.toNat))))) ∧
  (∀ (s : State) (d a b : BitVec 5), s.Plain →
     ((s.g b).toInt ≠ 0 →
       exec (.div d a b) s = .next (s.after (s.setG d (BitVec.ofInt 64 ((s.g a).toInt.tdiv (s.g b).toInt)))) ∧
       exec (.rem d a b) s = .next (s.after (s.setG d
         (BitVec.ofInt 64 ((s.g a).toInt - (s.g a).toInt.tdiv (s.g b).toInt * (s.g b).toInt)))) ∧
       exec (.divu d a b) s = .next (s.after (s.setG d (BitVec.ofNat 64 ((s.g a).toNat / (s.g b).toNat)))) ∧
       exec (.remu d a b) s = .next (s.after (s.setG d (BitVec.ofNat 64 ((s.g a).toNat % (s.g b).toNat))))) ∧
     (s.g b = 0 →
       exec (.div d a b) s = .next (s.after (s.setG d (BitVec.allOnes 64))) ∧
       exec (.rem d a b) s = .next (s.after (s.setG d (s.g a))) ∧
       exec (.divu d a b) s = .next (s.after (s.setG d (BitVec.allOnes 64))) ∧
       exec (.remu d a b) s = .next (s.after (s.setG d (s.g a)))) ∧
     (s.g a = 0x8000000000000000#64 → s.g b = BitVec.allOnes 64 →
       exec (.div d a b) s = .next (s.after (s.setG d 0x8000000000000000#64)) ∧
       exec (.rem d a b) s = .next (s.after (s.setG d 0))))

/-- R123, R124: the immediate forms. R119: shifts, comparisons, selections and extensions. -/
def Obligations.IntegerImmediatesAndShifts : Prop :=
  (∀ (s : State) (d a : BitVec 5), s.Plain →
     (∀ i : BitVec 16,
       exec (.addi d a i) s = .next (s.after (s.setG d (s.g a + i.signExtend 64))) ∧
       exec (.andi d a i) s = .next (s.after (s.setG d (s.g a &&& i.zeroExtend 64))) ∧
       exec (.ori d a i) s = .next (s.after (s.setG d (s.g a ||| i.zeroExtend 64))) ∧
       exec (.xori d a i) s = .next (s.after (s.setG d (s.g a ^^^ i.zeroExtend 64))) ∧
       exec (.slti d a i) s = .next (s.after (s.setG d (if (s.g a).toInt < i.toInt then 1 else 0))) ∧
       exec (.sltui d a i) s = .next (s.after (s.setG d (if (s.g a).toNat < (i.signExtend 64).toNat then 1 else 0))) ∧
       exec (.lhi d a i) s = .next (s.after (s.setG d ((s.g a).extractLsb' 0 48 ++ i)))) ∧
     ∀ n : BitVec 6,
       exec (.shli d a n) s = .next (s.after (s.setG d (s.g a <<< n.toNat))) ∧
       exec (.shri d a n) s = .next (s.after (s.setG d (s.g a >>> n.toNat))) ∧
       exec (.shai d a n) s = .next (s.after (s.setG d ((s.g a).sshiftRight n.toNat))) ∧
       exec (.roli d a n) s = .next (s.after (s.setG d ((s.g a).rotateLeft n.toNat)))) ∧
  (∀ (s : State) (d a b : BitVec 5), s.Plain →
     exec (.shl d a b) s = .next (s.after (s.setG d (s.g a <<< ((s.g b).toNat % 64)))) ∧
     exec (.shr d a b) s = .next (s.after (s.setG d (s.g a >>> ((s.g b).toNat % 64)))) ∧
     exec (.sha d a b) s = .next (s.after (s.setG d ((s.g a).sshiftRight ((s.g b).toNat % 64)))) ∧
     exec (.rol d a b) s = .next (s.after (s.setG d ((s.g a).rotateLeft ((s.g b).toNat % 64)))) ∧
     exec (.min d a b) s = .next (s.after (s.setG d (if (s.g a).toInt ≤ (s.g b).toInt then s.g a else s.g b))) ∧
     exec (.max d a b) s = .next (s.after (s.setG d (if (s.g a).toInt ≤ (s.g b).toInt then s.g b else s.g a))) ∧
     exec (.minu d a b) s = .next (s.after (s.setG d (if (s.g a).toNat ≤ (s.g b).toNat then s.g a else s.g b))) ∧
     exec (.maxu d a b) s = .next (s.after (s.setG d (if (s.g a).toNat ≤ (s.g b).toNat then s.g b else s.g a))) ∧
     exec (.slt d a b) s = .next (s.after (s.setG d (if (s.g a).toInt < (s.g b).toInt then 1 else 0))) ∧
     exec (.sltu d a b) s = .next (s.after (s.setG d (if (s.g a).toNat < (s.g b).toNat then 1 else 0))) ∧
     exec (.seq d a b) s = .next (s.after (s.setG d (if s.g a = s.g b then 1 else 0))) ∧
     (∀ c : BitVec 5, exec (.sel d a b c) s = .next (s.after (s.setG d (if s.g c ≠ 0 then s.g a else s.g b)))) ∧
     (∀ w : BitVec 5,
       exec (.exts d a w) s = .next (s.after (s.setG d (((s.g a).extractLsb' 0 (w.toNat + 1)).signExtend 64))) ∧
       exec (.extz d a w) s = .next (s.after (s.setG d (((s.g a).extractLsb' 0 (w.toNat + 1)).zeroExtend 64)))))

/-- R119, R121: counts of bits, told by the bits themselves, and field extract and insert, bit by bit: position
gb[5:0], length gb[13:8] with 0 for 64, field bits above bit 63 not existing. R122. COREID, CXY and CREL: the
executing core's ID; a core ID from its coordinates, or all ones for a coordinate above 239; a core ID moved by signed
offsets, or all ones where it is not valid or leaves the grid. -/
def Obligations.BitCountsAndCoordinates : Prop :=
  (∀ (s : State) (d a b : BitVec 5), s.Plain →
     (∃ n : Nat, exec (.clz d a) s = .next (s.after (s.setG d (BitVec.ofNat 64 n))) ∧ n ≤ 64 ∧
       (∀ i, 64 - n ≤ i → (s.g a).getLsbD i = false) ∧ (n < 64 → (s.g a).getLsbD (63 - n) = true)) ∧
     (∃ n : Nat, exec (.ctz d a) s = .next (s.after (s.setG d (BitVec.ofNat 64 n))) ∧ n ≤ 64 ∧
       (∀ i, i < n → (s.g a).getLsbD i = false) ∧ (n < 64 → (s.g a).getLsbD n = true)) ∧
     exec (.popc d a) s = .next (s.after (s.setG d
       (BitVec.ofNat 64 ((List.range 64).map fun i => ((s.g a).getLsbD i).toNat).sum))) ∧
     ∀ pos len : Nat, pos = ((s.g b).extractLsb' 0 6).toNat →
       len = (if (s.g b).extractLsb' 8 6 = 0 then 64 else ((s.g b).extractLsb' 8 6).toNat) →
       (∃ v : Word, exec (.bext d a b) s = .next (s.after (s.setG d v)) ∧
         ∀ i, i < 64 → v.getLsbD i = (decide (i < len ∧ pos + i < 64) && (s.g a).getLsbD (pos + i))) ∧
       (∃ v : Word, exec (.bins d a b) s = .next (s.after (s.setG d v)) ∧
         ∀ i, i < 64 → v.getLsbD i =
           if pos ≤ i ∧ i < pos + len then (s.g a).getLsbD (i - pos) else (s.g d).getLsbD i)) ∧
  (∀ (s : State) (d a b : BitVec 5), s.Plain →
     exec (.coreid d) s = .next (s.after (s.setG d (BitVec.ofNat 64 s.here))) ∧
     exec (.cxy d a b) s = .next (s.after (s.setG d
       (if (s.g a).toNat ≤ 239 ∧ (s.g b).toNat ≤ 239 then BitVec.ofNat 64 ((s.g b).toNat * 256 + (s.g a).toNat)
        else BitVec.allOnes 64))) ∧
     ∀ x y dx dy : Int, x = ((s.g a).extractLsb' 0 8).toNat → y = ((s.g a).extractLsb' 8 8).toNat →
       dx = ((s.g b).extractLsb' 0 8).toInt → dy = ((s.g b).extractLsb' 8 8).toInt →
       exec (.crel d a b) s = .next (s.after (s.setG d
         (if (s.g a).extractLsb' 16 48 = 0 ∧ x ≤ 239 ∧ y ≤ 239 ∧ 0 ≤ x + dx ∧ x + dx ≤ 239 ∧ 0 ≤ y + dy ∧ y + dy ≤ 239
          then BitVec.ofInt 64 ((y + dy) * 256 + (x + dx)) else BitVec.allOnes 64))))

/-- What the register-only instructions of majors 0x01 to 0x09 leave unchanged (R116): every register but gd, TSR with
its flags, every special register, every byte of memory, every other thread and everything else of the machine; the
thread stands at the next word. R116. A write of a scalar register is read back, and disturbs no other; a write to g0
is discarded, and g0 reads 0. Completion is concluded for: add, sub, mul, mulh, mulhu, div, divu, rem, remu, and, or,
xor, andn, shl, shr, sha, rol, clz, ctz, popc, min, max, minu, maxu, slt, sltu, seq, sel, addsc, exts, extz, bext,
bins, coreid, cxy, crel, addi, andi, ori, xori, slti, sltui, shli, shri, shai, roli, lhi. -/
def Obligations.IntegerFrame : Prop :=
  (∀ (s : State) (i : Instr) (d : BitVec 5), s.Plain → i.isInteger d →
     ∃ t, exec i s = .next t ∧ s.elsewhere t ∧
       (∀ r : Nat, r ≠ d.toNat → (t.thr s.cur).reg r = s.me.reg r) ∧ (t.thr s.cur).reg 0 = 0 ∧
       (t.thr s.cur).pc = s.me.pc + 4 ∧ (t.thr s.cur).tsr = s.me.tsr ∧
       ∃ v, t.thr s.cur = (s.me.put d.toNat v).complete (s.me.pc + 4) false) ∧
  (∀ (th : Thread) (d r : Nat) (v : Word), r < 32 → d < 32 →
     (th.put d v).reg r = if r = d ∧ d ≠ 0 then v else th.reg r)

/-- R126. A branch compares ga and gb as 64-bit values; when its condition holds it goes to P + 4 · sext(disp16),
otherwise to P + 4, and changes nothing else. Completion is concluded for: beq, bne, blt, bge, bltu, bgeu. -/
def Obligations.ConditionalBranches : Prop :=
  ∀ (s : State) (a b : BitVec 5) (i : BitVec 16) (ins : Instr) (c : Prop), s.Plain → s.mayBranch →
    (ins = .beq a b i ∧ c = (s.g a = s.g b)) ∨ (ins = .bne a b i ∧ c = (s.g a ≠ s.g b)) ∨
    (ins = .blt a b i ∧ c = ((s.g a).toInt < (s.g b).toInt)) ∨ (ins = .bge a b i ∧ c = ((s.g b).toInt ≤ (s.g a).toInt)) ∨
    (ins = .bltu a b i ∧ c = ((s.g a).toNat < (s.g b).toNat)) ∨
    (ins = .bgeu a b i ∧ c = ((s.g b).toNat ≤ (s.g a).toNat)) →
    ∃ t pc, exec ins s = .next t ∧ (c → pc = s.me.pc + 4 * i.signExtend 64) ∧ (¬c → pc = s.me.pc + 4) ∧
      s.elsewhere t ∧ t.thr s.cur = s.me.complete pc false

/-- R127. LOOP counts ga down by one and branches as BNE does on the new ga; for g0 nothing is written and the test is
0 ≠ gb. Completion is concluded for: loop. -/
def Obligations.Loop : Prop :=
  ∀ (s : State) (a b : BitVec 5) (i : BitVec 16), s.Plain → s.mayBranch →
    ∃ t pc, exec (.loop a b i) s = .next t ∧ s.elsewhere t ∧
      t.thr s.cur = (s.me.put a.toNat (s.g a - 1)).complete pc false ∧
      ∀ x y : Word, x = (if a = 0 then 0 else s.g a - 1) → y = (if b = a ∧ a ≠ 0 then s.g a - 1 else s.g b) →
        pc = if x ≠ y then s.me.pc + 4 * i.signExtend 64 else s.me.pc + 4

/-- R128. J goes to P + 4 · sext(disp26); JAL sets g31 to P + 4 first; JALR goes to ga + sext(imm16) and sets gd to P
+ 4; JALR with a target whose bits 1:0 are not zero raises MISALIGN with the target as value and writes no register.
Completion is concluded for: j, jal, jalr. -/
def Obligations.Jumps : Prop :=
  ∀ (s : State), s.Plain → s.mayBranch →
    (∀ i : BitVec 26, ∃ t, exec (.j i) s = .next t ∧ s.elsewhere t ∧
      t.thr s.cur = s.me.complete (s.me.pc + 4 * i.signExtend 64) false) ∧
    (∀ i : BitVec 26, ∃ t, exec (.jal i) s = .next t ∧ s.elsewhere t ∧
      t.thr s.cur = (s.me.put 31 (s.me.pc + 4)).complete (s.me.pc + 4 * i.signExtend 64) false) ∧
    ∀ (d a : BitVec 5) (i : BitVec 16) (x : Word), x = s.g a + i.signExtend 64 →
      (x.extractLsb' 0 2 = 0 → ∃ t, exec (.jalr d a i) s = .next t ∧ s.elsewhere t ∧
        t.thr s.cur = (s.me.put d.toNat (s.me.pc + 4)).complete x false) ∧
      (x.extractLsb' 0 2 ≠ 0 →
        exec (.jalr d a i) s = .next (s.takeTrapAt s.cur { code := 9, tval := x } s.me.pc false))

/-- R118, R130, R131, R135. The arithmetic forms round the exact result once, into the format, mode and saturate bit
in force, and OR its flags into TSR. FP64 forms run where the core lists their class. Completion is concluded for:
fadd, fsub, fmul, fdiv, fsqrt, fma, dadd, dsub, dmul, ddiv, dsqrt, dfma. -/
def Obligations.FloatArithmetic : Prop :=
  ∀ (s : State) (d a b c : BitVec 5), s.Alone →
    (s.prefixFits fpRule →
      exec (.fadd d a b) s = .next (s.after (s.roundedInto d 4 (numAdd (s.rdn 4) (s.fp 4 a) (s.fp 4 b)))) ∧
      exec (.fsub d a b) s = .next (s.after (s.roundedInto d 4 (numAdd (s.rdn 4) (s.fp 4 a) (s.fp 4 b).negate))) ∧
      exec (.fmul d a b) s = .next (s.after (s.roundedInto d 4 (numMul (s.fp 4 a) (s.fp 4 b)))) ∧
      exec (.fdiv d a b) s = .next (s.after (s.roundedInto d 4 (numDiv (s.fp 4 a) (s.fp 4 b)))) ∧
      exec (.fsqrt d a) s = .next (s.after (s.roundedInto d 4 (numSqrt (s.fp 4 a)))) ∧
      exec (.fma d a b c) s =
        .next (s.after (s.roundedInto d 4 (numFma (s.rdn 4) (s.fp 4 a) (s.fp 4 b) (s.fp 4 c))))) ∧
    (s.prefixFits dpRule → s.w64 s.here = true →
      exec (.dadd d a b) s = .next (s.after (s.roundedInto d 14 (numAdd (s.rdn 14) (s.fp 14 a) (s.fp 14 b)))) ∧
      exec (.dsub d a b) s = .next (s.after (s.roundedInto d 14 (numAdd (s.rdn 14) (s.fp 14 a) (s.fp 14 b).negate))) ∧
      exec (.dmul d a b) s = .next (s.after (s.roundedInto d 14 (numMul (s.fp 14 a) (s.fp 14 b)))) ∧
      exec (.ddiv d a b) s = .next (s.after (s.roundedInto d 14 (numDiv (s.fp 14 a) (s.fp 14 b)))) ∧
      exec (.dsqrt d a) s = .next (s.after (s.roundedInto d 14 (numSqrt (s.fp 14 a)))) ∧
      exec (.dfma d a b c) s =
        .next (s.after (s.roundedInto d 14 (numFma (s.rdn 14) (s.fp 14 a) (s.fp 14 b) (s.fp 14 c)))))

/-- R118. What `roundedInto` leaves: gd holds the exact value rounded in the format, mode and saturate bit that the
prefix gives, or the natural format, TSR.RM and no saturation, with zero above the format; the flags are ORed into
TSR.FLAGS; under RST the LFSR takes one step; nothing else of the machine changes. R132, R133, R134, R136: minimum and
maximum, comparison, class, sign copy and conversion in FP32 and FP64. Completion is concluded for: fmin, fmax, fcmp,
fclass, fsgn, fcvt, dmin, dmax, dcmp, dclass, dsgn, dcvt. -/
def Obligations.FloatRounding : Prop :=
  (∀ (s t : State) (d : BitVec 5) (nat : Nat) (v : Machine.Num) (fl : Flags) (fd mode : Nat) (sat : Bool),
     t = s.roundedInto d nat (v, fl) →
     (s.me.tsr.pp = true → fd = pfxD s.me.pfxsave ∧ sat = pfxSat s.me.pfxsave ∧
       mode = (if pfxRm s.me.pfxsave = 7 then s.me.tsr.rm.toNat else pfxRm s.me.pfxsave)) →
     (s.me.tsr.pp = false → fd = nat ∧ sat = false ∧ mode = s.me.tsr.rm.toNat) →
     ∀ r : Nat × Flags, r = roundTo fd mode sat (lfsrZ (lfsrStep s.me.rndlfsr)) v →
       s.elsewhere t ∧
       (∀ k : Nat, (t.thr s.cur).reg k =
         if k = d.toNat ∧ k ≠ 0 then BitVec.ofNat 64 r.1 else s.me.reg k) ∧
       (t.thr s.cur).tsr = { s.me.tsr with flags := s.me.tsr.flags ||| fl ||| r.2 } ∧
       (t.thr s.cur).rndlfsr = (if mode = 4 then lfsrStep s.me.rndlfsr else s.me.rndlfsr) ∧
       (t.thr s.cur).pc = s.me.pc) ∧
  (∀ (s : State) (d a b : BitVec 5), s.Plain → ∀ f : Nat, (f = 4 ∨ f = 14 ∧ s.w64 s.here = true) →
     ∀ x y : Nat, x = s.gn a % 2 ^ fmtWidth f → y = s.gn b % 2 ^ fmtWidth f →
     (∀ r : Nat × Flags, r = minMaxBits f false x y →
       exec (if f = 4 then .fmin d a b else .dmin d a b) s = .next (s.after ((s.setGn d r.1).raise s.cur r.2))) ∧
     (∀ r : Nat × Flags, r = minMaxBits f true x y →
       exec (if f = 4 then .fmax d a b else .dmax d a b) s = .next (s.after ((s.setGn d r.1).raise s.cur r.2))) ∧
     (∀ c : BitVec 5, ∀ r : Bool × Flags, r = numCmp c.toNat (readNum f x) (readNum f y) →
       exec (if f = 4 then .fcmp d a b c else .dcmp d a b c) s =
         .next (s.after ((s.setG d (if r.1 then 1 else 0)).raise s.cur r.2))) ∧
     (∃ k : Nat, exec (if f = 4 then .fclass d a else .dclass d a) s = .next (s.after (s.setG d (BitVec.ofNat 64 (2 ^ k)))) ∧
       k < 10 ∧ (k = 0 ↔ readNum f x = .inf true) ∧ (k = 7 ↔ readNum f x = .inf false) ∧
       (k = 8 ↔ readNum f x = .nan true) ∧ (k = 9 ↔ readNum f x = .nan false)) ∧
     (∀ m : BitVec 5, m.toNat ≤ 2 → ∃ v : Nat, exec (if f = 4 then .fsgn d a b m else .dsgn d a b m) s =
         .next (s.after (s.setGn d v)) ∧
       ∀ w : Nat, w = fmtWidth f - 1 → (∀ j, j < w → v.testBit j = x.testBit j) ∧ (∀ j, w < j → v.testBit j = false) ∧
         v.testBit w = (if m = 0 then y.testBit w else if m = 1 then !y.testBit w else x.testBit w ^^ y.testBit w)) ∧
     (∀ fs fd : BitVec 4, (f = 4 → cvtCode fs.toNat = true ∧ cvtCode fd.toNat = true) →
       (f = 14 → dcvtCode fs.toNat = true ∧ dcvtCode fd.toNat = true) →
       ∀ r : Nat × Flags, r = convertBits fs.toNat fd.toNat s.me.tsr.rm.toNat false (lfsrZ (lfsrStep s.me.rndlfsr))
         (s.gn a % 2 ^ fmtWidth fs.toNat) →
       ∃ t, exec (if f = 4 then .fcvt d a fs fd else .dcvt d a fs fd) s = .next (s.after t) ∧ s.elsewhere t ∧
         (t.thr s.cur).tsr = { s.me.tsr with flags := s.me.tsr.flags ||| r.2 } ∧
         ∀ k : Nat, (t.thr s.cur).reg k = if k = d.toNat ∧ k ≠ 0 then
             (if isIntFmt fd.toNat && fd.toNat != 1 then BitVec.ofInt 64 (signedOf (fmtWidth fd.toNat) r.1)
              else BitVec.ofNat 64 r.1)
           else s.me.reg k))

/-! ## System instructions, exceptions and the words that shape other words -/

/-- R107, R106. Taking an exact trap at TSR.TH = 0: the saved registers, the new status and the handler's address of
the level that the code is routed to; the thread runs there, its general registers as they were, and memory is
untouched. At TSR.TH = 1 the thread is killed with code 0x21. R106. A trap is routed to S, L or P: to the level that
the function's record names for the code, by default to L for MEM_UE and REMOTE_FATAL and to S for every other code,
and never below the thread's own level. -/
def Obligations.TrapEntry : Prop :=
  (∀ (s : State) (t : Nat) (c : Cause) (a : Word) (th : Thread) (lv : Nat) (s' : State),
     th = s.thr t → lv = s.routeOf th c.code → s' = s.takeTrapAt t c a false →
     (th.tsr.th = true → s' = s.kill t 0x21) ∧
     (th.tsr.th = false →
       ∀ u : Thread, u = s'.thr t →
       u.tepc = a ∧ (u.tcause.extractLsb' 0 8).toNat = c.code % 256 ∧ (u.tcause.extractLsb' 8 8).toNat = c.detail % 256 ∧
       u.tval = c.tval ∧
       u.tstat = (if c.code = 2 then { th.tsr with pp := false } else th.tsr).word ∧
       u.tpfx = (if c.code = 2 then 0 else th.pfxsave) ∧ u.sigV = true ∧
       u.tsr = { th.tsr with pl := BitVec.ofNat 2 lv, th := true, pp := false, uie := false } ∧
       u.pc = (if lv = 3 then th.ptvec else if lv = 2 then th.ltvec else th.stvec) ∧
       u.st = .run ∧ u.g = th.g ∧ u.v = th.v ∧ u.m = th.m ∧ s'.mem = s.mem ∧ s'.full = s.full ∧
       ∀ k, k ≠ t → s'.thr k = s.thr k)) ∧
  (∀ (s : State) (th : Thread) (code : Nat),
     1 ≤ s.routeOf th code ∧ s.routeOf th code ≤ 3 ∧ th.tsr.pl.toNat ≤ s.routeOf th code ∧
     ((s.fn th.fn).route = 0 → th.tsr.pl = 0 →
       s.routeOf th code = if code = 0x0A ∨ code = 0x0C then 2 else 1))

/-- R108, R142. XRET from a trap: PC and PFXSAVE from their saved copies, every TSR field but FLAGS, RC and SC from
TSTAT, PL the lower of the saved and the current level, TH clear (a saved RM of 5 to 7 leaves TSR.RM, the model's
choice, log entry 74). XRET at level U in a user-interrupt handler returns to UIEPC with the saved prefix. Any other
XRET raises ILLEGAL_INSN. Completion is concluded for: xret. -/
def Obligations.ExceptionReturn : Prop :=
  ∀ (s : State), s.Plain → s.mayBranch →
    (s.me.tsr.th = true → ∃ t, exec .xret s = .next t ∧ t.mem = s.mem ∧
      ∀ u : Thread, u = t.thr s.cur →
        u.pc = s.me.tepc ∧ u.pfxsave = s.me.tpfx ∧ u.tsr.th = false ∧ u.tsr.flags = s.me.tsr.flags ∧
        u.tsr.rc = s.me.tsr.rc ∧ u.tsr.sc = s.me.tsr.sc ∧
        u.tsr.pl.toNat = min (s.me.tstat.extractLsb' 8 2).toNat s.me.tsr.pl.toNat ∧
        u.tsr.pp = s.me.tstat.getLsbD 15 ∧ u.tsr.uie = s.me.tstat.getLsbD 18 ∧ u.tsr.uia = s.me.tstat.getLsbD 19 ∧
        u.tsr.rm = (if (s.me.tstat.extractLsb' 5 3).toNat ≤ 4 then s.me.tstat.extractLsb' 5 3 else s.me.tsr.rm) ∧
        u.g = s.me.g) ∧
    (s.me.tsr.th = false → s.me.tsr.pl = 0 → s.me.tsr.uia = true → ∃ t, exec .xret s = .next t ∧ t.mem = s.mem ∧
      ∀ u : Thread, u = t.thr s.cur →
        u.pc = s.me.uiepc ∧ u.pfxsave = s.me.uipfx ∧ u.tsr.uia = false ∧ u.tsr.pp = s.me.uicause.getLsbD 31 ∧
        u.g = s.me.g) ∧
    (s.me.tsr.th = false → (s.me.tsr.pl ≠ 0 ∨ s.me.tsr.uia = false) →
      exec .xret s = .next (s.takeTrapAt s.cur { code := 1, tval := 0x70000009#64 } s.me.pc false))

/-- R102, R138. A CSR form the level permits: gd receives the old value; CSRW writes ga, CSRS and CSRC set and clear
the bits of ga, and with ga = g0 they only read. A form that names TSR needs the thread's engine work complete. R138.
A CSR form that is not permitted: an unassigned number raises ILLEGAL_INSN; a read below the read level PRIVILEGE; a
write of a register that cannot be written ILLEGAL_INSN with DETAIL 1; a write below the write level PRIVILEGE; each
with the word as value, and the thread's registers untouched. R102, R139. What a write of a thread's CSR leaves to be
read: the whole word for the vectors, the addresses, TVAL and RTIMEOUT; 26 bits for the saved prefixes; for RNDLFSR 32
bits, 1 for 0; for TSR only the fields of the level, RM only with a mode of R37; a write of TEPC clears SIGSAVE.V.
Completion is concluded for: csrr, csrw, csrs, csrc. -/
def Obligations.CsrAccess : Prop :=
  (∀ (s : State) (d a : BitVec 5) (c : BitVec 10) (rl : Nat) (wl : Option Nat) (old : Word), s.Plain →
     csrLevels c.toNat = some (rl, wl) → rl ≤ s.level → (c = 0 → s.engineIdle s.cur = true) →
     old = BitVec.ofNat 64 (s.csrRead s.cur c.toNat) →
     exec (.csrr d c) s = .next (s.after (s.setG d old)) ∧
     exec (.csrs d 0 c) s = .next (s.after (s.setG d old)) ∧ exec (.csrc d 0 c) s = .next (s.after (s.setG d old)) ∧
     ∀ l, wl = some l → l ≤ s.level →
       exec (.csrw d a c) s = .next (s.after ((s.csrWrite s.cur c.toNat (s.g a) s.level).setG d old)) ∧
       (a ≠ 0 →
         exec (.csrs d a c) s = .next (s.after ((s.csrWrite s.cur c.toNat (old ||| s.g a) s.level).setG d old)) ∧
         exec (.csrc d a c) s = .next (s.after ((s.csrWrite s.cur c.toNat (old &&& ~~~(s.g a)) s.level).setG d old)))) ∧
  (∀ (s : State) (d a : BitVec 5) (c : BitVec 10) (w : Word), s.Alone → w = (28#6 ++ d ++ a ++ c ++ 1#6).zeroExtend 64 →
     (csrLevels c.toNat = none → exec (.csrw d a c) s = .next (s.takeTrapAt s.cur { code := 1, tval := w } s.me.pc false)) ∧
     ∀ rl wl, csrLevels c.toNat = some (rl, wl) →
       (s.level < rl → exec (.csrw d a c) s = .next (s.takeTrapAt s.cur { code := 3, tval := w } s.me.pc false)) ∧
       (rl ≤ s.level → wl = none →
         exec (.csrw d a c) s = .next (s.takeTrapAt s.cur { code := 1, detail := 1, tval := w } s.me.pc false)) ∧
       (∀ l, rl ≤ s.level → wl = some l → s.level < l →
         exec (.csrw d a c) s = .next (s.takeTrapAt s.cur { code := 3, tval := w } s.me.pc false))) ∧
  (∀ (s : State) (t : Nat) (w : Word) (lvl : Nat),
     (∀ n ∈ [0x004, 0x008, 0x00A, 0x100, 0x102, 0x103, 0x106, 0x107, 0x108],
       (s.csrWrite t n w lvl).csrRead t n = w.toNat) ∧
     (∀ n ∈ [0x001, 0x009, 0x104], (s.csrWrite t n w lvl).csrRead t n = w.toNat % 2 ^ 26) ∧
     (s.csrWrite t 0x003 w lvl).csrRead t 0x003 = (if w.toNat % 2 ^ 32 = 0 then 1 else w.toNat % 2 ^ 32) ∧
     ((s.csrWrite t 0x100 w lvl).thr t).sigV = false ∧
     ∀ x : Tsr, x = ((s.csrWrite t 0x000 w lvl).thr t).tsr →
       x.flags = w.extractLsb' 0 5 ∧ x.uie = w.getLsbD 18 ∧ x.sc = w.getLsbD 21 ∧ x.rc = w.getLsbD 20 ∧
       x.rm = (if (w.extractLsb' 5 3).toNat ≤ 4 then w.extractLsb' 5 3 else (s.thr t).tsr.rm) ∧
       x.sg = (if 1 ≤ lvl then w.getLsbD 16 else (s.thr t).tsr.sg) ∧
       x.res = (if 3 ≤ lvl then w.getLsbD 23 else (s.thr t).tsr.res) ∧
       x.pl = (s.thr t).tsr.pl ∧ x.th = (s.thr t).tsr.th ∧ x.pp = (s.thr t).tsr.pp ∧ x.uia = (s.thr t).tsr.uia)

/-- R141, R143, R144. TRAP raises SOFTWARE after itself with ga as value and n as detail; PARK completes at once for 0
and otherwise parks with reason SLEEP until its deadline; TEXIT parks with reason ENGINE until the thread's work has
drained. R65, R67, R146 to R148. BSIG changes no register; PFX saves its payload and leaves a prefix pending; REP
starts the capture of n + 1 words for k + 1 replays. R96, R98, R145. TFORK: a misaligned entry address raises MISALIGN
and creates nothing; with no slot to take gd receives -1; otherwise the lowest free slot receives a child at ga that
runs with g1 the core's ID and g8 = gb, the parent's level, function, segments and vectors, and gd receives the slot.
R114. A control transfer taken inside an open signed block kills the thread with code 0x20. Completion is concluded
for: trap, park, texit, bsig, pfx, pfxTag, rep, tfork. -/
def Obligations.ThreadControl : Prop :=
  (∀ (s : State) (a n : BitVec 5), s.Plain →
     (∃ t, exec (.trap a n) s = .next t ∧
       (s.me.tsr.th = true → t = (s.modMe fun th => { th with blk := th.blkNext }).kill s.cur 0x21) ∧
       (s.me.tsr.th = false → (t.thr s.cur).tepc = s.me.pc + 4 ∧ (t.thr s.cur).tval = s.g a ∧
         (t.thr s.cur).tcause.toNat % 65536 = 5 + n.toNat * 256 ∧ (t.thr s.cur).tsr.th = true ∧
         (t.thr s.cur).g = s.me.g ∧ t.mem = s.mem)) ∧
     (s.gn a = 0 → exec (.park a) s = .next (s.after s)) ∧
     (s.gn a = 2 ^ 64 - 1 → ∃ t, exec (.park a) s = .next t ∧ s.elsewhere { t with agenda := s.agenda } ∧ (t.thr s.cur).st = .parked .sleep ∧
       (t.thr s.cur).op.deadline = none ∧ (t.thr s.cur).pc = s.me.pc ∧ (t.thr s.cur).g = s.me.g) ∧
     (s.gn a ≠ 0 → s.gn a ≠ 2 ^ 64 - 1 → ∃ t, exec (.park a) s = .next t ∧ (t.thr s.cur).st = .parked .sleep ∧
       (t.thr s.cur).op.deadline = some (s.cycle + s.gn a) ∧ (t.thr s.cur).pc = s.me.pc ∧ (t.thr s.cur).g = s.me.g ∧
       .sleepDeadline s.cur ∈ t.agenda ∧ s.elsewhere { t with agenda := s.agenda }) ∧
     (∃ t, exec .texit s = .next t ∧ (t.thr s.cur).st = .parked .engine ∧ (t.thr s.cur).g = s.me.g ∧
       t.agenda = s.agenda ++ [.texitDrainDone s.cur])) ∧
  (∀ (s : State), s.Plain →
     (∀ l c, exec (.bsig l c) s = .next (s.after s)) ∧
     (∀ a b d r sa ss, ∃ t, exec (.pfx a b d r sa ss) s = .next t ∧ s.elsewhere t ∧ (t.thr s.cur).tsr.pp = true ∧
       pfxA (t.thr s.cur).pfxsave = a.toNat ∧ pfxB (t.thr s.cur).pfxsave = b.toNat ∧
       pfxD (t.thr s.cur).pfxsave = d.toNat ∧ pfxRm (t.thr s.cur).pfxsave = r.toNat ∧
       (pfxSat (t.thr s.cur).pfxsave = true ↔ sa = 1) ∧ pfxSsel (t.thr s.cur).pfxsave = ss.toNat ∧
       (t.thr s.cur).pc = s.me.pc + 4 ∧ (t.thr s.cur).g = s.me.g) ∧
     (∀ g r sa f d, ∃ t, exec (.pfxTag g r sa f d) s = .next t ∧ s.elsewhere t ∧ (t.thr s.cur).tsr.pp = true ∧
       pfxTag (t.thr s.cur).pfxsave = g.toNat ∧ pfxA (t.thr s.cur).pfxsave = f.toNat ∧
       pfxB (t.thr s.cur).pfxsave = f.toNat ∧ pfxD (t.thr s.cur).pfxsave = d.toNat ∧
       pfxRm (t.thr s.cur).pfxsave = r.toNat ∧ (t.thr s.cur).pc = s.me.pc + 4 ∧ (t.thr s.cur).g = s.me.g) ∧
     (∀ n k st, ∃ t, exec (.rep n k st) s = .next t ∧ s.elsewhere t ∧ (t.thr s.cur).rep.want = n.toNat + 1 ∧
       (t.thr s.cur).rep.k = k.toNat + 1 ∧ (t.thr s.cur).rep.s = st.toNat ∧ (t.thr s.cur).rep.caps = [] ∧
       (t.thr s.cur).pc = s.me.pc + 4)) ∧
  (∀ (s : State) (d a b : BitVec 5), s.Plain →
     ((s.g a).extractLsb' 0 2 ≠ 0 →
       exec (.tfork d a b) s = .next (s.takeTrapAt s.cur { code := 9, tval := s.g a } s.me.pc false)) ∧
     ((s.g a).extractLsb' 0 2 = 0 → (s.core s.here).inbound = [] → (s.core s.here).spillCount = 0 →
       (s.freeSlot s.here false = none → exec (.tfork d a b) s = .next (s.after (s.setG d (BitVec.allOnes 64)))) ∧
       ∀ i, s.freeSlot s.here false = some i → s.here * 16 + i ≠ s.cur →
         ∃ t u, exec (.tfork d a b) s = .next t ∧ u = t.thr (s.here * 16 + i) ∧ u.st = .run ∧ u.pc = s.g a ∧
           u.reg 1 = BitVec.ofNat 64 s.here ∧ u.reg 8 = s.g b ∧ u.reg 2 = 0 ∧ u.tsr.pl = s.me.tsr.pl ∧
           u.tsr.th = false ∧ u.fn = s.me.fn ∧ u.segs = s.me.segs ∧ u.stvec = s.me.stvec ∧
           (d ≠ 0 → (t.thr s.cur).reg d.toNat = BitVec.ofNat 64 i) ∧ (t.thr s.cur).pc = s.me.pc + 4 ∧ t.mem = s.mem)) ∧
  (∀ (s : State) (a b : BitVec 5) (i : BitVec 16) (ins : Instr), s.Plain → ¬s.mayBranch →
     (ins = .beq a b i ∧ s.g a = s.g b ∨ ins = .bne a b i ∧ s.g a ≠ s.g b ∨
       ins = .blt a b i ∧ (s.g a).toInt < (s.g b).toInt ∨ ins = .bge a b i ∧ (s.g b).toInt ≤ (s.g a).toInt ∨
       ins = .bltu a b i ∧ (s.g a).toNat < (s.g b).toNat ∨ ins = .bgeu a b i ∧ (s.g b).toNat ≤ (s.g a).toNat ∨
       ∃ x, ins = .j x) →
     exec ins s = .next (s.kill s.cur 0x20))

/-- R61 step 6. A form that needs a higher level than the thread holds raises PRIVILEGE with the word as value, before
a prefix is looked at; nothing else happens. -/
def Obligations.PrivilegedForms : Prop :=
  ∀ (s : State) (i : Instr), s.Alone → s.level < i.levelNeeded → (majorOf (encode i) = 0x2B → s.hasOptical = true) →
    exec i s = .next (s.takeTrapAt s.cur { code := 3, tval := (encode i).zeroExtend 64 } s.me.pc false)

/-- R66, R61 step 7. The instructions of the thread engine that take no prefix refuse a pending one: ILLEGAL_PREFIX
with the word and the PFX word as value, and PP clear in what is saved. -/
def Obligations.PrefixRefused : Prop :=
  ∀ (s : State) (i : Instr), s.Alone → s.me.tsr.pp = true →
    (∃ d, i.isInteger d) ∨ (∃ x, i = .j x ∨ i = .jal x) ∨ (∃ d a x, i = .jalr d a x) ∨ (∃ a b x, i = .loop a b x) ∨
      (∃ a b x, i = .beq a b x ∨ i = .bne a b x ∨ i = .blt a b x ∨ i = .bge a b x ∨ i = .bltu a b x ∨ i = .bgeu a b x) ∨
      (∃ d a b, i = .fmin d a b ∨ i = .fmax d a b) ∨ (∃ d a b c, i = .fcmp d a b c ∨ i = .fsgn d a b c) ∨
      (∃ d a, i = .fclass d a) ∨ (∃ a n, i = .trap a n) ∨ i = .xret ∨ (∃ a, i = .park a) ∨ i = .texit ∨
      (∃ d a b, i = .tfork d a b) ∨ (∃ l c, i = .bsig l c) ∨ (∃ a b d r x y, i = .pfx a b d r x y) ∨
      (∃ g r x f d, i = .pfxTag g r x f d) ∨ (∃ n k x, i = .rep n k x) →
    exec i s = .next ((s.modMe fun th => { th with tsr := { th.tsr with pp := false } }).takeTrapAt s.cur
      { code := 2, tval := encode i ++ (0x1E#6 ++ s.me.pfxsave) } s.me.pc false)

/-! ## Memory -/

/-- A byte written is read back, and a write leaves every other byte alone, for every canonical memory; the bytes of a
wide access lie in address order, least significant first (R149). -/
def Obligations.MemoryReadAfterWrite : Prop :=
  ∀ (m : List Host.Cell) (a b n : Nat) (bs : List Byte), Memory.wf m = true →
    Memory.wf (memWrite m a bs) = true ∧ memRead (memWrite m a bs) a bs.length = bs ∧
    (b < a ∨ a + bs.length ≤ b → memGet (memWrite m a bs) b = memGet m b) ∧
    (b + n ≤ a ∨ a + bs.length ≤ b → memRead (memWrite m a bs) b n = memRead m b n) ∧
    ofBytes (toBytes n (b % 256 ^ n)) = b % 256 ^ n

/-- R173, R179. LD from the core's own TCM writes the 1, 2, 4 or 8 bytes at ga + sext(disp13), least significant
first, zero- or sign-extended as the size code says, and changes no byte of memory. R173. ST to the core's own TCM
stores the low 1, 2, 4 or 8 bytes of the register at ga + sext(disp13), least significant first, and nothing else.
Completion is concluded for: ld, st. -/
def Obligations.TcmLoadsAndStores : Prop :=
  (∀ (s : State) (d b : BitVec 5) (z : BitVec 3) (i : BitVec 13) (da : Word) (x n : Nat), s.Plain → z.toNat ≠ 7 →
     n = [1, 2, 4, 8, 1, 2, 4].getD z.toNat 0 → s.OwnTcm (s.g b + i.signExtend 64) da x n 1 →
     ∃ t, exec (.ld d b z i) s = .next t ∧ t.full = s.full ∧
       s.Loaded t d (if z.toNat < 4 then BitVec.ofNat 64 (ofBytes (s.rd x n))
         else (BitVec.ofNat (8 * n) (ofBytes (s.rd x n))).signExtend 64)) ∧
  (∀ (s : State) (r b : BitVec 5) (z : BitVec 3) (i : BitVec 13) (da : Word) (x n : Nat), s.Plain → z.toNat < 4 →
     n = [1, 2, 4, 8].getD z.toNat 0 → s.OwnTcm (s.g b + i.signExtend 64) da x n 2 →
     ∃ t, exec (.st r b z i) s = .next t ∧ t.full = s.full ∧ s.Stored t x (toBytes n (s.gn r)))

/-- R174, R183. LDA and STL in the core's own TCM under a scope that the thread may use: 4 or 8 bytes, zero-extended;
STL completes when nothing earlier of the thread is still to be performed. R175. An atomic on the core's own TCM
answers the old value, sign-extended (FADDF: zero-extended), and stores the new one in the same word of 32 or 64 bits;
a CAS whose comparison fails stores nothing. Completion is concluded for: ldaWord, lda, stlWord, stl, amoadd, amoand,
amoor, amoxor, amomin, amomax, amoswp, cas, faddf. -/
def Obligations.OrderedAccesses : Prop :=
  (∀ (s : State) (d b q : BitVec 5) (i : BitVec 8) (da : Word) (x : Nat) (sc : Scope), s.Plain →
     s.checkScope s.cur (s.g q) = .ok sc →
     (s.OwnTcm (s.g b + i.signExtend 64) da x 4 1 →
       ∃ t, exec (.ldaWord d b q i) s = .next t ∧ s.Loaded t d (BitVec.ofNat 64 (ofBytes (s.rd x 4)))) ∧
     (s.OwnTcm (s.g b + i.signExtend 64) da x 8 1 →
       ∃ t, exec (.lda d b q i) s = .next t ∧ s.Loaded t d (BitVec.ofNat 64 (ofBytes (s.rd x 8)))) ∧
     (s.pushesOf s.cur = false →
       (s.OwnTcm (s.g b + i.signExtend 64) da x 4 2 →
         ∃ t, exec (.stlWord d b q i) s = .next t ∧ s.Stored t x (toBytes 4 (s.gn d))) ∧
       (s.OwnTcm (s.g b + i.signExtend 64) da x 8 2 →
         ∃ t, exec (.stl d b q i) s = .next t ∧ s.Stored t x (toBytes 8 (s.gn d))))) ∧
  (∀ (s : State) (d a b q : BitVec 5) (w : BitVec 1) (da : Word) (x n old new : Nat) (v : Word) (sc : Scope) (ins : Instr),
     s.Plain → s.checkScope s.cur (s.g q) = .ok sc → s.pushesOf s.cur = false →
     n = (if ins = .faddf d a b q ∨ w = 0 then 4 else 8) →
     s.OwnTcm (s.g a) da x n 3 → da.toNat % n = 0 → old = ofBytes (s.rd x n) →
     v = (if ins = .faddf d a b q then BitVec.ofNat 64 old else (BitVec.ofNat (8 * n) old).signExtend 64) →
     (ins = .amoadd d a b q w ∧ new = old + s.gn b ∨ ins = .amoand d a b q w ∧ new = old &&& s.gn b ∨
       ins = .amoor d a b q w ∧ new = old ||| s.gn b ∨ ins = .amoxor d a b q w ∧ new = old ^^^ s.gn b ∨
       ins = .amomin d a b q w ∧ new = (if signedOf (8 * n) old ≤ signedOf (8 * n) (s.gn b) then old else s.gn b) ∨
       ins = .amomax d a b q w ∧ new = (if signedOf (8 * n) old ≤ signedOf (8 * n) (s.gn b) then s.gn b else old) ∨
       ins = .amoswp d a b q w ∧ new = s.gn b ∨
       ins = .cas d a b q w ∧ new = (if old = s.gn d % 256 ^ n then s.gn b else old) ∨
       ins = .faddf d a b q ∧ new = (roundTo 4 0 false 0 (numAdd false (readNum 4 old) (readNum 4 (s.gn b))).1).1) →
     ∃ t, exec ins s = .next t ∧
       (∀ k, (t.thr s.cur).reg k = if k = d.toNat ∧ k ≠ 0 then v else s.me.reg k) ∧
       (t.thr s.cur).pc = s.me.pc + 4 ∧ t.rd x n = toBytes n (new % 256 ^ n) ∧
       ∀ y, y < x ∨ x + n ≤ y → memGet t.mem y = memGet s.mem y)

/-- R168, R169, R174. Full/empty forms on an aligned word of the core's own TCM: LDE takes the value of a full word
and empties it, LDF takes it and leaves it full, STF fills an empty word, FEPROBE tells the bit, FECLR clears it.
R176, R183. A fence under a scope that the thread may use, with nothing earlier still to be performed, completes: no
general register and no byte of memory changes; an acquiring fence at a scope wider than the thread empties the fetch
buffer. R183, R91. A releasing fence with an earlier store of the thread still to be performed parks the thread with
reason MEM at the fence. Completion is concluded for: lde, ldf, feprobe, stf, feclr, fenceAcq, fenceRel, fenceFull. -/
def Obligations.FullEmptyAndFences : Prop :=
  (∀ (s : State) (d b : BitVec 5) (i : BitVec 13) (da : Word) (x : Nat) (sc : Scope) (ea : Word), s.Plain →
     ea = s.g b + i.signExtend 64 → da.toNat % 8 = 0 → s.checkScope s.cur (implicitScope false) = .ok sc →
     (s.OwnTcm ea da x 8 11 → s.isFull x = true → ∃ t, exec (.lde d b i) s = .next t ∧
       s.Loaded t d (BitVec.ofNat 64 (ofBytes (s.rd x 8))) ∧ t.isFull x = false ∧
       ∀ a, a ≠ x → t.isFull a = s.isFull a) ∧
     (s.OwnTcm ea da x 8 9 → s.isFull x = true → ∃ t, exec (.ldf d b i) s = .next t ∧
       s.Loaded t d (BitVec.ofNat 64 (ofBytes (s.rd x 8))) ∧ t.full = s.full) ∧
     (s.OwnTcm ea da x 8 9 → ∃ t, exec (.feprobe d b i) s = .next t ∧
       s.Loaded t d (if s.isFull x then 1 else 0) ∧ t.full = s.full) ∧
     (s.OwnTcm ea da x 8 10 → s.isFull x = false → s.pushesOf s.cur = false →
       ∃ t, exec (.stf d b i) s = .next t ∧ s.Stored t x (toBytes 8 (s.gn d)) ∧ t.isFull x = true ∧
         ∀ a, a ≠ x → t.isFull a = s.isFull a) ∧
     (s.OwnTcm ea da x 8 10 → ∃ t, exec (.feclr b i) s = .next t ∧ s.Stored t x [] ∧ t.isFull x = false ∧
       ∀ a, a ≠ x → t.isFull a = s.isFull a)) ∧
  (∀ (s : State) (a : BitVec 5) (sc : Scope) (ins : Instr), s.Plain → s.checkScope s.cur (s.g a) = .ok sc →
     s.released s.cur = true → (ins = .fenceAcq a ∨ ins = .fenceRel a ∨ ins = .fenceFull a) →
     ∃ t, exec ins s = .next t ∧ (t.thr s.cur).g = s.me.g ∧ (t.thr s.cur).pc = s.me.pc + 4 ∧ t.mem = s.mem ∧
       (t.thr s.cur).tsr.sc = (s.me.tsr.sc || sc.clamped) ∧ (t.thr s.cur).tsr.flags = s.me.tsr.flags ∧
       (ins ≠ .fenceRel a → sc.thread = false → (t.thr s.cur).fbuf = [])) ∧
  (∀ (s : State) (a : BitVec 5) (sc : Scope) (ins : Instr), s.Plain → s.checkScope s.cur (s.g a) = .ok sc →
     sc.thread = false → s.released s.cur = false → (ins = .fenceRel a ∨ ins = .fenceFull a) →
     ∃ t, exec ins s = .next t ∧ (t.thr s.cur).st = .parked .mem ∧ (t.thr s.cur).pc = s.me.pc ∧ t.mem = s.mem)

/-- R153, R176. SEGR reads a field of a segment register; SEGW, at level S or above, writes the fields that can be
written (BASE a multiple of 64, LIMIT 61 bits, six rights) and nothing else, and empties the fetch buffer. R154. The
segment check of levels U and S in its order: an access beyond LIMIT or that leaves the base's quarter of the address
space is DETAIL 0, a missing right or an address of the device quarter DETAIL 1, no location or no single unit there
DETAIL 2, a unit outside the home without right M DETAIL 1; each with the effective address as value; otherwise BASE
plus offset. Completion is concluded for: segr (every field and register), segw (every field and register, at level S
or above). -/
def Obligations.SegmentRegistersAndCheck : Prop :=
  (∀ (s : State), s.Plain →
     (∀ (d : BitVec 5) (f : BitVec 2) (n : BitVec 3) (g : Seg), g = s.me.seg n.toNat →
       exec (.segr d f n) s = .next (s.after (s.setG d
         (if f = 0 then g.base else if f = 1 then BitVec.ofNat 64 g.limit else g.rights.zeroExtend 64)))) ∧
     (∀ (a : BitVec 5) (f : BitVec 2) (n : BitVec 3), 1 ≤ s.level →
       ∃ t, exec (.segw a f n) s = .next t ∧ s.elsewhere t ∧ (t.thr s.cur).pc = s.me.pc + 4 ∧
         (t.thr s.cur).g = s.me.g ∧ (t.thr s.cur).fbuf = [] ∧
         ∀ m : Nat, m < 8 → (t.thr s.cur).seg m =
           if m = n.toNat then
             (if f = 0 then { s.me.seg m with base := s.g a &&& ~~~63#64 }
              else if f = 1 then { s.me.seg m with limit := (s.g a).toNat % 2 ^ 61 }
              else { s.me.seg m with rights := (s.g a).setWidth 6 })
           else s.me.seg m)) ∧
  (∀ (s : State) (th : Thread) (q size need off : Nat) (ea da : Word) (g : Seg), th.tsr.pl.toNat < 2 →
     g = th.seg (ea.toNat / 2 ^ 61) → off = ea.toNat % 2 ^ 61 → da = g.base + BitVec.ofNat 64 off →
     ∀ r, r = s.segCheck th q ea size need →
     (g.limit < off + size - 1 → r = .error { code := 8, detail := 0, tval := ea }) ∧
     (off + size - 1 ≤ g.limit → need &&& g.rights.toNat ≠ need → r = .error { code := 8, detail := 1, tval := ea }) ∧
     (off + size - 1 ≤ g.limit → need &&& g.rights.toNat = need →
       da.extractLsb' 62 2 ≠ g.base.extractLsb' 62 2 → r = .error { code := 8, detail := 0, tval := ea }) ∧
     (off + size - 1 ≤ g.limit → need &&& g.rights.toNat = need → da.extractLsb' 62 2 = g.base.extractLsb' 62 2 →
       (da.extractLsb' 62 2 = 3 → r = .error { code := 8, detail := 1, tval := ea }) ∧
       (da.extractLsb' 62 2 ≠ 3 → ∀ x y, x = s.locate da → y = s.locate (da + BitVec.ofNat 64 (size - 1)) →
         (x = none ∨ y = none ∨ x.map unitOf ≠ y.map unitOf → r = .error { code := 8, detail := 2, tval := ea }) ∧
         ∀ u v, x = some u → y = some v → unitOf u = unitOf v →
           r = if g.rights.getLsbD 4 = false ∧ homeUnit th.home u.1 = false
             then .error { code := 8, detail := 1, tval := ea } else .ok (da, u))) ∧
     ∀ x, r = .ok (da, x) → off + size - 1 ≤ g.limit ∧ need &&& g.rights.toNat = need ∧ s.locate da = some x ∧
       (g.rights.getLsbD 4 = false → homeUnit th.home x.1 = true))

/-- R154, R171, R107. A load or a store that fails the segment check takes a SEG trap, exact at the instruction; a
full/empty form or an atomic whose domain address is not aligned takes MISALIGN with the effective address. No byte of
memory and no general register changes. R166, R173. A store whose unit is not one of the core's own goes to the
posted-store journal and the thread continues: with no entry of the thread pending and room in the journal, ST leaves
memory as it is and one entry with its bytes, under the thread's sequence number, which counts on. -/
def Obligations.AccessTrapsAndPostedStores : Prop :=
  (∀ (s : State) (d b : BitVec 5) (i : BitVec 13) (ea da : Word) (x : Nat) (c : Cause), s.Plain →
     ea = s.g b + i.signExtend 64 →
     (∀ (z : BitVec 3), z.toNat ≠ 7 → s.segCheck s.me (quadOf s.here) ea (2 ^ (z.toNat % 4)) 1 = .error c →
       exec (.ld d b z i) s = .next (s.takeTrapAt s.cur c s.me.pc false)) ∧
     (∀ (z : BitVec 3), z.toNat < 4 → s.segCheck s.me (quadOf s.here) ea (2 ^ z.toNat) 2 = .error c →
       exec (.st d b z i) s = .next (s.takeTrapAt s.cur c s.me.pc false)) ∧
     (s.segCheck s.me (quadOf s.here) ea 8 10 = .ok (da, .tcm s.here, x) → da.toNat % 8 ≠ 0 →
       exec (.stf d b i) s = .next (s.takeTrapAt s.cur { code := 9, tval := ea } s.me.pc false) ∧
       exec (.feclr b i) s = .next (s.takeTrapAt s.cur { code := 9, tval := ea } s.me.pc false))) ∧
  (∀ (s : State) (r b : BitVec 5) (z : BitVec 3) (i : BitVec 13) (da : Word) (u x n : Nat), s.Plain → z.toNat < 4 →
     n = 2 ^ z.toNat → s.segCheck s.me (quadOf s.here) (s.g b + i.signExtend 64) n 2 = .ok (da, .tcm u, x) →
     u ≠ s.here → x % 16 + n ≤ 16 → (s.core s.here).journal = [] →
     ∃ t e, exec (.st r b z i) s = .next t ∧ t.mem = s.mem ∧ (t.core s.here).journal = [(0, e)] ∧ e.unit = .tcm u ∧
       e.addr = x ∧ e.thread = s.cur ∧ e.seq = s.me.nseq.toNat ∧ e.bytes.map (·.2) = toBytes n (s.gn r) ∧
       e.performed = false ∧ (t.thr s.cur).nseq = s.me.nseq + 1 ∧ (t.thr s.cur).pc = s.me.pc + 4 ∧
       (t.thr s.cur).g = s.me.g)

/-! ## The vector engine -/

/-- R194 to R207, R212 to R226. Every vector form that computes on registers completes when the unit takes it at once,
and changes its own destinations only: no other vector, scalar or mask register, no byte of memory, no other thread;
the flags of TSR are sticky. Completion is concluded for: vadd, vsub, vmul, vfma, vmin, vmax, vamin, vamax, vand, vor,
vxor, vshl, vshr, vsha, vcmp, vsel, vcvt, vqnt, vdqnt, vshup, vshdn, vrot, vperm, vbcast, vext, vins, vred, vscan,
vdot, vexp2, vlog2, vrcp, vrsq, vmand, vmor, vpopc, vshadow, vdadd, vdsub, vdmul, vdfma, vdmin, vdmax, vdwid, vdnar.
-/
def Obligations.VectorCompletion : Prop :=
  ∀ (s : State) (i : Instr), i.isLaneOp = true → i.wf = true → s.VectorReady i →
    ∃ t, exec i s = .next t ∧ s.VecFrame t i ∧
      (∀ r, r ∉ (vecScalars i).2 → (t.thr s.cur).reg r = s.me.reg r) ∧
      (∀ r, r < 4 → i.maskDest ≠ some r → (t.thr s.cur).mask r = s.me.mask r) ∧
      (t.thr s.cur).tsr.flags &&& s.me.tsr.flags = s.me.tsr.flags

/-- R195, R196, R204 to R206. A form of major 0x20 writes each element whose lane is selected with the result of its
operation on the elements of its sources, a scalar source standing for every element, and keeps every other element.
The result of a stochastic rounding, which draws on the LFSR element by element, is not stated here. R205, R206. The
operation on two elements of `n` bits: integer sums, differences and products wrap, or clamp to the range when they
saturate; the logical forms; shifts by the element's own amount, zero or the sign for amounts of `n` or more; minimum
and maximum under the type; floating-point forms round the exact result once. -/
def Obligations.VectorArithmetic : Prop :=
  (∀ (s : State) (ins : Instr) (op : Nat) (d a b m : BitVec 3) (w t : BitVec 2) (e c : BitVec 1) (n : Nat),
     s.VectorReady ins → s.me.tsr.pp = false → ins.wf = true → n = 8 <<< w.toNat → s.me.tsr.rm.toNat < 4 →
     (ins = .vadd d a b m w e t c ∧ op = 0 ∨ ins = .vsub d a b m w e t c ∧ op = 1 ∨ ins = .vmul d a b m w e t c ∧ op = 2 ∨
       ins = .vfma d a b m w e t c ∧ op = 3 ∨ ins = .vmin d a b m w e t c ∧ op = 4 ∨ ins = .vmax d a b m w e t c ∧ op = 5 ∨
       ins = .vamin d a b m w e t c ∧ op = 6 ∨ ins = .vamax d a b m w e t c ∧ op = 7 ∨
       ins = .vand d a b m w e t c ∧ op = 8 ∨ ins = .vor d a b m w e t c ∧ op = 9 ∨ ins = .vxor d a b m w e t c ∧ op = 10 ∨
       ins = .vshl d a b m w e t c ∧ op = 11 ∨ ins = .vshr d a b m w e t c ∧ op = 12 ∨
       ins = .vsha d a b m w e t c ∧ op = 13) →
     ∃ u, exec ins s = .next u ∧ ∀ i x y z : Nat, i < elems w.toNat → x = s.me.at a.toNat n i →
       y = (if c = 1 then (s.me.reg (16 + b.toNat)).toNat % 2 ^ n else s.me.at b.toNat n i) → z = s.me.at d.toNat n i →
       (u.thr s.cur).at d.toNat n i =
         if s.me.on m e (i * n / 32) then
           (if 2 ≤ t.toNat then (aluFloatOp op (typeCode w.toNat t.toNat) s.me.tsr.rm.toNat false 0 x y z).1
            else aluIntOp op w.toNat t.toNat false x y z) % 2 ^ n
         else z) ∧
  (∀ (w n a b d : Nat), w < 3 → n = 8 <<< w → a < 2 ^ n → b < 2 ^ n → d < 2 ^ n →
     (∀ t, t < 2 →
       aluIntOp 0 w t false a b d = (a + b) % 2 ^ n ∧ aluIntOp 1 w t false a b d = (a + 2 ^ n - b) % 2 ^ n ∧
       aluIntOp 2 w t false a b d = a * b % 2 ^ n ∧
       aluIntOp 8 w t false a b d = a &&& b ∧ aluIntOp 9 w t false a b d = a ||| b ∧
       aluIntOp 10 w t false a b d = a ^^^ b ∧
       aluIntOp 11 w t false a b d = (if n ≤ b then 0 else a * 2 ^ b % 2 ^ n) ∧
       aluIntOp 12 w t false a b d = (if n ≤ b then 0 else a / 2 ^ b)) ∧
     aluIntOp 0 w 1 true a b d = min (a + b) (2 ^ n - 1) ∧ aluIntOp 1 w 1 true a b d = a - b ∧
     aluIntOp 4 w 1 false a b d = min a b ∧ aluIntOp 5 w 1 false a b d = max a b ∧
     aluIntOp 6 w 1 false a b d = min d (min (a + b) (2 ^ n - 1)) ∧
     aluIntOp 7 w 1 false a b d = max d (min (a + b) (2 ^ n - 1)) ∧
     signedOf n (aluIntOp 4 w 0 false a b d) = min (signedOf n a) (signedOf n b) ∧
     signedOf n (aluIntOp 5 w 0 false a b d) = max (signedOf n a) (signedOf n b) ∧
     signedOf n (aluIntOp 0 w 0 true a b d) =
       max (-(2 : Int) ^ (n - 1)) (min ((2 : Int) ^ (n - 1) - 1) (signedOf n a + signedOf n b)) ∧
     signedOf n (aluIntOp 13 w 0 false a b d) = signedOf n a / (2 : Int) ^ (min b n))

/-- R207, R219, R220. Selection, shifts of elements across lanes, rotation, permutation, broadcast, insertion and
extraction of elements: where each element of the result comes from. R207, R224. VCMP writes the mask bit of each
selected lane with the conjunction of its elements' comparisons and keeps the others; VMAND and VMOR combine masks;
VPOPC counts the bits of a mask. -/
def Obligations.VectorMovesAndMasks : Prop :=
  (∀ (s : State) (d a b m k : BitVec 3) (w : BitVec 2) (e u : BitVec 1) (nn : BitVec 7) (g : BitVec 5) (n N p : Nat),
     w.toNat < 3 → n = 8 <<< w.toNat → N = elems w.toNat → p = (s.me.reg (16 + k.toNat)).toNat % N →
     (s.VectorReady (.vsel d a b m u) → m.toNat < 4 → ∃ t, exec (.vsel d a b m u) s = .next t ∧ ∀ l, l < 64 →
       (t.thr s.cur).at d.toNat 32 l =
         if (s.me.mask m.toNat).getLsbD l then s.me.at a.toNat 32 l
         else if u = 1 then (s.me.reg (16 + b.toNat)).toNat % 2 ^ 32 else s.me.at b.toNat 32 l) ∧
     (nn.toNat ≤ N → s.VectorReady (.vshup d a b w nn) → ∃ t, exec (.vshup d a b w nn) s = .next t ∧ ∀ i, i < N →
       (t.thr s.cur).at d.toNat n i =
         if nn.toNat ≤ i then s.me.at a.toNat n (i - nn.toNat) else s.me.at b.toNat n (N - nn.toNat + i)) ∧
     (nn.toNat ≤ N → s.VectorReady (.vshdn d a b w nn) → ∃ t, exec (.vshdn d a b w nn) s = .next t ∧ ∀ i, i < N →
       (t.thr s.cur).at d.toNat n i =
         if i + nn.toNat < N then s.me.at a.toNat n (i + nn.toNat) else s.me.at b.toNat n (i + nn.toNat - N)) ∧
     (nn.toNat < N → s.VectorReady (.vrot d a w nn) → ∃ t, exec (.vrot d a w nn) s = .next t ∧ ∀ i, i < N →
       (t.thr s.cur).at d.toNat n ((i + nn.toNat) % N) = s.me.at a.toNat n i) ∧
     (s.VectorReady (.vperm d a b m w e) → ∃ t, exec (.vperm d a b m w e) s = .next t ∧ ∀ i, i < N →
       (t.thr s.cur).at d.toNat n i =
         if s.me.on m e (i * n / 32) then s.me.at a.toNat n (s.me.at b.toNat n i % N) else s.me.at d.toNat n i) ∧
     (s.VectorReady (.vbcast d w g) → ∃ t, exec (.vbcast d w g) s = .next t ∧ ∀ i, i < N →
       (t.thr s.cur).at d.toNat n i = s.gn g % 2 ^ n) ∧
     (s.VectorReady (.vins d k w g) → ∃ t, exec (.vins d k w g) s = .next t ∧ ∀ i, i < N →
       (t.thr s.cur).at d.toNat n i = if i = p then s.gn g % 2 ^ n else s.me.at d.toNat n i) ∧
     (s.VectorReady (.vext a k w g u) → g ≠ 0 → ∃ t, exec (.vext a k w g u) s = .next t ∧
       (t.thr s.cur).reg g.toNat = if u = 1 then BitVec.ofNat 64 (s.me.at a.toNat n p)
         else BitVec.ofInt 64 (signedOf n (s.me.at a.toNat n p)))) ∧
  (∀ (s : State) (d a b m : BitVec 3) (w t : BitVec 2) (e u : BitVec 1) (c : BitVec 3) (g : BitVec 5) (n : Nat),
     n = 8 <<< w.toNat →
     ((Instr.vcmp d a b m w e t u c).wf = true → t.toNat < 2 → s.VectorReady (.vcmp d a b m w e t u c) →
       ∃ v, exec (.vcmp d a b m w e t u c) s = .next v ∧ ∀ l, l < 64 →
         ((v.thr s.cur).mask d.toNat).getLsbD l =
           if s.me.on m e l then (List.range (32 / n)).all fun j =>
             let x := typeInt w.toNat t.toNat (s.me.at a.toNat n (l * (32 / n) + j))
             let y := typeInt w.toNat t.toNat (if u = 1 then (s.me.reg (16 + b.toNat)).toNat % 2 ^ n
               else s.me.at b.toNat n (l * (32 / n) + j))
             if c = 0 then x == y else if c = 1 then x != y else if c = 2 then x < y else x ≤ y
           else (s.me.mask d.toNat).getLsbD l) ∧
     (d.toNat < 4 → a.toNat < 4 → b.toNat < 4 → s.VectorReady (.vmand d a b) → s.VectorReady (.vmor d a b) →
       ∃ v v', exec (.vmand d a b) s = .next v ∧ exec (.vmor d a b) s = .next v' ∧
         (v.thr s.cur).mask d.toNat = s.me.mask a.toNat &&& s.me.mask b.toNat ∧
         (v'.thr s.cur).mask d.toNat = s.me.mask a.toNat ||| s.me.mask b.toNat) ∧
     (a.toNat < 4 → g ≠ 0 → s.VectorReady (.vpopc a g) → ∃ v, exec (.vpopc a g) s = .next v ∧
       (v.thr s.cur).reg g.toNat =
         BitVec.ofNat 64 ((List.range 64).map fun l => ((s.me.mask a.toNat).getLsbD l).toNat).sum))

/-- R213, R215, R221, R222, R223: conversions, dequantisation, integer dot products, integer reductions and
transcendentals, element by element, under a mode that is not stochastic. -/
def Obligations.VectorConversions : Prop :=
  ∀ (s : State) (d a b k m p : BitVec 3) (fs ff : BitVec 4) (t : BitVec 2) (w1 e : BitVec 1) (rm : Nat),
    rm = s.me.tsr.rm.toNat → rm < 4 → s.me.tsr.pp = false →
    ((Instr.vcvt d a k m fs ff e).wf = true → s.VectorReady (.vcvt d a k m fs ff e) →
      ∃ u, exec (.vcvt d a k m fs ff e) s = .next u ∧ ∀ i s0 d0 n, (s0, d0, n) = cvtRange fs.toNat ff.toNat k.toNat → i < n →
        (u.thr s.cur).at d.toNat (fmtWidth ff.toNat) (d0 + i) =
          if s.me.on m e ((d0 + i) * fmtWidth ff.toNat / 32) then
            (convertBits fs.toNat ff.toNat rm false 0 (s.me.at a.toNat (fmtWidth fs.toNat) (s0 + i))).1
              % 2 ^ fmtWidth ff.toNat
          else s.me.at d.toNat (fmtWidth ff.toNat) (d0 + i)) ∧
    ((fs = 10 ∧ p.toNat < 4 ∨ fs = 11 ∧ p.toNat < 8) → s.VectorReady (.vdqnt d a k p fs) →
      ∃ u, exec (.vdqnt d a k p fs) s = .next u ∧ ∀ i, i < 64 → (u.thr s.cur).at d.toNat 32 i =
        (roundTo 4 rm false 0 (scaledNum fs.toNat ((s.me.reg (16 + k.toNat)).toNat % 256)
          (s.me.at a.toNat (if fs = 10 then 8 else 4) (64 * p.toNat + i)))).1 % 2 ^ 32) ∧
    (t.toNat < 2 → w1 = 0 → s.VectorReady (.vdot d a b m w1 e t) → ∃ u, exec (.vdot d a b m w1 e t) s = .next u ∧
      ∀ l, l < 64 → (u.thr s.cur).at d.toNat 32 l = if s.me.on m e l then
        wrapInt 32 (signedOf 32 (s.me.at d.toNat 32 l) + ((List.range 4).map fun j =>
          typeInt 0 t.toNat (s.me.at a.toNat 8 (4 * l + j)) * typeInt 0 t.toNat (s.me.at b.toNat 8 (4 * l + j))).sum)
        else s.me.at d.toNat 32 l) ∧
    ∀ (ins : Instr) (f : Machine.Num → Machine.Num × Flags), s.VectorReady ins →
      (ins = .vexp2 d a m e ∧ f = numExp2 ∨ ins = .vlog2 d a m e ∧ f = numLog2 ∨
        ins = .vrcp d a m e ∧ f = numDiv (numOfInt 1) ∨ ins = .vrsq d a m e ∧ f = numRsq) →
      ∃ u, exec ins s = .next u ∧ ∀ l, l < 64 → (u.thr s.cur).at d.toNat 32 l =
        if s.me.on m e l then (roundTo 4 rm false 0 (f (readNum 4 (s.me.at a.toNat 32 l))).1).1 % 2 ^ 32
        else s.me.at d.toNat 32 l

/-- R208 to R211. Vector loads and stores of the core's own TCM, 64-byte aligned, without a mask: lane `l` and the
four bytes at `4 l`. R196, R208, R210. Indexed loads and stores under a mask whose selected lanes lie in the core's
own TCM: each selected lane at gb + index · scale; the other lanes and every other byte of memory stay. Lanes that
store to the same address do so in ascending order, which is stated here for lanes at distinct addresses; a store's targets
pass the owner check (R156). Completion is concluded for: vld, vst, vldx, vstx. -/
def Obligations.VectorMemory : Prop :=
  (∀ (s : State) (d : BitVec 3) (b : BitVec 5) (i : BitVec 6) (ea da : Word) (x : Nat),
     ea = s.g b + 256 * i.signExtend 64 → x % 64 = 0 → da.toNat % 4 = 0 →
     (s.VectorReady (.vld d 0 0 b i) → s.OwnTcm ea da x 256 1 → ∃ t, exec (.vld d 0 0 b i) s = .next t ∧
       s.VecFrame t (.vld d 0 0 b i) ∧ ∀ l, l < 64 → (t.thr s.cur).at d.toNat 32 l = ofBytes (s.rd (x + 4 * l) 4)) ∧
     (s.VectorReady (.vst d 0 0 b i) → s.ownsTcm → s.OwnTcm ea da x 256 2 → ∃ t, exec (.vst d 0 0 b i) s = .next t ∧
       (∀ l, l < 64 → t.rd (x + 4 * l) 4 = toBytes 4 (s.me.at d.toNat 32 l)) ∧
       (∀ y, y < x ∨ x + 256 ≤ y → memGet t.mem y = memGet s.mem y) ∧ (t.thr s.cur).v = s.me.v ∧
       (t.thr s.cur).g = s.me.g ∧ (t.thr s.cur).pc = s.me.pc + 4)) ∧
  (∀ (s : State) (d x m : BitVec 3) (b : BitVec 5) (h : BitVec 2) (e : BitVec 1) (A : Nat → Nat),
     m.toNat < 4 → (e = 0 → m = 0) →
     (∀ l l', l < 64 → l' < 64 → l ≠ l' → s.me.on m e l = true → s.me.on m e l' = true →
       A l + 4 ≤ A l' ∨ A l' + 4 ≤ A l) →
     (s.VectorReady (.vldx d x m e b h) → (∀ l, l < 64 → s.me.on m e l = true → A l % 64 + 4 ≤ 64 ∧ ∃ da : Word,
         da.toNat % 4 = 0 ∧ s.OwnTcm (s.g b + ((s.me.lane x.toNat l).data.signExtend 64) <<< h.toNat) da (A l) 4 1) →
       ∃ t, exec (.vldx d x m e b h) s = .next t ∧ s.VecFrame t (.vldx d x m e b h) ∧ ∀ l, l < 64 →
         (t.thr s.cur).at d.toNat 32 l =
           if s.me.on m e l then ofBytes (s.rd (A l) 4) else s.me.at d.toNat 32 l) ∧
     (s.VectorReady (.vstx d x m e b h) → s.ownsTcm → (∀ l, l < 64 → s.me.on m e l = true → A l % 64 + 4 ≤ 64 ∧ ∃ da : Word,
         da.toNat % 4 = 0 ∧ s.OwnTcm (s.g b + ((s.me.lane x.toNat l).data.signExtend 64) <<< h.toNat) da (A l) 4 2) →
       ∃ t, exec (.vstx d x m e b h) s = .next t ∧
         (∀ l, l < 64 → s.me.on m e l = true → t.rd (A l) 4 = toBytes 4 (s.me.at d.toNat 32 l)) ∧
         (∀ y, (∀ l, l < 64 → s.me.on m e l = true → y < A l ∨ A l + 4 ≤ y) → memGet t.mem y = memGet s.mem y) ∧
         (t.thr s.cur).v = s.me.v ∧ (t.thr s.cur).pc = s.me.pc + 4))

/-- R216, R225. VQSPLIT, where the quad's outlier queue holds at most 192 entries and nothing waits for it, moves the
values above a threshold to that queue, one entry each in lane order, leaves zero in their lanes and marks them in a
mask; ORCV takes the oldest entry, or zero; XACZ clears XACC, XMAC adds an exact product, XRD rounds it. Completion is
concluded for: vqsplit, orcv, xacz, xmac, xrd. -/
def Obligations.OutliersAndExactSums : Prop :=
  ∀ (s : State),
    (∀ (d a k m : BitVec 3) (q : Nat), s.VectorReady (.vqsplit d a k m) →
      q = coreOfQuad (quadOf s.here) 3 → (s.core q).oq.length ≤ 192 → (s.core q).oqWait = [] →
      ∃ t, exec (.vqsplit d a k m) s = .next t ∧ s.VecFrame t (.vqsplit d a k m) ∧ ∀ out : Nat → Bool, (∀ l, out l = (match readNum 4 (s.me.at a.toNat 32 l), readNum 4 ((s.me.reg (16 + k.toNat)).toNat % 2 ^ 32) with
        | .nan _, _ => false
        | _, .nan _ => false
        | .inf _, th => numLt th (.inf false)
        | .fin _ man ex st, th => numLt th (.fin false man ex st))) →
        (∀ l, l < 64 → (t.thr s.cur).at d.toNat 32 l = (if out l then 0 else s.me.at a.toNat 32 l) ∧
          (m.toNat < 4 → ((t.thr s.cur).mask m.toNat).getLsbD l = out l)) ∧
        (t.core q).oq.length = (s.core q).oq.length + ((List.range 64).filter out).length) ∧
    (∀ (d : BitVec 5), s.Plain → s.xw s.here = true →
      (∀ v vs, (s.core s.here).oq = v :: vs → (s.core s.here).oqWait = [] →
        ∃ t, exec (.orcv d) s = .next t ∧ s.Loaded t d v ∧ (t.core s.here).oq = vs) ∧
      ((s.core s.here).oq = [] → exec (.orcv d) s = .next (s.after (s.setG d 0)))) ∧
    (s.Plain → s.xw s.here = true →
      (∃ t, exec .xacz s = .next t ∧ (t.thr s.cur).xacc = 0 ∧ (t.thr s.cur).xstate = .finite ∧ (t.thr s.cur).g = s.me.g ∧
        (t.thr s.cur).pc = s.me.pc + 4 ∧ s.elsewhere t) ∧
      (∀ (a b : BitVec 5) (na nb : Bool) (ma mb : Nat) (ea eb : Int) (p : Int), s.me.xstate = .finite →
        s.fp 4 a = .fin na ma ea false → s.fp 4 b = .fin nb mb eb false → -300 ≤ ea + eb →
        p = s.me.xacc.toInt + (if na = nb then 1 else -1) * (ma * mb * 2 ^ (ea + eb + 300).toNat : Nat) →
        p.natAbs < 2 ^ 639 →
        ∃ t, exec (.xmac a b) s = .next t ∧ (t.thr s.cur).xacc.toInt = p ∧ (t.thr s.cur).xstate = .finite ∧
          (t.thr s.cur).g = s.me.g ∧ (t.thr s.cur).pc = s.me.pc + 4 ∧ s.elsewhere t) ∧
      (∀ (d : BitVec 5), s.me.xstate = .finite →
        exec (.xrd d) s = .next (s.after (s.roundedInto d 4
          (.fin (s.me.xacc.toInt < 0) s.me.xacc.toInt.natAbs (-300) false, 0)))))

/-! ## The matrix engine -/

/-- R256. On the tiles of the core, at the unit: TZERO leaves zero data, neutral scales and masks and no poison; TMOV
copies data, companions and the descriptor but not the strides; TTRANS transposes a dense tile, an 8-bit one by
halves. No other tile, no register and no byte of memory changes; TMOV of a tile onto itself changes no tile. Completion
is concluded for: tzero, tmov, ttrans. -/
def Obligations.TileMoves : Prop :=
  ∀ (s : State) (a d : BitVec 5) (k : Core) (x : Tile), k = s.core s.here → a.toNat < 16 → d.toNat < 16 →
    x = k.tile a.toNat →
    (s.MatrixReady (.tzero d) → (k.tile d.toNat).desc.ok = true →
      ∃ t, exec (.tzero d) s = .next t ∧ s.MatFrame t ∧ t.mem = s.mem ∧ t.full = s.full ∧
        (∀ j, j < 16 → j ≠ d.toNat → (t.core s.here).tile j = k.tile j) ∧
        ∀ y : Tile, y = (t.core s.here).tile d.toNat → y.data = List.replicate 2048 0 ∧ y.scale = List.replicate 32 127 ∧
          y.mask = List.replicate 32 (lowBits (k.tile d.toNat).desc.n) ∧ y.pois = false ∧
          y.desc = (k.tile d.toNat).desc) ∧
    (s.MatrixReady (.tmov a d) → x.desc.ok = true → a ≠ d →
      ∃ t, exec (.tmov a d) s = .next t ∧ s.MatFrame t ∧ t.mem = s.mem ∧ t.full = s.full ∧
        (∀ j, j < 16 → j ≠ d.toNat → (t.core s.here).tile j = k.tile j) ∧
        ∀ y : Tile, y = (t.core s.here).tile d.toNat → y.data = x.data ∧ y.scale = x.scale ∧ y.mask = x.mask ∧
          y.geom.extractLsb' 0 24 = x.geom.extractLsb' 0 24 ∧
          y.geom.extractLsb' 24 40 = (k.tile d.toNat).geom.extractLsb' 24 40) ∧
    (s.MatrixReady (.tmov a a) → x.desc.ok = true →
      ∃ t, exec (.tmov a a) s = .next t ∧ s.MatFrame t ∧ t.mem = s.mem ∧ t.full = s.full ∧
        ∀ j, j < 16 → (t.core s.here).tile j = k.tile j) ∧
    (s.MatrixReady (.ttrans a d) → x.desc.sp = 0 → x.desc.fmt ∈ [0, 1, 5, 6, 7, 8] →
      ∃ t, exec (.ttrans a d) s = .next t ∧ s.MatFrame t ∧ t.mem = s.mem ∧ t.full = s.full ∧
        (∀ j, j < 16 → j ≠ d.toNat → (t.core s.here).tile j = k.tile j) ∧
        ∀ y : Tile, y = (t.core s.here).tile d.toNat → y.desc.fmt = x.desc.fmt ∧ y.desc.kvm1 = 63 ∧ y.desc.nrm1 = 31 ∧
          ∀ i j, i < 32 →
            (x.desc.fmt ∉ [5, 6] → j < 64 →
              y.data.getD (64 * i + j) 0 = x.data.getD (64 * (j % 32) + 32 * (j / 32) + i) 0) ∧
            (x.desc.fmt ∈ [5, 6] → j < 32 → ∀ b, b < 2 →
              y.data.getD (64 * i + 2 * j + b) 0 = x.data.getD (64 * j + 2 * i + b) 0))

/-- R254. TLD of a dense tile without scales whose rows lie in the core's own TCM, into a tile or into the next slots
of a ring: row `i` up to NRM1 holds the first KVM1 + 1 elements at ga + i · STRIDE with zeros after them, later rows
are zero, the poison mark is clear, and memory is unchanged; a ring counts its slots FULL. R255. TST of a dense tile
without scales to rows of the core's own TCM that do not overlap: the bytes of row `i` at ga + i · STRIDE for every
row up to NRM1; no other byte of memory and no tile changes. Completion is concluded for: tld, tldRing, tst. -/
def Obligations.TileLoadAndStore : Prop :=
  (∀ (s : State) (a b n : BitVec 5) (ins : Instr) (k : Core) (d : Nat) (g : Geom) (A : Nat → Nat), k = s.core s.here →
     (ins = .tld a b n ∧ d = n.toNat ∧ d < 16 ∨
       ins = .tldRing a b n ∧ n.toNat < 4 ∧ d = (k.ring n.toNat).tile (k.ring n.toNat).pi ∧
         (k.ring n.toNat).len ≠ 0 ∧ (k.ring n.toNat).pi < (k.ring n.toNat).len ∧ g.slots ≤ (k.ring n.toNat).empties ∧
         (k.ring n.toNat).pend = [] ∧ (k.ring n.toNat).inStep ∧
         (g.pair = true → (k.ring n.toNat).tile (((k.ring n.toNat).pi + 1) % (k.ring n.toNat).len) = d + 1)) →
     s.MatrixReady ins → s.ownsTcm → g = (k.tile d).desc → g.okAt d = true → g.sp = 0 → g.fmt ∉ [10, 11, 12] →
     (∀ i, i ≤ g.nrm1 → ∃ da : Word, da.toNat % 32 = 0 ∧
       s.OwnTcm (s.g a + BitVec.ofNat 64 (i * g.stride)) da (A i) g.rowBytes 1) →
     ∃ t, exec ins s = .next t ∧ s.MatFrame t ∧ t.mem = s.mem ∧ t.full = s.full ∧
       (∀ j, j < 16 → j ≠ d → (g.pair = true → j ≠ d + 1) → (t.core s.here).tile j = k.tile j) ∧
       ((t.core s.here).tile d).pois = false ∧ ((t.core s.here).tile d).desc = g ∧
       (∀ i, i < 32 → ofBytes ((t.core s.here).rowOf d g.pair i) =
         if i ≤ g.nrm1 then ofBytes (s.rd (A i) g.rowBytes) % 2 ^ ((g.kvm1 + 1) * fmtWidth g.fmt) else 0) ∧
       ∀ r, r < 4 → (t.core s.here).ring r =
         if ins = .tldRing a b n ∧ r = n.toNat then
           { k.ring r with pi := ((k.ring r).pi + g.slots) % (k.ring r).len, nf := (k.ring r).nf + g.slots }
         else k.ring r) ∧
  (∀ (s : State) (a b d : BitVec 5) (k : Core) (g : Geom) (A : Nat → Nat), k = s.core s.here → d.toNat < 16 →
     s.MatrixReady (.tst a b d) → s.ownsTcm → g = (k.tile d.toNat).desc → g.okAt d.toNat = true → g.sp = 0 →
     g.fmt ∉ [10, 11, 12] → (k.tile d.toNat).pois = false → (g.pair = true → (k.tile (d.toNat + 1)).pois = false) →
     (∀ i, i < 32 → (k.rowOf d.toNat g.pair i).length = 64 * g.slots) → s.entriesOf s.cur = [] →
     (∀ i, i ≤ g.nrm1 → ∃ da : Word, da.toNat % 32 = 0 ∧
       s.OwnTcm (s.g a + BitVec.ofNat 64 (i * g.stride)) da (A i) g.rowBytes 2) →
     (∀ i j, i ≤ g.nrm1 → j ≤ g.nrm1 → i ≠ j → A i + g.rowBytes ≤ A j ∨ A j + g.rowBytes ≤ A i) →
     ∃ t, exec (.tst a b d) s = .next t ∧ s.MatFrame t ∧
       (∀ i, i ≤ g.nrm1 → t.rd (A i) g.rowBytes = (k.rowOf d.toNat g.pair i).take g.rowBytes) ∧
       (∀ y, (∀ i, i ≤ g.nrm1 → y < A i ∨ A i + g.rowBytes ≤ y) → memGet t.mem y = memGet s.mem y) ∧
       ∀ j, j < 16 → (t.core s.here).tile j = k.tile j)

/-- R238, R257, R259. TACCZ zeroes the sub-tile of the core's SRAM that ACCG names. TMMA adds, to each of its 1,024
elements, the sum of the 64 products of a row of A and a row of B: INT32 elements wrap; FP32 ones take the exact sum
of the products with its special values, one rounding into the internal format, and the final rounding under TSR.RM.
Bytes outside the sub-tile, tiles and registers stay. Stochastic rounding is not stated here. R259. TACCR: column `n`
of row `m` of the chosen half of the tile is the accumulator's element (m, n), converted from the accumulator's format
to the tile's under TSR.RM; memory stays. Completion is concluded for: taccz, tmma, taccr. -/
def Obligations.Accumulator : Prop :=
  (∀ (s : State) (a b : BitVec 5) (k : Core) (x : Nat), k = s.core s.here → x = s.accAddr s.here → k.stopped = false → s.memOk →
     (s.MatrixReady .taccz → ∃ t, exec .taccz s = .next t ∧ s.MatFrame t ∧ t.rd x 4096 = List.replicate 4096 0 ∧
       (∀ y, y < x ∨ x + 4096 ≤ y → memGet t.mem y = memGet s.mem y) ∧ (t.core s.here).accPois = false ∧
       (t.thr s.cur).tsr.flags = s.me.tsr.flags ∧ ∀ j, j < 16 → (t.core s.here).tile j = k.tile j) ∧
     (s.MatrixReady (.tmma a b) → s.me.tsr.pp = false → s.me.tsr.rm.toNat < 4 →
       k.accepts k.afmt a.toNat b.toNat none none none = true → (∀ j, (k.tile j).pois = false) → s.accBad s.here = none →
       ∃ t, exec (.tmma a b) s = .next t ∧ s.MatFrame t ∧
         (∀ y, y < x ∨ x + 4096 ≤ y → memGet t.mem y = memGet s.mem y) ∧
         (t.thr s.cur).tsr.flags &&& s.me.tsr.flags = s.me.tsr.flags ∧
         (∀ j, j < 16 → (t.core s.here).tile j = k.tile j) ∧
         ∀ m n old, m < 32 → n < 32 → old = ofBytes (s.rd (x + 4 * (32 * m + n)) 4) →
           ofBytes (t.rd (x + 4 * (32 * m + n)) 4) =
             if intOperand (k.tile a.toNat).desc.fmt then
               wrapInt 32 (signedOf 32 old + chunkSumInt (k.rowInts a.toNat m) (k.rowInts b.toNat n))
             else (roundTo 4 s.me.tsr.rm.toNat false 0
               (roundX (numAdd false ((loadAccs 4 (toBytes 4 old)).getD 0 .nan).num
                 (chunkSum (k.rowNums a.toNat m) (k.rowNums b.toNat n)).1).1).1.num).1 % 2 ^ 32)) ∧
  (∀ (s : State) (d : BitVec 5) (h : BitVec 1) (k : Core) (f w x e lo : Nat), k = s.core s.here →
     f = (k.tile d.toNat).desc.fmt → w = fmtWidth f → x = s.accAddr s.here → s.MatrixReady (.taccr d h) →
     s.me.tsr.pp = false → s.me.tsr.rm.toNat < 4 → k.afmt = 3 ∨ k.afmt = 4 → d.toNat < 16 →
     (k.tile d.toNat).desc.okAt d.toNat = true → (w = 16 → d.toNat % 2 = 0) → f ∈ [0, 1, 5, 6, 7, 8, 9, 13] →
     e = (if w = 16 then d.toNat + h.toNat else d.toNat) → lo = (if w = 16 then 0 else 32 * h.toNat * w) →
     ∃ t, exec (.taccr d h) s = .next t ∧ s.MatFrame t ∧ t.mem = s.mem ∧ t.full = s.full ∧
       (∀ m n, m < 32 → n < 32 →
         field (ofBytes ((((t.core s.here).tile e).data.drop (64 * m)).take 64)) (lo + w * n + w - 1) (lo + w * n) =
           (convertBits k.afmt f s.me.tsr.rm.toNat false 0 (ofBytes (s.rd (x + 4 * (32 * m + n)) 4))).1 % 2 ^ w) ∧
       (k.accPois = false → s.accBad s.here = none → ∀ j, j < 16 → j ≠ e → (t.core s.here).tile j = k.tile j) ∧
       ((k.accPois = true ∨ (s.accBad s.here).isSome) → ((t.core s.here).tile e).pois = true))

/-- R234, R236, R237, R260, R261. Rings: RINGDEF writes a ring's FIRST, FWD and LEN and empties it; TWAIT answers the
tile of the n-th FULL slot; TADV claims n EMPTY slots and marks them FULL; TFREE consumes n FULL slots, which become
EMPTY at once where nothing is forwarded, and refuses a ring of pairs whose FIRST, LEN or CI is odd; each where no earlier
control instruction of the core waits. Claiming, filling and consuming keep PI at NF + NL slots past CI. R247, R263. MRECT
clears the rectangle's validity for 0 and sets a rectangle that contains the core and lies in quads of its function; MSTAT
reads the record; MCANCEL clears FREF and discards the record of a stopped operation, and with the drain form consumes
the record's slots first, once both chunks are FULL; the sub-tile becomes poisoned where the record's cause is poison.
Completion is concluded for: ringdef, twait, tadv, tfree, mrect, mstat, mcancel, mcancelDrain. -/
def Obligations.RingsAndMatrixControl : Prop :=
  (∀ (s : State) (a r d : BitVec 5) (k : Core) (g : Ring) (n : Nat), k = s.core s.here → r.toNat < 4 → g = k.ring r.toNat →
     n = s.gn a →
     (∀ x : Ring, x = { first := field n 3 0, fwd := field n 7 6, len := field n 12 8 } →
       s.MatrixReady (.ringdef a r) → n &&& 0x1FCF = n → x.fwd ≠ 3 → x.len ≤ 16 → (x.len = 0 → n = 0) →
       (∀ j i, j < 4 → j ≠ r.toNat → i < x.len → x.tile i ∉ (k.ring j).tiles) → k.stopped = false → g.nl = 0 → g.nh = 0 →
       ∃ t, exec (.ringdef a r) s = .next t ∧ s.MatFrame t ∧ t.mem = s.mem ∧
         ∀ j, j < 4 → (t.core s.here).ring j = if j = r.toNat then x else k.ring j) ∧
     (s.Plain → n < g.len → n < g.nf → ∃ t, exec (.twait a r d) s = .next t ∧
       s.Loaded t d (BitVec.ofNat 64 ((g.first + (g.ci + n) % g.len) % 16)) ∧ ∀ j, (t.core s.here).ring j = k.ring j) ∧
     (s.Plain → n ≠ 0 → n ≤ g.len → n ≤ k.empties r.toNat → k.ctrl = [] → g.pend = [] → g.inStep → ∃ t, exec (.tadv a r) s = .next t ∧ s.elsewhere
         { t with cores := s.cores } ∧ (t.thr s.cur).pc = s.me.pc + 4 ∧
       ∀ j, j < 4 → (t.core s.here).ring j =
         if j = r.toNat then { g with pi := (g.pi + n) % g.len, nf := g.nf + n } else k.ring j) ∧
     (s.Plain → n ≠ 0 → n ≤ g.len → n ≤ g.nf → k.ctrl = [] → k.evenFor r.toNat (k.chunkSlots r.toNat) = false →
       exec (.tfree a r) s = .next ((s.modCore s.here fun k => { k with ctrl := [] }).takeTrapAt s.cur
         { code := 1, detail := 2, tval := (encode (.tfree a r)).zeroExtend 64 } s.me.pc false)) ∧
     (s.Plain → n ≠ 0 → n ≤ g.len → n ≤ g.nf → k.ctrl = [] → k.evenFor r.toNat (k.chunkSlots r.toNat) = true →
       ∃ t, exec (.tfree a r) s = .next t ∧ t.mem = s.mem ∧
       (t.thr s.cur).pc = s.me.pc + 4 ∧ (t.thr s.cur).g = s.me.g ∧ ((t.core s.here).ring r.toNat).nf = g.nf - n ∧
       ((t.core s.here).ring r.toNat).ci = (g.ci + n) % g.len ∧
       (∀ j, j < 4 → j ≠ r.toNat → (t.core s.here).ring j = k.ring j) ∧
       (k.forwardDest s.here g.fwd = none → k.forwards = [] → g.nh = 0 →
         ((t.core s.here).ring r.toNat).nh = 0 ∧ (t.core s.here).forwards = []))) ∧
  (∀ (g : Ring) (n slot : Nat), g.inStep →
     (g.claim n).inStep ∧ (g.claim n).nl = g.nl + n ∧ (g.filled slot n).inStep ∧
     (g.filled slot n).nf + (g.filled slot n).nl = g.nf + g.nl ∧ (n ≤ g.nf → (g.consume n).inStep)) ∧
  (∀ (s : State) (a d : BitVec 5) (k : Core), k = s.core s.here →
     (s.MatrixReady (.mrect a) → s.g a = 0 → ∃ t, exec (.mrect a) s = .next t ∧ s.MatFrame t ∧ t.mem = s.mem ∧
       (t.core s.here).mrect = k.mrect &&& 0xFFFFFFFF#33) ∧
     (∀ x0 y0 x1 y1 : Nat, s.MatrixReady (.mrect a) → s.g a ≠ 0 → s.gn a = x0 + 256 * y0 + 65536 * x1 + 16777216 * y1 →
       x0 < 256 → y0 < 256 → x1 ≤ 239 → y1 ≤ 239 → x0 ≤ xOf s.here → xOf s.here ≤ x1 → y0 ≤ yOf s.here → yOf s.here ≤ y1 →
       (∀ i j, x0 / 2 ≤ i → i ≤ x1 / 2 → y0 / 2 ≤ j → j ≤ y1 / 2 → s.holder (j * 120 + i) = some s.me.fn) →
       ∃ t, exec (.mrect a) s = .next t ∧ s.MatFrame t ∧ t.mem = s.mem ∧
         (t.core s.here).mrect = 1#1 ++ (s.g a).extractLsb' 0 32) ∧
     (s.Plain → ∃ t, exec (.mstat d) s = .next t ∧ s.elsewhere t ∧ (t.thr s.cur).pc = s.me.pc + 4 ∧
       (d ≠ 0 → ∀ v : Word, v = (t.thr s.cur).reg d.toNat →
         v.getLsbD 63 = k.mrec.v ∧ v.getLsbD 62 = k.accPois ∧ v.getLsbD 60 = k.fref ∧
         v.getLsbD 61 = (k.munit.isSome || k.mop.isSome || k.mq != []) ∧ v.getLsbD 47 = k.mrec.sparse ∧
         v.getLsbD 16 = k.mrec.acce ∧ (v.extractLsb' 56 4).toNat = k.mrec.cause % 16 ∧
         (v.extractLsb' 52 4).toNat = k.mrec.tile % 16 ∧ (v.extractLsb' 50 2).toNat = k.mrec.ra % 4 ∧
         (v.extractLsb' 48 2).toNat = k.mrec.rb % 4 ∧ (v.extractLsb' 0 16).toNat = k.mrec.chunk % 65536)) ∧
     (∀ i : Instr, i = .mcancel ∨ i = .mcancelDrain → s.MatrixReady i →
       (i = .mcancelDrain → k.stopped = true → ∀ r, r = k.mrec.ra ∨ r = k.mrec.rb →
         k.chunkFull r = true ∧ k.evenFor r (k.chunkSlots r) = true) →
       ∃ t, exec i s = .next t ∧ s.MatFrame t ∧ t.mem = s.mem ∧ (t.core s.here).fref = false ∧
         (t.core s.here).mrec = (if k.stopped then {} else k.mrec) ∧
         (k.stopped = true → k.mrec.cause = 3 → s.poison = [] → t.poisoned (s.accAddr s.here) 4096 = true) ∧
         (i = .mcancelDrain → k.stopped = true → k.mrec.ra < 4 → k.mrec.rb < 4 → k.mrec.ra ≠ k.mrec.rb →
           ∀ r, r = k.mrec.ra ∨ r = k.mrec.rb → ((t.core s.here).ring r).nf = (k.ring r).nf - k.chunkSlots r ∧
             ((t.core s.here).ring r).ci = ((k.ring r).ci + k.chunkSlots r) % (k.ring r).len) ∧
         (i = .mcancel ∨ k.stopped = false → ∀ r, r < 4 → (t.core s.here).ring r = k.ring r)))

/-- R244, R258, R262. TMMAS and TMMASP take the unit for a multi-chunk operation that starts at chunk 0, or at the
chunk of a record, and park the thread with reason ENGINE; TSEND hands a tile to another core's ring and parks with
reason REMOTE; each completes when the end of its operation is reported. Completion is concluded for: tmmas, tmmasp,
tsend. -/
def Obligations.LongMatrixWords : Prop :=
  ∀ (s : State) (a b : BitVec 5) (k : Core) (i : Instr), k = s.core s.here →
    ((i = .tmmas a b ∨ i = .tmmasp a b) → a.toNat < 4 → b.toNat < 4 →
      (s.MatrixReady i → a ≠ b → (k.ring a.toNat).len ≠ 0 → (k.ring b.toNat).len ≠ 0 → k.afmt = 3 ∨ k.afmt = 4 →
        k.stopped = false →
        ∃ t m, exec i s = .next t ∧ t.mem = s.mem ∧ (t.thr s.cur).st = .parked .engine ∧ (t.thr s.cur).pc = s.me.pc ∧
          (t.thr s.cur).g = s.me.g ∧ (t.core s.here).mop = some m ∧ m.op.insn = i ∧ m.op.thread = s.cur ∧
          m.chunk = (if k.mrec.v then k.mrec.chunk else 0) ∧ m.loaded = false ∧ m.fn = s.me.fn ∧
          m.accg = k.accg ∧ (t.core s.here).mrec = {} ∧ .tmmasChunk s.here ∈ t.agenda)) ∧
    (∀ r : BitVec 5, i = .tsend a b r → s.MatrixReady i → s.Plain → a.toNat < 16 → s.gn b < 65536 →
      validCore (s.gn b) = true → s.acceptCode s.me.fn (s.gn b) = 0 → (k.tile a.toNat).desc.ok = true →
      s.tagBusy s.cur = false → k.sendBuf = [] → 2 ≤ s.level ∨ (s.fn s.me.fn).unl = true →
      ∃ t x, exec i s = .next t ∧ t.mem = s.mem ∧ (t.thr s.cur).st = .parked .remote ∧ (t.thr s.cur).pc = s.me.pc ∧
        (t.core (s.gn b)).arrivals = (s.core (s.gn b)).arrivals ++ [x] ∧ x.ring = r.toNat ∧ x.tile = k.tile a.toNat ∧
        x.src = s.here ∧ x.thread = s.cur ∧ .tileArrival (s.gn b) ∈ t.agenda) ∧
    ((i = .tmmas a b ∨ i = .tmmasp a b ∨ ∃ r, i = .tsend a b r) → s.me.tsr.pair = false → s.streaming s.cur = false →
      s.me.replaying = false → s.me.residuesHold → s.prefixFits (matRule i) → k.munit = none → s.me.op.reply = .ok →
      ∃ t, exec i s = .next t ∧ t.mem = s.mem ∧ (t.thr s.cur).pc = s.me.pc + 4 ∧ (t.thr s.cur).st = .run ∧
        (t.thr s.cur).g = s.me.g)

/-! ## Streams, copies and messages -/

/-- R265, R286 to R290. Contexts of the stream engine: SDESC loads the descriptor in the 128 bytes at ga and sets POS
to 0; SBIND gives a loaded context to the thread, SUNBIND takes it back once nothing is left to drain; SPOS reads POS
and with W = 1 sets it, SSKIP advances it up to the element count; SFLUSH reopens an in context's window and waits for
nothing more of an out context; SSTAT reads the state. The forms that discard or replace a context's elements run where no
ring fill is in progress and no push waits to be drained. Completion is concluded for: sdesc, sbind, sunbind, spos, sposSet,
sskip, sflush, sstat. -/
def Obligations.StreamContexts : Prop :=
  ∀ (s : State) (a d : BitVec 5) (c : BitVec 5) (x : Nat) (k : Ctx), x = c.toNat → x < 16 →
    k = (s.core s.here).ctx x →
    (∀ (da : Word) (p : Nat), s.Plain → s.OwnTcm (s.g a) da p 128 1 → da.toNat % 64 = 0 → k.bound = false →
      k.busy = false → badDesc (s.rd p 128) = false →
      ∃ t, exec (.sdesc a c) s = .next t ∧ t.mem = s.mem ∧ (t.thr s.cur).g = s.me.g ∧ (t.thr s.cur).pc = s.me.pc + 4 ∧
        ((t.core s.here).ctx x).loaded = true ∧ ((t.core s.here).ctx x).desc = Desc.ofBytes (s.rd p 128) ∧
        ((t.core s.here).ctx x).pos = 0 ∧ ((t.core s.here).ctx x).bound = false) ∧
    (∀ (kd : BitVec 2) (n : BitVec 3), s.Plain → k.loaded = true → k.bound = false → k.busy = false → (kd = 2 → k.desc.dirOut = false) →
      (∀ y, y < 16 → ((s.core s.here).ctx y).bound = true → ((s.core s.here).ctx y).kind = kd.toNat →
        ((s.core s.here).ctx y).n = n.toNat → kd ≠ 2 ∧ ((s.core s.here).ctx y).owner ≠ s.cur) →
      ∃ t, exec (.sbind c kd n) s = .next t ∧ t.mem = s.mem ∧ (t.thr s.cur).g = s.me.g ∧
        (t.thr s.cur).pc = s.me.pc + 4 ∧ ∀ u : Ctx, u = (t.core s.here).ctx x → u.bound = true ∧ u.owner = s.cur ∧
          u.kind = kd.toNat ∧ u.n = n.toNat ∧ u.pos = k.pos ∧ u.desc = k.desc ∧ u.fn = s.me.fn ∧ u.level = s.level) ∧
    (s.Idle → k.bound = true → k.owner = s.cur → k.busy = false →
      ∃ t, exec (.sunbind c) s = .next t ∧ t.mem = s.mem ∧ (t.thr s.cur).g = s.me.g ∧ (t.thr s.cur).pc = s.me.pc + 4 ∧
        ∀ u : Ctx, u = (t.core s.here).ctx x → u.bound = false ∧ u.loaded = k.loaded ∧ u.pos = k.pos ∧ u.desc = k.desc) ∧
    (s.Plain → k.loaded = true → (k.bound = true → k.owner = s.cur) →
      exec (.spos c d) s = .next (s.after (s.setGn d k.pos)) ∧
      (s.gn a ≤ k.desc.total → k.fill = none → ∃ t, exec (.sposSet a c d) s = .next t ∧ t.mem = s.mem ∧
        (t.thr s.cur).pc = s.me.pc + 4 ∧ ((t.core s.here).ctx x).pos = s.gn a ∧
        ∀ r, (t.thr s.cur).reg r = if r = d.toNat ∧ r ≠ 0 then BitVec.ofNat 64 k.pos else s.me.reg r) ∧
      (k.fill = none →
        ∃ t, exec (.sskip a c) s = .next t ∧ t.mem = s.mem ∧ (t.thr s.cur).pc = s.me.pc + 4 ∧ (t.thr s.cur).g = s.me.g ∧
          ((t.core s.here).ctx x).pos = min (k.pos + s.gn a) k.desc.total)) ∧
    (s.Idle → k.bound = true → k.owner = s.cur →
      (k.desc.dirOut = true ∧ k.buf = [] ∧ k.refused = none ∨ k.desc.dirOut = false ∧ s.released s.cur = true ∧ k.fill = none) →
      ∃ t, exec (.sflush c) s = .next t ∧ t.mem = s.mem ∧ (t.thr s.cur).pc = s.me.pc + 4 ∧ (t.thr s.cur).g = s.me.g ∧
        ((t.core s.here).ctx x).buf = [] ∧ ((t.core s.here).ctx x).pos = k.pos) ∧
    (s.Plain → k.pos < 2 ^ 44 → k.n < 8 → k.kind < 4 →
      ∃ v : Word, exec (.sstat c d) s = .next (s.after (s.setG d v)) ∧ v.getLsbD 63 = k.bound ∧ v.getLsbD 62 = k.loaded ∧
        v.getLsbD 61 = k.susp ∧ v.getLsbD 60 = (k.loaded && k.pos == k.desc.total) ∧ v.getLsbD 59 = k.desc.dirOut ∧
        (v.extractLsb' 0 44).toNat = k.pos ∧ (v.extractLsb' 44 4).toNat = k.err % 16 ∧
        (k.bound = true → (v.extractLsb' 57 2).toNat = k.kind ∧ (v.extractLsb' 54 3).toNat = k.n ∧
          (v.extractLsb' 50 4).toNat = slotOf k.owner))

/-- R276, R279, R280, R291. COPY with a parameter block in the core's own TCM, with nothing earlier of the thread
still to be performed, takes a slot, answers its handle and leaves the copy QUEUED with the thread's agent; COPYST
reads the state, the code and the bytes done of a handle, and 0 for any other value. R281, R282, R292. Arrival words
of the core's own TCM: ARMGEN sets TARGET, ADDGEN adds arrivals; in both a word with a target advances its generation
by one for every TARGET arrivals and keeps the rest as its count; WAITGEN on a generation that has come completes and
changes neither memory nor registers. Completion is concluded for: copy, copyst, armgen, addgen, waitgen. -/
def Obligations.CopiesAndArrivalWords : Prop :=
  (∀ (s : State) (a d : BitVec 5), s.Plain →
     (∀ (da : Word) (p i : Nat), s.released s.cur = true → s.OwnTcm (s.g a) da p 128 1 → da.toNat % 64 = 0 →
       badCopy (s.rd p 128) = false → (s.core s.here).copySlot = some i →
       ∃ t, exec (.copy a d) s = .next t ∧ t.mem = s.mem ∧ (t.thr s.cur).pc = s.me.pc + 4 ∧
         (∀ r, (t.thr s.cur).reg r = if r = d.toNat ∧ r ≠ 0 then
           BitVec.ofNat 64 ((s.core s.here).copySeq * 256 + i) else s.me.reg r) ∧
         (t.core s.here).copySeq = ((s.core s.here).copySeq + 1) % 2 ^ 56 ∧ .copyChunk s.here i ∈ t.agenda ∧
         ∀ u : Copy, u = (t.core s.here).copy i → u.st = .queued ∧ u.seq = (s.core s.here).copySeq ∧ u.thread = s.cur ∧
           u.who = s.me.agent ∧ u.block = s.rd p 128 ∧ u.done = 0) ∧
     ∀ (i : Nat) (u : Copy), i < 16 → u = (s.core s.here).copy i → u.done < 2 ^ 44 → u.seq < 2 ^ 56 →
       (s.gn a = u.seq * 256 + i → u.st ≠ .free →
         ∃ v : Word, exec (.copyst a d) s = .next (s.after (s.setG d v)) ∧ (v.extractLsb' 0 44).toNat = u.done ∧
           (v.extractLsb' 60 4).toNat = u.st.code ∧
           (u.st = .ended → (v.extractLsb' 56 4).toNat = u.code % 16 ∧ (v.extractLsb' 48 8).toNat = u.detail % 256)) ∧
       (s.gn a % 256 = i → (u.st = .free ∨ u.seq ≠ s.gn a / 256) →
         exec (.copyst a d) s = .next (s.after (s.setG d 0)))) ∧
  (∀ (s : State) (a b q : BitVec 5) (da : Word) (x w : Nat), s.Plain → da.toNat % 8 = 0 → w = s.rd64 x →
     (∀ sc, s.checkScope s.cur (s.g q) = .ok sc → s.OwnTcm (s.g a) da x 8 1 →
       (w / 2 ^ 48 + 65536 - s.gn b % 65536) % 65536 < 32768 →
       ∃ t, exec (.waitgen a b q) s = .next t ∧ t.mem = s.mem ∧ (t.thr s.cur).g = s.me.g ∧
         (t.thr s.cur).pc = s.me.pc + 4) ∧
     (∀ (i : Instr) (n m v : Nat), (i = .armgen a b ∧ m = s.gn b ∧ n = 0 ∨
         i = .addgen a b q ∧ m = field w 45 23 ∧ n = s.gn b ∧ ∃ sc, s.checkScope s.cur (s.g q) = .ok sc) →
       s.released s.cur = true → s.gn b < 2 ^ 23 → s.OwnTcm (s.g a) da x 8 3 → m ≠ 0 → v = field w 22 0 + n →
       ∃ t, exec i s = .next t ∧ (t.thr s.cur).g = s.me.g ∧ (t.thr s.cur).pc = s.me.pc + 4 ∧
         (∀ y, y < x ∨ x + 8 ≤ y → memGet t.mem y = memGet s.mem y) ∧ field (t.rd64 x) 22 0 = v % m ∧
         field (t.rd64 x) 45 23 = m ∧ field (t.rd64 x) 63 48 = (w / 2 ^ 48 + v / m) % 65536 ∧
         (1 < v / m → bitAt (t.rd64 x) 47 = true) ∧ (v / m ≤ 1 → bitAt (t.rd64 x) 47 = bitAt w 47)))

/-- R293, R295, R316. SENDI to a core of the panel takes a journal entry for an inbox message of 16 bytes or a spawn
message of 64, with the payload in it, and answers its sequence number and index; SEND takes the payload from memory
at gb. The thread goes on at the next word; memory is unchanged until the entry performs. Completion is concluded for:
send, sendi. -/
def Obligations.MessagesSent : Prop :=
  ∀ (s : State) (a b d : BitVec 5) (i : Instr) (dst ch k len p : Nat) (da : Word) (bs : List Byte), s.Plain →
    (s.core s.here).journal = [] → s.gn a = dst + 16777216 * ch + 4294967296 * k → dst < 65536 → validCore dst = true →
    k ≤ 1 → ch < (if k = 0 then 256 else 64) → len = (if k = 0 then 16 else 64) →
    (i = .sendi a b d 0 ∧ bs = toBytes len (s.gn b) ∨
      i = .send a b d 0 ∧ (s.g b).toNat % 8 = 0 ∧ s.OwnTcm (s.g b) da p len 1 ∧ bs = s.rd p len) →
    ∃ t e, exec i s = .next t ∧ t.mem = s.mem ∧ (t.core s.here).journal = [(0, e)] ∧ e.addr = dst ∧
      e.kind = (if k = 0 then .inbox ch false else .spawn ch false) ∧ e.bytes.map (·.2) = bs ∧ e.thread = s.cur ∧
      e.seq = s.me.nseq.toNat ∧ e.performed = false ∧ (t.thr s.cur).nseq = s.me.nseq + 1 ∧
      (t.thr s.cur).pc = s.me.pc + 4 ∧
      ∀ r, (t.thr s.cur).reg r = if r = d.toNat ∧ r ≠ 0 then BitVec.ofNat 64 (s.me.nseq.toNat * 256) else s.me.reg r

/-- R300, R301, R317 to R321. RECV and RECVT take the oldest inbox entry: its payload to gd and the register after it,
its header with V to gh; without an entry RECV parks with reason RECV, and RECVT with a count of 0 answers 0. PEEK
tells the count; JWAIT with no entry waiting the number of refusal records; JREAD a record, or 0; FWDQ the place of a
core. Completion is concluded for: recv, recvt, peek, jwait, jread, fwdq. -/
def Obligations.MessagesReceived : Prop :=
  ∀ (s : State) (a h d : BitVec 5) (c : Core), s.Plain → c = s.core s.here →
    (∀ (e : InboxEntry) (es : List InboxEntry) (i : Instr), (i = .recv h d ∨ i = .recvt a h d) → c.inbox = e :: es →
      e.bound = none → d ≠ 0 → h ≠ 0 → d.toNat < 31 → h ≠ d → h.toNat ≠ d.toNat + 1 →
      ∃ t, exec i s = .next t ∧ t.mem = s.mem ∧ (t.core s.here).inbox = es ∧ (t.thr s.cur).pc = s.me.pc + 4 ∧
        ∀ r, r < 32 → (t.thr s.cur).reg r =
          if r = d.toNat then BitVec.ofNat 64 (ofBytes (e.payload.take 8))
          else if r = d.toNat + 1 then BitVec.ofNat 64 (ofBytes (e.payload.drop 8))
          else if r = h.toNat then e.header ||| 0x8000000000000000#64 else s.me.reg r) ∧
    (c.inbox = [] →
      (∃ t, exec (.recv h d) s = .next t ∧ t.mem = s.mem ∧ (t.thr s.cur).st = .parked .recv ∧
        (t.thr s.cur).pc = s.me.pc ∧ (t.thr s.cur).g = s.me.g) ∧
      (s.g a = 0 → ∃ t, exec (.recvt a h d) s = .next t ∧ t.mem = s.mem ∧ (t.thr s.cur).pc = s.me.pc + 4 ∧
        ∀ r, (t.thr s.cur).reg r = if r = h.toNat ∧ r ≠ 0 then 0 else s.me.reg r) ∧
      exec (.peek d) s = .next (s.after (s.setG d 0))) ∧
    (∀ (e : InboxEntry) (es : List InboxEntry), c.inbox = e :: es → e.bound = none →
      exec (.peek d) s = .next (s.after (s.setG d
        (e.header ||| 0x8000000000000000#64 ||| BitVec.ofNat 64 (c.inbox.length * 2 ^ 48))))) ∧
    (s.gn a < 2 ^ 24 ∨ 2 ^ 63 ≤ s.gn a ∧ s.gn a < 2 ^ 63 + 2 ^ 24 → s.entriesOf s.cur = [] →
      exec (.jwait a d) s = .next (s.after (s.setGn d s.me.refusals.length))) ∧
    (∀ (r : RefRec) (rs : List RefRec), s.me.refusals = r :: rs → r.index < 64 →
      (s.gn a = r.index → exec (.jread a d) s = .next (s.after (s.setGn d r.word))) ∧
      (s.gn a = r.index + 256 → exec (.jread a d) s = .next (s.after (s.setG d r.addr)))) ∧
    (s.me.refusals = [] → s.gn a < 64 → exec (.jread a d) s = .next (s.after (s.setG d 0))) ∧
    (validCore (s.gn a) = true → ∃ v : Word, exec (.fwdq a d) s = .next (s.after (s.setG d v)) ∧ v.getLsbD 63 = true ∧
      v.getLsbD 21 = ((s.core (s.gn a)).place.service == .absent) ∧ v.getLsbD 20 = s.holds s.me.fn (s.gn a)) ∧
    (validCore (s.gn a) = false → exec (.fwdq a d) s = .next (s.after (s.setG d 0)))

/-! ## Collectives, barriers, containment, audit -/

/-- R363. CDEF parks with reason ENGINE while its descriptor and its member list are read; with both read, and passing
every check, it defines the context of the core's die: owner, buffer, length, members, identifier, kind, operation, type,
and the rank of the executing die. R353, R356, R359, R360, R364, R365. On a context of the core's die that is the
function's, CWATCH parks with reason REMOTE, and CWATCH_OFF, CSTART, CBW and CABORT with reason ENGINE, until they have
been taken; then CWATCH has armed the context on a word of the core's own TCM, CWATCH_OFF has disarmed it, CSTART has
started a run, CBW has set its share, CABORT has ended an active run with code 2 and answers the status word as it was;
CSTAT reads that word. Completion is concluded for: cdef (with its operands read), cwatch, cwatchOff, cstart, cbw, cabort
(taken), cstat. -/
def Obligations.Collectives : Prop :=
  (∀ (s : State) (a c : BitVec 5) (d x n : Nat) (k : Coll), d = dieOf s.here → x = c.toNat → x < 16 → k = s.coll d x →
     (k.st = .free ∨ (k.st = .defined ∨ k.st = .ended) ∧ k.owner = s.me.fn) →
     (∀ (da : Word) (p : Nat), s.Plain → s.OwnTcm (s.g a) da p 128 1 → da.toNat % 64 = 0 →
       ∃ t, exec (.cdef a c) s = .next t ∧ t.mem = s.mem ∧ (t.thr s.cur).st = .parked .engine ∧
         (t.thr s.cur).pc = s.me.pc ∧ (t.thr s.cur).g = s.me.g ∧ .accessReply s.cur ∈ t.agenda ∧ t.coll d x = k) ∧
     ∀ (bs ml : List Byte) (ms : List Nat) (buf : Word) (r : Word × Dest × Nat), s.Fetched (bs ++ ml) →
       bs.length = 128 → ml.length = 4 * n → n = natAt bs 20 2 → ms = (listEntries ml n).map (memberOf s.panelNo) →
       badColl bs = false → badMembers s.panelNo d (listEntries ml n) = false → (∀ m ∈ ms, m / 1024 < s.sysPanels) →
       buf = BitVec.ofNat 64 (natAt bs 0 8) → buf.toNat % 64 = 0 →
       s.segCheck s.me (quadOf s.here) buf (natAt bs 16 4)
         (bufNeed (natAt bs 24 1) (ms.idxOf (s.panelNo * 1024 + d))) = .ok r → (∀ q, r.2.1 ≠ .panel q) →
       natAt bs 28 2 = 0xFFFF → s.holds s.me.fn s.here = true → validCore s.here = true →
       ∃ t, exec (.cdef a c) s = .next t ∧ t.mem = s.mem ∧ (t.thr s.cur).g = s.me.g ∧ (t.thr s.cur).pc = s.me.pc + 4 ∧
         (t.thr s.cur).st = .run ∧ ∀ v : Coll, v = t.coll d x → v.st = .defined ∧ v.owner = s.me.fn ∧ v.buf = buf ∧
           v.len = natAt bs 16 4 ∧ v.members = ms ∧ v.cid = natAt bs 22 2 ∧ v.kind = natAt bs 24 1 ∧
           v.op = natAt bs 25 1 ∧ v.type = natAt bs 26 1 % 16 ∧ v.core = s.here ∧ v.ncore = s.here ∧
           v.rank = ms.idxOf (s.panelNo * 1024 + d)) ∧
  (∀ (s : State) (a b c e : BitVec 5) (d x : Nat) (k : Coll), d = dieOf s.here → x = c.toNat → x < 16 →
     k = s.coll d x → k.st ≠ .free → k.owner = s.me.fn →
     (∀ (da : Word) (p : Nat), s.segCheck s.me (quadOf s.here) (s.g a) 8 1 = .ok (da, .tcm s.here, p) → s.ownsTcm →
       da.toNat % 8 = 0 → k.st = .defined ∨ k.st = .ended →
       (s.Plain → ∃ t, exec (.cwatch a b c) s = .next t ∧ s.Waits t .remote) ∧
       (s.Taken → ∃ t, exec (.cwatch a b c) s = .next t ∧ t.mem = s.mem ∧ (t.thr s.cur).pc = s.me.pc + 4 ∧
         (t.thr s.cur).g = s.me.g ∧ (t.coll d x).st = .armed ∧ (t.coll d x).back = k.st ∧
         (if (BitVec.ofNat 64 (s.rd64 p) - s.g b).toNat < 2 ^ 63 then .watchReached d x ∈ t.agenda
          else (p, s.g b, d, x) ∈ t.watches))) ∧
     (k.st = .armed →
       (s.Plain → ∃ t, exec (.cwatchOff c) s = .next t ∧ s.Waits t .engine) ∧
       (s.Taken → s.watches.any (fun w => w.2.2.1 == d && w.2.2.2 == x) = true →
         ∃ t, exec (.cwatchOff c) s = .next t ∧ t.mem = s.mem ∧ (t.thr s.cur).pc = s.me.pc + 4 ∧
           (t.thr s.cur).g = s.me.g ∧ (t.coll d x).st = k.back ∧ ∀ w ∈ t.watches, (w.2.2.1, w.2.2.2) ≠ (d, x)) ∧
       (s.Taken → s.watches.any (fun w => w.2.2.1 == d && w.2.2.2 == x) = false →
         exec (.cwatchOff c) s = .next (s.after s))) ∧
     (k.st = .defined ∨ k.st = .armed ∨ k.st = .ended → s.released s.cur = true →
       (s.Plain → ∃ t, exec (.cstart c) s = .next t ∧ s.Waits t .engine) ∧
       (s.Taken → ∃ t, exec (.cstart c) s = .next t ∧ t.mem = s.mem ∧ (t.thr s.cur).pc = s.me.pc + 4 ∧
         (t.thr s.cur).g = s.me.g ∧ .collectiveChunkStep d x ∈ t.agenda ∧ ∀ v : Coll, v = t.coll d x → v.st = .running ∧
           v.run = (k.run + 1) % 65536 ∧ v.stage = 0 ∧ v.chunk = 0 ∧ v.flags = 0 ∧ v.pcnt = 0 ∧ v.members = k.members)) ∧
     (1 ≤ s.gn a → s.gn a ≤ 16 →
       (s.Plain → ∃ t, exec (.cbw a c) s = .next t ∧ s.Waits t .engine) ∧
       (s.Taken → ∃ t, exec (.cbw a c) s = .next t ∧ t.mem = s.mem ∧ (t.thr s.cur).pc = s.me.pc + 4 ∧
         (t.thr s.cur).g = s.me.g ∧ t.coll d x = { k with share := s.gn a })) ∧
     (s.Plain → k.code < 16 → ∃ v : Word, exec (.cstat c e) s = .next (s.after (s.setG e v)) ∧
       (v.extractLsb' 60 4).toNat = k.st.code ∧
       v.getLsbD 55 = true ∧ (v.extractLsb' 50 5) = k.flags ∧ (v.extractLsb' 48 2).toNat = k.kind % 4 ∧
       (v.extractLsb' 32 16).toNat = k.run % 65536 ∧ (v.extractLsb' 20 12).toNat = k.rank % 4096 ∧
       (v.extractLsb' 8 12).toNat = k.prank % 4096 ∧ (v.extractLsb' 0 8).toNat = k.pcnt % 256) ∧
     (s.Plain → ∃ t, exec (.cabort c e) s = .next t ∧ s.Waits t .engine) ∧
     (s.Taken → (k.st = .ended → exec (.cabort c e) s = .next (s.after (s.setGn e k.word))) ∧
       (k.st ≠ .ended → ∃ t, exec (.cabort c e) s = .next t ∧ t.mem = s.mem ∧
         (t.thr s.cur).pc = s.me.pc + 4 ∧
         (∀ r, (t.thr s.cur).reg r = if r = e.toNat ∧ r ≠ 0 then BitVec.ofNat 64 k.word else s.me.reg r) ∧
         (t.coll d x).st = .ended ∧ (t.coll d x).code = 2 ∧
         (t.coll d x).run = if k.active then k.run else (k.run + 1) % 65536)))

/-- R379 to R385. BARM frees a context for 0; otherwise it parks with reason ENGINE, and when the engine has taken it the
context is open with the cores of a grid as participants. BARW of a past generation completes with REL set, and of another
parks with reason BARRIER until a release (REL = 1) or an end without one (REL = 0) reaches it; BART parks with reason
REMOTE and then reads a die's participants, its missing ones or the status; BMASK adds and removes participants and parks
until the root has tested the generation; BTIME sets the timeout; BARA parks with reason ENGINE until its arrival has been
counted, and then answers. R370, R371, R381. An arrival at a barrier, as its event, with no excusal due: a participant's
first arrival for the current or the next generation is counted with RES 0, a second has RES 1, a past generation RES 2, a
core that takes no part RES 3; the answer wakes the thread. R372, R373. At the end of the cycle a generation that is
complete is released: the next one begins, and the release is on its way to every waiter. Completion is concluded for:
barm (at once, or taken), barw (at once, released, ended without a release), bara (answered), bart and bmask (taken), barrierArrival,
btime. -/
def Obligations.Barriers : Prop :=
  (∀ (s : State) (a b q d : BitVec 5) (x : Nat) (k : Barrier), x < 64 → k = s.bar x →
     (s.Plain → s.g a = 0 → s.gn b = x → k.st ≠ .free → k.owner = s.me.fn → k.waiters = [] →
       ∃ t, exec (.barm a b) s = .next t ∧ t.mem = s.mem ∧ (t.thr s.cur).pc = s.me.pc + 4 ∧
         (t.thr s.cur).g = s.me.g ∧ t.bar x = {}) ∧
     (∀ x0 y0 x1 y1 sx sy ae : Nat, s.g a ≠ 0 → s.gn a = x0 + 256 * y0 + 65536 * x1 + 16777216 * y1 →
       x0 ≤ x1 → x1 ≤ 239 → y0 ≤ y1 → y1 ≤ 239 → ae ≤ 1 → 1 ≤ sx → sx ≤ 240 → 1 ≤ sy → sy ≤ 240 →
       s.gn b = x + 64 * ae + 256 * sx + 65536 * sy →
       k.st = .free ∨ k.owner = s.me.fn ∧ k.acount = 0 ∧ k.early = [] ∧ k.waiters = [] →
       (∀ c, x0 ≤ xOf c → xOf c ≤ x1 → y0 ≤ yOf c → yOf c ≤ y1 → s.notPart s.me.fn c = false) →
       (s.Plain → ∃ t, exec (.barm a b) s = .next t ∧ s.Waits t .engine) ∧
       (s.Taken → ∃ t, exec (.barm a b) s = .next t ∧ t.mem = s.mem ∧ (t.thr s.cur).pc = s.me.pc + 4 ∧
         (t.thr s.cur).g = s.me.g ∧ ∀ v : Barrier, v = t.bar x → v.st = .opened ∧ v.owner = s.me.fn ∧
           (v.ae = true ↔ ae = 1) ∧ v.arr = [] ∧ v.early = [] ∧ v.gen = k.gen ∧
           ∀ c, validCore c = true → (hasCore v.part c = true ↔
             x0 ≤ xOf c ∧ xOf c ≤ x1 ∧ y0 ≤ yOf c ∧ yOf c ≤ y1 ∧ (xOf c - x0) % sx = 0 ∧ (yOf c - y0) % sy = 0))) ∧
     (∀ (g : Nat) (sc : Scope), g < 65536 → s.gn a = x + 65536 * g → s.checkScope s.cur (s.g q) = .ok sc → k.st ≠ .free →
       k.owner = s.me.fn →
       ((s.Plain ∧ k.past g = true ∨ s.Fetched s.me.op.got) → ∃ t, exec (.barw a q d) s = .next t ∧ t.mem = s.mem ∧
         (t.thr s.cur).pc = s.me.pc + 4 ∧ ∀ r, (t.thr s.cur).reg r =
           if r = d.toNat ∧ r ≠ 0 then k.result g true false else s.me.reg r) ∧
       (∀ bs, s.Answered bs → exec (.barw a q d) s = .next (s.after (s.setG d (k.result g false (bs == [1#8]))))) ∧
       (∀ rel late : Bool, (k.result g rel late).getLsbD 63 = rel ∧ (k.result g rel late).getLsbD 61 = late ∧
         ((k.result g rel late).extractLsb' 16 16).toNat = g ∧
         ((k.result g rel late).extractLsb' 32 16).toNat = k.gen % 65536) ∧
       (s.Plain → k.past g = false → ∃ t, exec (.barw a q d) s = .next t ∧ t.mem = s.mem ∧
         (t.thr s.cur).st = .parked .barrier ∧ (t.thr s.cur).pc = s.me.pc ∧ (s.cur, g) ∈ (t.bar x).waiters) ∧
       (s.Plain → k.unclassed g = false → s.released s.cur = true →
         ∃ t w, exec (.bara a q d) s = .next t ∧ t.mem = s.mem ∧ (t.thr s.cur).st = .parked .engine ∧
           (t.thr s.cur).pc = s.me.pc ∧ (t.thr s.cur).op.aux = arrivalMark (w.extractLsb' 32 32).toNat ∧
           w.extractLsb' 0 32 = (s.g a).extractLsb' 0 32 ∧ .barrierArrival x s.cur w ∈ t.agenda)) ∧
     (∀ bs, s.Answered bs → exec (.bara a q d) s = .next (s.after (s.setGn d (ofBytes bs)))) ∧
     (∀ e : Nat, e < 900 → s.gn a = x + 256 + 65536 * e ∨ s.gn a = x + 65536 * e ∨ s.gn a = x + 192 →
       (s.Plain → ∃ t, exec (.bart a d) s = .next t ∧ s.Waits t .remote) ∧
       (s.Taken → (k.st = .free ∨ k.owner ≠ s.me.fn → exec (.bart a d) s = .next (s.after (s.setG d 0))) ∧
         (k.st ≠ .free → k.owner = s.me.fn →
           (s.gn a = x + 256 + 65536 * e → exec (.bart a d) s = .next (s.after (s.setG d (smGet 0 k.part e)))) ∧
           (s.gn a = x + 65536 * e →
             exec (.bart a d) s = .next (s.after (s.setG d (smGet 0 k.part e &&& ~~~(smGet 0 k.arr e))))) ∧
           (s.gn a = x + 192 → exec (.bart a d) s = .next (s.after (s.setG d k.word)))))) ∧
     (∀ (e op : Nat) (old new : Word), e < 900 → op < 3 → s.gn a = x + 256 * op + 65536 * e → k.st ≠ .free →
       k.owner = s.me.fn → (∀ i, i < 64 → (s.g b).getLsbD i = true → s.notPart s.me.fn (coreOfDie e i) = false) →
       old = smGet 0 k.part e →
       new = (if op = 0 then old ||| s.g b else if op = 1 then old &&& ~~~(s.g b) else s.g b) →
       (s.Plain → ∃ t, exec (.bmask a b) s = .next t ∧ t.mem = s.mem ∧ (t.thr s.cur).st = .parked .engine ∧
         (t.thr s.cur).op.aux = takenMark ∧ (t.thr s.cur).pc = s.me.pc ∧ (t.thr s.cur).g = s.me.g ∧
         .accessReply s.cur ∈ t.agenda ∧ smGet 0 (t.bar x).part e = new ∧ (t.bar x).test = true ∧
         ∀ f, f ≠ e → smGet 0 (t.bar x).part f = smGet 0 k.part f) ∧
       (s.Taken → exec (.bmask a b) s = .next (s.after s))) ∧
     (s.Plain → s.gn a = x → s.gn b < 2 ^ 32 → k.st ≠ .free → k.owner = s.me.fn →
       ∃ t, exec (.btime a b) s = .next t ∧ t.mem = s.mem ∧ (t.thr s.cur).pc = s.me.pc + 4 ∧
         (t.thr s.cur).g = s.me.g ∧ (t.bar x).btime = s.gn b ∧ (t.bar x).part = k.part)) ∧
  (∀ (s : State) (x t g : Nat) (w : Word) (k : Barrier), validThread t = true → x < 64 → k = s.bar x → k.st ≠ .free →
     s.excusalDue x = false → s.holds k.owner (coreOf t) = true → g = (w.extractLsb' 16 16).toNat → k.unclassed g = false →
     (s.thr t).st = .parked .engine → (s.thr t).op.aux = arrivalMark (w.extractLsb' 32 32).toNat →
     (s.thr t).op.fetch = false →
     ∃ u bs, exec (.barrierArrival x t w) s = .next u ∧ u.mem = s.mem ∧ (u.thr t).st = .run ∧ (u.thr t).op.again = true ∧
       (u.thr t).op.reply = .data bs ∧ bs.length = 8 ∧ (u.thr t).g = (s.thr t).g ∧ (u.bar x).gen = k.gen ∧
       (hasCore k.part (coreOf t) = false → ofBytes bs / 2 ^ 62 = 3 ∧ (u.bar x).arr = k.arr ∧ (u.bar x).early = k.early) ∧
       (hasCore k.part (coreOf t) = true →
         (k.age g = 0 → ofBytes bs / 2 ^ 62 = (if hasCore k.arr (coreOf t) then 1 else 0) ∧
           hasCore (u.bar x).arr (coreOf t) = true ∧ (hasCore k.arr (coreOf t) = false → (u.bar x).test = true)) ∧
         (k.age g = 65535 → ofBytes bs / 2 ^ 62 = (if hasCore k.early (coreOf t) then 1 else 0) ∧
           hasCore (u.bar x).early (coreOf t) = true) ∧
         (k.past g = true → ofBytes bs / 2 ^ 62 = 2 ∧ (u.bar x).arr = k.arr ∧ (u.bar x).early = k.early))) ∧
  ∀ (s u : State) (x d : Nat) (k : Barrier), x < 64 → k = s.bar x → k.st = .opened → k.test = true → k.complete = true →
    smGet 0 k.part d ≠ 0 → k.early = [] → u = s.barSettle x →
    (u.bar x).st = .opened ∧ (u.bar x).gen = (k.gen + 1) % 65536 ∧ (u.bar x).arr = [] ∧ (u.bar x).part = k.part ∧
      u.mem = s.mem ∧ ∀ t, (t, k.gen) ∈ k.waiters → .barrierReleaseDelivery x k.gen t ∈ u.agenda

/-- R331, R343 to R346. CKREG writes a checkpoint region, its base also where the length is 0; EBRD reads a word of the
quad's error bank, and EBCLR clears it when its record is the one that was read; KILLT kills another thread of the core
with code 0x22 and answers 1, or 0 for a free or killed slot; for another unit's bank and a thread of another core they
first park with reason REMOTE. CHKPT answers 0 on a core that is not enrolled; otherwise it starts a capture and parks with
reason MIGRATE, or with reason ENGINE for a capture in progress, and completes with the capture's number. Completion is
concluded for: ckreg, ebrd, ebclr, killt, chkpt. -/
def Obligations.Containment : Prop :=
  ∀ (s : State) (a b d : BitVec 5),
    (∀ n : BitVec 3, s.Plain → 1 ≤ s.level → regionsOk (s.core s.here).ckrg.toList n.toNat (s.gn a) (s.gn b) = true →
      ∃ t, exec (.ckreg a b n) s = .next t ∧ t.mem = s.mem ∧ (t.thr s.cur).pc = s.me.pc + 4 ∧ (t.thr s.cur).g = s.me.g ∧
        ∀ i, i < 8 → vget (0, 0) (t.core s.here).ckrg i =
          if i = n.toNat then (s.gn a, s.gn b) else vget (0, 0) (s.core s.here).ckrg i) ∧
    (∀ (e : Bank) (w : BitVec 2), s.Plain → 1 ≤ s.level → s.gn a = quadOf s.here → quadOf s.here < 14400 →
      2 ≤ s.level ∨ s.holder (quadOf s.here) = some s.me.fn → e = (s.quad (quadOf s.here)).bank →
      exec (.ebrd a d w) s = .next (s.after (s.setG d (e.word w.toNat))) ∧
      (e.word 0 ≠ s.g b → exec (.ebclr a b d) s = .next (s.after (s.setG d 0))) ∧
      (e.word 0 = s.g b → ∃ t, exec (.ebclr a b d) s = .next t ∧ t.mem = s.mem ∧ (t.thr s.cur).pc = s.me.pc + 4 ∧
        (t.quad (quadOf s.here)).bank = { seq := (e.seq + 1) % 256 } ∧
        ∀ r, (t.thr s.cur).reg r = if r = d.toNat ∧ r ≠ 0 then 1 else s.me.reg r)) ∧
    (∀ (k n : Nat) (w : BitVec 2) (i : Instr), s.Plain → k < 4 → n < 16384 → s.gn a = n + 65536 * k →
      s.bankExists k n = true → 2 ≤ s.level ∨ s.level = 1 ∧ k = 0 ∧ s.holder n = some s.me.fn →
      ¬(k = 0 ∧ n = quadOf s.here) → i = .ebrd a d w ∨ i = .ebclr a b d →
      ∃ t, exec i s = .next t ∧ t.mem = s.mem ∧ (t.thr s.cur).st = .parked .remote ∧ (t.thr s.cur).pc = s.me.pc ∧
        (t.thr s.cur).g = s.me.g ∧ .accessReply s.cur ∈ t.agenda) ∧
    (∀ (u : Nat) (th : Thread), s.Plain → 1 ≤ s.level → u = s.gn a → validThread u = true → u ≠ s.cur →
      s.holds s.me.fn (coreOf u) = true → th = s.thr u → th.tsr.pair = false →
      (coreOf u ≠ s.here → ∃ t, exec (.killt a d) s = .next t ∧ t.mem = s.mem ∧ (t.thr s.cur).st = .parked .remote ∧
        (t.thr s.cur).pc = s.me.pc ∧ (t.thr s.cur).g = s.me.g ∧ .accessReply s.cur ∈ t.agenda) ∧
      (coreOf u = s.here → (s.core s.here).away = false →
        (th.st = .free ∨ th.st = .killed → exec (.killt a d) s = .next (s.after (s.setG d 0))) ∧
        (th.st ≠ .free → th.st ≠ .killed → ∃ t, exec (.killt a d) s = .next t ∧ t.mem = s.mem ∧
          (t.thr u).st = .killed ∧ (t.thr u).gen = th.gen + 1 ∧ (t.thr u).op.aux = 0x22 ∧ .killScrubEnd u ∈ t.agenda ∧
          (t.thr s.cur).pc = s.me.pc + 4 ∧
          ∀ r, (t.thr s.cur).reg r = if r = d.toNat ∧ r ≠ 0 then 1 else s.me.reg r))) ∧
    (s.Plain → (s.core s.here).ckEn = false → exec (.chkpt d) s = .next (s.after (s.setG d 0))) ∧
    (∀ cp : Bool, s.Plain → (s.core s.here).ckEn = true → cp = (s.core s.here).capturing →
      ∃ t, exec (.chkpt d) s = .next t ∧ t.mem = s.mem ∧
        (t.thr s.cur).st = .parked (if cp then .engine else .migrate) ∧
        (t.thr s.cur).pc = s.me.pc ∧ (t.core s.here).capturing = true ∧ s.cur ∈ (t.core s.here).ckFor ∧
        (cp = false → .chkptCaptureDone s.here ∈ t.agenda)) ∧
    ∀ cs : List Byte, s.Answered cs → exec (.chkpt d) s = .next (s.after (s.setGn d (ofBytes cs)))

/-- R398, R400 to R406. The audit instructions park with reason ENGINE and act at the quad's trier in their order, after
what they wait for: ASAMP enables an entry under a tag, a period and a seed, ATHR sets its threshold, AHIST reads its
counters, ACLR clears them or the whole entry, ASTAT reads its state. R411, R413, R420 to R425. The instructions of the
metering engine, on the thread's own function or, from level L with the rights, on another that it may select: MBAL with
WHAT 2 and MUSE of the quad's own charges complete at once; the other forms park with reason ENGINE for the service die
and then MBAL and MUSE have read the balance, the state and the charges, the six forms of MQSET have written a quantity
and answer the old one, MSPLIT and MFLOOR have read the share and the floor, and with SET written the lease's mode and the
floor. Completion is concluded for: asamp, athr, ahist, aclr, astat (at the trier), mbal, muse (at once or answered),
mqsetRate, mqsetCap, mqsetDeposit, mqsetLimrate, mqsetLimcap, mqsetUnl, msplit, msplitSet, mfloor, mfloorSet
(answered). -/
def Obligations.AuditAndMetering : Prop :=
  (∀ (s : State) (a b d : BitVec 5) (i : Nat) (e : AuditEntry), i < 16 → e = s.entry i →
     (∀ tag p kinds : Nat, s.gn a = i + 16 * tag + 65536 * kinds + 16777216 * p → 1 ≤ tag → tag < 4096 → 1 ≤ kinds →
       kinds < 4 → p < 256 → s.gn b < 2 ^ 32 →
       (s.Plain → ∃ t, exec (.asamp a b) s = .next t ∧ s.Waits t .engine) ∧
       (s.AtTrier (.asamp a b) → (∀ j, j < 16 → j ≠ i → (s.entry j).en = true → (s.entry j).tag ≠ tag) →
         ∃ t, exec (.asamp a b) s = .next t ∧ t.mem = s.mem ∧ (t.thr s.cur).pc = s.me.pc + 4 ∧ (t.thr s.cur).g = s.me.g ∧
           (∀ j, j < 16 → j ≠ i → t.entry j = s.entry j) ∧
           ∀ f : AuditEntry, f = t.entry i → f.en = true ∧ f.tag = tag ∧ f.period = p + 1 ∧ f.n = 0 ∧
             (f.a = true ↔ kinds % 2 = 1) ∧ (f.q = true ↔ 2 ≤ kinds) ∧
             f.lfsr = (if s.gn b = 0 then 1 else (s.g b).extractLsb' 0 32))) ∧
     (∀ tb ds w tc : Nat, s.gn a = i + 256 * tb + 4096 * ds → tb < 16 → ds ≤ 1 → s.gn b = w + 4096 * tc → w < 4096 →
       tc < 2 ^ 20 → (tc = 0 → tb = 0) →
       (s.Plain → ∃ t, exec (.athr a b) s = .next t ∧ s.Waits t .engine) ∧
       (s.AtTrier (.athr a b) → e.en = true →
         ∃ t, exec (.athr a b) s = .next t ∧ t.mem = s.mem ∧ (t.thr s.cur).pc = s.me.pc + 4 ∧ (t.thr s.cur).g = s.me.g ∧
           t.entry i = { e with tbin := tb, dest := ds == 1, win := w, tcount := tc, trip := false, wcnt := 0, wsamp := 0 })) ∧
     (∀ n : Nat, s.gn a = i + 256 * n → n < 19 →
       (s.Plain → ∃ t, exec (.ahist a d) s = .next t ∧ s.Waits t .engine) ∧
       (s.AtTrier (.ahist a d) → exec (.ahist a d) s = .next (s.after (s.setGn d
         (if e.en then if n < 16 then e.bins.getD n 0 else if n = 16 then e.samp else if n = 17 then e.nanc else e.lostc
          else 0))))) ∧
     (s.gn a = i ∨ s.gn a = i + 16 →
       (s.Plain → (∃ t, exec (.aclr a) s = .next t ∧ s.Waits t .engine) ∧
         ∃ t, exec (.astat a d) s = .next t ∧ s.Waits t .engine) ∧
       (s.AtTrier (.aclr a) → (e.en = false → exec (.aclr a) s = .next (s.after s)) ∧
         (e.en = true → ∃ t, exec (.aclr a) s = .next t ∧ t.mem = s.mem ∧ (t.thr s.cur).pc = s.me.pc + 4 ∧
           (t.thr s.cur).g = s.me.g ∧ (t.entry i).bins = List.replicate 16 0 ∧ (t.entry i).samp = 0 ∧
           (t.entry i).nanc = 0 ∧ (t.entry i).lostc = 0 ∧ (t.entry i).trip = false ∧
           (s.gn a = i → (t.entry i).en = true ∧ (t.entry i).tag = e.tag) ∧ (s.gn a = i + 16 → t.entry i = {}))) ∧
       (s.AtTrier (.astat a d) → (e.en = false → exec (.astat a d) s = .next (s.after (s.setG d 0))) ∧
         (e.en = true → ∃ v : Word, exec (.astat a d) s = .next (s.after (s.setG d v)) ∧ v.getLsbD 63 = true ∧
           v.getLsbD 62 = e.trip ∧ v.getLsbD 61 = e.a ∧ v.getLsbD 60 = e.q ∧ v.getLsbD 59 = e.lost ∧
           (v.extractLsb' 47 12).toNat = e.tag % 4096 ∧ (v.extractLsb' 23 20).toNat = e.wcnt % 2 ^ 20 ∧
           (v.extractLsb' 11 12).toNat = e.wsamp % 4096)))) ∧
  (∀ (s : State) (a b d : BitVec 5) (x f : Nat) (k : Func), s.selects x f → k = s.fn f → k.st ≠ .none →
     (s.gn a = x →
       (s.Plain → exec (.mbal a d 2) s = .next (s.after (s.setG d
           (BitVec.ofInt 64 ((s.quad (quadOf s.here)).meter.al f).amount))) ∧
         (∀ i : Instr, i = .mbal a d 0 ∨ i = .mbal a d 1 ∨ i = .mbal a d 3 ∨ i = .mfloor a b d ∨
             s.hasRight 6 = true ∧ i = .msplit a d → ∃ t, exec i s = .next t ∧ s.AwaitsService t)) ∧
       (s.Served → exec (.mbal a d 0) s = .next (s.after (s.setG d (BitVec.ofInt 64 (k.bal / 256)))) ∧
         exec (.mbal a d 3) s = .next (s.after (s.setGn d k.cap)) ∧
         (∃ v : Word, exec (.mbal a d 1) s = .next (s.after (s.setG d v)) ∧ v.getLsbD 63 = k.boundary ∧
           v.getLsbD 62 = k.unl ∧ v.getLsbD 61 = ((s.quad (quadOf s.here)).meter.al f).refused ∧
           (v.extractLsb' 0 32).toNat = k.rate % 2 ^ 32) ∧
         exec (.msplit a d) s = .next (s.after (s.setGn d k.share)) ∧
         exec (.mfloor a b d) s = .next (s.after (s.setGn d k.mfloor)))) ∧
     (∀ c ev tot : Nat, s.gn a = x + 65536 * c + 2097152 * ev + 4194304 * tot → c < 32 → ev ≤ 1 → tot ≤ 1 →
       (ev = 1 → c < 29) → ∀ (u : Nat → Usage) (v : Nat), (∀ j, u j = if tot = 1 then smGet {} k.usage j
         else smGet {} (s.quad (quadOf s.here)).meter.usage (f * 32 + j)) →
       v = (if ev = 1 then (u c).events else if c = 31 then ((List.range 31).map fun j => (u j).energy).sum
         else (u c).energy) →
       (s.Plain → tot = 1 → ∃ t, exec (.muse a d) s = .next t ∧ s.AwaitsService t) ∧
       (s.Plain ∧ tot = 0 ∨ s.Served → exec (.muse a d) s = .next (s.after (s.setGn d v)))) ∧
     (s.gn a = x → 1 ≤ s.level →
       (∀ i : Instr, s.Plain → s.level = 1 → s.hasRight 2 = true →
         (i = .mqsetRate a b d ∧ s.gn b < 2 ^ 32 ∧ s.gn b ≤ k.limrate ∨
           i = .mqsetCap a b d ∧ s.gn b < 2 ^ 62 ∧ s.gn b ≤ k.limcap) → ∃ t, exec i s = .next t ∧ s.AwaitsService t) ∧
       (∀ i : Instr, s.Plain → 2 ≤ s.level →
         (i = .mqsetRate a b d ∧ s.gn b < 2 ^ 32 ∨ i = .mqsetCap a b d ∧ s.gn b < 2 ^ 62 ∨
           i = .mqsetDeposit a b d ∧ -(2 : Int) ^ 63 ≤ k.bal + 256 * (s.g b).toInt ∧
             k.bal + 256 * (s.g b).toInt < (2 : Int) ^ 63 ∨
           i = .mqsetLimrate a b d ∧ s.gn b < 2 ^ 32 ∨ i = .mqsetLimcap a b d ∧ s.gn b < 2 ^ 62 ∨
           i = .mqsetUnl a b d ∧ s.gn b < 2 ∨ i = .mfloorSet a b d ∧ s.hasRight 4 = true ∧ s.gn b ≤ 32000) →
         ∃ t, exec i s = .next t ∧ s.AwaitsService t) ∧
       (s.Served →
         (s.gn b < 2 ^ 32 → (s.level = 1 → s.gn b ≤ k.limrate) → ∃ t, exec (.mqsetRate a b d) s = .next t ∧
           s.Wrote t d (BitVec.ofNat 64 k.rate) ∧ (t.fn f).rate = s.gn b ∧ (t.fn f).bal = k.bal) ∧
         (s.gn b < 2 ^ 62 → (s.level = 1 → s.gn b ≤ k.limcap) → ∃ t, exec (.mqsetCap a b d) s = .next t ∧
           s.Wrote t d (BitVec.ofNat 64 k.cap) ∧ (t.fn f).cap = s.gn b ∧ (t.fn f).bal = k.bal) ∧
         (2 ≤ s.level →
           (∀ n : Int, n = k.bal + 256 * (s.g b).toInt → -(2 : Int) ^ 63 ≤ n → n < (2 : Int) ^ 63 →
             ∃ t, exec (.mqsetDeposit a b d) s = .next t ∧ s.Wrote t d (BitVec.ofInt 64 (k.bal / 256)) ∧ (t.fn f).bal = n) ∧
           (s.gn b < 2 ^ 32 → ∃ t, exec (.mqsetLimrate a b d) s = .next t ∧ s.Wrote t d (BitVec.ofNat 64 k.limrate) ∧
             (t.fn f).limrate = s.gn b) ∧
           (s.gn b < 2 ^ 62 → ∃ t, exec (.mqsetLimcap a b d) s = .next t ∧ s.Wrote t d (BitVec.ofNat 64 k.limcap) ∧
             (t.fn f).limcap = s.gn b) ∧
           (s.gn b < 2 → ∃ t, exec (.mqsetUnl a b d) s = .next t ∧ s.Wrote t d (if k.unl then 1 else 0) ∧
             ((t.fn f).unl = true ↔ s.gn b = 1)) ∧
           (s.gn b ≤ 32000 →
             (s.floors - k.mfloor + s.gn b + 2000 ≤ s.sustained → ∃ t, exec (.mfloorSet a b d) s = .next t ∧
               s.Wrote t d (BitVec.ofNat 64 k.mfloor) ∧ (t.fn f).mfloor = s.gn b) ∧
             (s.sustained < s.floors - k.mfloor + s.gn b + 2000 →
               exec (.mfloorSet a b d) s = .next (s.after (s.setG d (BitVec.allOnes 64)))))))) ∧
     (2 ≤ s.level → s.gn a < 2 →
       (s.Plain → s.hasRight 6 = true → ∃ t, exec (.msplitSet a d) s = .next t ∧ s.AwaitsService t) ∧
       (s.Served → ∃ t, exec (.msplitSet a d) s = .next t ∧
         s.Wrote t d (if (s.lse s.me.lease).mode then 1 else 0) ∧ ((t.lse s.me.lease).mode = true ↔ s.gn a = 1))))

/-! ## Metering, the optical edge, partition -/

/-- R430, R440, R443 to R445. On a panel with optical edge dies: OCAL reads the calendar's state or an entry, ONEXT
the next slot that reaches a panel, OPOL the function's relay policy, OSTAT a port group or the gate word; OPOL with
SET parks with reason ENGINE for the service die, and then writes the policy and answers the old one. Completion is
concluded for: ocal, onext, opol, ostat, opolSet (answered). -/
def Obligations.OpticalInstructions : Prop :=
  ∀ (s : State) (a d : BitVec 5), s.hasOptical = true →
    (s.Plain →
      (s.gn a = 32768 → exec (.ocal a d) s = .next (s.after (s.setGn d
        (s.cal.epoch * 2 ^ 48 + s.cal.s * 2 ^ 40 + s.cal.slot * 2 ^ 32 + s.phase)))) ∧
      (∀ k g : Nat, s.gn a = k + 256 * g → k < 64 → g < 16 → exec (.ocal a d) s = .next (s.after (s.setGn d
        (if s.cal.s ≤ k then 0 else match s.cal.entries.getD (k * 16 + g) none with
          | some p => 2 ^ 63 + p
          | none => 2 ^ 63 + 2 ^ 62)))) ∧
      (∀ p : Nat, s.gn a = p → p < 128 → p < s.sysPanels →
        (p = s.panelNo ∨ s.directWait p 2 = none → exec (.onext a d) s = .next (s.after (s.setG d 0))) ∧
        (∀ w, p ≠ s.panelNo → s.directWait p 2 = some w → w < 2 ^ 16 → s.cal.s ≤ 64 →
          ∃ v : Word, exec (.onext a d) s = .next (s.after (s.setG d v)) ∧ v.getLsbD 63 = true ∧
            (v.extractLsb' 48 6).toNat = (s.cal.slot + w) % s.cal.s ∧ (v.extractLsb' 32 16).toNat = w % s.cal.s ∧
            ∀ g, g < 16 → (v.getLsbD g = true ↔ g ∈ s.groups ((s.cal.slot + w) % s.cal.s) p))) ∧
      exec (.opol a d) s = .next (s.after (s.setG d (s.fn s.me.fn).opol)) ∧
      (s.gn a = 256 → exec (.ostat a d) s = .next (s.after (s.setGn d (s.fn s.me.fn).gateWord))) ∧
      (∀ o : ODie, s.gn a < 16 → o = s.odie (s.gn a) → o.txf < 16 → o.rxf < 16 → o.relayB < 2 ^ 24 →
        ∃ v : Word, exec (.ostat a d) s = .next (s.after (s.setG d v)) ∧ v.getLsbD 63 = o.up ∧
          (v.extractLsb' 56 4).toNat = o.txf ∧ (v.extractLsb' 52 4).toNat = o.rxf ∧
          (v.extractLsb' 24 24).toNat = o.relayB)) ∧
    (1 ≤ s.level → s.gn a < 2 ^ 14 → s.gn a % 256 < 3 →
      (s.Plain → ∃ t, exec (.opolSet a d) s = .next t ∧ s.AwaitsService t) ∧
      (s.Served → ∃ t, exec (.opolSet a d) s = .next t ∧ s.Wrote t d (s.fn s.me.fn).opol ∧
        (t.fn s.me.fn).opol = s.g a))

/-- R454, R462, R463. Every order parks with reason ENGINE until the service die has done it. DLAUNCH has its record read
once its thread's earlier stores have performed; the record enters the function's queue under the next launch number, which
gd receives, or gd receives the code of its refusal. R101, R461, R464. The four orders of MIGR: MOVE takes a spare for a
core of the lease and HOME takes a core back to its nominal place, both once the core's work has drained, EVICT and RESUME
register their order for a function; each answers 1; MOVE and HOME answer 0 while an order on the core is in progress.
R448, R462, R465. VFCTL: READ FIELD answers a field of the function, WRITE FIELD stores one and answers the old value,
CREATE makes a function of the lease with a free ASID, DESTROY ends one that holds nothing, INVAL drops translations, WAKE
and REFUSE let the waiters of a page go on. R449, R466, R467. RIGHTS: READ answers the mask of the function; GRANT and
REVOKE change it at once at the service die and park with reason ENGINE until every quad holds it, then answer the old
mask. Completion is concluded for: dlaunch (with its record read), migrMove, migrHome, migrEvict, migrResume,
vfctlReadField, vfctlWriteField, vfctlCreate, vfctlDestroy, vfctlInval, vfctlWake, vfctlRefuse, rightsRead, rightsGrant,
rightsRevoke (answered). -/
def Obligations.ServiceDieOrders : Prop :=
  (∀ (s : State) (a b d : BitVec 5) (sc : Scope) (f : Nat), 1 ≤ s.level → s.gn b < 384 → f = s.me.fn →
     s.exists? f = true → (s.g a).toNat % 64 = 0 → s.checkScope s.cur (scopeWord 5) = .ok sc →
     (s.Plain → s.hasRight 0 = true → ∃ t, exec (.dlaunch a b d) s = .next t ∧ s.AwaitsService t) ∧
     (∀ (da : Word) (x : Nat), s.Served → s.released s.cur = true → s.OwnTcm (s.g a) da x 64 1 → da.toNat % 64 = 0 →
       ∃ t, exec (.dlaunch a b d) s = .next t ∧ s.AwaitsService t) ∧
     ∀ (bs : List Byte) (p : Nat) (q : List Launch), s.Fetched bs → p = byteAt bs 13 % 4 →
       q = vget [] (s.fn f).queues p →
       (badRecord bs = true → ∃ t, exec (.dlaunch a b d) s = .next t ∧ s.Wrote t d 0x8100000000000000#64) ∧
       (badRecord bs = false → 16 ≤ q.length → ∃ t, exec (.dlaunch a b d) s = .next t ∧
         s.Wrote t d 0x8200000000000000#64) ∧
       (badRecord bs = false → q.length < 16 → launchW bs * launchH bs ≤ (s.fn f).qmax →
         launchW bs * launchH bs ≤ (s.lse (s.fn f).lease).qmax →
         ∃ t l, exec (.dlaunch a b d) s = .next t ∧ s.Wrote t d (BitVec.ofNat 64 (s.nextLaunch % 65536)) ∧
           vget [] (t.fn f).queues p = q ++ [l] ∧ l.number = s.nextLaunch % 65536 ∧ l.bytes = bs ∧ l.fn = f ∧
           t.nextLaunch = (s.nextLaunch % 65536 + 1) % 65536 ∧ .placementPass ∈ t.agenda)) ∧
  (∀ (s : State) (a b d : BitVec 5), 2 ≤ s.level →
     (∀ (i : Instr) (o : Nat), o < 4 → i = (if o = 0 then .migrMove a b d else if o = 1 then .migrHome a b d
         else if o = 2 then .migrEvict a b d else .migrResume a b d) → s.gn a = o → s.Plain → s.hasRight 5 = true →
       ∃ t, exec i s = .next t ∧ s.AwaitsService t) ∧
     (s.Served →
       (∀ (c : Nat) (k : Core), c = s.gn b → k = s.core c → c < 65536 → validCore c = true →
         s.leaseHolds s.me.lease c = true →
         (s.busyOrder true c = true →
           (s.gn a = 0 → exec (.migrMove a b d) s = .next (s.after (s.setG d 0))) ∧
           (s.gn a = 1 → exec (.migrHome a b d) s = .next (s.after (s.setG d 0)))) ∧
         (s.busyOrder true c = false → k.away = false → k.place.service ≠ .absent →
           (∀ x, s.gn a = 0 → s.spareFor c = some x → s.remapsFull c = false →
             ∃ t, exec (.migrMove a b d) s = .next t ∧ (k.mop = none → s.Wrote t d 1) ∧ (t.core c).leaving = true ∧
               .remapExceptionCommit c (x / 64) (x % 64) ∈ t.agenda ∧
               t.orders = s.orders ++ [{ code := 0, arg := c, lease := s.me.lease, stop := 0 }]) ∧
           (s.gn a = 1 → k.place.exception = true → k.place.unsound = false →
             ∃ t, exec (.migrHome a b d) s = .next t ∧ (k.mop = none → s.Wrote t d 1) ∧ (t.core c).leaving = true ∧
               .liveMigrationDone c ∈ t.agenda ∧
               t.orders = s.orders ++ [{ code := 1, arg := c, lease := s.me.lease, stop := 0 }]))) ∧
       (∀ f : Nat, s.gn b < 384 → f = s.me.fn → s.busyOrder false f = false →
         (s.gn a = 2 → s.fnState f = 2 → ∃ t, exec (.migrEvict a b d) s = .next t ∧
           ((∀ c, (s.core c).mop = none) → s.Wrote t d 1) ∧ .migrOrderEnd 2 f ∈ t.agenda ∧
           t.orders = s.orders ++ [{ code := 2, arg := f, lease := s.me.lease }]) ∧
         (s.gn a = 3 → s.fnState f = 3 → ∃ t, exec (.migrResume a b d) s = .next t ∧ s.Wrote t d 1 ∧
           .migrOrderEnd 3 f ∈ t.agenda ∧ (t.fn f).resume = (s.fn f).saved ∧
           t.orders = s.orders ++ [{ code := 3, arg := f, lease := s.me.lease }])))) ∧
  (∀ (s : State) (a b d : BitVec 5),
     (∀ x i : Nat, 1 ≤ s.level → s.gn a = x + 4294967296 * i → x < 384 → i < 12 → s.g b = 0 →
       (s.Plain → ∃ t, exec (.vfctlReadField a b d) s = .next t ∧ s.AwaitsService t) ∧
       (s.Served → exec (.vfctlReadField a b d) s = .next (s.after (s.setGn d (s.fnField s.me.fn i))))) ∧
     (∀ x : Nat, 2 ≤ s.level → s.gn a = x + 16777216 + 4294967296 * 3 → x < 384 → s.exists? s.me.fn = true →
       s.gn b < 32 → 2 ≤ s.gn b % 8 →
       (s.Plain → ∃ t, exec (.vfctlWriteField a b d) s = .next t ∧ s.AwaitsService t) ∧
       (s.Served → ∃ t, exec (.vfctlWriteField a b d) s = .next t ∧
         s.Wrote t d (BitVec.ofNat 64 (s.fn s.me.fn).scopemax) ∧
         t.fn s.me.fn = { s.fn s.me.fn with scopemax := s.gn b })) ∧
     (∀ f n : Nat, ∀ rest : List Nat, s.level = 2 → f < 384 → s.g b = 0 →
       (s.gn a = f + 32768 + 33554432 → s.exists? f = false →
         (s.Plain → s.hasRight 1 = true → ∃ t, exec (.vfctlCreate a b d) s = .next t ∧ s.AwaitsService t) ∧
         (s.Served → s.freeAsids = n :: rest → (s.lse s.me.lease).live = true →
           ∃ t, exec (.vfctlCreate a b d) s = .next t ∧ s.Wrote t d 1 ∧ t.freeAsids = rest ∧
             t.fn f = { st := .idle, lease := s.me.lease, asid := n, qmax := (s.lse s.me.lease).qmax })) ∧
       (s.gn a = f + 32768 + 50331648 → s.exists? f = true → (s.fn f).lease = s.me.lease →
         (s.Plain → s.hasRight 1 = true → ∃ t, exec (.vfctlDestroy a b d) s = .next t ∧ s.AwaitsService t) ∧
         (s.Served → s.claimed f = [] → (s.fn f).st ≠ .evicted → (∀ p, p < 4 → vget [] (s.fn f).queues p = []) →
           ∃ t, exec (.vfctlDestroy a b d) s = .next t ∧ s.Wrote t d 1 ∧ t.fn f = {} ∧
             (s.fn f).asid ∈ t.freeAsids))) ∧
     (∀ (sc : Scope) (i : Instr) (x asid page q : Nat), 2 ≤ s.level → x < 384 → asid < 1024 →
       s.ownAsid asid = true → s.checkScope s.cur (scopeWord 6) = .ok sc → page < 2 ^ 32 → q < 14400 →
       (i = .vfctlInval a b d ∧ s.gn a = x + 67108864 ∧ s.gn b = asid + 65536 * page ∨
         (i = .vfctlWake a b d ∧ s.gn a = x + 83886080 ∨ i = .vfctlRefuse a b d ∧ s.gn a = x + 100663296) ∧
           s.gn b = asid + 65536 * page + 2 ^ 50 * q) →
       (s.Plain → s.hasRight 3 = true → ∃ t, exec i s = .next t ∧ s.AwaitsService t) ∧
       (s.Served → s.released s.cur = true → ∃ t, exec i s = .next t ∧ s.Wrote t d 1 ∧
         (i = .vfctlInval a b d → ∀ e ∈ (t.quad q).tlb, ¬(e.asid = asid ∧ e.page = page)) ∧
         (i ≠ .vfctlInval a b d → ∀ w ∈ (t.quad q).pages, ¬(w.asid = asid ∧ w.page = page))))) ∧
  (∀ (s : State) (a b d : BitVec 5) (f : Nat) (m : BitVec 8), s.gn a < 384 → s.gn b < 256 → f = s.me.fn → f < 1000 →
     m = (s.g b).extractLsb' 0 8 →
     (1 ≤ s.level → (s.Plain → ∃ t, exec (.rightsRead a b d) s = .next t ∧ s.AwaitsService t) ∧
       (s.Served → exec (.rightsRead a b d) s = .next (s.after (s.setGn d (s.fn f).rights.toNat)))) ∧
     (2 ≤ s.level → s.exists? f = true → (s.level = 2 → m &&& (s.lse s.me.lease).rights = m) →
       (s.Plain →
         (∃ t, exec (.rightsGrant a b d) s = .next t ∧ t.mem = s.mem ∧ (t.fn f).rights = (s.fn f).rights ||| m ∧
           (t.thr s.cur).st = .parked .engine ∧ (t.thr s.cur).pc = s.me.pc ∧ .rightsPropagated s.cur ∈ t.agenda) ∧
         ∃ t, exec (.rightsRevoke a b d) s = .next t ∧ t.mem = s.mem ∧ (t.fn f).rights = (s.fn f).rights &&& ~~~m ∧
           (t.thr s.cur).st = .parked .engine ∧ (t.thr s.cur).pc = s.me.pc ∧ .rightsPropagated s.cur ∈ t.agenda) ∧
       ∀ bs, s.Answered bs →
         exec (.rightsGrant a b d) s = .next (s.after (s.setGn d (ofBytes bs))) ∧
         exec (.rightsRevoke a b d) s = .next (s.after (s.setGn d (ofBytes bs)))))

/-! ## What the units do between instructions: matrix, streams, messages -/

/-- R235, R237, R240, R244, R245, R262, R299, R309. At a core whose context runs: MATRIX_UNIT_START runs a queued
instruction, here a TZERO, and its thread goes on; TMMAS_CHUNK loads the accumulator that the operation named at its start,
adds a chunk of FULL slots, and after the last chunk stores it with one rounding under the thread's LFSR; TMMAS_RESUME
takes up a held operation; TILE_ARRIVAL claims a slot, or sends the refusal of a tile whose function does not hold the
core; FORWARD_ACCEPT sends a held slot's tile and frees a slot whose tile has been taken; TSEND_ACCEPT lets the sender go
on, and one of an older generation is counted as stale. Completion is concluded for: matrixUnitStart, tmmasChunk,
tmmasResume, tileArrival, forwardAccept, tsendAccept. -/
def Obligations.MatrixEvents : Prop :=
  ∀ (s : State) (c : Nat) (k : Core), validCore c = true → k = s.core c → k.away = false →
    (∀ (o : UnitOp) (d : BitVec 5) (th : Thread), k.ctrl = [] → k.mwait = [] → k.mq = [o] → k.munit = none →
      k.morphan = none → k.mop = none → k.sendBuf = [] → o.insn = .tzero d → o.word = encode (.tzero d) →
      o.replay = false → coreOf o.thread = c → d.toNat < 16 → (k.tile d.toNat).desc.ok = true →
      k.filling d.toNat = false → th = s.thr o.thread → th.tsr.pair = false → th.tsr.pp = false → th.replaying = false →
      th.residuesHold → th.st = .parked .engine → s.streaming o.thread = false →
      ∃ t, exec (.matrixUnitStart c) s = .next t ∧ t.mem = s.mem ∧ (t.core c).mq = [] ∧ (t.core c).munit = none ∧
        (t.thr o.thread).pc = th.pc + 4 ∧ (t.thr o.thread).st = .run ∧ (t.thr o.thread).g = th.g ∧
        ((t.core c).tile d.toNat).data = List.replicate 2048 0 ∧ ((t.core c).tile d.toNat).pois = false ∧
        ∀ j, j < 16 → j ≠ d.toNat → (t.core c).tile j = k.tile j) ∧
    (∀ (m : MatOp) (x last : Nat), k.ctrl = [] → k.leaving = false → k.mop = some m → m.held = 0 → x = accAt c m.accg →
      last = (m.accg.extractLsb' 48 16).toNat →
      (m.loaded = false → s.subTileBad x = none →
        ∃ t, exec (.tmmasChunk c) s = .next t ∧ t.mem = s.mem ∧ t.threads = s.threads ∧ .tmmasChunk c ∈ t.agenda ∧
          (t.core c).mop = some { m with loaded := true, acc := loadAccs (afmtOf m.accg) (s.rd x 4096) }) ∧
      (∀ (ra rb ta tb : Nat), m.loaded = true → m.chunk ≤ last → (ra, rb) = m.rings →
        (ta, tb) = k.chunkTiles m → ra < 4 → rb < 4 → ra ≠ rb → k.chunkSlots ra = 1 → k.chunkSlots rb = 1 →
        0 < (k.ring ra).nf → 0 < (k.ring rb).nf → (s.fn m.fn).boundary = false → (k.tile ta).pois = false →
        (k.tile tb).pois = false → k.accepts (afmtOf m.accg) ta tb (some m.sparse) m.op.pfx m.fmts = true →
        m.dead = false → s.mayAccept m.op.thread = true →
        ∃ t n, exec (.tmmasChunk c) s = .next t ∧ t.mem = s.mem ∧ .tmmasChunk c ∈ t.agenda ∧ (t.core c).mop = some n ∧
          n.chunk = m.chunk + 1 ∧ n.op = m.op ∧ n.accg = m.accg ∧
          n.acc = (addChunks k ta tb (intOperand (k.tile ta).desc.fmt) m.sat m.acc).1 ∧
          n.flags = m.flags ||| (addChunks k ta tb (intOperand (k.tile ta).desc.fmt) m.sat m.acc).2 ∧
          (∀ r, r = ra ∨ r = rb → ((t.core c).ring r).ci = ((k.ring r).ci + 1) % (k.ring r).len ∧
            ((t.core c).ring r).nf = (k.ring r).nf - 1)) ∧
      (∀ (bs : List Byte) (fl : Flags) (l : BitVec 32) (th : Thread), m.loaded = true →
        last < m.chunk → m.dead = false → m.op.replay = false → th = s.thr m.op.thread →
        th.st = .parked .engine → th.op.fetch = false → s.memOk →
        (bs, fl, l) = storeAccs (accDest m.op.pfx) m.mode m.sat m.acc th.rndlfsr →
        ∃ t, exec (.tmmasChunk c) s = .next t ∧ (t.core c).mop = none ∧
          (∀ i, i < bs.length → memGet t.mem (x + i) = bs.getD i 0) ∧
          (∀ a, a < x ∨ x + bs.length ≤ a → memGet t.mem a = memGet s.mem a) ∧
          ∀ u : Thread, u = t.thr m.op.thread → u.st = .run ∧ u.op.reply = .ok ∧ u.pc = th.pc ∧ u.g = th.g ∧
            u.tsr.flags = th.tsr.flags ||| (m.flags ||| fl) ∧ u.rndlfsr = l)) ∧
    (∀ (m : MatOp), k.mop = some m → m.held ≠ 0 → k.leaving = false → k.ganged = false → (s.fn m.fn).boundary = false →
      ∃ t, exec (.tmmasResume c) s = .next t ∧ t.mem = s.mem ∧ t.threads = s.threads ∧
        (t.core c).mop = some { m with held := 0, fmts := none } ∧ (t.core c).mrec = {} ∧ .tmmasChunk c ∈ t.agenda) ∧
    (∀ (a : Arrival), k.place.held = [] → k.arrivals = [a] → a.forward = false → a.ring < 4 →
      (∀ f, s.holder (quadOf a.src) = some f → s.acceptCode f c = 0 → (k.ring a.ring).len ≠ 0 →
        k.empties a.ring ≠ 0 →
        ∃ t, exec (.tileArrival c) s = .next t ∧ t.mem = s.mem ∧ t.threads = s.threads ∧ (t.core c).arrivals = [] ∧
          (t.core c).ring a.ring = (k.ring a.ring).fill 1 ∧ .tsendAccept a.thread a.gen ∈ t.agenda ∧
          (t.core c).tile ((k.ring a.ring).tile (k.ring a.ring).pi) =
            (k.tile ((k.ring a.ring).tile (k.ring a.ring).pi)).take a.tile) ∧
      (∀ f, s.holder (quadOf a.src) = some f → s.acceptCode f c ≠ 0 →
        ∃ t, exec (.tileArrival c) s = .next t ∧ t.mem = s.mem ∧ t.threads = s.threads ∧ (t.core c).arrivals = [] ∧
          (t.core c).tiles = k.tiles ∧ (t.core c).rings = k.rings ∧ .remoteReply s.nextNet ∈ t.agenda ∧
          t.net = smPut s.net s.nextNet (.answer a.thread a.gen
            (.trap { code := cSeg, detail := 3, tval := BitVec.ofNat 64 c }) ((s.thr a.thread).flyHold == .remote) s.cycle))) ∧
    (∀ (f : Forward), k.forwards = [f] → f.ring < 4 →
      (∀ d h, f.dest = some d → f.phase = 0 → d ≠ c → s.holder (quadOf c) = some h →
        s.quotaOk (quadOf c) h = true →
        ∃ t a, exec (.forwardAccept c f.ring) s = .next t ∧ t.mem = s.mem ∧ t.threads = s.threads ∧
          (t.core c).forwards = [{ f with phase := 1 }] ∧ (t.core d).arrivals = (s.core d).arrivals ++ [a] ∧
          a.ring = f.ring ∧ a.tile = k.tile ((k.ring f.ring).tile (k.ring f.ring).fi) ∧ a.src = c ∧ a.forward = true ∧
          .tileArrival d ∈ t.agenda) ∧
      (f.phase = 2 → ∃ t, exec (.forwardAccept c f.ring) s = .next t ∧ t.mem = s.mem ∧ t.threads = s.threads ∧
        (t.core c).forwards = [] ∧ (t.core c).ring f.ring = { k.ring f.ring with
          fi := ((k.ring f.ring).fi + 1) % (k.ring f.ring).len, nh := (k.ring f.ring).nh - 1 })) ∧
    (∀ (n e : Nat) (th : Thread), validThread n = true → coreOf n = c → k.place.held = [] → th = s.thr n →
      (th.gen.toNat = e → th.flyHold ≠ .remote → th.st = .parked .remote → th.op.fetch = false →
        ∃ t, exec (.tsendAccept n e) s = .next t ∧ t.mem = s.mem ∧ (t.thr n).st = .run ∧ (t.thr n).op.reply = .ok ∧
          (t.thr n).g = th.g ∧ (t.thr n).pc = th.pc) ∧
      (th.gen.toNat ≠ e → ∃ t, exec (.tsendAccept n e) s = .next t ∧ t.mem = s.mem ∧
        (t.core c).stalereply = k.stalereply + 1 ∧
        (t.thr n) = { th with unanswered := th.unanswered.filter fun u => u.1 != e } ∧
        ∀ m, m ≠ n → t.thr m = s.thr m))

/-- R271, R275, R277, R278, R281, R282. The stream engine of a core whose context runs: an in context asks for its
next element, takes the bytes that its access read, or the fault it met; an out context stores its oldest element; a
ring stream claims the slots at PI for its next element, fills them with a tile of padding, and they become FULL; a copy
performs a chunk and ends when its last byte is written; its end sends one inbox message under MODE 1; ARRIVAL_ADD adds
arrivals to an arrival word. Completion is concluded for: streamFetchIssue, streamElementArrival, streamDrain,
ringStreamFill, copyChunk, copyComplete, arrivalAdd. -/
def Obligations.StreamEvents : Prop :=
  ∀ (s : State) (c : Nat) (k : Core), validCore c = true → k = s.core c → k.Present → s.noWaits →
    (∀ (x : Nat) (u : Ctx), x < 16 → u = k.ctx x → u.bound = true →
      (∀ e, u.desc.dirOut = false → u.kind ≠ 2 → u.nextFetch = some e → s.ctxQuota c u = true →
        ∃ t, exec (.streamFetchIssue c x) s = .next t ∧ t.mem = s.mem ∧ t.threads = s.threads ∧
          (t.core c).ctx x = { u with asked := u.asked ++ [e] } ∧ .streamElementArrival c x e ∈ t.agenda) ∧
      (∀ (e p : Nat) (a da : Word), e ∈ u.asked → u.desc.addr u.desc.base e = .at a →
        (s.engineResolve c (s.ctxAgent u) false a u.desc.size rightR = .ok s da (.tcm c) p →
          s.poisoned p u.desc.size = false →
          ∃ t, exec (.streamElementArrival c x e) s = .next t ∧ t.mem = s.mem ∧
            ((t.core c).ctx x).buf = u.buf ++ [(e, .ok (s.rd p u.desc.size))] ∧
            ((t.core c).ctx x).asked = u.asked.filter (· != e) ∧ ((t.core c).ctx x).pos = u.pos) ∧
        (∀ f, s.engineResolve c (s.ctxAgent u) false a u.desc.size rightR = .fail s f →
          ∃ t, exec (.streamElementArrival c x e) s = .next t ∧ t.mem = s.mem ∧
            ((t.core c).ctx x).buf = u.buf ++ [(e, .bad f)] ∧ ((t.core c).ctx x).pos = u.pos)) ∧
      (∀ (e a : Nat) (bs : List Byte) (da ea : Word), u.buf = [(e, .out bs (.tcm c) a da ea)] → e ∉ u.asked →
        s.ctxQuota c u = true → 2 ≤ u.level ∨ s.ownerOk u.fn (.tcm c) a = true → s.poisoned a bs.length = false →
        s.memOk →
        ∃ t, exec (.streamDrain c x) s = .next t ∧ ((t.core c).ctx x).buf = [] ∧
          ((t.core c).ctx x).refused = u.refused ∧ (∀ i, i < bs.length → memGet t.mem (a + i) = bs.getD i 0) ∧
          ∀ b, b < a ∨ a + bs.length ≤ b → memGet t.mem b = memGet s.mem b) ∧
      (∀ (rg : Ring) (w : Word) (n : Nat), u.kind = 2 → u.n < 4 → u.asked = [] → rg = k.ring u.n →
        (u.fill = none → u.err = 0 → u.pos < u.desc.total → s.ctxQuota c u = true → rg.len ≠ 0 →
          w = (k.tile (rg.tile rg.pi)).geom → n = (geomOf w).claims → n ≤ k.empties u.n →
          ∃ t, exec (.ringStreamFill c x) s = .next t ∧ t.mem = s.mem ∧ t.threads = s.threads ∧
            (t.core c).ring u.n = rg.claim n ∧ (t.core c).tiles = k.tiles ∧
            ((t.core c).ctx x).fill = some (rg.pi, n, w) ∧ ((t.core c).ctx x).pos = u.pos ∧
            .ringStreamFill c x ∈ t.agenda) ∧
        (∀ (g : Geom) (slot : Nat), u.fill = some (slot, 1, w) → g = geomOf w → n = rg.tile slot → g.okAt n = true →
          g.sp = 0 → g.pair = false → g.slots = 1 → u.desc.addr u.desc.base u.pos = .pad →
          ∃ t, exec (.ringStreamFill c x) s = .next t ∧ t.mem = s.mem ∧ t.threads = s.threads ∧
            (t.core c).ring u.n = rg.filled slot 1 ∧ ((t.core c).tile n).data = List.replicate 2048 0 ∧
            ((t.core c).tile n).pois = false ∧ ((t.core c).ctx x).fill = none ∧ ((t.core c).ctx x).pos = u.pos + 1 ∧
            ((t.core c).ctx x).err = u.err ∧ .ringStreamFill c x ∈ t.agenda))) ∧
    (∀ (i : Nat) (u : Copy), i < 16 → u = k.copy i →
      (∀ (n p p2 : Nat) (sa da d1 d2 : Word), k.headCopy = some i → u.waiting = false → u.code = 0 → u.got = [] →
        u.step = 0 → u.inChunk = false → k.leaving = false → (s.fn u.who.fn).boundary = false → 2 ≤ u.who.level ∨ s.quotaOk (quadOf c) u.who.fn = true → 0 < n → n ≤ 64 →
        u.total = u.done + n → u.srcPieces u.done u.total = [(0, some sa, n)] →
        u.dstPieces u.done u.total = [(0, some da, n)] → s.pieceFail c u.who rightR [(0, some sa, n)] = none →
        s.pieceFail c u.who rightW [(0, some da, n)] = none →
        s.engineResolve c u.who true sa n rightR = .ok s d1 (.tcm c) p →
        s.engineResolve c u.who true da n rightW = .ok s d2 (.tcm c) p2 → s.poisoned p n = false →
        s.poisoned p2 n = false → s.memOk →
        ∃ t, exec (.copyChunk c i) s = .next t ∧ ((t.core c).copy i).done = u.total ∧ .copyComplete c i ∈ t.agenda ∧
          t.threads = s.threads ∧ (∀ j, j < n → memGet t.mem (p2 + j) = memGet s.mem (p + j)) ∧
          ∀ a, a < p2 ∨ p2 + n ≤ a → memGet t.mem a = memGet s.mem a) ∧
      (u.live = true → u.waiting = false → natAt u.block 64 8 = 0 → (s.core (u.ncore c)).away = false →
        (natAt u.block 54 1 = 0 → ∃ t, exec (.copyComplete c i) s = .next t ∧ t.mem = s.mem ∧ t.threads = s.threads ∧
          ((t.core c).copy i).st = .ended ∧ ((t.core c).copy i).code = u.code ∧ ((t.core c).copy i).done = u.done ∧
          ((t.core c).copy i).ended = s.cycle) ∧
        (natAt u.block 54 1 = 1 → validCore (u.ncore c) = true → s.acceptCode u.who.fn (u.ncore c) = 0 →
          (s.core (u.ncore c)).inbox.length < 32 → (s.core (u.ncore c)).rwait = [] →
          ∃ t e, exec (.copyComplete c i) s = .next t ∧ t.mem = s.mem ∧ ((t.core c).copy i).st = .ended ∧
            (t.core (u.ncore c)).inbox = (s.core (u.ncore c)).inbox ++ [e] ∧
            e.payload.take 8 = toBytes 8 (natAt u.block 56 8)))) ∧
    ∀ (a n m w v : Nat), a % 8 = 0 → a < hbmBase → (∀ y, contextOf (unitAt a) = some y → (s.core y).Present) →
      s.poisoned a 8 = false → s.memOk → w = s.rd64 a → m = field w 45 23 → n < 2 ^ 23 → v = field w 22 0 + n →
      ∃ t, exec (.arrivalAdd a n) s = .next t ∧ (∀ y, y < a ∨ a + 8 ≤ y → memGet t.mem y = memGet s.mem y) ∧
        (m ≠ 0 → field (t.rd64 a) 22 0 = v % m ∧ field (t.rd64 a) 45 23 = m ∧
          field (t.rd64 a) 63 48 = (w / 2 ^ 48 + v / m) % 65536) ∧
        (m = 0 → v < 2 ^ 23 → field (t.rd64 a) 22 0 = v ∧ field (t.rd64 a) 63 48 = w / 2 ^ 48)

/-- R296 to R300, R303, R305, R311, R317. At a core whose context is present: an acknowledgement frees its journal entry,
one without an entry is counted as stale; a refusal, and an expiry 6,000,000 cycles after the entry left its core, free it
and leave a record with its code and an event of class 1 with its thread; an entry that has left or may leave its core
reaches its destination: an inbox message enters the inbox of its core, or is refused with code 6 when 32 entries stand; a
spawn message starts the handler in the lowest free slot; RECVT whose count has ended goes on. Held traffic is offered in
its turn once the context runs, and what has ended meanwhile leaves the queue. Completion is concluded for: journalAck,
journalRefusal, journalExpired, inboxMessage, spawnMessage, recvtDeadline, forwardDeliver. -/
def Obligations.MessageEvents : Prop :=
  ∀ (s : State) (c : Nat) (k : Core), validCore c = true → k = s.core c →
    (k.Present →
      (∀ (i q : Nat) (e : JEntry), s.entryAt? c i q = some e →
        (e.performed = true → exec (.journalAck c i q) s = .next (s.freeEntry c i)) ∧
        (∀ code th, (e.refused = code ∧ code ≠ 0 ∨ e.refused = 0 ∧ code = 8) → e.killed = false → th = s.thr e.thread →
          th.refusals.length < 4 → th.fifo.length < 8 →
          (e.refused = 0 → e.left = true ∧ e.since + 6000000 ≤ s.cycle) →
          ∃ t, exec (if e.refused = 0 then .journalExpired c i q else .journalRefusal c i q) s = .next t ∧
            t.mem = s.mem ∧ (t.core c).journal = smDrop k.journal i ∧ ∀ u : Thread, u = t.thr e.thread →
              (∃ r, u.refusals = th.refusals ++ [r] ∧ r.code = code ∧ r.index = i ∧ r.seq = e.seq ∧ r.addr = e.report) ∧
              (∃ v, u.fifo = th.fifo ++ [v] ∧ v.cls = 1 ∧ v.id = (e.seq % 65536) * 65536 + i) ∧ u.g = th.g ∧
              u.pc = th.pc) ∧
        (∀ d : Nat, e.unserved = true → e.left = true ∨ s.mayPerform e = true ∧ s.mayInject c e.fn e.level = true →
          e.addr = d → validCore d = true → (∀ p, e.unit ≠ .panel p) → (s.core d).Present → s.acceptCode e.fn d = 0 →
          (∀ (ch : Nat) (rel : Bool), e.kind = .inbox ch rel → (s.core d).rwait = [] → i < 64 →
            ((s.core d).inbox.length < 32 →
              ∃ t m b, exec (.inboxMessage c i q) s = .next t ∧ t.mem = s.mem ∧ t.threads = s.threads ∧
                (t.core d).inbox = (s.core d).inbox ++ [m] ∧ m.payload = e.payload ∧ m.bound = none ∧
                m.header = header (bit rel) s.panelNo ch c ∧ t.entryAt? c i q = some b ∧ b.performed = true ∧
                b.left = true ∧ b.bytes = e.bytes ∧ .journalAck c i e.seq ∈ t.agenda) ∧
            (32 ≤ (s.core d).inbox.length →
              ∃ t b, exec (.inboxMessage c i q) s = .next t ∧ t.mem = s.mem ∧ t.threads = s.threads ∧
                (t.core d).inbox = (s.core d).inbox ∧ t.entryAt? c i q = some b ∧ b.performed = false ∧
                b.refused = 6 ∧ .journalRefusal c i e.seq ∈ t.agenda)) ∧
          (∀ (h x : Nat) (rel : Bool) (pc : Word) (l : Launch), e.kind = .spawn h rel → s.handler d h = .ok pc →
            (s.core d).inbound = [] → (s.core d).spillCount = 0 → s.pairedAt d = false → s.launchAt d = some l →
            s.freeSlot d false = some x →
            ∃ t, exec (.spawnMessage c i q) s = .next t ∧ t.mem = s.mem ∧ .journalAck c i e.seq ∈ t.agenda ∧
              (∀ j, j ≠ d * 16 + x → t.thr j = s.thr j) ∧ ∀ u : Thread, u = t.thr (d * 16 + x) → u.st = .run ∧
                u.pc = pc ∧ u.fn = l.fn ∧ u.tsr.pl = 0 ∧ u.reg 1 = BitVec.ofNat 64 c ∧
                ∀ j, j < 8 → u.reg (8 + j) = BitVec.ofNat 64 (dword e.payload j)))) ∧
      (∀ i q, s.entryAt? c i q = none →
        exec (.journalAck c i q) s = .next (s.modCore c fun k => { k with stalereply := k.stalereply + 1 }) ∧
        exec (.journalRefusal c i q) s = .next (s.modCore c fun k => { k with stalereply := k.stalereply + 1 })) ∧
      ∀ (u n : Nat) (th : Thread), coreOf u = c → th = s.thr u → th.st = .parked .recv → th.op.deadline = some n →
        n ≤ s.cycle → s.held u = false →
        ∃ t, exec (.recvtDeadline u) s = .next t ∧ t.mem = s.mem ∧ (t.thr u).st = .run ∧ (t.thr u).pc = th.pc ∧
          (t.thr u).g = th.g ∧ (t.thr u).op.deadline = some 0 ∧ u ∉ (t.core c).rwait) ∧
    ∀ (h : Instr) (hs : List Instr), k.place.held = h :: hs → k.away = false → h ∉ s.agenda →
      ∃ t, exec (.forwardDeliver c) s = .next t ∧ .forwardDeliver c ∈ t.agenda ∧ t.mem = s.mem ∧
        t.threads = s.threads ∧
        (k.place.offered = false → h ∈ t.agenda ∧ (t.core c).place = { k.place with offered := true }) ∧
        (k.place.offered = true → (t.core c).place = { k.place with held := hs, offered := false })

/-! ## Containment and errors -/

/-- R311 to R313, R328, R331 to R334, R338, R339, R341. A capture ends with a VALID image under the next epoch and its
issuer goes on; a retired core freezes, takes a spare when one is free and the 256 exceptions allow it, or else is ABSENT
with every slot free; the exception names the spare's place and the restore starts; a context without a VALID image starts
with free slots and zero TCM, one with an image with its threads at RUN and RC set; a forwarding entry goes 1 ms after the
vacate point once every router has switched; an error enters its bank at the end of its cycle, and an uncorrectable one
marks a later second one OVF; a scrub records what it finds and poisons a word that it cannot correct; a refresh leaves the
machine as it was but for the energy posted. Completion is concluded for: chkptCaptureDone, coreRetire, restoreStart,
remapExceptionCommit, restoreDone, forwardEntryRemove, errorRecord, sramPatrolScrub, hbmScrub, hbmRefresh. -/
def Obligations.ContainmentEvents : Prop :=
  ∀ (s : State) (c : Nat) (k : Core), validCore c = true → k = s.core c →
    (∀ (u : Nat) (d : BitVec 5), k.capturing = true → k.away = false → k.journal = [] → k.ckFor = [u] →
      (s.thr u).op.insn = some (.chkpt d) → (s.thr u).op.fetch = false → (∃ r, (s.thr u).st = .parked r) →
      ∃ t im, exec (.chkptCaptureDone c) s = .next t ∧ (t.core c).capturing = false ∧ (t.core c).ckValid = true ∧
        (t.core c).ckEpoch = k.ckEpoch + 1 ∧ (t.core c).image = some im ∧ im.epoch = k.ckEpoch + 1 ∧
        im.inbox = k.inbox ∧ im.threads.length = 16 ∧ (t.thr u).st = .run ∧ (t.thr u).g = (s.thr u).g ∧
        (t.thr u).op.reply = .data (toBytes 8 (k.ckEpoch + 1).toNat)) ∧
    (k.moving = false → k.leaving = false → k.place.service = .inService →
      ∃ t, exec (.coreRetire c) s = .next t ∧ (t.core c).place.service = .frozen ∧
        (t.core c).place.vacated = s.cycle ∧ (t.core c).place.fwd = true ∧ .restoreStart c ∈ t.agenda) ∧
    (k.place.service = .frozen →
      (∀ x, s.remapsFull c = false → s.spareFor c = some x →
        exec (.restoreStart c) s = .next (s.due (.remapExceptionCommit c (x / 64) (x % 64)))) ∧
      (s.remapsFull c = true ∨ s.spareFor c = none → ∃ t, exec (.restoreStart c) s = .next t ∧ t.mem = s.mem ∧
        (t.core c).place.service = .absent ∧ ∀ i, i < 16 → (t.thr (c * 16 + i)).st = .free) ∧
      (∀ x i, s.remapsFull c = false → s.spareUsed.contains (x * 64 + i) = false → s.spareSites.contains x = true →
        k.leaving = false →
        ∃ t, exec (.remapExceptionCommit c x i) s = .next t ∧ t.mem = s.mem ∧ t.threads = s.threads ∧
          x * 64 + i ∈ t.spareUsed ∧ .restoreDone c ∈ t.agenda ∧ ∀ p : Place, p = (t.core c).place → p.site = x ∧
            p.index = i ∧ p.exception = true ∧ p.service = .restoring ∧ p.epoch = (k.place.epoch + 1) % 65536)) ∧
    (k.place.service = .restoring →
      (s.validImage c = none → ∃ t, exec (.restoreDone c) s = .next t ∧ (t.core c).place.service = .inService ∧
        (∀ i, i < 16 → (t.thr (c * 16 + i)).st = .free) ∧
        ∀ a, sramAddr c 0 0 ≤ a → a < sramAddr c 0 0 + 2 ^ 18 → memGet t.mem a = 0) ∧
      (∀ im, s.validImage c = some im → ∃ t, exec (.restoreDone c) s = .next t ∧
        (t.core c).place.service = .inService ∧ (t.core c).inbox = im.inbox ∧
        ∀ i, i < 16 → (im.threads.getD i {}).st = .run → ∀ u : Thread, u = t.thr (c * 16 + i) → u.st = .run ∧
          u.tsr.rc = true ∧ u.pc = (im.threads.getD i {}).pc ∧ u.g = (im.threads.getD i {}).g)) ∧
    (k.place.fwd = true → k.away = false → k.place.held = [] → k.place.vacated + 1500000 ≤ s.cycle →
      s.allSwitched c = true →
      exec (.forwardEntryRemove c) s =
        .next (s.modCore c fun k => { k with place := { k.place with fwd := false } })) ∧
    (s.errors = [] →
      (∀ (h n cls unit slot : Nat) (a : Word) (b : Bank), b = s.bankAt h n → s.bankExists h n = true → 1 ≤ cls →
        cls ≤ 0x0E →
        (1 ≤ h → cls ≠ 0x0A → ∃ t, exec (.errorRecord h n cls unit slot a) s = .next t ∧ t.mem = s.mem ∧
          t.threads = s.threads ∧ ∀ v : Bank, v = t.errorCycle.bankAt h n →
            (b.v = false → v.v = true ∧ v.cls = cls ∧ v.unit = unit ∧ v.slot = slot ∧ v.addr = a ∧
              v.cycle = BitVec.ofNat 64 s.cycle ∧ v.sev = uncorrectable cls ∧ v.seq = (b.seq + 1) % 256) ∧
            (b.v = true → b.sev = true → uncorrectable cls = true → v.ovf = true ∧ v.cls = b.cls ∧ v.addr = b.addr ∧
              v.lastCls = cls ∧ v.count = min 65535 (b.count + 1))) ∧
        (∀ u, h = 0 → cls = 6 → u = coreOfQuad n (unit % 4) * 16 + slot % 16 → (s.thr u).st = .run →
          (s.thr u).tsr.pair = false →
          ∃ t, exec (.errorRecord h n cls unit slot a) s = .next t ∧ (t.thr u).st = .killed ∧
            (t.thr u).gen = (s.thr u).gen + 1 ∧ (t.thr u).op.aux = 0x24)) ∧
      (∀ a, a % 8 = 0 → a < hbmBase → ownerCore (unitAt a) a = c →
        exec (.sramPatrolScrub a 0) s = .next s ∧
        ((s.quad (quadOf c)).bank.v = false → ∃ t b, exec (.sramPatrolScrub a 1) s = .next t ∧ t.mem = s.mem ∧
          t.poison = s.poison ∧ b = (t.errorCycle.quad (quadOf c)).bank ∧ b.v = true ∧ b.cls = 1 ∧
          b.addr = BitVec.ofNat 64 a) ∧
        ∃ t, exec (.sramPatrolScrub a 2) s = .next t ∧ t.mem = s.mem ∧ a ∈ t.poison ∧ ∀ w ∈ s.poison, w ∈ t.poison) ∧
      ∀ a, a % 8 = 0 → a < 2 ^ 48 → s.stackPresent (field a 41 36) = true → exec (.hbmScrub a 0) s = .next s ∧
        ((s.bankAt 2 (field a 41 36)).v = false → ∃ t b, exec (.hbmScrub a 1) s = .next t ∧ t.mem = s.mem ∧
          t.poison = s.poison ∧ b = t.errorCycle.bankAt 2 (field a 41 36) ∧ b.v = true ∧ b.cls = 3) ∧
        ∃ t, exec (.hbmScrub a 2) s = .next t ∧ t.mem = s.mem ∧ hbmBase + a ∈ t.poison) ∧
    ∀ n, s.stackPresent n = true → ∃ t, exec (.hbmRefresh n) s = .next t ∧ t.mem = s.mem ∧ t.poison = s.poison ∧
      t.threads = s.threads ∧ t.cores = s.cores ∧ s.service.pool ≤ t.service.pool

/-! ## Collectives, barriers, audit, metering between instructions -/

/-- R353 to R361, R373 to R375. The collective engine: an armed context starts its run when the watched word has come;
a RUNNING one reads its chunk and sends it to the next member, takes the chunk that a member of this panel sends in
the same run against its credit, ends its run when no step is left, and then delivers its completion; an abort notice
ends an active run ABORTED, and no progress for CTIMEOUT ends it TIMEOUT; a stop holds it and the stop's end resumes
it. A barrier's release wakes a BARW, the excusal of an ABSENT core takes it from PART; a timer that has reached its
timeout makes the context EXPIRED at the end of the cycle and wakes its waiters with TO set. Completion is concluded for:
watchReached, collectiveChunkStep, collectiveChunkReceive, collectiveComplete, collectiveAbortNotice, collectiveTimeout,
collectiveHold, collectiveResume, barrierReleaseDelivery, barrierExcusal, barrierTimeout. -/
def Obligations.CollectiveEvents : Prop :=
  ∀ (s : State) (d x : Nat) (k : Coll), d < 900 → x < 16 → k = s.coll d x →
    (k.st = .armed → ∃ t, exec (.watchReached d x) s = .next t ∧ t.mem = s.mem ∧ (t.coll d x).st = .running ∧
      (t.coll d x).run = (k.run + 1) % 65536 ∧ (t.coll d x).stage = 0 ∧ (t.coll d x).chunk = 0 ∧
      .collectiveChunkStep d x ∈ t.agenda) ∧
    (k.st = .running → s.collStopped k = false →
      (∀ (t0 c0 r e p : Nat) (st : CollStep) (da : Word), k.step? = some (t0, c0, st) → k.ready = true →
        s.collTurn d = some x → 2 ≤ k.who.level ∨ s.dieQuotaOk d k.owner = true → st.own = true → st.ins = [] →
        st.write = false → st.len = 64 → st.dests = [r] → k.members.getD r 0 = s.panelNo * 1024 + e → e < 900 → e ≠ d →
        s.dieAbsent e = false → (s.core k.core).Present → s.noWaits → s.poisoned p 64 = false →
        s.engineResolve k.core k.who true (k.buf + BitVec.ofNat 64 st.lo) 64 rightR = .ok s da (.tcm k.core) p →
        ∃ t, exec (.collectiveChunkStep d x) s = .next t ∧ t.mem = s.mem ∧ t.threads = s.threads ∧
          ∀ v : Coll, v = t.coll d x → v.st = .running ∧ v.stage = t0 ∧ v.chunk = c0 + 1 ∧
            v.unsent = [(r, { rank := k.rank, phase := st.out, off := st.lo, bytes := s.rd p 64, poison := none }, false)]) ∧
      (∀ (e y : Nat) (p : Coll) (g : Chunk), e < 900 → e ≠ d →
        k.members = [s.panelNo * 1024 + e, s.panelNo * 1024 + d] → s.collOf e k.owner k.cid = some y → y < 16 →
        p = s.coll e y → p.active = true → p.run = k.run → p.sig = k.sig → k.credit g = true → p.unsent = [(k.rank, g, false)] →
        ∃ t, exec (.collectiveChunkReceive d x) s = .next t ∧ t.mem = s.mem ∧ t.threads = s.threads ∧
          (t.coll d x).rx = k.rx ++ g.cut ∧ (t.coll d x).st = .running ∧ (t.coll e y).unsent = [] ∧
          .collectiveChunkStep d x ∈ t.agenda ∧ .collectiveChunkStep e y ∈ t.agenda) ∧
      (∀ n, k.unsent = [] → k.step? = none → k.outbox = [] → n = k.ncore → (s.core n).away = false →
        s.acceptCode k.owner n = 0 → (s.core n).inbox.length < 32 → (s.core n).rwait = [] →
        ∃ t m, exec (.collectiveComplete d x) s = .next t ∧ t.mem = s.mem ∧ t.threads = s.threads ∧
          (t.core n).inbox = (s.core n).inbox ++ [m] ∧ m.payload.take 8 = toBytes 8 k.tag.toNat ∧
          (t.coll d x).st = .ended ∧ (t.coll d x).code = (if k.pcnt = 0 then 0 else 1) ∧ (t.coll d x).outbox = [])) ∧
    (k.active = true → ∃ t, exec (.collectiveAbortNotice d x k.run) s = .next t ∧ t.mem = s.mem ∧
      t.threads = s.threads ∧ (t.coll d x).st = .ended ∧ (t.coll d x).code = 2) ∧
    (k.st = .running → k.ctimeout ≠ 0 → k.heldPeers = [] → k.ready = false →
      (k.progress + k.ctimeout * 1024 ≤ s.cycle → ∃ t, exec (.collectiveTimeout d x) s = .next t ∧ t.mem = s.mem ∧
        t.threads = s.threads ∧ (t.coll d x).st = .ended ∧ (t.coll d x).code = 4) ∧
      (s.cycle < k.progress + k.ctimeout * 1024 → ∃ t, exec (.collectiveTimeout d x) s = .next t ∧
        .collectiveTimeout d x ∈ t.agenda ∧ t.coll d x = k)) ∧
    (k.st = .running → s.collStopped k = true → ∃ t, exec (.collectiveHold d x) s = .next t ∧ t.mem = s.mem ∧
      t.threads = s.threads ∧ t.coll d x = { k with st := .held } ∧ .collectiveResume d x ∈ t.agenda) ∧
    (k.st = .held → s.collStopped k = false → ∃ t, exec (.collectiveResume d x) s = .next t ∧ t.mem = s.mem ∧
      t.threads = s.threads ∧ t.coll d x = { k with st := .running, progress := s.cycle } ∧
      .collectiveChunkStep d x ∈ t.agenda) ∧
    ∀ (z : Nat) (b : Barrier) (g u : Nat), z < 64 → b = s.bar z →
      (validThread u = true → (s.core (coreOf u)).away = false → b.waiters.contains (u, g) = true →
        (s.thr u).st = .parked .barrier → (s.thr u).op.fetch = false →
        ∃ t, exec (.barrierReleaseDelivery z g u) s = .next t ∧ t.mem = s.mem ∧ (t.thr u).st = .run ∧
          (t.thr u).g = (s.thr u).g ∧ (t.thr u).pc = (s.thr u).pc ∧ (t.bar z).waiters = b.waiters.erase (u, g)) ∧
      (∀ c, validCore c = true → b.st ≠ .free → b.ae = true → hasCore b.part c = true →
        (s.core c).place.service = .absent →
        ∃ t, exec (.barrierExcusal z c) s = .next t ∧ t.mem = s.mem ∧ hasCore (t.bar z).part c = false ∧
          ∀ e, dieOf e ≠ dieOf c ∨ dieIdx e ≠ dieIdx c → dieIdx e < 64 → hasCore (t.bar z).part e = hasCore b.part e) ∧
      (∀ n, b.st = .opened → b.timer = some n → b.btime ≠ 0 →
        (s.cycle < n + b.btime * 1024 → ∃ t, exec (.barrierTimeout z) s = .next t ∧ t.bar z = b ∧ t.mem = s.mem ∧
          .barrierTimeout z ∈ t.agenda) ∧
        (n + b.btime * 1024 ≤ s.cycle → b.test = false → b.waiters = [(u, g)] → b.past g = false →
          (s.thr u).st = .parked .barrier → (s.thr u).op.fetch = false →
          ∃ t v, exec (.barrierTimeout z) s = .next t ∧ t.mem = s.mem ∧ t.threads = s.threads ∧ v = t.barSettle z ∧
            (v.bar z).st = .expired ∧ (v.bar z).waiters = [] ∧ (v.thr u).st = .run ∧
            (v.thr u).op.reply = .data [1#8]))

/-- R99, R341, R392, R394, R410, R413, R414, R416, R417, R419. The trier audits a record in the bubbles that its cost needs,
then bins and counts it; a charging point asks for a slice, is granted the least of 10 µJ and the balance, or refused; every microsecond a balance below its cap is
refilled; telemetry tells every quad's charges and the close of a window starts the next; calibration keeps a quad's or
a die's ratio in 192 to 320, and the operating point follows the highest request below its cap; the power controller
lowers caps, gates slots, whose vector latch empties, and undoes what it did last. Completion is concluded for:
auditRecord, sliceRequest, sliceGrant, sliceRefusal, quotaRefill, telemetry, meterWindowClose, meterCalibration,
operatingPointChange, powerCapStep, powerRecovery, slotGate, slotUngate. -/
def Obligations.MeteringEvents : Prop :=
  ∀ (s : State) (q f : Nat) (k : Quad) (fn : Func), q < 14400 → f < 384 → k = s.quad q → fn = s.fn f →
    (∀ (r : AuditRecord) (rs : List AuditRecord) (e : AuditEntry), k.trier.records = r :: rs → r.entry < 16 →
      r.quant = true → e = vget {} k.trier.entries r.entry → e.tbin = 0 → s.holder q = some f → fn.boundary = false →
      s.quotaOk q f = true →
      (r.work < r.cost → ∃ t n, exec (.auditRecord q) s = .next t ∧ t.mem = s.mem ∧ t.threads = s.threads ∧
        .auditRecord q ∈ t.agenda ∧ (t.quad q).trier.entries = k.trier.entries ∧
        (t.quad q).trier.records = { r with work := n } :: rs ∧ r.work ≤ n ∧ n ≤ r.work + 4 ∧ n ≤ r.cost) ∧
      (r.cost ≤ r.work → s.trierBefore q (s.cycle + 1) 0 = false →
        ∃ t, exec (.auditRecord q) s = .next t ∧ t.mem = s.mem ∧ t.threads = s.threads ∧
          (t.quad q).trier.records = rs ∧
          ∀ v : AuditEntry, v = vget {} (t.quad q).trier.entries r.entry → v.samp = min (2 ^ 32 - 1) (e.samp + 1) ∧
            v.nanc = min (2 ^ 32 - 1) (e.nanc + r.found.2) ∧ v.trip = e.trip ∧ v.tag = e.tag)) ∧
    (s.meterPending = false → fn.boundary = false → 0 < fn.bal → ∃ t, exec (.sliceRequest 0 q f) s = .next t ∧ t.mem = s.mem ∧
      (t.fn f).bal = fn.bal - min tenMicro fn.bal ∧ .sliceGrant 0 q f (min tenMicro fn.bal).toNat ∈ t.agenda) ∧
    (s.meterPending = false → fn.bal ≤ 0 → exec (.sliceRequest 0 q f) s = .next (s.due (.sliceRefusal 0 q f))) ∧
    (∀ a, fn.boundary = false → ∃ t, exec (.sliceGrant 0 q f a) s = .next t ∧ t.mem = s.mem ∧ t.fn f = fn ∧
      ((t.quad q).meter.al f).amount = (k.meter.al f).amount + a ∧ ((t.quad q).meter.al f).asked = false) ∧
    ((k.meter.al f).waiting = false → ∃ t, exec (.sliceRefusal 0 q f) s = .next t ∧ t.mem = s.mem ∧
      t.threads = s.threads ∧ t.fn f = fn ∧ ((t.quad q).meter.al f).refused = true ∧
      ((t.quad q).meter.al f).amount = (k.meter.al f).amount) ∧
    (s.meterPending = false → s.funcs = [(f, fn)] → s.service.refillAt + microsecond ≤ s.cycle → fn.st ≠ .none → fn.bal < (fn.cap : Int) * 256 →
      fn.boundary = false → ∃ t, exec .quotaRefill s = .next t ∧ t.mem = s.mem ∧ t.threads = s.threads ∧
        (t.fn f).bal = min ((fn.cap : Int) * 256) (fn.bal + (fn.rate : Int) * 256) ∧
        t.service.refillAt = s.service.refillAt + microsecond ∧ .quotaRefill ∈ t.agenda) ∧
    (∃ t, exec .telemetry s = .next t ∧ t.mem = s.mem ∧ t.threads = s.threads ∧ .telemetry ∈ t.agenda ∧
      ∀ n, (t.quad n).meter.posted = (s.quad n).meter.usage ∧ (t.quad n).meter.usage = (s.quad n).meter.usage) ∧
    (s.service.windowFrom + 1000 * microsecond ≤ s.cycle → ∃ t, exec .meterWindowClose s = .next t ∧ t.mem = s.mem ∧
      t.threads = s.threads ∧ t.service.windowFrom = s.service.windowFrom + 1000 * microsecond ∧
      (∀ n, (t.fn n).shareNow = 0 ∧ (t.fn n).quadUs = 0) ∧ .meterWindowClose ∈ t.agenda) ∧
    (∀ r, ∃ t, exec (.meterCalibration q r) s = .next t ∧ t.mem = s.mem ∧ t.threads = s.threads ∧
      192 ≤ (t.quad q).q ∧ (t.quad q).q ≤ 320 ∧ (192 ≤ r → r ≤ 320 → (t.quad q).q = r)) ∧
    (∀ d r, d < 900 → ∃ t, exec (.meterCalibration (14400 + d) r) s = .next t ∧ t.mem = s.mem ∧ t.threads = s.threads ∧
      t.quads = s.quads ∧ 192 ≤ (t.die d).q ∧ (t.die d).q ≤ 320 ∧ (192 ≤ r → r ≤ 320 → (t.die d).q = r)) ∧
    (∃ t, exec (.operatingPointChange q) s = .next t ∧ t.mem = s.mem ∧ t.threads = s.threads ∧
      (t.quad q).cur ≤ k.cap ∧ (s.quadRequest q ≤ k.cap → (t.quad q).cur = s.quadRequest q) ∧
      (t.quad q).cap = k.cap) ∧
    (1 < k.cap → ∃ t, exec (.powerCapStep q) s = .next t ∧ t.mem = s.mem ∧ t.threads = s.threads ∧
      (t.quad q).cap + 1 = k.cap ∧ t.service.actions = (q, 0) :: s.service.actions ∧
      .operatingPointChange q ∈ t.agenda) ∧
    (k.cap ≤ 1 → ∃ t, exec (.powerCapStep q) s = .next t ∧ t.mem = s.mem ∧ t.threads = s.threads ∧
      (t.quad q).cap = k.cap ∧ ∀ i g, i < 4 → s.nextGate (coreOfQuad q i) = some g →
        .slotGate (coreOfQuad q i * 16 + g) ∈ t.agenda) ∧
    (∀ (n : Nat) (as : List (Nat × Nat)),
      (s.service.actions = (n, 0) :: as → ∃ t, exec .powerRecovery s = .next t ∧ t.mem = s.mem ∧
        t.threads = s.threads ∧ (t.quad n).cap = (s.quad n).cap + 1 ∧ t.service.actions = as) ∧
      (s.service.actions = (n, 1) :: as → ∃ t, exec .powerRecovery s = .next t ∧ t.mem = s.mem ∧
        t.threads = s.threads ∧ .slotUngate n ∈ t.agenda ∧ t.service.actions = as)) ∧
    ∀ u, validThread u = true →
      (∃ t, exec (.slotGate u) s = .next t ∧ t.mem = s.mem ∧ t.held u = true ∧
        t.thr u = { s.thr u with latch := none } ∧ (∀ v, v ≠ u → t.thr v = s.thr v) ∧
        ∀ i, i < 16 → i ≠ slotOf u → (t.core (coreOf u)).gated.getLsbD i = (s.core (coreOf u)).gated.getLsbD i) ∧
      ∃ t, exec (.slotUngate u) s = .next t ∧ t.mem = s.mem ∧ t.threads = s.threads ∧
        (t.core (coreOf u)).gated.getLsbD (slotOf u) = false ∧ .slotFill (coreOf u) ∈ t.agenda ∧
        ∀ i, i < 16 → i ≠ slotOf u → (t.core (coreOf u)).gated.getLsbD i = (s.core (coreOf u)).gated.getLsbD i

/-! ## The optical edge between instructions -/

/-- R4, R428, R430 to R435, R438, R439. Where the optical edge is present: the calendar steps a slot, and a replacement takes
effect only at a period's end; a frame that failed its CRC stands first in its queue again and is recorded; a failed port
group is out of service; an ordered frame acts when it is the next of its panel and the next number is expected; a held bulk
frame goes on in a slot that reaches its panel, and a frame that came back in the next direct slot. A gang's slice boundary
starts a slice, its gate opens, notices are counted, and past the tolerance the slice is aborted with GATELATE. Completion
is concluded for: calendarSlotStart, calendarReplace, opticalFrameRetry, portGroupDown, opticalFrameReceive, relayForward,
notResidentResend, gangSliceBoundary, gateOpen, gangSliceAbort, gateNotice. -/
def Obligations.OpticalEvents : Prop :=
  ∀ (s : State) (f k : Nat) (fn : Func) (o : ODie), f < 512 → fn = s.fn f → k < 16 → o = s.odie k →
    (s.hasOptical = false → exec .calendarSlotStart s = .next s) ∧
    (s.hasOptical = true →
      (s.cal.began + 4800 ≤ s.cycle →
        ∃ t, exec .calendarSlotStart s = .next t ∧ t.mem = s.mem ∧ t.threads = s.threads ∧
          t.cal.began = s.cal.began + 4800 ∧ t.cal.slot = (if s.cal.s ≤ s.cal.slot + 1 then 0 else s.cal.slot + 1) ∧
          (s.cal.next = none ∨ s.cal.slot + 1 < s.cal.s → t.cal.entries = s.cal.entries ∧ t.cal.epoch = s.cal.epoch) ∧
          (∀ es, s.cal.next = some es → s.cal.s ≤ s.cal.slot + 1 → t.cal.entries = es ∧ t.cal.s = es.length / 16 ∧
            t.cal.next = none ∧ t.cal.epoch = (s.cal.epoch + 1) % 65536) ∧ .calendarSlotStart ∈ t.agenda) ∧
      (∀ es : List (Option Nat), es.length % 16 = 0 → 16 ≤ es.length → es.length ≤ 1024 →
        (∀ p, some p ∈ es → p < 128) →
        exec (.calendarReplace es) s = .next { s with cal := { s.cal with next := some es } }) ∧
      (∀ g : Frame, g.src = s.panelNo → ∃ t, exec (.opticalFrameRetry k g) s = .next t ∧ t.mem = s.mem ∧
        t.threads = s.threads ∧ (t.odie (odieFor g.dst)).egress = g :: (s.odie (odieFor g.dst)).egress ∧
        (t.errorCycle.odie k).bank.v = true) ∧
      (∃ t, exec (.portGroupDown k) s = .next t ∧ t.mem = s.mem ∧ t.threads = s.threads ∧ (t.odie k).up = false ∧
        (t.errorCycle.odie k).bank.v = true ∧ (t.odie k).egress = o.egress) ∧
      (∀ (g : Frame) (n d m : Nat), g.src < 128 → g.dst = s.panelNo → s.panelNo < 128 → g.src ≠ s.panelNo →
        o.up = true → g.seq = some n → g.cargo = .credit d m → (s.odie (odieFor g.src)).early = [] →
        (n = smGet 0 (s.odie (odieFor g.src)).expect g.src → n < 2 ^ 32 →
          ∃ t, exec (.opticalFrameReceive k g) s = .next t ∧ t.mem = s.mem ∧ t.threads = s.threads ∧
            smGet 0 (t.odie (odieFor g.src)).expect g.src = (n + 1) % 2 ^ 32 ∧
            (t.odie (odieFor g.src)).early = [] ∧ smGet 0 (t.odie (odieFor d)).credits (g.src * 128 + d) =
              smGet 0 (s.odie (odieFor d)).credits (g.src * 128 + d) + m) ∧
        (2 ^ 31 ≤ seqAhead (smGet 0 (s.odie (odieFor g.src)).expect g.src) n →
          exec (.opticalFrameReceive k g) s = .next s)) ∧
      (∀ g : Frame, o.bulk = [] → o.relay = [g] → (∃ u, s.transmit g.dst g.beats = some u) →
        ∃ t, exec (.relayForward k) s = .next t ∧ t.mem = s.mem ∧ t.threads = s.threads ∧ (t.odie k).relay = [] ∧
          (t.odie k).relayB = o.relayB - (g.beats - 1)) ∧
      (∀ g : Frame, o.notRes = [g] → s.groups s.cal.slot g.dst ≠ [] →
        ∃ t, exec (.notResidentResend k) s = .next t ∧ t.mem = s.mem ∧ t.threads = s.threads ∧ (t.odie k).notRes = [] ∧
          (t.odie k).egress = g :: o.egress ∧ (t.odie k).relayB = o.relayB - (g.beats - 1))) ∧
    (fn.isGang = true → fn.st = .active →
      (∀ g, g ≤ s.cycle → s.rivals f = [] → ∃ t, exec (.gangSliceBoundary f g) s = .next t ∧ t.mem = s.mem ∧
        .gateOpen f ∈ t.agenda ∧ .gangSliceAbort f ∈ t.agenda ∧ t.fn f =
          { fn with slice := (fn.slice + 1) % 65536, sliceG := g, notices := [], gateOpen := false, gateLate := false }) ∧
      (fn.gateLate = false → fn.gateOpen = false → s.cycle ≤ fn.sliceG + 1500 * fn.gangTol → s.rivals f = [] →
        s.busyOrder false f = false → ∃ t, exec (.gateOpen f) s = .next t ∧ t.mem = s.mem ∧ (t.fn f).gateOpen = true ∧
          ∀ q i, q ∈ s.quadsOf f → i < 4 → (t.core (coreOfQuad q i)).ganged = false) ∧
      (fn.gateLate = false → fn.gateOpen = false → fn.sliceG + 1500 * fn.gangTol < s.cycle →
        ∃ t, exec (.gangSliceAbort f) s = .next t ∧ (t.fn f).gateLate = true ∧ (t.fn f).gateOpen = false ∧
          ∀ q i, q ∈ s.quadsOf f → i < 4 → (t.core (coreOfQuad q i)).ganged = true)) ∧
    ∀ p, p < 128 → ∃ t, exec (.gateNotice f p) s = .next t ∧ t.mem = s.mem ∧ t.threads = s.threads ∧
      p ∈ (t.fn f).notices ∧ ∀ j ∈ fn.notices, j ∈ (t.fn f).notices

/-! ## The partition engine and the service die between instructions -/

/-- R94, R96, R101, R456 to R458, R461, R467. A placement pass holds the rectangle of a head that meets no refusal and
has no quad in the way; a free slot takes the next launch thread; a finished quad group goes to SCRUB, and the end of
the scrub leaves zero TCM and a FREE quad; a context that leaves for its nominal place goes when what its units have
accepted is complete, and a moved context runs again; a migration order ends and leaves the list, and a resumed function is
ACTIVE; changed rights reach every quad and answer who waits. Completion is concluded for: placementPass, slotFill,
quadGroupComplete, quadScrubEnd, liveMigrationDone, migrOrderEnd, rightsPropagated. -/
def Obligations.PartitionEvents : Prop :=
  ∀ (s : State) (c q f : Nat), validCore c = true → q < 14400 → f < 512 →
    (s.passOrder = [] → exec .placementPass s = .next s) ∧
    (∀ (l : Launch) (o : Nat), s.passOrder = [f] → (s.fn f).head = some l → l.fn = f → floorOf l.bytes = 0 →
      launchFixed l.bytes = false → s.floors + 2000 ≤ s.sustained →
      s.leaseClaim (s.fn f).lease f + launchW l.bytes * launchH l.bytes ≤ (s.lse (s.fn f).lease).qmax →
      (s.quadsOf f).length + launchW l.bytes * launchH l.bytes ≤ (s.fn f).qmax → s.bestOrigin f l.bytes = some (o, 0) →
      ∃ t, exec .placementPass s = .next t ∧ t.mem = s.mem ∧ t.threads = s.threads ∧ (t.fn f).st = .active ∧
        (∀ r ∈ rectQuads o (launchW l.bytes) (launchH l.bytes), ∃ scrub, (t.quad r).hold = .held f l.number scrub) ∧
        ∀ p, p < 4 → vget [] (t.fn f).queues p = (vget [] (s.fn f).queues p).erase l) ∧
    (∀ (l : Launch) (u : Nat), (s.core c).away = false → (s.core c).inbound = [] → (s.core c).spillCount = 0 →
      s.nextBirth c = some (l, u) → launchPaired l.bytes = false →
      ∃ t, exec (.slotFill c) s = .next t ∧ t.mem = s.mem ∧ (∀ v, v ≠ u → t.thr v = s.thr v) ∧
        ∀ v : Thread, v = t.thr u → v.st = .run ∧ v.pc = BitVec.ofNat 64 (dword l.bytes 0) ∧ v.fn = l.fn ∧
          v.tsr.pl = 0 ∧ v.reg 1 = BitVec.ofNat 64 l.origin ∧
          ∀ i, i < 4 → v.reg (8 + i) = BitVec.ofNat 64 (dword l.bytes (3 + i))) ∧
    (∀ n, (s.quad q).hold = .held f n false → s.groupDone q n = true →
      (∀ i, i < 4 → (s.core (coreOfQuad q i)).place.service = .inService) →
      ∃ t, exec (.quadGroupComplete q) s = .next t ∧ t.mem = s.mem ∧ (t.quad q).hold = .scrub none ∧
        .quadScrubEnd q ∈ t.agenda ∧ .placementPass ∈ t.agenda) ∧
    (∀ r, (s.quad q).hold = .scrub r → s.stricken q = false → (∀ p ∈ s.funcs, p.2.resume.contains q = false) →
      ∃ t, exec (.quadScrubEnd q) s = .next t ∧ (t.quad q).hold = .free ∧ (t.quad q).waits = [] ∧
        .placementPass ∈ t.agenda ∧ ∀ i a, i < 4 → sramAddr (coreOfQuad q i) 0 0 ≤ a →
          a < sramAddr (coreOfQuad q i) 0 0 + 2 ^ 18 → memGet t.mem a = 0) ∧
    ((s.core c).moving = true → (s.core c).leaving = false →
      ∃ t, exec (.liveMigrationDone c) s = .next t ∧ t.mem = s.mem ∧ (t.core c).moving = false ∧
        .forwardEntryRemove c ∈ t.agenda ∧ ∀ o ∈ s.orders, o.code < 2 → o.arg = c → .migrOrderEnd o.code c ∈ t.agenda) ∧
    ((s.core c).leaving = true → s.ordered 1 c = true → (s.core c).drained = true →
      ∃ t, exec (.liveMigrationDone c) s = .next t ∧ t.mem = s.mem ∧ t.threads = s.threads ∧ (t.core c).moving = true ∧
        (t.core c).leaving = false ∧ .liveMigrationDone c ∈ t.agenda ∧ ∀ p : Place, p = (t.core c).place →
          p.exception = false ∧ p.fwd = true ∧ p.vacated = s.cycle ∧ p.index = dieIdx c ∧
            p.epoch = ((s.core c).place.epoch + 1) % 65536) ∧
    (∀ (o a : Nat) (x : Order), s.orders.find? (fun y => y.code == o && y.arg == a) = some x →
      (o < 2 → (s.core a).moving = false → (s.core a).leaving = false → ∃ t, exec (.migrOrderEnd o a) s = .next t ∧ t.mem = s.mem ∧
        t.orders = s.orders.erase x) ∧
      (o = 3 → (s.fn a).saved = [] → ∃ t, exec (.migrOrderEnd o a) s = .next t ∧ t.mem = s.mem ∧
        (t.fn a).st = .active ∧ (t.fn a).resume = [] ∧ t.orders = s.orders.erase x)) ∧
    ∀ u, validThread u = true → ∃ t, exec (.rightsPropagated u) s = .next t ∧ t.mem = s.mem ∧
      (∀ r, (t.quad r).rights = []) ∧ ((s.thr u).st = .parked .engine → (s.thr u).op.fetch = false →
        (t.thr u).st = .run ∧ (t.thr u).op.reply = .data (s.thr u).op.got ∧ (t.thr u).g = (s.thr u).g)

/-- R468 to R478. A launch record in the host's window enters the window's queue, and its number is the window's
status; the last nonce byte starts a quote, which begins with the nonce; a firmware image is staged only when it
verifies and is no older than the fuses; PTVEC and a lease's LIVE are written; power-up runs the bring-up to its last
step, or to the one that fails. On the host link: an accepted write flit stores its payload, a read is answered with
the bytes that it names, an idle flit, a read reply and every accepted flit advance the expected SEQ, a NAK replays
what has not been acknowledged, a refused flit is answered by one NAK; the training states follow one another. Completion
is concluded for: launchWindowWrite, nonceWrite, quoteComplete, fwload, mgmtFieldWrite, powerUp, linkWrite, linkReadRequest,
linkReadReply, linkIdle, linkNak, linkFlitDiscarded, linkEnable, linkTrainDone, linkAlignDone, linkRetrain,
linkStateTimeout, linkFailed, linkResetRetry. -/
def Obligations.HostEvents : Prop :=
  ∀ (s : State) (l : Link), l = s.link →
    (∀ (f p : Nat) (bs rec : List Byte), f < 512 → p < 4 → bs.length = 64 → s.exists? f = true → s.fnRight f 0 = true →
      rec = bs.set 13 (BitVec.ofNat 8 (byteAt bs 13 / 4 * 4 + p)) → badRecord rec = false →
      (vget [] (s.fn f).queues p).length < 16 → launchW rec * launchH rec ≤ (s.fn f).qmax →
      launchW rec * launchH rec ≤ (s.lse (s.fn f).lease).qmax →
      ∃ t, exec (.launchWindowWrite f p bs) s = .next t ∧ t.mem = s.mem ∧ t.threads = s.threads ∧
        .placementPass ∈ t.agenda ∧ t.nextLaunch = (s.nextLaunch % 65536 + 1) % 65536 ∧
        smGet 0 t.service.launchStatus (f * 4 + p) = BitVec.ofNat 64 (s.nextLaunch % 65536) ∧
        ∃ e, vget [] (t.fn f).queues p = vget [] (s.fn f).queues p ++ [e] ∧ e.number = s.nextLaunch % 65536 ∧
          e.fn = f ∧ e.bytes = rec) ∧
    (∀ (i : Nat) (bs : List Byte), i < 48 → s.service.quoting = false → s.service.nonce.length = 48 →
      ∃ t, exec (.nonceWrite i bs) s = .next t ∧ t.mem = s.mem ∧ t.service.nonce.length = 48 ∧
        (∀ j, j < 48 → t.service.nonce.getD j 0 =
          if i ≤ j ∧ j < i + bs.length then bs.getD (j - i) 0 else s.service.nonce.getD j 0) ∧
        (48 ≤ i + bs.length → t.service.quoting = true ∧ .quoteComplete ∈ t.agenda) ∧
        (i + bs.length < 48 → t.service.quoting = false)) ∧
    (s.service.quoting = true → s.service.nonce.length = 48 → ∃ t, exec .quoteComplete s = .next t ∧ t.mem = s.mem ∧
      t.service.quoting = false ∧ t.service.quote.take 48 = s.service.nonce) ∧
    (∀ a, ∃ t, exec (.fwload a) s = .next t ∧ t.mem = s.mem ∧ t.threads = s.threads ∧
      s.service.fused ≤ t.service.fused ∧ (t.service.staged = s.service.staged ∨
        ∃ im v, t.service.staged = some (im, v) ∧ Config.verifies im = true ∧ s.service.fused ≤ v ∧
          t.service.fused = v)) ∧
    (∀ w, exec (.mgmtFieldWrite 8 w) s = .next { s with service := { s.service with ptvec := w } } ∧
      ∀ n, n < 32 → ∃ t, exec (.mgmtFieldWrite (0x1000 + 0x100 * n) w) s = .next t ∧
        t.mem = s.mem ∧ ((t.lse n).live = w.getLsbD 0)) ∧
    (∃ t, exec .powerUp s = .next t ∧ t.mem = [] ∧ t.threads = [] ∧ t.service.fused = s.service.fused ∧
      t.service.bootStep = (if 1 ≤ Config.failingStep s.fresh ∧ Config.failingStep s.fresh ≤ 9
        then Config.failingStep s.fresh - 1 else 9)) ∧
    (∀ (cw c f : List Byte) (n a len : Nat), l.st = .active → rsCorrect cw = some (c, n) → f = c.take 256 →
      l.acked = 0 → natAt f 2 2 = 0 → l.reads = [] → l.buf.length < 512 → len = byteAt f 5 → a = natAt f 8 8 →
      (l.refuses f = false →
        (∀ i, byteAt f 4 = 0 ∧ i = .linkIdle cw ∨ byteAt f 4 = 3 ∧ i = .linkReadReply cw →
          ∃ t, exec i s = .next t ∧ t.mem = s.mem ∧ t.threads = s.threads ∧ t.link.rxSeq = l.rxSeq + 1 ∧
            t.link.nakSent = false ∧ t.link.buf = l.buf ∧ t.link.out = l.out) ∧
        (∀ x, byteAt f 4 = 1 → s.locate (BitVec.ofNat 64 a) = some (.hbm, x) → s.noWaits → s.memOk →
          s.poisoned (hbmBase + x) len = false → 16 + len ≤ f.length →
          ∃ t, exec (.linkWrite cw) s = .next t ∧ t.link.rxSeq = l.rxSeq + 1 ∧
            (∀ j, j < len → memGet t.mem (hbmBase + x + j) = f.getD (16 + j) 0) ∧
            ∀ y, y < hbmBase + x ∨ hbmBase + x + len ≤ y → memGet t.mem y = memGet s.mem y) ∧
        (∀ x, byteAt f 4 = 2 → s.locate (BitVec.ofNat 64 a) = some (.hbm, x) →
          ∃ t g, exec (.linkReadRequest cw) s = .next t ∧ t.mem = s.mem ∧ t.link.rxSeq = l.rxSeq + 1 ∧
            t.link.buf = l.buf ++ [g] ∧ t.link.reads = [] ∧ t.link.txSeq = l.txSeq + 1 ∧ byteAt g 4 = 3 ∧
            (g.drop 16).take len = s.rd (hbmBase + x) len) ∧
        (byteAt f 4 = 4 → l.buf ≠ [] → l.replaysOfOne < 15 → ∃ t, exec (.linkNak cw) s = .next t ∧ t.mem = s.mem ∧
          t.link.buf = l.buf ∧ t.link.out = l.out ++ l.buf.map rsEncode ∧ t.link.st = .active)) ∧
      (l.refuses f = true → l.nakSent = false → ∃ t g, exec (.linkFlitDiscarded cw) s = .next t ∧ t.mem = s.mem ∧
        t.link.rxSeq = l.rxSeq ∧ t.link.nakSent = true ∧ t.link.buf = l.buf ++ [g] ∧ byteAt g 4 = 4)) ∧
    (l.st = .reset → ∃ t, exec .linkEnable s = .next t ∧ t.mem = s.mem ∧ t.link.st = .train ∧
      t.link.stateSince = s.cycle ∧ .linkStateTimeout ∈ t.agenda ∧ .linkFailed ∈ t.agenda) ∧
    (l.st = .train → ∃ t, exec .linkTrainDone s = .next t ∧ t.mem = s.mem ∧ t.link.st = .align ∧
      t.link.stateSince = s.cycle ∧ .linkStateTimeout ∈ t.agenda) ∧
    (l.st = .align → l.reads = [] → ∃ t, exec .linkAlignDone s = .next t ∧ t.mem = s.mem ∧ t.link.st = .active ∧
      t.link.retraining = false ∧ t.link.failed = false ∧ t.link.out = l.out ++ l.buf.map rsEncode) ∧
    (l.st = .active → ∃ t, exec .linkRetrain s = .next t ∧ t.mem = s.mem ∧ t.link.st = .train ∧
      t.link.retraining = true ∧ t.link.buf = l.buf) ∧
    (l.st = .train ∨ l.st = .align → (l.stateSince + l.st.limit < s.cycle → ∃ t, exec .linkStateTimeout s = .next t ∧
        t.mem = s.mem ∧ t.link.st = .train ∧ t.link.stateSince = s.cycle) ∧
      (l.since + 150000000 ≤ s.cycle → ∃ t, exec .linkFailed s = .next t ∧ t.mem = s.mem ∧ t.link.st = .reset ∧
        t.link.failed = true ∧ .linkResetRetry ∈ t.agenda)) ∧
    (l.st = .reset → l.failed = true → l.stateSince + 1500000 ≤ s.cycle → ∃ t, exec .linkResetRetry s = .next t ∧
      t.mem = s.mem ∧ t.link.st = .train ∧ t.link.stateSince = s.cycle)

/-! ## Homes, replies and waits between instructions -/

/-- R91, R169, R170, R177, R180, R190, R305, R307 to R310. At a core whose context is present: a load that a thread is parked for performs at its unit and
the thread goes on with the bytes; a request that has come to a core's TCM performs there and is answered; a posted
STF fills an empty word; a reply wakes the thread whose generation it names, and any other is stale; a timeout ends
the access with the trap TIMEOUT under the next generation; an item past the fabric lifetime is discarded; a queued
notice makes the wait one of reason FE; a confirmed grant of a full word empties it and gives its bytes; a re-probe
that meets room is tabled; a posted STF past its lifetime leaves the wait table, and an import its buffer. Completion is
concluded for: accessReply, remoteRequestAtHome, feArrival, remoteReply, remoteTimeout, fabricLifetimeExpiry,
feQueuedNotice, feGrantConfirm, feReprobe, postedStfExpire, importEntryExpiry. -/
def Obligations.HomeEvents : Prop :=
  ∀ (s : State) (u c : Nat) (th : Thread), validThread u = true → c = coreOf u → th = s.thr u → th.op.fetch = false →
    (s.core c).munit = none → (s.core c).Present →
    (∀ (a : Access) (x n d : Nat), s.noWaits → th.st = .parked .mem ∨ th.st = .parked .engine → th.op.todo = [a] →
      th.op.phase = 0 → a.dest = .tcm c ∨ a.dest = .dsram d ∧ d = dieCore c → a.op = .load x n →
      2 ≤ th.tsr.pl.toNat ∨ s.quotaOk (quadOf c) th.fn = true → 2 ≤ th.tsr.pl.toNat ∨ s.ownerOk th.fn a.dest x = true →
      s.poisoned x n = false →
      ∃ t, exec (.accessReply u) s = .next t ∧ t.mem = s.mem ∧ (t.thr u).st = .run ∧ (t.thr u).op.reply = .ok ∧
        (t.thr u).op.got = th.op.got ++ s.rd x n ∧ (t.thr u).op.todo = [] ∧ (t.thr u).g = th.g ∧ (t.thr u).pc = th.pc) ∧
    (∀ (n k x e : Nat) (r : Request), s.noWaits → s.item? n = some (.request r) → r.unit = .tcm e →
      (s.core e).Present → r.op = .load x k →
      r.thread < foreignBase → 2 ≤ r.level ∨ s.ownerOk r.fn (.tcm e) x = true → s.poisoned x k = false →
      ∃ t m, exec (.remoteRequestAtHome n) s = .next t ∧ t.mem = s.mem ∧ t.threads = s.threads ∧
        (m, .answer r.thread r.gen (.data (s.rd x k)) r.replay s.cycle) ∈ t.net ∧ .remoteReply m ∈ t.agenda) ∧
    (∀ (i q d : Nat) (e : JEntry), s.noWaits → s.entryAt? c i q = some e → e.unserved = true → e.queued = false →
      e.left = true ∨ s.mayPerform e = true ∧ s.mayInject c e.fn e.level = true → e.kind = .stf → e.unit = .tcm d →
      (s.core d).Present → 2 ≤ e.level ∨ s.ownerOk e.fn (.tcm d) e.addr = true → s.isFull e.addr = false → s.memOk →
      ∃ t b, exec (.feArrival c i q) s = .next t ∧ t.threads = s.threads ∧ t.isFull e.addr = true ∧
        (∀ j, j < e.payload.length → memGet t.mem (e.addr + j) = e.payload.getD j 0) ∧
        (∀ a, a < e.addr ∨ e.addr + e.payload.length ≤ a → memGet t.mem a = memGet s.mem a) ∧
        t.entryAt? c i q = some b ∧ b.performed = true ∧ b.left = true ∧ .journalAck c i e.seq ∈ t.agenda) ∧
    (∀ (n gen since : Nat) (bs : List Byte), s.item? n = some (.answer u gen (.data bs) false since) → u < 2 ^ 20 →
      (∀ a, th.gen.toNat = gen → th.st = .parked .remote → th.op.phase ≠ 0 → th.op.todo = [a] →
        ∃ t, exec (.remoteReply n) s = .next t ∧ t.mem = s.mem ∧ (t.thr u).st = .run ∧ (t.thr u).op.reply = .ok ∧
          (t.thr u).op.got = th.op.got ++ bs ∧ (t.thr u).g = th.g ∧ (t.thr u).pc = th.pc) ∧
      (th.gen.toNat ≠ gen → ∃ t, exec (.remoteReply n) s = .next t ∧ t.mem = s.mem ∧ (t.thr u).st = th.st ∧
        (t.thr u).g = th.g ∧ (t.core c).stalereply = (s.core c).stalereply + 1)) ∧
    (∀ (e d : Nat), th.gen.toNat = e → th.st = .parked .remote → th.op.phase ≠ 0 → th.op.deadline = some d →
      d ≤ s.cycle → ∃ t x, exec (.remoteTimeout u e) s = .next t ∧ t.mem = s.mem ∧ (t.thr u).st = .run ∧
        (t.thr u).op.reply = .trap x ∧ x.code = 0x0B ∧ (t.thr u).gen = th.gen + 1 ∧ (t.thr u).pc = th.pc) ∧
    (∀ (n : Nat) (it : Item), s.item? n = some it → s.itemSince it + 6000000 ≤ s.cycle →
      exec (.fabricLifetimeExpiry n) s = .next (s.dropItem n)) ∧
    (∀ (e : Nat) (a : Access) (x : Nat) (take : Bool), th.gen.toNat = e → th.st = .parked .remote → th.op.phase ≠ 0 →
      th.op.todo = [a] → a.op = .drain take x →
      ∃ t, exec (.feQueuedNotice u e) s = .next t ∧ t.mem = s.mem ∧ (t.thr u).st = .parked .fe ∧ (t.thr u).pc = th.pc ∧
        (t.thr u).g = th.g) ∧
    (∀ (e q : Nat) (w : WaitEntry) (take : Bool), s.heldGrant u e = some (q, w) → u < foreignBase →
      s.agenda.contains (.feQueuedNotice u e) = false → th.gen.toNat = e → th.st = .parked .fe → th.op.phase ≠ 0 →
      w.kind = .drain take → s.poison.contains w.addr = false →
      (∀ k, (s.quad k).waits = (if k = q then [w] else []) ∧ (s.quad k).tickets = []) →
      ∃ t, exec (.feGrantConfirm u e) s = .next t ∧ t.mem = s.mem ∧ (t.thr u).st = .run ∧
        (t.thr u).op.reply = .data (s.rd w.addr 8) ∧ (t.quad q).waits = [] ∧
        t.isFull w.addr = (s.isFull w.addr && !take)) ∧
    (∀ (q : Nat) (w : WaitEntry), q < 14400 → (s.quad q).tickets = [w] → (s.quad q).waits = [] →
      homeQuad (unitAt w.addr) w.addr = q → w.kind = .drain true → s.isFull w.addr = false →
      ∃ t, exec (.feReprobe q) s = .next t ∧ t.mem = s.mem ∧ t.threads = s.threads ∧ (t.quad q).tickets = [] ∧
        (t.quad q).waits = [w]) ∧
    (∀ (i q k : Nat) (w : WaitEntry), s.quads.findSome? (fun p =>
        ((p.2.waits ++ p.2.tickets).find? (isEntry c i q)).map fun w => (p.1, w)) = some (k, w) →
      (∀ e, s.entryAt? c i q = some e → e.since + 6000000 ≤ s.cycle) →
      (s.entryAt? c i q = none → w.since + 6000000 ≤ s.cycle) →
      ∃ t, exec (.postedStfExpire c i q) s = .next t ∧
        ∀ v ∈ (t.quad k).waits ++ (t.quad k).tickets, isEntry c i q v = false) ∧
    ∀ (k f g : Nat) (x : ImportEntry), k < 16 → (s.odie k).imports = [x] → x.fn = f → x.granule = g →
      (x.ends ≤ s.cycle → ∃ t, exec (.importEntryExpiry k f g) s = .next t ∧ t.mem = s.mem ∧ t.threads = s.threads ∧
        (t.odie k).imports = []) ∧
      (s.cycle < x.ends → ∃ t, exec (.importEntryExpiry k f g) s = .next t ∧ (t.odie k).imports = [x] ∧
        .importEntryExpiry k f g ∈ t.agenda)

/-! ## Threads between issues -/

/-- R38, R41, R69, R89 to R91, R94, R95, R100, R107, R109 to R113, R139, R143, R144, R199, R216, R483. What happens to
a thread that runs by itself at a core whose context runs: a fetched line enters its buffer, with the next one ahead;
a replay executes the staggered instruction in a bubble or is placed after 16 cycles; its fault enters the handler
with TCAUSE.RPL; the vector unit runs a queued word and releases a waiting VQSPLIT; a user interrupt enters UTVEC;
PARK, a kill and TEXIT end; a migrated thread stands on its new core; a CSR read of TSR resumes; and the writes of
EVTHREAD, TEPC, SPILLQ, UIPEND and RNDLFSR leave what the spec says. Completion is concluded for: fetchLineArrival,
fetchAhead, replayIssue, replayForcedPlace, replayFaultDelivery, vectorUnitStart, vqsplitRelease, userInterruptEntry,
sleepDeadline, killScrubEnd, texitDrainDone, migrateArrival, tsrAccessResume, evthreadWrite, tepcWrite, spillqWrite,
uipendWrite, rndlfsrWrite. -/
def Obligations.ThreadEvents : Prop :=
  ∀ (s : State) (u c : Nat) (th : Thread), validThread u = true → c = coreOf u → th = s.thr u → th.tsr.pair = false →
    (s.core c).Present → s.streaming u = false →
    (th.op.fetch = true → th.op.reply = .ok → ∃ t, exec (.fetchLineArrival u) s = .next t ∧ t.mem = s.mem ∧
      (t.thr u).st = .run ∧ (t.thr u).pc = th.pc ∧ (t.thr u).g = th.g ∧
      (t.thr u).fbuf = th.fbuf.getLast?.toList ++ [lineFrom (lineOf th.op.ea.toNat) th.op.got]) ∧
    (∀ (ea x : Nat) (l : Line) (da : Word), th.heldLine (ea - 64) = some l → th.heldLine ea = none →
      th.ahead = none → s.noWaits → s.segCheck th (quadOf c) (BitVec.ofNat 64 ea) 4 rightX = .ok (da, .tcm c, x) →
      2 ≤ th.tsr.pl.toNat ∨ s.ownerOk th.fn (.tcm c) x = true → s.poisoned x 64 = false →
      s.mayInject c th.fn th.tsr.pl.toNat = true →
      ∃ t, exec (.fetchAhead u ea) s = .next t ∧ t.mem = s.mem ∧ (t.thr u).st = th.st ∧ (t.thr u).pc = th.pc ∧
        (t.thr u).heldLine ea = some (lineFrom ea (s.rd x 64)) ∧ (t.thr u).heldLine (ea - 64) = some l) ∧
    (∀ (i : Instr) (d e : BitVec 5) (cap : Capture) (r : Rep), r = th.rep → r.live = true → th.fly = none →
      th.repFault = none → (s.core c).mayPlace = true → r.caps = [cap] → r.j = 0 → cap.insn = .tzero d → cap.word = encode (.tzero d) → cap.pfx = none → th.st = .run →
      e = stagT (r.i * r.s) d → ((s.core c).tile e.toNat).desc.ok = true → (s.core c).filling e.toNat = false → (s.core c).unitIdle = true →
      (s.core c).morphan = none → s.mayAccept u = true →
      (i = .replayIssue u ∧ s.bubble c = true ∨ i = .replayForcedPlace u ∧ r.since + 16 ≤ s.cycle) →
      ∃ t, exec i s = .next t ∧ t.mem = s.mem ∧ (t.thr u).pc = th.pc ∧ (t.thr u).st = .run ∧ (t.thr u).g = th.g ∧ (t.thr u).rep.i = r.i + 1 ∧ (t.thr u).fly = none ∧
        ((t.thr u).rep.live = true ↔ r.i + 1 < r.k) ∧ ((t.core c).tile e.toNat).data = List.replicate 2048 0 ∧
        ((t.core c).tile e.toNat).pois = false ∧ (t.core c).munit = none) ∧
    (∀ f : Cause, th.repFault = some f → th.fresh = true → th.tsr.th = false →
      ∃ t, exec (.replayFaultDelivery u) s = .next t ∧ t.mem = s.mem ∧ ∀ v : Thread, v = t.thr u → v.tepc = th.pc ∧
        v.tval = f.tval ∧ v.tcause.getLsbD 16 = true ∧ v.tsr.th = true ∧ v.repFault = none ∧ v.rep = th.rep ∧ v.g = th.g) ∧
    (∀ (q i : Nat) (o : UnitOp) (d a b : BitVec 3), q < 14400 → i < 4 → c = coreOfQuad q i → (s.core c).vq = [o] →
      (∀ j, j < 4 → (s.core (coreOfQuad q j)).vwait = [] ∧ (j ≠ i → (s.core (coreOfQuad q j)).vq = [])) →
      o.thread = u → o.insn = .vmand d a b → o.word = encode (.vmand d a b) → d.toNat < 4 → a.toNat < 4 → b.toNat < 4 →
      th.tsr.pp = false → th.replaying = false → th.st = .parked .engine →
      (s.core c).ctxs.toList.any (fun x => x.bound && !x.susp && x.owner == u && x.kind == 1) = false →
      ∃ t, exec (.vectorUnitStart q) s = .next t ∧ t.mem = s.mem ∧ (t.core c).vq = [] ∧
        ∀ v : Thread, v = t.thr u → v.st = .run ∧ v.pc = th.pc + 4 ∧ v.g = th.g ∧ v.v = th.v ∧
          v.mask d.toNat = th.mask a.toNat &&& th.mask b.toNat) ∧
    (∀ (q : Nat) (o : UnitOp) (d a k m : BitVec 3), q < 14400 → quadOf c = q → (s.core (coreOfQuad q 3)).oqWait = [o] →
      (s.core (coreOfQuad q 3)).oq.length ≤ 192 → o.thread = u → o.replay = false → o.insn = .vqsplit d a k m →
      o.word = encode (.vqsplit d a k m) → th.op.insn = some (.vqsplit d a k m) → th.op.phase = 2 → th.tsr.pp = false →
      th.replaying = false → th.st = .parked .engine → th.checkFail (vecReads (.vqsplit d a k m) th) = none →
      (s.core c).ctxs.toList.any (fun x => x.bound && !x.susp && x.owner == u && x.kind == 1) = false →
      ∃ t, exec (.vqsplitRelease q) s = .next t ∧ t.mem = s.mem ∧ (t.core (coreOfQuad q 3)).oqWait = [] ∧
        (t.thr u).st = .run ∧ (t.thr u).pc = th.pc + 4 ∧
        (s.core (coreOfQuad q 3)).oq.length ≤ (t.core (coreOfQuad q 3)).oq.length) ∧
    (∀ (e : Event) (rest : List Event), takeEvent th.uienable th.fifo = some (e, rest) → th.deliverable = true →
      s.held u = false → th.fresh = true → ∃ t, exec (.userInterruptEntry u) s = .next t ∧ t.mem = s.mem ∧
        ∀ v : Thread, v = t.thr u → v.pc = th.utvec ∧ v.uiepc = th.pc ∧ v.uipfx = th.pfxsave ∧ v.fifo = rest ∧
          v.tsr.uia = true ∧ v.tsr.pp = false ∧ v.tsr.pl = th.tsr.pl ∧ v.uixid = BitVec.ofNat 64 e.id ∧
          (v.uicause.extractLsb' 0 4).toNat = e.cls % 16 ∧ v.st = .run ∧ v.g = th.g) ∧
    (∀ n, th.st = .parked .sleep → th.op.deadline = some n → n ≤ s.cycle → th.tsr.pp = false →
      ∃ t, exec (.sleepDeadline u) s = .next t ∧ t.mem = s.mem ∧ (t.thr u).st = .run ∧ (t.thr u).pc = th.pc + 4 ∧
        (t.thr u).g = th.g) ∧
    (th.st = .killed → th.op.aux ≠ 0x23 → ∃ t, exec (.killScrubEnd u) s = .next t ∧ t.mem = s.mem ∧
      (t.thr u).st = .free ∧ (t.thr u).gen = th.gen ∧ .slotFill c ∈ t.agenda) ∧
    (th.st = .parked .engine → th.op.aux = 0x54 → s.exitReady u = true → th.fifo = [] →
      ∃ t, exec (.texitDrainDone u) s = .next t ∧ t.mem = s.mem ∧ (t.thr u).st = .free ∧ (t.thr u).gen = th.gen ∧
        .slotFill c ∈ t.agenda) ∧
    (∀ (e i : Nat), validCore e = true → th.st = .parked .migrate → th.op.again = true → th.op.aux = e →
      (s.core e).away = false → (s.core e).inbound = [] ∨ (s.core e).inbound = [u] → s.engineIdle u = true →
      s.freeSlot e false = some i →
      th.present = false →
      ∃ t, exec (.migrateArrival u e) s = .next t ∧ t.mem = s.mem ∧ (t.thr u).st = .free ∧ (t.core e).inbound = [] ∧
        ∀ v : Thread, v = t.thr (e * 16 + i) → v.st = .run ∧ v.pc = th.pc ∧ v.g = th.g ∧ v.v = th.v ∧ v.tsr = th.tsr) ∧
    (∀ d : BitVec 5, th.st = .parked .engine → th.op = { word := encode (.csrr d 0) } → s.engineIdle u = true →
      th.tsr.pp = false → ∃ t, exec (.tsrAccessResume u) s = .next t ∧ t.mem = s.mem ∧ (t.thr u).st = .run ∧
        (t.thr u).pc = th.pc + 4 ∧
        ∀ r, (t.thr u).reg r = if r = d.toNat ∧ r ≠ 0 then th.tsr.word else th.reg r) ∧
    ∀ w : Word,
      ((s.fn th.fn).evqueue = [] → ∃ t, exec (.evthreadWrite u w) s = .next t ∧ t.mem = s.mem ∧
        t.threads = s.threads ∧ (t.fn th.fn).evthread = w &&& 0x80000000000FFFFF#64) ∧
      exec (.tepcWrite u w) s = .next (s.modThr u fun th => { th with tepc := w, sigV := false }) ∧
      ((s.core c).spillCount = 0 → (∃ t, exec (.spillqWrite u w) s = .next t ∧ t.mem = s.mem ∧ t.threads = s.threads ∧
        (t.core c).spillCount = 0 ∧ ((w.extractLsb' 32 4).toNat < 12 →
          (t.core c).spillSize = (w.extractLsb' 32 4).toNat ∧ (t.core c).spillBase = w.extractLsb' 7 11) ∧
        (12 ≤ (w.extractLsb' 32 4).toNat → t = s))) ∧
      (∃ t, exec (.uipendWrite u w) s = .next t ∧ t.mem = s.mem ∧ (t.thr u).uienable = w.extractLsb' 16 16 ∧
        (t.thr u).uiovf = (th.uiovf && w.getLsbD 32) ∧ (t.thr u).fifo = th.fifo ∧ (t.thr u).g = th.g) ∧
      ∃ t, exec (.rndlfsrWrite u w) s = .next t ∧ t.mem = s.mem ∧ (t.thr u).g = th.g ∧
        (t.thr u).rndlfsr = (if w.setWidth 32 = 0#32 then 1 else w.setWidth 32)
end

