-- ==== Sys2Proof/Laws/Data.lean ====
section
/-! SUPPORT. Sparse maps and register files: what is read after a write. -/

namespace Sys2Proof.Machine

variable {α : Type}

theorem smGet_smDrop_same (d : α) (m : SMap α) (k : Nat) : smGet d (smDrop m k) k = d := by
  induction m with
  | nil => rfl
  | cons p m ih =>
    obtain ⟨k', v⟩ := p
    by_cases h : k' = k <;> simp [smDrop, smGet, h, ih]

theorem smGet_smDrop_other (d : α) (m : SMap α) {k j : Nat} (h : j ≠ k) : smGet d (smDrop m k) j = smGet d m j := by
  induction m with
  | nil => rfl
  | cons p m ih =>
    obtain ⟨k', v⟩ := p
    by_cases h1 : k' = k
    · subst h1
      have : ¬k' = j := fun e => h e.symm
      simp [smDrop, smGet, ih, this]
    · simp [smDrop, smGet, h1, ih]

theorem smGet_smPut_same (d : α) (m : SMap α) (k : Nat) (v : α) (h : ∀ p ∈ m, p.1 ≠ k) :
    smGet d (smPut m k v) k = v := by
  induction m with
  | nil => simp [smPut, smGet]
  | cons p m ih =>
    obtain ⟨k', v'⟩ := p
    have hk : k' ≠ k := h (k', v') (by simp)
    by_cases h1 : k' < k
    · simp [smPut, h1, smGet, hk, ih (fun q hq => h q (by simp [hq]))]
    · simp [smPut, h1, smGet]

theorem smGet_smPut_other (d : α) (m : SMap α) (v : α) {k j : Nat} (h : j ≠ k) :
    smGet d (smPut m k v) j = smGet d m j := by
  induction m with
  | nil => simp [smPut, smGet, h.symm]
  | cons p m ih =>
    obtain ⟨k', v'⟩ := p
    by_cases h1 : k' < k
    · simp [smPut, h1, smGet, ih]
    · simp [smPut, h1, smGet, h.symm]

theorem smDrop_keys (m : SMap α) (k : Nat) : ∀ p ∈ smDrop m k, p.1 ≠ k := by
  induction m with
  | nil => simp [smDrop]
  | cons q m ih =>
    obtain ⟨k', v⟩ := q
    by_cases h : k' = k
    · simpa [smDrop, h] using ih
    · intro p hp
      simp only [smDrop, h, if_false, List.mem_cons] at hp
      rcases hp with rfl | hp
      · exact h
      · exact ih p hp

/-- A map holds what was set. -/
@[simp] theorem smGet_smSet_same [DecidableEq α] (d : α) (m : SMap α) (k : Nat) (v : α) :
    smGet d (smSet d m k v) k = v := by
  by_cases h : v = d
  · simp [smSet, h, smGet_smDrop_same]
  · simp [smSet, h, smGet_smPut_same d _ k v (smDrop_keys m k)]

/-- A map keeps every other entry. -/
theorem smGet_smSet_other [DecidableEq α] (d : α) (m : SMap α) (v : α) {k j : Nat} (h : j ≠ k) :
    smGet d (smSet d m k v) j = smGet d m j := by
  by_cases h1 : v = d
  · simp [smSet, h1, smGet_smDrop_other d m h]
  · simp [smSet, h1, smGet_smPut_other d _ v h, smGet_smDrop_other d m h]

/-- Setting twice is setting once. -/
theorem smDrop_smPut (m : SMap α) (k : Nat) (v : α) (h : ∀ p ∈ m, p.1 ≠ k) : smDrop (smPut m k v) k = m := by
  induction m with
  | nil => simp [smPut, smDrop]
  | cons p m ih =>
    obtain ⟨k', v'⟩ := p
    have hk : k' ≠ k := h (k', v') (by simp)
    have hm : ∀ q ∈ m, q.1 ≠ k := fun q hq => h q (by simp [hq])
    have hd : smDrop m k = m := by
      clear ih h
      induction m with
      | nil => rfl
      | cons q m ih =>
        obtain ⟨a, b⟩ := q
        have : a ≠ k := hm (a, b) (by simp)
        simp [smDrop, this, ih (fun q hq => hm q (by simp [hq]))]
    by_cases h1 : k' < k
    · simp [smPut, h1, smDrop, hk, ih hm]
    · simp [smPut, h1, smDrop, hk, hd]

theorem smDrop_smDrop (m : SMap α) (k : Nat) : smDrop (smDrop m k) k = smDrop m k := by
  induction m with
  | nil => rfl
  | cons p m ih =>
    obtain ⟨k', v⟩ := p
    by_cases h : k' = k <;> simp [smDrop, h, ih]

@[simp] theorem smSet_smSet [DecidableEq α] (d : α) (m : SMap α) (k : Nat) (v w : α) :
    smSet d (smSet d m k v) k w = smSet d m k w := by
  have h : smDrop (smSet d m k v) k = smDrop m k := by
    by_cases hv : v = d
    · simp [smSet, hv, smDrop_smDrop]
    · simp [smSet, hv, smDrop_smPut _ k v (smDrop_keys m k)]
  show (if w = d then smDrop (smSet d m k v) k else smPut (smDrop (smSet d m k v) k) k w) = _
  rw [h, smSet]

/-! ## Threads, cores and the other parts of the state -/

@[simp] theorem thr_setThr_same (s : State) (t : Nat) (th : Thread) : (s.setThr t th).thr t = th :=
  smGet_smSet_same ..

theorem thr_setThr_other (s : State) (th : Thread) {t u : Nat} (h : u ≠ t) : (s.setThr t th).thr u = s.thr u :=
  smGet_smSet_other _ _ _ h

@[simp] theorem setThr_setThr (s : State) (t : Nat) (a b : Thread) : (s.setThr t a).setThr t b = s.setThr t b := by
  show State.mk .. = State.mk ..
  congr 1
  exact smSet_smSet ..

@[simp] theorem thr_modThr_same (s : State) (t : Nat) (f : Thread → Thread) : (s.modThr t f).thr t = f (s.thr t) :=
  thr_setThr_same ..

theorem thr_modThr_other (s : State) (f : Thread → Thread) {t u : Nat} (h : u ≠ t) :
    (s.modThr t f).thr u = s.thr u :=
  thr_setThr_other s _ h

@[simp] theorem modThr_modThr (s : State) (t : Nat) (f g : Thread → Thread) :
    (s.modThr t f).modThr t g = s.modThr t fun th => g (f th) := by
  unfold State.modThr
  rw [thr_setThr_same, setThr_setThr]

@[simp] theorem core_modCore_same (s : State) (c : Nat) (f : Core → Core) : (s.modCore c f).core c = f (s.core c) :=
  smGet_smSet_same ..

theorem core_modCore_other (s : State) (f : Core → Core) {c e : Nat} (h : e ≠ c) :
    (s.modCore c f).core e = s.core e :=
  smGet_smSet_other _ _ _ h

@[simp] theorem quad_modQuad_same (s : State) (q : Nat) (f : Quad → Quad) : (s.modQuad q f).quad q = f (s.quad q) :=
  smGet_smSet_same ..

theorem quad_modQuad_other (s : State) (f : Quad → Quad) {q r : Nat} (h : r ≠ q) :
    (s.modQuad q f).quad r = s.quad r :=
  smGet_smSet_other _ _ _ h

@[simp] theorem die_modDie_same (s : State) (d : Nat) (f : Die → Die) : (s.modDie d f).die d = f (s.die d) :=
  smGet_smSet_same ..

theorem die_modDie_other (s : State) (f : Die → Die) {d e : Nat} (h : e ≠ d) : (s.modDie d f).die e = s.die e :=
  smGet_smSet_other _ _ _ h

@[simp] theorem odie_modOdie_same (s : State) (d : Nat) (f : ODie → ODie) : (s.modOdie d f).odie d = f (s.odie d) :=
  smGet_smSet_same ..

@[simp] theorem fn_modFn_same (s : State) (f : Nat) (g : Func → Func) : (s.modFn f g).fn f = g (s.fn f) :=
  smGet_smSet_same ..

theorem fn_modFn_other (s : State) (g : Func → Func) {f e : Nat} (h : e ≠ f) : (s.modFn f g).fn e = s.fn e :=
  smGet_smSet_other _ _ _ h

@[simp] theorem lse_modLse_same (s : State) (l : Nat) (g : Lease → Lease) : (s.modLse l g).lse l = g (s.lse l) :=
  smGet_smSet_same ..

theorem lse_modLse_other (s : State) (g : Lease → Lease) {l e : Nat} (h : e ≠ l) : (s.modLse l g).lse e = s.lse e :=
  smGet_smSet_other _ _ _ h

@[simp] theorem bar_modBar_same (s : State) (x : Nat) (g : Barrier → Barrier) : (s.modBar x g).bar x = g (s.bar x) :=
  smGet_smSet_same ..

theorem bar_modBar_other (s : State) (g : Barrier → Barrier) {x y : Nat} (h : y ≠ x) :
    (s.modBar x g).bar y = s.bar y :=
  smGet_smSet_other _ _ _ h

/-! ## Scalar registers (R116) -/

/-- g0 reads zero. -/
@[simp] theorem reg_zero (th : Thread) : th.reg 0 = 0 := by simp [Thread.reg]

/-- A write to g0 is discarded. -/
@[simp] theorem put_zero (th : Thread) (v : Word) : th.put 0 v = th := by simp [Thread.put]

theorem reg_put_same (th : Thread) {r : Nat} (v : Word) (h0 : r ≠ 0) (h : r < 32) : (th.put r v).reg r = v := by
  simp [Thread.put, Thread.reg, h0, List.getD_eq_getElem?_getD, h]

theorem reg_put_other (th : Thread) {r j : Nat} (v : Word) (h : j ≠ r) : (th.put r v).reg j = th.reg j := by
  by_cases h0 : r = 0
  · simp [Thread.put, h0]
  · by_cases hj : j = 0
    · simp [Thread.reg, hj]
    · simp [Thread.put, Thread.reg, h0, hj, List.getD_eq_getElem?_getD, h.symm]

end Sys2Proof.Machine
end

