-- ==== Sys2Proof/Laws/Memory.lean ====
section
/-! SUPPORT. Memory: reads after writes, and the canonical form that every operation keeps. -/

namespace Sys2Proof.Machine

/-! ## The canonical form -/

/-- The form by its two parts: addresses rise from a bound, no zero is listed. -/
def Memory.from (lo : Nat) : List Host.Cell → Prop
  | [] => True
  | (a, v) :: m => lo ≤ a ∧ v ≠ 0 ∧ Memory.from (a + 1) m

theorem Memory.from_mono {lo hi : Nat} (h : lo ≤ hi) : ∀ m : List Host.Cell, Memory.from hi m → Memory.from lo m
  | [], _ => trivial
  | (_, _) :: _, ⟨h1, h2, h3⟩ => ⟨le_trans h h1, h2, h3⟩

theorem Memory.wf_cons (a : Nat) (v : Byte) (m : List Host.Cell) :
    Memory.wf ((a, v) :: m) = true ↔ v ≠ 0 ∧ Memory.from (a + 1) m := by
  induction m generalizing a v with
  | nil => simp [Memory.wf, Memory.from]
  | cons p m ih =>
    obtain ⟨b, w⟩ := p
    have := ih b w
    simp only [Memory.wf, Bool.and_eq_true, bne_iff_ne, decide_eq_true_eq, this, Memory.from]
    constructor
    · rintro ⟨⟨h1, h2⟩, h3, h4⟩
      exact ⟨h1, h2, h3, h4⟩
    · rintro ⟨h1, h2, h3, h4⟩
      exact ⟨⟨h1, h2⟩, h3, h4⟩

theorem Memory.wf_iff (m : List Host.Cell) : Memory.wf m = true ↔ Memory.from 0 m := by
  cases m with
  | nil => simp [Memory.wf, Memory.from]
  | cons p m =>
    obtain ⟨a, v⟩ := p
    rw [Memory.wf_cons]
    simp [Memory.from]

theorem memPut_from (lo : Nat) (m : List Host.Cell) (a : Nat) (v : Byte) (h : lo ≤ a) (hm : Memory.from lo m) :
    Memory.from lo (memPut m a v) := by
  induction m generalizing lo with
  | nil => by_cases hv : v = 0#8 <;> simp [memPut, hv, Memory.from, h]
  | cons p m ih =>
    obtain ⟨b, w⟩ := p
    obtain ⟨h1, h2, h3⟩ := hm
    by_cases hb : b < a
    · simp only [memPut, hb, if_true]
      exact ⟨h1, h2, ih (b + 1) hb h3⟩
    · by_cases he : b = a
      · subst he
        by_cases hv : v = 0#8
        · simpa [memPut, hv] using Memory.from_mono (by omega) _ h3
        · simpa [memPut, hv, Memory.from, h] using h3
      · by_cases hv : v = 0#8
        · simpa [memPut, hb, he, hv] using ⟨h1, h2, h3⟩
        · have hz : v ≠ 0 := hv
          simp only [memPut, hb, he, hz, if_false]
          exact ⟨h, hv, by omega, h2, h3⟩

/-- Writing a byte keeps the canonical form. -/
theorem memPut_wf (m : List Host.Cell) (a : Nat) (v : Byte) (h : Memory.wf m = true) :
    Memory.wf (memPut m a v) = true := by
  rw [Memory.wf_iff] at *
  exact memPut_from 0 m a v (Nat.zero_le _) h

/-- Writing bytes keeps the canonical form. -/
theorem memWrite_wf (bs : List Byte) (m : List Host.Cell) (a : Nat) (h : Memory.wf m = true) :
    Memory.wf (memWrite m a bs) = true := by
  induction bs generalizing m a with
  | nil => exact h
  | cons b bs ih => exact ih _ _ (memPut_wf m a b h)

theorem filter_from (q : Host.Cell → Bool) (lo : Nat) (m : List Host.Cell) (h : Memory.from lo m) :
    Memory.from lo (m.filter q) := by
  induction m generalizing lo with
  | nil => trivial
  | cons p m ih =>
    obtain ⟨b, w⟩ := p
    obtain ⟨h1, h2, h3⟩ := h
    cases hq : q (b, w)
    · simpa [List.filter, hq] using Memory.from_mono (by omega) _ (ih (b + 1) h3)
    · simpa [List.filter, hq, Memory.from] using ⟨h1, h2, ih (b + 1) h3⟩

/-- Dropping cells keeps the canonical form. -/
theorem filter_wf (q : Host.Cell → Bool) (m : List Host.Cell) (h : Memory.wf m = true) :
    Memory.wf (m.filter q) = true := by
  rw [Memory.wf_iff] at *
  exact filter_from q 0 m h

/-! ## Reads after writes -/

theorem memGet_from (lo : Nat) (m : List Host.Cell) (a : Nat) (h : Memory.from lo m) (ha : a < lo) :
    memGet m a = 0 := by
  induction m generalizing lo with
  | nil => rfl
  | cons p m ih =>
    obtain ⟨b, w⟩ := p
    obtain ⟨h1, _, h3⟩ := h
    have : b ≠ a := by omega
    simp [memGet, this, ih (b + 1) h3 (by omega)]

/-- The byte written is the byte read, in a memory in its canonical form. -/
theorem memGet_memPut_same (m : List Host.Cell) (a : Nat) (v : Byte) (h : Memory.wf m = true) :
    memGet (memPut m a v) a = v := by
  rw [Memory.wf_iff] at h
  suffices H : ∀ lo, Memory.from lo m → memGet (memPut m a v) a = v from H 0 h
  clear h
  intro lo h
  induction m generalizing lo with
  | nil => by_cases hv : v = 0#8 <;> simp [memPut, hv, memGet]
  | cons p m ih =>
    obtain ⟨b, w⟩ := p
    obtain ⟨_, _, h3⟩ := h
    by_cases hb : b < a
    · have : b ≠ a := by omega
      simp [memPut, hb, memGet, this, ih (b + 1) h3]
    · by_cases he : b = a
      · subst he
        by_cases hv : v = 0#8
        · simp [memPut, hv, memGet_from (b + 1) m b h3 (by omega)]
        · simp [memPut, hv, memGet]
      · by_cases hv : v = 0#8
        · simp [memPut, hb, he, hv, memGet, memGet_from (b + 1) m a h3 (by omega)]
        · simp [memPut, hb, he, hv, memGet]

/-- A write leaves every other byte alone. -/
theorem memGet_memPut_other (m : List Host.Cell) (v : Byte) {a x : Nat} (h : x ≠ a) :
    memGet (memPut m a v) x = memGet m x := by
  induction m with
  | nil => by_cases hv : v = 0#8 <;> simp [memPut, hv, memGet, h.symm]
  | cons p m ih =>
    obtain ⟨b, w⟩ := p
    by_cases hb : b < a
    · simp [memPut, hb, memGet, ih]
    · by_cases he : b = a
      · subst he
        by_cases hv : v = 0#8 <;> simp [memPut, hv, memGet, h.symm]
      · by_cases hv : v = 0#8 <;> simp [memPut, hb, he, hv, memGet, h.symm]

/-- Bytes outside a write are unchanged. -/
theorem memGet_memWrite_other (bs : List Byte) (m : List Host.Cell) {a x : Nat} (h : x < a ∨ a + bs.length ≤ x) :
    memGet (memWrite m a bs) x = memGet m x := by
  induction bs generalizing m a with
  | nil => rfl
  | cons b bs ih =>
    simp only [List.length_cons] at h
    rw [memWrite, ih _ (by omega), memGet_memPut_other _ _ (by omega)]

/-- What was written is read back. -/
theorem memRead_memWrite_same (bs : List Byte) (m : List Host.Cell) (a : Nat) (h : Memory.wf m = true) :
    memRead (memWrite m a bs) a bs.length = bs := by
  induction bs generalizing m a with
  | nil => rfl
  | cons b bs ih =>
    have h1 := memPut_wf m a b h
    simp only [memWrite, List.length_cons, memRead]
    rw [memGet_memWrite_other bs _ (by omega), memGet_memPut_same m a b h, ih _ _ h1]

/-- Bytes before or after a write are read as before. -/
theorem memRead_memWrite_other (bs : List Byte) (m : List Host.Cell) (a : Nat) (n : Nat) {x : Nat}
    (h : x + n ≤ a ∨ a + bs.length ≤ x) : memRead (memWrite m a bs) x n = memRead m x n := by
  induction n generalizing x with
  | zero => rfl
  | succ n ih =>
    simp only [memRead]
    rw [memGet_memWrite_other bs m (by omega), ih (by omega)]

/-! ## The same for states -/

@[simp] theorem wr_mem (s : State) (a : Nat) (bs : List Byte) : (s.wr a bs).mem = memWrite s.mem a bs := rfl

theorem rd_wr_same (s : State) (a : Nat) (bs : List Byte) (h : Memory.wf s.mem = true) :
    (s.wr a bs).rd a bs.length = bs := memRead_memWrite_same bs s.mem a h

theorem rd_wr_other (s : State) (a : Nat) (bs : List Byte) (n : Nat) {x : Nat}
    (h : x + n ≤ a ∨ a + bs.length ≤ x) : (s.wr a bs).rd x n = s.rd x n := memRead_memWrite_other bs s.mem a n h

theorem wr_wf (s : State) (a : Nat) (bs : List Byte) (h : Memory.wf s.mem = true) :
    Memory.wf (s.wr a bs).mem = true := memWrite_wf bs s.mem a h

theorem scrub_wf (s : State) (a n : Nat) (h : Memory.wf s.mem = true) : Memory.wf (s.scrub a n).mem = true :=
  filter_wf _ s.mem h

theorem memRead_length (m : List Host.Cell) (a n : Nat) : (memRead m a n).length = n := by
  induction n generalizing a with
  | zero => rfl
  | succ n ih => simp [memRead, ih]

@[simp] theorem rd_length (s : State) (a n : Nat) : (s.rd a n).length = n := memRead_length s.mem a n

/-- A store at a home: what it changes (R150). -/
theorem storeAt_some {s t : State} {a : Nat} {bs : List Byte} (h : s.storeAt a bs = some t) :
    t.mem = memWrite s.mem a bs ∧ t.threads = s.threads ∧ t.full = s.full := by
  unfold State.storeAt at h
  simp only at h
  split at h
  · cases h
  · split at h <;> (cases h; exact ⟨rfl, rfl, rfl⟩)

theorem storeAt_wf {s t : State} {a : Nat} {bs : List Byte} (h : s.storeAt a bs = some t)
    (hs : Memory.wf s.mem = true) : Memory.wf t.mem = true := by
  rw [(storeAt_some h).1]
  exact memWrite_wf bs s.mem a hs

end Sys2Proof.Machine
end

