-- ==== Sys2Proof/Laws/PerInstr.lean ====
section
/-! SUPPORT. One lemma per instruction: its word decodes to it (the round trip of the encoder and the decoder). -/

namespace Sys2Proof.Laws.RoundTrip

/-- A well-formed instruction that has a word is what the decoder reads from its word. -/
def Statement (i : Instr) : Prop := i.hasWord = true → i.wf = true → decode (encode i) = .ok i.canon

/-- A field of the upper part of a word. -/
theorem fieldAbove {v w : Nat} {xhi : BitVec v} {xlo : BitVec w} {a n : Nat} (h : w ≤ a) :
    (xhi ++ xlo).extractLsb' a n = xhi.extractLsb' (a - w) n := BitVec.extractLsb'_append_eq_of_le h

/-- A field of the lower part of a word. -/
theorem fieldBelow {v w : Nat} {xhi : BitVec v} {xlo : BitVec w} {a n : Nat} (h : a + n ≤ w) :
    (xhi ++ xlo).extractLsb' a n = xlo.extractLsb' a n := BitVec.extractLsb'_append_eq_of_add_le h

/-- A whole field. -/
theorem fieldWhole {w : Nat} {x : BitVec w} : x.extractLsb' 0 w = x := BitVec.extractLsb'_eq_self

/-- The decoder on a word of a known major. -/
theorem decode_major {w : Half} {i : Instr} (m : BitVec 6) {raw : Half → Option Instr}
    (hm : w.extractLsb' 26 6 = m) (hr : reservedMajor m.toNat = false) (he : extensionMajor m.toNat = false)
    (h : ∀ v : Half, v.extractLsb' 26 6 = m → rawWord v = raw v) (hi : raw w = some i) (hw : i.wf = true) :
    decode w = .ok i := by
  have hr' : reservedMajor (majorOf w) = false := by
    change reservedMajor (w.extractLsb' 26 6).toNat = false
    rw [hm]; exact hr
  have he' : extensionMajor (majorOf w) = false := by
    change extensionMajor (w.extractLsb' 26 6).toNat = false
    rw [hm]; exact he
  unfold decode
  rw [hr', he', h w hm, hi]
  simp [hw]

theorem rawWord_01 (w : Half) (h : w.extractLsb' 26 6 = 1#6) : rawWord w = raw01 w := by
  unfold rawWord; rw [h]; rfl

theorem rawWord_02 (w : Half) (h : w.extractLsb' 26 6 = 2#6) : rawWord w = raw02 w := by
  unfold rawWord; rw [h]; rfl

theorem rawWord_03 (w : Half) (h : w.extractLsb' 26 6 = 3#6) : rawWord w = raw03 w := by
  unfold rawWord; rw [h]; rfl

theorem rawWord_04 (w : Half) (h : w.extractLsb' 26 6 = 4#6) : rawWord w = raw04 w := by
  unfold rawWord; rw [h]; rfl

theorem rawWord_05 (w : Half) (h : w.extractLsb' 26 6 = 5#6) : rawWord w = raw05 w := by
  unfold rawWord; rw [h]; rfl

theorem rawWord_06 (w : Half) (h : w.extractLsb' 26 6 = 6#6) : rawWord w = raw06 w := by
  unfold rawWord; rw [h]; rfl

theorem rawWord_07 (w : Half) (h : w.extractLsb' 26 6 = 7#6) : rawWord w = raw07 w := by
  unfold rawWord; rw [h]; rfl

theorem rawWord_08 (w : Half) (h : w.extractLsb' 26 6 = 8#6) : rawWord w = raw08 w := by
  unfold rawWord; rw [h]; rfl

theorem rawWord_09 (w : Half) (h : w.extractLsb' 26 6 = 9#6) : rawWord w = raw09 w := by
  unfold rawWord; rw [h]; rfl

theorem rawWord_0A (w : Half) (h : w.extractLsb' 26 6 = 10#6) : rawWord w = raw0A w := by
  unfold rawWord; rw [h]; rfl

theorem rawWord_0C (w : Half) (h : w.extractLsb' 26 6 = 12#6) : rawWord w = raw0C w := by
  unfold rawWord; rw [h]; rfl

theorem rawWord_0D (w : Half) (h : w.extractLsb' 26 6 = 13#6) : rawWord w = raw0D w := by
  unfold rawWord; rw [h]; rfl

theorem rawWord_0E (w : Half) (h : w.extractLsb' 26 6 = 14#6) : rawWord w = raw0E w := by
  unfold rawWord; rw [h]; rfl

theorem rawWord_0F (w : Half) (h : w.extractLsb' 26 6 = 15#6) : rawWord w = raw0F w := by
  unfold rawWord; rw [h]; rfl

theorem rawWord_10 (w : Half) (h : w.extractLsb' 26 6 = 16#6) : rawWord w = raw10 w := by
  unfold rawWord; rw [h]; rfl

theorem rawWord_11 (w : Half) (h : w.extractLsb' 26 6 = 17#6) : rawWord w = raw11 w := by
  unfold rawWord; rw [h]; rfl

theorem rawWord_12 (w : Half) (h : w.extractLsb' 26 6 = 18#6) : rawWord w = raw12 w := by
  unfold rawWord; rw [h]; rfl

theorem rawWord_13 (w : Half) (h : w.extractLsb' 26 6 = 19#6) : rawWord w = raw13 w := by
  unfold rawWord; rw [h]; rfl

theorem rawWord_14 (w : Half) (h : w.extractLsb' 26 6 = 20#6) : rawWord w = raw14 w := by
  unfold rawWord; rw [h]; rfl

theorem rawWord_15 (w : Half) (h : w.extractLsb' 26 6 = 21#6) : rawWord w = raw15 w := by
  unfold rawWord; rw [h]; rfl

theorem rawWord_16 (w : Half) (h : w.extractLsb' 26 6 = 22#6) : rawWord w = raw16 w := by
  unfold rawWord; rw [h]; rfl

theorem rawWord_17 (w : Half) (h : w.extractLsb' 26 6 = 23#6) : rawWord w = raw17 w := by
  unfold rawWord; rw [h]; rfl

theorem rawWord_18 (w : Half) (h : w.extractLsb' 26 6 = 24#6) : rawWord w = raw18 w := by
  unfold rawWord; rw [h]; rfl

theorem rawWord_19 (w : Half) (h : w.extractLsb' 26 6 = 25#6) : rawWord w = raw19 w := by
  unfold rawWord; rw [h]; rfl

theorem rawWord_1A (w : Half) (h : w.extractLsb' 26 6 = 26#6) : rawWord w = raw1A w := by
  unfold rawWord; rw [h]; rfl

theorem rawWord_1B (w : Half) (h : w.extractLsb' 26 6 = 27#6) : rawWord w = raw1B w := by
  unfold rawWord; rw [h]; rfl

theorem rawWord_1C (w : Half) (h : w.extractLsb' 26 6 = 28#6) : rawWord w = raw1C w := by
  unfold rawWord; rw [h]; rfl

theorem rawWord_1D (w : Half) (h : w.extractLsb' 26 6 = 29#6) : rawWord w = raw1D w := by
  unfold rawWord; rw [h]; rfl

theorem rawWord_1E (w : Half) (h : w.extractLsb' 26 6 = 30#6) : rawWord w = raw1E w := by
  unfold rawWord; rw [h]; rfl

theorem rawWord_1F (w : Half) (h : w.extractLsb' 26 6 = 31#6) : rawWord w = raw1F w := by
  unfold rawWord; rw [h]; rfl

theorem rawWord_20 (w : Half) (h : w.extractLsb' 26 6 = 32#6) : rawWord w = raw20 w := by
  unfold rawWord; rw [h]; rfl

theorem rawWord_21 (w : Half) (h : w.extractLsb' 26 6 = 33#6) : rawWord w = raw21 w := by
  unfold rawWord; rw [h]; rfl

theorem rawWord_22 (w : Half) (h : w.extractLsb' 26 6 = 34#6) : rawWord w = raw22 w := by
  unfold rawWord; rw [h]; rfl

theorem rawWord_23 (w : Half) (h : w.extractLsb' 26 6 = 35#6) : rawWord w = raw23 w := by
  unfold rawWord; rw [h]; rfl

theorem rawWord_24 (w : Half) (h : w.extractLsb' 26 6 = 36#6) : rawWord w = raw24 w := by
  unfold rawWord; rw [h]; rfl

theorem rawWord_25 (w : Half) (h : w.extractLsb' 26 6 = 37#6) : rawWord w = raw25 w := by
  unfold rawWord; rw [h]; rfl

theorem rawWord_26 (w : Half) (h : w.extractLsb' 26 6 = 38#6) : rawWord w = raw26 w := by
  unfold rawWord; rw [h]; rfl

theorem rawWord_27 (w : Half) (h : w.extractLsb' 26 6 = 39#6) : rawWord w = raw27 w := by
  unfold rawWord; rw [h]; rfl

theorem rawWord_28 (w : Half) (h : w.extractLsb' 26 6 = 40#6) : rawWord w = raw28 w := by
  unfold rawWord; rw [h]; rfl

theorem rawWord_29 (w : Half) (h : w.extractLsb' 26 6 = 41#6) : rawWord w = raw29 w := by
  unfold rawWord; rw [h]; rfl

theorem rawWord_2A (w : Half) (h : w.extractLsb' 26 6 = 42#6) : rawWord w = raw2A w := by
  unfold rawWord; rw [h]; rfl

theorem rawWord_2B (w : Half) (h : w.extractLsb' 26 6 = 43#6) : rawWord w = raw2B w := by
  unfold rawWord; rw [h]; rfl

theorem rawWord_2C (w : Half) (h : w.extractLsb' 26 6 = 44#6) : rawWord w = raw2C w := by
  unfold rawWord; rw [h]; rfl

theorem rawWord_2D (w : Half) (h : w.extractLsb' 26 6 = 45#6) : rawWord w = raw2D w := by
  unfold rawWord; rw [h]; rfl

theorem rawWord_38 (w : Half) (h : w.extractLsb' 26 6 = 56#6) : rawWord w = raw38 w := by
  unfold rawWord; rw [h]; rfl

theorem vdadd (x0 : BitVec 3) (x1 : BitVec 3) (x2 : BitVec 3) (x3 : BitVec 3) (x4 : BitVec 1) (x5 : BitVec 1) : Statement (.vdadd x0 x1 x2 x3 x4 x5) := by
  intro _ h
  have e : encode (.vdadd x0 x1 x2 x3 x4 x5) = 56#6 ++ x0 ++ x1 ++ x2 ++ x3 ++ x4 ++ x5 ++ 0#6 ++ 0#4 ++ 2#2 := rfl
  have hm := congrArg (BitVec.extractLsb' 26 6) e
  have h0 := congrArg (BitVec.extractLsb' 0 2) e
  have h1 := congrArg (BitVec.extractLsb' 2 4) e
  have h2 := congrArg (BitVec.extractLsb' 6 5) e
  have h3 := congrArg (BitVec.extractLsb' 10 1) e
  have h4 := congrArg (BitVec.extractLsb' 6 6) e
  have h5 := congrArg (BitVec.extractLsb' 23 3) e
  have h6 := congrArg (BitVec.extractLsb' 20 3) e
  have h7 := congrArg (BitVec.extractLsb' 17 3) e
  have h8 := congrArg (BitVec.extractLsb' 14 3) e
  have h9 := congrArg (BitVec.extractLsb' 13 1) e
  have h10 := congrArg (BitVec.extractLsb' 12 1) e
  simp (disch := decide) only [fieldAbove, fieldBelow, Nat.reduceSub, fieldWhole] at hm h0 h1 h2 h3 h4 h5 h6 h7 h8 h9 h10
  generalize encode (.vdadd x0 x1 x2 x3 x4 x5) = w at hm h0 h1 h2 h3 h4 h5 h6 h7 h8 h9 h10 ⊢
  refine decode_major 56#6 hm rfl rfl rawWord_38 ?_ h
  unfold raw38
  rw [h0, h1, h2, h3, h4, h5, h6, h7, h8, h9, h10]
  rfl

theorem vdsub (x0 : BitVec 3) (x1 : BitVec 3) (x2 : BitVec 3) (x3 : BitVec 3) (x4 : BitVec 1) (x5 : BitVec 1) : Statement (.vdsub x0 x1 x2 x3 x4 x5) := by
  intro _ h
  have e : encode (.vdsub x0 x1 x2 x3 x4 x5) = 56#6 ++ x0 ++ x1 ++ x2 ++ x3 ++ x4 ++ x5 ++ 0#6 ++ 1#4 ++ 2#2 := rfl
  have hm := congrArg (BitVec.extractLsb' 26 6) e
  have h0 := congrArg (BitVec.extractLsb' 0 2) e
  have h1 := congrArg (BitVec.extractLsb' 2 4) e
  have h2 := congrArg (BitVec.extractLsb' 6 5) e
  have h3 := congrArg (BitVec.extractLsb' 10 1) e
  have h4 := congrArg (BitVec.extractLsb' 6 6) e
  have h5 := congrArg (BitVec.extractLsb' 23 3) e
  have h6 := congrArg (BitVec.extractLsb' 20 3) e
  have h7 := congrArg (BitVec.extractLsb' 17 3) e
  have h8 := congrArg (BitVec.extractLsb' 14 3) e
  have h9 := congrArg (BitVec.extractLsb' 13 1) e
  have h10 := congrArg (BitVec.extractLsb' 12 1) e
  simp (disch := decide) only [fieldAbove, fieldBelow, Nat.reduceSub, fieldWhole] at hm h0 h1 h2 h3 h4 h5 h6 h7 h8 h9 h10
  generalize encode (.vdsub x0 x1 x2 x3 x4 x5) = w at hm h0 h1 h2 h3 h4 h5 h6 h7 h8 h9 h10 ⊢
  refine decode_major 56#6 hm rfl rfl rawWord_38 ?_ h
  unfold raw38
  rw [h0, h1, h2, h3, h4, h5, h6, h7, h8, h9, h10]
  rfl

theorem vdmul (x0 : BitVec 3) (x1 : BitVec 3) (x2 : BitVec 3) (x3 : BitVec 3) (x4 : BitVec 1) (x5 : BitVec 1) : Statement (.vdmul x0 x1 x2 x3 x4 x5) := by
  intro _ h
  have e : encode (.vdmul x0 x1 x2 x3 x4 x5) = 56#6 ++ x0 ++ x1 ++ x2 ++ x3 ++ x4 ++ x5 ++ 0#6 ++ 2#4 ++ 2#2 := rfl
  have hm := congrArg (BitVec.extractLsb' 26 6) e
  have h0 := congrArg (BitVec.extractLsb' 0 2) e
  have h1 := congrArg (BitVec.extractLsb' 2 4) e
  have h2 := congrArg (BitVec.extractLsb' 6 5) e
  have h3 := congrArg (BitVec.extractLsb' 10 1) e
  have h4 := congrArg (BitVec.extractLsb' 6 6) e
  have h5 := congrArg (BitVec.extractLsb' 23 3) e
  have h6 := congrArg (BitVec.extractLsb' 20 3) e
  have h7 := congrArg (BitVec.extractLsb' 17 3) e
  have h8 := congrArg (BitVec.extractLsb' 14 3) e
  have h9 := congrArg (BitVec.extractLsb' 13 1) e
  have h10 := congrArg (BitVec.extractLsb' 12 1) e
  simp (disch := decide) only [fieldAbove, fieldBelow, Nat.reduceSub, fieldWhole] at hm h0 h1 h2 h3 h4 h5 h6 h7 h8 h9 h10
  generalize encode (.vdmul x0 x1 x2 x3 x4 x5) = w at hm h0 h1 h2 h3 h4 h5 h6 h7 h8 h9 h10 ⊢
  refine decode_major 56#6 hm rfl rfl rawWord_38 ?_ h
  unfold raw38
  rw [h0, h1, h2, h3, h4, h5, h6, h7, h8, h9, h10]
  rfl

theorem vdfma (x0 : BitVec 3) (x1 : BitVec 3) (x2 : BitVec 3) (x3 : BitVec 3) (x4 : BitVec 1) (x5 : BitVec 1) : Statement (.vdfma x0 x1 x2 x3 x4 x5) := by
  intro _ h
  have e : encode (.vdfma x0 x1 x2 x3 x4 x5) = 56#6 ++ x0 ++ x1 ++ x2 ++ x3 ++ x4 ++ x5 ++ 0#6 ++ 3#4 ++ 2#2 := rfl
  have hm := congrArg (BitVec.extractLsb' 26 6) e
  have h0 := congrArg (BitVec.extractLsb' 0 2) e
  have h1 := congrArg (BitVec.extractLsb' 2 4) e
  have h2 := congrArg (BitVec.extractLsb' 6 5) e
  have h3 := congrArg (BitVec.extractLsb' 10 1) e
  have h4 := congrArg (BitVec.extractLsb' 6 6) e
  have h5 := congrArg (BitVec.extractLsb' 23 3) e
  have h6 := congrArg (BitVec.extractLsb' 20 3) e
  have h7 := congrArg (BitVec.extractLsb' 17 3) e
  have h8 := congrArg (BitVec.extractLsb' 14 3) e
  have h9 := congrArg (BitVec.extractLsb' 13 1) e
  have h10 := congrArg (BitVec.extractLsb' 12 1) e
  simp (disch := decide) only [fieldAbove, fieldBelow, Nat.reduceSub, fieldWhole] at hm h0 h1 h2 h3 h4 h5 h6 h7 h8 h9 h10
  generalize encode (.vdfma x0 x1 x2 x3 x4 x5) = w at hm h0 h1 h2 h3 h4 h5 h6 h7 h8 h9 h10 ⊢
  refine decode_major 56#6 hm rfl rfl rawWord_38 ?_ h
  unfold raw38
  rw [h0, h1, h2, h3, h4, h5, h6, h7, h8, h9, h10]
  rfl

theorem vdmin (x0 : BitVec 3) (x1 : BitVec 3) (x2 : BitVec 3) (x3 : BitVec 3) (x4 : BitVec 1) (x5 : BitVec 1) : Statement (.vdmin x0 x1 x2 x3 x4 x5) := by
  intro _ h
  have e : encode (.vdmin x0 x1 x2 x3 x4 x5) = 56#6 ++ x0 ++ x1 ++ x2 ++ x3 ++ x4 ++ x5 ++ 0#6 ++ 4#4 ++ 2#2 := rfl
  have hm := congrArg (BitVec.extractLsb' 26 6) e
  have h0 := congrArg (BitVec.extractLsb' 0 2) e
  have h1 := congrArg (BitVec.extractLsb' 2 4) e
  have h2 := congrArg (BitVec.extractLsb' 6 5) e
  have h3 := congrArg (BitVec.extractLsb' 10 1) e
  have h4 := congrArg (BitVec.extractLsb' 6 6) e
  have h5 := congrArg (BitVec.extractLsb' 23 3) e
  have h6 := congrArg (BitVec.extractLsb' 20 3) e
  have h7 := congrArg (BitVec.extractLsb' 17 3) e
  have h8 := congrArg (BitVec.extractLsb' 14 3) e
  have h9 := congrArg (BitVec.extractLsb' 13 1) e
  have h10 := congrArg (BitVec.extractLsb' 12 1) e
  simp (disch := decide) only [fieldAbove, fieldBelow, Nat.reduceSub, fieldWhole] at hm h0 h1 h2 h3 h4 h5 h6 h7 h8 h9 h10
  generalize encode (.vdmin x0 x1 x2 x3 x4 x5) = w at hm h0 h1 h2 h3 h4 h5 h6 h7 h8 h9 h10 ⊢
  refine decode_major 56#6 hm rfl rfl rawWord_38 ?_ h
  unfold raw38
  rw [h0, h1, h2, h3, h4, h5, h6, h7, h8, h9, h10]
  rfl

theorem vdmax (x0 : BitVec 3) (x1 : BitVec 3) (x2 : BitVec 3) (x3 : BitVec 3) (x4 : BitVec 1) (x5 : BitVec 1) : Statement (.vdmax x0 x1 x2 x3 x4 x5) := by
  intro _ h
  have e : encode (.vdmax x0 x1 x2 x3 x4 x5) = 56#6 ++ x0 ++ x1 ++ x2 ++ x3 ++ x4 ++ x5 ++ 0#6 ++ 5#4 ++ 2#2 := rfl
  have hm := congrArg (BitVec.extractLsb' 26 6) e
  have h0 := congrArg (BitVec.extractLsb' 0 2) e
  have h1 := congrArg (BitVec.extractLsb' 2 4) e
  have h2 := congrArg (BitVec.extractLsb' 6 5) e
  have h3 := congrArg (BitVec.extractLsb' 10 1) e
  have h4 := congrArg (BitVec.extractLsb' 6 6) e
  have h5 := congrArg (BitVec.extractLsb' 23 3) e
  have h6 := congrArg (BitVec.extractLsb' 20 3) e
  have h7 := congrArg (BitVec.extractLsb' 17 3) e
  have h8 := congrArg (BitVec.extractLsb' 14 3) e
  have h9 := congrArg (BitVec.extractLsb' 13 1) e
  have h10 := congrArg (BitVec.extractLsb' 12 1) e
  simp (disch := decide) only [fieldAbove, fieldBelow, Nat.reduceSub, fieldWhole] at hm h0 h1 h2 h3 h4 h5 h6 h7 h8 h9 h10
  generalize encode (.vdmax x0 x1 x2 x3 x4 x5) = w at hm h0 h1 h2 h3 h4 h5 h6 h7 h8 h9 h10 ⊢
  refine decode_major 56#6 hm rfl rfl rawWord_38 ?_ h
  unfold raw38
  rw [h0, h1, h2, h3, h4, h5, h6, h7, h8, h9, h10]
  rfl

theorem vdwid (x0 : BitVec 3) (x1 : BitVec 3) (x2 : BitVec 3) (x3 : BitVec 3) (x4 : BitVec 1) (x5 : BitVec 1) : Statement (.vdwid x0 x1 x2 x3 x4 x5) := by
  intro _ h
  have e : encode (.vdwid x0 x1 x2 x3 x4 x5) = 56#6 ++ x0 ++ x1 ++ x2 ++ x3 ++ x4 ++ x5 ++ 0#6 ++ 6#4 ++ 2#2 := rfl
  have hm := congrArg (BitVec.extractLsb' 26 6) e
  have h0 := congrArg (BitVec.extractLsb' 0 2) e
  have h1 := congrArg (BitVec.extractLsb' 2 4) e
  have h2 := congrArg (BitVec.extractLsb' 6 5) e
  have h3 := congrArg (BitVec.extractLsb' 10 1) e
  have h4 := congrArg (BitVec.extractLsb' 6 6) e
  have h5 := congrArg (BitVec.extractLsb' 23 3) e
  have h6 := congrArg (BitVec.extractLsb' 20 3) e
  have h7 := congrArg (BitVec.extractLsb' 17 3) e
  have h8 := congrArg (BitVec.extractLsb' 14 3) e
  have h9 := congrArg (BitVec.extractLsb' 13 1) e
  have h10 := congrArg (BitVec.extractLsb' 12 1) e
  simp (disch := decide) only [fieldAbove, fieldBelow, Nat.reduceSub, fieldWhole] at hm h0 h1 h2 h3 h4 h5 h6 h7 h8 h9 h10
  generalize encode (.vdwid x0 x1 x2 x3 x4 x5) = w at hm h0 h1 h2 h3 h4 h5 h6 h7 h8 h9 h10 ⊢
  refine decode_major 56#6 hm rfl rfl rawWord_38 ?_ h
  unfold raw38
  rw [h0, h1, h2, h3, h4, h5, h6, h7, h8, h9, h10]
  rfl

theorem vdnar (x0 : BitVec 3) (x1 : BitVec 3) (x2 : BitVec 3) (x3 : BitVec 3) (x4 : BitVec 1) (x5 : BitVec 1) : Statement (.vdnar x0 x1 x2 x3 x4 x5) := by
  intro _ h
  have e : encode (.vdnar x0 x1 x2 x3 x4 x5) = 56#6 ++ x0 ++ x1 ++ x2 ++ x3 ++ x4 ++ x5 ++ 0#6 ++ 7#4 ++ 2#2 := rfl
  have hm := congrArg (BitVec.extractLsb' 26 6) e
  have h0 := congrArg (BitVec.extractLsb' 0 2) e
  have h1 := congrArg (BitVec.extractLsb' 2 4) e
  have h2 := congrArg (BitVec.extractLsb' 6 5) e
  have h3 := congrArg (BitVec.extractLsb' 10 1) e
  have h4 := congrArg (BitVec.extractLsb' 6 6) e
  have h5 := congrArg (BitVec.extractLsb' 23 3) e
  have h6 := congrArg (BitVec.extractLsb' 20 3) e
  have h7 := congrArg (BitVec.extractLsb' 17 3) e
  have h8 := congrArg (BitVec.extractLsb' 14 3) e
  have h9 := congrArg (BitVec.extractLsb' 13 1) e
  have h10 := congrArg (BitVec.extractLsb' 12 1) e
  simp (disch := decide) only [fieldAbove, fieldBelow, Nat.reduceSub, fieldWhole] at hm h0 h1 h2 h3 h4 h5 h6 h7 h8 h9 h10
  generalize encode (.vdnar x0 x1 x2 x3 x4 x5) = w at hm h0 h1 h2 h3 h4 h5 h6 h7 h8 h9 h10 ⊢
  refine decode_major 56#6 hm rfl rfl rawWord_38 ?_ h
  unfold raw38
  rw [h0, h1, h2, h3, h4, h5, h6, h7, h8, h9, h10]
  rfl

theorem ld (x0 : BitVec 5) (x1 : BitVec 5) (x2 : BitVec 3) (x3 : BitVec 13) : Statement (.ld x0 x1 x2 x3) := by
  intro _ h
  have e : encode (.ld x0 x1 x2 x3) = 22#6 ++ x0 ++ x1 ++ x2 ++ x3 := rfl
  have hm := congrArg (BitVec.extractLsb' 26 6) e
  have h0 := congrArg (BitVec.extractLsb' 21 5) e
  have h1 := congrArg (BitVec.extractLsb' 16 5) e
  have h2 := congrArg (BitVec.extractLsb' 13 3) e
  have h3 := congrArg (BitVec.extractLsb' 0 13) e
  simp (disch := decide) only [fieldAbove, fieldBelow, Nat.reduceSub, fieldWhole] at hm h0 h1 h2 h3
  generalize encode (.ld x0 x1 x2 x3) = w at hm h0 h1 h2 h3 ⊢
  refine decode_major 22#6 hm rfl rfl rawWord_16 ?_ h
  unfold raw16
  rw [h0, h1, h2, h3]
  rfl

theorem st (x0 : BitVec 5) (x1 : BitVec 5) (x2 : BitVec 3) (x3 : BitVec 13) : Statement (.st x0 x1 x2 x3) := by
  intro _ h
  have e : encode (.st x0 x1 x2 x3) = 23#6 ++ x0 ++ x1 ++ x2 ++ x3 := rfl
  have hm := congrArg (BitVec.extractLsb' 26 6) e
  have h0 := congrArg (BitVec.extractLsb' 21 5) e
  have h1 := congrArg (BitVec.extractLsb' 16 5) e
  have h2 := congrArg (BitVec.extractLsb' 13 3) e
  have h3 := congrArg (BitVec.extractLsb' 0 13) e
  simp (disch := decide) only [fieldAbove, fieldBelow, Nat.reduceSub, fieldWhole] at hm h0 h1 h2 h3
  generalize encode (.st x0 x1 x2 x3) = w at hm h0 h1 h2 h3 ⊢
  refine decode_major 23#6 hm rfl rfl rawWord_17 ?_ h
  unfold raw17
  rw [h0, h1, h2, h3]
  rfl

theorem ldaWord (x0 : BitVec 5) (x1 : BitVec 5) (x2 : BitVec 5) (x3 : BitVec 8) : Statement (.ldaWord x0 x1 x2 x3) := by
  intro _ h
  have e : encode (.ldaWord x0 x1 x2 x3) = 24#6 ++ x0 ++ x1 ++ 0#3 ++ x2 ++ x3 := rfl
  have hm := congrArg (BitVec.extractLsb' 26 6) e
  have h0 := congrArg (BitVec.extractLsb' 13 3) e
  have h1 := congrArg (BitVec.extractLsb' 21 5) e
  have h2 := congrArg (BitVec.extractLsb' 16 5) e
  have h3 := congrArg (BitVec.extractLsb' 8 5) e
  have h4 := congrArg (BitVec.extractLsb' 0 8) e
  simp (disch := decide) only [fieldAbove, fieldBelow, Nat.reduceSub, fieldWhole] at hm h0 h1 h2 h3 h4
  generalize encode (.ldaWord x0 x1 x2 x3) = w at hm h0 h1 h2 h3 h4 ⊢
  refine decode_major 24#6 hm rfl rfl rawWord_18 ?_ h
  unfold raw18
  rw [h0, h1, h2, h3, h4]
  rfl

theorem lda (x0 : BitVec 5) (x1 : BitVec 5) (x2 : BitVec 5) (x3 : BitVec 8) : Statement (.lda x0 x1 x2 x3) := by
  intro _ h
  have e : encode (.lda x0 x1 x2 x3) = 24#6 ++ x0 ++ x1 ++ 1#3 ++ x2 ++ x3 := rfl
  have hm := congrArg (BitVec.extractLsb' 26 6) e
  have h0 := congrArg (BitVec.extractLsb' 13 3) e
  have h1 := congrArg (BitVec.extractLsb' 21 5) e
  have h2 := congrArg (BitVec.extractLsb' 16 5) e
  have h3 := congrArg (BitVec.extractLsb' 8 5) e
  have h4 := congrArg (BitVec.extractLsb' 0 8) e
  simp (disch := decide) only [fieldAbove, fieldBelow, Nat.reduceSub, fieldWhole] at hm h0 h1 h2 h3 h4
  generalize encode (.lda x0 x1 x2 x3) = w at hm h0 h1 h2 h3 h4 ⊢
  refine decode_major 24#6 hm rfl rfl rawWord_18 ?_ h
  unfold raw18
  rw [h0, h1, h2, h3, h4]
  rfl

theorem lde (x0 : BitVec 5) (x1 : BitVec 5) (x2 : BitVec 13) : Statement (.lde x0 x1 x2) := by
  intro _ h
  have e : encode (.lde x0 x1 x2) = 24#6 ++ x0 ++ x1 ++ 2#3 ++ x2 := rfl
  have hm := congrArg (BitVec.extractLsb' 26 6) e
  have h0 := congrArg (BitVec.extractLsb' 13 3) e
  have h1 := congrArg (BitVec.extractLsb' 21 5) e
  have h2 := congrArg (BitVec.extractLsb' 16 5) e
  have h3 := congrArg (BitVec.extractLsb' 0 13) e
  simp (disch := decide) only [fieldAbove, fieldBelow, Nat.reduceSub, fieldWhole] at hm h0 h1 h2 h3
  generalize encode (.lde x0 x1 x2) = w at hm h0 h1 h2 h3 ⊢
  refine decode_major 24#6 hm rfl rfl rawWord_18 ?_ h
  unfold raw18
  rw [h0, h1, h2, h3]
  rfl

theorem ldf (x0 : BitVec 5) (x1 : BitVec 5) (x2 : BitVec 13) : Statement (.ldf x0 x1 x2) := by
  intro _ h
  have e : encode (.ldf x0 x1 x2) = 24#6 ++ x0 ++ x1 ++ 3#3 ++ x2 := rfl
  have hm := congrArg (BitVec.extractLsb' 26 6) e
  have h0 := congrArg (BitVec.extractLsb' 13 3) e
  have h1 := congrArg (BitVec.extractLsb' 21 5) e
  have h2 := congrArg (BitVec.extractLsb' 16 5) e
  have h3 := congrArg (BitVec.extractLsb' 0 13) e
  simp (disch := decide) only [fieldAbove, fieldBelow, Nat.reduceSub, fieldWhole] at hm h0 h1 h2 h3
  generalize encode (.ldf x0 x1 x2) = w at hm h0 h1 h2 h3 ⊢
  refine decode_major 24#6 hm rfl rfl rawWord_18 ?_ h
  unfold raw18
  rw [h0, h1, h2, h3]
  rfl

theorem feprobe (x0 : BitVec 5) (x1 : BitVec 5) (x2 : BitVec 13) : Statement (.feprobe x0 x1 x2) := by
  intro _ h
  have e : encode (.feprobe x0 x1 x2) = 24#6 ++ x0 ++ x1 ++ 4#3 ++ x2 := rfl
  have hm := congrArg (BitVec.extractLsb' 26 6) e
  have h0 := congrArg (BitVec.extractLsb' 13 3) e
  have h1 := congrArg (BitVec.extractLsb' 21 5) e
  have h2 := congrArg (BitVec.extractLsb' 16 5) e
  have h3 := congrArg (BitVec.extractLsb' 0 13) e
  simp (disch := decide) only [fieldAbove, fieldBelow, Nat.reduceSub, fieldWhole] at hm h0 h1 h2 h3
  generalize encode (.feprobe x0 x1 x2) = w at hm h0 h1 h2 h3 ⊢
  refine decode_major 24#6 hm rfl rfl rawWord_18 ?_ h
  unfold raw18
  rw [h0, h1, h2, h3]
  rfl

theorem stlWord (x0 : BitVec 5) (x1 : BitVec 5) (x2 : BitVec 5) (x3 : BitVec 8) : Statement (.stlWord x0 x1 x2 x3) := by
  intro _ h
  have e : encode (.stlWord x0 x1 x2 x3) = 25#6 ++ x0 ++ x1 ++ 0#3 ++ x2 ++ x3 := rfl
  have hm := congrArg (BitVec.extractLsb' 26 6) e
  have h0 := congrArg (BitVec.extractLsb' 13 3) e
  have h1 := congrArg (BitVec.extractLsb' 21 5) e
  have h2 := congrArg (BitVec.extractLsb' 16 5) e
  have h3 := congrArg (BitVec.extractLsb' 8 5) e
  have h4 := congrArg (BitVec.extractLsb' 0 8) e
  simp (disch := decide) only [fieldAbove, fieldBelow, Nat.reduceSub, fieldWhole] at hm h0 h1 h2 h3 h4
  generalize encode (.stlWord x0 x1 x2 x3) = w at hm h0 h1 h2 h3 h4 ⊢
  refine decode_major 25#6 hm rfl rfl rawWord_19 ?_ h
  unfold raw19
  rw [h0, h1, h2, h3, h4]
  rfl

theorem stl (x0 : BitVec 5) (x1 : BitVec 5) (x2 : BitVec 5) (x3 : BitVec 8) : Statement (.stl x0 x1 x2 x3) := by
  intro _ h
  have e : encode (.stl x0 x1 x2 x3) = 25#6 ++ x0 ++ x1 ++ 1#3 ++ x2 ++ x3 := rfl
  have hm := congrArg (BitVec.extractLsb' 26 6) e
  have h0 := congrArg (BitVec.extractLsb' 13 3) e
  have h1 := congrArg (BitVec.extractLsb' 21 5) e
  have h2 := congrArg (BitVec.extractLsb' 16 5) e
  have h3 := congrArg (BitVec.extractLsb' 8 5) e
  have h4 := congrArg (BitVec.extractLsb' 0 8) e
  simp (disch := decide) only [fieldAbove, fieldBelow, Nat.reduceSub, fieldWhole] at hm h0 h1 h2 h3 h4
  generalize encode (.stl x0 x1 x2 x3) = w at hm h0 h1 h2 h3 h4 ⊢
  refine decode_major 25#6 hm rfl rfl rawWord_19 ?_ h
  unfold raw19
  rw [h0, h1, h2, h3, h4]
  rfl

theorem stf (x0 : BitVec 5) (x1 : BitVec 5) (x2 : BitVec 13) : Statement (.stf x0 x1 x2) := by
  intro _ h
  have e : encode (.stf x0 x1 x2) = 25#6 ++ x0 ++ x1 ++ 2#3 ++ x2 := rfl
  have hm := congrArg (BitVec.extractLsb' 26 6) e
  have h0 := congrArg (BitVec.extractLsb' 13 3) e
  have h1 := congrArg (BitVec.extractLsb' 21 5) e
  have h2 := congrArg (BitVec.extractLsb' 16 5) e
  have h3 := congrArg (BitVec.extractLsb' 0 13) e
  simp (disch := decide) only [fieldAbove, fieldBelow, Nat.reduceSub, fieldWhole] at hm h0 h1 h2 h3
  generalize encode (.stf x0 x1 x2) = w at hm h0 h1 h2 h3 ⊢
  refine decode_major 25#6 hm rfl rfl rawWord_19 ?_ h
  unfold raw19
  rw [h0, h1, h2, h3]
  rfl

theorem feclr (x0 : BitVec 5) (x1 : BitVec 13) : Statement (.feclr x0 x1) := by
  intro _ h
  have e : encode (.feclr x0 x1) = 25#6 ++ 0#5 ++ x0 ++ 3#3 ++ x1 := rfl
  have hm := congrArg (BitVec.extractLsb' 26 6) e
  have h0 := congrArg (BitVec.extractLsb' 13 3) e
  have h1 := congrArg (BitVec.extractLsb' 21 5) e
  have h2 := congrArg (BitVec.extractLsb' 16 5) e
  have h3 := congrArg (BitVec.extractLsb' 0 13) e
  simp (disch := decide) only [fieldAbove, fieldBelow, Nat.reduceSub, fieldWhole] at hm h0 h1 h2 h3
  generalize encode (.feclr x0 x1) = w at hm h0 h1 h2 h3 ⊢
  refine decode_major 25#6 hm rfl rfl rawWord_19 ?_ h
  unfold raw19
  rw [h0, h1, h2, h3]
  rfl

theorem amoadd (x0 : BitVec 5) (x1 : BitVec 5) (x2 : BitVec 5) (x3 : BitVec 5) (x4 : BitVec 1) : Statement (.amoadd x0 x1 x2 x3 x4) := by
  intro _ h
  have e : encode (.amoadd x0 x1 x2 x3 x4) = 26#6 ++ x0 ++ x1 ++ x2 ++ x3 ++ x4 ++ 0#5 := rfl
  have hm := congrArg (BitVec.extractLsb' 26 6) e
  have h0 := congrArg (BitVec.extractLsb' 0 5) e
  have h1 := congrArg (BitVec.extractLsb' 21 5) e
  have h2 := congrArg (BitVec.extractLsb' 16 5) e
  have h3 := congrArg (BitVec.extractLsb' 11 5) e
  have h4 := congrArg (BitVec.extractLsb' 6 5) e
  have h5 := congrArg (BitVec.extractLsb' 5 1) e
  simp (disch := decide) only [fieldAbove, fieldBelow, Nat.reduceSub, fieldWhole] at hm h0 h1 h2 h3 h4 h5
  generalize encode (.amoadd x0 x1 x2 x3 x4) = w at hm h0 h1 h2 h3 h4 h5 ⊢
  refine decode_major 26#6 hm rfl rfl rawWord_1A ?_ h
  unfold raw1A
  rw [h0, h1, h2, h3, h4, h5]
  rfl

theorem amoand (x0 : BitVec 5) (x1 : BitVec 5) (x2 : BitVec 5) (x3 : BitVec 5) (x4 : BitVec 1) : Statement (.amoand x0 x1 x2 x3 x4) := by
  intro _ h
  have e : encode (.amoand x0 x1 x2 x3 x4) = 26#6 ++ x0 ++ x1 ++ x2 ++ x3 ++ x4 ++ 1#5 := rfl
  have hm := congrArg (BitVec.extractLsb' 26 6) e
  have h0 := congrArg (BitVec.extractLsb' 0 5) e
  have h1 := congrArg (BitVec.extractLsb' 21 5) e
  have h2 := congrArg (BitVec.extractLsb' 16 5) e
  have h3 := congrArg (BitVec.extractLsb' 11 5) e
  have h4 := congrArg (BitVec.extractLsb' 6 5) e
  have h5 := congrArg (BitVec.extractLsb' 5 1) e
  simp (disch := decide) only [fieldAbove, fieldBelow, Nat.reduceSub, fieldWhole] at hm h0 h1 h2 h3 h4 h5
  generalize encode (.amoand x0 x1 x2 x3 x4) = w at hm h0 h1 h2 h3 h4 h5 ⊢
  refine decode_major 26#6 hm rfl rfl rawWord_1A ?_ h
  unfold raw1A
  rw [h0, h1, h2, h3, h4, h5]
  rfl

theorem amoor (x0 : BitVec 5) (x1 : BitVec 5) (x2 : BitVec 5) (x3 : BitVec 5) (x4 : BitVec 1) : Statement (.amoor x0 x1 x2 x3 x4) := by
  intro _ h
  have e : encode (.amoor x0 x1 x2 x3 x4) = 26#6 ++ x0 ++ x1 ++ x2 ++ x3 ++ x4 ++ 2#5 := rfl
  have hm := congrArg (BitVec.extractLsb' 26 6) e
  have h0 := congrArg (BitVec.extractLsb' 0 5) e
  have h1 := congrArg (BitVec.extractLsb' 21 5) e
  have h2 := congrArg (BitVec.extractLsb' 16 5) e
  have h3 := congrArg (BitVec.extractLsb' 11 5) e
  have h4 := congrArg (BitVec.extractLsb' 6 5) e
  have h5 := congrArg (BitVec.extractLsb' 5 1) e
  simp (disch := decide) only [fieldAbove, fieldBelow, Nat.reduceSub, fieldWhole] at hm h0 h1 h2 h3 h4 h5
  generalize encode (.amoor x0 x1 x2 x3 x4) = w at hm h0 h1 h2 h3 h4 h5 ⊢
  refine decode_major 26#6 hm rfl rfl rawWord_1A ?_ h
  unfold raw1A
  rw [h0, h1, h2, h3, h4, h5]
  rfl

theorem amoxor (x0 : BitVec 5) (x1 : BitVec 5) (x2 : BitVec 5) (x3 : BitVec 5) (x4 : BitVec 1) : Statement (.amoxor x0 x1 x2 x3 x4) := by
  intro _ h
  have e : encode (.amoxor x0 x1 x2 x3 x4) = 26#6 ++ x0 ++ x1 ++ x2 ++ x3 ++ x4 ++ 3#5 := rfl
  have hm := congrArg (BitVec.extractLsb' 26 6) e
  have h0 := congrArg (BitVec.extractLsb' 0 5) e
  have h1 := congrArg (BitVec.extractLsb' 21 5) e
  have h2 := congrArg (BitVec.extractLsb' 16 5) e
  have h3 := congrArg (BitVec.extractLsb' 11 5) e
  have h4 := congrArg (BitVec.extractLsb' 6 5) e
  have h5 := congrArg (BitVec.extractLsb' 5 1) e
  simp (disch := decide) only [fieldAbove, fieldBelow, Nat.reduceSub, fieldWhole] at hm h0 h1 h2 h3 h4 h5
  generalize encode (.amoxor x0 x1 x2 x3 x4) = w at hm h0 h1 h2 h3 h4 h5 ⊢
  refine decode_major 26#6 hm rfl rfl rawWord_1A ?_ h
  unfold raw1A
  rw [h0, h1, h2, h3, h4, h5]
  rfl

theorem amomin (x0 : BitVec 5) (x1 : BitVec 5) (x2 : BitVec 5) (x3 : BitVec 5) (x4 : BitVec 1) : Statement (.amomin x0 x1 x2 x3 x4) := by
  intro _ h
  have e : encode (.amomin x0 x1 x2 x3 x4) = 26#6 ++ x0 ++ x1 ++ x2 ++ x3 ++ x4 ++ 4#5 := rfl
  have hm := congrArg (BitVec.extractLsb' 26 6) e
  have h0 := congrArg (BitVec.extractLsb' 0 5) e
  have h1 := congrArg (BitVec.extractLsb' 21 5) e
  have h2 := congrArg (BitVec.extractLsb' 16 5) e
  have h3 := congrArg (BitVec.extractLsb' 11 5) e
  have h4 := congrArg (BitVec.extractLsb' 6 5) e
  have h5 := congrArg (BitVec.extractLsb' 5 1) e
  simp (disch := decide) only [fieldAbove, fieldBelow, Nat.reduceSub, fieldWhole] at hm h0 h1 h2 h3 h4 h5
  generalize encode (.amomin x0 x1 x2 x3 x4) = w at hm h0 h1 h2 h3 h4 h5 ⊢
  refine decode_major 26#6 hm rfl rfl rawWord_1A ?_ h
  unfold raw1A
  rw [h0, h1, h2, h3, h4, h5]
  rfl

theorem amomax (x0 : BitVec 5) (x1 : BitVec 5) (x2 : BitVec 5) (x3 : BitVec 5) (x4 : BitVec 1) : Statement (.amomax x0 x1 x2 x3 x4) := by
  intro _ h
  have e : encode (.amomax x0 x1 x2 x3 x4) = 26#6 ++ x0 ++ x1 ++ x2 ++ x3 ++ x4 ++ 5#5 := rfl
  have hm := congrArg (BitVec.extractLsb' 26 6) e
  have h0 := congrArg (BitVec.extractLsb' 0 5) e
  have h1 := congrArg (BitVec.extractLsb' 21 5) e
  have h2 := congrArg (BitVec.extractLsb' 16 5) e
  have h3 := congrArg (BitVec.extractLsb' 11 5) e
  have h4 := congrArg (BitVec.extractLsb' 6 5) e
  have h5 := congrArg (BitVec.extractLsb' 5 1) e
  simp (disch := decide) only [fieldAbove, fieldBelow, Nat.reduceSub, fieldWhole] at hm h0 h1 h2 h3 h4 h5
  generalize encode (.amomax x0 x1 x2 x3 x4) = w at hm h0 h1 h2 h3 h4 h5 ⊢
  refine decode_major 26#6 hm rfl rfl rawWord_1A ?_ h
  unfold raw1A
  rw [h0, h1, h2, h3, h4, h5]
  rfl

theorem amoswp (x0 : BitVec 5) (x1 : BitVec 5) (x2 : BitVec 5) (x3 : BitVec 5) (x4 : BitVec 1) : Statement (.amoswp x0 x1 x2 x3 x4) := by
  intro _ h
  have e : encode (.amoswp x0 x1 x2 x3 x4) = 26#6 ++ x0 ++ x1 ++ x2 ++ x3 ++ x4 ++ 6#5 := rfl
  have hm := congrArg (BitVec.extractLsb' 26 6) e
  have h0 := congrArg (BitVec.extractLsb' 0 5) e
  have h1 := congrArg (BitVec.extractLsb' 21 5) e
  have h2 := congrArg (BitVec.extractLsb' 16 5) e
  have h3 := congrArg (BitVec.extractLsb' 11 5) e
  have h4 := congrArg (BitVec.extractLsb' 6 5) e
  have h5 := congrArg (BitVec.extractLsb' 5 1) e
  simp (disch := decide) only [fieldAbove, fieldBelow, Nat.reduceSub, fieldWhole] at hm h0 h1 h2 h3 h4 h5
  generalize encode (.amoswp x0 x1 x2 x3 x4) = w at hm h0 h1 h2 h3 h4 h5 ⊢
  refine decode_major 26#6 hm rfl rfl rawWord_1A ?_ h
  unfold raw1A
  rw [h0, h1, h2, h3, h4, h5]
  rfl

theorem cas (x0 : BitVec 5) (x1 : BitVec 5) (x2 : BitVec 5) (x3 : BitVec 5) (x4 : BitVec 1) : Statement (.cas x0 x1 x2 x3 x4) := by
  intro _ h
  have e : encode (.cas x0 x1 x2 x3 x4) = 26#6 ++ x0 ++ x1 ++ x2 ++ x3 ++ x4 ++ 7#5 := rfl
  have hm := congrArg (BitVec.extractLsb' 26 6) e
  have h0 := congrArg (BitVec.extractLsb' 0 5) e
  have h1 := congrArg (BitVec.extractLsb' 21 5) e
  have h2 := congrArg (BitVec.extractLsb' 16 5) e
  have h3 := congrArg (BitVec.extractLsb' 11 5) e
  have h4 := congrArg (BitVec.extractLsb' 6 5) e
  have h5 := congrArg (BitVec.extractLsb' 5 1) e
  simp (disch := decide) only [fieldAbove, fieldBelow, Nat.reduceSub, fieldWhole] at hm h0 h1 h2 h3 h4 h5
  generalize encode (.cas x0 x1 x2 x3 x4) = w at hm h0 h1 h2 h3 h4 h5 ⊢
  refine decode_major 26#6 hm rfl rfl rawWord_1A ?_ h
  unfold raw1A
  rw [h0, h1, h2, h3, h4, h5]
  rfl

theorem faddf (x0 : BitVec 5) (x1 : BitVec 5) (x2 : BitVec 5) (x3 : BitVec 5) : Statement (.faddf x0 x1 x2 x3) := by
  intro _ h
  have e : encode (.faddf x0 x1 x2 x3) = 26#6 ++ x0 ++ x1 ++ x2 ++ x3 ++ 0#1 ++ 8#5 := rfl
  have hm := congrArg (BitVec.extractLsb' 26 6) e
  have h0 := congrArg (BitVec.extractLsb' 0 5) e
  have h1 := congrArg (BitVec.extractLsb' 5 1) e
  have h2 := congrArg (BitVec.extractLsb' 21 5) e
  have h3 := congrArg (BitVec.extractLsb' 16 5) e
  have h4 := congrArg (BitVec.extractLsb' 11 5) e
  have h5 := congrArg (BitVec.extractLsb' 6 5) e
  simp (disch := decide) only [fieldAbove, fieldBelow, Nat.reduceSub, fieldWhole] at hm h0 h1 h2 h3 h4 h5
  generalize encode (.faddf x0 x1 x2 x3) = w at hm h0 h1 h2 h3 h4 h5 ⊢
  refine decode_major 26#6 hm rfl rfl rawWord_1A ?_ h
  unfold raw1A
  rw [h0, h1, h2, h3, h4, h5]
  rfl

theorem fenceAcq (x0 : BitVec 5) : Statement (.fenceAcq x0) := by
  intro _ h
  have e : encode (.fenceAcq x0) = 27#6 ++ 0#5 ++ x0 ++ 1#10 ++ 0#6 := rfl
  have hm := congrArg (BitVec.extractLsb' 26 6) e
  have h0 := congrArg (BitVec.extractLsb' 0 6) e
  have h1 := congrArg (BitVec.extractLsb' 21 5) e
  have h2 := congrArg (BitVec.extractLsb' 6 10) e
  have h3 := congrArg (BitVec.extractLsb' 16 5) e
  simp (disch := decide) only [fieldAbove, fieldBelow, Nat.reduceSub, fieldWhole] at hm h0 h1 h2 h3
  generalize encode (.fenceAcq x0) = w at hm h0 h1 h2 h3 ⊢
  refine decode_major 27#6 hm rfl rfl rawWord_1B ?_ h
  unfold raw1B
  rw [h0, h1, h2, h3]
  rfl

theorem fenceRel (x0 : BitVec 5) : Statement (.fenceRel x0) := by
  intro _ h
  have e : encode (.fenceRel x0) = 27#6 ++ 0#5 ++ x0 ++ 2#10 ++ 0#6 := rfl
  have hm := congrArg (BitVec.extractLsb' 26 6) e
  have h0 := congrArg (BitVec.extractLsb' 0 6) e
  have h1 := congrArg (BitVec.extractLsb' 21 5) e
  have h2 := congrArg (BitVec.extractLsb' 6 10) e
  have h3 := congrArg (BitVec.extractLsb' 16 5) e
  simp (disch := decide) only [fieldAbove, fieldBelow, Nat.reduceSub, fieldWhole] at hm h0 h1 h2 h3
  generalize encode (.fenceRel x0) = w at hm h0 h1 h2 h3 ⊢
  refine decode_major 27#6 hm rfl rfl rawWord_1B ?_ h
  unfold raw1B
  rw [h0, h1, h2, h3]
  rfl

theorem fenceFull (x0 : BitVec 5) : Statement (.fenceFull x0) := by
  intro _ h
  have e : encode (.fenceFull x0) = 27#6 ++ 0#5 ++ x0 ++ 3#10 ++ 0#6 := rfl
  have hm := congrArg (BitVec.extractLsb' 26 6) e
  have h0 := congrArg (BitVec.extractLsb' 0 6) e
  have h1 := congrArg (BitVec.extractLsb' 21 5) e
  have h2 := congrArg (BitVec.extractLsb' 6 10) e
  have h3 := congrArg (BitVec.extractLsb' 16 5) e
  simp (disch := decide) only [fieldAbove, fieldBelow, Nat.reduceSub, fieldWhole] at hm h0 h1 h2 h3
  generalize encode (.fenceFull x0) = w at hm h0 h1 h2 h3 ⊢
  refine decode_major 27#6 hm rfl rfl rawWord_1B ?_ h
  unfold raw1B
  rw [h0, h1, h2, h3]
  rfl

theorem segr (x0 : BitVec 5) (x1 : BitVec 2) (x2 : BitVec 3) : Statement (.segr x0 x1 x2) := by
  intro _ h
  have e : encode (.segr x0 x1 x2) = 27#6 ++ x0 ++ 0#10 ++ x1 ++ x2 ++ 1#6 := rfl
  have hm := congrArg (BitVec.extractLsb' 26 6) e
  have h0 := congrArg (BitVec.extractLsb' 0 6) e
  have h1 := congrArg (BitVec.extractLsb' 21 5) e
  have h2 := congrArg (BitVec.extractLsb' 11 10) e
  have h3 := congrArg (BitVec.extractLsb' 9 2) e
  have h4 := congrArg (BitVec.extractLsb' 6 3) e
  simp (disch := decide) only [fieldAbove, fieldBelow, Nat.reduceSub, fieldWhole] at hm h0 h1 h2 h3 h4
  generalize encode (.segr x0 x1 x2) = w at hm h0 h1 h2 h3 h4 ⊢
  refine decode_major 27#6 hm rfl rfl rawWord_1B ?_ h
  unfold raw1B
  rw [h0, h1, h2, h3, h4]
  rfl

theorem segw (x0 : BitVec 5) (x1 : BitVec 2) (x2 : BitVec 3) : Statement (.segw x0 x1 x2) := by
  intro _ h
  have e : encode (.segw x0 x1 x2) = 27#6 ++ 0#5 ++ x0 ++ 0#5 ++ x1 ++ x2 ++ 2#6 := rfl
  have hm := congrArg (BitVec.extractLsb' 26 6) e
  have h0 := congrArg (BitVec.extractLsb' 0 6) e
  have h1 := congrArg (BitVec.extractLsb' 21 5) e
  have h2 := congrArg (BitVec.extractLsb' 11 5) e
  have h3 := congrArg (BitVec.extractLsb' 16 5) e
  have h4 := congrArg (BitVec.extractLsb' 9 2) e
  have h5 := congrArg (BitVec.extractLsb' 6 3) e
  simp (disch := decide) only [fieldAbove, fieldBelow, Nat.reduceSub, fieldWhole] at hm h0 h1 h2 h3 h4 h5
  generalize encode (.segw x0 x1 x2) = w at hm h0 h1 h2 h3 h4 h5 ⊢
  refine decode_major 27#6 hm rfl rfl rawWord_1B ?_ h
  unfold raw1B
  rw [h0, h1, h2, h3, h4, h5]
  rfl

theorem vadd (x0 : BitVec 3) (x1 : BitVec 3) (x2 : BitVec 3) (x3 : BitVec 3) (x4 : BitVec 2) (x5 : BitVec 1) (x6 : BitVec 2) (x7 : BitVec 1) : Statement (.vadd x0 x1 x2 x3 x4 x5 x6 x7) := by
  intro _ h
  have e : encode (.vadd x0 x1 x2 x3 x4 x5 x6 x7) = 32#6 ++ x0 ++ x1 ++ x2 ++ x3 ++ x4 ++ x5 ++ x6 ++ x7 ++ 0#2 ++ 0#3 ++ 0#3 := rfl
  have hm := congrArg (BitVec.extractLsb' 26 6) e
  have h0 := congrArg (BitVec.extractLsb' 3 3) e
  have h1 := congrArg (BitVec.extractLsb' 6 2) e
  have h2 := congrArg (BitVec.extractLsb' 0 3) e
  have h3 := congrArg (BitVec.extractLsb' 23 3) e
  have h4 := congrArg (BitVec.extractLsb' 20 3) e
  have h5 := congrArg (BitVec.extractLsb' 17 3) e
  have h6 := congrArg (BitVec.extractLsb' 14 3) e
  have h7 := congrArg (BitVec.extractLsb' 12 2) e
  have h8 := congrArg (BitVec.extractLsb' 11 1) e
  have h9 := congrArg (BitVec.extractLsb' 9 2) e
  have h10 := congrArg (BitVec.extractLsb' 8 1) e
  simp (disch := decide) only [fieldAbove, fieldBelow, Nat.reduceSub, fieldWhole] at hm h0 h1 h2 h3 h4 h5 h6 h7 h8 h9 h10
  generalize encode (.vadd x0 x1 x2 x3 x4 x5 x6 x7) = w at hm h0 h1 h2 h3 h4 h5 h6 h7 h8 h9 h10 ⊢
  refine decode_major 32#6 hm rfl rfl rawWord_20 ?_ h
  unfold raw20
  rw [h0, h1, h2, h3, h4, h5, h6, h7, h8, h9, h10]
  rfl

theorem vsub (x0 : BitVec 3) (x1 : BitVec 3) (x2 : BitVec 3) (x3 : BitVec 3) (x4 : BitVec 2) (x5 : BitVec 1) (x6 : BitVec 2) (x7 : BitVec 1) : Statement (.vsub x0 x1 x2 x3 x4 x5 x6 x7) := by
  intro _ h
  have e : encode (.vsub x0 x1 x2 x3 x4 x5 x6 x7) = 32#6 ++ x0 ++ x1 ++ x2 ++ x3 ++ x4 ++ x5 ++ x6 ++ x7 ++ 0#2 ++ 0#3 ++ 1#3 := rfl
  have hm := congrArg (BitVec.extractLsb' 26 6) e
  have h0 := congrArg (BitVec.extractLsb' 3 3) e
  have h1 := congrArg (BitVec.extractLsb' 6 2) e
  have h2 := congrArg (BitVec.extractLsb' 0 3) e
  have h3 := congrArg (BitVec.extractLsb' 23 3) e
  have h4 := congrArg (BitVec.extractLsb' 20 3) e
  have h5 := congrArg (BitVec.extractLsb' 17 3) e
  have h6 := congrArg (BitVec.extractLsb' 14 3) e
  have h7 := congrArg (BitVec.extractLsb' 12 2) e
  have h8 := congrArg (BitVec.extractLsb' 11 1) e
  have h9 := congrArg (BitVec.extractLsb' 9 2) e
  have h10 := congrArg (BitVec.extractLsb' 8 1) e
  simp (disch := decide) only [fieldAbove, fieldBelow, Nat.reduceSub, fieldWhole] at hm h0 h1 h2 h3 h4 h5 h6 h7 h8 h9 h10
  generalize encode (.vsub x0 x1 x2 x3 x4 x5 x6 x7) = w at hm h0 h1 h2 h3 h4 h5 h6 h7 h8 h9 h10 ⊢
  refine decode_major 32#6 hm rfl rfl rawWord_20 ?_ h
  unfold raw20
  rw [h0, h1, h2, h3, h4, h5, h6, h7, h8, h9, h10]
  rfl

theorem vmul (x0 : BitVec 3) (x1 : BitVec 3) (x2 : BitVec 3) (x3 : BitVec 3) (x4 : BitVec 2) (x5 : BitVec 1) (x6 : BitVec 2) (x7 : BitVec 1) : Statement (.vmul x0 x1 x2 x3 x4 x5 x6 x7) := by
  intro _ h
  have e : encode (.vmul x0 x1 x2 x3 x4 x5 x6 x7) = 32#6 ++ x0 ++ x1 ++ x2 ++ x3 ++ x4 ++ x5 ++ x6 ++ x7 ++ 0#2 ++ 0#3 ++ 2#3 := rfl
  have hm := congrArg (BitVec.extractLsb' 26 6) e
  have h0 := congrArg (BitVec.extractLsb' 3 3) e
  have h1 := congrArg (BitVec.extractLsb' 6 2) e
  have h2 := congrArg (BitVec.extractLsb' 0 3) e
  have h3 := congrArg (BitVec.extractLsb' 23 3) e
  have h4 := congrArg (BitVec.extractLsb' 20 3) e
  have h5 := congrArg (BitVec.extractLsb' 17 3) e
  have h6 := congrArg (BitVec.extractLsb' 14 3) e
  have h7 := congrArg (BitVec.extractLsb' 12 2) e
  have h8 := congrArg (BitVec.extractLsb' 11 1) e
  have h9 := congrArg (BitVec.extractLsb' 9 2) e
  have h10 := congrArg (BitVec.extractLsb' 8 1) e
  simp (disch := decide) only [fieldAbove, fieldBelow, Nat.reduceSub, fieldWhole] at hm h0 h1 h2 h3 h4 h5 h6 h7 h8 h9 h10
  generalize encode (.vmul x0 x1 x2 x3 x4 x5 x6 x7) = w at hm h0 h1 h2 h3 h4 h5 h6 h7 h8 h9 h10 ⊢
  refine decode_major 32#6 hm rfl rfl rawWord_20 ?_ h
  unfold raw20
  rw [h0, h1, h2, h3, h4, h5, h6, h7, h8, h9, h10]
  rfl

theorem vfma (x0 : BitVec 3) (x1 : BitVec 3) (x2 : BitVec 3) (x3 : BitVec 3) (x4 : BitVec 2) (x5 : BitVec 1) (x6 : BitVec 2) (x7 : BitVec 1) : Statement (.vfma x0 x1 x2 x3 x4 x5 x6 x7) := by
  intro _ h
  have e : encode (.vfma x0 x1 x2 x3 x4 x5 x6 x7) = 32#6 ++ x0 ++ x1 ++ x2 ++ x3 ++ x4 ++ x5 ++ x6 ++ x7 ++ 0#2 ++ 0#3 ++ 3#3 := rfl
  have hm := congrArg (BitVec.extractLsb' 26 6) e
  have h0 := congrArg (BitVec.extractLsb' 3 3) e
  have h1 := congrArg (BitVec.extractLsb' 6 2) e
  have h2 := congrArg (BitVec.extractLsb' 0 3) e
  have h3 := congrArg (BitVec.extractLsb' 23 3) e
  have h4 := congrArg (BitVec.extractLsb' 20 3) e
  have h5 := congrArg (BitVec.extractLsb' 17 3) e
  have h6 := congrArg (BitVec.extractLsb' 14 3) e
  have h7 := congrArg (BitVec.extractLsb' 12 2) e
  have h8 := congrArg (BitVec.extractLsb' 11 1) e
  have h9 := congrArg (BitVec.extractLsb' 9 2) e
  have h10 := congrArg (BitVec.extractLsb' 8 1) e
  simp (disch := decide) only [fieldAbove, fieldBelow, Nat.reduceSub, fieldWhole] at hm h0 h1 h2 h3 h4 h5 h6 h7 h8 h9 h10
  generalize encode (.vfma x0 x1 x2 x3 x4 x5 x6 x7) = w at hm h0 h1 h2 h3 h4 h5 h6 h7 h8 h9 h10 ⊢
  refine decode_major 32#6 hm rfl rfl rawWord_20 ?_ h
  unfold raw20
  rw [h0, h1, h2, h3, h4, h5, h6, h7, h8, h9, h10]
  rfl

theorem vmin (x0 : BitVec 3) (x1 : BitVec 3) (x2 : BitVec 3) (x3 : BitVec 3) (x4 : BitVec 2) (x5 : BitVec 1) (x6 : BitVec 2) (x7 : BitVec 1) : Statement (.vmin x0 x1 x2 x3 x4 x5 x6 x7) := by
  intro _ h
  have e : encode (.vmin x0 x1 x2 x3 x4 x5 x6 x7) = 32#6 ++ x0 ++ x1 ++ x2 ++ x3 ++ x4 ++ x5 ++ x6 ++ x7 ++ 0#2 ++ 0#3 ++ 4#3 := rfl
  have hm := congrArg (BitVec.extractLsb' 26 6) e
  have h0 := congrArg (BitVec.extractLsb' 3 3) e
  have h1 := congrArg (BitVec.extractLsb' 6 2) e
  have h2 := congrArg (BitVec.extractLsb' 0 3) e
  have h3 := congrArg (BitVec.extractLsb' 23 3) e
  have h4 := congrArg (BitVec.extractLsb' 20 3) e
  have h5 := congrArg (BitVec.extractLsb' 17 3) e
  have h6 := congrArg (BitVec.extractLsb' 14 3) e
  have h7 := congrArg (BitVec.extractLsb' 12 2) e
  have h8 := congrArg (BitVec.extractLsb' 11 1) e
  have h9 := congrArg (BitVec.extractLsb' 9 2) e
  have h10 := congrArg (BitVec.extractLsb' 8 1) e
  simp (disch := decide) only [fieldAbove, fieldBelow, Nat.reduceSub, fieldWhole] at hm h0 h1 h2 h3 h4 h5 h6 h7 h8 h9 h10
  generalize encode (.vmin x0 x1 x2 x3 x4 x5 x6 x7) = w at hm h0 h1 h2 h3 h4 h5 h6 h7 h8 h9 h10 ⊢
  refine decode_major 32#6 hm rfl rfl rawWord_20 ?_ h
  unfold raw20
  rw [h0, h1, h2, h3, h4, h5, h6, h7, h8, h9, h10]
  rfl

theorem vmax (x0 : BitVec 3) (x1 : BitVec 3) (x2 : BitVec 3) (x3 : BitVec 3) (x4 : BitVec 2) (x5 : BitVec 1) (x6 : BitVec 2) (x7 : BitVec 1) : Statement (.vmax x0 x1 x2 x3 x4 x5 x6 x7) := by
  intro _ h
  have e : encode (.vmax x0 x1 x2 x3 x4 x5 x6 x7) = 32#6 ++ x0 ++ x1 ++ x2 ++ x3 ++ x4 ++ x5 ++ x6 ++ x7 ++ 0#2 ++ 0#3 ++ 5#3 := rfl
  have hm := congrArg (BitVec.extractLsb' 26 6) e
  have h0 := congrArg (BitVec.extractLsb' 3 3) e
  have h1 := congrArg (BitVec.extractLsb' 6 2) e
  have h2 := congrArg (BitVec.extractLsb' 0 3) e
  have h3 := congrArg (BitVec.extractLsb' 23 3) e
  have h4 := congrArg (BitVec.extractLsb' 20 3) e
  have h5 := congrArg (BitVec.extractLsb' 17 3) e
  have h6 := congrArg (BitVec.extractLsb' 14 3) e
  have h7 := congrArg (BitVec.extractLsb' 12 2) e
  have h8 := congrArg (BitVec.extractLsb' 11 1) e
  have h9 := congrArg (BitVec.extractLsb' 9 2) e
  have h10 := congrArg (BitVec.extractLsb' 8 1) e
  simp (disch := decide) only [fieldAbove, fieldBelow, Nat.reduceSub, fieldWhole] at hm h0 h1 h2 h3 h4 h5 h6 h7 h8 h9 h10
  generalize encode (.vmax x0 x1 x2 x3 x4 x5 x6 x7) = w at hm h0 h1 h2 h3 h4 h5 h6 h7 h8 h9 h10 ⊢
  refine decode_major 32#6 hm rfl rfl rawWord_20 ?_ h
  unfold raw20
  rw [h0, h1, h2, h3, h4, h5, h6, h7, h8, h9, h10]
  rfl

theorem vamin (x0 : BitVec 3) (x1 : BitVec 3) (x2 : BitVec 3) (x3 : BitVec 3) (x4 : BitVec 2) (x5 : BitVec 1) (x6 : BitVec 2) (x7 : BitVec 1) : Statement (.vamin x0 x1 x2 x3 x4 x5 x6 x7) := by
  intro _ h
  have e : encode (.vamin x0 x1 x2 x3 x4 x5 x6 x7) = 32#6 ++ x0 ++ x1 ++ x2 ++ x3 ++ x4 ++ x5 ++ x6 ++ x7 ++ 0#2 ++ 0#3 ++ 6#3 := rfl
  have hm := congrArg (BitVec.extractLsb' 26 6) e
  have h0 := congrArg (BitVec.extractLsb' 3 3) e
  have h1 := congrArg (BitVec.extractLsb' 6 2) e
  have h2 := congrArg (BitVec.extractLsb' 0 3) e
  have h3 := congrArg (BitVec.extractLsb' 23 3) e
  have h4 := congrArg (BitVec.extractLsb' 20 3) e
  have h5 := congrArg (BitVec.extractLsb' 17 3) e
  have h6 := congrArg (BitVec.extractLsb' 14 3) e
  have h7 := congrArg (BitVec.extractLsb' 12 2) e
  have h8 := congrArg (BitVec.extractLsb' 11 1) e
  have h9 := congrArg (BitVec.extractLsb' 9 2) e
  have h10 := congrArg (BitVec.extractLsb' 8 1) e
  simp (disch := decide) only [fieldAbove, fieldBelow, Nat.reduceSub, fieldWhole] at hm h0 h1 h2 h3 h4 h5 h6 h7 h8 h9 h10
  generalize encode (.vamin x0 x1 x2 x3 x4 x5 x6 x7) = w at hm h0 h1 h2 h3 h4 h5 h6 h7 h8 h9 h10 ⊢
  refine decode_major 32#6 hm rfl rfl rawWord_20 ?_ h
  unfold raw20
  rw [h0, h1, h2, h3, h4, h5, h6, h7, h8, h9, h10]
  rfl

theorem vamax (x0 : BitVec 3) (x1 : BitVec 3) (x2 : BitVec 3) (x3 : BitVec 3) (x4 : BitVec 2) (x5 : BitVec 1) (x6 : BitVec 2) (x7 : BitVec 1) : Statement (.vamax x0 x1 x2 x3 x4 x5 x6 x7) := by
  intro _ h
  have e : encode (.vamax x0 x1 x2 x3 x4 x5 x6 x7) = 32#6 ++ x0 ++ x1 ++ x2 ++ x3 ++ x4 ++ x5 ++ x6 ++ x7 ++ 0#2 ++ 0#3 ++ 7#3 := rfl
  have hm := congrArg (BitVec.extractLsb' 26 6) e
  have h0 := congrArg (BitVec.extractLsb' 3 3) e
  have h1 := congrArg (BitVec.extractLsb' 6 2) e
  have h2 := congrArg (BitVec.extractLsb' 0 3) e
  have h3 := congrArg (BitVec.extractLsb' 23 3) e
  have h4 := congrArg (BitVec.extractLsb' 20 3) e
  have h5 := congrArg (BitVec.extractLsb' 17 3) e
  have h6 := congrArg (BitVec.extractLsb' 14 3) e
  have h7 := congrArg (BitVec.extractLsb' 12 2) e
  have h8 := congrArg (BitVec.extractLsb' 11 1) e
  have h9 := congrArg (BitVec.extractLsb' 9 2) e
  have h10 := congrArg (BitVec.extractLsb' 8 1) e
  simp (disch := decide) only [fieldAbove, fieldBelow, Nat.reduceSub, fieldWhole] at hm h0 h1 h2 h3 h4 h5 h6 h7 h8 h9 h10
  generalize encode (.vamax x0 x1 x2 x3 x4 x5 x6 x7) = w at hm h0 h1 h2 h3 h4 h5 h6 h7 h8 h9 h10 ⊢
  refine decode_major 32#6 hm rfl rfl rawWord_20 ?_ h
  unfold raw20
  rw [h0, h1, h2, h3, h4, h5, h6, h7, h8, h9, h10]
  rfl

theorem vand (x0 : BitVec 3) (x1 : BitVec 3) (x2 : BitVec 3) (x3 : BitVec 3) (x4 : BitVec 2) (x5 : BitVec 1) (x6 : BitVec 2) (x7 : BitVec 1) : Statement (.vand x0 x1 x2 x3 x4 x5 x6 x7) := by
  intro _ h
  have e : encode (.vand x0 x1 x2 x3 x4 x5 x6 x7) = 32#6 ++ x0 ++ x1 ++ x2 ++ x3 ++ x4 ++ x5 ++ x6 ++ x7 ++ 0#2 ++ 1#3 ++ 0#3 := rfl
  have hm := congrArg (BitVec.extractLsb' 26 6) e
  have h0 := congrArg (BitVec.extractLsb' 3 3) e
  have h1 := congrArg (BitVec.extractLsb' 6 2) e
  have h2 := congrArg (BitVec.extractLsb' 0 3) e
  have h3 := congrArg (BitVec.extractLsb' 23 3) e
  have h4 := congrArg (BitVec.extractLsb' 20 3) e
  have h5 := congrArg (BitVec.extractLsb' 17 3) e
  have h6 := congrArg (BitVec.extractLsb' 14 3) e
  have h7 := congrArg (BitVec.extractLsb' 12 2) e
  have h8 := congrArg (BitVec.extractLsb' 11 1) e
  have h9 := congrArg (BitVec.extractLsb' 9 2) e
  have h10 := congrArg (BitVec.extractLsb' 8 1) e
  simp (disch := decide) only [fieldAbove, fieldBelow, Nat.reduceSub, fieldWhole] at hm h0 h1 h2 h3 h4 h5 h6 h7 h8 h9 h10
  generalize encode (.vand x0 x1 x2 x3 x4 x5 x6 x7) = w at hm h0 h1 h2 h3 h4 h5 h6 h7 h8 h9 h10 ⊢
  refine decode_major 32#6 hm rfl rfl rawWord_20 ?_ h
  unfold raw20
  rw [h0, h1, h2, h3, h4, h5, h6, h7, h8, h9, h10]
  rfl

theorem vor (x0 : BitVec 3) (x1 : BitVec 3) (x2 : BitVec 3) (x3 : BitVec 3) (x4 : BitVec 2) (x5 : BitVec 1) (x6 : BitVec 2) (x7 : BitVec 1) : Statement (.vor x0 x1 x2 x3 x4 x5 x6 x7) := by
  intro _ h
  have e : encode (.vor x0 x1 x2 x3 x4 x5 x6 x7) = 32#6 ++ x0 ++ x1 ++ x2 ++ x3 ++ x4 ++ x5 ++ x6 ++ x7 ++ 0#2 ++ 1#3 ++ 1#3 := rfl
  have hm := congrArg (BitVec.extractLsb' 26 6) e
  have h0 := congrArg (BitVec.extractLsb' 3 3) e
  have h1 := congrArg (BitVec.extractLsb' 6 2) e
  have h2 := congrArg (BitVec.extractLsb' 0 3) e
  have h3 := congrArg (BitVec.extractLsb' 23 3) e
  have h4 := congrArg (BitVec.extractLsb' 20 3) e
  have h5 := congrArg (BitVec.extractLsb' 17 3) e
  have h6 := congrArg (BitVec.extractLsb' 14 3) e
  have h7 := congrArg (BitVec.extractLsb' 12 2) e
  have h8 := congrArg (BitVec.extractLsb' 11 1) e
  have h9 := congrArg (BitVec.extractLsb' 9 2) e
  have h10 := congrArg (BitVec.extractLsb' 8 1) e
  simp (disch := decide) only [fieldAbove, fieldBelow, Nat.reduceSub, fieldWhole] at hm h0 h1 h2 h3 h4 h5 h6 h7 h8 h9 h10
  generalize encode (.vor x0 x1 x2 x3 x4 x5 x6 x7) = w at hm h0 h1 h2 h3 h4 h5 h6 h7 h8 h9 h10 ⊢
  refine decode_major 32#6 hm rfl rfl rawWord_20 ?_ h
  unfold raw20
  rw [h0, h1, h2, h3, h4, h5, h6, h7, h8, h9, h10]
  rfl

theorem vxor (x0 : BitVec 3) (x1 : BitVec 3) (x2 : BitVec 3) (x3 : BitVec 3) (x4 : BitVec 2) (x5 : BitVec 1) (x6 : BitVec 2) (x7 : BitVec 1) : Statement (.vxor x0 x1 x2 x3 x4 x5 x6 x7) := by
  intro _ h
  have e : encode (.vxor x0 x1 x2 x3 x4 x5 x6 x7) = 32#6 ++ x0 ++ x1 ++ x2 ++ x3 ++ x4 ++ x5 ++ x6 ++ x7 ++ 0#2 ++ 1#3 ++ 2#3 := rfl
  have hm := congrArg (BitVec.extractLsb' 26 6) e
  have h0 := congrArg (BitVec.extractLsb' 3 3) e
  have h1 := congrArg (BitVec.extractLsb' 6 2) e
  have h2 := congrArg (BitVec.extractLsb' 0 3) e
  have h3 := congrArg (BitVec.extractLsb' 23 3) e
  have h4 := congrArg (BitVec.extractLsb' 20 3) e
  have h5 := congrArg (BitVec.extractLsb' 17 3) e
  have h6 := congrArg (BitVec.extractLsb' 14 3) e
  have h7 := congrArg (BitVec.extractLsb' 12 2) e
  have h8 := congrArg (BitVec.extractLsb' 11 1) e
  have h9 := congrArg (BitVec.extractLsb' 9 2) e
  have h10 := congrArg (BitVec.extractLsb' 8 1) e
  simp (disch := decide) only [fieldAbove, fieldBelow, Nat.reduceSub, fieldWhole] at hm h0 h1 h2 h3 h4 h5 h6 h7 h8 h9 h10
  generalize encode (.vxor x0 x1 x2 x3 x4 x5 x6 x7) = w at hm h0 h1 h2 h3 h4 h5 h6 h7 h8 h9 h10 ⊢
  refine decode_major 32#6 hm rfl rfl rawWord_20 ?_ h
  unfold raw20
  rw [h0, h1, h2, h3, h4, h5, h6, h7, h8, h9, h10]
  rfl

theorem vshl (x0 : BitVec 3) (x1 : BitVec 3) (x2 : BitVec 3) (x3 : BitVec 3) (x4 : BitVec 2) (x5 : BitVec 1) (x6 : BitVec 2) (x7 : BitVec 1) : Statement (.vshl x0 x1 x2 x3 x4 x5 x6 x7) := by
  intro _ h
  have e : encode (.vshl x0 x1 x2 x3 x4 x5 x6 x7) = 32#6 ++ x0 ++ x1 ++ x2 ++ x3 ++ x4 ++ x5 ++ x6 ++ x7 ++ 0#2 ++ 1#3 ++ 3#3 := rfl
  have hm := congrArg (BitVec.extractLsb' 26 6) e
  have h0 := congrArg (BitVec.extractLsb' 3 3) e
  have h1 := congrArg (BitVec.extractLsb' 6 2) e
  have h2 := congrArg (BitVec.extractLsb' 0 3) e
  have h3 := congrArg (BitVec.extractLsb' 23 3) e
  have h4 := congrArg (BitVec.extractLsb' 20 3) e
  have h5 := congrArg (BitVec.extractLsb' 17 3) e
  have h6 := congrArg (BitVec.extractLsb' 14 3) e
  have h7 := congrArg (BitVec.extractLsb' 12 2) e
  have h8 := congrArg (BitVec.extractLsb' 11 1) e
  have h9 := congrArg (BitVec.extractLsb' 9 2) e
  have h10 := congrArg (BitVec.extractLsb' 8 1) e
  simp (disch := decide) only [fieldAbove, fieldBelow, Nat.reduceSub, fieldWhole] at hm h0 h1 h2 h3 h4 h5 h6 h7 h8 h9 h10
  generalize encode (.vshl x0 x1 x2 x3 x4 x5 x6 x7) = w at hm h0 h1 h2 h3 h4 h5 h6 h7 h8 h9 h10 ⊢
  refine decode_major 32#6 hm rfl rfl rawWord_20 ?_ h
  unfold raw20
  rw [h0, h1, h2, h3, h4, h5, h6, h7, h8, h9, h10]
  rfl

theorem vshr (x0 : BitVec 3) (x1 : BitVec 3) (x2 : BitVec 3) (x3 : BitVec 3) (x4 : BitVec 2) (x5 : BitVec 1) (x6 : BitVec 2) (x7 : BitVec 1) : Statement (.vshr x0 x1 x2 x3 x4 x5 x6 x7) := by
  intro _ h
  have e : encode (.vshr x0 x1 x2 x3 x4 x5 x6 x7) = 32#6 ++ x0 ++ x1 ++ x2 ++ x3 ++ x4 ++ x5 ++ x6 ++ x7 ++ 0#2 ++ 1#3 ++ 4#3 := rfl
  have hm := congrArg (BitVec.extractLsb' 26 6) e
  have h0 := congrArg (BitVec.extractLsb' 3 3) e
  have h1 := congrArg (BitVec.extractLsb' 6 2) e
  have h2 := congrArg (BitVec.extractLsb' 0 3) e
  have h3 := congrArg (BitVec.extractLsb' 23 3) e
  have h4 := congrArg (BitVec.extractLsb' 20 3) e
  have h5 := congrArg (BitVec.extractLsb' 17 3) e
  have h6 := congrArg (BitVec.extractLsb' 14 3) e
  have h7 := congrArg (BitVec.extractLsb' 12 2) e
  have h8 := congrArg (BitVec.extractLsb' 11 1) e
  have h9 := congrArg (BitVec.extractLsb' 9 2) e
  have h10 := congrArg (BitVec.extractLsb' 8 1) e
  simp (disch := decide) only [fieldAbove, fieldBelow, Nat.reduceSub, fieldWhole] at hm h0 h1 h2 h3 h4 h5 h6 h7 h8 h9 h10
  generalize encode (.vshr x0 x1 x2 x3 x4 x5 x6 x7) = w at hm h0 h1 h2 h3 h4 h5 h6 h7 h8 h9 h10 ⊢
  refine decode_major 32#6 hm rfl rfl rawWord_20 ?_ h
  unfold raw20
  rw [h0, h1, h2, h3, h4, h5, h6, h7, h8, h9, h10]
  rfl

theorem vsha (x0 : BitVec 3) (x1 : BitVec 3) (x2 : BitVec 3) (x3 : BitVec 3) (x4 : BitVec 2) (x5 : BitVec 1) (x6 : BitVec 2) (x7 : BitVec 1) : Statement (.vsha x0 x1 x2 x3 x4 x5 x6 x7) := by
  intro _ h
  have e : encode (.vsha x0 x1 x2 x3 x4 x5 x6 x7) = 32#6 ++ x0 ++ x1 ++ x2 ++ x3 ++ x4 ++ x5 ++ x6 ++ x7 ++ 0#2 ++ 1#3 ++ 5#3 := rfl
  have hm := congrArg (BitVec.extractLsb' 26 6) e
  have h0 := congrArg (BitVec.extractLsb' 3 3) e
  have h1 := congrArg (BitVec.extractLsb' 6 2) e
  have h2 := congrArg (BitVec.extractLsb' 0 3) e
  have h3 := congrArg (BitVec.extractLsb' 23 3) e
  have h4 := congrArg (BitVec.extractLsb' 20 3) e
  have h5 := congrArg (BitVec.extractLsb' 17 3) e
  have h6 := congrArg (BitVec.extractLsb' 14 3) e
  have h7 := congrArg (BitVec.extractLsb' 12 2) e
  have h8 := congrArg (BitVec.extractLsb' 11 1) e
  have h9 := congrArg (BitVec.extractLsb' 9 2) e
  have h10 := congrArg (BitVec.extractLsb' 8 1) e
  simp (disch := decide) only [fieldAbove, fieldBelow, Nat.reduceSub, fieldWhole] at hm h0 h1 h2 h3 h4 h5 h6 h7 h8 h9 h10
  generalize encode (.vsha x0 x1 x2 x3 x4 x5 x6 x7) = w at hm h0 h1 h2 h3 h4 h5 h6 h7 h8 h9 h10 ⊢
  refine decode_major 32#6 hm rfl rfl rawWord_20 ?_ h
  unfold raw20
  rw [h0, h1, h2, h3, h4, h5, h6, h7, h8, h9, h10]
  rfl

theorem vcmp (x0 : BitVec 3) (x1 : BitVec 3) (x2 : BitVec 3) (x3 : BitVec 3) (x4 : BitVec 2) (x5 : BitVec 1) (x6 : BitVec 2) (x7 : BitVec 1) (x8 : BitVec 3) : Statement (.vcmp x0 x1 x2 x3 x4 x5 x6 x7 x8) := by
  intro _ h
  have e : encode (.vcmp x0 x1 x2 x3 x4 x5 x6 x7 x8) = 32#6 ++ x0 ++ x1 ++ x2 ++ x3 ++ x4 ++ x5 ++ x6 ++ x7 ++ 0#2 ++ 2#3 ++ x8 := rfl
  have hm := congrArg (BitVec.extractLsb' 26 6) e
  have h0 := congrArg (BitVec.extractLsb' 3 3) e
  have h1 := congrArg (BitVec.extractLsb' 6 2) e
  have h2 := congrArg (BitVec.extractLsb' 23 3) e
  have h3 := congrArg (BitVec.extractLsb' 20 3) e
  have h4 := congrArg (BitVec.extractLsb' 17 3) e
  have h5 := congrArg (BitVec.extractLsb' 14 3) e
  have h6 := congrArg (BitVec.extractLsb' 12 2) e
  have h7 := congrArg (BitVec.extractLsb' 11 1) e
  have h8 := congrArg (BitVec.extractLsb' 9 2) e
  have h9 := congrArg (BitVec.extractLsb' 8 1) e
  have h10 := congrArg (BitVec.extractLsb' 0 3) e
  simp (disch := decide) only [fieldAbove, fieldBelow, Nat.reduceSub, fieldWhole] at hm h0 h1 h2 h3 h4 h5 h6 h7 h8 h9 h10
  generalize encode (.vcmp x0 x1 x2 x3 x4 x5 x6 x7 x8) = w at hm h0 h1 h2 h3 h4 h5 h6 h7 h8 h9 h10 ⊢
  refine decode_major 32#6 hm rfl rfl rawWord_20 ?_ h
  unfold raw20
  rw [h0, h1, h2, h3, h4, h5, h6, h7, h8, h9, h10]
  rfl

theorem vsel (x0 : BitVec 3) (x1 : BitVec 3) (x2 : BitVec 3) (x3 : BitVec 3) (x4 : BitVec 1) : Statement (.vsel x0 x1 x2 x3 x4) := by
  intro _ h
  have e : encode (.vsel x0 x1 x2 x3 x4) = 32#6 ++ x0 ++ x1 ++ x2 ++ x3 ++ 20#5 ++ x4 ++ 0#2 ++ 3#3 ++ 0#3 := rfl
  have hm := congrArg (BitVec.extractLsb' 26 6) e
  have h0 := congrArg (BitVec.extractLsb' 3 3) e
  have h1 := congrArg (BitVec.extractLsb' 6 2) e
  have h2 := congrArg (BitVec.extractLsb' 0 3) e
  have h3 := congrArg (BitVec.extractLsb' 9 5) e
  have h4 := congrArg (BitVec.extractLsb' 23 3) e
  have h5 := congrArg (BitVec.extractLsb' 20 3) e
  have h6 := congrArg (BitVec.extractLsb' 17 3) e
  have h7 := congrArg (BitVec.extractLsb' 14 3) e
  have h8 := congrArg (BitVec.extractLsb' 8 1) e
  simp (disch := decide) only [fieldAbove, fieldBelow, Nat.reduceSub, fieldWhole] at hm h0 h1 h2 h3 h4 h5 h6 h7 h8
  generalize encode (.vsel x0 x1 x2 x3 x4) = w at hm h0 h1 h2 h3 h4 h5 h6 h7 h8 ⊢
  refine decode_major 32#6 hm rfl rfl rawWord_20 ?_ h
  unfold raw20
  rw [h0, h1, h2, h3, h4, h5, h6, h7, h8]
  rfl

theorem vld (x0 : BitVec 3) (x1 : BitVec 3) (x2 : BitVec 1) (x3 : BitVec 5) (x4 : BitVec 6) : Statement (.vld x0 x1 x2 x3 x4) := by
  intro _ h
  have e : encode (.vld x0 x1 x2 x3 x4) = 33#6 ++ x0 ++ 0#6 ++ x1 ++ 0#2 ++ x2 ++ x3 ++ x4 := rfl
  have hm := congrArg (BitVec.extractLsb' 26 6) e
  have h0 := congrArg (BitVec.extractLsb' 12 2) e
  have h1 := congrArg (BitVec.extractLsb' 17 6) e
  have h2 := congrArg (BitVec.extractLsb' 23 3) e
  have h3 := congrArg (BitVec.extractLsb' 14 3) e
  have h4 := congrArg (BitVec.extractLsb' 11 1) e
  have h5 := congrArg (BitVec.extractLsb' 6 5) e
  have h6 := congrArg (BitVec.extractLsb' 0 6) e
  simp (disch := decide) only [fieldAbove, fieldBelow, Nat.reduceSub, fieldWhole] at hm h0 h1 h2 h3 h4 h5 h6
  generalize encode (.vld x0 x1 x2 x3 x4) = w at hm h0 h1 h2 h3 h4 h5 h6 ⊢
  refine decode_major 33#6 hm rfl rfl rawWord_21 ?_ h
  unfold raw21
  rw [h0, h1, h2, h3, h4, h5, h6]
  rfl

theorem vst (x0 : BitVec 3) (x1 : BitVec 3) (x2 : BitVec 1) (x3 : BitVec 5) (x4 : BitVec 6) : Statement (.vst x0 x1 x2 x3 x4) := by
  intro _ h
  have e : encode (.vst x0 x1 x2 x3 x4) = 33#6 ++ x0 ++ 0#6 ++ x1 ++ 1#2 ++ x2 ++ x3 ++ x4 := rfl
  have hm := congrArg (BitVec.extractLsb' 26 6) e
  have h0 := congrArg (BitVec.extractLsb' 12 2) e
  have h1 := congrArg (BitVec.extractLsb' 17 6) e
  have h2 := congrArg (BitVec.extractLsb' 23 3) e
  have h3 := congrArg (BitVec.extractLsb' 14 3) e
  have h4 := congrArg (BitVec.extractLsb' 11 1) e
  have h5 := congrArg (BitVec.extractLsb' 6 5) e
  have h6 := congrArg (BitVec.extractLsb' 0 6) e
  simp (disch := decide) only [fieldAbove, fieldBelow, Nat.reduceSub, fieldWhole] at hm h0 h1 h2 h3 h4 h5 h6
  generalize encode (.vst x0 x1 x2 x3 x4) = w at hm h0 h1 h2 h3 h4 h5 h6 ⊢
  refine decode_major 33#6 hm rfl rfl rawWord_21 ?_ h
  unfold raw21
  rw [h0, h1, h2, h3, h4, h5, h6]
  rfl

theorem vldx (x0 : BitVec 3) (x1 : BitVec 3) (x2 : BitVec 3) (x3 : BitVec 1) (x4 : BitVec 5) (x5 : BitVec 2) : Statement (.vldx x0 x1 x2 x3 x4 x5) := by
  intro _ h
  have e : encode (.vldx x0 x1 x2 x3 x4 x5) = 33#6 ++ x0 ++ 0#3 ++ x1 ++ x2 ++ 2#2 ++ x3 ++ x4 ++ 0#4 ++ x5 := rfl
  have hm := congrArg (BitVec.extractLsb' 26 6) e
  have h0 := congrArg (BitVec.extractLsb' 12 2) e
  have h1 := congrArg (BitVec.extractLsb' 20 3) e
  have h2 := congrArg (BitVec.extractLsb' 2 4) e
  have h3 := congrArg (BitVec.extractLsb' 23 3) e
  have h4 := congrArg (BitVec.extractLsb' 17 3) e
  have h5 := congrArg (BitVec.extractLsb' 14 3) e
  have h6 := congrArg (BitVec.extractLsb' 11 1) e
  have h7 := congrArg (BitVec.extractLsb' 6 5) e
  have h8 := congrArg (BitVec.extractLsb' 0 2) e
  simp (disch := decide) only [fieldAbove, fieldBelow, Nat.reduceSub, fieldWhole] at hm h0 h1 h2 h3 h4 h5 h6 h7 h8
  generalize encode (.vldx x0 x1 x2 x3 x4 x5) = w at hm h0 h1 h2 h3 h4 h5 h6 h7 h8 ⊢
  refine decode_major 33#6 hm rfl rfl rawWord_21 ?_ h
  unfold raw21
  rw [h0, h1, h2, h3, h4, h5, h6, h7, h8]
  rfl

theorem vstx (x0 : BitVec 3) (x1 : BitVec 3) (x2 : BitVec 3) (x3 : BitVec 1) (x4 : BitVec 5) (x5 : BitVec 2) : Statement (.vstx x0 x1 x2 x3 x4 x5) := by
  intro _ h
  have e : encode (.vstx x0 x1 x2 x3 x4 x5) = 33#6 ++ x0 ++ 0#3 ++ x1 ++ x2 ++ 3#2 ++ x3 ++ x4 ++ 0#4 ++ x5 := rfl
  have hm := congrArg (BitVec.extractLsb' 26 6) e
  have h0 := congrArg (BitVec.extractLsb' 12 2) e
  have h1 := congrArg (BitVec.extractLsb' 20 3) e
  have h2 := congrArg (BitVec.extractLsb' 2 4) e
  have h3 := congrArg (BitVec.extractLsb' 23 3) e
  have h4 := congrArg (BitVec.extractLsb' 17 3) e
  have h5 := congrArg (BitVec.extractLsb' 14 3) e
  have h6 := congrArg (BitVec.extractLsb' 11 1) e
  have h7 := congrArg (BitVec.extractLsb' 6 5) e
  have h8 := congrArg (BitVec.extractLsb' 0 2) e
  simp (disch := decide) only [fieldAbove, fieldBelow, Nat.reduceSub, fieldWhole] at hm h0 h1 h2 h3 h4 h5 h6 h7 h8
  generalize encode (.vstx x0 x1 x2 x3 x4 x5) = w at hm h0 h1 h2 h3 h4 h5 h6 h7 h8 ⊢
  refine decode_major 33#6 hm rfl rfl rawWord_21 ?_ h
  unfold raw21
  rw [h0, h1, h2, h3, h4, h5, h6, h7, h8]
  rfl

theorem vcvt (x0 : BitVec 3) (x1 : BitVec 3) (x2 : BitVec 3) (x3 : BitVec 3) (x4 : BitVec 4) (x5 : BitVec 4) (x6 : BitVec 1) : Statement (.vcvt x0 x1 x2 x3 x4 x5 x6) := by
  intro _ h
  have e : encode (.vcvt x0 x1 x2 x3 x4 x5 x6) = 34#6 ++ x0 ++ x1 ++ x2 ++ x3 ++ x4 ++ x5 ++ x6 ++ 0#5 := rfl
  have hm := congrArg (BitVec.extractLsb' 26 6) e
  have h0 := congrArg (BitVec.extractLsb' 0 5) e
  have h1 := congrArg (BitVec.extractLsb' 23 3) e
  have h2 := congrArg (BitVec.extractLsb' 20 3) e
  have h3 := congrArg (BitVec.extractLsb' 17 3) e
  have h4 := congrArg (BitVec.extractLsb' 14 3) e
  have h5 := congrArg (BitVec.extractLsb' 10 4) e
  have h6 := congrArg (BitVec.extractLsb' 6 4) e
  have h7 := congrArg (BitVec.extractLsb' 5 1) e
  simp (disch := decide) only [fieldAbove, fieldBelow, Nat.reduceSub, fieldWhole] at hm h0 h1 h2 h3 h4 h5 h6 h7
  generalize encode (.vcvt x0 x1 x2 x3 x4 x5 x6) = w at hm h0 h1 h2 h3 h4 h5 h6 h7 ⊢
  refine decode_major 34#6 hm rfl rfl rawWord_22 ?_ h
  unfold raw22
  rw [h0, h1, h2, h3, h4, h5, h6, h7]
  rfl

theorem vqnt (x0 : BitVec 3) (x1 : BitVec 3) (x2 : BitVec 3) (x3 : BitVec 3) (x4 : BitVec 4) : Statement (.vqnt x0 x1 x2 x3 x4) := by
  intro _ h
  have e : encode (.vqnt x0 x1 x2 x3 x4) = 34#6 ++ x0 ++ x1 ++ x2 ++ x3 ++ 4#4 ++ x4 ++ 0#1 ++ 1#5 := rfl
  have hm := congrArg (BitVec.extractLsb' 26 6) e
  have h0 := congrArg (BitVec.extractLsb' 0 5) e
  have h1 := congrArg (BitVec.extractLsb' 10 4) e
  have h2 := congrArg (BitVec.extractLsb' 5 1) e
  have h3 := congrArg (BitVec.extractLsb' 23 3) e
  have h4 := congrArg (BitVec.extractLsb' 20 3) e
  have h5 := congrArg (BitVec.extractLsb' 17 3) e
  have h6 := congrArg (BitVec.extractLsb' 14 3) e
  have h7 := congrArg (BitVec.extractLsb' 6 4) e
  simp (disch := decide) only [fieldAbove, fieldBelow, Nat.reduceSub, fieldWhole] at hm h0 h1 h2 h3 h4 h5 h6 h7
  generalize encode (.vqnt x0 x1 x2 x3 x4) = w at hm h0 h1 h2 h3 h4 h5 h6 h7 ⊢
  refine decode_major 34#6 hm rfl rfl rawWord_22 ?_ h
  unfold raw22
  rw [h0, h1, h2, h3, h4, h5, h6, h7]
  rfl

theorem vdqnt (x0 : BitVec 3) (x1 : BitVec 3) (x2 : BitVec 3) (x3 : BitVec 3) (x4 : BitVec 4) : Statement (.vdqnt x0 x1 x2 x3 x4) := by
  intro _ h
  have e : encode (.vdqnt x0 x1 x2 x3 x4) = 34#6 ++ x0 ++ x1 ++ x2 ++ x3 ++ x4 ++ 8#5 ++ 2#5 := rfl
  have hm := congrArg (BitVec.extractLsb' 26 6) e
  have h0 := congrArg (BitVec.extractLsb' 0 5) e
  have h1 := congrArg (BitVec.extractLsb' 10 4) e
  have h2 := congrArg (BitVec.extractLsb' 5 1) e
  have h3 := congrArg (BitVec.extractLsb' 5 5) e
  have h4 := congrArg (BitVec.extractLsb' 23 3) e
  have h5 := congrArg (BitVec.extractLsb' 20 3) e
  have h6 := congrArg (BitVec.extractLsb' 17 3) e
  have h7 := congrArg (BitVec.extractLsb' 14 3) e
  simp (disch := decide) only [fieldAbove, fieldBelow, Nat.reduceSub, fieldWhole] at hm h0 h1 h2 h3 h4 h5 h6 h7
  generalize encode (.vdqnt x0 x1 x2 x3 x4) = w at hm h0 h1 h2 h3 h4 h5 h6 h7 ⊢
  refine decode_major 34#6 hm rfl rfl rawWord_22 ?_ h
  unfold raw22
  rw [h0, h1, h2, h3, h4, h5, h6, h7]
  rfl

theorem vqsplit (x0 : BitVec 3) (x1 : BitVec 3) (x2 : BitVec 3) (x3 : BitVec 3) : Statement (.vqsplit x0 x1 x2 x3) := by
  intro _ h
  have e : encode (.vqsplit x0 x1 x2 x3) = 34#6 ++ x0 ++ x1 ++ x2 ++ x3 ++ 136#9 ++ 3#5 := rfl
  have hm := congrArg (BitVec.extractLsb' 26 6) e
  have h0 := congrArg (BitVec.extractLsb' 0 5) e
  have h1 := congrArg (BitVec.extractLsb' 10 4) e
  have h2 := congrArg (BitVec.extractLsb' 5 1) e
  have h3 := congrArg (BitVec.extractLsb' 5 5) e
  have h4 := congrArg (BitVec.extractLsb' 5 9) e
  have h5 := congrArg (BitVec.extractLsb' 23 3) e
  have h6 := congrArg (BitVec.extractLsb' 20 3) e
  have h7 := congrArg (BitVec.extractLsb' 17 3) e
  have h8 := congrArg (BitVec.extractLsb' 14 3) e
  simp (disch := decide) only [fieldAbove, fieldBelow, Nat.reduceSub, fieldWhole] at hm h0 h1 h2 h3 h4 h5 h6 h7 h8
  generalize encode (.vqsplit x0 x1 x2 x3) = w at hm h0 h1 h2 h3 h4 h5 h6 h7 h8 ⊢
  refine decode_major 34#6 hm rfl rfl rawWord_22 ?_ h
  unfold raw22
  rw [h0, h1, h2, h3, h4, h5, h6, h7, h8]
  rfl

theorem vshup (x0 : BitVec 3) (x1 : BitVec 3) (x2 : BitVec 3) (x3 : BitVec 2) (x4 : BitVec 7) : Statement (.vshup x0 x1 x2 x3 x4) := by
  intro _ h
  have e : encode (.vshup x0 x1 x2 x3 x4) = 35#6 ++ x0 ++ x1 ++ x2 ++ 0#3 ++ 0#5 ++ x3 ++ x4 := rfl
  have hm := congrArg (BitVec.extractLsb' 26 6) e
  have h0 := congrArg (BitVec.extractLsb' 9 5) e
  have h1 := congrArg (BitVec.extractLsb' 14 3) e
  have h2 := congrArg (BitVec.extractLsb' 23 3) e
  have h3 := congrArg (BitVec.extractLsb' 20 3) e
  have h4 := congrArg (BitVec.extractLsb' 17 3) e
  have h5 := congrArg (BitVec.extractLsb' 7 2) e
  have h6 := congrArg (BitVec.extractLsb' 0 7) e
  simp (disch := decide) only [fieldAbove, fieldBelow, Nat.reduceSub, fieldWhole] at hm h0 h1 h2 h3 h4 h5 h6
  generalize encode (.vshup x0 x1 x2 x3 x4) = w at hm h0 h1 h2 h3 h4 h5 h6 ⊢
  refine decode_major 35#6 hm rfl rfl rawWord_23 ?_ h
  unfold raw23
  rw [h0, h1, h2, h3, h4, h5, h6]
  rfl

theorem vshdn (x0 : BitVec 3) (x1 : BitVec 3) (x2 : BitVec 3) (x3 : BitVec 2) (x4 : BitVec 7) : Statement (.vshdn x0 x1 x2 x3 x4) := by
  intro _ h
  have e : encode (.vshdn x0 x1 x2 x3 x4) = 35#6 ++ x0 ++ x1 ++ x2 ++ 0#3 ++ 1#5 ++ x3 ++ x4 := rfl
  have hm := congrArg (BitVec.extractLsb' 26 6) e
  have h0 := congrArg (BitVec.extractLsb' 9 5) e
  have h1 := congrArg (BitVec.extractLsb' 14 3) e
  have h2 := congrArg (BitVec.extractLsb' 23 3) e
  have h3 := congrArg (BitVec.extractLsb' 20 3) e
  have h4 := congrArg (BitVec.extractLsb' 17 3) e
  have h5 := congrArg (BitVec.extractLsb' 7 2) e
  have h6 := congrArg (BitVec.extractLsb' 0 7) e
  simp (disch := decide) only [fieldAbove, fieldBelow, Nat.reduceSub, fieldWhole] at hm h0 h1 h2 h3 h4 h5 h6
  generalize encode (.vshdn x0 x1 x2 x3 x4) = w at hm h0 h1 h2 h3 h4 h5 h6 ⊢
  refine decode_major 35#6 hm rfl rfl rawWord_23 ?_ h
  unfold raw23
  rw [h0, h1, h2, h3, h4, h5, h6]
  rfl

theorem vrot (x0 : BitVec 3) (x1 : BitVec 3) (x2 : BitVec 2) (x3 : BitVec 7) : Statement (.vrot x0 x1 x2 x3) := by
  intro _ h
  have e : encode (.vrot x0 x1 x2 x3) = 35#6 ++ x0 ++ x1 ++ 0#6 ++ 2#5 ++ x2 ++ x3 := rfl
  have hm := congrArg (BitVec.extractLsb' 26 6) e
  have h0 := congrArg (BitVec.extractLsb' 9 5) e
  have h1 := congrArg (BitVec.extractLsb' 14 3) e
  have h2 := congrArg (BitVec.extractLsb' 14 6) e
  have h3 := congrArg (BitVec.extractLsb' 23 3) e
  have h4 := congrArg (BitVec.extractLsb' 20 3) e
  have h5 := congrArg (BitVec.extractLsb' 7 2) e
  have h6 := congrArg (BitVec.extractLsb' 0 7) e
  simp (disch := decide) only [fieldAbove, fieldBelow, Nat.reduceSub, fieldWhole] at hm h0 h1 h2 h3 h4 h5 h6
  generalize encode (.vrot x0 x1 x2 x3) = w at hm h0 h1 h2 h3 h4 h5 h6 ⊢
  refine decode_major 35#6 hm rfl rfl rawWord_23 ?_ h
  unfold raw23
  rw [h0, h1, h2, h3, h4, h5, h6]
  rfl

theorem vperm (x0 : BitVec 3) (x1 : BitVec 3) (x2 : BitVec 3) (x3 : BitVec 3) (x4 : BitVec 2) (x5 : BitVec 1) : Statement (.vperm x0 x1 x2 x3 x4 x5) := by
  intro _ h
  have e : encode (.vperm x0 x1 x2 x3 x4 x5) = 35#6 ++ x0 ++ x1 ++ x2 ++ x3 ++ 3#5 ++ x4 ++ x5 ++ 0#6 := rfl
  have hm := congrArg (BitVec.extractLsb' 26 6) e
  have h0 := congrArg (BitVec.extractLsb' 9 5) e
  have h1 := congrArg (BitVec.extractLsb' 14 3) e
  have h2 := congrArg (BitVec.extractLsb' 0 6) e
  have h3 := congrArg (BitVec.extractLsb' 23 3) e
  have h4 := congrArg (BitVec.extractLsb' 20 3) e
  have h5 := congrArg (BitVec.extractLsb' 17 3) e
  have h6 := congrArg (BitVec.extractLsb' 7 2) e
  have h7 := congrArg (BitVec.extractLsb' 6 1) e
  simp (disch := decide) only [fieldAbove, fieldBelow, Nat.reduceSub, fieldWhole] at hm h0 h1 h2 h3 h4 h5 h6 h7
  generalize encode (.vperm x0 x1 x2 x3 x4 x5) = w at hm h0 h1 h2 h3 h4 h5 h6 h7 ⊢
  refine decode_major 35#6 hm rfl rfl rawWord_23 ?_ h
  unfold raw23
  rw [h0, h1, h2, h3, h4, h5, h6, h7]
  rfl

theorem vbcast (x0 : BitVec 3) (x1 : BitVec 2) (x2 : BitVec 5) : Statement (.vbcast x0 x1 x2) := by
  intro _ h
  have e : encode (.vbcast x0 x1 x2) = 35#6 ++ x0 ++ 0#9 ++ 4#5 ++ x1 ++ x2 ++ 0#2 := rfl
  have hm := congrArg (BitVec.extractLsb' 26 6) e
  have h0 := congrArg (BitVec.extractLsb' 9 5) e
  have h1 := congrArg (BitVec.extractLsb' 14 3) e
  have h2 := congrArg (BitVec.extractLsb' 14 6) e
  have h3 := congrArg (BitVec.extractLsb' 14 9) e
  have h4 := congrArg (BitVec.extractLsb' 0 2) e
  have h5 := congrArg (BitVec.extractLsb' 23 3) e
  have h6 := congrArg (BitVec.extractLsb' 7 2) e
  have h7 := congrArg (BitVec.extractLsb' 2 5) e
  simp (disch := decide) only [fieldAbove, fieldBelow, Nat.reduceSub, fieldWhole] at hm h0 h1 h2 h3 h4 h5 h6 h7
  generalize encode (.vbcast x0 x1 x2) = w at hm h0 h1 h2 h3 h4 h5 h6 h7 ⊢
  refine decode_major 35#6 hm rfl rfl rawWord_23 ?_ h
  unfold raw23
  rw [h0, h1, h2, h3, h4, h5, h6, h7]
  rfl

theorem vext (x0 : BitVec 3) (x1 : BitVec 3) (x2 : BitVec 2) (x3 : BitVec 5) (x4 : BitVec 1) : Statement (.vext x0 x1 x2 x3 x4) := by
  intro _ h
  have e : encode (.vext x0 x1 x2 x3 x4) = 35#6 ++ 0#3 ++ x0 ++ x1 ++ 0#3 ++ 5#5 ++ x2 ++ x3 ++ x4 ++ 0#1 := rfl
  have hm := congrArg (BitVec.extractLsb' 26 6) e
  have h0 := congrArg (BitVec.extractLsb' 9 5) e
  have h1 := congrArg (BitVec.extractLsb' 14 3) e
  have h2 := congrArg (BitVec.extractLsb' 23 3) e
  have h3 := congrArg (BitVec.extractLsb' 0 1) e
  have h4 := congrArg (BitVec.extractLsb' 20 3) e
  have h5 := congrArg (BitVec.extractLsb' 17 3) e
  have h6 := congrArg (BitVec.extractLsb' 7 2) e
  have h7 := congrArg (BitVec.extractLsb' 2 5) e
  have h8 := congrArg (BitVec.extractLsb' 1 1) e
  simp (disch := decide) only [fieldAbove, fieldBelow, Nat.reduceSub, fieldWhole] at hm h0 h1 h2 h3 h4 h5 h6 h7 h8
  generalize encode (.vext x0 x1 x2 x3 x4) = w at hm h0 h1 h2 h3 h4 h5 h6 h7 h8 ⊢
  refine decode_major 35#6 hm rfl rfl rawWord_23 ?_ h
  unfold raw23
  rw [h0, h1, h2, h3, h4, h5, h6, h7, h8]
  rfl

theorem vins (x0 : BitVec 3) (x1 : BitVec 3) (x2 : BitVec 2) (x3 : BitVec 5) : Statement (.vins x0 x1 x2 x3) := by
  intro _ h
  have e : encode (.vins x0 x1 x2 x3) = 35#6 ++ x0 ++ 0#3 ++ x1 ++ 0#3 ++ 6#5 ++ x2 ++ x3 ++ 0#2 := rfl
  have hm := congrArg (BitVec.extractLsb' 26 6) e
  have h0 := congrArg (BitVec.extractLsb' 9 5) e
  have h1 := congrArg (BitVec.extractLsb' 14 3) e
  have h2 := congrArg (BitVec.extractLsb' 0 2) e
  have h3 := congrArg (BitVec.extractLsb' 23 3) e
  have h4 := congrArg (BitVec.extractLsb' 0 1) e
  have h5 := congrArg (BitVec.extractLsb' 20 3) e
  have h6 := congrArg (BitVec.extractLsb' 17 3) e
  have h7 := congrArg (BitVec.extractLsb' 7 2) e
  have h8 := congrArg (BitVec.extractLsb' 2 5) e
  simp (disch := decide) only [fieldAbove, fieldBelow, Nat.reduceSub, fieldWhole] at hm h0 h1 h2 h3 h4 h5 h6 h7 h8
  generalize encode (.vins x0 x1 x2 x3) = w at hm h0 h1 h2 h3 h4 h5 h6 h7 h8 ⊢
  refine decode_major 35#6 hm rfl rfl rawWord_23 ?_ h
  unfold raw23
  rw [h0, h1, h2, h3, h4, h5, h6, h7, h8]
  rfl

theorem vred (x0 : BitVec 3) (x1 : BitVec 3) (x2 : BitVec 3) (x3 : BitVec 2) (x4 : BitVec 1) (x5 : BitVec 2) (x6 : BitVec 3) : Statement (.vred x0 x1 x2 x3 x4 x5 x6) := by
  intro _ h
  have e : encode (.vred x0 x1 x2 x3 x4 x5 x6) = 35#6 ++ x0 ++ x1 ++ 0#3 ++ x2 ++ 8#5 ++ x3 ++ x4 ++ x5 ++ x6 ++ 0#1 := rfl
  have hm := congrArg (BitVec.extractLsb' 26 6) e
  have h0 := congrArg (BitVec.extractLsb' 9 5) e
  have h1 := congrArg (BitVec.extractLsb' 14 3) e
  have h2 := congrArg (BitVec.extractLsb' 23 3) e
  have h3 := congrArg (BitVec.extractLsb' 0 1) e
  have h4 := congrArg (BitVec.extractLsb' 20 3) e
  have h5 := congrArg (BitVec.extractLsb' 17 3) e
  have h6 := congrArg (BitVec.extractLsb' 7 2) e
  have h7 := congrArg (BitVec.extractLsb' 6 1) e
  have h8 := congrArg (BitVec.extractLsb' 4 2) e
  have h9 := congrArg (BitVec.extractLsb' 1 3) e
  simp (disch := decide) only [fieldAbove, fieldBelow, Nat.reduceSub, fieldWhole] at hm h0 h1 h2 h3 h4 h5 h6 h7 h8 h9
  generalize encode (.vred x0 x1 x2 x3 x4 x5 x6) = w at hm h0 h1 h2 h3 h4 h5 h6 h7 h8 h9 ⊢
  refine decode_major 35#6 hm rfl rfl rawWord_23 ?_ h
  unfold raw23
  rw [h0, h1, h2, h3, h4, h5, h6, h7, h8, h9]
  rfl

theorem vscan (x0 : BitVec 3) (x1 : BitVec 3) (x2 : BitVec 3) (x3 : BitVec 2) (x4 : BitVec 1) (x5 : BitVec 2) (x6 : BitVec 3) : Statement (.vscan x0 x1 x2 x3 x4 x5 x6) := by
  intro _ h
  have e : encode (.vscan x0 x1 x2 x3 x4 x5 x6) = 35#6 ++ x0 ++ x1 ++ 0#3 ++ x2 ++ 9#5 ++ x3 ++ x4 ++ x5 ++ x6 ++ 0#1 := rfl
  have hm := congrArg (BitVec.extractLsb' 26 6) e
  have h0 := congrArg (BitVec.extractLsb' 9 5) e
  have h1 := congrArg (BitVec.extractLsb' 14 3) e
  have h2 := congrArg (BitVec.extractLsb' 23 3) e
  have h3 := congrArg (BitVec.extractLsb' 0 1) e
  have h4 := congrArg (BitVec.extractLsb' 20 3) e
  have h5 := congrArg (BitVec.extractLsb' 17 3) e
  have h6 := congrArg (BitVec.extractLsb' 7 2) e
  have h7 := congrArg (BitVec.extractLsb' 6 1) e
  have h8 := congrArg (BitVec.extractLsb' 4 2) e
  have h9 := congrArg (BitVec.extractLsb' 1 3) e
  simp (disch := decide) only [fieldAbove, fieldBelow, Nat.reduceSub, fieldWhole] at hm h0 h1 h2 h3 h4 h5 h6 h7 h8 h9
  generalize encode (.vscan x0 x1 x2 x3 x4 x5 x6) = w at hm h0 h1 h2 h3 h4 h5 h6 h7 h8 h9 ⊢
  refine decode_major 35#6 hm rfl rfl rawWord_23 ?_ h
  unfold raw23
  rw [h0, h1, h2, h3, h4, h5, h6, h7, h8, h9]
  rfl

theorem vdot (x0 : BitVec 3) (x1 : BitVec 3) (x2 : BitVec 3) (x3 : BitVec 3) (x4 : BitVec 1) (x5 : BitVec 1) (x6 : BitVec 2) : Statement (.vdot x0 x1 x2 x3 x4 x5 x6) := by
  intro _ h
  have e : encode (.vdot x0 x1 x2 x3 x4 x5 x6) = 35#6 ++ x0 ++ x1 ++ x2 ++ x3 ++ 10#5 ++ 0#1 ++ x4 ++ x5 ++ x6 ++ 0#4 := rfl
  have hm := congrArg (BitVec.extractLsb' 26 6) e
  have h0 := congrArg (BitVec.extractLsb' 9 5) e
  have h1 := congrArg (BitVec.extractLsb' 14 3) e
  have h2 := congrArg (BitVec.extractLsb' 0 2) e
  have h3 := congrArg (BitVec.extractLsb' 23 3) e
  have h4 := congrArg (BitVec.extractLsb' 0 1) e
  have h5 := congrArg (BitVec.extractLsb' 20 3) e
  have h6 := congrArg (BitVec.extractLsb' 17 3) e
  have h7 := congrArg (BitVec.extractLsb' 8 1) e
  have h8 := congrArg (BitVec.extractLsb' 0 4) e
  have h9 := congrArg (BitVec.extractLsb' 7 1) e
  have h10 := congrArg (BitVec.extractLsb' 6 1) e
  have h11 := congrArg (BitVec.extractLsb' 4 2) e
  simp (disch := decide) only [fieldAbove, fieldBelow, Nat.reduceSub, fieldWhole] at hm h0 h1 h2 h3 h4 h5 h6 h7 h8 h9 h10 h11
  generalize encode (.vdot x0 x1 x2 x3 x4 x5 x6) = w at hm h0 h1 h2 h3 h4 h5 h6 h7 h8 h9 h10 h11 ⊢
  refine decode_major 35#6 hm rfl rfl rawWord_23 ?_ h
  unfold raw23
  rw [h0, h1, h2, h3, h4, h5, h6, h7, h8, h9, h10, h11]
  rfl

theorem vexp2 (x0 : BitVec 3) (x1 : BitVec 3) (x2 : BitVec 3) (x3 : BitVec 1) : Statement (.vexp2 x0 x1 x2 x3) := by
  intro _ h
  have e : encode (.vexp2 x0 x1 x2 x3) = 35#6 ++ x0 ++ x1 ++ 0#3 ++ x2 ++ 16#5 ++ 2#2 ++ x3 ++ 0#6 := rfl
  have hm := congrArg (BitVec.extractLsb' 26 6) e
  have h0 := congrArg (BitVec.extractLsb' 9 5) e
  have h1 := congrArg (BitVec.extractLsb' 14 3) e
  have h2 := congrArg (BitVec.extractLsb' 0 6) e
  have h3 := congrArg (BitVec.extractLsb' 0 2) e
  have h4 := congrArg (BitVec.extractLsb' 23 3) e
  have h5 := congrArg (BitVec.extractLsb' 0 1) e
  have h6 := congrArg (BitVec.extractLsb' 20 3) e
  have h7 := congrArg (BitVec.extractLsb' 17 3) e
  have h8 := congrArg (BitVec.extractLsb' 8 1) e
  have h9 := congrArg (BitVec.extractLsb' 0 4) e
  have h10 := congrArg (BitVec.extractLsb' 7 2) e
  have h11 := congrArg (BitVec.extractLsb' 6 1) e
  simp (disch := decide) only [fieldAbove, fieldBelow, Nat.reduceSub, fieldWhole] at hm h0 h1 h2 h3 h4 h5 h6 h7 h8 h9 h10 h11
  generalize encode (.vexp2 x0 x1 x2 x3) = w at hm h0 h1 h2 h3 h4 h5 h6 h7 h8 h9 h10 h11 ⊢
  refine decode_major 35#6 hm rfl rfl rawWord_23 ?_ h
  unfold raw23
  rw [h0, h1, h2, h3, h4, h5, h6, h7, h8, h9, h10, h11]
  rfl

theorem vlog2 (x0 : BitVec 3) (x1 : BitVec 3) (x2 : BitVec 3) (x3 : BitVec 1) : Statement (.vlog2 x0 x1 x2 x3) := by
  intro _ h
  have e : encode (.vlog2 x0 x1 x2 x3) = 35#6 ++ x0 ++ x1 ++ 0#3 ++ x2 ++ 17#5 ++ 2#2 ++ x3 ++ 0#6 := rfl
  have hm := congrArg (BitVec.extractLsb' 26 6) e
  have h0 := congrArg (BitVec.extractLsb' 9 5) e
  have h1 := congrArg (BitVec.extractLsb' 14 3) e
  have h2 := congrArg (BitVec.extractLsb' 0 6) e
  have h3 := congrArg (BitVec.extractLsb' 0 2) e
  have h4 := congrArg (BitVec.extractLsb' 23 3) e
  have h5 := congrArg (BitVec.extractLsb' 0 1) e
  have h6 := congrArg (BitVec.extractLsb' 20 3) e
  have h7 := congrArg (BitVec.extractLsb' 17 3) e
  have h8 := congrArg (BitVec.extractLsb' 8 1) e
  have h9 := congrArg (BitVec.extractLsb' 0 4) e
  have h10 := congrArg (BitVec.extractLsb' 7 2) e
  have h11 := congrArg (BitVec.extractLsb' 6 1) e
  simp (disch := decide) only [fieldAbove, fieldBelow, Nat.reduceSub, fieldWhole] at hm h0 h1 h2 h3 h4 h5 h6 h7 h8 h9 h10 h11
  generalize encode (.vlog2 x0 x1 x2 x3) = w at hm h0 h1 h2 h3 h4 h5 h6 h7 h8 h9 h10 h11 ⊢
  refine decode_major 35#6 hm rfl rfl rawWord_23 ?_ h
  unfold raw23
  rw [h0, h1, h2, h3, h4, h5, h6, h7, h8, h9, h10, h11]
  rfl

theorem vrcp (x0 : BitVec 3) (x1 : BitVec 3) (x2 : BitVec 3) (x3 : BitVec 1) : Statement (.vrcp x0 x1 x2 x3) := by
  intro _ h
  have e : encode (.vrcp x0 x1 x2 x3) = 35#6 ++ x0 ++ x1 ++ 0#3 ++ x2 ++ 18#5 ++ 2#2 ++ x3 ++ 0#6 := rfl
  have hm := congrArg (BitVec.extractLsb' 26 6) e
  have h0 := congrArg (BitVec.extractLsb' 9 5) e
  have h1 := congrArg (BitVec.extractLsb' 14 3) e
  have h2 := congrArg (BitVec.extractLsb' 0 6) e
  have h3 := congrArg (BitVec.extractLsb' 0 2) e
  have h4 := congrArg (BitVec.extractLsb' 23 3) e
  have h5 := congrArg (BitVec.extractLsb' 0 1) e
  have h6 := congrArg (BitVec.extractLsb' 20 3) e
  have h7 := congrArg (BitVec.extractLsb' 17 3) e
  have h8 := congrArg (BitVec.extractLsb' 8 1) e
  have h9 := congrArg (BitVec.extractLsb' 0 4) e
  have h10 := congrArg (BitVec.extractLsb' 7 2) e
  have h11 := congrArg (BitVec.extractLsb' 6 1) e
  simp (disch := decide) only [fieldAbove, fieldBelow, Nat.reduceSub, fieldWhole] at hm h0 h1 h2 h3 h4 h5 h6 h7 h8 h9 h10 h11
  generalize encode (.vrcp x0 x1 x2 x3) = w at hm h0 h1 h2 h3 h4 h5 h6 h7 h8 h9 h10 h11 ⊢
  refine decode_major 35#6 hm rfl rfl rawWord_23 ?_ h
  unfold raw23
  rw [h0, h1, h2, h3, h4, h5, h6, h7, h8, h9, h10, h11]
  rfl

theorem vrsq (x0 : BitVec 3) (x1 : BitVec 3) (x2 : BitVec 3) (x3 : BitVec 1) : Statement (.vrsq x0 x1 x2 x3) := by
  intro _ h
  have e : encode (.vrsq x0 x1 x2 x3) = 35#6 ++ x0 ++ x1 ++ 0#3 ++ x2 ++ 19#5 ++ 2#2 ++ x3 ++ 0#6 := rfl
  have hm := congrArg (BitVec.extractLsb' 26 6) e
  have h0 := congrArg (BitVec.extractLsb' 9 5) e
  have h1 := congrArg (BitVec.extractLsb' 14 3) e
  have h2 := congrArg (BitVec.extractLsb' 0 6) e
  have h3 := congrArg (BitVec.extractLsb' 0 2) e
  have h4 := congrArg (BitVec.extractLsb' 23 3) e
  have h5 := congrArg (BitVec.extractLsb' 0 1) e
  have h6 := congrArg (BitVec.extractLsb' 20 3) e
  have h7 := congrArg (BitVec.extractLsb' 17 3) e
  have h8 := congrArg (BitVec.extractLsb' 8 1) e
  have h9 := congrArg (BitVec.extractLsb' 0 4) e
  have h10 := congrArg (BitVec.extractLsb' 7 2) e
  have h11 := congrArg (BitVec.extractLsb' 6 1) e
  simp (disch := decide) only [fieldAbove, fieldBelow, Nat.reduceSub, fieldWhole] at hm h0 h1 h2 h3 h4 h5 h6 h7 h8 h9 h10 h11
  generalize encode (.vrsq x0 x1 x2 x3) = w at hm h0 h1 h2 h3 h4 h5 h6 h7 h8 h9 h10 h11 ⊢
  refine decode_major 35#6 hm rfl rfl rawWord_23 ?_ h
  unfold raw23
  rw [h0, h1, h2, h3, h4, h5, h6, h7, h8, h9, h10, h11]
  rfl

theorem vmand (x0 : BitVec 3) (x1 : BitVec 3) (x2 : BitVec 3) : Statement (.vmand x0 x1 x2) := by
  intro _ h
  have e : encode (.vmand x0 x1 x2) = 35#6 ++ x0 ++ x1 ++ x2 ++ 0#3 ++ 24#5 ++ 0#9 := rfl
  have hm := congrArg (BitVec.extractLsb' 26 6) e
  have h0 := congrArg (BitVec.extractLsb' 9 5) e
  have h1 := congrArg (BitVec.extractLsb' 14 3) e
  have h2 := congrArg (BitVec.extractLsb' 0 6) e
  have h3 := congrArg (BitVec.extractLsb' 0 2) e
  have h4 := congrArg (BitVec.extractLsb' 23 3) e
  have h5 := congrArg (BitVec.extractLsb' 0 1) e
  have h6 := congrArg (BitVec.extractLsb' 20 3) e
  have h7 := congrArg (BitVec.extractLsb' 17 3) e
  have h8 := congrArg (BitVec.extractLsb' 8 1) e
  have h9 := congrArg (BitVec.extractLsb' 0 4) e
  have h10 := congrArg (BitVec.extractLsb' 7 2) e
  have h11 := congrArg (BitVec.extractLsb' 0 9) e
  simp (disch := decide) only [fieldAbove, fieldBelow, Nat.reduceSub, fieldWhole] at hm h0 h1 h2 h3 h4 h5 h6 h7 h8 h9 h10 h11
  generalize encode (.vmand x0 x1 x2) = w at hm h0 h1 h2 h3 h4 h5 h6 h7 h8 h9 h10 h11 ⊢
  refine decode_major 35#6 hm rfl rfl rawWord_23 ?_ h
  unfold raw23
  rw [h0, h1, h2, h3, h4, h5, h6, h7, h8, h9, h10, h11]
  rfl

theorem vmor (x0 : BitVec 3) (x1 : BitVec 3) (x2 : BitVec 3) : Statement (.vmor x0 x1 x2) := by
  intro _ h
  have e : encode (.vmor x0 x1 x2) = 35#6 ++ x0 ++ x1 ++ x2 ++ 0#3 ++ 25#5 ++ 0#9 := rfl
  have hm := congrArg (BitVec.extractLsb' 26 6) e
  have h0 := congrArg (BitVec.extractLsb' 9 5) e
  have h1 := congrArg (BitVec.extractLsb' 14 3) e
  have h2 := congrArg (BitVec.extractLsb' 0 6) e
  have h3 := congrArg (BitVec.extractLsb' 0 2) e
  have h4 := congrArg (BitVec.extractLsb' 23 3) e
  have h5 := congrArg (BitVec.extractLsb' 0 1) e
  have h6 := congrArg (BitVec.extractLsb' 20 3) e
  have h7 := congrArg (BitVec.extractLsb' 17 3) e
  have h8 := congrArg (BitVec.extractLsb' 8 1) e
  have h9 := congrArg (BitVec.extractLsb' 0 4) e
  have h10 := congrArg (BitVec.extractLsb' 7 2) e
  have h11 := congrArg (BitVec.extractLsb' 0 9) e
  simp (disch := decide) only [fieldAbove, fieldBelow, Nat.reduceSub, fieldWhole] at hm h0 h1 h2 h3 h4 h5 h6 h7 h8 h9 h10 h11
  generalize encode (.vmor x0 x1 x2) = w at hm h0 h1 h2 h3 h4 h5 h6 h7 h8 h9 h10 h11 ⊢
  refine decode_major 35#6 hm rfl rfl rawWord_23 ?_ h
  unfold raw23
  rw [h0, h1, h2, h3, h4, h5, h6, h7, h8, h9, h10, h11]
  rfl

theorem vpopc (x0 : BitVec 3) (x1 : BitVec 5) : Statement (.vpopc x0 x1) := by
  intro _ h
  have e : encode (.vpopc x0 x1) = 35#6 ++ 0#3 ++ x0 ++ 0#6 ++ 26#5 ++ 0#2 ++ x1 ++ 0#2 := rfl
  have hm := congrArg (BitVec.extractLsb' 26 6) e
  have h0 := congrArg (BitVec.extractLsb' 9 5) e
  have h1 := congrArg (BitVec.extractLsb' 14 3) e
  have h2 := congrArg (BitVec.extractLsb' 14 6) e
  have h3 := congrArg (BitVec.extractLsb' 0 2) e
  have h4 := congrArg (BitVec.extractLsb' 23 3) e
  have h5 := congrArg (BitVec.extractLsb' 0 1) e
  have h6 := congrArg (BitVec.extractLsb' 20 3) e
  have h7 := congrArg (BitVec.extractLsb' 17 3) e
  have h8 := congrArg (BitVec.extractLsb' 8 1) e
  have h9 := congrArg (BitVec.extractLsb' 7 2) e
  have h10 := congrArg (BitVec.extractLsb' 2 5) e
  simp (disch := decide) only [fieldAbove, fieldBelow, Nat.reduceSub, fieldWhole] at hm h0 h1 h2 h3 h4 h5 h6 h7 h8 h9 h10
  generalize encode (.vpopc x0 x1) = w at hm h0 h1 h2 h3 h4 h5 h6 h7 h8 h9 h10 ⊢
  refine decode_major 35#6 hm rfl rfl rawWord_23 ?_ h
  unfold raw23
  rw [h0, h1, h2, h3, h4, h5, h6, h7, h8, h9, h10]
  rfl

theorem tld (x0 : BitVec 5) (x1 : BitVec 5) (x2 : BitVec 5) : Statement (.tld x0 x1 x2) := by
  intro _ h
  have e : encode (.tld x0 x1 x2) = 36#6 ++ x0 ++ x1 ++ x2 ++ 0#5 ++ 0#6 := rfl
  have hm := congrArg (BitVec.extractLsb' 26 6) e
  have h0 := congrArg (BitVec.extractLsb' 0 6) e
  have h1 := congrArg (BitVec.extractLsb' 6 5) e
  have h2 := congrArg (BitVec.extractLsb' 21 5) e
  have h3 := congrArg (BitVec.extractLsb' 16 5) e
  have h4 := congrArg (BitVec.extractLsb' 11 5) e
  simp (disch := decide) only [fieldAbove, fieldBelow, Nat.reduceSub, fieldWhole] at hm h0 h1 h2 h3 h4
  generalize encode (.tld x0 x1 x2) = w at hm h0 h1 h2 h3 h4 ⊢
  refine decode_major 36#6 hm rfl rfl rawWord_24 ?_ h
  unfold raw24
  rw [h0, h1, h2, h3, h4]
  rfl

theorem tldRing (x0 : BitVec 5) (x1 : BitVec 5) (x2 : BitVec 5) : Statement (.tldRing x0 x1 x2) := by
  intro _ h
  have e : encode (.tldRing x0 x1 x2) = 36#6 ++ x0 ++ x1 ++ x2 ++ 1#5 ++ 0#6 := rfl
  have hm := congrArg (BitVec.extractLsb' 26 6) e
  have h0 := congrArg (BitVec.extractLsb' 0 6) e
  have h1 := congrArg (BitVec.extractLsb' 6 5) e
  have h2 := congrArg (BitVec.extractLsb' 21 5) e
  have h3 := congrArg (BitVec.extractLsb' 16 5) e
  have h4 := congrArg (BitVec.extractLsb' 11 5) e
  simp (disch := decide) only [fieldAbove, fieldBelow, Nat.reduceSub, fieldWhole] at hm h0 h1 h2 h3 h4
  generalize encode (.tldRing x0 x1 x2) = w at hm h0 h1 h2 h3 h4 ⊢
  refine decode_major 36#6 hm rfl rfl rawWord_24 ?_ h
  unfold raw24
  rw [h0, h1, h2, h3, h4]
  rfl

theorem tst (x0 : BitVec 5) (x1 : BitVec 5) (x2 : BitVec 5) : Statement (.tst x0 x1 x2) := by
  intro _ h
  have e : encode (.tst x0 x1 x2) = 36#6 ++ x0 ++ x1 ++ x2 ++ 0#5 ++ 1#6 := rfl
  have hm := congrArg (BitVec.extractLsb' 26 6) e
  have h0 := congrArg (BitVec.extractLsb' 0 6) e
  have h1 := congrArg (BitVec.extractLsb' 6 5) e
  have h2 := congrArg (BitVec.extractLsb' 21 5) e
  have h3 := congrArg (BitVec.extractLsb' 16 5) e
  have h4 := congrArg (BitVec.extractLsb' 11 5) e
  simp (disch := decide) only [fieldAbove, fieldBelow, Nat.reduceSub, fieldWhole] at hm h0 h1 h2 h3 h4
  generalize encode (.tst x0 x1 x2) = w at hm h0 h1 h2 h3 h4 ⊢
  refine decode_major 36#6 hm rfl rfl rawWord_24 ?_ h
  unfold raw24
  rw [h0, h1, h2, h3, h4]
  rfl

theorem tzero (x0 : BitVec 5) : Statement (.tzero x0) := by
  intro _ h
  have e : encode (.tzero x0) = 36#6 ++ 0#10 ++ x0 ++ 0#5 ++ 2#6 := rfl
  have hm := congrArg (BitVec.extractLsb' 26 6) e
  have h0 := congrArg (BitVec.extractLsb' 0 6) e
  have h1 := congrArg (BitVec.extractLsb' 6 5) e
  have h2 := congrArg (BitVec.extractLsb' 16 10) e
  have h3 := congrArg (BitVec.extractLsb' 11 5) e
  simp (disch := decide) only [fieldAbove, fieldBelow, Nat.reduceSub, fieldWhole] at hm h0 h1 h2 h3
  generalize encode (.tzero x0) = w at hm h0 h1 h2 h3 ⊢
  refine decode_major 36#6 hm rfl rfl rawWord_24 ?_ h
  unfold raw24
  rw [h0, h1, h2, h3]
  rfl

theorem tmov (x0 : BitVec 5) (x1 : BitVec 5) : Statement (.tmov x0 x1) := by
  intro _ h
  have e : encode (.tmov x0 x1) = 36#6 ++ x0 ++ 0#5 ++ x1 ++ 0#5 ++ 3#6 := rfl
  have hm := congrArg (BitVec.extractLsb' 26 6) e
  have h0 := congrArg (BitVec.extractLsb' 0 6) e
  have h1 := congrArg (BitVec.extractLsb' 6 5) e
  have h2 := congrArg (BitVec.extractLsb' 16 5) e
  have h3 := congrArg (BitVec.extractLsb' 21 5) e
  have h4 := congrArg (BitVec.extractLsb' 11 5) e
  simp (disch := decide) only [fieldAbove, fieldBelow, Nat.reduceSub, fieldWhole] at hm h0 h1 h2 h3 h4
  generalize encode (.tmov x0 x1) = w at hm h0 h1 h2 h3 h4 ⊢
  refine decode_major 36#6 hm rfl rfl rawWord_24 ?_ h
  unfold raw24
  rw [h0, h1, h2, h3, h4]
  rfl

theorem ttrans (x0 : BitVec 5) (x1 : BitVec 5) : Statement (.ttrans x0 x1) := by
  intro _ h
  have e : encode (.ttrans x0 x1) = 36#6 ++ x0 ++ 0#5 ++ x1 ++ 0#5 ++ 4#6 := rfl
  have hm := congrArg (BitVec.extractLsb' 26 6) e
  have h0 := congrArg (BitVec.extractLsb' 0 6) e
  have h1 := congrArg (BitVec.extractLsb' 6 5) e
  have h2 := congrArg (BitVec.extractLsb' 16 5) e
  have h3 := congrArg (BitVec.extractLsb' 21 5) e
  have h4 := congrArg (BitVec.extractLsb' 11 5) e
  simp (disch := decide) only [fieldAbove, fieldBelow, Nat.reduceSub, fieldWhole] at hm h0 h1 h2 h3 h4
  generalize encode (.ttrans x0 x1) = w at hm h0 h1 h2 h3 h4 ⊢
  refine decode_major 36#6 hm rfl rfl rawWord_24 ?_ h
  unfold raw24
  rw [h0, h1, h2, h3, h4]
  rfl

theorem tmma (x0 : BitVec 5) (x1 : BitVec 5) : Statement (.tmma x0 x1) := by
  intro _ h
  have e : encode (.tmma x0 x1) = 36#6 ++ x0 ++ x1 ++ 0#10 ++ 8#6 := rfl
  have hm := congrArg (BitVec.extractLsb' 26 6) e
  have h0 := congrArg (BitVec.extractLsb' 0 6) e
  have h1 := congrArg (BitVec.extractLsb' 6 5) e
  have h2 := congrArg (BitVec.extractLsb' 16 5) e
  have h3 := congrArg (BitVec.extractLsb' 6 10) e
  have h4 := congrArg (BitVec.extractLsb' 21 5) e
  simp (disch := decide) only [fieldAbove, fieldBelow, Nat.reduceSub, fieldWhole] at hm h0 h1 h2 h3 h4
  generalize encode (.tmma x0 x1) = w at hm h0 h1 h2 h3 h4 ⊢
  refine decode_major 36#6 hm rfl rfl rawWord_24 ?_ h
  unfold raw24
  rw [h0, h1, h2, h3, h4]
  rfl

theorem tmmas (x0 : BitVec 5) (x1 : BitVec 5) : Statement (.tmmas x0 x1) := by
  intro _ h
  have e : encode (.tmmas x0 x1) = 36#6 ++ x0 ++ x1 ++ 0#10 ++ 9#6 := rfl
  have hm := congrArg (BitVec.extractLsb' 26 6) e
  have h0 := congrArg (BitVec.extractLsb' 0 6) e
  have h1 := congrArg (BitVec.extractLsb' 6 5) e
  have h2 := congrArg (BitVec.extractLsb' 16 5) e
  have h3 := congrArg (BitVec.extractLsb' 6 10) e
  have h4 := congrArg (BitVec.extractLsb' 21 5) e
  simp (disch := decide) only [fieldAbove, fieldBelow, Nat.reduceSub, fieldWhole] at hm h0 h1 h2 h3 h4
  generalize encode (.tmmas x0 x1) = w at hm h0 h1 h2 h3 h4 ⊢
  refine decode_major 36#6 hm rfl rfl rawWord_24 ?_ h
  unfold raw24
  rw [h0, h1, h2, h3, h4]
  rfl

theorem tmmasp (x0 : BitVec 5) (x1 : BitVec 5) : Statement (.tmmasp x0 x1) := by
  intro _ h
  have e : encode (.tmmasp x0 x1) = 36#6 ++ x0 ++ x1 ++ 0#10 ++ 10#6 := rfl
  have hm := congrArg (BitVec.extractLsb' 26 6) e
  have h0 := congrArg (BitVec.extractLsb' 0 6) e
  have h1 := congrArg (BitVec.extractLsb' 6 5) e
  have h2 := congrArg (BitVec.extractLsb' 16 5) e
  have h3 := congrArg (BitVec.extractLsb' 6 10) e
  have h4 := congrArg (BitVec.extractLsb' 21 5) e
  simp (disch := decide) only [fieldAbove, fieldBelow, Nat.reduceSub, fieldWhole] at hm h0 h1 h2 h3 h4
  generalize encode (.tmmasp x0 x1) = w at hm h0 h1 h2 h3 h4 ⊢
  refine decode_major 36#6 hm rfl rfl rawWord_24 ?_ h
  unfold raw24
  rw [h0, h1, h2, h3, h4]
  rfl

theorem taccr (x0 : BitVec 5) (x1 : BitVec 1) : Statement (.taccr x0 x1) := by
  intro _ h
  have e : encode (.taccr x0 x1) = 36#6 ++ 0#10 ++ x0 ++ 0#4 ++ x1 ++ 12#6 := rfl
  have hm := congrArg (BitVec.extractLsb' 26 6) e
  have h0 := congrArg (BitVec.extractLsb' 0 6) e
  have h1 := congrArg (BitVec.extractLsb' 16 10) e
  have h2 := congrArg (BitVec.extractLsb' 16 5) e
  have h3 := congrArg (BitVec.extractLsb' 7 4) e
  have h4 := congrArg (BitVec.extractLsb' 11 5) e
  have h5 := congrArg (BitVec.extractLsb' 6 1) e
  simp (disch := decide) only [fieldAbove, fieldBelow, Nat.reduceSub, fieldWhole] at hm h0 h1 h2 h3 h4 h5
  generalize encode (.taccr x0 x1) = w at hm h0 h1 h2 h3 h4 h5 ⊢
  refine decode_major 36#6 hm rfl rfl rawWord_24 ?_ h
  unfold raw24
  rw [h0, h1, h2, h3, h4, h5]
  rfl

theorem ringdef (x0 : BitVec 5) (x1 : BitVec 5) : Statement (.ringdef x0 x1) := by
  intro _ h
  have e : encode (.ringdef x0 x1) = 36#6 ++ x0 ++ 0#5 ++ x1 ++ 0#5 ++ 16#6 := rfl
  have hm := congrArg (BitVec.extractLsb' 26 6) e
  have h0 := congrArg (BitVec.extractLsb' 0 6) e
  have h1 := congrArg (BitVec.extractLsb' 6 5) e
  have h2 := congrArg (BitVec.extractLsb' 16 5) e
  have h3 := congrArg (BitVec.extractLsb' 7 4) e
  have h4 := congrArg (BitVec.extractLsb' 21 5) e
  have h5 := congrArg (BitVec.extractLsb' 11 5) e
  simp (disch := decide) only [fieldAbove, fieldBelow, Nat.reduceSub, fieldWhole] at hm h0 h1 h2 h3 h4 h5
  generalize encode (.ringdef x0 x1) = w at hm h0 h1 h2 h3 h4 h5 ⊢
  refine decode_major 36#6 hm rfl rfl rawWord_24 ?_ h
  unfold raw24
  rw [h0, h1, h2, h3, h4, h5]
  rfl

theorem twait (x0 : BitVec 5) (x1 : BitVec 5) (x2 : BitVec 5) : Statement (.twait x0 x1 x2) := by
  intro _ h
  have e : encode (.twait x0 x1 x2) = 36#6 ++ x0 ++ x1 ++ x2 ++ 0#5 ++ 17#6 := rfl
  have hm := congrArg (BitVec.extractLsb' 26 6) e
  have h0 := congrArg (BitVec.extractLsb' 0 6) e
  have h1 := congrArg (BitVec.extractLsb' 6 5) e
  have h2 := congrArg (BitVec.extractLsb' 16 5) e
  have h3 := congrArg (BitVec.extractLsb' 7 4) e
  have h4 := congrArg (BitVec.extractLsb' 21 5) e
  have h5 := congrArg (BitVec.extractLsb' 11 5) e
  simp (disch := decide) only [fieldAbove, fieldBelow, Nat.reduceSub, fieldWhole] at hm h0 h1 h2 h3 h4 h5
  generalize encode (.twait x0 x1 x2) = w at hm h0 h1 h2 h3 h4 h5 ⊢
  refine decode_major 36#6 hm rfl rfl rawWord_24 ?_ h
  unfold raw24
  rw [h0, h1, h2, h3, h4, h5]
  rfl

theorem tfree (x0 : BitVec 5) (x1 : BitVec 5) : Statement (.tfree x0 x1) := by
  intro _ h
  have e : encode (.tfree x0 x1) = 36#6 ++ x0 ++ 0#5 ++ x1 ++ 0#5 ++ 18#6 := rfl
  have hm := congrArg (BitVec.extractLsb' 26 6) e
  have h0 := congrArg (BitVec.extractLsb' 0 6) e
  have h1 := congrArg (BitVec.extractLsb' 6 5) e
  have h2 := congrArg (BitVec.extractLsb' 16 5) e
  have h3 := congrArg (BitVec.extractLsb' 7 4) e
  have h4 := congrArg (BitVec.extractLsb' 21 5) e
  have h5 := congrArg (BitVec.extractLsb' 11 5) e
  simp (disch := decide) only [fieldAbove, fieldBelow, Nat.reduceSub, fieldWhole] at hm h0 h1 h2 h3 h4 h5
  generalize encode (.tfree x0 x1) = w at hm h0 h1 h2 h3 h4 h5 ⊢
  refine decode_major 36#6 hm rfl rfl rawWord_24 ?_ h
  unfold raw24
  rw [h0, h1, h2, h3, h4, h5]
  rfl

theorem tadv (x0 : BitVec 5) (x1 : BitVec 5) : Statement (.tadv x0 x1) := by
  intro _ h
  have e : encode (.tadv x0 x1) = 36#6 ++ x0 ++ 0#5 ++ x1 ++ 0#5 ++ 19#6 := rfl
  have hm := congrArg (BitVec.extractLsb' 26 6) e
  have h0 := congrArg (BitVec.extractLsb' 0 6) e
  have h1 := congrArg (BitVec.extractLsb' 6 5) e
  have h2 := congrArg (BitVec.extractLsb' 16 5) e
  have h3 := congrArg (BitVec.extractLsb' 7 4) e
  have h4 := congrArg (BitVec.extractLsb' 21 5) e
  have h5 := congrArg (BitVec.extractLsb' 11 5) e
  simp (disch := decide) only [fieldAbove, fieldBelow, Nat.reduceSub, fieldWhole] at hm h0 h1 h2 h3 h4 h5
  generalize encode (.tadv x0 x1) = w at hm h0 h1 h2 h3 h4 h5 ⊢
  refine decode_major 36#6 hm rfl rfl rawWord_24 ?_ h
  unfold raw24
  rw [h0, h1, h2, h3, h4, h5]
  rfl

theorem tsend (x0 : BitVec 5) (x1 : BitVec 5) (x2 : BitVec 5) : Statement (.tsend x0 x1 x2) := by
  intro _ h
  have e : encode (.tsend x0 x1 x2) = 36#6 ++ x0 ++ x1 ++ x2 ++ 0#5 ++ 20#6 := rfl
  have hm := congrArg (BitVec.extractLsb' 26 6) e
  have h0 := congrArg (BitVec.extractLsb' 0 6) e
  have h1 := congrArg (BitVec.extractLsb' 6 5) e
  have h2 := congrArg (BitVec.extractLsb' 16 5) e
  have h3 := congrArg (BitVec.extractLsb' 7 4) e
  have h4 := congrArg (BitVec.extractLsb' 21 5) e
  have h5 := congrArg (BitVec.extractLsb' 11 5) e
  simp (disch := decide) only [fieldAbove, fieldBelow, Nat.reduceSub, fieldWhole] at hm h0 h1 h2 h3 h4 h5
  generalize encode (.tsend x0 x1 x2) = w at hm h0 h1 h2 h3 h4 h5 ⊢
  refine decode_major 36#6 hm rfl rfl rawWord_24 ?_ h
  unfold raw24
  rw [h0, h1, h2, h3, h4, h5]
  rfl

theorem mrect (x0 : BitVec 5) : Statement (.mrect x0) := by
  intro _ h
  have e : encode (.mrect x0) = 36#6 ++ x0 ++ 0#15 ++ 24#6 := rfl
  have hm := congrArg (BitVec.extractLsb' 26 6) e
  have h0 := congrArg (BitVec.extractLsb' 0 6) e
  have h1 := congrArg (BitVec.extractLsb' 6 5) e
  have h2 := congrArg (BitVec.extractLsb' 16 5) e
  have h3 := congrArg (BitVec.extractLsb' 6 10) e
  have h4 := congrArg (BitVec.extractLsb' 7 4) e
  have h5 := congrArg (BitVec.extractLsb' 6 15) e
  have h6 := congrArg (BitVec.extractLsb' 21 5) e
  simp (disch := decide) only [fieldAbove, fieldBelow, Nat.reduceSub, fieldWhole] at hm h0 h1 h2 h3 h4 h5 h6
  generalize encode (.mrect x0) = w at hm h0 h1 h2 h3 h4 h5 h6 ⊢
  refine decode_major 36#6 hm rfl rfl rawWord_24 ?_ h
  unfold raw24
  rw [h0, h1, h2, h3, h4, h5, h6]
  rfl

theorem mstat (x0 : BitVec 5) : Statement (.mstat x0) := by
  intro _ h
  have e : encode (.mstat x0) = 36#6 ++ 0#10 ++ x0 ++ 0#5 ++ 25#6 := rfl
  have hm := congrArg (BitVec.extractLsb' 26 6) e
  have h0 := congrArg (BitVec.extractLsb' 0 6) e
  have h1 := congrArg (BitVec.extractLsb' 6 5) e
  have h2 := congrArg (BitVec.extractLsb' 16 10) e
  have h3 := congrArg (BitVec.extractLsb' 16 5) e
  have h4 := congrArg (BitVec.extractLsb' 7 4) e
  have h5 := congrArg (BitVec.extractLsb' 11 5) e
  simp (disch := decide) only [fieldAbove, fieldBelow, Nat.reduceSub, fieldWhole] at hm h0 h1 h2 h3 h4 h5
  generalize encode (.mstat x0) = w at hm h0 h1 h2 h3 h4 h5 ⊢
  refine decode_major 36#6 hm rfl rfl rawWord_24 ?_ h
  unfold raw24
  rw [h0, h1, h2, h3, h4, h5]
  rfl

theorem sdesc (x0 : BitVec 5) (x1 : BitVec 5) : Statement (.sdesc x0 x1) := by
  intro _ h
  have e : encode (.sdesc x0 x1) = 37#6 ++ x0 ++ x1 ++ 0#10 ++ 0#6 := rfl
  have hm := congrArg (BitVec.extractLsb' 26 6) e
  have h0 := congrArg (BitVec.extractLsb' 0 6) e
  have h1 := congrArg (BitVec.extractLsb' 6 10) e
  have h2 := congrArg (BitVec.extractLsb' 21 5) e
  have h3 := congrArg (BitVec.extractLsb' 16 5) e
  simp (disch := decide) only [fieldAbove, fieldBelow, Nat.reduceSub, fieldWhole] at hm h0 h1 h2 h3
  generalize encode (.sdesc x0 x1) = w at hm h0 h1 h2 h3 ⊢
  refine decode_major 37#6 hm rfl rfl rawWord_25 ?_ h
  unfold raw25
  rw [h0, h1, h2, h3]
  rfl

theorem sbind (x0 : BitVec 5) (x1 : BitVec 2) (x2 : BitVec 3) : Statement (.sbind x0 x1 x2) := by
  intro _ h
  have e : encode (.sbind x0 x1 x2) = 37#6 ++ 0#5 ++ x0 ++ 0#5 ++ x1 ++ x2 ++ 1#6 := rfl
  have hm := congrArg (BitVec.extractLsb' 26 6) e
  have h0 := congrArg (BitVec.extractLsb' 0 6) e
  have h1 := congrArg (BitVec.extractLsb' 21 5) e
  have h2 := congrArg (BitVec.extractLsb' 11 5) e
  have h3 := congrArg (BitVec.extractLsb' 16 5) e
  have h4 := congrArg (BitVec.extractLsb' 9 2) e
  have h5 := congrArg (BitVec.extractLsb' 6 3) e
  simp (disch := decide) only [fieldAbove, fieldBelow, Nat.reduceSub, fieldWhole] at hm h0 h1 h2 h3 h4 h5
  generalize encode (.sbind x0 x1 x2) = w at hm h0 h1 h2 h3 h4 h5 ⊢
  refine decode_major 37#6 hm rfl rfl rawWord_25 ?_ h
  unfold raw25
  rw [h0, h1, h2, h3, h4, h5]
  rfl

theorem sunbind (x0 : BitVec 5) : Statement (.sunbind x0) := by
  intro _ h
  have e : encode (.sunbind x0) = 37#6 ++ 0#5 ++ x0 ++ 0#10 ++ 2#6 := rfl
  have hm := congrArg (BitVec.extractLsb' 26 6) e
  have h0 := congrArg (BitVec.extractLsb' 0 6) e
  have h1 := congrArg (BitVec.extractLsb' 6 10) e
  have h2 := congrArg (BitVec.extractLsb' 21 5) e
  have h3 := congrArg (BitVec.extractLsb' 11 5) e
  have h4 := congrArg (BitVec.extractLsb' 16 5) e
  simp (disch := decide) only [fieldAbove, fieldBelow, Nat.reduceSub, fieldWhole] at hm h0 h1 h2 h3 h4
  generalize encode (.sunbind x0) = w at hm h0 h1 h2 h3 h4 ⊢
  refine decode_major 37#6 hm rfl rfl rawWord_25 ?_ h
  unfold raw25
  rw [h0, h1, h2, h3, h4]
  rfl

theorem spos (x0 : BitVec 5) (x1 : BitVec 5) : Statement (.spos x0 x1) := by
  intro _ h
  have e : encode (.spos x0 x1) = 37#6 ++ 0#5 ++ x0 ++ x1 ++ 0#5 ++ 3#6 := rfl
  have hm := congrArg (BitVec.extractLsb' 26 6) e
  have h0 := congrArg (BitVec.extractLsb' 0 6) e
  have h1 := congrArg (BitVec.extractLsb' 21 5) e
  have h2 := congrArg (BitVec.extractLsb' 11 5) e
  have h3 := congrArg (BitVec.extractLsb' 6 5) e
  have h4 := congrArg (BitVec.extractLsb' 16 5) e
  simp (disch := decide) only [fieldAbove, fieldBelow, Nat.reduceSub, fieldWhole] at hm h0 h1 h2 h3 h4
  generalize encode (.spos x0 x1) = w at hm h0 h1 h2 h3 h4 ⊢
  refine decode_major 37#6 hm rfl rfl rawWord_25 ?_ h
  unfold raw25
  rw [h0, h1, h2, h3, h4]
  rfl

theorem sposSet (x0 : BitVec 5) (x1 : BitVec 5) (x2 : BitVec 5) : Statement (.sposSet x0 x1 x2) := by
  intro _ h
  have e : encode (.sposSet x0 x1 x2) = 37#6 ++ x0 ++ x1 ++ x2 ++ 1#5 ++ 3#6 := rfl
  have hm := congrArg (BitVec.extractLsb' 26 6) e
  have h0 := congrArg (BitVec.extractLsb' 0 6) e
  have h1 := congrArg (BitVec.extractLsb' 21 5) e
  have h2 := congrArg (BitVec.extractLsb' 11 5) e
  have h3 := congrArg (BitVec.extractLsb' 6 5) e
  have h4 := congrArg (BitVec.extractLsb' 16 5) e
  simp (disch := decide) only [fieldAbove, fieldBelow, Nat.reduceSub, fieldWhole] at hm h0 h1 h2 h3 h4
  generalize encode (.sposSet x0 x1 x2) = w at hm h0 h1 h2 h3 h4 ⊢
  refine decode_major 37#6 hm rfl rfl rawWord_25 ?_ h
  unfold raw25
  rw [h0, h1, h2, h3, h4]
  simp
  rfl

theorem sskip (x0 : BitVec 5) (x1 : BitVec 5) : Statement (.sskip x0 x1) := by
  intro _ h
  have e : encode (.sskip x0 x1) = 37#6 ++ x0 ++ x1 ++ 0#10 ++ 4#6 := rfl
  have hm := congrArg (BitVec.extractLsb' 26 6) e
  have h0 := congrArg (BitVec.extractLsb' 0 6) e
  have h1 := congrArg (BitVec.extractLsb' 6 10) e
  have h2 := congrArg (BitVec.extractLsb' 21 5) e
  have h3 := congrArg (BitVec.extractLsb' 11 5) e
  have h4 := congrArg (BitVec.extractLsb' 6 5) e
  have h5 := congrArg (BitVec.extractLsb' 16 5) e
  simp (disch := decide) only [fieldAbove, fieldBelow, Nat.reduceSub, fieldWhole] at hm h0 h1 h2 h3 h4 h5
  generalize encode (.sskip x0 x1) = w at hm h0 h1 h2 h3 h4 h5 ⊢
  refine decode_major 37#6 hm rfl rfl rawWord_25 ?_ h
  unfold raw25
  rw [h0, h1, h2, h3, h4, h5]
  rfl

theorem sflush (x0 : BitVec 5) : Statement (.sflush x0) := by
  intro _ h
  have e : encode (.sflush x0) = 37#6 ++ 0#5 ++ x0 ++ 0#10 ++ 5#6 := rfl
  have hm := congrArg (BitVec.extractLsb' 26 6) e
  have h0 := congrArg (BitVec.extractLsb' 0 6) e
  have h1 := congrArg (BitVec.extractLsb' 6 10) e
  have h2 := congrArg (BitVec.extractLsb' 21 5) e
  have h3 := congrArg (BitVec.extractLsb' 11 5) e
  have h4 := congrArg (BitVec.extractLsb' 6 5) e
  have h5 := congrArg (BitVec.extractLsb' 16 5) e
  simp (disch := decide) only [fieldAbove, fieldBelow, Nat.reduceSub, fieldWhole] at hm h0 h1 h2 h3 h4 h5
  generalize encode (.sflush x0) = w at hm h0 h1 h2 h3 h4 h5 ⊢
  refine decode_major 37#6 hm rfl rfl rawWord_25 ?_ h
  unfold raw25
  rw [h0, h1, h2, h3, h4, h5]
  rfl

theorem sstat (x0 : BitVec 5) (x1 : BitVec 5) : Statement (.sstat x0 x1) := by
  intro _ h
  have e : encode (.sstat x0 x1) = 37#6 ++ 0#5 ++ x0 ++ x1 ++ 0#5 ++ 6#6 := rfl
  have hm := congrArg (BitVec.extractLsb' 26 6) e
  have h0 := congrArg (BitVec.extractLsb' 0 6) e
  have h1 := congrArg (BitVec.extractLsb' 21 5) e
  have h2 := congrArg (BitVec.extractLsb' 11 5) e
  have h3 := congrArg (BitVec.extractLsb' 6 5) e
  have h4 := congrArg (BitVec.extractLsb' 16 5) e
  simp (disch := decide) only [fieldAbove, fieldBelow, Nat.reduceSub, fieldWhole] at hm h0 h1 h2 h3 h4
  generalize encode (.sstat x0 x1) = w at hm h0 h1 h2 h3 h4 ⊢
  refine decode_major 37#6 hm rfl rfl rawWord_25 ?_ h
  unfold raw25
  rw [h0, h1, h2, h3, h4]
  rfl

theorem copy (x0 : BitVec 5) (x1 : BitVec 5) : Statement (.copy x0 x1) := by
  intro _ h
  have e : encode (.copy x0 x1) = 37#6 ++ x0 ++ 0#5 ++ x1 ++ 0#5 ++ 8#6 := rfl
  have hm := congrArg (BitVec.extractLsb' 26 6) e
  have h0 := congrArg (BitVec.extractLsb' 0 6) e
  have h1 := congrArg (BitVec.extractLsb' 21 5) e
  have h2 := congrArg (BitVec.extractLsb' 11 5) e
  have h3 := congrArg (BitVec.extractLsb' 6 5) e
  have h4 := congrArg (BitVec.extractLsb' 16 5) e
  simp (disch := decide) only [fieldAbove, fieldBelow, Nat.reduceSub, fieldWhole] at hm h0 h1 h2 h3 h4
  generalize encode (.copy x0 x1) = w at hm h0 h1 h2 h3 h4 ⊢
  refine decode_major 37#6 hm rfl rfl rawWord_25 ?_ h
  unfold raw25
  rw [h0, h1, h2, h3, h4]
  rfl

theorem copyst (x0 : BitVec 5) (x1 : BitVec 5) : Statement (.copyst x0 x1) := by
  intro _ h
  have e : encode (.copyst x0 x1) = 37#6 ++ x0 ++ 0#5 ++ x1 ++ 0#5 ++ 9#6 := rfl
  have hm := congrArg (BitVec.extractLsb' 26 6) e
  have h0 := congrArg (BitVec.extractLsb' 0 6) e
  have h1 := congrArg (BitVec.extractLsb' 21 5) e
  have h2 := congrArg (BitVec.extractLsb' 11 5) e
  have h3 := congrArg (BitVec.extractLsb' 6 5) e
  have h4 := congrArg (BitVec.extractLsb' 16 5) e
  simp (disch := decide) only [fieldAbove, fieldBelow, Nat.reduceSub, fieldWhole] at hm h0 h1 h2 h3 h4
  generalize encode (.copyst x0 x1) = w at hm h0 h1 h2 h3 h4 ⊢
  refine decode_major 37#6 hm rfl rfl rawWord_25 ?_ h
  unfold raw25
  rw [h0, h1, h2, h3, h4]
  rfl

theorem waitgen (x0 : BitVec 5) (x1 : BitVec 5) (x2 : BitVec 5) : Statement (.waitgen x0 x1 x2) := by
  intro _ h
  have e : encode (.waitgen x0 x1 x2) = 37#6 ++ x0 ++ x1 ++ x2 ++ 0#5 ++ 16#6 := rfl
  have hm := congrArg (BitVec.extractLsb' 26 6) e
  have h0 := congrArg (BitVec.extractLsb' 0 6) e
  have h1 := congrArg (BitVec.extractLsb' 21 5) e
  have h2 := congrArg (BitVec.extractLsb' 11 5) e
  have h3 := congrArg (BitVec.extractLsb' 6 5) e
  have h4 := congrArg (BitVec.extractLsb' 16 5) e
  simp (disch := decide) only [fieldAbove, fieldBelow, Nat.reduceSub, fieldWhole] at hm h0 h1 h2 h3 h4
  generalize encode (.waitgen x0 x1 x2) = w at hm h0 h1 h2 h3 h4 ⊢
  refine decode_major 37#6 hm rfl rfl rawWord_25 ?_ h
  unfold raw25
  rw [h0, h1, h2, h3, h4]
  rfl

theorem armgen (x0 : BitVec 5) (x1 : BitVec 5) : Statement (.armgen x0 x1) := by
  intro _ h
  have e : encode (.armgen x0 x1) = 37#6 ++ x0 ++ x1 ++ 0#10 ++ 17#6 := rfl
  have hm := congrArg (BitVec.extractLsb' 26 6) e
  have h0 := congrArg (BitVec.extractLsb' 0 6) e
  have h1 := congrArg (BitVec.extractLsb' 6 10) e
  have h2 := congrArg (BitVec.extractLsb' 21 5) e
  have h3 := congrArg (BitVec.extractLsb' 11 5) e
  have h4 := congrArg (BitVec.extractLsb' 6 5) e
  have h5 := congrArg (BitVec.extractLsb' 16 5) e
  simp (disch := decide) only [fieldAbove, fieldBelow, Nat.reduceSub, fieldWhole] at hm h0 h1 h2 h3 h4 h5
  generalize encode (.armgen x0 x1) = w at hm h0 h1 h2 h3 h4 h5 ⊢
  refine decode_major 37#6 hm rfl rfl rawWord_25 ?_ h
  unfold raw25
  rw [h0, h1, h2, h3, h4, h5]
  rfl

theorem addgen (x0 : BitVec 5) (x1 : BitVec 5) (x2 : BitVec 5) : Statement (.addgen x0 x1 x2) := by
  intro _ h
  have e : encode (.addgen x0 x1 x2) = 37#6 ++ x0 ++ x1 ++ x2 ++ 0#5 ++ 18#6 := rfl
  have hm := congrArg (BitVec.extractLsb' 26 6) e
  have h0 := congrArg (BitVec.extractLsb' 0 6) e
  have h1 := congrArg (BitVec.extractLsb' 21 5) e
  have h2 := congrArg (BitVec.extractLsb' 11 5) e
  have h3 := congrArg (BitVec.extractLsb' 6 5) e
  have h4 := congrArg (BitVec.extractLsb' 16 5) e
  simp (disch := decide) only [fieldAbove, fieldBelow, Nat.reduceSub, fieldWhole] at hm h0 h1 h2 h3 h4
  generalize encode (.addgen x0 x1 x2) = w at hm h0 h1 h2 h3 h4 ⊢
  refine decode_major 37#6 hm rfl rfl rawWord_25 ?_ h
  unfold raw25
  rw [h0, h1, h2, h3, h4]
  rfl

theorem send (x0 : BitVec 5) (x1 : BitVec 5) (x2 : BitVec 5) (x3 : BitVec 1) : Statement (.send x0 x1 x2 x3) := by
  intro _ h
  have e : encode (.send x0 x1 x2 x3) = 38#6 ++ x0 ++ x1 ++ x2 ++ 0#4 ++ x3 ++ 0#6 := rfl
  have hm := congrArg (BitVec.extractLsb' 26 6) e
  have h0 := congrArg (BitVec.extractLsb' 0 6) e
  have h1 := congrArg (BitVec.extractLsb' 7 4) e
  have h2 := congrArg (BitVec.extractLsb' 21 5) e
  have h3 := congrArg (BitVec.extractLsb' 16 5) e
  have h4 := congrArg (BitVec.extractLsb' 11 5) e
  have h5 := congrArg (BitVec.extractLsb' 6 1) e
  simp (disch := decide) only [fieldAbove, fieldBelow, Nat.reduceSub, fieldWhole] at hm h0 h1 h2 h3 h4 h5
  generalize encode (.send x0 x1 x2 x3) = w at hm h0 h1 h2 h3 h4 h5 ⊢
  refine decode_major 38#6 hm rfl rfl rawWord_26 ?_ h
  unfold raw26
  rw [h0, h1, h2, h3, h4, h5]
  rfl

theorem sendi (x0 : BitVec 5) (x1 : BitVec 5) (x2 : BitVec 5) (x3 : BitVec 1) : Statement (.sendi x0 x1 x2 x3) := by
  intro _ h
  have e : encode (.sendi x0 x1 x2 x3) = 38#6 ++ x0 ++ x1 ++ x2 ++ 0#4 ++ x3 ++ 1#6 := rfl
  have hm := congrArg (BitVec.extractLsb' 26 6) e
  have h0 := congrArg (BitVec.extractLsb' 0 6) e
  have h1 := congrArg (BitVec.extractLsb' 7 4) e
  have h2 := congrArg (BitVec.extractLsb' 21 5) e
  have h3 := congrArg (BitVec.extractLsb' 16 5) e
  have h4 := congrArg (BitVec.extractLsb' 11 5) e
  have h5 := congrArg (BitVec.extractLsb' 6 1) e
  simp (disch := decide) only [fieldAbove, fieldBelow, Nat.reduceSub, fieldWhole] at hm h0 h1 h2 h3 h4 h5
  generalize encode (.sendi x0 x1 x2 x3) = w at hm h0 h1 h2 h3 h4 h5 ⊢
  refine decode_major 38#6 hm rfl rfl rawWord_26 ?_ h
  unfold raw26
  rw [h0, h1, h2, h3, h4, h5]
  rfl

theorem recv (x0 : BitVec 5) (x1 : BitVec 5) : Statement (.recv x0 x1) := by
  intro _ h
  have e : encode (.recv x0 x1) = 38#6 ++ 0#5 ++ x0 ++ x1 ++ 0#5 ++ 2#6 := rfl
  have hm := congrArg (BitVec.extractLsb' 26 6) e
  have h0 := congrArg (BitVec.extractLsb' 0 6) e
  have h1 := congrArg (BitVec.extractLsb' 7 4) e
  have h2 := congrArg (BitVec.extractLsb' 21 5) e
  have h3 := congrArg (BitVec.extractLsb' 6 5) e
  have h4 := congrArg (BitVec.extractLsb' 16 5) e
  have h5 := congrArg (BitVec.extractLsb' 11 5) e
  simp (disch := decide) only [fieldAbove, fieldBelow, Nat.reduceSub, fieldWhole] at hm h0 h1 h2 h3 h4 h5
  generalize encode (.recv x0 x1) = w at hm h0 h1 h2 h3 h4 h5 ⊢
  refine decode_major 38#6 hm rfl rfl rawWord_26 ?_ h
  unfold raw26
  rw [h0, h1, h2, h3, h4, h5]
  rfl

theorem recvt (x0 : BitVec 5) (x1 : BitVec 5) (x2 : BitVec 5) : Statement (.recvt x0 x1 x2) := by
  intro _ h
  have e : encode (.recvt x0 x1 x2) = 38#6 ++ x0 ++ x1 ++ x2 ++ 0#5 ++ 3#6 := rfl
  have hm := congrArg (BitVec.extractLsb' 26 6) e
  have h0 := congrArg (BitVec.extractLsb' 0 6) e
  have h1 := congrArg (BitVec.extractLsb' 7 4) e
  have h2 := congrArg (BitVec.extractLsb' 21 5) e
  have h3 := congrArg (BitVec.extractLsb' 6 5) e
  have h4 := congrArg (BitVec.extractLsb' 16 5) e
  have h5 := congrArg (BitVec.extractLsb' 11 5) e
  simp (disch := decide) only [fieldAbove, fieldBelow, Nat.reduceSub, fieldWhole] at hm h0 h1 h2 h3 h4 h5
  generalize encode (.recvt x0 x1 x2) = w at hm h0 h1 h2 h3 h4 h5 ⊢
  refine decode_major 38#6 hm rfl rfl rawWord_26 ?_ h
  unfold raw26
  rw [h0, h1, h2, h3, h4, h5]
  rfl

theorem peek (x0 : BitVec 5) : Statement (.peek x0) := by
  intro _ h
  have e : encode (.peek x0) = 38#6 ++ 0#10 ++ x0 ++ 0#5 ++ 4#6 := rfl
  have hm := congrArg (BitVec.extractLsb' 26 6) e
  have h0 := congrArg (BitVec.extractLsb' 0 6) e
  have h1 := congrArg (BitVec.extractLsb' 7 4) e
  have h2 := congrArg (BitVec.extractLsb' 21 5) e
  have h3 := congrArg (BitVec.extractLsb' 6 5) e
  have h4 := congrArg (BitVec.extractLsb' 16 10) e
  have h5 := congrArg (BitVec.extractLsb' 11 5) e
  simp (disch := decide) only [fieldAbove, fieldBelow, Nat.reduceSub, fieldWhole] at hm h0 h1 h2 h3 h4 h5
  generalize encode (.peek x0) = w at hm h0 h1 h2 h3 h4 h5 ⊢
  refine decode_major 38#6 hm rfl rfl rawWord_26 ?_ h
  unfold raw26
  rw [h0, h1, h2, h3, h4, h5]
  rfl

theorem jwait (x0 : BitVec 5) (x1 : BitVec 5) : Statement (.jwait x0 x1) := by
  intro _ h
  have e : encode (.jwait x0 x1) = 38#6 ++ x0 ++ 0#5 ++ x1 ++ 0#5 ++ 8#6 := rfl
  have hm := congrArg (BitVec.extractLsb' 26 6) e
  have h0 := congrArg (BitVec.extractLsb' 0 6) e
  have h1 := congrArg (BitVec.extractLsb' 7 4) e
  have h2 := congrArg (BitVec.extractLsb' 21 5) e
  have h3 := congrArg (BitVec.extractLsb' 6 5) e
  have h4 := congrArg (BitVec.extractLsb' 16 5) e
  have h5 := congrArg (BitVec.extractLsb' 11 5) e
  simp (disch := decide) only [fieldAbove, fieldBelow, Nat.reduceSub, fieldWhole] at hm h0 h1 h2 h3 h4 h5
  generalize encode (.jwait x0 x1) = w at hm h0 h1 h2 h3 h4 h5 ⊢
  refine decode_major 38#6 hm rfl rfl rawWord_26 ?_ h
  unfold raw26
  rw [h0, h1, h2, h3, h4, h5]
  rfl

theorem jread (x0 : BitVec 5) (x1 : BitVec 5) : Statement (.jread x0 x1) := by
  intro _ h
  have e : encode (.jread x0 x1) = 38#6 ++ x0 ++ 0#5 ++ x1 ++ 0#5 ++ 9#6 := rfl
  have hm := congrArg (BitVec.extractLsb' 26 6) e
  have h0 := congrArg (BitVec.extractLsb' 0 6) e
  have h1 := congrArg (BitVec.extractLsb' 7 4) e
  have h2 := congrArg (BitVec.extractLsb' 21 5) e
  have h3 := congrArg (BitVec.extractLsb' 6 5) e
  have h4 := congrArg (BitVec.extractLsb' 16 5) e
  have h5 := congrArg (BitVec.extractLsb' 11 5) e
  simp (disch := decide) only [fieldAbove, fieldBelow, Nat.reduceSub, fieldWhole] at hm h0 h1 h2 h3 h4 h5
  generalize encode (.jread x0 x1) = w at hm h0 h1 h2 h3 h4 h5 ⊢
  refine decode_major 38#6 hm rfl rfl rawWord_26 ?_ h
  unfold raw26
  rw [h0, h1, h2, h3, h4, h5]
  rfl

theorem fwdq (x0 : BitVec 5) (x1 : BitVec 5) : Statement (.fwdq x0 x1) := by
  intro _ h
  have e : encode (.fwdq x0 x1) = 38#6 ++ x0 ++ 0#5 ++ x1 ++ 0#5 ++ 12#6 := rfl
  have hm := congrArg (BitVec.extractLsb' 26 6) e
  have h0 := congrArg (BitVec.extractLsb' 0 6) e
  have h1 := congrArg (BitVec.extractLsb' 7 4) e
  have h2 := congrArg (BitVec.extractLsb' 21 5) e
  have h3 := congrArg (BitVec.extractLsb' 6 5) e
  have h4 := congrArg (BitVec.extractLsb' 16 5) e
  have h5 := congrArg (BitVec.extractLsb' 11 5) e
  simp (disch := decide) only [fieldAbove, fieldBelow, Nat.reduceSub, fieldWhole] at hm h0 h1 h2 h3 h4 h5
  generalize encode (.fwdq x0 x1) = w at hm h0 h1 h2 h3 h4 h5 ⊢
  refine decode_major 38#6 hm rfl rfl rawWord_26 ?_ h
  unfold raw26
  rw [h0, h1, h2, h3, h4, h5]
  rfl

theorem cdef (x0 : BitVec 5) (x1 : BitVec 5) : Statement (.cdef x0 x1) := by
  intro _ h
  have e : encode (.cdef x0 x1) = 39#6 ++ x0 ++ x1 ++ 0#10 ++ 0#6 := rfl
  have hm := congrArg (BitVec.extractLsb' 26 6) e
  have h0 := congrArg (BitVec.extractLsb' 0 6) e
  have h1 := congrArg (BitVec.extractLsb' 6 10) e
  have h2 := congrArg (BitVec.extractLsb' 21 5) e
  have h3 := congrArg (BitVec.extractLsb' 16 5) e
  simp (disch := decide) only [fieldAbove, fieldBelow, Nat.reduceSub, fieldWhole] at hm h0 h1 h2 h3
  generalize encode (.cdef x0 x1) = w at hm h0 h1 h2 h3 ⊢
  refine decode_major 39#6 hm rfl rfl rawWord_27 ?_ h
  unfold raw27
  rw [h0, h1, h2, h3]
  rfl

theorem cwatch (x0 : BitVec 5) (x1 : BitVec 5) (x2 : BitVec 5) : Statement (.cwatch x0 x1 x2) := by
  intro _ h
  have e : encode (.cwatch x0 x1 x2) = 39#6 ++ x0 ++ x1 ++ x2 ++ 0#5 ++ 1#6 := rfl
  have hm := congrArg (BitVec.extractLsb' 26 6) e
  have h0 := congrArg (BitVec.extractLsb' 0 6) e
  have h1 := congrArg (BitVec.extractLsb' 6 5) e
  have h2 := congrArg (BitVec.extractLsb' 21 5) e
  have h3 := congrArg (BitVec.extractLsb' 16 5) e
  have h4 := congrArg (BitVec.extractLsb' 11 5) e
  simp (disch := decide) only [fieldAbove, fieldBelow, Nat.reduceSub, fieldWhole] at hm h0 h1 h2 h3 h4
  generalize encode (.cwatch x0 x1 x2) = w at hm h0 h1 h2 h3 h4 ⊢
  refine decode_major 39#6 hm rfl rfl rawWord_27 ?_ h
  unfold raw27
  rw [h0, h1, h2, h3, h4]
  rfl

theorem cwatchOff (x0 : BitVec 5) : Statement (.cwatchOff x0) := by
  intro _ h
  have e : encode (.cwatchOff x0) = 39#6 ++ 0#5 ++ x0 ++ 1#10 ++ 1#6 := rfl
  have hm := congrArg (BitVec.extractLsb' 26 6) e
  have h0 := congrArg (BitVec.extractLsb' 0 6) e
  have h1 := congrArg (BitVec.extractLsb' 6 10) e
  have h2 := congrArg (BitVec.extractLsb' 6 5) e
  have h3 := congrArg (BitVec.extractLsb' 21 5) e
  have h4 := congrArg (BitVec.extractLsb' 16 5) e
  have h5 := congrArg (BitVec.extractLsb' 11 5) e
  simp (disch := decide) only [fieldAbove, fieldBelow, Nat.reduceSub, fieldWhole] at hm h0 h1 h2 h3 h4 h5
  generalize encode (.cwatchOff x0) = w at hm h0 h1 h2 h3 h4 h5 ⊢
  refine decode_major 39#6 hm rfl rfl rawWord_27 ?_ h
  unfold raw27
  rw [h0, h1, h2, h3, h4, h5]
  rfl

theorem cstart (x0 : BitVec 5) : Statement (.cstart x0) := by
  intro _ h
  have e : encode (.cstart x0) = 39#6 ++ 0#5 ++ x0 ++ 0#10 ++ 2#6 := rfl
  have hm := congrArg (BitVec.extractLsb' 26 6) e
  have h0 := congrArg (BitVec.extractLsb' 0 6) e
  have h1 := congrArg (BitVec.extractLsb' 6 10) e
  have h2 := congrArg (BitVec.extractLsb' 6 5) e
  have h3 := congrArg (BitVec.extractLsb' 21 5) e
  have h4 := congrArg (BitVec.extractLsb' 16 5) e
  simp (disch := decide) only [fieldAbove, fieldBelow, Nat.reduceSub, fieldWhole] at hm h0 h1 h2 h3 h4
  generalize encode (.cstart x0) = w at hm h0 h1 h2 h3 h4 ⊢
  refine decode_major 39#6 hm rfl rfl rawWord_27 ?_ h
  unfold raw27
  rw [h0, h1, h2, h3, h4]
  rfl

theorem cstat (x0 : BitVec 5) (x1 : BitVec 5) : Statement (.cstat x0 x1) := by
  intro _ h
  have e : encode (.cstat x0 x1) = 39#6 ++ 0#5 ++ x0 ++ x1 ++ 0#5 ++ 3#6 := rfl
  have hm := congrArg (BitVec.extractLsb' 26 6) e
  have h0 := congrArg (BitVec.extractLsb' 0 6) e
  have h1 := congrArg (BitVec.extractLsb' 6 5) e
  have h2 := congrArg (BitVec.extractLsb' 21 5) e
  have h3 := congrArg (BitVec.extractLsb' 16 5) e
  have h4 := congrArg (BitVec.extractLsb' 11 5) e
  simp (disch := decide) only [fieldAbove, fieldBelow, Nat.reduceSub, fieldWhole] at hm h0 h1 h2 h3 h4
  generalize encode (.cstat x0 x1) = w at hm h0 h1 h2 h3 h4 ⊢
  refine decode_major 39#6 hm rfl rfl rawWord_27 ?_ h
  unfold raw27
  rw [h0, h1, h2, h3, h4]
  rfl

theorem cbw (x0 : BitVec 5) (x1 : BitVec 5) : Statement (.cbw x0 x1) := by
  intro _ h
  have e : encode (.cbw x0 x1) = 39#6 ++ x0 ++ x1 ++ 0#10 ++ 4#6 := rfl
  have hm := congrArg (BitVec.extractLsb' 26 6) e
  have h0 := congrArg (BitVec.extractLsb' 0 6) e
  have h1 := congrArg (BitVec.extractLsb' 6 10) e
  have h2 := congrArg (BitVec.extractLsb' 6 5) e
  have h3 := congrArg (BitVec.extractLsb' 21 5) e
  have h4 := congrArg (BitVec.extractLsb' 16 5) e
  simp (disch := decide) only [fieldAbove, fieldBelow, Nat.reduceSub, fieldWhole] at hm h0 h1 h2 h3 h4
  generalize encode (.cbw x0 x1) = w at hm h0 h1 h2 h3 h4 ⊢
  refine decode_major 39#6 hm rfl rfl rawWord_27 ?_ h
  unfold raw27
  rw [h0, h1, h2, h3, h4]
  rfl

theorem cabort (x0 : BitVec 5) (x1 : BitVec 5) : Statement (.cabort x0 x1) := by
  intro _ h
  have e : encode (.cabort x0 x1) = 39#6 ++ 0#5 ++ x0 ++ x1 ++ 0#5 ++ 5#6 := rfl
  have hm := congrArg (BitVec.extractLsb' 26 6) e
  have h0 := congrArg (BitVec.extractLsb' 0 6) e
  have h1 := congrArg (BitVec.extractLsb' 6 5) e
  have h2 := congrArg (BitVec.extractLsb' 21 5) e
  have h3 := congrArg (BitVec.extractLsb' 16 5) e
  have h4 := congrArg (BitVec.extractLsb' 11 5) e
  simp (disch := decide) only [fieldAbove, fieldBelow, Nat.reduceSub, fieldWhole] at hm h0 h1 h2 h3 h4
  generalize encode (.cabort x0 x1) = w at hm h0 h1 h2 h3 h4 ⊢
  refine decode_major 39#6 hm rfl rfl rawWord_27 ?_ h
  unfold raw27
  rw [h0, h1, h2, h3, h4]
  rfl

theorem barm (x0 : BitVec 5) (x1 : BitVec 5) : Statement (.barm x0 x1) := by
  intro _ h
  have e : encode (.barm x0 x1) = 40#6 ++ x0 ++ x1 ++ 0#10 ++ 0#6 := rfl
  have hm := congrArg (BitVec.extractLsb' 26 6) e
  have h0 := congrArg (BitVec.extractLsb' 0 6) e
  have h1 := congrArg (BitVec.extractLsb' 6 10) e
  have h2 := congrArg (BitVec.extractLsb' 21 5) e
  have h3 := congrArg (BitVec.extractLsb' 16 5) e
  simp (disch := decide) only [fieldAbove, fieldBelow, Nat.reduceSub, fieldWhole] at hm h0 h1 h2 h3
  generalize encode (.barm x0 x1) = w at hm h0 h1 h2 h3 ⊢
  refine decode_major 40#6 hm rfl rfl rawWord_28 ?_ h
  unfold raw28
  rw [h0, h1, h2, h3]
  rfl

theorem bara (x0 : BitVec 5) (x1 : BitVec 5) (x2 : BitVec 5) : Statement (.bara x0 x1 x2) := by
  intro _ h
  have e : encode (.bara x0 x1 x2) = 40#6 ++ x0 ++ x1 ++ x2 ++ 0#5 ++ 1#6 := rfl
  have hm := congrArg (BitVec.extractLsb' 26 6) e
  have h0 := congrArg (BitVec.extractLsb' 0 6) e
  have h1 := congrArg (BitVec.extractLsb' 6 5) e
  have h2 := congrArg (BitVec.extractLsb' 21 5) e
  have h3 := congrArg (BitVec.extractLsb' 16 5) e
  have h4 := congrArg (BitVec.extractLsb' 11 5) e
  simp (disch := decide) only [fieldAbove, fieldBelow, Nat.reduceSub, fieldWhole] at hm h0 h1 h2 h3 h4
  generalize encode (.bara x0 x1 x2) = w at hm h0 h1 h2 h3 h4 ⊢
  refine decode_major 40#6 hm rfl rfl rawWord_28 ?_ h
  unfold raw28
  rw [h0, h1, h2, h3, h4]
  rfl

theorem barw (x0 : BitVec 5) (x1 : BitVec 5) (x2 : BitVec 5) : Statement (.barw x0 x1 x2) := by
  intro _ h
  have e : encode (.barw x0 x1 x2) = 40#6 ++ x0 ++ x1 ++ x2 ++ 0#5 ++ 2#6 := rfl
  have hm := congrArg (BitVec.extractLsb' 26 6) e
  have h0 := congrArg (BitVec.extractLsb' 0 6) e
  have h1 := congrArg (BitVec.extractLsb' 6 5) e
  have h2 := congrArg (BitVec.extractLsb' 21 5) e
  have h3 := congrArg (BitVec.extractLsb' 16 5) e
  have h4 := congrArg (BitVec.extractLsb' 11 5) e
  simp (disch := decide) only [fieldAbove, fieldBelow, Nat.reduceSub, fieldWhole] at hm h0 h1 h2 h3 h4
  generalize encode (.barw x0 x1 x2) = w at hm h0 h1 h2 h3 h4 ⊢
  refine decode_major 40#6 hm rfl rfl rawWord_28 ?_ h
  unfold raw28
  rw [h0, h1, h2, h3, h4]
  rfl

theorem bart (x0 : BitVec 5) (x1 : BitVec 5) : Statement (.bart x0 x1) := by
  intro _ h
  have e : encode (.bart x0 x1) = 40#6 ++ x0 ++ 0#5 ++ x1 ++ 0#5 ++ 3#6 := rfl
  have hm := congrArg (BitVec.extractLsb' 26 6) e
  have h0 := congrArg (BitVec.extractLsb' 0 6) e
  have h1 := congrArg (BitVec.extractLsb' 6 5) e
  have h2 := congrArg (BitVec.extractLsb' 16 5) e
  have h3 := congrArg (BitVec.extractLsb' 21 5) e
  have h4 := congrArg (BitVec.extractLsb' 11 5) e
  simp (disch := decide) only [fieldAbove, fieldBelow, Nat.reduceSub, fieldWhole] at hm h0 h1 h2 h3 h4
  generalize encode (.bart x0 x1) = w at hm h0 h1 h2 h3 h4 ⊢
  refine decode_major 40#6 hm rfl rfl rawWord_28 ?_ h
  unfold raw28
  rw [h0, h1, h2, h3, h4]
  rfl

theorem bmask (x0 : BitVec 5) (x1 : BitVec 5) : Statement (.bmask x0 x1) := by
  intro _ h
  have e : encode (.bmask x0 x1) = 40#6 ++ x0 ++ x1 ++ 0#10 ++ 4#6 := rfl
  have hm := congrArg (BitVec.extractLsb' 26 6) e
  have h0 := congrArg (BitVec.extractLsb' 0 6) e
  have h1 := congrArg (BitVec.extractLsb' 6 10) e
  have h2 := congrArg (BitVec.extractLsb' 6 5) e
  have h3 := congrArg (BitVec.extractLsb' 16 5) e
  have h4 := congrArg (BitVec.extractLsb' 21 5) e
  simp (disch := decide) only [fieldAbove, fieldBelow, Nat.reduceSub, fieldWhole] at hm h0 h1 h2 h3 h4
  generalize encode (.bmask x0 x1) = w at hm h0 h1 h2 h3 h4 ⊢
  refine decode_major 40#6 hm rfl rfl rawWord_28 ?_ h
  unfold raw28
  rw [h0, h1, h2, h3, h4]
  rfl

theorem btime (x0 : BitVec 5) (x1 : BitVec 5) : Statement (.btime x0 x1) := by
  intro _ h
  have e : encode (.btime x0 x1) = 40#6 ++ x0 ++ x1 ++ 0#10 ++ 5#6 := rfl
  have hm := congrArg (BitVec.extractLsb' 26 6) e
  have h0 := congrArg (BitVec.extractLsb' 0 6) e
  have h1 := congrArg (BitVec.extractLsb' 6 10) e
  have h2 := congrArg (BitVec.extractLsb' 6 5) e
  have h3 := congrArg (BitVec.extractLsb' 16 5) e
  have h4 := congrArg (BitVec.extractLsb' 21 5) e
  simp (disch := decide) only [fieldAbove, fieldBelow, Nat.reduceSub, fieldWhole] at hm h0 h1 h2 h3 h4
  generalize encode (.btime x0 x1) = w at hm h0 h1 h2 h3 h4 ⊢
  refine decode_major 40#6 hm rfl rfl rawWord_28 ?_ h
  unfold raw28
  rw [h0, h1, h2, h3, h4]
  rfl

theorem asamp (x0 : BitVec 5) (x1 : BitVec 5) : Statement (.asamp x0 x1) := by
  intro _ h
  have e : encode (.asamp x0 x1) = 41#6 ++ x0 ++ x1 ++ 0#10 ++ 0#6 := rfl
  have hm := congrArg (BitVec.extractLsb' 26 6) e
  have h0 := congrArg (BitVec.extractLsb' 0 6) e
  have h1 := congrArg (BitVec.extractLsb' 6 10) e
  have h2 := congrArg (BitVec.extractLsb' 21 5) e
  have h3 := congrArg (BitVec.extractLsb' 16 5) e
  simp (disch := decide) only [fieldAbove, fieldBelow, Nat.reduceSub, fieldWhole] at hm h0 h1 h2 h3
  generalize encode (.asamp x0 x1) = w at hm h0 h1 h2 h3 ⊢
  refine decode_major 41#6 hm rfl rfl rawWord_29 ?_ h
  unfold raw29
  rw [h0, h1, h2, h3]
  rfl

theorem athr (x0 : BitVec 5) (x1 : BitVec 5) : Statement (.athr x0 x1) := by
  intro _ h
  have e : encode (.athr x0 x1) = 41#6 ++ x0 ++ x1 ++ 0#10 ++ 1#6 := rfl
  have hm := congrArg (BitVec.extractLsb' 26 6) e
  have h0 := congrArg (BitVec.extractLsb' 0 6) e
  have h1 := congrArg (BitVec.extractLsb' 6 10) e
  have h2 := congrArg (BitVec.extractLsb' 21 5) e
  have h3 := congrArg (BitVec.extractLsb' 16 5) e
  simp (disch := decide) only [fieldAbove, fieldBelow, Nat.reduceSub, fieldWhole] at hm h0 h1 h2 h3
  generalize encode (.athr x0 x1) = w at hm h0 h1 h2 h3 ⊢
  refine decode_major 41#6 hm rfl rfl rawWord_29 ?_ h
  unfold raw29
  rw [h0, h1, h2, h3]
  rfl

theorem ahist (x0 : BitVec 5) (x1 : BitVec 5) : Statement (.ahist x0 x1) := by
  intro _ h
  have e : encode (.ahist x0 x1) = 41#6 ++ x0 ++ 0#5 ++ x1 ++ 0#5 ++ 2#6 := rfl
  have hm := congrArg (BitVec.extractLsb' 26 6) e
  have h0 := congrArg (BitVec.extractLsb' 0 6) e
  have h1 := congrArg (BitVec.extractLsb' 16 5) e
  have h2 := congrArg (BitVec.extractLsb' 6 5) e
  have h3 := congrArg (BitVec.extractLsb' 21 5) e
  have h4 := congrArg (BitVec.extractLsb' 11 5) e
  simp (disch := decide) only [fieldAbove, fieldBelow, Nat.reduceSub, fieldWhole] at hm h0 h1 h2 h3 h4
  generalize encode (.ahist x0 x1) = w at hm h0 h1 h2 h3 h4 ⊢
  refine decode_major 41#6 hm rfl rfl rawWord_29 ?_ h
  unfold raw29
  rw [h0, h1, h2, h3, h4]
  rfl

theorem aclr (x0 : BitVec 5) : Statement (.aclr x0) := by
  intro _ h
  have e : encode (.aclr x0) = 41#6 ++ x0 ++ 0#15 ++ 3#6 := rfl
  have hm := congrArg (BitVec.extractLsb' 26 6) e
  have h0 := congrArg (BitVec.extractLsb' 0 6) e
  have h1 := congrArg (BitVec.extractLsb' 6 10) e
  have h2 := congrArg (BitVec.extractLsb' 16 5) e
  have h3 := congrArg (BitVec.extractLsb' 6 5) e
  have h4 := congrArg (BitVec.extractLsb' 6 15) e
  have h5 := congrArg (BitVec.extractLsb' 21 5) e
  simp (disch := decide) only [fieldAbove, fieldBelow, Nat.reduceSub, fieldWhole] at hm h0 h1 h2 h3 h4 h5
  generalize encode (.aclr x0) = w at hm h0 h1 h2 h3 h4 h5 ⊢
  refine decode_major 41#6 hm rfl rfl rawWord_29 ?_ h
  unfold raw29
  rw [h0, h1, h2, h3, h4, h5]
  rfl

theorem astat (x0 : BitVec 5) (x1 : BitVec 5) : Statement (.astat x0 x1) := by
  intro _ h
  have e : encode (.astat x0 x1) = 41#6 ++ x0 ++ 0#5 ++ x1 ++ 0#5 ++ 4#6 := rfl
  have hm := congrArg (BitVec.extractLsb' 26 6) e
  have h0 := congrArg (BitVec.extractLsb' 0 6) e
  have h1 := congrArg (BitVec.extractLsb' 16 5) e
  have h2 := congrArg (BitVec.extractLsb' 6 5) e
  have h3 := congrArg (BitVec.extractLsb' 21 5) e
  have h4 := congrArg (BitVec.extractLsb' 11 5) e
  simp (disch := decide) only [fieldAbove, fieldBelow, Nat.reduceSub, fieldWhole] at hm h0 h1 h2 h3 h4
  generalize encode (.astat x0 x1) = w at hm h0 h1 h2 h3 h4 ⊢
  refine decode_major 41#6 hm rfl rfl rawWord_29 ?_ h
  unfold raw29
  rw [h0, h1, h2, h3, h4]
  rfl

theorem chkpt (x0 : BitVec 5) : Statement (.chkpt x0) := by
  intro _ h
  have e : encode (.chkpt x0) = 44#6 ++ 0#10 ++ x0 ++ 0#5 ++ 0#6 := rfl
  have hm := congrArg (BitVec.extractLsb' 26 6) e
  have h0 := congrArg (BitVec.extractLsb' 0 6) e
  have h1 := congrArg (BitVec.extractLsb' 16 10) e
  have h2 := congrArg (BitVec.extractLsb' 6 5) e
  have h3 := congrArg (BitVec.extractLsb' 11 5) e
  simp (disch := decide) only [fieldAbove, fieldBelow, Nat.reduceSub, fieldWhole] at hm h0 h1 h2 h3
  generalize encode (.chkpt x0) = w at hm h0 h1 h2 h3 ⊢
  refine decode_major 44#6 hm rfl rfl rawWord_2C ?_ h
  unfold raw2C
  rw [h0, h1, h2, h3]
  rfl

theorem ckreg (x0 : BitVec 5) (x1 : BitVec 5) (x2 : BitVec 3) : Statement (.ckreg x0 x1 x2) := by
  intro _ h
  have e : encode (.ckreg x0 x1 x2) = 44#6 ++ x0 ++ x1 ++ 0#7 ++ x2 ++ 1#6 := rfl
  have hm := congrArg (BitVec.extractLsb' 26 6) e
  have h0 := congrArg (BitVec.extractLsb' 0 6) e
  have h1 := congrArg (BitVec.extractLsb' 9 7) e
  have h2 := congrArg (BitVec.extractLsb' 21 5) e
  have h3 := congrArg (BitVec.extractLsb' 16 5) e
  have h4 := congrArg (BitVec.extractLsb' 6 3) e
  simp (disch := decide) only [fieldAbove, fieldBelow, Nat.reduceSub, fieldWhole] at hm h0 h1 h2 h3 h4
  generalize encode (.ckreg x0 x1 x2) = w at hm h0 h1 h2 h3 h4 ⊢
  refine decode_major 44#6 hm rfl rfl rawWord_2C ?_ h
  unfold raw2C
  rw [h0, h1, h2, h3, h4]
  rfl

theorem ebrd (x0 : BitVec 5) (x1 : BitVec 5) (x2 : BitVec 2) : Statement (.ebrd x0 x1 x2) := by
  intro _ h
  have e : encode (.ebrd x0 x1 x2) = 44#6 ++ x0 ++ 0#5 ++ x1 ++ 0#3 ++ x2 ++ 2#6 := rfl
  have hm := congrArg (BitVec.extractLsb' 26 6) e
  have h0 := congrArg (BitVec.extractLsb' 0 6) e
  have h1 := congrArg (BitVec.extractLsb' 16 5) e
  have h2 := congrArg (BitVec.extractLsb' 8 3) e
  have h3 := congrArg (BitVec.extractLsb' 21 5) e
  have h4 := congrArg (BitVec.extractLsb' 11 5) e
  have h5 := congrArg (BitVec.extractLsb' 6 2) e
  simp (disch := decide) only [fieldAbove, fieldBelow, Nat.reduceSub, fieldWhole] at hm h0 h1 h2 h3 h4 h5
  generalize encode (.ebrd x0 x1 x2) = w at hm h0 h1 h2 h3 h4 h5 ⊢
  refine decode_major 44#6 hm rfl rfl rawWord_2C ?_ h
  unfold raw2C
  rw [h0, h1, h2, h3, h4, h5]
  have hx : x2 ≠ 3#2 := by
    rintro rfl
    exact absurd h Bool.false_ne_true
  exact (if_pos ⟨rfl, rfl, hx⟩ : (if (0#5 = 0#5 ∧ 0#3 = 0#3 ∧ x2 ≠ 3#2)
    then some (Instr.ebrd x0 x1 x2) else none) = _)

theorem ebclr (x0 : BitVec 5) (x1 : BitVec 5) (x2 : BitVec 5) : Statement (.ebclr x0 x1 x2) := by
  intro _ h
  have e : encode (.ebclr x0 x1 x2) = 44#6 ++ x0 ++ x1 ++ x2 ++ 0#5 ++ 3#6 := rfl
  have hm := congrArg (BitVec.extractLsb' 26 6) e
  have h0 := congrArg (BitVec.extractLsb' 0 6) e
  have h1 := congrArg (BitVec.extractLsb' 6 5) e
  have h2 := congrArg (BitVec.extractLsb' 16 5) e
  have h3 := congrArg (BitVec.extractLsb' 8 3) e
  have h4 := congrArg (BitVec.extractLsb' 21 5) e
  have h5 := congrArg (BitVec.extractLsb' 11 5) e
  simp (disch := decide) only [fieldAbove, fieldBelow, Nat.reduceSub, fieldWhole] at hm h0 h1 h2 h3 h4 h5
  generalize encode (.ebclr x0 x1 x2) = w at hm h0 h1 h2 h3 h4 h5 ⊢
  refine decode_major 44#6 hm rfl rfl rawWord_2C ?_ h
  unfold raw2C
  rw [h0, h1, h2, h3, h4, h5]
  rfl

theorem killt (x0 : BitVec 5) (x1 : BitVec 5) : Statement (.killt x0 x1) := by
  intro _ h
  have e : encode (.killt x0 x1) = 44#6 ++ x0 ++ 0#5 ++ x1 ++ 0#5 ++ 4#6 := rfl
  have hm := congrArg (BitVec.extractLsb' 26 6) e
  have h0 := congrArg (BitVec.extractLsb' 0 6) e
  have h1 := congrArg (BitVec.extractLsb' 6 5) e
  have h2 := congrArg (BitVec.extractLsb' 16 5) e
  have h3 := congrArg (BitVec.extractLsb' 8 3) e
  have h4 := congrArg (BitVec.extractLsb' 21 5) e
  have h5 := congrArg (BitVec.extractLsb' 11 5) e
  simp (disch := decide) only [fieldAbove, fieldBelow, Nat.reduceSub, fieldWhole] at hm h0 h1 h2 h3 h4 h5
  generalize encode (.killt x0 x1) = w at hm h0 h1 h2 h3 h4 h5 ⊢
  refine decode_major 44#6 hm rfl rfl rawWord_2C ?_ h
  unfold raw2C
  rw [h0, h1, h2, h3, h4, h5]
  rfl

theorem killScrubEnd (x0 : Nat) : Statement (.killScrubEnd x0) := fun h => absurd h Bool.false_ne_true

theorem texitDrainDone (x0 : Nat) : Statement (.texitDrainDone x0) := fun h => absurd h Bool.false_ne_true

theorem slotFill (x0 : Nat) : Statement (.slotFill x0) := fun h => absurd h Bool.false_ne_true

theorem spawnMessage (x0 : Nat)  (x1 : Nat)  (x2 : Nat) : Statement (.spawnMessage x0 x1 x2) := fun h => absurd h Bool.false_ne_true

theorem fetchLineArrival (x0 : Nat) : Statement (.fetchLineArrival x0) := fun h => absurd h Bool.false_ne_true

theorem fetchAhead (x0 : Nat)  (x1 : Nat) : Statement (.fetchAhead x0 x1) := fun h => absurd h Bool.false_ne_true

theorem userInterruptEntry (x0 : Nat) : Statement (.userInterruptEntry x0) := fun h => absurd h Bool.false_ne_true

theorem replayIssue (x0 : Nat) : Statement (.replayIssue x0) := fun h => absurd h Bool.false_ne_true

theorem replayForcedPlace (x0 : Nat) : Statement (.replayForcedPlace x0) := fun h => absurd h Bool.false_ne_true

theorem replayFaultDelivery (x0 : Nat) : Statement (.replayFaultDelivery x0) := fun h => absurd h Bool.false_ne_true

theorem sleepDeadline (x0 : Nat) : Statement (.sleepDeadline x0) := fun h => absurd h Bool.false_ne_true

theorem recvtDeadline (x0 : Nat) : Statement (.recvtDeadline x0) := fun h => absurd h Bool.false_ne_true

theorem migrateArrival (x0 : Nat)  (x1 : Nat) : Statement (.migrateArrival x0 x1) := fun h => absurd h Bool.false_ne_true

theorem slotGate (x0 : Nat) : Statement (.slotGate x0) := fun h => absurd h Bool.false_ne_true

theorem slotUngate (x0 : Nat) : Statement (.slotUngate x0) := fun h => absurd h Bool.false_ne_true

theorem tsrAccessResume (x0 : Nat) : Statement (.tsrAccessResume x0) := fun h => absurd h Bool.false_ne_true

theorem evthreadWrite (x0 : Nat)  (x1 : Word) : Statement (.evthreadWrite x0 x1) := fun h => absurd h Bool.false_ne_true

theorem tepcWrite (x0 : Nat)  (x1 : Word) : Statement (.tepcWrite x0 x1) := fun h => absurd h Bool.false_ne_true

theorem spillqWrite (x0 : Nat)  (x1 : Word) : Statement (.spillqWrite x0 x1) := fun h => absurd h Bool.false_ne_true

theorem uipendWrite (x0 : Nat)  (x1 : Word) : Statement (.uipendWrite x0 x1) := fun h => absurd h Bool.false_ne_true

theorem rndlfsrWrite (x0 : Nat)  (x1 : Word) : Statement (.rndlfsrWrite x0 x1) := fun h => absurd h Bool.false_ne_true

theorem accessReply (x0 : Nat) : Statement (.accessReply x0) := fun h => absurd h Bool.false_ne_true

theorem remoteReply (x0 : Nat) : Statement (.remoteReply x0) := fun h => absurd h Bool.false_ne_true

theorem remoteTimeout (x0 : Nat)  (x1 : Nat) : Statement (.remoteTimeout x0 x1) := fun h => absurd h Bool.false_ne_true

theorem remoteRequestAtHome (x0 : Nat) : Statement (.remoteRequestAtHome x0) := fun h => absurd h Bool.false_ne_true

theorem journalAck (x0 : Nat)  (x1 : Nat)  (x2 : Nat) : Statement (.journalAck x0 x1 x2) := fun h => absurd h Bool.false_ne_true

theorem journalRefusal (x0 : Nat)  (x1 : Nat)  (x2 : Nat) : Statement (.journalRefusal x0 x1 x2) := fun h => absurd h Bool.false_ne_true

theorem journalExpired (x0 : Nat)  (x1 : Nat)  (x2 : Nat) : Statement (.journalExpired x0 x1 x2) := fun h => absurd h Bool.false_ne_true

theorem feArrival (x0 : Nat)  (x1 : Nat)  (x2 : Nat) : Statement (.feArrival x0 x1 x2) := fun h => absurd h Bool.false_ne_true

theorem feQueuedNotice (x0 : Nat)  (x1 : Nat) : Statement (.feQueuedNotice x0 x1) := fun h => absurd h Bool.false_ne_true

theorem feGrantConfirm (x0 : Nat)  (x1 : Nat) : Statement (.feGrantConfirm x0 x1) := fun h => absurd h Bool.false_ne_true

theorem feReprobe (x0 : Nat) : Statement (.feReprobe x0) := fun h => absurd h Bool.false_ne_true

theorem postedStfExpire (x0 : Nat)  (x1 : Nat)  (x2 : Nat) : Statement (.postedStfExpire x0 x1 x2) := fun h => absurd h Bool.false_ne_true

theorem importEntryExpiry (x0 : Nat)  (x1 : Nat)  (x2 : Nat) : Statement (.importEntryExpiry x0 x1 x2) := fun h => absurd h Bool.false_ne_true

theorem vectorUnitStart (x0 : Nat) : Statement (.vectorUnitStart x0) := fun h => absurd h Bool.false_ne_true

theorem vqsplitRelease (x0 : Nat) : Statement (.vqsplitRelease x0) := fun h => absurd h Bool.false_ne_true

theorem matrixUnitStart (x0 : Nat) : Statement (.matrixUnitStart x0) := fun h => absurd h Bool.false_ne_true

theorem tmmasChunk (x0 : Nat) : Statement (.tmmasChunk x0) := fun h => absurd h Bool.false_ne_true

theorem tmmasResume (x0 : Nat) : Statement (.tmmasResume x0) := fun h => absurd h Bool.false_ne_true

theorem tileArrival (x0 : Nat) : Statement (.tileArrival x0) := fun h => absurd h Bool.false_ne_true

theorem forwardAccept (x0 : Nat)  (x1 : Nat) : Statement (.forwardAccept x0 x1) := fun h => absurd h Bool.false_ne_true

theorem tsendAccept (x0 : Nat)  (x1 : Nat) : Statement (.tsendAccept x0 x1) := fun h => absurd h Bool.false_ne_true

theorem streamElementArrival (x0 : Nat)  (x1 : Nat)  (x2 : Nat) : Statement (.streamElementArrival x0 x1 x2) := fun h => absurd h Bool.false_ne_true

theorem streamDrain (x0 : Nat)  (x1 : Nat) : Statement (.streamDrain x0 x1) := fun h => absurd h Bool.false_ne_true

theorem ringStreamFill (x0 : Nat)  (x1 : Nat) : Statement (.ringStreamFill x0 x1) := fun h => absurd h Bool.false_ne_true

theorem copyChunk (x0 : Nat)  (x1 : Nat) : Statement (.copyChunk x0 x1) := fun h => absurd h Bool.false_ne_true

theorem copyComplete (x0 : Nat)  (x1 : Nat) : Statement (.copyComplete x0 x1) := fun h => absurd h Bool.false_ne_true

theorem arrivalAdd (x0 : Nat)  (x1 : Nat) : Statement (.arrivalAdd x0 x1) := fun h => absurd h Bool.false_ne_true

theorem inboxMessage (x0 : Nat)  (x1 : Nat)  (x2 : Nat) : Statement (.inboxMessage x0 x1 x2) := fun h => absurd h Bool.false_ne_true

theorem forwardDeliver (x0 : Nat) : Statement (.forwardDeliver x0) := fun h => absurd h Bool.false_ne_true

theorem forwardEntryRemove (x0 : Nat) : Statement (.forwardEntryRemove x0) := fun h => absurd h Bool.false_ne_true

theorem remapExceptionCommit (x0 : Nat)  (x1 : Nat)  (x2 : Nat) : Statement (.remapExceptionCommit x0 x1 x2) := fun h => absurd h Bool.false_ne_true

theorem chkptCaptureDone (x0 : Nat) : Statement (.chkptCaptureDone x0) := fun h => absurd h Bool.false_ne_true

theorem coreRetire (x0 : Nat) : Statement (.coreRetire x0) := fun h => absurd h Bool.false_ne_true

theorem restoreStart (x0 : Nat) : Statement (.restoreStart x0) := fun h => absurd h Bool.false_ne_true

theorem restoreDone (x0 : Nat) : Statement (.restoreDone x0) := fun h => absurd h Bool.false_ne_true

theorem errorRecord (x0 : Nat)  (x1 : Nat)  (x2 : Nat)  (x3 : Nat)  (x4 : Nat)  (x5 : Word) : Statement (.errorRecord x0 x1 x2 x3 x4 x5) := fun h => absurd h Bool.false_ne_true

theorem sramPatrolScrub (x0 : Nat)  (x1 : Nat) : Statement (.sramPatrolScrub x0 x1) := fun h => absurd h Bool.false_ne_true

theorem hbmScrub (x0 : Nat)  (x1 : Nat) : Statement (.hbmScrub x0 x1) := fun h => absurd h Bool.false_ne_true

theorem hbmRefresh (x0 : Nat) : Statement (.hbmRefresh x0) := fun h => absurd h Bool.false_ne_true

theorem watchReached (x0 : Nat)  (x1 : Nat) : Statement (.watchReached x0 x1) := fun h => absurd h Bool.false_ne_true

theorem collectiveChunkStep (x0 : Nat)  (x1 : Nat) : Statement (.collectiveChunkStep x0 x1) := fun h => absurd h Bool.false_ne_true

theorem collectiveChunkReceive (x0 : Nat)  (x1 : Nat) : Statement (.collectiveChunkReceive x0 x1) := fun h => absurd h Bool.false_ne_true

theorem collectiveComplete (x0 : Nat)  (x1 : Nat) : Statement (.collectiveComplete x0 x1) := fun h => absurd h Bool.false_ne_true

theorem collectiveAbortNotice (x0 : Nat)  (x1 : Nat)  (x2 : Nat) : Statement (.collectiveAbortNotice x0 x1 x2) := fun h => absurd h Bool.false_ne_true

theorem collectiveTimeout (x0 : Nat)  (x1 : Nat) : Statement (.collectiveTimeout x0 x1) := fun h => absurd h Bool.false_ne_true

theorem collectiveHold (x0 : Nat)  (x1 : Nat) : Statement (.collectiveHold x0 x1) := fun h => absurd h Bool.false_ne_true

theorem collectiveResume (x0 : Nat)  (x1 : Nat) : Statement (.collectiveResume x0 x1) := fun h => absurd h Bool.false_ne_true

theorem barrierArrival (x0 : Nat)  (x1 : Nat)  (x2 : Word) : Statement (.barrierArrival x0 x1 x2) := fun h => absurd h Bool.false_ne_true

theorem barrierReleaseDelivery (x0 : Nat)  (x1 : Nat)  (x2 : Nat) : Statement (.barrierReleaseDelivery x0 x1 x2) := fun h => absurd h Bool.false_ne_true

theorem barrierExcusal (x0 : Nat)  (x1 : Nat) : Statement (.barrierExcusal x0 x1) := fun h => absurd h Bool.false_ne_true

theorem barrierTimeout (x0 : Nat) : Statement (.barrierTimeout x0) := fun h => absurd h Bool.false_ne_true

theorem auditRecord (x0 : Nat) : Statement (.auditRecord x0) := fun h => absurd h Bool.false_ne_true

theorem sliceRequest (x0 : Nat)  (x1 : Nat)  (x2 : Nat) : Statement (.sliceRequest x0 x1 x2) := fun h => absurd h Bool.false_ne_true

theorem sliceGrant (x0 : Nat)  (x1 : Nat)  (x2 : Nat)  (x3 : Nat) : Statement (.sliceGrant x0 x1 x2 x3) := fun h => absurd h Bool.false_ne_true

theorem sliceRefusal (x0 : Nat)  (x1 : Nat)  (x2 : Nat) : Statement (.sliceRefusal x0 x1 x2) := fun h => absurd h Bool.false_ne_true

theorem meterCalibration (x0 : Nat)  (x1 : Nat) : Statement (.meterCalibration x0 x1) := fun h => absurd h Bool.false_ne_true

theorem operatingPointChange (x0 : Nat) : Statement (.operatingPointChange x0) := fun h => absurd h Bool.false_ne_true

theorem powerCapStep (x0 : Nat) : Statement (.powerCapStep x0) := fun h => absurd h Bool.false_ne_true

theorem calendarReplace (x0 : List (Option Nat)) : Statement (.calendarReplace x0) := fun h => absurd h Bool.false_ne_true

theorem opticalFrameReceive (x0 : Nat)  (x1 : Machine.Frame) : Statement (.opticalFrameReceive x0 x1) := fun h => absurd h Bool.false_ne_true

theorem opticalFrameRetry (x0 : Nat)  (x1 : Machine.Frame) : Statement (.opticalFrameRetry x0 x1) := fun h => absurd h Bool.false_ne_true

theorem portGroupDown (x0 : Nat) : Statement (.portGroupDown x0) := fun h => absurd h Bool.false_ne_true

theorem relayForward (x0 : Nat) : Statement (.relayForward x0) := fun h => absurd h Bool.false_ne_true

theorem notResidentResend (x0 : Nat) : Statement (.notResidentResend x0) := fun h => absurd h Bool.false_ne_true

theorem gateOpen (x0 : Nat) : Statement (.gateOpen x0) := fun h => absurd h Bool.false_ne_true

theorem gateNotice (x0 : Nat)  (x1 : Nat) : Statement (.gateNotice x0 x1) := fun h => absurd h Bool.false_ne_true

theorem gangSliceAbort (x0 : Nat) : Statement (.gangSliceAbort x0) := fun h => absurd h Bool.false_ne_true

theorem quadGroupComplete (x0 : Nat) : Statement (.quadGroupComplete x0) := fun h => absurd h Bool.false_ne_true

theorem quadScrubEnd (x0 : Nat) : Statement (.quadScrubEnd x0) := fun h => absurd h Bool.false_ne_true

theorem liveMigrationDone (x0 : Nat) : Statement (.liveMigrationDone x0) := fun h => absurd h Bool.false_ne_true

theorem migrOrderEnd (x0 : Nat)  (x1 : Nat) : Statement (.migrOrderEnd x0 x1) := fun h => absurd h Bool.false_ne_true

theorem rightsPropagated (x0 : Nat) : Statement (.rightsPropagated x0) := fun h => absurd h Bool.false_ne_true

theorem launchWindowWrite (x0 : Nat)  (x1 : Nat)  (x2 : List Byte) : Statement (.launchWindowWrite x0 x1 x2) := fun h => absurd h Bool.false_ne_true

theorem nonceWrite (x0 : Nat)  (x1 : List Byte) : Statement (.nonceWrite x0 x1) := fun h => absurd h Bool.false_ne_true

theorem fwload (x0 : Word) : Statement (.fwload x0) := fun h => absurd h Bool.false_ne_true

theorem mgmtFieldWrite (x0 : Nat)  (x1 : Word) : Statement (.mgmtFieldWrite x0 x1) := fun h => absurd h Bool.false_ne_true

theorem linkWrite (x0 : List Byte) : Statement (.linkWrite x0) := fun h => absurd h Bool.false_ne_true

theorem linkReadRequest (x0 : List Byte) : Statement (.linkReadRequest x0) := fun h => absurd h Bool.false_ne_true

theorem linkReadReply (x0 : List Byte) : Statement (.linkReadReply x0) := fun h => absurd h Bool.false_ne_true

theorem linkIdle (x0 : List Byte) : Statement (.linkIdle x0) := fun h => absurd h Bool.false_ne_true

theorem linkNak (x0 : List Byte) : Statement (.linkNak x0) := fun h => absurd h Bool.false_ne_true

theorem gangSliceBoundary (x0 : Nat)  (x1 : Nat) : Statement (.gangSliceBoundary x0 x1) := fun h => absurd h Bool.false_ne_true

theorem fabricLifetimeExpiry (x0 : Nat) : Statement (.fabricLifetimeExpiry x0) := fun h => absurd h Bool.false_ne_true

theorem streamFetchIssue (x0 : Nat)  (x1 : Nat) : Statement (.streamFetchIssue x0 x1) := fun h => absurd h Bool.false_ne_true

theorem linkFlitDiscarded (x0 : List Byte) : Statement (.linkFlitDiscarded x0) := fun h => absurd h Bool.false_ne_true

theorem add (x0 : BitVec 5) (x1 : BitVec 5) (x2 : BitVec 5) : Statement (.add x0 x1 x2) := by
  intro _ h
  have e : encode (.add x0 x1 x2) = 1#6 ++ x0 ++ x1 ++ x2 ++ 0#5 ++ 0#6 := rfl
  have hm := congrArg (BitVec.extractLsb' 26 6) e
  have h0 := congrArg (BitVec.extractLsb' 0 6) e
  have h1 := congrArg (BitVec.extractLsb' 6 5) e
  have h2 := congrArg (BitVec.extractLsb' 21 5) e
  have h3 := congrArg (BitVec.extractLsb' 16 5) e
  have h4 := congrArg (BitVec.extractLsb' 11 5) e
  simp (disch := decide) only [fieldAbove, fieldBelow, Nat.reduceSub, fieldWhole] at hm h0 h1 h2 h3 h4
  generalize encode (.add x0 x1 x2) = w at hm h0 h1 h2 h3 h4 ⊢
  refine decode_major 1#6 hm rfl rfl rawWord_01 ?_ h
  unfold raw01
  rw [h0, h1, h2, h3, h4]
  rfl

theorem sub (x0 : BitVec 5) (x1 : BitVec 5) (x2 : BitVec 5) : Statement (.sub x0 x1 x2) := by
  intro _ h
  have e : encode (.sub x0 x1 x2) = 1#6 ++ x0 ++ x1 ++ x2 ++ 0#5 ++ 1#6 := rfl
  have hm := congrArg (BitVec.extractLsb' 26 6) e
  have h0 := congrArg (BitVec.extractLsb' 0 6) e
  have h1 := congrArg (BitVec.extractLsb' 6 5) e
  have h2 := congrArg (BitVec.extractLsb' 21 5) e
  have h3 := congrArg (BitVec.extractLsb' 16 5) e
  have h4 := congrArg (BitVec.extractLsb' 11 5) e
  simp (disch := decide) only [fieldAbove, fieldBelow, Nat.reduceSub, fieldWhole] at hm h0 h1 h2 h3 h4
  generalize encode (.sub x0 x1 x2) = w at hm h0 h1 h2 h3 h4 ⊢
  refine decode_major 1#6 hm rfl rfl rawWord_01 ?_ h
  unfold raw01
  rw [h0, h1, h2, h3, h4]
  rfl

theorem mul (x0 : BitVec 5) (x1 : BitVec 5) (x2 : BitVec 5) : Statement (.mul x0 x1 x2) := by
  intro _ h
  have e : encode (.mul x0 x1 x2) = 1#6 ++ x0 ++ x1 ++ x2 ++ 0#5 ++ 2#6 := rfl
  have hm := congrArg (BitVec.extractLsb' 26 6) e
  have h0 := congrArg (BitVec.extractLsb' 0 6) e
  have h1 := congrArg (BitVec.extractLsb' 6 5) e
  have h2 := congrArg (BitVec.extractLsb' 21 5) e
  have h3 := congrArg (BitVec.extractLsb' 16 5) e
  have h4 := congrArg (BitVec.extractLsb' 11 5) e
  simp (disch := decide) only [fieldAbove, fieldBelow, Nat.reduceSub, fieldWhole] at hm h0 h1 h2 h3 h4
  generalize encode (.mul x0 x1 x2) = w at hm h0 h1 h2 h3 h4 ⊢
  refine decode_major 1#6 hm rfl rfl rawWord_01 ?_ h
  unfold raw01
  rw [h0, h1, h2, h3, h4]
  rfl

theorem mulh (x0 : BitVec 5) (x1 : BitVec 5) (x2 : BitVec 5) : Statement (.mulh x0 x1 x2) := by
  intro _ h
  have e : encode (.mulh x0 x1 x2) = 1#6 ++ x0 ++ x1 ++ x2 ++ 0#5 ++ 3#6 := rfl
  have hm := congrArg (BitVec.extractLsb' 26 6) e
  have h0 := congrArg (BitVec.extractLsb' 0 6) e
  have h1 := congrArg (BitVec.extractLsb' 6 5) e
  have h2 := congrArg (BitVec.extractLsb' 21 5) e
  have h3 := congrArg (BitVec.extractLsb' 16 5) e
  have h4 := congrArg (BitVec.extractLsb' 11 5) e
  simp (disch := decide) only [fieldAbove, fieldBelow, Nat.reduceSub, fieldWhole] at hm h0 h1 h2 h3 h4
  generalize encode (.mulh x0 x1 x2) = w at hm h0 h1 h2 h3 h4 ⊢
  refine decode_major 1#6 hm rfl rfl rawWord_01 ?_ h
  unfold raw01
  rw [h0, h1, h2, h3, h4]
  rfl

theorem mulhu (x0 : BitVec 5) (x1 : BitVec 5) (x2 : BitVec 5) : Statement (.mulhu x0 x1 x2) := by
  intro _ h
  have e : encode (.mulhu x0 x1 x2) = 1#6 ++ x0 ++ x1 ++ x2 ++ 0#5 ++ 4#6 := rfl
  have hm := congrArg (BitVec.extractLsb' 26 6) e
  have h0 := congrArg (BitVec.extractLsb' 0 6) e
  have h1 := congrArg (BitVec.extractLsb' 6 5) e
  have h2 := congrArg (BitVec.extractLsb' 21 5) e
  have h3 := congrArg (BitVec.extractLsb' 16 5) e
  have h4 := congrArg (BitVec.extractLsb' 11 5) e
  simp (disch := decide) only [fieldAbove, fieldBelow, Nat.reduceSub, fieldWhole] at hm h0 h1 h2 h3 h4
  generalize encode (.mulhu x0 x1 x2) = w at hm h0 h1 h2 h3 h4 ⊢
  refine decode_major 1#6 hm rfl rfl rawWord_01 ?_ h
  unfold raw01
  rw [h0, h1, h2, h3, h4]
  rfl

theorem div (x0 : BitVec 5) (x1 : BitVec 5) (x2 : BitVec 5) : Statement (.div x0 x1 x2) := by
  intro _ h
  have e : encode (.div x0 x1 x2) = 1#6 ++ x0 ++ x1 ++ x2 ++ 0#5 ++ 5#6 := rfl
  have hm := congrArg (BitVec.extractLsb' 26 6) e
  have h0 := congrArg (BitVec.extractLsb' 0 6) e
  have h1 := congrArg (BitVec.extractLsb' 6 5) e
  have h2 := congrArg (BitVec.extractLsb' 21 5) e
  have h3 := congrArg (BitVec.extractLsb' 16 5) e
  have h4 := congrArg (BitVec.extractLsb' 11 5) e
  simp (disch := decide) only [fieldAbove, fieldBelow, Nat.reduceSub, fieldWhole] at hm h0 h1 h2 h3 h4
  generalize encode (.div x0 x1 x2) = w at hm h0 h1 h2 h3 h4 ⊢
  refine decode_major 1#6 hm rfl rfl rawWord_01 ?_ h
  unfold raw01
  rw [h0, h1, h2, h3, h4]
  rfl

theorem divu (x0 : BitVec 5) (x1 : BitVec 5) (x2 : BitVec 5) : Statement (.divu x0 x1 x2) := by
  intro _ h
  have e : encode (.divu x0 x1 x2) = 1#6 ++ x0 ++ x1 ++ x2 ++ 0#5 ++ 6#6 := rfl
  have hm := congrArg (BitVec.extractLsb' 26 6) e
  have h0 := congrArg (BitVec.extractLsb' 0 6) e
  have h1 := congrArg (BitVec.extractLsb' 6 5) e
  have h2 := congrArg (BitVec.extractLsb' 21 5) e
  have h3 := congrArg (BitVec.extractLsb' 16 5) e
  have h4 := congrArg (BitVec.extractLsb' 11 5) e
  simp (disch := decide) only [fieldAbove, fieldBelow, Nat.reduceSub, fieldWhole] at hm h0 h1 h2 h3 h4
  generalize encode (.divu x0 x1 x2) = w at hm h0 h1 h2 h3 h4 ⊢
  refine decode_major 1#6 hm rfl rfl rawWord_01 ?_ h
  unfold raw01
  rw [h0, h1, h2, h3, h4]
  rfl

theorem rem (x0 : BitVec 5) (x1 : BitVec 5) (x2 : BitVec 5) : Statement (.rem x0 x1 x2) := by
  intro _ h
  have e : encode (.rem x0 x1 x2) = 1#6 ++ x0 ++ x1 ++ x2 ++ 0#5 ++ 7#6 := rfl
  have hm := congrArg (BitVec.extractLsb' 26 6) e
  have h0 := congrArg (BitVec.extractLsb' 0 6) e
  have h1 := congrArg (BitVec.extractLsb' 6 5) e
  have h2 := congrArg (BitVec.extractLsb' 21 5) e
  have h3 := congrArg (BitVec.extractLsb' 16 5) e
  have h4 := congrArg (BitVec.extractLsb' 11 5) e
  simp (disch := decide) only [fieldAbove, fieldBelow, Nat.reduceSub, fieldWhole] at hm h0 h1 h2 h3 h4
  generalize encode (.rem x0 x1 x2) = w at hm h0 h1 h2 h3 h4 ⊢
  refine decode_major 1#6 hm rfl rfl rawWord_01 ?_ h
  unfold raw01
  rw [h0, h1, h2, h3, h4]
  rfl

theorem remu (x0 : BitVec 5) (x1 : BitVec 5) (x2 : BitVec 5) : Statement (.remu x0 x1 x2) := by
  intro _ h
  have e : encode (.remu x0 x1 x2) = 1#6 ++ x0 ++ x1 ++ x2 ++ 0#5 ++ 8#6 := rfl
  have hm := congrArg (BitVec.extractLsb' 26 6) e
  have h0 := congrArg (BitVec.extractLsb' 0 6) e
  have h1 := congrArg (BitVec.extractLsb' 6 5) e
  have h2 := congrArg (BitVec.extractLsb' 21 5) e
  have h3 := congrArg (BitVec.extractLsb' 16 5) e
  have h4 := congrArg (BitVec.extractLsb' 11 5) e
  simp (disch := decide) only [fieldAbove, fieldBelow, Nat.reduceSub, fieldWhole] at hm h0 h1 h2 h3 h4
  generalize encode (.remu x0 x1 x2) = w at hm h0 h1 h2 h3 h4 ⊢
  refine decode_major 1#6 hm rfl rfl rawWord_01 ?_ h
  unfold raw01
  rw [h0, h1, h2, h3, h4]
  rfl

theorem and (x0 : BitVec 5) (x1 : BitVec 5) (x2 : BitVec 5) : Statement (.and x0 x1 x2) := by
  intro _ h
  have e : encode (.and x0 x1 x2) = 1#6 ++ x0 ++ x1 ++ x2 ++ 0#5 ++ 16#6 := rfl
  have hm := congrArg (BitVec.extractLsb' 26 6) e
  have h0 := congrArg (BitVec.extractLsb' 0 6) e
  have h1 := congrArg (BitVec.extractLsb' 6 5) e
  have h2 := congrArg (BitVec.extractLsb' 21 5) e
  have h3 := congrArg (BitVec.extractLsb' 16 5) e
  have h4 := congrArg (BitVec.extractLsb' 11 5) e
  simp (disch := decide) only [fieldAbove, fieldBelow, Nat.reduceSub, fieldWhole] at hm h0 h1 h2 h3 h4
  generalize encode (.and x0 x1 x2) = w at hm h0 h1 h2 h3 h4 ⊢
  refine decode_major 1#6 hm rfl rfl rawWord_01 ?_ h
  unfold raw01
  rw [h0, h1, h2, h3, h4]
  rfl

theorem or (x0 : BitVec 5) (x1 : BitVec 5) (x2 : BitVec 5) : Statement (.or x0 x1 x2) := by
  intro _ h
  have e : encode (.or x0 x1 x2) = 1#6 ++ x0 ++ x1 ++ x2 ++ 0#5 ++ 17#6 := rfl
  have hm := congrArg (BitVec.extractLsb' 26 6) e
  have h0 := congrArg (BitVec.extractLsb' 0 6) e
  have h1 := congrArg (BitVec.extractLsb' 6 5) e
  have h2 := congrArg (BitVec.extractLsb' 21 5) e
  have h3 := congrArg (BitVec.extractLsb' 16 5) e
  have h4 := congrArg (BitVec.extractLsb' 11 5) e
  simp (disch := decide) only [fieldAbove, fieldBelow, Nat.reduceSub, fieldWhole] at hm h0 h1 h2 h3 h4
  generalize encode (.or x0 x1 x2) = w at hm h0 h1 h2 h3 h4 ⊢
  refine decode_major 1#6 hm rfl rfl rawWord_01 ?_ h
  unfold raw01
  rw [h0, h1, h2, h3, h4]
  rfl

theorem xor (x0 : BitVec 5) (x1 : BitVec 5) (x2 : BitVec 5) : Statement (.xor x0 x1 x2) := by
  intro _ h
  have e : encode (.xor x0 x1 x2) = 1#6 ++ x0 ++ x1 ++ x2 ++ 0#5 ++ 18#6 := rfl
  have hm := congrArg (BitVec.extractLsb' 26 6) e
  have h0 := congrArg (BitVec.extractLsb' 0 6) e
  have h1 := congrArg (BitVec.extractLsb' 6 5) e
  have h2 := congrArg (BitVec.extractLsb' 21 5) e
  have h3 := congrArg (BitVec.extractLsb' 16 5) e
  have h4 := congrArg (BitVec.extractLsb' 11 5) e
  simp (disch := decide) only [fieldAbove, fieldBelow, Nat.reduceSub, fieldWhole] at hm h0 h1 h2 h3 h4
  generalize encode (.xor x0 x1 x2) = w at hm h0 h1 h2 h3 h4 ⊢
  refine decode_major 1#6 hm rfl rfl rawWord_01 ?_ h
  unfold raw01
  rw [h0, h1, h2, h3, h4]
  rfl

theorem andn (x0 : BitVec 5) (x1 : BitVec 5) (x2 : BitVec 5) : Statement (.andn x0 x1 x2) := by
  intro _ h
  have e : encode (.andn x0 x1 x2) = 1#6 ++ x0 ++ x1 ++ x2 ++ 0#5 ++ 19#6 := rfl
  have hm := congrArg (BitVec.extractLsb' 26 6) e
  have h0 := congrArg (BitVec.extractLsb' 0 6) e
  have h1 := congrArg (BitVec.extractLsb' 6 5) e
  have h2 := congrArg (BitVec.extractLsb' 21 5) e
  have h3 := congrArg (BitVec.extractLsb' 16 5) e
  have h4 := congrArg (BitVec.extractLsb' 11 5) e
  simp (disch := decide) only [fieldAbove, fieldBelow, Nat.reduceSub, fieldWhole] at hm h0 h1 h2 h3 h4
  generalize encode (.andn x0 x1 x2) = w at hm h0 h1 h2 h3 h4 ⊢
  refine decode_major 1#6 hm rfl rfl rawWord_01 ?_ h
  unfold raw01
  rw [h0, h1, h2, h3, h4]
  rfl

theorem shl (x0 : BitVec 5) (x1 : BitVec 5) (x2 : BitVec 5) : Statement (.shl x0 x1 x2) := by
  intro _ h
  have e : encode (.shl x0 x1 x2) = 1#6 ++ x0 ++ x1 ++ x2 ++ 0#5 ++ 20#6 := rfl
  have hm := congrArg (BitVec.extractLsb' 26 6) e
  have h0 := congrArg (BitVec.extractLsb' 0 6) e
  have h1 := congrArg (BitVec.extractLsb' 6 5) e
  have h2 := congrArg (BitVec.extractLsb' 21 5) e
  have h3 := congrArg (BitVec.extractLsb' 16 5) e
  have h4 := congrArg (BitVec.extractLsb' 11 5) e
  simp (disch := decide) only [fieldAbove, fieldBelow, Nat.reduceSub, fieldWhole] at hm h0 h1 h2 h3 h4
  generalize encode (.shl x0 x1 x2) = w at hm h0 h1 h2 h3 h4 ⊢
  refine decode_major 1#6 hm rfl rfl rawWord_01 ?_ h
  unfold raw01
  rw [h0, h1, h2, h3, h4]
  rfl

theorem shr (x0 : BitVec 5) (x1 : BitVec 5) (x2 : BitVec 5) : Statement (.shr x0 x1 x2) := by
  intro _ h
  have e : encode (.shr x0 x1 x2) = 1#6 ++ x0 ++ x1 ++ x2 ++ 0#5 ++ 21#6 := rfl
  have hm := congrArg (BitVec.extractLsb' 26 6) e
  have h0 := congrArg (BitVec.extractLsb' 0 6) e
  have h1 := congrArg (BitVec.extractLsb' 6 5) e
  have h2 := congrArg (BitVec.extractLsb' 21 5) e
  have h3 := congrArg (BitVec.extractLsb' 16 5) e
  have h4 := congrArg (BitVec.extractLsb' 11 5) e
  simp (disch := decide) only [fieldAbove, fieldBelow, Nat.reduceSub, fieldWhole] at hm h0 h1 h2 h3 h4
  generalize encode (.shr x0 x1 x2) = w at hm h0 h1 h2 h3 h4 ⊢
  refine decode_major 1#6 hm rfl rfl rawWord_01 ?_ h
  unfold raw01
  rw [h0, h1, h2, h3, h4]
  rfl

theorem sha (x0 : BitVec 5) (x1 : BitVec 5) (x2 : BitVec 5) : Statement (.sha x0 x1 x2) := by
  intro _ h
  have e : encode (.sha x0 x1 x2) = 1#6 ++ x0 ++ x1 ++ x2 ++ 0#5 ++ 22#6 := rfl
  have hm := congrArg (BitVec.extractLsb' 26 6) e
  have h0 := congrArg (BitVec.extractLsb' 0 6) e
  have h1 := congrArg (BitVec.extractLsb' 6 5) e
  have h2 := congrArg (BitVec.extractLsb' 21 5) e
  have h3 := congrArg (BitVec.extractLsb' 16 5) e
  have h4 := congrArg (BitVec.extractLsb' 11 5) e
  simp (disch := decide) only [fieldAbove, fieldBelow, Nat.reduceSub, fieldWhole] at hm h0 h1 h2 h3 h4
  generalize encode (.sha x0 x1 x2) = w at hm h0 h1 h2 h3 h4 ⊢
  refine decode_major 1#6 hm rfl rfl rawWord_01 ?_ h
  unfold raw01
  rw [h0, h1, h2, h3, h4]
  rfl

theorem rol (x0 : BitVec 5) (x1 : BitVec 5) (x2 : BitVec 5) : Statement (.rol x0 x1 x2) := by
  intro _ h
  have e : encode (.rol x0 x1 x2) = 1#6 ++ x0 ++ x1 ++ x2 ++ 0#5 ++ 23#6 := rfl
  have hm := congrArg (BitVec.extractLsb' 26 6) e
  have h0 := congrArg (BitVec.extractLsb' 0 6) e
  have h1 := congrArg (BitVec.extractLsb' 6 5) e
  have h2 := congrArg (BitVec.extractLsb' 21 5) e
  have h3 := congrArg (BitVec.extractLsb' 16 5) e
  have h4 := congrArg (BitVec.extractLsb' 11 5) e
  simp (disch := decide) only [fieldAbove, fieldBelow, Nat.reduceSub, fieldWhole] at hm h0 h1 h2 h3 h4
  generalize encode (.rol x0 x1 x2) = w at hm h0 h1 h2 h3 h4 ⊢
  refine decode_major 1#6 hm rfl rfl rawWord_01 ?_ h
  unfold raw01
  rw [h0, h1, h2, h3, h4]
  rfl

theorem clz (x0 : BitVec 5) (x1 : BitVec 5) : Statement (.clz x0 x1) := by
  intro _ h
  have e : encode (.clz x0 x1) = 1#6 ++ x0 ++ x1 ++ 0#10 ++ 24#6 := rfl
  have hm := congrArg (BitVec.extractLsb' 26 6) e
  have h0 := congrArg (BitVec.extractLsb' 0 6) e
  have h1 := congrArg (BitVec.extractLsb' 6 5) e
  have h2 := congrArg (BitVec.extractLsb' 6 10) e
  have h3 := congrArg (BitVec.extractLsb' 21 5) e
  have h4 := congrArg (BitVec.extractLsb' 16 5) e
  simp (disch := decide) only [fieldAbove, fieldBelow, Nat.reduceSub, fieldWhole] at hm h0 h1 h2 h3 h4
  generalize encode (.clz x0 x1) = w at hm h0 h1 h2 h3 h4 ⊢
  refine decode_major 1#6 hm rfl rfl rawWord_01 ?_ h
  unfold raw01
  rw [h0, h1, h2, h3, h4]
  rfl

theorem ctz (x0 : BitVec 5) (x1 : BitVec 5) : Statement (.ctz x0 x1) := by
  intro _ h
  have e : encode (.ctz x0 x1) = 1#6 ++ x0 ++ x1 ++ 0#10 ++ 25#6 := rfl
  have hm := congrArg (BitVec.extractLsb' 26 6) e
  have h0 := congrArg (BitVec.extractLsb' 0 6) e
  have h1 := congrArg (BitVec.extractLsb' 6 5) e
  have h2 := congrArg (BitVec.extractLsb' 6 10) e
  have h3 := congrArg (BitVec.extractLsb' 21 5) e
  have h4 := congrArg (BitVec.extractLsb' 16 5) e
  simp (disch := decide) only [fieldAbove, fieldBelow, Nat.reduceSub, fieldWhole] at hm h0 h1 h2 h3 h4
  generalize encode (.ctz x0 x1) = w at hm h0 h1 h2 h3 h4 ⊢
  refine decode_major 1#6 hm rfl rfl rawWord_01 ?_ h
  unfold raw01
  rw [h0, h1, h2, h3, h4]
  rfl

theorem popc (x0 : BitVec 5) (x1 : BitVec 5) : Statement (.popc x0 x1) := by
  intro _ h
  have e : encode (.popc x0 x1) = 1#6 ++ x0 ++ x1 ++ 0#10 ++ 26#6 := rfl
  have hm := congrArg (BitVec.extractLsb' 26 6) e
  have h0 := congrArg (BitVec.extractLsb' 0 6) e
  have h1 := congrArg (BitVec.extractLsb' 6 5) e
  have h2 := congrArg (BitVec.extractLsb' 6 10) e
  have h3 := congrArg (BitVec.extractLsb' 21 5) e
  have h4 := congrArg (BitVec.extractLsb' 16 5) e
  simp (disch := decide) only [fieldAbove, fieldBelow, Nat.reduceSub, fieldWhole] at hm h0 h1 h2 h3 h4
  generalize encode (.popc x0 x1) = w at hm h0 h1 h2 h3 h4 ⊢
  refine decode_major 1#6 hm rfl rfl rawWord_01 ?_ h
  unfold raw01
  rw [h0, h1, h2, h3, h4]
  rfl

theorem min (x0 : BitVec 5) (x1 : BitVec 5) (x2 : BitVec 5) : Statement (.min x0 x1 x2) := by
  intro _ h
  have e : encode (.min x0 x1 x2) = 1#6 ++ x0 ++ x1 ++ x2 ++ 0#5 ++ 32#6 := rfl
  have hm := congrArg (BitVec.extractLsb' 26 6) e
  have h0 := congrArg (BitVec.extractLsb' 0 6) e
  have h1 := congrArg (BitVec.extractLsb' 6 5) e
  have h2 := congrArg (BitVec.extractLsb' 21 5) e
  have h3 := congrArg (BitVec.extractLsb' 16 5) e
  have h4 := congrArg (BitVec.extractLsb' 11 5) e
  simp (disch := decide) only [fieldAbove, fieldBelow, Nat.reduceSub, fieldWhole] at hm h0 h1 h2 h3 h4
  generalize encode (.min x0 x1 x2) = w at hm h0 h1 h2 h3 h4 ⊢
  refine decode_major 1#6 hm rfl rfl rawWord_01 ?_ h
  unfold raw01
  rw [h0, h1, h2, h3, h4]
  rfl

theorem max (x0 : BitVec 5) (x1 : BitVec 5) (x2 : BitVec 5) : Statement (.max x0 x1 x2) := by
  intro _ h
  have e : encode (.max x0 x1 x2) = 1#6 ++ x0 ++ x1 ++ x2 ++ 0#5 ++ 33#6 := rfl
  have hm := congrArg (BitVec.extractLsb' 26 6) e
  have h0 := congrArg (BitVec.extractLsb' 0 6) e
  have h1 := congrArg (BitVec.extractLsb' 6 5) e
  have h2 := congrArg (BitVec.extractLsb' 21 5) e
  have h3 := congrArg (BitVec.extractLsb' 16 5) e
  have h4 := congrArg (BitVec.extractLsb' 11 5) e
  simp (disch := decide) only [fieldAbove, fieldBelow, Nat.reduceSub, fieldWhole] at hm h0 h1 h2 h3 h4
  generalize encode (.max x0 x1 x2) = w at hm h0 h1 h2 h3 h4 ⊢
  refine decode_major 1#6 hm rfl rfl rawWord_01 ?_ h
  unfold raw01
  rw [h0, h1, h2, h3, h4]
  rfl

theorem minu (x0 : BitVec 5) (x1 : BitVec 5) (x2 : BitVec 5) : Statement (.minu x0 x1 x2) := by
  intro _ h
  have e : encode (.minu x0 x1 x2) = 1#6 ++ x0 ++ x1 ++ x2 ++ 0#5 ++ 34#6 := rfl
  have hm := congrArg (BitVec.extractLsb' 26 6) e
  have h0 := congrArg (BitVec.extractLsb' 0 6) e
  have h1 := congrArg (BitVec.extractLsb' 6 5) e
  have h2 := congrArg (BitVec.extractLsb' 21 5) e
  have h3 := congrArg (BitVec.extractLsb' 16 5) e
  have h4 := congrArg (BitVec.extractLsb' 11 5) e
  simp (disch := decide) only [fieldAbove, fieldBelow, Nat.reduceSub, fieldWhole] at hm h0 h1 h2 h3 h4
  generalize encode (.minu x0 x1 x2) = w at hm h0 h1 h2 h3 h4 ⊢
  refine decode_major 1#6 hm rfl rfl rawWord_01 ?_ h
  unfold raw01
  rw [h0, h1, h2, h3, h4]
  rfl

theorem maxu (x0 : BitVec 5) (x1 : BitVec 5) (x2 : BitVec 5) : Statement (.maxu x0 x1 x2) := by
  intro _ h
  have e : encode (.maxu x0 x1 x2) = 1#6 ++ x0 ++ x1 ++ x2 ++ 0#5 ++ 35#6 := rfl
  have hm := congrArg (BitVec.extractLsb' 26 6) e
  have h0 := congrArg (BitVec.extractLsb' 0 6) e
  have h1 := congrArg (BitVec.extractLsb' 6 5) e
  have h2 := congrArg (BitVec.extractLsb' 21 5) e
  have h3 := congrArg (BitVec.extractLsb' 16 5) e
  have h4 := congrArg (BitVec.extractLsb' 11 5) e
  simp (disch := decide) only [fieldAbove, fieldBelow, Nat.reduceSub, fieldWhole] at hm h0 h1 h2 h3 h4
  generalize encode (.maxu x0 x1 x2) = w at hm h0 h1 h2 h3 h4 ⊢
  refine decode_major 1#6 hm rfl rfl rawWord_01 ?_ h
  unfold raw01
  rw [h0, h1, h2, h3, h4]
  rfl

theorem slt (x0 : BitVec 5) (x1 : BitVec 5) (x2 : BitVec 5) : Statement (.slt x0 x1 x2) := by
  intro _ h
  have e : encode (.slt x0 x1 x2) = 1#6 ++ x0 ++ x1 ++ x2 ++ 0#5 ++ 36#6 := rfl
  have hm := congrArg (BitVec.extractLsb' 26 6) e
  have h0 := congrArg (BitVec.extractLsb' 0 6) e
  have h1 := congrArg (BitVec.extractLsb' 6 5) e
  have h2 := congrArg (BitVec.extractLsb' 21 5) e
  have h3 := congrArg (BitVec.extractLsb' 16 5) e
  have h4 := congrArg (BitVec.extractLsb' 11 5) e
  simp (disch := decide) only [fieldAbove, fieldBelow, Nat.reduceSub, fieldWhole] at hm h0 h1 h2 h3 h4
  generalize encode (.slt x0 x1 x2) = w at hm h0 h1 h2 h3 h4 ⊢
  refine decode_major 1#6 hm rfl rfl rawWord_01 ?_ h
  unfold raw01
  rw [h0, h1, h2, h3, h4]
  rfl

theorem sltu (x0 : BitVec 5) (x1 : BitVec 5) (x2 : BitVec 5) : Statement (.sltu x0 x1 x2) := by
  intro _ h
  have e : encode (.sltu x0 x1 x2) = 1#6 ++ x0 ++ x1 ++ x2 ++ 0#5 ++ 37#6 := rfl
  have hm := congrArg (BitVec.extractLsb' 26 6) e
  have h0 := congrArg (BitVec.extractLsb' 0 6) e
  have h1 := congrArg (BitVec.extractLsb' 6 5) e
  have h2 := congrArg (BitVec.extractLsb' 21 5) e
  have h3 := congrArg (BitVec.extractLsb' 16 5) e
  have h4 := congrArg (BitVec.extractLsb' 11 5) e
  simp (disch := decide) only [fieldAbove, fieldBelow, Nat.reduceSub, fieldWhole] at hm h0 h1 h2 h3 h4
  generalize encode (.sltu x0 x1 x2) = w at hm h0 h1 h2 h3 h4 ⊢
  refine decode_major 1#6 hm rfl rfl rawWord_01 ?_ h
  unfold raw01
  rw [h0, h1, h2, h3, h4]
  rfl

theorem seq (x0 : BitVec 5) (x1 : BitVec 5) (x2 : BitVec 5) : Statement (.seq x0 x1 x2) := by
  intro _ h
  have e : encode (.seq x0 x1 x2) = 1#6 ++ x0 ++ x1 ++ x2 ++ 0#5 ++ 38#6 := rfl
  have hm := congrArg (BitVec.extractLsb' 26 6) e
  have h0 := congrArg (BitVec.extractLsb' 0 6) e
  have h1 := congrArg (BitVec.extractLsb' 6 5) e
  have h2 := congrArg (BitVec.extractLsb' 21 5) e
  have h3 := congrArg (BitVec.extractLsb' 16 5) e
  have h4 := congrArg (BitVec.extractLsb' 11 5) e
  simp (disch := decide) only [fieldAbove, fieldBelow, Nat.reduceSub, fieldWhole] at hm h0 h1 h2 h3 h4
  generalize encode (.seq x0 x1 x2) = w at hm h0 h1 h2 h3 h4 ⊢
  refine decode_major 1#6 hm rfl rfl rawWord_01 ?_ h
  unfold raw01
  rw [h0, h1, h2, h3, h4]
  rfl

theorem sel (x0 : BitVec 5) (x1 : BitVec 5) (x2 : BitVec 5) (x3 : BitVec 5) : Statement (.sel x0 x1 x2 x3) := by
  intro _ h
  have e : encode (.sel x0 x1 x2 x3) = 1#6 ++ x0 ++ x1 ++ x2 ++ x3 ++ 39#6 := rfl
  have hm := congrArg (BitVec.extractLsb' 26 6) e
  have h0 := congrArg (BitVec.extractLsb' 0 6) e
  have h1 := congrArg (BitVec.extractLsb' 6 5) e
  have h2 := congrArg (BitVec.extractLsb' 21 5) e
  have h3 := congrArg (BitVec.extractLsb' 16 5) e
  have h4 := congrArg (BitVec.extractLsb' 11 5) e
  simp (disch := decide) only [fieldAbove, fieldBelow, Nat.reduceSub, fieldWhole] at hm h0 h1 h2 h3 h4
  generalize encode (.sel x0 x1 x2 x3) = w at hm h0 h1 h2 h3 h4 ⊢
  refine decode_major 1#6 hm rfl rfl rawWord_01 ?_ h
  unfold raw01
  rw [h0, h1, h2, h3, h4]
  rfl

theorem addsc (x0 : BitVec 5) (x1 : BitVec 5) (x2 : BitVec 5) (x3 : BitVec 3) : Statement (.addsc x0 x1 x2 x3) := by
  intro _ h
  have e : encode (.addsc x0 x1 x2 x3) = 1#6 ++ x0 ++ x1 ++ x2 ++ 0#2 ++ x3 ++ 40#6 := rfl
  have hm := congrArg (BitVec.extractLsb' 26 6) e
  have h0 := congrArg (BitVec.extractLsb' 0 6) e
  have h1 := congrArg (BitVec.extractLsb' 9 2) e
  have h2 := congrArg (BitVec.extractLsb' 21 5) e
  have h3 := congrArg (BitVec.extractLsb' 16 5) e
  have h4 := congrArg (BitVec.extractLsb' 11 5) e
  have h5 := congrArg (BitVec.extractLsb' 6 3) e
  simp (disch := decide) only [fieldAbove, fieldBelow, Nat.reduceSub, fieldWhole] at hm h0 h1 h2 h3 h4 h5
  generalize encode (.addsc x0 x1 x2 x3) = w at hm h0 h1 h2 h3 h4 h5 ⊢
  refine decode_major 1#6 hm rfl rfl rawWord_01 ?_ h
  unfold raw01
  rw [h0, h1, h2, h3, h4, h5]
  rfl

theorem exts (x0 : BitVec 5) (x1 : BitVec 5) (x2 : BitVec 5) : Statement (.exts x0 x1 x2) := by
  intro _ h
  have e : encode (.exts x0 x1 x2) = 1#6 ++ x0 ++ x1 ++ 0#5 ++ x2 ++ 48#6 := rfl
  have hm := congrArg (BitVec.extractLsb' 26 6) e
  have h0 := congrArg (BitVec.extractLsb' 0 6) e
  have h1 := congrArg (BitVec.extractLsb' 6 5) e
  have h2 := congrArg (BitVec.extractLsb' 11 5) e
  have h3 := congrArg (BitVec.extractLsb' 21 5) e
  have h4 := congrArg (BitVec.extractLsb' 16 5) e
  simp (disch := decide) only [fieldAbove, fieldBelow, Nat.reduceSub, fieldWhole] at hm h0 h1 h2 h3 h4
  generalize encode (.exts x0 x1 x2) = w at hm h0 h1 h2 h3 h4 ⊢
  refine decode_major 1#6 hm rfl rfl rawWord_01 ?_ h
  unfold raw01
  rw [h0, h1, h2, h3, h4]
  rfl

theorem extz (x0 : BitVec 5) (x1 : BitVec 5) (x2 : BitVec 5) : Statement (.extz x0 x1 x2) := by
  intro _ h
  have e : encode (.extz x0 x1 x2) = 1#6 ++ x0 ++ x1 ++ 0#5 ++ x2 ++ 49#6 := rfl
  have hm := congrArg (BitVec.extractLsb' 26 6) e
  have h0 := congrArg (BitVec.extractLsb' 0 6) e
  have h1 := congrArg (BitVec.extractLsb' 6 5) e
  have h2 := congrArg (BitVec.extractLsb' 11 5) e
  have h3 := congrArg (BitVec.extractLsb' 21 5) e
  have h4 := congrArg (BitVec.extractLsb' 16 5) e
  simp (disch := decide) only [fieldAbove, fieldBelow, Nat.reduceSub, fieldWhole] at hm h0 h1 h2 h3 h4
  generalize encode (.extz x0 x1 x2) = w at hm h0 h1 h2 h3 h4 ⊢
  refine decode_major 1#6 hm rfl rfl rawWord_01 ?_ h
  unfold raw01
  rw [h0, h1, h2, h3, h4]
  rfl

theorem bext (x0 : BitVec 5) (x1 : BitVec 5) (x2 : BitVec 5) : Statement (.bext x0 x1 x2) := by
  intro _ h
  have e : encode (.bext x0 x1 x2) = 1#6 ++ x0 ++ x1 ++ x2 ++ 0#5 ++ 50#6 := rfl
  have hm := congrArg (BitVec.extractLsb' 26 6) e
  have h0 := congrArg (BitVec.extractLsb' 0 6) e
  have h1 := congrArg (BitVec.extractLsb' 6 5) e
  have h2 := congrArg (BitVec.extractLsb' 9 2) e
  have h3 := congrArg (BitVec.extractLsb' 11 5) e
  have h4 := congrArg (BitVec.extractLsb' 21 5) e
  have h5 := congrArg (BitVec.extractLsb' 16 5) e
  simp (disch := decide) only [fieldAbove, fieldBelow, Nat.reduceSub, fieldWhole] at hm h0 h1 h2 h3 h4 h5
  generalize encode (.bext x0 x1 x2) = w at hm h0 h1 h2 h3 h4 h5 ⊢
  refine decode_major 1#6 hm rfl rfl rawWord_01 ?_ h
  unfold raw01
  rw [h0, h1, h2, h3, h4, h5]
  rfl

theorem bins (x0 : BitVec 5) (x1 : BitVec 5) (x2 : BitVec 5) : Statement (.bins x0 x1 x2) := by
  intro _ h
  have e : encode (.bins x0 x1 x2) = 1#6 ++ x0 ++ x1 ++ x2 ++ 0#5 ++ 51#6 := rfl
  have hm := congrArg (BitVec.extractLsb' 26 6) e
  have h0 := congrArg (BitVec.extractLsb' 0 6) e
  have h1 := congrArg (BitVec.extractLsb' 6 5) e
  have h2 := congrArg (BitVec.extractLsb' 9 2) e
  have h3 := congrArg (BitVec.extractLsb' 11 5) e
  have h4 := congrArg (BitVec.extractLsb' 21 5) e
  have h5 := congrArg (BitVec.extractLsb' 16 5) e
  simp (disch := decide) only [fieldAbove, fieldBelow, Nat.reduceSub, fieldWhole] at hm h0 h1 h2 h3 h4 h5
  generalize encode (.bins x0 x1 x2) = w at hm h0 h1 h2 h3 h4 h5 ⊢
  refine decode_major 1#6 hm rfl rfl rawWord_01 ?_ h
  unfold raw01
  rw [h0, h1, h2, h3, h4, h5]
  rfl

theorem coreid (x0 : BitVec 5) : Statement (.coreid x0) := by
  intro _ h
  have e : encode (.coreid x0) = 1#6 ++ x0 ++ 0#15 ++ 56#6 := rfl
  have hm := congrArg (BitVec.extractLsb' 26 6) e
  have h0 := congrArg (BitVec.extractLsb' 0 6) e
  have h1 := congrArg (BitVec.extractLsb' 6 5) e
  have h2 := congrArg (BitVec.extractLsb' 6 10) e
  have h3 := congrArg (BitVec.extractLsb' 9 2) e
  have h4 := congrArg (BitVec.extractLsb' 11 5) e
  have h5 := congrArg (BitVec.extractLsb' 6 15) e
  have h6 := congrArg (BitVec.extractLsb' 21 5) e
  simp (disch := decide) only [fieldAbove, fieldBelow, Nat.reduceSub, fieldWhole] at hm h0 h1 h2 h3 h4 h5 h6
  generalize encode (.coreid x0) = w at hm h0 h1 h2 h3 h4 h5 h6 ⊢
  refine decode_major 1#6 hm rfl rfl rawWord_01 ?_ h
  unfold raw01
  rw [h0, h1, h2, h3, h4, h5, h6]
  rfl

theorem cxy (x0 : BitVec 5) (x1 : BitVec 5) (x2 : BitVec 5) : Statement (.cxy x0 x1 x2) := by
  intro _ h
  have e : encode (.cxy x0 x1 x2) = 1#6 ++ x0 ++ x1 ++ x2 ++ 0#5 ++ 57#6 := rfl
  have hm := congrArg (BitVec.extractLsb' 26 6) e
  have h0 := congrArg (BitVec.extractLsb' 0 6) e
  have h1 := congrArg (BitVec.extractLsb' 6 5) e
  have h2 := congrArg (BitVec.extractLsb' 9 2) e
  have h3 := congrArg (BitVec.extractLsb' 11 5) e
  have h4 := congrArg (BitVec.extractLsb' 21 5) e
  have h5 := congrArg (BitVec.extractLsb' 16 5) e
  simp (disch := decide) only [fieldAbove, fieldBelow, Nat.reduceSub, fieldWhole] at hm h0 h1 h2 h3 h4 h5
  generalize encode (.cxy x0 x1 x2) = w at hm h0 h1 h2 h3 h4 h5 ⊢
  refine decode_major 1#6 hm rfl rfl rawWord_01 ?_ h
  unfold raw01
  rw [h0, h1, h2, h3, h4, h5]
  rfl

theorem crel (x0 : BitVec 5) (x1 : BitVec 5) (x2 : BitVec 5) : Statement (.crel x0 x1 x2) := by
  intro _ h
  have e : encode (.crel x0 x1 x2) = 1#6 ++ x0 ++ x1 ++ x2 ++ 0#5 ++ 58#6 := rfl
  have hm := congrArg (BitVec.extractLsb' 26 6) e
  have h0 := congrArg (BitVec.extractLsb' 0 6) e
  have h1 := congrArg (BitVec.extractLsb' 6 5) e
  have h2 := congrArg (BitVec.extractLsb' 9 2) e
  have h3 := congrArg (BitVec.extractLsb' 11 5) e
  have h4 := congrArg (BitVec.extractLsb' 21 5) e
  have h5 := congrArg (BitVec.extractLsb' 16 5) e
  simp (disch := decide) only [fieldAbove, fieldBelow, Nat.reduceSub, fieldWhole] at hm h0 h1 h2 h3 h4 h5
  generalize encode (.crel x0 x1 x2) = w at hm h0 h1 h2 h3 h4 h5 ⊢
  refine decode_major 1#6 hm rfl rfl rawWord_01 ?_ h
  unfold raw01
  rw [h0, h1, h2, h3, h4, h5]
  rfl

theorem addi (x0 : BitVec 5) (x1 : BitVec 5) (x2 : BitVec 16) : Statement (.addi x0 x1 x2) := by
  intro _ h
  have e : encode (.addi x0 x1 x2) = 2#6 ++ x0 ++ x1 ++ x2 := rfl
  have hm := congrArg (BitVec.extractLsb' 26 6) e
  have h0 := congrArg (BitVec.extractLsb' 21 5) e
  have h1 := congrArg (BitVec.extractLsb' 16 5) e
  have h2 := congrArg (BitVec.extractLsb' 0 16) e
  simp (disch := decide) only [fieldAbove, fieldBelow, Nat.reduceSub, fieldWhole] at hm h0 h1 h2
  generalize encode (.addi x0 x1 x2) = w at hm h0 h1 h2 ⊢
  refine decode_major 2#6 hm rfl rfl rawWord_02 ?_ h
  unfold raw02
  rw [h0, h1, h2]
  rfl

theorem andi (x0 : BitVec 5) (x1 : BitVec 5) (x2 : BitVec 16) : Statement (.andi x0 x1 x2) := by
  intro _ h
  have e : encode (.andi x0 x1 x2) = 3#6 ++ x0 ++ x1 ++ x2 := rfl
  have hm := congrArg (BitVec.extractLsb' 26 6) e
  have h0 := congrArg (BitVec.extractLsb' 21 5) e
  have h1 := congrArg (BitVec.extractLsb' 16 5) e
  have h2 := congrArg (BitVec.extractLsb' 0 16) e
  simp (disch := decide) only [fieldAbove, fieldBelow, Nat.reduceSub, fieldWhole] at hm h0 h1 h2
  generalize encode (.andi x0 x1 x2) = w at hm h0 h1 h2 ⊢
  refine decode_major 3#6 hm rfl rfl rawWord_03 ?_ h
  unfold raw03
  rw [h0, h1, h2]
  rfl

theorem ori (x0 : BitVec 5) (x1 : BitVec 5) (x2 : BitVec 16) : Statement (.ori x0 x1 x2) := by
  intro _ h
  have e : encode (.ori x0 x1 x2) = 4#6 ++ x0 ++ x1 ++ x2 := rfl
  have hm := congrArg (BitVec.extractLsb' 26 6) e
  have h0 := congrArg (BitVec.extractLsb' 21 5) e
  have h1 := congrArg (BitVec.extractLsb' 16 5) e
  have h2 := congrArg (BitVec.extractLsb' 0 16) e
  simp (disch := decide) only [fieldAbove, fieldBelow, Nat.reduceSub, fieldWhole] at hm h0 h1 h2
  generalize encode (.ori x0 x1 x2) = w at hm h0 h1 h2 ⊢
  refine decode_major 4#6 hm rfl rfl rawWord_04 ?_ h
  unfold raw04
  rw [h0, h1, h2]
  rfl

theorem xori (x0 : BitVec 5) (x1 : BitVec 5) (x2 : BitVec 16) : Statement (.xori x0 x1 x2) := by
  intro _ h
  have e : encode (.xori x0 x1 x2) = 5#6 ++ x0 ++ x1 ++ x2 := rfl
  have hm := congrArg (BitVec.extractLsb' 26 6) e
  have h0 := congrArg (BitVec.extractLsb' 21 5) e
  have h1 := congrArg (BitVec.extractLsb' 16 5) e
  have h2 := congrArg (BitVec.extractLsb' 0 16) e
  simp (disch := decide) only [fieldAbove, fieldBelow, Nat.reduceSub, fieldWhole] at hm h0 h1 h2
  generalize encode (.xori x0 x1 x2) = w at hm h0 h1 h2 ⊢
  refine decode_major 5#6 hm rfl rfl rawWord_05 ?_ h
  unfold raw05
  rw [h0, h1, h2]
  rfl

theorem slti (x0 : BitVec 5) (x1 : BitVec 5) (x2 : BitVec 16) : Statement (.slti x0 x1 x2) := by
  intro _ h
  have e : encode (.slti x0 x1 x2) = 6#6 ++ x0 ++ x1 ++ x2 := rfl
  have hm := congrArg (BitVec.extractLsb' 26 6) e
  have h0 := congrArg (BitVec.extractLsb' 21 5) e
  have h1 := congrArg (BitVec.extractLsb' 16 5) e
  have h2 := congrArg (BitVec.extractLsb' 0 16) e
  simp (disch := decide) only [fieldAbove, fieldBelow, Nat.reduceSub, fieldWhole] at hm h0 h1 h2
  generalize encode (.slti x0 x1 x2) = w at hm h0 h1 h2 ⊢
  refine decode_major 6#6 hm rfl rfl rawWord_06 ?_ h
  unfold raw06
  rw [h0, h1, h2]
  rfl

theorem sltui (x0 : BitVec 5) (x1 : BitVec 5) (x2 : BitVec 16) : Statement (.sltui x0 x1 x2) := by
  intro _ h
  have e : encode (.sltui x0 x1 x2) = 7#6 ++ x0 ++ x1 ++ x2 := rfl
  have hm := congrArg (BitVec.extractLsb' 26 6) e
  have h0 := congrArg (BitVec.extractLsb' 21 5) e
  have h1 := congrArg (BitVec.extractLsb' 16 5) e
  have h2 := congrArg (BitVec.extractLsb' 0 16) e
  simp (disch := decide) only [fieldAbove, fieldBelow, Nat.reduceSub, fieldWhole] at hm h0 h1 h2
  generalize encode (.sltui x0 x1 x2) = w at hm h0 h1 h2 ⊢
  refine decode_major 7#6 hm rfl rfl rawWord_07 ?_ h
  unfold raw07
  rw [h0, h1, h2]
  rfl

theorem shli (x0 : BitVec 5) (x1 : BitVec 5) (x2 : BitVec 6) : Statement (.shli x0 x1 x2) := by
  intro _ h
  have e : encode (.shli x0 x1 x2) = 8#6 ++ x0 ++ x1 ++ 0#8 ++ 0#2 ++ x2 := rfl
  have hm := congrArg (BitVec.extractLsb' 26 6) e
  have h0 := congrArg (BitVec.extractLsb' 6 2) e
  have h1 := congrArg (BitVec.extractLsb' 8 8) e
  have h2 := congrArg (BitVec.extractLsb' 21 5) e
  have h3 := congrArg (BitVec.extractLsb' 16 5) e
  have h4 := congrArg (BitVec.extractLsb' 0 6) e
  simp (disch := decide) only [fieldAbove, fieldBelow, Nat.reduceSub, fieldWhole] at hm h0 h1 h2 h3 h4
  generalize encode (.shli x0 x1 x2) = w at hm h0 h1 h2 h3 h4 ⊢
  refine decode_major 8#6 hm rfl rfl rawWord_08 ?_ h
  unfold raw08
  rw [h0, h1, h2, h3, h4]
  rfl

theorem shri (x0 : BitVec 5) (x1 : BitVec 5) (x2 : BitVec 6) : Statement (.shri x0 x1 x2) := by
  intro _ h
  have e : encode (.shri x0 x1 x2) = 8#6 ++ x0 ++ x1 ++ 0#8 ++ 1#2 ++ x2 := rfl
  have hm := congrArg (BitVec.extractLsb' 26 6) e
  have h0 := congrArg (BitVec.extractLsb' 6 2) e
  have h1 := congrArg (BitVec.extractLsb' 8 8) e
  have h2 := congrArg (BitVec.extractLsb' 21 5) e
  have h3 := congrArg (BitVec.extractLsb' 16 5) e
  have h4 := congrArg (BitVec.extractLsb' 0 6) e
  simp (disch := decide) only [fieldAbove, fieldBelow, Nat.reduceSub, fieldWhole] at hm h0 h1 h2 h3 h4
  generalize encode (.shri x0 x1 x2) = w at hm h0 h1 h2 h3 h4 ⊢
  refine decode_major 8#6 hm rfl rfl rawWord_08 ?_ h
  unfold raw08
  rw [h0, h1, h2, h3, h4]
  rfl

theorem shai (x0 : BitVec 5) (x1 : BitVec 5) (x2 : BitVec 6) : Statement (.shai x0 x1 x2) := by
  intro _ h
  have e : encode (.shai x0 x1 x2) = 8#6 ++ x0 ++ x1 ++ 0#8 ++ 2#2 ++ x2 := rfl
  have hm := congrArg (BitVec.extractLsb' 26 6) e
  have h0 := congrArg (BitVec.extractLsb' 6 2) e
  have h1 := congrArg (BitVec.extractLsb' 8 8) e
  have h2 := congrArg (BitVec.extractLsb' 21 5) e
  have h3 := congrArg (BitVec.extractLsb' 16 5) e
  have h4 := congrArg (BitVec.extractLsb' 0 6) e
  simp (disch := decide) only [fieldAbove, fieldBelow, Nat.reduceSub, fieldWhole] at hm h0 h1 h2 h3 h4
  generalize encode (.shai x0 x1 x2) = w at hm h0 h1 h2 h3 h4 ⊢
  refine decode_major 8#6 hm rfl rfl rawWord_08 ?_ h
  unfold raw08
  rw [h0, h1, h2, h3, h4]
  rfl

theorem roli (x0 : BitVec 5) (x1 : BitVec 5) (x2 : BitVec 6) : Statement (.roli x0 x1 x2) := by
  intro _ h
  have e : encode (.roli x0 x1 x2) = 8#6 ++ x0 ++ x1 ++ 0#8 ++ 3#2 ++ x2 := rfl
  have hm := congrArg (BitVec.extractLsb' 26 6) e
  have h0 := congrArg (BitVec.extractLsb' 6 2) e
  have h1 := congrArg (BitVec.extractLsb' 8 8) e
  have h2 := congrArg (BitVec.extractLsb' 21 5) e
  have h3 := congrArg (BitVec.extractLsb' 16 5) e
  have h4 := congrArg (BitVec.extractLsb' 0 6) e
  simp (disch := decide) only [fieldAbove, fieldBelow, Nat.reduceSub, fieldWhole] at hm h0 h1 h2 h3 h4
  generalize encode (.roli x0 x1 x2) = w at hm h0 h1 h2 h3 h4 ⊢
  refine decode_major 8#6 hm rfl rfl rawWord_08 ?_ h
  unfold raw08
  rw [h0, h1, h2, h3, h4]
  rfl

theorem lhi (x0 : BitVec 5) (x1 : BitVec 5) (x2 : BitVec 16) : Statement (.lhi x0 x1 x2) := by
  intro _ h
  have e : encode (.lhi x0 x1 x2) = 9#6 ++ x0 ++ x1 ++ x2 := rfl
  have hm := congrArg (BitVec.extractLsb' 26 6) e
  have h0 := congrArg (BitVec.extractLsb' 21 5) e
  have h1 := congrArg (BitVec.extractLsb' 16 5) e
  have h2 := congrArg (BitVec.extractLsb' 0 16) e
  simp (disch := decide) only [fieldAbove, fieldBelow, Nat.reduceSub, fieldWhole] at hm h0 h1 h2
  generalize encode (.lhi x0 x1 x2) = w at hm h0 h1 h2 ⊢
  refine decode_major 9#6 hm rfl rfl rawWord_09 ?_ h
  unfold raw09
  rw [h0, h1, h2]
  rfl

theorem beq (x0 : BitVec 5) (x1 : BitVec 5) (x2 : BitVec 16) : Statement (.beq x0 x1 x2) := by
  intro _ h
  have e : encode (.beq x0 x1 x2) = 12#6 ++ x0 ++ x1 ++ x2 := rfl
  have hm := congrArg (BitVec.extractLsb' 26 6) e
  have h0 := congrArg (BitVec.extractLsb' 21 5) e
  have h1 := congrArg (BitVec.extractLsb' 16 5) e
  have h2 := congrArg (BitVec.extractLsb' 0 16) e
  simp (disch := decide) only [fieldAbove, fieldBelow, Nat.reduceSub, fieldWhole] at hm h0 h1 h2
  generalize encode (.beq x0 x1 x2) = w at hm h0 h1 h2 ⊢
  refine decode_major 12#6 hm rfl rfl rawWord_0C ?_ h
  unfold raw0C
  rw [h0, h1, h2]
  rfl

theorem bne (x0 : BitVec 5) (x1 : BitVec 5) (x2 : BitVec 16) : Statement (.bne x0 x1 x2) := by
  intro _ h
  have e : encode (.bne x0 x1 x2) = 13#6 ++ x0 ++ x1 ++ x2 := rfl
  have hm := congrArg (BitVec.extractLsb' 26 6) e
  have h0 := congrArg (BitVec.extractLsb' 21 5) e
  have h1 := congrArg (BitVec.extractLsb' 16 5) e
  have h2 := congrArg (BitVec.extractLsb' 0 16) e
  simp (disch := decide) only [fieldAbove, fieldBelow, Nat.reduceSub, fieldWhole] at hm h0 h1 h2
  generalize encode (.bne x0 x1 x2) = w at hm h0 h1 h2 ⊢
  refine decode_major 13#6 hm rfl rfl rawWord_0D ?_ h
  unfold raw0D
  rw [h0, h1, h2]
  rfl

theorem blt (x0 : BitVec 5) (x1 : BitVec 5) (x2 : BitVec 16) : Statement (.blt x0 x1 x2) := by
  intro _ h
  have e : encode (.blt x0 x1 x2) = 14#6 ++ x0 ++ x1 ++ x2 := rfl
  have hm := congrArg (BitVec.extractLsb' 26 6) e
  have h0 := congrArg (BitVec.extractLsb' 21 5) e
  have h1 := congrArg (BitVec.extractLsb' 16 5) e
  have h2 := congrArg (BitVec.extractLsb' 0 16) e
  simp (disch := decide) only [fieldAbove, fieldBelow, Nat.reduceSub, fieldWhole] at hm h0 h1 h2
  generalize encode (.blt x0 x1 x2) = w at hm h0 h1 h2 ⊢
  refine decode_major 14#6 hm rfl rfl rawWord_0E ?_ h
  unfold raw0E
  rw [h0, h1, h2]
  rfl

theorem bge (x0 : BitVec 5) (x1 : BitVec 5) (x2 : BitVec 16) : Statement (.bge x0 x1 x2) := by
  intro _ h
  have e : encode (.bge x0 x1 x2) = 15#6 ++ x0 ++ x1 ++ x2 := rfl
  have hm := congrArg (BitVec.extractLsb' 26 6) e
  have h0 := congrArg (BitVec.extractLsb' 21 5) e
  have h1 := congrArg (BitVec.extractLsb' 16 5) e
  have h2 := congrArg (BitVec.extractLsb' 0 16) e
  simp (disch := decide) only [fieldAbove, fieldBelow, Nat.reduceSub, fieldWhole] at hm h0 h1 h2
  generalize encode (.bge x0 x1 x2) = w at hm h0 h1 h2 ⊢
  refine decode_major 15#6 hm rfl rfl rawWord_0F ?_ h
  unfold raw0F
  rw [h0, h1, h2]
  rfl

theorem bltu (x0 : BitVec 5) (x1 : BitVec 5) (x2 : BitVec 16) : Statement (.bltu x0 x1 x2) := by
  intro _ h
  have e : encode (.bltu x0 x1 x2) = 16#6 ++ x0 ++ x1 ++ x2 := rfl
  have hm := congrArg (BitVec.extractLsb' 26 6) e
  have h0 := congrArg (BitVec.extractLsb' 21 5) e
  have h1 := congrArg (BitVec.extractLsb' 16 5) e
  have h2 := congrArg (BitVec.extractLsb' 0 16) e
  simp (disch := decide) only [fieldAbove, fieldBelow, Nat.reduceSub, fieldWhole] at hm h0 h1 h2
  generalize encode (.bltu x0 x1 x2) = w at hm h0 h1 h2 ⊢
  refine decode_major 16#6 hm rfl rfl rawWord_10 ?_ h
  unfold raw10
  rw [h0, h1, h2]
  rfl

theorem bgeu (x0 : BitVec 5) (x1 : BitVec 5) (x2 : BitVec 16) : Statement (.bgeu x0 x1 x2) := by
  intro _ h
  have e : encode (.bgeu x0 x1 x2) = 17#6 ++ x0 ++ x1 ++ x2 := rfl
  have hm := congrArg (BitVec.extractLsb' 26 6) e
  have h0 := congrArg (BitVec.extractLsb' 21 5) e
  have h1 := congrArg (BitVec.extractLsb' 16 5) e
  have h2 := congrArg (BitVec.extractLsb' 0 16) e
  simp (disch := decide) only [fieldAbove, fieldBelow, Nat.reduceSub, fieldWhole] at hm h0 h1 h2
  generalize encode (.bgeu x0 x1 x2) = w at hm h0 h1 h2 ⊢
  refine decode_major 17#6 hm rfl rfl rawWord_11 ?_ h
  unfold raw11
  rw [h0, h1, h2]
  rfl

theorem loop (x0 : BitVec 5) (x1 : BitVec 5) (x2 : BitVec 16) : Statement (.loop x0 x1 x2) := by
  intro _ h
  have e : encode (.loop x0 x1 x2) = 18#6 ++ x0 ++ x1 ++ x2 := rfl
  have hm := congrArg (BitVec.extractLsb' 26 6) e
  have h0 := congrArg (BitVec.extractLsb' 21 5) e
  have h1 := congrArg (BitVec.extractLsb' 16 5) e
  have h2 := congrArg (BitVec.extractLsb' 0 16) e
  simp (disch := decide) only [fieldAbove, fieldBelow, Nat.reduceSub, fieldWhole] at hm h0 h1 h2
  generalize encode (.loop x0 x1 x2) = w at hm h0 h1 h2 ⊢
  refine decode_major 18#6 hm rfl rfl rawWord_12 ?_ h
  unfold raw12
  rw [h0, h1, h2]
  rfl

theorem j (x0 : BitVec 26) : Statement (.j x0) := by
  intro _ h
  have e : encode (.j x0) = 19#6 ++ x0 := rfl
  have hm := congrArg (BitVec.extractLsb' 26 6) e
  have h0 := congrArg (BitVec.extractLsb' 0 26) e
  simp (disch := decide) only [fieldAbove, fieldBelow, Nat.reduceSub, fieldWhole] at hm h0
  generalize encode (.j x0) = w at hm h0 ⊢
  refine decode_major 19#6 hm rfl rfl rawWord_13 ?_ h
  unfold raw13
  rw [h0]
  rfl

theorem jal (x0 : BitVec 26) : Statement (.jal x0) := by
  intro _ h
  have e : encode (.jal x0) = 20#6 ++ x0 := rfl
  have hm := congrArg (BitVec.extractLsb' 26 6) e
  have h0 := congrArg (BitVec.extractLsb' 0 26) e
  simp (disch := decide) only [fieldAbove, fieldBelow, Nat.reduceSub, fieldWhole] at hm h0
  generalize encode (.jal x0) = w at hm h0 ⊢
  refine decode_major 20#6 hm rfl rfl rawWord_14 ?_ h
  unfold raw14
  rw [h0]
  rfl

theorem jalr (x0 : BitVec 5) (x1 : BitVec 5) (x2 : BitVec 16) : Statement (.jalr x0 x1 x2) := by
  intro _ h
  have e : encode (.jalr x0 x1 x2) = 21#6 ++ x0 ++ x1 ++ x2 := rfl
  have hm := congrArg (BitVec.extractLsb' 26 6) e
  have h0 := congrArg (BitVec.extractLsb' 21 5) e
  have h1 := congrArg (BitVec.extractLsb' 16 5) e
  have h2 := congrArg (BitVec.extractLsb' 0 16) e
  simp (disch := decide) only [fieldAbove, fieldBelow, Nat.reduceSub, fieldWhole] at hm h0 h1 h2
  generalize encode (.jalr x0 x1 x2) = w at hm h0 h1 h2 ⊢
  refine decode_major 21#6 hm rfl rfl rawWord_15 ?_ h
  unfold raw15
  rw [h0, h1, h2]
  rfl

theorem fadd (x0 : BitVec 5) (x1 : BitVec 5) (x2 : BitVec 5) : Statement (.fadd x0 x1 x2) := by
  intro _ h
  have e : encode (.fadd x0 x1 x2) = 10#6 ++ x0 ++ x1 ++ x2 ++ 0#5 ++ 0#6 := rfl
  have hm := congrArg (BitVec.extractLsb' 26 6) e
  have h0 := congrArg (BitVec.extractLsb' 0 6) e
  have h1 := congrArg (BitVec.extractLsb' 6 5) e
  have h2 := congrArg (BitVec.extractLsb' 21 5) e
  have h3 := congrArg (BitVec.extractLsb' 16 5) e
  have h4 := congrArg (BitVec.extractLsb' 11 5) e
  simp (disch := decide) only [fieldAbove, fieldBelow, Nat.reduceSub, fieldWhole] at hm h0 h1 h2 h3 h4
  generalize encode (.fadd x0 x1 x2) = w at hm h0 h1 h2 h3 h4 ⊢
  refine decode_major 10#6 hm rfl rfl rawWord_0A ?_ h
  unfold raw0A
  rw [h0, h1, h2, h3, h4]
  rfl

theorem fsub (x0 : BitVec 5) (x1 : BitVec 5) (x2 : BitVec 5) : Statement (.fsub x0 x1 x2) := by
  intro _ h
  have e : encode (.fsub x0 x1 x2) = 10#6 ++ x0 ++ x1 ++ x2 ++ 0#5 ++ 1#6 := rfl
  have hm := congrArg (BitVec.extractLsb' 26 6) e
  have h0 := congrArg (BitVec.extractLsb' 0 6) e
  have h1 := congrArg (BitVec.extractLsb' 6 5) e
  have h2 := congrArg (BitVec.extractLsb' 21 5) e
  have h3 := congrArg (BitVec.extractLsb' 16 5) e
  have h4 := congrArg (BitVec.extractLsb' 11 5) e
  simp (disch := decide) only [fieldAbove, fieldBelow, Nat.reduceSub, fieldWhole] at hm h0 h1 h2 h3 h4
  generalize encode (.fsub x0 x1 x2) = w at hm h0 h1 h2 h3 h4 ⊢
  refine decode_major 10#6 hm rfl rfl rawWord_0A ?_ h
  unfold raw0A
  rw [h0, h1, h2, h3, h4]
  rfl

theorem fmul (x0 : BitVec 5) (x1 : BitVec 5) (x2 : BitVec 5) : Statement (.fmul x0 x1 x2) := by
  intro _ h
  have e : encode (.fmul x0 x1 x2) = 10#6 ++ x0 ++ x1 ++ x2 ++ 0#5 ++ 2#6 := rfl
  have hm := congrArg (BitVec.extractLsb' 26 6) e
  have h0 := congrArg (BitVec.extractLsb' 0 6) e
  have h1 := congrArg (BitVec.extractLsb' 6 5) e
  have h2 := congrArg (BitVec.extractLsb' 21 5) e
  have h3 := congrArg (BitVec.extractLsb' 16 5) e
  have h4 := congrArg (BitVec.extractLsb' 11 5) e
  simp (disch := decide) only [fieldAbove, fieldBelow, Nat.reduceSub, fieldWhole] at hm h0 h1 h2 h3 h4
  generalize encode (.fmul x0 x1 x2) = w at hm h0 h1 h2 h3 h4 ⊢
  refine decode_major 10#6 hm rfl rfl rawWord_0A ?_ h
  unfold raw0A
  rw [h0, h1, h2, h3, h4]
  rfl

theorem fma (x0 : BitVec 5) (x1 : BitVec 5) (x2 : BitVec 5) (x3 : BitVec 5) : Statement (.fma x0 x1 x2 x3) := by
  intro _ h
  have e : encode (.fma x0 x1 x2 x3) = 10#6 ++ x0 ++ x1 ++ x2 ++ x3 ++ 3#6 := rfl
  have hm := congrArg (BitVec.extractLsb' 26 6) e
  have h0 := congrArg (BitVec.extractLsb' 0 6) e
  have h1 := congrArg (BitVec.extractLsb' 6 5) e
  have h2 := congrArg (BitVec.extractLsb' 21 5) e
  have h3 := congrArg (BitVec.extractLsb' 16 5) e
  have h4 := congrArg (BitVec.extractLsb' 11 5) e
  simp (disch := decide) only [fieldAbove, fieldBelow, Nat.reduceSub, fieldWhole] at hm h0 h1 h2 h3 h4
  generalize encode (.fma x0 x1 x2 x3) = w at hm h0 h1 h2 h3 h4 ⊢
  refine decode_major 10#6 hm rfl rfl rawWord_0A ?_ h
  unfold raw0A
  rw [h0, h1, h2, h3, h4]
  rfl

theorem fdiv (x0 : BitVec 5) (x1 : BitVec 5) (x2 : BitVec 5) : Statement (.fdiv x0 x1 x2) := by
  intro _ h
  have e : encode (.fdiv x0 x1 x2) = 10#6 ++ x0 ++ x1 ++ x2 ++ 0#5 ++ 4#6 := rfl
  have hm := congrArg (BitVec.extractLsb' 26 6) e
  have h0 := congrArg (BitVec.extractLsb' 0 6) e
  have h1 := congrArg (BitVec.extractLsb' 6 5) e
  have h2 := congrArg (BitVec.extractLsb' 21 5) e
  have h3 := congrArg (BitVec.extractLsb' 16 5) e
  have h4 := congrArg (BitVec.extractLsb' 11 5) e
  simp (disch := decide) only [fieldAbove, fieldBelow, Nat.reduceSub, fieldWhole] at hm h0 h1 h2 h3 h4
  generalize encode (.fdiv x0 x1 x2) = w at hm h0 h1 h2 h3 h4 ⊢
  refine decode_major 10#6 hm rfl rfl rawWord_0A ?_ h
  unfold raw0A
  rw [h0, h1, h2, h3, h4]
  rfl

theorem fsqrt (x0 : BitVec 5) (x1 : BitVec 5) : Statement (.fsqrt x0 x1) := by
  intro _ h
  have e : encode (.fsqrt x0 x1) = 10#6 ++ x0 ++ x1 ++ 0#10 ++ 5#6 := rfl
  have hm := congrArg (BitVec.extractLsb' 26 6) e
  have h0 := congrArg (BitVec.extractLsb' 0 6) e
  have h1 := congrArg (BitVec.extractLsb' 6 5) e
  have h2 := congrArg (BitVec.extractLsb' 6 10) e
  have h3 := congrArg (BitVec.extractLsb' 21 5) e
  have h4 := congrArg (BitVec.extractLsb' 16 5) e
  simp (disch := decide) only [fieldAbove, fieldBelow, Nat.reduceSub, fieldWhole] at hm h0 h1 h2 h3 h4
  generalize encode (.fsqrt x0 x1) = w at hm h0 h1 h2 h3 h4 ⊢
  refine decode_major 10#6 hm rfl rfl rawWord_0A ?_ h
  unfold raw0A
  rw [h0, h1, h2, h3, h4]
  rfl

theorem fmin (x0 : BitVec 5) (x1 : BitVec 5) (x2 : BitVec 5) : Statement (.fmin x0 x1 x2) := by
  intro _ h
  have e : encode (.fmin x0 x1 x2) = 10#6 ++ x0 ++ x1 ++ x2 ++ 0#5 ++ 6#6 := rfl
  have hm := congrArg (BitVec.extractLsb' 26 6) e
  have h0 := congrArg (BitVec.extractLsb' 0 6) e
  have h1 := congrArg (BitVec.extractLsb' 6 5) e
  have h2 := congrArg (BitVec.extractLsb' 21 5) e
  have h3 := congrArg (BitVec.extractLsb' 16 5) e
  have h4 := congrArg (BitVec.extractLsb' 11 5) e
  simp (disch := decide) only [fieldAbove, fieldBelow, Nat.reduceSub, fieldWhole] at hm h0 h1 h2 h3 h4
  generalize encode (.fmin x0 x1 x2) = w at hm h0 h1 h2 h3 h4 ⊢
  refine decode_major 10#6 hm rfl rfl rawWord_0A ?_ h
  unfold raw0A
  rw [h0, h1, h2, h3, h4]
  rfl

theorem fmax (x0 : BitVec 5) (x1 : BitVec 5) (x2 : BitVec 5) : Statement (.fmax x0 x1 x2) := by
  intro _ h
  have e : encode (.fmax x0 x1 x2) = 10#6 ++ x0 ++ x1 ++ x2 ++ 0#5 ++ 7#6 := rfl
  have hm := congrArg (BitVec.extractLsb' 26 6) e
  have h0 := congrArg (BitVec.extractLsb' 0 6) e
  have h1 := congrArg (BitVec.extractLsb' 6 5) e
  have h2 := congrArg (BitVec.extractLsb' 21 5) e
  have h3 := congrArg (BitVec.extractLsb' 16 5) e
  have h4 := congrArg (BitVec.extractLsb' 11 5) e
  simp (disch := decide) only [fieldAbove, fieldBelow, Nat.reduceSub, fieldWhole] at hm h0 h1 h2 h3 h4
  generalize encode (.fmax x0 x1 x2) = w at hm h0 h1 h2 h3 h4 ⊢
  refine decode_major 10#6 hm rfl rfl rawWord_0A ?_ h
  unfold raw0A
  rw [h0, h1, h2, h3, h4]
  rfl

theorem fcmp (x0 : BitVec 5) (x1 : BitVec 5) (x2 : BitVec 5) (x3 : BitVec 5) : Statement (.fcmp x0 x1 x2 x3) := by
  intro _ h
  have e : encode (.fcmp x0 x1 x2 x3) = 10#6 ++ x0 ++ x1 ++ x2 ++ x3 ++ 8#6 := rfl
  have hm := congrArg (BitVec.extractLsb' 26 6) e
  have h0 := congrArg (BitVec.extractLsb' 0 6) e
  have h1 := congrArg (BitVec.extractLsb' 6 5) e
  have h2 := congrArg (BitVec.extractLsb' 21 5) e
  have h3 := congrArg (BitVec.extractLsb' 16 5) e
  have h4 := congrArg (BitVec.extractLsb' 11 5) e
  simp (disch := decide) only [fieldAbove, fieldBelow, Nat.reduceSub, fieldWhole] at hm h0 h1 h2 h3 h4
  generalize encode (.fcmp x0 x1 x2 x3) = w at hm h0 h1 h2 h3 h4 ⊢
  refine decode_major 10#6 hm rfl rfl rawWord_0A ?_ h
  unfold raw0A
  rw [h0, h1, h2, h3, h4]
  rfl

theorem fcvt (x0 : BitVec 5) (x1 : BitVec 5) (x2 : BitVec 4) (x3 : BitVec 4) : Statement (.fcvt x0 x1 x2 x3) := by
  intro _ h
  have e : encode (.fcvt x0 x1 x2 x3) = 10#6 ++ x0 ++ x1 ++ 0#1 ++ x2 ++ 0#1 ++ x3 ++ 9#6 := rfl
  have hm := congrArg (BitVec.extractLsb' 26 6) e
  have h0 := congrArg (BitVec.extractLsb' 0 6) e
  have h1 := congrArg (BitVec.extractLsb' 15 1) e
  have h2 := congrArg (BitVec.extractLsb' 10 1) e
  have h3 := congrArg (BitVec.extractLsb' 21 5) e
  have h4 := congrArg (BitVec.extractLsb' 16 5) e
  have h5 := congrArg (BitVec.extractLsb' 11 4) e
  have h6 := congrArg (BitVec.extractLsb' 6 4) e
  simp (disch := decide) only [fieldAbove, fieldBelow, Nat.reduceSub, fieldWhole] at hm h0 h1 h2 h3 h4 h5 h6
  generalize encode (.fcvt x0 x1 x2 x3) = w at hm h0 h1 h2 h3 h4 h5 h6 ⊢
  refine decode_major 10#6 hm rfl rfl rawWord_0A ?_ h
  unfold raw0A
  rw [h0, h1, h2, h3, h4, h5, h6]
  rfl

theorem fclass (x0 : BitVec 5) (x1 : BitVec 5) : Statement (.fclass x0 x1) := by
  intro _ h
  have e : encode (.fclass x0 x1) = 10#6 ++ x0 ++ x1 ++ 0#10 ++ 10#6 := rfl
  have hm := congrArg (BitVec.extractLsb' 26 6) e
  have h0 := congrArg (BitVec.extractLsb' 0 6) e
  have h1 := congrArg (BitVec.extractLsb' 6 5) e
  have h2 := congrArg (BitVec.extractLsb' 6 10) e
  have h3 := congrArg (BitVec.extractLsb' 15 1) e
  have h4 := congrArg (BitVec.extractLsb' 10 1) e
  have h5 := congrArg (BitVec.extractLsb' 21 5) e
  have h6 := congrArg (BitVec.extractLsb' 16 5) e
  simp (disch := decide) only [fieldAbove, fieldBelow, Nat.reduceSub, fieldWhole] at hm h0 h1 h2 h3 h4 h5 h6
  generalize encode (.fclass x0 x1) = w at hm h0 h1 h2 h3 h4 h5 h6 ⊢
  refine decode_major 10#6 hm rfl rfl rawWord_0A ?_ h
  unfold raw0A
  rw [h0, h1, h2, h3, h4, h5, h6]
  rfl

theorem fsgn (x0 : BitVec 5) (x1 : BitVec 5) (x2 : BitVec 5) (x3 : BitVec 5) : Statement (.fsgn x0 x1 x2 x3) := by
  intro _ h
  have e : encode (.fsgn x0 x1 x2 x3) = 10#6 ++ x0 ++ x1 ++ x2 ++ x3 ++ 11#6 := rfl
  have hm := congrArg (BitVec.extractLsb' 26 6) e
  have h0 := congrArg (BitVec.extractLsb' 0 6) e
  have h1 := congrArg (BitVec.extractLsb' 6 5) e
  have h2 := congrArg (BitVec.extractLsb' 21 5) e
  have h3 := congrArg (BitVec.extractLsb' 16 5) e
  have h4 := congrArg (BitVec.extractLsb' 11 5) e
  simp (disch := decide) only [fieldAbove, fieldBelow, Nat.reduceSub, fieldWhole] at hm h0 h1 h2 h3 h4
  generalize encode (.fsgn x0 x1 x2 x3) = w at hm h0 h1 h2 h3 h4 ⊢
  refine decode_major 10#6 hm rfl rfl rawWord_0A ?_ h
  unfold raw0A
  rw [h0, h1, h2, h3, h4]
  rfl

theorem dadd (x0 : BitVec 5) (x1 : BitVec 5) (x2 : BitVec 5) : Statement (.dadd x0 x1 x2) := by
  intro _ h
  have e : encode (.dadd x0 x1 x2) = 56#6 ++ x0 ++ x1 ++ x2 ++ 0#5 ++ 0#4 ++ 0#2 := rfl
  have hm := congrArg (BitVec.extractLsb' 26 6) e
  have h0 := congrArg (BitVec.extractLsb' 0 2) e
  have h1 := congrArg (BitVec.extractLsb' 21 5) e
  have h2 := congrArg (BitVec.extractLsb' 2 4) e
  have h3 := congrArg (BitVec.extractLsb' 6 5) e
  have h4 := congrArg (BitVec.extractLsb' 16 5) e
  have h5 := congrArg (BitVec.extractLsb' 11 5) e
  simp (disch := decide) only [fieldAbove, fieldBelow, Nat.reduceSub, fieldWhole] at hm h0 h1 h2 h3 h4 h5
  generalize encode (.dadd x0 x1 x2) = w at hm h0 h1 h2 h3 h4 h5 ⊢
  refine decode_major 56#6 hm rfl rfl rawWord_38 ?_ h
  unfold raw38
  rw [h0, h1, h2, h3, h4, h5]
  rfl

theorem dsub (x0 : BitVec 5) (x1 : BitVec 5) (x2 : BitVec 5) : Statement (.dsub x0 x1 x2) := by
  intro _ h
  have e : encode (.dsub x0 x1 x2) = 56#6 ++ x0 ++ x1 ++ x2 ++ 0#5 ++ 1#4 ++ 0#2 := rfl
  have hm := congrArg (BitVec.extractLsb' 26 6) e
  have h0 := congrArg (BitVec.extractLsb' 0 2) e
  have h1 := congrArg (BitVec.extractLsb' 21 5) e
  have h2 := congrArg (BitVec.extractLsb' 2 4) e
  have h3 := congrArg (BitVec.extractLsb' 6 5) e
  have h4 := congrArg (BitVec.extractLsb' 16 5) e
  have h5 := congrArg (BitVec.extractLsb' 11 5) e
  simp (disch := decide) only [fieldAbove, fieldBelow, Nat.reduceSub, fieldWhole] at hm h0 h1 h2 h3 h4 h5
  generalize encode (.dsub x0 x1 x2) = w at hm h0 h1 h2 h3 h4 h5 ⊢
  refine decode_major 56#6 hm rfl rfl rawWord_38 ?_ h
  unfold raw38
  rw [h0, h1, h2, h3, h4, h5]
  rfl

theorem dmul (x0 : BitVec 5) (x1 : BitVec 5) (x2 : BitVec 5) : Statement (.dmul x0 x1 x2) := by
  intro _ h
  have e : encode (.dmul x0 x1 x2) = 56#6 ++ x0 ++ x1 ++ x2 ++ 0#5 ++ 2#4 ++ 0#2 := rfl
  have hm := congrArg (BitVec.extractLsb' 26 6) e
  have h0 := congrArg (BitVec.extractLsb' 0 2) e
  have h1 := congrArg (BitVec.extractLsb' 21 5) e
  have h2 := congrArg (BitVec.extractLsb' 2 4) e
  have h3 := congrArg (BitVec.extractLsb' 6 5) e
  have h4 := congrArg (BitVec.extractLsb' 16 5) e
  have h5 := congrArg (BitVec.extractLsb' 11 5) e
  simp (disch := decide) only [fieldAbove, fieldBelow, Nat.reduceSub, fieldWhole] at hm h0 h1 h2 h3 h4 h5
  generalize encode (.dmul x0 x1 x2) = w at hm h0 h1 h2 h3 h4 h5 ⊢
  refine decode_major 56#6 hm rfl rfl rawWord_38 ?_ h
  unfold raw38
  rw [h0, h1, h2, h3, h4, h5]
  rfl

theorem dfma (x0 : BitVec 5) (x1 : BitVec 5) (x2 : BitVec 5) (x3 : BitVec 5) : Statement (.dfma x0 x1 x2 x3) := by
  intro _ h
  have e : encode (.dfma x0 x1 x2 x3) = 56#6 ++ x0 ++ x1 ++ x2 ++ x3 ++ 3#4 ++ 0#2 := rfl
  have hm := congrArg (BitVec.extractLsb' 26 6) e
  have h0 := congrArg (BitVec.extractLsb' 0 2) e
  have h1 := congrArg (BitVec.extractLsb' 21 5) e
  have h2 := congrArg (BitVec.extractLsb' 2 4) e
  have h3 := congrArg (BitVec.extractLsb' 6 5) e
  have h4 := congrArg (BitVec.extractLsb' 16 5) e
  have h5 := congrArg (BitVec.extractLsb' 11 5) e
  simp (disch := decide) only [fieldAbove, fieldBelow, Nat.reduceSub, fieldWhole] at hm h0 h1 h2 h3 h4 h5
  generalize encode (.dfma x0 x1 x2 x3) = w at hm h0 h1 h2 h3 h4 h5 ⊢
  refine decode_major 56#6 hm rfl rfl rawWord_38 ?_ h
  unfold raw38
  rw [h0, h1, h2, h3, h4, h5]
  rfl

theorem ddiv (x0 : BitVec 5) (x1 : BitVec 5) (x2 : BitVec 5) : Statement (.ddiv x0 x1 x2) := by
  intro _ h
  have e : encode (.ddiv x0 x1 x2) = 56#6 ++ x0 ++ x1 ++ x2 ++ 0#5 ++ 4#4 ++ 0#2 := rfl
  have hm := congrArg (BitVec.extractLsb' 26 6) e
  have h0 := congrArg (BitVec.extractLsb' 0 2) e
  have h1 := congrArg (BitVec.extractLsb' 21 5) e
  have h2 := congrArg (BitVec.extractLsb' 2 4) e
  have h3 := congrArg (BitVec.extractLsb' 6 5) e
  have h4 := congrArg (BitVec.extractLsb' 16 5) e
  have h5 := congrArg (BitVec.extractLsb' 11 5) e
  simp (disch := decide) only [fieldAbove, fieldBelow, Nat.reduceSub, fieldWhole] at hm h0 h1 h2 h3 h4 h5
  generalize encode (.ddiv x0 x1 x2) = w at hm h0 h1 h2 h3 h4 h5 ⊢
  refine decode_major 56#6 hm rfl rfl rawWord_38 ?_ h
  unfold raw38
  rw [h0, h1, h2, h3, h4, h5]
  rfl

theorem dsqrt (x0 : BitVec 5) (x1 : BitVec 5) : Statement (.dsqrt x0 x1) := by
  intro _ h
  have e : encode (.dsqrt x0 x1) = 56#6 ++ x0 ++ x1 ++ 0#10 ++ 5#4 ++ 0#2 := rfl
  have hm := congrArg (BitVec.extractLsb' 26 6) e
  have h0 := congrArg (BitVec.extractLsb' 0 2) e
  have h1 := congrArg (BitVec.extractLsb' 21 5) e
  have h2 := congrArg (BitVec.extractLsb' 2 4) e
  have h3 := congrArg (BitVec.extractLsb' 6 5) e
  have h4 := congrArg (BitVec.extractLsb' 6 10) e
  have h5 := congrArg (BitVec.extractLsb' 16 5) e
  simp (disch := decide) only [fieldAbove, fieldBelow, Nat.reduceSub, fieldWhole] at hm h0 h1 h2 h3 h4 h5
  generalize encode (.dsqrt x0 x1) = w at hm h0 h1 h2 h3 h4 h5 ⊢
  refine decode_major 56#6 hm rfl rfl rawWord_38 ?_ h
  unfold raw38
  rw [h0, h1, h2, h3, h4, h5]
  rfl

theorem dmin (x0 : BitVec 5) (x1 : BitVec 5) (x2 : BitVec 5) : Statement (.dmin x0 x1 x2) := by
  intro _ h
  have e : encode (.dmin x0 x1 x2) = 56#6 ++ x0 ++ x1 ++ x2 ++ 0#5 ++ 6#4 ++ 0#2 := rfl
  have hm := congrArg (BitVec.extractLsb' 26 6) e
  have h0 := congrArg (BitVec.extractLsb' 0 2) e
  have h1 := congrArg (BitVec.extractLsb' 21 5) e
  have h2 := congrArg (BitVec.extractLsb' 2 4) e
  have h3 := congrArg (BitVec.extractLsb' 6 5) e
  have h4 := congrArg (BitVec.extractLsb' 16 5) e
  have h5 := congrArg (BitVec.extractLsb' 11 5) e
  simp (disch := decide) only [fieldAbove, fieldBelow, Nat.reduceSub, fieldWhole] at hm h0 h1 h2 h3 h4 h5
  generalize encode (.dmin x0 x1 x2) = w at hm h0 h1 h2 h3 h4 h5 ⊢
  refine decode_major 56#6 hm rfl rfl rawWord_38 ?_ h
  unfold raw38
  rw [h0, h1, h2, h3, h4, h5]
  rfl

theorem dmax (x0 : BitVec 5) (x1 : BitVec 5) (x2 : BitVec 5) : Statement (.dmax x0 x1 x2) := by
  intro _ h
  have e : encode (.dmax x0 x1 x2) = 56#6 ++ x0 ++ x1 ++ x2 ++ 0#5 ++ 7#4 ++ 0#2 := rfl
  have hm := congrArg (BitVec.extractLsb' 26 6) e
  have h0 := congrArg (BitVec.extractLsb' 0 2) e
  have h1 := congrArg (BitVec.extractLsb' 21 5) e
  have h2 := congrArg (BitVec.extractLsb' 2 4) e
  have h3 := congrArg (BitVec.extractLsb' 6 5) e
  have h4 := congrArg (BitVec.extractLsb' 16 5) e
  have h5 := congrArg (BitVec.extractLsb' 11 5) e
  simp (disch := decide) only [fieldAbove, fieldBelow, Nat.reduceSub, fieldWhole] at hm h0 h1 h2 h3 h4 h5
  generalize encode (.dmax x0 x1 x2) = w at hm h0 h1 h2 h3 h4 h5 ⊢
  refine decode_major 56#6 hm rfl rfl rawWord_38 ?_ h
  unfold raw38
  rw [h0, h1, h2, h3, h4, h5]
  rfl

theorem dcmp (x0 : BitVec 5) (x1 : BitVec 5) (x2 : BitVec 5) (x3 : BitVec 5) : Statement (.dcmp x0 x1 x2 x3) := by
  intro _ h
  have e : encode (.dcmp x0 x1 x2 x3) = 56#6 ++ x0 ++ x1 ++ x2 ++ x3 ++ 8#4 ++ 0#2 := rfl
  have hm := congrArg (BitVec.extractLsb' 26 6) e
  have h0 := congrArg (BitVec.extractLsb' 0 2) e
  have h1 := congrArg (BitVec.extractLsb' 21 5) e
  have h2 := congrArg (BitVec.extractLsb' 2 4) e
  have h3 := congrArg (BitVec.extractLsb' 6 5) e
  have h4 := congrArg (BitVec.extractLsb' 16 5) e
  have h5 := congrArg (BitVec.extractLsb' 11 5) e
  simp (disch := decide) only [fieldAbove, fieldBelow, Nat.reduceSub, fieldWhole] at hm h0 h1 h2 h3 h4 h5
  generalize encode (.dcmp x0 x1 x2 x3) = w at hm h0 h1 h2 h3 h4 h5 ⊢
  refine decode_major 56#6 hm rfl rfl rawWord_38 ?_ h
  unfold raw38
  rw [h0, h1, h2, h3, h4, h5]
  rfl

theorem dcvt (x0 : BitVec 5) (x1 : BitVec 5) (x2 : BitVec 4) (x3 : BitVec 4) : Statement (.dcvt x0 x1 x2 x3) := by
  intro _ h
  have e : encode (.dcvt x0 x1 x2 x3) = 56#6 ++ x0 ++ x1 ++ 0#1 ++ x2 ++ 0#1 ++ x3 ++ 9#4 ++ 0#2 := rfl
  have hm := congrArg (BitVec.extractLsb' 26 6) e
  have h0 := congrArg (BitVec.extractLsb' 0 2) e
  have h1 := congrArg (BitVec.extractLsb' 21 5) e
  have h2 := congrArg (BitVec.extractLsb' 2 4) e
  have h3 := congrArg (BitVec.extractLsb' 15 1) e
  have h4 := congrArg (BitVec.extractLsb' 10 1) e
  have h5 := congrArg (BitVec.extractLsb' 16 5) e
  have h6 := congrArg (BitVec.extractLsb' 11 4) e
  have h7 := congrArg (BitVec.extractLsb' 6 4) e
  simp (disch := decide) only [fieldAbove, fieldBelow, Nat.reduceSub, fieldWhole] at hm h0 h1 h2 h3 h4 h5 h6 h7
  generalize encode (.dcvt x0 x1 x2 x3) = w at hm h0 h1 h2 h3 h4 h5 h6 h7 ⊢
  refine decode_major 56#6 hm rfl rfl rawWord_38 ?_ h
  unfold raw38
  rw [h0, h1, h2, h3, h4, h5, h6, h7]
  rfl

theorem dclass (x0 : BitVec 5) (x1 : BitVec 5) : Statement (.dclass x0 x1) := by
  intro _ h
  have e : encode (.dclass x0 x1) = 56#6 ++ x0 ++ x1 ++ 0#10 ++ 10#4 ++ 0#2 := rfl
  have hm := congrArg (BitVec.extractLsb' 26 6) e
  have h0 := congrArg (BitVec.extractLsb' 0 2) e
  have h1 := congrArg (BitVec.extractLsb' 21 5) e
  have h2 := congrArg (BitVec.extractLsb' 2 4) e
  have h3 := congrArg (BitVec.extractLsb' 6 5) e
  have h4 := congrArg (BitVec.extractLsb' 6 10) e
  have h5 := congrArg (BitVec.extractLsb' 15 1) e
  have h6 := congrArg (BitVec.extractLsb' 10 1) e
  have h7 := congrArg (BitVec.extractLsb' 16 5) e
  simp (disch := decide) only [fieldAbove, fieldBelow, Nat.reduceSub, fieldWhole] at hm h0 h1 h2 h3 h4 h5 h6 h7
  generalize encode (.dclass x0 x1) = w at hm h0 h1 h2 h3 h4 h5 h6 h7 ⊢
  refine decode_major 56#6 hm rfl rfl rawWord_38 ?_ h
  unfold raw38
  rw [h0, h1, h2, h3, h4, h5, h6, h7]
  rfl

theorem dsgn (x0 : BitVec 5) (x1 : BitVec 5) (x2 : BitVec 5) (x3 : BitVec 5) : Statement (.dsgn x0 x1 x2 x3) := by
  intro _ h
  have e : encode (.dsgn x0 x1 x2 x3) = 56#6 ++ x0 ++ x1 ++ x2 ++ x3 ++ 11#4 ++ 0#2 := rfl
  have hm := congrArg (BitVec.extractLsb' 26 6) e
  have h0 := congrArg (BitVec.extractLsb' 0 2) e
  have h1 := congrArg (BitVec.extractLsb' 21 5) e
  have h2 := congrArg (BitVec.extractLsb' 2 4) e
  have h3 := congrArg (BitVec.extractLsb' 6 5) e
  have h4 := congrArg (BitVec.extractLsb' 16 5) e
  have h5 := congrArg (BitVec.extractLsb' 11 5) e
  simp (disch := decide) only [fieldAbove, fieldBelow, Nat.reduceSub, fieldWhole] at hm h0 h1 h2 h3 h4 h5
  generalize encode (.dsgn x0 x1 x2 x3) = w at hm h0 h1 h2 h3 h4 h5 ⊢
  refine decode_major 56#6 hm rfl rfl rawWord_38 ?_ h
  unfold raw38
  rw [h0, h1, h2, h3, h4, h5]
  rfl

theorem orcv (x0 : BitVec 5) : Statement (.orcv x0) := by
  intro _ h
  have e : encode (.orcv x0) = 56#6 ++ x0 ++ 0#10 ++ 0#9 ++ 1#2 := rfl
  have hm := congrArg (BitVec.extractLsb' 26 6) e
  have h0 := congrArg (BitVec.extractLsb' 0 2) e
  have h1 := congrArg (BitVec.extractLsb' 2 9) e
  have h2 := congrArg (BitVec.extractLsb' 11 10) e
  have h3 := congrArg (BitVec.extractLsb' 21 5) e
  simp (disch := decide) only [fieldAbove, fieldBelow, Nat.reduceSub, fieldWhole] at hm h0 h1 h2 h3
  generalize encode (.orcv x0) = w at hm h0 h1 h2 h3 ⊢
  refine decode_major 56#6 hm rfl rfl rawWord_38 ?_ h
  unfold raw38
  rw [h0, h1, h2, h3]
  rfl

theorem xmac (x0 : BitVec 5) (x1 : BitVec 5) : Statement (.xmac x0 x1) := by
  intro _ h
  have e : encode (.xmac x0 x1) = 56#6 ++ 0#5 ++ x0 ++ x1 ++ 2#9 ++ 1#2 := rfl
  have hm := congrArg (BitVec.extractLsb' 26 6) e
  have h0 := congrArg (BitVec.extractLsb' 0 2) e
  have h1 := congrArg (BitVec.extractLsb' 2 9) e
  have h2 := congrArg (BitVec.extractLsb' 21 5) e
  have h3 := congrArg (BitVec.extractLsb' 16 5) e
  have h4 := congrArg (BitVec.extractLsb' 11 5) e
  simp (disch := decide) only [fieldAbove, fieldBelow, Nat.reduceSub, fieldWhole] at hm h0 h1 h2 h3 h4
  generalize encode (.xmac x0 x1) = w at hm h0 h1 h2 h3 h4 ⊢
  refine decode_major 56#6 hm rfl rfl rawWord_38 ?_ h
  unfold raw38
  rw [h0, h1, h2, h3, h4]
  rfl

theorem xrd (x0 : BitVec 5) : Statement (.xrd x0) := by
  intro _ h
  have e : encode (.xrd x0) = 56#6 ++ x0 ++ 0#10 ++ 3#9 ++ 1#2 := rfl
  have hm := congrArg (BitVec.extractLsb' 26 6) e
  have h0 := congrArg (BitVec.extractLsb' 0 2) e
  have h1 := congrArg (BitVec.extractLsb' 2 9) e
  have h2 := congrArg (BitVec.extractLsb' 11 10) e
  have h3 := congrArg (BitVec.extractLsb' 21 5) e
  simp (disch := decide) only [fieldAbove, fieldBelow, Nat.reduceSub, fieldWhole] at hm h0 h1 h2 h3
  generalize encode (.xrd x0) = w at hm h0 h1 h2 h3 ⊢
  refine decode_major 56#6 hm rfl rfl rawWord_38 ?_ h
  unfold raw38
  rw [h0, h1, h2, h3]
  rfl

theorem csrr (x0 : BitVec 5) (x1 : BitVec 10) : Statement (.csrr x0 x1) := by
  intro _ h
  have e : encode (.csrr x0 x1) = 28#6 ++ x0 ++ 0#5 ++ x1 ++ 0#6 := rfl
  have hm := congrArg (BitVec.extractLsb' 26 6) e
  have h0 := congrArg (BitVec.extractLsb' 0 6) e
  have h1 := congrArg (BitVec.extractLsb' 16 5) e
  have h2 := congrArg (BitVec.extractLsb' 21 5) e
  have h3 := congrArg (BitVec.extractLsb' 6 10) e
  simp (disch := decide) only [fieldAbove, fieldBelow, Nat.reduceSub, fieldWhole] at hm h0 h1 h2 h3
  generalize encode (.csrr x0 x1) = w at hm h0 h1 h2 h3 ⊢
  refine decode_major 28#6 hm rfl rfl rawWord_1C ?_ h
  unfold raw1C
  rw [h0, h1, h2, h3]
  rfl

theorem csrw (x0 : BitVec 5) (x1 : BitVec 5) (x2 : BitVec 10) : Statement (.csrw x0 x1 x2) := by
  intro _ h
  have e : encode (.csrw x0 x1 x2) = 28#6 ++ x0 ++ x1 ++ x2 ++ 1#6 := rfl
  have hm := congrArg (BitVec.extractLsb' 26 6) e
  have h0 := congrArg (BitVec.extractLsb' 0 6) e
  have h1 := congrArg (BitVec.extractLsb' 16 5) e
  have h2 := congrArg (BitVec.extractLsb' 21 5) e
  have h3 := congrArg (BitVec.extractLsb' 6 10) e
  simp (disch := decide) only [fieldAbove, fieldBelow, Nat.reduceSub, fieldWhole] at hm h0 h1 h2 h3
  generalize encode (.csrw x0 x1 x2) = w at hm h0 h1 h2 h3 ⊢
  refine decode_major 28#6 hm rfl rfl rawWord_1C ?_ h
  unfold raw1C
  rw [h0, h1, h2, h3]
  rfl

theorem csrs (x0 : BitVec 5) (x1 : BitVec 5) (x2 : BitVec 10) : Statement (.csrs x0 x1 x2) := by
  intro _ h
  have e : encode (.csrs x0 x1 x2) = 28#6 ++ x0 ++ x1 ++ x2 ++ 2#6 := rfl
  have hm := congrArg (BitVec.extractLsb' 26 6) e
  have h0 := congrArg (BitVec.extractLsb' 0 6) e
  have h1 := congrArg (BitVec.extractLsb' 16 5) e
  have h2 := congrArg (BitVec.extractLsb' 21 5) e
  have h3 := congrArg (BitVec.extractLsb' 6 10) e
  simp (disch := decide) only [fieldAbove, fieldBelow, Nat.reduceSub, fieldWhole] at hm h0 h1 h2 h3
  generalize encode (.csrs x0 x1 x2) = w at hm h0 h1 h2 h3 ⊢
  refine decode_major 28#6 hm rfl rfl rawWord_1C ?_ h
  unfold raw1C
  rw [h0, h1, h2, h3]
  rfl

theorem csrc (x0 : BitVec 5) (x1 : BitVec 5) (x2 : BitVec 10) : Statement (.csrc x0 x1 x2) := by
  intro _ h
  have e : encode (.csrc x0 x1 x2) = 28#6 ++ x0 ++ x1 ++ x2 ++ 3#6 := rfl
  have hm := congrArg (BitVec.extractLsb' 26 6) e
  have h0 := congrArg (BitVec.extractLsb' 0 6) e
  have h1 := congrArg (BitVec.extractLsb' 16 5) e
  have h2 := congrArg (BitVec.extractLsb' 21 5) e
  have h3 := congrArg (BitVec.extractLsb' 6 10) e
  simp (disch := decide) only [fieldAbove, fieldBelow, Nat.reduceSub, fieldWhole] at hm h0 h1 h2 h3
  generalize encode (.csrc x0 x1 x2) = w at hm h0 h1 h2 h3 ⊢
  refine decode_major 28#6 hm rfl rfl rawWord_1C ?_ h
  unfold raw1C
  rw [h0, h1, h2, h3]
  rfl

theorem trap (x0 : BitVec 5) (x1 : BitVec 5) : Statement (.trap x0 x1) := by
  intro _ h
  have e : encode (.trap x0 x1) = 28#6 ++ 0#5 ++ x0 ++ 0#5 ++ x1 ++ 8#6 := rfl
  have hm := congrArg (BitVec.extractLsb' 26 6) e
  have h0 := congrArg (BitVec.extractLsb' 0 6) e
  have h1 := congrArg (BitVec.extractLsb' 16 5) e
  have h2 := congrArg (BitVec.extractLsb' 21 5) e
  have h3 := congrArg (BitVec.extractLsb' 11 5) e
  have h4 := congrArg (BitVec.extractLsb' 6 5) e
  simp (disch := decide) only [fieldAbove, fieldBelow, Nat.reduceSub, fieldWhole] at hm h0 h1 h2 h3 h4
  generalize encode (.trap x0 x1) = w at hm h0 h1 h2 h3 h4 ⊢
  refine decode_major 28#6 hm rfl rfl rawWord_1C ?_ h
  unfold raw1C
  rw [h0, h1, h2, h3, h4]
  rfl

theorem park (x0 : BitVec 5) : Statement (.park x0) := by
  intro _ h
  have e : encode (.park x0) = 28#6 ++ 0#5 ++ x0 ++ 0#10 ++ 10#6 := rfl
  have hm := congrArg (BitVec.extractLsb' 26 6) e
  have h0 := congrArg (BitVec.extractLsb' 0 6) e
  have h1 := congrArg (BitVec.extractLsb' 16 5) e
  have h2 := congrArg (BitVec.extractLsb' 21 5) e
  have h3 := congrArg (BitVec.extractLsb' 11 5) e
  have h4 := congrArg (BitVec.extractLsb' 6 10) e
  simp (disch := decide) only [fieldAbove, fieldBelow, Nat.reduceSub, fieldWhole] at hm h0 h1 h2 h3 h4
  generalize encode (.park x0) = w at hm h0 h1 h2 h3 h4 ⊢
  refine decode_major 28#6 hm rfl rfl rawWord_1C ?_ h
  unfold raw1C
  rw [h0, h1, h2, h3, h4]
  rfl

theorem tfork (x0 : BitVec 5) (x1 : BitVec 5) (x2 : BitVec 5) : Statement (.tfork x0 x1 x2) := by
  intro _ h
  have e : encode (.tfork x0 x1 x2) = 28#6 ++ x0 ++ x1 ++ x2 ++ 0#5 ++ 12#6 := rfl
  have hm := congrArg (BitVec.extractLsb' 26 6) e
  have h0 := congrArg (BitVec.extractLsb' 0 6) e
  have h1 := congrArg (BitVec.extractLsb' 16 5) e
  have h2 := congrArg (BitVec.extractLsb' 21 5) e
  have h3 := congrArg (BitVec.extractLsb' 11 5) e
  have h4 := congrArg (BitVec.extractLsb' 6 5) e
  simp (disch := decide) only [fieldAbove, fieldBelow, Nat.reduceSub, fieldWhole] at hm h0 h1 h2 h3 h4
  generalize encode (.tfork x0 x1 x2) = w at hm h0 h1 h2 h3 h4 ⊢
  refine decode_major 28#6 hm rfl rfl rawWord_1C ?_ h
  unfold raw1C
  rw [h0, h1, h2, h3, h4]
  rfl

theorem bsig (x0 : BitVec 10) (x1 : BitVec 16) : Statement (.bsig x0 x1) := by
  intro _ h
  have e : encode (.bsig x0 x1) = 29#6 ++ x0 ++ x1 := rfl
  have hm := congrArg (BitVec.extractLsb' 26 6) e
  have h0 := congrArg (BitVec.extractLsb' 16 10) e
  have h1 := congrArg (BitVec.extractLsb' 0 16) e
  simp (disch := decide) only [fieldAbove, fieldBelow, Nat.reduceSub, fieldWhole] at hm h0 h1
  generalize encode (.bsig x0 x1) = w at hm h0 h1 ⊢
  refine decode_major 29#6 hm rfl rfl rawWord_1D ?_ h
  unfold raw1D
  rw [h0, h1]
  rfl

theorem pfx (x0 : BitVec 4) (x1 : BitVec 4) (x2 : BitVec 4) (x3 : BitVec 3) (x4 : BitVec 1) (x5 : BitVec 2) : Statement (.pfx x0 x1 x2 x3 x4 x5) := by
  intro _ h
  have e : encode (.pfx x0 x1 x2 x3 x4 x5) = 30#6 ++ 0#1 ++ x0 ++ x1 ++ x2 ++ x3 ++ x4 ++ x5 ++ 0#7 := rfl
  have hm := congrArg (BitVec.extractLsb' 26 6) e
  have h0 := congrArg (BitVec.extractLsb' 25 1) e
  have h1 := congrArg (BitVec.extractLsb' 0 7) e
  have h2 := congrArg (BitVec.extractLsb' 21 4) e
  have h3 := congrArg (BitVec.extractLsb' 17 4) e
  have h4 := congrArg (BitVec.extractLsb' 13 4) e
  have h5 := congrArg (BitVec.extractLsb' 10 3) e
  have h6 := congrArg (BitVec.extractLsb' 9 1) e
  have h7 := congrArg (BitVec.extractLsb' 7 2) e
  simp (disch := decide) only [fieldAbove, fieldBelow, Nat.reduceSub, fieldWhole] at hm h0 h1 h2 h3 h4 h5 h6 h7
  generalize encode (.pfx x0 x1 x2 x3 x4 x5) = w at hm h0 h1 h2 h3 h4 h5 h6 h7 ⊢
  refine decode_major 30#6 hm rfl rfl rawWord_1E ?_ h
  unfold raw1E
  rw [h0, h1, h2, h3, h4, h5, h6, h7]
  rfl

theorem pfxTag (x0 : BitVec 12) (x1 : BitVec 3) (x2 : BitVec 1) (x3 : BitVec 4) (x4 : BitVec 4) : Statement (.pfxTag x0 x1 x2 x3 x4) := by
  intro _ h
  have e : encode (.pfxTag x0 x1 x2 x3 x4) = 30#6 ++ 1#1 ++ x0 ++ x1 ++ x2 ++ x3 ++ x4 ++ 0#1 := rfl
  have hm := congrArg (BitVec.extractLsb' 26 6) e
  have h0 := congrArg (BitVec.extractLsb' 25 1) e
  have h1 := congrArg (BitVec.extractLsb' 0 1) e
  have h2 := congrArg (BitVec.extractLsb' 13 12) e
  have h3 := congrArg (BitVec.extractLsb' 10 3) e
  have h4 := congrArg (BitVec.extractLsb' 9 1) e
  have h5 := congrArg (BitVec.extractLsb' 5 4) e
  have h6 := congrArg (BitVec.extractLsb' 1 4) e
  simp (disch := decide) only [fieldAbove, fieldBelow, Nat.reduceSub, fieldWhole] at hm h0 h1 h2 h3 h4 h5 h6
  generalize encode (.pfxTag x0 x1 x2 x3 x4) = w at hm h0 h1 h2 h3 h4 h5 h6 ⊢
  refine decode_major 30#6 hm rfl rfl rawWord_1E ?_ h
  unfold raw1E
  rw [h0, h1, h2, h3, h4, h5, h6]
  rfl

theorem rep (x0 : BitVec 4) (x1 : BitVec 8) (x2 : BitVec 4) : Statement (.rep x0 x1 x2) := by
  intro _ h
  have e : encode (.rep x0 x1 x2) = 31#6 ++ x0 ++ x1 ++ x2 ++ 0#10 := rfl
  have hm := congrArg (BitVec.extractLsb' 26 6) e
  have h0 := congrArg (BitVec.extractLsb' 0 10) e
  have h1 := congrArg (BitVec.extractLsb' 22 4) e
  have h2 := congrArg (BitVec.extractLsb' 14 8) e
  have h3 := congrArg (BitVec.extractLsb' 10 4) e
  simp (disch := decide) only [fieldAbove, fieldBelow, Nat.reduceSub, fieldWhole] at hm h0 h1 h2 h3
  generalize encode (.rep x0 x1 x2) = w at hm h0 h1 h2 h3 ⊢
  refine decode_major 31#6 hm rfl rfl rawWord_1F ?_ h
  unfold raw1F
  rw [h0, h1, h2, h3]
  rfl

theorem mbal (x0 : BitVec 5) (x1 : BitVec 5) (x2 : BitVec 2) : Statement (.mbal x0 x1 x2) := by
  intro _ h
  have e : encode (.mbal x0 x1 x2) = 42#6 ++ x0 ++ 0#5 ++ x1 ++ 0#3 ++ x2 ++ 0#6 := rfl
  have hm := congrArg (BitVec.extractLsb' 26 6) e
  have h0 := congrArg (BitVec.extractLsb' 0 6) e
  have h1 := congrArg (BitVec.extractLsb' 16 5) e
  have h2 := congrArg (BitVec.extractLsb' 8 3) e
  have h3 := congrArg (BitVec.extractLsb' 21 5) e
  have h4 := congrArg (BitVec.extractLsb' 11 5) e
  have h5 := congrArg (BitVec.extractLsb' 6 2) e
  simp (disch := decide) only [fieldAbove, fieldBelow, Nat.reduceSub, fieldWhole] at hm h0 h1 h2 h3 h4 h5
  generalize encode (.mbal x0 x1 x2) = w at hm h0 h1 h2 h3 h4 h5 ⊢
  refine decode_major 42#6 hm rfl rfl rawWord_2A ?_ h
  unfold raw2A
  rw [h0, h1, h2, h3, h4, h5]
  rfl

theorem muse (x0 : BitVec 5) (x1 : BitVec 5) : Statement (.muse x0 x1) := by
  intro _ h
  have e : encode (.muse x0 x1) = 42#6 ++ x0 ++ 0#5 ++ x1 ++ 0#5 ++ 1#6 := rfl
  have hm := congrArg (BitVec.extractLsb' 26 6) e
  have h0 := congrArg (BitVec.extractLsb' 0 6) e
  have h1 := congrArg (BitVec.extractLsb' 16 5) e
  have h2 := congrArg (BitVec.extractLsb' 8 3) e
  have h3 := congrArg (BitVec.extractLsb' 6 5) e
  have h4 := congrArg (BitVec.extractLsb' 21 5) e
  have h5 := congrArg (BitVec.extractLsb' 11 5) e
  simp (disch := decide) only [fieldAbove, fieldBelow, Nat.reduceSub, fieldWhole] at hm h0 h1 h2 h3 h4 h5
  generalize encode (.muse x0 x1) = w at hm h0 h1 h2 h3 h4 h5 ⊢
  refine decode_major 42#6 hm rfl rfl rawWord_2A ?_ h
  unfold raw2A
  rw [h0, h1, h2, h3, h4, h5]
  rfl

theorem mqsetRate (x0 : BitVec 5) (x1 : BitVec 5) (x2 : BitVec 5) : Statement (.mqsetRate x0 x1 x2) := by
  intro _ h
  have e : encode (.mqsetRate x0 x1 x2) = 42#6 ++ x0 ++ x1 ++ x2 ++ 0#5 ++ 2#6 := rfl
  have hm := congrArg (BitVec.extractLsb' 26 6) e
  have h0 := congrArg (BitVec.extractLsb' 0 6) e
  have h1 := congrArg (BitVec.extractLsb' 16 5) e
  have h2 := congrArg (BitVec.extractLsb' 8 3) e
  have h3 := congrArg (BitVec.extractLsb' 6 5) e
  have h4 := congrArg (BitVec.extractLsb' 21 5) e
  have h5 := congrArg (BitVec.extractLsb' 11 5) e
  simp (disch := decide) only [fieldAbove, fieldBelow, Nat.reduceSub, fieldWhole] at hm h0 h1 h2 h3 h4 h5
  generalize encode (.mqsetRate x0 x1 x2) = w at hm h0 h1 h2 h3 h4 h5 ⊢
  refine decode_major 42#6 hm rfl rfl rawWord_2A ?_ h
  unfold raw2A
  rw [h0, h1, h2, h3, h4, h5]
  rfl

theorem mqsetCap (x0 : BitVec 5) (x1 : BitVec 5) (x2 : BitVec 5) : Statement (.mqsetCap x0 x1 x2) := by
  intro _ h
  have e : encode (.mqsetCap x0 x1 x2) = 42#6 ++ x0 ++ x1 ++ x2 ++ 1#5 ++ 2#6 := rfl
  have hm := congrArg (BitVec.extractLsb' 26 6) e
  have h0 := congrArg (BitVec.extractLsb' 0 6) e
  have h1 := congrArg (BitVec.extractLsb' 16 5) e
  have h2 := congrArg (BitVec.extractLsb' 8 3) e
  have h3 := congrArg (BitVec.extractLsb' 6 5) e
  have h4 := congrArg (BitVec.extractLsb' 21 5) e
  have h5 := congrArg (BitVec.extractLsb' 11 5) e
  simp (disch := decide) only [fieldAbove, fieldBelow, Nat.reduceSub, fieldWhole] at hm h0 h1 h2 h3 h4 h5
  generalize encode (.mqsetCap x0 x1 x2) = w at hm h0 h1 h2 h3 h4 h5 ⊢
  refine decode_major 42#6 hm rfl rfl rawWord_2A ?_ h
  unfold raw2A
  rw [h0, h1, h2, h3, h4, h5]
  rfl

theorem mqsetDeposit (x0 : BitVec 5) (x1 : BitVec 5) (x2 : BitVec 5) : Statement (.mqsetDeposit x0 x1 x2) := by
  intro _ h
  have e : encode (.mqsetDeposit x0 x1 x2) = 42#6 ++ x0 ++ x1 ++ x2 ++ 2#5 ++ 2#6 := rfl
  have hm := congrArg (BitVec.extractLsb' 26 6) e
  have h0 := congrArg (BitVec.extractLsb' 0 6) e
  have h1 := congrArg (BitVec.extractLsb' 16 5) e
  have h2 := congrArg (BitVec.extractLsb' 8 3) e
  have h3 := congrArg (BitVec.extractLsb' 6 5) e
  have h4 := congrArg (BitVec.extractLsb' 21 5) e
  have h5 := congrArg (BitVec.extractLsb' 11 5) e
  simp (disch := decide) only [fieldAbove, fieldBelow, Nat.reduceSub, fieldWhole] at hm h0 h1 h2 h3 h4 h5
  generalize encode (.mqsetDeposit x0 x1 x2) = w at hm h0 h1 h2 h3 h4 h5 ⊢
  refine decode_major 42#6 hm rfl rfl rawWord_2A ?_ h
  unfold raw2A
  rw [h0, h1, h2, h3, h4, h5]
  rfl

theorem mqsetLimrate (x0 : BitVec 5) (x1 : BitVec 5) (x2 : BitVec 5) : Statement (.mqsetLimrate x0 x1 x2) := by
  intro _ h
  have e : encode (.mqsetLimrate x0 x1 x2) = 42#6 ++ x0 ++ x1 ++ x2 ++ 3#5 ++ 2#6 := rfl
  have hm := congrArg (BitVec.extractLsb' 26 6) e
  have h0 := congrArg (BitVec.extractLsb' 0 6) e
  have h1 := congrArg (BitVec.extractLsb' 16 5) e
  have h2 := congrArg (BitVec.extractLsb' 8 3) e
  have h3 := congrArg (BitVec.extractLsb' 6 5) e
  have h4 := congrArg (BitVec.extractLsb' 21 5) e
  have h5 := congrArg (BitVec.extractLsb' 11 5) e
  simp (disch := decide) only [fieldAbove, fieldBelow, Nat.reduceSub, fieldWhole] at hm h0 h1 h2 h3 h4 h5
  generalize encode (.mqsetLimrate x0 x1 x2) = w at hm h0 h1 h2 h3 h4 h5 ⊢
  refine decode_major 42#6 hm rfl rfl rawWord_2A ?_ h
  unfold raw2A
  rw [h0, h1, h2, h3, h4, h5]
  rfl

theorem mqsetLimcap (x0 : BitVec 5) (x1 : BitVec 5) (x2 : BitVec 5) : Statement (.mqsetLimcap x0 x1 x2) := by
  intro _ h
  have e : encode (.mqsetLimcap x0 x1 x2) = 42#6 ++ x0 ++ x1 ++ x2 ++ 4#5 ++ 2#6 := rfl
  have hm := congrArg (BitVec.extractLsb' 26 6) e
  have h0 := congrArg (BitVec.extractLsb' 0 6) e
  have h1 := congrArg (BitVec.extractLsb' 16 5) e
  have h2 := congrArg (BitVec.extractLsb' 8 3) e
  have h3 := congrArg (BitVec.extractLsb' 6 5) e
  have h4 := congrArg (BitVec.extractLsb' 21 5) e
  have h5 := congrArg (BitVec.extractLsb' 11 5) e
  simp (disch := decide) only [fieldAbove, fieldBelow, Nat.reduceSub, fieldWhole] at hm h0 h1 h2 h3 h4 h5
  generalize encode (.mqsetLimcap x0 x1 x2) = w at hm h0 h1 h2 h3 h4 h5 ⊢
  refine decode_major 42#6 hm rfl rfl rawWord_2A ?_ h
  unfold raw2A
  rw [h0, h1, h2, h3, h4, h5]
  rfl

theorem mqsetUnl (x0 : BitVec 5) (x1 : BitVec 5) (x2 : BitVec 5) : Statement (.mqsetUnl x0 x1 x2) := by
  intro _ h
  have e : encode (.mqsetUnl x0 x1 x2) = 42#6 ++ x0 ++ x1 ++ x2 ++ 5#5 ++ 2#6 := rfl
  have hm := congrArg (BitVec.extractLsb' 26 6) e
  have h0 := congrArg (BitVec.extractLsb' 0 6) e
  have h1 := congrArg (BitVec.extractLsb' 16 5) e
  have h2 := congrArg (BitVec.extractLsb' 8 3) e
  have h3 := congrArg (BitVec.extractLsb' 6 5) e
  have h4 := congrArg (BitVec.extractLsb' 21 5) e
  have h5 := congrArg (BitVec.extractLsb' 11 5) e
  simp (disch := decide) only [fieldAbove, fieldBelow, Nat.reduceSub, fieldWhole] at hm h0 h1 h2 h3 h4 h5
  generalize encode (.mqsetUnl x0 x1 x2) = w at hm h0 h1 h2 h3 h4 h5 ⊢
  refine decode_major 42#6 hm rfl rfl rawWord_2A ?_ h
  unfold raw2A
  rw [h0, h1, h2, h3, h4, h5]
  rfl

theorem msplit (x0 : BitVec 5) (x1 : BitVec 5) : Statement (.msplit x0 x1) := by
  intro _ h
  have e : encode (.msplit x0 x1) = 42#6 ++ x0 ++ 0#5 ++ x1 ++ 0#5 ++ 3#6 := rfl
  have hm := congrArg (BitVec.extractLsb' 26 6) e
  have h0 := congrArg (BitVec.extractLsb' 0 6) e
  have h1 := congrArg (BitVec.extractLsb' 16 5) e
  have h2 := congrArg (BitVec.extractLsb' 8 3) e
  have h3 := congrArg (BitVec.extractLsb' 6 5) e
  have h4 := congrArg (BitVec.extractLsb' 21 5) e
  have h5 := congrArg (BitVec.extractLsb' 11 5) e
  simp (disch := decide) only [fieldAbove, fieldBelow, Nat.reduceSub, fieldWhole] at hm h0 h1 h2 h3 h4 h5
  generalize encode (.msplit x0 x1) = w at hm h0 h1 h2 h3 h4 h5 ⊢
  refine decode_major 42#6 hm rfl rfl rawWord_2A ?_ h
  unfold raw2A
  rw [h0, h1, h2, h3, h4, h5]
  rfl

theorem msplitSet (x0 : BitVec 5) (x1 : BitVec 5) : Statement (.msplitSet x0 x1) := by
  intro _ h
  have e : encode (.msplitSet x0 x1) = 42#6 ++ x0 ++ 0#5 ++ x1 ++ 1#5 ++ 3#6 := rfl
  have hm := congrArg (BitVec.extractLsb' 26 6) e
  have h0 := congrArg (BitVec.extractLsb' 0 6) e
  have h1 := congrArg (BitVec.extractLsb' 16 5) e
  have h2 := congrArg (BitVec.extractLsb' 8 3) e
  have h3 := congrArg (BitVec.extractLsb' 6 5) e
  have h4 := congrArg (BitVec.extractLsb' 21 5) e
  have h5 := congrArg (BitVec.extractLsb' 11 5) e
  simp (disch := decide) only [fieldAbove, fieldBelow, Nat.reduceSub, fieldWhole] at hm h0 h1 h2 h3 h4 h5
  generalize encode (.msplitSet x0 x1) = w at hm h0 h1 h2 h3 h4 h5 ⊢
  refine decode_major 42#6 hm rfl rfl rawWord_2A ?_ h
  unfold raw2A
  rw [h0, h1, h2, h3, h4, h5]
  rfl

theorem mfloor (x0 : BitVec 5) (x1 : BitVec 5) (x2 : BitVec 5) : Statement (.mfloor x0 x1 x2) := by
  intro _ h
  have e : encode (.mfloor x0 x1 x2) = 42#6 ++ x0 ++ x1 ++ x2 ++ 0#5 ++ 4#6 := rfl
  have hm := congrArg (BitVec.extractLsb' 26 6) e
  have h0 := congrArg (BitVec.extractLsb' 0 6) e
  have h1 := congrArg (BitVec.extractLsb' 16 5) e
  have h2 := congrArg (BitVec.extractLsb' 8 3) e
  have h3 := congrArg (BitVec.extractLsb' 6 5) e
  have h4 := congrArg (BitVec.extractLsb' 21 5) e
  have h5 := congrArg (BitVec.extractLsb' 11 5) e
  simp (disch := decide) only [fieldAbove, fieldBelow, Nat.reduceSub, fieldWhole] at hm h0 h1 h2 h3 h4 h5
  generalize encode (.mfloor x0 x1 x2) = w at hm h0 h1 h2 h3 h4 h5 ⊢
  refine decode_major 42#6 hm rfl rfl rawWord_2A ?_ h
  unfold raw2A
  rw [h0, h1, h2, h3, h4, h5]
  rfl

theorem mfloorSet (x0 : BitVec 5) (x1 : BitVec 5) (x2 : BitVec 5) : Statement (.mfloorSet x0 x1 x2) := by
  intro _ h
  have e : encode (.mfloorSet x0 x1 x2) = 42#6 ++ x0 ++ x1 ++ x2 ++ 1#5 ++ 4#6 := rfl
  have hm := congrArg (BitVec.extractLsb' 26 6) e
  have h0 := congrArg (BitVec.extractLsb' 0 6) e
  have h1 := congrArg (BitVec.extractLsb' 16 5) e
  have h2 := congrArg (BitVec.extractLsb' 8 3) e
  have h3 := congrArg (BitVec.extractLsb' 6 5) e
  have h4 := congrArg (BitVec.extractLsb' 21 5) e
  have h5 := congrArg (BitVec.extractLsb' 11 5) e
  simp (disch := decide) only [fieldAbove, fieldBelow, Nat.reduceSub, fieldWhole] at hm h0 h1 h2 h3 h4 h5
  generalize encode (.mfloorSet x0 x1 x2) = w at hm h0 h1 h2 h3 h4 h5 ⊢
  refine decode_major 42#6 hm rfl rfl rawWord_2A ?_ h
  unfold raw2A
  rw [h0, h1, h2, h3, h4, h5]
  rfl

theorem ocal (x0 : BitVec 5) (x1 : BitVec 5) : Statement (.ocal x0 x1) := by
  intro _ h
  have e : encode (.ocal x0 x1) = 43#6 ++ x0 ++ 0#5 ++ x1 ++ 0#5 ++ 0#6 := rfl
  have hm := congrArg (BitVec.extractLsb' 26 6) e
  have h0 := congrArg (BitVec.extractLsb' 0 6) e
  have h1 := congrArg (BitVec.extractLsb' 16 5) e
  have h2 := congrArg (BitVec.extractLsb' 6 5) e
  have h3 := congrArg (BitVec.extractLsb' 21 5) e
  have h4 := congrArg (BitVec.extractLsb' 11 5) e
  simp (disch := decide) only [fieldAbove, fieldBelow, Nat.reduceSub, fieldWhole] at hm h0 h1 h2 h3 h4
  generalize encode (.ocal x0 x1) = w at hm h0 h1 h2 h3 h4 ⊢
  refine decode_major 43#6 hm rfl rfl rawWord_2B ?_ h
  unfold raw2B
  rw [h0, h1, h2, h3, h4]
  rfl

theorem onext (x0 : BitVec 5) (x1 : BitVec 5) : Statement (.onext x0 x1) := by
  intro _ h
  have e : encode (.onext x0 x1) = 43#6 ++ x0 ++ 0#5 ++ x1 ++ 0#5 ++ 1#6 := rfl
  have hm := congrArg (BitVec.extractLsb' 26 6) e
  have h0 := congrArg (BitVec.extractLsb' 0 6) e
  have h1 := congrArg (BitVec.extractLsb' 16 5) e
  have h2 := congrArg (BitVec.extractLsb' 6 5) e
  have h3 := congrArg (BitVec.extractLsb' 21 5) e
  have h4 := congrArg (BitVec.extractLsb' 11 5) e
  simp (disch := decide) only [fieldAbove, fieldBelow, Nat.reduceSub, fieldWhole] at hm h0 h1 h2 h3 h4
  generalize encode (.onext x0 x1) = w at hm h0 h1 h2 h3 h4 ⊢
  refine decode_major 43#6 hm rfl rfl rawWord_2B ?_ h
  unfold raw2B
  rw [h0, h1, h2, h3, h4]
  rfl

theorem opol (x0 : BitVec 5) (x1 : BitVec 5) : Statement (.opol x0 x1) := by
  intro _ h
  have e : encode (.opol x0 x1) = 43#6 ++ x0 ++ 0#5 ++ x1 ++ 0#5 ++ 2#6 := rfl
  have hm := congrArg (BitVec.extractLsb' 26 6) e
  have h0 := congrArg (BitVec.extractLsb' 0 6) e
  have h1 := congrArg (BitVec.extractLsb' 16 5) e
  have h2 := congrArg (BitVec.extractLsb' 6 5) e
  have h3 := congrArg (BitVec.extractLsb' 21 5) e
  have h4 := congrArg (BitVec.extractLsb' 11 5) e
  simp (disch := decide) only [fieldAbove, fieldBelow, Nat.reduceSub, fieldWhole] at hm h0 h1 h2 h3 h4
  generalize encode (.opol x0 x1) = w at hm h0 h1 h2 h3 h4 ⊢
  refine decode_major 43#6 hm rfl rfl rawWord_2B ?_ h
  unfold raw2B
  rw [h0, h1, h2, h3, h4]
  rfl

theorem opolSet (x0 : BitVec 5) (x1 : BitVec 5) : Statement (.opolSet x0 x1) := by
  intro _ h
  have e : encode (.opolSet x0 x1) = 43#6 ++ x0 ++ 0#5 ++ x1 ++ 1#5 ++ 2#6 := rfl
  have hm := congrArg (BitVec.extractLsb' 26 6) e
  have h0 := congrArg (BitVec.extractLsb' 0 6) e
  have h1 := congrArg (BitVec.extractLsb' 16 5) e
  have h2 := congrArg (BitVec.extractLsb' 6 5) e
  have h3 := congrArg (BitVec.extractLsb' 21 5) e
  have h4 := congrArg (BitVec.extractLsb' 11 5) e
  simp (disch := decide) only [fieldAbove, fieldBelow, Nat.reduceSub, fieldWhole] at hm h0 h1 h2 h3 h4
  generalize encode (.opolSet x0 x1) = w at hm h0 h1 h2 h3 h4 ⊢
  refine decode_major 43#6 hm rfl rfl rawWord_2B ?_ h
  unfold raw2B
  rw [h0, h1, h2, h3, h4]
  rfl

theorem ostat (x0 : BitVec 5) (x1 : BitVec 5) : Statement (.ostat x0 x1) := by
  intro _ h
  have e : encode (.ostat x0 x1) = 43#6 ++ x0 ++ 0#5 ++ x1 ++ 0#5 ++ 3#6 := rfl
  have hm := congrArg (BitVec.extractLsb' 26 6) e
  have h0 := congrArg (BitVec.extractLsb' 0 6) e
  have h1 := congrArg (BitVec.extractLsb' 16 5) e
  have h2 := congrArg (BitVec.extractLsb' 6 5) e
  have h3 := congrArg (BitVec.extractLsb' 21 5) e
  have h4 := congrArg (BitVec.extractLsb' 11 5) e
  simp (disch := decide) only [fieldAbove, fieldBelow, Nat.reduceSub, fieldWhole] at hm h0 h1 h2 h3 h4
  generalize encode (.ostat x0 x1) = w at hm h0 h1 h2 h3 h4 ⊢
  refine decode_major 43#6 hm rfl rfl rawWord_2B ?_ h
  unfold raw2B
  rw [h0, h1, h2, h3, h4]
  rfl

theorem dlaunch (x0 : BitVec 5) (x1 : BitVec 5) (x2 : BitVec 5) : Statement (.dlaunch x0 x1 x2) := by
  intro _ h
  have e : encode (.dlaunch x0 x1 x2) = 45#6 ++ x0 ++ x1 ++ x2 ++ 0#5 ++ 0#6 := rfl
  have hm := congrArg (BitVec.extractLsb' 26 6) e
  have h0 := congrArg (BitVec.extractLsb' 0 6) e
  have h1 := congrArg (BitVec.extractLsb' 6 5) e
  have h2 := congrArg (BitVec.extractLsb' 21 5) e
  have h3 := congrArg (BitVec.extractLsb' 16 5) e
  have h4 := congrArg (BitVec.extractLsb' 11 5) e
  simp (disch := decide) only [fieldAbove, fieldBelow, Nat.reduceSub, fieldWhole] at hm h0 h1 h2 h3 h4
  generalize encode (.dlaunch x0 x1 x2) = w at hm h0 h1 h2 h3 h4 ⊢
  refine decode_major 45#6 hm rfl rfl rawWord_2D ?_ h
  unfold raw2D
  rw [h0, h1, h2, h3, h4]
  rfl

theorem migrMove (x0 : BitVec 5) (x1 : BitVec 5) (x2 : BitVec 5) : Statement (.migrMove x0 x1 x2) := by
  intro _ h
  have e : encode (.migrMove x0 x1 x2) = 45#6 ++ x0 ++ x1 ++ x2 ++ 0#5 ++ 1#6 := rfl
  have hm := congrArg (BitVec.extractLsb' 26 6) e
  have h0 := congrArg (BitVec.extractLsb' 0 6) e
  have h1 := congrArg (BitVec.extractLsb' 6 5) e
  have h2 := congrArg (BitVec.extractLsb' 21 5) e
  have h3 := congrArg (BitVec.extractLsb' 16 5) e
  have h4 := congrArg (BitVec.extractLsb' 11 5) e
  simp (disch := decide) only [fieldAbove, fieldBelow, Nat.reduceSub, fieldWhole] at hm h0 h1 h2 h3 h4
  generalize encode (.migrMove x0 x1 x2) = w at hm h0 h1 h2 h3 h4 ⊢
  refine decode_major 45#6 hm rfl rfl rawWord_2D ?_ h
  unfold raw2D
  rw [h0, h1, h2, h3, h4]
  rfl

theorem migrHome (x0 : BitVec 5) (x1 : BitVec 5) (x2 : BitVec 5) : Statement (.migrHome x0 x1 x2) := by
  intro _ h
  have e : encode (.migrHome x0 x1 x2) = 45#6 ++ x0 ++ x1 ++ x2 ++ 0#5 ++ 1#6 := rfl
  have hm := congrArg (BitVec.extractLsb' 26 6) e
  have h0 := congrArg (BitVec.extractLsb' 0 6) e
  have h1 := congrArg (BitVec.extractLsb' 6 5) e
  have h2 := congrArg (BitVec.extractLsb' 21 5) e
  have h3 := congrArg (BitVec.extractLsb' 16 5) e
  have h4 := congrArg (BitVec.extractLsb' 11 5) e
  simp (disch := decide) only [fieldAbove, fieldBelow, Nat.reduceSub, fieldWhole] at hm h0 h1 h2 h3 h4
  generalize encode (.migrHome x0 x1 x2) = w at hm h0 h1 h2 h3 h4 ⊢
  refine decode_major 45#6 hm rfl rfl rawWord_2D ?_ h
  unfold raw2D
  rw [h0, h1, h2, h3, h4]
  rfl

theorem migrEvict (x0 : BitVec 5) (x1 : BitVec 5) (x2 : BitVec 5) : Statement (.migrEvict x0 x1 x2) := by
  intro _ h
  have e : encode (.migrEvict x0 x1 x2) = 45#6 ++ x0 ++ x1 ++ x2 ++ 0#5 ++ 1#6 := rfl
  have hm := congrArg (BitVec.extractLsb' 26 6) e
  have h0 := congrArg (BitVec.extractLsb' 0 6) e
  have h1 := congrArg (BitVec.extractLsb' 6 5) e
  have h2 := congrArg (BitVec.extractLsb' 21 5) e
  have h3 := congrArg (BitVec.extractLsb' 16 5) e
  have h4 := congrArg (BitVec.extractLsb' 11 5) e
  simp (disch := decide) only [fieldAbove, fieldBelow, Nat.reduceSub, fieldWhole] at hm h0 h1 h2 h3 h4
  generalize encode (.migrEvict x0 x1 x2) = w at hm h0 h1 h2 h3 h4 ⊢
  refine decode_major 45#6 hm rfl rfl rawWord_2D ?_ h
  unfold raw2D
  rw [h0, h1, h2, h3, h4]
  rfl

theorem migrResume (x0 : BitVec 5) (x1 : BitVec 5) (x2 : BitVec 5) : Statement (.migrResume x0 x1 x2) := by
  intro _ h
  have e : encode (.migrResume x0 x1 x2) = 45#6 ++ x0 ++ x1 ++ x2 ++ 0#5 ++ 1#6 := rfl
  have hm := congrArg (BitVec.extractLsb' 26 6) e
  have h0 := congrArg (BitVec.extractLsb' 0 6) e
  have h1 := congrArg (BitVec.extractLsb' 6 5) e
  have h2 := congrArg (BitVec.extractLsb' 21 5) e
  have h3 := congrArg (BitVec.extractLsb' 16 5) e
  have h4 := congrArg (BitVec.extractLsb' 11 5) e
  simp (disch := decide) only [fieldAbove, fieldBelow, Nat.reduceSub, fieldWhole] at hm h0 h1 h2 h3 h4
  generalize encode (.migrResume x0 x1 x2) = w at hm h0 h1 h2 h3 h4 ⊢
  refine decode_major 45#6 hm rfl rfl rawWord_2D ?_ h
  unfold raw2D
  rw [h0, h1, h2, h3, h4]
  rfl

theorem vfctlReadField (x0 : BitVec 5) (x1 : BitVec 5) (x2 : BitVec 5) : Statement (.vfctlReadField x0 x1 x2) := by
  intro _ h
  have e : encode (.vfctlReadField x0 x1 x2) = 45#6 ++ x0 ++ x1 ++ x2 ++ 0#5 ++ 2#6 := rfl
  have hm := congrArg (BitVec.extractLsb' 26 6) e
  have h0 := congrArg (BitVec.extractLsb' 0 6) e
  have h1 := congrArg (BitVec.extractLsb' 6 5) e
  have h2 := congrArg (BitVec.extractLsb' 21 5) e
  have h3 := congrArg (BitVec.extractLsb' 16 5) e
  have h4 := congrArg (BitVec.extractLsb' 11 5) e
  simp (disch := decide) only [fieldAbove, fieldBelow, Nat.reduceSub, fieldWhole] at hm h0 h1 h2 h3 h4
  generalize encode (.vfctlReadField x0 x1 x2) = w at hm h0 h1 h2 h3 h4 ⊢
  refine decode_major 45#6 hm rfl rfl rawWord_2D ?_ h
  unfold raw2D
  rw [h0, h1, h2, h3, h4]
  rfl

theorem vfctlWriteField (x0 : BitVec 5) (x1 : BitVec 5) (x2 : BitVec 5) : Statement (.vfctlWriteField x0 x1 x2) := by
  intro _ h
  have e : encode (.vfctlWriteField x0 x1 x2) = 45#6 ++ x0 ++ x1 ++ x2 ++ 0#5 ++ 2#6 := rfl
  have hm := congrArg (BitVec.extractLsb' 26 6) e
  have h0 := congrArg (BitVec.extractLsb' 0 6) e
  have h1 := congrArg (BitVec.extractLsb' 6 5) e
  have h2 := congrArg (BitVec.extractLsb' 21 5) e
  have h3 := congrArg (BitVec.extractLsb' 16 5) e
  have h4 := congrArg (BitVec.extractLsb' 11 5) e
  simp (disch := decide) only [fieldAbove, fieldBelow, Nat.reduceSub, fieldWhole] at hm h0 h1 h2 h3 h4
  generalize encode (.vfctlWriteField x0 x1 x2) = w at hm h0 h1 h2 h3 h4 ⊢
  refine decode_major 45#6 hm rfl rfl rawWord_2D ?_ h
  unfold raw2D
  rw [h0, h1, h2, h3, h4]
  rfl

theorem vfctlCreate (x0 : BitVec 5) (x1 : BitVec 5) (x2 : BitVec 5) : Statement (.vfctlCreate x0 x1 x2) := by
  intro _ h
  have e : encode (.vfctlCreate x0 x1 x2) = 45#6 ++ x0 ++ x1 ++ x2 ++ 0#5 ++ 2#6 := rfl
  have hm := congrArg (BitVec.extractLsb' 26 6) e
  have h0 := congrArg (BitVec.extractLsb' 0 6) e
  have h1 := congrArg (BitVec.extractLsb' 6 5) e
  have h2 := congrArg (BitVec.extractLsb' 21 5) e
  have h3 := congrArg (BitVec.extractLsb' 16 5) e
  have h4 := congrArg (BitVec.extractLsb' 11 5) e
  simp (disch := decide) only [fieldAbove, fieldBelow, Nat.reduceSub, fieldWhole] at hm h0 h1 h2 h3 h4
  generalize encode (.vfctlCreate x0 x1 x2) = w at hm h0 h1 h2 h3 h4 ⊢
  refine decode_major 45#6 hm rfl rfl rawWord_2D ?_ h
  unfold raw2D
  rw [h0, h1, h2, h3, h4]
  rfl

theorem vfctlDestroy (x0 : BitVec 5) (x1 : BitVec 5) (x2 : BitVec 5) : Statement (.vfctlDestroy x0 x1 x2) := by
  intro _ h
  have e : encode (.vfctlDestroy x0 x1 x2) = 45#6 ++ x0 ++ x1 ++ x2 ++ 0#5 ++ 2#6 := rfl
  have hm := congrArg (BitVec.extractLsb' 26 6) e
  have h0 := congrArg (BitVec.extractLsb' 0 6) e
  have h1 := congrArg (BitVec.extractLsb' 6 5) e
  have h2 := congrArg (BitVec.extractLsb' 21 5) e
  have h3 := congrArg (BitVec.extractLsb' 16 5) e
  have h4 := congrArg (BitVec.extractLsb' 11 5) e
  simp (disch := decide) only [fieldAbove, fieldBelow, Nat.reduceSub, fieldWhole] at hm h0 h1 h2 h3 h4
  generalize encode (.vfctlDestroy x0 x1 x2) = w at hm h0 h1 h2 h3 h4 ⊢
  refine decode_major 45#6 hm rfl rfl rawWord_2D ?_ h
  unfold raw2D
  rw [h0, h1, h2, h3, h4]
  rfl

theorem vfctlInval (x0 : BitVec 5) (x1 : BitVec 5) (x2 : BitVec 5) : Statement (.vfctlInval x0 x1 x2) := by
  intro _ h
  have e : encode (.vfctlInval x0 x1 x2) = 45#6 ++ x0 ++ x1 ++ x2 ++ 0#5 ++ 2#6 := rfl
  have hm := congrArg (BitVec.extractLsb' 26 6) e
  have h0 := congrArg (BitVec.extractLsb' 0 6) e
  have h1 := congrArg (BitVec.extractLsb' 6 5) e
  have h2 := congrArg (BitVec.extractLsb' 21 5) e
  have h3 := congrArg (BitVec.extractLsb' 16 5) e
  have h4 := congrArg (BitVec.extractLsb' 11 5) e
  simp (disch := decide) only [fieldAbove, fieldBelow, Nat.reduceSub, fieldWhole] at hm h0 h1 h2 h3 h4
  generalize encode (.vfctlInval x0 x1 x2) = w at hm h0 h1 h2 h3 h4 ⊢
  refine decode_major 45#6 hm rfl rfl rawWord_2D ?_ h
  unfold raw2D
  rw [h0, h1, h2, h3, h4]
  rfl

theorem vfctlWake (x0 : BitVec 5) (x1 : BitVec 5) (x2 : BitVec 5) : Statement (.vfctlWake x0 x1 x2) := by
  intro _ h
  have e : encode (.vfctlWake x0 x1 x2) = 45#6 ++ x0 ++ x1 ++ x2 ++ 0#5 ++ 2#6 := rfl
  have hm := congrArg (BitVec.extractLsb' 26 6) e
  have h0 := congrArg (BitVec.extractLsb' 0 6) e
  have h1 := congrArg (BitVec.extractLsb' 6 5) e
  have h2 := congrArg (BitVec.extractLsb' 21 5) e
  have h3 := congrArg (BitVec.extractLsb' 16 5) e
  have h4 := congrArg (BitVec.extractLsb' 11 5) e
  simp (disch := decide) only [fieldAbove, fieldBelow, Nat.reduceSub, fieldWhole] at hm h0 h1 h2 h3 h4
  generalize encode (.vfctlWake x0 x1 x2) = w at hm h0 h1 h2 h3 h4 ⊢
  refine decode_major 45#6 hm rfl rfl rawWord_2D ?_ h
  unfold raw2D
  rw [h0, h1, h2, h3, h4]
  rfl

theorem vfctlRefuse (x0 : BitVec 5) (x1 : BitVec 5) (x2 : BitVec 5) : Statement (.vfctlRefuse x0 x1 x2) := by
  intro _ h
  have e : encode (.vfctlRefuse x0 x1 x2) = 45#6 ++ x0 ++ x1 ++ x2 ++ 0#5 ++ 2#6 := rfl
  have hm := congrArg (BitVec.extractLsb' 26 6) e
  have h0 := congrArg (BitVec.extractLsb' 0 6) e
  have h1 := congrArg (BitVec.extractLsb' 6 5) e
  have h2 := congrArg (BitVec.extractLsb' 21 5) e
  have h3 := congrArg (BitVec.extractLsb' 16 5) e
  have h4 := congrArg (BitVec.extractLsb' 11 5) e
  simp (disch := decide) only [fieldAbove, fieldBelow, Nat.reduceSub, fieldWhole] at hm h0 h1 h2 h3 h4
  generalize encode (.vfctlRefuse x0 x1 x2) = w at hm h0 h1 h2 h3 h4 ⊢
  refine decode_major 45#6 hm rfl rfl rawWord_2D ?_ h
  unfold raw2D
  rw [h0, h1, h2, h3, h4]
  rfl

theorem rightsRead (x0 : BitVec 5) (x1 : BitVec 5) (x2 : BitVec 5) : Statement (.rightsRead x0 x1 x2) := by
  intro _ h
  have e : encode (.rightsRead x0 x1 x2) = 45#6 ++ x0 ++ x1 ++ x2 ++ 0#5 ++ 3#6 := rfl
  have hm := congrArg (BitVec.extractLsb' 26 6) e
  have h0 := congrArg (BitVec.extractLsb' 0 6) e
  have h1 := congrArg (BitVec.extractLsb' 6 5) e
  have h2 := congrArg (BitVec.extractLsb' 21 5) e
  have h3 := congrArg (BitVec.extractLsb' 16 5) e
  have h4 := congrArg (BitVec.extractLsb' 11 5) e
  simp (disch := decide) only [fieldAbove, fieldBelow, Nat.reduceSub, fieldWhole] at hm h0 h1 h2 h3 h4
  generalize encode (.rightsRead x0 x1 x2) = w at hm h0 h1 h2 h3 h4 ⊢
  refine decode_major 45#6 hm rfl rfl rawWord_2D ?_ h
  unfold raw2D
  rw [h0, h1, h2, h3, h4]
  rfl

theorem rightsGrant (x0 : BitVec 5) (x1 : BitVec 5) (x2 : BitVec 5) : Statement (.rightsGrant x0 x1 x2) := by
  intro _ h
  have e : encode (.rightsGrant x0 x1 x2) = 45#6 ++ x0 ++ x1 ++ x2 ++ 1#5 ++ 3#6 := rfl
  have hm := congrArg (BitVec.extractLsb' 26 6) e
  have h0 := congrArg (BitVec.extractLsb' 0 6) e
  have h1 := congrArg (BitVec.extractLsb' 6 5) e
  have h2 := congrArg (BitVec.extractLsb' 21 5) e
  have h3 := congrArg (BitVec.extractLsb' 16 5) e
  have h4 := congrArg (BitVec.extractLsb' 11 5) e
  simp (disch := decide) only [fieldAbove, fieldBelow, Nat.reduceSub, fieldWhole] at hm h0 h1 h2 h3 h4
  generalize encode (.rightsGrant x0 x1 x2) = w at hm h0 h1 h2 h3 h4 ⊢
  refine decode_major 45#6 hm rfl rfl rawWord_2D ?_ h
  unfold raw2D
  rw [h0, h1, h2, h3, h4]
  rfl

theorem rightsRevoke (x0 : BitVec 5) (x1 : BitVec 5) (x2 : BitVec 5) : Statement (.rightsRevoke x0 x1 x2) := by
  intro _ h
  have e : encode (.rightsRevoke x0 x1 x2) = 45#6 ++ x0 ++ x1 ++ x2 ++ 2#5 ++ 3#6 := rfl
  have hm := congrArg (BitVec.extractLsb' 26 6) e
  have h0 := congrArg (BitVec.extractLsb' 0 6) e
  have h1 := congrArg (BitVec.extractLsb' 6 5) e
  have h2 := congrArg (BitVec.extractLsb' 21 5) e
  have h3 := congrArg (BitVec.extractLsb' 16 5) e
  have h4 := congrArg (BitVec.extractLsb' 11 5) e
  simp (disch := decide) only [fieldAbove, fieldBelow, Nat.reduceSub, fieldWhole] at hm h0 h1 h2 h3 h4
  generalize encode (.rightsRevoke x0 x1 x2) = w at hm h0 h1 h2 h3 h4 ⊢
  refine decode_major 45#6 hm rfl rfl rawWord_2D ?_ h
  unfold raw2D
  rw [h0, h1, h2, h3, h4]
  rfl

theorem xacz : Statement .xacz := by
  intro _ h
  have e : encode .xacz = 56#6 ++ 0#15 ++ 1#9 ++ 1#2 := rfl
  have hm := congrArg (BitVec.extractLsb' 26 6) e
  have h0 := congrArg (BitVec.extractLsb' 0 2) e
  have h1 := congrArg (BitVec.extractLsb' 2 9) e
  have h2 := congrArg (BitVec.extractLsb' 11 10) e
  have h3 := congrArg (BitVec.extractLsb' 11 15) e
  simp (disch := decide) only [fieldAbove, fieldBelow, Nat.reduceSub, fieldWhole] at hm h0 h1 h2 h3
  generalize encode .xacz = w at hm h0 h1 h2 h3 ⊢
  refine decode_major 56#6 hm rfl rfl rawWord_38 ?_ h
  unfold raw38
  rw [h0, h1, h2, h3]
  rfl

theorem xret : Statement .xret := by
  intro _ h
  have e : encode .xret = 28#6 ++ 0#20 ++ 9#6 := rfl
  have hm := congrArg (BitVec.extractLsb' 26 6) e
  have h0 := congrArg (BitVec.extractLsb' 0 6) e
  have h1 := congrArg (BitVec.extractLsb' 16 5) e
  have h2 := congrArg (BitVec.extractLsb' 21 5) e
  have h3 := congrArg (BitVec.extractLsb' 11 5) e
  have h4 := congrArg (BitVec.extractLsb' 6 20) e
  simp (disch := decide) only [fieldAbove, fieldBelow, Nat.reduceSub, fieldWhole] at hm h0 h1 h2 h3 h4
  generalize encode .xret = w at hm h0 h1 h2 h3 h4 ⊢
  refine decode_major 28#6 hm rfl rfl rawWord_1C ?_ h
  unfold raw1C
  rw [h0, h1, h2, h3, h4]
  rfl

theorem texit : Statement .texit := by
  intro _ h
  have e : encode .texit = 28#6 ++ 0#20 ++ 11#6 := rfl
  have hm := congrArg (BitVec.extractLsb' 26 6) e
  have h0 := congrArg (BitVec.extractLsb' 0 6) e
  have h1 := congrArg (BitVec.extractLsb' 16 5) e
  have h2 := congrArg (BitVec.extractLsb' 21 5) e
  have h3 := congrArg (BitVec.extractLsb' 11 5) e
  have h4 := congrArg (BitVec.extractLsb' 6 20) e
  have h5 := congrArg (BitVec.extractLsb' 6 10) e
  simp (disch := decide) only [fieldAbove, fieldBelow, Nat.reduceSub, fieldWhole] at hm h0 h1 h2 h3 h4 h5
  generalize encode .texit = w at hm h0 h1 h2 h3 h4 h5 ⊢
  refine decode_major 28#6 hm rfl rfl rawWord_1C ?_ h
  unfold raw1C
  rw [h0, h1, h2, h3, h4, h5]
  rfl

theorem vshadow : Statement .vshadow := by
  intro _ h
  have e : encode .vshadow = 35#6 ++ 0#12 ++ 31#5 ++ 0#9 := rfl
  have hm := congrArg (BitVec.extractLsb' 26 6) e
  have h0 := congrArg (BitVec.extractLsb' 9 5) e
  have h1 := congrArg (BitVec.extractLsb' 14 3) e
  have h2 := congrArg (BitVec.extractLsb' 14 6) e
  have h3 := congrArg (BitVec.extractLsb' 0 6) e
  have h4 := congrArg (BitVec.extractLsb' 14 9) e
  have h5 := congrArg (BitVec.extractLsb' 0 2) e
  have h6 := congrArg (BitVec.extractLsb' 23 3) e
  have h7 := congrArg (BitVec.extractLsb' 0 1) e
  have h8 := congrArg (BitVec.extractLsb' 20 3) e
  have h9 := congrArg (BitVec.extractLsb' 17 3) e
  have h10 := congrArg (BitVec.extractLsb' 8 1) e
  have h11 := congrArg (BitVec.extractLsb' 0 4) e
  have h12 := congrArg (BitVec.extractLsb' 7 2) e
  have h13 := congrArg (BitVec.extractLsb' 0 9) e
  have h14 := congrArg (BitVec.extractLsb' 14 12) e
  simp (disch := decide) only [fieldAbove, fieldBelow, Nat.reduceSub, fieldWhole] at hm h0 h1 h2 h3 h4 h5 h6 h7 h8 h9 h10 h11 h12 h13 h14
  generalize encode .vshadow = w at hm h0 h1 h2 h3 h4 h5 h6 h7 h8 h9 h10 h11 h12 h13 h14 ⊢
  refine decode_major 35#6 hm rfl rfl rawWord_23 ?_ h
  unfold raw23
  rw [h0, h1, h2, h3, h4, h5, h6, h7, h8, h9, h10, h11, h12, h13, h14]
  rfl

theorem taccz : Statement .taccz := by
  intro _ h
  have e : encode .taccz = 36#6 ++ 0#20 ++ 11#6 := rfl
  have hm := congrArg (BitVec.extractLsb' 26 6) e
  have h0 := congrArg (BitVec.extractLsb' 0 6) e
  have h1 := congrArg (BitVec.extractLsb' 6 5) e
  have h2 := congrArg (BitVec.extractLsb' 16 10) e
  have h3 := congrArg (BitVec.extractLsb' 16 5) e
  have h4 := congrArg (BitVec.extractLsb' 6 10) e
  have h5 := congrArg (BitVec.extractLsb' 6 20) e
  simp (disch := decide) only [fieldAbove, fieldBelow, Nat.reduceSub, fieldWhole] at hm h0 h1 h2 h3 h4 h5
  generalize encode .taccz = w at hm h0 h1 h2 h3 h4 h5 ⊢
  refine decode_major 36#6 hm rfl rfl rawWord_24 ?_ h
  unfold raw24
  rw [h0, h1, h2, h3, h4, h5]
  rfl

theorem mcancel : Statement .mcancel := by
  intro _ h
  have e : encode .mcancel = 36#6 ++ 0#20 ++ 26#6 := rfl
  have hm := congrArg (BitVec.extractLsb' 26 6) e
  have h0 := congrArg (BitVec.extractLsb' 0 6) e
  have h1 := congrArg (BitVec.extractLsb' 6 5) e
  have h2 := congrArg (BitVec.extractLsb' 16 10) e
  have h3 := congrArg (BitVec.extractLsb' 16 5) e
  have h4 := congrArg (BitVec.extractLsb' 6 10) e
  have h5 := congrArg (BitVec.extractLsb' 6 20) e
  have h6 := congrArg (BitVec.extractLsb' 7 4) e
  have h7 := congrArg (BitVec.extractLsb' 6 15) e
  simp (disch := decide) only [fieldAbove, fieldBelow, Nat.reduceSub, fieldWhole] at hm h0 h1 h2 h3 h4 h5 h6 h7
  generalize encode .mcancel = w at hm h0 h1 h2 h3 h4 h5 h6 h7 ⊢
  refine decode_major 36#6 hm rfl rfl rawWord_24 ?_ h
  unfold raw24
  rw [h0, h1, h2, h3, h4, h5, h6, h7]
  rfl

theorem mcancelDrain : Statement .mcancelDrain := by
  intro _ h
  have e : encode .mcancelDrain = 36#6 ++ 1#20 ++ 26#6 := rfl
  have hm := congrArg (BitVec.extractLsb' 26 6) e
  have h0 := congrArg (BitVec.extractLsb' 0 6) e
  have h1 := congrArg (BitVec.extractLsb' 6 5) e
  have h2 := congrArg (BitVec.extractLsb' 16 10) e
  have h3 := congrArg (BitVec.extractLsb' 16 5) e
  have h4 := congrArg (BitVec.extractLsb' 6 10) e
  have h5 := congrArg (BitVec.extractLsb' 6 20) e
  have h6 := congrArg (BitVec.extractLsb' 7 4) e
  have h7 := congrArg (BitVec.extractLsb' 6 15) e
  simp (disch := decide) only [fieldAbove, fieldBelow, Nat.reduceSub, fieldWhole] at hm h0 h1 h2 h3 h4 h5 h6 h7
  generalize encode .mcancelDrain = w at hm h0 h1 h2 h3 h4 h5 h6 h7 ⊢
  refine decode_major 36#6 hm rfl rfl rawWord_24 ?_ h
  unfold raw24
  rw [h0, h1, h2, h3, h4, h5, h6, h7]
  rfl

theorem telemetry : Statement .telemetry := fun h => absurd h Bool.false_ne_true

theorem quotaRefill : Statement .quotaRefill := fun h => absurd h Bool.false_ne_true

theorem meterWindowClose : Statement .meterWindowClose := fun h => absurd h Bool.false_ne_true

theorem powerRecovery : Statement .powerRecovery := fun h => absurd h Bool.false_ne_true

theorem calendarSlotStart : Statement .calendarSlotStart := fun h => absurd h Bool.false_ne_true

theorem placementPass : Statement .placementPass := fun h => absurd h Bool.false_ne_true

theorem quoteComplete : Statement .quoteComplete := fun h => absurd h Bool.false_ne_true

theorem linkEnable : Statement .linkEnable := fun h => absurd h Bool.false_ne_true

theorem linkTrainDone : Statement .linkTrainDone := fun h => absurd h Bool.false_ne_true

theorem linkAlignDone : Statement .linkAlignDone := fun h => absurd h Bool.false_ne_true

theorem linkRetrain : Statement .linkRetrain := fun h => absurd h Bool.false_ne_true

theorem linkStateTimeout : Statement .linkStateTimeout := fun h => absurd h Bool.false_ne_true

theorem linkFailed : Statement .linkFailed := fun h => absurd h Bool.false_ne_true

theorem powerUp : Statement .powerUp := fun h => absurd h Bool.false_ne_true

theorem linkResetRetry : Statement .linkResetRetry := fun h => absurd h Bool.false_ne_true

end Sys2Proof.Laws.RoundTrip
end

