-- ==== Sys2Proof/Laws/State.lean ====
section
/-! SUPPORT. What each update of the state leaves as it was: one lemma per field and accessor. -/

namespace Sys2Proof.Machine

/-! ## setThr -/

@[simp] theorem setThr_cur (s : State) (t : Nat) (v : Thread) : (s.setThr t v).cur = s.cur := rfl

@[simp] theorem setThr_cursor (s : State) (t : Nat) (v : Thread) : (s.setThr t v).cursor = s.cursor := rfl

@[simp] theorem setThr_cycle (s : State) (t : Nat) (v : Thread) : (s.setThr t v).cycle = s.cycle := rfl

@[simp] theorem setThr_fresh (s : State) (t : Nat) (v : Thread) : (s.setThr t v).fresh = s.fresh := rfl

@[simp] theorem setThr_agenda (s : State) (t : Nat) (v : Thread) : (s.setThr t v).agenda = s.agenda := rfl

@[simp] theorem setThr_cores (s : State) (t : Nat) (v : Thread) : (s.setThr t v).cores = s.cores := rfl

@[simp] theorem setThr_quads (s : State) (t : Nat) (v : Thread) : (s.setThr t v).quads = s.quads := rfl

@[simp] theorem setThr_dies (s : State) (t : Nat) (v : Thread) : (s.setThr t v).dies = s.dies := rfl

@[simp] theorem setThr_odies (s : State) (t : Nat) (v : Thread) : (s.setThr t v).odies = s.odies := rfl

@[simp] theorem setThr_hbmBanks (s : State) (t : Nat) (v : Thread) : (s.setThr t v).hbmBanks = s.hbmBanks := rfl

@[simp] theorem setThr_errors (s : State) (t : Nat) (v : Thread) : (s.setThr t v).errors = s.errors := rfl

@[simp] theorem setThr_mem (s : State) (t : Nat) (v : Thread) : (s.setThr t v).mem = s.mem := rfl

@[simp] theorem setThr_full (s : State) (t : Nat) (v : Thread) : (s.setThr t v).full = s.full := rfl

@[simp] theorem setThr_poison (s : State) (t : Nat) (v : Thread) : (s.setThr t v).poison = s.poison := rfl

@[simp] theorem setThr_lines (s : State) (t : Nat) (v : Thread) : (s.setThr t v).lines = s.lines := rfl

@[simp] theorem setThr_net (s : State) (t : Nat) (v : Thread) : (s.setThr t v).net = s.net := rfl

@[simp] theorem setThr_nextNet (s : State) (t : Nat) (v : Thread) : (s.setThr t v).nextNet = s.nextNet := rfl

@[simp] theorem setThr_barriers (s : State) (t : Nat) (v : Thread) : (s.setThr t v).barriers = s.barriers := rfl

@[simp] theorem setThr_watches (s : State) (t : Nat) (v : Thread) : (s.setThr t v).watches = s.watches := rfl

@[simp] theorem setThr_funcs (s : State) (t : Nat) (v : Thread) : (s.setThr t v).funcs = s.funcs := rfl

@[simp] theorem setThr_leases (s : State) (t : Nat) (v : Thread) : (s.setThr t v).leases = s.leases := rfl

@[simp] theorem setThr_freeAsids (s : State) (t : Nat) (v : Thread) : (s.setThr t v).freeAsids = s.freeAsids := rfl

@[simp] theorem setThr_running (s : State) (t : Nat) (v : Thread) : (s.setThr t v).running = s.running := rfl

@[simp] theorem setThr_nextLaunch (s : State) (t : Nat) (v : Thread) : (s.setThr t v).nextLaunch = s.nextLaunch := rfl

@[simp] theorem setThr_orders (s : State) (t : Nat) (v : Thread) : (s.setThr t v).orders = s.orders := rfl

@[simp] theorem setThr_saved (s : State) (t : Nat) (v : Thread) : (s.setThr t v).saved = s.saved := rfl

@[simp] theorem setThr_panelCap (s : State) (t : Nat) (v : Thread) : (s.setThr t v).panelCap = s.panelCap := rfl

@[simp] theorem setThr_netCap (s : State) (t : Nat) (v : Thread) : (s.setThr t v).netCap = s.netCap := rfl

@[simp] theorem setThr_cal (s : State) (t : Nat) (v : Thread) : (s.setThr t v).cal = s.cal := rfl

@[simp] theorem setThr_dieSite (s : State) (t : Nat) (v : Thread) : (s.setThr t v).dieSite = s.dieSite := rfl

@[simp] theorem setThr_spareUsed (s : State) (t : Nat) (v : Thread) : (s.setThr t v).spareUsed = s.spareUsed := rfl

@[simp] theorem setThr_spareSites (s : State) (t : Nat) (v : Thread) : (s.setThr t v).spareSites = s.spareSites := rfl

@[simp] theorem setThr_service (s : State) (t : Nat) (v : Thread) : (s.setThr t v).service = s.service := rfl

@[simp] theorem setThr_link (s : State) (t : Nat) (v : Thread) : (s.setThr t v).link = s.link := rfl

@[simp] theorem setThr_core (s : State) (t : Nat) (v : Thread) (i : Nat) : (s.setThr t v).core i = s.core i := rfl

@[simp] theorem setThr_quad (s : State) (t : Nat) (v : Thread) (i : Nat) : (s.setThr t v).quad i = s.quad i := rfl

@[simp] theorem setThr_die (s : State) (t : Nat) (v : Thread) (i : Nat) : (s.setThr t v).die i = s.die i := rfl

@[simp] theorem setThr_odie (s : State) (t : Nat) (v : Thread) (i : Nat) : (s.setThr t v).odie i = s.odie i := rfl

@[simp] theorem setThr_fn (s : State) (t : Nat) (v : Thread) (i : Nat) : (s.setThr t v).fn i = s.fn i := rfl

@[simp] theorem setThr_lse (s : State) (t : Nat) (v : Thread) (i : Nat) : (s.setThr t v).lse i = s.lse i := rfl

@[simp] theorem setThr_bar (s : State) (t : Nat) (v : Thread) (i : Nat) : (s.setThr t v).bar i = s.bar i := rfl

@[simp] theorem setThr_rd (s : State) (t : Nat) (v : Thread) (i n : Nat) : (s.setThr t v).rd i n = s.rd i n := rfl

/-! ## modThr -/

@[simp] theorem modThr_cur (s : State) (t : Nat) (v : Thread → Thread) : (s.modThr t v).cur = s.cur := rfl

@[simp] theorem modThr_cursor (s : State) (t : Nat) (v : Thread → Thread) : (s.modThr t v).cursor = s.cursor := rfl

@[simp] theorem modThr_cycle (s : State) (t : Nat) (v : Thread → Thread) : (s.modThr t v).cycle = s.cycle := rfl

@[simp] theorem modThr_fresh (s : State) (t : Nat) (v : Thread → Thread) : (s.modThr t v).fresh = s.fresh := rfl

@[simp] theorem modThr_agenda (s : State) (t : Nat) (v : Thread → Thread) : (s.modThr t v).agenda = s.agenda := rfl

@[simp] theorem modThr_cores (s : State) (t : Nat) (v : Thread → Thread) : (s.modThr t v).cores = s.cores := rfl

@[simp] theorem modThr_quads (s : State) (t : Nat) (v : Thread → Thread) : (s.modThr t v).quads = s.quads := rfl

@[simp] theorem modThr_dies (s : State) (t : Nat) (v : Thread → Thread) : (s.modThr t v).dies = s.dies := rfl

@[simp] theorem modThr_odies (s : State) (t : Nat) (v : Thread → Thread) : (s.modThr t v).odies = s.odies := rfl

@[simp] theorem modThr_hbmBanks (s : State) (t : Nat) (v : Thread → Thread) : (s.modThr t v).hbmBanks = s.hbmBanks := rfl

@[simp] theorem modThr_errors (s : State) (t : Nat) (v : Thread → Thread) : (s.modThr t v).errors = s.errors := rfl

@[simp] theorem modThr_mem (s : State) (t : Nat) (v : Thread → Thread) : (s.modThr t v).mem = s.mem := rfl

@[simp] theorem modThr_full (s : State) (t : Nat) (v : Thread → Thread) : (s.modThr t v).full = s.full := rfl

@[simp] theorem modThr_poison (s : State) (t : Nat) (v : Thread → Thread) : (s.modThr t v).poison = s.poison := rfl

@[simp] theorem modThr_lines (s : State) (t : Nat) (v : Thread → Thread) : (s.modThr t v).lines = s.lines := rfl

@[simp] theorem modThr_net (s : State) (t : Nat) (v : Thread → Thread) : (s.modThr t v).net = s.net := rfl

@[simp] theorem modThr_nextNet (s : State) (t : Nat) (v : Thread → Thread) : (s.modThr t v).nextNet = s.nextNet := rfl

@[simp] theorem modThr_barriers (s : State) (t : Nat) (v : Thread → Thread) : (s.modThr t v).barriers = s.barriers := rfl

@[simp] theorem modThr_watches (s : State) (t : Nat) (v : Thread → Thread) : (s.modThr t v).watches = s.watches := rfl

@[simp] theorem modThr_funcs (s : State) (t : Nat) (v : Thread → Thread) : (s.modThr t v).funcs = s.funcs := rfl

@[simp] theorem modThr_leases (s : State) (t : Nat) (v : Thread → Thread) : (s.modThr t v).leases = s.leases := rfl

@[simp] theorem modThr_freeAsids (s : State) (t : Nat) (v : Thread → Thread) : (s.modThr t v).freeAsids = s.freeAsids := rfl

@[simp] theorem modThr_running (s : State) (t : Nat) (v : Thread → Thread) : (s.modThr t v).running = s.running := rfl

@[simp] theorem modThr_nextLaunch (s : State) (t : Nat) (v : Thread → Thread) : (s.modThr t v).nextLaunch = s.nextLaunch := rfl

@[simp] theorem modThr_orders (s : State) (t : Nat) (v : Thread → Thread) : (s.modThr t v).orders = s.orders := rfl

@[simp] theorem modThr_saved (s : State) (t : Nat) (v : Thread → Thread) : (s.modThr t v).saved = s.saved := rfl

@[simp] theorem modThr_panelCap (s : State) (t : Nat) (v : Thread → Thread) : (s.modThr t v).panelCap = s.panelCap := rfl

@[simp] theorem modThr_netCap (s : State) (t : Nat) (v : Thread → Thread) : (s.modThr t v).netCap = s.netCap := rfl

@[simp] theorem modThr_cal (s : State) (t : Nat) (v : Thread → Thread) : (s.modThr t v).cal = s.cal := rfl

@[simp] theorem modThr_dieSite (s : State) (t : Nat) (v : Thread → Thread) : (s.modThr t v).dieSite = s.dieSite := rfl

@[simp] theorem modThr_spareUsed (s : State) (t : Nat) (v : Thread → Thread) : (s.modThr t v).spareUsed = s.spareUsed := rfl

@[simp] theorem modThr_spareSites (s : State) (t : Nat) (v : Thread → Thread) : (s.modThr t v).spareSites = s.spareSites := rfl

@[simp] theorem modThr_service (s : State) (t : Nat) (v : Thread → Thread) : (s.modThr t v).service = s.service := rfl

@[simp] theorem modThr_link (s : State) (t : Nat) (v : Thread → Thread) : (s.modThr t v).link = s.link := rfl

@[simp] theorem modThr_core (s : State) (t : Nat) (v : Thread → Thread) (i : Nat) : (s.modThr t v).core i = s.core i := rfl

@[simp] theorem modThr_quad (s : State) (t : Nat) (v : Thread → Thread) (i : Nat) : (s.modThr t v).quad i = s.quad i := rfl

@[simp] theorem modThr_die (s : State) (t : Nat) (v : Thread → Thread) (i : Nat) : (s.modThr t v).die i = s.die i := rfl

@[simp] theorem modThr_odie (s : State) (t : Nat) (v : Thread → Thread) (i : Nat) : (s.modThr t v).odie i = s.odie i := rfl

@[simp] theorem modThr_fn (s : State) (t : Nat) (v : Thread → Thread) (i : Nat) : (s.modThr t v).fn i = s.fn i := rfl

@[simp] theorem modThr_lse (s : State) (t : Nat) (v : Thread → Thread) (i : Nat) : (s.modThr t v).lse i = s.lse i := rfl

@[simp] theorem modThr_bar (s : State) (t : Nat) (v : Thread → Thread) (i : Nat) : (s.modThr t v).bar i = s.bar i := rfl

@[simp] theorem modThr_rd (s : State) (t : Nat) (v : Thread → Thread) (i n : Nat) : (s.modThr t v).rd i n = s.rd i n := rfl

/-! ## modMe -/

@[simp] theorem modMe_cur (s : State) (v : Thread → Thread) : (s.modMe v).cur = s.cur := rfl

@[simp] theorem modMe_cursor (s : State) (v : Thread → Thread) : (s.modMe v).cursor = s.cursor := rfl

@[simp] theorem modMe_cycle (s : State) (v : Thread → Thread) : (s.modMe v).cycle = s.cycle := rfl

@[simp] theorem modMe_fresh (s : State) (v : Thread → Thread) : (s.modMe v).fresh = s.fresh := rfl

@[simp] theorem modMe_agenda (s : State) (v : Thread → Thread) : (s.modMe v).agenda = s.agenda := rfl

@[simp] theorem modMe_cores (s : State) (v : Thread → Thread) : (s.modMe v).cores = s.cores := rfl

@[simp] theorem modMe_quads (s : State) (v : Thread → Thread) : (s.modMe v).quads = s.quads := rfl

@[simp] theorem modMe_dies (s : State) (v : Thread → Thread) : (s.modMe v).dies = s.dies := rfl

@[simp] theorem modMe_odies (s : State) (v : Thread → Thread) : (s.modMe v).odies = s.odies := rfl

@[simp] theorem modMe_hbmBanks (s : State) (v : Thread → Thread) : (s.modMe v).hbmBanks = s.hbmBanks := rfl

@[simp] theorem modMe_errors (s : State) (v : Thread → Thread) : (s.modMe v).errors = s.errors := rfl

@[simp] theorem modMe_mem (s : State) (v : Thread → Thread) : (s.modMe v).mem = s.mem := rfl

@[simp] theorem modMe_full (s : State) (v : Thread → Thread) : (s.modMe v).full = s.full := rfl

@[simp] theorem modMe_poison (s : State) (v : Thread → Thread) : (s.modMe v).poison = s.poison := rfl

@[simp] theorem modMe_lines (s : State) (v : Thread → Thread) : (s.modMe v).lines = s.lines := rfl

@[simp] theorem modMe_net (s : State) (v : Thread → Thread) : (s.modMe v).net = s.net := rfl

@[simp] theorem modMe_nextNet (s : State) (v : Thread → Thread) : (s.modMe v).nextNet = s.nextNet := rfl

@[simp] theorem modMe_barriers (s : State) (v : Thread → Thread) : (s.modMe v).barriers = s.barriers := rfl

@[simp] theorem modMe_watches (s : State) (v : Thread → Thread) : (s.modMe v).watches = s.watches := rfl

@[simp] theorem modMe_funcs (s : State) (v : Thread → Thread) : (s.modMe v).funcs = s.funcs := rfl

@[simp] theorem modMe_leases (s : State) (v : Thread → Thread) : (s.modMe v).leases = s.leases := rfl

@[simp] theorem modMe_freeAsids (s : State) (v : Thread → Thread) : (s.modMe v).freeAsids = s.freeAsids := rfl

@[simp] theorem modMe_running (s : State) (v : Thread → Thread) : (s.modMe v).running = s.running := rfl

@[simp] theorem modMe_nextLaunch (s : State) (v : Thread → Thread) : (s.modMe v).nextLaunch = s.nextLaunch := rfl

@[simp] theorem modMe_orders (s : State) (v : Thread → Thread) : (s.modMe v).orders = s.orders := rfl

@[simp] theorem modMe_saved (s : State) (v : Thread → Thread) : (s.modMe v).saved = s.saved := rfl

@[simp] theorem modMe_panelCap (s : State) (v : Thread → Thread) : (s.modMe v).panelCap = s.panelCap := rfl

@[simp] theorem modMe_netCap (s : State) (v : Thread → Thread) : (s.modMe v).netCap = s.netCap := rfl

@[simp] theorem modMe_cal (s : State) (v : Thread → Thread) : (s.modMe v).cal = s.cal := rfl

@[simp] theorem modMe_dieSite (s : State) (v : Thread → Thread) : (s.modMe v).dieSite = s.dieSite := rfl

@[simp] theorem modMe_spareUsed (s : State) (v : Thread → Thread) : (s.modMe v).spareUsed = s.spareUsed := rfl

@[simp] theorem modMe_spareSites (s : State) (v : Thread → Thread) : (s.modMe v).spareSites = s.spareSites := rfl

@[simp] theorem modMe_service (s : State) (v : Thread → Thread) : (s.modMe v).service = s.service := rfl

@[simp] theorem modMe_link (s : State) (v : Thread → Thread) : (s.modMe v).link = s.link := rfl

@[simp] theorem modMe_core (s : State) (v : Thread → Thread) (i : Nat) : (s.modMe v).core i = s.core i := rfl

@[simp] theorem modMe_quad (s : State) (v : Thread → Thread) (i : Nat) : (s.modMe v).quad i = s.quad i := rfl

@[simp] theorem modMe_die (s : State) (v : Thread → Thread) (i : Nat) : (s.modMe v).die i = s.die i := rfl

@[simp] theorem modMe_odie (s : State) (v : Thread → Thread) (i : Nat) : (s.modMe v).odie i = s.odie i := rfl

@[simp] theorem modMe_fn (s : State) (v : Thread → Thread) (i : Nat) : (s.modMe v).fn i = s.fn i := rfl

@[simp] theorem modMe_lse (s : State) (v : Thread → Thread) (i : Nat) : (s.modMe v).lse i = s.lse i := rfl

@[simp] theorem modMe_bar (s : State) (v : Thread → Thread) (i : Nat) : (s.modMe v).bar i = s.bar i := rfl

@[simp] theorem modMe_rd (s : State) (v : Thread → Thread) (i n : Nat) : (s.modMe v).rd i n = s.rd i n := rfl

/-! ## setG -/

@[simp] theorem setG_cur (s : State) (r : BitVec 5) (v : Word) : (s.setG r v).cur = s.cur := rfl

@[simp] theorem setG_cursor (s : State) (r : BitVec 5) (v : Word) : (s.setG r v).cursor = s.cursor := rfl

@[simp] theorem setG_cycle (s : State) (r : BitVec 5) (v : Word) : (s.setG r v).cycle = s.cycle := rfl

@[simp] theorem setG_fresh (s : State) (r : BitVec 5) (v : Word) : (s.setG r v).fresh = s.fresh := rfl

@[simp] theorem setG_agenda (s : State) (r : BitVec 5) (v : Word) : (s.setG r v).agenda = s.agenda := rfl

@[simp] theorem setG_cores (s : State) (r : BitVec 5) (v : Word) : (s.setG r v).cores = s.cores := rfl

@[simp] theorem setG_quads (s : State) (r : BitVec 5) (v : Word) : (s.setG r v).quads = s.quads := rfl

@[simp] theorem setG_dies (s : State) (r : BitVec 5) (v : Word) : (s.setG r v).dies = s.dies := rfl

@[simp] theorem setG_odies (s : State) (r : BitVec 5) (v : Word) : (s.setG r v).odies = s.odies := rfl

@[simp] theorem setG_hbmBanks (s : State) (r : BitVec 5) (v : Word) : (s.setG r v).hbmBanks = s.hbmBanks := rfl

@[simp] theorem setG_errors (s : State) (r : BitVec 5) (v : Word) : (s.setG r v).errors = s.errors := rfl

@[simp] theorem setG_mem (s : State) (r : BitVec 5) (v : Word) : (s.setG r v).mem = s.mem := rfl

@[simp] theorem setG_full (s : State) (r : BitVec 5) (v : Word) : (s.setG r v).full = s.full := rfl

@[simp] theorem setG_poison (s : State) (r : BitVec 5) (v : Word) : (s.setG r v).poison = s.poison := rfl

@[simp] theorem setG_lines (s : State) (r : BitVec 5) (v : Word) : (s.setG r v).lines = s.lines := rfl

@[simp] theorem setG_net (s : State) (r : BitVec 5) (v : Word) : (s.setG r v).net = s.net := rfl

@[simp] theorem setG_nextNet (s : State) (r : BitVec 5) (v : Word) : (s.setG r v).nextNet = s.nextNet := rfl

@[simp] theorem setG_barriers (s : State) (r : BitVec 5) (v : Word) : (s.setG r v).barriers = s.barriers := rfl

@[simp] theorem setG_watches (s : State) (r : BitVec 5) (v : Word) : (s.setG r v).watches = s.watches := rfl

@[simp] theorem setG_funcs (s : State) (r : BitVec 5) (v : Word) : (s.setG r v).funcs = s.funcs := rfl

@[simp] theorem setG_leases (s : State) (r : BitVec 5) (v : Word) : (s.setG r v).leases = s.leases := rfl

@[simp] theorem setG_freeAsids (s : State) (r : BitVec 5) (v : Word) : (s.setG r v).freeAsids = s.freeAsids := rfl

@[simp] theorem setG_running (s : State) (r : BitVec 5) (v : Word) : (s.setG r v).running = s.running := rfl

@[simp] theorem setG_nextLaunch (s : State) (r : BitVec 5) (v : Word) : (s.setG r v).nextLaunch = s.nextLaunch := rfl

@[simp] theorem setG_orders (s : State) (r : BitVec 5) (v : Word) : (s.setG r v).orders = s.orders := rfl

@[simp] theorem setG_saved (s : State) (r : BitVec 5) (v : Word) : (s.setG r v).saved = s.saved := rfl

@[simp] theorem setG_panelCap (s : State) (r : BitVec 5) (v : Word) : (s.setG r v).panelCap = s.panelCap := rfl

@[simp] theorem setG_netCap (s : State) (r : BitVec 5) (v : Word) : (s.setG r v).netCap = s.netCap := rfl

@[simp] theorem setG_cal (s : State) (r : BitVec 5) (v : Word) : (s.setG r v).cal = s.cal := rfl

@[simp] theorem setG_dieSite (s : State) (r : BitVec 5) (v : Word) : (s.setG r v).dieSite = s.dieSite := rfl

@[simp] theorem setG_spareUsed (s : State) (r : BitVec 5) (v : Word) : (s.setG r v).spareUsed = s.spareUsed := rfl

@[simp] theorem setG_spareSites (s : State) (r : BitVec 5) (v : Word) : (s.setG r v).spareSites = s.spareSites := rfl

@[simp] theorem setG_service (s : State) (r : BitVec 5) (v : Word) : (s.setG r v).service = s.service := rfl

@[simp] theorem setG_link (s : State) (r : BitVec 5) (v : Word) : (s.setG r v).link = s.link := rfl

@[simp] theorem setG_core (s : State) (r : BitVec 5) (v : Word) (i : Nat) : (s.setG r v).core i = s.core i := rfl

@[simp] theorem setG_quad (s : State) (r : BitVec 5) (v : Word) (i : Nat) : (s.setG r v).quad i = s.quad i := rfl

@[simp] theorem setG_die (s : State) (r : BitVec 5) (v : Word) (i : Nat) : (s.setG r v).die i = s.die i := rfl

@[simp] theorem setG_odie (s : State) (r : BitVec 5) (v : Word) (i : Nat) : (s.setG r v).odie i = s.odie i := rfl

@[simp] theorem setG_fn (s : State) (r : BitVec 5) (v : Word) (i : Nat) : (s.setG r v).fn i = s.fn i := rfl

@[simp] theorem setG_lse (s : State) (r : BitVec 5) (v : Word) (i : Nat) : (s.setG r v).lse i = s.lse i := rfl

@[simp] theorem setG_bar (s : State) (r : BitVec 5) (v : Word) (i : Nat) : (s.setG r v).bar i = s.bar i := rfl

@[simp] theorem setG_rd (s : State) (r : BitVec 5) (v : Word) (i n : Nat) : (s.setG r v).rd i n = s.rd i n := rfl

/-! ## setCore -/

@[simp] theorem setCore_cur (s : State) (c : Nat) (v : Core) : (s.setCore c v).cur = s.cur := rfl

@[simp] theorem setCore_cursor (s : State) (c : Nat) (v : Core) : (s.setCore c v).cursor = s.cursor := rfl

@[simp] theorem setCore_cycle (s : State) (c : Nat) (v : Core) : (s.setCore c v).cycle = s.cycle := rfl

@[simp] theorem setCore_fresh (s : State) (c : Nat) (v : Core) : (s.setCore c v).fresh = s.fresh := rfl

@[simp] theorem setCore_agenda (s : State) (c : Nat) (v : Core) : (s.setCore c v).agenda = s.agenda := rfl

@[simp] theorem setCore_threads (s : State) (c : Nat) (v : Core) : (s.setCore c v).threads = s.threads := rfl

@[simp] theorem setCore_quads (s : State) (c : Nat) (v : Core) : (s.setCore c v).quads = s.quads := rfl

@[simp] theorem setCore_dies (s : State) (c : Nat) (v : Core) : (s.setCore c v).dies = s.dies := rfl

@[simp] theorem setCore_odies (s : State) (c : Nat) (v : Core) : (s.setCore c v).odies = s.odies := rfl

@[simp] theorem setCore_hbmBanks (s : State) (c : Nat) (v : Core) : (s.setCore c v).hbmBanks = s.hbmBanks := rfl

@[simp] theorem setCore_errors (s : State) (c : Nat) (v : Core) : (s.setCore c v).errors = s.errors := rfl

@[simp] theorem setCore_mem (s : State) (c : Nat) (v : Core) : (s.setCore c v).mem = s.mem := rfl

@[simp] theorem setCore_full (s : State) (c : Nat) (v : Core) : (s.setCore c v).full = s.full := rfl

@[simp] theorem setCore_poison (s : State) (c : Nat) (v : Core) : (s.setCore c v).poison = s.poison := rfl

@[simp] theorem setCore_lines (s : State) (c : Nat) (v : Core) : (s.setCore c v).lines = s.lines := rfl

@[simp] theorem setCore_net (s : State) (c : Nat) (v : Core) : (s.setCore c v).net = s.net := rfl

@[simp] theorem setCore_nextNet (s : State) (c : Nat) (v : Core) : (s.setCore c v).nextNet = s.nextNet := rfl

@[simp] theorem setCore_barriers (s : State) (c : Nat) (v : Core) : (s.setCore c v).barriers = s.barriers := rfl

@[simp] theorem setCore_watches (s : State) (c : Nat) (v : Core) : (s.setCore c v).watches = s.watches := rfl

@[simp] theorem setCore_funcs (s : State) (c : Nat) (v : Core) : (s.setCore c v).funcs = s.funcs := rfl

@[simp] theorem setCore_leases (s : State) (c : Nat) (v : Core) : (s.setCore c v).leases = s.leases := rfl

@[simp] theorem setCore_freeAsids (s : State) (c : Nat) (v : Core) : (s.setCore c v).freeAsids = s.freeAsids := rfl

@[simp] theorem setCore_running (s : State) (c : Nat) (v : Core) : (s.setCore c v).running = s.running := rfl

@[simp] theorem setCore_nextLaunch (s : State) (c : Nat) (v : Core) : (s.setCore c v).nextLaunch = s.nextLaunch := rfl

@[simp] theorem setCore_orders (s : State) (c : Nat) (v : Core) : (s.setCore c v).orders = s.orders := rfl

@[simp] theorem setCore_saved (s : State) (c : Nat) (v : Core) : (s.setCore c v).saved = s.saved := rfl

@[simp] theorem setCore_panelCap (s : State) (c : Nat) (v : Core) : (s.setCore c v).panelCap = s.panelCap := rfl

@[simp] theorem setCore_netCap (s : State) (c : Nat) (v : Core) : (s.setCore c v).netCap = s.netCap := rfl

@[simp] theorem setCore_cal (s : State) (c : Nat) (v : Core) : (s.setCore c v).cal = s.cal := rfl

@[simp] theorem setCore_dieSite (s : State) (c : Nat) (v : Core) : (s.setCore c v).dieSite = s.dieSite := rfl

@[simp] theorem setCore_spareUsed (s : State) (c : Nat) (v : Core) : (s.setCore c v).spareUsed = s.spareUsed := rfl

@[simp] theorem setCore_spareSites (s : State) (c : Nat) (v : Core) : (s.setCore c v).spareSites = s.spareSites := rfl

@[simp] theorem setCore_service (s : State) (c : Nat) (v : Core) : (s.setCore c v).service = s.service := rfl

@[simp] theorem setCore_link (s : State) (c : Nat) (v : Core) : (s.setCore c v).link = s.link := rfl

@[simp] theorem setCore_thr (s : State) (c : Nat) (v : Core) (i : Nat) : (s.setCore c v).thr i = s.thr i := rfl

@[simp] theorem setCore_quad (s : State) (c : Nat) (v : Core) (i : Nat) : (s.setCore c v).quad i = s.quad i := rfl

@[simp] theorem setCore_die (s : State) (c : Nat) (v : Core) (i : Nat) : (s.setCore c v).die i = s.die i := rfl

@[simp] theorem setCore_odie (s : State) (c : Nat) (v : Core) (i : Nat) : (s.setCore c v).odie i = s.odie i := rfl

@[simp] theorem setCore_fn (s : State) (c : Nat) (v : Core) (i : Nat) : (s.setCore c v).fn i = s.fn i := rfl

@[simp] theorem setCore_lse (s : State) (c : Nat) (v : Core) (i : Nat) : (s.setCore c v).lse i = s.lse i := rfl

@[simp] theorem setCore_bar (s : State) (c : Nat) (v : Core) (i : Nat) : (s.setCore c v).bar i = s.bar i := rfl

@[simp] theorem setCore_me (s : State) (c : Nat) (v : Core) : (s.setCore c v).me = s.me := rfl

@[simp] theorem setCore_g (s : State) (c : Nat) (v : Core) (i : BitVec 5) : (s.setCore c v).g i = s.g i := rfl

@[simp] theorem setCore_rd (s : State) (c : Nat) (v : Core) (i n : Nat) : (s.setCore c v).rd i n = s.rd i n := rfl

/-! ## modCore -/

@[simp] theorem modCore_cur (s : State) (c : Nat) (v : Core → Core) : (s.modCore c v).cur = s.cur := rfl

@[simp] theorem modCore_cursor (s : State) (c : Nat) (v : Core → Core) : (s.modCore c v).cursor = s.cursor := rfl

@[simp] theorem modCore_cycle (s : State) (c : Nat) (v : Core → Core) : (s.modCore c v).cycle = s.cycle := rfl

@[simp] theorem modCore_fresh (s : State) (c : Nat) (v : Core → Core) : (s.modCore c v).fresh = s.fresh := rfl

@[simp] theorem modCore_agenda (s : State) (c : Nat) (v : Core → Core) : (s.modCore c v).agenda = s.agenda := rfl

@[simp] theorem modCore_threads (s : State) (c : Nat) (v : Core → Core) : (s.modCore c v).threads = s.threads := rfl

@[simp] theorem modCore_quads (s : State) (c : Nat) (v : Core → Core) : (s.modCore c v).quads = s.quads := rfl

@[simp] theorem modCore_dies (s : State) (c : Nat) (v : Core → Core) : (s.modCore c v).dies = s.dies := rfl

@[simp] theorem modCore_odies (s : State) (c : Nat) (v : Core → Core) : (s.modCore c v).odies = s.odies := rfl

@[simp] theorem modCore_hbmBanks (s : State) (c : Nat) (v : Core → Core) : (s.modCore c v).hbmBanks = s.hbmBanks := rfl

@[simp] theorem modCore_errors (s : State) (c : Nat) (v : Core → Core) : (s.modCore c v).errors = s.errors := rfl

@[simp] theorem modCore_mem (s : State) (c : Nat) (v : Core → Core) : (s.modCore c v).mem = s.mem := rfl

@[simp] theorem modCore_full (s : State) (c : Nat) (v : Core → Core) : (s.modCore c v).full = s.full := rfl

@[simp] theorem modCore_poison (s : State) (c : Nat) (v : Core → Core) : (s.modCore c v).poison = s.poison := rfl

@[simp] theorem modCore_lines (s : State) (c : Nat) (v : Core → Core) : (s.modCore c v).lines = s.lines := rfl

@[simp] theorem modCore_net (s : State) (c : Nat) (v : Core → Core) : (s.modCore c v).net = s.net := rfl

@[simp] theorem modCore_nextNet (s : State) (c : Nat) (v : Core → Core) : (s.modCore c v).nextNet = s.nextNet := rfl

@[simp] theorem modCore_barriers (s : State) (c : Nat) (v : Core → Core) : (s.modCore c v).barriers = s.barriers := rfl

@[simp] theorem modCore_watches (s : State) (c : Nat) (v : Core → Core) : (s.modCore c v).watches = s.watches := rfl

@[simp] theorem modCore_funcs (s : State) (c : Nat) (v : Core → Core) : (s.modCore c v).funcs = s.funcs := rfl

@[simp] theorem modCore_leases (s : State) (c : Nat) (v : Core → Core) : (s.modCore c v).leases = s.leases := rfl

@[simp] theorem modCore_freeAsids (s : State) (c : Nat) (v : Core → Core) : (s.modCore c v).freeAsids = s.freeAsids := rfl

@[simp] theorem modCore_running (s : State) (c : Nat) (v : Core → Core) : (s.modCore c v).running = s.running := rfl

@[simp] theorem modCore_nextLaunch (s : State) (c : Nat) (v : Core → Core) : (s.modCore c v).nextLaunch = s.nextLaunch := rfl

@[simp] theorem modCore_orders (s : State) (c : Nat) (v : Core → Core) : (s.modCore c v).orders = s.orders := rfl

@[simp] theorem modCore_saved (s : State) (c : Nat) (v : Core → Core) : (s.modCore c v).saved = s.saved := rfl

@[simp] theorem modCore_panelCap (s : State) (c : Nat) (v : Core → Core) : (s.modCore c v).panelCap = s.panelCap := rfl

@[simp] theorem modCore_netCap (s : State) (c : Nat) (v : Core → Core) : (s.modCore c v).netCap = s.netCap := rfl

@[simp] theorem modCore_cal (s : State) (c : Nat) (v : Core → Core) : (s.modCore c v).cal = s.cal := rfl

@[simp] theorem modCore_dieSite (s : State) (c : Nat) (v : Core → Core) : (s.modCore c v).dieSite = s.dieSite := rfl

@[simp] theorem modCore_spareUsed (s : State) (c : Nat) (v : Core → Core) : (s.modCore c v).spareUsed = s.spareUsed := rfl

@[simp] theorem modCore_spareSites (s : State) (c : Nat) (v : Core → Core) : (s.modCore c v).spareSites = s.spareSites := rfl

@[simp] theorem modCore_service (s : State) (c : Nat) (v : Core → Core) : (s.modCore c v).service = s.service := rfl

@[simp] theorem modCore_link (s : State) (c : Nat) (v : Core → Core) : (s.modCore c v).link = s.link := rfl

@[simp] theorem modCore_thr (s : State) (c : Nat) (v : Core → Core) (i : Nat) : (s.modCore c v).thr i = s.thr i := rfl

@[simp] theorem modCore_quad (s : State) (c : Nat) (v : Core → Core) (i : Nat) : (s.modCore c v).quad i = s.quad i := rfl

@[simp] theorem modCore_die (s : State) (c : Nat) (v : Core → Core) (i : Nat) : (s.modCore c v).die i = s.die i := rfl

@[simp] theorem modCore_odie (s : State) (c : Nat) (v : Core → Core) (i : Nat) : (s.modCore c v).odie i = s.odie i := rfl

@[simp] theorem modCore_fn (s : State) (c : Nat) (v : Core → Core) (i : Nat) : (s.modCore c v).fn i = s.fn i := rfl

@[simp] theorem modCore_lse (s : State) (c : Nat) (v : Core → Core) (i : Nat) : (s.modCore c v).lse i = s.lse i := rfl

@[simp] theorem modCore_bar (s : State) (c : Nat) (v : Core → Core) (i : Nat) : (s.modCore c v).bar i = s.bar i := rfl

@[simp] theorem modCore_me (s : State) (c : Nat) (v : Core → Core) : (s.modCore c v).me = s.me := rfl

@[simp] theorem modCore_g (s : State) (c : Nat) (v : Core → Core) (i : BitVec 5) : (s.modCore c v).g i = s.g i := rfl

@[simp] theorem modCore_rd (s : State) (c : Nat) (v : Core → Core) (i n : Nat) : (s.modCore c v).rd i n = s.rd i n := rfl

/-! ## modQuad -/

@[simp] theorem modQuad_cur (s : State) (q : Nat) (v : Quad → Quad) : (s.modQuad q v).cur = s.cur := rfl

@[simp] theorem modQuad_cursor (s : State) (q : Nat) (v : Quad → Quad) : (s.modQuad q v).cursor = s.cursor := rfl

@[simp] theorem modQuad_cycle (s : State) (q : Nat) (v : Quad → Quad) : (s.modQuad q v).cycle = s.cycle := rfl

@[simp] theorem modQuad_fresh (s : State) (q : Nat) (v : Quad → Quad) : (s.modQuad q v).fresh = s.fresh := rfl

@[simp] theorem modQuad_agenda (s : State) (q : Nat) (v : Quad → Quad) : (s.modQuad q v).agenda = s.agenda := rfl

@[simp] theorem modQuad_threads (s : State) (q : Nat) (v : Quad → Quad) : (s.modQuad q v).threads = s.threads := rfl

@[simp] theorem modQuad_cores (s : State) (q : Nat) (v : Quad → Quad) : (s.modQuad q v).cores = s.cores := rfl

@[simp] theorem modQuad_dies (s : State) (q : Nat) (v : Quad → Quad) : (s.modQuad q v).dies = s.dies := rfl

@[simp] theorem modQuad_odies (s : State) (q : Nat) (v : Quad → Quad) : (s.modQuad q v).odies = s.odies := rfl

@[simp] theorem modQuad_hbmBanks (s : State) (q : Nat) (v : Quad → Quad) : (s.modQuad q v).hbmBanks = s.hbmBanks := rfl

@[simp] theorem modQuad_errors (s : State) (q : Nat) (v : Quad → Quad) : (s.modQuad q v).errors = s.errors := rfl

@[simp] theorem modQuad_mem (s : State) (q : Nat) (v : Quad → Quad) : (s.modQuad q v).mem = s.mem := rfl

@[simp] theorem modQuad_full (s : State) (q : Nat) (v : Quad → Quad) : (s.modQuad q v).full = s.full := rfl

@[simp] theorem modQuad_poison (s : State) (q : Nat) (v : Quad → Quad) : (s.modQuad q v).poison = s.poison := rfl

@[simp] theorem modQuad_lines (s : State) (q : Nat) (v : Quad → Quad) : (s.modQuad q v).lines = s.lines := rfl

@[simp] theorem modQuad_net (s : State) (q : Nat) (v : Quad → Quad) : (s.modQuad q v).net = s.net := rfl

@[simp] theorem modQuad_nextNet (s : State) (q : Nat) (v : Quad → Quad) : (s.modQuad q v).nextNet = s.nextNet := rfl

@[simp] theorem modQuad_barriers (s : State) (q : Nat) (v : Quad → Quad) : (s.modQuad q v).barriers = s.barriers := rfl

@[simp] theorem modQuad_watches (s : State) (q : Nat) (v : Quad → Quad) : (s.modQuad q v).watches = s.watches := rfl

@[simp] theorem modQuad_funcs (s : State) (q : Nat) (v : Quad → Quad) : (s.modQuad q v).funcs = s.funcs := rfl

@[simp] theorem modQuad_leases (s : State) (q : Nat) (v : Quad → Quad) : (s.modQuad q v).leases = s.leases := rfl

@[simp] theorem modQuad_freeAsids (s : State) (q : Nat) (v : Quad → Quad) : (s.modQuad q v).freeAsids = s.freeAsids := rfl

@[simp] theorem modQuad_running (s : State) (q : Nat) (v : Quad → Quad) : (s.modQuad q v).running = s.running := rfl

@[simp] theorem modQuad_nextLaunch (s : State) (q : Nat) (v : Quad → Quad) : (s.modQuad q v).nextLaunch = s.nextLaunch := rfl

@[simp] theorem modQuad_orders (s : State) (q : Nat) (v : Quad → Quad) : (s.modQuad q v).orders = s.orders := rfl

@[simp] theorem modQuad_saved (s : State) (q : Nat) (v : Quad → Quad) : (s.modQuad q v).saved = s.saved := rfl

@[simp] theorem modQuad_panelCap (s : State) (q : Nat) (v : Quad → Quad) : (s.modQuad q v).panelCap = s.panelCap := rfl

@[simp] theorem modQuad_netCap (s : State) (q : Nat) (v : Quad → Quad) : (s.modQuad q v).netCap = s.netCap := rfl

@[simp] theorem modQuad_cal (s : State) (q : Nat) (v : Quad → Quad) : (s.modQuad q v).cal = s.cal := rfl

@[simp] theorem modQuad_dieSite (s : State) (q : Nat) (v : Quad → Quad) : (s.modQuad q v).dieSite = s.dieSite := rfl

@[simp] theorem modQuad_spareUsed (s : State) (q : Nat) (v : Quad → Quad) : (s.modQuad q v).spareUsed = s.spareUsed := rfl

@[simp] theorem modQuad_spareSites (s : State) (q : Nat) (v : Quad → Quad) : (s.modQuad q v).spareSites = s.spareSites := rfl

@[simp] theorem modQuad_service (s : State) (q : Nat) (v : Quad → Quad) : (s.modQuad q v).service = s.service := rfl

@[simp] theorem modQuad_link (s : State) (q : Nat) (v : Quad → Quad) : (s.modQuad q v).link = s.link := rfl

@[simp] theorem modQuad_thr (s : State) (q : Nat) (v : Quad → Quad) (i : Nat) : (s.modQuad q v).thr i = s.thr i := rfl

@[simp] theorem modQuad_core (s : State) (q : Nat) (v : Quad → Quad) (i : Nat) : (s.modQuad q v).core i = s.core i := rfl

@[simp] theorem modQuad_die (s : State) (q : Nat) (v : Quad → Quad) (i : Nat) : (s.modQuad q v).die i = s.die i := rfl

@[simp] theorem modQuad_odie (s : State) (q : Nat) (v : Quad → Quad) (i : Nat) : (s.modQuad q v).odie i = s.odie i := rfl

@[simp] theorem modQuad_fn (s : State) (q : Nat) (v : Quad → Quad) (i : Nat) : (s.modQuad q v).fn i = s.fn i := rfl

@[simp] theorem modQuad_lse (s : State) (q : Nat) (v : Quad → Quad) (i : Nat) : (s.modQuad q v).lse i = s.lse i := rfl

@[simp] theorem modQuad_bar (s : State) (q : Nat) (v : Quad → Quad) (i : Nat) : (s.modQuad q v).bar i = s.bar i := rfl

@[simp] theorem modQuad_me (s : State) (q : Nat) (v : Quad → Quad) : (s.modQuad q v).me = s.me := rfl

@[simp] theorem modQuad_g (s : State) (q : Nat) (v : Quad → Quad) (i : BitVec 5) : (s.modQuad q v).g i = s.g i := rfl

@[simp] theorem modQuad_rd (s : State) (q : Nat) (v : Quad → Quad) (i n : Nat) : (s.modQuad q v).rd i n = s.rd i n := rfl

/-! ## modDie -/

@[simp] theorem modDie_cur (s : State) (d : Nat) (v : Die → Die) : (s.modDie d v).cur = s.cur := rfl

@[simp] theorem modDie_cursor (s : State) (d : Nat) (v : Die → Die) : (s.modDie d v).cursor = s.cursor := rfl

@[simp] theorem modDie_cycle (s : State) (d : Nat) (v : Die → Die) : (s.modDie d v).cycle = s.cycle := rfl

@[simp] theorem modDie_fresh (s : State) (d : Nat) (v : Die → Die) : (s.modDie d v).fresh = s.fresh := rfl

@[simp] theorem modDie_agenda (s : State) (d : Nat) (v : Die → Die) : (s.modDie d v).agenda = s.agenda := rfl

@[simp] theorem modDie_threads (s : State) (d : Nat) (v : Die → Die) : (s.modDie d v).threads = s.threads := rfl

@[simp] theorem modDie_cores (s : State) (d : Nat) (v : Die → Die) : (s.modDie d v).cores = s.cores := rfl

@[simp] theorem modDie_quads (s : State) (d : Nat) (v : Die → Die) : (s.modDie d v).quads = s.quads := rfl

@[simp] theorem modDie_odies (s : State) (d : Nat) (v : Die → Die) : (s.modDie d v).odies = s.odies := rfl

@[simp] theorem modDie_hbmBanks (s : State) (d : Nat) (v : Die → Die) : (s.modDie d v).hbmBanks = s.hbmBanks := rfl

@[simp] theorem modDie_errors (s : State) (d : Nat) (v : Die → Die) : (s.modDie d v).errors = s.errors := rfl

@[simp] theorem modDie_mem (s : State) (d : Nat) (v : Die → Die) : (s.modDie d v).mem = s.mem := rfl

@[simp] theorem modDie_full (s : State) (d : Nat) (v : Die → Die) : (s.modDie d v).full = s.full := rfl

@[simp] theorem modDie_poison (s : State) (d : Nat) (v : Die → Die) : (s.modDie d v).poison = s.poison := rfl

@[simp] theorem modDie_lines (s : State) (d : Nat) (v : Die → Die) : (s.modDie d v).lines = s.lines := rfl

@[simp] theorem modDie_net (s : State) (d : Nat) (v : Die → Die) : (s.modDie d v).net = s.net := rfl

@[simp] theorem modDie_nextNet (s : State) (d : Nat) (v : Die → Die) : (s.modDie d v).nextNet = s.nextNet := rfl

@[simp] theorem modDie_barriers (s : State) (d : Nat) (v : Die → Die) : (s.modDie d v).barriers = s.barriers := rfl

@[simp] theorem modDie_watches (s : State) (d : Nat) (v : Die → Die) : (s.modDie d v).watches = s.watches := rfl

@[simp] theorem modDie_funcs (s : State) (d : Nat) (v : Die → Die) : (s.modDie d v).funcs = s.funcs := rfl

@[simp] theorem modDie_leases (s : State) (d : Nat) (v : Die → Die) : (s.modDie d v).leases = s.leases := rfl

@[simp] theorem modDie_freeAsids (s : State) (d : Nat) (v : Die → Die) : (s.modDie d v).freeAsids = s.freeAsids := rfl

@[simp] theorem modDie_running (s : State) (d : Nat) (v : Die → Die) : (s.modDie d v).running = s.running := rfl

@[simp] theorem modDie_nextLaunch (s : State) (d : Nat) (v : Die → Die) : (s.modDie d v).nextLaunch = s.nextLaunch := rfl

@[simp] theorem modDie_orders (s : State) (d : Nat) (v : Die → Die) : (s.modDie d v).orders = s.orders := rfl

@[simp] theorem modDie_saved (s : State) (d : Nat) (v : Die → Die) : (s.modDie d v).saved = s.saved := rfl

@[simp] theorem modDie_panelCap (s : State) (d : Nat) (v : Die → Die) : (s.modDie d v).panelCap = s.panelCap := rfl

@[simp] theorem modDie_netCap (s : State) (d : Nat) (v : Die → Die) : (s.modDie d v).netCap = s.netCap := rfl

@[simp] theorem modDie_cal (s : State) (d : Nat) (v : Die → Die) : (s.modDie d v).cal = s.cal := rfl

@[simp] theorem modDie_dieSite (s : State) (d : Nat) (v : Die → Die) : (s.modDie d v).dieSite = s.dieSite := rfl

@[simp] theorem modDie_spareUsed (s : State) (d : Nat) (v : Die → Die) : (s.modDie d v).spareUsed = s.spareUsed := rfl

@[simp] theorem modDie_spareSites (s : State) (d : Nat) (v : Die → Die) : (s.modDie d v).spareSites = s.spareSites := rfl

@[simp] theorem modDie_service (s : State) (d : Nat) (v : Die → Die) : (s.modDie d v).service = s.service := rfl

@[simp] theorem modDie_link (s : State) (d : Nat) (v : Die → Die) : (s.modDie d v).link = s.link := rfl

@[simp] theorem modDie_thr (s : State) (d : Nat) (v : Die → Die) (i : Nat) : (s.modDie d v).thr i = s.thr i := rfl

@[simp] theorem modDie_core (s : State) (d : Nat) (v : Die → Die) (i : Nat) : (s.modDie d v).core i = s.core i := rfl

@[simp] theorem modDie_quad (s : State) (d : Nat) (v : Die → Die) (i : Nat) : (s.modDie d v).quad i = s.quad i := rfl

@[simp] theorem modDie_odie (s : State) (d : Nat) (v : Die → Die) (i : Nat) : (s.modDie d v).odie i = s.odie i := rfl

@[simp] theorem modDie_fn (s : State) (d : Nat) (v : Die → Die) (i : Nat) : (s.modDie d v).fn i = s.fn i := rfl

@[simp] theorem modDie_lse (s : State) (d : Nat) (v : Die → Die) (i : Nat) : (s.modDie d v).lse i = s.lse i := rfl

@[simp] theorem modDie_bar (s : State) (d : Nat) (v : Die → Die) (i : Nat) : (s.modDie d v).bar i = s.bar i := rfl

@[simp] theorem modDie_me (s : State) (d : Nat) (v : Die → Die) : (s.modDie d v).me = s.me := rfl

@[simp] theorem modDie_g (s : State) (d : Nat) (v : Die → Die) (i : BitVec 5) : (s.modDie d v).g i = s.g i := rfl

@[simp] theorem modDie_rd (s : State) (d : Nat) (v : Die → Die) (i n : Nat) : (s.modDie d v).rd i n = s.rd i n := rfl

/-! ## modOdie -/

@[simp] theorem modOdie_cur (s : State) (k : Nat) (v : ODie → ODie) : (s.modOdie k v).cur = s.cur := rfl

@[simp] theorem modOdie_cursor (s : State) (k : Nat) (v : ODie → ODie) : (s.modOdie k v).cursor = s.cursor := rfl

@[simp] theorem modOdie_cycle (s : State) (k : Nat) (v : ODie → ODie) : (s.modOdie k v).cycle = s.cycle := rfl

@[simp] theorem modOdie_fresh (s : State) (k : Nat) (v : ODie → ODie) : (s.modOdie k v).fresh = s.fresh := rfl

@[simp] theorem modOdie_agenda (s : State) (k : Nat) (v : ODie → ODie) : (s.modOdie k v).agenda = s.agenda := rfl

@[simp] theorem modOdie_threads (s : State) (k : Nat) (v : ODie → ODie) : (s.modOdie k v).threads = s.threads := rfl

@[simp] theorem modOdie_cores (s : State) (k : Nat) (v : ODie → ODie) : (s.modOdie k v).cores = s.cores := rfl

@[simp] theorem modOdie_quads (s : State) (k : Nat) (v : ODie → ODie) : (s.modOdie k v).quads = s.quads := rfl

@[simp] theorem modOdie_dies (s : State) (k : Nat) (v : ODie → ODie) : (s.modOdie k v).dies = s.dies := rfl

@[simp] theorem modOdie_hbmBanks (s : State) (k : Nat) (v : ODie → ODie) : (s.modOdie k v).hbmBanks = s.hbmBanks := rfl

@[simp] theorem modOdie_errors (s : State) (k : Nat) (v : ODie → ODie) : (s.modOdie k v).errors = s.errors := rfl

@[simp] theorem modOdie_mem (s : State) (k : Nat) (v : ODie → ODie) : (s.modOdie k v).mem = s.mem := rfl

@[simp] theorem modOdie_full (s : State) (k : Nat) (v : ODie → ODie) : (s.modOdie k v).full = s.full := rfl

@[simp] theorem modOdie_poison (s : State) (k : Nat) (v : ODie → ODie) : (s.modOdie k v).poison = s.poison := rfl

@[simp] theorem modOdie_lines (s : State) (k : Nat) (v : ODie → ODie) : (s.modOdie k v).lines = s.lines := rfl

@[simp] theorem modOdie_net (s : State) (k : Nat) (v : ODie → ODie) : (s.modOdie k v).net = s.net := rfl

@[simp] theorem modOdie_nextNet (s : State) (k : Nat) (v : ODie → ODie) : (s.modOdie k v).nextNet = s.nextNet := rfl

@[simp] theorem modOdie_barriers (s : State) (k : Nat) (v : ODie → ODie) : (s.modOdie k v).barriers = s.barriers := rfl

@[simp] theorem modOdie_watches (s : State) (k : Nat) (v : ODie → ODie) : (s.modOdie k v).watches = s.watches := rfl

@[simp] theorem modOdie_funcs (s : State) (k : Nat) (v : ODie → ODie) : (s.modOdie k v).funcs = s.funcs := rfl

@[simp] theorem modOdie_leases (s : State) (k : Nat) (v : ODie → ODie) : (s.modOdie k v).leases = s.leases := rfl

@[simp] theorem modOdie_freeAsids (s : State) (k : Nat) (v : ODie → ODie) : (s.modOdie k v).freeAsids = s.freeAsids := rfl

@[simp] theorem modOdie_running (s : State) (k : Nat) (v : ODie → ODie) : (s.modOdie k v).running = s.running := rfl

@[simp] theorem modOdie_nextLaunch (s : State) (k : Nat) (v : ODie → ODie) : (s.modOdie k v).nextLaunch = s.nextLaunch := rfl

@[simp] theorem modOdie_orders (s : State) (k : Nat) (v : ODie → ODie) : (s.modOdie k v).orders = s.orders := rfl

@[simp] theorem modOdie_saved (s : State) (k : Nat) (v : ODie → ODie) : (s.modOdie k v).saved = s.saved := rfl

@[simp] theorem modOdie_panelCap (s : State) (k : Nat) (v : ODie → ODie) : (s.modOdie k v).panelCap = s.panelCap := rfl

@[simp] theorem modOdie_netCap (s : State) (k : Nat) (v : ODie → ODie) : (s.modOdie k v).netCap = s.netCap := rfl

@[simp] theorem modOdie_cal (s : State) (k : Nat) (v : ODie → ODie) : (s.modOdie k v).cal = s.cal := rfl

@[simp] theorem modOdie_dieSite (s : State) (k : Nat) (v : ODie → ODie) : (s.modOdie k v).dieSite = s.dieSite := rfl

@[simp] theorem modOdie_spareUsed (s : State) (k : Nat) (v : ODie → ODie) : (s.modOdie k v).spareUsed = s.spareUsed := rfl

@[simp] theorem modOdie_spareSites (s : State) (k : Nat) (v : ODie → ODie) : (s.modOdie k v).spareSites = s.spareSites := rfl

@[simp] theorem modOdie_service (s : State) (k : Nat) (v : ODie → ODie) : (s.modOdie k v).service = s.service := rfl

@[simp] theorem modOdie_link (s : State) (k : Nat) (v : ODie → ODie) : (s.modOdie k v).link = s.link := rfl

@[simp] theorem modOdie_thr (s : State) (k : Nat) (v : ODie → ODie) (i : Nat) : (s.modOdie k v).thr i = s.thr i := rfl

@[simp] theorem modOdie_core (s : State) (k : Nat) (v : ODie → ODie) (i : Nat) : (s.modOdie k v).core i = s.core i := rfl

@[simp] theorem modOdie_quad (s : State) (k : Nat) (v : ODie → ODie) (i : Nat) : (s.modOdie k v).quad i = s.quad i := rfl

@[simp] theorem modOdie_die (s : State) (k : Nat) (v : ODie → ODie) (i : Nat) : (s.modOdie k v).die i = s.die i := rfl

@[simp] theorem modOdie_fn (s : State) (k : Nat) (v : ODie → ODie) (i : Nat) : (s.modOdie k v).fn i = s.fn i := rfl

@[simp] theorem modOdie_lse (s : State) (k : Nat) (v : ODie → ODie) (i : Nat) : (s.modOdie k v).lse i = s.lse i := rfl

@[simp] theorem modOdie_bar (s : State) (k : Nat) (v : ODie → ODie) (i : Nat) : (s.modOdie k v).bar i = s.bar i := rfl

@[simp] theorem modOdie_me (s : State) (k : Nat) (v : ODie → ODie) : (s.modOdie k v).me = s.me := rfl

@[simp] theorem modOdie_g (s : State) (k : Nat) (v : ODie → ODie) (i : BitVec 5) : (s.modOdie k v).g i = s.g i := rfl

@[simp] theorem modOdie_rd (s : State) (k : Nat) (v : ODie → ODie) (i n : Nat) : (s.modOdie k v).rd i n = s.rd i n := rfl

/-! ## modFn -/

@[simp] theorem modFn_cur (s : State) (f : Nat) (v : Func → Func) : (s.modFn f v).cur = s.cur := rfl

@[simp] theorem modFn_cursor (s : State) (f : Nat) (v : Func → Func) : (s.modFn f v).cursor = s.cursor := rfl

@[simp] theorem modFn_cycle (s : State) (f : Nat) (v : Func → Func) : (s.modFn f v).cycle = s.cycle := rfl

@[simp] theorem modFn_fresh (s : State) (f : Nat) (v : Func → Func) : (s.modFn f v).fresh = s.fresh := rfl

@[simp] theorem modFn_agenda (s : State) (f : Nat) (v : Func → Func) : (s.modFn f v).agenda = s.agenda := rfl

@[simp] theorem modFn_threads (s : State) (f : Nat) (v : Func → Func) : (s.modFn f v).threads = s.threads := rfl

@[simp] theorem modFn_cores (s : State) (f : Nat) (v : Func → Func) : (s.modFn f v).cores = s.cores := rfl

@[simp] theorem modFn_quads (s : State) (f : Nat) (v : Func → Func) : (s.modFn f v).quads = s.quads := rfl

@[simp] theorem modFn_dies (s : State) (f : Nat) (v : Func → Func) : (s.modFn f v).dies = s.dies := rfl

@[simp] theorem modFn_odies (s : State) (f : Nat) (v : Func → Func) : (s.modFn f v).odies = s.odies := rfl

@[simp] theorem modFn_hbmBanks (s : State) (f : Nat) (v : Func → Func) : (s.modFn f v).hbmBanks = s.hbmBanks := rfl

@[simp] theorem modFn_errors (s : State) (f : Nat) (v : Func → Func) : (s.modFn f v).errors = s.errors := rfl

@[simp] theorem modFn_mem (s : State) (f : Nat) (v : Func → Func) : (s.modFn f v).mem = s.mem := rfl

@[simp] theorem modFn_full (s : State) (f : Nat) (v : Func → Func) : (s.modFn f v).full = s.full := rfl

@[simp] theorem modFn_poison (s : State) (f : Nat) (v : Func → Func) : (s.modFn f v).poison = s.poison := rfl

@[simp] theorem modFn_lines (s : State) (f : Nat) (v : Func → Func) : (s.modFn f v).lines = s.lines := rfl

@[simp] theorem modFn_net (s : State) (f : Nat) (v : Func → Func) : (s.modFn f v).net = s.net := rfl

@[simp] theorem modFn_nextNet (s : State) (f : Nat) (v : Func → Func) : (s.modFn f v).nextNet = s.nextNet := rfl

@[simp] theorem modFn_barriers (s : State) (f : Nat) (v : Func → Func) : (s.modFn f v).barriers = s.barriers := rfl

@[simp] theorem modFn_watches (s : State) (f : Nat) (v : Func → Func) : (s.modFn f v).watches = s.watches := rfl

@[simp] theorem modFn_leases (s : State) (f : Nat) (v : Func → Func) : (s.modFn f v).leases = s.leases := rfl

@[simp] theorem modFn_freeAsids (s : State) (f : Nat) (v : Func → Func) : (s.modFn f v).freeAsids = s.freeAsids := rfl

@[simp] theorem modFn_running (s : State) (f : Nat) (v : Func → Func) : (s.modFn f v).running = s.running := rfl

@[simp] theorem modFn_nextLaunch (s : State) (f : Nat) (v : Func → Func) : (s.modFn f v).nextLaunch = s.nextLaunch := rfl

@[simp] theorem modFn_orders (s : State) (f : Nat) (v : Func → Func) : (s.modFn f v).orders = s.orders := rfl

@[simp] theorem modFn_saved (s : State) (f : Nat) (v : Func → Func) : (s.modFn f v).saved = s.saved := rfl

@[simp] theorem modFn_panelCap (s : State) (f : Nat) (v : Func → Func) : (s.modFn f v).panelCap = s.panelCap := rfl

@[simp] theorem modFn_netCap (s : State) (f : Nat) (v : Func → Func) : (s.modFn f v).netCap = s.netCap := rfl

@[simp] theorem modFn_cal (s : State) (f : Nat) (v : Func → Func) : (s.modFn f v).cal = s.cal := rfl

@[simp] theorem modFn_dieSite (s : State) (f : Nat) (v : Func → Func) : (s.modFn f v).dieSite = s.dieSite := rfl

@[simp] theorem modFn_spareUsed (s : State) (f : Nat) (v : Func → Func) : (s.modFn f v).spareUsed = s.spareUsed := rfl

@[simp] theorem modFn_spareSites (s : State) (f : Nat) (v : Func → Func) : (s.modFn f v).spareSites = s.spareSites := rfl

@[simp] theorem modFn_service (s : State) (f : Nat) (v : Func → Func) : (s.modFn f v).service = s.service := rfl

@[simp] theorem modFn_link (s : State) (f : Nat) (v : Func → Func) : (s.modFn f v).link = s.link := rfl

@[simp] theorem modFn_thr (s : State) (f : Nat) (v : Func → Func) (i : Nat) : (s.modFn f v).thr i = s.thr i := rfl

@[simp] theorem modFn_core (s : State) (f : Nat) (v : Func → Func) (i : Nat) : (s.modFn f v).core i = s.core i := rfl

@[simp] theorem modFn_quad (s : State) (f : Nat) (v : Func → Func) (i : Nat) : (s.modFn f v).quad i = s.quad i := rfl

@[simp] theorem modFn_die (s : State) (f : Nat) (v : Func → Func) (i : Nat) : (s.modFn f v).die i = s.die i := rfl

@[simp] theorem modFn_odie (s : State) (f : Nat) (v : Func → Func) (i : Nat) : (s.modFn f v).odie i = s.odie i := rfl

@[simp] theorem modFn_lse (s : State) (f : Nat) (v : Func → Func) (i : Nat) : (s.modFn f v).lse i = s.lse i := rfl

@[simp] theorem modFn_bar (s : State) (f : Nat) (v : Func → Func) (i : Nat) : (s.modFn f v).bar i = s.bar i := rfl

@[simp] theorem modFn_me (s : State) (f : Nat) (v : Func → Func) : (s.modFn f v).me = s.me := rfl

@[simp] theorem modFn_g (s : State) (f : Nat) (v : Func → Func) (i : BitVec 5) : (s.modFn f v).g i = s.g i := rfl

@[simp] theorem modFn_rd (s : State) (f : Nat) (v : Func → Func) (i n : Nat) : (s.modFn f v).rd i n = s.rd i n := rfl

/-! ## modLse -/

@[simp] theorem modLse_cur (s : State) (l : Nat) (v : Lease → Lease) : (s.modLse l v).cur = s.cur := rfl

@[simp] theorem modLse_cursor (s : State) (l : Nat) (v : Lease → Lease) : (s.modLse l v).cursor = s.cursor := rfl

@[simp] theorem modLse_cycle (s : State) (l : Nat) (v : Lease → Lease) : (s.modLse l v).cycle = s.cycle := rfl

@[simp] theorem modLse_fresh (s : State) (l : Nat) (v : Lease → Lease) : (s.modLse l v).fresh = s.fresh := rfl

@[simp] theorem modLse_agenda (s : State) (l : Nat) (v : Lease → Lease) : (s.modLse l v).agenda = s.agenda := rfl

@[simp] theorem modLse_threads (s : State) (l : Nat) (v : Lease → Lease) : (s.modLse l v).threads = s.threads := rfl

@[simp] theorem modLse_cores (s : State) (l : Nat) (v : Lease → Lease) : (s.modLse l v).cores = s.cores := rfl

@[simp] theorem modLse_quads (s : State) (l : Nat) (v : Lease → Lease) : (s.modLse l v).quads = s.quads := rfl

@[simp] theorem modLse_dies (s : State) (l : Nat) (v : Lease → Lease) : (s.modLse l v).dies = s.dies := rfl

@[simp] theorem modLse_odies (s : State) (l : Nat) (v : Lease → Lease) : (s.modLse l v).odies = s.odies := rfl

@[simp] theorem modLse_hbmBanks (s : State) (l : Nat) (v : Lease → Lease) : (s.modLse l v).hbmBanks = s.hbmBanks := rfl

@[simp] theorem modLse_errors (s : State) (l : Nat) (v : Lease → Lease) : (s.modLse l v).errors = s.errors := rfl

@[simp] theorem modLse_mem (s : State) (l : Nat) (v : Lease → Lease) : (s.modLse l v).mem = s.mem := rfl

@[simp] theorem modLse_full (s : State) (l : Nat) (v : Lease → Lease) : (s.modLse l v).full = s.full := rfl

@[simp] theorem modLse_poison (s : State) (l : Nat) (v : Lease → Lease) : (s.modLse l v).poison = s.poison := rfl

@[simp] theorem modLse_lines (s : State) (l : Nat) (v : Lease → Lease) : (s.modLse l v).lines = s.lines := rfl

@[simp] theorem modLse_net (s : State) (l : Nat) (v : Lease → Lease) : (s.modLse l v).net = s.net := rfl

@[simp] theorem modLse_nextNet (s : State) (l : Nat) (v : Lease → Lease) : (s.modLse l v).nextNet = s.nextNet := rfl

@[simp] theorem modLse_barriers (s : State) (l : Nat) (v : Lease → Lease) : (s.modLse l v).barriers = s.barriers := rfl

@[simp] theorem modLse_watches (s : State) (l : Nat) (v : Lease → Lease) : (s.modLse l v).watches = s.watches := rfl

@[simp] theorem modLse_funcs (s : State) (l : Nat) (v : Lease → Lease) : (s.modLse l v).funcs = s.funcs := rfl

@[simp] theorem modLse_freeAsids (s : State) (l : Nat) (v : Lease → Lease) : (s.modLse l v).freeAsids = s.freeAsids := rfl

@[simp] theorem modLse_running (s : State) (l : Nat) (v : Lease → Lease) : (s.modLse l v).running = s.running := rfl

@[simp] theorem modLse_nextLaunch (s : State) (l : Nat) (v : Lease → Lease) : (s.modLse l v).nextLaunch = s.nextLaunch := rfl

@[simp] theorem modLse_orders (s : State) (l : Nat) (v : Lease → Lease) : (s.modLse l v).orders = s.orders := rfl

@[simp] theorem modLse_saved (s : State) (l : Nat) (v : Lease → Lease) : (s.modLse l v).saved = s.saved := rfl

@[simp] theorem modLse_panelCap (s : State) (l : Nat) (v : Lease → Lease) : (s.modLse l v).panelCap = s.panelCap := rfl

@[simp] theorem modLse_netCap (s : State) (l : Nat) (v : Lease → Lease) : (s.modLse l v).netCap = s.netCap := rfl

@[simp] theorem modLse_cal (s : State) (l : Nat) (v : Lease → Lease) : (s.modLse l v).cal = s.cal := rfl

@[simp] theorem modLse_dieSite (s : State) (l : Nat) (v : Lease → Lease) : (s.modLse l v).dieSite = s.dieSite := rfl

@[simp] theorem modLse_spareUsed (s : State) (l : Nat) (v : Lease → Lease) : (s.modLse l v).spareUsed = s.spareUsed := rfl

@[simp] theorem modLse_spareSites (s : State) (l : Nat) (v : Lease → Lease) : (s.modLse l v).spareSites = s.spareSites := rfl

@[simp] theorem modLse_service (s : State) (l : Nat) (v : Lease → Lease) : (s.modLse l v).service = s.service := rfl

@[simp] theorem modLse_link (s : State) (l : Nat) (v : Lease → Lease) : (s.modLse l v).link = s.link := rfl

@[simp] theorem modLse_thr (s : State) (l : Nat) (v : Lease → Lease) (i : Nat) : (s.modLse l v).thr i = s.thr i := rfl

@[simp] theorem modLse_core (s : State) (l : Nat) (v : Lease → Lease) (i : Nat) : (s.modLse l v).core i = s.core i := rfl

@[simp] theorem modLse_quad (s : State) (l : Nat) (v : Lease → Lease) (i : Nat) : (s.modLse l v).quad i = s.quad i := rfl

@[simp] theorem modLse_die (s : State) (l : Nat) (v : Lease → Lease) (i : Nat) : (s.modLse l v).die i = s.die i := rfl

@[simp] theorem modLse_odie (s : State) (l : Nat) (v : Lease → Lease) (i : Nat) : (s.modLse l v).odie i = s.odie i := rfl

@[simp] theorem modLse_fn (s : State) (l : Nat) (v : Lease → Lease) (i : Nat) : (s.modLse l v).fn i = s.fn i := rfl

@[simp] theorem modLse_bar (s : State) (l : Nat) (v : Lease → Lease) (i : Nat) : (s.modLse l v).bar i = s.bar i := rfl

@[simp] theorem modLse_me (s : State) (l : Nat) (v : Lease → Lease) : (s.modLse l v).me = s.me := rfl

@[simp] theorem modLse_g (s : State) (l : Nat) (v : Lease → Lease) (i : BitVec 5) : (s.modLse l v).g i = s.g i := rfl

@[simp] theorem modLse_rd (s : State) (l : Nat) (v : Lease → Lease) (i n : Nat) : (s.modLse l v).rd i n = s.rd i n := rfl

/-! ## modBar -/

@[simp] theorem modBar_cur (s : State) (x : Nat) (v : Barrier → Barrier) : (s.modBar x v).cur = s.cur := rfl

@[simp] theorem modBar_cursor (s : State) (x : Nat) (v : Barrier → Barrier) : (s.modBar x v).cursor = s.cursor := rfl

@[simp] theorem modBar_cycle (s : State) (x : Nat) (v : Barrier → Barrier) : (s.modBar x v).cycle = s.cycle := rfl

@[simp] theorem modBar_fresh (s : State) (x : Nat) (v : Barrier → Barrier) : (s.modBar x v).fresh = s.fresh := rfl

@[simp] theorem modBar_agenda (s : State) (x : Nat) (v : Barrier → Barrier) : (s.modBar x v).agenda = s.agenda := rfl

@[simp] theorem modBar_threads (s : State) (x : Nat) (v : Barrier → Barrier) : (s.modBar x v).threads = s.threads := rfl

@[simp] theorem modBar_cores (s : State) (x : Nat) (v : Barrier → Barrier) : (s.modBar x v).cores = s.cores := rfl

@[simp] theorem modBar_quads (s : State) (x : Nat) (v : Barrier → Barrier) : (s.modBar x v).quads = s.quads := rfl

@[simp] theorem modBar_dies (s : State) (x : Nat) (v : Barrier → Barrier) : (s.modBar x v).dies = s.dies := rfl

@[simp] theorem modBar_odies (s : State) (x : Nat) (v : Barrier → Barrier) : (s.modBar x v).odies = s.odies := rfl

@[simp] theorem modBar_hbmBanks (s : State) (x : Nat) (v : Barrier → Barrier) : (s.modBar x v).hbmBanks = s.hbmBanks := rfl

@[simp] theorem modBar_errors (s : State) (x : Nat) (v : Barrier → Barrier) : (s.modBar x v).errors = s.errors := rfl

@[simp] theorem modBar_mem (s : State) (x : Nat) (v : Barrier → Barrier) : (s.modBar x v).mem = s.mem := rfl

@[simp] theorem modBar_full (s : State) (x : Nat) (v : Barrier → Barrier) : (s.modBar x v).full = s.full := rfl

@[simp] theorem modBar_poison (s : State) (x : Nat) (v : Barrier → Barrier) : (s.modBar x v).poison = s.poison := rfl

@[simp] theorem modBar_lines (s : State) (x : Nat) (v : Barrier → Barrier) : (s.modBar x v).lines = s.lines := rfl

@[simp] theorem modBar_net (s : State) (x : Nat) (v : Barrier → Barrier) : (s.modBar x v).net = s.net := rfl

@[simp] theorem modBar_nextNet (s : State) (x : Nat) (v : Barrier → Barrier) : (s.modBar x v).nextNet = s.nextNet := rfl

@[simp] theorem modBar_watches (s : State) (x : Nat) (v : Barrier → Barrier) : (s.modBar x v).watches = s.watches := rfl

@[simp] theorem modBar_funcs (s : State) (x : Nat) (v : Barrier → Barrier) : (s.modBar x v).funcs = s.funcs := rfl

@[simp] theorem modBar_leases (s : State) (x : Nat) (v : Barrier → Barrier) : (s.modBar x v).leases = s.leases := rfl

@[simp] theorem modBar_freeAsids (s : State) (x : Nat) (v : Barrier → Barrier) : (s.modBar x v).freeAsids = s.freeAsids := rfl

@[simp] theorem modBar_running (s : State) (x : Nat) (v : Barrier → Barrier) : (s.modBar x v).running = s.running := rfl

@[simp] theorem modBar_nextLaunch (s : State) (x : Nat) (v : Barrier → Barrier) : (s.modBar x v).nextLaunch = s.nextLaunch := rfl

@[simp] theorem modBar_orders (s : State) (x : Nat) (v : Barrier → Barrier) : (s.modBar x v).orders = s.orders := rfl

@[simp] theorem modBar_saved (s : State) (x : Nat) (v : Barrier → Barrier) : (s.modBar x v).saved = s.saved := rfl

@[simp] theorem modBar_panelCap (s : State) (x : Nat) (v : Barrier → Barrier) : (s.modBar x v).panelCap = s.panelCap := rfl

@[simp] theorem modBar_netCap (s : State) (x : Nat) (v : Barrier → Barrier) : (s.modBar x v).netCap = s.netCap := rfl

@[simp] theorem modBar_cal (s : State) (x : Nat) (v : Barrier → Barrier) : (s.modBar x v).cal = s.cal := rfl

@[simp] theorem modBar_dieSite (s : State) (x : Nat) (v : Barrier → Barrier) : (s.modBar x v).dieSite = s.dieSite := rfl

@[simp] theorem modBar_spareUsed (s : State) (x : Nat) (v : Barrier → Barrier) : (s.modBar x v).spareUsed = s.spareUsed := rfl

@[simp] theorem modBar_spareSites (s : State) (x : Nat) (v : Barrier → Barrier) : (s.modBar x v).spareSites = s.spareSites := rfl

@[simp] theorem modBar_service (s : State) (x : Nat) (v : Barrier → Barrier) : (s.modBar x v).service = s.service := rfl

@[simp] theorem modBar_link (s : State) (x : Nat) (v : Barrier → Barrier) : (s.modBar x v).link = s.link := rfl

@[simp] theorem modBar_thr (s : State) (x : Nat) (v : Barrier → Barrier) (i : Nat) : (s.modBar x v).thr i = s.thr i := rfl

@[simp] theorem modBar_core (s : State) (x : Nat) (v : Barrier → Barrier) (i : Nat) : (s.modBar x v).core i = s.core i := rfl

@[simp] theorem modBar_quad (s : State) (x : Nat) (v : Barrier → Barrier) (i : Nat) : (s.modBar x v).quad i = s.quad i := rfl

@[simp] theorem modBar_die (s : State) (x : Nat) (v : Barrier → Barrier) (i : Nat) : (s.modBar x v).die i = s.die i := rfl

@[simp] theorem modBar_odie (s : State) (x : Nat) (v : Barrier → Barrier) (i : Nat) : (s.modBar x v).odie i = s.odie i := rfl

@[simp] theorem modBar_fn (s : State) (x : Nat) (v : Barrier → Barrier) (i : Nat) : (s.modBar x v).fn i = s.fn i := rfl

@[simp] theorem modBar_lse (s : State) (x : Nat) (v : Barrier → Barrier) (i : Nat) : (s.modBar x v).lse i = s.lse i := rfl

@[simp] theorem modBar_me (s : State) (x : Nat) (v : Barrier → Barrier) : (s.modBar x v).me = s.me := rfl

@[simp] theorem modBar_g (s : State) (x : Nat) (v : Barrier → Barrier) (i : BitVec 5) : (s.modBar x v).g i = s.g i := rfl

@[simp] theorem modBar_rd (s : State) (x : Nat) (v : Barrier → Barrier) (i n : Nat) : (s.modBar x v).rd i n = s.rd i n := rfl

/-! ## due -/

@[simp] theorem due_cur (s : State) (e : Instr) : (s.due e).cur = s.cur := rfl

@[simp] theorem due_cursor (s : State) (e : Instr) : (s.due e).cursor = s.cursor := rfl

@[simp] theorem due_cycle (s : State) (e : Instr) : (s.due e).cycle = s.cycle := rfl

@[simp] theorem due_fresh (s : State) (e : Instr) : (s.due e).fresh = s.fresh := rfl

@[simp] theorem due_threads (s : State) (e : Instr) : (s.due e).threads = s.threads := rfl

@[simp] theorem due_cores (s : State) (e : Instr) : (s.due e).cores = s.cores := rfl

@[simp] theorem due_quads (s : State) (e : Instr) : (s.due e).quads = s.quads := rfl

@[simp] theorem due_dies (s : State) (e : Instr) : (s.due e).dies = s.dies := rfl

@[simp] theorem due_odies (s : State) (e : Instr) : (s.due e).odies = s.odies := rfl

@[simp] theorem due_hbmBanks (s : State) (e : Instr) : (s.due e).hbmBanks = s.hbmBanks := rfl

@[simp] theorem due_errors (s : State) (e : Instr) : (s.due e).errors = s.errors := rfl

@[simp] theorem due_mem (s : State) (e : Instr) : (s.due e).mem = s.mem := rfl

@[simp] theorem due_full (s : State) (e : Instr) : (s.due e).full = s.full := rfl

@[simp] theorem due_poison (s : State) (e : Instr) : (s.due e).poison = s.poison := rfl

@[simp] theorem due_lines (s : State) (e : Instr) : (s.due e).lines = s.lines := rfl

@[simp] theorem due_net (s : State) (e : Instr) : (s.due e).net = s.net := rfl

@[simp] theorem due_nextNet (s : State) (e : Instr) : (s.due e).nextNet = s.nextNet := rfl

@[simp] theorem due_barriers (s : State) (e : Instr) : (s.due e).barriers = s.barriers := rfl

@[simp] theorem due_watches (s : State) (e : Instr) : (s.due e).watches = s.watches := rfl

@[simp] theorem due_funcs (s : State) (e : Instr) : (s.due e).funcs = s.funcs := rfl

@[simp] theorem due_leases (s : State) (e : Instr) : (s.due e).leases = s.leases := rfl

@[simp] theorem due_freeAsids (s : State) (e : Instr) : (s.due e).freeAsids = s.freeAsids := rfl

@[simp] theorem due_running (s : State) (e : Instr) : (s.due e).running = s.running := rfl

@[simp] theorem due_nextLaunch (s : State) (e : Instr) : (s.due e).nextLaunch = s.nextLaunch := rfl

@[simp] theorem due_orders (s : State) (e : Instr) : (s.due e).orders = s.orders := rfl

@[simp] theorem due_saved (s : State) (e : Instr) : (s.due e).saved = s.saved := rfl

@[simp] theorem due_panelCap (s : State) (e : Instr) : (s.due e).panelCap = s.panelCap := rfl

@[simp] theorem due_netCap (s : State) (e : Instr) : (s.due e).netCap = s.netCap := rfl

@[simp] theorem due_cal (s : State) (e : Instr) : (s.due e).cal = s.cal := rfl

@[simp] theorem due_dieSite (s : State) (e : Instr) : (s.due e).dieSite = s.dieSite := rfl

@[simp] theorem due_spareUsed (s : State) (e : Instr) : (s.due e).spareUsed = s.spareUsed := rfl

@[simp] theorem due_spareSites (s : State) (e : Instr) : (s.due e).spareSites = s.spareSites := rfl

@[simp] theorem due_service (s : State) (e : Instr) : (s.due e).service = s.service := rfl

@[simp] theorem due_link (s : State) (e : Instr) : (s.due e).link = s.link := rfl

@[simp] theorem due_thr (s : State) (e : Instr) (i : Nat) : (s.due e).thr i = s.thr i := rfl

@[simp] theorem due_core (s : State) (e : Instr) (i : Nat) : (s.due e).core i = s.core i := rfl

@[simp] theorem due_quad (s : State) (e : Instr) (i : Nat) : (s.due e).quad i = s.quad i := rfl

@[simp] theorem due_die (s : State) (e : Instr) (i : Nat) : (s.due e).die i = s.die i := rfl

@[simp] theorem due_odie (s : State) (e : Instr) (i : Nat) : (s.due e).odie i = s.odie i := rfl

@[simp] theorem due_fn (s : State) (e : Instr) (i : Nat) : (s.due e).fn i = s.fn i := rfl

@[simp] theorem due_lse (s : State) (e : Instr) (i : Nat) : (s.due e).lse i = s.lse i := rfl

@[simp] theorem due_bar (s : State) (e : Instr) (i : Nat) : (s.due e).bar i = s.bar i := rfl

@[simp] theorem due_me (s : State) (e : Instr) : (s.due e).me = s.me := rfl

@[simp] theorem due_g (s : State) (e : Instr) (i : BitVec 5) : (s.due e).g i = s.g i := rfl

@[simp] theorem due_rd (s : State) (e : Instr) (i n : Nat) : (s.due e).rd i n = s.rd i n := rfl

/-! ## dueOnce -/

@[simp] theorem dueOnce_cur (s : State) (e : Instr) : (s.dueOnce e).cur = s.cur := by
  unfold State.dueOnce; split <;> rfl

@[simp] theorem dueOnce_cursor (s : State) (e : Instr) : (s.dueOnce e).cursor = s.cursor := by
  unfold State.dueOnce; split <;> rfl

@[simp] theorem dueOnce_cycle (s : State) (e : Instr) : (s.dueOnce e).cycle = s.cycle := by
  unfold State.dueOnce; split <;> rfl

@[simp] theorem dueOnce_fresh (s : State) (e : Instr) : (s.dueOnce e).fresh = s.fresh := by
  unfold State.dueOnce; split <;> rfl

@[simp] theorem dueOnce_threads (s : State) (e : Instr) : (s.dueOnce e).threads = s.threads := by
  unfold State.dueOnce; split <;> rfl

@[simp] theorem dueOnce_cores (s : State) (e : Instr) : (s.dueOnce e).cores = s.cores := by
  unfold State.dueOnce; split <;> rfl

@[simp] theorem dueOnce_quads (s : State) (e : Instr) : (s.dueOnce e).quads = s.quads := by
  unfold State.dueOnce; split <;> rfl

@[simp] theorem dueOnce_dies (s : State) (e : Instr) : (s.dueOnce e).dies = s.dies := by
  unfold State.dueOnce; split <;> rfl

@[simp] theorem dueOnce_odies (s : State) (e : Instr) : (s.dueOnce e).odies = s.odies := by
  unfold State.dueOnce; split <;> rfl

@[simp] theorem dueOnce_hbmBanks (s : State) (e : Instr) : (s.dueOnce e).hbmBanks = s.hbmBanks := by
  unfold State.dueOnce; split <;> rfl

@[simp] theorem dueOnce_errors (s : State) (e : Instr) : (s.dueOnce e).errors = s.errors := by
  unfold State.dueOnce; split <;> rfl

@[simp] theorem dueOnce_mem (s : State) (e : Instr) : (s.dueOnce e).mem = s.mem := by
  unfold State.dueOnce; split <;> rfl

@[simp] theorem dueOnce_full (s : State) (e : Instr) : (s.dueOnce e).full = s.full := by
  unfold State.dueOnce; split <;> rfl

@[simp] theorem dueOnce_poison (s : State) (e : Instr) : (s.dueOnce e).poison = s.poison := by
  unfold State.dueOnce; split <;> rfl

@[simp] theorem dueOnce_lines (s : State) (e : Instr) : (s.dueOnce e).lines = s.lines := by
  unfold State.dueOnce; split <;> rfl

@[simp] theorem dueOnce_net (s : State) (e : Instr) : (s.dueOnce e).net = s.net := by
  unfold State.dueOnce; split <;> rfl

@[simp] theorem dueOnce_nextNet (s : State) (e : Instr) : (s.dueOnce e).nextNet = s.nextNet := by
  unfold State.dueOnce; split <;> rfl

@[simp] theorem dueOnce_barriers (s : State) (e : Instr) : (s.dueOnce e).barriers = s.barriers := by
  unfold State.dueOnce; split <;> rfl

@[simp] theorem dueOnce_watches (s : State) (e : Instr) : (s.dueOnce e).watches = s.watches := by
  unfold State.dueOnce; split <;> rfl

@[simp] theorem dueOnce_funcs (s : State) (e : Instr) : (s.dueOnce e).funcs = s.funcs := by
  unfold State.dueOnce; split <;> rfl

@[simp] theorem dueOnce_leases (s : State) (e : Instr) : (s.dueOnce e).leases = s.leases := by
  unfold State.dueOnce; split <;> rfl

@[simp] theorem dueOnce_freeAsids (s : State) (e : Instr) : (s.dueOnce e).freeAsids = s.freeAsids := by
  unfold State.dueOnce; split <;> rfl

@[simp] theorem dueOnce_running (s : State) (e : Instr) : (s.dueOnce e).running = s.running := by
  unfold State.dueOnce; split <;> rfl

@[simp] theorem dueOnce_nextLaunch (s : State) (e : Instr) : (s.dueOnce e).nextLaunch = s.nextLaunch := by
  unfold State.dueOnce; split <;> rfl

@[simp] theorem dueOnce_orders (s : State) (e : Instr) : (s.dueOnce e).orders = s.orders := by
  unfold State.dueOnce; split <;> rfl

@[simp] theorem dueOnce_saved (s : State) (e : Instr) : (s.dueOnce e).saved = s.saved := by
  unfold State.dueOnce; split <;> rfl

@[simp] theorem dueOnce_panelCap (s : State) (e : Instr) : (s.dueOnce e).panelCap = s.panelCap := by
  unfold State.dueOnce; split <;> rfl

@[simp] theorem dueOnce_netCap (s : State) (e : Instr) : (s.dueOnce e).netCap = s.netCap := by
  unfold State.dueOnce; split <;> rfl

@[simp] theorem dueOnce_cal (s : State) (e : Instr) : (s.dueOnce e).cal = s.cal := by
  unfold State.dueOnce; split <;> rfl

@[simp] theorem dueOnce_dieSite (s : State) (e : Instr) : (s.dueOnce e).dieSite = s.dieSite := by
  unfold State.dueOnce; split <;> rfl

@[simp] theorem dueOnce_spareUsed (s : State) (e : Instr) : (s.dueOnce e).spareUsed = s.spareUsed := by
  unfold State.dueOnce; split <;> rfl

@[simp] theorem dueOnce_spareSites (s : State) (e : Instr) : (s.dueOnce e).spareSites = s.spareSites := by
  unfold State.dueOnce; split <;> rfl

@[simp] theorem dueOnce_service (s : State) (e : Instr) : (s.dueOnce e).service = s.service := by
  unfold State.dueOnce; split <;> rfl

@[simp] theorem dueOnce_link (s : State) (e : Instr) : (s.dueOnce e).link = s.link := by
  unfold State.dueOnce; split <;> rfl

@[simp] theorem dueOnce_thr (s : State) (e : Instr) (i : Nat) : (s.dueOnce e).thr i = s.thr i := by
  unfold State.dueOnce; split <;> rfl

@[simp] theorem dueOnce_core (s : State) (e : Instr) (i : Nat) : (s.dueOnce e).core i = s.core i := by
  unfold State.dueOnce; split <;> rfl

@[simp] theorem dueOnce_quad (s : State) (e : Instr) (i : Nat) : (s.dueOnce e).quad i = s.quad i := by
  unfold State.dueOnce; split <;> rfl

@[simp] theorem dueOnce_die (s : State) (e : Instr) (i : Nat) : (s.dueOnce e).die i = s.die i := by
  unfold State.dueOnce; split <;> rfl

@[simp] theorem dueOnce_odie (s : State) (e : Instr) (i : Nat) : (s.dueOnce e).odie i = s.odie i := by
  unfold State.dueOnce; split <;> rfl

@[simp] theorem dueOnce_fn (s : State) (e : Instr) (i : Nat) : (s.dueOnce e).fn i = s.fn i := by
  unfold State.dueOnce; split <;> rfl

@[simp] theorem dueOnce_lse (s : State) (e : Instr) (i : Nat) : (s.dueOnce e).lse i = s.lse i := by
  unfold State.dueOnce; split <;> rfl

@[simp] theorem dueOnce_bar (s : State) (e : Instr) (i : Nat) : (s.dueOnce e).bar i = s.bar i := by
  unfold State.dueOnce; split <;> rfl

@[simp] theorem dueOnce_me (s : State) (e : Instr) : (s.dueOnce e).me = s.me := by
  unfold State.dueOnce; split <;> rfl

@[simp] theorem dueOnce_g (s : State) (e : Instr) (i : BitVec 5) : (s.dueOnce e).g i = s.g i := by
  unfold State.dueOnce; split <;> rfl

@[simp] theorem dueOnce_rd (s : State) (e : Instr) (i n : Nat) : (s.dueOnce e).rd i n = s.rd i n := by
  unfold State.dueOnce; split <;> rfl

/-! ## wr -/

@[simp] theorem wr_cur (s : State) (a : Nat) (bs : List Byte) : (s.wr a bs).cur = s.cur := rfl

@[simp] theorem wr_cursor (s : State) (a : Nat) (bs : List Byte) : (s.wr a bs).cursor = s.cursor := rfl

@[simp] theorem wr_cycle (s : State) (a : Nat) (bs : List Byte) : (s.wr a bs).cycle = s.cycle := rfl

@[simp] theorem wr_fresh (s : State) (a : Nat) (bs : List Byte) : (s.wr a bs).fresh = s.fresh := rfl

@[simp] theorem wr_agenda (s : State) (a : Nat) (bs : List Byte) : (s.wr a bs).agenda = s.agenda := rfl

@[simp] theorem wr_threads (s : State) (a : Nat) (bs : List Byte) : (s.wr a bs).threads = s.threads := rfl

@[simp] theorem wr_cores (s : State) (a : Nat) (bs : List Byte) : (s.wr a bs).cores = s.cores := rfl

@[simp] theorem wr_quads (s : State) (a : Nat) (bs : List Byte) : (s.wr a bs).quads = s.quads := rfl

@[simp] theorem wr_dies (s : State) (a : Nat) (bs : List Byte) : (s.wr a bs).dies = s.dies := rfl

@[simp] theorem wr_odies (s : State) (a : Nat) (bs : List Byte) : (s.wr a bs).odies = s.odies := rfl

@[simp] theorem wr_hbmBanks (s : State) (a : Nat) (bs : List Byte) : (s.wr a bs).hbmBanks = s.hbmBanks := rfl

@[simp] theorem wr_errors (s : State) (a : Nat) (bs : List Byte) : (s.wr a bs).errors = s.errors := rfl

@[simp] theorem wr_full (s : State) (a : Nat) (bs : List Byte) : (s.wr a bs).full = s.full := rfl

@[simp] theorem wr_poison (s : State) (a : Nat) (bs : List Byte) : (s.wr a bs).poison = s.poison := rfl

@[simp] theorem wr_lines (s : State) (a : Nat) (bs : List Byte) : (s.wr a bs).lines = s.lines := rfl

@[simp] theorem wr_net (s : State) (a : Nat) (bs : List Byte) : (s.wr a bs).net = s.net := rfl

@[simp] theorem wr_nextNet (s : State) (a : Nat) (bs : List Byte) : (s.wr a bs).nextNet = s.nextNet := rfl

@[simp] theorem wr_barriers (s : State) (a : Nat) (bs : List Byte) : (s.wr a bs).barriers = s.barriers := rfl

@[simp] theorem wr_watches (s : State) (a : Nat) (bs : List Byte) : (s.wr a bs).watches = s.watches := rfl

@[simp] theorem wr_funcs (s : State) (a : Nat) (bs : List Byte) : (s.wr a bs).funcs = s.funcs := rfl

@[simp] theorem wr_leases (s : State) (a : Nat) (bs : List Byte) : (s.wr a bs).leases = s.leases := rfl

@[simp] theorem wr_freeAsids (s : State) (a : Nat) (bs : List Byte) : (s.wr a bs).freeAsids = s.freeAsids := rfl

@[simp] theorem wr_running (s : State) (a : Nat) (bs : List Byte) : (s.wr a bs).running = s.running := rfl

@[simp] theorem wr_nextLaunch (s : State) (a : Nat) (bs : List Byte) : (s.wr a bs).nextLaunch = s.nextLaunch := rfl

@[simp] theorem wr_orders (s : State) (a : Nat) (bs : List Byte) : (s.wr a bs).orders = s.orders := rfl

@[simp] theorem wr_saved (s : State) (a : Nat) (bs : List Byte) : (s.wr a bs).saved = s.saved := rfl

@[simp] theorem wr_panelCap (s : State) (a : Nat) (bs : List Byte) : (s.wr a bs).panelCap = s.panelCap := rfl

@[simp] theorem wr_netCap (s : State) (a : Nat) (bs : List Byte) : (s.wr a bs).netCap = s.netCap := rfl

@[simp] theorem wr_cal (s : State) (a : Nat) (bs : List Byte) : (s.wr a bs).cal = s.cal := rfl

@[simp] theorem wr_dieSite (s : State) (a : Nat) (bs : List Byte) : (s.wr a bs).dieSite = s.dieSite := rfl

@[simp] theorem wr_spareUsed (s : State) (a : Nat) (bs : List Byte) : (s.wr a bs).spareUsed = s.spareUsed := rfl

@[simp] theorem wr_spareSites (s : State) (a : Nat) (bs : List Byte) : (s.wr a bs).spareSites = s.spareSites := rfl

@[simp] theorem wr_service (s : State) (a : Nat) (bs : List Byte) : (s.wr a bs).service = s.service := rfl

@[simp] theorem wr_link (s : State) (a : Nat) (bs : List Byte) : (s.wr a bs).link = s.link := rfl

@[simp] theorem wr_thr (s : State) (a : Nat) (bs : List Byte) (i : Nat) : (s.wr a bs).thr i = s.thr i := rfl

@[simp] theorem wr_core (s : State) (a : Nat) (bs : List Byte) (i : Nat) : (s.wr a bs).core i = s.core i := rfl

@[simp] theorem wr_quad (s : State) (a : Nat) (bs : List Byte) (i : Nat) : (s.wr a bs).quad i = s.quad i := rfl

@[simp] theorem wr_die (s : State) (a : Nat) (bs : List Byte) (i : Nat) : (s.wr a bs).die i = s.die i := rfl

@[simp] theorem wr_odie (s : State) (a : Nat) (bs : List Byte) (i : Nat) : (s.wr a bs).odie i = s.odie i := rfl

@[simp] theorem wr_fn (s : State) (a : Nat) (bs : List Byte) (i : Nat) : (s.wr a bs).fn i = s.fn i := rfl

@[simp] theorem wr_lse (s : State) (a : Nat) (bs : List Byte) (i : Nat) : (s.wr a bs).lse i = s.lse i := rfl

@[simp] theorem wr_bar (s : State) (a : Nat) (bs : List Byte) (i : Nat) : (s.wr a bs).bar i = s.bar i := rfl

@[simp] theorem wr_me (s : State) (a : Nat) (bs : List Byte) : (s.wr a bs).me = s.me := rfl

@[simp] theorem wr_g (s : State) (a : Nat) (bs : List Byte) (i : BitVec 5) : (s.wr a bs).g i = s.g i := rfl

/-! ## setFull -/

@[simp] theorem setFull_cur (s : State) (a : Nat) (b : Bool) : (s.setFull a b).cur = s.cur := rfl

@[simp] theorem setFull_cursor (s : State) (a : Nat) (b : Bool) : (s.setFull a b).cursor = s.cursor := rfl

@[simp] theorem setFull_cycle (s : State) (a : Nat) (b : Bool) : (s.setFull a b).cycle = s.cycle := rfl

@[simp] theorem setFull_fresh (s : State) (a : Nat) (b : Bool) : (s.setFull a b).fresh = s.fresh := rfl

@[simp] theorem setFull_agenda (s : State) (a : Nat) (b : Bool) : (s.setFull a b).agenda = s.agenda := rfl

@[simp] theorem setFull_threads (s : State) (a : Nat) (b : Bool) : (s.setFull a b).threads = s.threads := rfl

@[simp] theorem setFull_cores (s : State) (a : Nat) (b : Bool) : (s.setFull a b).cores = s.cores := rfl

@[simp] theorem setFull_quads (s : State) (a : Nat) (b : Bool) : (s.setFull a b).quads = s.quads := rfl

@[simp] theorem setFull_dies (s : State) (a : Nat) (b : Bool) : (s.setFull a b).dies = s.dies := rfl

@[simp] theorem setFull_odies (s : State) (a : Nat) (b : Bool) : (s.setFull a b).odies = s.odies := rfl

@[simp] theorem setFull_hbmBanks (s : State) (a : Nat) (b : Bool) : (s.setFull a b).hbmBanks = s.hbmBanks := rfl

@[simp] theorem setFull_errors (s : State) (a : Nat) (b : Bool) : (s.setFull a b).errors = s.errors := rfl

@[simp] theorem setFull_mem (s : State) (a : Nat) (b : Bool) : (s.setFull a b).mem = s.mem := rfl

@[simp] theorem setFull_poison (s : State) (a : Nat) (b : Bool) : (s.setFull a b).poison = s.poison := rfl

@[simp] theorem setFull_lines (s : State) (a : Nat) (b : Bool) : (s.setFull a b).lines = s.lines := rfl

@[simp] theorem setFull_net (s : State) (a : Nat) (b : Bool) : (s.setFull a b).net = s.net := rfl

@[simp] theorem setFull_nextNet (s : State) (a : Nat) (b : Bool) : (s.setFull a b).nextNet = s.nextNet := rfl

@[simp] theorem setFull_barriers (s : State) (a : Nat) (b : Bool) : (s.setFull a b).barriers = s.barriers := rfl

@[simp] theorem setFull_watches (s : State) (a : Nat) (b : Bool) : (s.setFull a b).watches = s.watches := rfl

@[simp] theorem setFull_funcs (s : State) (a : Nat) (b : Bool) : (s.setFull a b).funcs = s.funcs := rfl

@[simp] theorem setFull_leases (s : State) (a : Nat) (b : Bool) : (s.setFull a b).leases = s.leases := rfl

@[simp] theorem setFull_freeAsids (s : State) (a : Nat) (b : Bool) : (s.setFull a b).freeAsids = s.freeAsids := rfl

@[simp] theorem setFull_running (s : State) (a : Nat) (b : Bool) : (s.setFull a b).running = s.running := rfl

@[simp] theorem setFull_nextLaunch (s : State) (a : Nat) (b : Bool) : (s.setFull a b).nextLaunch = s.nextLaunch := rfl

@[simp] theorem setFull_orders (s : State) (a : Nat) (b : Bool) : (s.setFull a b).orders = s.orders := rfl

@[simp] theorem setFull_saved (s : State) (a : Nat) (b : Bool) : (s.setFull a b).saved = s.saved := rfl

@[simp] theorem setFull_panelCap (s : State) (a : Nat) (b : Bool) : (s.setFull a b).panelCap = s.panelCap := rfl

@[simp] theorem setFull_netCap (s : State) (a : Nat) (b : Bool) : (s.setFull a b).netCap = s.netCap := rfl

@[simp] theorem setFull_cal (s : State) (a : Nat) (b : Bool) : (s.setFull a b).cal = s.cal := rfl

@[simp] theorem setFull_dieSite (s : State) (a : Nat) (b : Bool) : (s.setFull a b).dieSite = s.dieSite := rfl

@[simp] theorem setFull_spareUsed (s : State) (a : Nat) (b : Bool) : (s.setFull a b).spareUsed = s.spareUsed := rfl

@[simp] theorem setFull_spareSites (s : State) (a : Nat) (b : Bool) : (s.setFull a b).spareSites = s.spareSites := rfl

@[simp] theorem setFull_service (s : State) (a : Nat) (b : Bool) : (s.setFull a b).service = s.service := rfl

@[simp] theorem setFull_link (s : State) (a : Nat) (b : Bool) : (s.setFull a b).link = s.link := rfl

@[simp] theorem setFull_thr (s : State) (a : Nat) (b : Bool) (i : Nat) : (s.setFull a b).thr i = s.thr i := rfl

@[simp] theorem setFull_core (s : State) (a : Nat) (b : Bool) (i : Nat) : (s.setFull a b).core i = s.core i := rfl

@[simp] theorem setFull_quad (s : State) (a : Nat) (b : Bool) (i : Nat) : (s.setFull a b).quad i = s.quad i := rfl

@[simp] theorem setFull_die (s : State) (a : Nat) (b : Bool) (i : Nat) : (s.setFull a b).die i = s.die i := rfl

@[simp] theorem setFull_odie (s : State) (a : Nat) (b : Bool) (i : Nat) : (s.setFull a b).odie i = s.odie i := rfl

@[simp] theorem setFull_fn (s : State) (a : Nat) (b : Bool) (i : Nat) : (s.setFull a b).fn i = s.fn i := rfl

@[simp] theorem setFull_lse (s : State) (a : Nat) (b : Bool) (i : Nat) : (s.setFull a b).lse i = s.lse i := rfl

@[simp] theorem setFull_bar (s : State) (a : Nat) (b : Bool) (i : Nat) : (s.setFull a b).bar i = s.bar i := rfl

@[simp] theorem setFull_me (s : State) (a : Nat) (b : Bool) : (s.setFull a b).me = s.me := rfl

@[simp] theorem setFull_g (s : State) (a : Nat) (b : Bool) (i : BitVec 5) : (s.setFull a b).g i = s.g i := rfl

@[simp] theorem setFull_rd (s : State) (a : Nat) (b : Bool) (i n : Nat) : (s.setFull a b).rd i n = s.rd i n := rfl

/-! ## Threads -/

@[simp] theorem put_st (th : Thread) (r : Nat) (v : Word) : (th.put r v).st = th.st := by
  unfold Thread.put; split <;> rfl

@[simp] theorem put_pc (th : Thread) (r : Nat) (v : Word) : (th.put r v).pc = th.pc := by
  unfold Thread.put; split <;> rfl

@[simp] theorem put_v (th : Thread) (r : Nat) (v : Word) : (th.put r v).v = th.v := by
  unfold Thread.put; split <;> rfl

@[simp] theorem put_m (th : Thread) (r : Nat) (v : Word) : (th.put r v).m = th.m := by
  unfold Thread.put; split <;> rfl

@[simp] theorem put_xacc (th : Thread) (r : Nat) (v : Word) : (th.put r v).xacc = th.xacc := by
  unfold Thread.put; split <;> rfl

@[simp] theorem put_xstate (th : Thread) (r : Nat) (v : Word) : (th.put r v).xstate = th.xstate := by
  unfold Thread.put; split <;> rfl

@[simp] theorem put_tsr (th : Thread) (r : Nat) (v : Word) : (th.put r v).tsr = th.tsr := by
  unfold Thread.put; split <;> rfl

@[simp] theorem put_pfxsave (th : Thread) (r : Nat) (v : Word) : (th.put r v).pfxsave = th.pfxsave := by
  unfold Thread.put; split <;> rfl

@[simp] theorem put_repstate (th : Thread) (r : Nat) (v : Word) : (th.put r v).repstate = th.repstate := by
  unfold Thread.put; split <;> rfl

@[simp] theorem put_rndlfsr (th : Thread) (r : Nat) (v : Word) : (th.put r v).rndlfsr = th.rndlfsr := by
  unfold Thread.put; split <;> rfl

@[simp] theorem put_utvec (th : Thread) (r : Nat) (v : Word) : (th.put r v).utvec = th.utvec := by
  unfold Thread.put; split <;> rfl

@[simp] theorem put_uiepc (th : Thread) (r : Nat) (v : Word) : (th.put r v).uiepc = th.uiepc := by
  unfold Thread.put; split <;> rfl

@[simp] theorem put_uipfx (th : Thread) (r : Nat) (v : Word) : (th.put r v).uipfx = th.uipfx := by
  unfold Thread.put; split <;> rfl

@[simp] theorem put_uicause (th : Thread) (r : Nat) (v : Word) : (th.put r v).uicause = th.uicause := by
  unfold Thread.put; split <;> rfl

@[simp] theorem put_uixid (th : Thread) (r : Nat) (v : Word) : (th.put r v).uixid = th.uixid := by
  unfold Thread.put; split <;> rfl

@[simp] theorem put_uienable (th : Thread) (r : Nat) (v : Word) : (th.put r v).uienable = th.uienable := by
  unfold Thread.put; split <;> rfl

@[simp] theorem put_uiovf (th : Thread) (r : Nat) (v : Word) : (th.put r v).uiovf = th.uiovf := by
  unfold Thread.put; split <;> rfl

@[simp] theorem put_fifo (th : Thread) (r : Nat) (v : Word) : (th.put r v).fifo = th.fifo := by
  unfold Thread.put; split <;> rfl

@[simp] theorem put_rtimeout (th : Thread) (r : Nat) (v : Word) : (th.put r v).rtimeout = th.rtimeout := by
  unfold Thread.put; split <;> rfl

@[simp] theorem put_home (th : Thread) (r : Nat) (v : Word) : (th.put r v).home = th.home := by
  unfold Thread.put; split <;> rfl

@[simp] theorem put_origin (th : Thread) (r : Nat) (v : Word) : (th.put r v).origin = th.origin := by
  unfold Thread.put; split <;> rfl

@[simp] theorem put_launch (th : Thread) (r : Nat) (v : Word) : (th.put r v).launch = th.launch := by
  unfold Thread.put; split <;> rfl

@[simp] theorem put_slot (th : Thread) (r : Nat) (v : Word) : (th.put r v).slot = th.slot := by
  unfold Thread.put; split <;> rfl

@[simp] theorem put_fn (th : Thread) (r : Nat) (v : Word) : (th.put r v).fn = th.fn := by
  unfold Thread.put; split <;> rfl

@[simp] theorem put_lease (th : Thread) (r : Nat) (v : Word) : (th.put r v).lease = th.lease := by
  unfold Thread.put; split <;> rfl

@[simp] theorem put_tepc (th : Thread) (r : Nat) (v : Word) : (th.put r v).tepc = th.tepc := by
  unfold Thread.put; split <;> rfl

@[simp] theorem put_tcause (th : Thread) (r : Nat) (v : Word) : (th.put r v).tcause = th.tcause := by
  unfold Thread.put; split <;> rfl

@[simp] theorem put_tval (th : Thread) (r : Nat) (v : Word) : (th.put r v).tval = th.tval := by
  unfold Thread.put; split <;> rfl

@[simp] theorem put_tstat (th : Thread) (r : Nat) (v : Word) : (th.put r v).tstat = th.tstat := by
  unfold Thread.put; split <;> rfl

@[simp] theorem put_tpfx (th : Thread) (r : Nat) (v : Word) : (th.put r v).tpfx = th.tpfx := by
  unfold Thread.put; split <;> rfl

@[simp] theorem put_sigV (th : Thread) (r : Nat) (v : Word) : (th.put r v).sigV = th.sigV := by
  unfold Thread.put; split <;> rfl

@[simp] theorem put_sigRem (th : Thread) (r : Nat) (v : Word) : (th.put r v).sigRem = th.sigRem := by
  unfold Thread.put; split <;> rfl

@[simp] theorem put_sigCrc (th : Thread) (r : Nat) (v : Word) : (th.put r v).sigCrc = th.sigCrc := by
  unfold Thread.put; split <;> rfl

@[simp] theorem put_stvec (th : Thread) (r : Nat) (v : Word) : (th.put r v).stvec = th.stvec := by
  unfold Thread.put; split <;> rfl

@[simp] theorem put_ltvec (th : Thread) (r : Nat) (v : Word) : (th.put r v).ltvec = th.ltvec := by
  unfold Thread.put; split <;> rfl

@[simp] theorem put_ptvec (th : Thread) (r : Nat) (v : Word) : (th.put r v).ptvec = th.ptvec := by
  unfold Thread.put; split <;> rfl

@[simp] theorem put_segs (th : Thread) (r : Nat) (v : Word) : (th.put r v).segs = th.segs := by
  unfold Thread.put; split <;> rfl

@[simp] theorem put_sigWant (th : Thread) (r : Nat) (v : Word) : (th.put r v).sigWant = th.sigWant := by
  unfold Thread.put; split <;> rfl

@[simp] theorem put_blk (th : Thread) (r : Nat) (v : Word) : (th.put r v).blk = th.blk := by
  unfold Thread.put; split <;> rfl

@[simp] theorem put_blkNext (th : Thread) (r : Nat) (v : Word) : (th.put r v).blkNext = th.blkNext := by
  unfold Thread.put; split <;> rfl

@[simp] theorem put_fbuf (th : Thread) (r : Nat) (v : Word) : (th.put r v).fbuf = th.fbuf := by
  unfold Thread.put; split <;> rfl

@[simp] theorem put_ahead (th : Thread) (r : Nat) (v : Word) : (th.put r v).ahead = th.ahead := by
  unfold Thread.put; split <;> rfl

@[simp] theorem put_rep (th : Thread) (r : Nat) (v : Word) : (th.put r v).rep = th.rep := by
  unfold Thread.put; split <;> rfl

@[simp] theorem put_fly (th : Thread) (r : Nat) (v : Word) : (th.put r v).fly = th.fly := by
  unfold Thread.put; split <;> rfl

@[simp] theorem put_repFault (th : Thread) (r : Nat) (v : Word) : (th.put r v).repFault = th.repFault := by
  unfold Thread.put; split <;> rfl

@[simp] theorem put_latch (th : Thread) (r : Nat) (v : Word) : (th.put r v).latch = th.latch := by
  unfold Thread.put; split <;> rfl

@[simp] theorem put_nseq (th : Thread) (r : Nat) (v : Word) : (th.put r v).nseq = th.nseq := by
  unfold Thread.put; split <;> rfl

@[simp] theorem put_rovf (th : Thread) (r : Nat) (v : Word) : (th.put r v).rovf = th.rovf := by
  unfold Thread.put; split <;> rfl

@[simp] theorem put_refusals (th : Thread) (r : Nat) (v : Word) : (th.put r v).refusals = th.refusals := by
  unfold Thread.put; split <;> rfl

@[simp] theorem put_gen (th : Thread) (r : Nat) (v : Word) : (th.put r v).gen = th.gen := by
  unfold Thread.put; split <;> rfl

@[simp] theorem put_unanswered (th : Thread) (r : Nat) (v : Word) : (th.put r v).unanswered = th.unanswered := by
  unfold Thread.put; split <;> rfl

@[simp] theorem put_op (th : Thread) (r : Nat) (v : Word) : (th.put r v).op = th.op := by
  unfold Thread.put; split <;> rfl

@[simp] theorem put_resHalf (th : Thread) (r : Nat) (v : Word) : (th.put r v).resHalf = th.resHalf := by
  unfold Thread.put; split <;> rfl

@[simp] theorem put_present (th : Thread) (r : Nat) (v : Word) : (th.put r v).present = th.present := by
  unfold Thread.put; split <;> rfl

@[simp] theorem put_lvq (th : Thread) (r : Nat) (v : Word) : (th.put r v).lvq = th.lvq := by
  unfold Thread.put; split <;> rfl

@[simp] theorem put_word (th : Thread) (r : Nat) (v : Word) : (th.put r v).word = th.word := by
  unfold Thread.put; split <;> rfl

/-! ## Thread.complete -/

@[simp] theorem complete_g (th : Thread) (pc : Word) (b : Bool) : (th.complete pc b).g = th.g := rfl

@[simp] theorem complete_residue (th : Thread) (pc : Word) (b : Bool) : (th.complete pc b).residue = th.residue := rfl

@[simp] theorem complete_v (th : Thread) (pc : Word) (b : Bool) : (th.complete pc b).v = th.v := rfl

@[simp] theorem complete_m (th : Thread) (pc : Word) (b : Bool) : (th.complete pc b).m = th.m := rfl

@[simp] theorem complete_xacc (th : Thread) (pc : Word) (b : Bool) : (th.complete pc b).xacc = th.xacc := rfl

@[simp] theorem complete_xstate (th : Thread) (pc : Word) (b : Bool) : (th.complete pc b).xstate = th.xstate := rfl

@[simp] theorem complete_pfxsave (th : Thread) (pc : Word) (b : Bool) : (th.complete pc b).pfxsave = th.pfxsave := rfl

@[simp] theorem complete_repstate (th : Thread) (pc : Word) (b : Bool) : (th.complete pc b).repstate = th.repstate := rfl

@[simp] theorem complete_rndlfsr (th : Thread) (pc : Word) (b : Bool) : (th.complete pc b).rndlfsr = th.rndlfsr := rfl

@[simp] theorem complete_utvec (th : Thread) (pc : Word) (b : Bool) : (th.complete pc b).utvec = th.utvec := rfl

@[simp] theorem complete_uiepc (th : Thread) (pc : Word) (b : Bool) : (th.complete pc b).uiepc = th.uiepc := rfl

@[simp] theorem complete_uipfx (th : Thread) (pc : Word) (b : Bool) : (th.complete pc b).uipfx = th.uipfx := rfl

@[simp] theorem complete_uicause (th : Thread) (pc : Word) (b : Bool) : (th.complete pc b).uicause = th.uicause := rfl

@[simp] theorem complete_uixid (th : Thread) (pc : Word) (b : Bool) : (th.complete pc b).uixid = th.uixid := rfl

@[simp] theorem complete_uienable (th : Thread) (pc : Word) (b : Bool) : (th.complete pc b).uienable = th.uienable := rfl

@[simp] theorem complete_uiovf (th : Thread) (pc : Word) (b : Bool) : (th.complete pc b).uiovf = th.uiovf := rfl

@[simp] theorem complete_fifo (th : Thread) (pc : Word) (b : Bool) : (th.complete pc b).fifo = th.fifo := rfl

@[simp] theorem complete_rtimeout (th : Thread) (pc : Word) (b : Bool) : (th.complete pc b).rtimeout = th.rtimeout := rfl

@[simp] theorem complete_home (th : Thread) (pc : Word) (b : Bool) : (th.complete pc b).home = th.home := rfl

@[simp] theorem complete_origin (th : Thread) (pc : Word) (b : Bool) : (th.complete pc b).origin = th.origin := rfl

@[simp] theorem complete_launch (th : Thread) (pc : Word) (b : Bool) : (th.complete pc b).launch = th.launch := rfl

@[simp] theorem complete_slot (th : Thread) (pc : Word) (b : Bool) : (th.complete pc b).slot = th.slot := rfl

@[simp] theorem complete_fn (th : Thread) (pc : Word) (b : Bool) : (th.complete pc b).fn = th.fn := rfl

@[simp] theorem complete_lease (th : Thread) (pc : Word) (b : Bool) : (th.complete pc b).lease = th.lease := rfl

@[simp] theorem complete_tepc (th : Thread) (pc : Word) (b : Bool) : (th.complete pc b).tepc = th.tepc := rfl

@[simp] theorem complete_tcause (th : Thread) (pc : Word) (b : Bool) : (th.complete pc b).tcause = th.tcause := rfl

@[simp] theorem complete_tval (th : Thread) (pc : Word) (b : Bool) : (th.complete pc b).tval = th.tval := rfl

@[simp] theorem complete_tstat (th : Thread) (pc : Word) (b : Bool) : (th.complete pc b).tstat = th.tstat := rfl

@[simp] theorem complete_tpfx (th : Thread) (pc : Word) (b : Bool) : (th.complete pc b).tpfx = th.tpfx := rfl

@[simp] theorem complete_sigV (th : Thread) (pc : Word) (b : Bool) : (th.complete pc b).sigV = th.sigV := rfl

@[simp] theorem complete_sigRem (th : Thread) (pc : Word) (b : Bool) : (th.complete pc b).sigRem = th.sigRem := rfl

@[simp] theorem complete_sigCrc (th : Thread) (pc : Word) (b : Bool) : (th.complete pc b).sigCrc = th.sigCrc := rfl

@[simp] theorem complete_stvec (th : Thread) (pc : Word) (b : Bool) : (th.complete pc b).stvec = th.stvec := rfl

@[simp] theorem complete_ltvec (th : Thread) (pc : Word) (b : Bool) : (th.complete pc b).ltvec = th.ltvec := rfl

@[simp] theorem complete_ptvec (th : Thread) (pc : Word) (b : Bool) : (th.complete pc b).ptvec = th.ptvec := rfl

@[simp] theorem complete_segs (th : Thread) (pc : Word) (b : Bool) : (th.complete pc b).segs = th.segs := rfl

@[simp] theorem complete_sigWant (th : Thread) (pc : Word) (b : Bool) : (th.complete pc b).sigWant = th.sigWant := rfl

@[simp] theorem complete_blkNext (th : Thread) (pc : Word) (b : Bool) : (th.complete pc b).blkNext = th.blkNext := rfl

@[simp] theorem complete_fbuf (th : Thread) (pc : Word) (b : Bool) : (th.complete pc b).fbuf = th.fbuf := rfl

@[simp] theorem complete_ahead (th : Thread) (pc : Word) (b : Bool) : (th.complete pc b).ahead = th.ahead := rfl

@[simp] theorem complete_rep (th : Thread) (pc : Word) (b : Bool) : (th.complete pc b).rep = th.rep := rfl

@[simp] theorem complete_fly (th : Thread) (pc : Word) (b : Bool) : (th.complete pc b).fly = th.fly := rfl

@[simp] theorem complete_repFault (th : Thread) (pc : Word) (b : Bool) : (th.complete pc b).repFault = th.repFault := rfl

@[simp] theorem complete_latch (th : Thread) (pc : Word) (b : Bool) : (th.complete pc b).latch = th.latch := rfl

@[simp] theorem complete_nseq (th : Thread) (pc : Word) (b : Bool) : (th.complete pc b).nseq = th.nseq := rfl

@[simp] theorem complete_rovf (th : Thread) (pc : Word) (b : Bool) : (th.complete pc b).rovf = th.rovf := rfl

@[simp] theorem complete_refusals (th : Thread) (pc : Word) (b : Bool) : (th.complete pc b).refusals = th.refusals := rfl

@[simp] theorem complete_gen (th : Thread) (pc : Word) (b : Bool) : (th.complete pc b).gen = th.gen := rfl

@[simp] theorem complete_unanswered (th : Thread) (pc : Word) (b : Bool) : (th.complete pc b).unanswered = th.unanswered := rfl

@[simp] theorem complete_present (th : Thread) (pc : Word) (b : Bool) : (th.complete pc b).present = th.present := rfl

@[simp] theorem complete_lvq (th : Thread) (pc : Word) (b : Bool) : (th.complete pc b).lvq = th.lvq := rfl

@[simp] theorem complete_word (th : Thread) (pc : Word) (b : Bool) : (th.complete pc b).word = th.word := rfl

/-! ## Thread.enterTrap -/

@[simp] theorem enterTrap_g (th : Thread) (lv : Nat) (c : Cause) (pc : Word) (r aw : Bool) : (th.enterTrap lv c pc r aw).g = th.g := rfl

@[simp] theorem enterTrap_residue (th : Thread) (lv : Nat) (c : Cause) (pc : Word) (r aw : Bool) : (th.enterTrap lv c pc r aw).residue = th.residue := rfl

@[simp] theorem enterTrap_v (th : Thread) (lv : Nat) (c : Cause) (pc : Word) (r aw : Bool) : (th.enterTrap lv c pc r aw).v = th.v := rfl

@[simp] theorem enterTrap_m (th : Thread) (lv : Nat) (c : Cause) (pc : Word) (r aw : Bool) : (th.enterTrap lv c pc r aw).m = th.m := rfl

@[simp] theorem enterTrap_xacc (th : Thread) (lv : Nat) (c : Cause) (pc : Word) (r aw : Bool) : (th.enterTrap lv c pc r aw).xacc = th.xacc := rfl

@[simp] theorem enterTrap_xstate (th : Thread) (lv : Nat) (c : Cause) (pc : Word) (r aw : Bool) : (th.enterTrap lv c pc r aw).xstate = th.xstate := rfl

@[simp] theorem enterTrap_pfxsave (th : Thread) (lv : Nat) (c : Cause) (pc : Word) (r aw : Bool) : (th.enterTrap lv c pc r aw).pfxsave = th.pfxsave := rfl

@[simp] theorem enterTrap_repstate (th : Thread) (lv : Nat) (c : Cause) (pc : Word) (r aw : Bool) : (th.enterTrap lv c pc r aw).repstate = th.repstate := rfl

@[simp] theorem enterTrap_rndlfsr (th : Thread) (lv : Nat) (c : Cause) (pc : Word) (r aw : Bool) : (th.enterTrap lv c pc r aw).rndlfsr = th.rndlfsr := rfl

@[simp] theorem enterTrap_utvec (th : Thread) (lv : Nat) (c : Cause) (pc : Word) (r aw : Bool) : (th.enterTrap lv c pc r aw).utvec = th.utvec := rfl

@[simp] theorem enterTrap_uiepc (th : Thread) (lv : Nat) (c : Cause) (pc : Word) (r aw : Bool) : (th.enterTrap lv c pc r aw).uiepc = th.uiepc := rfl

@[simp] theorem enterTrap_uipfx (th : Thread) (lv : Nat) (c : Cause) (pc : Word) (r aw : Bool) : (th.enterTrap lv c pc r aw).uipfx = th.uipfx := rfl

@[simp] theorem enterTrap_uicause (th : Thread) (lv : Nat) (c : Cause) (pc : Word) (r aw : Bool) : (th.enterTrap lv c pc r aw).uicause = th.uicause := rfl

@[simp] theorem enterTrap_uixid (th : Thread) (lv : Nat) (c : Cause) (pc : Word) (r aw : Bool) : (th.enterTrap lv c pc r aw).uixid = th.uixid := rfl

@[simp] theorem enterTrap_uienable (th : Thread) (lv : Nat) (c : Cause) (pc : Word) (r aw : Bool) : (th.enterTrap lv c pc r aw).uienable = th.uienable := rfl

@[simp] theorem enterTrap_uiovf (th : Thread) (lv : Nat) (c : Cause) (pc : Word) (r aw : Bool) : (th.enterTrap lv c pc r aw).uiovf = th.uiovf := rfl

@[simp] theorem enterTrap_fifo (th : Thread) (lv : Nat) (c : Cause) (pc : Word) (r aw : Bool) : (th.enterTrap lv c pc r aw).fifo = th.fifo := rfl

@[simp] theorem enterTrap_rtimeout (th : Thread) (lv : Nat) (c : Cause) (pc : Word) (r aw : Bool) : (th.enterTrap lv c pc r aw).rtimeout = th.rtimeout := rfl

@[simp] theorem enterTrap_home (th : Thread) (lv : Nat) (c : Cause) (pc : Word) (r aw : Bool) : (th.enterTrap lv c pc r aw).home = th.home := rfl

@[simp] theorem enterTrap_origin (th : Thread) (lv : Nat) (c : Cause) (pc : Word) (r aw : Bool) : (th.enterTrap lv c pc r aw).origin = th.origin := rfl

@[simp] theorem enterTrap_launch (th : Thread) (lv : Nat) (c : Cause) (pc : Word) (r aw : Bool) : (th.enterTrap lv c pc r aw).launch = th.launch := rfl

@[simp] theorem enterTrap_slot (th : Thread) (lv : Nat) (c : Cause) (pc : Word) (r aw : Bool) : (th.enterTrap lv c pc r aw).slot = th.slot := rfl

@[simp] theorem enterTrap_fn (th : Thread) (lv : Nat) (c : Cause) (pc : Word) (r aw : Bool) : (th.enterTrap lv c pc r aw).fn = th.fn := rfl

@[simp] theorem enterTrap_lease (th : Thread) (lv : Nat) (c : Cause) (pc : Word) (r aw : Bool) : (th.enterTrap lv c pc r aw).lease = th.lease := rfl

@[simp] theorem enterTrap_stvec (th : Thread) (lv : Nat) (c : Cause) (pc : Word) (r aw : Bool) : (th.enterTrap lv c pc r aw).stvec = th.stvec := rfl

@[simp] theorem enterTrap_ltvec (th : Thread) (lv : Nat) (c : Cause) (pc : Word) (r aw : Bool) : (th.enterTrap lv c pc r aw).ltvec = th.ltvec := rfl

@[simp] theorem enterTrap_ptvec (th : Thread) (lv : Nat) (c : Cause) (pc : Word) (r aw : Bool) : (th.enterTrap lv c pc r aw).ptvec = th.ptvec := rfl

@[simp] theorem enterTrap_segs (th : Thread) (lv : Nat) (c : Cause) (pc : Word) (r aw : Bool) : (th.enterTrap lv c pc r aw).segs = th.segs := rfl

@[simp] theorem enterTrap_rep (th : Thread) (lv : Nat) (c : Cause) (pc : Word) (r aw : Bool) : (th.enterTrap lv c pc r aw).rep = th.rep := rfl

@[simp] theorem enterTrap_fly (th : Thread) (lv : Nat) (c : Cause) (pc : Word) (r aw : Bool) : (th.enterTrap lv c pc r aw).fly = th.fly := rfl

@[simp] theorem enterTrap_repFault (th : Thread) (lv : Nat) (c : Cause) (pc : Word) (r aw : Bool) : (th.enterTrap lv c pc r aw).repFault = th.repFault := rfl

@[simp] theorem enterTrap_nseq (th : Thread) (lv : Nat) (c : Cause) (pc : Word) (r aw : Bool) : (th.enterTrap lv c pc r aw).nseq = th.nseq := rfl

@[simp] theorem enterTrap_rovf (th : Thread) (lv : Nat) (c : Cause) (pc : Word) (r aw : Bool) : (th.enterTrap lv c pc r aw).rovf = th.rovf := rfl

@[simp] theorem enterTrap_refusals (th : Thread) (lv : Nat) (c : Cause) (pc : Word) (r aw : Bool) : (th.enterTrap lv c pc r aw).refusals = th.refusals := rfl

@[simp] theorem enterTrap_gen (th : Thread) (lv : Nat) (c : Cause) (pc : Word) (r aw : Bool) : (th.enterTrap lv c pc r aw).gen = th.gen := rfl

@[simp] theorem enterTrap_unanswered (th : Thread) (lv : Nat) (c : Cause) (pc : Word) (r aw : Bool) : (th.enterTrap lv c pc r aw).unanswered = th.unanswered := rfl

@[simp] theorem enterTrap_present (th : Thread) (lv : Nat) (c : Cause) (pc : Word) (r aw : Bool) : (th.enterTrap lv c pc r aw).present = th.present := rfl

@[simp] theorem enterTrap_lvq (th : Thread) (lv : Nat) (c : Cause) (pc : Word) (r aw : Bool) : (th.enterTrap lv c pc r aw).lvq = th.lvq := rfl

@[simp] theorem enterTrap_word (th : Thread) (lv : Nat) (c : Cause) (pc : Word) (r aw : Bool) : (th.enterTrap lv c pc r aw).word = th.word := rfl

/-! ## Thread.leaveTrap -/

@[simp] theorem leaveTrap_st (th : Thread) : (th.leaveTrap).st = th.st := rfl

@[simp] theorem leaveTrap_g (th : Thread) : (th.leaveTrap).g = th.g := rfl

@[simp] theorem leaveTrap_residue (th : Thread) : (th.leaveTrap).residue = th.residue := rfl

@[simp] theorem leaveTrap_v (th : Thread) : (th.leaveTrap).v = th.v := rfl

@[simp] theorem leaveTrap_m (th : Thread) : (th.leaveTrap).m = th.m := rfl

@[simp] theorem leaveTrap_xacc (th : Thread) : (th.leaveTrap).xacc = th.xacc := rfl

@[simp] theorem leaveTrap_xstate (th : Thread) : (th.leaveTrap).xstate = th.xstate := rfl

@[simp] theorem leaveTrap_repstate (th : Thread) : (th.leaveTrap).repstate = th.repstate := rfl

@[simp] theorem leaveTrap_rndlfsr (th : Thread) : (th.leaveTrap).rndlfsr = th.rndlfsr := rfl

@[simp] theorem leaveTrap_utvec (th : Thread) : (th.leaveTrap).utvec = th.utvec := rfl

@[simp] theorem leaveTrap_uiepc (th : Thread) : (th.leaveTrap).uiepc = th.uiepc := rfl

@[simp] theorem leaveTrap_uipfx (th : Thread) : (th.leaveTrap).uipfx = th.uipfx := rfl

@[simp] theorem leaveTrap_uicause (th : Thread) : (th.leaveTrap).uicause = th.uicause := rfl

@[simp] theorem leaveTrap_uixid (th : Thread) : (th.leaveTrap).uixid = th.uixid := rfl

@[simp] theorem leaveTrap_uienable (th : Thread) : (th.leaveTrap).uienable = th.uienable := rfl

@[simp] theorem leaveTrap_uiovf (th : Thread) : (th.leaveTrap).uiovf = th.uiovf := rfl

@[simp] theorem leaveTrap_fifo (th : Thread) : (th.leaveTrap).fifo = th.fifo := rfl

@[simp] theorem leaveTrap_rtimeout (th : Thread) : (th.leaveTrap).rtimeout = th.rtimeout := rfl

@[simp] theorem leaveTrap_home (th : Thread) : (th.leaveTrap).home = th.home := rfl

@[simp] theorem leaveTrap_origin (th : Thread) : (th.leaveTrap).origin = th.origin := rfl

@[simp] theorem leaveTrap_launch (th : Thread) : (th.leaveTrap).launch = th.launch := rfl

@[simp] theorem leaveTrap_slot (th : Thread) : (th.leaveTrap).slot = th.slot := rfl

@[simp] theorem leaveTrap_fn (th : Thread) : (th.leaveTrap).fn = th.fn := rfl

@[simp] theorem leaveTrap_lease (th : Thread) : (th.leaveTrap).lease = th.lease := rfl

@[simp] theorem leaveTrap_tepc (th : Thread) : (th.leaveTrap).tepc = th.tepc := rfl

@[simp] theorem leaveTrap_tcause (th : Thread) : (th.leaveTrap).tcause = th.tcause := rfl

@[simp] theorem leaveTrap_tval (th : Thread) : (th.leaveTrap).tval = th.tval := rfl

@[simp] theorem leaveTrap_tstat (th : Thread) : (th.leaveTrap).tstat = th.tstat := rfl

@[simp] theorem leaveTrap_tpfx (th : Thread) : (th.leaveTrap).tpfx = th.tpfx := rfl

@[simp] theorem leaveTrap_sigV (th : Thread) : (th.leaveTrap).sigV = th.sigV := rfl

@[simp] theorem leaveTrap_sigRem (th : Thread) : (th.leaveTrap).sigRem = th.sigRem := rfl

@[simp] theorem leaveTrap_sigCrc (th : Thread) : (th.leaveTrap).sigCrc = th.sigCrc := rfl

@[simp] theorem leaveTrap_stvec (th : Thread) : (th.leaveTrap).stvec = th.stvec := rfl

@[simp] theorem leaveTrap_ltvec (th : Thread) : (th.leaveTrap).ltvec = th.ltvec := rfl

@[simp] theorem leaveTrap_ptvec (th : Thread) : (th.leaveTrap).ptvec = th.ptvec := rfl

@[simp] theorem leaveTrap_segs (th : Thread) : (th.leaveTrap).segs = th.segs := rfl

@[simp] theorem leaveTrap_sigWant (th : Thread) : (th.leaveTrap).sigWant = th.sigWant := rfl

@[simp] theorem leaveTrap_blkNext (th : Thread) : (th.leaveTrap).blkNext = th.blkNext := rfl

@[simp] theorem leaveTrap_rep (th : Thread) : (th.leaveTrap).rep = th.rep := rfl

@[simp] theorem leaveTrap_fly (th : Thread) : (th.leaveTrap).fly = th.fly := rfl

@[simp] theorem leaveTrap_repFault (th : Thread) : (th.leaveTrap).repFault = th.repFault := rfl

@[simp] theorem leaveTrap_nseq (th : Thread) : (th.leaveTrap).nseq = th.nseq := rfl

@[simp] theorem leaveTrap_rovf (th : Thread) : (th.leaveTrap).rovf = th.rovf := rfl

@[simp] theorem leaveTrap_refusals (th : Thread) : (th.leaveTrap).refusals = th.refusals := rfl

@[simp] theorem leaveTrap_gen (th : Thread) : (th.leaveTrap).gen = th.gen := rfl

@[simp] theorem leaveTrap_unanswered (th : Thread) : (th.leaveTrap).unanswered = th.unanswered := rfl

@[simp] theorem leaveTrap_op (th : Thread) : (th.leaveTrap).op = th.op := rfl

@[simp] theorem leaveTrap_resHalf (th : Thread) : (th.leaveTrap).resHalf = th.resHalf := rfl

@[simp] theorem leaveTrap_present (th : Thread) : (th.leaveTrap).present = th.present := rfl

@[simp] theorem leaveTrap_lvq (th : Thread) : (th.leaveTrap).lvq = th.lvq := rfl

@[simp] theorem leaveTrap_word (th : Thread) : (th.leaveTrap).word = th.word := rfl

/-! ## Thread.enterUser -/

@[simp] theorem enterUser_g (th : Thread) (e : Event) (l : List Event) : (th.enterUser e l).g = th.g := rfl

@[simp] theorem enterUser_residue (th : Thread) (e : Event) (l : List Event) : (th.enterUser e l).residue = th.residue := rfl

@[simp] theorem enterUser_v (th : Thread) (e : Event) (l : List Event) : (th.enterUser e l).v = th.v := rfl

@[simp] theorem enterUser_m (th : Thread) (e : Event) (l : List Event) : (th.enterUser e l).m = th.m := rfl

@[simp] theorem enterUser_xacc (th : Thread) (e : Event) (l : List Event) : (th.enterUser e l).xacc = th.xacc := rfl

@[simp] theorem enterUser_xstate (th : Thread) (e : Event) (l : List Event) : (th.enterUser e l).xstate = th.xstate := rfl

@[simp] theorem enterUser_pfxsave (th : Thread) (e : Event) (l : List Event) : (th.enterUser e l).pfxsave = th.pfxsave := rfl

@[simp] theorem enterUser_repstate (th : Thread) (e : Event) (l : List Event) : (th.enterUser e l).repstate = th.repstate := rfl

@[simp] theorem enterUser_rndlfsr (th : Thread) (e : Event) (l : List Event) : (th.enterUser e l).rndlfsr = th.rndlfsr := rfl

@[simp] theorem enterUser_utvec (th : Thread) (e : Event) (l : List Event) : (th.enterUser e l).utvec = th.utvec := rfl

@[simp] theorem enterUser_uienable (th : Thread) (e : Event) (l : List Event) : (th.enterUser e l).uienable = th.uienable := rfl

@[simp] theorem enterUser_uiovf (th : Thread) (e : Event) (l : List Event) : (th.enterUser e l).uiovf = th.uiovf := rfl

@[simp] theorem enterUser_rtimeout (th : Thread) (e : Event) (l : List Event) : (th.enterUser e l).rtimeout = th.rtimeout := rfl

@[simp] theorem enterUser_home (th : Thread) (e : Event) (l : List Event) : (th.enterUser e l).home = th.home := rfl

@[simp] theorem enterUser_origin (th : Thread) (e : Event) (l : List Event) : (th.enterUser e l).origin = th.origin := rfl

@[simp] theorem enterUser_launch (th : Thread) (e : Event) (l : List Event) : (th.enterUser e l).launch = th.launch := rfl

@[simp] theorem enterUser_slot (th : Thread) (e : Event) (l : List Event) : (th.enterUser e l).slot = th.slot := rfl

@[simp] theorem enterUser_fn (th : Thread) (e : Event) (l : List Event) : (th.enterUser e l).fn = th.fn := rfl

@[simp] theorem enterUser_lease (th : Thread) (e : Event) (l : List Event) : (th.enterUser e l).lease = th.lease := rfl

@[simp] theorem enterUser_tepc (th : Thread) (e : Event) (l : List Event) : (th.enterUser e l).tepc = th.tepc := rfl

@[simp] theorem enterUser_tcause (th : Thread) (e : Event) (l : List Event) : (th.enterUser e l).tcause = th.tcause := rfl

@[simp] theorem enterUser_tval (th : Thread) (e : Event) (l : List Event) : (th.enterUser e l).tval = th.tval := rfl

@[simp] theorem enterUser_tstat (th : Thread) (e : Event) (l : List Event) : (th.enterUser e l).tstat = th.tstat := rfl

@[simp] theorem enterUser_tpfx (th : Thread) (e : Event) (l : List Event) : (th.enterUser e l).tpfx = th.tpfx := rfl

@[simp] theorem enterUser_sigRem (th : Thread) (e : Event) (l : List Event) : (th.enterUser e l).sigRem = th.sigRem := rfl

@[simp] theorem enterUser_sigCrc (th : Thread) (e : Event) (l : List Event) : (th.enterUser e l).sigCrc = th.sigCrc := rfl

@[simp] theorem enterUser_stvec (th : Thread) (e : Event) (l : List Event) : (th.enterUser e l).stvec = th.stvec := rfl

@[simp] theorem enterUser_ltvec (th : Thread) (e : Event) (l : List Event) : (th.enterUser e l).ltvec = th.ltvec := rfl

@[simp] theorem enterUser_ptvec (th : Thread) (e : Event) (l : List Event) : (th.enterUser e l).ptvec = th.ptvec := rfl

@[simp] theorem enterUser_segs (th : Thread) (e : Event) (l : List Event) : (th.enterUser e l).segs = th.segs := rfl

@[simp] theorem enterUser_sigWant (th : Thread) (e : Event) (l : List Event) : (th.enterUser e l).sigWant = th.sigWant := rfl

@[simp] theorem enterUser_blkNext (th : Thread) (e : Event) (l : List Event) : (th.enterUser e l).blkNext = th.blkNext := rfl

@[simp] theorem enterUser_rep (th : Thread) (e : Event) (l : List Event) : (th.enterUser e l).rep = th.rep := rfl

@[simp] theorem enterUser_fly (th : Thread) (e : Event) (l : List Event) : (th.enterUser e l).fly = th.fly := rfl

@[simp] theorem enterUser_repFault (th : Thread) (e : Event) (l : List Event) : (th.enterUser e l).repFault = th.repFault := rfl

@[simp] theorem enterUser_nseq (th : Thread) (e : Event) (l : List Event) : (th.enterUser e l).nseq = th.nseq := rfl

@[simp] theorem enterUser_rovf (th : Thread) (e : Event) (l : List Event) : (th.enterUser e l).rovf = th.rovf := rfl

@[simp] theorem enterUser_refusals (th : Thread) (e : Event) (l : List Event) : (th.enterUser e l).refusals = th.refusals := rfl

@[simp] theorem enterUser_gen (th : Thread) (e : Event) (l : List Event) : (th.enterUser e l).gen = th.gen := rfl

@[simp] theorem enterUser_unanswered (th : Thread) (e : Event) (l : List Event) : (th.enterUser e l).unanswered = th.unanswered := rfl

@[simp] theorem enterUser_resHalf (th : Thread) (e : Event) (l : List Event) : (th.enterUser e l).resHalf = th.resHalf := rfl

@[simp] theorem enterUser_present (th : Thread) (e : Event) (l : List Event) : (th.enterUser e l).present = th.present := rfl

@[simp] theorem enterUser_lvq (th : Thread) (e : Event) (l : List Event) : (th.enterUser e l).lvq = th.lvq := rfl

@[simp] theorem enterUser_word (th : Thread) (e : Event) (l : List Event) : (th.enterUser e l).word = th.word := rfl

/-! ## Thread.leaveUser -/

@[simp] theorem leaveUser_st (th : Thread) : (th.leaveUser).st = th.st := rfl

@[simp] theorem leaveUser_g (th : Thread) : (th.leaveUser).g = th.g := rfl

@[simp] theorem leaveUser_residue (th : Thread) : (th.leaveUser).residue = th.residue := rfl

@[simp] theorem leaveUser_v (th : Thread) : (th.leaveUser).v = th.v := rfl

@[simp] theorem leaveUser_m (th : Thread) : (th.leaveUser).m = th.m := rfl

@[simp] theorem leaveUser_xacc (th : Thread) : (th.leaveUser).xacc = th.xacc := rfl

@[simp] theorem leaveUser_xstate (th : Thread) : (th.leaveUser).xstate = th.xstate := rfl

@[simp] theorem leaveUser_repstate (th : Thread) : (th.leaveUser).repstate = th.repstate := rfl

@[simp] theorem leaveUser_rndlfsr (th : Thread) : (th.leaveUser).rndlfsr = th.rndlfsr := rfl

@[simp] theorem leaveUser_utvec (th : Thread) : (th.leaveUser).utvec = th.utvec := rfl

@[simp] theorem leaveUser_uiepc (th : Thread) : (th.leaveUser).uiepc = th.uiepc := rfl

@[simp] theorem leaveUser_uipfx (th : Thread) : (th.leaveUser).uipfx = th.uipfx := rfl

@[simp] theorem leaveUser_uicause (th : Thread) : (th.leaveUser).uicause = th.uicause := rfl

@[simp] theorem leaveUser_uixid (th : Thread) : (th.leaveUser).uixid = th.uixid := rfl

@[simp] theorem leaveUser_uienable (th : Thread) : (th.leaveUser).uienable = th.uienable := rfl

@[simp] theorem leaveUser_uiovf (th : Thread) : (th.leaveUser).uiovf = th.uiovf := rfl

@[simp] theorem leaveUser_fifo (th : Thread) : (th.leaveUser).fifo = th.fifo := rfl

@[simp] theorem leaveUser_rtimeout (th : Thread) : (th.leaveUser).rtimeout = th.rtimeout := rfl

@[simp] theorem leaveUser_home (th : Thread) : (th.leaveUser).home = th.home := rfl

@[simp] theorem leaveUser_origin (th : Thread) : (th.leaveUser).origin = th.origin := rfl

@[simp] theorem leaveUser_launch (th : Thread) : (th.leaveUser).launch = th.launch := rfl

@[simp] theorem leaveUser_slot (th : Thread) : (th.leaveUser).slot = th.slot := rfl

@[simp] theorem leaveUser_fn (th : Thread) : (th.leaveUser).fn = th.fn := rfl

@[simp] theorem leaveUser_lease (th : Thread) : (th.leaveUser).lease = th.lease := rfl

@[simp] theorem leaveUser_tepc (th : Thread) : (th.leaveUser).tepc = th.tepc := rfl

@[simp] theorem leaveUser_tcause (th : Thread) : (th.leaveUser).tcause = th.tcause := rfl

@[simp] theorem leaveUser_tval (th : Thread) : (th.leaveUser).tval = th.tval := rfl

@[simp] theorem leaveUser_tstat (th : Thread) : (th.leaveUser).tstat = th.tstat := rfl

@[simp] theorem leaveUser_tpfx (th : Thread) : (th.leaveUser).tpfx = th.tpfx := rfl

@[simp] theorem leaveUser_sigV (th : Thread) : (th.leaveUser).sigV = th.sigV := rfl

@[simp] theorem leaveUser_sigRem (th : Thread) : (th.leaveUser).sigRem = th.sigRem := rfl

@[simp] theorem leaveUser_sigCrc (th : Thread) : (th.leaveUser).sigCrc = th.sigCrc := rfl

@[simp] theorem leaveUser_stvec (th : Thread) : (th.leaveUser).stvec = th.stvec := rfl

@[simp] theorem leaveUser_ltvec (th : Thread) : (th.leaveUser).ltvec = th.ltvec := rfl

@[simp] theorem leaveUser_ptvec (th : Thread) : (th.leaveUser).ptvec = th.ptvec := rfl

@[simp] theorem leaveUser_segs (th : Thread) : (th.leaveUser).segs = th.segs := rfl

@[simp] theorem leaveUser_sigWant (th : Thread) : (th.leaveUser).sigWant = th.sigWant := rfl

@[simp] theorem leaveUser_blkNext (th : Thread) : (th.leaveUser).blkNext = th.blkNext := rfl

@[simp] theorem leaveUser_rep (th : Thread) : (th.leaveUser).rep = th.rep := rfl

@[simp] theorem leaveUser_fly (th : Thread) : (th.leaveUser).fly = th.fly := rfl

@[simp] theorem leaveUser_repFault (th : Thread) : (th.leaveUser).repFault = th.repFault := rfl

@[simp] theorem leaveUser_nseq (th : Thread) : (th.leaveUser).nseq = th.nseq := rfl

@[simp] theorem leaveUser_rovf (th : Thread) : (th.leaveUser).rovf = th.rovf := rfl

@[simp] theorem leaveUser_refusals (th : Thread) : (th.leaveUser).refusals = th.refusals := rfl

@[simp] theorem leaveUser_gen (th : Thread) : (th.leaveUser).gen = th.gen := rfl

@[simp] theorem leaveUser_unanswered (th : Thread) : (th.leaveUser).unanswered = th.unanswered := rfl

@[simp] theorem leaveUser_op (th : Thread) : (th.leaveUser).op = th.op := rfl

@[simp] theorem leaveUser_resHalf (th : Thread) : (th.leaveUser).resHalf = th.resHalf := rfl

@[simp] theorem leaveUser_present (th : Thread) : (th.leaveUser).present = th.present := rfl

@[simp] theorem leaveUser_lvq (th : Thread) : (th.leaveUser).lvq = th.lvq := rfl

@[simp] theorem leaveUser_word (th : Thread) : (th.leaveUser).word = th.word := rfl

end Sys2Proof.Machine
end

