-- ==== Sys2Proof/Laws/Run.lean ====
section
/-! SUPPORT. What `run` does for a thread that runs by itself: once for all instruction words. -/

namespace Sys2Proof.Machine

theorem majorNat_def (w : Half) : majorNat w = (w.extractLsb' 26 6).toNat := rfl

theorem extClass_def (w : Half) : extClass w = (w.extractLsb' 0 2).toNat := rfl

theorem State.prefixFits_none {s : State} (h : s.Plain) (r : Option PfxRule) : s.prefixFits r := by
  intro hp
  exact absurd (h.noPrefix.symm.trans hp) (by decide)

/-- A thread that replays nothing holds back no engine instruction. -/
theorem Thread.heldBack_of_idle {th : Thread} (h : th.replaying = false) (w : Half) : th.heldBack w = false := by
  unfold Thread.replaying at h
  rw [Bool.or_eq_false_iff] at h
  have hf : th.fly = none := by simpa using h.2
  simp [Thread.heldBack, Thread.unissued, Thread.flyHold, h.1, hf]

/-- No word finds a wrong residue where every register has its own. -/
theorem Thread.residueFails_of_hold {th : Thread} (h : th.residuesHold) (f : Form) : th.residueFails f = false := by
  unfold Thread.residueFails
  cases hr : th.tsr.res
  · simp
  · simp [h hr]

/-- A word of a thread by itself that passes the checks 3, 5, 6 and 7 of R61 has exactly the effect of its meaning. -/
theorem run_alone {f : Form} {body : State → Res} {s : State} (h : s.Alone)
    (hx : majorNat f.word = 0x38 → s.listsClass s.here (extClass f.word) = true)
    (he : f.early s = none) (ho : majorNat f.word = 0x2B → s.hasOptical = true)
    (hl : f.level ≤ s.level) (hp : s.prefixFits f.pfx) :
    run f body s = .next (settle s (body s)) := by
  have ha : attempt f body s = body s := by
    unfold attempt
    rw [if_neg, he]
    · simp only
      rw [if_neg, if_neg (by omega), if_neg, if_neg, if_neg]
      · simp [withStreams, h.noStreams]
      · simp [Thread.residueFails_of_hold h.residues]
      · simp [Thread.heldBack_of_idle h.noReplays]
      · intro hc
        rw [Bool.and_eq_true] at hc
        obtain ⟨r, hr, hacc⟩ := hp hc.1
        simp [hr, hacc] at hc
      · intro hc
        simp only [Bool.and_eq_true, decide_eq_true_eq] at hc
        simp [ho hc.1] at hc
    · intro hc
      simp only [Bool.and_eq_true, decide_eq_true_eq] at hc
      simp [hx hc.1] at hc
  simp [run, h.single, ha]

/-- The same with the major of the word given and no check of its own: words outside EXT.W and the optical engine, of
level 0. -/
theorem run_major {f : Form} {body : State → Res} {s : State} (h : s.Alone) (m : Nat) (hm : majorNat f.word = m)
    (hx : m ≠ 0x38) (ho : m ≠ 0x2B) (he : f.early s = none) (hl : f.level ≤ s.level) (hp : s.prefixFits f.pfx) :
    run f body s = .next (settle s (body s)) :=
  run_alone h (fun e => absurd (hm.symm.trans e) hx) he (fun e => absurd (hm.symm.trans e) ho) hl hp

/-- An instruction that only computes a scalar register writes it and goes on at the next word. -/
theorem runG_alone {f : Form} {d : BitVec 5} {v : State → Word} {s : State} (h : s.Alone)
    (hx : majorNat f.word = 0x38 → s.listsClass s.here (extClass f.word) = true)
    (he : f.early s = none) (ho : majorNat f.word = 0x2B → s.hasOptical = true)
    (hl : f.level ≤ s.level) (hp : s.prefixFits f.pfx) :
    runG f d v s = .next (s.after (s.setG d (v s))) :=
  run_alone (body := fun s => .done (s.setG d (v s))) h hx he ho hl hp

theorem after_def (s s1 : State) :
    s.after s1 = s1.modThr s.cur fun th => th.complete (s.me.pc + 4) s.me.tsr.pp := rfl

theorem jumped_of_mayBranch {s : State} (h : s.mayBranch) (s1 : State) (pc : Word) :
    s.jumped s1 pc = s1.modThr s.cur fun th => th.complete pc s.me.tsr.pp := by
  unfold State.mayBranch at h
  simp [State.jumped, settle, h]

theorem settle_done (s s1 : State) : settle s (.done s1) = s.after s1 := rfl

theorem settle_goto (s s1 : State) (pc : Word) : settle s (.goto s1 pc) = s.jumped s1 pc := rfl

theorem settle_trap (s s1 : State) (c : Cause) : settle s (.trap s1 c) = s1.takeTrapAt s.cur c s.me.pc false := rfl

theorem settle_keep (s s1 : State) : settle s (.keep s1) = s1 := rfl

end Sys2Proof.Machine
end

