-- ==== Sys2Proof/Tests/Slice0.lean ====
section
/-! SUPPORT. Tests of the model: words written out from the encodings of the spec, ill-formed terms, single steps on small
states, and for every statement of the obligations states and operands that meet its hypotheses together. -/

set_option Elab.async false

namespace Sys2Proof.Tests

open Sys2Proof Sys2Proof.Machine
/-! ## Decoding: words of every major, from the encodings of the spec -/

/-- Major 0x01. -/
theorem test_decode_01 :
    [0x05366800#32, 0x05366801#32, 0x05366802#32, 0x05366803#32, 0x05366804#32, 0x05366805#32, 0x05366806#32, 0x05366807#32, 0x05366808#32, 0x05366810#32, 0x05366811#32, 0x05366812#32, 0x05366813#32, 0x05366814#32, 0x05366815#32, 0x05366816#32, 0x05366817#32, 0x05360018#32, 0x05360019#32, 0x0536001A#32, 0x05366820#32, 0x05366821#32, 0x05366822#32, 0x05366823#32, 0x05366824#32, 0x05366825#32, 0x05366826#32, 0x053669A7#32, 0x053668E8#32, 0x05360370#32, 0x05360371#32, 0x05366832#32, 0x05366833#32, 0x05200038#32, 0x05366839#32, 0x0536683A#32].map decode =
    [.ok (.add 9 22 13),
      .ok (.sub 9 22 13),
      .ok (.mul 9 22 13),
      .ok (.mulh 9 22 13),
      .ok (.mulhu 9 22 13),
      .ok (.div 9 22 13),
      .ok (.divu 9 22 13),
      .ok (.rem 9 22 13),
      .ok (.remu 9 22 13),
      .ok (.and 9 22 13),
      .ok (.or 9 22 13),
      .ok (.xor 9 22 13),
      .ok (.andn 9 22 13),
      .ok (.shl 9 22 13),
      .ok (.shr 9 22 13),
      .ok (.sha 9 22 13),
      .ok (.rol 9 22 13),
      .ok (.clz 9 22),
      .ok (.ctz 9 22),
      .ok (.popc 9 22),
      .ok (.min 9 22 13),
      .ok (.max 9 22 13),
      .ok (.minu 9 22 13),
      .ok (.maxu 9 22 13),
      .ok (.slt 9 22 13),
      .ok (.sltu 9 22 13),
      .ok (.seq 9 22 13),
      .ok (.sel 9 22 13 6),
      .ok (.addsc 9 22 13 3),
      .ok (.exts 9 22 13),
      .ok (.extz 9 22 13),
      .ok (.bext 9 22 13),
      .ok (.bins 9 22 13),
      .ok (.coreid 9),
      .ok (.cxy 9 22 13),
      .ok (.crel 9 22 13)] := by rfl

/-- Major 0x02. -/
theorem test_decode_02 :
    [0x0936FE85#32].map decode =
    [.ok (.addi 9 22 65157)] := by rfl

/-- Major 0x03. -/
theorem test_decode_03 :
    [0x0D36FE85#32].map decode =
    [.ok (.andi 9 22 65157)] := by rfl

/-- Major 0x04. -/
theorem test_decode_04 :
    [0x1136FE85#32].map decode =
    [.ok (.ori 9 22 65157)] := by rfl

/-- Major 0x05. -/
theorem test_decode_05 :
    [0x1536FE85#32].map decode =
    [.ok (.xori 9 22 65157)] := by rfl

/-- Major 0x06. -/
theorem test_decode_06 :
    [0x1936FE85#32].map decode =
    [.ok (.slti 9 22 65157)] := by rfl

/-- Major 0x07. -/
theorem test_decode_07 :
    [0x1D36FE85#32].map decode =
    [.ok (.sltui 9 22 65157)] := by rfl

/-- Major 0x08. -/
theorem test_decode_08 :
    [0x21360023#32, 0x21360063#32, 0x213600A3#32, 0x213600E3#32].map decode =
    [.ok (.shli 9 22 35),
      .ok (.shri 9 22 35),
      .ok (.shai 9 22 35),
      .ok (.roli 9 22 35)] := by rfl

/-- Major 0x09. -/
theorem test_decode_09 :
    [0x2536FE85#32].map decode =
    [.ok (.lhi 9 22 65157)] := by rfl

/-- Major 0x0A. -/
theorem test_decode_0a :
    [0x29366800#32, 0x29366801#32, 0x29366802#32, 0x29366983#32, 0x29366804#32, 0x29360005#32, 0x29366806#32, 0x29366807#32, 0x293668C8#32, 0x29362989#32, 0x2936000A#32, 0x2936688B#32].map decode =
    [.ok (.fadd 9 22 13),
      .ok (.fsub 9 22 13),
      .ok (.fmul 9 22 13),
      .ok (.fma 9 22 13 6),
      .ok (.fdiv 9 22 13),
      .ok (.fsqrt 9 22),
      .ok (.fmin 9 22 13),
      .ok (.fmax 9 22 13),
      .ok (.fcmp 9 22 13 3),
      .ok (.fcvt 9 22 5 6),
      .ok (.fclass 9 22),
      .ok (.fsgn 9 22 13 2)] := by rfl

/-- Major 0x0C. -/
theorem test_decode_0c :
    [0x3136FE85#32].map decode =
    [.ok (.beq 9 22 65157)] := by rfl

/-- Major 0x0D. -/
theorem test_decode_0d :
    [0x3536FE85#32].map decode =
    [.ok (.bne 9 22 65157)] := by rfl

/-- Major 0x0E. -/
theorem test_decode_0e :
    [0x3936FE85#32].map decode =
    [.ok (.blt 9 22 65157)] := by rfl

/-- Major 0x0F. -/
theorem test_decode_0f :
    [0x3D36FE85#32].map decode =
    [.ok (.bge 9 22 65157)] := by rfl

/-- Major 0x10. -/
theorem test_decode_10 :
    [0x4136FE85#32].map decode =
    [.ok (.bltu 9 22 65157)] := by rfl

/-- Major 0x11. -/
theorem test_decode_11 :
    [0x4536FE85#32].map decode =
    [.ok (.bgeu 9 22 65157)] := by rfl

/-- Major 0x12. -/
theorem test_decode_12 :
    [0x4936FE85#32].map decode =
    [.ok (.loop 9 22 65157)] := by rfl

/-- Major 0x13. -/
theorem test_decode_13 :
    [0x4EA5C3F1#32].map decode =
    [.ok (.j 44418033)] := by rfl

/-- Major 0x14. -/
theorem test_decode_14 :
    [0x52A5C3F1#32].map decode =
    [.ok (.jal 44418033)] := by rfl

/-- Major 0x15. -/
theorem test_decode_15 :
    [0x5536FE85#32].map decode =
    [.ok (.jalr 9 22 65157)] := by rfl

/-- Major 0x16. -/
theorem test_decode_16 :
    [0x59367A3B#32].map decode =
    [.ok (.ld 9 22 3 6715)] := by rfl

/-- Major 0x17. -/
theorem test_decode_17 :
    [0x5D367A3B#32].map decode =
    [.ok (.st 9 22 3 6715)] := by rfl

/-- Major 0x18. -/
theorem test_decode_18 :
    [0x61360DB3#32, 0x61362DB3#32, 0x61365A3B#32, 0x61367A3B#32, 0x61369A3B#32].map decode =
    [.ok (.ldaWord 9 22 13 179),
      .ok (.lda 9 22 13 179),
      .ok (.lde 9 22 6715),
      .ok (.ldf 9 22 6715),
      .ok (.feprobe 9 22 6715)] := by rfl

/-- Major 0x19. -/
theorem test_decode_19 :
    [0x65360DB3#32, 0x65362DB3#32, 0x65365A3B#32, 0x64097A3B#32].map decode =
    [.ok (.stlWord 9 22 13 179),
      .ok (.stl 9 22 13 179),
      .ok (.stf 9 22 6715),
      .ok (.feclr 9 6715)] := by rfl

/-- Major 0x1A. -/
theorem test_decode_1a :
    [0x693669A0#32, 0x693669A1#32, 0x693669A2#32, 0x693669A3#32, 0x693669A4#32, 0x693669A5#32, 0x693669A6#32, 0x693669A7#32, 0x69366988#32].map decode =
    [.ok (.amoadd 9 22 13 6 1),
      .ok (.amoand 9 22 13 6 1),
      .ok (.amoor 9 22 13 6 1),
      .ok (.amoxor 9 22 13 6 1),
      .ok (.amomin 9 22 13 6 1),
      .ok (.amomax 9 22 13 6 1),
      .ok (.amoswp 9 22 13 6 1),
      .ok (.cas 9 22 13 6 1),
      .ok (.faddf 9 22 13 6)] := by rfl

/-- Major 0x1B. -/
theorem test_decode_1b :
    [0x6C090040#32, 0x6C090080#32, 0x6C0900C0#32, 0x6D2002C1#32, 0x6C0902C2#32].map decode =
    [.ok (.fenceAcq 9),
      .ok (.fenceRel 9),
      .ok (.fenceFull 9),
      .ok (.segr 9 1 3),
      .ok (.segw 9 1 3)] := by rfl

/-- Major 0x1C. -/
theorem test_decode_1c :
    [0x7120ADC0#32, 0x7136ADC1#32, 0x7136ADC2#32, 0x7136ADC3#32, 0x70090588#32, 0x70000009#32, 0x7009000A#32, 0x7000000B#32, 0x7136680C#32].map decode =
    [.ok (.csrr 9 695),
      .ok (.csrw 9 22 695),
      .ok (.csrs 9 22 695),
      .ok (.csrc 9 22 695),
      .ok (.trap 9 22),
      .ok (.xret),
      .ok (.park 9),
      .ok (.texit),
      .ok (.tfork 9 22 13)] := by rfl

/-- Major 0x1D. -/
theorem test_decode_1d :
    [0x76B7FE85#32].map decode =
    [.ok (.bsig 695 65157)] := by rfl

/-- Major 0x1E. -/
theorem test_decode_1e :
    [0x792A4E80#32, 0x7B34AF2A#32].map decode =
    [.ok (.pfx 9 5 2 3 1 1),
      .ok (.pfxTag 2469 3 1 9 5)] := by rfl

/-- Major 0x1F. -/
theorem test_decode_1f :
    [0x7E6CD400#32].map decode =
    [.ok (.rep 9 179 5)] := by rfl

/-- Major 0x20. -/
theorem test_decode_20 :
    [0x81E29F00#32, 0x81E29F01#32, 0x81E29F02#32, 0x81E29F03#32, 0x81E29F04#32, 0x81E29F05#32, 0x81E29F06#32, 0x81E29F07#32, 0x81E29B08#32, 0x81E29B09#32, 0x81E29B0A#32, 0x81E29B0B#32, 0x81E29B0C#32, 0x81E29B0D#32, 0x813C9F13#32, 0x81E2A918#32].map decode =
    [.ok (.vadd 3 6 1 2 1 1 3 1),
      .ok (.vsub 3 6 1 2 1 1 3 1),
      .ok (.vmul 3 6 1 2 1 1 3 1),
      .ok (.vfma 3 6 1 2 1 1 3 1),
      .ok (.vmin 3 6 1 2 1 1 3 1),
      .ok (.vmax 3 6 1 2 1 1 3 1),
      .ok (.vamin 3 6 1 2 1 1 3 1),
      .ok (.vamax 3 6 1 2 1 1 3 1),
      .ok (.vand 3 6 1 2 1 1 1 1),
      .ok (.vor 3 6 1 2 1 1 1 1),
      .ok (.vxor 3 6 1 2 1 1 1 1),
      .ok (.vshl 3 6 1 2 1 1 1 1),
      .ok (.vshr 3 6 1 2 1 1 1 1),
      .ok (.vsha 3 6 1 2 1 1 1 1),
      .ok (.vcmp 2 3 6 2 1 1 3 1 3),
      .ok (.vsel 3 6 1 2 1)] := by rfl

/-- Major 0x21. -/
theorem test_decode_21 :
    [0x85808A63#32, 0x85809A63#32, 0x858CAA41#32, 0x858CBA41#32].map decode =
    [.ok (.vld 3 2 1 9 35),
      .ok (.vst 3 2 1 9 35),
      .ok (.vldx 3 6 2 1 9 1),
      .ok (.vstx 3 6 2 1 9 1)] := by rfl

/-- Major 0x22. -/
theorem test_decode_22 :
    [0x89E290A0#32, 0x89E29281#32, 0x89E2A902#32, 0x89E29103#32].map decode =
    [.ok (.vcvt 3 6 1 2 4 2 1),
      .ok (.vqnt 3 6 1 2 10),
      .ok (.vdqnt 3 6 1 2 10),
      .ok (.vqsplit 3 6 1 2)] := by rfl

/-- Major 0x23. -/
theorem test_decode_23 :
    [0x8DE200A3#32, 0x8DE202A3#32, 0x8DE004A3#32, 0x8DE286C0#32, 0x8D8008A4#32, 0x8C3C0AA6#32, 0x8D8C0CA4#32, 0x8DE090F4#32, 0x8DE092F4#32, 0x8DE294E0#32, 0x8DE0A140#32, 0x8DE0A340#32, 0x8DE0A540#32, 0x8DE0A740#32, 0x8CA63000#32, 0x8CA63200#32, 0x8C203424#32, 0x8C003E00#32].map decode =
    [.ok (.vshup 3 6 1 1 35),
      .ok (.vshdn 3 6 1 1 35),
      .ok (.vrot 3 6 1 35),
      .ok (.vperm 3 6 1 2 1 1),
      .ok (.vbcast 3 1 9),
      .ok (.vext 3 6 1 9 1),
      .ok (.vins 3 6 1 9),
      .ok (.vred 3 6 2 1 1 3 2),
      .ok (.vscan 3 6 2 1 1 3 2),
      .ok (.vdot 3 6 1 2 1 1 2),
      .ok (.vexp2 3 6 2 1),
      .ok (.vlog2 3 6 2 1),
      .ok (.vrcp 3 6 2 1),
      .ok (.vrsq 3 6 2 1),
      .ok (.vmand 1 2 3),
      .ok (.vmor 1 2 3),
      .ok (.vpopc 2 9),
      .ok (.vshadow)] := by rfl

/-- Major 0x24. -/
theorem test_decode_24 :
    [0x91364800#32, 0x91361040#32, 0x91364801#32, 0x90004802#32, 0x91203003#32, 0x91203004#32, 0x91260008#32, 0x90220009#32, 0x9022000A#32, 0x9000000B#32, 0x9000484C#32, 0x91201010#32, 0x9122B011#32, 0x91201012#32, 0x91201013#32, 0x91291014#32, 0x91200018#32, 0x90004819#32, 0x9000001A#32, 0x9000005A#32].map decode =
    [.ok (.tld 9 22 9),
      .ok (.tldRing 9 22 2),
      .ok (.tst 9 22 9),
      .ok (.tzero 9),
      .ok (.tmov 9 6),
      .ok (.ttrans 9 6),
      .ok (.tmma 9 6),
      .ok (.tmmas 1 2),
      .ok (.tmmasp 1 2),
      .ok (.taccz),
      .ok (.taccr 9 1),
      .ok (.ringdef 9 2),
      .ok (.twait 9 2 22),
      .ok (.tfree 9 2),
      .ok (.tadv 9 2),
      .ok (.tsend 9 9 2),
      .ok (.mrect 9),
      .ok (.mstat 9),
      .ok (.mcancel),
      .ok (.mcancelDrain)] := by rfl

/-- Major 0x25. -/
theorem test_decode_25 :
    [0x95290000#32, 0x940904C1#32, 0x94090002#32, 0x94094803#32, 0x9529B043#32, 0x95290004#32, 0x94090005#32, 0x94094806#32, 0x9520B008#32, 0x9520B009#32, 0x95366810#32, 0x95360011#32, 0x95366812#32].map decode =
    [.ok (.sdesc 9 9),
      .ok (.sbind 9 2 3),
      .ok (.sunbind 9),
      .ok (.spos 9 9),
      .ok (.sposSet 9 9 22),
      .ok (.sskip 9 9),
      .ok (.sflush 9),
      .ok (.sstat 9 9),
      .ok (.copy 9 22),
      .ok (.copyst 9 22),
      .ok (.waitgen 9 22 13),
      .ok (.armgen 9 22),
      .ok (.addgen 9 22 13)] := by rfl

/-- Major 0x26. -/
theorem test_decode_26 :
    [0x99366840#32, 0x99366841#32, 0x98093002#32, 0x99293003#32, 0x98004804#32, 0x9920B008#32, 0x9920B009#32, 0x9920B00C#32].map decode =
    [.ok (.send 9 22 13 1),
      .ok (.sendi 9 22 13 1),
      .ok (.recv 9 6),
      .ok (.recvt 9 9 6),
      .ok (.peek 9),
      .ok (.jwait 9 22),
      .ok (.jread 9 22),
      .ok (.fwdq 9 22)] := by rfl

/-- Major 0x27. -/
theorem test_decode_27 :
    [0x9D290000#32, 0x9D29B001#32, 0x9C090041#32, 0x9C090002#32, 0x9C094803#32, 0x9D290004#32, 0x9C094805#32].map decode =
    [.ok (.cdef 9 9),
      .ok (.cwatch 9 9 22),
      .ok (.cwatchOff 9),
      .ok (.cstart 9),
      .ok (.cstat 9 9),
      .ok (.cbw 9 9),
      .ok (.cabort 9 9)] := by rfl

/-- Major 0x28. -/
theorem test_decode_28 :
    [0xA1360000#32, 0xA1366801#32, 0xA1366802#32, 0xA120B003#32, 0xA1360004#32, 0xA1360005#32].map decode =
    [.ok (.barm 9 22),
      .ok (.bara 9 22 13),
      .ok (.barw 9 22 13),
      .ok (.bart 9 22),
      .ok (.bmask 9 22),
      .ok (.btime 9 22)] := by rfl

/-- Major 0x29. -/
theorem test_decode_29 :
    [0xA5360000#32, 0xA5360001#32, 0xA520B002#32, 0xA5200003#32, 0xA520B004#32].map decode =
    [.ok (.asamp 9 22),
      .ok (.athr 9 22),
      .ok (.ahist 9 22),
      .ok (.aclr 9),
      .ok (.astat 9 22)] := by rfl

/-- Major 0x2A. -/
theorem test_decode_2a :
    [0xA920B040#32, 0xA920B001#32, 0xA9366802#32, 0xA9366842#32, 0xA9366882#32, 0xA93668C2#32, 0xA9366902#32, 0xA9366942#32, 0xA920B003#32, 0xA920B043#32, 0xA9366804#32, 0xA9366844#32].map decode =
    [.ok (.mbal 9 22 1),
      .ok (.muse 9 22),
      .ok (.mqsetRate 9 22 13),
      .ok (.mqsetCap 9 22 13),
      .ok (.mqsetDeposit 9 22 13),
      .ok (.mqsetLimrate 9 22 13),
      .ok (.mqsetLimcap 9 22 13),
      .ok (.mqsetUnl 9 22 13),
      .ok (.msplit 9 22),
      .ok (.msplitSet 9 22),
      .ok (.mfloor 9 22 13),
      .ok (.mfloorSet 9 22 13)] := by rfl

/-- Major 0x2B. -/
theorem test_decode_2b :
    [0xAD20B000#32, 0xAD20B001#32, 0xAD20B002#32, 0xAD20B042#32, 0xAD20B003#32].map decode =
    [.ok (.ocal 9 22),
      .ok (.onext 9 22),
      .ok (.opol 9 22),
      .ok (.opolSet 9 22),
      .ok (.ostat 9 22)] := by rfl

/-- Major 0x2C. -/
theorem test_decode_2c :
    [0xB0004800#32, 0xB13600C1#32, 0xB120B082#32, 0xB1366803#32, 0xB120B004#32].map decode =
    [.ok (.chkpt 9),
      .ok (.ckreg 9 22 3),
      .ok (.ebrd 9 22 2),
      .ok (.ebclr 9 22 13),
      .ok (.killt 9 22)] := by rfl

/-- Major 0x2D. -/
theorem test_decode_2d :
    [0xB5366800#32, 0xB5366801#32, 0xB5366802#32, 0xB5366803#32, 0xB5366843#32, 0xB5366883#32].map decode =
    [.ok (.dlaunch 9 22 13),
      .ok (.migrMove 9 22 13),
      .ok (.vfctlReadField 9 22 13),
      .ok (.rightsRead 9 22 13),
      .ok (.rightsGrant 9 22 13),
      .ok (.rightsRevoke 9 22 13)] := by rfl

/-- Major 0x38. -/
theorem test_decode_38 :
    [0xE1366800#32, 0xE1366804#32, 0xE1366808#32, 0xE136698C#32, 0xE1366810#32, 0xE1360014#32, 0xE1366818#32, 0xE136681C#32, 0xE13668E0#32, 0xE13671A4#32, 0xE1360028#32, 0xE13668AC#32, 0xE1200001#32, 0xE0000005#32, 0xE009B009#32, 0xE120000D#32, 0xE1E2B002#32, 0xE1E2B006#32, 0xE1E2B00A#32, 0xE1E2B00E#32, 0xE1E2B012#32, 0xE1E2B016#32, 0xE1E2A01A#32, 0xE1E2A01E#32].map decode =
    [.ok (.dadd 9 22 13),
      .ok (.dsub 9 22 13),
      .ok (.dmul 9 22 13),
      .ok (.dfma 9 22 13 6),
      .ok (.ddiv 9 22 13),
      .ok (.dsqrt 9 22),
      .ok (.dmin 9 22 13),
      .ok (.dmax 9 22 13),
      .ok (.dcmp 9 22 13 3),
      .ok (.dcvt 9 22 14 6),
      .ok (.dclass 9 22),
      .ok (.dsgn 9 22 13 2),
      .ok (.orcv 9),
      .ok (.xacz),
      .ok (.xmac 9 22),
      .ok (.xrd 9),
      .ok (.vdadd 3 6 1 2 1 1),
      .ok (.vdsub 3 6 1 2 1 1),
      .ok (.vdmul 3 6 1 2 1 1),
      .ok (.vdfma 3 6 1 2 1 1),
      .ok (.vdmin 3 6 1 2 1 1),
      .ok (.vdmax 3 6 1 2 1 1),
      .ok (.vdwid 3 6 1 2 1 0),
      .ok (.vdnar 3 6 1 2 1 0)] := by rfl

/-! ## Well-formedness: an ill-formed term for each check, which the check refuses -/

/-- R133, R136, R132, R134: condition, sign-copy mode and format codes. -/
theorem test_wf_float :
    [Instr.fcmp 1 2 3 5, .dcmp 1 2 3 31, .fsgn 1 2 3 3, .dsgn 1 2 3 4, .fcvt 1 2 10 4, .fcvt 1 2 4 14, .dcvt 1 2 14 15,
      .dcvt 1 2 12 14, .dcvt 1 2 3 4].all (fun i => !i.wf) = true := by decide +kernel

/-- The vector forms of FP64: a mask without its enable, a mask register above 3, a half above 1 and a reserved bit. -/
theorem test_wf_vector_fp64 :
    [Instr.vdadd 1 2 3 1 0 0, .vdsub 1 2 3 4 1 0, .vdmul 1 2 3 1 0 0, .vdfma 1 2 3 7 1 0, .vdmin 1 2 3 1 0 0, .vdmax 1 2 3 4 1 0,
      .vdwid 1 2 2 0 0 0, .vdwid 1 2 0 1 0 0, .vdwid 1 2 0 0 0 1, .vdnar 1 2 2 0 0 0, .vdnar 1 2 0 4 1 0,
      .vdnar 1 2 0 0 0 1].all (fun i => !i.wf) = true := by decide +kernel

/-- R146 for a block of no words, R173 for size codes, R176 for the segment field. -/
theorem test_wf_thread_and_memory :
    [Instr.bsig 0 5, .ld 1 2 7 0, .st 1 2 4 0, .segr 1 3 0, .segw 1 3 0].all (fun i => !i.wf) = true := by decide +kernel

/-- R195, R196, R204: element types, masks, forms on integer types or on floating-point types only. -/
theorem test_wf_vector_arithmetic :
    [Instr.vadd 1 2 3 0 3 0 0 0, .vsub 1 2 3 0 0 0 2 0, .vmul 1 2 3 0 2 0 3 0, .vfma 1 2 3 0 0 0 0 0, .vmin 1 2 3 1 0 0 0 0,
      .vmax 1 2 3 4 0 1 0 0, .vamin 1 2 3 0 3 0 3 0, .vamax 1 2 3 0 0 0 3 0, .vand 1 2 3 0 1 0 2 0, .vor 1 2 3 0 2 0 2 0,
      .vxor 1 2 3 0 1 0 3 0, .vshl 1 2 3 0 1 0 2 0, .vshr 1 2 3 0 3 0 0 0, .vsha 1 2 3 2 0 0 0 0].all (fun i => !i.wf)
      = true := by decide +kernel

/-- R207, R208, R213 to R216, R219 to R224. -/
theorem test_wf_vector_forms :
    [Instr.vcmp 4 2 3 0 0 0 0 0 0, .vcmp 1 2 3 0 0 0 0 0 5, .vcmp 1 2 3 0 0 0 0 0 4, .vcmp 1 2 3 0 3 0 0 0 0, .vsel 1 2 3 4 0,
      .vld 1 1 0 2 0, .vst 1 4 1 2 0, .vldx 1 2 1 0 3 0, .vstx 1 2 4 1 3 0, .vcvt 1 2 0 0 10 4 0, .vcvt 1 2 0 0 4 14 0,
      .vcvt 1 2 4 0 0 4 0, .vcvt 1 2 0 1 0 4 0, .vqnt 1 2 3 4 10, .vqnt 1 2 3 0 9, .vdqnt 1 2 3 4 10, .vdqnt 1 2 3 0 12,
      .vqsplit 1 2 3 4, .vshup 1 2 3 3 0, .vshup 1 2 3 2 65, .vshdn 1 2 3 2 65, .vrot 1 2 2 64, .vrot 1 2 3 0,
      .vperm 1 2 3 0 3 0, .vperm 1 2 3 1 0 0, .vbcast 1 3 4, .vext 1 2 3 4 0, .vins 1 2 3 4, .vred 1 2 0 0 0 0 6,
      .vred 1 2 0 2 0 2 3, .vscan 1 2 0 3 0 0 0, .vscan 1 2 1 0 0 0 0, .vdot 1 2 3 0 0 0 2, .vdot 1 2 3 0 1 0 1,
      .vdot 1 2 3 4 1 1 2, .vexp2 1 2 1 0, .vlog2 1 2 4 1, .vrcp 1 2 1 0, .vrsq 1 2 4 1, .vmand 4 0 0, .vmand 0 4 0,
      .vmor 0 0 4, .vpopc 4 1].all (fun i => !i.wf) = true := by decide +kernel

/-- R58: tile, ring and context fields whose upper bits are not zero; R286 for the kind and number of a binding. -/
theorem test_wf_units :
    [Instr.tld 1 2 16, .tldRing 1 2 4, .tst 1 2 16, .tzero 31, .tmov 16 0, .tmov 0 16, .ttrans 16 0, .ttrans 0 16, .tmma 16 0,
      .tmma 0 16, .tmmas 4 0, .tmmas 0 4, .tmmasp 4 0, .tmmasp 0 4, .taccr 16 0, .ringdef 1 4, .twait 1 4 2, .tfree 1 4,
      .tadv 1 4, .tsend 16 1 0, .tsend 0 1 4, .sdesc 1 16, .sbind 16 0 0, .sbind 0 3 0, .sbind 0 2 4, .sunbind 16,
      .spos 16 1, .sposSet 1 16 2, .sskip 1 16, .sflush 31, .sstat 16 1].all (fun i => !i.wf) = true := by decide +kernel

/-- R317, R318 for register pairs; R362 for collective contexts; R344 for the word of a bank. -/
theorem test_wf_messages_and_collectives :
    [Instr.recv 1 3, .recv 1 0, .recv 2 2, .recv 3 2, .recvt 4 1 3, .recvt 4 1 0, .recvt 4 2 2, .recvt 4 3 2, .cdef 1 16,
      .cwatch 1 16 2, .cwatchOff 16, .cstart 16, .cstat 16 1, .cbw 1 16, .cabort 16 1, .ebrd 1 2 3].all (fun i => !i.wf)
      = true := by decide +kernel

/-! ## Small states -/

/-- A thread at level P, by itself. -/
def thP : Thread := { st := .run, tsr := { pl := 3 } }

/-- A thread at level U whose segment 0 reaches all of the core's SRAM and HBM. -/
def thU : Thread := { st := .run, segs := (Vector.replicate 8 {}).set 0 { base := 0, limit := 2 ^ 61 - 1, rights := 0x1F } }

/-- The machine with one thread, in slot 0 of core 0, and with core 0 as given: nothing is due, function 0 is active. -/
def mk (th : Thread) (k : Core := {}) : State :=
  { State.reset with agenda := [], threads := [(0, th)], cores := [(0, k)], panelCap := 0x0000010000080003#64
                     funcs := [(0, { st := .active, unl := true, rights := 0xFF, qmax := 16 })] }

/-- The same with quad 0 held by function 0. -/
def mkU (th : Thread) (k : Core := {}) : State := { mk th k with quads := [(0, { hold := .held 0 0 false })] }

/-- The machine with one thread, in slot 0 of the wide core of quad 0. -/
def mkW (th : Thread) (k : Core := {}) : State :=
  { mk th with cur := 257 * 16, threads := [(257 * 16, th)], cores := [(257, k)] }

/-- A thread whose registers are those listed, the others zero. -/
def regs (th : Thread) (l : List (Nat × Word)) : Thread := l.foldl (fun t p => t.put p.1 p.2) th

theorem residues_of {th : Thread} (h : th.tsr.res = false) : th.residuesHold := fun h' => absurd h' (by simp [h])

/-- The executing thread has nothing pending but perhaps an operation and a prefix. -/
abbrev clear (s : State) : Prop :=
  s.me.tsr.pair = false ∧ s.streaming s.cur = false ∧ s.me.replaying = false ∧ s.me.tsr.res = false

theorem alone_of {s : State} (h : clear s ∧ s.me.op = {}) : s.Alone :=
  ⟨h.1.1, h.1.2.1, h.1.2.2.1, residues_of h.1.2.2.2, h.2⟩

theorem plain_of {s : State} (h : (clear s ∧ s.me.op = {}) ∧ s.me.tsr.pp = false) : s.Plain := ⟨alone_of h.1, h.2⟩

theorem idle_of {s : State} (h : s.me.tsr.pair = false ∧ s.me.replaying = false ∧ s.me.tsr.res = false ∧ s.me.op = {} ∧
    s.me.tsr.pp = false) : s.Idle := ⟨h.1, h.2.1, residues_of h.2.2.1, h.2.2.2.1, h.2.2.2.2⟩

theorem taken_of {s : State} (h : clear s ∧ s.me.tsr.pp = false ∧ s.me.op.aux = takenMark ∧ s.me.op.reply = .none) : s.Taken :=
  ⟨h.1.1, h.1.2.1, h.1.2.2.1, residues_of h.1.2.2.2, h.2.1, h.2.2.1, h.2.2.2⟩

theorem served_of {s : State} (h : clear s ∧ s.me.tsr.pp = false ∧ s.me.op.service = true ∧ s.me.op.reply = .none) : s.Served :=
  ⟨h.1.1, h.1.2.1, h.1.2.2.1, residues_of h.1.2.2.2, h.2.1, h.2.2.1, h.2.2.2⟩

theorem answered_of {s : State} {bs : List Byte} (h : clear s ∧ s.me.tsr.pp = false ∧ s.me.op.reply = .data bs) : s.Answered bs :=
  ⟨h.1.1, h.1.2.1, h.1.2.2.1, residues_of h.1.2.2.2, h.2.1, h.2.2⟩

theorem fetched_of {s : State} {bs : List Byte} (h : clear s ∧ s.me.tsr.pp = false ∧
    (s.me.op.insn.isSome = true ∨ s.me.op.service = true) ∧ s.me.op.reply = .ok ∧ s.me.op.got = bs) : s.Fetched bs :=
  ⟨h.1.1, h.1.2.1, h.1.2.2.1, residues_of h.1.2.2.2, h.2.1, h.2.2.1, h.2.2.2.1, h.2.2.2.2⟩

/-- A thread that takes up a word which its engine, level or unit has taken. -/
def took (th : Thread) : Thread := { th with op := { aux := takenMark } }

theorem noWaits_nil {s : State} (h : s.quads = []) : s.noWaits := fun q => by simp [State.quad, smGet, h]

theorem noWaits_one {s : State} {k : Nat} {x : Quad} (h : s.quads = [(k, x)]) (hw : x.waits = [] ∧ x.tickets = []) :
    s.noWaits := fun q => by
  simp only [State.quad, smGet, h]
  split
  · exact hw
  · exact ⟨rfl, rfl⟩

theorem ok_of {ε α : Type} {r : Except ε α} {x : α} (h : r.toOption = some x) : r = .ok x := by
  cases r <;> simp_all [Except.toOption]

/-- What an `Except` fails with. -/
def failure {ε α : Type} : Except ε α → Option ε
  | .ok _ => none
  | .error e => some e

theorem error_of {ε α : Type} {r : Except ε α} {x : ε} (h : failure r = some x) : r = .error x := by
  cases r <;> simp_all [failure]

theorem own_of {s : State} {ea da : Word} {x n need : Nat} (hw : s.noWaits)
    (h : (s.segCheck s.me (quadOf s.here) ea n need).toOption = some (da, .tcm s.here, x) ∧ (s.core s.here).journal = [] ∧
      s.poisoned x n = false ∧ Memory.wf s.mem = true) : s.OwnTcm ea da x n need := ⟨ok_of h.1, h.2.1, hw, h.2.2.1, h.2.2.2⟩

/-- R154. An access to the first and to the last bytes of the core's own TCM, at level P and at level U. -/
theorem wit_own : (mk thP).OwnTcm 8 8 8 8 3 ∧ (mkU thU).OwnTcm 0 0 0 8 3 ∧ (mkU thU).OwnTcm 0x3FFFF 0x3FFFF 0x3FFFF 1 3 :=
  ⟨own_of (noWaits_nil rfl) (by decide +kernel), own_of (noWaits_one rfl (by decide)) (by decide +kernel),
    own_of (noWaits_one rfl (by decide)) (by decide +kernel)⟩

theorem wit_plain : (mk thP).Plain ∧ (mkU thU).Plain := ⟨plain_of (by decide +kernel), plain_of (by decide +kernel)⟩

/-! ## Witnesses: the machine and the scalar instructions -/

/-- The word of ADD g4, g4, g3 stands at address 0. -/
def stStep : State := (mkU (regs thU [(3, 5), (4, 7)])).wr 0 (toBytes 4 0x04841800)

/-- The hypotheses of StepRunsDecodedInstruction. -/
theorem wit_step : ∃ (s1 s2 s3 : State) (b : Option Block), stStep.turn = some 0 ∧
    s1 = { stStep.atTurn 0 with cur := 0 } ∧ ((s1.core s1.here).capturing = false ∧ s1.me.op.again = false ∧
      s1.me.resHalf = false ∧ s1.me.repFault = none ∧ s1.me.rep.want = 0 ∧ s1.mayAccept 0 = true ∧
      s1.mayInterrupt 0 = false ∧ s1.me.tsr.pair = false ∧ s1.me.returns = false) ∧
    s1.fetch 0 = .word s2 0x04841800#32 ∧ (s2.me.sign 0x04841800#32 = some b ∧ s2.me.rep.want = 0) ∧
    s2.me.twoIssues 0x04841800#32 = false ∧ decode 0x04841800#32 = .ok (.add 4 4 3) ∧
    s3 = (((s2.ahead s2.cur).modMe fun th => { th with word := 0x04841800#32, blkNext := b }).chargeIssue 0x04841800#32) := by
  have h : (match ({ stStep.atTurn 0 with cur := 0 } : State).fetch 0 with
      | .word s2 w => w == 0x04841800#32 && s2.me.sign 0x04841800#32 == some none && s2.me.rep.want == 0 &&
          !s2.me.twoIssues 0x04841800#32
      | _ => false) = true := by decide +kernel
  split at h
  · next s2 w he =>
    simp only [Bool.and_eq_true, beq_iff_eq, Bool.not_eq_true'] at h
    obtain ⟨⟨⟨rfl, h1⟩, h2⟩, h3⟩ := h
    exact ⟨_, s2, _, none, by decide +kernel, rfl, by decide +kernel, he, ⟨h1, h2⟩, h3, rfl, rfl⟩
  · simp at h

/-- The first clause of FetchAndRefusedWords, at the first word of a line and at the last one of the TCM. -/
theorem wit_fetch : ((mkU thU).thr 0).pc.toNat % 4 = 0 ∧ ((mkU thU).thr 0).heldLine (lineOf 0) = none ∧
    (mkU thU).segCheck ((mkU thU).thr 0) (quadOf (coreOf 0)) ((mkU thU).thr 0).pc 4 rightX = .ok (0, .tcm (coreOf 0), 0) ∧
    0 % 64 = ((mkU thU).thr 0).pc.toNat % 64 ∧ (wordsOf (0 - 0 % 64) 64).any (mkU thU).wordHeld = false ∧
    (mkU thU).poisoned 0 64 = false :=
  ⟨by decide +kernel, by decide +kernel, ok_of (by decide +kernel), by decide +kernel⟩

theorem wit_fetch_last : ∀ s : State, s = mkU { thU with pc := 0x3FFFC } → (s.thr 0).pc.toNat % 4 = 0 ∧
    (s.thr 0).heldLine (lineOf 0x3FFFC) = none ∧
    s.segCheck (s.thr 0) (quadOf (coreOf 0)) (s.thr 0).pc 4 rightX = .ok (0x3FFFC, .tcm (coreOf 0), 0x3FFFC) ∧
    0x3FFFC % 64 = (s.thr 0).pc.toNat % 64 ∧ (wordsOf (0x3FFFC - 0x3FFFC % 64) 64).any s.wordHeld = false ∧
    s.poisoned (0x3FFFC - 0x3FFFC % 64) 64 = false := by
  rintro s rfl
  exact ⟨by decide +kernel, by decide +kernel, ok_of (by decide +kernel), by decide +kernel⟩

/-- The second clause: a major without a row, and an EXT.W word of a class that the core lists. -/
theorem wit_refused : decode 0#32 = .error .major ∧ majorNat 0 ≠ 0x38 ∧
    decode 0xE000003C#32 = .error .function ∧ majorNat 0xE000003C#32 = 0x38 ∧ extClass 0xE000003C#32 = 0 ∧
    (mkW thP).listsClass (mkW thP).here 0 = true :=
  ⟨by rfl, by decide +kernel, by rfl, by decide +kernel⟩

/-- The hypotheses of EncodeDecode and of DecodedEncodes. -/
theorem wit_encode : (Instr.ld 31 31 6 0x1FFF).hasWord = true ∧ (Instr.ld 31 31 6 0x1FFF).wf = true ∧
    decode 0x04841800#32 = .ok (.add 4 4 3) :=
  ⟨by decide +kernel, by decide +kernel, by rfl⟩

/-- StepKeepsMemoryCanonical: a canonical memory, and a step that answers a next state. -/
theorem wit_invariant : stStep.memOk ∧ ∃ t, step stStep = .next t := by
  refine ⟨by unfold State.memOk; decide +kernel, ?_⟩
  have h : (match step stStep with | .next _ => true | _ => false) = true := by decide +kernel
  split at h
  · next t he => exact ⟨t, he⟩
  · simp at h

/-- Division: a divisor that is not zero, zero, and the overflow. -/
theorem wit_division : (mk (regs thP [(1, 7), (2, 2)])).Plain ∧ ((mk (regs thP [(1, 7), (2, 2)])).g 2).toInt ≠ 0 ∧
    (mk thP).g 2 = 0 ∧ (mk (regs thP [(1, 0x8000000000000000), (2, BitVec.allOnes 64)])).g 1 = 0x8000000000000000#64 ∧
    (mk (regs thP [(1, 0x8000000000000000), (2, BitVec.allOnes 64)])).g 2 = BitVec.allOnes 64 :=
  ⟨plain_of (by decide +kernel), by decide +kernel⟩

/-- Bit fields at their bounds: position 63 with length 64 (coded 0), position 0 with length 63. -/
theorem wit_fields : (63 : Nat) = ((63#64 : Word).extractLsb' 0 6).toNat ∧
    64 = (if (63#64 : Word).extractLsb' 8 6 = 0 then 64 else ((63#64 : Word).extractLsb' 8 6).toNat) ∧
    0 = ((0x3F00#64 : Word).extractLsb' 0 6).toNat ∧
    63 = (if (0x3F00#64 : Word).extractLsb' 8 6 = 0 then 64 else ((0x3F00#64 : Word).extractLsb' 8 6).toNat) := by decide

/-- Core coordinates: the grid's last core moved by nothing, and by one beyond the grid. -/
theorem wit_coordinates : (239 : Int) = ((0xEFEF#64 : Word).extractLsb' 0 8).toNat ∧
    (239 : Int) = ((0xEFEF#64 : Word).extractLsb' 8 8).toNat ∧ (0 : Int) = ((0x0001#64 : Word).extractLsb' 8 8).toInt ∧
    (1 : Int) = ((0x0001#64 : Word).extractLsb' 0 8).toInt ∧ (-128 : Int) = ((0x0080#64 : Word).extractLsb' 0 8).toInt := by
  decide

theorem wit_integer_frame : (mk thP).Plain ∧ (Instr.add 1 2 3).isInteger 1 ∧ (Instr.coreid 0).isInteger 0 ∧
    (Instr.roli 31 2 63).isInteger 31 ∧ 31 < 32 :=
  ⟨plain_of (by decide +kernel), .inl ⟨2, 3, .inl rfl⟩, by simp [Instr.isInteger], by simp [Instr.isInteger], by decide⟩

/-- Branches, LOOP and jumps: a thread outside a signed block, a branch that is taken and one that is not, JALR targets that are
aligned and not. -/
theorem wit_control : (mk thP).Plain ∧ (mk thP).mayBranch ∧ (mk thP).g 1 = (mk thP).g 2 ∧
    ¬((mk thP).g 1 ≠ (mk thP).g 2) ∧ ((0 : Word) + (4#16).signExtend 64).extractLsb' 0 2 = 0 ∧
    ((0 : Word) + (3#16).signExtend 64).extractLsb' 0 2 ≠ 0 :=
  ⟨plain_of (by decide +kernel), by unfold State.mayBranch; decide +kernel, by decide +kernel⟩

/-- Floating point: without a prefix, and with one that the rules accept, on a core that lists FP64. -/
theorem wit_float : (mkW thP).Alone ∧ (mkW thP).prefixFits fpRule ∧ (mkW thP).prefixFits dpRule ∧ (mkW thP).w64 (mkW thP).here = true ∧
    ∀ s : State, s = mkW { thP with tsr := { pl := 3, pp := true }, pfxsave := 0x888000 } → s.Alone ∧ s.prefixFits fpRule := by
  refine ⟨alone_of (by decide +kernel), fun h => absurd h (by decide +kernel), fun h => absurd h (by decide +kernel),
    by decide +kernel, ?_⟩
  rintro s rfl
  exact ⟨alone_of (by decide +kernel), fun _ => ⟨_, rfl, by decide +kernel⟩⟩

theorem wit_rounded : ∀ s : State, s = mkW { thP with tsr := { pl := 3, pp := true, rm := 4 } } →
    s.me.tsr.pp = true ∧ (mkW thP).me.tsr.pp = false ∧ pfxRm s.me.pfxsave = 0 := by
  rintro s rfl
  decide +kernel

theorem wit_float_forms : (mkW thP).Plain ∧ (2#5).toNat ≤ 2 ∧ cvtCode 13 = true ∧ cvtCode 4 = true ∧ dcvtCode 14 = true ∧
    (mkW thP).w64 (mkW thP).here = true := ⟨plain_of (by decide +kernel), by decide +kernel⟩

/-! ## Witnesses: exceptions, special registers and the words that shape other words -/

/-- TrapEntry: a thread inside a handler and one outside; a function that names no level for a code. -/
theorem wit_trap_entry : ((mk { thP with tsr := { th := true } }).thr 0).tsr.th = true ∧ ((mk thU).thr 0).tsr.th = false ∧
    ((mk thU).fn ((mk thU).thr 0).fn).route = 0 ∧ ((mk thU).thr 0).tsr.pl = 0 := by decide +kernel

/-- ExceptionReturn: in a trap handler; in a user-interrupt handler at level U; at level U outside one, and at level S. -/
theorem wit_return :
    (∀ s : State, s ∈ [mk { thU with tsr := { th := true, pl := 1 } }, mk { thU with tsr := { uia := true } }, mk thU,
        mk { thU with tsr := { uia := true, pl := 1 } }] → s.Plain ∧ s.mayBranch) ∧
      (mk { thU with tsr := { th := true, pl := 1 } }).me.tsr.th = true ∧
      ((mk { thU with tsr := { uia := true } }).me.tsr.th = false ∧ (mk { thU with tsr := { uia := true } }).me.tsr.pl = 0 ∧
        (mk { thU with tsr := { uia := true } }).me.tsr.uia = true) ∧
      ((mk thU).me.tsr.th = false ∧ (mk thU).me.tsr.uia = false) ∧
      (mk { thU with tsr := { uia := true, pl := 1 } }).me.tsr.pl ≠ 0 := by
  refine ⟨?_, by decide +kernel⟩
  intro s h
  simp only [List.mem_cons, List.not_mem_nil, or_false] at h
  rcases h with rfl | rfl | rfl | rfl <;> exact ⟨plain_of (by decide +kernel), by unfold State.mayBranch; decide +kernel⟩

/-- ThreadControl: a thread inside an open signed block. -/
theorem wit_open_block : ∀ s : State, s = mk { thP with tsr := { pl := 3, sg := true }, blkNext := some ⟨1, 0, 0⟩ } →
    s.Plain ∧ ¬s.mayBranch ∧ s.g 1 = s.g 2 := by
  rintro s rfl
  exact ⟨plain_of (by decide +kernel), by unfold State.mayBranch; decide +kernel, by decide +kernel⟩

/-- CsrAccess: TSR, which waits for the engines, and a register that level P alone may write, each read and written. -/
theorem wit_csr : (mk thP).Plain ∧ csrLevels (0#10).toNat = some (0, some 0) ∧ 0 ≤ (mk thP).level ∧
    (mk thP).engineIdle (mk thP).cur = true ∧ csrLevels (0x108#10).toNat = some (3, some 3) ∧ 3 ≤ (mk thP).level ∧
    (5 : BitVec 5) ≠ 0 := ⟨plain_of (by decide +kernel), by decide +kernel⟩

/-- CsrAccess refused: an unassigned number, a read level above U, a register without a write level, a write level above U. -/
theorem wit_csr_refused : (mk thU).Alone ∧ csrLevels (0x3FF#10).toNat = none ∧
    csrLevels (0x100#10).toNat = some (1, some 1) ∧ (mk thU).level < 1 ∧
    csrLevels (0x010#10).toNat = some (0, none) ∧ 0 ≤ (mk thU).level ∧
    csrLevels (0x240#10).toNat = some (0, some 1) ∧ (mk thU).level < 1 :=
  ⟨alone_of (by decide +kernel), by decide +kernel⟩

/-- ThreadControl: PARK of 0, of all ones and of one cycle; TRAP inside and outside a handler. -/
theorem wit_thread_control : ∀ s : State, s = mk (regs thU [(1, BitVec.allOnes 64), (2, 1)]) → s.Plain ∧ s.gn 0 = 0 ∧
    s.gn 1 = 2 ^ 64 - 1 ∧ s.gn 2 ≠ 0 ∧ s.gn 2 ≠ 2 ^ 64 - 1 ∧ s.me.tsr.th = false ∧
    (mk { thU with tsr := { th := true } }).Plain ∧ (mk { thU with tsr := { th := true } }).me.tsr.th = true := by
  rintro s rfl
  exact ⟨plain_of (by decide +kernel), by decide +kernel, by decide +kernel, by decide +kernel, by decide +kernel,
    by decide +kernel, plain_of (by decide +kernel), by decide +kernel⟩

/-- TFORK: a misaligned address; a core with a free slot; a core whose sixteen slots are taken. -/
theorem wit_fork : ∀ s f : State, s = mkU (regs thU [(1, 0x101), (2, 0x100)]) →
    f = { s with threads := (List.range 16).map fun i => (i, regs thU [(2, 0x100)]) } →
    s.Plain ∧ (s.g 1).extractLsb' 0 2 ≠ 0 ∧ (s.g 2).extractLsb' 0 2 = 0 ∧ (s.core s.here).inbound = [] ∧
    (s.core s.here).spillCount = 0 ∧ s.freeSlot s.here false = some 1 ∧ s.here * 16 + 1 ≠ s.cur ∧
    f.Plain ∧ (f.g 2).extractLsb' 0 2 = 0 ∧ (f.core f.here).inbound = [] ∧ (f.core f.here).spillCount = 0 ∧
    f.freeSlot f.here false = none := by
  rintro s f rfl rfl
  exact ⟨plain_of (by decide +kernel), by decide +kernel, by decide +kernel, by decide +kernel, by decide +kernel,
    by decide +kernel, by decide +kernel, plain_of (by decide +kernel), by decide +kernel⟩

/-- PrivilegedForms: a form of level S at level U, one of level L at level S, and one of major 0x2B. -/
theorem wit_privileged : (mk thU).Alone ∧ (mk thU).level < (Instr.segw 1 0 7).levelNeeded ∧
    (majorOf (encode (.segw 1 0 7)) = 0x2B → (mk thU).hasOptical = true) ∧
    (mk { thU with tsr := { pl := 1 } }).Alone ∧
    (mk { thU with tsr := { pl := 1 } }).level < (Instr.mqsetUnl 1 2 3).levelNeeded ∧
    (mk thU).level < (Instr.opolSet 1 2).levelNeeded ∧
    majorOf (encode (.opolSet 1 2)) = 0x2B ∧ (mk thU).hasOptical = true :=
  ⟨alone_of (by decide +kernel), by decide +kernel, fun _ => by decide +kernel, alone_of (by decide +kernel), by decide +kernel⟩

/-- PrefixRefused: a pending prefix before a register form and before RET forms. -/
theorem wit_prefix : (mk { thP with tsr := { pl := 3, pp := true } }).Alone ∧
    (mk { thP with tsr := { pl := 3, pp := true } }).me.tsr.pp = true ∧ (∃ d, (Instr.add 1 2 3).isInteger d) :=
  ⟨alone_of (by decide +kernel), by decide +kernel, 1, .inl ⟨2, 3, .inl rfl⟩⟩

/-! ## Witnesses: memory -/

/-- MemoryReadAfterWrite: a canonical memory, an address below the written bytes and one at their end. -/
theorem wit_memory : Memory.wf [⟨5, 7⟩, ⟨9, 1⟩] = true ∧ ((4 : Nat) < 5 ∨ 5 + [1, (2 : Byte)].length ≤ 4) ∧
    ((7 : Nat) < 5 ∨ 5 + [1, (2 : Byte)].length ≤ 7) ∧ (4 + 1 ≤ 5 ∨ 5 + [1, (2 : Byte)].length ≤ 4) := by decide +kernel

/-- The thread at level P with the ends of the TCM in its registers. -/
def stMem : State := mk (regs thP [(1, 0x3FFF8), (2, 5), (5, scopeWord 6), (6, 0x3FFFC)])

theorem stMem_plain : stMem.Plain := plain_of (by decide +kernel)

/-- TcmLoadsAndStores: the smallest and the widest access, at the last bytes of the TCM. -/
theorem wit_tcm : stMem.Plain ∧ (6#3).toNat ≠ 7 ∧ stMem.OwnTcm (stMem.g 1 + (7#13).signExtend 64) 0x3FFFF 0x3FFFF 1 1 ∧
    stMem.OwnTcm (stMem.g 1 + (0#13).signExtend 64) 0x3FFF8 0x3FFF8 8 1 ∧ (3#3).toNat < 4 ∧
    stMem.OwnTcm (stMem.g 0 + (0#13).signExtend 64) 0 0 8 2 ∧
    stMem.OwnTcm (stMem.g 1 + (7#13).signExtend 64) 0x3FFFF 0x3FFFF 1 2 :=
  ⟨stMem_plain, by decide, own_of (noWaits_nil rfl) (by decide +kernel), own_of (noWaits_nil rfl) (by decide +kernel), by decide,
    own_of (noWaits_nil rfl) (by decide +kernel), own_of (noWaits_nil rfl) (by decide +kernel)⟩

/-- OrderedAccesses: a scope of the panel, words of 4 and 8 bytes, and every atomic on them. -/
theorem wit_ordered : ∃ sc : Scope, stMem.Plain ∧ stMem.checkScope stMem.cur (stMem.g 5) = .ok sc ∧
    stMem.OwnTcm (stMem.g 1 + (4#8).signExtend 64) 0x3FFFC 0x3FFFC 4 1 ∧ stMem.OwnTcm (stMem.g 1 + (0#8).signExtend 64) 0x3FFF8 0x3FFF8 8 1 ∧
    stMem.pushesOf stMem.cur = false ∧ stMem.OwnTcm (stMem.g 1 + (4#8).signExtend 64) 0x3FFFC 0x3FFFC 4 2 ∧
    stMem.OwnTcm (stMem.g 1 + (0#8).signExtend 64) 0x3FFF8 0x3FFF8 8 2 ∧
    stMem.OwnTcm (stMem.g 6) 0x3FFFC 0x3FFFC 4 3 ∧ (0x3FFFC#64 : Word).toNat % 4 = 0 ∧
    stMem.OwnTcm (stMem.g 1) 0x3FFF8 0x3FFF8 8 3 ∧ (0x3FFF8#64 : Word).toNat % 8 = 0 :=
  ⟨_, stMem_plain, ok_of (x := { thread := false, spans := false, clamped := false }) (by decide +kernel), own_of (noWaits_nil rfl) (by decide +kernel), own_of (noWaits_nil rfl) (by decide +kernel),
    by decide +kernel, own_of (noWaits_nil rfl) (by decide +kernel), own_of (noWaits_nil rfl) (by decide +kernel),
    own_of (noWaits_nil rfl) (by decide +kernel), by decide, own_of (noWaits_nil rfl) (by decide +kernel), by decide⟩

/-- FullEmptyAndFences: a full word and an empty one; a fence with nothing to wait for, and one with a pending store. -/
theorem wit_full_empty : ∃ sc : Scope, ∀ s : State, s = { stMem with full := [0x3FFF8] } → s.Plain ∧
    (0x3FFF8#64 : Word).toNat % 8 = 0 ∧ s.checkScope s.cur (implicitScope false) = .ok sc ∧
    s.OwnTcm (s.g 1 + (0#13).signExtend 64) 0x3FFF8 0x3FFF8 8 11 ∧ s.isFull 0x3FFF8 = true ∧
    s.OwnTcm (s.g 1 + (0#13).signExtend 64) 0x3FFF8 0x3FFF8 8 9 ∧
    s.OwnTcm (s.g 0 + (0#13).signExtend 64) 0 0 8 10 ∧ s.isFull 0 = false ∧ s.pushesOf s.cur = false := by
  refine ⟨{ thread := false, spans := false, clamped := false }, ?_⟩
  rintro s rfl
  exact ⟨plain_of (by decide +kernel), by decide, ok_of (by decide +kernel), own_of (noWaits_nil rfl) (by decide +kernel),
    by decide +kernel, own_of (noWaits_nil rfl) (by decide +kernel), own_of (noWaits_nil rfl) (by decide +kernel),
    by decide +kernel, by decide +kernel⟩

/-- A journal entry of thread 0 under sequence number 0. -/
def entry (k : JKind) (c a : Nat) (bs : List Byte) : JEntry :=
  { thread := 0, seq := 0, fn := 0, kind := k, unit := .tcm c, addr := a, report := 0, bytes := (List.range bs.length).zip bs }

/-- A core with one posted store of thread 0 pending. -/
def posted : Core := { journal := [(0, entry .st 1 (sramAddr 1 0 0) [1])] }

theorem wit_fences : ∃ sc : Scope, stMem.checkScope stMem.cur (stMem.g 5) = .ok sc ∧ stMem.released stMem.cur = true ∧
    sc.thread = false ∧ ∀ s : State, s = mk (regs thP [(5, scopeWord 6)]) posted → s.Plain ∧
      s.checkScope s.cur (s.g 5) = .ok sc ∧ s.released s.cur = false := by
  refine ⟨{ thread := false, spans := false, clamped := false }, ok_of (by decide +kernel), by decide +kernel, rfl, ?_⟩
  rintro s rfl
  exact ⟨plain_of (by decide +kernel), ok_of (by decide +kernel), by decide +kernel⟩

/-- SegmentRegistersAndCheck: SEGR of each field, SEGW at level S, and for each outcome of the segment check an access that
meets it: at LIMIT and one byte beyond, without a right, into another quarter, and one that passes without right H. -/
theorem wit_segments : (mk { thU with tsr := { pl := 1 } }).Plain ∧ 1 ≤ (mk { thU with tsr := { pl := 1 } }).level ∧
    (2 : BitVec 2) ≠ 3 := ⟨plain_of (by decide +kernel), by decide +kernel, by decide⟩

/-- A thread at level U with segment 7. -/
def seg7 (g : Seg) : Thread := { thU with segs := (Vector.replicate 8 {}).set 7 g }

theorem wit_segment_check :
    (seg7 { base := 64, limit := 7, rights := 0x13 }).tsr.pl.toNat < 2 ∧
    (seg7 { base := 64, limit := 7, rights := 0x13 }).seg ((0xE000000000000001#64 : Word).toNat / 2 ^ 61) =
      { base := 64, limit := 7, rights := 0x13 } ∧
    7 < (0xE000000000000001#64 : Word).toNat % 2 ^ 61 + 8 - 1 ∧ (0xE000000000000000#64 : Word).toNat % 2 ^ 61 + 8 - 1 ≤ 7 ∧
    4 &&& (0x13#6).toNat ≠ 4 ∧ 3 &&& (0x13#6).toNat = 3 ∧
    ((0x3FFFFFFFFFFFFFC0#64 : Word) + BitVec.ofNat 64 64).extractLsb' 62 2 ≠ (0x3FFFFFFFFFFFFFC0#64 : Word).extractLsb' 62 2 ∧
    (64 : Nat) + 1 - 1 ≤ 64 ∧
    (mkU thU).segCheck (seg7 { base := 64, limit := 7, rights := 3 }) 0 0xE000000000000000#64 8 3 = .ok (64, .tcm 0, 64) :=
  ⟨by decide, by decide +kernel, by decide, by decide, by decide, by decide, by decide, by decide, ok_of (by decide +kernel)⟩

/-- AccessTrapsAndPostedStores: a load beyond LIMIT, a misaligned STF, and a store to the TCM of the next core. -/
theorem wit_access_traps : ∃ c d : Cause, (mkU (regs (seg7 { base := 0, limit := 0, rights := 3 }) [(1, 0xE000000000000001)])).Plain ∧
    (∀ s : State, s = mkU (regs (seg7 { base := 0, limit := 0, rights := 3 }) [(1, 0xE000000000000001)]) →
      s.segCheck s.me (quadOf s.here) (s.g 1 + (0#13).signExtend 64) 1 1 = .error c ∧
      s.segCheck s.me (quadOf s.here) (s.g 1 + (0#13).signExtend 64) 1 2 = .error d) ∧
    (mkU (regs thU [(1, 4)])).Plain ∧ (0x4#64 : Word).toNat % 8 ≠ 0 ∧
    ∀ s : State, s = mkU (regs thU [(1, 4)]) →
      s.segCheck s.me (quadOf s.here) (s.g 1 + (0#13).signExtend 64) 8 10 = .ok (4, .tcm s.here, 4) := by
  refine ⟨{ code := 8, detail := 0, tval := 0xE000000000000001 }, { code := 8, detail := 0, tval := 0xE000000000000001 },
    plain_of (by decide +kernel), ?_, plain_of (by decide +kernel), by decide, ?_⟩
  · rintro s rfl
    exact ⟨error_of (by decide +kernel), error_of (by decide +kernel)⟩
  · rintro s rfl
    exact ok_of (by decide +kernel)

theorem wit_posted : ∀ s : State, s = mk (regs thP [(1, BitVec.ofNat 64 (2 ^ 40 + 8))]) → s.Plain ∧
    s.segCheck s.me (quadOf s.here) (s.g 1 + (0#13).signExtend 64) 8 2 = .ok (BitVec.ofNat 64 (2 ^ 40 + 8), .tcm 1, sramAddr 1 0 8) ∧
    1 ≠ s.here ∧ sramAddr 1 0 8 % 16 + 8 ≤ 16 ∧ (s.core s.here).journal = [] := by
  rintro s rfl
  exact ⟨plain_of (by decide +kernel), ok_of (by decide +kernel), by decide +kernel⟩

/-! ## Witnesses: the vector engine -/

/-- What VectorReady asks of a state without a pending prefix. -/
def vecOk (s : State) (i : Instr) : Bool :=
  !s.me.tsr.pair && !s.streaming s.cur && !s.me.replaying && !s.me.tsr.res && s.me.op == {} && !s.me.tsr.pp &&
    !(s.core s.here).ctxs.toList.any (fun x => x.bound && !x.susp && x.owner == s.cur && x.kind == 1) &&
    (s.core s.here).vq == [] && (s.core s.here).vwait == [] &&
    (2 ≤ s.level || s.quotaOk (quadOf s.here) s.me.fn) && s.me.checkFail (vecReads i s.me) == none &&
    (majorOf (encode i) != 0x38 || s.w64 s.here)

theorem ready_of {s : State} {i : Instr} (h : vecOk s i = true) : s.VectorReady i := by
  simp only [vecOk, Bool.and_eq_true, Bool.not_eq_true', beq_iff_eq, Bool.or_eq_true, decide_eq_true_eq, bne_iff_ne] at h
  obtain ⟨⟨⟨⟨⟨⟨⟨⟨⟨⟨⟨h1, h2⟩, h3⟩, hr⟩, h4⟩, h5⟩, h6⟩, h7⟩, h8⟩, h9⟩, ha⟩, hb⟩ := h
  exact ⟨alone_of ⟨⟨h1, h2, h3, hr⟩, h4⟩, fun hp => absurd (h5.symm.trans hp) (by simp), h6, ⟨h7, h8⟩, h9, ha, fun hm => hb.resolve_left fun hn => hn hm⟩

/-- The fourteen forms of major 0x20. -/
def aluForms : List Instr :=
  [.vadd 1 2 3 0 0 0 0 0, .vsub 1 2 3 1 1 1 1 1, .vmul 1 2 3 0 2 0 0 0, .vfma 1 2 3 3 2 1 2 1, .vmin 1 2 3 0 1 0 2 0, .vmax 1 2 3 0 1 0 3 0,
    .vamin 1 2 3 0 0 0 1 0, .vamax 7 7 7 3 0 1 0 0, .vand 1 2 3 0 0 0 0 0, .vor 1 2 3 0 1 0 0 0, .vxor 1 2 3 0 2 0 0 0,
    .vshl 1 2 3 0 0 0 1 1, .vshr 1 2 3 0 1 0 1 0, .vsha 1 2 3 0 2 0 1 0]

/-- The other forms that compute on registers, at the bounds of their fields. -/
def laneForms : List Instr :=
  [.vcmp 3 2 3 0 0 0 0 0 3, .vsel 1 2 3 3 1, .vcvt 1 2 0 0 4 7 0, .vqnt 1 2 3 3 10, .vdqnt 1 2 3 7 11, .vshup 1 2 3 2 64,
    .vshdn 1 2 3 1 0, .vrot 1 2 2 63, .vperm 1 2 3 0 0 0, .vbcast 1 0 31, .vext 1 7 2 31 0, .vins 1 7 0 31,
    .vred 1 2 0 0 0 0 5, .vscan 1 2 0 2 0 2 2, .vdot 1 2 3 0 0 0 1, .vexp2 1 2 0 0, .vlog2 1 2 3 1, .vrcp 1 2 0 0,
    .vrsq 1 2 0 0, .vmand 3 0 3, .vmor 0 3 0, .vpopc 3 31, .vshadow, .vdadd 1 2 3 0 0 0, .vdsub 1 2 3 0 0 1, .vdmul 1 2 3 3 1 0,
    .vdfma 1 2 3 0 0 0, .vdmin 1 2 3 0 0 0, .vdmax 1 2 3 0 0 0, .vdwid 1 2 1 0 0 0, .vdnar 1 2 1 0 0 0]

/-- VectorCompletion and VectorArithmetic: every form on the wide core, at level P and at level U with room in the quota. -/
theorem wit_lane_ops : ∀ i ∈ aluForms ++ laneForms, i.isLaneOp = true ∧ i.wf = true ∧ (mkW thP).VectorReady i ∧
    (mkW thU).VectorReady i ∧ (mkW thP).me.tsr.pp = false ∧ (mkW thP).me.tsr.rm.toNat < 4 := by
  have h : ∀ i ∈ aluForms ++ laneForms, i.isLaneOp = true ∧ i.wf = true ∧ vecOk (mkW thP) i = true ∧ vecOk (mkW thU) i = true ∧
    (mkW thP).me.tsr.pp = false ∧ (mkW thP).me.tsr.rm.toNat < 4 := by decide +kernel
  intro i hi
  obtain ⟨a, b, c, d, e⟩ := h i hi
  exact ⟨a, b, ready_of c, ready_of d, e⟩

/-- The second part of VectorArithmetic, at the least and the greatest elements. -/
theorem wit_elements : (2 : Nat) < 3 ∧ (32 : Nat) = 8 <<< 2 ∧ 2 ^ 32 - 1 < 2 ^ 32 ∧ (0 : Nat) < 2 ^ 32 ∧ (8 : Nat) = 8 <<< 0 ∧
    (255 : Nat) < 2 ^ 8 ∧ (1 : Nat) < 2 := by decide

/-- VectorMovesAndMasks: shifts by all elements and by none, a rotation by all but one, an index register. -/
theorem wit_moves : (2#2).toNat < 3 ∧ (32 : Nat) = 8 <<< (2#2).toNat ∧ 64 = elems (2#2).toNat ∧ (64#7).toNat ≤ 64 ∧
    (63#7).toNat < 64 ∧ (mk thP).VectorReady (.vshup 1 2 3 2 64) ∧ (mk thP).VectorReady (.vshdn 1 2 3 2 0) ∧
    (mk thP).VectorReady (.vrot 1 2 2 63) ∧ (mk thP).VectorReady (.vsel 1 2 3 3 1) ∧ (3#3).toNat < 4 ∧
    (mk thP).VectorReady (.vperm 1 2 3 0 2 0) ∧ (mk thP).VectorReady (.vbcast 1 2 31) ∧ (mk thP).VectorReady (.vins 1 7 2 31) ∧
    (mk thP).VectorReady (.vext 1 7 2 31 1) ∧ (31 : BitVec 5) ≠ 0 :=
  ⟨by decide, by decide, by decide, by decide, by decide, ready_of (by decide +kernel), ready_of (by decide +kernel), ready_of (by decide +kernel),
    ready_of (by decide +kernel), by decide, ready_of (by decide +kernel), ready_of (by decide +kernel), ready_of (by decide +kernel),
    ready_of (by decide +kernel), by decide⟩

theorem wit_masks : (Instr.vcmp 3 2 3 3 0 1 1 1 3).wf = true ∧ (1#2).toNat < 2 ∧ (mk thP).VectorReady (.vcmp 3 2 3 3 0 1 1 1 3) ∧
    (3#3).toNat < 4 ∧ (mk thP).VectorReady (.vmand 3 3 3) ∧ (mk thP).VectorReady (.vmor 3 3 3) ∧
    (mk thP).VectorReady (.vpopc 3 31) :=
  ⟨by decide, by decide, ready_of (by decide +kernel), by decide, ready_of (by decide +kernel), ready_of (by decide +kernel),
    ready_of (by decide +kernel)⟩

/-- VectorConversions: each clause, with the last part of a conversion and of a dequantisation. -/
theorem wit_conversions : (mk thP).me.tsr.rm.toNat < 4 ∧ (mk thP).me.tsr.pp = false ∧ (Instr.vcvt 1 2 3 0 4 7 0).wf = true ∧
    (mk thP).VectorReady (.vcvt 1 2 3 0 4 7 0) ∧ (3#3).toNat < 4 ∧ (mk thP).VectorReady (.vdqnt 1 2 0 3 10) ∧ (7#3).toNat < 8 ∧
    (mk thP).VectorReady (.vdqnt 1 2 0 7 11) ∧ (1#2).toNat < 2 ∧ (mk thP).VectorReady (.vdot 1 2 3 0 0 0 1) ∧
    (mk thP).VectorReady (.vexp2 1 2 0 0) ∧ (mk thP).VectorReady (.vlog2 1 2 0 0) ∧ (mk thP).VectorReady (.vrcp 1 2 0 0) ∧
    (mk thP).VectorReady (.vrsq 1 2 0 0) :=
  ⟨by decide +kernel, by decide +kernel, by decide, ready_of (by decide +kernel), by decide, ready_of (by decide +kernel), by decide,
    ready_of (by decide +kernel), by decide, ready_of (by decide +kernel), ready_of (by decide +kernel), ready_of (by decide +kernel),
    ready_of (by decide +kernel), ready_of (by decide +kernel)⟩

/-- A vector register whose lane `l` holds 4 · `l`. -/
def lanes : Vector Lane 64 := Vector.ofFn fun l => { data := BitVec.ofNat 32 (4 * l.val) }

/-- VectorMemory: registers at the last 256 bytes of the TCM, and lanes at the words of its first 256. -/
def stVec : State := mk { regs thP [(1, 0x40000 - 256)] with v := (Vector.replicate 8 (Vector.replicate 64 {})).set 2 lanes }

theorem wit_vector_memory : stVec.ownsTcm ∧ stVec.VectorReady (.vld 7 0 0 1 0) ∧ stVec.VectorReady (.vst 7 0 0 1 0) ∧
    stVec.OwnTcm (stVec.g 1 + 256 * (0#6).signExtend 64) (0x40000 - 256) (0x40000 - 256) 256 1 ∧
    stVec.OwnTcm (stVec.g 1 + 256 * (0#6).signExtend 64) (0x40000 - 256) (0x40000 - 256) 256 2 ∧ (0x40000 - 256) % 64 = 0 ∧
    ((0x40000 - 256 : Word)).toNat % 4 = 0 :=
  ⟨.inl (by decide +kernel), ready_of (by decide +kernel), ready_of (by decide +kernel),
    own_of (noWaits_nil rfl) (by decide +kernel), own_of (noWaits_nil rfl) (by decide +kernel), by decide, by decide⟩

theorem wit_vector_indexed : (0#3).toNat < 4 ∧ ((0 : BitVec 1) = 0 → (0 : BitVec 3) = 0) ∧
    (∀ l l' : Nat, l < 64 → l' < 64 → l ≠ l' → 4 * l + 4 ≤ 4 * l' ∨ 4 * l' + 4 ≤ 4 * l) ∧
    stVec.VectorReady (.vldx 1 2 0 0 0 0) ∧ stVec.VectorReady (.vstx 1 2 0 0 0 0) ∧
    (∀ l, l < 64 → stVec.me.on 0 0 l = true → 4 * l % 64 + 4 ≤ 64 ∧ ∃ da : Word, da.toNat % 4 = 0 ∧
      stVec.OwnTcm (stVec.g 0 + ((stVec.me.lane 2 l).data.signExtend 64) <<< 0) da (4 * l) 4 1 ∧
      stVec.OwnTcm (stVec.g 0 + ((stVec.me.lane 2 l).data.signExtend 64) <<< 0) da (4 * l) 4 2) := by
  refine ⟨by decide, fun _ => rfl, by omega, ready_of (by decide +kernel), ready_of (by decide +kernel), fun l hl _ => ?_⟩
  have h : ∀ l, l < 64 → 4 * l % 64 + 4 ≤ 64 ∧ (BitVec.ofNat 64 (4 * l)).toNat % 4 = 0 ∧
      ((stVec.segCheck stVec.me (quadOf stVec.here) (stVec.g 0 + ((stVec.me.lane 2 l).data.signExtend 64) <<< 0) 4 1).toOption =
        some (BitVec.ofNat 64 (4 * l), .tcm stVec.here, 4 * l) ∧ (stVec.core stVec.here).journal = [] ∧
        stVec.poisoned (4 * l) 4 = false ∧ Memory.wf stVec.mem = true) ∧
      ((stVec.segCheck stVec.me (quadOf stVec.here) (stVec.g 0 + ((stVec.me.lane 2 l).data.signExtend 64) <<< 0) 4 2).toOption =
        some (BitVec.ofNat 64 (4 * l), .tcm stVec.here, 4 * l) ∧ (stVec.core stVec.here).journal = [] ∧
        stVec.poisoned (4 * l) 4 = false ∧ Memory.wf stVec.mem = true) := by decide +kernel
  obtain ⟨h1, h2, h3, h4⟩ := h l hl
  exact ⟨h1, _, h2, own_of (noWaits_nil rfl) h3, own_of (noWaits_nil rfl) h4⟩

/-- OutliersAndExactSums: a split with room for all its lanes; an outlier queue with an entry and an empty one; two factors. -/
theorem wit_outliers : (3#3).toNat < 4 ∧ (mk thP).VectorReady (.vqsplit 1 2 0 3) ∧ 257 = coreOfQuad (quadOf (mk thP).here) 3 ∧
    ((mk thP).core 257).oq.length ≤ 192 ∧ ((mk thP).core 257).oqWait = [] ∧
    (mk thP).me.at 2 32 0 = 0 ∧ (mkW thP).Plain ∧ (mkW thP).xw (mkW thP).here = true ∧
    ((mkW thP).core (mkW thP).here).oq = [] ∧
    (∀ s : State, s = mkW thP { oq := [5] } → s.Plain ∧ s.xw s.here = true ∧ (s.core s.here).oq = [5] ∧
      (s.core s.here).oqWait = []) :=
  ⟨by decide, ready_of (by decide +kernel), by decide +kernel, by decide +kernel, by decide +kernel, by decide +kernel,
    plain_of (by decide +kernel), by decide +kernel, by decide +kernel, by
      rintro s rfl
      exact ⟨plain_of (by decide +kernel), by decide +kernel⟩⟩

theorem wit_exact_sum : ∀ s : State, s = mkW (regs thP [(1, 0x40400000), (2, 0xC0000000)]) → s.Plain ∧ s.xw s.here = true ∧
    s.me.xstate = .finite ∧ s.fp 4 1 = .fin false 0xC00000 (-22) false ∧ s.fp 4 2 = .fin true 0x800000 (-22) false ∧
    (-300 : Int) ≤ -22 + -22 ∧
    (s.me.xacc.toInt + (if false = true then 1 else -1) * (0xC00000 * 0x800000 * 2 ^ ((-22 : Int) + -22 + 300).toNat : Nat)).natAbs
      < 2 ^ 639 := by
  rintro s rfl
  exact ⟨plain_of (by decide +kernel), by decide +kernel⟩

/-! ## Witnesses: the matrix engine -/

/-- What MatrixReady asks of a state without a pending prefix. -/
abbrev matOk (s : State) (i : Instr) : Prop :=
  (clear s ∧ s.me.op = {}) ∧ s.me.tsr.pp = false ∧ (s.core s.here).unitIdle = true ∧ s.mayAccept s.cur = true ∧
    ((s.core s.here).directTiles i).any (s.core s.here).filling = false

theorem mready_of {s : State} {i : Instr} (h : matOk s i) : s.MatrixReady i :=
  ⟨alone_of h.1, fun hp => absurd (h.2.1.symm.trans hp) (by simp), h.2.2.1, h.2.2.2.1, h.2.2.2.2⟩

/-- A descriptor word: format, KVM1 and NRM1 at their greatest, rows `stride` bytes apart. -/
def geomWord (fmt stride : Nat) : Word := BitVec.ofNat 64 (fmt + 63 * 2 ^ 13 + 31 * 2 ^ 19 + stride * 2 ^ 44)

/-- A core whose tiles have all one descriptor, with rings 0 and 1 of four slots each and the accumulator's format. -/
def kMat (fmt stride afmt : Nat) : Core :=
  { tiles := Vector.replicate 16 { geom := geomWord fmt stride }, accg := BitVec.ofNat 64 (afmt * 2 ^ 32)
    rings := ((Vector.replicate 4 {}).set 0 { first := 0, len := 4, nf := 2, pi := 2 }).set 1 { first := 4, len := 4, nf := 4 } }

/-- TileMoves: each instruction at the highest tile. -/
theorem wit_tile_moves : ∀ s : State, s = mkU thU (kMat 0 64 4) ∨ s = mkU thU (kMat 6 64 4) → s.MatrixReady (.tzero 15) ∧
    s.MatrixReady (.tmov 0 15) ∧ s.MatrixReady (.tmov 15 15) ∧ s.MatrixReady (.ttrans 0 15) ∧ (15#5).toNat < 16 ∧
    ((s.core s.here).tile 15).desc.ok = true ∧ (0 : BitVec 5) ≠ 15 ∧ ((s.core s.here).tile 0).desc.sp = 0 ∧
    ((s.core s.here).tile 0).desc.fmt ∈ [0, 1, 5, 6, 7, 8] := by
  rintro s (rfl | rfl)
  all_goals exact ⟨mready_of (by decide +kernel), mready_of (by decide +kernel), mready_of (by decide +kernel),
    mready_of (by decide +kernel), by decide +kernel⟩

/-- The rows of the tiles of `kMat 0 64 4` in the core's own TCM. -/
theorem rows_of (s : State) (hs : s = mk thP (kMat 0 64 4)) (need : Nat) (hn : need = 1 ∨ need = 2) (i : Nat) (hi : i < 32) :
    ∃ da : Word, da.toNat % 32 = 0 ∧ s.OwnTcm (s.g 0 + BitVec.ofNat 64 (i * 64)) da (64 * i) 64 need := by
  subst hs
  have h : ∀ i, i < 32 → ∀ need, need = 1 ∨ need = 2 → (BitVec.ofNat 64 (64 * i)).toNat % 32 = 0 ∧
      (((mk thP (kMat 0 64 4)).segCheck (mk thP (kMat 0 64 4)).me (quadOf (mk thP (kMat 0 64 4)).here)
        ((mk thP (kMat 0 64 4)).g 0 + BitVec.ofNat 64 (i * 64)) 64 need).toOption =
        some (BitVec.ofNat 64 (64 * i), .tcm (mk thP (kMat 0 64 4)).here, 64 * i) ∧
        ((mk thP (kMat 0 64 4)).core (mk thP (kMat 0 64 4)).here).journal = [] ∧
        (mk thP (kMat 0 64 4)).poisoned (64 * i) 64 = false ∧ Memory.wf (mk thP (kMat 0 64 4)).mem = true) := by
    intro i hi need hn
    rcases hn with rfl | rfl
    · revert i; decide +kernel
    · revert i; decide +kernel
  exact ⟨_, (h i hi need hn).1, own_of (noWaits_nil rfl) (h i hi need hn).2⟩

/-- TileLoadAndStore: into tile 15 and into a ring with two slots EMPTY, a tile of one slot and a pair. -/
theorem wit_tile_rows : ∀ s : State, s = mk thP (kMat 0 64 4) ∨ s = mk thP (kMat 5 128 4) →
    s.MatrixReady (.tld 0 0 14) ∧ s.MatrixReady (.tldRing 0 0 0) ∧ s.ownsTcm ∧ ((s.core s.here).ring 0).inStep ∧
    ((s.core s.here).tile 14).desc.okAt 14 = true ∧ ((s.core s.here).tile 14).desc.sp = 0 ∧
    ((s.core s.here).tile 14).desc.fmt ∉ [10, 11, 12] ∧
    2 = ((s.core s.here).ring 0).tile ((s.core s.here).ring 0).pi ∧ ((s.core s.here).ring 0).len ≠ 0 ∧
    ((s.core s.here).ring 0).pi < ((s.core s.here).ring 0).len ∧
    ((s.core s.here).tile 2).desc.slots ≤ ((s.core s.here).ring 0).empties ∧ ((s.core s.here).ring 0).pend = [] ∧
    ((s.core s.here).ring 0).tile (3 % 4) = 3 ∧ ((s.core s.here).tile 2).desc.okAt 2 = true ∧
    ((s.core s.here).tile 2).desc.stride = ((s.core s.here).tile 2).desc.rowBytes := by
  rintro s (rfl | rfl)
  all_goals exact ⟨mready_of (by decide +kernel), mready_of (by decide +kernel), .inl (by decide +kernel),
    by unfold Ring.inStep; decide +kernel, by decide +kernel⟩

theorem wit_tile_store : ∀ s : State, s = mk thP (kMat 0 64 4) → s.MatrixReady (.tst 0 0 15) ∧
    ((s.core s.here).tile 15).pois = false ∧ ((s.core s.here).tile 15).desc.pair = false ∧
    (∀ i, i < 32 → ((s.core s.here).rowOf 15 false i).length = 64 * ((s.core s.here).tile 15).desc.slots) ∧
    s.entriesOf s.cur = [] ∧ ((s.core s.here).tile 15).desc.rowBytes = 64 ∧ ((s.core s.here).tile 15).desc.stride = 64 ∧
    ((s.core s.here).tile 15).desc.nrm1 = 31 ∧ ∀ i : Nat, i < 32 → ∀ j : Nat, j < 32 → i ≠ j → 64 * i + 64 ≤ 64 * j ∨ 64 * j + 64 ≤ 64 * i := by
  rintro s rfl
  exact ⟨mready_of (by decide +kernel), by decide +kernel⟩

theorem sound_of {k : Core} (h : ∀ i, i < 16 → (vget {} k.tiles i).pois = false) (j : Nat) : (k.tile j).pois = false :=
  h (j % 16) (Nat.mod_lt j (by decide))

/-- Accumulator: tiles of a floating-point and of an integer format; a read into an 8-bit and into a 16-bit tile. -/
theorem wit_accumulator : ∀ s : State, s = mkU thU (kMat 0 64 3) ∨ s = mkU thU (kMat 7 64 4) → s.memOk ∧
    s.MatrixReady .taccz ∧ s.MatrixReady (.tmma 0 15) ∧ s.MatrixReady (.taccr 15 1) ∧
    (∀ j, ((s.core s.here).tile j).pois = false) ∧
    (s.core s.here).stopped = false ∧ s.me.tsr.pp = false ∧ s.me.tsr.rm.toNat < 4 ∧
    (s.core s.here).accepts (s.core s.here).afmt 0 15 none none none = true ∧ s.accBad s.here = none ∧
    ((s.core s.here).afmt = 3 ∨ (s.core s.here).afmt = 4) ∧ ((s.core s.here).tile 15).desc.okAt 15 = true ∧
    ((s.core s.here).tile 15).desc.fmt ∈ [0, 1, 5, 6, 7, 8, 9, 13] ∧ (s.core s.here).accPois = false := by
  rintro s (rfl | rfl)
  all_goals
    exact ⟨by unfold State.memOk; decide +kernel, mready_of (by decide +kernel), mready_of (by decide +kernel),
      mready_of (by decide +kernel), fun j => sound_of (by decide +kernel) j, by decide +kernel⟩

theorem wit_accumulator_read : ∀ s : State, s = mkU thU { kMat 6 128 4 with accPois := true } → s.MatrixReady (.taccr 14 0) ∧
    fmtWidth ((s.core s.here).tile 14).desc.fmt = 16 ∧ (14#5).toNat % 2 = 0 ∧ ((s.core s.here).tile 14).desc.okAt 14 = true ∧
    (s.core s.here).accPois = true := by
  rintro s rfl
  exact ⟨mready_of (by decide +kernel), by decide +kernel⟩

/-- RingsAndMatrixControl: a definition of sixteen slots; one FULL slot waited for, claimed and freed; a ring without
forwarding. -/
theorem wit_rings : ∀ s : State, s = mkU (regs thU [(1, 0x1000), (2, 1), (3, 4)]) { kMat 0 64 4 with rings := (Vector.replicate 4 {}).set 3 { first := 8, len := 2, nf := 1, pi := 1 } } →
    s.MatrixReady (.ringdef 1 2) ∧ s.Plain ∧ ((s.core s.here).ring 3).inStep ∧ (3#5).toNat < 4 ∧
    s.gn 1 &&& 0x1FCF = s.gn 1 ∧ field (s.gn 1) 3 0 = 0 ∧ field (s.gn 1) 7 6 = 0 ∧
    field (s.gn 1) 12 8 = 16 ∧ (16 : Nat) ≤ 16 ∧ ((s.core s.here).ring 2).nl = 0 ∧ ((s.core s.here).ring 2).nh = 0 ∧
    (s.core s.here).stopped = false ∧ s.gn 0 < ((s.core s.here).ring 3).len ∧ s.gn 0 < ((s.core s.here).ring 3).nf ∧
    s.gn 2 ≠ 0 ∧ s.gn 2 ≤ ((s.core s.here).ring 3).len ∧ s.gn 2 ≤ (s.core s.here).empties 3 ∧
    s.gn 2 ≤ ((s.core s.here).ring 3).nf ∧ (s.core s.here).ctrl = [] ∧ ((s.core s.here).ring 3).pend = [] ∧
    (s.core s.here).evenFor 3 ((s.core s.here).chunkSlots 3) = true ∧
    (s.core s.here).forwardDest s.here ((s.core s.here).ring 3).fwd = none ∧ (s.core s.here).forwards = [] ∧
    ((s.core s.here).ring 3).nh = 0 := by
  rintro s rfl
  exact ⟨mready_of (by decide +kernel), plain_of (by decide +kernel), by unfold Ring.inStep; decide +kernel, by decide +kernel⟩

/-- A ring of pairs that starts at an odd tile is refused. -/
theorem wit_rings_odd : ∀ s : State, s = mkU (regs thU [(2, 1)]) { kMat 5 128 4 with rings := (Vector.replicate 4 {}).set 3 { first := 9, len := 2, nf := 1, pi := 1 } } →
    s.Plain ∧ s.gn 2 ≠ 0 ∧ s.gn 2 ≤ ((s.core s.here).ring 3).nf ∧ (s.core s.here).ctrl = [] ∧
    (s.core s.here).evenFor 3 ((s.core s.here).chunkSlots 3) = false := by
  rintro s rfl
  exact ⟨plain_of (by decide +kernel), by decide +kernel⟩

/-- The tiles of another ring that a definition must not share. -/
theorem wit_ringdef : ∀ s : State, s = mkU (regs thU [(1, 0x208)]) (kMat 0 64 4) → s.MatrixReady (.ringdef 1 2) ∧
    s.gn 1 &&& 0x1FCF = s.gn 1 ∧ field (s.gn 1) 3 0 = 8 ∧ field (s.gn 1) 12 8 = 2 ∧
    ∀ j, j < 4 → ∀ i, i < 2 → (8 + i) % 16 ∉ ((s.core s.here).ring j).tiles := by
  rintro s rfl
  exact ⟨mready_of (by decide +kernel), by decide +kernel⟩

/-- MRECT with 0 and with the quad's own rectangle; MSTAT; MCANCEL of a stopped operation whose cause is poison, with both
chunks FULL; and with no stopped operation. -/
theorem wit_matrix_control : ∀ s : State, s = mkU (regs thU [(1, 0x01010000)]) { kMat 0 64 4 with mrec := { v := true, cause := 3, ra := 0, rb := 1 } } →
    s.MatrixReady (.mrect 0) ∧ s.MatrixReady (.mrect 1) ∧ s.Plain ∧ s.MatrixReady .mcancel ∧ s.MatrixReady .mcancelDrain ∧
    (∀ i j, 0 / 2 ≤ i → i ≤ 1 / 2 → 0 / 2 ≤ j → j ≤ 1 / 2 → s.holder (j * 120 + i) = some s.me.fn) ∧
    s.g 0 = 0 ∧ s.g 1 ≠ 0 ∧ s.gn 1 = 0 + 256 * 0 + 65536 * 1 + 16777216 * 1 ∧ xOf s.here ≤ 1 ∧ yOf s.here ≤ 1 ∧
    (s.core s.here).stopped = true ∧ (s.core s.here).mrec.cause = 3 ∧ s.poison = [] ∧ (s.core s.here).chunkFull 0 = true ∧
    (s.core s.here).evenFor 0 ((s.core s.here).chunkSlots 0) = true ∧ (s.core s.here).chunkFull 1 = true ∧
    (s.core s.here).evenFor 1 ((s.core s.here).chunkSlots 1) = true := by
  rintro s rfl
  refine ⟨mready_of (by decide +kernel), mready_of (by decide +kernel), plain_of (by decide +kernel),
    mready_of (by decide +kernel), mready_of (by decide +kernel), ?_, by decide +kernel⟩
  intro i j _ hi _ hj
  obtain rfl : i = 0 := by omega
  obtain rfl : j = 0 := by omega
  decide +kernel

theorem wit_matrix_free : ∀ s : State, s = mkU thU (kMat 0 64 4) → s.MatrixReady .mcancel ∧ s.MatrixReady .mcancelDrain ∧
    (s.core s.here).stopped = false := by
  rintro s rfl
  exact ⟨mready_of (by decide +kernel), mready_of (by decide +kernel), by decide +kernel⟩

/-- LongMatrixWords: TMMAS from chunk 0 on two rings, and after a record; TSEND to the next core; a word whose end has been
reported. -/
theorem wit_long_words : ∀ s : State, s = mkU (regs thU [(1, 1)]) (kMat 0 64 4) →
    s.MatrixReady (.tmmas 0 1) ∧ s.MatrixReady (.tmmasp 1 0) ∧ s.MatrixReady (.tsend 15 1 3) ∧ s.Plain ∧ (3#5).toNat < 4 ∧
    (0 : BitVec 5) ≠ 1 ∧ ((s.core s.here).ring 0).len ≠ 0 ∧ ((s.core s.here).ring 1).len ≠ 0 ∧
    (s.core s.here).afmt = 4 ∧ (s.core s.here).stopped = false ∧ (15#5).toNat < 16 ∧
    s.gn 1 < 65536 ∧ validCore (s.gn 1) = true ∧ s.acceptCode s.me.fn (s.gn 1) = 0 ∧ ((s.core s.here).tile 15).desc.ok = true ∧
    s.tagBusy s.cur = false ∧ (s.core s.here).sendBuf = [] ∧ (s.fn s.me.fn).unl = true := by
  rintro s rfl
  exact ⟨mready_of (by decide +kernel), mready_of (by decide +kernel), mready_of (by decide +kernel), plain_of (by decide +kernel),
    by decide +kernel⟩

theorem wit_long_words_end : ∀ s : State, s = mkU { thU with op := { reply := .ok } } → s.me.residuesHold ∧
    s.prefixFits (matRule (.tmmas 0 1)) ∧ s.me.tsr.pair = false ∧ s.streaming s.cur = false ∧ s.me.replaying = false ∧
    (s.core s.here).munit = none ∧ s.me.op.reply = .ok := by
  rintro s rfl
  exact ⟨residues_of (by decide +kernel), fun h => absurd h (by decide +kernel), by decide +kernel⟩

/-! ## Witnesses: streams, copies and messages -/

/-- A core with context 15 as given. -/
def kCtx (x : Ctx) : Core := { ctxs := (Vector.replicate 16 {}).set 15 x }

/-- SDESC: a descriptor of one element at the start of the TCM, for a context that is not bound. -/
theorem wit_sdesc : ∀ s : State, s = { mkU thU with mem := [⟨40, 1⟩, ⟨44, 1⟩, ⟨48, 1⟩, ⟨52, 1⟩] } →
    s.Plain ∧ s.OwnTcm (s.g 0) 0 0 128 1 ∧ (15#5).toNat < 16 ∧ (0#64 : Word).toNat % 64 = 0 ∧
    ((s.core s.here).ctx 15).bound = false ∧ ((s.core s.here).ctx 15).busy = false ∧ badDesc (s.rd 0 128) = false := by
  rintro s rfl
  exact ⟨plain_of (by decide +kernel), own_of (noWaits_one rfl (by decide)) (by decide +kernel), by decide +kernel⟩

/-- SBIND of a loaded in context, to a register or to a ring. -/
theorem wit_sbind : ∀ s : State, s = mkU thU (kCtx { loaded := true, desc := { n := [1, 1, 1, 4] } }) → s.Plain ∧
    ((s.core s.here).ctx 15).loaded = true ∧ ((s.core s.here).ctx 15).bound = false ∧ ((s.core s.here).ctx 15).busy = false ∧
    ((s.core s.here).ctx 15).desc.dirOut = false ∧ ∀ y, y < 16 → ((s.core s.here).ctx y).bound = false := by
  rintro s rfl
  exact ⟨plain_of (by decide +kernel), by decide +kernel⟩

/-- SUNBIND and SFLUSH of a context bound to a vector register or to a ring: an out context with nothing to drain, an in
context. -/
theorem wit_sunbind : ∀ o : Bool, ∀ kd : Nat, kd = 1 ∨ kd = 2 → ∀ s : State,
    s = mkU thU (kCtx { loaded := true, bound := true, kind := kd, desc := { n := [1, 1, 1, 4], dirOut := o } }) →
    s.Idle ∧ ((s.core s.here).ctx 15).bound = true ∧ ((s.core s.here).ctx 15).owner = s.cur ∧
    ((s.core s.here).ctx 15).busy = false ∧
    ((s.core s.here).ctx 15).buf = [] ∧ ((s.core s.here).ctx 15).refused = none ∧ ((s.core s.here).ctx 15).fill = none ∧
    ((s.core s.here).ctx 15).desc.dirOut = o ∧ s.released s.cur = true := by
  rintro o kd (rfl | rfl) s rfl
  all_goals cases o
  all_goals exact ⟨idle_of (by decide +kernel), by decide +kernel⟩

/-- SPOS, SSKIP and SSTAT of a loaded context, SPOS to its element count. -/
theorem wit_spos : ∀ s : State, s = mkU (regs thU [(1, 4)]) (kCtx { loaded := true, pos := 3, desc := { n := [1, 1, 1, 4] } }) → s.Plain ∧
    ((s.core s.here).ctx 15).loaded = true ∧ ((s.core s.here).ctx 15).bound = false ∧ ((s.core s.here).ctx 15).fill = none ∧
    s.gn 1 ≤ ((s.core s.here).ctx 15).desc.total ∧ ((s.core s.here).ctx 15).pos < 2 ^ 44 ∧ ((s.core s.here).ctx 15).n < 8 ∧
    ((s.core s.here).ctx 15).kind < 4 := by
  rintro s rfl
  exact ⟨plain_of (by decide +kernel), by decide +kernel⟩

/-- CopiesAndArrivalWords: a parameter block of one byte; COPYST of a queued, of an ended and of no copy. -/
theorem wit_copy : ∀ s : State, s = { mkU thU with mem := [⟨32, 1⟩, ⟨36, 1⟩] } → s.Plain ∧ s.released s.cur = true ∧
    s.OwnTcm (s.g 0) 0 0 128 1 ∧ (0#64 : Word).toNat % 64 = 0 ∧ badCopy (s.rd 0 128) = false ∧ (s.core s.here).copySlot = some 0 := by
  rintro s rfl
  exact ⟨plain_of (by decide +kernel), by decide +kernel, own_of (noWaits_one rfl (by decide)) (by decide +kernel), by decide +kernel⟩

theorem wit_copyst : ∀ s : State, s = mkU (regs thU [(1, 0x10F), (2, 0x20F), (3, 0x10E)])
      { copies := (Vector.replicate 16 {}).set 15 { st := .ended, seq := 1, code := 2 } } → s.Plain ∧
    ((s.core s.here).copy 15).done < 2 ^ 44 ∧ ((s.core s.here).copy 15).seq < 2 ^ 56 ∧
    s.gn 1 = ((s.core s.here).copy 15).seq * 256 + 15 ∧ ((s.core s.here).copy 15).st ≠ .free ∧
    ((s.core s.here).copy 15).st = .ended ∧ s.gn 2 % 256 = 15 ∧ ((s.core s.here).copy 15).seq ≠ s.gn 2 / 256 ∧
    s.gn 3 % 256 = 14 ∧ ((s.core s.here).copy 14).st = .free := by
  rintro s rfl
  exact ⟨plain_of (by decide +kernel), by decide +kernel⟩

/-- An arrival word with TARGET 2 and count 1; a generation that has come, at the greatest distance that counts. -/
theorem wit_arrival_words : ∃ sc : Scope, ∀ s : State, s = { mk (regs thP [(1, 2 ^ 23 - 1), (2, 0x8001), (5, scopeWord 6)]) with
        mem := [⟨0, 1⟩, ⟨3, 1⟩] } →
    s.Plain ∧ (0#64 : Word).toNat % 8 = 0 ∧ s.rd64 0 = 0x1000001 ∧ s.checkScope s.cur (s.g 5) = .ok sc ∧ s.OwnTcm (s.g 0) 0 0 8 1 ∧
    (s.rd64 0 / 2 ^ 48 + 65536 - s.gn 2 % 65536) % 65536 < 32768 ∧ s.released s.cur = true ∧ s.gn 1 < 2 ^ 23 ∧
    s.OwnTcm (s.g 0) 0 0 8 3 ∧ field (s.rd64 0) 45 23 = 2 ∧ s.gn 1 ≠ 0 := by
  refine ⟨{ thread := false, spans := false, clamped := false }, ?_⟩
  rintro s rfl
  exact ⟨plain_of (by decide +kernel), by decide, by decide +kernel, ok_of (by decide +kernel), own_of (noWaits_nil rfl) (by decide +kernel),
    by decide +kernel, by decide +kernel, by decide +kernel, own_of (noWaits_nil rfl) (by decide +kernel), by decide +kernel,
    by decide +kernel⟩

/-- MessagesSent: an inbox and a spawn message to the next core, under the greatest channel and handler. -/
theorem wit_send : ∀ s : State, s = mk (regs thP [(1, 1 + 16777216 * 255), (2, 1 + 16777216 * 63 + 4294967296), (3, 0x3FFC0)]) →
    s.Plain ∧ (s.core s.here).journal = [] ∧ s.gn 1 = 1 + 16777216 * 255 + 4294967296 * 0 ∧
    s.gn 2 = 1 + 16777216 * 63 + 4294967296 * 1 ∧ validCore 1 = true ∧ (s.g 3).toNat % 8 = 0 ∧
    s.OwnTcm (s.g 3) 0x3FFC0 0x3FFC0 64 1 ∧ s.OwnTcm (s.g 3) 0x3FFC0 0x3FFC0 16 1 := by
  rintro s rfl
  exact ⟨plain_of (by decide +kernel), by decide +kernel, by decide +kernel, by decide +kernel, by decide +kernel, by decide +kernel,
    own_of (noWaits_nil rfl) (by decide +kernel), own_of (noWaits_nil rfl) (by decide +kernel)⟩

/-- MessagesReceived: an inbox with one entry and an empty one, each register pair at its bounds. -/
theorem wit_receive : ∀ s : State, s = mkU thU { inbox := [{ header := 5, payload := List.replicate 16 7 }] } → s.Plain ∧
    (s.core s.here).inbox = [{ header := 5, payload := List.replicate 16 7 }] ∧
    ({ header := 5, payload := List.replicate 16 7 } : InboxEntry).bound = none ∧ (30 : BitVec 5) ≠ 0 ∧ (1 : BitVec 5) ≠ 0 ∧
    (30#5).toNat < 31 ∧ (1 : BitVec 5) ≠ 30 ∧ (1#5).toNat ≠ (30#5).toNat + 1 ∧ (mkU thU).Plain ∧
    ((mkU thU).core (mkU thU).here).inbox = [] ∧ (mkU thU).g 0 = 0 ∧ (mkU thU).entriesOf (mkU thU).cur = [] := by
  rintro s rfl
  exact ⟨plain_of (by decide +kernel), by decide +kernel, by decide, by decide, by decide, by decide, by decide, by decide,
    plain_of (by decide +kernel), by decide +kernel⟩

theorem wit_refusal_records : ∀ s : State, s = mkU (regs { thU with refusals := [{ seq := 0, index := 63, code := 8, kind := 1, addr := 0 }] }
      [(1, 63), (2, 63 + 256), (3, 2 ^ 24 - 1), (4, BitVec.ofNat 64 (2 ^ 63 + 2 ^ 24 - 1)), (6, 239 * 256 + 239), (7, 240)]) → s.Plain ∧
    s.me.refusals = [{ seq := 0, index := 63, code := 8, kind := 1, addr := 0 }] ∧ s.gn 1 = 63 ∧ s.gn 2 = 63 + 256 ∧ s.gn 3 < 2 ^ 24 ∧
    2 ^ 63 ≤ s.gn 4 ∧ s.gn 4 < 2 ^ 63 + 2 ^ 24 ∧ s.entriesOf s.cur = [] ∧ validCore (s.gn 6) = true ∧ validCore (s.gn 7) = false ∧
    (mkU (regs thU [(1, 63)])).me.refusals = [] ∧ (mkU (regs thU [(1, 63)])).gn 1 < 64 := by
  rintro s rfl
  exact ⟨plain_of (by decide +kernel), by decide +kernel⟩

/-! ## Witnesses: collectives, barriers, containment, audit, metering -/

theorem owns_of {s : State} (h : s.holds s.me.fn s.here = true) : s.ownsTcm := .inr fun _ => h

/-- Die 0 with collective context 15 as given. -/
def kColl (s : State) (x : Coll) : State := { s with dies := [(0, { colls := (Vector.replicate 16 {}).set 15 x })] }

/-- A collective descriptor of one member, with a buffer of 64 bytes at 0x1000 and its member list at 0x2000. -/
def cdefBlock : List (Nat × Byte) := [(1, 0x10), (9, 0x20), (16, 64), (20, 1), (26, 3), (27, 8), (28, 0xFF), (29, 0xFF)]

/-- CDEF, its descriptor still to be read. -/
theorem wit_cdef_start : ∀ s : State, s = { mkU thU with mem := cdefBlock.map fun p => ⟨p.1, p.2⟩ } →
    s.Plain ∧ s.OwnTcm (s.g 0) 0 0 128 1 ∧ dieOf s.here = 0 ∧ (15#5).toNat < 16 ∧ (s.coll 0 15).st = .free ∧
    (0#64 : Word).toNat % 64 = 0 := by
  rintro s rfl
  exact ⟨plain_of (by decide +kernel), own_of (noWaits_one rfl (by decide)) (by decide +kernel), by decide +kernel⟩

/-- CDEF with its descriptor and its member list read: the one member is this die. -/
theorem wit_cdef : ∃ r : Word × Dest × Nat, ∀ (bs ml : List Byte) (s : State),
    bs = (List.range 128).map (fun i => (cdefBlock.lookup i).getD 0) → ml = [0, 0, 0, 0] →
    s = mkU { thU with op := { insn := some .texit, reply := .ok, got := bs ++ ml } } →
    s.Fetched (bs ++ ml) ∧
    s.segCheck s.me (quadOf s.here) (BitVec.ofNat 64 (natAt bs 0 8)) (natAt bs 16 4)
      (bufNeed (natAt bs 24 1) ([0].idxOf (s.panelNo * 1024 + 0))) = .ok r ∧ (∀ q, r.2.1 ≠ .panel q) ∧
    bs.length = 128 ∧ ml.length = 4 * 1 ∧ 1 = natAt bs 20 2 ∧ [0] = (listEntries ml 1).map (memberOf s.panelNo) ∧
    badColl bs = false ∧ badMembers s.panelNo 0 (listEntries ml 1) = false ∧ (∀ m ∈ [0], m / 1024 < s.sysPanels) ∧
    (BitVec.ofNat 64 (natAt bs 0 8)).toNat % 64 = 0 ∧ natAt bs 28 2 = 0xFFFF ∧ s.holds s.me.fn s.here = true ∧
    validCore s.here = true := by
  refine ⟨(0x1000, .tcm 0, 0x1000), ?_⟩
  rintro bs ml s rfl rfl rfl
  exact ⟨fetched_of (by decide +kernel), ok_of (by decide +kernel), (by intro q h; cases h), by decide +kernel⟩

/-- Collectives: a context of function 0 in each state that a clause starts from, with shares 1 and 16; the word is first issued,
or taken. -/
theorem wit_collectives : ∀ x : CollState, x ≠ .free → ∀ s t : State,
    s = kColl (mkU (regs thU [(1, 1), (2, 16)])) { st := x, code := 15 } →
    t = kColl (mkU (took (regs thU [(1, 1), (2, 16)]))) { st := x, code := 15 } →
    s.Plain ∧ t.Taken ∧ s.segCheck s.me (quadOf s.here) (s.g 0) 8 1 = .ok (0, .tcm s.here, 0) ∧
    t.segCheck t.me (quadOf t.here) (t.g 0) 8 1 = .ok (0, .tcm t.here, 0) ∧ s.ownsTcm ∧ t.ownsTcm ∧
    dieOf s.here = 0 ∧ (15#5).toNat < 16 ∧ (s.coll 0 15).st = x ∧ (t.coll 0 15).st = x ∧ (s.coll 0 15).st ≠ .free ∧
    (s.coll 0 15).owner = s.me.fn ∧ (t.coll 0 15).owner = t.me.fn ∧
    (0#64 : Word).toNat % 8 = 0 ∧ s.released s.cur = true ∧ t.released t.cur = true ∧ 1 ≤ s.gn 1 ∧ s.gn 1 ≤ 16 ∧
    1 ≤ s.gn 2 ∧ s.gn 2 ≤ 16 ∧ (s.coll 0 15).code < 16 ∧
    t.watches.any (fun w => w.2.2.1 == 0 && w.2.2.2 == 15) = false := by
  intro x hx s t hs ht
  subst hs ht
  cases x
  · exact absurd rfl hx
  all_goals exact ⟨plain_of (by decide +kernel), taken_of (by decide +kernel), ok_of (by decide +kernel),
    ok_of (by decide +kernel), owns_of (by decide +kernel), owns_of (by decide +kernel), by decide +kernel⟩

/-- CWATCH_OFF taken: an armed context with its watch. -/
theorem wit_watch : ∀ s : State, s = { kColl (mkU (took thU)) { st := .armed } with watches := [(0, 5, 0, 15)] } → s.Taken ∧
    (s.coll 0 15).st = .armed ∧ s.watches.any (fun w => w.2.2.1 == 0 && w.2.2.2 == 15) = true := by
  rintro s rfl
  exact ⟨taken_of (by decide +kernel), by decide +kernel⟩

/-- The registers of the barrier tests: contexts 63, generations 6 to 8, dies 0 and 899. -/
def barRegs : List (Nat × Word) :=
  [(1, 63), (2, 63 + 65536 * 7), (3, 63 + 65536 * 6), (4, 63 + 65536 * 8), (5, scopeWord 6), (6, 63 + 256 + 65536 * 899),
    (7, 63 + 65536 * 899), (8, 63 + 192), (9, 63 + 256 * 2), (10, 2 ^ 32 - 1)]

/-- Barriers: a context of function 0 to free; arrivals and waits of the current, the previous and the next generation; a
timeout. -/
theorem wit_barriers : ∃ sc : Scope, ∀ s : State, s = { mkU (regs thU barRegs) with
        barriers := [(63, { st := .opened, gen := 7, part := [(0, 1)] })] } →
    s.Plain ∧ s.checkScope s.cur (s.g 5) = .ok sc ∧ (63 : Nat) < 64 ∧ s.g 0 = 0 ∧ s.gn 1 = 63 ∧ (s.bar 63).st ≠ .free ∧
    (s.bar 63).owner = s.me.fn ∧ (s.bar 63).waiters = [] ∧
    s.gn 2 = 63 + 65536 * 7 ∧ s.gn 3 = 63 + 65536 * 6 ∧ s.gn 4 = 63 + 65536 * 8 ∧
    (s.bar 63).past 6 = true ∧ (s.bar 63).past 7 = false ∧ (s.bar 63).past 8 = false ∧
    (s.bar 63).unclassed 6 = false ∧ (s.bar 63).unclassed 7 = false ∧ (s.bar 63).unclassed 8 = false ∧
    s.released s.cur = true ∧ s.gn 10 < 2 ^ 32 := by
  refine ⟨{ thread := false, spans := false, clamped := false }, ?_⟩
  rintro s rfl
  exact ⟨plain_of (by decide +kernel), ok_of (by decide +kernel), by decide +kernel⟩

/-- BARW reached by a release, or by the end of its context; BARA with its answer. -/
theorem wit_barrier_answers : ∃ sc : Scope, ∀ s : State, s = { mkU (regs { thU with op := { insn := some .texit, reply := .ok } } barRegs) with
        barriers := [(63, { st := .opened, gen := 7, part := [(0, 1)] })] } →
    ∀ v : State, v = { mkU (regs { thU with op := { reply := .data [1] } } barRegs) with
        barriers := [(63, { st := .opened, gen := 7, part := [(0, 1)] })] } →
    s.Fetched s.me.op.got ∧ v.Answered [1] ∧ s.checkScope s.cur (s.g 5) = .ok sc ∧ v.checkScope v.cur (v.g 5) = .ok sc ∧
    (s.bar 63).st ≠ .free ∧ (s.bar 63).owner = s.me.fn ∧ (v.bar 63).st ≠ .free ∧ (v.bar 63).owner = v.me.fn ∧
    s.gn 3 = 63 + 65536 * 6 ∧ v.gn 2 = 63 + 65536 * 7 := by
  refine ⟨{ thread := false, spans := false, clamped := false }, ?_⟩
  rintro s rfl v rfl
  exact ⟨fetched_of (by decide +kernel), answered_of (by decide +kernel), ok_of (by decide +kernel), ok_of (by decide +kernel),
    by decide +kernel⟩

/-- BART of the last die's and of the status, of a context of the function and of a free one, first issued and taken. -/
theorem wit_bart : ∀ p s t : State, p = mkU (regs thU barRegs) →
    s = { mkU (took (regs thU barRegs)) with barriers := [(63, { st := .opened })] } → t = mkU (took (regs thU barRegs)) →
    p.Plain ∧ s.Taken ∧ t.Taken ∧ p.gn 6 = 63 + 256 + 65536 * 899 ∧ s.gn 6 = 63 + 256 + 65536 * 899 ∧
    s.gn 7 = 63 + 65536 * 899 ∧ s.gn 8 = 63 + 192 ∧ (s.bar 63).st ≠ .free ∧ (s.bar 63).owner = s.me.fn ∧
    (t.bar 63).st = .free ∧ t.gn 7 = 63 + 65536 * 899 := by
  rintro p s t rfl rfl rfl
  exact ⟨plain_of (by decide +kernel), taken_of (by decide +kernel), taken_of (by decide +kernel), by decide +kernel⟩

/-- BARM of a grid of one core, first issued and taken. -/
theorem wit_barm : ∀ th : Thread, th ∈ [thU, took thU] → ∀ s : State,
    s = mkU (regs th [(1, 1 + 65536 * 1), (2, 63 + 64 + 256 * 240 + 65536 * 240)]) →
    (∀ c, 1 ≤ xOf c → xOf c ≤ 1 → 0 ≤ yOf c → yOf c ≤ 0 → s.notPart s.me.fn c = false) ∧ s.g 1 ≠ 0 ∧
    s.gn 1 = 1 + 256 * 0 + 65536 * 1 + 16777216 * 0 ∧ s.gn 2 = 63 + 64 * 1 + 256 * 240 + 65536 * 240 ∧ (s.bar 63).st = .free := by
  intro th h s hs
  simp only [List.mem_cons, List.not_mem_nil, or_false] at h
  rcases h with rfl | rfl
  all_goals
    subst hs
    refine ⟨fun c h1 h2 _ h4 => ?_, by decide +kernel⟩
    obtain rfl : c = 1 := by simp only [xOf, yOf] at h1 h2 h4; omega
    decide +kernel

theorem wit_barm_turn : (mkU (regs thU [(1, 1 + 65536 * 1)])).Plain ∧ (mkU (regs (took thU) [(1, 1 + 65536 * 1)])).Taken :=
  ⟨plain_of (by decide +kernel), taken_of (by decide +kernel)⟩

/-- BMASK with the register it takes, first issued and taken: die 0's first core. -/
theorem wit_bmask : ∀ p s : State, p = { mkU (regs thU [(1, 63 + 256 * 2), (2, 1)]) with barriers := [(63, { st := .opened })] } →
    s = { mkU (regs (took thU) [(1, 63 + 256 * 2), (2, 1)]) with barriers := [(63, { st := .opened })] } → p.Plain ∧ s.Taken ∧
    p.gn 1 = 63 + 256 * 2 + 65536 * 0 ∧ (p.bar 63).st ≠ .free ∧ (p.bar 63).owner = p.me.fn ∧
    (s.bar 63).st ≠ .free ∧ (s.bar 63).owner = s.me.fn ∧
    ∀ i, i < 64 → (p.g 2).getLsbD i = true → p.notPart p.me.fn (coreOfDie 0 i) = false := by
  rintro p s rfl rfl
  exact ⟨plain_of (by decide +kernel), taken_of (by decide +kernel), by decide +kernel⟩

/-- A barrier's arrival as an event: a participant that has not arrived, one that has, a core that takes no part; an arrival for
the current, the next and a past generation. -/
theorem wit_barrier_arrival : ∀ k : Barrier, k ∈ [{ st := .opened, gen := 7, part := [(0, 1)] }, { st := .opened, gen := 7, part := [(0, 1)], arr := [(0, 1)] },
      { st := .opened, gen := 7 }] → ∀ s : State,
      s = { mkU { thU with st := .parked .engine, op := { aux := arrivalMark 5 } } with barriers := [(63, k)] } →
    validThread 0 = true ∧ (s.bar 63).st = .opened ∧ s.excusalDue 63 = false ∧ s.holds k.owner (coreOf 0) = true ∧
    7 = ((63 + 65536 * 7 + 5 * 2 ^ 32 : Word).extractLsb' 16 16).toNat ∧
    (∀ g, g ∈ [6, 7, 8] → k.unclassed g = false) ∧ (s.thr 0).st = .parked .engine ∧
    (s.thr 0).op.aux = arrivalMark ((63 + 65536 * 7 + 5 * 2 ^ 32 : Word).extractLsb' 32 32).toNat ∧
    (s.thr 0).op.fetch = false ∧ k.age 7 = 0 ∧ k.age 8 = 65535 ∧ k.past 6 = true := by
  intro k hk s h
  subst h
  simp only [List.mem_cons, List.not_mem_nil, or_false] at hk
  rcases hk with rfl | rfl | rfl
  all_goals decide +kernel

/-- The end of a cycle at the root: a generation that is complete, with a waiter. -/
theorem wit_barrier_settle : ∀ s : State, s = { mkU thU with
      barriers := [(63, { st := .opened, gen := 65535, part := [(0, 1)], arr := [(0, 1)], waiters := [(0, 65535)], test := true })] } →
    (s.bar 63).st = .opened ∧ (s.bar 63).test = true ∧ (s.bar 63).complete = true ∧ smGet 0 (s.bar 63).part 0 ≠ 0 ∧
    (s.bar 63).early = [] ∧ (0, (s.bar 63).gen) ∈ (s.bar 63).waiters := by
  rintro s rfl
  decide +kernel

/-- A BARA and a CHKPT taken up with their answer. -/
theorem wit_answered : ∀ v : State, v = mkU { thU with op := { reply := .data [1, 0, 0, 0, 0, 0, 0, 0] } } →
    v.Answered [1, 0, 0, 0, 0, 0, 0, 0] := by
  rintro v rfl
  exact answered_of (by decide +kernel)

/-- A thread at level S. -/
def thS : Thread := { thU with tsr := { pl := 1 } }

/-- Containment: a region of 64 bytes and none; the quad's own bank, whose record was read and whose record has changed; a
thread of the core to kill and a free slot; a core that is not enrolled. -/
theorem wit_containment : ∀ s : State, s = { mkU (regs thS [(1, 0), (2, 64), (3, 1), (4, 15)]) with threads := [(0, regs thS [(1, 0), (2, 64), (3, 1), (4, 15)]), (1, thU)] } → s.Plain ∧ 1 ≤ s.level ∧
    regionsOk (s.core s.here).ckrg.toList 7 (s.gn 1) (s.gn 2) = true ∧ regionsOk (s.core s.here).ckrg.toList 0 (s.gn 1) (s.gn 0) = true ∧ s.gn 0 = quadOf s.here ∧
    quadOf s.here < 14400 ∧ s.holder (quadOf s.here) = some s.me.fn ∧ (s.quad (quadOf s.here)).bank.word 0 = s.g 0 ∧
    (s.quad (quadOf s.here)).bank.word 0 ≠ s.g 2 ∧ 1 = s.gn 3 ∧ validThread 1 = true ∧ coreOf 1 = s.here ∧ 1 ≠ s.cur ∧
    s.holds s.me.fn s.here = true ∧ (s.core s.here).away = false ∧ (s.thr 1).tsr.pair = false ∧ (s.thr 1).st = .run ∧
    15 = s.gn 4 ∧ (s.thr 15).st = .free ∧ coreOf 15 = s.here ∧ (s.core s.here).ckEn = false := by
  rintro s rfl
  exact ⟨plain_of (by decide +kernel), by decide +kernel⟩

/-- Containment: the bank of the die, at level L; a thread of another core of the function. -/
theorem wit_containment_far : ∀ s : State, s = mkU (regs { thU with tsr := { pl := 2 } } [(1, 65536), (2, 16)]) → s.Plain ∧
    s.gn 1 = 0 + 65536 * 1 ∧ s.bankExists 1 0 = true ∧ 2 ≤ s.level ∧ ¬((1 : Nat) = 0 ∧ 0 = quadOf s.here) ∧ 16 = s.gn 2 ∧
    validThread 16 = true ∧ 16 ≠ s.cur ∧ s.holds s.me.fn (coreOf 16) = true ∧ (s.thr 16).tsr.pair = false ∧
    coreOf 16 ≠ s.here := by
  rintro s rfl
  exact ⟨plain_of (by decide +kernel), by decide +kernel⟩

/-- CHKPT: on an enrolled core, with no capture and with one in progress. -/
theorem wit_chkpt : ∀ cp : Bool, ∀ s : State, s = mkU thS { ckEn := true, capturing := cp } → s.Plain ∧
    (s.core s.here).ckEn = true ∧ cp = (s.core s.here).capturing := by
  rintro cp s rfl
  cases cp
  all_goals exact ⟨plain_of (by decide +kernel), by decide +kernel⟩

/-- The registers of the audit tests: ASAMP at the greatest tag and period, ATHR with and without a bin, AHIST of the last
counter, ACLR of the counters and of the entry. -/
def auditRegs : List (Nat × Word) :=
  [(1, 15 + 16 * 4095 + 65536 * 3 + 16777216 * 255), (2, 2 ^ 32 - 1), (3, 15 + 256 * 15 + 4096), (4, 4095 + 4096 * (2 ^ 20 - 1)),
    (5, 15 + 256 * 18), (6, 15), (7, 15 + 16), (8, 15)]

theorem wit_audit_regs : ∀ s : State, s = { mk (regs thU auditRegs) with
      quads := [(0, { hold := .held 0 0 false, trier := { entries := (Vector.replicate 16 {}).set 15 { en := true } } })] } →
    s.Plain ∧ (s.entry 15).en = true ∧ s.gn 1 = 15 + 16 * 4095 + 65536 * 3 + 16777216 * 255 ∧ s.gn 2 < 2 ^ 32 ∧
    (∀ j, j < 16 → j ≠ 15 → (s.entry j).en = true → (s.entry j).tag ≠ 4095) ∧ s.gn 3 = 15 + 256 * 15 + 4096 * 1 ∧
    s.gn 4 = 4095 + 4096 * (2 ^ 20 - 1) ∧ s.gn 5 = 15 + 256 * 18 ∧ s.gn 6 = 15 ∧ s.gn 7 = 15 + 16 ∧ s.gn 0 = 0 ∧ (s.entry 0).en = false := by
  rintro s rfl
  exact ⟨plain_of (by decide +kernel), by decide +kernel⟩

theorem trier_of {s : State} {i : Instr} (h : clear s ∧ s.me.tsr.pp = false ∧ s.me.op.aux = takenMark ∧ s.me.op.reply = .none)
    (h' : s.trierWaits s.cur i = false ∧ s.trierBefore (quadOf s.here) s.me.op.ea.toNat s.here = false) : s.AtTrier i :=
  ⟨taken_of h, h'.1, h'.2⟩

/-- Audit instructions at the trier, on an entry that is enabled and on one that is not. -/
theorem wit_audit : ∀ en : Bool, ∀ s : State, s = { mk (took (regs thU auditRegs)) with
      quads := [(0, { hold := .held 0 0 false, trier := { entries := (Vector.replicate 16 {}).set 15 { en := en } } })] } →
    s.AtTrier (.asamp 1 2) ∧ s.AtTrier (.athr 3 4) ∧ s.AtTrier (.ahist 5 9) ∧ s.AtTrier (.aclr 6) ∧ s.AtTrier (.aclr 7) ∧
    s.AtTrier (.astat 6 9) ∧ s.AtTrier (.astat 7 9) ∧ (s.entry 15).en = en := by
  rintro en s rfl
  cases en
  all_goals
    exact ⟨trier_of (by decide +kernel) (by decide +kernel), trier_of (by decide +kernel) (by decide +kernel),
      trier_of (by decide +kernel) (by decide +kernel), trier_of (by decide +kernel) (by decide +kernel),
      trier_of (by decide +kernel) (by decide +kernel), trier_of (by decide +kernel) (by decide +kernel),
      trier_of (by decide +kernel) (by decide +kernel), by decide +kernel⟩

/-- A thread at level L. -/
def thL : Thread := { thU with tsr := { pl := 2 } }

/-- A thread that takes up a word which the service die has answered. -/
def served (th : Thread) : Thread := { th with op := { service := true } }

/-- The registers of the metering tests: the own function; MUSE of the last class, of energies and of events; the six forms of
MQSET at their greatest values; a floor that fits and one that does not. -/
def meterRegs : List (Nat × Word) :=
  [(1, 383), (2, 2 ^ 32 - 1), (3, 2 ^ 62 - 1), (4, 383 + 65536 * 30), (5, 383 + 65536 * 28 + 2097152 + 4194304), (6, 1),
    (7, 32000), (8, 30000), (9, 32768)]

theorem wit_metering : ∀ th : Thread, th ∈ [thL, served thL] → ∀ s : State,
      s = { mkU (regs th meterRegs) with leases := [(0, { rights := 0xFF })] } →
    s.selects 383 s.me.fn ∧ s.selects 32768 0 ∧ (s.fn s.me.fn).st ≠ .none ∧ s.gn 1 < 384 ∧ s.hasRight 6 = true ∧
    s.gn 4 = 383 + 65536 * 30 + 2097152 * 0 + 4194304 * 0 ∧ s.gn 5 = 383 + 65536 * 28 + 2097152 * 1 + 4194304 * 1 ∧ 2 ≤ s.level ∧
    s.gn 2 < 2 ^ 32 ∧ s.gn 3 < 2 ^ 62 ∧ -(2 : Int) ^ 63 ≤ (s.fn s.me.fn).bal + 256 * (s.g 6).toInt ∧
    (s.fn s.me.fn).bal + 256 * (s.g 6).toInt < (2 : Int) ^ 63 ∧ s.gn 6 < 2 ∧ s.hasRight 4 = true ∧ s.gn 7 ≤ 32000 ∧
    s.gn 8 ≤ 32000 ∧ s.floors - (s.fn s.me.fn).mfloor + s.gn 8 + 2000 ≤ s.sustained ∧
    s.sustained < s.floors - (s.fn s.me.fn).mfloor + s.gn 7 + 2000 ∧ s.gn 9 = 32768 := by
  intro th h s hs
  simp only [List.mem_cons, List.not_mem_nil, or_false] at h
  rcases h with rfl | rfl
  all_goals
    subst hs
    exact ⟨.inl (by decide +kernel), .inr (by decide +kernel), by decide +kernel⟩

theorem wit_metering_turn : (mkU (regs thL meterRegs)).Plain ∧ (mkU (regs (served thL) meterRegs)).Served :=
  ⟨plain_of (by decide +kernel), served_of (by decide +kernel)⟩

/-- MQSET at level S within the limits that level L set. -/
theorem wit_metering_limits : ∀ s : State, s = { mkU (regs thS [(1, 383), (2, 7)]) with
      funcs := [(0, { st := .active, rights := 0xFF, limrate := 7, limcap := 7 })], leases := [(0, { rights := 0xFF })] } →
    s.Plain ∧ s.selects 383 s.me.fn ∧ s.level = 1 ∧ s.hasRight 2 = true ∧ s.gn 2 < 2 ^ 32 ∧
    s.gn 2 ≤ (s.fn s.me.fn).limrate ∧ s.gn 2 < 2 ^ 62 ∧ s.gn 2 ≤ (s.fn s.me.fn).limcap := by
  rintro s rfl
  exact ⟨plain_of (by decide +kernel), .inl (by decide +kernel), by decide +kernel⟩

/-! ## Witnesses: the optical edge, the service die -/

/-- OCAL, ONEXT, OSTAT, OPOL on a panel of two with optical dies: the calendar's last entry, a panel that slot 0 reaches, this
panel, one that no slot reaches. -/
theorem wit_optical : ∀ s : State, s = { mkU (regs thU [(1, 32768), (2, 63 + 256 * 15), (3, 1), (4, 2), (5, 256), (6, 15)]) with
      panelCap := 0x0000030000080003#64, cal := { s := 1, entries := [some 1] }, odies := [(0, { up := true })] } → s.hasOptical = true ∧ s.Plain ∧ s.gn 1 = 32768 ∧
    s.gn 2 = 63 + 256 * 15 ∧ s.gn 3 = 1 ∧ 1 < s.sysPanels ∧ 1 ≠ s.panelNo ∧ s.directWait 1 2 = some 0 ∧ s.cal.s ≤ 64 ∧
    s.gn 0 = 0 ∧ 0 = s.panelNo ∧ s.gn 4 = 2 ∧ 2 < s.sysPanels ∧ s.directWait 2 2 = none ∧ s.gn 5 = 256 ∧ s.gn 6 < 16 ∧
    (s.odie 15).txf < 16 ∧ (s.odie 15).rxf < 16 ∧ (s.odie 15).relayB < 2 ^ 24 := by
  rintro s rfl
  exact ⟨by decide +kernel, plain_of (by decide +kernel), by decide +kernel⟩

/-- OPOL with SET at its first issue and when the answer has come. -/
theorem wit_opol_set : ∀ p s : State, p = mkU (regs thS [(1, 2 ^ 13 + 2)]) → s = mkU (regs (served thS) [(1, 2 ^ 13 + 2)]) →
    p.Plain ∧ s.Served ∧ p.hasOptical = true ∧ 1 ≤ p.level ∧ p.gn 1 < 2 ^ 14 ∧ p.gn 1 % 256 < 3 ∧
    s.hasOptical = true ∧ 1 ≤ s.level ∧ s.gn 1 < 2 ^ 14 ∧ s.gn 1 % 256 < 3 := by
  rintro p s rfl rfl
  exact ⟨plain_of (by decide +kernel), served_of (by decide +kernel), by decide +kernel⟩

/-- A launch record of one quad, one thread to a core, with no fixed origin. -/
def record : List Byte := ((((List.replicate 64 (0 : Byte)).set 8 1).set 9 1).set 12 1).set 10 255 |>.set 11 255

/-- The machine with lease 0 holding every right and room. -/
def mkL (th : Thread) (k : Core := {}) : State :=
  { mkU th k with leases := [(0, { live := true, rights := 0xFF, qmax := 16 })] }

/-- DLAUNCH at its first issue, and when its turn has come at the service die. -/
theorem wit_dlaunch : ∃ sc : Scope, ∀ p s : State, p = mkL (regs thS [(2, 383)]) → s = mkL (regs (served thS) [(2, 383)]) →
    p.Plain ∧ s.Served ∧ s.OwnTcm (s.g 0) 0 0 64 1 ∧ p.checkScope p.cur (scopeWord 5) = .ok sc ∧
    s.checkScope s.cur (scopeWord 5) = .ok sc ∧ 1 ≤ p.level ∧ p.gn 2 < 384 ∧ p.hasRight 0 = true ∧ p.exists? p.me.fn = true ∧
    (p.g 0).toNat % 64 = 0 ∧ 1 ≤ s.level ∧ s.gn 2 < 384 ∧ s.exists? s.me.fn = true ∧ (s.g 0).toNat % 64 = 0 ∧
    (0#64 : Word).toNat % 64 = 0 ∧ s.released s.cur = true := by
  refine ⟨{ thread := false, spans := false, clamped := false }, ?_⟩
  rintro p s rfl rfl
  exact ⟨plain_of (by decide +kernel), served_of (by decide +kernel), own_of (noWaits_one rfl (by decide)) (by decide +kernel),
    ok_of (by decide +kernel), ok_of (by decide +kernel), by decide +kernel⟩

/-- DLAUNCH with its record read: a good one with room in its queue, and with a full queue; a bad one. -/
theorem wit_dlaunch_record : ∃ sc : Scope, ∀ (bs : List Byte) (q : List Launch), bs = record ∨ bs = record.set 12 0 →
    q = [] ∨ q = List.replicate 16 { number := 0, fn := 0, bytes := [] } → ∀ s : State,
    s = { mkL (regs { thS with op := { service := true, reply := .ok, got := bs } } [(2, 383)]) with
      funcs := [(0, { st := .active, rights := 0xFF, qmax := 16, queues := (Vector.replicate 4 []).set 0 q })] } →
    s.Fetched bs ∧ s.checkScope s.cur (scopeWord 5) = .ok sc ∧ 1 ≤ s.level ∧ s.gn 2 < 384 ∧ s.exists? s.me.fn = true ∧
    (s.g 0).toNat % 64 = 0 ∧ vget [] (s.fn s.me.fn).queues (byteAt bs 13 % 4) = q ∧
    launchW bs * launchH bs ≤ (s.fn s.me.fn).qmax ∧ launchW bs * launchH bs ≤ (s.lse (s.fn s.me.fn).lease).qmax := by
  refine ⟨{ thread := false, spans := false, clamped := false }, ?_⟩
  rintro bs q (rfl | rfl) (rfl | rfl) s rfl
  all_goals exact ⟨fetched_of (by decide +kernel), ok_of (by decide +kernel), by decide +kernel⟩

theorem wit_records : badRecord record = false ∧ badRecord (record.set 12 0) = true ∧ 16 ≤ (List.replicate 16 (0 : Nat)).length := by
  decide +kernel

/-- The orders of MIGR at their first issue. -/
theorem wit_orders : ∀ s : State, s = mkL (regs thL [(1, 0), (2, 1), (3, 2), (4, 3)]) → s.Plain ∧ 2 ≤ s.level ∧
    s.hasRight 5 = true ∧ s.gn 1 = 0 ∧ s.gn 2 = 1 ∧ s.gn 3 = 2 ∧ s.gn 4 = 3 := by
  rintro s rfl
  exact ⟨plain_of (by decide +kernel), by decide +kernel⟩

/-- MOVE with a spare, HOME of a core at an exception, at the service die; with an order on the core in progress. -/
theorem wit_orders_cores : ∀ b : Bool, ∀ os : List Order, os = [] ∨ os = [{ code := 0, arg := 1, lease := 0 }] → ∀ s : State,
      s = { mkL (regs (served thL) [(1, bif b then 1 else 0), (2, 1)]) with
        cores := [(1, { place := { exception := b } })], spareSites := [900], orders := os } →
    s.Served ∧ 2 ≤ s.level ∧ 1 = s.gn 2 ∧ validCore 1 = true ∧ s.leaseHolds s.me.lease 1 = true ∧
    s.busyOrder true 1 = !os.isEmpty ∧ (s.core 1).away = false ∧
    (s.core 1).place.service ≠ .absent ∧ (s.core 1).mop = none ∧ s.gn 1 = (bif b then 1 else 0) ∧
    s.spareFor 1 = some (900 * 64) ∧ s.remapsFull 1 = false ∧ (s.core 1).place.exception = b ∧ (s.core 1).place.unsound = false := by
  rintro b os (rfl | rfl) s rfl
  all_goals cases b
  all_goals exact ⟨served_of (by decide +kernel), by decide +kernel⟩

/-- EVICT of a function that holds quads, RESUME of an evicted one. -/
theorem wit_orders_functions : ∀ b : Bool, ∀ s : State, s = { mkL (regs (served thL) [(1, bif b then 3 else 2), (2, 383)]) with
      funcs := [(0, { st := bif b then .evicted else .active })] } → s.Served ∧ (∀ c, (s.core c).mop = none) ∧ 2 ≤ s.level ∧
    s.gn 2 < 384 ∧ s.busyOrder false s.me.fn = false ∧ s.gn 1 = (bif b then 3 else 2) ∧
    s.fnState s.me.fn = (bif b then 3 else 2) := by
  rintro b s rfl
  cases b
  all_goals exact ⟨served_of (by decide +kernel), fun c => by simp only [mkL, mkU, mk, State.core, smGet]; split <;> rfl,
    by decide +kernel⟩

/-- The registers of the VFCTL tests: READ of the last field, WRITE of the scope bound, CREATE, DESTROY, and the orders about
pages. -/
def vfctlRegs : List (Nat × Word) :=
  [(1, 383 + 4294967296 * 11), (2, 383 + 16777216 + 4294967296 * 3), (3, 2 + 8), (4, 1 + 32768 + 33554432),
    (5, 2 + 32768 + 50331648), (6, 383 + 67108864), (7, 383 + 83886080), (8, 383 + 100663296), (9, 65536 * (2 ^ 32 - 1)),
    (10, 65536 * (2 ^ 32 - 1) + BitVec.ofNat 64 (2 ^ 50 * 14399))]

/-- VFCTL at its first issue and at the service die. -/
theorem wit_vfctl : ∃ sc : Scope, ∀ th : Thread, th = thL ∨ th = served thL → ∀ s : State,
      s = { mkL (regs th vfctlRegs) with
        freeAsids := [7, 8], funcs := [(0, { st := .active, rights := 0xFF, asid := 0 }), (2, { st := .idle, asid := 9 })] } →
    s.checkScope s.cur (scopeWord 6) = .ok sc ∧ 1 ≤ s.level ∧
    s.gn 1 = 383 + 4294967296 * 11 ∧ s.g 0 = 0 ∧ 2 ≤ s.level ∧ s.gn 2 = 383 + 16777216 + 4294967296 * 3 ∧ s.exists? s.me.fn = true ∧
    s.gn 3 < 32 ∧ 2 ≤ s.gn 3 % 8 ∧ s.level = 2 ∧ s.hasRight 1 = true ∧ s.gn 4 = 1 + 32768 + 33554432 ∧ s.exists? 1 = false ∧
    s.freeAsids = [7, 8] ∧ (s.lse s.me.lease).live = true ∧ s.gn 5 = 2 + 32768 + 50331648 ∧ s.exists? 2 = true ∧
    (s.fn 2).lease = s.me.lease ∧ s.claimed 2 = [] ∧ (s.fn 2).st ≠ .evicted ∧ (∀ p, p < 4 → vget [] (s.fn 2).queues p = []) ∧
    s.hasRight 3 = true ∧ s.ownAsid 0 = true ∧ s.released s.cur = true ∧ s.gn 6 = 383 + 67108864 ∧ s.gn 7 = 383 + 83886080 ∧
    s.gn 8 = 383 + 100663296 ∧ s.gn 9 = 0 + 65536 * (2 ^ 32 - 1) ∧ s.gn 10 = 0 + 65536 * (2 ^ 32 - 1) + 2 ^ 50 * 14399 := by
  refine ⟨{ thread := false, spans := false, clamped := false }, ?_⟩
  rintro th (rfl | rfl) s rfl
  all_goals exact ⟨ok_of (by decide +kernel), by decide +kernel⟩

theorem wit_vfctl_turn : (mkL (regs thL vfctlRegs)).Plain ∧ (mkL (regs (served thL) vfctlRegs)).Served :=
  ⟨plain_of (by decide +kernel), served_of (by decide +kernel)⟩

/-- RIGHTS: READ at its first issue and at the service die; GRANT and REVOKE of every right at the first issue, and with the old
mask come. -/
theorem wit_rights : ∀ s r a : State, s = mkL (regs thL [(1, 383), (2, 255)]) → r = mkL (regs (served thS) [(1, 383), (2, 255)]) →
    a = mkL (regs { thL with op := { reply := .data (List.replicate 8 0) } } [(1, 383), (2, 255)]) → s.Plain ∧ r.Served ∧
    a.Answered (List.replicate 8 0) ∧ s.gn 1 < 384 ∧ s.gn 2 < 256 ∧ s.me.fn < 1000 ∧ 2 ≤ s.level ∧
    s.exists? s.me.fn = true ∧ (s.g 2).extractLsb' 0 8 &&& (s.lse s.me.lease).rights = (s.g 2).extractLsb' 0 8 ∧ 1 ≤ r.level ∧
    r.gn 1 < 384 ∧ r.gn 2 < 256 ∧ 2 ≤ a.level ∧ a.exists? a.me.fn = true ∧
    (a.g 2).extractLsb' 0 8 &&& (a.lse a.me.lease).rights = (a.g 2).extractLsb' 0 8 := by
  rintro s r a rfl rfl rfl
  exact ⟨plain_of (by decide +kernel), served_of (by decide +kernel), answered_of (by decide +kernel), by decide +kernel⟩

/-! ## Witnesses: events of the matrix engine, of streams and of messages -/

/-- An instruction of thread 0 at a unit. -/
def op (i : Instr) : UnitOp := { thread := 0, insn := i, word := encode i, pfx := none }

/-- A thread parked for a unit. -/
def thE : Thread := { thU with st := .parked .engine }

/-- MATRIX_UNIT_START of a queued TZERO of the last tile. -/
theorem wit_unit_start : ∀ s : State, s = mkU thE { kMat 0 64 4 with mq := [op (.tzero 15)] } → (s.thr 0).residuesHold ∧
    validCore 0 = true ∧ (s.core 0).away = false ∧ (s.core 0).ctrl = [] ∧ (s.core 0).mwait = [] ∧
    (s.core 0).mq = [op (.tzero 15)] ∧ (s.core 0).munit = none ∧ (s.core 0).morphan = none ∧ (s.core 0).mop = none ∧
    (s.core 0).sendBuf = [] ∧ (15#5).toNat < 16 ∧ ((s.core 0).tile 15).desc.ok = true ∧ (s.core 0).filling 15 = false ∧
    (s.thr 0).tsr.pair = false ∧ (s.thr 0).tsr.pp = false ∧ (s.thr 0).replaying = false ∧ (s.thr 0).st = .parked .engine ∧
    s.streaming 0 = false := by
  rintro s rfl
  exact ⟨residues_of (by decide +kernel), by decide +kernel⟩

/-- A TMMAS of thread 0 on rings 0 and 1 into an accumulator of format 3. -/
def mop : MatOp := { op := op (.tmmas 0 1), chunk := 0, accg := BitVec.ofNat 64 (3 * 2 ^ 32) }

/-- TMMAS_CHUNK: the load of the accumulator, the first chunk of FULL slots, and the end after the last one. -/
theorem wit_chunk_load : ∀ s : State, s = mkU thE { kMat 0 64 3 with mop := some mop } → (s.core 0).away = false ∧
    (s.core 0).ctrl = [] ∧ (s.core 0).leaving = false ∧ (s.core 0).mop = some mop ∧ mop.held = 0 ∧ mop.loaded = false ∧
    0 = (mop.accg.extractLsb' 48 16).toNat ∧ s.subTileBad (accAt 0 mop.accg) = none := by
  rintro s rfl
  decide +kernel

theorem wit_chunk : ∀ m : MatOp, m = { mop with loaded := true } → ∀ s : State, s = mkU thE { kMat 0 64 3 with mop := some m } →
    (s.core 0).ctrl = [] ∧ (s.core 0).leaving = false ∧ (s.core 0).mop = some m ∧ m.held = 0 ∧ m.loaded = true ∧
    m.chunk ≤ (m.accg.extractLsb' 48 16).toNat ∧ (0, 1) = m.rings ∧ (0, 4) = (s.core 0).chunkTiles m ∧
    (s.core 0).chunkSlots 0 = 1 ∧ (s.core 0).chunkSlots 1 = 1 ∧ 0 < ((s.core 0).ring 0).nf ∧ 0 < ((s.core 0).ring 1).nf ∧
    (s.fn m.fn).boundary = false ∧ ((s.core 0).tile 0).pois = false ∧ ((s.core 0).tile 4).pois = false ∧
    (s.core 0).accepts (afmtOf m.accg) 0 4 (some m.sparse) m.op.pfx m.fmts = true ∧ m.dead = false ∧
    s.mayAccept m.op.thread = true := by
  rintro m rfl s rfl
  decide +kernel

theorem wit_chunk_end : ∀ m : MatOp, m = { mop with loaded := true, chunk := 1 } → ∀ s : State,
    s = mkU thE { kMat 0 64 3 with mop := some m } →
    (s.core 0).mop = some m ∧ (m.accg.extractLsb' 48 16).toNat < m.chunk ∧ m.dead = false ∧ m.op.replay = false ∧
    (s.thr 0).st = .parked .engine ∧ (s.thr 0).op.fetch = false ∧ Memory.wf s.mem = true := by
  rintro m rfl s rfl
  decide +kernel

theorem wit_resume : ∀ s : State, s = mkU thE { mop := some { mop with held := 1 } } → (s.core 0).mop = some { mop with held := 1 } ∧
    (s.core 0).leaving = false ∧ (s.core 0).ganged = false ∧ (s.fn mop.fn).boundary = false := by
  rintro s rfl
  decide +kernel

/-- TILE_ARRIVAL from a core of the function, and from one whose quad another function holds. -/
theorem wit_tile_arrival : ∀ a : Arrival, a = { ring := 0, tile := {}, src := 1, forward := false } → ∀ s : State, s = mkU thU { kMat 0 64 4 with arrivals := [a] } →
    (s.core 0).place.held = [] ∧ (s.core 0).arrivals = [a] ∧ a.ring < 4 ∧ s.holder (quadOf a.src) = some 0 ∧ s.acceptCode 0 0 = 0 ∧
    ((s.core 0).ring a.ring).len ≠ 0 ∧ (s.core 0).empties a.ring ≠ 0 := by
  rintro a rfl s rfl
  decide +kernel

theorem wit_tile_refused : ∀ a : Arrival, a = { ring := 3, tile := {}, src := 2, forward := false, thread := 32 } → ∀ s : State,
    s = { mkU thU { arrivals := [a] } with quads := [(0, { hold := .held 0 0 false }), (1, { hold := .held 1 0 false })], threads := [(32, { thU with st := .parked .remote })] } →
    (s.core 0).place.held = [] ∧ (s.core 0).arrivals = [a] ∧ s.holder (quadOf a.src) = some 1 ∧ s.acceptCode 1 0 ≠ 0 := by
  rintro a rfl s rfl
  decide +kernel

/-- FORWARD_ACCEPT of a tile that has not been sent, and of one that has been taken; TSEND_ACCEPT, answered and stale. -/
theorem wit_forward : ∀ p : Nat, p = 0 ∨ p = 2 → ∀ s : State, s = mkU thU { kMat 0 64 4 with forwards := [{ ring := 3, dest := some 1, phase := p }] } →
    (s.core 0).forwards = [{ ring := 3, dest := some 1, phase := p }] ∧ 1 ≠ 0 ∧ s.holder (quadOf 0) = some 0 ∧ s.quotaOk (quadOf 0) 0 = true := by
  rintro p (rfl | rfl) s rfl
  all_goals decide +kernel

theorem wit_tsend_accept : ∀ s : State, s = mkU { thU with st := .parked .remote } → validThread 0 = true ∧
    (s.core 0).place.held = [] ∧ (s.core 0).away = false ∧ (s.thr 0).flyHold ≠ .remote ∧
    (s.thr 0).gen.toNat = 0 ∧ (s.thr 0).st = .parked .remote ∧ (s.thr 0).op.fetch = false ∧ (s.thr 0).gen.toNat ≠ 1 := by
  rintro s rfl
  decide +kernel

/-- A core whose context runs where traffic reaches it. -/
theorem present_of {k : Core} (h : k.away = false ∧ k.place.service ≠ .absent ∧ k.place.held = []) : k.Present := ⟨h.1, h.2.1, h.2.2⟩

theorem resolve_of {s : State} {c : Nat} {w : Agent} {p : Bool} {ea da : Word} {n need e x : Nat}
    (h : (s.segCheck w.thread (quadOf c) ea n need).toOption = some (da, .tcm e, x) ∧ (w.level < 2 && !s.ownerOk w.fn (.tcm e) x) = false) :
    s.engineResolve c w p ea n need = .ok s da (.tcm e) x := by
  simp only [State.engineResolve, ok_of h.1, h.2, Bool.false_eq_true, if_false]

theorem resolve_fail {s : State} {c : Nat} {w : Agent} {p : Bool} {ea : Word} {n need : Nat} {f : Cause}
    (h : failure (s.segCheck w.thread (quadOf c) ea n need) = some f) : s.engineResolve c w p ea n need = .fail s f := by
  simp only [State.engineResolve, error_of h]

/-- A context of four doublewords from address 0. -/
def inCtx : Ctx := { loaded := true, bound := true, kind := 1, level := 2, desc := { n := [1, 1, 1, 4], s := [0, 0, 0, 8], c := [0, 0, 0, 0], esz := 3 } }

/-- STREAM_FETCH_ISSUE and STREAM_ELEMENT_ARRIVAL of the first element; of one that no segment reaches. -/
theorem wit_stream_fetch : ∀ s : State, s = mkU thU (kCtx inCtx) → s.noWaits ∧ (s.core 0).Present ∧ (s.core 0).ctx 15 = inCtx ∧ inCtx.bound = true ∧
    inCtx.desc.dirOut = false ∧ inCtx.kind ≠ 2 ∧ inCtx.nextFetch = some 0 ∧ s.ctxQuota 0 inCtx = true := by
  rintro s rfl
  exact ⟨noWaits_one rfl (by decide), present_of (by decide +kernel), by decide +kernel⟩

theorem wit_stream_arrival : ∀ u : Ctx, u = { inCtx with asked := [0], level := 0 } → ∀ s f : State, s = mkU thU (kCtx u) → f = mkU { thU with segs := Vector.replicate 8 {} } (kCtx u) →
    s.noWaits ∧ f.noWaits ∧ s.engineResolve 0 (s.ctxAgent u) false 0 u.desc.size rightR = .ok s 0 (.tcm 0) 0 ∧
    (∃ c, f.engineResolve 0 (f.ctxAgent u) false 0 u.desc.size rightR = .fail f c) ∧ (s.core 0).Present ∧ (f.core 0).Present ∧
    0 ∈ u.asked ∧ u.desc.addr u.desc.base 0 = .at 0 ∧ s.poisoned 0 u.desc.size = false := by
  rintro u rfl s f rfl rfl
  exact ⟨noWaits_one rfl (by decide), noWaits_one rfl (by decide), resolve_of (by decide +kernel),
    ⟨{ code := 8, detail := 0, tval := 0 }, resolve_fail (by decide +kernel)⟩, present_of (by decide +kernel),
    present_of (by decide +kernel), by decide +kernel⟩

/-- STREAM_DRAIN of one element to the last doubleword of the TCM. -/
theorem wit_drain : ∀ u : Ctx, u = { inCtx with desc := { inCtx.desc with dirOut := true }, buf := [(0, .out (List.replicate 8 1) (.tcm 0) 0x3FFF8 0x3FFF8 0x3FFF8)] } →
    ∀ s : State, s = mkU thU (kCtx u) → s.noWaits ∧ (s.core 0).Present ∧ (s.core 0).ctx 15 = u ∧ u.buf = [(0, .out (List.replicate 8 1) (.tcm 0) 0x3FFF8 0x3FFF8 0x3FFF8)] ∧ 0 ∉ u.asked ∧
    s.ctxQuota 0 u = true ∧ 2 ≤ u.level ∧ s.poisoned 0x3FFF8 (List.replicate 8 (1 : Byte)).length = false ∧ Memory.wf s.mem = true := by
  rintro u rfl s rfl
  exact ⟨noWaits_one rfl (by decide), present_of (by decide +kernel), by decide +kernel⟩

/-- RING_STREAM_FILL of an element that lies in padding: the claim of a slot, and its fill. -/
theorem wit_ring_fill : ∀ u : Ctx, u = { inCtx with kind := 2, n := 0, desc := { n := [1, 1, 1, 4], e := [0, 0, 0, 2], c := [0, 0, 0, -1] } } → ∀ s : State,
    s = mkU thU { kCtx u with tiles := (kMat 0 64 4).tiles, rings := (kMat 0 64 4).rings } → s.noWaits ∧ (s.core 0).Present ∧
    (s.core 0).ctx 15 = u ∧ u.kind = 2 ∧ u.n < 4 ∧ u.fill = none ∧ u.err = 0 ∧ u.pos < u.desc.total ∧
    u.asked = [] ∧ s.ctxQuota 0 u = true ∧ ((s.core 0).ring u.n).len ≠ 0 ∧
    (geomOf ((s.core 0).tile (((s.core 0).ring u.n).tile ((s.core 0).ring u.n).pi)).geom).claims ≤ (s.core 0).empties u.n := by
  rintro u rfl s rfl
  exact ⟨noWaits_one rfl (by decide), present_of (by decide +kernel), by decide +kernel⟩

theorem wit_ring_fill_step : ∀ u : Ctx, u = { inCtx with kind := 2, n := 0, desc := { n := [1, 1, 1, 4], e := [0, 0, 0, 2], c := [0, 0, 0, -1] }, fill := some (2, 1, geomWord 0 64) } → ∀ s : State,
    s = mkU thU { kCtx u with tiles := (kMat 0 64 4).tiles, rings := (Vector.replicate 4 {}).set 0 { first := 0, len := 4, nf := 2, pi := 3, pend := [false] } } →
    s.noWaits ∧ (s.core 0).Present ∧ (s.core 0).ctx 15 = u ∧ u.kind = 2 ∧ u.n < 4 ∧ u.asked = [] ∧
    u.fill = some (2, 1, geomWord 0 64) ∧ 2 = ((s.core 0).ring u.n).tile 2 ∧ (geomOf (geomWord 0 64)).okAt 2 = true ∧
    (geomOf (geomWord 0 64)).sp = 0 ∧ (geomOf (geomWord 0 64)).pair = false ∧ (geomOf (geomWord 0 64)).slots = 1 ∧
    u.desc.addr u.desc.base u.pos = .pad := by
  rintro u rfl s rfl
  exact ⟨noWaits_one rfl (by decide), present_of (by decide +kernel), by decide +kernel⟩

/-- A parameter block: one byte from address 0 to address 64. -/
def block : List Byte := ((((List.replicate 128 (0 : Byte)).set 8 64).set 32 1).set 36 1).set 52 255 |>.set 53 255

/-- A core with a copy of `block` in slot 15. -/
def kCopy (bs : List Byte) : Core := { copies := (Vector.replicate 16 {}).set 15 { st := .running, who := { level := 3 }, block := bs } }

/-- COPY_CHUNK of the only chunk. -/
theorem wit_copy_chunk : ∀ u : Copy, u = { st := .running, who := { level := 3 }, block := block } → ∀ s : State, s = mk thP (kCopy block) → s.noWaits ∧
    (s.core 0).Present ∧ s.engineResolve 0 u.who true 0 1 rightR = .ok s 0 (.tcm 0) 0 ∧
    s.engineResolve 0 u.who true 64 1 rightW = .ok s 64 (.tcm 0) 64 ∧
    (s.core 0).copy 15 = u ∧ (s.core 0).headCopy = some 15 ∧ u.waiting = false ∧ u.code = 0 ∧ u.got = [] ∧ u.step = 0 ∧
    u.inChunk = false ∧ (s.core 0).leaving = false ∧ (s.fn u.who.fn).boundary = false ∧ 2 ≤ u.who.level ∧ u.total = u.done + 1 ∧
    u.srcPieces u.done u.total = [(0, some 0, 1)] ∧ u.dstPieces u.done u.total = [(0, some 64, 1)] ∧
    s.pieceFail 0 u.who rightR [(0, some 0, 1)] = none ∧ s.pieceFail 0 u.who rightW [(0, some 64, 1)] = none ∧
    s.poisoned 0 1 = false ∧ s.poisoned 64 1 = false ∧ Memory.wf s.mem = true := by
  rintro u rfl s rfl
  exact ⟨noWaits_nil rfl, present_of (by decide +kernel), resolve_of (by decide +kernel), resolve_of (by decide +kernel),
    by decide +kernel⟩

/-- COPY_COMPLETE under MODE 0 and under MODE 1. -/
theorem wit_copy_complete : ∀ m : Nat, m < 2 → ∀ u : Copy, u = { st := .running, who := { level := 3 }, block := block.set 54 (BitVec.ofNat 8 m) } → ∀ s : State,
    s = mkU thU (kCopy (block.set 54 (BitVec.ofNat 8 m))) → s.noWaits ∧ (s.core 0).Present ∧ (s.core 0).copy 15 = u ∧ u.live = true ∧ u.waiting = false ∧ natAt u.block 64 8 = 0 ∧
    (s.core (u.ncore 0)).away = false ∧ natAt u.block 54 1 = m ∧ validCore (u.ncore 0) = true ∧ s.acceptCode u.who.fn (u.ncore 0) = 0 ∧
    (s.core (u.ncore 0)).inbox.length < 32 ∧ (s.core (u.ncore 0)).rwait = [] := by
  intro m hm u hu s hs
  have h : m = 0 ∨ m = 1 := by omega
  subst hu hs
  rcases h with rfl | rfl
  all_goals exact ⟨noWaits_one rfl (by decide), present_of (by decide +kernel), by decide +kernel⟩

/-- ARRIVAL_ADD with and without a TARGET. -/
theorem wit_arrival_add : ∀ s : State, s = { mk thP with mem := [⟨3, 1⟩] } → s.noWaits ∧ (s.core 0).Present ∧
    (∀ a, a = 0 ∨ a = 8 → ∀ y, contextOf (unitAt a) = some y → (s.core y).Present) ∧ (8 : Nat) % 8 = 0 ∧ 8 < hbmBase ∧
    s.poisoned 0 8 = false ∧ s.poisoned 8 8 = false ∧
    Memory.wf s.mem = true ∧ field (s.rd64 0) 45 23 = 2 ∧ field (s.rd64 8) 45 23 = 0 ∧ field (s.rd64 8) 22 0 + (2 ^ 23 - 1) < 2 ^ 23 := by
  rintro s rfl
  refine ⟨noWaits_nil rfl, present_of (by decide +kernel), ?_, by decide +kernel⟩
  rintro a (rfl | rfl) y hy
  all_goals
    obtain rfl : 0 = y := by simpa using (show some 0 = some y from hy)
    exact present_of (by decide +kernel)

/-- MessageEvents: a performed entry, a refused one, one past the fabric lifetime, and none. -/
theorem wit_journal : ∀ e : JEntry, e ∈ [{ entry .st 1 (sramAddr 1 0 0) [1] with performed := true }, { entry .st 1 (sramAddr 1 0 0) [1] with refused := 2 },
      { entry .st 1 (sramAddr 1 0 0) [1] with left := true }] →
    ∀ s : State, s = { mkU thU { journal := [(63, e)] } with cycle := 6000000 } → (s.core 0).Present ∧ validCore 0 = true ∧
    s.entryAt? 0 63 0 = some e ∧ e.killed = false ∧
    (s.thr e.thread).refusals.length < 4 ∧ (s.thr e.thread).fifo.length < 8 ∧ e.since + 6000000 ≤ s.cycle ∧ s.entryAt? 0 62 0 = none ∧
    s.entryAt? 0 63 1 = none := by
  intro e he s hs
  subst hs
  simp only [List.mem_cons, List.not_mem_nil, or_false] at he
  rcases he with rfl | rfl | rfl
  all_goals exact ⟨present_of (by decide +kernel), by decide +kernel⟩

/-- An inbox message to a core with room and to one without; it has left its core, or may leave it. -/
theorem wit_messages : ∀ n : Nat, n = 31 ∨ n = 32 → ∀ l : Bool, ∀ e : JEntry,
    e = { entry (.inbox 255 false) 1 1 (List.replicate 16 1) with level := 3, left := l } → ∀ s : State,
    s = { mkU thU with cores := [(0, { journal := [(63, e)] }), (1, { inbox := List.replicate n { header := 0, payload := [] } })] } →
    (s.core 0).Present ∧ (s.core 1).Present ∧ (∀ p, e.unit ≠ .panel p) ∧ s.entryAt? 0 63 0 = some e ∧ e.unserved = true ∧
    s.mayPerform e = true ∧ s.mayInject 0 e.fn e.level = true ∧ e.addr = 1 ∧ validCore 1 = true ∧ s.acceptCode e.fn 1 = 0 ∧
    (s.core 1).rwait = [] ∧ (s.core 1).inbox.length = n := by
  rintro n hn l e rfl s rfl
  rcases hn with rfl | rfl
  all_goals cases l
  all_goals exact ⟨present_of (by decide +kernel), present_of (by decide +kernel), fun p h => by simp [entry] at h, by decide +kernel⟩

/-- A spawn message to a core with a handler. -/
theorem wit_spawn : ∃ pc l, ∀ e : JEntry, e = { entry (.spawn 63 false) 1 1 (List.replicate 64 1) with level := 3 } → ∀ s : State,
    s = { mkU thU with cores := [(0, { journal := [(0, e)] }), (1, { htabEn := true })], mem := [⟨sramAddr 1 0 (8 * 63) + 1, 1⟩], running := [{ number := 0, fn := 0, bytes := record }] } →
    s.handler 1 63 = .ok pc ∧ (s.core 1).Present ∧ s.entryAt? 0 0 0 = some e ∧ e.unserved = true ∧ s.mayPerform e = true ∧
    s.mayInject 0 e.fn e.level = true ∧ s.acceptCode e.fn 1 = 0 ∧ (s.core 1).inbound = [] ∧
    (s.core 1).spillCount = 0 ∧ s.pairedAt 1 = false ∧ s.launchAt 1 = some l ∧ s.freeSlot 1 false = some 0 := by
  refine ⟨0x100, { number := 0, fn := 0, bytes := record }, ?_⟩
  rintro e rfl s rfl
  exact ⟨ok_of (by decide +kernel), present_of (by decide +kernel), by decide +kernel⟩

/-- RECVT_DEADLINE at its cycle. -/
theorem wit_recvt : ∀ s : State, s = { mkU { thU with st := .parked .recv, op := { deadline := some 7 } } with cycle := 7 } →
    (s.core 0).Present ∧ coreOf 0 = 0 ∧ (s.thr 0).st = .parked .recv ∧ (s.thr 0).op.deadline = some 7 ∧ 7 ≤ s.cycle ∧ s.held 0 = false := by
  rintro s rfl
  exact ⟨present_of (by decide +kernel), by decide +kernel⟩

/-- Held traffic, still to be offered and offered. -/
theorem wit_held : ∀ o : Bool, ∀ s : State, s = mkU thU { place := { held := [.recvtDeadline 0], offered := o } } →
    (s.core 0).place.held = [.recvtDeadline 0] ∧ (s.core 0).away = false ∧ Instr.recvtDeadline 0 ∉ s.agenda ∧
    (s.core 0).place.offered = o := by
  rintro o s rfl
  cases o
  all_goals decide +kernel

/-! ## Witnesses: events of containment, collectives, barriers and metering -/

/-- CHKPT_CAPTURE_DONE for the thread whose CHKPT asked for it. -/
theorem wit_capture : ∀ s : State, s = mkU { thE with op := { insn := some (.chkpt 1) } } { capturing := true, ckFor := [0] } → (s.core 0).capturing = true ∧ (s.core 0).away = false ∧
    (s.core 0).journal = [] ∧ (s.core 0).ckFor = [0] ∧ (s.thr 0).op.insn = some (.chkpt 1) ∧ (s.thr 0).op.fetch = false ∧ (s.thr 0).st = .parked .engine := by
  rintro s rfl; decide +kernel

/-- CORE_RETIRE, and RESTORE_START with and without a spare; the exception; the restore without an image and with one. -/
theorem wit_retire : ∀ s : State, s = mkU thU → validCore 57599 = false ∧ validCore 61423 = true ∧ (s.core 61423).moving = false ∧
    (s.core 61423).leaving = false ∧ (s.core 61423).place.service = .inService := by
  rintro s rfl
  decide +kernel

theorem wit_restore : ∀ xs : List Nat, xs = [900] ∨ xs = [] → ∀ s : State,
    s = { mkU thU { place := { service := .frozen } } with spareSites := xs } → (s.core 0).place.service = .frozen ∧
    (s.core 0).leaving = false ∧ s.remapsFull 0 = false ∧ s.spareFor 0 = (if xs = [] then none else some (900 * 64)) ∧
    s.spareUsed.contains (900 * 64 + 63) = false ∧ s.spareSites.contains 900 = decide (xs ≠ []) := by
  rintro xs (rfl | rfl) s rfl
  all_goals decide +kernel

/-- An image with one thread. -/
def image : Image :=
  { epoch := 1, ckrg := Vector.replicate 8 (0, 0), htabEn := false, htabBase := 0, spillCount := 0, spillHead := 0, spillSize := 0, spillBase := 0, inbox := [], rwait := []
    threads := thU :: List.replicate 15 {} }

theorem wit_restored : ∀ s i : State, s = mkU thU { place := { service := .restoring } } → i = mkU thU { place := { service := .restoring }, ckValid := true, image := some image } →
    (s.core 0).place.service = .restoring ∧ s.validImage 0 = none ∧ (i.core 0).place.service = .restoring ∧ i.validImage 0 = some image ∧ (image.threads.getD 0 {}).st = .run := by
  rintro s i rfl rfl; decide +kernel

/-- FORWARD_ENTRY_REMOVE 1 ms after the vacate point, with every router at the new site. -/
theorem wit_forward_remove : ∀ s : State, s = { mkU thU { place := { fwd := true, switched := [0] } } with cycle := 1500000 } → (s.core 0).place.fwd = true ∧ (s.core 0).away = false ∧
    (s.core 0).place.held = [] ∧ (s.core 0).place.vacated + 1500000 ≤ s.cycle ∧ s.allSwitched 0 = true := by
  rintro s rfl
  decide +kernel

/-- ERROR_RECORD in an empty bank and in one with an uncorrectable record, in each kind of bank; of class 6 of a running thread. -/
theorem wit_error : ∀ b : Bool, ∀ s : State, s = { mkU thU with hbmBanks := [(47, { v := b, sev := b })], dies := [(899, { bank := { v := b, sev := b } })] } →
    s.errors = [] ∧ s.bankExists 2 47 = true ∧
    (s.bankAt 2 47).v = b ∧ (s.bankAt 2 47).sev = b ∧ s.bankExists 1 899 = true ∧ (s.bankAt 1 899).v = b ∧ s.bankExists 3 15 = true ∧ uncorrectable 0x0E = true ∧ s.bankExists 0 14399 = true := by
  rintro b s rfl
  cases b
  all_goals decide +kernel

theorem wit_error_kill : ∀ s : State, s = mkU thU → s.errors = [] ∧ s.bankExists 0 0 = true ∧ 0 = coreOfQuad 0 (0 % 4) * 16 + 0 % 16 ∧
    (s.thr 0).st = .run ∧ (s.thr 0).tsr.pair = false := by
  rintro s rfl
  decide +kernel

/-- Scrubs of the first word of SRAM and of the last one of the last stack of HBM; a refresh of that stack. -/
theorem wit_scrub : ∀ s : State, s = mkU thU → s.errors = [] ∧ (0 : Nat) % 8 = 0 ∧ 0 < hbmBase ∧ ownerCore (unitAt 0) 0 = 0 ∧
    (s.quad (quadOf 0)).bank.v = false ∧ (48 * 2 ^ 36 - 8) % 8 = 0 ∧ 48 * 2 ^ 36 - 8 < 2 ^ 48 ∧
    field (48 * 2 ^ 36 - 8) 41 36 = 47 ∧ s.stackPresent 47 = true ∧ (s.bankAt 2 47).v = false := by
  rintro s rfl
  decide +kernel

/-- WATCH_REACHED of an armed context; the start, a chunk and the end of a run. -/
theorem wit_watch_reached : ∀ s : State, s = kColl (mkU thU) { st := .armed } → (0 : Nat) < 900 ∧ (s.coll 0 15).st = .armed := by rintro s rfl; decide +kernel

/-- A reduction of 64 bytes from die 0 to die 1. -/
def coll : Coll := { st := .running, who := { level := 3 }, kind := 2, type := 3, members := [1, 0], rank := 1, len := 64, ctimeout := 1 }

theorem wit_chunk_step : ∀ s : State, s = kColl (mkU thU) coll → s.noWaits ∧ (s.core coll.core).Present ∧
    s.engineResolve coll.core coll.who true (coll.buf + BitVec.ofNat 64 0) 64 rightR = .ok s 0 (.tcm coll.core) 0 ∧
    (s.coll 0 15).st = .running ∧ s.collStopped coll = false ∧
    coll.step? = some (0, 0, { lo := 0, len := 64, own := true, ins := [], write := false, dests := [0] }) ∧ coll.ready = true ∧ s.collTurn 0 = some 15 ∧ 2 ≤ coll.who.level ∧
    coll.members.getD 0 0 = s.panelNo * 1024 + 1 ∧ s.dieAbsent 1 = false ∧ s.poisoned 0 64 = false := by
  rintro s rfl
  exact ⟨noWaits_one rfl (by decide), present_of (by decide +kernel), resolve_of (by decide +kernel), by decide +kernel⟩

theorem wit_chunk_receive : ∀ g : Chunk, g = { rank := 1, phase := 0, off := 0, bytes := List.replicate 64 0 } → ∀ s : State,
    s = { mkU thU with dies := [(0, { colls := (Vector.replicate 16 {}).set 15 { coll with rank := 0 } }), (1, { colls := (Vector.replicate 16 {}).set 15 { coll with unsent := [(0, g, false)] } })] } →
    (s.coll 0 15).members = [s.panelNo * 1024 + 1, s.panelNo * 1024 + 0] ∧ s.collStopped (s.coll 0 15) = false ∧ s.collOf 1 (s.coll 0 15).owner (s.coll 0 15).cid = some 15 ∧
    (s.coll 1 15).active = true ∧ (s.coll 1 15).run = (s.coll 0 15).run ∧ (s.coll 1 15).sig = (s.coll 0 15).sig ∧ (s.coll 0 15).credit g = true ∧ (s.coll 0 15).st = .running ∧ (s.coll 1 15).unsent = [((s.coll 0 15).rank, g, false)] := by
  rintro g rfl s rfl; decide +kernel

theorem wit_complete : ∀ s : State, s = kColl (mkU thU) { coll with stage := 1 } → s.collStopped (s.coll 0 15) = false ∧ (s.coll 0 15).unsent = [] ∧ (s.coll 0 15).step? = none ∧
    (s.coll 0 15).outbox = [] ∧ (s.core (s.coll 0 15).ncore).away = false ∧ s.acceptCode (s.coll 0 15).owner (s.coll 0 15).ncore = 0 ∧
    (s.core (s.coll 0 15).ncore).inbox.length < 32 ∧ (s.core (s.coll 0 15).ncore).rwait = [] := by rintro s rfl; decide +kernel

/-- COLLECTIVE_TIMEOUT at its cycle and one before; the abort notice; a hold and its end. -/
theorem wit_timeout : ∀ n : Nat, n = 1023 ∨ n = 1024 → ∀ s : State, s = { kColl (mkU thU) { coll with unsent := [(0, { rank := 1, phase := 0, off := 0, bytes := [] }, true)] } with cycle := n } →
    (s.coll 0 15).st = .running ∧ (s.coll 0 15).ctimeout ≠ 0 ∧ (s.coll 0 15).heldPeers = [] ∧ (s.coll 0 15).ready = false ∧ (s.coll 0 15).active = true ∧
    (s.coll 0 15).progress + (s.coll 0 15).ctimeout * 1024 = 1024 ∧ s.cycle = n := by
  rintro n (rfl | rfl) s rfl <;> decide +kernel

theorem wit_hold : ∀ s h : State, s = kColl (mkU thU { ganged := true }) coll → h = kColl (mkU thU) { coll with st := .held } → (s.coll 0 15).st = .running ∧ s.collStopped (s.coll 0 15) = true ∧
    (h.coll 0 15).st = .held ∧ h.collStopped (h.coll 0 15) = false := by rintro s h rfl rfl; decide +kernel

/-- A barrier's release to a waiting thread, and the excusal of an ABSENT core; the timer before its time and at it. -/
theorem wit_barrier_events : ∀ n : Nat, n = 1023 ∨ n = 1024 → ∀ s : State, s = { mkU { thU with st := .parked .barrier } with barriers := [(63, { st := .opened, ae := true, gen := 7, timer := some 0, btime := 1, part := [(0, 3)], waiters := [(0, 7)] })], cores := [(0, {}), (1, { place := { service := .absent } })], cycle := n } → validThread 0 = true ∧ (s.core (coreOf 0)).away = false ∧ (s.bar 63).waiters.contains (0, 7) = true ∧
    (s.thr 0).st = .parked .barrier ∧ (s.thr 0).op.fetch = false ∧ validCore 1 = true ∧ (s.bar 63).st ≠ .free ∧ (s.bar 63).ae = true ∧ hasCore (s.bar 63).part 1 = true ∧
    (s.core 1).place.service = .absent ∧ (s.bar 63).st = .opened ∧ (s.bar 63).timer = some 0 ∧ 0 + (s.bar 63).btime * 1024 = 1024 ∧ s.cycle = n ∧
    (s.bar 63).test = false ∧ (s.bar 63).past 7 = false ∧ (s.bar 63).waiters = [(0, 7)] := by
  rintro n (rfl | rfl) s rfl
  all_goals decide +kernel

/-- AUDIT_RECORD of a quantisation, whose audit has begun and is done. -/
theorem wit_audit_record : ∀ w : Nat, w = 7 ∨ w = 8 → ∀ r : AuditRecord, r = { entry := 15, thread := 0, quant := true, core := 0, work := w } → ∀ s : State,
    s = { mk thU with quads := [(0, { hold := .held 0 0 false, trier := { records := [r] } })] } → (0 : Nat) < 14400 ∧ (s.quad 0).trier.records = [r] ∧ r.entry < 16 ∧ r.quant = true ∧
    (vget {} (s.quad 0).trier.entries 15).tbin = 0 ∧ s.holder 0 = some 0 ∧ (s.fn 0).boundary = false ∧ s.quotaOk 0 0 = true ∧
    r.cost = 8 ∧ s.trierBefore 0 (s.cycle + 1) 0 = false := by
  rintro w (rfl | rfl) r rfl s rfl
  all_goals decide +kernel

/-- SLICE_REQUEST with a balance and without one; SLICE_GRANT and SLICE_REFUSAL; QUOTA_REFILL at its cycle. -/
theorem wit_slices : ∀ b : Int, b = 1 ∨ b = 0 → ∀ s : State, s = { mkU thU with funcs := [(383, { st := .active, bal := b, cap := 1 })], cycle := 1500000 } → (383 : Nat) < 384 ∧ s.meterPending = false ∧ (s.fn 383).boundary = false ∧ (s.fn 383).bal = b ∧
    ((s.quad 0).meter.al 383).waiting = false ∧ s.funcs = [(383, s.fn 383)] ∧ s.service.refillAt + microsecond ≤ s.cycle ∧ (s.fn 383).st ≠ .none ∧ (s.fn 383).bal < ((s.fn 383).cap : Int) * 256 ∧
    s.service.windowFrom + 1000 * microsecond ≤ s.cycle := by rintro b (rfl | rfl) s rfl <;> decide +kernel

/-- METER_CALIBRATION at both bounds; POWER_CAP_STEP above and at the lowest cap; a slot to gate; both kinds of recovery. -/
theorem wit_power : ∀ s : State, s = { mkU thU with quads := [(0, { cap := 2 }), (1, { cap := 1 })], service := { actions := [(0, 0), (15, 1)] } } → ∀ a : State, a = { s with service := { actions := [(15, 1)] } } → (192 : Nat) ≤ 192 ∧ (320 : Nat) ≤ 320 ∧ 1 < (s.quad 0).cap ∧ (s.quad 1).cap ≤ 1 ∧
    s.nextGate (coreOfQuad 1 3) = some 15 ∧ s.service.actions = (0, 0) :: [(15, 1)] ∧ a.service.actions = (15, 1) :: [] ∧ validThread (57599 * 16 + 15) = false ∧
    validThread (61423 * 16 + 15) = true ∧ s.quadRequest 0 ≤ 6 := by rintro s rfl a rfl; decide +kernel

/-! ## Witnesses: events of the optical edge, of the partition engine and of the host link -/

/-- CALENDAR_SLOT_START 3.2 µs after the last one, at a period's end with a replacement waiting. -/
theorem wit_calendar : ∀ s : State, s = { mkU thU with cal := { s := 1, entries := List.replicate 16 none, next := some (List.replicate 32 (some 127)) }, cycle := 4800 } → s.hasOptical = true ∧
    s.cal.began + 4800 ≤ s.cycle ∧ s.cal.next = some (List.replicate 32 (some 127)) ∧ s.cal.s ≤ s.cal.slot + 1 ∧ (List.replicate 32 (some 127)).length % 16 = 0 ∧
    16 ≤ (List.replicate 32 (some 127)).length ∧ (List.replicate 32 (some 127)).length ≤ 1024 ∧ (127 : Nat) < 128 := by rintro s rfl; decide +kernel

/-- A frame of panel 1 for this panel. -/
def frame (n : Option Nat) : Frame := { src := 1, dst := 0, fn := 0, seq := n, cargo := .credit 5 3 }

/-- OPTICAL_FRAME_RECEIVE of the number that is expected, and of one behind it. -/
theorem wit_frame : ∀ s : State, s = { mkU thU with odies := [(1, { up := true, expect := [(1, 2 ^ 32 - 1)] })] } → s.hasOptical = true ∧ (frame none).src < 128 ∧ (frame none).dst = s.panelNo ∧ s.panelNo < 128 ∧
    (frame none).src ≠ s.panelNo ∧ (s.odie 1).up = true ∧ (s.odie (odieFor 1)).early = [] ∧ 2 ^ 32 - 1 = smGet 0 (s.odie (odieFor 1)).expect 1 ∧
    2 ^ 31 ≤ seqAhead (smGet 0 (s.odie (odieFor 1)).expect 1) (2 ^ 32 - 2) := by rintro s rfl; decide +kernel

/-- A frame of this panel that failed its CRC, one that waits for a slot to its panel, and one that came back. -/
theorem wit_relay : ∀ g : Frame, g = { frame none with src := 0, dst := 1 } → ∀ s : State, s = { mkU thU with odies := [(0, { up := true, relay := [g], notRes := [g] })], cal := { s := 1, entries := [some 1] } } →
    s.hasOptical = true ∧ g.src = s.panelNo ∧ (s.odie 0).bulk = [] ∧ (s.odie 0).relay = [g] ∧ (s.transmit g.dst g.beats).isSome = true ∧ (s.odie 0).notRes = [g] ∧ s.groups s.cal.slot g.dst ≠ [] := by
  rintro g rfl s rfl; decide +kernel

/-- A gang's slice boundary, its gate in time, and one cycle past the tolerance. -/
theorem wit_gang : ∀ n : Nat, n = 300000 ∨ n = 300001 → ∀ s : State, s = { mkU thU with funcs := [(511, { st := .active, gang := 0x8000000000000000 })], cycle := n } → (511 : Nat) < 512 ∧ (s.fn 511).isGang = true ∧
    (s.fn 511).st = .active ∧ 300000 ≤ s.cycle ∧ s.rivals 511 = [] ∧ (s.fn 511).gateLate = false ∧ (s.fn 511).gateOpen = false ∧ (s.fn 511).sliceG + 1500 * (s.fn 511).gangTol = 300000 ∧
    s.cycle = n ∧ s.busyOrder false 511 = false := by rintro n (rfl | rfl) s rfl <;> decide +kernel

/-- PLACEMENT_PASS with nothing queued, and with one launch of a quad. -/
theorem wit_pass : ∃ o : Nat, ∀ l : Launch, l = { number := 0, fn := 0, bytes := ((record.set 8 120).set 9 120) } → ∀ s : State,
    s = { mkL thU with quads := [], funcs := [(0, { st := .active, qmax := 14400, queues := (Vector.replicate 4 []).set 3 [l] })], leases := [(0, { live := true, qmax := 14400 })] } →
    (mkL thU).passOrder = [] ∧ s.passOrder = [0] ∧ (s.fn 0).head = some l ∧ l.fn = 0 ∧ floorOf l.bytes = 0 ∧ launchFixed l.bytes = false ∧ s.floors + 2000 ≤ s.sustained ∧
    s.leaseClaim (s.fn 0).lease 0 + launchW l.bytes * launchH l.bytes ≤ (s.lse (s.fn 0).lease).qmax ∧ (s.quadsOf 0).length + launchW l.bytes * launchH l.bytes ≤ (s.fn 0).qmax ∧
    s.bestOrigin 0 l.bytes = some (o, 0) := by
  refine ⟨0, ?_⟩
  rintro l rfl s rfl
  decide +kernel

/-- SLOT_FILL with a thread of a launch to place; the completion of a quad group; the end of a quad's scrub. -/
theorem wit_slot_fill : ∀ l : Launch, l = { number := 0, fn := 0, bytes := record, births := [15] } → ∀ s : State, s = { mkU thU with running := [l] } → (s.core 0).away = false ∧ (s.core 0).inbound = [] ∧
    (s.core 0).spillCount = 0 ∧ s.nextBirth 0 = some (l, 15) ∧ launchPaired l.bytes = false := by rintro l rfl s rfl; decide +kernel

theorem wit_group : ∀ s r : State, s = { mkU thU with threads := [], quads := [(14399, { hold := .held 0 0 false })] } → r = { mkU thU with quads := [(14399, { hold := .scrub none })] } →
    (14399 : Nat) < 14400 ∧ (s.quad 14399).hold = .held 0 0 false ∧ s.groupDone 14399 0 = true ∧ (∀ i, i < 4 → (s.core (coreOfQuad 14399 i)).place.service = .inService) ∧
    (r.quad 14399).hold = .scrub none ∧ r.stricken 14399 = false ∧ (∀ p ∈ r.funcs, p.2.resume.contains 14399 = false) := by
  rintro s r rfl rfl
  decide +kernel

/-- LIVE_MIGRATION_DONE of a context that leaves and of one that has moved; MIGR_ORDER_END of a MOVE and of a RESUME;
RIGHTS_PROPAGATED to a thread that waits. -/
theorem wit_migration : ∀ b : Bool, ∀ s : State, s = { mkU thE { leaving := b, moving := !b } with orders := [{ code := 0, arg := 1, lease := 0 }, { code := 3, arg := 0, lease := 0 }, { code := 1, arg := 0, lease := 0 }] } →
    (s.core 0).leaving = b ∧ (s.core 0).moving = !b ∧ s.ordered 1 0 = true ∧ (s.core 0).drained = true ∧
    s.orders.find? (fun y => y.code == 0 && y.arg == 1) = some { code := 0, arg := 1, lease := 0 } ∧ (s.core 1).moving = false ∧ (s.core 1).leaving = false ∧
    s.orders.find? (fun y => y.code == 3 && y.arg == 0) = some { code := 3, arg := 0, lease := 0 } ∧ (s.fn 0).saved = [] ∧ validThread 0 = true ∧ (s.thr 0).st = .parked .engine ∧
    (s.thr 0).op.fetch = false := by
  rintro b s rfl
  cases b
  all_goals decide +kernel

/-- LAUNCH_WINDOW_WRITE of a good record. -/
theorem wit_window : ∀ s : State, s = { mkL thU with funcs := [(0, { st := .active, qmax := 1, rights := 1 })] } → record.length = 64 ∧ s.exists? 0 = true ∧ s.fnRight 0 0 = true ∧
    badRecord (record.set 13 (BitVec.ofNat 8 (byteAt record 13 / 4 * 4 + 3))) = false ∧ (vget [] (s.fn 0).queues 3).length < 16 ∧ launchW record * launchH record ≤ (s.fn 0).qmax ∧
    launchW record * launchH record ≤ (s.lse (s.fn 0).lease).qmax := by rintro s rfl; decide +kernel

/-- NONCE_WRITE of the last byte and of an earlier one; QUOTE_COMPLETE. -/
theorem wit_quote : ∀ b : Bool, ∀ s : State, s = { mkU thU with service := { quoting := b } } → s.service.quoting = b ∧ s.service.nonce.length = 48 ∧ (47 : Nat) < 48 ∧ 48 ≤ 47 + [(1 : Byte)].length ∧
    46 + [(1 : Byte)].length < 48 := by rintro b s rfl; cases b <;> decide +kernel

/-- A flit of the host under SEQ 0: type, length, highest address byte, CRC bytes. -/
def flit (type len hi : Byte) (crc : List Byte) : List Byte :=
  [0, 0, 0, 0, type, len, 0, 0, 0, 0, 0, 0, 0, 0, 0, hi, 1] ++ List.replicate 235 0 ++ crc

/-- A write, a read request, an idle flit, a read reply and a NAK with their CRC, and the check bytes of each. -/
def flits : List (List Byte × List Byte) :=
  [(flit 1 1 64 [33, 245, 181, 243], [233, 128, 98, 217, 246, 179, 57, 127, 75, 135, 192, 56, 202, 249, 7, 2]),
    (flit 2 236 64 [66, 118, 164, 131], [169, 138, 238, 107, 83, 186, 227, 208, 151, 164, 149, 142, 112, 166, 128, 190]),
    (flit 0 0 0 [200, 197, 183, 98], [192, 216, 91, 170, 157, 99, 227, 29, 108, 177, 203, 113, 143, 218, 209, 211]),
    (flit 3 1 0 [28, 177, 149, 189], [187, 35, 223, 36, 59, 19, 153, 206, 159, 177, 34, 195, 107, 251, 22, 211]),
    (flit 4 0 0 [142, 128, 37, 113], [45, 171, 159, 190, 71, 184, 186, 188, 64, 88, 99, 111, 66, 69, 177, 163])]

/-- A fold over bytes whose accumulator is a numeral at every step. -/
def foldF {w : Nat} (f : BitVec w → Byte → BitVec w) : List Byte → Nat → Nat
  | [], n => n
  | b :: bs, n => match (f (BitVec.ofNat w n) b).toNat with
    | 0 => foldF f bs 0
    | m + 1 => foldF f bs (m + 1)

theorem foldF_eq {w : Nat} (f : BitVec w → Byte → BitVec w) (l : List Byte) (x : BitVec w) :
    foldF f l x.toNat = (l.foldl f x).toNat := by
  induction l generalizing x with
  | nil => rfl
  | cons b bs ih =>
    rw [List.foldl_cons, ← ih, foldF, BitVec.ofNat_toNat, BitVec.setWidth_eq]
    split <;> simp_all

theorem rsCorrect_of {c : List Byte} (hl : c.length = 272)
    (h : (List.range 16).all (fun i => foldF (fun acc b => gfMul (gfExp i) acc ^^^ b) c 0 == 0) = true) : rsCorrect c = some (c, 0) := by
  have hs : (rsSyndromes c).all (· == 0) = true := by
    simp only [rsSyndromes, List.all_map, List.all_eq_true, Function.comp, beq_iff_eq] at h ⊢
    intro i hi
    have h2 := foldF_eq (fun acc b => gfMul (gfExp i) acc ^^^ b) c 0#8
    rw [show (0#8).toNat = 0 from rfl, h i hi] at h2
    exact (BitVec.eq_of_toNat_eq (by simpa using h2.symm))
  simp only [rsCorrect, hl, hs, bne_self_eq_false, Bool.false_eq_true, if_false, if_true]

theorem crcOk_of {f : List Byte} (h : (ofBytes ((f.drop 252).take 4) == 2 ^ 32 - 1 - foldF crcByte (f.take 252) 0xFFFFFFFF) = true) : crcOk f = true := by
  have h2 := foldF_eq crcByte (f.take 252) 0xFFFFFFFF#32
  rw [show (0xFFFFFFFF#32).toNat = 0xFFFFFFFF from rfl] at h2
  rw [h2] at h
  simpa [crcOk, crc32, BitVec.toNat_not] using h

/-- Their codewords have no error. -/
theorem wit_codewords : ∀ x ∈ flits, rsCorrect (x.1 ++ x.2) = some (x.1 ++ x.2, 0) := by
  have h : ∀ x ∈ flits, (x.1 ++ x.2).length = 272 ∧
      (List.range 16).all (fun i => foldF (fun acc b => gfMul (gfExp i) acc ^^^ b) (x.1 ++ x.2) 0 == 0) = true := by decide +kernel
  exact fun x hx => rsCorrect_of (h x hx).1 (h x hx).2

/-- What the link sees of them when it is ACTIVE: accepted under the expected SEQ, refused under another. -/
theorem wit_flits : ∀ x ∈ flits, (x.1 ++ x.2).take 256 = x.1 ∧ natAt x.1 2 2 = 0 ∧ ({ st := .active, buf := [x.1] } : Link).refuses x.1 = false ∧
    ({ st := .active, rxSeq := 1 } : Link).refuses x.1 = true ∧ 16 + byteAt x.1 5 ≤ x.1.length := by
  have h : ∀ x ∈ flits, (x.1 ++ x.2).take 256 = x.1 ∧ natAt x.1 2 2 = 0 ∧ 16 + byteAt x.1 5 ≤ x.1.length ∧ natAt x.1 0 2 = 0 ∧
      (ofBytes ((x.1.drop 252).take 4) == 2 ^ 32 - 1 - foldF crcByte (x.1.take 252) 0xFFFFFFFF) = true ∧
      (4 < byteAt x.1 4 || ((byteAt x.1 4 = 1 || byteAt x.1 4 = 2 || byteAt x.1 4 = 3) && (byteAt x.1 5 = 0 || 236 < byteAt x.1 5))) = false := by
    decide +kernel
  intro x hx
  obtain ⟨h1, h2, h3, h4, h5, h6⟩ := h x hx
  refine ⟨h1, h2, ?_, ?_, h3⟩
  · simp only [Link.refuses, crcOk_of h5, h4, Bool.not_true, Bool.false_or]
    rw [h6]
    rfl
  · simp [Link.refuses, h4]

theorem wit_host_memory : ∀ s : State, s = { mkU thU with quads := [], link := { st := .active } } → ∀ w r : List Byte, w = flit 1 1 64 [33, 245, 181, 243] → r = flit 2 236 64 [66, 118, 164, 131] →
    s.noWaits ∧ s.link.acked = 0 ∧ s.link.reads = [] ∧ s.link.buf.length < 512 ∧ s.link.nakSent = false ∧
    byteAt w 4 = 1 ∧ BitVec.ofNat 64 (natAt w 8 8) = 0x4000000000000000 ∧ s.locate 0x4000000000000000 = some (.hbm, 0) ∧
    Memory.wf s.mem = true ∧ s.poisoned (hbmBase + 0) 1 = false ∧ byteAt r 4 = 2 ∧ BitVec.ofNat 64 (natAt r 8 8) = 0x4000000000000000 ∧
    byteAt (flit 0 0 0 []) 4 = 0 ∧ byteAt (flit 3 1 0 []) 4 = 3 ∧ byteAt (flit 4 0 0 []) 4 = 4 ∧ s.link.replaysOfOne < 15 := by
  rintro s rfl w r rfl rfl
  exact ⟨noWaits_nil rfl, by decide +kernel⟩

/-- The training states of the link, each at its limit. -/
theorem wit_link : ∀ x : LinkState, x ∈ [.reset, .train, .align, .active] → ∀ s : State, s = { mkU thU with link := { st := x, failed := true }, cycle := 150000000 } → s.link.st = x ∧ s.link.reads = [] ∧
    s.link.stateSince + s.link.st.limit < s.cycle ∧ s.link.since + 150000000 ≤ s.cycle ∧ s.link.failed = true ∧ s.link.stateSince + 1500000 ≤ s.cycle := by
  intro x hx s hs
  subst hs
  simp only [List.mem_cons, List.not_mem_nil, or_false] at hx
  rcases hx with rfl | rfl | rfl | rfl <;> decide +kernel

/-! ## Witnesses: events of homes and of threads -/

/-- ACCESS_REPLY of a load in the core's own TCM. -/
theorem wit_access : ∀ a : Access, a = { dest := .tcm 0, op := .load 0x3FFF8 8, ea := 0x3FFF8, da := 0x3FFF8 } → ∀ s : State, s = mkU { thU with st := .parked .mem, op := { todo := [a] } } →
    s.noWaits ∧ (s.core 0).Present ∧ validThread 0 = true ∧ (s.thr 0).op.fetch = false ∧ (s.core 0).munit = none ∧ (s.thr 0).st = .parked .mem ∧ (s.thr 0).op.todo = [a] ∧
    (s.thr 0).op.phase = 0 ∧ s.quotaOk (quadOf 0) (s.thr 0).fn = true ∧ s.ownerOk (s.thr 0).fn a.dest 0x3FFF8 = true ∧ s.poisoned 0x3FFF8 8 = false := by
  rintro a rfl s rfl
  exact ⟨noWaits_one rfl (by decide), present_of (by decide +kernel), by decide +kernel⟩

/-- REMOTE_REQUEST_AT_HOME of a load of the next core; REMOTE_REPLY and a stale one; FABRIC_LIFETIME_EXPIRY. -/
theorem wit_request : ∀ r : Request, r = { thread := 0, gen := 0, fn := 0, level := 0, unit := .tcm 1, op := .load (sramAddr 1 0 0) 8, ea := 0, da := 0 } → ∀ s : State,
    s = { mkU { thU with st := .parked .remote } with net := [(0, .request r)], cycle := 6000000 } → s.noWaits ∧ (s.core 0).Present ∧ (s.core 1).Present ∧
    s.item? 0 = some (.request r) ∧ r.thread < foreignBase ∧ s.ownerOk r.fn (.tcm 1) (sramAddr 1 0 0) = true ∧ s.poisoned (sramAddr 1 0 0) 8 = false ∧ s.itemSince (.request r) + 6000000 ≤ s.cycle := by
  rintro r rfl s rfl
  exact ⟨noWaits_one rfl (by decide), present_of (by decide +kernel), present_of (by decide +kernel), by decide +kernel⟩

theorem wit_reply : ∀ a : Access, a = { dest := .tcm 1, op := .load (sramAddr 1 0 0) 8, ea := 0, da := 0 } → ∀ n : Nat, n = 0 ∨ n = 3 → ∀ s : State,
    s = { mkU { thU with st := .parked .remote, op := { phase := 1, todo := [a], deadline := some 5 } } with net := [(0, .answer 0 n (.data []) false 0)], cycle := 5 } →
    (s.core 0).Present ∧ s.item? 0 = some (.answer 0 n (.data []) false 0) ∧ (s.thr 0).gen.toNat = 0 ∧ (s.thr 0).st = .parked .remote ∧ (s.thr 0).op.phase ≠ 0 ∧ (s.thr 0).op.todo = [a] ∧
    (s.thr 0).op.deadline = some 5 ∧ 5 ≤ s.cycle := by
  rintro a rfl n (rfl | rfl) s rfl
  all_goals exact ⟨present_of (by decide +kernel), by decide +kernel⟩

/-- FE_ARRIVAL of a posted STF at the next core's empty word. -/
theorem wit_fe_arrival : ∀ l : Bool, ∀ e : JEntry, e = { entry .stf 1 (sramAddr 1 0 0) (List.replicate 8 1) with left := l } → ∀ s : State, s = mkU thU { journal := [(63, e)] } →
    s.noWaits ∧ s.memOk ∧ (s.core 1).Present ∧ s.entryAt? 0 63 0 = some e ∧ e.unserved = true ∧
    e.queued = false ∧ s.mayPerform e = true ∧ s.mayInject 0 e.fn e.level = true ∧ e.unit = .tcm 1 ∧ s.ownerOk e.fn (.tcm 1) e.addr = true ∧ s.isFull e.addr = false := by
  rintro l e rfl s rfl
  cases l
  all_goals exact ⟨noWaits_one rfl (by decide), by unfold State.memOk; decide +kernel, present_of (by decide +kernel), by decide +kernel⟩

/-- FE_QUEUED_NOTICE, FE_GRANT_CONFIRM, FE_REPROBE with the quad's own tables. -/
theorem wit_fe_queued : ∀ a : Access, a = { dest := .tcm 1, op := .drain true (sramAddr 1 0 0), ea := 0, da := 0 } → ∀ s : State, s = mkU { thU with st := .parked .remote, op := { phase := 1, todo := [a] } } →
    (s.core 0).Present ∧ (s.thr 0).gen.toNat = 0 ∧ (s.thr 0).st = .parked .remote ∧ (s.thr 0).op.phase ≠ 0 ∧ (s.thr 0).op.todo = [a] ∧ a.op = .drain true (sramAddr 1 0 0) := by
  rintro a rfl s rfl
  exact ⟨present_of (by decide +kernel), by decide +kernel⟩

theorem wit_grant : ∀ w : WaitEntry, w = { addr := sramAddr 1 0 0, who := .thread 0 0 true, kind := .drain true, held := true } → ∀ s : State,
    s = { mk { thU with st := .parked .fe, op := { phase := 1 } } with quads := [(0, { hold := .held 0 0 false, waits := [w] })], full := [sramAddr 1 0 0] } →
    (∀ k, (s.quad k).waits = (if k = 0 then [w] else []) ∧ (s.quad k).tickets = []) ∧ (s.core 0).Present ∧ s.heldGrant 0 0 = some (0, w) ∧ 0 < foreignBase ∧
    s.agenda.contains (.feQueuedNotice 0 0) = false ∧ (s.thr 0).gen.toNat = 0 ∧ (s.thr 0).st = .parked .fe ∧ (s.thr 0).op.phase ≠ 0 ∧ s.poison.contains w.addr = false := by
  rintro w rfl s rfl
  refine ⟨fun k => ?_, present_of (by decide +kernel), by decide +kernel⟩
  simp only [State.quad, smGet]
  by_cases h : 0 = k
  · simp [h]
  · simp [h, Ne.symm h]

theorem wit_reprobe : ∀ w : WaitEntry, w = { addr := 0, who := .journal 0 63 0, kind := .drain true } → ∀ s : State, s = { mk thU with quads := [(0, { tickets := [w] })], cycle := 6000000 } →
    (s.core 0).Present ∧ (s.quad 0).tickets = [w] ∧ (s.quad 0).waits = [] ∧
    homeQuad (unitAt w.addr) w.addr = 0 ∧ s.isFull w.addr = false ∧ s.entryAt? 0 63 0 = none ∧ w.since + 6000000 ≤ s.cycle ∧
    s.quads.findSome? (fun p => ((p.2.waits ++ p.2.tickets).find? (isEntry 0 63 0)).map fun w => (p.1, w)) = some (0, w) := by
  rintro w rfl s rfl
  exact ⟨present_of (by decide +kernel), by decide +kernel⟩

/-- IMPORT_ENTRY_EXPIRY at its cycle and one before. -/
theorem wit_import : ∀ n : Nat, n = 6 ∨ n = 7 → ∀ s : State, s = { mkU thU with odies := [(15, { imports := [{ fn := 0, lease := 0, panel := 1, granule := 3, bytes := [], ends := 7 }] })], cycle := n } →
    (s.odie 15).imports = [{ fn := 0, lease := 0, panel := 1, granule := 3, bytes := [], ends := 7 }] ∧ s.cycle = n := by rintro n (rfl | rfl) s rfl <;> decide +kernel

/-- FETCH_LINE_ARRIVAL; FETCH_AHEAD of the line after the one that is held. -/
theorem wit_line : ∀ s : State, s = mkU { thU with st := .parked .mem, op := { fetch := true, reply := .ok }, fbuf := [{ ea := 0, words := List.replicate 16 0 }] } →
    s.noWaits ∧ (s.core 0).Present ∧ (s.thr 0).op.fetch = true ∧ (s.thr 0).op.reply = .ok ∧ (s.thr 0).tsr.pair = false ∧ s.streaming 0 = false ∧
    (s.thr 0).heldLine (64 - 64) = some { ea := 0, words := List.replicate 16 0 } ∧ (s.thr 0).heldLine 64 = none ∧ (s.thr 0).ahead = none ∧
    (s.segCheck (s.thr 0) (quadOf 0) (BitVec.ofNat 64 64) 4 rightX).toOption = some (64, .tcm 0, 64) ∧
    s.ownerOk (s.thr 0).fn (.tcm 0) 64 = true ∧ s.poisoned 64 64 = false ∧ s.mayInject 0 (s.thr 0).fn (s.thr 0).tsr.pl.toNat = true := by
  rintro s rfl
  exact ⟨noWaits_one rfl (by decide), present_of (by decide +kernel), by decide +kernel⟩

/-- REPLAY_ISSUE in a bubble and REPLAY_FORCED_PLACE after 16 cycles; the delivery of a replay's fault. -/
theorem wit_replay : ∀ s : State, s = { mkU { thU with rep := { live := true, k := 2, s := 1, i := 1, caps := [{ insn := .tzero 15, word := encode (.tzero 15), pfx := none }] } } (kMat 0 64 3) with cycle := 17 } →
    (s.core 0).Present ∧ (s.thr 0).rep.live = true ∧ (s.thr 0).fly = none ∧ (s.thr 0).repFault = none ∧ (s.core 0).mayPlace = true ∧ (s.thr 0).rep.j = 0 ∧ (s.thr 0).st = .run ∧
    ((s.core 0).tile (stagT ((s.thr 0).rep.i * (s.thr 0).rep.s) 15).toNat).desc.ok = true ∧ (s.core 0).filling (stagT ((s.thr 0).rep.i * (s.thr 0).rep.s) 15).toNat = false ∧
    (s.core 0).unitIdle = true ∧ (s.core 0).morphan = none ∧ s.mayAccept 0 = true ∧ s.bubble 0 = true ∧ (s.thr 0).rep.since + 16 ≤ s.cycle ∧ validThread 0 = true ∧ (s.thr 0).tsr.pair = false ∧ s.streaming 0 = false := by
  rintro s rfl
  exact ⟨present_of (by decide +kernel), by decide +kernel⟩

theorem wit_replay_fault : ∀ s : State, s = mkU { thU with repFault := some { code := 8, tval := 5 } } → (s.core 0).Present ∧
    (s.thr 0).repFault = some { code := 8, tval := 5 } ∧ (s.thr 0).fresh = true ∧ (s.thr 0).tsr.th = false := by
  rintro s rfl
  exact ⟨present_of (by decide +kernel), by decide +kernel⟩

/-- VECTOR_UNIT_START of a queued VMAND; VQSPLIT_RELEASE. -/
theorem wit_vector_unit : ∀ s : State, s = mkU thE { vq := [op (.vmand 3 3 0)] } → (s.core 0).Present ∧ (0 : Nat) = coreOfQuad 0 0 ∧ (s.core 0).vq = [op (.vmand 3 3 0)] ∧
    (∀ j, j < 4 → (s.core (coreOfQuad 0 j)).vwait = [] ∧ (j ≠ 0 → (s.core (coreOfQuad 0 j)).vq = [])) ∧ (3#3).toNat < 4 ∧ (s.thr 0).tsr.pp = false ∧ (s.thr 0).replaying = false ∧ (s.thr 0).st = .parked .engine ∧
    (s.core 0).ctxs.toList.any (fun x => x.bound && !x.susp && x.owner == 0 && x.kind == 1) = false := by
  rintro s rfl
  exact ⟨present_of (by decide +kernel), by decide +kernel⟩

theorem wit_vqsplit_release : ∀ s : State, s = { mkU { thE with op := { insn := some (.vqsplit 1 2 0 3), phase := 2 } } with cores := [(257, { oqWait := [op (.vqsplit 1 2 0 3)] })] } →
    (s.core 0).Present ∧ quadOf 0 = 0 ∧ (s.core (coreOfQuad 0 3)).oqWait = [op (.vqsplit 1 2 0 3)] ∧ (op (.vqsplit 1 2 0 3)).replay = false ∧
    (s.core (coreOfQuad 0 3)).oq.length ≤ 192 ∧ (s.thr 0).op.insn = some (.vqsplit 1 2 0 3) ∧ (s.thr 0).op.phase = 2 ∧ (s.thr 0).tsr.pp = false ∧ (s.thr 0).replaying = false ∧
    (s.thr 0).st = .parked .engine ∧ (s.thr 0).checkFail (vecReads (.vqsplit 1 2 0 3) (s.thr 0)) = none ∧
    (s.core 0).ctxs.toList.any (fun x => x.bound && !x.susp && x.owner == 0 && x.kind == 1) = false := by
  rintro s rfl
  exact ⟨present_of (by decide +kernel), by decide +kernel⟩

/-- USER_INTERRUPT_ENTRY for an event of the highest class; PARK's deadline; the end of a kill and of a TEXIT. -/
theorem wit_interrupt : ∀ s : State, s = mkU { thU with tsr := { uie := true }, uienable := 0x8000, fifo := [{ cls := 15 }] } → (s.core 0).Present ∧
    takeEvent (s.thr 0).uienable (s.thr 0).fifo = some ({ cls := 15 }, []) ∧ (s.thr 0).deliverable = true ∧ s.held 0 = false ∧ (s.thr 0).fresh = true := by
  rintro s rfl
  exact ⟨present_of (by decide +kernel), by decide +kernel⟩

theorem wit_sleep : ∀ s k x : State, s = { mkU { thU with st := .parked .sleep, op := { deadline := some 7 } } with cycle := 7 } → k = mkU { thU with st := .killed, op := { aux := 0x22 } } →
    x = mkU { thE with op := { aux := 0x54 } } → (s.core 0).Present ∧ (k.core 0).Present ∧ (x.core 0).Present ∧
    (s.thr 0).st = .parked .sleep ∧ (s.thr 0).op.deadline = some 7 ∧ 7 ≤ s.cycle ∧ (s.thr 0).tsr.pp = false ∧ (k.thr 0).st = .killed ∧ (k.thr 0).op.aux ≠ 0x23 ∧
    (x.thr 0).st = .parked .engine ∧ (x.thr 0).op.aux = 0x54 ∧ x.exitReady 0 = true ∧ (x.thr 0).fifo = [] := by
  rintro s k x rfl rfl rfl
  exact ⟨present_of (by decide +kernel), present_of (by decide +kernel), present_of (by decide +kernel), by decide +kernel⟩

/-- MIGRATE_ARRIVAL at the next core, offered or not. -/
theorem wit_migrate : ∀ l : List Nat, l = [0] ∨ l = [] → ∀ s : State, s = { mkU { thU with st := .parked .migrate, op := { aux := 1, again := true } } with cores := [(1, { inbound := l })] } →
    (s.core 0).Present ∧ validCore 1 = true ∧ (s.thr 0).st = .parked .migrate ∧ (s.thr 0).op.again = true ∧ (s.thr 0).op.aux = 1 ∧
    (s.core 1).away = false ∧ (s.core 1).inbound = l ∧ s.engineIdle 0 = true ∧ s.freeSlot 1 false = some 0 ∧ (s.thr 0).present = false := by
  rintro l (rfl | rfl) s rfl
  all_goals exact ⟨present_of (by decide +kernel), by decide +kernel⟩

/-- The resumption of a CSR read of TSR; a CSR of the spill queue at its largest size. -/
theorem wit_csr_resume : ∀ s : State, s = mkU { thE with op := { word := encode (.csrr 5 0) } } → (s.core 0).Present ∧ (s.thr 0).st = .parked .engine ∧ (s.thr 0).op = { word := encode (.csrr 5 0) } ∧ s.engineIdle 0 = true ∧ (s.thr 0).tsr.pp = false ∧
    (s.fn (s.thr 0).fn).evqueue = [] ∧ (s.core 0).spillCount = 0 ∧ ((0xB00000000#64 : Word).extractLsb' 32 4).toNat < 12 ∧ 12 ≤ ((0xC00000000#64 : Word).extractLsb' 32 4).toNat := by
  rintro s rfl
  exact ⟨present_of (by decide +kernel), by decide +kernel⟩

/-! ## Words and values that the spec works out -/

/-- The example words of the tables of R343, R362, R379, R400, R420, R443 and R462, and of the chapters on vectors, matrices and
streams. -/
theorem test_spec_words :
    [0xB0002800#32, 0xB0C70041#32, 0xB0C02882#32, 0xB0C72803#32, 0xB0C02804#32, 0x9CC10000#32, 0x9CC03801#32, 0x9C010041#32, 0x9C020002#32, 0x9C032803#32,
      0x9CA00004#32, 0x9C012805#32, 0xA0C70000#32, 0xA1495801#32, 0xA1496002#32, 0xA1A02803#32, 0xA0C70004#32, 0xA0C70005#32, 0xA4A70000#32, 0xA4C70001#32, 0xA4C02802#32,
      0xA4C00003#32, 0xA5605004#32, 0xA8C02840#32, 0xA8C02801#32, 0xA8C72882#32, 0xA8C02803#32, 0xA8C72844#32, 0xACC02800#32, 0xACC02801#32, 0xACC02842#32, 0xACC02803#32,
      0xB4C72800#32, 0xB4C72801#32, 0xB4C72802#32, 0xB4C72883#32, 0x81941006#32, 0xE0A00001#32, 0xE0A60002#32, 0x84000200#32, 0x88805103#32, 0x89121281#32, 0x90C00840#32,
      0x9000284C#32, 0x94C20000#32, 0x94020301#32, 0x94000401#32, 0x94A32043#32, 0x94E02808#32, 0x08000000#32, 0x26004248#32, 0x22100010#32].map decode =
    [.ok (.chkpt 5), .ok (.ckreg 6 7 1), .ok (.ebrd 6 5 2), .ok (.ebclr 6 7 5), .ok (.killt 6 5), .ok (.cdef 6 1), .ok (.cwatch 6 0 7), .ok (.cwatchOff 1), .ok (.cstart 2), .ok (.cstat 3 5),
      .ok (.cbw 5 0), .ok (.cabort 1 5), .ok (.barm 6 7), .ok (.bara 10 9 11), .ok (.barw 10 9 12), .ok (.bart 13 5), .ok (.bmask 6 7), .ok (.btime 6 7), .ok (.asamp 5 7), .ok (.athr 6 7), .ok (.ahist 6 5),
      .ok (.aclr 6), .ok (.astat 11 10), .ok (.mbal 6 5 1), .ok (.muse 6 5), .ok (.mqsetDeposit 6 7 5), .ok (.msplit 6 5), .ok (.mfloorSet 6 7 5), .ok (.ocal 6 5), .ok (.onext 6 5), .ok (.opolSet 6 5), .ok (.ostat 6 5),
      .ok (.dlaunch 6 7 5), .ok (.migrMove 6 7 5), .ok (.vfctlReadField 6 7 5), .ok (.rightsRevoke 6 7 5), .ok (.vamin 3 1 2 0 1 0 0 0), .ok (.orcv 5), .ok (.vdadd 1 2 3 0 0 0), .ok (.vld 0 0 0 8 0), .ok (.vqsplit 1 0 0 1),
      .ok (.vqnt 2 1 1 0 10), .ok (.tldRing 6 0 1), .ok (.taccr 5 1), .ok (.sdesc 6 2), .ok (.sbind 2 1 4), .ok (.sbind 0 2 0), .ok (.sposSet 5 3 4), .ok (.copy 7 5), .ok (.addi 0 0 0), .ok (.lhi 16 0 0x4248),
      .ok (.shli 16 16 16)] := by rfl

/-- The executing thread after an instruction. -/
noncomputable def ran (i : Instr) (s : State) : Thread :=
  match exec i s with
  | .next t => t.thr s.cur
  | _ => {}

/-- The machine after an instruction. -/
noncomputable def did (i : Instr) (s : State) : State :=
  match exec i s with
  | .next t => t
  | _ => s

/-- R119. Addition wraps. -/
theorem test_add : (ran (.add 1 2 3) (mk (regs thP [(2, BitVec.allOnes 64), (3, 1)]))).reg 1 = 0 ∧ (ran (.add 0 2 3) (mk (regs thP [(2, 5)]))).reg 0 = 0 := by decide +kernel

/-- R120. -7 / 2 is -3 with remainder -1; the most negative number by -1. -/
theorem test_div : (ran (.div 1 2 3) (mk (regs thP [(2, -7), (3, 2)]))).reg 1 = -3 ∧ (ran (.rem 1 2 3) (mk (regs thP [(2, -7), (3, 2)]))).reg 1 = -1 ∧
    (ran (.div 1 2 3) (mk (regs thP [(2, 0x8000000000000000), (3, -1)]))).reg 1 = 0x8000000000000000 := by decide +kernel

/-- R122. The spec's own example: (13, 7) moved by (-1, 2); a core ID that is not valid. -/
theorem test_crel : (ran (.crel 1 2 3) (mk (regs thP [(2, 0x070D), (3, 0x02FF)]))).reg 1 = 0x090C ∧ (ran (.crel 1 2 3) (mk (regs thP [(2, 0xEF05), (3, 0x0100)]))).reg 1 = -1 := by decide +kernel

/-- R123. A constant built by LHI. -/
theorem test_lhi : (ran (.lhi 3 3 0x4567) (mk (regs thP [(3, 0x0123)]))).reg 3 = 0x01234567 := by decide +kernel

/-- R126, R127. A branch backward; LOOP of 1 falls through. -/
theorem test_branch : (ran (.bne 1 0 0xFFFF) (mk { regs thP [(1, 1)] with pc := 8 })).pc = 4 ∧ (ran (.loop 1 0 0xFFFF) (mk { regs thP [(1, 1)] with pc := 8 })).pc = 12 := by decide +kernel

/-- R128. JALR to a target that is not a multiple of 4 writes no register and raises MISALIGN. -/
theorem test_jalr : (ran (.jalr 1 2 0) (mk { regs thP [(2, 6)] with ptvec := 0x1000 })).reg 1 = 0 ∧ (ran (.jalr 1 2 0) (mk { regs thP [(2, 6)] with ptvec := 0x1000 })).tval = 6 ∧
    (ran (.jalr 1 2 0) (mk { regs thP [(2, 6)] with ptvec := 0x1000 })).pc = 0x1000 := by decide +kernel

/-- The worked example of the chapter on thread instructions: one rounding under a prefix, and two without. -/
theorem test_fma_prefix : (ran (.fma 5 2 3 4) (mk { regs thP [(2, 0x3F800000), (3, 0x3F808000), (4, 0x33000000)] with tsr := { pl := 3, pp := true }, pfxsave := (0x7888A000#32).extractLsb' 0 26 })).reg 5 = 0x3F81 ∧
    (ran (.fma 7 2 3 4) (mk (regs thP [(2, 0x3F800000), (3, 0x3F808000), (4, 0x33000000)]))).reg 7 = 0x3F808000 := by decide +kernel

theorem test_fcvt_tie : (ran (.fcvt 6 7 4 5) (mk (regs thP [(7, 0x3F808000)]))).reg 6 = 0x3F80 ∧ (ran (.fcvt 6 7 4 5) (mk (regs thP [(7, 0x3F808000)]))).tsr.flags = 1 := by decide +kernel

/-- R46. 127.4, 127.6 and -128.4 to INT8: the value, NX or NV. -/
theorem test_fcvt_int8 : convertBits 4 0 0 false 0 0x42FECCCD = (127, 1) ∧ (convertBits 4 0 0 false 0 0x42FF3333).1 = 127 ∧ convertBits 4 0 0 false 0 0xC3006666 = (0x80, 1) ∧
    (convertBits 4 0 0 false 0 0x42FF3333).2 = 16 := by decide +kernel

/-- R54. A reduction by halves: 2^24 and 1, far apart, then 1. -/
theorem test_vred : (ran (.vred 1 2 0 2 0 2 0) (mk { thP with v := (Vector.replicate 8 (Vector.replicate 64 {})).set 2 ((((Vector.replicate 64 {}).set 0 { data := 0x4B800000 }).set 32 { data := 0x3F800000 }).set 1 { data := 0x3F800000 }) })).at 1 32 0 = 0x4B800000 := by decide +kernel

/-- The worked example of the chapter on vectors: an outlier above 50.0, in slot 2, under tag 0x123. -/
theorem test_vqsplit : ∀ t : State, t = did (.vqsplit 1 0 0 1) { mk thP with cur := 2, threads := [(2, { regs thP [(16, 0x42480000)] with tsr := { pl := 3, pp := true }, pfxsave := (0x7A246088#32).extractLsb' 0 26, v := (Vector.replicate 8 (Vector.replicate 64 {})).set 0 ((((Vector.replicate 64 { data := 0x3F800000 }).set 0 { data := 0x42C80000 }).set 1 { data := 0xC0400000 }).set 2 { data := 0x3F400000 }) })] } →
    (t.thr 2).at 1 32 0 = 0 ∧ (t.thr 2).at 1 32 1 = 0xC0400000 ∧ (t.thr 2).mask 1 = 1 ∧ (t.core 257).oq = [0x8123200042C80000] ∧ (t.thr 2).tsr.pp = false := by rintro t rfl; decide +kernel

/-- Its quantisation: the weights that stay, with -3.0, 0.75 and 1.0 among them. -/
def stQuant : State := mk { thP with v := (Vector.replicate 8 (Vector.replicate 64 {})).set 1 ((((Vector.replicate 64 { data := 0x3F800000 }).set 0 {}).set 1 { data := 0xC0400000 }).set 2 { data := 0x3F400000 }) }

theorem test_vqnt : (List.range 4).map ((ran (.vqnt 2 1 1 0 10) stQuant).at 2 8) = [0x00, 0xFC, 0x6C, 0x70] ∧ (ran (.vqnt 2 1 1 0 10) stQuant).reg 17 = 0x78 ∧
    (ran (.vqnt 2 1 1 0 10) stQuant).tsr.flags = 0 := by decide +kernel

/-- R34. The decoding example: a block under table 2 with e0 = 9. -/
theorem test_cb8 : ((decodeCb8 ([0x03, 0x89, 0x5A, 0x03] ++ List.replicate 30 0 ++ [0xB7, 0x00] ++ List.replicate 12 0)).map fun l => l.take 4) = some [0xC2, 0x3D, 0x03, 0x48] := by decide +kernel

/-- R173, R149. A load sign-extends; a store of two bytes, least significant first. -/
theorem test_memory : (ran (.ld 1 0 4 0) { mk thP with mem := [⟨0, 0x80⟩] }).reg 1 = 0xFFFFFFFFFFFFFF80 ∧ (did (.st 1 0 1 4) (mk (regs thP [(1, 0xABCD)]))).mem = [⟨4, 0xCD⟩, ⟨5, 0xAB⟩] := by decide +kernel

/-- R175. AMOADD answers the old value and stores the sum. -/
theorem test_amoadd : (ran (.amoadd 1 0 2 5 1) { mk (regs thP [(2, 3), (5, scopeWord 6)]) with mem := [⟨0, 4⟩] }).reg 1 = 4 ∧ (did (.amoadd 1 0 2 5 1) { mk (regs thP [(2, 3), (5, scopeWord 6)]) with mem := [⟨0, 4⟩] }).mem = [⟨0, 7⟩] := by
  decide +kernel

/-- R174. LDE of an empty word parks; of a full one it empties it. -/
theorem test_lde : (ran (.lde 1 0 0) (mk thP)).st = .parked .fe ∧ (did (.lde 1 0 0) { mk thP with full := [0] }).full = [] := by decide +kernel

/-- R154, R107. A store without right W takes SEG with DETAIL 1 to level S. -/
theorem test_seg : (ran (.st 1 0 3 0) (mkU { thU with segs := Vector.replicate 8 { limit := 64, rights := 0x11 }, stvec := 0x40 })).tcause = 0x108 ∧
    (ran (.st 1 0 3 0) (mkU { thU with segs := Vector.replicate 8 { limit := 64, rights := 0x11 }, stvec := 0x40 })).pc = 0x40 := by decide +kernel

/-- R141. TRAP stands after itself; XRET returns there. -/
theorem test_trap : (ran (.trap 1 3) (mk { regs thU [(1, 9)] with pc := 16 })).tepc = 20 ∧ (ran (.trap 1 3) (mk { regs thU [(1, 9)] with pc := 16 })).tcause = 0x305 ∧
    (ran .xret (mk { thU with tsr := { pl := 1, th := true }, tepc := 20 })).pc = 20 := by decide +kernel

/-- R345. EBRD of the bank of the spec's example, at its quad; EBCLR after another record has come clears nothing. -/
theorem test_bank : ∀ b : Bank, b = { v := true, cls := 1, seq := 4 } → b.word 0 = 0x8020000000800000 := by rintro b rfl; decide +kernel

/-- R293. A message is sent: an entry of 16 bytes under sequence number 0. -/
theorem test_sendi : ∀ s : State, s = did (.sendi 1 2 3 0) (mk (regs thP [(1, 1 + 16777216 * 5), (2, 7)])) → ((s.core 0).journal.map fun e => (e.2.addr, e.2.bytes.length, e.2.kind)) = [(1, 16, .inbox 5 false)] ∧
    (s.thr 0).reg 3 = 0 ∧ (s.thr 0).nseq = 1 := by rintro s rfl; decide +kernel

/-- R98. TFORK takes the lowest free slot. -/
theorem test_tfork : (ran (.tfork 3 2 2) (mkU (regs thU [(2, 0x100)]))).reg 3 = 1 ∧ ((did (.tfork 3 2 2) (mkU (regs thU [(2, 0x100)]))).thr 1).pc = 0x100 := by decide +kernel

/-- R90. A step fetches and runs the word that stands at the pc, as the first instruction after reset. -/
theorem test_step : ((match step (State.reset.withFetchWord 32 0x0864FFFE) with | .next t => (t.thr 0).reg 3 | _ => 0) = 0xFFFFFFFFFFFFFFFE) := by decide +kernel

end Sys2Proof.Tests
end

section
/-! SUPPORT. What updates of the state bring about and keep: folds of updates, the agenda, changes to the optical edge dies
alone, and sending. -/

namespace Sys2Proof.Machine

/-! ## Folds of updates -/

/-- A reading that every update of a fold keeps is kept by the fold. -/
theorem foldl_keeps {β γ : Type} (p : State → γ) {f : State → β → State} (h : ∀ s x, p (f s x) = p s) (l : List β)
    (s : State) : p (l.foldl f s) = p s :=
  List.foldlRecOn (motive := fun t => p t = p s) l f rfl fun t ht x _ => (h t x).trans ht

/-- What the update of each entry brings about, and no other update undoes, holds of every entry after the fold. -/
theorem foldl_establishes {β : Type} {good : β → State → Prop} {f : State → β → State}
    (sets : ∀ s x, good x (f s x)) (keeps : ∀ s x y, good x s → good x (f s y)) (l : List β) (s : State) :
    ∀ x ∈ l, good x (l.foldl f s) := by
  induction l generalizing s with
  | nil => simp
  | cons y l ih =>
    intro x hx
    rcases List.mem_cons.mp hx with rfl | hx
    · exact List.foldlRecOn (motive := good x) l f (sets s x) fun t ht z _ => keeps t x z ht
    · exact ih (f s y) x hx

/-! ## Events and the agenda -/

/-- An event of a unit that the panel has completes. -/
theorem eventIf_pos {ok : Bool} (h : ok = true) (s : State) : eventIf ok s = .next s := if_pos h

theorem mem_due_agenda {s : State} {e i : Instr} : i ∈ (s.due e).agenda ↔ i ∈ s.agenda ∨ i = e := by
  simp [State.due]

theorem mem_dueOnce_agenda {s : State} {e i : Instr} : i ∈ (s.dueOnce e).agenda ↔ i ∈ s.agenda ∨ i = e := by
  unfold State.dueOnce
  split
  next h =>
    have he : e ∈ s.agenda := List.contains_iff_mem.mp h
    exact ⟨Or.inl, fun hi => hi.elim id fun h => h ▸ he⟩
  next => exact mem_due_agenda

/-! ## Changes to the optical edge dies alone -/

theorem odie_modOdie_other (s : State) (f : ODie → ODie) {d e : Nat} (h : e ≠ d) : (s.modOdie d f).odie e = s.odie e :=
  smGet_smSet_other _ _ _ h

theorem modOdie_modOdie (s : State) (k : Nat) (f g : ODie → ODie) :
    (s.modOdie k f).modOdie k g = s.modOdie k fun o => g (f o) := by
  have hk := odie_modOdie_same s k f
  unfold State.modOdie at hk ⊢
  rw [hk, smSet_smSet]

/-- A part of every die's record that a change keeps is kept at every die. -/
theorem odie_modOdie_keeps {γ : Type} (p : ODie → γ) (s : State) (d e : Nat) {f : ODie → ODie}
    (h : ∀ o, p (f o) = p o) : p ((s.modOdie d f).odie e) = p (s.odie e) := by
  by_cases he : e = d
  · rw [he, odie_modOdie_same, h]
  · rw [odie_modOdie_other s f he]

/-- `t` is `s` but for the optical edge dies, what is due, and the free values drawn. -/
def State.EdgeOnly (s t : State) : Prop := ∃ os a n, t = { s with odies := os, agenda := a, fresh := n }

namespace State.EdgeOnly

variable {s t u : State}

theorem refl (s : State) : s.EdgeOnly s := ⟨_, _, _, rfl⟩

theorem trans (h : s.EdgeOnly t) (h' : t.EdgeOnly u) : s.EdgeOnly u := by
  obtain ⟨_, _, _, rfl⟩ := h
  obtain ⟨os, a, n, rfl⟩ := h'
  exact ⟨os, a, n, rfl⟩

theorem mem (h : s.EdgeOnly t) : t.mem = s.mem := by obtain ⟨_, _, _, rfl⟩ := h; rfl

theorem threads (h : s.EdgeOnly t) : t.threads = s.threads := by obtain ⟨_, _, _, rfl⟩ := h; rfl

theorem cal (h : s.EdgeOnly t) : t.cal = s.cal := by obtain ⟨_, _, _, rfl⟩ := h; rfl

theorem core (h : s.EdgeOnly t) (c : Nat) : t.core c = s.core c := by obtain ⟨_, _, _, rfl⟩ := h; rfl

theorem fn (h : s.EdgeOnly t) (f : Nat) : t.fn f = s.fn f := by obtain ⟨_, _, _, rfl⟩ := h; rfl

theorem modOdie (s : State) (k : Nat) (f : ODie → ODie) : s.EdgeOnly (s.modOdie k f) := ⟨_, _, _, rfl⟩

theorem dueOnce (s : State) (e : Instr) : s.EdgeOnly (s.dueOnce e) := by
  unfold State.dueOnce
  split
  · exact refl s
  · exact ⟨_, _, _, rfl⟩

theorem ite (c : Prop) [Decidable c] (ht : s.EdgeOnly t) (hu : s.EdgeOnly u) : s.EdgeOnly (if c then t else u) := by
  split <;> assumption

theorem dueOnceIf (s : State) (c : Prop) [Decidable c] (e : Instr) : s.EdgeOnly (if c then s.dueOnce e else s) :=
  .ite c (dueOnce s e) (refl s)

theorem foldl {β : Type} {f : State → β → State} (h : ∀ (s : State) (x : β), s.EdgeOnly (f s x)) (l : List β)
    (s : State) : s.EdgeOnly (l.foldl f s) :=
  List.foldlRecOn (motive := s.EdgeOnly) l f (refl s) fun t ht x _ => ht.trans (h t x)

theorem sendFrame (s : State) (p f : Nat) (c : Cargo) (beats : Nat) : s.EdgeOnly (s.sendFrame p f c beats) :=
  modOdie ..

end State.EdgeOnly

/-! ## Sending (R428, R431 to R435) -/

/-- A transmission only occupies a port group. -/
theorem transmit_eq {s u : State} {p beats : Nat} (h : s.transmit p beats = some u) :
    ∃ g n, u = s.modOdie g fun o => { o with busy := n } := by
  simp only [State.transmit] at h
  split at h
  · cases h
  · split at h
    · cases h
      exact ⟨_, _, rfl⟩
    · cases h

theorem transmit_edgeOnly {s u : State} {p beats : Nat} (h : s.transmit p beats = some u) : s.EdgeOnly u := by
  obtain ⟨g, n, rfl⟩ := transmit_eq h
  exact .modOdie ..

theorem sendBulkNow_edgeOnly {s u : State} {f : Frame} (h : s.sendBulkNow f = some u) : s.EdgeOnly u := by
  unfold State.sendBulkNow at h
  split at h
  next hd =>
    cases h
    exact transmit_edgeOnly hd
  next =>
    split at h
    next =>
      obtain ⟨v, hv, rfl⟩ := Option.map_eq_some_iff.mp h
      exact (transmit_edgeOnly hv).trans (.modOdie ..)
    next => cases h

theorem sendQueue_edgeOnly (s : State) (fs : List Frame) (blocked : List Nat) (kept : List Frame) :
    s.EdgeOnly (s.sendQueue fs blocked kept).1 := by
  induction fs generalizing s blocked kept with
  | nil => exact .refl s
  | cons f fs ih =>
    unfold State.sendQueue
    split
    · split
      · exact ih ..
      · split
        next h => exact (transmit_edgeOnly h).trans (ih ..)
        next => exact ih ..
    · split
      next h => exact (sendBulkNow_edgeOnly h).trans (ih ..)
      next => exact ih ..

theorem sendAll_edgeOnly (s : State) : s.EdgeOnly s.sendAll :=
  .foldl (fun s _ => (sendQueue_edgeOnly s _ _ _).trans (.modOdie ..)) _ s

theorem grantCredit_edgeOnly (s : State) : s.EdgeOnly s.grantCredit := by
  have draws : s.EdgeOnly s.flip.2.unstated.2.unstated.2 := ⟨_, _, _, rfl⟩
  exact .ite _ draws (draws.trans ((State.EdgeOnly.modOdie ..).trans (.sendFrame ..)))

/-- The units of a core that goes on only become due. -/
theorem stirCore_edgeOnly (s : State) (c : Nat) : s.EdgeOnly (s.stirCore c) := by
  have ctx (t : State) (x : Nat) : t.EdgeOnly (let y := (s.core c).ctx x
      if y.bound && y.kind != 2 then t.stir c x else if y.bound then t.dueOnce (.ringStreamFill c x) else t) :=
    .ite _ (.dueOnce ..) (.dueOnceIf ..)
  exact (State.EdgeOnly.dueOnce ..).trans (.dueOnce ..) |>.trans (.dueOnce ..) |>.trans (.dueOnceIf ..)
    |>.trans (.dueOnceIf ..) |>.trans (.dueOnceIf ..) |>.trans (.foldl ctx _ _)
    |>.trans (.foldl (fun _ _ => .dueOnceIf ..) _ _)

end Sys2Proof.Machine
end

section
/-! SUPPORT. The optical edge between instructions: error banks at the end of a cycle, the calendar, frames that failed,
that arrive and that wait for a slot. -/

namespace Sys2Proof.Machine

/-! ## Error banks at the end of a cycle (R339) -/

theorem mem_insertError {e x : BankError} {l : List BankError} : x ∈ insertError e l ↔ x = e ∨ x ∈ l := by
  induction l with
  | nil => simp [insertError]
  | cons y l ih =>
    unfold insertError
    split
    · simp
    · simp only [List.mem_cons, ih]
      tauto

/-- A bank that has recorded an error is valid. -/
@[simp] theorem record_v (b : Bank) (cls unit slot : Nat) (a c : Word) : (b.record cls unit slot a c).v = true := by
  cases hv : b.v <;> simp only [Bank.record, hv]
  · rfl
  · split
    · contradiction
    · split
      · rfl
      · split <;> rfl

/-- The banks of kind 3 and above are those of the optical edge dies. -/
theorem setBank_edge {k : Nat} (h : 3 ≤ k) (s : State) (n : Nat) (b : Bank) :
    s.setBank k n b = s.modOdie n fun x => { x with bank := b } := by
  match k, h with
  | _ + 3, _ => rfl

theorem setBank_odie {k : Nat} (h : k < 3) (s : State) (n d : Nat) (b : Bank) : (s.setBank k n b).odie d = s.odie d := by
  match k, h with
  | 0, _ => rfl
  | 1, _ => rfl
  | 2, _ => rfl

theorem enterError_bank_v {e : BankError} (h : 3 ≤ e.kind) (s : State) :
    ((s.enterError e).odie e.num).bank.v = true := by
  simp [State.enterError, setBank_edge h]

/-- A valid bank of an optical edge die stays valid, whatever error is entered. -/
theorem enterError_keeps_bank_v {s : State} {d : Nat} (h : (s.odie d).bank.v = true) (e : BankError) :
    ((s.enterError e).odie d).bank.v = true := by
  by_cases hk : 3 ≤ e.kind
  · by_cases hd : d = e.num
    · rw [hd, enterError_bank_v hk]
    · rw [State.enterError, setBank_edge hk, odie_modOdie_other _ _ hd, h]
  · rw [State.enterError, setBank_odie (by omega), h]

/-- At the end of the cycle the bank of an optical edge die that has met an error in it is valid. -/
theorem errorCycle_bank_v {s : State} {e : BankError} (he : e ∈ s.errors) (hk : 3 ≤ e.kind) :
    (s.errorCycle.odie e.num).bank.v = true := by
  have all : ∀ x ∈ s.errors, 3 ≤ x.kind → ((s.errors.foldl State.enterError s).odie x.num).bank.v = true := by
    refine foldl_establishes (good := fun (x : BankError) t => 3 ≤ x.kind → (t.odie x.num).bank.v = true)
      (fun t _ h => enterError_bank_v h t) (fun t x y h hx => ?_) _ _
    exact enterError_keeps_bank_v (h hx) y
  exact all e he hk

/-- An error that an optical edge die records in a cycle. -/
theorem bankError_bank_v {s t : State} {k cls unit : Nat} {a : Word} {slot : Nat}
    (h : t.errors = (s.bankError 3 k cls unit a slot).errors) : (t.errorCycle.odie k).bank.v = true :=
  errorCycle_bank_v (e := ⟨3, k, cls, unit, slot, a, BitVec.ofNat 64 s.cycle⟩)
    (h ▸ mem_insertError.mpr (.inl rfl)) (le_refl 3)

/-! ## The calendar (R430, R431) -/

/-- A slot's start frees every port group. -/
theorem freePorts_edgeOnly (s : State) :
    s.EdgeOnly ((List.range 16).foldl (fun s g => s.modOdie g fun o => { o with busy := 0 }) s) :=
  .foldl (fun _ _ => .modOdie ..) _ s

/-- Between periods, or with no replacement waiting, a slot's start moves on in the calendar in force. -/
theorem nextSlot_cal_kept {s : State} (h : s.cal.next = none ∨ s.cal.slot + 1 < s.cal.s) :
    s.nextSlot.cal = { s.cal with slot := if s.cal.s ≤ s.cal.slot + 1 then 0 else s.cal.slot + 1
                                  began := s.cal.began + 4800 } := by
  simp only [State.nextSlot, State.postPool, (freePorts_edgeOnly _).cal]
  rcases h with h | h
  · simp [h]
  · cases s.cal.next <;> simp [Nat.not_le.mpr h]

/-- At a period's end a replacement that waits takes effect. -/
theorem nextSlot_cal_replaced {s : State} {es : List (Option Nat)} (hn : s.cal.next = some es)
    (hw : s.cal.s ≤ s.cal.slot + 1) :
    s.nextSlot.cal = { s := es.length / 16, epoch := (s.cal.epoch + 1) % 65536, slot := 0
                       began := s.cal.began + 4800, entries := es, next := none } := by
  simp only [State.nextSlot, State.postPool, (freePorts_edgeOnly _).cal, hn, hw, if_true]

/-- In either calendar the next slot begins 4,800 cycles after this one, and the first slot follows the last. -/
theorem nextSlot_cal_turn (s : State) : s.nextSlot.cal.began = s.cal.began + 4800 ∧
    s.nextSlot.cal.slot = (if s.cal.s ≤ s.cal.slot + 1 then 0 else s.cal.slot + 1) := by
  by_cases hw : s.cal.s ≤ s.cal.slot + 1
  · cases hn : s.cal.next with
    | none => simp [nextSlot_cal_kept (.inl hn)]
    | some es => simp [nextSlot_cal_replaced hn hw, hw]
  · simp [nextSlot_cal_kept (.inr (Nat.not_le.mp hw))]

theorem nextSlot_mem (s : State) : s.nextSlot.mem = s.mem := by
  simp only [State.nextSlot, State.postPool, (freePorts_edgeOnly _).mem]

theorem nextSlot_threads (s : State) : s.nextSlot.threads = s.threads := by
  simp only [State.nextSlot, State.postPool, (freePorts_edgeOnly _).threads]

/-- A panel without optical dies has no calendar to step. -/
theorem calendarSlotStart_of_absent {s : State} (h : s.hasOptical = false) : exec .calendarSlotStart s = .next s := by
  show execCalendarSlotStart s = _
  simp [execCalendarSlotStart, h]

theorem calendarSlotStart_of_due {s : State} (ho : s.hasOptical = true) (hd : s.cal.began + 4800 ≤ s.cycle) :
    exec .calendarSlotStart s = .next (s.nextSlot.grantCredit.sendAll.dueOnce .calendarSlotStart) := by
  show execCalendarSlotStart s = _
  simp [execCalendarSlotStart, ho, Nat.not_lt.mpr hd, State.defer]

/-- R430, R431. A slot that has lasted 3.2 µs ends; a replacement takes effect at a period's end alone. -/
theorem calendarSlotStart_spec {s : State} (ho : s.hasOptical = true) (hd : s.cal.began + 4800 ≤ s.cycle) :
    ∃ t, exec .calendarSlotStart s = .next t ∧ t.mem = s.mem ∧ t.threads = s.threads ∧
      t.cal.began = s.cal.began + 4800 ∧ t.cal.slot = (if s.cal.s ≤ s.cal.slot + 1 then 0 else s.cal.slot + 1) ∧
      (s.cal.next = none ∨ s.cal.slot + 1 < s.cal.s → t.cal.entries = s.cal.entries ∧ t.cal.epoch = s.cal.epoch) ∧
      (∀ es, s.cal.next = some es → s.cal.s ≤ s.cal.slot + 1 → t.cal.entries = es ∧ t.cal.s = es.length / 16 ∧
        t.cal.next = none ∧ t.cal.epoch = (s.cal.epoch + 1) % 65536) ∧ .calendarSlotStart ∈ t.agenda := by
  have sent : s.nextSlot.EdgeOnly (s.nextSlot.grantCredit.sendAll.dueOnce .calendarSlotStart) :=
    (grantCredit_edgeOnly _).trans (sendAll_edgeOnly _) |>.trans (.dueOnce ..)
  obtain ⟨hbegan, hslot⟩ := nextSlot_cal_turn s
  refine ⟨_, calendarSlotStart_of_due ho hd, sent.mem.trans (nextSlot_mem s), sent.threads.trans (nextSlot_threads s),
    ?_, ?_, fun h => ?_, fun es hn hw => ?_, mem_dueOnce_agenda.mpr (.inr rfl)⟩
  · rw [sent.cal, hbegan]
  · rw [sent.cal, hslot]
  · rw [sent.cal, nextSlot_cal_kept h]
    exact ⟨rfl, rfl⟩
  · rw [sent.cal, nextSlot_cal_replaced hn hw]
    exact ⟨rfl, rfl, rfl, rfl⟩

/-- R430. A replacement of a form that R430 gives only waits. -/
theorem calendarReplace_waits {s : State} {es : List (Option Nat)} (ho : s.hasOptical = true) (hm : es.length % 16 = 0)
    (hl : 16 ≤ es.length) (hu : es.length ≤ 1024) (hp : ∀ p, some p ∈ es → p < 128) :
    exec (.calendarReplace es) s = .next { s with cal := { s.cal with next := some es } } := by
  have hall : es.all (fun e => e.all (· < 128)) = true := by
    rw [List.all_eq_true]
    rintro (_ | p) h
    · rfl
    · simpa using hp p h
  exact eventIf_pos (by simp [ho, hm, hl, hu, hall]) _

/-! ## Frames that failed, and port groups (R428) -/

/-- R428. A frame that failed its CRC is sent again first, and its die records the error. -/
theorem opticalFrameRetry_spec {s : State} {k : Nat} {g : Frame} (ho : s.hasOptical = true) (hk : k < 16)
    (hg : g.src = s.panelNo) :
    ∃ t, exec (.opticalFrameRetry k g) s = .next t ∧ t.mem = s.mem ∧ t.threads = s.threads ∧
      (t.odie (odieFor g.dst)).egress = g :: (s.odie (odieFor g.dst)).egress ∧
      (t.errorCycle.odie k).bank.v = true := by
  refine ⟨_, eventIf_pos (by simp [ho, hk, hg]) _, rfl, rfl, ?_, bankError_bank_v (s := s) rfl⟩
  rw [odie_modOdie_same]
  rfl

/-- R428. A port group whose fibres fail is out of service and recorded; what is to be sent stays. -/
theorem portGroupDown_spec {s : State} {k : Nat} (ho : s.hasOptical = true) (hk : k < 16) :
    ∃ t, exec (.portGroupDown k) s = .next t ∧ t.mem = s.mem ∧ t.threads = s.threads ∧ (t.odie k).up = false ∧
      (t.errorCycle.odie k).bank.v = true ∧ (t.odie k).egress = (s.odie k).egress := by
  refine ⟨_, eventIf_pos (by simp [ho, hk]) _, rfl, rfl, ?_, bankError_bank_v (s := s) rfl, ?_⟩
  · rw [odie_modOdie_same]
  · rw [odie_modOdie_same]
    rfl

/-! ## Receiving (R433, R435) -/

theorem opticalFrameReceive_of_up {s : State} {k : Nat} {g : Frame} (ho : s.hasOptical = true) (hk : k < 16)
    (hs : g.src < 128) (hd : g.dst < 128) (hn : g.src ≠ s.panelNo) (hu : (s.odie k).up = true) :
    exec (.opticalFrameReceive k g) s = .next (s.receiveFrame g) := by
  show execOpticalFrameReceive k g s = _
  rw [execOpticalFrameReceive, eventIf_pos (by simp [ho, hk, hs, hd, hn]), if_pos hu]

/-- A number half the sequence space or more ahead of the one expected lies behind it: its frame has been received. -/
theorem receiveFrame_behind {s : State} {g : Frame} {n : Nat} (hd : g.dst = s.panelNo) (hq : g.seq = some n)
    (hb : 2 ^ 31 ≤ seqAhead (smGet 0 (s.odie (odieFor g.src)).expect g.src) n) : s.receiveFrame g = s := by
  rw [State.receiveFrame, if_neg (by simp [hd])]
  simp only [hq]
  rw [if_pos (by simp only [hb, decide_true, Bool.true_or])]

theorem seqAhead_self (n : Nat) : seqAhead n n = 0 := by
  simp [seqAhead]

/-- A frame that its gate does not hold, of the number that is expected, with none held early, is released alone, and the
next number is expected. -/
theorem receiveFrame_expected {s : State} {g : Frame} {n : Nat} (hd : g.dst = s.panelNo) (hq : g.seq = some n)
    (he : (s.odie (odieFor g.src)).early = []) (hn : n = smGet 0 (s.odie (odieFor g.src)).expect g.src)
    (hgate : ∀ t : State, t.gateShut g = false) :
    s.receiveFrame g = (s.modOdie (odieFor g.src) fun o =>
      { o with early := (o.early ++ [g]).erase g, expect := smSet 0 o.expect g.src ((n + 1) % 2 ^ 32) }).release1
        (odieFor g.src) g := by
  simp [State.receiveFrame, State.releaseFrames, hd, hq, he, hgate, ← hn, seqAhead_self, modOdie_modOdie]

theorem gateShut_credit {s : State} {g : Frame} {d m : Nat} (h : g.cargo = .credit d m) : s.gateShut g = false := by
  simp [State.gateShut, h]

theorem release1_credit {s : State} {g : Frame} {k d m : Nat} (h : g.cargo = .credit d m) :
    s.release1 k g = s.modOdie (odieFor d) fun o =>
      { o with credits := smSet 0 o.credits (g.src * 128 + d) (smGet 0 o.credits (g.src * 128 + d) + m) } := by
  simp only [State.release1, h]

theorem receiveFrame_credit {s : State} {g : Frame} {n d m : Nat} (hd : g.dst = s.panelNo) (hq : g.seq = some n)
    (he : (s.odie (odieFor g.src)).early = []) (hn : n = smGet 0 (s.odie (odieFor g.src)).expect g.src)
    (hc : g.cargo = .credit d m) :
    s.EdgeOnly (s.receiveFrame g) ∧
      smGet 0 ((s.receiveFrame g).odie (odieFor g.src)).expect g.src = (n + 1) % 2 ^ 32 ∧
      ((s.receiveFrame g).odie (odieFor g.src)).early = [] ∧
      smGet 0 ((s.receiveFrame g).odie (odieFor d)).credits (g.src * 128 + d) =
        smGet 0 (s.odie (odieFor d)).credits (g.src * 128 + d) + m := by
  rw [receiveFrame_expected hd hq he hn fun _ => gateShut_credit hc, release1_credit hc]
  refine ⟨(State.EdgeOnly.modOdie ..).trans (.modOdie ..), ?_, ?_, ?_⟩
  · rw [odie_modOdie_keeps ODie.expect, odie_modOdie_same]
    · exact smGet_smSet_same ..
    · exact fun _ => rfl
  · rw [odie_modOdie_keeps ODie.early, odie_modOdie_same]
    · simp [he]
    · exact fun _ => rfl
  · rw [odie_modOdie_same, smGet_smSet_same, odie_modOdie_keeps ODie.credits]
    exact fun _ => rfl

/-- R433, R435. An ordered frame with a relay credit, of the number that is expected, adds its credits. -/
theorem opticalFrameReceive_credit {s : State} {k : Nat} {g : Frame} {n d m : Nat} (ho : s.hasOptical = true)
    (hk : k < 16) (hs : g.src < 128) (hd : g.dst = s.panelNo) (hp : s.panelNo < 128) (hn : g.src ≠ s.panelNo)
    (hu : (s.odie k).up = true) (hq : g.seq = some n) (hc : g.cargo = .credit d m)
    (he : (s.odie (odieFor g.src)).early = []) (hx : n = smGet 0 (s.odie (odieFor g.src)).expect g.src) :
    ∃ t, exec (.opticalFrameReceive k g) s = .next t ∧ t.mem = s.mem ∧ t.threads = s.threads ∧
      smGet 0 (t.odie (odieFor g.src)).expect g.src = (n + 1) % 2 ^ 32 ∧
      (t.odie (odieFor g.src)).early = [] ∧ smGet 0 (t.odie (odieFor d)).credits (g.src * 128 + d) =
        smGet 0 (s.odie (odieFor d)).credits (g.src * 128 + d) + m := by
  obtain ⟨hedge, hrest⟩ := receiveFrame_credit hd hq he hx hc
  exact ⟨_, opticalFrameReceive_of_up ho hk hs (hd ▸ hp) hn hu, hedge.mem, hedge.threads, hrest⟩

/-! ## Frames that wait for a slot (R435, R438) -/

/-- A transmission keeps every part of a die's record but the end of its last transmission. -/
theorem transmit_keeps {γ : Type} (q : ODie → γ) (hq : ∀ o n, q { o with busy := n } = q o) {s u : State} {p beats : Nat}
    (h : s.transmit p beats = some u) (k : Nat) : q (u.odie k) = q (s.odie k) := by
  obtain ⟨g, n, rfl⟩ := transmit_eq h
  exact odie_modOdie_keeps q s g k (hq · n)

theorem forwardRelays_single {s u : State} {g : Frame} (k : Nat) (h : s.transmit g.dst g.beats = some u) :
    s.forwardRelays k [g] =
      u.modOdie k fun o => { o with relay := o.relay.erase g, relayB := o.relayB - (g.beats - 1) } := by
  simp only [State.forwardRelays, h]

/-- R435. A held bulk frame that can be transmitted goes on, and its room in the relay buffer is given back. -/
theorem relayForward_spec {s : State} {k : Nat} {g : Frame} (ho : s.hasOptical = true) (hk : k < 16)
    (hb : (s.odie k).bulk = []) (hr : (s.odie k).relay = [g]) (ht : ∃ u, s.transmit g.dst g.beats = some u) :
    ∃ t, exec (.relayForward k) s = .next t ∧ t.mem = s.mem ∧ t.threads = s.threads ∧ (t.odie k).relay = [] ∧
      (t.odie k).relayB = (s.odie k).relayB - (g.beats - 1) := by
  obtain ⟨u, hu⟩ := ht
  have hrelay : (u.odie k).relay = [g] := (transmit_keeps ODie.relay (fun _ _ => rfl) hu k).trans hr
  have hbulk : (u.odie k).bulk = [] := (transmit_keeps ODie.bulk (fun _ _ => rfl) hu k).trans hb
  have hroom : (u.odie k).relayB = (s.odie k).relayB := transmit_keeps ODie.relayB (fun _ _ => rfl) hu k
  have hexec : exec (.relayForward k) s = .next (s.forwardRelays k [g]) := by
    show execRelayForward k s = _
    rw [execRelayForward, eventIf_pos (by simp [ho, hk]), hr, forwardRelays_single k hu]
    simp [hbulk, hrelay, State.drainBulk]
  rw [forwardRelays_single k hu] at hexec
  exact ⟨_, hexec, (transmit_edgeOnly hu).mem, (transmit_edgeOnly hu).threads, by simp [hrelay], by simp [hroom]⟩

/-- R438. A frame that came back NOT_RESIDENT is to be sent first once a slot reaches its panel. -/
theorem notResidentResend_spec {s : State} {k : Nat} {g : Frame} (ho : s.hasOptical = true) (hk : k < 16)
    (hn : (s.odie k).notRes = [g]) (hg : s.groups s.cal.slot g.dst ≠ []) :
    ∃ t, exec (.notResidentResend k) s = .next t ∧ t.mem = s.mem ∧ t.threads = s.threads ∧ (t.odie k).notRes = [] ∧
      (t.odie k).egress = g :: (s.odie k).egress ∧ (t.odie k).relayB = (s.odie k).relayB - (g.beats - 1) := by
  have hexec : exec (.notResidentResend k) s = .next (s.modOdie k fun o =>
      { o with notRes := o.notRes.filter fun f => !(s.groups s.cal.slot f.dst != [])
               relayB := o.relayB - (g.beats - 1), egress := g :: o.egress }) := by
    show execNotResidentResend k s = _
    rw [execNotResidentResend, eventIf_pos (by simp [ho, hk])]
    simp [hn, hg]
  exact ⟨_, hexec, rfl, rfl, by simp [hn, hg], by simp, by simp⟩

end Sys2Proof.Machine
end

section
/-! SUPPORT. Gang slices: the cores of a gang wait and run again, gates open and slices are aborted; with it the events of
the optical edge are settled. -/

namespace Sys2Proof.Machine

/-! ## Cores and functions: parts that a change keeps -/

theorem core_modCore_keeps {γ : Type} (p : Core → γ) (s : State) (c e : Nat) {f : Core → Core}
    (h : ∀ k, p (f k) = p k) : p ((s.modCore c f).core e) = p (s.core e) := by
  by_cases he : e = c
  · rw [he, core_modCore_same, h]
  · rw [core_modCore_other s f he]

theorem fn_modFn_keeps {γ : Type} (p : Func → γ) (s : State) (f e : Nat) {g : Func → Func}
    (h : ∀ k, p (g k) = p k) : p ((s.modFn f g).fn e) = p (s.fn e) := by
  by_cases he : e = f
  · rw [he, fn_modFn_same, h]
  · rw [fn_modFn_other s g he]

theorem quadsOf_congr {s t : State} (h : t.quads = s.quads) (f : Nat) : t.quadsOf f = s.quadsOf f := by
  rw [State.quadsOf, h, State.quadsOf]

/-! ## Events to a function and to a lease (R111, R112, R481): no core changes, and no function but for its queue -/

@[simp] theorem offerInterrupt_core (s : State) (t c : Nat) : (s.offerInterrupt t).core c = s.core c := by
  unfold State.offerInterrupt
  split
  · exact dueOnce_core ..
  · rfl

@[simp] theorem offerInterrupt_fn (s : State) (t f : Nat) : (s.offerInterrupt t).fn f = s.fn f := by
  unfold State.offerInterrupt
  split
  · exact dueOnce_fn ..
  · rfl

@[simp] theorem queueEvent_core (s : State) (t : Nat) (e : Event) (c : Nat) : (s.queueEvent t e).core c = s.core c := by
  simp only [State.queueEvent]
  split <;> simp

@[simp] theorem queueEvent_fn (s : State) (t : Nat) (e : Event) (f : Nat) : (s.queueEvent t e).fn f = s.fn f := by
  simp only [State.queueEvent]
  split <;> simp

@[simp] theorem fnEvent_core (s : State) (f : Nat) (e : Event) (c : Nat) : (s.fnEvent f e).core c = s.core c := by
  unfold State.fnEvent
  split
  · exact queueEvent_core ..
  · split <;> rfl

/-- An event changes of a function only its queue and its count of dropped events. -/
theorem fnEvent_keeps {γ : Type} (p : Func → γ) (hq : ∀ k l, p { k with evqueue := l } = p k)
    (hd : ∀ k n, p { k with evdrop := n } = p k) (s : State) (f : Nat) (e : Event) (g : Nat) :
    p ((s.fnEvent f e).fn g) = p (s.fn g) := by
  unfold State.fnEvent
  split
  · rw [queueEvent_fn]
  · split
    · exact fn_modFn_keeps p s f g fun k => hq k _
    · exact fn_modFn_keeps p s f g fun k => hd k _

@[simp] theorem leaseEvent_core (s : State) (l : Nat) (e : Event) (c : Nat) : (s.leaseEvent l e).core c = s.core c := by
  simp only [State.leaseEvent]
  split
  · exact fnEvent_core ..
  · split <;> rfl

theorem leaseEvent_keeps {γ : Type} (p : Func → γ) (hq : ∀ k l, p { k with evqueue := l } = p k)
    (hd : ∀ k n, p { k with evdrop := n } = p k) (s : State) (l : Nat) (e : Event) (g : Nat) :
    p ((s.leaseEvent l e).fn g) = p (s.fn g) := by
  simp only [State.leaseEvent]
  split
  · exact fnEvent_keeps p hq hd ..
  · split <;> rfl

/-! ## A running matrix operation that is held (R245): its core keeps whether it waits for its gang -/

@[simp] theorem watchHit_cores (s : State) (a n : Nat) : (s.watchHit a n).cores = s.cores := by
  simp only [State.watchHit]
  split
  · rfl
  · refine foldl_keeps State.cores ?_ _ _
    exact fun _ _ => rfl

@[simp] theorem putAcc_core (s : State) (a : Nat) (bs : List Byte) (c : Nat) : (s.putAcc a bs).core c = s.core c := by
  simp only [State.core, State.putAcc, watchHit_cores]
  split <;> rfl

@[simp] theorem raiseFor_core (s : State) (m : MatOp) (f : Flags) (c : Nat) : (s.raiseFor m f).core c = s.core c := by
  unfold State.raiseFor State.raise
  split
  · rfl
  · split <;> rfl

theorem spill_ganged (s : State) (c : Nat) (m : MatOp) (cause tile : Nat) (acce : Bool) (e : Nat) :
    ((s.spill c m cause tile acce).core e).ganged = (s.core e).ganged := by
  simp only [State.spill]
  refine Eq.trans (core_modCore_keeps Core.ganged _ c e ?_) ?_
  · exact fun _ => rfl
  · split <;> simp

theorem holdMat_ganged (s : State) (c cause e : Nat) : ((s.holdMat c cause).core e).ganged = (s.core e).ganged := by
  unfold State.holdMat
  split
  · split
    · rfl
    · rw [dueOnce_core]
      refine Eq.trans (core_modCore_keeps Core.ganged _ c e ?_) ?_
      · exact fun _ => rfl
      · split
        · rw [spill_ganged, raiseFor_core]
        · exact core_modCore_keeps Core.ganged _ c e fun _ => rfl
  · rfl

@[simp] theorem emptyLatches_core (s : State) (c e : Nat) : (s.emptyLatches c).core e = s.core e := by
  refine foldl_keeps (fun t => t.core e) (fun t i => ?_) _ _
  split <;> rfl

/-! ## The cores of a gang wait and run again (R101, R438, R461) -/

/-- The cores of quads, in order. -/
def quadCores (qs : List Nat) : List Nat := qs.flatMap fun q => (List.range 4).map (coreOfQuad q)

theorem mem_quadCores {qs : List Nat} {q i : Nat} (hq : q ∈ qs) (hi : i < 4) : coreOfQuad q i ∈ quadCores qs :=
  List.mem_flatMap.mpr ⟨q, hq, List.mem_map_of_mem (List.mem_range.mpr hi)⟩

/-- Updates of core after core that set GANG there and leave it elsewhere set it at every core. -/
theorem foldl_ganged {b : Bool} {f : State → Nat → State} (same : ∀ s c, ((f s c).core c).ganged = b)
    (other : ∀ s c e, e ≠ c → ((f s c).core e).ganged = (s.core e).ganged) (cs : List Nat) (s : State) :
    ∀ c ∈ cs, ((cs.foldl f s).core c).ganged = b :=
  foldl_establishes (good := fun c t => (t.core c).ganged = b) same (fun t x y h => by
    by_cases hx : x = y
    · exact hx ▸ same t x
    · exact (other t y x hx).trans h) cs s

theorem gangHold_eq (s : State) (f : Nat) : s.gangHold f = (quadCores (s.quadsOf f)).foldl (fun s c =>
    ((s.modCore c fun k => { k with ganged := true }).holdMat c 5).emptyLatches c) s := by
  simp only [State.gangHold, quadCores, List.foldl_flatMap, List.foldl_map]

theorem gangHold_ganged {s : State} {f q i : Nat} (hq : q ∈ s.quadsOf f) (hi : i < 4) :
    ((s.gangHold f).core (coreOfQuad q i)).ganged = true := by
  rw [gangHold_eq]
  refine foldl_ganged (fun t c => ?_) (fun t c e he => ?_) _ s _ (mem_quadCores hq hi)
  · rw [emptyLatches_core, holdMat_ganged, core_modCore_same]
  · rw [emptyLatches_core, holdMat_ganged, core_modCore_other _ _ he]

theorem gangFree_eq (s : State) (f : Nat) : s.gangFree f = (quadCores (s.quadsOf f)).foldl (fun s c =>
    (s.modCore c fun k => { k with ganged := false }).stirCore c) s := by
  simp only [State.gangFree, quadCores, List.foldl_flatMap, List.foldl_map]

theorem gangFree_ganged {s : State} {f q i : Nat} (hq : q ∈ s.quadsOf f) (hi : i < 4) :
    ((s.gangFree f).core (coreOfQuad q i)).ganged = false := by
  rw [gangFree_eq]
  refine foldl_ganged (fun t c => ?_) (fun t c e he => ?_) _ s _ (mem_quadCores hq hi)
  · rw [(stirCore_edgeOnly ..).core, core_modCore_same]
  · rw [(stirCore_edgeOnly ..).core, core_modCore_other _ _ he]

@[simp] theorem gangFree_mem (s : State) (f : Nat) : (s.gangFree f).mem = s.mem := by
  rw [gangFree_eq]
  refine foldl_keeps State.mem (fun t c => ?_) _ _
  exact (stirCore_edgeOnly ..).mem.trans (modCore_mem ..)

/-! ## Gang slices (R438, R439) -/

theorem slicing_of_active {k : Func} (hg : k.isGang = true) (hs : k.st = .active) (hl : k.gateLate = false) :
    k.slicing = true := by
  rw [Func.slicing, hg, hs, hl]
  rfl

/-- With no rival to leave and its contexts in place, a slice only begins. -/
theorem beginSlice_of_active {s : State} {f : Nat} (g : Nat) (hs : (s.fn f).st = .active) (hr : s.rivals f = []) :
    s.beginSlice f g = ((s.modFn f fun k =>
      { k with slice := (k.slice + 1) % 65536, sliceG := g, notices := [], gateOpen := false
               gateLate := false }).dueOnce (.gateOpen f)).dueOnce (.gangSliceAbort f) := by
  simp [State.beginSlice, hr, hs]

/-- R438. At its boundary a gang's slice begins, with its gate shut and no notice heard. -/
theorem gangSliceBoundary_spec {s : State} {f g : Nat} (hf : f < 512) (hg : (s.fn f).isGang = true)
    (hs : (s.fn f).st = .active) (hc : g ≤ s.cycle) (hr : s.rivals f = []) :
    ∃ t, exec (.gangSliceBoundary f g) s = .next t ∧ t.mem = s.mem ∧ .gateOpen f ∈ t.agenda ∧
      .gangSliceAbort f ∈ t.agenda ∧ t.fn f = { s.fn f with
        slice := ((s.fn f).slice + 1) % 65536, sliceG := g, notices := [], gateOpen := false, gateLate := false } := by
  have hexec : exec (.gangSliceBoundary f g) s = .next (s.beginSlice f g) := by
    show execGangSliceBoundary f g s = _
    rw [execGangSliceBoundary, eventIf_pos (by simp [hf])]
    simp [hg, hs, Nat.not_lt.mpr hc]
  rw [beginSlice_of_active g hs hr] at hexec
  exact ⟨_, hexec, by simp, by simp [mem_dueOnce_agenda], by simp [mem_dueOnce_agenda], by simp⟩

/-- R438. Within the tolerance, with its contexts in place, a gang's gate opens and its cores run. -/
theorem gateOpen_spec {s : State} {f : Nat} (hf : f < 512) (hg : (s.fn f).isGang = true) (hs : (s.fn f).st = .active)
    (hl : (s.fn f).gateLate = false) (ho : (s.fn f).gateOpen = false)
    (hc : s.cycle ≤ (s.fn f).sliceG + 1500 * (s.fn f).gangTol) (hr : s.rivals f = [])
    (hb : s.busyOrder false f = false) :
    ∃ t, exec (.gateOpen f) s = .next t ∧ t.mem = s.mem ∧ (t.fn f).gateOpen = true ∧
      ∀ q i, q ∈ s.quadsOf f → i < 4 → (t.core (coreOfQuad q i)).ganged = false := by
  have hexec : exec (.gateOpen f) s = .next ((s.gangPanels f).foldl
      (fun t p => t.sendFrame p f (.gate f (s.fn f).slice) 2)
      ((s.gangFree f).modFn f fun k => { k with gateOpen := true })) := by
    show execGateOpen f s = _
    rw [execGateOpen, eventIf_pos (by simp [hf])]
    simp [slicing_of_active hg hs hl, ho, Nat.not_lt.mpr hc, hs, hr, hb]
  have sent := State.EdgeOnly.foldl (fun t p => .sendFrame t p f (.gate f (s.fn f).slice) 2) (s.gangPanels f)
    ((s.gangFree f).modFn f fun k => { k with gateOpen := true })
  refine ⟨_, hexec, ?_, ?_, fun q i hq hi => ?_⟩
  · rw [sent.mem, modFn_mem, gangFree_mem]
  · rw [sent.fn, fn_modFn_same]
  · rw [sent.core, modFn_core, gangFree_ganged hq hi]

theorem discardFrame_quads (s : State) (g : Frame) : (s.discardFrame g).quads = s.quads := by
  unfold State.discardFrame
  split <;> rfl

/-- An aborted slice leaves its function late with its gate shut. -/
theorem abortSlice_gate (s : State) (f : Nat) :
    ((s.abortSlice f).fn f).gateLate = true ∧ ((s.abortSlice f).fn f).gateOpen = false := by
  simp only [State.abortSlice, due_fn]
  exact ⟨(leaseEvent_keeps Func.gateLate (fun _ _ => rfl) (fun _ _ => rfl) _ _ _ _).trans (by rw [fn_modFn_same]),
    (leaseEvent_keeps Func.gateOpen (fun _ _ => rfl) (fun _ _ => rfl) _ _ _ _).trans (by rw [fn_modFn_same])⟩

theorem abortSlice_ganged {s : State} {f q i : Nat} (hq : q ∈ s.quadsOf f) (hi : i < 4) :
    ((s.abortSlice f).core (coreOfQuad q i)).ganged = true := by
  simp only [State.abortSlice, due_core, leaseEvent_core, modFn_core]
  refine gangHold_ganged ?_ hi
  rw [quadsOf_congr (s := s)]
  · exact hq
  · refine Eq.trans (foldl_keeps State.quads ?_ _ _) (foldl_keeps State.quads discardFrame_quads _ _)
    exact fun _ _ => rfl

/-- R439. Past the tolerance a slice whose gate is shut is aborted, and the cores of its gang wait. -/
theorem gangSliceAbort_spec {s : State} {f : Nat} (hf : f < 512) (hg : (s.fn f).isGang = true)
    (hs : (s.fn f).st = .active) (hl : (s.fn f).gateLate = false) (ho : (s.fn f).gateOpen = false)
    (hc : (s.fn f).sliceG + 1500 * (s.fn f).gangTol < s.cycle) :
    ∃ t, exec (.gangSliceAbort f) s = .next t ∧ (t.fn f).gateLate = true ∧ (t.fn f).gateOpen = false ∧
      ∀ q i, q ∈ s.quadsOf f → i < 4 → (t.core (coreOfQuad q i)).ganged = true := by
  have hexec : exec (.gangSliceAbort f) s = .next ((s.gangPanels f).foldl
      (fun t p => t.sendFrame p f (.abort f (s.fn f).slice) 2) (s.abortSlice f)) := by
    show execGangSliceAbort f s = _
    rw [execGangSliceAbort, eventIf_pos (by simp [hf])]
    simp [slicing_of_active hg hs hl, ho, hc]
  have sent := State.EdgeOnly.foldl (fun t p => .sendFrame t p f (.abort f (s.fn f).slice) 2) (s.gangPanels f)
    (s.abortSlice f)
  obtain ⟨hlate, hshut⟩ := abortSlice_gate s f
  refine ⟨_, hexec, ?_, ?_, fun q i hq hi => ?_⟩
  · rw [sent.fn, hlate]
  · rw [sent.fn, hshut]
  · rw [sent.core, abortSlice_ganged hq hi]

theorem mem_keyAdd {l : List Nat} {k j : Nat} : j ∈ keyAdd l k ↔ j = k ∨ j ∈ l := by
  induction l with
  | nil => simp [keyAdd]
  | cons x l ih =>
    unfold keyAdd
    split
    · simp only [List.mem_cons, ih]
      tauto
    · split
      next h => simp [h]
      next => simp

/-- R438. A gate notice is noted beside those heard before. -/
theorem gateNotice_spec {s : State} {f p : Nat} (hf : f < 512) (hp : p < 128) :
    ∃ t, exec (.gateNotice f p) s = .next t ∧ t.mem = s.mem ∧ t.threads = s.threads ∧
      p ∈ (t.fn f).notices ∧ ∀ j ∈ (s.fn f).notices, j ∈ (t.fn f).notices :=
  ⟨_, eventIf_pos (by simp [hf, hp]) _, rfl, rfl, by simp [mem_keyAdd], fun j hj => by simp [mem_keyAdd, hj]⟩

/-! ## The statement -/

/-- Settles O56: the calendar and every event of the optical edge and of gang slices by its own lemma. What sending leaves
as it was is said once (`State.EdgeOnly`), and so is what a fold over the cores of a gang brings about (`foldl_ganged`). -/
theorem opticalEvents : Obligations.OpticalEvents := by
  unfold Obligations.OpticalEvents
  rintro s f k _ _ hf rfl hk rfl
  refine ⟨calendarSlotStart_of_absent, fun ho => ⟨calendarSlotStart_spec ho, fun _ => calendarReplace_waits ho,
    fun _ => opticalFrameRetry_spec ho hk, portGroupDown_spec ho hk, ?_, fun _ => relayForward_spec ho hk,
    fun _ => notResidentResend_spec ho hk⟩, fun hg hs => ⟨fun _ hc hr => gangSliceBoundary_spec hf hg hs hc hr,
    gateOpen_spec hf hg hs, gangSliceAbort_spec hf hg hs⟩, fun _ => gateNotice_spec hf⟩
  intro g n d m hsrc hdst hp hne hup hseq hcargo hearly
  constructor
  · intro hnext _
    exact opticalFrameReceive_credit ho hk hsrc hdst hp hne hup hseq hcargo hearly hnext
  · intro hbehind
    rw [opticalFrameReceive_of_up ho hk hsrc (hdst ▸ hp) hne hup, receiveFrame_behind hdst hseq hbehind]

end Sys2Proof.Machine
end

section
/-! SUPPORT. What the parts of a state read as where nothing is listed; with it the state after reset is settled. -/

namespace Sys2Proof.Machine

/-! ## Readings where nothing is listed -/

theorem memOk_of_mem_nil {s : State} (h : s.mem = []) : s.memOk := by
  unfold State.memOk
  rw [h, Memory.wf]

theorem isFull_of_full_nil {s : State} (h : s.full = []) (a : Nat) : s.isFull a = false := by
  rw [State.isFull, h, List.contains_nil]

theorem poisoned_of_poison_nil {s : State} (h : s.poison = []) (a n : Nat) : s.poisoned a n = false := by
  simp [State.poisoned, h]

theorem thr_of_threads_nil {s : State} (h : s.threads = []) (t : Nat) : s.thr t = {} := by
  rw [State.thr, h, smGet]

/-! ## The statement -/

/-- R63. OUTST, MSGPAY, DATAPAY and BARCTX of NETCAP have reset values; OPTPAY is set at boot. -/
theorem reset_netCap_fields :
    State.reset.netCap.extractLsb' 32 8 = 1 ∧ State.reset.netCap.extractLsb' 16 8 = 16 ∧
      State.reset.netCap.extractLsb' 8 8 = 64 ∧ State.reset.netCap.extractLsb' 0 8 = 64 := by
  decide

/-- R168, and for HBM log entry 2. At reset every word is zero, empty and sound: none is listed as anything else. -/
theorem reset_word (a : Nat) :
    memGet State.reset.mem a = 0 ∧ State.reset.isFull a = false ∧ State.reset.poisoned a 8 = false :=
  ⟨rfl, isFull_of_full_nil rfl a, poisoned_of_poison_nil rfl a 8⟩

/-- R38, R90. At reset every slot has the record of a thread that never ran. -/
theorem reset_thr (t : Nat) : State.reset.thr t = {} := thr_of_threads_nil rfl t

/-- Settles O6: the state after reset lists no memory, full word, poison or thread, so each reads as its default; the
agenda, the link's state and the fields of NETCAP are the values it is given. -/
theorem reset : Obligations.Reset := by
  unfold Obligations.Reset
  obtain ⟨houtst, hmsgpay, hdatapay, hbarctx⟩ := reset_netCap_fields
  refine ⟨memOk_of_mem_nil rfl, rfl, rfl, houtst, hmsgpay, hdatapay, hbarctx, reset_word, fun t => ?_⟩
  rw [reset_thr]
  exact ⟨rfl, rfl⟩

end Sys2Proof.Machine
end

section
/-! SUPPORT. The round trip of the encoder and the decoder over all rows, and with it words that the spec writes out. -/

namespace Sys2Proof.Laws.RoundTrip

/-- Every row of the opcode table satisfies its round trip; a row without a word is an event, whose encoding is 0. -/
theorem statement_holds (i : Instr) : Statement i := by
  cases i with
  | vdadd => exact vdadd _ _ _ _ _ _
  | vdsub => exact vdsub _ _ _ _ _ _
  | vdmul => exact vdmul _ _ _ _ _ _
  | vdfma => exact vdfma _ _ _ _ _ _
  | vdmin => exact vdmin _ _ _ _ _ _
  | vdmax => exact vdmax _ _ _ _ _ _
  | vdwid => exact vdwid _ _ _ _ _ _
  | vdnar => exact vdnar _ _ _ _ _ _
  | ld => exact ld _ _ _ _
  | st => exact st _ _ _ _
  | ldaWord => exact ldaWord _ _ _ _
  | lda => exact lda _ _ _ _
  | lde => exact lde _ _ _
  | ldf => exact ldf _ _ _
  | feprobe => exact feprobe _ _ _
  | stlWord => exact stlWord _ _ _ _
  | stl => exact stl _ _ _ _
  | stf => exact stf _ _ _
  | feclr => exact feclr _ _
  | amoadd => exact amoadd _ _ _ _ _
  | amoand => exact amoand _ _ _ _ _
  | amoor => exact amoor _ _ _ _ _
  | amoxor => exact amoxor _ _ _ _ _
  | amomin => exact amomin _ _ _ _ _
  | amomax => exact amomax _ _ _ _ _
  | amoswp => exact amoswp _ _ _ _ _
  | cas => exact cas _ _ _ _ _
  | faddf => exact faddf _ _ _ _
  | fenceAcq => exact fenceAcq _
  | fenceRel => exact fenceRel _
  | fenceFull => exact fenceFull _
  | segr => exact segr _ _ _
  | segw => exact segw _ _ _
  | vadd => exact vadd _ _ _ _ _ _ _ _
  | vsub => exact vsub _ _ _ _ _ _ _ _
  | vmul => exact vmul _ _ _ _ _ _ _ _
  | vfma => exact vfma _ _ _ _ _ _ _ _
  | vmin => exact vmin _ _ _ _ _ _ _ _
  | vmax => exact vmax _ _ _ _ _ _ _ _
  | vamin => exact vamin _ _ _ _ _ _ _ _
  | vamax => exact vamax _ _ _ _ _ _ _ _
  | vand => exact vand _ _ _ _ _ _ _ _
  | vor => exact vor _ _ _ _ _ _ _ _
  | vxor => exact vxor _ _ _ _ _ _ _ _
  | vshl => exact vshl _ _ _ _ _ _ _ _
  | vshr => exact vshr _ _ _ _ _ _ _ _
  | vsha => exact vsha _ _ _ _ _ _ _ _
  | vcmp => exact vcmp _ _ _ _ _ _ _ _ _
  | vsel => exact vsel _ _ _ _ _
  | vld => exact vld _ _ _ _ _
  | vst => exact vst _ _ _ _ _
  | vldx => exact vldx _ _ _ _ _ _
  | vstx => exact vstx _ _ _ _ _ _
  | vcvt => exact vcvt _ _ _ _ _ _ _
  | vqnt => exact vqnt _ _ _ _ _
  | vdqnt => exact vdqnt _ _ _ _ _
  | vqsplit => exact vqsplit _ _ _ _
  | vshup => exact vshup _ _ _ _ _
  | vshdn => exact vshdn _ _ _ _ _
  | vrot => exact vrot _ _ _ _
  | vperm => exact vperm _ _ _ _ _ _
  | vbcast => exact vbcast _ _ _
  | vext => exact vext _ _ _ _ _
  | vins => exact vins _ _ _ _
  | vred => exact vred _ _ _ _ _ _ _
  | vscan => exact vscan _ _ _ _ _ _ _
  | vdot => exact vdot _ _ _ _ _ _ _
  | vexp2 => exact vexp2 _ _ _ _
  | vlog2 => exact vlog2 _ _ _ _
  | vrcp => exact vrcp _ _ _ _
  | vrsq => exact vrsq _ _ _ _
  | vmand => exact vmand _ _ _
  | vmor => exact vmor _ _ _
  | vpopc => exact vpopc _ _
  | tld => exact tld _ _ _
  | tldRing => exact tldRing _ _ _
  | tst => exact tst _ _ _
  | tzero => exact tzero _
  | tmov => exact tmov _ _
  | ttrans => exact ttrans _ _
  | tmma => exact tmma _ _
  | tmmas => exact tmmas _ _
  | tmmasp => exact tmmasp _ _
  | taccr => exact taccr _ _
  | ringdef => exact ringdef _ _
  | twait => exact twait _ _ _
  | tfree => exact tfree _ _
  | tadv => exact tadv _ _
  | tsend => exact tsend _ _ _
  | mrect => exact mrect _
  | mstat => exact mstat _
  | sdesc => exact sdesc _ _
  | sbind => exact sbind _ _ _
  | sunbind => exact sunbind _
  | spos => exact spos _ _
  | sposSet => exact sposSet _ _ _
  | sskip => exact sskip _ _
  | sflush => exact sflush _
  | sstat => exact sstat _ _
  | copy => exact copy _ _
  | copyst => exact copyst _ _
  | waitgen => exact waitgen _ _ _
  | armgen => exact armgen _ _
  | addgen => exact addgen _ _ _
  | send => exact send _ _ _ _
  | sendi => exact sendi _ _ _ _
  | recv => exact recv _ _
  | recvt => exact recvt _ _ _
  | peek => exact peek _
  | jwait => exact jwait _ _
  | jread => exact jread _ _
  | fwdq => exact fwdq _ _
  | cdef => exact cdef _ _
  | cwatch => exact cwatch _ _ _
  | cwatchOff => exact cwatchOff _
  | cstart => exact cstart _
  | cstat => exact cstat _ _
  | cbw => exact cbw _ _
  | cabort => exact cabort _ _
  | barm => exact barm _ _
  | bara => exact bara _ _ _
  | barw => exact barw _ _ _
  | bart => exact bart _ _
  | bmask => exact bmask _ _
  | btime => exact btime _ _
  | asamp => exact asamp _ _
  | athr => exact athr _ _
  | ahist => exact ahist _ _
  | aclr => exact aclr _
  | astat => exact astat _ _
  | chkpt => exact chkpt _
  | ckreg => exact ckreg _ _ _
  | ebrd => exact ebrd _ _ _
  | ebclr => exact ebclr _ _ _
  | killt => exact killt _ _
  | add => exact add _ _ _
  | sub => exact sub _ _ _
  | mul => exact mul _ _ _
  | mulh => exact mulh _ _ _
  | mulhu => exact mulhu _ _ _
  | div => exact div _ _ _
  | divu => exact divu _ _ _
  | rem => exact rem _ _ _
  | remu => exact remu _ _ _
  | and => exact and _ _ _
  | or => exact or _ _ _
  | xor => exact xor _ _ _
  | andn => exact andn _ _ _
  | shl => exact shl _ _ _
  | shr => exact shr _ _ _
  | sha => exact sha _ _ _
  | rol => exact rol _ _ _
  | clz => exact clz _ _
  | ctz => exact ctz _ _
  | popc => exact popc _ _
  | min => exact min _ _ _
  | max => exact max _ _ _
  | minu => exact minu _ _ _
  | maxu => exact maxu _ _ _
  | slt => exact slt _ _ _
  | sltu => exact sltu _ _ _
  | seq => exact seq _ _ _
  | sel => exact sel _ _ _ _
  | addsc => exact addsc _ _ _ _
  | exts => exact exts _ _ _
  | extz => exact extz _ _ _
  | bext => exact bext _ _ _
  | bins => exact bins _ _ _
  | coreid => exact coreid _
  | cxy => exact cxy _ _ _
  | crel => exact crel _ _ _
  | addi => exact addi _ _ _
  | andi => exact andi _ _ _
  | ori => exact ori _ _ _
  | xori => exact xori _ _ _
  | slti => exact slti _ _ _
  | sltui => exact sltui _ _ _
  | shli => exact shli _ _ _
  | shri => exact shri _ _ _
  | shai => exact shai _ _ _
  | roli => exact roli _ _ _
  | lhi => exact lhi _ _ _
  | beq => exact beq _ _ _
  | bne => exact bne _ _ _
  | blt => exact blt _ _ _
  | bge => exact bge _ _ _
  | bltu => exact bltu _ _ _
  | bgeu => exact bgeu _ _ _
  | loop => exact loop _ _ _
  | j => exact j _
  | jal => exact jal _
  | jalr => exact jalr _ _ _
  | fadd => exact fadd _ _ _
  | fsub => exact fsub _ _ _
  | fmul => exact fmul _ _ _
  | fma => exact fma _ _ _ _
  | fdiv => exact fdiv _ _ _
  | fsqrt => exact fsqrt _ _
  | fmin => exact fmin _ _ _
  | fmax => exact fmax _ _ _
  | fcmp => exact fcmp _ _ _ _
  | fcvt => exact fcvt _ _ _ _
  | fclass => exact fclass _ _
  | fsgn => exact fsgn _ _ _ _
  | dadd => exact dadd _ _ _
  | dsub => exact dsub _ _ _
  | dmul => exact dmul _ _ _
  | dfma => exact dfma _ _ _ _
  | ddiv => exact ddiv _ _ _
  | dsqrt => exact dsqrt _ _
  | dmin => exact dmin _ _ _
  | dmax => exact dmax _ _ _
  | dcmp => exact dcmp _ _ _ _
  | dcvt => exact dcvt _ _ _ _
  | dclass => exact dclass _ _
  | dsgn => exact dsgn _ _ _ _
  | orcv => exact orcv _
  | xmac => exact xmac _ _
  | xrd => exact xrd _
  | csrr => exact csrr _ _
  | csrw => exact csrw _ _ _
  | csrs => exact csrs _ _ _
  | csrc => exact csrc _ _ _
  | trap => exact trap _ _
  | park => exact park _
  | tfork => exact tfork _ _ _
  | bsig => exact bsig _ _
  | pfx => exact pfx _ _ _ _ _ _
  | pfxTag => exact pfxTag _ _ _ _ _
  | rep => exact rep _ _ _
  | mbal => exact mbal _ _ _
  | muse => exact muse _ _
  | mqsetRate => exact mqsetRate _ _ _
  | mqsetCap => exact mqsetCap _ _ _
  | mqsetDeposit => exact mqsetDeposit _ _ _
  | mqsetLimrate => exact mqsetLimrate _ _ _
  | mqsetLimcap => exact mqsetLimcap _ _ _
  | mqsetUnl => exact mqsetUnl _ _ _
  | msplit => exact msplit _ _
  | msplitSet => exact msplitSet _ _
  | mfloor => exact mfloor _ _ _
  | mfloorSet => exact mfloorSet _ _ _
  | ocal => exact ocal _ _
  | onext => exact onext _ _
  | opol => exact opol _ _
  | opolSet => exact opolSet _ _
  | ostat => exact ostat _ _
  | dlaunch => exact dlaunch _ _ _
  | migrMove => exact migrMove _ _ _
  | migrHome => exact migrHome _ _ _
  | migrEvict => exact migrEvict _ _ _
  | migrResume => exact migrResume _ _ _
  | vfctlReadField => exact vfctlReadField _ _ _
  | vfctlWriteField => exact vfctlWriteField _ _ _
  | vfctlCreate => exact vfctlCreate _ _ _
  | vfctlDestroy => exact vfctlDestroy _ _ _
  | vfctlInval => exact vfctlInval _ _ _
  | vfctlWake => exact vfctlWake _ _ _
  | vfctlRefuse => exact vfctlRefuse _ _ _
  | rightsRead => exact rightsRead _ _ _
  | rightsGrant => exact rightsGrant _ _ _
  | rightsRevoke => exact rightsRevoke _ _ _
  | xacz => exact xacz
  | xret => exact xret
  | texit => exact texit
  | vshadow => exact vshadow
  | taccz => exact taccz
  | mcancel => exact mcancel
  | mcancelDrain => exact mcancelDrain
  | _ => exact fun h => absurd h Bool.false_ne_true

/-- The word of a well-formed instruction decodes to it, where its word is its own. -/
theorem decode_of_encode {w : Half} {i : Instr} (he : encode i = w) (h0 : w ≠ 0#32) (hw : i.wf = true)
    (hc : i.canon = i) : decode w = .ok i := by
  have hword : i.hasWord = true := by
    rw [Instr.hasWord, he]
    exact bne_iff_ne.mpr h0
  have h := statement_holds i hword hw
  rwa [he, hc] at h

/-- Settles O4: each row of the opcode table has its round trip. -/
theorem encodeDecode : Obligations.EncodeDecode := by
  unfold Obligations.EncodeDecode
  exact statement_holds

/-- Settles O3: each word is the encoding of its instruction, so the round trip gives what the decoder reads from it. -/
theorem decodeWords : Obligations.DecodeWords := by
  unfold Obligations.DecodeWords
  refine ⟨?_, ?_, ?_, ?_, ?_, ?_, ?_, ?_, ?_, ?_, ?_, ?_, ?_, ?_, ?_, ?_, ?_⟩
  all_goals exact decode_of_encode rfl (by decide) rfl rfl

end Sys2Proof.Laws.RoundTrip
end

section
/-! SUPPORT. What the decoder reads from a word has that very word: the decoder is a tree of tests of fields, and each of its
leaves takes every bit of the word from a test, from a field or from the major. -/

namespace Sys2Proof.Laws.Reading

/-- A word holds a field from bit `a` up. -/
def Holds (w : Half) (a : Nat) {n : Nat} (x : BitVec n) : Prop := w.extractLsb' a n = x

theorem holds_append {w : Half} {a n m : Nat} {x : BitVec n} {y : BitVec m} (hx : Holds w (a + m) x)
    (hy : Holds w a y) : Holds w a (x ++ y) := by
  unfold Holds at *
  rw [← hx, ← hy, BitVec.extractLsb'_append_extractLsb'_eq_extractLsb' rfl]

/-- What a part of the decoder answers for a word is an instruction whose word it is. -/
def Reads (w : Half) (o : Option Instr) : Prop := ∀ i, o = some i → encode i = w

theorem reads_none {w : Half} : Reads w none := fun _ h => nomatch h

theorem reads_some {w : Half} {i : Instr} (h : Holds w 0 (encode i)) : Reads w (some i) := by
  rintro _ ⟨⟩
  exact h.symm.trans BitVec.extractLsb'_eq_self

theorem reads_ite {w : Half} {c : Prop} [Decidable c] {a b : Option Instr} (ha : c → Reads w a) (hb : Reads w b) :
    Reads w (if c then a else b) := by
  split
  case isTrue h => exact ha h
  case isFalse => exact hb

/-- What a part of the decoder reads from the words of a major has that very word. -/
def ReadsMajor (m : BitVec 6) (raw : Half → Option Instr) : Prop :=
  ∀ w : Half, w.extractLsb' 26 6 = m → Reads w (raw w)

/-- The majors of the thread and the memory engine: scalar words, loads and stores, special registers, prefixes. -/
theorem threadMajors_read :
    ReadsMajor 1#6 raw01 ∧ ReadsMajor 2#6 raw02 ∧ ReadsMajor 3#6 raw03 ∧ ReadsMajor 4#6 raw04 ∧
    ReadsMajor 5#6 raw05 ∧ ReadsMajor 6#6 raw06 ∧ ReadsMajor 7#6 raw07 ∧ ReadsMajor 8#6 raw08 ∧
    ReadsMajor 9#6 raw09 ∧ ReadsMajor 10#6 raw0A ∧ ReadsMajor 12#6 raw0C ∧ ReadsMajor 13#6 raw0D ∧
    ReadsMajor 14#6 raw0E ∧ ReadsMajor 15#6 raw0F ∧ ReadsMajor 16#6 raw10 ∧ ReadsMajor 17#6 raw11 ∧
    ReadsMajor 18#6 raw12 ∧ ReadsMajor 19#6 raw13 ∧ ReadsMajor 20#6 raw14 ∧ ReadsMajor 21#6 raw15 ∧
    ReadsMajor 22#6 raw16 ∧ ReadsMajor 23#6 raw17 ∧ ReadsMajor 24#6 raw18 ∧ ReadsMajor 25#6 raw19 ∧
    ReadsMajor 26#6 raw1A ∧ ReadsMajor 27#6 raw1B ∧ ReadsMajor 28#6 raw1C ∧ ReadsMajor 29#6 raw1D ∧
    ReadsMajor 30#6 raw1E ∧ ReadsMajor 31#6 raw1F := by
  unfold ReadsMajor raw01 raw02 raw03 raw04 raw05 raw06 raw07 raw08 raw09 raw0A raw0C raw0D raw0E raw0F raw10
    raw11 raw12 raw13 raw14 raw15 raw16 raw17 raw18 raw19 raw1A raw1B raw1C raw1D raw1E raw1F
  repeat' apply And.intro
  all_goals intro w hm
  all_goals repeat' refine reads_ite (fun _ => ?_) ?_
  any_goals exact reads_none
  all_goals refine reads_some ?_
  all_goals repeat' apply holds_append
  all_goals simp only [Holds, *, Nat.reduceAdd]

/-- The majors of the vector, matrix, stream and message engines. -/
theorem unitMajors_read :
    ReadsMajor 32#6 raw20 ∧ ReadsMajor 33#6 raw21 ∧ ReadsMajor 34#6 raw22 ∧ ReadsMajor 35#6 raw23 ∧
    ReadsMajor 36#6 raw24 ∧ ReadsMajor 37#6 raw25 ∧ ReadsMajor 38#6 raw26 := by
  unfold ReadsMajor raw20 raw21 raw22 raw23 raw24 raw25 raw26
  repeat' apply And.intro
  all_goals intro w hm
  all_goals repeat' refine reads_ite (fun _ => ?_) ?_
  any_goals exact reads_none
  all_goals refine reads_some ?_
  all_goals repeat' apply holds_append
  all_goals simp only [Holds, *, Nat.reduceAdd]

/-- The majors of the collective engine and after it, and EXT.W. -/
theorem panelMajors_read :
    ReadsMajor 39#6 raw27 ∧ ReadsMajor 40#6 raw28 ∧ ReadsMajor 41#6 raw29 ∧ ReadsMajor 42#6 raw2A ∧
    ReadsMajor 43#6 raw2B ∧ ReadsMajor 44#6 raw2C ∧ ReadsMajor 45#6 raw2D ∧ ReadsMajor 56#6 raw38 := by
  unfold ReadsMajor raw27 raw28 raw29 raw2A raw2B raw2C raw2D raw38
  repeat' apply And.intro
  all_goals intro w hm
  all_goals repeat' refine reads_ite (fun _ => ?_) ?_
  any_goals exact reads_none
  all_goals refine reads_some ?_
  all_goals repeat' apply holds_append
  all_goals simp only [Holds, *, Nat.reduceAdd]

theorem rawWord_reads (w : Half) : Reads w (rawWord w) := by
  obtain ⟨h01, h02, h03, h04, h05, h06, h07, h08, h09, h0A, h0C, h0D, h0E, h0F, h10, h11, h12, h13, h14, h15,
    h16, h17, h18, h19, h1A, h1B, h1C, h1D, h1E, h1F⟩ :=
    threadMajors_read
  obtain ⟨h20, h21, h22, h23, h24, h25, h26⟩ := unitMajors_read
  obtain ⟨h27, h28, h29, h2A, h2B, h2C, h2D, h38⟩ := panelMajors_read
  unfold rawWord
  refine reads_ite (h01 w) <| reads_ite (h02 w) <| reads_ite (h03 w) <| reads_ite (h04 w) <|
    reads_ite (h05 w) <| reads_ite (h06 w) <| reads_ite (h07 w) <| reads_ite (h08 w) <| reads_ite (h09 w) <|
    reads_ite (h0A w) <| reads_ite (h0C w) <| reads_ite (h0D w) <| reads_ite (h0E w) <| reads_ite (h0F w) <|
    reads_ite (h10 w) <| reads_ite (h11 w) <| reads_ite (h12 w) <| reads_ite (h13 w) <| reads_ite (h14 w) <|
    reads_ite (h15 w) <| reads_ite (h16 w) <| reads_ite (h17 w) <| reads_ite (h18 w) <| reads_ite (h19 w) <|
    reads_ite (h1A w) <| reads_ite (h1B w) <| reads_ite (h1C w) <| reads_ite (h1D w) <| reads_ite (h1E w) <|
    reads_ite (h1F w) <| ?_
  refine reads_ite (h20 w) <| reads_ite (h21 w) <| reads_ite (h22 w) <| reads_ite (h23 w) <|
    reads_ite (h24 w) <| reads_ite (h25 w) <| reads_ite (h26 w) <| ?_
  refine reads_ite (h27 w) <| reads_ite (h28 w) <| reads_ite (h29 w) <| reads_ite (h2A w) <|
    reads_ite (h2B w) <| reads_ite (h2C w) <| reads_ite (h2D w) <| reads_ite (h38 w) <| reads_none

/-- R59. No instruction has the word 0. -/
theorem decode_zero : decode 0#32 = .error .major := rfl

theorem decode_eq_ok {w : Half} {i : Instr} (h : decode w = .ok i) : rawWord w = some i ∧ i.wf = true := by
  unfold decode at h
  split at h
  · cases h
  split at h
  · cases h
  split at h
  · cases h
  case h_2 _ _ j hj =>
    split at h
    case isTrue hw => cases h; exact ⟨hj, hw⟩
    case isFalse => cases h

/-- Settles O5: what the decoder reads passes its check of operands, and has the word that it is read from. -/
theorem decodedEncodes : Obligations.DecodedEncodes := by
  unfold Obligations.DecodedEncodes
  intro w i h
  obtain ⟨hraw, hwf⟩ := decode_eq_ok h
  have henc : encode i = w := rawWord_reads w i hraw
  refine ⟨hwf, ?_, henc⟩
  rw [Instr.hasWord, henc, bne_iff_ne]
  rintro rfl
  exact nomatch decode_zero.symm.trans h

end Sys2Proof.Laws.Reading
end

section
/-! SUPPORT. An issue with nothing before its word: fetch, signature, charge, execution (R61, R86). -/

namespace Sys2Proof.Machine

/-- A word of its own row is its row. -/
theorem selectRow_own {i : Instr} (s : State) (hm : ∀ x y z, i ≠ .migrMove x y z)
    (hv : ∀ x y z, i ≠ .vfctlReadField x y z) : selectRow i s = i := by
  unfold selectRow
  split
  · exact absurd rfl (hm _ _ _)
  · exact absurd rfl (hv _ _ _)
  · rfl

/-- A thread that is not one of a pair follows no other copy (R335). -/
theorem pairSync_single {s : State} {t : Nat} (h : (s.thr t).tsr.pair = false) : s.pairSync t = s := by
  simp [State.pairSync, h]

/-- Fetching ahead is an event; no thread changes. -/
@[simp] theorem ahead_me (s : State) (t : Nat) : (s.ahead t).me = s.me := by
  dsimp only [State.ahead]
  split
  · exact dueOnce_me ..
  · rfl

@[simp] theorem modMe_me (s : State) (f : Thread → Thread) : (s.modMe f).me = f s.me := by
  simp [State.modMe, State.me]

theorem runWord_decoded {s : State} {w : Half} {i : Instr} (h : decode w = .ok i) :
    s.runWord w = exec (selectRow i s) s := by
  rw [State.runWord, h]

/-- A word outside a capture and outside residue mode is noted, charged and run. -/
theorem issueWord_signed {s : State} {w : Half} {b : Option Block} (hs : s.me.sign w = some b)
    (hw : s.me.rep.want = 0) (ht : s.me.twoIssues w = false) :
    s.issueWord w =
      (((s.ahead s.cur).modMe fun th => { th with word := w, blkNext := b }).chargeIssue w).runWord w := by
  have ht' : ∀ th : Thread, th.tsr = s.me.tsr → th.twoIssues w = false := by
    intro th e
    rwa [Thread.twoIssues, e]
  rw [State.issueWord, hs]
  simp [hw, ht']

/-- An issue with nothing before its word fetches and issues it. -/
theorem issue_fetches {s s1 s2 : State} {t : Nat} {w : Half} (h1 : s1 = { s with cur := t })
    (hcap : (s1.core s1.here).capturing = false) (hagain : s1.me.op.again = false) (hhalf : s1.me.resHalf = false)
    (hfault : s1.me.repFault = none) (hquota : s1.mayAccept t = true)
    (hint : s1.mayInterrupt t = false) (hpair : s1.me.tsr.pair = false) (hret : s1.me.returns = false)
    (hfetch : s1.fetch t = .word s2 w) : s.issue t = s2.issueWord w := by
  have hcur : s1.cur = t := by rw [h1]
  have hme : s1.thr t = s1.me := by rw [State.me, hcur]
  have hready : s1.faultReady t = false := by simp [State.faultReady, hme, hfault]
  unfold State.issue
  rw [← h1, pairSync_single (by rwa [hme])]
  simp [hcap, hagain, hhalf, hready, hquota, hint, hret, hfetch]

/-- Settles O1: the step is the issue of the thread, which fetches the word, notes and charges it, and runs what it decodes
to. -/
theorem stepRunsDecodedInstruction : Obligations.StepRunsDecodedInstruction := by
  unfold Obligations.StepRunsDecodedInstruction
  intro s s1 s2 s3 t w b i hturn h1 hcap hagain hhalf hfault _ hquota hint hpair hret hfetch hsign hwant htwo hdec h3
  refine ⟨?_, selectRow_own s3⟩
  calc step s = (s.atTurn t).issue t := by rw [step, hturn]
    _ = s2.issueWord w :=
      issue_fetches h1 hcap hagain hhalf hfault hquota hint hpair hret hfetch
    _ = s3.runWord w := by rw [issueWord_signed hsign hwant htwo, h3]
    _ = exec (selectRow i s3) s3 := runWord_decoded hdec

end Sys2Proof.Machine
end

section
/-! SUPPORT. The checks of R61 that stop a word before its meaning: the level that a form needs, and a prefix that it does
not take. -/

namespace Sys2Proof.Machine

open Laws.RoundTrip (fieldAbove fieldWhole)

/-- The meaning of `i` is `run` of a form that has the word of `i`, of a major below `m`, that needs `level`, takes no
prefix and makes no check of its own. -/
structure RunsAs (i : Instr) (s : State) (m level : Nat) (f : Form) (body : State → Res) : Prop where
  exec : exec i s = run f body s
  word : f.word = encode i
  level : f.level = level
  noPrefix : f.pfx = none
  noCheck : f.early s = none
  major : majorNat f.word < m

/-- R61 step 6. -/
theorem run_privilege {f : Form} {body : State → Res} {s : State} (h : s.Alone) (hx : majorNat f.word < 0x38)
    (he : f.early s = none) (ho : majorNat f.word = 0x2B → s.hasOptical = true) (hl : s.level < f.level) :
    run f body s = .next (s.takeTrapAt s.cur (f.fault cPrivilege) s.me.pc false) := by
  have hopt : ¬(majorNat f.word = 0x2B && !s.hasOptical) = true := by simpa using ho
  have ha : attempt f body s = .trap s (f.fault cPrivilege) := by
    simp [attempt, hx.ne, he, hl, hopt]
  simp [run, h.single, ha, settle_trap]

/-- R61 step 7, R66. -/
theorem run_refusesPrefix {f : Form} {body : State → Res} {s : State} (h : s.Alone) (hx : majorNat f.word < 0x2B)
    (he : f.early s = none) (hl : f.level ≤ s.level) (hp : f.pfx = none) (hpp : s.me.tsr.pp = true) :
    run f body s = .next ((s.modMe fun th => { th with tsr := { th.tsr with pp := false } }).takeTrapAt s.cur
      { code := cPrefix, tval := f.word ++ (30#6 ++ s.me.pfxsave) } s.me.pc false) := by
  have hext : majorNat f.word ≠ 0x38 := by omega
  have ha : attempt f body s = .trap (s.modMe fun th => { th with tsr := { th.tsr with pp := false } })
      { code := cPrefix, tval := f.word ++ (30#6 ++ s.me.pfxsave) } := by
    simp [attempt, hext, he, hx.ne, Nat.not_lt.mpr hl, hp, hpp]
  simp [run, h.single, ha, settle_trap]

theorem runsAs_privileged {i : Instr} (s : State) (h : 0 < i.levelNeeded) :
    ∃ f body, RunsAs i s 0x38 i.levelNeeded f body := by
  unfold Instr.levelNeeded at h
  split at h
  case h_30 => exact absurd h (Nat.lt_irrefl 0)
  all_goals refine ⟨_, _, rfl, rfl, rfl, rfl, rfl, ?_⟩
  all_goals
    simp (disch := decide) only [majorNat, fieldAbove, fieldWhole, Nat.reduceSub]
    decide

/-- Settles O21: each of the forms is `run` at its level, where the check of the level comes before that of the prefix. -/
theorem privilegedForms : Obligations.PrivilegedForms := by
  unfold Obligations.PrivilegedForms
  intro s i h hl ho
  obtain ⟨f, body, hf⟩ := runsAs_privileged s (Nat.zero_lt_of_lt hl)
  rw [hf.exec, run_privilege h hf.major hf.noCheck (by rwa [hf.word]) (by rwa [hf.level]), Form.fault, hf.word]
  rfl

theorem runsAs_integer {i : Instr} {d : BitVec 5} (s : State) (h : i.isInteger d) :
    ∃ f body, RunsAs i s 0x20 0 f body := by
  rcases h with
    ⟨a, b, rfl | rfl | rfl | rfl | rfl | rfl | rfl | rfl | rfl | rfl | rfl | rfl | rfl | rfl | rfl | rfl | rfl | rfl |
      rfl | rfl | rfl | rfl | rfl | rfl | rfl | rfl | rfl | rfl⟩ |
    ⟨a, rfl | rfl | rfl⟩ | rfl | ⟨a, b, c, rfl⟩ | ⟨a, b, k, rfl⟩ | ⟨a, w, rfl | rfl⟩ |
    ⟨a, n, rfl | rfl | rfl | rfl | rfl | rfl | rfl⟩ | ⟨a, n, rfl | rfl | rfl | rfl⟩
  all_goals refine ⟨_, _, rfl, rfl, rfl, rfl, rfl, ?_⟩
  all_goals
    simp (disch := decide) only [majorNat, fieldAbove, fieldWhole, Nat.reduceSub]
    decide

/-- Settles O22: each of the forms is `run` without a prefix rule, which refuses every prefix. -/
theorem prefixRefused : Obligations.PrefixRefused := by
  unfold Obligations.PrefixRefused
  intro s i h hpp hi
  suffices hf : ∃ f body, RunsAs i s 0x20 0 f body by
    obtain ⟨f, body, hf⟩ := hf
    have hm := hf.major
    rw [hf.exec, run_refusesPrefix h (by omega) hf.noCheck (hf.level ▸ Nat.zero_le _) hf.noPrefix hpp, hf.word]
    rfl
  obtain ⟨d, hd⟩ | hi := hi
  · exact runsAs_integer s hd
  rcases hi with ⟨x, rfl | rfl⟩ | ⟨d, a, x, rfl⟩ | ⟨a, b, x, rfl⟩ | ⟨a, b, x, rfl | rfl | rfl | rfl | rfl | rfl⟩ |
    ⟨d, a, b, rfl | rfl⟩ | ⟨d, a, b, c, rfl | rfl⟩ | ⟨d, a, rfl⟩ | ⟨a, n, rfl⟩ | rfl | ⟨a, rfl⟩ | rfl | ⟨d, a, b, rfl⟩ |
    ⟨l, c, rfl⟩ | ⟨a, b, d, r, x, y, rfl⟩ | ⟨g, r, x, f, d, rfl⟩ | ⟨n, k, x, rfl⟩
  all_goals refine ⟨_, _, rfl, rfl, rfl, rfl, rfl, ?_⟩
  all_goals
    simp (disch := decide) only [majorNat, fieldAbove, fieldWhole, Nat.reduceSub]
    decide

end Sys2Proof.Machine
end

section
/-! SUPPORT. Threads between their issues, without the engines: what events queued for a thread or a function keep, the
writes of CSRs with effects of their own, fetched lines, the entry of replay faults, and the ends of kills and exits. -/

namespace Sys2Proof.Machine

/-! ## What the queueing of an event keeps -/

@[simp] theorem offerInterrupt_mem (s : State) (t : Nat) : (s.offerInterrupt t).mem = s.mem := by
  unfold State.offerInterrupt
  split
  · exact dueOnce_mem ..
  · rfl

@[simp] theorem offerInterrupt_thr (s : State) (t u : Nat) : (s.offerInterrupt t).thr u = s.thr u := by
  unfold State.offerInterrupt
  split
  · exact dueOnce_thr ..
  · rfl

/-- A part of every thread that a change keeps is kept of every thread. -/
theorem thr_modThr_keeps {γ : Type} (p : Thread → γ) (s : State) (t u : Nat) {f : Thread → Thread}
    (h : ∀ th, p (f th) = p th) : p ((s.modThr t f).thr u) = p (s.thr u) := by
  by_cases hu : u = t
  · rw [hu, thr_modThr_same, h]
  · rw [thr_modThr_other s f hu]

@[simp] theorem queueEvent_mem (s : State) (t : Nat) (e : Event) : (s.queueEvent t e).mem = s.mem := by
  simp only [State.queueEvent]
  split <;> simp

theorem queueEvent_keeps {γ : Type} (p : Thread → γ) (hf : ∀ th l, p { th with fifo := l } = p th)
    (ho : ∀ th b, p { th with uiovf := b } = p th) (s : State) (t : Nat) (e : Event) (u : Nat) :
    p ((s.queueEvent t e).thr u) = p (s.thr u) := by
  simp only [State.queueEvent]
  split
  · exact thr_modThr_keeps p s t u fun th => ho th true
  · rw [offerInterrupt_thr]
    exact thr_modThr_keeps p s t u fun th => hf th _

@[simp] theorem fnEvent_mem (s : State) (f : Nat) (e : Event) : (s.fnEvent f e).mem = s.mem := by
  unfold State.fnEvent
  split
  · exact queueEvent_mem ..
  · split <;> rfl

/-- An event to a function changes of a thread only its queue and its OVF bit. -/
theorem fnEvent_keeps_thr {γ : Type} (p : Thread → γ) (hf : ∀ th l, p { th with fifo := l } = p th)
    (ho : ∀ th b, p { th with uiovf := b } = p th) (s : State) (f : Nat) (e : Event) (u : Nat) :
    p ((s.fnEvent f e).thr u) = p (s.thr u) := by
  unfold State.fnEvent
  split
  · exact queueEvent_keeps p hf ho ..
  · split <;> rfl

/-! ## Writes of CSRs (R38, R95, R107, R112, R139) -/

/-- EVTHREAD holds V, the core and the slot of what is written to it. -/
theorem evthread_fields (w : Word) :
    BitVec.ofNat 64 (bit (w.getLsbD 63) <<< 63 + field w.toNat 19 0) = w &&& 0x80000000000FFFFF#64 := by
  have hm : 0x80000000000FFFFF#64 = 1#1 ++ (0#43 ++ BitVec.allOnes 20) := by decide
  have hf : field w.toNat 19 0 = w.toNat % 2 ^ 20 := rfl
  have hb : field w.toNat 19 0 < 2 ^ 63 := by rw [hf]; omega
  refine BitVec.eq_of_getLsbD_eq fun i hi => ?_
  rw [Nat.shiftLeft_eq, Nat.mul_comm, BitVec.getLsbD_ofNat, Nat.testBit_two_pow_mul_add _ hb, hf,
    Nat.testBit_mod_two_pow, hm, BitVec.getLsbD_and, BitVec.getLsbD_append, BitVec.getLsbD_append,
    BitVec.getLsbD_allOnes, BitVec.testBit_toNat]
  by_cases h1 : i < 63
  · by_cases h2 : i < 20 <;> simp [h1, h2, hi]
  · obtain rfl : i = 63 := by omega
    cases w.getLsbD 63 <;> decide

theorem evthreadWrite_spec {s : State} {u : Nat} (w : Word) (hu : validThread u = true)
    (hq : (s.fn (s.thr u).fn).evqueue = []) :
    ∃ t, exec (.evthreadWrite u w) s = .next t ∧ t.mem = s.mem ∧ t.threads = s.threads ∧
      (t.fn (s.thr u).fn).evthread = w &&& 0x80000000000FFFFF#64 := by
  refine ⟨_, eventIf_pos hu _, ?_⟩
  simp only [State.writeEvthread, hq, State.deliverAll, evthread_fields]
  exact ⟨rfl, rfl, by rw [fn_modFn_same]⟩


theorem writeSpillq_empty {s : State} {u : Nat} (w : Word) (hc : (s.core (coreOf u)).spillCount = 0) :
    s.writeSpillq u w = if 12 ≤ (w.extractLsb' 32 4).toNat then s else
      s.modCore (coreOf u) fun k =>
        { k with spillSize := (w.extractLsb' 32 4).toNat, spillBase := w.extractLsb' 7 11 } := by
  have hf : field w.toNat 35 32 = (w.extractLsb' 32 4).toNat := BitVec.extractLsb'_toNat .. |>.symm
  simp only [State.writeSpillq, hf, hc, bne_self_eq_false, Bool.false_and, Bool.or_false, decide_eq_true_eq]

theorem spillqWrite_spec {s : State} {u : Nat} (w : Word) (hu : validThread u = true)
    (hc : (s.core (coreOf u)).spillCount = 0) :
    ∃ t, exec (.spillqWrite u w) s = .next t ∧ t.mem = s.mem ∧ t.threads = s.threads ∧
      (t.core (coreOf u)).spillCount = 0 ∧
      ((w.extractLsb' 32 4).toNat < 12 → (t.core (coreOf u)).spillSize = (w.extractLsb' 32 4).toNat ∧
        (t.core (coreOf u)).spillBase = w.extractLsb' 7 11) ∧
      (12 ≤ (w.extractLsb' 32 4).toNat → t = s) := by
  refine ⟨_, eventIf_pos hu _, ?_⟩
  rw [writeSpillq_empty w hc]
  split
  next h => exact ⟨rfl, rfl, hc, fun hl => absurd h (by omega), fun _ => rfl⟩
  next h =>
    rw [core_modCore_same]
    exact ⟨rfl, rfl, hc, fun _ => ⟨rfl, rfl⟩, fun hl => absurd hl h⟩

theorem uipendWrite_spec {s : State} {u : Nat} (w : Word) (hu : validThread u = true) :
    ∃ t, exec (.uipendWrite u w) s = .next t ∧ t.mem = s.mem ∧ (t.thr u).uienable = w.extractLsb' 16 16 ∧
      (t.thr u).uiovf = ((s.thr u).uiovf && w.getLsbD 32) ∧ (t.thr u).fifo = (s.thr u).fifo ∧
      (t.thr u).g = (s.thr u).g := by
  refine ⟨_, eventIf_pos hu _, ?_⟩
  simp [State.writeUipend]

theorem rndlfsrWrite_spec {s : State} {u : Nat} (w : Word) (hu : validThread u = true) :
    ∃ t, exec (.rndlfsrWrite u w) s = .next t ∧ t.mem = s.mem ∧ (t.thr u).g = (s.thr u).g ∧
      (t.thr u).rndlfsr = (if w.setWidth 32 = 0#32 then 1 else w.setWidth 32) := by
  refine ⟨_, eventIf_pos hu _, ?_⟩
  simp [State.writeLfsr]

theorem tepcWrite_spec {s : State} {u : Nat} (w : Word) (hu : validThread u = true) :
    exec (.tepcWrite u w) s = .next (s.modThr u fun th => { th with tepc := w, sigV := false }) :=
  eventIf_pos hu _

/-! ## Fetched lines (R483) -/

theorem fetchLineArrival_spec {s : State} {u : Nat} (hu : validThread u = true)
    (ha : (s.core (coreOf u)).away = false) (hf : (s.thr u).op.fetch = true) (hr : (s.thr u).op.reply = .ok) :
    ∃ t, exec (.fetchLineArrival u) s = .next t ∧ t.mem = s.mem ∧ (t.thr u).st = .run ∧ (t.thr u).pc = (s.thr u).pc ∧
      (t.thr u).g = (s.thr u).g ∧
      (t.thr u).fbuf = (s.thr u).fbuf.getLast?.toList ++
        [lineFrom (lineOf (s.thr u).op.ea.toNat) (s.thr u).op.got] := by
  refine ⟨_, eventIf_pos hu _, ?_⟩
  simp [hf, hr, ha, Thread.addLine]

/-! ## Changes to what a thread owns, and its entry into handlers -/

@[simp] theorem modOwned_mem (s : State) (t : Nat) (f : Ctx → Ctx) : (s.modOwned t f).mem = s.mem := by
  unfold State.modOwned
  split <;> rfl

@[simp] theorem modOwned_thr (s : State) (t u : Nat) (f : Ctx → Ctx) : (s.modOwned t f).thr u = s.thr u := by
  unfold State.modOwned
  split <;> rfl

/-- A thread without a pair enters a handler alone. -/
theorem pairEnter_single {s : State} {t : Nat} (h : (s.thr t).tsr.pair = false) : s.pairEnter t = s := by
  simp [State.pairEnter, h]

theorem aligned_single {s : State} {t : Nat} (h : (s.thr t).tsr.pair = false) : s.aligned t = true := by
  simp [State.aligned, h]

@[simp] theorem replayDue_mem (s : State) (t : Nat) : (s.replayDue t).mem = s.mem := by simp [State.replayDue]

@[simp] theorem replayDue_thr (s : State) (t u : Nat) : (s.replayDue t).thr u = s.thr u := by simp [State.replayDue]

@[simp] theorem replayDue_core (s : State) (t c : Nat) : (s.replayDue t).core c = s.core c := by simp [State.replayDue]

/-! ## Replay faults (R110) -/

/-- TCAUSE names the replay as the origin of a trap. -/
theorem tcause_replay (a d : Nat) (b : Bool) :
    (BitVec.ofNat 18 (a % 256 + (d % 256) <<< 8 + bit true <<< 16 + bit b <<< 17)).getLsbD 16 = true := by
  simp only [BitVec.getLsbD_ofNat, Nat.shiftLeft_eq, bit, if_true, Nat.testBit_eq_decide_div_mod_eq]
  cases b <;> simp <;> omega

theorem takeTrapAt_first {s : State} {t : Nat} (h : (s.thr t).tsr.th = false) (c : Cause) (pc : Word) (r : Bool) :
    s.takeTrapAt t c pc r = (s.modOwned t fun x => { x with susp := true }).modThr t fun th =>
      th.enterTrap (s.routeOf (s.thr t) c.code) c pc r (coreOf t != th.home) := by
  simp [State.takeTrapAt, h]

theorem replayFaultDelivery_spec {s : State} {u : Nat} (hu : validThread u = true)
    (hp : (s.thr u).tsr.pair = false) {f : Cause} (hf : (s.thr u).repFault = some f) (hr : (s.thr u).fresh = true)
    (ht : (s.thr u).tsr.th = false) :
    ∃ t, exec (.replayFaultDelivery u) s = .next t ∧ t.mem = s.mem ∧ ∀ v : Thread, v = t.thr u →
      v.tepc = (s.thr u).pc ∧ v.tval = f.tval ∧ v.tcause.getLsbD 16 = true ∧ v.tsr.th = true ∧ v.repFault = none ∧
      v.rep = (s.thr u).rep ∧ v.g = (s.thr u).g := by
  refine ⟨_, eventIf_pos hu _, ?_⟩
  have hready : s.faultReady u = true := by simp [State.faultReady, hf, hr, aligned_single hp]
  simp only [hf, hready, if_true]
  rw [takeTrapAt_first (by simpa using ht), pairEnter_single (by simpa [Thread.enterTrap] using hp)]
  constructor
  · split <;> simp
  · rintro v rfl
    have hc := tcause_replay f.code f.detail (coreOf u != (s.thr u).home)
    split <;> simpa [Thread.enterTrap] using hc

/-! ## User interrupts (R91, R113) -/

@[simp] theorem bindWaiters_mem (s : State) (c : Nat) : (s.bindWaiters c).mem = s.mem := by
  refine foldl_keeps State.mem ?_ _ _
  exact fun _ _ => rfl

/-- The inbox wakes only threads that are parked for it. -/
theorem bindWaiters_thr_run {s : State} {c u : Nat} (h : (s.thr u).st = .run) :
    (s.bindWaiters c).thr u = s.thr u := by
  refine List.foldlRecOn (motive := fun r : State => r.thr u = s.thr u) _ _ rfl fun r hr w _ => ?_
  by_cases hw : u = w
  · rw [← hw, thr_modThr_same, hr]
    simp [Thread.granted, h]
  · rw [thr_modThr_other _ _ hw, hr]

@[simp] theorem abandon_mem (s : State) (t : Nat) : (s.abandon t).mem = s.mem := by
  simp only [State.abandon]
  split
  · exact bindWaiters_mem ..
  · rfl

theorem abandon_thr_run {s : State} {t u : Nat} (h : (s.thr u).st = .run) : (s.abandon t).thr u = s.thr u := by
  simp only [State.abandon]
  split
  · exact bindWaiters_thr_run h
  · rfl

/-- UICAUSE holds the class of the event in its low bits. -/
theorem uicause_class (a b d : Nat) (p : Bool) :
    ((BitVec.ofNat 32 (a % 16 + (b % 256) <<< 8 + (d % 256) <<< 16 + bit p <<< 31)).extractLsb' 0 4).toNat =
      a % 16 := by
  rw [show a % 16 + (b % 256) <<< 8 + (d % 256) <<< 16 + bit p <<< 31 =
    a % 16 + 16 * ((b % 256) * 2 ^ 4 + (d % 256) * 2 ^ 12 + bit p * 2 ^ 27) by simp only [Nat.shiftLeft_eq]; ring]
  rw [BitVec.extractLsb'_toNat, BitVec.toNat_ofNat, Nat.shiftRight_zero,
    Nat.mod_mod_of_dvd _ (pow_dvd_pow 2 (by decide)), show 2 ^ 4 = 16 from rfl, Nat.add_mul_mod_self_left, Nat.mod_mod]

theorem Thread.fresh_run {th : Thread} (h : th.fresh = true) : th.st = .run := by
  simp only [Thread.fresh, Bool.and_eq_true, beq_iff_eq] at h
  exact h.1.1.1

theorem userInterruptEntry_spec {s : State} {u : Nat} (hu : validThread u = true)
    (hp : (s.thr u).tsr.pair = false) {e : Event} {rest : List Event}
    (he : takeEvent (s.thr u).uienable (s.thr u).fifo = some (e, rest)) (hd : (s.thr u).deliverable = true)
    (hh : s.held u = false) (hr : (s.thr u).fresh = true) :
    ∃ t, exec (.userInterruptEntry u) s = .next t ∧ t.mem = s.mem ∧ ∀ v : Thread, v = t.thr u →
      v.pc = (s.thr u).utvec ∧ v.uiepc = (s.thr u).pc ∧ v.uipfx = (s.thr u).pfxsave ∧ v.fifo = rest ∧
      v.tsr.uia = true ∧ v.tsr.pp = false ∧ v.tsr.pl = (s.thr u).tsr.pl ∧ v.uixid = BitVec.ofNat 64 e.id ∧
      (v.uicause.extractLsb' 0 4).toNat = e.cls % 16 ∧ v.st = .run ∧ v.g = (s.thr u).g := by
  refine ⟨_, eventIf_pos hu _, ?_⟩
  have hmay : s.mayInterrupt u = true := by simp [State.mayInterrupt, hd, hh, hr, aligned_single hp]
  have hthr := abandon_thr_run (t := u) (Thread.fresh_run hr)
  have hcls := uicause_class e.cls e.sub e.extra (s.thr u).tsr.pp
  simp only [hmay, if_true, State.interrupt, he]
  split
  all_goals
    rw [pairEnter_single (by simpa [Thread.enterUser, Thread.nextGen, hthr] using hp)]
    simpa [Thread.enterUser, Thread.nextGen, hthr] using hcls

/-! ## The ends of kills and exits (R90, R109, R144) -/

@[simp] theorem freeSlotOf_mem (s : State) (t : Nat) : (s.freeSlotOf t).mem = s.mem := by simp [State.freeSlotOf]

@[simp] theorem freeSlotOf_thr (s : State) (t : Nat) :
    (s.freeSlotOf t).thr t = { gen := (s.thr t).gen, unanswered := (s.thr t).unanswered } := by
  simp [State.freeSlotOf]

theorem slotFill_freeSlotOf (s : State) (t : Nat) : .slotFill (coreOf t) ∈ (s.freeSlotOf t).agenda :=
  mem_dueOnce_agenda.mpr (.inl (mem_dueOnce_agenda.mpr (.inr rfl)))

/-- What stands of a slot once it is free: its generation. -/
theorem freeSlotOf_spec (s : State) (t : Nat) :
    (s.freeSlotOf t).mem = s.mem ∧ ((s.freeSlotOf t).thr t).st = .free ∧ ((s.freeSlotOf t).thr t).gen = (s.thr t).gen ∧
      .slotFill (coreOf t) ∈ (s.freeSlotOf t).agenda := by
  simp [slotFill_freeSlotOf]

theorem killScrubEnd_spec {s : State} {u : Nat} (hu : validThread u = true) (hk : (s.thr u).st = .killed)
    (hc : (s.thr u).op.aux ≠ 0x23) :
    ∃ t, exec (.killScrubEnd u) s = .next t ∧ t.mem = s.mem ∧ (t.thr u).st = .free ∧ (t.thr u).gen = (s.thr u).gen ∧
      .slotFill (coreOf u) ∈ t.agenda := by
  refine ⟨_, eventIf_pos hu _, ?_⟩
  have hg := fnEvent_keeps_thr Thread.gen (fun _ _ => rfl) (fun _ _ => rfl) s (s.thr u).fn
    (contextEvent 0x01 u (s.thr u).op.aux) u
  obtain ⟨hm, hs, hgen, ha⟩ := freeSlotOf_spec (s.fnEvent (s.thr u).fn (contextEvent 0x01 u (s.thr u).op.aux)) u
  simp only [hk, if_true, State.scrubEnd, hc, decide_false, Bool.false_and, Bool.false_eq_true, if_false]
  exact ⟨hm.trans (fnEvent_mem ..), hs, hgen.trans hg, ha⟩

@[simp] theorem endAudits_mem (s : State) (t : Nat) : (s.endAudits t).mem = s.mem := rfl

@[simp] theorem endAudits_thr (s : State) (t u : Nat) : (s.endAudits t).thr u = s.thr u := rfl

theorem texitDrainDone_spec {s : State} {u : Nat} (hu : validThread u = true) (hp : (s.thr u).tsr.pair = false)
    (ha : (s.core (coreOf u)).away = false) (hs : (s.thr u).st = .parked .engine) (hx : (s.thr u).op.aux = 0x54)
    (hr : s.exitReady u = true) (hf : (s.thr u).fifo = []) :
    ∃ t, exec (.texitDrainDone u) s = .next t ∧ t.mem = s.mem ∧ (t.thr u).st = .free ∧
      (t.thr u).gen = (s.thr u).gen ∧ .slotFill (coreOf u) ∈ t.agenda := by
  refine ⟨_, eventIf_pos hu _, ?_⟩
  simp only [hs, hx, ha, hr, hp, bne_self_eq_false, Bool.or_self, Bool.not_true, Bool.false_eq_true, if_false]
  simp [State.exitThread, hf, slotFill_freeSlotOf]

end Sys2Proof.Machine
end

section
/-! SUPPORT. Lines fetched ahead, and threads that migrate: what a charge leaves, and what a thread takes to its new
slot. -/

namespace Sys2Proof.Machine

/-! ## Charges touch meters alone (R409 to R413) -/

/-- `t` is `s` but for the quads' records and what is due. -/
def State.MeterOnly (s t : State) : Prop := ∃ qs a, t = { s with quads := qs, agenda := a }

namespace State.MeterOnly

variable {s t u : State}

theorem refl (s : State) : s.MeterOnly s := ⟨_, _, rfl⟩

theorem trans (h : s.MeterOnly t) (h' : t.MeterOnly u) : s.MeterOnly u := by
  obtain ⟨_, _, rfl⟩ := h
  obtain ⟨qs, a, rfl⟩ := h'
  exact ⟨qs, a, rfl⟩

theorem mem (h : s.MeterOnly t) : t.mem = s.mem := by obtain ⟨_, _, rfl⟩ := h; rfl

theorem thr (h : s.MeterOnly t) (u : Nat) : t.thr u = s.thr u := by obtain ⟨_, _, rfl⟩ := h; rfl

theorem core (h : s.MeterOnly t) (c : Nat) : t.core c = s.core c := by obtain ⟨_, _, rfl⟩ := h; rfl

theorem cur (h : s.MeterOnly t) : t.cur = s.cur := by obtain ⟨_, _, rfl⟩ := h; rfl

theorem modQuad (s : State) (q : Nat) (f : Quad → Quad) : s.MeterOnly (s.modQuad q f) := ⟨_, _, rfl⟩

theorem chargePart (s : State) (q f cls num den : Nat) : s.MeterOnly (s.chargePart q f cls num den) := by
  simp only [State.chargePart]
  split
  · exact refl s
  · split
    · exact ⟨_, _, rfl⟩
    · exact modQuad ..

theorem charge (s : State) (q f cls n : Nat) : s.MeterOnly (s.charge q f cls n) := chargePart ..

theorem chargeThread (s : State) (t cls n : Nat) : s.MeterOnly (s.chargeThread t cls n) := charge ..

/-- An access to the core's own TCM costs its bytes and its atomic. -/
theorem chargeOwn (s : State) (c f : Nat) (op : HomeOp) : s.MeterOnly (s.chargeAccess c f (.tcm c) op) := by
  simp only [State.chargeAccess, pathOf, if_true]
  exact (charge ..).trans (charge ..)

end State.MeterOnly

/-! ## The line fetched ahead (R483) -/

/-- A line fetched ahead is held. -/
theorem heldLine_addAhead_new (th : Thread) {cur : Nat} {l : Line} (h : cur ≠ l.ea) :
    (th.addAhead cur l).heldLine l.ea = some l := by
  have hne : ∀ x ∈ th.fbuf.filter (fun x => x.ea == cur), ¬(x.ea == l.ea) = true := by
    intro x hx
    simp only [List.mem_filter, beq_iff_eq] at hx
    simpa [hx.2] using h
  rw [Thread.heldLine, Thread.addAhead, List.find?_append, List.find?_eq_none.mpr hne]
  simp

/-- The line beside it stays. -/
theorem heldLine_addAhead_cur {th : Thread} {cur : Nat} {l k : Line} (h : th.heldLine cur = some k) :
    (th.addAhead cur l).heldLine cur = some k := by
  have hk : th.fbuf.find? (fun x => x.ea == cur) = some k := h
  have hf : (th.fbuf.filter fun x => x.ea == cur).find? (fun x => x.ea == cur) = some k := by
    rw [List.find?_filter]
    simpa only [and_self, Bool.decide_eq_true] using hk
  rw [Thread.heldLine, Thread.addAhead, List.find?_append, hf, Option.some_or]

/-- Where nothing waits, no word is held for a waiter. -/
theorem wordHeld_of_noWaits {s : State} (h : s.noWaits) (a : Nat) : s.wordHeld a = false := by
  simp [State.wordHeld, (h _).1]

/-- A line of the core's own TCM is read at once. -/
theorem lineAhead_own {s : State} {u ea x : Nat} {da : Word} (hp : (s.core (coreOf u)).Present) (hw : s.noWaits)
    (hs : s.segCheck (s.thr u) (quadOf (coreOf u)) (BitVec.ofNat 64 ea) 4 rightX = .ok (da, .tcm (coreOf u), x))
    (ho : 2 ≤ (s.thr u).tsr.pl.toNat ∨ s.ownerOk (s.thr u).fn (.tcm (coreOf u)) x = true)
    (hx : s.poisoned x 64 = false) (hm : s.mayInject (coreOf u) (s.thr u).fn (s.thr u).tsr.pl.toNat = true) :
    s.lineAhead u ea = (s.chargeAccess (coreOf u) (s.thr u).fn (.tcm (coreOf u)) (.load x 64)).modThr u fun th =>
      th.addAhead (ea - 64) (lineFrom ea (s.rd x 64)) := by
  obtain ⟨haway, hserved, hheld⟩ := hp
  have hown : ((s.thr u).tsr.pl.toNat < 2 && !s.ownerOk (s.thr u).fn (.tcm (coreOf u)) x) = false := by
    rcases ho with h | h
    · rw [decide_eq_false (by omega), Bool.false_and]
    · rw [h, Bool.not_true, Bool.and_false]
  have habs : s.unitAbsent (.tcm (coreOf u)) = false := by simpa [State.unitAbsent, contextOf] using hserved
  have hpass : s.passes (coreOf u) (.tcm (coreOf u)) = true := by simp [State.passes, contextOf, haway, hheld]
  have hword : (wordsOf x 64).any s.wordHeld = false := by simp [wordHeld_of_noWaits hw]
  simp only [State.lineAhead, hs, hm, hown, habs, hpass, hx, hword, Bool.not_true, Bool.or_false,
    Bool.false_eq_true, if_false]

theorem fetchAhead_spec {s : State} {u ea x : Nat} {l : Line} {da : Word} (hu : validThread u = true)
    (hp : (s.core (coreOf u)).Present) (hl : (s.thr u).heldLine (ea - 64) = some l)
    (hn : (s.thr u).heldLine ea = none) (ha : (s.thr u).ahead = none) (hw : s.noWaits)
    (hs : s.segCheck (s.thr u) (quadOf (coreOf u)) (BitVec.ofNat 64 ea) 4 rightX = .ok (da, .tcm (coreOf u), x))
    (ho : 2 ≤ (s.thr u).tsr.pl.toNat ∨ s.ownerOk (s.thr u).fn (.tcm (coreOf u)) x = true)
    (hx : s.poisoned x 64 = false) (hm : s.mayInject (coreOf u) (s.thr u).fn (s.thr u).tsr.pl.toNat = true) :
    ∃ t, exec (.fetchAhead u ea) s = .next t ∧ t.mem = s.mem ∧ (t.thr u).st = (s.thr u).st ∧
      (t.thr u).pc = (s.thr u).pc ∧ (t.thr u).heldLine ea = some (lineFrom ea (s.rd x 64)) ∧
      (t.thr u).heldLine (ea - 64) = some l := by
  refine ⟨_, eventIf_pos hu _, ?_⟩
  have hne : ea - 64 ≠ ea := fun h => by simp [h, hn] at hl
  have hc := State.MeterOnly.chargeOwn s (coreOf u) (s.thr u).fn (.load x 64)
  simp only [hl, hn, ha, hp.here, Option.isNone_some, Option.isSome_none, Option.any_none, Bool.or_self,
    Bool.false_eq_true, if_false]
  rw [lineAhead_own hp hw hs ho hx hm]
  refine ⟨hc.mem, ?_⟩
  rw [thr_modThr_same, hc.thr]
  exact ⟨rfl, rfl, heldLine_addAhead_new _ hne, heldLine_addAhead_cur hl⟩

/-! ## Migration (R94, R100) -/

/-- A part of every entry that a change of entries keeps is kept at every key. -/
theorem smGet_map_keeps {α γ : Type} (p : α → γ) (d : α) (m : SMap α) {g : Nat × α → Nat × α} (h1 : ∀ x, (g x).1 = x.1)
    (h2 : ∀ x, p (g x).2 = p x.2) (k : Nat) : p (smGet d (m.map g) k) = p (smGet d m k) := by
  induction m with
  | nil => rfl
  | cons x m ih =>
    obtain ⟨j, a⟩ := x
    have hj := h1 (j, a)
    by_cases hjk : j = k <;> simp_all [smGet]

theorem modEntriesOf_inbound (s : State) (t : Nat) (f : JEntry → JEntry) (c : Nat) :
    ((s.modEntriesOf t f).core c).inbound = (s.core c).inbound := by
  refine smGet_map_keeps Core.inbound _ _ (fun x => ?_) (fun x => ?_) c <;> split <;> rfl

theorem renameThread_inbound (s : State) (t u c : Nat) : ((s.renameThread t u).core c).inbound =
    (s.core c).inbound := by
  show ((if (s.core (coreOf t)).copies.toList.any (fun x => x.thread == t && !x.orphan) then s.modCore (coreOf t) _
    else s).core c).inbound = _
  split
  · refine core_modCore_keeps Core.inbound s _ c ?_
    exact fun _ => rfl
  · rfl

@[simp] theorem renameThread_thr (s : State) (t u w : Nat) : (s.renameThread t u).thr w = s.thr w := by
  simp only [State.renameThread]
  split <;> rfl

@[simp] theorem renameThread_mem (s : State) (t u : Nat) : (s.renameThread t u).mem = s.mem := by
  simp only [State.renameThread]
  split <;> rfl

@[simp] theorem freeSlotOf_core (s : State) (t c : Nat) : (s.freeSlotOf t).core c = s.core c := by
  simp [State.freeSlotOf]

theorem freeSlotOf_thr_other (s : State) {t u : Nat} (h : u ≠ t) : (s.freeSlotOf t).thr u = s.thr u := by
  simp [State.freeSlotOf, thr_setThr_other _ _ h]

@[simp] theorem moveThread_mem (s : State) (t u : Nat) : (s.moveThread t u).mem = s.mem := by
  simp only [State.moveThread, freeSlotOf_mem, renameThread_mem]
  rfl

theorem moveThread_inbound (s : State) (t u c : Nat) : ((s.moveThread t u).core c).inbound = (s.core c).inbound := by
  simp only [State.moveThread, freeSlotOf_core, renameThread_inbound]
  refine Eq.trans (core_modCore_keeps Core.inbound _ _ c ?_) (modEntriesOf_inbound ..)
  exact fun _ => rfl

/-- The slot that a thread leaves is free. -/
theorem moveThread_old (s : State) (t u : Nat) : ((s.moveThread t u).thr t).st = .free := by
  simp only [State.moveThread, freeSlotOf_thr]

/-- What a thread is at its new slot, which keeps its own generation. -/
theorem moveThread_new (s : State) {t u : Nat} (h : u ≠ t) :
    (s.moveThread t u).thr u = { s.thr t with
      st := if (s.thr t).present then (s.thr t).st else .run, gen := (s.thr u).gen
      unanswered := (s.thr u).unanswered, fbuf := [], ahead := none, latch := none } := by
  simp only [State.moveThread, freeSlotOf_thr_other _ h, renameThread_thr, modCore_thr]
  exact thr_setThr_same ..

@[simp] theorem dropImports_mem (s : State) (f c e : Nat) : (s.dropImports f c e).mem = s.mem := by
  unfold State.dropImports
  split <;> rfl

@[simp] theorem dropImports_thr (s : State) (f c e t : Nat) : (s.dropImports f c e).thr t = s.thr t := by
  unfold State.dropImports
  split <;> rfl

@[simp] theorem dropImports_core (s : State) (f c e i : Nat) : (s.dropImports f c e).core i = s.core i := by
  unfold State.dropImports
  split <;> rfl

/-- Whether a slot is held from outside does not depend on who migrates to the core. -/
theorem held_modCore_inbound (s : State) (c : Nat) (f : List Nat → List Nat) (t : Nat) :
    (s.modCore c fun k => { k with inbound := f k.inbound }).held t = s.held t := by
  have h {γ : Type} (p : Core → γ) (hp : ∀ k l, p { k with inbound := l } = p k) :=
    core_modCore_keeps p s c (coreOf t) (f := fun k => { k with inbound := f k.inbound }) fun k => hp k _
  simp only [State.held, h Core.gated fun _ _ => rfl, h Core.leaving fun _ _ => rfl, h Core.moving fun _ _ => rfl,
    h Core.ganged fun _ _ => rfl, h Core.capturing fun _ _ => rfl, h Core.place fun _ _ => rfl]

theorem freeSlot_modCore_inbound (s : State) (c : Nat) (f : List Nat → List Nat) (e : Nat) (p : Bool) :
    (s.modCore c fun k => { k with inbound := f k.inbound }).freeSlot e p = s.freeSlot e p := by
  simp only [State.freeSlot, State.slotFree, modCore_thr, held_modCore_inbound]

/-- The slot that a core offers is free. -/
theorem freeSlot_free {s : State} {c i : Nat} {p : Bool} (h : s.freeSlot c p = some i) :
    (s.thr (c * 16 + i)).st = .free := by
  have hf := List.find?_some h
  simp only [State.slotFree, Bool.and_eq_true, beq_iff_eq] at hf
  exact hf.1.1

theorem arriveAtSlot_spec {s : State} {u e i : Nat} (hp : (s.thr u).tsr.pair = false)
    (hi : (s.core e).inbound = [u]) (hn : e * 16 + i ≠ u) (hr : (s.thr u).present = false) :
    (s.arriveAtSlot u e i).mem = s.mem ∧ ((s.arriveAtSlot u e i).thr u).st = .free ∧
      ((s.arriveAtSlot u e i).core e).inbound = [] ∧ ∀ v : Thread, v = (s.arriveAtSlot u e i).thr (e * 16 + i) →
        v.st = .run ∧ v.pc = (s.thr u).pc ∧ v.g = (s.thr u).g ∧ v.v = (s.thr u).v ∧ v.tsr = (s.thr u).tsr := by
  simp only [State.arriveAtSlot, hp, Bool.false_eq_true, if_false, dueOnce_mem, dueOnce_thr, dueOnce_core,
    dropImports_mem, dropImports_thr, dropImports_core, moveThread_mem, moveThread_old, moveThread_inbound,
    moveThread_new _ hn, modCore_mem, modCore_thr, core_modCore_same, hi, hr, true_and]
  refine ⟨by simp, ?_⟩
  rintro v rfl
  simp

theorem migrateArrival_spec {s : State} {u e i : Nat} (hu : validThread u = true) (he : validCore e = true)
    (hp : (s.thr u).tsr.pair = false) (hu' : (s.core (coreOf u)).away = false) (hst : (s.thr u).st = .parked .migrate)
    (hag : (s.thr u).op.again = true) (haux : (s.thr u).op.aux = e) (ha : (s.core e).away = false)
    (hb : (s.core e).inbound = [] ∨ (s.core e).inbound = [u]) (hd : s.engineIdle u = true)
    (hf : s.freeSlot e false = some i) (hr : (s.thr u).present = false) :
    ∃ t, exec (.migrateArrival u e) s = .next t ∧ t.mem = s.mem ∧ (t.thr u).st = .free ∧ (t.core e).inbound = [] ∧
      ∀ v : Thread, v = t.thr (e * 16 + i) →
        v.st = .run ∧ v.pc = (s.thr u).pc ∧ v.g = (s.thr u).g ∧ v.v = (s.thr u).v ∧ v.tsr = (s.thr u).tsr := by
  refine ⟨_, eventIf_pos (by simp [hu, he]) _, ?_⟩
  have hn : e * 16 + i ≠ u := by
    rintro rfl
    simp [freeSlot_free hf] at hst
  simp only [hst, hag, haux, ha, hu', hd, hp, bne_self_eq_false, Bool.not_true, Bool.or_self,
    Bool.false_eq_true, if_false]
  rcases hb with hb | hb
  · simp only [hb, List.contains_nil, Bool.false_eq_true, if_false, freeSlot_modCore_inbound s e (· ++ [u]), hf,
      core_modCore_same, List.nil_append, List.head?_cons, if_true]
    exact arriveAtSlot_spec (s := s.modCore e fun k => { k with inbound := k.inbound ++ [u] }) hp (by simp [hb]) hn hr
  · simp only [hb, List.contains_cons, beq_self_eq_true, Bool.true_or, if_true, hf, List.head?_cons]
    exact arriveAtSlot_spec hp hb hn hr

end Sys2Proof.Machine
end

section
/-! SUPPORT. Words that a waiting thread takes up again: PARK and CSRR at their end, and instructions of the vector
unit. -/

namespace Sys2Proof.Machine

open Laws.RoundTrip (fieldAbove fieldBelow fieldWhole)

/-! ## The state in which a thread executes -/

/-- `s` with `u` as the executing thread. -/
def State.runBy (s : State) (u : Nat) : State := { s with cur := u }

@[simp] theorem runBy_cur (s : State) (u : Nat) : (s.runBy u).cur = u := rfl

@[simp] theorem runBy_me (s : State) (u : Nat) : (s.runBy u).me = s.thr u := rfl

@[simp] theorem runBy_core (s : State) (u c : Nat) : (s.runBy u).core c = s.core c := rfl

@[simp] theorem modThr_streaming (s : State) (t u : Nat) (f : Thread → Thread) :
    (s.modThr t f).streaming u = s.streaming u := rfl

@[simp] theorem after_mem (s s1 : State) : (s.after s1).mem = s1.mem := rfl

@[simp] theorem after_core (s s1 : State) (c : Nat) : (s.after s1).core c = s1.core c := rfl

theorem after_thr (s s1 : State) :
    (s.after s1).thr s.cur = (s1.thr s.cur).complete (s.me.pc + 4) s.me.tsr.pp := by
  rw [after_def, thr_modThr_same]

/-! ## A word that is taken up again (R61) -/

/-- A word without a prefix rule, a check or an address, at a thread by itself without streams, has exactly the effect
of its meaning, whatever is left of its first execution. -/
theorem run_settles {f : Form} {body : State → Res} {s : State} (hp : s.me.tsr.pair = false)
    (hs : s.streaming s.cur = false) (hpp : s.me.tsr.pp = false) (hl : f.level ≤ s.level) (he : f.early s = none)
    (hm : majorNat f.word < 0x2B) (hb : s.me.heldBack f.word = false) (ha : addressWord f.word = false) :
    run f body s = .next (settle s (body s)) := by
  have hext : majorNat f.word ≠ 0x38 := by omega
  have hr : s.me.residueFails f = false := by simp [Thread.residueFails, ha]
  have hatt : attempt f body s = body s := by
    simp [attempt, hext, he, hm.ne, Nat.not_lt.mpr hl, hpp, hb, hr, withStreams, hs]
  simp [run, hp, hatt]

theorem addressWord_of_major {w : Half} (h : majorNat w = 0x1C ∨ majorNat w = 0x22 ∨ majorNat w = 0x23) :
    addressWord w = false := by
  rcases h with h | h | h <;> simp [addressWord, h]

/-- A word of the thread engine's major 0x1C. -/
theorem run_settles_csr {f : Form} {body : State → Res} {s : State} (hp : s.me.tsr.pair = false)
    (hs : s.streaming s.cur = false) (hpp : s.me.tsr.pp = false) (hl : f.level = 0) (he : f.early s = none)
    (hm : majorNat f.word = 0x1C) : run f body s = .next (settle s (body s)) := by
  have hb : s.me.heldBack f.word = false := by simp [Thread.heldBack, engineWord, hm]
  exact run_settles hp hs hpp (by omega) he (by omega) hb (addressWord_of_major (.inl hm))

/-! ## PARK ends (R143) -/

theorem execPark_resumed {s : State} (a : BitVec 5) (hp : s.me.tsr.pair = false) (hs : s.streaming s.cur = false)
    (hpp : s.me.tsr.pp = false) (h : s.me.op.phase = 1) : execPark a s = .next (s.after s) := by
  have hw : majorNat (28#6 ++ 0#5 ++ a ++ 0#10 ++ 10#6) = 0x1C := by
    simp (disch := decide) only [majorNat, fieldAbove, fieldWhole, Nat.reduceSub]
    decide
  have hb : parkBody a s = .done s := by simp [parkBody, h]
  rw [execPark, run_settles_csr (f := { word := 28#6 ++ 0#5 ++ a ++ 0#10 ++ 10#6, srcs := [a.toNat] }) hp hs hpp rfl
    rfl hw, hb, settle_done]

/-- The state in which a PARK whose count has ended completes. -/
def State.parkEnds (s : State) (u : Nat) : State := (s.modThr u fun th => { th with op := { phase := 1 } }).runBy u

theorem sleepDeadline_reached {s : State} {u n : Nat} (hu : validThread u = true)
    (ha : (s.core (coreOf u)).away = false) (hst : (s.thr u).st = .parked .sleep)
    (hd : (s.thr u).op.deadline = some n) (hn : n ≤ s.cycle) :
    exec (.sleepDeadline u) s =
      .next (nextOf (s.parkEnds u) (execPark ((s.thr u).word.extractLsb' 16 5) (s.parkEnds u))) := by
  refine (eventIf_pos hu _).trans ?_
  simp only [hst, hd, Nat.not_lt.mpr hn, ha, decide_false, Bool.or_self, Bool.false_eq_true, if_false]
  rfl

theorem sleepDeadline_spec {s : State} {u n : Nat} (hu : validThread u = true) (hp : (s.thr u).tsr.pair = false)
    (ha : (s.core (coreOf u)).away = false) (hs : s.streaming u = false) (hst : (s.thr u).st = .parked .sleep)
    (hd : (s.thr u).op.deadline = some n) (hn : n ≤ s.cycle) (hpp : (s.thr u).tsr.pp = false) :
    ∃ t, exec (.sleepDeadline u) s = .next t ∧ t.mem = s.mem ∧ (t.thr u).st = .run ∧ (t.thr u).pc = (s.thr u).pc + 4 ∧
      (t.thr u).g = (s.thr u).g := by
  refine ⟨_, sleepDeadline_reached hu ha hst hd hn, ?_⟩
  have hme : (s.parkEnds u).me = { s.thr u with op := { phase := 1 } } := by
    rw [State.parkEnds, runBy_me, thr_modThr_same]
  have ht : ((s.parkEnds u).after (s.parkEnds u)).thr u = _ := after_thr ..
  rw [execPark_resumed _ (by rw [hme, hp]) hs (by rw [hme, hpp]) (by rw [hme]), nextOf, ht]
  have hth : (s.parkEnds u).thr (s.parkEnds u).cur = { s.thr u with op := { phase := 1 } } := hme
  rw [hth, hme]
  exact ⟨rfl, rfl, rfl, rfl⟩

/-! ## A read of TSR resumes (R41, R138) -/

theorem execCsrr_tsr {s : State} (d : BitVec 5) (hp : s.me.tsr.pair = false) (hs : s.streaming s.cur = false)
    (hpp : s.me.tsr.pp = false) (hi : s.engineIdle s.cur = true) :
    execCsrr d 0 s = .next (s.after (s.setG d s.me.tsr.word)) := by
  have hw : majorNat (28#6 ++ d ++ 0#5 ++ 0#10 ++ 0#6) = 0x1C := by
    simp (disch := decide) only [majorNat, fieldAbove, fieldWhole, Nat.reduceSub]
    decide
  have hl : csrLevels (0#10).toNat = some (0, some 0) := rfl
  have hr : s.csrRead s.cur (0#10).toNat = s.me.tsr.word.toNat := rfl
  have he : csrEarly (28#6 ++ d ++ 0#5 ++ 0#10 ++ 0#6) (0#10).toNat false s = none := by
    simp only [csrEarly, hl, Nat.not_lt_zero, if_false, Bool.false_and, Bool.false_eq_true]
  have hb : csrBody (28#6 ++ d ++ 0#5 ++ 0#10 ++ 0#6) 0 d 0 (0#10).toNat s = .done (s.setG d s.me.tsr.word) := by
    simp only [csrBody, hi, csrApply, hr, BitVec.ofNat_toNat, BitVec.setWidth_eq]
    rfl
  have hrun := run_settles_csr
    (f := { word := 28#6 ++ d ++ 0#5 ++ 0#10 ++ 0#6, dsts := [d.toNat]
            early := csrEarly (28#6 ++ d ++ 0#5 ++ 0#10 ++ 0#6) (0#10).toNat false })
    (body := csrBody (28#6 ++ d ++ 0#5 ++ 0#10 ++ 0#6) 0 d 0 (0#10).toNat) hp hs hpp rfl he hw
  rw [hb, settle_done] at hrun
  exact hrun

theorem encode_csrr (d : BitVec 5) (c : BitVec 10) : encode (.csrr d c) = 28#6 ++ d ++ 0#5 ++ c ++ 0#6 := rfl

/-- The word of a CSRR names its register and its CSR. -/
theorem csrExec_csrr (d : BitVec 5) (c : BitVec 10) (s : State) : csrExec (encode (.csrr d c)) s = execCsrr d c s := by
  have hop : (28#6 ++ d ++ 0#5 ++ c ++ 0#6).extractLsb' 0 6 = 0#6 := by
    simp (disch := decide) only [fieldBelow, fieldWhole]
  have hd : (28#6 ++ d ++ 0#5 ++ c ++ 0#6).extractLsb' 21 5 = d := by
    simp (disch := decide) only [fieldAbove, fieldBelow, fieldWhole, Nat.reduceSub]
  have hc : (28#6 ++ d ++ 0#5 ++ c ++ 0#6).extractLsb' 6 10 = c := by
    simp (disch := decide) only [fieldAbove, fieldBelow, fieldWhole, Nat.reduceSub]
  simp only [csrExec, encode_csrr, hop, hd, hc]
  rfl

/-- A register after a write, with g0 reading zero. -/
theorem reg_put (th : Thread) (d : BitVec 5) (v : Word) (r : Nat) :
    (th.put d.toNat v).reg r = if r = d.toNat ∧ r ≠ 0 then v else th.reg r := by
  by_cases h : r = d.toNat
  · by_cases h0 : r = 0
    · simp [h0]
    · rw [if_pos ⟨h, h0⟩, ← h, reg_put_same th v h0 (by omega)]
  · rw [if_neg fun hc => h hc.1, reg_put_other th v h]

theorem tsrAccessResume_idle {s : State} {u : Nat} {d : BitVec 5} (hu : validThread u = true)
    (ha : (s.core (coreOf u)).away = false) (hst : (s.thr u).st = .parked .engine)
    (ho : (s.thr u).op = { word := encode (.csrr d 0) }) (hi : s.engineIdle u = true) :
    exec (.tsrAccessResume u) s = .next (nextOf (s.runBy u) (execCsrr d 0 (s.runBy u))) := by
  refine (eventIf_pos hu _).trans ?_
  have hw : encode (.csrr d 0) ≠ 0 := by
    intro h
    have hm := congrArg majorNat h
    simp (disch := decide) only [majorNat, encode_csrr, fieldAbove, fieldWhole, Nat.reduceSub] at hm
    exact absurd hm (by decide)
  simp only [hst, ho, hw, ha, hi, bne_self_eq_false, decide_false, Bool.not_true, Bool.or_self, Bool.false_eq_true,
    if_false, csrExec_csrr]
  rfl

theorem tsrAccessResume_spec {s : State} {u : Nat} {d : BitVec 5} (hu : validThread u = true)
    (hp : (s.thr u).tsr.pair = false) (ha : (s.core (coreOf u)).away = false) (hs : s.streaming u = false)
    (hst : (s.thr u).st = .parked .engine) (ho : (s.thr u).op = { word := encode (.csrr d 0) })
    (hi : s.engineIdle u = true) (hpp : (s.thr u).tsr.pp = false) :
    ∃ t, exec (.tsrAccessResume u) s = .next t ∧ t.mem = s.mem ∧ (t.thr u).st = .run ∧
      (t.thr u).pc = (s.thr u).pc + 4 ∧
      ∀ r, (t.thr u).reg r = if r = d.toNat ∧ r ≠ 0 then (s.thr u).tsr.word else (s.thr u).reg r := by
  refine ⟨_, tsrAccessResume_idle hu ha hst ho hi, ?_⟩
  have ht : ((s.runBy u).after ((s.runBy u).setG d (s.thr u).tsr.word)).thr u = _ := after_thr ..
  have hg : ((s.runBy u).setG d (s.thr u).tsr.word).thr u = (s.thr u).put d.toNat (s.thr u).tsr.word :=
    thr_modThr_same ..
  rw [execCsrr_tsr (s := s.runBy u) d hp hs hpp hi, runBy_me, nextOf, ht, runBy_cur, hg]
  exact ⟨rfl, rfl, rfl, fun r => reg_put ..⟩

end Sys2Proof.Machine
end

section
/-! SUPPORT. The vector unit's turn, and VQSPLIT when the outlier queue has room. -/

namespace Sys2Proof.Machine

open Laws.RoundTrip (fieldAbove fieldWhole)

/-! ## Mask registers (R224) -/

theorem mask_setMask_same (th : Thread) (m : Nat) (v : Word) : (th.setMask m v).mask m = v := by
  have hm : m % 4 < 4 := Nat.mod_lt _ (by decide)
  simp [Thread.setMask, Thread.mask, List.getD_eq_getElem?_getD, hm]

/-! ## An instruction that the unit has started (R199, R202, R203) -/

/-- The executing thread's vector instruction is at the unit: a thread by itself, no stream, prefix or replay, operands
that pass their checks. -/
structure State.AtUnit (s : State) (i : Instr) (w : Half) : Prop where
  single : s.me.tsr.pair = false
  noStreams : s.streaming s.cur = false
  noVecStreams :
    (s.core s.here).ctxs.toList.any (fun x => x.bound && !x.susp && x.owner == s.cur && x.kind == 1) = false
  noPrefix : s.me.tsr.pp = false
  noReplays : s.me.replaying = false
  started : s.me.op.phase = 2
  checked : s.me.checkFail (vecReads i s.me) = none
  major : majorNat w = 0x22 ∨ majorNat w = 0x23
  computes : i ≠ .vshadow

/-- The instruction as the unit holds it. -/
def State.vecOp (s : State) (i : Instr) (w : Half) : UnitOp :=
  { thread := s.cur, insn := i, word := w, pfx := s.pending }

/-- The shadow latch takes over the cycle count of the instruction that filled it. -/
def Thread.latched (th : Thread) (n : Nat) : Thread := { th with latch := th.latch.map fun k => { k with cycles := n } }

theorem vecRun_atUnit {s s2 : State} {i : Instr} {w : Half} (h : s.AtUnit i w)
    (he : vecEffect (s.vecOp i w) (s.modMe fun th => { th with latch := none }) = .done s2) :
    vecRun i w s = .next (s.after (s2.modMe (Thread.latched · (s.latchCycles (s.vecOp i w))))) := by
  have hexec : vecExec (s.vecOp i w) s = .done (s2.modMe (Thread.latched · (s.latchCycles (s.vecOp i w)))) := by
    have hi : (s.vecOp i w).insn = i := rfl
    simp only [vecExec, withVecStreams, h.noVecStreams, hi, h.checked, h.computes, he, Bool.not_false, if_true,
      if_false]
    rfl
  have hissue : vecIssue i w s = .done (s2.modMe (Thread.latched · (s.latchCycles (s.vecOp i w)))) := by
    simp only [vecIssue, h.started, decide_true, Bool.true_or, if_true]
    exact hexec
  have hm : majorNat w < 0x2B := by rcases h.major with hm | hm <;> omega
  have hrun := run_settles (body := vecIssue i w)
    (f := { word := w, pfx := vecRule i, srcs := (vecScalars i).1, dsts := (vecScalars i).2, same := vecSame i })
    h.single h.noStreams h.noPrefix (Nat.zero_le _) rfl hm (Thread.heldBack_of_idle h.noReplays w)
    (addressWord_of_major (.inr h.major))
  rw [hissue, settle_done] at hrun
  exact hrun

theorem encode_vmand (d a b : BitVec 3) :
    encode (.vmand d a b) = 35#6 ++ d ++ a ++ b ++ 0#3 ++ 24#5 ++ 0#9 := rfl

theorem majorNat_vmand (d a b : BitVec 3) : majorNat (encode (.vmand d a b)) = 0x23 := by
  rw [encode_vmand]
  simp (disch := decide) only [majorNat, fieldAbove, fieldWhole, Nat.reduceSub]
  decide

/-- VMAND at the unit (R224). -/
theorem vmand_atUnit {s : State} {d a b : BitVec 3} {w : Half} (h : s.AtUnit (.vmand d a b) w) :
    ∃ t, vecRun (.vmand d a b) w s = .next t ∧ t.mem = s.mem ∧ (∀ c, t.core c = s.core c) ∧
      (t.thr s.cur).st = .run ∧ (t.thr s.cur).pc = s.me.pc + 4 ∧ (t.thr s.cur).g = s.me.g ∧
      (t.thr s.cur).v = s.me.v ∧ (t.thr s.cur).mask d.toNat = s.me.mask a.toNat &&& s.me.mask b.toNat := by
  have he : vecEffect (s.vecOp (.vmand d a b) w) (s.modMe fun th => { th with latch := none }) =
      .done ((s.modMe fun th => { th with latch := none }).modMe fun th =>
        th.setMask d.toNat (th.mask a.toNat &&& th.mask b.toNat)) := rfl
  refine ⟨_, vecRun_atUnit h he, ?_⟩
  simp only [after_mem, after_core, modMe_mem, modMe_core, after_thr, implies_true, true_and]
  simp only [State.modMe, State.me, modThr_cur, modThr_modThr, thr_modThr_same]
  exact ⟨rfl, rfl, rfl, rfl, mask_setMask_same ..⟩

/-! ## The unit's turn (R199) -/

/-- Where nothing waits for a core's queue, nothing enters it. -/
theorem admitVec_none {s : State} {c : Nat} (h : (s.core c).vwait = []) :
    State.admitVec c (s.core c).vwait.length s = s := by
  rw [h]
  rfl

theorem find?_unique {l : List Nat} {p : Nat → Bool} {i : Nat} (hi : i ∈ l) (hp : p i = true)
    (h : ∀ x ∈ l, p x = true → x = i) : l.find? p = some i := by
  obtain ⟨x, hx⟩ := Option.isSome_iff_exists.mp (List.find?_isSome.mpr ⟨i, hi, hp⟩)
  rw [hx, h x (List.mem_of_find?_eq_some hx) (List.find?_some hx)]

/-- The unit has started the thread's instruction. -/
def Thread.started (th : Thread) : Thread := { th with op := { th.op with phase := 2 } }

/-- The state in which the unit runs the oldest instruction `o` of the core of index `i`. -/
def State.vecStart (s : State) (q i : Nat) (o : UnitOp) : State :=
  (((s.modCore (coreOfQuad q i) fun k => { k with vq := [] }).modQuad q fun k => { k with vturn := i }).modThr o.thread
    Thread.started).runBy o.thread

theorem admitAll_none {s : State} {q : Nat} (h : ∀ j, j < 4 → (s.core (coreOfQuad q j)).vwait = []) :
    (List.range 4).foldl (fun (s : State) i =>
      if (s.core (coreOfQuad q i)).away then s
      else State.admitVec (coreOfQuad q i) (s.core (coreOfQuad q i)).vwait.length s) s = s := by
  refine List.foldlRecOn (motive := (· = s)) _ _ rfl fun t ht j hj => ?_
  rw [ht, admitVec_none (h j (List.mem_range.mp hj)), ite_self]

/-- The unit serves the one core of the quad whose queue holds an instruction. -/
theorem vectorTurn_single {s : State} {q i : Nat} {o : UnitOp} (hi : i < 4)
    (ha : (s.core (coreOfQuad q i)).away = false) (hv : (s.core (coreOfQuad q i)).vq = [o])
    (hw : ∀ j, j < 4 → (s.core (coreOfQuad q j)).vwait = [] ∧ (j ≠ i → (s.core (coreOfQuad q j)).vq = [])) :
    s.vectorTurn q = nextOf (s.vecStart q i o) (vecRun o.insn o.word (s.vecStart q i o)) := by
  have hadmit := admitAll_none (s := s) (q := q) fun j hj => (hw j hj).1
  have hfind : ((List.range 4).map fun j => ((s.quad q).vturn + 1 + j) % 4).find? (fun j =>
      !(s.core (coreOfQuad q j)).away && (s.core (coreOfQuad q j)).vq != []) = some i := by
    refine find?_unique ?_ (by simp [ha, hv]) fun j hj hr => ?_
    · exact List.mem_map.mpr ⟨(i + 3 * ((s.quad q).vturn + 1)) % 4, List.mem_range.mpr (by omega), by omega⟩
    · obtain ⟨k, _, rfl⟩ := List.mem_map.mp hj
      by_contra hne
      simp [(hw _ (Nat.mod_lt _ (by decide))).2 hne] at hr
  unfold State.vectorTurn
  simp only [hadmit, hfind, hv]
  rfl

theorem vectorUnitStart_spec {s : State} {q i u : Nat} {o : UnitOp} {d a b : BitVec 3} (hq : q < 14400) (hi : i < 4)
    (hc : coreOf u = coreOfQuad q i) (hp : (s.thr u).tsr.pair = false) (ha : (s.core (coreOf u)).away = false)
    (hs : s.streaming u = false) (hv : (s.core (coreOf u)).vq = [o])
    (hw : ∀ j, j < 4 → (s.core (coreOfQuad q j)).vwait = [] ∧ (j ≠ i → (s.core (coreOfQuad q j)).vq = []))
    (ho : o.thread = u) (hin : o.insn = .vmand d a b) (how : o.word = encode (.vmand d a b))
    (hpp : (s.thr u).tsr.pp = false) (hr : (s.thr u).replaying = false)
    (hvs : (s.core (coreOf u)).ctxs.toList.any (fun x => x.bound && !x.susp && x.owner == u && x.kind == 1) = false) :
    ∃ t, exec (.vectorUnitStart q) s = .next t ∧ t.mem = s.mem ∧ (t.core (coreOf u)).vq = [] ∧
      ∀ v : Thread, v = t.thr u → v.st = .run ∧ v.pc = (s.thr u).pc + 4 ∧ v.g = (s.thr u).g ∧ v.v = (s.thr u).v ∧
        v.mask d.toNat = (s.thr u).mask a.toNat &&& (s.thr u).mask b.toNat := by
  have hctx (c : Nat) : ((s.vecStart q i o).core c).ctxs = (s.core c).ctxs := by
    refine (core_modCore_keeps Core.ctxs s (coreOfQuad q i) c (f := fun k => { k with vq := [] }) ?_)
    exact fun _ => rfl
  have hcur : (s.vecStart q i o).cur = u := ho
  have hhere : (s.vecStart q i o).here = coreOf u := congrArg coreOf ho
  have hme : (s.vecStart q i o).me = (s.thr u).started := by
    rw [State.vecStart, runBy_me, thr_modThr_same, ho]
    rfl
  have hunit : (s.vecStart q i o).AtUnit (.vmand d a b) (encode (.vmand d a b)) := by
    constructor
    case noStreams => simpa only [hcur, State.streaming, hctx] using hs
    case noVecStreams => simpa only [hcur, hhere, hctx] using hvs
    case checked => rfl
    case major => exact .inr (majorNat_vmand d a b)
    case computes => exact Instr.noConfusion
    all_goals rw [hme]
    · exact hp
    · exact hpp
    · exact hr
    · rfl
  obtain ⟨t, ht, hm, hk, hth⟩ := vmand_atUnit hunit
  have hturn : s.vectorTurn q = t := by
    rw [vectorTurn_single hi (hc ▸ ha) (hc ▸ hv) hw, hin, how, ht, nextOf]
  have hvq : (t.core (coreOf u)).vq = [] := by
    rw [hk, hc]
    exact congrArg Core.vq (core_modCore_same s (coreOfQuad q i) fun k => { k with vq := [] })
  rw [hcur, hme] at hth
  refine ⟨_, eventIf_pos (decide_eq_true hq) _, ?_⟩
  simp only [hturn]
  split
  · simp only [State.defer, dueOnce_mem, dueOnce_core, dueOnce_thr]
    exact ⟨hm, hvq, fun v hv => hv ▸ hth⟩
  · exact ⟨hm, hvq, fun v hv => hv ▸ hth⟩

/-! ## VQSPLIT when the outlier queue has room (R216) -/

theorem encode_vqsplit (d a k m : BitVec 3) :
    encode (.vqsplit d a k m) = 34#6 ++ d ++ a ++ k ++ m ++ 136#9 ++ 3#5 := rfl

theorem majorNat_vqsplit (d a k m : BitVec 3) : majorNat (encode (.vqsplit d a k m)) = 0x22 := by
  rw [encode_vqsplit]
  simp (disch := decide) only [majorNat, fieldAbove, fieldWhole, Nat.reduceSub]
  decide

/-- The one waiter of the outlier queue executes: it leaves the list, and its outliers join the queue. -/
theorem vqsplitBody_oldest {s : State} {o o' : UnitOp} (d a k m : BitVec 3)
    (hq : (s.core (wideOf s.here)).oq.length ≤ 192) (hw : (s.core (wideOf s.here)).oqWait = [o'])
    (ht : o'.thread = o.thread) (hr : o'.replay = o.replay) :
    ∃ t, vqsplitBody d a k m o s = .done t ∧ t.mem = s.mem ∧ (t.core (wideOf s.here)).oqWait = [] ∧
      (s.core (wideOf s.here)).oq.length ≤ (t.core (wideOf s.here)).oq.length := by
  have hgo : (192 < (s.core (wideOf s.here)).oq.length || !oqFirst o (s.core (wideOf s.here)).oqWait) = false := by
    simp [oqFirst, hw, ht, hr, hq]
  simp only [vqsplitBody, hgo, Bool.false_eq_true, if_false, vecDone, State.raise, if_true]
  refine ⟨_, rfl, rfl, ?_⟩
  simp [hw, ht, hr]

theorem vqsplit_atUnit {s : State} {d a k m : BitVec 3} {w : Half} {o : UnitOp} (h : s.AtUnit (.vqsplit d a k m) w)
    (hq : (s.core (wideOf s.here)).oq.length ≤ 192) (hw : (s.core (wideOf s.here)).oqWait = [o])
    (ht : o.thread = s.cur) (hr : o.replay = false) :
    ∃ t, vecRun (.vqsplit d a k m) w s = .next t ∧ t.mem = s.mem ∧ (t.core (wideOf s.here)).oqWait = [] ∧
      (t.thr s.cur).st = .run ∧ (t.thr s.cur).pc = s.me.pc + 4 ∧
      (s.core (wideOf s.here)).oq.length ≤ (t.core (wideOf s.here)).oq.length := by
  obtain ⟨s2, he, hm, hws, hqs⟩ := vqsplitBody_oldest (s := s.modMe fun th => { th with latch := none })
    (o := s.vecOp (.vqsplit d a k m) w) d a k m hq hw ht hr
  refine ⟨_, vecRun_atUnit h he, hm, hws, ?_, ?_, hqs⟩
  all_goals rw [after_thr]; rfl

theorem vqsplitRelease_spec {s : State} {q u : Nat} {o : UnitOp} {d a k m : BitVec 3} (hq : q < 14400)
    (hqc : quadOf (coreOf u) = q) (hp : (s.thr u).tsr.pair = false) (ha : (s.core (coreOf u)).away = false)
    (hs : s.streaming u = false) (hw : (s.core (coreOfQuad q 3)).oqWait = [o])
    (hl : (s.core (coreOfQuad q 3)).oq.length ≤ 192) (ho : o.thread = u) (hor : o.replay = false)
    (hin : o.insn = .vqsplit d a k m) (how : o.word = encode (.vqsplit d a k m)) (hph : (s.thr u).op.phase = 2)
    (hpp : (s.thr u).tsr.pp = false) (hr : (s.thr u).replaying = false)
    (hck : (s.thr u).checkFail (vecReads (.vqsplit d a k m) (s.thr u)) = none)
    (hvs : (s.core (coreOf u)).ctxs.toList.any (fun x => x.bound && !x.susp && x.owner == u && x.kind == 1) = false) :
    ∃ t, exec (.vqsplitRelease q) s = .next t ∧ t.mem = s.mem ∧ (t.core (coreOfQuad q 3)).oqWait = [] ∧
      (t.thr u).st = .run ∧ (t.thr u).pc = (s.thr u).pc + 4 ∧
      (s.core (coreOfQuad q 3)).oq.length ≤ (t.core (coreOfQuad q 3)).oq.length := by
  have hunit : (s.runBy u).AtUnit (.vqsplit d a k m) (encode (.vqsplit d a k m)) :=
    { single := hp, noStreams := hs, noVecStreams := hvs, noPrefix := hpp, noReplays := hr, started := hph
      checked := hck, major := .inl (majorNat_vqsplit d a k m), computes := Instr.noConfusion }
  have hwide : wideOf (s.runBy u).here = coreOfQuad q 3 := congrArg (coreOfQuad · 3) hqc
  obtain ⟨t, ht, hm, hwt, hst, hpc, hqt⟩ := vqsplit_atUnit hunit (hwide ▸ hl) (hwide ▸ hw) ho hor
  rw [hwide] at hwt hqt
  have hnext : exec (.vqsplitRelease q) s = .next t := by
    refine (eventIf_pos (decide_eq_true hq) _).trans ?_
    have hrun : nextOf (s.runBy u) (vecRun (.vqsplit d a k m) (encode (.vqsplit d a k m)) (s.runBy u)) = t := by
      rw [ht, nextOf]
    have h192 : ¬192 < (s.core (coreOfQuad q 3)).oq.length := by omega
    simp only [hw, h192, ho, ha, hor, hin, how, decide_false, Bool.or_self, Bool.false_eq_true, if_false]
    rw [← State.runBy, hrun, hwt, if_pos rfl]
  exact ⟨t, hnext, hm, hwt, hst, hpc, hqt⟩

end Sys2Proof.Machine
end

section
/-! SUPPORT. A replay of TZERO: the sequencer places it, the matrix unit executes it at once, and the next one
follows; with it the events of threads are settled. -/

namespace Sys2Proof.Machine

open Laws.RoundTrip (fieldAbove fieldWhole)

/-! ## Tiles -/

theorem vget_vmod_same {α : Type} {n i : Nat} (d : α) (v : Vector α n) (f : α → α) (h : i < n) :
    vget d (vmod d v i f) i = f (vget d v i) := by
  simp [vmod, vget, List.getD_eq_getElem?_getD, h]

theorem tile_modTile_same (k : Core) (t : Nat) (f : Tile → Tile) : (k.modTile t f).tile t = f (k.tile t) :=
  vget_vmod_same ({} : Tile) k.tiles f (Nat.mod_lt t (by decide))

theorem setPois_false_pois (t : Tile) : (t.setPois false).pois = false := by
  simp only [Tile.setPois, Tile.pois, Bool.false_eq_true, if_false, BitVec.getLsbD_and, BitVec.getLsbD_not]
  simp [poisBit]

/-- The tile of a field that a replay has moved on is a tile's number. -/
theorem stagT_lt (n : Nat) (f : BitVec 5) : (stagT n f).toNat < 16 := by
  have h : (stagT n f).toNat ≤ 15 := by
    rw [stagT, BitVec.toNat_and]
    exact Nat.and_le_right
  omega

/-! ## The unit executes a TZERO (R240, R256) -/

theorem offer_mem (s : State) (c : Nat) : (s.offer c).mem = s.mem := by
  unfold State.offer
  split <;> simp

theorem offer_thr (s : State) (c u : Nat) : (s.offer c).thr u = s.thr u := by
  unfold State.offer
  split <;> simp

theorem offer_core (s : State) (c e : Nat) : (s.offer c).core e = s.core e := by
  unfold State.offer
  split <;> simp

/-- An instruction that leaves the unit changes neither memory nor threads. -/
theorem leave_mem (o : UnitOp) (s : State) : (o.leave s).mem = s.mem := by simp [UnitOp.leave, offer_mem]

theorem leave_thr (o : UnitOp) (s : State) (u : Nat) : (o.leave s).thr u = s.thr u := by
  simp [UnitOp.leave, offer_thr]

/-- The unit is free after its instruction, and the tiles stand as it left them. -/
theorem leave_core {o u : UnitOp} {s : State} (h : (s.core (coreOf o.thread)).munit = some u) (ht : u.thread = o.thread)
    (hr : u.replay = o.replay) :
    (o.leave s).core (coreOf o.thread) = { s.core (coreOf o.thread) with munit := none, morphan := none } := by
  simp [UnitOp.leave, offer_core, h, ht, hr]

theorem tzeroBody_ok {s : State} {w : Half} {d : Nat} (h : ((s.core s.here).tile d).desc.ok = true) :
    ∃ t, tzeroBody w d s = .done t ∧ t.mem = s.mem ∧ (∀ u, t.thr u = s.thr u) ∧
      (t.core s.here).munit = (s.core s.here).munit ∧
      ((t.core s.here).tile d).data = List.replicate 2048 0 ∧ ((t.core s.here).tile d).pois = false := by
  simp only [tzeroBody, h, Bool.not_true, Bool.false_eq_true, if_false]
  refine ⟨_, rfl, rfl, fun _ => rfl, ?_⟩
  rw [core_modCore_same, tile_modTile_same]
  exact ⟨rfl, rfl, setPois_false_pois _⟩

/-- A TZERO that has the unit ends in one turn. -/
theorem matTurn_tzero {s : State} {o : UnitOp} {e : BitVec 5} {c : Nat} (hs : s.here = c) (hi : o.insn = .tzero e)
    (hc : coreOf o.thread = c) (hm : (s.core c).munit = some o) (he : e.toNat < 16)
    (hok : ((s.core c).tile e.toNat).desc.ok = true) (hf : (s.core c).filling e.toNat = false) :
    ∃ t, matTurn o s = .done t ∧ t.mem = s.mem ∧ (∀ u, t.thr u = s.thr u) ∧ (t.core c).munit = none ∧
      ((t.core c).tile e.toNat).data = List.replicate 2048 0 ∧ ((t.core c).tile e.toNat).pois = false := by
  subst hs
  have hfill : ((s.core s.here).directTiles o.insn).any (s.core s.here).filling = false := by
    simp [hi, Core.directTiles, Nat.mod_eq_of_lt he, hf]
  have heff : matEffect o s = tzeroBody o.word e.toNat s := by rw [matEffect, hi]
  obtain ⟨t, ht, hmem, hthr, hmu, hd, hp⟩ := tzeroBody_ok (w := o.word) hok
  refine ⟨o.leave t, ?_, (leave_mem o t).trans hmem, fun u => (leave_thr o t u).trans (hthr u), ?_⟩
  · simp only [matTurn, hfill, Bool.and_false, Bool.false_eq_true, if_false, heff, ht]
  · have hl := leave_core (o := o) (u := o) (s := t) (by rw [hc, hmu, hm]) rfl rfl
    rw [hc] at hl
    rw [hl]
    exact ⟨rfl, hd, hp⟩

/-- The state in which the unit has begun `o`. -/
def State.takesUnit (s : State) (o : UnitOp) : State := s.modCore s.here fun k => { k with munit := some o }

@[simp] theorem takesUnit_core (s : State) (o : UnitOp) :
    (s.takesUnit o).core s.here = { s.core s.here with munit := some o } :=
  core_modCore_same ..

/-- A replayed TZERO takes the idle unit and ends. -/
theorem matReplay_tzero {s : State} {o : UnitOp} {e : BitVec 5} (hi : o.insn = .tzero e) (hc : coreOf o.thread = s.here)
    (hr : s.me.flyOp.reply = .none) (hu : (s.core s.here).unitIdle = true) (he : e.toNat < 16)
    (hok : ((s.core s.here).tile e.toNat).desc.ok = true) (hf : (s.core s.here).filling e.toNat = false) :
    ∃ t, matReplay o s = .done t ∧ t.mem = s.mem ∧ (∀ u, t.thr u = s.thr u) ∧ (t.core s.here).munit = none ∧
      ((t.core s.here).tile e.toNat).data = List.replicate 2048 0 ∧ ((t.core s.here).tile e.toNat).pois = false := by
  have hn : (s.core s.here).munit = none := by
    simp only [Core.unitIdle, Bool.and_eq_true, Option.isNone_iff_eq_none] at hu
    exact hu.1.1.1
  have hgo : matReplay o s = matTurn { o with a := 0, b := 0 } (s.takesUnit { o with a := 0, b := 0 }) := by
    simp [matReplay, hi, hn, hr, hu, matOperands, State.takesUnit]
  rw [hgo]
  refine matTurn_tzero (s := s.takesUnit { o with a := 0, b := 0 }) rfl hi hc ?_ he ?_ ?_
  · rw [takesUnit_core]
  · rw [takesUnit_core]
    exact hok
  · rw [takesUnit_core]
    exact hf

/-! ## The sequencer runs the replay it has placed (R69, R89) -/

/-- A thread that runs waits for no replay. -/
theorem freeHeld_run {s : State} {t : Nat} (h : (s.thr t).st = .run) : s.freeHeld t = s := by
  simp [State.freeHeld, h]

/-- After a replay of a thread that runs, the next one is due. -/
theorem replayDone_run {s : State} {t : Nat} (h : (s.thr t).st = .run) :
    (s.replayDone t).mem = s.mem ∧ (s.replayDone t).thr t = { s.thr t with fly := none } ∧
      ∀ c, (s.replayDone t).core c = s.core c := by
  have hf : (s.modThr t fun th => { th with fly := none }).freeHeld t = s.modThr t fun th => { th with fly := none } :=
    freeHeld_run (by rw [thr_modThr_same]; exact h)
  simp only [State.replayDone, hf]
  split
  · simp
  · simp

theorem restoreRegs_nil {s : State} {t : Nat} (old : Thread) (h : (s.thr t).st = .run) :
    s.restoreRegs t old [] = s.modThr t id := by
  simp only [State.restoreRegs, h]
  rfl

/-- A TZERO in flight ends at once when the unit is idle. -/
theorem replayRun_tzero {s : State} {u : Nat} {f : Flight} {e : BitVec 5} (hcur : s.cur = u)
    (hf : (s.thr u).fly = some f) (hv : f.vec = false) (hsc : f.scal = []) (hi : f.o.insn = .tzero e)
    (ht : f.o.thread = u) (hr : f.op.reply = .none) (hst : (s.thr u).st = .run) (hs : s.streaming u = false)
    (hu : (s.core (coreOf u)).unitIdle = true) (he : e.toNat < 16)
    (hok : ((s.core (coreOf u)).tile e.toNat).desc.ok = true) (hfi : (s.core (coreOf u)).filling e.toNat = false) :
    s.replayRun.mem = s.mem ∧ s.replayRun.thr u = { s.thr u with fly := none } ∧
      (s.replayRun.core (coreOf u)).munit = none ∧
      ((s.replayRun.core (coreOf u)).tile e.toNat).data = List.replicate 2048 0 ∧
      ((s.replayRun.core (coreOf u)).tile e.toNat).pois = false := by
  subst hcur
  change s.me.fly = some f at hf
  change s.me.st = .run at hst
  obtain ⟨t, hdone, hmem, hthr, hmu, hd, hp⟩ := matReplay_tzero (s := s.modMe fun th => th) (o := f.o) hi
    (congrArg coreOf ht) (by simpa [Thread.flyOp, hf] using hr) hu he hok hfi
  have hstream : withStreams { matForm f.o.insn f.o.word (s.modMe fun th => th) with replay := true } (matReplay f.o)
      (s.modMe fun th => th) = .done t := by
    simp [withStreams, State.modMe, hs, ← hdone]
  have hme : t.thr s.cur = s.me := by rw [hthr]; exact thr_modThr_same ..
  have hrun : s.replayRun = (t.restoreRegs s.cur s.me []).replayDone s.cur := by
    simp only [State.replayRun, hf, hv, hsc, List.filter_nil, List.foldl_nil, List.map_nil, Bool.false_eq_true,
      if_false, hstream]
  obtain ⟨hm, hth, hcore⟩ := replayDone_run (s := t.modThr s.cur id) (t := s.cur)
    (by rw [thr_modThr_same, hme]; exact hst)
  rw [hrun, restoreRegs_nil s.me (by rw [hme, hst]), hm, hth, hcore, thr_modThr_same, hme]
  exact ⟨hmem, rfl, hmu, hd, hp⟩

/-! ## The sequencer places a replay (R69, R89) -/

/-- The replay of a TZERO that the sequencer places next. -/
def State.tzeroFlight (s : State) (cap : Capture) (e : BitVec 5) : Flight :=
  { o := { thread := s.cur, insn := .tzero e, word := cap.word, pfx := cap.pfx, replay := true }, vec := false
    state := s.me.rep.state }

theorem majorNat_tzero (d : BitVec 5) : majorNat (encode (.tzero d)) = 0x24 := by
  rw [show encode (.tzero d) = 36#6 ++ 0#10 ++ d ++ 0#5 ++ 2#6 from rfl]
  simp (disch := decide) only [majorNat, fieldAbove, fieldWhole, Nat.reduceSub]
  decide

theorem nextFlight_tzero {s : State} {cap : Capture} {d : BitVec 5} (hf : s.me.fly = none) (hp : s.me.toPlace = true)
    (hc : s.me.rep.caps = [cap]) (hj : s.me.rep.j = 0) (hi : cap.insn = .tzero d) (hw : cap.word = encode (.tzero d)) :
    s.nextFlight = some (s.tzeroFlight cap (stagT (s.me.rep.i * s.me.rep.s) d)) := by
  have hcap : s.me.rep.caps[s.me.rep.j]? = some cap := by rw [hc, hj]; rfl
  have hvec : (majorNat cap.word != 0x24) = false := by rw [hw, majorNat_tzero]; rfl
  simp only [State.nextFlight, hf, hp, hcap, hvec, hi, Bool.not_true, Bool.false_eq_true, if_false]
  rfl

/-- The state in which the charges of a replay of `i` have been taken, placed in a bubble or not. -/
def State.charged (s : State) (u : Nat) (bubble : Bool) (i : Instr) : State :=
  ((if bubble then (s.runBy u).spend (coreOf u) else s.runBy u).chargeThread u 0 1).acceptMat u i

/-- The engine has a replay. -/
def Flight.taken (f : Flight) : Flight := { f with op := { f.op with phase := 2 } }

/-- The thread once its replay has been placed. -/
def Thread.replayed (th : Thread) (f : Flight) (now : Nat) : Thread :=
  { th with fly := some f.taken
            rep := if th.fly.isSome then th.rep else th.rep.advance now }

theorem acceptMat_tzero (s : State) (u : Nat) (e : BitVec 5) : s.acceptMat u (.tzero e) = s.chargeThread u 7 1 := rfl

/-- What placing a replay changes besides the sequencer: the issue of the cycle, and meters. -/
theorem charged_tzero (s : State) (u : Nat) (b : Bool) (e : BitVec 5) :
    (if b then (s.runBy u).spend (coreOf u) else s.runBy u).MeterOnly (s.charged u b (.tzero e)) := by
  rw [State.charged, acceptMat_tzero]
  exact (State.MeterOnly.chargeThread ..).trans (State.MeterOnly.chargeThread ..)

theorem charged_mem (s : State) (u : Nat) (b : Bool) (e : BitVec 5) : (s.charged u b (.tzero e)).mem = s.mem := by
  rw [(charged_tzero s u b e).mem]
  split <;> rfl

theorem charged_thr (s : State) (u : Nat) (b : Bool) (e : BitVec 5) (t : Nat) :
    (s.charged u b (.tzero e)).thr t = s.thr t := by
  rw [(charged_tzero s u b e).thr]
  split <;> rfl

theorem charged_cur (s : State) (u : Nat) (b : Bool) (e : BitVec 5) : (s.charged u b (.tzero e)).cur = u := by
  rw [(charged_tzero s u b e).cur]
  split <;> rfl

/-- Of a core, only whether its issue cycle is used. -/
theorem charged_core {γ : Type} (p : Core → γ) (hp : ∀ k n, p { k with spent := n } = p k) (s : State) (u : Nat)
    (b : Bool) (e : BitVec 5) (c : Nat) : p ((s.charged u b (.tzero e)).core c) = p (s.core c) := by
  rw [(charged_tzero s u b e).core]
  split
  · exact core_modCore_keeps p (s.runBy u) (coreOf u) c fun k => hp k _
  · rfl

/-- The state in which a replay of TZERO is in flight. -/
def State.tzeroPlaced (s : State) (u : Nat) (b : Bool) (cap : Capture) (e : BitVec 5) : State :=
  (s.charged u b (.tzero e)).modThr u fun th =>
    th.replayed ((s.runBy u).tzeroFlight cap e) (s.charged u b (.tzero e)).cycle

theorem tzeroPlaced_thr (s : State) (u : Nat) (b : Bool) (cap : Capture) (e : BitVec 5) :
    (s.tzeroPlaced u b cap e).thr u =
      (s.thr u).replayed ((s.runBy u).tzeroFlight cap e) (s.charged u b (.tzero e)).cycle := by
  rw [State.tzeroPlaced, thr_modThr_same, charged_thr]

theorem tzeroPlaced_cur (s : State) (u : Nat) (b : Bool) (cap : Capture) (e : BitVec 5) :
    (s.tzeroPlaced u b cap e).cur = u := by
  rw [State.tzeroPlaced, modThr_cur, charged_cur]

theorem tzeroPlaced_mem (s : State) (u : Nat) (b : Bool) (cap : Capture) (e : BitVec 5) :
    (s.tzeroPlaced u b cap e).mem = s.mem := by
  rw [State.tzeroPlaced, modThr_mem, charged_mem]

/-- Of a core, only whether its issue cycle is used. -/
theorem tzeroPlaced_core {γ : Type} (p : Core → γ) (hp : ∀ k n, p { k with spent := n } = p k) (s : State) (u : Nat)
    (b : Bool) (cap : Capture) (e : BitVec 5) (c : Nat) : p ((s.tzeroPlaced u b cap e).core c) = p (s.core c) := by
  rw [State.tzeroPlaced, modThr_core, charged_core p hp]

/-- A replay of TZERO is placed and ends: the next one follows. -/
theorem replayStart_tzero {s : State} {u : Nat} {b : Bool} {cap : Capture} {d e : BitVec 5}
    (he : e = stagT ((s.thr u).rep.i * (s.thr u).rep.s) d) (hf : (s.thr u).fly = none) (hp : (s.thr u).toPlace = true)
    (hc : (s.thr u).rep.caps = [cap]) (hj : (s.thr u).rep.j = 0) (hi : cap.insn = .tzero d)
    (hw : cap.word = encode (.tzero d)) (hst : (s.thr u).st = .run) (hs : s.streaming u = false)
    (hu : (s.core (coreOf u)).unitIdle = true) (hok : ((s.core (coreOf u)).tile e.toNat).desc.ok = true)
    (hfi : (s.core (coreOf u)).filling e.toNat = false) (hm : s.mayAccept u = true) :
    ∃ now, (s.replayStart u b).mem = s.mem ∧
      (s.replayStart u b).thr u = { s.thr u with fly := none, rep := (s.thr u).rep.advance now } ∧
      ((s.replayStart u b).core (coreOf u)).munit = none ∧
      (((s.replayStart u b).core (coreOf u)).tile e.toNat).data = List.replicate 2048 0 ∧
      (((s.replayStart u b).core (coreOf u)).tile e.toNat).pois = false := by
  have hnext : (s.runBy u).nextFlight = some ((s.runBy u).tzeroFlight cap e) :=
    (nextFlight_tzero (s := s.runBy u) hf hp hc hj hi hw).trans (by rw [he]; rfl)
  have hroom : ((s.runBy u).core (coreOf u)).replayRoom ((s.runBy u).tzeroFlight cap e) = true := by
    simp [Core.replayRoom, State.tzeroFlight, hu]
  have hmay : (s.runBy u).mayAccept u = true := hm
  have hvec : ((s.runBy u).tzeroFlight cap e).vec = false := rfl
  have hstart : s.replayStart u b = ((s.tzeroPlaced u b cap e).freeHeld u).replayRun := by
    simp only [State.replayStart]
    rw [← State.runBy, hnext]
    simp only [hmay, hroom, hvec, Bool.not_true, Bool.false_eq_true, if_false]
    rfl
  have hth := tzeroPlaced_thr s u b cap e
  have hrun : ((s.tzeroPlaced u b cap e).thr u).st = .run := by rw [hth]; exact hst
  have hfly : ((s.tzeroPlaced u b cap e).thr u).fly = some ((s.runBy u).tzeroFlight cap e).taken := by rw [hth]; rfl
  have hstream : (s.tzeroPlaced u b cap e).streaming u = false := by
    rw [State.streaming, tzeroPlaced_core Core.ctxs fun _ _ => rfl]
    exact hs
  have hidle : ((s.tzeroPlaced u b cap e).core (coreOf u)).unitIdle = true := by
    rw [tzeroPlaced_core Core.unitIdle fun _ _ => rfl, hu]
  have hdesc : (((s.tzeroPlaced u b cap e).core (coreOf u)).tile e.toNat).desc.ok = true := by
    rw [tzeroPlaced_core (Core.tile · e.toNat) fun _ _ => rfl, hok]
  have hfill : ((s.tzeroPlaced u b cap e).core (coreOf u)).filling e.toNat = false := by
    rw [tzeroPlaced_core (Core.filling · e.toNat) fun _ _ => rfl, hfi]
  have hlt : e.toNat < 16 := he ▸ stagT_lt _ _
  have hmain := replayRun_tzero (tzeroPlaced_cur s u b cap e) hfly rfl rfl rfl rfl rfl hrun hstream hidle hlt hdesc
    hfill
  obtain ⟨hmem, hthr, hmu, hd, hpo⟩ := hmain
  refine ⟨(s.charged u b (.tzero e)).cycle, ?_⟩
  rw [hstart, freeHeld_run hrun, hmem, hthr, hth]
  refine ⟨tzeroPlaced_mem .., ?_, hmu, hd, hpo⟩
  simp [Thread.replayed, hf]

/-- What the sequencer keeps of a REP with one captured word once a replay has been placed. -/
theorem advance_single {r : Rep} {cap : Capture} (hc : r.caps = [cap]) (now : Nat) :
    (r.advance now).i = r.i + 1 ∧ ((r.advance now).live = true ↔ r.i + 1 < r.k) := by
  simp [Rep.advance, hc]

theorem replayIssue_bubble {s : State} {u : Nat} (hu : validThread u = true) (ha : (s.core (coreOf u)).away = false)
    (hp : (s.thr u).toPlace = true) (hm : (s.core (coreOf u)).mayPlace = true) (hb : s.bubble (coreOf u) = true) :
    exec (.replayIssue u) s = .next (s.replayStart u true) := by
  refine (eventIf_pos hu _).trans ?_
  simp only [ha, hp, hm, hb, Bool.not_true, Bool.and_self, Bool.false_eq_true, if_false, if_true]

theorem replayForcedPlace_late {s : State} {u : Nat} (hu : validThread u = true) (hp : (s.thr u).toPlace = true)
    (hm : (s.core (coreOf u)).mayPlace = true) (hl : (s.thr u).rep.since + 16 ≤ s.cycle) :
    exec (.replayForcedPlace u) s = .next (s.replayStart u false) := by
  refine (eventIf_pos hu _).trans ?_
  simp only [hp, hm, Nat.not_lt.mpr hl, Bool.not_true, decide_false, Bool.or_self, Bool.false_eq_true, if_false]

theorem replayPlaced_spec {s : State} {u : Nat} {i : Instr} {d e : BitVec 5} {cap : Capture}
    (hu : validThread u = true) (ha : (s.core (coreOf u)).away = false) (hs : s.streaming u = false)
    (hlive : (s.thr u).rep.live = true) (hfly : (s.thr u).fly = none) (hrf : (s.thr u).repFault = none)
    (hmp : (s.core (coreOf u)).mayPlace = true) (hc : (s.thr u).rep.caps = [cap]) (hj : (s.thr u).rep.j = 0)
    (hin : cap.insn = .tzero d) (hw : cap.word = encode (.tzero d)) (hst : (s.thr u).st = .run)
    (he : e = stagT ((s.thr u).rep.i * (s.thr u).rep.s) d) (hok : ((s.core (coreOf u)).tile e.toNat).desc.ok = true)
    (hf : (s.core (coreOf u)).filling e.toNat = false) (hid : (s.core (coreOf u)).unitIdle = true)
    (hm : s.mayAccept u = true)
    (hi : i = .replayIssue u ∧ s.bubble (coreOf u) = true ∨
      i = .replayForcedPlace u ∧ (s.thr u).rep.since + 16 ≤ s.cycle) :
    ∃ t, exec i s = .next t ∧ t.mem = s.mem ∧ (t.thr u).pc = (s.thr u).pc ∧ (t.thr u).st = .run ∧
      (t.thr u).g = (s.thr u).g ∧ (t.thr u).rep.i = (s.thr u).rep.i + 1 ∧ (t.thr u).fly = none ∧
      ((t.thr u).rep.live = true ↔ (s.thr u).rep.i + 1 < (s.thr u).rep.k) ∧
      ((t.core (coreOf u)).tile e.toNat).data = List.replicate 2048 0 ∧
      ((t.core (coreOf u)).tile e.toNat).pois = false ∧ (t.core (coreOf u)).munit = none := by
  have hp : (s.thr u).toPlace = true := by simp [Thread.toPlace, hfly, hlive, hrf]
  have hexec : ∃ b, exec i s = .next (s.replayStart u b) := by
    rcases hi with ⟨rfl, hb⟩ | ⟨rfl, hl⟩
    · exact ⟨true, replayIssue_bubble hu ha hp hmp hb⟩
    · exact ⟨false, replayForcedPlace_late hu hp hmp hl⟩
  obtain ⟨b, hb⟩ := hexec
  obtain ⟨now, hmem, hthr, hmu, hd, hpo⟩ :=
    replayStart_tzero (b := b) he hfly hp hc hj hin hw hst hs hid hok hf hm
  obtain ⟨hadv, hlv⟩ := advance_single hc now
  refine ⟨_, hb, hmem, ?_⟩
  rw [hthr]
  exact ⟨rfl, hst, rfl, hadv, rfl, hlv, hd, hpo, hmu⟩

/-- Settles O60: every event by the lemma that says what it does. -/
theorem threadEvents : Obligations.ThreadEvents := by
  unfold Obligations.ThreadEvents
  rintro s u c th hu rfl rfl hp hk hs
  have ha := hk.here
  refine ⟨?_, ?_, ?_, ?_, ?_, ?_, ?_, ?_, ?_, ?_, ?_, ?_, fun w => ⟨?_, ?_, ?_, ?_, ?_⟩⟩
  · exact fetchLineArrival_spec hu ha
  · intro ea x l da hl hn hah hw hsc ho hx hm
    exact fetchAhead_spec hu hk hl hn hah hw hsc ho hx hm
  · rintro i d e cap r rfl hlive hfly hrf hmp hc hj hin hw _ hst he hok hf hid _ hm hi
    exact replayPlaced_spec hu ha hs hlive hfly hrf hmp hc hj hin hw hst he hok hf hid hm hi
  · exact fun f => replayFaultDelivery_spec hu hp
  · intro q i o d a b hq hi hc hv hw ho hin how _ _ _ hpp hr _ hvs
    exact vectorUnitStart_spec hq hi hc hp ha hs hv hw ho hin how hpp hr hvs
  · intro q o d a k m hq hqc hw hl ho hor hin how _ hph hpp hr _ hck hvs
    exact vqsplitRelease_spec hq hqc hp ha hs hw hl ho hor hin how hph hpp hr hck hvs
  · exact fun e rest => userInterruptEntry_spec hu hp
  · intro n hst hd hn hpp
    exact sleepDeadline_spec hu hp ha hs hst hd hn hpp
  · exact killScrubEnd_spec hu
  · exact texitDrainDone_spec hu hp ha
  · intro e i he hst hag haux hae hb hd hf hr
    exact migrateArrival_spec hu he hp ha hst hag haux hae hb hd hf hr
  · intro d hst ho hi hpp
    exact tsrAccessResume_spec hu hp ha hs hst ho hi hpp
  · exact evthreadWrite_spec w hu
  · exact tepcWrite_spec w hu
  · exact spillqWrite_spec w hu
  · exact uipendWrite_spec w hu
  · exact rndlfsrWrite_spec w hu

end Sys2Proof.Machine
end

section
/-! SUPPORT. Fetches from the core's own TCM, and words of no row. -/

namespace Sys2Proof.Machine

/-! ## Quads: parts that a change keeps -/

theorem quad_modQuad_keeps {γ : Type} (p : Quad → γ) (s : State) (q r : Nat) {f : Quad → Quad}
    (h : ∀ k, p (f k) = p k) : p ((s.modQuad q f).quad r) = p (s.quad r) := by
  by_cases hr : r = q
  · rw [hr, quad_modQuad_same, h]
  · rw [quad_modQuad_other s f hr]

/-- A charge changes of a quad only its meter. -/
theorem chargePart_keeps {γ : Type} (p : Quad → γ) (hp : ∀ k m, p { k with meter := m } = p k) (s : State)
    (q f cls num den r : Nat) : p ((s.chargePart q f cls num den).quad r) = p (s.quad r) := by
  have keeps (t : State) (g : Quad → Meter) :
      p ((t.modQuad q fun k => { k with meter := g k }).quad r) = p (t.quad r) :=
    quad_modQuad_keeps p t q r fun k => hp k _
  simp only [State.chargePart]
  split
  · rfl
  · split
    · rw [due_quad, keeps _ fun k => k.meter.modAl f fun a => { a with asked := true }, keeps]
    · rw [keeps]

theorem charge_keeps {γ : Type} (p : Quad → γ) (hp : ∀ k m, p { k with meter := m } = p k) (s : State)
    (q f cls n r : Nat) : p ((s.charge q f cls n).quad r) = p (s.quad r) :=
  chargePart_keeps p hp ..

theorem chargeOwn_keeps {γ : Type} (p : Quad → γ) (hp : ∀ k m, p { k with meter := m } = p k) (s : State)
    (c f : Nat) (op : HomeOp) (r : Nat) : p ((s.chargeAccess c f (.tcm c) op).quad r) = p (s.quad r) := by
  simp only [State.chargeAccess, pathOf, if_true]
  rw [charge_keeps p hp, charge_keeps p hp]

/-! ## The words of a line (R24, R483) -/

theorem chunksOf_getElem? (n : Nat) {k i : Nat} (h : i < k) (bs : List Byte) :
    (chunksOf n k bs)[i]? = some (ofBytes ((bs.drop (n * i)).take n)) := by
  induction k generalizing i bs with
  | zero => exact absurd h (Nat.not_lt_zero i)
  | succ k ih =>
    cases i with
    | zero => simp [chunksOf]
    | succ i => simp [chunksOf, ih (Nat.lt_of_succ_lt_succ h), Nat.mul_succ, Nat.add_comm n]

theorem drop_memRead (m : List Host.Cell) (a n k : Nat) : (memRead m a n).drop k = memRead m (a + k) (n - k) := by
  induction k generalizing a n with
  | zero => rfl
  | succ k ih =>
    cases n with
    | zero => simp [memRead]
    | succ n => simp [memRead, ih, Nat.add_assoc, Nat.add_comm 1]

theorem take_memRead (m : List Host.Cell) (a : Nat) {n k : Nat} (h : k ≤ n) :
    (memRead m a n).take k = memRead m a k := by
  induction k generalizing a n with
  | zero => rfl
  | succ k ih =>
    cases n with
    | zero => exact absurd h (Nat.not_succ_le_zero k)
    | succ n => simp [memRead, ih _ (Nat.le_of_succ_le_succ h)]

/-- The word at an address of a line whose bytes stand at `b`. -/
theorem lineFrom_at (s : State) (ea b a : Nat) :
    (lineFrom ea (s.rd b 64)).at a = BitVec.ofNat 32 (ofBytes (s.rd (b + 4 * (a % 64 / 4)) 4)) := by
  have hi : a % 64 / 4 < 16 := by omega
  have hn : 4 ≤ 64 - 4 * (a % 64 / 4) := by omega
  simp only [Line.at, lineFrom, List.getD_eq_getElem?_getD, List.getElem?_map, chunksOf_getElem? 4 hi, State.rd,
    drop_memRead, take_memRead _ _ hn]
  rfl

/-! ## A fetch from the core's own TCM (R483) -/

/-- An aligned word of the core's own TCM is in one part. -/
theorem reach_ownWord {s : State} {t x need kind : Nat} {ea da : Word}
    (hs : s.segCheck (s.thr t) (quadOf (coreOf t)) ea 4 need = .ok (da, .tcm (coreOf t), x)) (hx : x % 64 ≤ 60) :
    s.reach t ea 4 need 1 kind false = .ok s da [(.tcm (coreOf t), x, 4)] := by
  have hsplit : splitAt 64 2 x 4 = [(x, 4)] := by
    have hle : 4 ≤ 64 - x % 64 := by omega
    simp [splitAt, hle]
  simp [State.reach, hs, pathOf, granule, hsplit, Nat.mod_one]

/-- A load of sound words for which nothing waits reads them. -/
theorem perform_load {s : State} {who : Waiter} {da : Word} {a n : Nat} (hw : (wordsOf a n).any s.wordHeld = false)
    (hp : s.poisoned a n = false) : s.perform who da (.load a n) = .reply s (.data (s.rd a n)) := by
  simp [State.perform, State.performAt, hw, hp, HomeOp.stores]

/-- Whether words are held for waiters is a matter of the wait tables alone. -/
theorem wordHeld_congr {s t : State} (h : ∀ q, (t.quad q).waits = (s.quad q).waits) : t.wordHeld = s.wordHeld := by
  funext a
  rw [State.wordHeld, h, State.wordHeld]

theorem fetch_own {s : State} {t x : Nat} {da : Word} (hal : (s.thr t).pc.toNat % 4 = 0)
    (hno : (s.thr t).heldLine (lineOf (s.thr t).pc.toNat) = none)
    (hseg : s.segCheck (s.thr t) (quadOf (coreOf t)) (s.thr t).pc 4 rightX = .ok (da, .tcm (coreOf t), x))
    (hx : x % 64 = (s.thr t).pc.toNat % 64) (hheld : (wordsOf (x - x % 64) 64).any s.wordHeld = false)
    (hp : s.poisoned (x - x % 64) 64 = false) :
    ∃ s', s.fetch t = .word s' (BitVec.ofNat 32 (ofBytes (s.rd x 4))) ∧ s'.mem = s.mem := by
  have hcharge := State.MeterOnly.chargeOwn s (coreOf t) (s.thr t).fn (.load (x - x % 64) 64)
  have hmem := hcharge.mem
  have hwaits := chargeOwn_keeps Quad.waits (fun _ _ => rfl) s (coreOf t) (s.thr t).fn (.load (x - x % 64) 64)
  generalize hs1 : s.chargeAccess (coreOf t) (s.thr t).fn (.tcm (coreOf t)) (.load (x - x % 64) 64) = s1
    at hcharge hmem hwaits
  have hperf (da : Word) := perform_load (s := s1) (who := .thread t (s.thr t).gen.toNat false) (da := da)
    (a := x - x % 64) (n := 64) (by rwa [wordHeld_congr hwaits])
    (by obtain ⟨_, _, rfl⟩ := hcharge; exact hp)
  have hword : x - x % 64 + 4 * (x % 64 / 4) = x := by omega
  have hrd : s1.rd x 4 = s.rd x 4 := by rw [State.rd, hmem, State.rd]
  refine ⟨s1.modThr t fun th => th.addLine (lineFrom (lineOf (s.thr t).pc.toNat) (s1.rd (x - x % 64) 64)), ?_, hmem⟩
  simp only [State.fetch, hal, hno, reach_ownWord hseg (by omega), firstUnit, firstAddr, List.headD_cons, pathOf, ← hx,
    hs1, hperf, bne_self_eq_false, Bool.false_eq_true, if_false, if_true, lineFrom_at, hword, hrd]

/-! ## Words of no row (R61) -/

theorem runWord_undecoded {s : State} {w : Half} {e : Reject} (h : decode w = .error e)
    (hx : majorNat w = 0x38 → extClass w = 3 ∨ s.listsClass s.here (extClass w) = true) :
    s.runWord w = .next (s.undecoded w) := by
  rw [State.runWord, h]
  refine if_neg fun hc => ?_
  simp only [Bool.and_eq_true, decide_eq_true_eq, bne_iff_ne, Bool.not_eq_true'] at hc
  obtain ⟨⟨hm, hn⟩, hl⟩ := hc
  rcases hx hm with h3 | hlists
  · exact hn h3
  · exact absurd (hl.symm.trans hlists) Bool.false_ne_true

/-- Settles O2: the fetch is a load of the line at its home, and a word that does not decode runs into its trap. -/
theorem fetchAndRefusedWords : Obligations.FetchAndRefusedWords := by
  unfold Obligations.FetchAndRefusedWords
  exact ⟨fun _ _ _ _ hal hno hseg hx hheld hp => fetch_own hal hno hseg hx hheld hp,
    fun _ _ _ hd hx => runWord_undecoded hd hx⟩

end Sys2Proof.Machine
end

section
/-! SUPPORT. Exceptions, returns from them, and CSR forms: what a trap saves and where it goes, what XRET restores, and
what a CSR form reads, writes and refuses. -/

namespace Sys2Proof.Machine

open Laws.RoundTrip (fieldAbove fieldWhole)

/-! ## Trap entry (R106, R107) -/

theorem lowByte_ofNat18 (n : Nat) : ((BitVec.ofNat 18 n).extractLsb' 0 8).toNat = n % 262144 % 256 := by
  simp only [BitVec.extractLsb'_toNat, BitVec.toNat_ofNat, Nat.shiftRight_zero, Nat.reducePow]

theorem secondByte_ofNat18 (n : Nat) : ((BitVec.ofNat 18 n).extractLsb' 8 8).toNat = n % 262144 / 256 % 256 := by
  simp only [BitVec.extractLsb'_toNat, BitVec.toNat_ofNat, Nat.shiftRight_eq_div_pow, Nat.reducePow]

theorem bytes_of_sum {x y : Nat} (r b : Nat) (hx : x < 256) (hy : y < 256) :
    (x + y <<< 8 + r <<< 16 + b <<< 17) % 262144 % 256 = x ∧
      (x + y <<< 8 + r <<< 16 + b <<< 17) % 262144 / 256 % 256 = y := by
  simp only [Nat.shiftLeft_eq, Nat.reducePow]
  omega

/-- TCAUSE holds the code and the detail of a trap in its two lowest bytes. -/
theorem tcause_code (a d : Nat) (r b : Bool) :
    ((BitVec.ofNat 18 (a % 256 + (d % 256) <<< 8 + bit r <<< 16 + bit b <<< 17)).extractLsb' 0 8).toNat = a % 256 ∧
      ((BitVec.ofNat 18 (a % 256 + (d % 256) <<< 8 + bit r <<< 16 + bit b <<< 17)).extractLsb' 8 8).toNat =
        d % 256 := by
  rw [lowByte_ofNat18, secondByte_ofNat18]
  exact bytes_of_sum (bit r) (bit b) (Nat.mod_lt a (by decide)) (Nat.mod_lt d (by decide))

@[simp] theorem modOwned_full (s : State) (t : Nat) (f : Ctx → Ctx) : (s.modOwned t f).full = s.full := by
  unfold State.modOwned
  split <;> rfl

theorem takeTrapAt_kills {s : State} {t : Nat} (h : (s.thr t).tsr.th = true) (c : Cause) (pc : Word) (r : Bool) :
    s.takeTrapAt t c pc r = s.kill t 0x21 := by
  simp [State.takeTrapAt, h]

/-- R107. The thread that enters a handler. -/
theorem takeTrapAt_thr {s : State} {t : Nat} (h : (s.thr t).tsr.th = false) (c : Cause) (pc : Word) (r : Bool) :
    (s.takeTrapAt t c pc r).thr t =
      (s.thr t).enterTrap (s.routeOf (s.thr t) c.code) c pc r (coreOf t != (s.thr t).home) := by
  rw [takeTrapAt_first h, thr_modThr_same, modOwned_thr]

theorem takeTrapAt_thr_other {s : State} {t k : Nat} (h : (s.thr t).tsr.th = false) (c : Cause) (pc : Word) (r : Bool)
    (hk : k ≠ t) : (s.takeTrapAt t c pc r).thr k = s.thr k := by
  rw [takeTrapAt_first h, thr_modThr_other _ _ hk, modOwned_thr]

theorem takeTrapAt_memory {s : State} {t : Nat} (h : (s.thr t).tsr.th = false) (c : Cause) (pc : Word) (r : Bool) :
    (s.takeTrapAt t c pc r).mem = s.mem ∧ (s.takeTrapAt t c pc r).full = s.full := by
  rw [takeTrapAt_first h]
  exact ⟨modOwned_mem .., modOwned_full ..⟩

/-- R106. A trap goes to one of the levels S, L and P, and never below the thread's own. -/
theorem routeOf_bounds (s : State) (th : Thread) (code : Nat) :
    1 ≤ s.routeOf th code ∧ s.routeOf th code ≤ 3 ∧ th.tsr.pl.toNat ≤ s.routeOf th code := by
  have hpl : th.tsr.pl.toNat < 4 := th.tsr.pl.isLt
  have hr : (s.fn th.fn).route >>> (2 * code) % 4 < 4 := Nat.mod_lt _ (by decide)
  simp only [State.routeOf]
  split
  · split <;> omega
  · omega

/-- R106. The routes by default, for a thread of level U. -/
theorem routeOf_default {s : State} {th : Thread} (hr : (s.fn th.fn).route = 0) (hu : th.tsr.pl = 0) (code : Nat) :
    s.routeOf th code = if code = 0x0A ∨ code = 0x0C then 2 else 1 := by
  simp only [State.routeOf, hr, hu, Nat.zero_shiftRight, Nat.zero_mod, if_true, Bool.or_eq_true, decide_eq_true_eq]
  change max (if code = 0x0A ∨ code = 0x0C then 2 else 1) 0 = _
  exact Nat.max_zero _

/-- Settles O17: the entry is `enterTrap` at the routed level, and nothing but the thread and its contexts changes. -/
theorem trapEntry : Obligations.TrapEntry := by
  unfold Obligations.TrapEntry
  refine ⟨?_, fun s th code => ?_⟩
  · rintro s t c a th lv s' rfl rfl rfl
    refine ⟨fun hth => takeTrapAt_kills hth c a false, fun hth => ?_⟩
    rintro u rfl
    obtain ⟨hmem, hfull⟩ := takeTrapAt_memory hth c a false
    obtain ⟨hcode, hdetail⟩ := tcause_code c.code c.detail false (coreOf t != (s.thr t).home)
    rw [takeTrapAt_thr hth]
    exact ⟨rfl, hcode, hdetail, rfl, rfl, rfl, rfl, rfl, rfl, rfl, rfl, rfl, rfl, hmem, hfull,
      fun _ => takeTrapAt_thr_other hth c a false⟩
  · obtain ⟨hlow, hhigh, hown⟩ := routeOf_bounds s th code
    exact ⟨hlow, hhigh, hown, fun hr hu => routeOf_default hr hu code⟩

/-! ## XRET (R108, R142) -/

/-- XRET of a thread by itself is its meaning. -/
theorem xret_plain {s : State} (h : s.Plain) :
    exec .xret s = .next (settle s (xretBody (28#6 ++ 0#20 ++ 9#6) s)) :=
  run_major (f := { word := 28#6 ++ 0#20 ++ 9#6 }) h.alone 0x1C (by decide) (by decide) (by decide) rfl
    (Nat.zero_le _) (State.prefixFits_none h _)

@[simp] theorem resumeStreams_mem (s : State) (t : Nat) : (s.resumeStreams t).mem = s.mem := modOwned_mem ..

@[simp] theorem resumeStreams_thr (s : State) (t u : Nat) : (s.resumeStreams t).thr u = s.thr u := modOwned_thr ..

/-- R108. The return from a trap. -/
theorem xret_trap {s : State} (h : s.Plain) (hb : s.mayBranch) (hth : s.me.tsr.th = true) :
    exec .xret s = .next ((s.modMe Thread.leaveTrap).resumeStreams s.cur) := by
  have hbody : xretBody (28#6 ++ 0#20 ++ 9#6) s = .keep ((s.modMe Thread.leaveTrap).resumeStreams s.cur) := by
    simp only [xretBody, hth, if_true]
    exact if_neg (ne_true_of_eq_false hb)
  rw [xret_plain h, hbody, settle_keep]

/-- R108, R113. The return from a user interrupt. -/
theorem xret_user {s : State} (h : s.Plain) (hb : s.mayBranch) (hth : s.me.tsr.th = false) (hpl : s.me.tsr.pl = 0)
    (hia : s.me.tsr.uia = true) : exec .xret s = .next ((s.modMe Thread.leaveUser).resumeStreams s.cur) := by
  have hbody : xretBody (28#6 ++ 0#20 ++ 9#6) s = .keep ((s.modMe Thread.leaveUser).resumeStreams s.cur) := by
    simp only [xretBody, hth, hpl, hia, decide_true, Bool.and_self, Bool.false_eq_true, if_false, if_true]
    exact if_neg (ne_true_of_eq_false hb)
  rw [xret_plain h, hbody, settle_keep]

/-- R142. An XRET with nothing to return from. -/
theorem xret_illegal {s : State} (h : s.Plain) (hth : s.me.tsr.th = false)
    (hu : s.me.tsr.pl ≠ 0 ∨ s.me.tsr.uia = false) :
    exec .xret s = .next (s.takeTrapAt s.cur { code := 1, tval := 0x70000009#64 } s.me.pc false) := by
  have hno : (decide (s.me.tsr.pl = 0) && s.me.tsr.uia) = false := by
    rcases hu with hu | hu
    · rw [decide_eq_false hu, Bool.false_and]
    · rw [hu, Bool.and_false]
  have hbody : xretBody (28#6 ++ 0#20 ++ 9#6) s = .trap s { code := 1, tval := 0x70000009#64 } := by
    simp only [xretBody, hth, hno, Bool.false_eq_true, if_false]
    rfl
  rw [xret_plain h, hbody, settle_trap]

/-- The level after a return is the lower one of the saved and the current level. -/
theorem leaveTrap_pl (th : Thread) :
    th.leaveTrap.tsr.pl.toNat = min (th.tstat.extractLsb' 8 2).toNat th.tsr.pl.toNat := by
  change (if (th.tstat.extractLsb' 8 2).toNat ≤ th.tsr.pl.toNat then th.tstat.extractLsb' 8 2 else th.tsr.pl).toNat = _
  rw [apply_ite BitVec.toNat, min_def]

/-- Settles O18: each return is its thread's `leaveTrap` or `leaveUser`; any other XRET is the trap of its word. -/
theorem exceptionReturn : Obligations.ExceptionReturn := by
  unfold Obligations.ExceptionReturn
  intro s h hb
  refine ⟨fun hth => ⟨_, xret_trap h hb hth, ?_, ?_⟩, fun hth hpl hia => ⟨_, xret_user h hb hth hpl hia, ?_, ?_⟩,
    xret_illegal h⟩
  · rw [resumeStreams_mem, modMe_mem]
  · rintro u rfl
    rw [resumeStreams_thr, State.modMe, thr_modThr_same, ← State.me]
    exact ⟨rfl, rfl, rfl, rfl, rfl, rfl, leaveTrap_pl s.me, rfl, rfl, rfl, rfl, rfl⟩
  · rw [resumeStreams_mem, modMe_mem]
  · rintro u rfl
    rw [resumeStreams_thr, State.modMe, thr_modThr_same, ← State.me]
    exact ⟨rfl, rfl, rfl, rfl, rfl⟩

end Sys2Proof.Machine
end

section
/-! SUPPORT. CSR forms: the old value and the new one, the refusals of R138, and what a write leaves to be read. -/

namespace Sys2Proof.Machine

open Laws.RoundTrip (fieldAbove fieldWhole)

/-! ## A CSR form that is permitted (R102, R138) -/

theorem majorNat_csrWord (d a : BitVec 5) (c : BitVec 10) (k : BitVec 6) :
    majorNat (28#6 ++ d ++ a ++ c ++ k) = 0x1C := by
  simp (disch := decide) only [majorNat, fieldAbove, fieldWhole, Nat.reduceSub]
  decide

/-- A form whose register may be read, and written if the form writes it, passes the checks of R138. -/
theorem csrEarly_permitted {s : State} {n rl : Nat} {wl : Option Nat} (hl : csrLevels n = some (rl, wl))
    (hr : rl ≤ s.level) {wr : Bool} (hw : wr = true → ∃ l, wl = some l ∧ l ≤ s.level) (w : Half) :
    csrEarly w n wr s = none := by
  cases wr
  · simp [csrEarly, hl, Nat.not_lt.mpr hr]
  · obtain ⟨l, rfl, hle⟩ := hw rfl
    simp [csrEarly, hl, Nat.not_lt.mpr hr, Nat.not_lt.mpr hle]

/-- The form of a CSR word of register `n`, which it writes or only reads. -/
def csrForm (w : Half) (n : Nat) (wr : Bool) (srcs dsts : List Nat) : Form :=
  { word := w, early := csrEarly w n wr, srcs := srcs, dsts := dsts }

section
variable {s : State} {d a : BitVec 5} {c : BitVec 10} {rl : Nat} {wl : Option Nat}

/-- A permitted form of major 0x1C is `csrApply`. -/
theorem run_csrForm (h : s.Plain) {w : Half} {wr : Bool} {op : Nat} {src dst : List Nat}
    (hm : majorNat w = 0x1C) (hl : csrLevels c.toNat = some (rl, wl)) (hr : rl ≤ s.level)
    (hw : wr = true → ∃ l, wl = some l ∧ l ≤ s.level) (hi : c = 0 → s.engineIdle s.cur = true) :
    run (csrForm w c.toNat wr src dst) (csrBody w op d a c.toNat) s =
      .next (s.after (csrApply op d a c.toNat s)) := by
  have hgo : (decide (c.toNat = 0) && !s.engineIdle s.cur) = false := by
    by_cases hn : c.toNat = 0
    · rw [hi (BitVec.eq_of_toNat_eq hn), Bool.not_true, Bool.and_false]
    · rw [decide_eq_false hn, Bool.false_and]
  have hbody : csrBody w op d a c.toNat s = .done (csrApply op d a c.toNat s) := by
    rw [csrBody, hgo]
    rfl
  rw [run_major (f := csrForm w c.toNat wr src dst) h.alone 0x1C hm (by decide) (by decide) (csrEarly_permitted hl hr hw w) (Nat.zero_le _)
    (State.prefixFits_none h _), hbody, settle_done]

theorem csrr_permitted (h : s.Plain) (hl : csrLevels c.toNat = some (rl, wl)) (hr : rl ≤ s.level)
    (hi : c = 0 → s.engineIdle s.cur = true) :
    exec (.csrr d c) s = .next (s.after (csrApply 0 d 0 c.toNat s)) := by
  have hrun : exec (.csrr d c) s = run (csrForm (28#6 ++ d ++ 0#5 ++ c ++ 0#6) c.toNat false [] [d.toNat])
      (csrBody (28#6 ++ d ++ 0#5 ++ c ++ 0#6) 0 d 0 c.toNat) s := rfl
  rw [hrun, run_csrForm h (majorNat_csrWord d 0#5 c 0#6) hl hr (fun h => absurd h (by decide)) hi]

theorem csrw_permitted (h : s.Plain) (hl : csrLevels c.toNat = some (rl, wl)) (hr : rl ≤ s.level)
    (hw : ∃ l, wl = some l ∧ l ≤ s.level) (hi : c = 0 → s.engineIdle s.cur = true) :
    exec (.csrw d a c) s = .next (s.after (csrApply 1 d a c.toNat s)) := by
  have hrun : exec (.csrw d a c) s = run (csrForm (28#6 ++ d ++ a ++ c ++ 1#6) c.toNat true [a.toNat] [d.toNat])
      (csrBody (28#6 ++ d ++ a ++ c ++ 1#6) 1 d a c.toNat) s := rfl
  rw [hrun, run_csrForm h (majorNat_csrWord d a c 1#6) hl hr (fun _ => hw) hi]

theorem csrs_permitted (h : s.Plain) (hl : csrLevels c.toNat = some (rl, wl)) (hr : rl ≤ s.level)
    (hw : (a != 0) = true → ∃ l, wl = some l ∧ l ≤ s.level) (hi : c = 0 → s.engineIdle s.cur = true) :
    exec (.csrs d a c) s = .next (s.after (csrApply 2 d a c.toNat s)) := by
  have hrun : exec (.csrs d a c) s = run (csrForm (28#6 ++ d ++ a ++ c ++ 2#6) c.toNat (a != 0) [a.toNat] [d.toNat])
      (csrBody (28#6 ++ d ++ a ++ c ++ 2#6) 2 d a c.toNat) s := rfl
  rw [hrun, run_csrForm h (majorNat_csrWord d a c 2#6) hl hr hw hi]

theorem csrc_permitted (h : s.Plain) (hl : csrLevels c.toNat = some (rl, wl)) (hr : rl ≤ s.level)
    (hw : (a != 0) = true → ∃ l, wl = some l ∧ l ≤ s.level) (hi : c = 0 → s.engineIdle s.cur = true) :
    exec (.csrc d a c) s = .next (s.after (csrApply 3 d a c.toNat s)) := by
  have hrun : exec (.csrc d a c) s = run (csrForm (28#6 ++ d ++ a ++ c ++ 3#6) c.toNat (a != 0) [a.toNat] [d.toNat])
      (csrBody (28#6 ++ d ++ a ++ c ++ 3#6) 3 d a c.toNat) s := rfl
  rw [hrun, run_csrForm h (majorNat_csrWord d a c 3#6) hl hr hw hi]

end

theorem csrApply_read (d : BitVec 5) (n : Nat) (op : Nat) (h : op ≠ 1) (s : State) :
    csrApply op d 0 n s = s.setG d (BitVec.ofNat 64 (s.csrRead s.cur n)) := by
  simp [csrApply, h]

theorem csrApply_write (d a : BitVec 5) (n : Nat) (s : State) :
    csrApply 1 d a n s = (s.csrWrite s.cur n (s.g a) s.level).setG d (BitVec.ofNat 64 (s.csrRead s.cur n)) := by
  simp [csrApply]

theorem csrApply_set (d : BitVec 5) {a : BitVec 5} (h : a ≠ 0) (n : Nat) (s : State) :
    csrApply 2 d a n s = (s.csrWrite s.cur n (BitVec.ofNat 64 (s.csrRead s.cur n) ||| s.g a) s.level).setG d
      (BitVec.ofNat 64 (s.csrRead s.cur n)) := by
  have hw : a ≠ 0#5 := h
  simp [csrApply, hw]

theorem csrApply_clear (d : BitVec 5) {a : BitVec 5} (h : a ≠ 0) (n : Nat) (s : State) :
    csrApply 3 d a n s = (s.csrWrite s.cur n (BitVec.ofNat 64 (s.csrRead s.cur n) &&& ~~~(s.g a)) s.level).setG d
      (BitVec.ofNat 64 (s.csrRead s.cur n)) := by
  have hw : a ≠ 0#5 := h
  simp [csrApply, hw]

/-! ## A CSR form that is refused (R138) -/

/-- A word's own check comes before its level and its PFX word. -/
theorem run_early {f : Form} {body : State → Res} {s : State} {k : Cause} (h : s.Alone) (hx : majorNat f.word ≠ 0x38)
    (he : f.early s = some k) : run f body s = .next (s.takeTrapAt s.cur k s.me.pc false) := by
  have ha : attempt f body s = .trap s k := by simp [attempt, hx, he]
  simp [run, h.single, ha, settle_trap]

theorem csrw_refused {s : State} (h : s.Alone) (d a : BitVec 5) (c : BitVec 10) {k : Cause}
    (he : csrEarly (28#6 ++ d ++ a ++ c ++ 1#6) c.toNat true s = some k) :
    exec (.csrw d a c) s = .next (s.takeTrapAt s.cur k s.me.pc false) := by
  refine run_early h ?_ he
  rw [majorNat_csrWord]
  decide

/-! ## What a write leaves to be read (R102, R139) -/

theorem csrWrite_whole (s : State) (t : Nat) (w : Word) (lvl : Nat) :
    ∀ n ∈ [0x004, 0x008, 0x00A, 0x100, 0x102, 0x103, 0x106, 0x107, 0x108],
      (s.csrWrite t n w lvl).csrRead t n = w.toNat := by
  simp only [List.forall_mem_cons]
  refine ⟨?_, ?_, ?_, ?_, ?_, ?_, ?_, ?_, ?_, by simp⟩
  all_goals simp [State.csrWrite, State.csrRead, State.writeTepc]

theorem csrWrite_prefix (s : State) (t : Nat) (w : Word) (lvl : Nat) :
    ∀ n ∈ [0x001, 0x009, 0x104], (s.csrWrite t n w lvl).csrRead t n = w.toNat % 2 ^ 26 := by
  simp only [List.forall_mem_cons]
  refine ⟨?_, ?_, ?_, by simp⟩
  all_goals simp [State.csrWrite, State.csrRead]

theorem csrWrite_lfsr (s : State) (t : Nat) (w : Word) (lvl : Nat) :
    (s.csrWrite t 0x003 w lvl).csrRead t 0x003 = if w.toNat % 2 ^ 32 = 0 then 1 else w.toNat % 2 ^ 32 := by
  have h0 : w.setWidth 32 = 0 ↔ w.toNat % 2 ^ 32 = 0 := by
    rw [← BitVec.toNat_inj, BitVec.toNat_setWidth]
    rfl
  simp only [State.csrWrite, State.csrRead, State.writeLfsr, thr_modThr_same]
  split <;> simp_all

theorem csrWrite_tsr (s : State) (t : Nat) (w : Word) (lvl : Nat) :
    ((s.csrWrite t 0x000 w lvl).thr t).tsr = (s.thr t).tsr.write (Tsr.ofWord w) lvl := by
  simp [State.csrWrite]

theorem csrWrite_tepc (s : State) (t : Nat) (w : Word) (lvl : Nat) :
    ((s.csrWrite t 0x100 w lvl).thr t).sigV = false := by
  simp [State.csrWrite, State.writeTepc]

/-- Settles O19: a permitted form is `csrApply`, a refused one the trap of the check it fails, and each write is read back
as its register holds it. -/
theorem csrAccess : Obligations.CsrAccess := by
  unfold Obligations.CsrAccess
  refine ⟨?_, ?_, fun s t w lvl => ⟨csrWrite_whole s t w lvl, csrWrite_prefix s t w lvl, csrWrite_lfsr s t w lvl,
    csrWrite_tepc s t w lvl, ?_⟩⟩
  · rintro s d a c rl wl old h hl hr hc rfl
    refine ⟨?_, ?_, ?_, ?_⟩
    · rw [csrr_permitted h hl hr hc, csrApply_read d _ 0 (by decide)]
    · rw [csrs_permitted h hl hr (fun h => absurd h (by decide)) hc, csrApply_read d _ 2 (by decide)]
    · rw [csrc_permitted h hl hr (fun h => absurd h (by decide)) hc, csrApply_read d _ 3 (by decide)]
    rintro l rfl hle
    refine ⟨?_, fun ha => ⟨?_, ?_⟩⟩
    · rw [csrw_permitted h hl hr ⟨l, rfl, hle⟩ hc, csrApply_write]
    · rw [csrs_permitted h hl hr (fun _ => ⟨l, rfl, hle⟩) hc, csrApply_set d ha]
    · rw [csrc_permitted h hl hr (fun _ => ⟨l, rfl, hle⟩) hc, csrApply_clear d ha]
  · rintro s d a c w h rfl
    refine ⟨fun hn => csrw_refused h d a c (by simp only [csrEarly, hn]; rfl), fun rl wl hl => ⟨fun hr => ?_, ?_, ?_⟩⟩
    · exact csrw_refused h d a c (by simp only [csrEarly, hl, hr, if_true]; rfl)
    · rintro hr rfl
      exact csrw_refused h d a c (by simp [csrEarly, hl, Nat.not_lt.mpr hr]; rfl)
    · rintro l hr rfl hlt
      exact csrw_refused h d a c (by simp [csrEarly, hl, Nat.not_lt.mpr hr, hlt]; rfl)
  · rintro x rfl
    rw [csrWrite_tsr]
    exact ⟨rfl, rfl, rfl, rfl, rfl, rfl, rfl, rfl, rfl, rfl, rfl⟩

end Sys2Proof.Machine
end

section
/-! SUPPORT. Words of the partition engine: what `run` does for them, waits for the service die, selectors and control
words, and the ends that write a register (R420, R462, R465). -/

namespace Sys2Proof.Machine

open Laws.RoundTrip (fieldAbove fieldWhole)

/-! ## A word of a thread with nothing else pending -/

/-- The executing thread runs a word with no pair, stream, replay or PFX word, and the residues of its registers hold; what
is left of a wait may stand. -/
structure State.Steady (s : State) : Prop where
  single : s.me.tsr.pair = false
  noStreams : s.streaming s.cur = false
  noReplays : s.me.replaying = false
  residues : s.me.residuesHold
  noPrefix : s.me.tsr.pp = false

theorem State.Plain.steady {s : State} (h : s.Plain) : s.Steady :=
  ⟨h.alone.single, h.alone.noStreams, h.alone.noReplays, h.alone.residues, h.noPrefix⟩

theorem State.Served.steady {s : State} (h : s.Served) : s.Steady :=
  ⟨h.single, h.noStreams, h.noReplays, h.residues, h.noPrefix⟩

theorem State.Answered.steady {s : State} {bs : List Byte} (h : s.Answered bs) : s.Steady :=
  ⟨h.single, h.noStreams, h.noReplays, h.residues, h.noPrefix⟩

theorem State.Fetched.steady {s : State} {bs : List Byte} (h : s.Fetched bs) : s.Steady :=
  ⟨h.single, h.noStreams, h.noReplays, h.residues, h.noPrefix⟩

theorem State.Plain.noReply {s : State} (h : s.Plain) : s.me.op.reply = .none := by rw [h.alone.freshOp]

theorem State.Plain.noService {s : State} (h : s.Plain) : s.me.op.service = false := by rw [h.alone.freshOp]

/-- The form of a word of major 0x2D. -/
def partForm (level : Nat) (a b d x : BitVec 5) (y : BitVec 6) : Form :=
  { word := 45#6 ++ a ++ b ++ d ++ x ++ y, level := level, srcs := [a.toNat, b.toNat], dsts := [d.toNat] }

theorem majorNat_partWord (a b d x : BitVec 5) (y : BitVec 6) : majorNat (45#6 ++ a ++ b ++ d ++ x ++ y) = 0x2D := by
  simp (disch := decide) only [majorNat, fieldAbove, fieldWhole, Nat.reduceSub]
  decide

/-- A word of the partition engine that its level permits is its meaning. -/
theorem run_partForm {s : State} (h : s.Steady) {level : Nat} (hl : level ≤ s.level) (a b d x : BitVec 5) (y : BitVec 6)
    (body : State → Res) : run (partForm level a b d x y) body s = .next (settle s (body s)) := by
  have hm : majorNat (partForm level a b d x y).word = 0x2D := majorNat_partWord a b d x y
  have hlv : ¬s.level < (partForm level a b d x y).level := Nat.not_lt.mpr hl
  have he : (partForm level a b d x y).early s = none := rfl
  have hr : s.me.residueFails (partForm level a b d x y) = false := Thread.residueFails_of_hold h.residues _
  have ha : attempt (partForm level a b d x y) body s = body s := by
    simp [attempt, hm, he, hlv, h.noPrefix, Thread.heldBack_of_idle h.noReplays, hr, withStreams, h.noStreams]
  simp [run, h.single, ha]

/-! ## Waits for the service die (R462) -/

/-- A park with reason ENGINE is not interruptible. -/
theorem park_engine (s : State) (t : Nat) (o : Op) :
    s.park t .engine o = s.modThr t fun th => { th with st := .parked .engine, op := o } := by
  simp [State.park, State.offerInterrupt, SlotState.interruptible]

/-- The thread waits for the service die's answer. -/
theorem awaitsService_park {s : State} {o : Op} (ho : o.service = true) :
    s.AwaitsService ((s.park s.cur .engine o).dueOnce (.accessReply s.cur)) := by
  rw [park_engine]
  constructor
  case parked => simp
  case service => simp [ho]
  case pc => simp [State.me]
  case regs => simp [State.me]
  case answer => exact mem_dueOnce_agenda.mpr (.inr rfl)
  case same =>
    constructor
    · unfold State.dueOnce
      split <;> rfl
    · intro k hk
      show ((s.modThr s.cur _).dueOnce _).thr k = _
      rw [dueOnce_thr, thr_modThr_other _ _ hk]

theorem atService_waits {s : State} (h : s.me.op.service = false) (act : State → Res) :
    s.AwaitsService (settle s (atService act s)) := by
  simp only [atService, h, Bool.false_eq_true, if_false, settle_keep]
  exact awaitsService_park rfl

theorem atService_served {s : State} (h : s.me.op.service = true) (act : State → Res) : atService act s = act s := by
  rw [atService, h, if_pos rfl]

theorem afterRelease_waits {s : State} (h : s.me.op.service = false) (act : State → Res) :
    s.AwaitsService (settle s (afterRelease act s)) :=
  atService_waits h _

theorem afterRelease_released {s : State} (h : s.me.op.service = true) (hr : s.released s.cur = true)
    (act : State → Res) : afterRelease act s = act s := by
  rw [afterRelease, atService_served h, hr, if_pos rfl]

/-- A right is asked of a word once. -/
theorem allowed_of_right {s : State} {i : Nat} (h : s.hasRight i = true) : s.allowed i = true := by
  simp [State.allowed, h]

theorem allowed_of_service {s : State} (h : s.me.op.service = true) (i : Nat) : s.allowed i = true := by
  simp [State.allowed, h]

/-! ## Selectors (R420, R462) -/

theorem withFn_own {s : State} {n : Nat} (h : n < 384) (word : Half) (k : Nat → State → Res) :
    withFn word n k s = k s.me.fn s := by
  have hf : field n 8 0 = n := by simp [field]; omega
  have hb : bitAt n 15 = false := Nat.testBit_lt_two_pow (by omega)
  simp [withFn, State.selector, hf, hb, Nat.not_le.mpr h]

/-- A selector of level L that names a function of the lease, or one that does not exist. -/
theorem withFn_other {s : State} {f n : Nat} (hn : n = f + 32768) (hl : s.level = 2) (h : f < 384)
    (ho : s.exists? f = true → (s.fn f).lease = s.me.lease) (word : Half) (k : Nat → State → Res) :
    withFn word n k s = k f s := by
  have hf : field n 8 0 = f := by simp [field]; omega
  have hb : bitAt n 15 = true := by
    rw [bitAt, Nat.testBit_eq_decide_div_mod_eq]
    exact decide_eq_true (by omega)
  have hown : (s.exists? f && (s.fn f).lease != s.me.lease) = false := by
    by_cases he : s.exists? f = true
    · simp [ho he]
    · simp [he]
  clear hn
  simp [withFn, State.selector, hf, hb, hl, Nat.not_le.mpr h, hown]

theorem withSelector_own {s : State} {n : Nat} (h : n < 384) (word : Half) (k : Nat → State → Res) :
    withSelector word n k s = k s.me.fn s := by
  have h1 : field n 14 9 = 0 := by simp [field, Nat.shiftRight_eq_div_pow]; omega
  have h2 : field n 63 16 = 0 := by simp [field, Nat.shiftRight_eq_div_pow]; omega
  simp [withSelector, h1, h2, withFn_own h]

/-! ## Control words of VFCTL (R465) -/

/-- The fields of a control word that names a function by `x`, the suboperation `sub` and a field `i`. -/
theorem control_fields {n x sub i : Nat} (hn : n = x + 16777216 * sub + 4294967296 * i) (hx : x < 65536)
    (hs : sub < 64) (hi : i < 64) :
    field n 15 0 = x ∧ field n 29 24 = sub ∧ field n 37 32 = i ∧ field n 63 38 = 0 ∧ field n 31 30 = 0 ∧
      field n 22 21 = 0 ∧ field n 20 16 = 0 ∧ bitAt n 23 = false ∧ field n 14 9 = x / 512 % 64 ∧
      bitAt n 15 = decide (32768 ≤ x) := by
  have h23 : bitAt n 23 = false := by
    rw [bitAt, Nat.testBit_eq_decide_div_mod_eq]
    exact decide_eq_false (by omega)
  have h15 : bitAt n 15 = decide (32768 ≤ x) := by
    rw [bitAt, Nat.testBit_eq_decide_div_mod_eq]
    exact decide_eq_decide.mpr (by omega)
  simp only [h23, h15, field, Nat.shiftRight_eq_div_pow, Nat.reduceAdd, Nat.reduceSub, Nat.reducePow, and_true, true_and]
  omega

theorem fieldNo_control {s : State} {a : BitVec 5} {x sub i : Nat}
    (hn : s.gn a = x + 16777216 * sub + 4294967296 * i) (hx : x < 65536) (hs : sub < 64) (hi : i < 64) :
    s.fieldNo a = i := by
  obtain ⟨_, _, h37, _⟩ := control_fields hn hx hs hi
  exact h37

/-- A control word that names a function passes to its selector. -/
theorem withControl_fn {s : State} {a : BitVec 5} {x sub i : Nat}
    (hn : s.gn a = x + 16777216 * sub + 4294967296 * i) (hx : x < 65536) (hx9 : x / 512 % 64 = 0) (hs : sub < 7)
    (hi : i < 64) (hlv : s.level = 1 → sub = 0 ∧ x < 32768) (word : Half) (kf kl : Nat → State → Res) :
    withControl word a sub kf kl s = withFn word x kf s := by
  obtain ⟨h15, h29, _, h63, h31, h22, h20, h23, h14, hb⟩ := control_fields hn hx (by omega) hi
  have hguard : (decide (s.level = 1) && (sub != 0 || false || decide (32768 ≤ x))) = false := by
    by_cases hl : s.level = 1
    · obtain ⟨rfl, hlt⟩ := hlv hl
      simp [hlt]
    · simp [hl]
  simp only [withControl, h23, hb, hguard, h63, h31, h22, h14, h20, h29, h15, hx9, Nat.not_le.mpr hs, bne_self_eq_false,
    Bool.and_false, Bool.or_self, decide_false, Bool.false_eq_true, if_false]

/-! ## Ends that write a register -/

theorem reg_of_g {th th' : Thread} (h : th'.g = th.g) (k : Nat) : th'.reg k = th.reg k := by
  rw [Thread.reg, h, Thread.reg]

@[simp] theorem noteClamp_mem (s : State) (t : Nat) (x : Scope) : (s.noteClamp t x).mem = s.mem := by
  unfold State.noteClamp
  split <;> rfl

theorem noteClamp_g (s : State) (t : Nat) (x : Scope) : ((s.noteClamp t x).thr t).g = (s.thr t).g := by
  unfold State.noteClamp
  split <;> simp

/-- A word that ends with a write of its register, with the thread's registers and memory otherwise as they were. -/
theorem wrote_of_regs {s s1 : State} {d : BitVec 5} {v : Word} (hm : s1.mem = s.mem)
    (hg : (s1.thr s.cur).g = (s.me.put d.toNat v).g) : s.Wrote (s.after s1) d v where
  reg k := by rw [after_thr, reg_of_g (complete_g ..), reg_of_g hg, reg_put]
  pc := by rw [after_thr]; rfl
  running := by rw [after_thr]; rfl
  mem := hm

theorem put_g_congr {th th' : Thread} (h : th'.g = th.g) (r : Nat) (v : Word) : (th'.put r v).g = (th.put r v).g := by
  unfold Thread.put
  split
  · exact h
  · rw [h]

theorem wrote_setG {s s1 : State} {d : BitVec 5} {v : Word} (hc : s1.cur = s.cur) (hm : s1.mem = s.mem)
    (hg : (s1.thr s.cur).g = s.me.g) : s.Wrote (s.after (s1.setG d v)) d v := by
  refine wrote_of_regs hm ?_
  rw [State.setG, State.modMe, hc, thr_modThr_same, put_g_congr hg]

theorem wrote_setG_noteClamp {s s1 : State} {d : BitVec 5} {v : Word} (x : Scope) (hc : s1.cur = s.cur)
    (hm : s1.mem = s.mem) (hg : (s1.thr s.cur).g = s.me.g) :
    s.Wrote (s.after ((s1.setG d v).noteClamp s.cur x)) d v := by
  refine wrote_of_regs ((noteClamp_mem ..).trans hm) ?_
  rw [noteClamp_g, State.setG, State.modMe, hc, thr_modThr_same, put_g_congr hg]

end Sys2Proof.Machine
end

section
/-! SUPPORT. DLAUNCH: its waits, the read of its record, and the entry of the record into a queue (R454, R455, R463). -/

namespace Sys2Proof.Machine

/-! ## A record enters a queue (R454, R455) -/

theorem enterLaunch_bad {s : State} {f : Nat} {bs : List Byte} (h : badRecord bs = true) :
    s.enterLaunch f bs = (s, .error 1) := by
  simp [State.enterLaunch, h]

theorem enterLaunch_full {s : State} {f : Nat} {bs : List Byte} (h : badRecord bs = false)
    (hq : 16 ≤ (vget [] (s.fn f).queues (byteAt bs 13 % 4)).length) : s.enterLaunch f bs = (s, .error 2) := by
  simp [State.enterLaunch, h, hq]

/-- The launch that a record becomes. -/
def State.newLaunch (s : State) (f : Nat) (bs : List Byte) : Launch :=
  { number := s.nextLaunch % 65536, fn := f, bytes := bs }

/-- The state in which a record has entered its queue under the next launch number. -/
def State.launched (s : State) (f : Nat) (bs : List Byte) : State :=
  { s.modFn f fun k => { k with queues := vmod [] k.queues (byteAt bs 13 % 4) fun q => q ++ [s.newLaunch f bs] } with
    nextLaunch := (s.nextLaunch % 65536 + 1) % 65536 }.dueOnce .placementPass

theorem enterLaunch_ok {s : State} {f : Nat} {bs : List Byte} (h : badRecord bs = false)
    (hq : (vget [] (s.fn f).queues (byteAt bs 13 % 4)).length < 16)
    (hf : launchW bs * launchH bs ≤ (s.fn f).qmax)
    (hl : launchW bs * launchH bs ≤ (s.lse (s.fn f).lease).qmax) :
    s.enterLaunch f bs = (s.launched f bs, .ok (s.nextLaunch % 65536)) := by
  simp only [State.enterLaunch, h, Nat.not_le.mpr hq, Nat.not_lt.mpr hf, Nat.not_lt.mpr hl, decide_false, Bool.or_self,
    Bool.false_eq_true, if_false]
  rfl

theorem launched_queue (s : State) (f : Nat) (bs : List Byte) :
    vget [] ((s.launched f bs).fn f).queues (byteAt bs 13 % 4) =
      vget [] (s.fn f).queues (byteAt bs 13 % 4) ++ [s.newLaunch f bs] := by
  rw [State.launched, dueOnce_fn]
  have hfn := fn_modFn_same s f fun k =>
    { k with queues := vmod [] k.queues (byteAt bs 13 % 4) fun q => q ++ [s.newLaunch f bs] }
  exact (congrArg (fun k : Func => vget [] k.queues (byteAt bs 13 % 4)) hfn).trans
    (vget_vmod_same _ _ _ (Nat.mod_lt _ (by decide)))

/-! ## The word (R463) -/

/-- What DLAUNCH does with its record. -/
def launchEnd (f : Nat) (d : BitVec 5) (x : Scope) (bs : List Byte) (s : State) : Res :=
  .done (((s.enterLaunch f bs).1.setGn d (launchWord (s.enterLaunch f bs).2)).noteClamp (s.enterLaunch f bs).1.cur x)

section
variable {s : State} {a b d : BitVec 5} {x : Scope}

/-- A DLAUNCH that passes its checks reads its record, once the service die has it. -/
theorem dlaunch_checked (h : s.Steady) (hl : 1 ≤ s.level) (hb : s.gn b < 384) (he : s.exists? s.me.fn = true)
    (ha : (s.g a).toNat % 64 = 0) (hx : s.checkScope s.cur (scopeWord 5) = .ok x) (hr : s.allowed 0 = true) :
    exec (.dlaunch a b d) s = .next (settle s (match s.me.op.reply with
      | .none => afterRelease (serviceRead (s.g a) 64 64 (launchEnd s.me.fn d x)) s
      | _ => serviceRead (s.g a) 64 64 (launchEnd s.me.fn d x) s)) := by
  have hrun : exec (.dlaunch a b d) s = run (partForm 1 a b d 0#5 0#6)
      (dlaunchBody (45#6 ++ a ++ b ++ d ++ 0#5 ++ 0#6) a b d) s := rfl
  rw [hrun, run_partForm h hl]
  simp only [dlaunchBody, withSelector_own hb, hr, he, ha, withScope, hx, Bool.not_true, bne_self_eq_false,
    Bool.false_eq_true, if_false]
  rfl

theorem dlaunch_waits (h : s.Plain) (hl : 1 ≤ s.level) (hb : s.gn b < 384) (he : s.exists? s.me.fn = true)
    (ha : (s.g a).toNat % 64 = 0) (hx : s.checkScope s.cur (scopeWord 5) = .ok x) (hr : s.hasRight 0 = true) :
    ∃ t, exec (.dlaunch a b d) s = .next t ∧ s.AwaitsService t := by
  refine ⟨_, dlaunch_checked h.steady hl hb he ha hx (allowed_of_right hr), ?_⟩
  rw [h.noReply]
  exact afterRelease_waits h.noService _

/-- The parts of an access that moves bytes are some. -/
theorem splitAt_ne_nil {g k a n : Nat} (hn : n ≠ 0) : splitAt g (k + 1) a n ≠ [] := by
  rw [splitAt]
  split
  · contradiction
  · split <;> exact List.cons_ne_nil _ _

/-- A park overwrites what the thread kept of its operation. -/
theorem modMe_op_park (s : State) (o o' : Op) :
    (s.modMe fun th => { th with op := o }).park s.cur .engine o' = s.park s.cur .engine o' := by
  rw [park_engine, park_engine, State.modMe, modThr_modThr]

/-- The first access of the service die's read, at the core's own TCM. -/
theorem nextAccess_own {o : Op} {l : Access} {ls : List Access} (ho : o.service = true) (hl : o.todo = l :: ls)
    (hd : l.dest = .tcm s.here) : (s.modMe fun th => { th with op := o }).nextAccess s.cur =
      (s.park s.cur .engine { o with phase := 0 }).dueOnce (.accessReply s.cur) := by
  have hme : (s.modMe fun th => { th with op := o }).thr s.cur = { s.me with op := o } := by
    rw [State.modMe, thr_modThr_same]
    rfl
  simp only [State.nextAccess, hme, hl, hd, pathOf, State.here, if_true, Op.reason, ho]
  rw [modMe_op_park]

/-- A read for the service die from the core's own TCM parks the thread until its bytes have come. -/
theorem serviceRead_waits {ea da : Word} {n k y : Nat} (hn : n ≠ 0) (hnone : s.me.op.reply = .none)
    (hs : s.segCheck s.me (quadOf s.here) ea n rightR = .ok (da, .tcm s.here, y)) (ha : da.toNat % k = 0)
    (fin : List Byte → State → Res) : s.AwaitsService (settle s (serviceRead ea n k fin s)) := by
  have hreach : s.reach s.cur ea n rightR k 0 false =
      .ok s da ((splitAt 64 (n / 16 + 1 + 1) y n).map fun p => (.tcm s.here, p.1, p.2)) := by
    have hseg : s.segCheck (s.thr s.cur) (quadOf (coreOf s.cur)) ea n rightR = .ok (da, .tcm s.here, y) := hs
    have hpath : granule (pathOf (coreOf s.cur) (.tcm s.here)) = 64 := by simp [pathOf, State.here, granule]
    simp [State.reach, hseg, ha, hpath]
  obtain ⟨p, ps, hps⟩ := List.exists_cons_of_ne_nil (splitAt_ne_nil (g := 64) (k := n / 16 + 1) (a := y) hn)
  simp only [serviceRead, memAccess, hnone, hreach, hps, List.map_cons, settle_keep]
  rw [nextAccess_own rfl rfl rfl]
  exact awaitsService_park rfl

theorem dlaunch_reads {da : Word} {y : Nat} (h : s.Served) (hl : 1 ≤ s.level) (hb : s.gn b < 384)
    (he : s.exists? s.me.fn = true) (ha : (s.g a).toNat % 64 = 0) (hx : s.checkScope s.cur (scopeWord 5) = .ok x)
    (hrel : s.released s.cur = true) (ho : s.OwnTcm (s.g a) da y 64 1) (hda : da.toNat % 64 = 0) :
    ∃ t, exec (.dlaunch a b d) s = .next t ∧ s.AwaitsService t := by
  refine ⟨_, dlaunch_checked h.steady hl hb he ha hx (allowed_of_service h.service 0), ?_⟩
  rw [h.fresh]
  simp only
  rw [afterRelease_released h.service hrel]
  exact serviceRead_waits (by decide) h.fresh ho.place hda _

/-- A DLAUNCH whose record has been read ends with the record's entry. -/
theorem dlaunch_fetched {bs : List Byte} (h : s.Fetched bs) (hl : 1 ≤ s.level) (hb : s.gn b < 384)
    (he : s.exists? s.me.fn = true) (ha : (s.g a).toNat % 64 = 0) (hx : s.checkScope s.cur (scopeWord 5) = .ok x) :
    exec (.dlaunch a b d) s = .next (settle s (launchEnd s.me.fn d x bs s)) := by
  have hr : s.allowed 0 = true := by simp [State.allowed, h.reply]
  have hdue : (s.me.op.insn.isSome || s.me.op.service) = true := by simpa using h.due
  rw [dlaunch_checked h.steady hl hb he ha hx hr]
  simp only [h.reply, serviceRead, memAccess, hdue, h.got, if_true]

/-- The end of a DLAUNCH whose record is refused at entry. -/
theorem launchEnd_refused {f c : Nat} {bs : List Byte} (hent : s.enterLaunch f bs = (s, .error c)) :
    s.Wrote (settle s (launchEnd f d x bs s)) d (BitVec.ofNat 64 (2 ^ 63 + c <<< 56)) := by
  rw [launchEnd, hent, settle_done]
  exact wrote_setG_noteClamp x rfl rfl rfl

@[simp] theorem noteClamp_fn (s : State) (t : Nat) (x : Scope) (f : Nat) : (s.noteClamp t x).fn f = s.fn f := by
  unfold State.noteClamp
  split <;> rfl

@[simp] theorem noteClamp_agenda (s : State) (t : Nat) (x : Scope) : (s.noteClamp t x).agenda = s.agenda := by
  unfold State.noteClamp
  split <;> rfl

@[simp] theorem noteClamp_nextLaunch (s : State) (t : Nat) (x : Scope) :
    (s.noteClamp t x).nextLaunch = s.nextLaunch := by
  unfold State.noteClamp
  split <;> rfl

@[simp] theorem after_fn (s s1 : State) (f : Nat) : (s.after s1).fn f = s1.fn f := rfl

@[simp] theorem after_agenda (s s1 : State) : (s.after s1).agenda = s1.agenda := rfl

/-- The end of a DLAUNCH whose record enters its queue. -/
theorem launchEnd_entered {f : Nat} {bs : List Byte}
    (hent : s.enterLaunch f bs = (s.launched f bs, .ok (s.nextLaunch % 65536))) :
    ∃ t l, settle s (launchEnd f d x bs s) = t ∧ s.Wrote t d (BitVec.ofNat 64 (s.nextLaunch % 65536)) ∧
      vget [] (t.fn f).queues (byteAt bs 13 % 4) = vget [] (s.fn f).queues (byteAt bs 13 % 4) ++ [l] ∧
      l.number = s.nextLaunch % 65536 ∧ l.bytes = bs ∧ l.fn = f ∧
      t.nextLaunch = (s.nextLaunch % 65536 + 1) % 65536 ∧ .placementPass ∈ t.agenda := by
  have hcur : (s.launched f bs).cur = s.cur := dueOnce_cur ..
  have hmem : (s.launched f bs).mem = s.mem := dueOnce_mem ..
  have hthr : (s.launched f bs).thr s.cur = s.me := dueOnce_thr ..
  have hnext : (s.launched f bs).nextLaunch = (s.nextLaunch % 65536 + 1) % 65536 := dueOnce_nextLaunch ..
  have hend : settle s (launchEnd f d x bs s) =
      s.after (((s.launched f bs).setG d (BitVec.ofNat 64 (s.nextLaunch % 65536))).noteClamp s.cur x) := by
    rw [launchEnd, hent, settle_done, hcur]
    rfl
  refine ⟨_, s.newLaunch f bs, hend, wrote_setG_noteClamp x hcur hmem (by rw [hthr]), ?_, rfl, rfl, rfl, ?_, ?_⟩
  · rw [after_fn, noteClamp_fn]
    exact launched_queue s f bs
  · exact (noteClamp_nextLaunch ..).trans hnext
  · rw [after_agenda, noteClamp_agenda]
    exact mem_dueOnce_agenda.mpr (.inr rfl)

end

end Sys2Proof.Machine
end

section
/-! SUPPORT. The orders of MIGR: what the hold of a matrix operation keeps, and MOVE, HOME, EVICT and RESUME (R101, R461,
R464). -/

namespace Sys2Proof.Machine

/-! ## What the hold of a core's matrix operation keeps (R245) -/

theorem watchHit_orders (s : State) (a n : Nat) : (s.watchHit a n).orders = s.orders := by
  simp only [State.watchHit]
  split
  · rfl
  · refine foldl_keeps State.orders ?_ _ _
    exact fun _ _ => rfl

theorem putAcc_orders (s : State) (a : Nat) (bs : List Byte) : (s.putAcc a bs).orders = s.orders := by
  simp only [State.putAcc, watchHit_orders]
  split <;> rfl

theorem raiseFor_orders (s : State) (m : MatOp) (f : Flags) : (s.raiseFor m f).orders = s.orders := by
  unfold State.raiseFor State.raise
  split
  · rfl
  · split <;> rfl

theorem spill_orders (s : State) (c : Nat) (m : MatOp) (cause tile : Nat) (acce : Bool) :
    (s.spill c m cause tile acce).orders = s.orders := by
  simp only [State.spill, modCore_orders]
  split
  · rfl
  · rw [raiseFor_orders, putAcc_orders]

theorem holdMat_orders (s : State) (c cause : Nat) : (s.holdMat c cause).orders = s.orders := by
  unfold State.holdMat
  split
  · split
    · rfl
    · rw [dueOnce_orders, modCore_orders]
      split
      · rw [spill_orders, raiseFor_orders]
      · rfl
  · rfl

theorem spill_leaving (s : State) (c : Nat) (m : MatOp) (cause tile : Nat) (acce : Bool) (e : Nat) :
    ((s.spill c m cause tile acce).core e).leaving = (s.core e).leaving := by
  simp only [State.spill]
  refine Eq.trans (core_modCore_keeps Core.leaving _ c e ?_) ?_
  · exact fun _ => rfl
  · split <;> simp

theorem holdMat_leaving (s : State) (c cause e : Nat) : ((s.holdMat c cause).core e).leaving = (s.core e).leaving := by
  unfold State.holdMat
  split
  · split
    · rfl
    · rw [dueOnce_core]
      refine Eq.trans (core_modCore_keeps Core.leaving _ c e ?_) ?_
      · exact fun _ => rfl
      · split
        · rw [spill_leaving, raiseFor_core]
        · exact core_modCore_keeps Core.leaving _ c e fun _ => rfl
  · rfl

/-- A core without an operation has nothing to hold. -/
theorem holdMat_idle {s : State} {c : Nat} (h : (s.core c).mop = none) (cause : Nat) : s.holdMat c cause = s := by
  rw [State.holdMat, h]

/-! ## Empty shadow latches (R202) -/

theorem emptyLatches_orders (s : State) (c : Nat) : (s.emptyLatches c).orders = s.orders := by
  refine foldl_keeps State.orders (fun t i => ?_) _ _
  split <;> rfl

@[simp] theorem emptyLatches_cur (s : State) (c : Nat) : (s.emptyLatches c).cur = s.cur := by
  refine foldl_keeps State.cur (fun t i => ?_) _ _
  split <;> rfl

@[simp] theorem emptyLatches_mem (s : State) (c : Nat) : (s.emptyLatches c).mem = s.mem := by
  refine foldl_keeps State.mem (fun t i => ?_) _ _
  split <;> rfl

/-- Of a thread only its latch is emptied. -/
theorem emptyLatches_g (s : State) (c u : Nat) : ((s.emptyLatches c).thr u).g = (s.thr u).g := by
  refine foldl_keeps (fun t : State => (t.thr u).g) (fun t i => ?_) _ _
  split
  · exact thr_modThr_keeps Thread.g t _ u fun _ => rfl
  · rfl

/-! ## The start of a move (R101) -/

theorem startMove_leaving (s : State) (c : Nat) : ((s.startMove c).core c).leaving = true := by
  rw [State.startMove, emptyLatches_core, holdMat_leaving, core_modCore_same]

theorem startMove_orders (s : State) (c : Nat) : (s.startMove c).orders = s.orders := by
  rw [State.startMove, emptyLatches_orders, holdMat_orders, modCore_orders]

/-- What the start of a move leaves as it was, where no matrix operation runs. -/
theorem startMove_idle {s : State} {c : Nat} (h : (s.core c).mop = none) (u : Nat) :
    (s.startMove c).cur = s.cur ∧ (s.startMove c).mem = s.mem ∧ ((s.startMove c).thr u).g = (s.thr u).g := by
  have hm : ((s.modCore c fun k => { k with leaving := true }).core c).mop = none := by rw [core_modCore_same, ← h]
  rw [State.startMove, holdMat_idle hm, emptyLatches_cur, emptyLatches_mem, emptyLatches_g]
  exact ⟨rfl, rfl, rfl⟩

/-! ## MIGR (R464) -/

section
variable {s : State} {a b d : BitVec 5}

theorem withMigr_permitted {o : Nat} (hr : s.allowed 5 = true) (ho : s.gn a = o) (word : Half) (act : State → Res) :
    withMigr word o a act s = atService act s := by
  simp [withMigr, hr, ho]

theorem withCore_held (hc : s.gn b < 65536) (hv : validCore (s.gn b) = true)
    (hl : s.leaseHolds s.me.lease (s.gn b) = true) (act : Nat → State → Res) : withCore b act s = act (s.gn b) s := by
  simp [withCore, Nat.not_le.mpr hc, hv, hl]

/-- What the service die does for EVICT with the function that the selector names. -/
def evictAct (d : BitVec 5) (f : Nat) (s : State) : Res :=
  if s.fnState f != 2 || s.busyOrder false f then .done (s.setG d 0) else .done ((s.startEvict f s.me.lease).setG d 1)

/-- What it does for RESUME. -/
def resumeAct (d : BitVec 5) (f : Nat) (s : State) : Res :=
  if s.fnState f != 3 || s.busyOrder false f then .done (s.setG d 0) else .done ((s.startResume f s.me.lease).setG d 1)

/-- The four rows of MIGR, by order code: what the service die does. -/
def migrAct (o : Nat) (a b d : BitVec 5) (s : State) : Res :=
  match o with
  | 0 => withCore b (migrMoveAct d) s
  | 1 => withCore b (migrHomeAct d) s
  | 2 => withSelector (45#6 ++ a ++ b ++ d ++ 0#5 ++ 1#6) (s.gn b) (evictAct d) s
  | _ => withSelector (45#6 ++ a ++ b ++ d ++ 0#5 ++ 1#6) (s.gn b) (resumeAct d) s

/-- The row of an order code. -/
noncomputable def migrRow (o : Nat) (a b d : BitVec 5) : Instr :=
  if o = 0 then .migrMove a b d else if o = 1 then .migrHome a b d else if o = 2 then .migrEvict a b d
  else .migrResume a b d

theorem migr_checked (h : s.Steady) (hl : 2 ≤ s.level) {o : Nat} (ho : o < 4) (ha : s.gn a = o)
    (hr : s.allowed 5 = true) : exec (migrRow o a b d) s = .next (settle s (atService (migrAct o a b d) s)) := by
  have hrun : exec (migrRow o a b d) s =
      run (partForm 2 a b d 0#5 1#6) (withMigr (45#6 ++ a ++ b ++ d ++ 0#5 ++ 1#6) o a (migrAct o a b d)) s := by
    obtain rfl | rfl | rfl | rfl : o = 0 ∨ o = 1 ∨ o = 2 ∨ o = 3 := by omega
    all_goals rfl
  rw [hrun, run_partForm h hl, withMigr_permitted hr ha]

theorem migr_waits (h : s.Plain) (hl : 2 ≤ s.level) {o : Nat} (ho : o < 4) (ha : s.gn a = o)
    (hr : s.hasRight 5 = true) : ∃ t, exec (migrRow o a b d) s = .next t ∧ s.AwaitsService t :=
  ⟨_, migr_checked h.steady hl ho ha (allowed_of_right hr), atService_waits h.noService _⟩

theorem migr_served (h : s.Served) (hl : 2 ≤ s.level) {o : Nat} (ho : o < 4) (ha : s.gn a = o) :
    exec (migrRow o a b d) s = .next (settle s (migrAct o a b d s)) := by
  rw [migr_checked h.steady hl ho ha (allowed_of_service h.service 5), atService_served h.service]

/-! ### MOVE and HOME -/

@[simp] theorem after_orders (s s1 : State) : (s.after s1).orders = s1.orders := rfl

@[simp] theorem order_core (s : State) (o c x e : Nat) : (s.order o c x).core e = s.core e := rfl

/-- An order that starts a move: the core leaves, its event is due, and gd receives 1. -/
theorem orderMove_spec {o c : Nat} (d : BitVec 5) (e : Instr) :
    ∀ t, t = s.after ((((s.order o c 0).startMove c).due e).setG d 1) →
      ((s.core c).mop = none → s.Wrote t d 1) ∧ (t.core c).leaving = true ∧ e ∈ t.agenda ∧
      t.orders = s.orders ++ [{ code := o, arg := c, lease := s.me.lease, stop := 0 }] := by
  rintro t rfl
  refine ⟨fun hm => ?_, ?_, ?_, ?_⟩
  · obtain ⟨hcur, hmem, hg⟩ := startMove_idle (s := s.order o c 0) (c := c) hm s.cur
    exact wrote_setG ((due_cur ..).trans hcur) ((due_mem ..).trans hmem) ((congrArg Thread.g (due_thr ..)).trans hg)
  · rw [after_core, setG_core, due_core, startMove_leaving]
  · rw [after_agenda, setG_agenda]
    exact mem_due_agenda.mpr (.inr rfl)
  · rw [after_orders, setG_orders, due_orders, startMove_orders]
    rfl

theorem migrMove_busy {c : Nat} (h : s.busyOrder true c = true) : migrMoveAct d c s = .done (s.setG d 0) := by
  simp [migrMoveAct, h]

theorem migrHome_busy {c : Nat} (h : s.busyOrder true c = true) : migrHomeAct d c s = .done (s.setG d 0) := by
  simp [migrHomeAct, h]

theorem migrMove_spare {c x : Nat} (hb : s.busyOrder true c = false) (ha : (s.core c).away = false)
    (hs : (s.core c).place.service ≠ .absent) (hx : s.spareFor c = some x) (hr : s.remapsFull c = false) :
    migrMoveAct d c s =
      .done ((((s.order 0 c 0).startMove c).due (.remapExceptionCommit c (x / 64) (x % 64))).setG d 1) := by
  simp [migrMoveAct, hb, ha, hs, hx, hr]

theorem migrHome_nominal {c : Nat} (hb : s.busyOrder true c = false) (ha : (s.core c).away = false)
    (hs : (s.core c).place.service ≠ .absent) (he : (s.core c).place.exception = true)
    (hu : (s.core c).place.unsound = false) :
    migrHomeAct d c s = .done ((((s.order 1 c 0).startMove c).due (.liveMigrationDone c)).setG d 1) := by
  simp [migrHomeAct, hb, ha, hs, he, hu]

/-! ### EVICT and RESUME -/

theorem gangHold_orders (s : State) (f : Nat) : (s.gangHold f).orders = s.orders := by
  rw [gangHold_eq]
  refine foldl_keeps State.orders (fun t c => ?_) _ _
  rw [emptyLatches_orders, holdMat_orders, modCore_orders]

/-- The hold of a gang leaves memory and registers as they were, where no matrix operation runs. -/
theorem gangHold_idle (h : ∀ c, (s.core c).mop = none) (f u : Nat) :
    (s.gangHold f).cur = s.cur ∧ (s.gangHold f).mem = s.mem ∧ ((s.gangHold f).thr u).g = (s.thr u).g := by
  rw [gangHold_eq]
  suffices hall : ∀ t : State, t = (quadCores (s.quadsOf f)).foldl (fun s c =>
      ((s.modCore c fun k => { k with ganged := true }).holdMat c 5).emptyLatches c) s →
      (∀ c, (t.core c).mop = none) ∧ t.cur = s.cur ∧ t.mem = s.mem ∧ (t.thr u).g = (s.thr u).g from
    (hall _ rfl).2
  rintro t rfl
  refine List.foldlRecOn (motive := fun t : State => (∀ c, (t.core c).mop = none) ∧ t.cur = s.cur ∧ t.mem = s.mem ∧
    (t.thr u).g = (s.thr u).g) _ _ ⟨h, rfl, rfl, rfl⟩ fun t ht c _ => ?_
  obtain ⟨hm, hcur, hmem, hg⟩ := ht
  have hm' (e : Nat) : ((t.modCore c fun k => { k with ganged := true }).core e).mop = none := by
    refine (core_modCore_keeps Core.mop t c e ?_).trans (hm e)
    exact fun _ => rfl
  rw [holdMat_idle (hm' c), emptyLatches_cur, emptyLatches_mem, emptyLatches_g]
  exact ⟨fun e => by rw [emptyLatches_core, hm'], hcur, hmem, hg⟩

/-- EVICT of an active function is accepted. -/
theorem evict_active {f : Nat} (hs : s.fnState f = 2) (hb : s.busyOrder false f = false) :
    ∃ t, settle s (evictAct d f s) = t ∧ ((∀ c, (s.core c).mop = none) → s.Wrote t d 1) ∧
      .migrOrderEnd 2 f ∈ t.agenda ∧ t.orders = s.orders ++ [{ code := 2, arg := f, lease := s.me.lease }] := by
  have hact : evictAct d f s = .done ((s.startEvict f s.me.lease).setG d 1) := by simp [evictAct, hs, hb]
  refine ⟨_, by rw [hact, settle_done], fun hm => ?_, ?_, ?_⟩
  · obtain ⟨hcur, hmem, hg⟩ :=
      gangHold_idle (s := s.addOrder { code := 2, arg := f, lease := s.me.lease }) hm f s.cur
    exact wrote_setG (s1 := s.startEvict f s.me.lease) hcur hmem hg
  · rw [after_agenda, setG_agenda]
    exact mem_due_agenda.mpr (.inr rfl)
  · rw [after_orders, setG_orders, State.startEvict, due_orders, gangHold_orders]
    rfl

theorem State.MeterOnly.foldl {β : Type} {f : State → β → State} (h : ∀ (s : State) (x : β), s.MeterOnly (f s x))
    (l : List β) (s : State) : s.MeterOnly (l.foldl f s) :=
  List.foldlRecOn (motive := s.MeterOnly) l f (.refl s) fun _ ht x _ => ht.trans (h _ x)

/-- An accepted RESUME notes its order and what is to be restored; beyond that it changes quads and the agenda. -/
theorem startResume_quads (s : State) (f l : Nat) :
    ((s.addOrder { code := 3, arg := f, lease := l }).modFn f fun k =>
      { k with resume := (s.fn f).saved }).MeterOnly (s.startResume f l) := by
  simp only [State.startResume]
  refine State.MeterOnly.trans (.foldl (fun t q => ?_) _ _) ⟨_, _, rfl⟩
  split
  · exact .modQuad ..
  · exact .modQuad ..
  · exact .refl _

theorem State.MeterOnly.fn {s t : State} (h : s.MeterOnly t) (f : Nat) : t.fn f = s.fn f := by
  obtain ⟨_, _, rfl⟩ := h
  rfl

theorem State.MeterOnly.orders {s t : State} (h : s.MeterOnly t) : t.orders = s.orders := by
  obtain ⟨_, _, rfl⟩ := h
  rfl

/-- RESUME of an evicted function is accepted. -/
theorem resume_evicted {f : Nat} (hs : s.fnState f = 3) (hb : s.busyOrder false f = false) :
    ∃ t, settle s (resumeAct d f s) = t ∧ s.Wrote t d 1 ∧ .migrOrderEnd 3 f ∈ t.agenda ∧
      (t.fn f).resume = (s.fn f).saved ∧ t.orders = s.orders ++ [{ code := 3, arg := f, lease := s.me.lease }] := by
  have hact : resumeAct d f s = .done ((s.startResume f s.me.lease).setG d 1) := by simp [resumeAct, hs, hb]
  have hq := startResume_quads s f s.me.lease
  refine ⟨_, by rw [hact, settle_done], wrote_setG hq.cur hq.mem ?_, ?_, ?_, ?_⟩
  · rw [hq.thr]
    rfl
  · rw [after_agenda, setG_agenda]
    exact mem_due_agenda.mpr (.inr rfl)
  · rw [after_fn, setG_fn, hq.fn, fn_modFn_same]
  · rw [after_orders, setG_orders, hq.orders]
    rfl

end

end Sys2Proof.Machine
end

section
/-! SUPPORT. VFCTL: fields, functions, translations and page waiters (R448, R465). -/

namespace Sys2Proof.Machine

section
variable {s : State} {a b d : BitVec 5}

/-- A word that asks the service die waits for it. -/
theorem waits_of_atService {i : Instr} {act : State → Res} (h : s.Plain)
    (hi : exec i s = .next (settle s (atService act s))) : ∃ t, exec i s = .next t ∧ s.AwaitsService t :=
  ⟨_, hi, atService_waits h.noService act⟩

/-- A word that the service die has answered acts. -/
theorem served_of_atService {i : Instr} {act : State → Res} (h : s.Served)
    (hi : exec i s = .next (settle s (atService act s))) : exec i s = .next (settle s (act s)) := by
  rw [hi, atService_served h.service]

/-! ## READ FIELD and WRITE FIELD (R448, R465) -/

theorem readField_asks (h : s.Steady) (hl : 1 ≤ s.level) {x i : Nat} (ha : s.gn a = x + 4294967296 * i)
    (hx : x < 384) (hi : i < 12) (hb : s.g b = 0) :
    exec (.vfctlReadField a b d) s =
      .next (settle s (atService (fun t => .done (t.setGn d (t.fnField s.me.fn (t.fieldNo a)))) s)) := by
  have hrun : exec (.vfctlReadField a b d) s = run (partForm 1 a b d 0#5 2#6)
      (readBody (45#6 ++ a ++ b ++ d ++ 0#5 ++ 2#6) a b d) s := rfl
  have hno : s.fieldNo a = i := fieldNo_control (sub := 0) ha (by omega) (by omega) (by omega)
  rw [hrun, run_partForm h hl, readBody,
    withControl_fn (sub := 0) ha (by omega) (by omega) (by omega) (by omega) fun _ => ⟨rfl, by omega⟩, withFn_own hx]
  have hguard : (decide (12 ≤ s.fieldNo a) || s.g b != 0) = false := by simp [hno, Nat.not_le.mpr hi, hb]
  rw [hguard]
  rfl

theorem readField_served (h : s.Served) (hl : 1 ≤ s.level) {x i : Nat} (ha : s.gn a = x + 4294967296 * i)
    (hx : x < 384) (hi : i < 12) (hb : s.g b = 0) :
    exec (.vfctlReadField a b d) s = .next (s.after (s.setGn d (s.fnField s.me.fn i))) := by
  have hno : s.fieldNo a = i := fieldNo_control (sub := 0) ha (by omega) (by omega) (by omega)
  rw [served_of_atService h (readField_asks h.steady hl ha hx hi hb), hno, settle_done]

/-- The service die stores SCOPEMAX of a function. -/
def scopemaxAct (d : BitVec 5) (f v old : Nat) (s : State) : Res :=
  .done ((s.modFn f fun k => k.setField 3 v).setGn d old)

theorem writeScopemax_asks (h : s.Steady) (hl : 2 ≤ s.level) {x : Nat} (ha : s.gn a = x + 16777216 + 4294967296 * 3)
    (hx : x < 384) (he : s.exists? s.me.fn = true) (hv : s.gn b < 32) :
    exec (.vfctlWriteField a b d) s = .next (settle s
      (atService (scopemaxAct d s.me.fn (s.gn b) (s.fnField s.me.fn 3)) s)) := by
  have hrun : exec (.vfctlWriteField a b d) s = run (partForm 1 a b d 0#5 2#6)
      (withControl (45#6 ++ a ++ b ++ d ++ 0#5 ++ 2#6) a 1 (writeFn (45#6 ++ a ++ b ++ d ++ 0#5 ++ 2#6) a b d)
        (writeLse (45#6 ++ a ++ b ++ d ++ 0#5 ++ 2#6) a b d)) s := rfl
  have ha' : s.gn a = x + 16777216 * 1 + 4294967296 * 3 := ha
  have hno : s.fieldNo a = 3 := fieldNo_control (sub := 1) ha' (by omega) (by omega) (by omega)
  have hok : fieldOk s.level 3 (s.g b).toNat = true := decide_eq_true hv
  rw [hrun, run_partForm h (by omega), withControl_fn (sub := 1) ha' (by omega) (by omega) (by omega) (by omega) (by omega),
    withFn_own hx]
  simp only [writeFn, hno, he, hok, fieldRight, Bool.not_true, Nat.reduceLeDiff, Nat.reduceEqDiff, decide_false,
    Bool.or_self, Bool.false_eq_true, if_false]
  rfl

theorem writeScopemax_served (h : s.Served) (hl : 2 ≤ s.level) {x : Nat}
    (ha : s.gn a = x + 16777216 + 4294967296 * 3) (hx : x < 384) (he : s.exists? s.me.fn = true) (hv : s.gn b < 32)
    (hk : 2 ≤ s.gn b % 8) : ∃ t, exec (.vfctlWriteField a b d) s = .next t ∧
      s.Wrote t d (BitVec.ofNat 64 (s.fn s.me.fn).scopemax) ∧
      t.fn s.me.fn = { s.fn s.me.fn with scopemax := s.gn b } := by
  have hold : s.fnField s.me.fn 3 = (s.fn s.me.fn).scopemax := by
    simp only [State.exists?, bne_iff_ne, ne_eq] at he
    simp [State.fnField, he]
  have hset (k : Func) : k.setField 3 (s.gn b) = { k with scopemax := s.gn b } := by
    simp [Func.setField, Nat.not_lt.mpr hk]
  refine ⟨_, served_of_atService h (writeScopemax_asks h.steady hl ha hx he hv), ?_, ?_⟩
  · rw [hold]
    exact wrote_setG rfl rfl rfl
  · rw [scopemaxAct, settle_done, after_fn, State.setGn, setG_fn, fn_modFn_same, hset]

/-! ## CREATE and DESTROY (R465) -/

/-- A control word of level L that names a function of the lease, or one that does not exist, and no field. -/
theorem onlyFn_other {f sub : Nat} (hl : s.level = 2) (ha : s.gn a = f + 32768 + 16777216 * sub) (hf : f < 384)
    (hs : sub < 7) (hb : s.g b = 0) (ho : s.exists? f = true → (s.fn f).lease = s.me.lease)
    (hr : s.allowed 1 = true) (word : Half) (k : Nat → State → Res) :
    onlyFn word a b sub k s = atService (k f) s := by
  obtain ⟨x, hx⟩ : ∃ x, x = f + 32768 := ⟨_, rfl⟩
  have ha' : s.gn a = x + 16777216 * sub + 4294967296 * 0 := by omega
  have hno : s.fieldNo a = 0 := fieldNo_control ha' (by omega) (by omega) (by omega)
  rw [onlyFn, withControl_fn ha' (by omega) (by omega) hs (by omega) (by omega), withFn_other hx hl hf ho]
  simp [hno, hb, hr]

theorem create_asks (h : s.Steady) (hl : s.level = 2) {f : Nat} (hf : f < 384) (hb : s.g b = 0)
    (ha : s.gn a = f + 32768 + 33554432) (he : s.exists? f = false) (hr : s.allowed 1 = true) :
    exec (.vfctlCreate a b d) s = .next (settle s
      (atService (fun t => createAct d (if t.level = 3 then field (t.gn a) 20 16 else t.me.lease) f t) s)) := by
  have hrun : exec (.vfctlCreate a b d) s = run (partForm 1 a b d 0#5 2#6)
      (onlyFn (45#6 ++ a ++ b ++ d ++ 0#5 ++ 2#6) a b 2 fun f t =>
        createAct d (if t.level = 3 then field (t.gn a) 20 16 else t.me.lease) f t) s := rfl
  rw [hrun, run_partForm h (by omega), onlyFn_other (sub := 2) hl ha hf (by omega) hb (by simp [he]) hr]

theorem create_served (h : s.Served) (hl : s.level = 2) {f n : Nat} {rest : List Nat} (hf : f < 384) (hb : s.g b = 0)
    (ha : s.gn a = f + 32768 + 33554432) (he : s.exists? f = false) (hn : s.freeAsids = n :: rest)
    (hv : (s.lse s.me.lease).live = true) : ∃ t, exec (.vfctlCreate a b d) s = .next t ∧ s.Wrote t d 1 ∧
      t.freeAsids = rest ∧ t.fn f = { st := .idle, lease := s.me.lease, asid := n, qmax := (s.lse s.me.lease).qmax } := by
  have hact : createAct d (if s.level = 3 then field (s.gn a) 20 16 else s.me.lease) f s =
      .done (({ s with freeAsids := rest }.modFn f fun _ =>
        { st := .idle, lease := s.me.lease, asid := n, qmax := (s.lse s.me.lease).qmax }).setG d 1) := by
    have hl3 : ¬s.level = 3 := by omega
    rw [if_neg hl3, createAct, hn]
    simp only [he, hv, Bool.not_true, Bool.or_self, Bool.false_eq_true, if_false]
  refine ⟨_, served_of_atService h (create_asks h.steady hl hf hb ha he (allowed_of_service h.service 1)), ?_⟩
  simp only [hact, settle_done]
  refine ⟨wrote_setG rfl rfl rfl, rfl, ?_⟩
  rw [after_fn, setG_fn, fn_modFn_same]

theorem destroy_asks (h : s.Steady) (hl : s.level = 2) {f : Nat} (hf : f < 384) (hb : s.g b = 0)
    (ha : s.gn a = f + 32768 + 50331648) (ho : (s.fn f).lease = s.me.lease) (hr : s.allowed 1 = true) :
    exec (.vfctlDestroy a b d) s = .next (settle s (atService (destroyAct d f) s)) := by
  have hrun : exec (.vfctlDestroy a b d) s = run (partForm 1 a b d 0#5 2#6)
      (onlyFn (45#6 ++ a ++ b ++ d ++ 0#5 ++ 2#6) a b 3 (destroyAct d)) s := rfl
  rw [hrun, run_partForm h (by omega), onlyFn_other (sub := 3) hl ha hf (by omega) hb (fun _ => ho) hr]

/-- Four queues that are empty hold nothing. -/
theorem flatMap_queues_nil {v : Vector (List Launch) 4} (h : ∀ p, p < 4 → vget [] v p = []) :
    v.toList.flatMap id = [] := by
  refine List.flatMap_eq_nil_iff.mpr fun q hq => ?_
  obtain ⟨i, hi, rfl⟩ := List.mem_iff_getElem.mp hq
  have hlt : i < 4 := by simpa using hi
  have hg := h i hlt
  rwa [vget, List.getD_eq_getElem?_getD, List.getElem?_eq_getElem hi, Option.getD_some] at hg

theorem destroy_served (h : s.Served) (hl : s.level = 2) {f : Nat} (hf : f < 384) (hb : s.g b = 0)
    (ha : s.gn a = f + 32768 + 50331648) (he : s.exists? f = true) (ho : (s.fn f).lease = s.me.lease)
    (hc : s.claimed f = []) (hs : (s.fn f).st ≠ .evicted) (hq : ∀ p, p < 4 → vget [] (s.fn f).queues p = []) :
    ∃ t, exec (.vfctlDestroy a b d) s = .next t ∧ s.Wrote t d 1 ∧ t.fn f = {} ∧ (s.fn f).asid ∈ t.freeAsids := by
  have hact : destroyAct d f s =
      .done ((((s.invalidate (s.fn f).asid none).freeAsid (s.fn f).asid).modFn f fun _ => {}).setG d 1) := by
    have hguard : (s.claimed f != [] || (s.fn f).st == .evicted) = false := by simp [hc, hs]
    simp only [destroyAct, he, hguard, flatMap_queues_nil hq, Bool.not_true, Bool.false_eq_true, if_false, List.foldl_nil]
  refine ⟨_, served_of_atService h (destroy_asks h.steady hl hf hb ha ho (allowed_of_service h.service 1)), ?_⟩
  rw [hact, settle_done]
  refine ⟨wrote_setG rfl rfl rfl, ?_, mem_keyAdd.mpr (.inl rfl)⟩
  rw [after_fn, setG_fn, fn_modFn_same]

/-! ## INVAL, WAKE and REFUSE (R160, R465) -/

/-- The fields of a word that names an ASID, a page and a quad. -/
theorem page_fields {v asid page q : Nat} (hv : v = asid + 65536 * page + 2 ^ 50 * q) (ha : asid < 1024)
    (hp : page < 2 ^ 32) (hq : q < 14400) : field v 9 0 = asid ∧ field v 15 11 = 0 ∧ bitAt v 10 = false ∧
      field v 47 16 = page ∧ field v 63 50 = q ∧ (q = 0 → field v 63 48 = 0) := by
  have h10 : bitAt v 10 = false := by
    rw [bitAt, Nat.testBit_eq_decide_div_mod_eq]
    exact decide_eq_false (by omega)
  simp only [h10, field, Nat.shiftRight_eq_div_pow, Nat.reduceAdd, Nat.reduceSub, Nat.reducePow, true_and]
  omega

/-- The three forms with a control word that names no function of its own. -/
theorem withControl_self (hl : 2 ≤ s.level) {x sub : Nat} (ha : s.gn a = x + 16777216 * sub) (hx : x < 384)
    (hs : sub < 7) (word : Half) (body : State → Res) :
    withControl word a sub (fun _ => body) (fun _ => body) s = body s := by
  have ha' : s.gn a = x + 16777216 * sub + 4294967296 * 0 := ha
  rw [withControl_fn ha' (by omega) (by omega) hs (by omega) (by omega), withFn_own hx]

/-- A change of every entry is seen at every key. -/
theorem smGet_map_same {α : Type} (f : α → α) (d : α) (hd : f d = d) (m : SMap α) (k : Nat) :
    smGet d (m.map fun p => (p.1, f p.2)) k = f (smGet d m k) := by
  induction m with
  | nil => exact hd.symm
  | cons p m ih =>
    obtain ⟨j, v⟩ := p
    by_cases hj : j = k
    · simp [smGet, hj]
    · simpa [smGet, hj] using ih

/-- INVAL drops the page's translations at every quad. -/
theorem invalidate_drops (s : State) (asid page q : Nat) :
    ∀ e ∈ ((s.invalidate asid (some page)).quad q).tlb, ¬(e.asid = asid ∧ e.page = page) := by
  intro e he
  have hq : (s.invalidate asid (some page)).quad q = { s.quad q with tlb := (s.quad q).tlb.filter fun e =>
      e.asid != asid || !((none : Option Nat) == some page || some page == some e.page) } :=
    smGet_map_same (fun k : Quad => { k with tlb := k.tlb.filter fun e =>
      e.asid != asid || !((some page : Option Nat) == none || some page == some e.page) }) {} rfl s.quads q
  rw [hq] at he
  rintro ⟨rfl, rfl⟩
  simpa using (List.mem_filter.mp he).2

/-- What an answer to a page waiter keeps: everything but what its thread waits for. -/
theorem answerPage_keeps (s : State) (refused : Bool) (w : PageWaiter) (t q : Nat) :
    (s.answerPage refused w).cur = s.cur ∧ (s.answerPage refused w).mem = s.mem ∧
      ((s.answerPage refused w).thr t).g = (s.thr t).g ∧ (s.answerPage refused w).quad q = s.quad q := by
  unfold State.answerPage
  split
  · refine ⟨by simp, by simp, ?_, by simp⟩
    rw [dueOnce_thr]
    exact thr_modThr_keeps Thread.g s _ _ fun _ => rfl
  · refine ⟨rfl, rfl, thr_modThr_keeps Thread.g s _ _ fun th => ?_, rfl⟩
    split <;> rfl

/-- The waiters of a page at a quad are answered. -/
def State.answerPages (s : State) (refused : Bool) (asid page q : Nat) : State :=
  ((s.quad q).pages.filter fun w => w.asid == asid && w.page == page).foldl (fun s w => s.answerPage refused w)
    (s.modQuad q fun k => { k with pages := k.pages.filter fun w => !(w.asid == asid && w.page == page) })

theorem answerPages_keeps (s : State) (refused : Bool) (asid page q t : Nat) :
    (s.answerPages refused asid page q).cur = s.cur ∧ (s.answerPages refused asid page q).mem = s.mem ∧
      ((s.answerPages refused asid page q).thr t).g = (s.thr t).g :=
  ⟨foldl_keeps State.cur (fun s w => (answerPage_keeps s refused w 0 0).1) _ _,
    foldl_keeps State.mem (fun s w => (answerPage_keeps s refused w 0 0).2.1) _ _,
    foldl_keeps (fun s => (s.thr t).g) (fun s w => (answerPage_keeps s refused w t 0).2.2.1) _ _⟩

theorem answerPages_drops (s : State) (refused : Bool) (asid page q : Nat) :
    ∀ w ∈ ((s.answerPages refused asid page q).quad q).pages, ¬(w.asid = asid ∧ w.page = page) := by
  intro w hw
  have hq : (s.answerPages refused asid page q).quad q =
      (s.modQuad q fun k => { k with pages := k.pages.filter fun w => !(w.asid == asid && w.page == page) }).quad q :=
    foldl_keeps (fun s => s.quad q) (fun s w => (answerPage_keeps s refused w 0 q).2.2.2) _ _
  rw [hq, quad_modQuad_same] at hw
  rintro ⟨rfl, rfl⟩
  simpa using (List.mem_filter.mp hw).2

@[simp] theorem noteClamp_quad (s : State) (t : Nat) (x : Scope) (q : Nat) : (s.noteClamp t x).quad q = s.quad q := by
  unfold State.noteClamp
  split <;> rfl

@[simp] theorem after_quad (s s1 : State) (q : Nat) : (s.after s1).quad q = s1.quad q := rfl

section
variable {asid page q : Nat} {x : Scope} {refused : Bool}

/-- INVAL of a page whose ASID is of the lease. -/
def invalEnd (d : BitVec 5) (asid page : Nat) (x : Scope) (s : State) : Res :=
  .done (((s.invalidate asid (some page)).setG d 1).noteClamp s.cur x)

theorem invalBody_checked (hb : s.gn b = asid + 65536 * page) (ha : asid < 1024) (hp : page < 2 ^ 32)
    (ho : s.ownAsid asid = true) (hx : s.checkScope s.cur (scopeWord 6) = .ok x) (hr : s.allowed 3 = true)
    (word : Half) : invalBody word b d s = afterRelease (invalEnd d asid page x) s := by
  obtain ⟨h9, h15, h10, h47, _, h63⟩ := page_fields (v := s.gn b) (q := 0) (by omega) ha hp (by omega)
  simp only [invalBody, hr, h9, h15, h10, h47, h63 rfl, ho, withScope, hx, bne_self_eq_false, Bool.not_true,
    Bool.or_self, Bool.false_eq_true, if_false]
  rfl

/-- WAKE and REFUSE of a page whose ASID is of the lease. -/
def answerEnd (refused : Bool) (d : BitVec 5) (asid page q : Nat) (x : Scope) (s : State) : Res :=
  .done (((s.answerPages refused asid page q).setG d 1).noteClamp s.cur x)

theorem answerBody_checked (hb : s.gn b = asid + 65536 * page + 2 ^ 50 * q) (ha : asid < 1024) (hp : page < 2 ^ 32)
    (hq : q < 14400) (ho : s.ownAsid asid = true) (hx : s.checkScope s.cur (scopeWord 6) = .ok x)
    (hr : s.allowed 3 = true) (word : Half) :
    answerBody refused word b d s = afterRelease (answerEnd refused d asid page q x) s := by
  obtain ⟨h9, h15, _, h47, h50, _⟩ := page_fields hb ha hp hq
  simp only [answerBody, hr, h9, h15, h47, h50, ho, withScope, hx, bne_self_eq_false, Bool.not_true, Nat.not_le.mpr hq,
    decide_false, Bool.or_self, Bool.false_eq_true, if_false]
  rfl

/-- INVAL runs to its end. -/
theorem inval_checked (h : s.Steady) (hl : 2 ≤ s.level) {y : Nat} (hg : s.gn a = y + 67108864) (hy : y < 384)
    (hb : s.gn b = asid + 65536 * page) (ha : asid < 1024) (hp : page < 2 ^ 32) (ho : s.ownAsid asid = true)
    (hx : s.checkScope s.cur (scopeWord 6) = .ok x) (hr : s.allowed 3 = true) :
    exec (.vfctlInval a b d) s = .next (settle s (afterRelease (invalEnd d asid page x) s)) := by
  have hrun : exec (.vfctlInval a b d) s = run (partForm 1 a b d 0#5 2#6)
      (withControl (45#6 ++ a ++ b ++ d ++ 0#5 ++ 2#6) a 4 (fun _ => invalBody (45#6 ++ a ++ b ++ d ++ 0#5 ++ 2#6) b d)
        (fun _ => invalBody (45#6 ++ a ++ b ++ d ++ 0#5 ++ 2#6) b d)) s := rfl
  rw [hrun, run_partForm h (by omega), withControl_self (sub := 4) hl hg hy (by omega),
    invalBody_checked hb ha hp ho hx hr]

/-- WAKE and REFUSE run to their end. -/
theorem answer_checked {i : Instr} (h : s.Steady) (hl : 2 ≤ s.level) {y sub : Nat} (hg : s.gn a = y + 16777216 * sub)
    (hy : y < 384) (hs : sub < 7) (hb : s.gn b = asid + 65536 * page + 2 ^ 50 * q) (ha : asid < 1024)
    (hp : page < 2 ^ 32) (hq : q < 14400) (ho : s.ownAsid asid = true)
    (hx : s.checkScope s.cur (scopeWord 6) = .ok x) (hr : s.allowed 3 = true)
    (hrun : exec i s = run (partForm 1 a b d 0#5 2#6) (withControl (45#6 ++ a ++ b ++ d ++ 0#5 ++ 2#6) a sub
      (fun _ => answerBody refused (45#6 ++ a ++ b ++ d ++ 0#5 ++ 2#6) b d)
      (fun _ => answerBody refused (45#6 ++ a ++ b ++ d ++ 0#5 ++ 2#6) b d)) s) :
    exec i s = .next (settle s (afterRelease (answerEnd refused d asid page q x) s)) := by
  rw [hrun, run_partForm h (by omega), withControl_self hl hg hy hs, answerBody_checked hb ha hp hq ho hx hr]

theorem wrote_invalEnd (x : Scope) : s.Wrote (settle s (invalEnd d asid page x s)) d 1 ∧
    ∀ e ∈ ((settle s (invalEnd d asid page x s)).quad q).tlb, ¬(e.asid = asid ∧ e.page = page) := by
  rw [invalEnd, settle_done]
  refine ⟨wrote_setG_noteClamp x rfl rfl rfl, ?_⟩
  rw [after_quad, noteClamp_quad]
  exact invalidate_drops s asid page q

theorem wrote_answerEnd (x : Scope) : s.Wrote (settle s (answerEnd refused d asid page q x s)) d 1 ∧
    ∀ w ∈ ((settle s (answerEnd refused d asid page q x s)).quad q).pages, ¬(w.asid = asid ∧ w.page = page) := by
  obtain ⟨hcur, hmem, hg⟩ := answerPages_keeps s refused asid page q s.cur
  rw [answerEnd, settle_done]
  refine ⟨wrote_setG_noteClamp x hcur hmem hg, ?_⟩
  rw [after_quad, noteClamp_quad]
  exact answerPages_drops s refused asid page q

/-- WAKE and REFUSE wait for the release, then answer the page's waiters. -/
theorem answer_spec {i : Instr} (hl : 2 ≤ s.level) {y sub : Nat} (hg : s.gn a = y + 16777216 * sub)
    (hy : y < 384) (hs : sub < 7) (hb : s.gn b = asid + 65536 * page + 2 ^ 50 * q) (ha : asid < 1024)
    (hp : page < 2 ^ 32) (hq : q < 14400) (ho : s.ownAsid asid = true)
    (hx : s.checkScope s.cur (scopeWord 6) = .ok x)
    (hrun : exec i s = run (partForm 1 a b d 0#5 2#6) (withControl (45#6 ++ a ++ b ++ d ++ 0#5 ++ 2#6) a sub
      (fun _ => answerBody refused (45#6 ++ a ++ b ++ d ++ 0#5 ++ 2#6) b d)
      (fun _ => answerBody refused (45#6 ++ a ++ b ++ d ++ 0#5 ++ 2#6) b d)) s) :
    (s.Plain → s.hasRight 3 = true → ∃ t, exec i s = .next t ∧ s.AwaitsService t) ∧
    (s.Served → s.released s.cur = true → ∃ t, exec i s = .next t ∧ s.Wrote t d 1 ∧
      ∀ w ∈ (t.quad q).pages, ¬(w.asid = asid ∧ w.page = page)) := by
  have run (h : s.Steady) (hr : s.allowed 3 = true) := answer_checked h hl hg hy hs hb ha hp hq ho hx hr hrun
  refine ⟨fun h hr => ⟨_, run h.steady (allowed_of_right hr), afterRelease_waits h.noService _⟩,
    fun h hr => ⟨_, run h.steady (allowed_of_service h.service 3), ?_⟩⟩
  rw [afterRelease_released h.service hr]
  exact wrote_answerEnd x

/-- INVAL waits for the release, then drops the page's translations. -/
theorem inval_spec (hl : 2 ≤ s.level) {y : Nat} (hg : s.gn a = y + 67108864) (hy : y < 384)
    (hb : s.gn b = asid + 65536 * page) (ha : asid < 1024) (hp : page < 2 ^ 32) (ho : s.ownAsid asid = true)
    (hx : s.checkScope s.cur (scopeWord 6) = .ok x) :
    (s.Plain → s.hasRight 3 = true → ∃ t, exec (.vfctlInval a b d) s = .next t ∧ s.AwaitsService t) ∧
    (s.Served → s.released s.cur = true → ∃ t, exec (.vfctlInval a b d) s = .next t ∧ s.Wrote t d 1 ∧
      ∀ e ∈ (t.quad q).tlb, ¬(e.asid = asid ∧ e.page = page)) := by
  have run (h : s.Steady) (hr : s.allowed 3 = true) := inval_checked h hl hg hy hb ha hp ho hx hr (d := d)
  refine ⟨fun h hr => ⟨_, run h.steady (allowed_of_right hr), afterRelease_waits h.noService _⟩,
    fun h hr => ⟨_, run h.steady (allowed_of_service h.service 3), ?_⟩⟩
  rw [afterRelease_released h.service hr]
  exact wrote_invalEnd x

end

end

/-- What a form of VFCTL does that acts on a page's users after a release. -/
theorem vfctlPage_spec {s : State} {i : Instr} {a b d : BitVec 5} {x : Scope} {y asid page q : Nat} (hl : 2 ≤ s.level)
    (hy : y < 384) (ha : asid < 1024) (ho : s.ownAsid asid = true) (hx : s.checkScope s.cur (scopeWord 6) = .ok x)
    (hp : page < 2 ^ 32) (hq : q < 14400)
    (hi : i = .vfctlInval a b d ∧ s.gn a = y + 67108864 ∧ s.gn b = asid + 65536 * page ∨
      (i = .vfctlWake a b d ∧ s.gn a = y + 83886080 ∨ i = .vfctlRefuse a b d ∧ s.gn a = y + 100663296) ∧
        s.gn b = asid + 65536 * page + 2 ^ 50 * q) :
    (s.Plain → s.hasRight 3 = true → ∃ t, exec i s = .next t ∧ s.AwaitsService t) ∧
    (s.Served → s.released s.cur = true → ∃ t, exec i s = .next t ∧ s.Wrote t d 1 ∧
      (i = .vfctlInval a b d → ∀ e ∈ (t.quad q).tlb, ¬(e.asid = asid ∧ e.page = page)) ∧
      (i ≠ .vfctlInval a b d → ∀ w ∈ (t.quad q).pages, ¬(w.asid = asid ∧ w.page = page))) := by
  rcases hi with ⟨rfl, hg, hb⟩ | ⟨⟨rfl, hg⟩ | ⟨rfl, hg⟩, hb⟩
  · obtain ⟨asks, ends⟩ := inval_spec (d := d) (q := q) hl hg hy hb ha hp ho hx
    exact ⟨asks, fun h hr => (ends h hr).imp fun t ⟨he, hw, ht⟩ => ⟨he, hw, fun _ => ht, fun hne => absurd rfl hne⟩⟩
  · obtain ⟨asks, ends⟩ := answer_spec (sub := 5) (i := .vfctlWake a b d) hl hg hy (by omega) hb ha hp hq ho hx rfl
    exact ⟨asks, fun h hr => (ends h hr).imp fun t ⟨he, hw, ht⟩ => ⟨he, hw, fun heq => (by cases heq), fun _ => ht⟩⟩
  · obtain ⟨asks, ends⟩ := answer_spec (sub := 6) (i := .vfctlRefuse a b d) hl hg hy (by omega) hb ha hp hq ho hx rfl
    exact ⟨asks, fun h hr => (ends h hr).imp fun t ⟨he, hw, ht⟩ => ⟨he, hw, fun heq => (by cases heq), fun _ => ht⟩⟩

end Sys2Proof.Machine
end

section
/-! SUPPORT. RIGHTS: reads, and changes that wait until every quad holds them (R466, R467). -/

namespace Sys2Proof.Machine

section
variable {s : State} {a b d : BitVec 5}

/-- A mask word that names a function, and the bits of a byte, pass to the mask of the thread's function. -/
theorem withMask_own (ha : s.gn a < 384) (hb : s.gn b < 256) (word : Half) {write : Bool}
    (hw : write = true → 2 ≤ s.level ∧ s.exists? s.me.fn = true) (k : Nat → State → Res) :
    withMask word a b write k s = k s.me.fn s := by
  have bit (i : Nat) (hi : 9 ≤ i) : bitAt (s.gn a) i = false :=
    Nat.testBit_lt_two_pow (Nat.lt_of_lt_of_le ha (Nat.le_trans (by decide) (Nat.pow_le_pow_right (by decide) hi)))
  obtain ⟨h24, h22, h14, h20, h8, h15⟩ : field (s.gn a) 63 24 = 0 ∧ field (s.gn a) 22 21 = 0 ∧ field (s.gn a) 14 9 = 0 ∧
      field (s.gn a) 20 16 = 0 ∧ field (s.gn b) 63 8 = 0 ∧ field (s.gn a) 15 0 = s.gn a := by
    simp only [field, Nat.shiftRight_eq_div_pow, Nat.reduceAdd, Nat.reduceSub, Nat.reducePow]
    omega
  have hguard : (decide (s.level = 1) && (write || false || false)) = false := by
    cases write
    · simp
    · obtain ⟨hl, _⟩ := hw rfl
      simpa using (by omega : s.level ≠ 1)
  have hex : (write && !s.exists? s.me.fn) = false := by
    cases write
    · rfl
    · simp [(hw rfl).2]
  simp only [withMask, bit 23 (by decide), bit 15 (by decide), hguard, h24, h22, h14, h20, h8, h15, withFn_own ha, hex,
    bne_self_eq_false, Bool.and_false, Bool.or_self, Bool.false_eq_true, if_false]

theorem rightsMask_fn {f : Nat} (hf : f < 1000) : s.rightsMask f = (s.fn f).rights := if_pos hf

/-! ## RIGHTS_READ -/

theorem rightsRead_asks (h : s.Steady) (hl : 1 ≤ s.level) (ha : s.gn a < 384) (hb : s.gn b < 256) :
    exec (.rightsRead a b d) s = .next (settle s
      (atService (fun t => .done (t.setGn d (t.rightsMask s.me.fn).toNat)) s)) := by
  have hrun : exec (.rightsRead a b d) s = run (partForm 1 a b d 0#5 3#6)
      (withMask (45#6 ++ a ++ b ++ d ++ 0#5 ++ 3#6) a b false fun key => atService fun t =>
        .done (t.setGn d (t.rightsMask key).toNat)) s := rfl
  rw [hrun, run_partForm h hl, withMask_own ha hb _ (fun hw => absurd hw (by decide))]

theorem rightsRead_served (h : s.Served) (hl : 1 ≤ s.level) (ha : s.gn a < 384) (hb : s.gn b < 256)
    (hf : s.me.fn < 1000) :
    exec (.rightsRead a b d) s = .next (s.after (s.setGn d (s.fn s.me.fn).rights.toNat)) := by
  rw [served_of_atService h (rightsRead_asks h.steady hl ha hb), settle_done, rightsMask_fn hf]

/-! ## RIGHTS_GRANT and RIGHTS_REVOKE -/

/-- What the quads whose copy is not updated at once leave of the rest. -/
theorem keepOld_keeps (key : Nat) (old : BitVec 8) (qs : List Nat) (s : State) :
    (s.keepOld key old qs).cur = s.cur ∧ (s.keepOld key old qs).mem = s.mem ∧
      (s.keepOld key old qs).threads = s.threads ∧ (s.keepOld key old qs).funcs = s.funcs := by
  induction qs generalizing s with
  | nil => exact ⟨rfl, rfl, rfl, rfl⟩
  | cons q qs ih =>
    rw [State.keepOld]
    split
    next late s1 hflip =>
    have hs1 : s1 = { s with fresh := s.fresh + 1 } := (congrArg Prod.snd hflip).symm
    obtain ⟨hcur, hmem, hthr, hfn⟩ := ih (if late then s1.modQuad q fun k =>
      { k with rights := smPut (smDrop k.rights key) key old } else s1)
    rw [hcur, hmem, hthr, hfn, hs1]
    cases late <;> exact ⟨rfl, rfl, rfl, rfl⟩

theorem fn_of_funcs {t t' : State} (h : t'.funcs = t.funcs) (f : Nat) : t'.fn f = t.fn f := by
  unfold State.fn
  rw [h]

/-- The masks after a change of a function's mask that the thread waits for. -/
def State.afterRights (s : State) (f : Nat) (new : BitVec 8) : State :=
  ((s.modFn f fun k => { k with rights := new }).keepOld f (s.rightsMask f) (s.quads.map (·.1))).dueOnce .placementPass

theorem afterRights_keeps (s : State) (f : Nat) (new : BitVec 8) :
    (s.afterRights f new).cur = s.cur ∧ (s.afterRights f new).mem = s.mem ∧
      (∀ t, (s.afterRights f new).thr t = s.thr t) ∧ ((s.afterRights f new).fn f).rights = new := by
  obtain ⟨hcur, hmem, hthr, hfn⟩ := keepOld_keeps f (s.rightsMask f) (s.quads.map (·.1))
    (s.modFn f fun k => { k with rights := new })
  refine ⟨(dueOnce_cur ..).trans hcur, (dueOnce_mem ..).trans hmem, fun t => (dueOnce_thr ..).trans ?_, ?_⟩
  · exact congrArg (fun m : SMap Thread => smGet {} m t) hthr
  · have hfun : (s.afterRights f new).fn f = (s.modFn f fun k => { k with rights := new }).fn f :=
      (dueOnce_fn ..).trans (fn_of_funcs hfn f)
    rw [hfun, fn_modFn_same]

/-- The thread waits until every quad holds the mask. -/
theorem rightsChange_waits {f : Nat} (hf : f < 1000) (new : BitVec 8) (hr : s.me.op.reply = .none) :
    ∃ t, settle s (rightsChange d f new s) = t ∧ t.mem = s.mem ∧ (t.fn f).rights = new ∧
      (t.thr s.cur).st = .parked .engine ∧ (t.thr s.cur).pc = s.me.pc ∧ .rightsPropagated s.cur ∈ t.agenda := by
  obtain ⟨hcur, hmem, hthr, hfn⟩ := afterRights_keeps s f new
  have hend : rightsChange d f new s = .keep (((s.afterRights f new).park s.cur .engine
      { got := toBytes 8 (s.rightsMask f).toNat }).due (.rightsPropagated s.cur)) := by
    have hset : s.setRights f new = s.modFn f fun k => { k with rights := new } := if_pos hf
    rw [rightsChange, hr, hset, ← hcur]
    rfl
  refine ⟨_, rfl, ?_⟩
  rw [hend, settle_keep, park_engine]
  refine ⟨hmem, hfn, ?_, ?_, mem_due_agenda.mpr (.inr rfl)⟩
  · rw [due_thr, thr_modThr_same]
  · rw [due_thr, thr_modThr_same, hthr]
    rfl

theorem rightsChange_answered {bs : List Byte} (h : s.me.op.reply = .data bs) (f : Nat) (new : BitVec 8) :
    rightsChange d f new s = .done (s.setGn d (ofBytes bs)) := by
  rw [rightsChange, h]

theorem rightsGrant_checked (h : s.Steady) (hl : 2 ≤ s.level) (ha : s.gn a < 384) (hb : s.gn b < 256)
    (he : s.exists? s.me.fn = true) {m : BitVec 8} (hm : m = (s.g b).extractLsb' 0 8)
    (hr : s.level = 2 → m &&& (s.lse s.me.lease).rights = m) (hf : s.me.fn < 1000) :
    exec (.rightsGrant a b d) s =
      .next (settle s (rightsChange d s.me.fn ((s.fn s.me.fn).rights ||| m) s)) := by
  have hrun : exec (.rightsGrant a b d) s = run (partForm 1 a b d 1#5 3#6)
      (withMask (45#6 ++ a ++ b ++ d ++ 1#5 ++ 3#6) a b true fun key s =>
        if s.level < 3 && (s.g b).setWidth 8 &&& (s.lse s.me.lease).rights != (s.g b).setWidth 8 then
          illegal (45#6 ++ a ++ b ++ d ++ 1#5 ++ 3#6) 2 s
        else rightsChange d key (s.rightsMask key ||| (s.g b).setWidth 8) s) s := rfl
  have hmw : (s.g b).setWidth 8 = m := by rw [hm, BitVec.setWidth_eq_extractLsb' (by decide)]
  have hguard : (decide (s.level < 3) && m &&& (s.lse s.me.lease).rights != m) = false := by
    by_cases hlt : s.level < 3
    · simp [hr (by omega)]
    · simp [hlt]
  rw [hrun, run_partForm h (by omega), withMask_own ha hb _ (fun _ => ⟨hl, he⟩)]
  simp only [hmw, hguard, Bool.false_eq_true, if_false, rightsMask_fn hf]

theorem rightsRevoke_checked (h : s.Steady) (hl : 2 ≤ s.level) (ha : s.gn a < 384) (hb : s.gn b < 256)
    (he : s.exists? s.me.fn = true) {m : BitVec 8} (hm : m = (s.g b).extractLsb' 0 8) (hf : s.me.fn < 1000) :
    exec (.rightsRevoke a b d) s =
      .next (settle s (rightsChange d s.me.fn ((s.fn s.me.fn).rights &&& ~~~m) s)) := by
  have hrun : exec (.rightsRevoke a b d) s = run (partForm 1 a b d 2#5 3#6)
      (withMask (45#6 ++ a ++ b ++ d ++ 2#5 ++ 3#6) a b true fun key s =>
        rightsChange d key (s.rightsMask key &&& ~~~((s.g b).setWidth 8)) s) s := rfl
  have hmw : (s.g b).setWidth 8 = m := by rw [hm, BitVec.setWidth_eq_extractLsb' (by decide)]
  rw [hrun, run_partForm h (by omega), withMask_own ha hb _ (fun _ => ⟨hl, he⟩), hmw, rightsMask_fn hf]

end

/-! ## The clauses of the obligation -/

theorem dlaunch_spec {s : State} {a b d : BitVec 5} {sc : Scope} (hl : 1 ≤ s.level) (hb : s.gn b < 384)
    (he : s.exists? s.me.fn = true) (ha : (s.g a).toNat % 64 = 0) (hx : s.checkScope s.cur (scopeWord 5) = .ok sc)
    {bs : List Byte} {p : Nat} {q : List Launch} (h : s.Fetched bs) (hp : p = byteAt bs 13 % 4)
    (hq : q = vget [] (s.fn s.me.fn).queues p) :
    (badRecord bs = true → ∃ t, exec (.dlaunch a b d) s = .next t ∧ s.Wrote t d 0x8100000000000000#64) ∧
    (badRecord bs = false → 16 ≤ q.length → ∃ t, exec (.dlaunch a b d) s = .next t ∧
      s.Wrote t d 0x8200000000000000#64) ∧
    (badRecord bs = false → q.length < 16 → launchW bs * launchH bs ≤ (s.fn s.me.fn).qmax →
      launchW bs * launchH bs ≤ (s.lse (s.fn s.me.fn).lease).qmax →
      ∃ t l, exec (.dlaunch a b d) s = .next t ∧ s.Wrote t d (BitVec.ofNat 64 (s.nextLaunch % 65536)) ∧
        vget [] (t.fn s.me.fn).queues p = q ++ [l] ∧ l.number = s.nextLaunch % 65536 ∧ l.bytes = bs ∧
        l.fn = s.me.fn ∧ t.nextLaunch = (s.nextLaunch % 65536 + 1) % 65536 ∧ .placementPass ∈ t.agenda) := by
  have hend := dlaunch_fetched (d := d) h hl hb he ha hx
  have badCode : BitVec.ofNat 64 (2 ^ 63 + 1 <<< 56) = 0x8100000000000000#64 := by decide
  have fullCode : BitVec.ofNat 64 (2 ^ 63 + 2 <<< 56) = 0x8200000000000000#64 := by decide
  subst hp hq
  refine ⟨fun hbad => ⟨_, hend, ?_⟩, fun hok hfull => ⟨_, hend, ?_⟩, fun hok hroom hfit hlease => ?_⟩
  · rw [← badCode]
    exact launchEnd_refused (enterLaunch_bad hbad)
  · rw [← fullCode]
    exact launchEnd_refused (enterLaunch_full hok hfull)
  · obtain ⟨t, l, ht, hrest⟩ := launchEnd_entered (d := d) (x := sc) (enterLaunch_ok hok hroom hfit hlease)
    exact ⟨t, l, ht ▸ hend, hrest⟩

/-- MOVE and HOME of a core of the lease. -/
theorem migrCore_spec {s : State} {a b d : BitVec 5} {c : Nat} {k : Core} (hl : 2 ≤ s.level) (h : s.Served)
    (hcb : c = s.gn b) (hk : k = s.core c) (hc : c < 65536) (hv : validCore c = true)
    (hlease : s.leaseHolds s.me.lease c = true) :
    (s.busyOrder true c = true →
      (s.gn a = 0 → exec (.migrMove a b d) s = .next (s.after (s.setG d 0))) ∧
      (s.gn a = 1 → exec (.migrHome a b d) s = .next (s.after (s.setG d 0)))) ∧
    (s.busyOrder true c = false → k.away = false → k.place.service ≠ .absent →
      (∀ x, s.gn a = 0 → s.spareFor c = some x → s.remapsFull c = false →
        ∃ t, exec (.migrMove a b d) s = .next t ∧ (k.mop = none → s.Wrote t d 1) ∧ (t.core c).leaving = true ∧
          .remapExceptionCommit c (x / 64) (x % 64) ∈ t.agenda ∧
          t.orders = s.orders ++ [{ code := 0, arg := c, lease := s.me.lease, stop := 0 }]) ∧
      (s.gn a = 1 → k.place.exception = true → k.place.unsound = false →
        ∃ t, exec (.migrHome a b d) s = .next t ∧ (k.mop = none → s.Wrote t d 1) ∧ (t.core c).leaving = true ∧
          .liveMigrationDone c ∈ t.agenda ∧
          t.orders = s.orders ++ [{ code := 1, arg := c, lease := s.me.lease, stop := 0 }])) := by
  subst hcb hk
  have move (ha : s.gn a = 0) : exec (.migrMove a b d) s = .next (settle s (migrMoveAct d (s.gn b) s)) := by
    refine (migr_served h hl (by decide) ha).trans ?_
    rw [migrAct, withCore_held hc hv hlease]
  have home (ha : s.gn a = 1) : exec (.migrHome a b d) s = .next (settle s (migrHomeAct d (s.gn b) s)) := by
    refine (migr_served h hl (by decide) ha).trans ?_
    rw [migrAct, withCore_held hc hv hlease]
  refine ⟨fun hbusy => ⟨fun ha => ?_, fun ha => ?_⟩, fun hbusy haway hs => ⟨fun x ha hx hr => ?_, fun ha he hu => ?_⟩⟩
  · rw [move ha, migrMove_busy hbusy, settle_done]
  · rw [home ha, migrHome_busy hbusy, settle_done]
  · exact ⟨_, by rw [move ha, migrMove_spare hbusy haway hs hx hr, settle_done], orderMove_spec d _ _ rfl⟩
  · exact ⟨_, by rw [home ha, migrHome_nominal hbusy haway hs he hu, settle_done], orderMove_spec d _ _ rfl⟩

/-- EVICT and RESUME of the thread's function. -/
theorem migrFn_spec {s : State} {a b d : BitVec 5} (hl : 2 ≤ s.level) (h : s.Served) (hb : s.gn b < 384)
    (hbusy : s.busyOrder false s.me.fn = false) :
    (s.gn a = 2 → s.fnState s.me.fn = 2 → ∃ t, exec (.migrEvict a b d) s = .next t ∧
      ((∀ c, (s.core c).mop = none) → s.Wrote t d 1) ∧ .migrOrderEnd 2 s.me.fn ∈ t.agenda ∧
      t.orders = s.orders ++ [{ code := 2, arg := s.me.fn, lease := s.me.lease }]) ∧
    (s.gn a = 3 → s.fnState s.me.fn = 3 → ∃ t, exec (.migrResume a b d) s = .next t ∧ s.Wrote t d 1 ∧
      .migrOrderEnd 3 s.me.fn ∈ t.agenda ∧ (t.fn s.me.fn).resume = (s.fn s.me.fn).saved ∧
      t.orders = s.orders ++ [{ code := 3, arg := s.me.fn, lease := s.me.lease }]) := by
  constructor
  · intro ha hs
    obtain ⟨t, ht, hrest⟩ := evict_active (d := d) hs hbusy
    refine ⟨t, (migr_served h hl (by decide) ha).trans ?_, hrest⟩
    rw [migrAct, withSelector_own hb, ht]
  · intro ha hs
    obtain ⟨t, ht, hrest⟩ := resume_evicted (d := d) hs hbusy
    refine ⟨t, (migr_served h hl (by decide) ha).trans ?_, hrest⟩
    have hact : migrAct 3 a b d s = resumeAct d s.me.fn s := withSelector_own hb ..
    rw [hact, ht]

/-- RIGHTS_GRANT and RIGHTS_REVOKE of the thread's function. -/
theorem rights_spec {s : State} {a b d : BitVec 5} {m : BitVec 8} (hl : 2 ≤ s.level) (ha : s.gn a < 384)
    (hb : s.gn b < 256) (hf : s.me.fn < 1000) (hm : m = (s.g b).extractLsb' 0 8) (he : s.exists? s.me.fn = true)
    (hr : s.level = 2 → m &&& (s.lse s.me.lease).rights = m) :
    (s.Plain →
      (∃ t, exec (.rightsGrant a b d) s = .next t ∧ t.mem = s.mem ∧
        (t.fn s.me.fn).rights = (s.fn s.me.fn).rights ||| m ∧ (t.thr s.cur).st = .parked .engine ∧
        (t.thr s.cur).pc = s.me.pc ∧ .rightsPropagated s.cur ∈ t.agenda) ∧
      ∃ t, exec (.rightsRevoke a b d) s = .next t ∧ t.mem = s.mem ∧
        (t.fn s.me.fn).rights = (s.fn s.me.fn).rights &&& ~~~m ∧ (t.thr s.cur).st = .parked .engine ∧
        (t.thr s.cur).pc = s.me.pc ∧ .rightsPropagated s.cur ∈ t.agenda) ∧
    ∀ bs, s.Answered bs →
      exec (.rightsGrant a b d) s = .next (s.after (s.setGn d (ofBytes bs))) ∧
      exec (.rightsRevoke a b d) s = .next (s.after (s.setGn d (ofBytes bs))) := by
  refine ⟨fun h => ⟨?_, ?_⟩, fun bs h => ⟨?_, ?_⟩⟩
  · obtain ⟨t, ht, hrest⟩ := rightsChange_waits (d := d) hf ((s.fn s.me.fn).rights ||| m) h.noReply
    exact ⟨t, ht ▸ rightsGrant_checked h.steady hl ha hb he hm hr hf, hrest⟩
  · obtain ⟨t, ht, hrest⟩ := rightsChange_waits (d := d) hf ((s.fn s.me.fn).rights &&& ~~~m) h.noReply
    exact ⟨t, ht ▸ rightsRevoke_checked h.steady hl ha hb he hm hf, hrest⟩
  · rw [rightsGrant_checked h.steady hl ha hb he hm hr hf, rightsChange_answered h.reply, settle_done]
  · rw [rightsRevoke_checked h.steady hl ha hb he hm hf, rightsChange_answered h.reply, settle_done]

/-- Settles O49: each word is its meaning (`run_partForm`), asks the service die, and acts once it is answered. -/
theorem serviceDieOrders : Obligations.ServiceDieOrders := by
  unfold Obligations.ServiceDieOrders
  refine ⟨?_, ?_, ?_, ?_⟩
  · intro s a b d sc f hl hb hf he ha hx
    subst hf
    exact ⟨fun h hr => dlaunch_waits h hl hb he ha hx hr,
      fun da x h hrel ho hda => dlaunch_reads h hl hb he ha hx hrel ho hda,
      fun bs p q h hp hq => dlaunch_spec hl hb he ha hx h hp hq⟩
  · intro s a b d hl
    refine ⟨fun i o ho hi ha h hr => ?_,
      fun h => ⟨fun c k hcb hk hc hv hlease => migrCore_spec hl h hcb hk hc hv hlease, fun f hb hf hbusy => ?_⟩⟩
    · subst hi
      exact migr_waits h hl ho ha hr
    · subst hf
      exact migrFn_spec hl h hb hbusy
  · intro s a b d
    refine ⟨fun x i hl ha hx hi hb => ⟨fun h => waits_of_atService h (readField_asks h.steady hl ha hx hi hb),
        fun h => readField_served h hl ha hx hi hb⟩,
      fun x hl ha hx he hv hk => ⟨fun h => waits_of_atService h (writeScopemax_asks h.steady hl ha hx he hv),
        fun h => writeScopemax_served h hl ha hx he hv hk⟩, fun f n rest hl hf hb => ⟨fun ha he => ?_, fun ha he ho => ?_⟩,
      fun sc i x asid page q hl hx ha ho hsc hp hq hi => vfctlPage_spec hl hx ha ho hsc hp hq hi⟩
    · exact ⟨fun h hr => waits_of_atService h (create_asks h.steady hl hf hb ha he (allowed_of_right hr)),
        fun h hn hv => create_served h hl hf hb ha he hn hv⟩
    · exact ⟨fun h hr => waits_of_atService h (destroy_asks h.steady hl hf hb ha ho (allowed_of_right hr)),
        fun h hc hs hq => destroy_served h hl hf hb ha he ho hc hs hq⟩
  · intro s a b d f m ha hb hfn hf hm
    subst hfn
    exact ⟨fun hl => ⟨fun h => waits_of_atService h (rightsRead_asks h.steady hl ha hb),
      fun h => rightsRead_served h hl ha hb hf⟩, fun hl he hr => rights_spec hl ha hb hf hm he hr⟩

end Sys2Proof.Machine
end

section
/-! SUPPORT. Meters, the trier's events and the power controller (R392 to R419). -/

namespace Sys2Proof.Machine

theorem State.MeterOnly.threads {s t : State} (h : s.MeterOnly t) : t.threads = s.threads := by
  obtain ⟨_, _, rfl⟩ := h
  rfl

/-! ## AUDIT_RECORD (R392 to R394) -/

/-- One core's bubble for the trier. -/
def trierBubble (q : Nat) (s : State) (i : Nat) : State :=
  match (s.quad q).trier.records with
  | r :: rest =>
    if r.work < r.cost && s.bubble (coreOfQuad q i) && !s.sequencing (coreOfQuad q i) then
      (s.spend (coreOfQuad q i)).modQuad q fun k =>
        { k with trier := { k.trier with records := { r with work := r.work + 1 } :: rest } }
    else s
  | [] => s

theorem trierBubbles_eq (s : State) (q : Nat) : s.trierBubbles q = (List.range 4).foldl (trierBubble q) s := rfl

/-- `t` is `s` but for its oldest record's work, which has gone on by at most `n` bubbles. -/
structure State.Audited (s t : State) (q : Nat) (r : AuditRecord) (rs : List AuditRecord) (n : Nat) : Prop where
  mem : t.mem = s.mem
  threads : t.threads = s.threads
  work : ∃ w, (t.quad q).trier = { (s.quad q).trier with records := { r with work := w } :: rs } ∧ r.work ≤ w ∧
    w ≤ r.work + n ∧ w ≤ r.cost

theorem trierBubble_audits {s : State} {q : Nat} {r : AuditRecord} {rs : List AuditRecord}
    (hr : (s.quad q).trier.records = r :: rs) (hw : r.work ≤ r.cost) (i : Nat) :
    s.Audited (trierBubble q s i) q r rs 1 := by
  rw [trierBubble, hr]
  dsimp only
  split
  next h =>
    have hlt : r.work < r.cost := by simp_all
    exact ⟨rfl, rfl, r.work + 1, by rw [quad_modQuad_same]; rfl, by omega, by omega, by omega⟩
  next => exact ⟨rfl, rfl, r.work, by rw [← hr], by omega, by omega, hw⟩

theorem trierBubble_fold_audits {q : Nat} {rs : List AuditRecord} (l : List Nat) {s : State} {r : AuditRecord}
    (hr : (s.quad q).trier.records = r :: rs) (hw : r.work ≤ r.cost) :
    s.Audited (l.foldl (trierBubble q) s) q r rs l.length := by
  induction l generalizing s r with
  | nil => exact ⟨rfl, rfl, r.work, by rw [← hr]; rfl, by omega, by omega, hw⟩
  | cons i l ih =>
    obtain ⟨hmem, hthr, w, hq, hlo, hhi, hcost⟩ := trierBubble_audits hr hw i
    obtain ⟨hmem', hthr', w', hq', hlo', hhi', hcost'⟩ := ih (s := trierBubble q s i) (r := { r with work := w })
      (congrArg Trier.records hq) hcost
    refine ⟨hmem'.trans hmem, hthr'.trans hthr, w', ?_, Nat.le_trans hlo hlo', ?_, hcost'⟩
    · rw [List.foldl_cons, hq', hq]
    · dsimp only at hhi'
      rw [List.length_cons]
      omega

section
variable {s : State} {q f : Nat} {r : AuditRecord} {rs : List AuditRecord}

/-- A record whose cost is not yet paid takes bubbles. -/
theorem auditRecord_bubbles (hq : q < 14400) (hr : (s.quad q).trier.records = r :: rs) (hf : s.holder q = some f)
    (hb : (s.fn f).boundary = false) (ho : s.quotaOk q f = true) (hw : r.work < r.cost) :
    exec (.auditRecord q) s = .next ((s.trierBubbles q).defer (.auditRecord q)) := by
  refine (eventIf_pos (decide_eq_true hq) _).trans ?_
  rw [hr, hf]
  simp only [hb, ho, hw, Bool.false_and, Bool.not_true, Bool.false_eq_true, if_false, if_true]

/-- The trier after the audit of its oldest record. -/
def State.binned (s : State) (q f : Nat) (r : AuditRecord) (rs : List AuditRecord) : State :=
  ((s.charge q f 24 1).modQuad q fun k => { k with trier := { k.trier with records := rs } }).modEntry q r.entry
    fun _ => ((vget {} (s.quad q).trier.entries r.entry).audit r).1

/-- The audit of a record at an entry with no threshold (R394, R395). -/
theorem audit_untripped {e : AuditEntry} (h : e.tbin = 0) (r : AuditRecord) : (e.audit r).2 = false ∧
    (e.audit r).1.samp = min (2 ^ 32 - 1) (e.samp + 1) ∧ (e.audit r).1.nanc = min (2 ^ 32 - 1) (e.nanc + r.found.2) ∧
    (e.audit r).1.trip = e.trip ∧ (e.audit r).1.tag = e.tag := by
  simp [AuditEntry.audit, satAdd, h]

/-- A record of a quantization whose cost is paid, of an entry with no threshold. -/
theorem auditRecord_bins (hq : q < 14400) (hr : (s.quad q).trier.records = r :: rs) (hf : s.holder q = some f)
    (hb : (s.fn f).boundary = false) (ho : s.quotaOk q f = true) (hw : r.cost ≤ r.work)
    (ht : s.trierBefore q (s.cycle + 1) 0 = false) (hquant : r.quant = true)
    (hbin : (vget {} (s.quad q).trier.entries r.entry).tbin = 0) :
    exec (.auditRecord q) s = .next (if rs = [] then s.binned q f r rs
      else (s.binned q f r rs).dueOnce (.auditRecord q)) := by
  have hent : ((s.charge q f 24 1).modQuad q fun k => { k with trier := { k.trier with records := rs } }).quad q =
      { (s.charge q f 24 1).quad q with trier := { (s.quad q).trier with records := rs } } := by
    rw [quad_modQuad_same, charge_keeps Quad.trier fun _ _ => rfl]
  have htrip : ((vget {} (s.quad q).trier.entries r.entry).audit r).2 = false :=
    (audit_untripped hbin r).1
  refine (eventIf_pos (decide_eq_true hq) _).trans ?_
  rw [hr, hf]
  simp only [hb, ho, Nat.not_lt.mpr hw, ht, hquant, hent, htrip, Bool.false_and, Bool.not_true, Bool.false_eq_true,
    if_false, if_true]
  rfl

theorem binned_keeps : (s.binned q f r rs).mem = s.mem ∧ (s.binned q f r rs).threads = s.threads ∧
    ((s.binned q f r rs).quad q).trier = { (s.quad q).trier with
      records := rs, entries := vmod {} (s.quad q).trier.entries r.entry
        fun _ => ((vget {} (s.quad q).trier.entries r.entry).audit r).1 } := by
  have hc : s.MeterOnly (s.binned q f r rs) := by
    rw [State.binned, State.modEntry]
    exact (State.MeterOnly.charge s q f 24 1).trans ((State.MeterOnly.modQuad ..).trans (State.MeterOnly.modQuad ..))
  refine ⟨hc.mem, hc.threads, ?_⟩
  rw [State.binned, State.modEntry, quad_modQuad_same, quad_modQuad_same, charge_keeps Quad.trier fun _ _ => rfl]

theorem auditRecord_spec {e : AuditEntry} (hq : q < 14400) (hr : (s.quad q).trier.records = r :: rs)
    (hi : r.entry < 16) (hquant : r.quant = true) (he : e = vget {} (s.quad q).trier.entries r.entry) (hbin : e.tbin = 0)
    (hf : s.holder q = some f) (hb : (s.fn f).boundary = false) (ho : s.quotaOk q f = true) :
    (r.work < r.cost → ∃ t n, exec (.auditRecord q) s = .next t ∧ t.mem = s.mem ∧ t.threads = s.threads ∧
      .auditRecord q ∈ t.agenda ∧ (t.quad q).trier.entries = (s.quad q).trier.entries ∧
      (t.quad q).trier.records = { r with work := n } :: rs ∧ r.work ≤ n ∧ n ≤ r.work + 4 ∧ n ≤ r.cost) ∧
    (r.cost ≤ r.work → s.trierBefore q (s.cycle + 1) 0 = false →
      ∃ t, exec (.auditRecord q) s = .next t ∧ t.mem = s.mem ∧ t.threads = s.threads ∧
        (t.quad q).trier.records = rs ∧
        ∀ v : AuditEntry, v = vget {} (t.quad q).trier.entries r.entry → v.samp = min (2 ^ 32 - 1) (e.samp + 1) ∧
          v.nanc = min (2 ^ 32 - 1) (e.nanc + r.found.2) ∧ v.trip = e.trip ∧ v.tag = e.tag) := by
  subst he
  constructor
  · intro hw
    obtain ⟨hmem, hthr, n, htrier, hlo, hhi, hcost⟩ := trierBubble_fold_audits (List.range 4) hr (Nat.le_of_lt hw)
    rw [← trierBubbles_eq] at hmem hthr htrier
    refine ⟨_, n, auditRecord_bubbles hq hr hf hb ho hw, ?_, ?_, mem_dueOnce_agenda.mpr (.inr rfl), ?_, ?_, hlo, hhi, hcost⟩
    · rw [State.defer, dueOnce_mem, hmem]
    · rw [State.defer, dueOnce_threads, hthr]
    · rw [State.defer, dueOnce_quad, htrier]
    · rw [State.defer, dueOnce_quad, htrier]
  · intro hw ht
    obtain ⟨hmem, hthr, htrier⟩ := binned_keeps (s := s) (q := q) (f := f) (r := r) (rs := rs)
    refine ⟨_, auditRecord_bins hq hr hf hb ho hw ht hquant hbin, ?_⟩
    have last (t : State) (hm : t.mem = s.mem) (hth : t.threads = s.threads)
        (hk : (t.quad q).trier = ((s.binned q f r rs).quad q).trier) :
        t.mem = s.mem ∧ t.threads = s.threads ∧ (t.quad q).trier.records = rs ∧
        ∀ v : AuditEntry, v = vget {} (t.quad q).trier.entries r.entry →
          v.samp = min (2 ^ 32 - 1) ((vget {} (s.quad q).trier.entries r.entry).samp + 1) ∧
          v.nanc = min (2 ^ 32 - 1) ((vget {} (s.quad q).trier.entries r.entry).nanc + r.found.2) ∧
          v.trip = (vget {} (s.quad q).trier.entries r.entry).trip ∧
          v.tag = (vget {} (s.quad q).trier.entries r.entry).tag := by
      refine ⟨hm, hth, by rw [hk, htrier], ?_⟩
      rw [hk, htrier]
      rintro _ rfl
      rw [vget_vmod_same _ _ _ hi]
      exact (audit_untripped hbin r).2
    split
    · exact last _ hmem hthr rfl
    · exact last _ ((dueOnce_mem ..).trans hmem) ((dueOnce_threads ..).trans hthr) (by rw [dueOnce_quad])

end

end Sys2Proof.Machine
end

section
/-! SUPPORT. Slices, windows, calibration and the power controller (R99, R341, R410 to R419). -/

namespace Sys2Proof.Machine

/-! ## Slices and refills (R413, R414) -/

section
variable {s : State} {q f : Nat}

theorem modAl_al_same (m : Meter) (f : Nat) (g : Allowance → Allowance) : (m.modAl f g).al f = g (m.al f) :=
  smGet_smSet_same ..

theorem chargePoint_quad (hq : q < 14400) (hf : f < 384) : (chargePoint 0 q && decide (f < 384)) = true := by
  simp [chargePoint, hq, hf]

theorem sliceRequest_grants (hq : q < 14400) (hf : f < 384) (hm : s.meterPending = false)
    (hb : (s.fn f).boundary = false) (hbal : 0 < (s.fn f).bal) :
    ∃ t, exec (.sliceRequest 0 q f) s = .next t ∧ t.mem = s.mem ∧
      (t.fn f).bal = (s.fn f).bal - min tenMicro (s.fn f).bal ∧
      .sliceGrant 0 q f (min tenMicro (s.fn f).bal).toNat ∈ t.agenda := by
  have hexec : exec (.sliceRequest 0 q f) s = .next ((s.modFn f fun x =>
      { x with bal := x.bal - min tenMicro (s.fn f).bal }).due (.sliceGrant 0 q f (min tenMicro (s.fn f).bal).toNat)) := by
    refine (eventIf_pos (chargePoint_quad hq hf) _).trans ?_
    simp only [hm, hb, not_le.mpr hbal, decide_false, Bool.or_self, Bool.false_eq_true, if_false]
  exact ⟨_, hexec, rfl, by rw [due_fn, fn_modFn_same], mem_due_agenda.mpr (.inr rfl)⟩

theorem sliceRequest_refuses (hq : q < 14400) (hf : f < 384) (hm : s.meterPending = false) (hbal : (s.fn f).bal ≤ 0) :
    exec (.sliceRequest 0 q f) s = .next (s.due (.sliceRefusal 0 q f)) := by
  refine (eventIf_pos (chargePoint_quad hq hf) _).trans ?_
  simp only [hm, hbal, decide_true, Bool.or_true, Bool.false_eq_true, if_false, if_true]

theorem sliceGrant_reaches (hq : q < 14400) (hf : f < 384) (hb : (s.fn f).boundary = false) (a : Nat) :
    ∃ t, exec (.sliceGrant 0 q f a) s = .next t ∧ t.mem = s.mem ∧ t.fn f = s.fn f ∧
      ((t.quad q).meter.al f).amount = ((s.quad q).meter.al f).amount + a ∧ ((t.quad q).meter.al f).asked = false := by
  have hexec : exec (.sliceGrant 0 q f a) s = .next ((s.modAllow 0 q f fun x =>
      { x with amount := x.amount + (a : Int), asked := false, waiting := false }).wakeQuota f fun c =>
        (0 : Nat) == 0 && quadOf c == q) := by
    refine (eventIf_pos (chargePoint_quad hq hf) _).trans ?_
    rw [hb]
    rfl
  have hq (t : State) (hquad : t.quad q = (s.modAllow 0 q f fun x =>
      { x with amount := x.amount + (a : Int), asked := false, waiting := false }).quad q) :
      ((t.quad q).meter.al f).amount = ((s.quad q).meter.al f).amount + a ∧ ((t.quad q).meter.al f).asked = false := by
    rw [hquad, State.modAllow, quad_modQuad_same, modAl_al_same]
    exact ⟨rfl, rfl⟩
  exact ⟨_, hexec, rfl, rfl, hq _ rfl⟩

theorem sliceRefusal_stands (hq : q < 14400) (hf : f < 384) (hw : ((s.quad q).meter.al f).waiting = false) :
    ∃ t, exec (.sliceRefusal 0 q f) s = .next t ∧ t.mem = s.mem ∧ t.threads = s.threads ∧ t.fn f = s.fn f ∧
      ((t.quad q).meter.al f).refused = true ∧
      ((t.quad q).meter.al f).amount = ((s.quad q).meter.al f).amount := by
  have hal : (((s.modAllow 0 q f fun x => { x with refused := true, asked := false }).meterAt 0 q).al f) =
      { (s.quad q).meter.al f with refused := true, asked := false } := by
    rw [State.meterAt, State.modAllow, quad_modQuad_same, modAl_al_same]
  have hexec : exec (.sliceRefusal 0 q f) s =
      .next (s.modAllow 0 q f fun x => { x with refused := true, asked := false }) := by
    refine (eventIf_pos (chargePoint_quad hq hf) _).trans ?_
    simp only [hal, hw, Bool.false_eq_true, if_false]
  exact ⟨_, hexec, rfl, rfl, rfl, congrArg Allowance.refused hal, (congrArg Allowance.amount hal).trans rfl⟩

theorem settleQuota_active {s : State} {f : Nat} (h : (s.fn f).boundary = false) : s.settleQuota f = s := by
  rw [State.settleQuota, h, Bool.false_and, if_neg (by decide)]

/-- The refill of a function that is ACTIVE (R413). -/
def State.refilled (s : State) (f : Nat) : State :=
  s.modFn f fun k => { k with bal := min ((k.cap : Int) * 256) (k.bal + (k.rate : Int) * 256) }

/-- The next refill is a microsecond later. -/
def State.refillClock (s : State) : State :=
  { s with service := { s.service with refillAt := s.service.refillAt + microsecond } }

/-- The functions whose balance is below their cap. -/
def State.belowCap (s : State) : List Nat :=
  (s.funcs.filter fun p => p.2.st != .none && p.2.bal < (p.2.cap : Int) * 256).map (·.1)

theorem quotaRefill_refills (hm : s.meterPending = false) (ht : s.service.refillAt + microsecond ≤ s.cycle) :
    exec .quotaRefill s = .next ((s.belowCap.foldl (fun t f => (t.refilled f).settleQuota f) s.refillClock).due
      .quotaRefill) :=
  congrArg Host.Outcome.next (if_neg (by simp [hm, ht]))

theorem quotaRefill_spec {fn : Func} (hm : s.meterPending = false) (hfn : fn = s.fn f) (hs : s.funcs = [(f, fn)])
    (ht : s.service.refillAt + microsecond ≤ s.cycle) (hst : fn.st ≠ .none) (hbal : fn.bal < (fn.cap : Int) * 256)
    (hb : fn.boundary = false) :
    ∃ t, exec .quotaRefill s = .next t ∧ t.mem = s.mem ∧ t.threads = s.threads ∧
      (t.fn f).bal = min ((fn.cap : Int) * 256) (fn.bal + (fn.rate : Int) * 256) ∧
      t.service.refillAt = s.service.refillAt + microsecond ∧ .quotaRefill ∈ t.agenda := by
  have hlist : s.belowCap = [f] := by simp [State.belowCap, hs, hst, hbal]
  have hfun : s.refillClock.fn f = fn := hfn.symm
  have hact : ((s.refillClock.refilled f).fn f).boundary = false := by rw [State.refilled, fn_modFn_same, hfun, ← hb]
  have hexec := quotaRefill_refills hm ht
  rw [hlist, List.foldl_cons, List.foldl_nil, settleQuota_active hact] at hexec
  refine ⟨_, hexec, rfl, rfl, ?_, rfl, mem_due_agenda.mpr (.inr rfl)⟩
  rw [due_fn, State.refilled, fn_modFn_same, hfun]

end

/-! ## Telemetry and windows (R341, R416) -/

/-- `t` is `s` but for drawn numbers, functions, leases and the pool of shares. -/
def State.BooksOnly (s t : State) : Prop :=
  ∃ n fs ls p, t = { s with fresh := n, funcs := fs, leases := ls, service := { s.service with pool := p } }

namespace State.BooksOnly

variable {s t u : State}

theorem refl (s : State) : s.BooksOnly s := ⟨_, _, _, _, rfl⟩

theorem trans (h : s.BooksOnly t) (h' : t.BooksOnly u) : s.BooksOnly u := by
  obtain ⟨_, _, _, _, rfl⟩ := h
  obtain ⟨n, fs, ls, p, rfl⟩ := h'
  exact ⟨n, fs, ls, p, rfl⟩

theorem foldl {β : Type} {f : State → β → State} (h : ∀ (s : State) (x : β), s.BooksOnly (f s x)) (l : List β)
    (s : State) : s.BooksOnly (l.foldl f s) :=
  List.foldlRecOn (motive := s.BooksOnly) l f (refl s) fun _ ht x _ => ht.trans (h _ x)

theorem modFn (s : State) (f : Nat) (g : Func → Func) : s.BooksOnly (s.modFn f g) := ⟨_, _, _, _, rfl⟩

theorem modLse (s : State) (l : Nat) (g : Lease → Lease) : s.BooksOnly (s.modLse l g) := ⟨_, _, _, _, rfl⟩

theorem sensor (s : State) : s.BooksOnly s.sensor.2 := ⟨_, _, _, _, rfl⟩

theorem addTotals (s : State) (l : List (Nat × Usage)) : s.BooksOnly (s.addTotals l) :=
  foldl (fun _ _ => modFn ..) l s

theorem closeHolding (s : State) (q f : Nat) : s.BooksOnly (s.closeHolding q f) := by
  unfold State.closeHolding State.postAmount
  exact (sensor s).trans ((modFn ..).trans ((modFn ..).trans (modLse ..)))

theorem idleLeak (s : State) (l : Nat) : s.BooksOnly (s.idleLeak l).2 := by
  unfold State.idleLeak
  simp only
  split
  · exact sensor s
  · exact refl s

theorem splitLease (s : State) (l share : Nat) : s.BooksOnly (s.splitLease l share) := by
  unfold State.splitLease
  simp only
  split
  · exact modLse ..
  · exact (modFn ..).trans ((modFn ..).trans (modLse ..))
  · exact (foldl (fun _ _ => (modFn ..).trans (modFn ..)) _ s).trans (modLse ..)

theorem mem (h : s.BooksOnly t) : t.mem = s.mem := by obtain ⟨_, _, _, _, rfl⟩ := h; rfl

theorem threads (h : s.BooksOnly t) : t.threads = s.threads := by obtain ⟨_, _, _, _, rfl⟩ := h; rfl

theorem quad (h : s.BooksOnly t) (q : Nat) : t.quad q = s.quad q := by obtain ⟨_, _, _, _, rfl⟩ := h; rfl

theorem windowFrom (h : s.BooksOnly t) : t.service.windowFrom = s.service.windowFrom := by obtain ⟨_, _, _, _, rfl⟩ := h; rfl

end State.BooksOnly

/-- Every quad's meter has been told. -/
def State.metersTold (s : State) : State :=
  { s with quads := s.quads.map fun p => (p.1, { p.2 with meter := p.2.meter.told })
           dies := s.dies.map fun p => (p.1, { p.2 with meter := p.2.meter.told })
           odies := s.odies.map fun p => (p.1, { p.2 with meter := p.2.meter.told }) }

theorem tell_books (s : State) : s.metersTold.BooksOnly s.tell := .addTotals ..

theorem telemetry_spec (s : State) : ∃ t, exec .telemetry s = .next t ∧ t.mem = s.mem ∧ t.threads = s.threads ∧
    .telemetry ∈ t.agenda ∧
    ∀ n, (t.quad n).meter.posted = (s.quad n).meter.usage ∧ (t.quad n).meter.usage = (s.quad n).meter.usage := by
  have hb := tell_books s
  refine ⟨_, rfl, ?_, ?_, mem_dueOnce_agenda.mpr (.inr rfl), fun n => ?_⟩
  · rw [dueOnce_mem, hb.mem]
    rfl
  · rw [dueOnce_threads, hb.threads]
    rfl
  · have hq : s.metersTold.quad n = { s.quad n with meter := (s.quad n).meter.told } :=
      smGet_map_same (fun k : Quad => { k with meter := k.meter.told }) {} rfl s.quads n
    rw [dueOnce_quad, hb.quad, hq]
    exact ⟨rfl, rfl⟩

/-- The window's end after its charges are posted. -/
def State.windowDone (s : State) : State :=
  { s with
    funcs := s.funcs.map fun p => (p.1, { p.2 with share := p.2.shareNow, shareNow := 0, quadUs := 0, dyn := p.2.dynamic
                                                   svcm := p.2.svcn, svcn := 0 })
    leases := s.leases.map fun p => (p.1, { p.2 with quadUs := 0 })
    service := { s.service with windowFrom := s.service.windowFrom + 1000 * microsecond } }

theorem State.BooksOnly.pool (s : State) (p : Nat) : s.BooksOnly { s with service := { s.service with pool := p } } := ⟨_, _, _, _, rfl⟩

/-- The holdings of a window are posted, and the shared leakage is drawn. -/
def State.holdingsClosed (s : State) : Nat × State :=
  ((s.quads.filterMap fun p => match p.2.hold with
    | .held f _ _ => some (p.1, f)
    | _ => none).foldl (fun s h => s.closeHolding h.1 h.2) s).sensor

theorem holdingsClosed_books (s : State) : s.BooksOnly s.holdingsClosed.2 := by
  unfold State.holdingsClosed
  refine .trans ?_ (.sensor _)
  refine State.BooksOnly.foldl ?_ _ _
  exact fun t h => .closeHolding t h.1 h.2

/-- The shares of the leases at a window's close. -/
def State.windowShares (s : State) (pool : Nat) : List (Nat × Nat) :=
  splitBy (pool / 256) ((s.leases.filter fun p => p.2.live).map fun p => (p.1, p.2.quadUs))

/-- A lease's share is split. -/
def splitShare (shares : List (Nat × Nat)) (s : State) (p : Nat × Lease) : State :=
  (s.idleLeak p.1).2.splitLease p.1
    (((shares.find? fun x => x.1 == p.1).map (·.2)).getD 0 + (s.idleLeak p.1).1 + p.2.carry)

/-- The shares of a window are charged, and what is left of the pool is kept. -/
def State.sharesCharged (s : State) (pool : Nat) : State :=
  (s.leases.filter fun p => p.2.live).foldl (splitShare (s.windowShares pool))
    { s with service := { s.service with pool := if s.windowShares pool = [] then pool else pool % 256 } }

theorem sharesCharged_books (s : State) (pool : Nat) : s.BooksOnly (s.sharesCharged pool) := by
  refine (State.BooksOnly.pool s _).trans (State.BooksOnly.foldl ?_ _ _)
  exact fun t p => (State.BooksOnly.idleLeak t p.1).trans (.splitLease ..)

theorem closeWindow_eq (s : State) : s.closeWindow =
    (s.holdingsClosed.2.sharesCharged (s.holdingsClosed.2.service.pool + s.holdingsClosed.1)).windowDone := rfl

theorem closeWindow_books (s : State) : ∃ u, s.BooksOnly u ∧ s.closeWindow = u.windowDone :=
  ⟨_, (holdingsClosed_books s).trans (sharesCharged_books ..), closeWindow_eq s⟩

/-- After a window's end no function has a share or a time of the next. -/
theorem windowDone_zero (s : State) (n : Nat) : (s.windowDone.fn n).shareNow = 0 ∧ (s.windowDone.fn n).quadUs = 0 := by
  unfold State.fn State.windowDone
  dsimp only
  induction s.funcs with
  | nil => exact ⟨rfl, rfl⟩
  | cons p m ih =>
    rw [List.map_cons, smGet]
    split
    · exact ⟨rfl, rfl⟩
    · exact ih

theorem meterWindowClose_spec {s : State} (h : s.service.windowFrom + 1000 * microsecond ≤ s.cycle) :
    ∃ t, exec .meterWindowClose s = .next t ∧ t.mem = s.mem ∧ t.threads = s.threads ∧
      t.service.windowFrom = s.service.windowFrom + 1000 * microsecond ∧
      (∀ n, (t.fn n).shareNow = 0 ∧ (t.fn n).quadUs = 0) ∧ .meterWindowClose ∈ t.agenda := by
  obtain ⟨u, hu, hclose⟩ := closeWindow_books s
  have hexec : exec .meterWindowClose s = .next (s.closeWindow.due .meterWindowClose) :=
    congrArg Host.Outcome.next (if_neg (Nat.not_lt.mpr h))
  refine ⟨_, hexec, ?_, ?_, ?_, fun n => ?_, mem_due_agenda.mpr (.inr rfl)⟩
  · rw [hclose]
    exact hu.mem
  · rw [hclose]
    exact hu.threads
  · rw [hclose, ← hu.windowFrom]
    rfl
  · rw [hclose]
    exact windowDone_zero u n

/-! ## Calibration and power (R99, R410, R417, R419) -/

section
variable {s : State} {q : Nat}

theorem ratio_bounds (r : Nat) : 192 ≤ max 192 (min 320 r) ∧ max 192 (min 320 r) ≤ 320 ∧
    (192 ≤ r → r ≤ 320 → max 192 (min 320 r) = r) := by omega

theorem meterCalibration_quad (hq : q < 14400) (r : Nat) : ∃ t, exec (.meterCalibration q r) s = .next t ∧
    t.mem = s.mem ∧ t.threads = s.threads ∧ 192 ≤ (t.quad q).q ∧ (t.quad q).q ≤ 320 ∧
      (192 ≤ r → r ≤ 320 → (t.quad q).q = r) := by
  have hexec : exec (.meterCalibration q r) s = .next (s.modQuad q fun k => { k with q := max 192 (min 320 r) }) :=
    (eventIf_pos (decide_eq_true (by omega)) _).trans (congrArg Host.Outcome.next (if_pos hq))
  refine ⟨_, hexec, rfl, rfl, ?_⟩
  rw [quad_modQuad_same]
  exact ratio_bounds r

theorem meterCalibration_die {d : Nat} (hd : d < 900) (r : Nat) :
    ∃ t, exec (.meterCalibration (14400 + d) r) s = .next t ∧ t.mem = s.mem ∧ t.threads = s.threads ∧
      t.quads = s.quads ∧ 192 ≤ (t.die d).q ∧ (t.die d).q ≤ 320 ∧ (192 ≤ r → r ≤ 320 → (t.die d).q = r) := by
  have hexec : exec (.meterCalibration (14400 + d) r) s =
      .next (s.modDie (14400 + d - 14400) fun k => { k with q := max 192 (min 320 r) }) :=
    (eventIf_pos (decide_eq_true (by omega)) _).trans (congrArg Host.Outcome.next (if_neg (by omega)))
  rw [Nat.add_sub_cancel_left] at hexec
  refine ⟨_, hexec, rfl, rfl, rfl, ?_⟩
  rw [die_modDie_same]
  exact ratio_bounds r

theorem operatingPointChange_spec (hq : q < 14400) : ∃ t, exec (.operatingPointChange q) s = .next t ∧ t.mem = s.mem ∧
    t.threads = s.threads ∧ (t.quad q).cur ≤ (s.quad q).cap ∧
      (s.quadRequest q ≤ (s.quad q).cap → (t.quad q).cur = s.quadRequest q) ∧ (t.quad q).cap = (s.quad q).cap := by
  refine ⟨_, eventIf_pos (decide_eq_true hq) _, rfl, rfl, ?_⟩
  rw [quad_modQuad_same]
  exact ⟨Nat.min_le_left .., fun h => Nat.min_eq_right h, rfl⟩

theorem powerCapStep_lowers (hq : q < 14400) (hc : 1 < (s.quad q).cap) : ∃ t, exec (.powerCapStep q) s = .next t ∧
    t.mem = s.mem ∧ t.threads = s.threads ∧ (t.quad q).cap + 1 = (s.quad q).cap ∧
      t.service.actions = (q, 0) :: s.service.actions ∧ .operatingPointChange q ∈ t.agenda := by
  have hexec : exec (.powerCapStep q) s = .next (({ s with service := { s.service with
      actions := (q, 0) :: s.service.actions } }.modQuad q fun k => { k with cap := k.cap - 1 }).dueOnce
        (.operatingPointChange q)) :=
    (eventIf_pos (decide_eq_true hq) _).trans (congrArg Host.Outcome.next (if_pos hc))
  refine ⟨_, hexec, ?_, ?_, ?_, ?_, mem_dueOnce_agenda.mpr (.inr rfl)⟩
  · rw [dueOnce_mem]
    rfl
  · rw [dueOnce_threads]
    rfl
  · rw [dueOnce_quad, quad_modQuad_same]
    exact Nat.succ_pred_eq_of_pos (Nat.lt_trans Nat.zero_lt_one hc)
  · rw [dueOnce_service]
    rfl

/-- The power controller orders the gate of the slot that a core gives up next. -/
def orderGate (q : Nat) (s : State) (i : Nat) : State :=
  match s.nextGate (coreOfQuad q i) with
  | some k => { s with service := { s.service with actions := (coreOfQuad q i * 16 + k, 1) :: s.service.actions } }.due
      (.slotGate (coreOfQuad q i * 16 + k))
  | none => s

/-- `t` is `s` but for the controller's orders. -/
def State.OrdersOnly (s t : State) : Prop := ∃ v a, t = { s with service := v, agenda := s.agenda ++ a }

theorem orderGate_orders (q : Nat) (s : State) (i : Nat) : s.OrdersOnly (orderGate q s i) := by
  unfold orderGate
  split
  · exact ⟨_, [_], rfl⟩
  · exact ⟨_, [], by rw [List.append_nil]⟩

theorem State.OrdersOnly.trans {s t u : State} (h : s.OrdersOnly t) (h' : t.OrdersOnly u) : s.OrdersOnly u := by
  obtain ⟨_, a, rfl⟩ := h
  obtain ⟨v, b, rfl⟩ := h'
  exact ⟨v, a ++ b, by rw [List.append_assoc]⟩

theorem orderGates_orders (q : Nat) (l : List Nat) (s : State) : s.OrdersOnly (l.foldl (orderGate q) s) :=
  List.foldlRecOn (motive := s.OrdersOnly) l (orderGate q) ⟨_, [], by rw [List.append_nil]⟩ fun t ht i _ =>
    ht.trans (orderGate_orders q t i)

/-- Each core's next slot is ordered. -/
theorem orderGates_mem {g i : Nat} (l : List Nat) (hi : i ∈ l) (hg : s.nextGate (coreOfQuad q i) = some g) :
    .slotGate (coreOfQuad q i * 16 + g) ∈ (l.foldl (orderGate q) s).agenda := by
  induction l generalizing s with
  | nil => exact absurd hi (List.not_mem_nil)
  | cons j l ih =>
    rcases List.mem_cons.mp hi with rfl | hi
    · obtain ⟨_, a, ha⟩ := orderGates_orders q l (orderGate q s i)
      have hnow : .slotGate (coreOfQuad q i * 16 + g) ∈ (orderGate q s i).agenda := by
        rw [orderGate, hg]
        exact mem_due_agenda.mpr (.inr rfl)
      rw [List.foldl_cons, ha]
      exact List.mem_append_left _ hnow
    · refine ih (s := orderGate q s j) hi ?_
      obtain ⟨_, _, ha⟩ := orderGate_orders q s j
      rw [ha]
      exact hg

theorem powerCapStep_gates (hq : q < 14400) (hc : (s.quad q).cap ≤ 1) : ∃ t, exec (.powerCapStep q) s = .next t ∧
    t.mem = s.mem ∧ t.threads = s.threads ∧ (t.quad q).cap = (s.quad q).cap ∧
      ∀ i g, i < 4 → s.nextGate (coreOfQuad q i) = some g → .slotGate (coreOfQuad q i * 16 + g) ∈ t.agenda := by
  have hexec : exec (.powerCapStep q) s = .next ((List.range 4).foldl (orderGate q) s) :=
    (eventIf_pos (decide_eq_true hq) _).trans (congrArg Host.Outcome.next (if_neg (Nat.not_lt.mpr hc)))
  obtain ⟨_, _, ho⟩ := orderGates_orders q (List.range 4) s
  refine ⟨_, hexec, ?_, ?_, ?_, fun i g hi hg => orderGates_mem _ (List.mem_range.mpr hi) hg⟩
  · rw [ho]
  · rw [ho]
  · rw [ho]
    rfl

theorem powerRecovery_raises {n : Nat} {as : List (Nat × Nat)} (h : s.service.actions = (n, 0) :: as) :
    ∃ t, exec .powerRecovery s = .next t ∧ t.mem = s.mem ∧ t.threads = s.threads ∧
      (t.quad n).cap = (s.quad n).cap + 1 ∧ t.service.actions = as := by
  have hexec : exec .powerRecovery s = .next (({ s with service := { s.service with actions := as } }.modQuad n fun x =>
      { x with cap := x.cap + 1 }).dueOnce (.operatingPointChange n)) := by
    refine congrArg Host.Outcome.next ?_
    rw [h]
    rfl
  refine ⟨_, hexec, ?_, ?_, ?_, ?_⟩
  · rw [dueOnce_mem]
    rfl
  · rw [dueOnce_threads]
    rfl
  · rw [dueOnce_quad, quad_modQuad_same]
    rfl
  · rw [dueOnce_service]
    rfl

theorem powerRecovery_ungates {n : Nat} {as : List (Nat × Nat)} (h : s.service.actions = (n, 1) :: as) :
    ∃ t, exec .powerRecovery s = .next t ∧ t.mem = s.mem ∧ t.threads = s.threads ∧ .slotUngate n ∈ t.agenda ∧
      t.service.actions = as := by
  have hexec : exec .powerRecovery s =
      .next ({ s with service := { s.service with actions := as } }.due (.slotUngate n)) := by
    refine congrArg Host.Outcome.next ?_
    rw [h]
    rfl
  exact ⟨_, hexec, rfl, rfl, mem_due_agenda.mpr (.inr rfl), rfl⟩

/-! ### Gates of slots -/

theorem getLsbD_set_bit (g : BitVec 16) {n i : Nat} (hi : i < 16) :
    (g ||| 1#16 <<< n).getLsbD i = (g.getLsbD i || decide (i = n)) := by
  have hbit : (!decide (i < n) && decide (i - n = 0)) = decide (i = n) := by
    rw [Bool.eq_iff_iff]
    simp
    omega
  simp [hi, hbit]

theorem getLsbD_clear_bit (g : BitVec 16) {n i : Nat} (hi : i < 16) :
    (g &&& ~~~(1#16 <<< n)).getLsbD i = (g.getLsbD i && !decide (i = n)) := by
  have hbit : (decide (i < n) || !decide (i - n = 0)) = !decide (i = n) := by
    rw [Bool.eq_iff_iff]
    simp
    omega
  simp [hi, hbit]

theorem slotOf_lt (u : Nat) : slotOf u < 16 := Nat.mod_lt _ (by decide)

theorem slotGate_spec {u : Nat} (hu : validThread u = true) : ∃ t, exec (.slotGate u) s = .next t ∧ t.mem = s.mem ∧
    t.held u = true ∧ t.thr u = { s.thr u with latch := none } ∧ (∀ v, v ≠ u → t.thr v = s.thr v) ∧
    ∀ i, i < 16 → i ≠ slotOf u → (t.core (coreOf u)).gated.getLsbD i = (s.core (coreOf u)).gated.getLsbD i := by
  refine ⟨_, eventIf_pos hu _, rfl, ?_, ?_, fun v hv => ?_, fun i hi hne => ?_⟩
  · have hbit : (((s.core (coreOf u)).gated ||| 1#16 <<< slotOf u).getLsbD (slotOf u)) = true := by
      rw [getLsbD_set_bit _ (slotOf_lt u)]
      simp
    rw [State.held, modThr_core, core_modCore_same, hbit]
    rfl
  · rw [thr_modThr_same]
    rfl
  · rw [thr_modThr_other _ _ hv]
    rfl
  · rw [modThr_core, core_modCore_same, getLsbD_set_bit _ hi]
    simp [hne]

theorem slotUngate_spec {u : Nat} (hu : validThread u = true) : ∃ t, exec (.slotUngate u) s = .next t ∧ t.mem = s.mem ∧
    t.threads = s.threads ∧ (t.core (coreOf u)).gated.getLsbD (slotOf u) = false ∧ .slotFill (coreOf u) ∈ t.agenda ∧
    ∀ i, i < 16 → i ≠ slotOf u → (t.core (coreOf u)).gated.getLsbD i = (s.core (coreOf u)).gated.getLsbD i := by
  refine ⟨_, eventIf_pos hu _, ?_, ?_, ?_, mem_dueOnce_agenda.mpr (.inr rfl), fun i hi hne => ?_⟩
  · rw [dueOnce_mem]
    rfl
  · rw [dueOnce_threads]
    rfl
  · rw [dueOnce_core, core_modCore_same, getLsbD_clear_bit _ (slotOf_lt u)]
    simp
  · rw [dueOnce_core, core_modCore_same, getLsbD_clear_bit _ hi]
    simp [hne]

end

/-- Settles O55: each event's own lemma above. -/
theorem meteringEvents : Obligations.MeteringEvents := by
  intro s q f k fn hq hf hk hfn
  subst hk hfn
  refine ⟨fun r rs e hr hi hquant he hbin hh hb ho => auditRecord_spec hq hr hi hquant he hbin hh hb ho,
    sliceRequest_grants hq hf, sliceRequest_refuses hq hf, fun a hb => sliceGrant_reaches hq hf hb a,
    sliceRefusal_stands hq hf, fun hm hs ht hst hbal hb => quotaRefill_spec hm rfl hs ht hst hbal hb, telemetry_spec s,
    meterWindowClose_spec, meterCalibration_quad hq, fun d r hd => meterCalibration_die hd r,
    operatingPointChange_spec hq, powerCapStep_lowers hq, powerCapStep_gates hq,
    fun n as => ⟨powerRecovery_raises, powerRecovery_ungates⟩, fun u hu => ⟨slotGate_spec hu, slotUngate_spec hu⟩⟩

end Sys2Proof.Machine
end

section
/-! SUPPORT. Placement, slot filling, and the end of a quad group and of its scrub (R94, R96, R456 to R458). -/

namespace Sys2Proof.Machine

/-! ## Entries of sparse maps -/

section
variable {α : Type} {d v : α} {m : SMap α} {k : Nat} {p : Nat × α}

theorem mem_of_mem_smDrop (h : p ∈ smDrop m k) : p ∈ m := by
  induction m with
  | nil => exact h
  | cons x m ih =>
    obtain ⟨j, w⟩ := x
    rw [smDrop] at h
    split at h
    · exact List.mem_cons_of_mem _ (ih h)
    · rcases List.mem_cons.mp h with rfl | h
      · exact List.mem_cons_self
      · exact List.mem_cons_of_mem _ (ih h)

theorem mem_smPut (h : p ∈ smPut m k v) : p = (k, v) ∨ p ∈ m := by
  induction m with
  | nil => exact .inl (List.mem_singleton.mp h)
  | cons x m ih =>
    obtain ⟨j, w⟩ := x
    rw [smPut] at h
    split at h
    · rcases List.mem_cons.mp h with rfl | h
      · exact .inr List.mem_cons_self
      · exact (ih h).imp_right (List.mem_cons_of_mem _)
    · exact List.mem_cons.mp h

/-- An entry of a map after a set is what was set, or an entry of another key that stood. -/
theorem mem_smSet [DecidableEq α] (h : p ∈ smSet d m k v) : p = (k, v) ∨ p.1 ≠ k ∧ p ∈ m := by
  have old (h : p ∈ smDrop m k) : p.1 ≠ k ∧ p ∈ m := ⟨smDrop_keys m k p h, mem_of_mem_smDrop h⟩
  unfold smSet at h
  split at h
  · exact .inr (old h)
  · exact (mem_smPut h).imp_right old

/-- What holds of every entry and of the default holds of what is read. -/
theorem smGet_of_forall {P : α → Prop} (hd : P d) (hm : ∀ p ∈ m, P p.2) (k : Nat) : P (smGet d m k) := by
  induction m with
  | nil => exact hd
  | cons x m ih =>
    obtain ⟨j, w⟩ := x
    rw [smGet]
    split
    · exact hm _ List.mem_cons_self
    · exact ih fun p hp => hm p (List.mem_cons_of_mem _ hp)

end

theorem mem_quads_modQuad {s : State} {q : Nat} {g : Quad → Quad} {p : Nat × Quad} (h : p ∈ (s.modQuad q g).quads) :
    p = (q, g (s.quad q)) ∨ p.1 ≠ q ∧ p ∈ s.quads := by
  unfold State.modQuad at h
  exact mem_smSet h

theorem mem_funcs_modFn {s : State} {f : Nat} {g : Func → Func} {p : Nat × Func} (h : p ∈ (s.modFn f g).funcs) :
    p = (f, g (s.fn f)) ∨ p.1 ≠ f ∧ p ∈ s.funcs := by
  unfold State.modFn at h
  exact mem_smSet h

/-! ## PLACEMENT_PASS (R458) -/

section
variable {s : State} {f n r : Nat}

/-- A quad is HELD by a launch of a function. -/
def holdQuad (f n : Nat) (s : State) (q : Nat) : State :=
  s.modQuad q fun k => { k with heldSince := s.cycle, hold := .held f n (match k.hold with
    | .scrub _ => true
    | _ => false) }

/-- The quad is HELD by a launch of a function, and no entry of it says otherwise. -/
def State.HeldBy (s : State) (f n r : Nat) : Prop :=
  (∃ scrub, (s.quad r).hold = .held f n scrub) ∧ ∀ p ∈ s.quads, p.1 = r → ∃ scrub, p.2.hold = .held f n scrub

theorem holdQuad_heldBy (s : State) (f n q : Nat) : (holdQuad f n s q).HeldBy f n q := by
  refine ⟨⟨_, congrArg Quad.hold (quad_modQuad_same ..)⟩, fun p hp hq => ?_⟩
  rcases mem_quads_modQuad hp with rfl | ⟨hne, _⟩
  · exact ⟨_, rfl⟩
  · exact absurd hq hne

theorem State.HeldBy.holdQuad (h : s.HeldBy f n r) (q : Nat) : (holdQuad f n s q).HeldBy f n r := by
  by_cases hq : r = q
  · rw [hq]
    exact holdQuad_heldBy s f n q
  · refine ⟨?_, fun p hp hr => ?_⟩
    · rw [Machine.holdQuad, quad_modQuad_other _ _ hq]
      exact h.1
    · rcases mem_quads_modQuad hp with rfl | ⟨_, hm⟩
      · exact absurd hr.symm hq
      · exact h.2 p hm hr

theorem State.MeterOnly.dueOnce (s : State) (e : Instr) : s.MeterOnly (s.dueOnce e) := by
  unfold State.dueOnce
  split
  · exact .refl s
  · exact ⟨_, _, rfl⟩

theorem unreserve_meterOnly (s : State) (f : Nat) (keep : List Nat) : s.MeterOnly (s.unreserve f keep) := by
  unfold State.unreserve
  refine State.MeterOnly.foldl ?_ _ _
  exact fun t q => (State.MeterOnly.modQuad ..).trans (.dueOnce ..)

/-- A quad none of whose entries is reserved for the function keeps its record. -/
theorem unreserve_quad {keep : List Nat} (h : ∀ p ∈ s.quads, p.1 = r → p.2.hold ≠ .reserved f) :
    (s.unreserve f keep).quad r = s.quad r := by
  refine List.foldlRecOn (motive := fun t : State => t.quad r = s.quad r) _ _ rfl fun t ht q hq => ?_
  obtain ⟨p, hp, rfl⟩ := List.mem_map.mp hq
  obtain ⟨hmem, hres⟩ := List.mem_filter.mp hp
  have hne : r ≠ p.1 := fun he => h p hmem he.symm (by simpa using (Bool.and_eq_true_iff.mp hres).1)
  rw [dueOnce_quad, quad_modQuad_other _ _ hne, ht]

/-- The start of a launch notes births and makes slots fill. -/
theorem startLaunch_keeps {γ : Type} (p : State → γ) (hr : ∀ s l, p { s with running := l } = p s)
    (hd : ∀ s e, p (s.dueOnce e) = p s) (s : State) (l : Launch) : p (s.startLaunch l) = p s := by
  unfold State.startLaunch
  simp only
  split
  · rfl
  · rw [foldl_keeps p fun t c => hd t _, hr]

/-- The quads of a placed launch, each HELD. -/
def State.quadsPlaced (s : State) (l : Launch) (o : Nat) : State :=
  (rectQuads o (launchW l.bytes) (launchH l.bytes)).foldl (holdQuad l.fn l.number)
    (s.modFn l.fn fun k => { k with queues := vmap (fun q => q.erase l) k.queues, st := .active })

theorem placed_meterOnly (s : State) (l : Launch) (o : Nat) : (s.modFn l.fn fun k =>
    { k with queues := vmap (fun q => q.erase l) k.queues, st := .active }).MeterOnly (s.quadsPlaced l o) := by
  refine State.MeterOnly.foldl ?_ _ _
  exact fun t _ => .modQuad ..

theorem placed_heldBy (s : State) (l : Launch) (o : Nat) :
    ∀ r ∈ rectQuads o (launchW l.bytes) (launchH l.bytes), (s.quadsPlaced l o).HeldBy l.fn l.number r :=
  foldl_establishes (good := fun r t => t.HeldBy l.fn l.number r) (fun t _ => holdQuad_heldBy t ..)
    (fun _ _ q h => h.holdQuad q) _ _

theorem vget_vmap {α : Type} {n i : Nat} (d : α) (v : Vector α n) (g : α → α) (h : i < n) :
    vget d (vmap g v) i = g (vget d v i) := by
  simp [vmap, vget, List.getD_eq_getElem?_getD, h]

theorem placeLaunch_spec (s : State) (l : Launch) (o : Nat) : ∃ t, s.placeLaunch l o = t ∧ t.mem = s.mem ∧
    t.threads = s.threads ∧ (t.fn l.fn).st = .active ∧
    (∀ r ∈ rectQuads o (launchW l.bytes) (launchH l.bytes), ∃ scrub, (t.quad r).hold = .held l.fn l.number scrub) ∧
    ∀ p, p < 4 → vget [] (t.fn l.fn).queues p = (vget [] (s.fn l.fn).queues p).erase l := by
  have hplaced := placed_meterOnly s l o
  let l' : Launch := { l with
    origin := coreOfQuad o 0
    quads := rectQuads o (launchW l.bytes) (launchH l.bytes)
    tmpl := ((s.quadsPlaced l o).fn l.fn).tmplCopy }
  let u : State := { s.quadsPlaced l o with running := (s.quadsPlaced l o).running ++ [l'] }
  have hfree := unreserve_meterOnly u l.fn []
  have hfn : ((s.placeLaunch l o).fn l.fn) = { s.fn l.fn with
      queues := vmap (fun q => q.erase l) (s.fn l.fn).queues, st := .active } := by
    refine (startLaunch_keeps (fun t => t.fn l.fn) (fun _ _ => rfl) (fun t e => dueOnce_fn t e _) _ l').trans ?_
    exact (hfree.fn _).trans ((hplaced.fn _).trans (fn_modFn_same ..))
  refine ⟨_, rfl, ?_, ?_, ?_, fun r hr => ?_, fun p hp => ?_⟩
  · exact (startLaunch_keeps State.mem (fun _ _ => rfl) dueOnce_mem _ l').trans (hfree.mem.trans hplaced.mem)
  · exact (startLaunch_keeps State.threads (fun _ _ => rfl) dueOnce_threads _ l').trans
      (hfree.threads.trans hplaced.threads)
  · rw [hfn]
  · obtain ⟨⟨scrub, hheld⟩, hall⟩ := placed_heldBy s l o r hr
    refine ⟨scrub, ?_⟩
    have hres : ∀ p ∈ u.quads, p.1 = r → p.2.hold ≠ .reserved l.fn := fun p hp he => by
      obtain ⟨b, hb⟩ := hall p hp he
      rw [hb]
      exact fun h => nomatch h
    have hq : (s.placeLaunch l o).quad r = (s.quadsPlaced l o).quad r :=
      (startLaunch_keeps (fun t => t.quad r) (fun _ _ => rfl) (fun t e => dueOnce_quad t e _) _ l').trans
        (unreserve_quad hres)
    rw [hq, hheld]
  · rw [hfn, vget_vmap _ _ _ hp]

theorem placementPass_nothing (h : s.passOrder = []) : exec .placementPass s = .next s :=
  congrArg Host.Outcome.next (by rw [State.pass, h]; rfl)

theorem placementPass_places {l : Launch} {o : Nat} (hp : s.passOrder = [f]) (hh : (s.fn f).head = some l)
    (hfl : floorOf l.bytes = 0) (hfix : launchFixed l.bytes = false) (hsus : s.floors + 2000 ≤ s.sustained)
    (hlse : s.leaseClaim (s.fn f).lease f + launchW l.bytes * launchH l.bytes ≤ (s.lse (s.fn f).lease).qmax)
    (hq : (s.quadsOf f).length + launchW l.bytes * launchH l.bytes ≤ (s.fn f).qmax)
    (ho : s.bestOrigin f l.bytes = some (o, 0)) : exec .placementPass s = .next (s.placeLaunch l o) := by
  refine congrArg Host.Outcome.next ?_
  rw [State.pass, hp]
  change State.placeFor s f _ (64 + 1) = _
  rw [State.placeFor]
  simp only [hh, hfl, hfix, Nat.add_zero, Nat.not_lt.mpr hsus, Nat.not_lt.mpr hlse, Nat.not_lt.mpr hq, ho, bne_self_eq_false,
    Bool.false_and, Bool.or_self, decide_false, Bool.false_eq_true, if_false]

end

/-! ## SLOT_FILL (R94, R96) -/

section
variable {s : State} {c u : Nat} {l : Launch}

theorem birth_thr_other {t v : Nat} (th : Thread) (h : v ≠ t) : (s.birth t th).thr v = s.thr v :=
  thr_setThr_other _ _ h

theorem birth_thr_same (s : State) (t : Nat) (th : Thread) : (s.birth t th).thr t =
    { th with st := .run, slot := slotOf t, gen := (s.thr t).gen, unanswered := (s.thr t).unanswered } :=
  thr_setThr_same ..

theorem reg_put_number (th : Thread) {r : Nat} (hr : r < 32) (v : Word) (k : Nat) :
    (th.put r v).reg k = if k = r ∧ k ≠ 0 then v else th.reg k := by
  have h := reg_put th (BitVec.ofNat 5 r) v k
  rwa [BitVec.toNat_ofNat, Nat.mod_eq_of_lt hr] at h

theorem launchThread_fields (s : State) (l : Launch) (c : Nat) : ∀ th, th = s.launchThread l c →
    th.pc = BitVec.ofNat 64 (dword l.bytes 0) ∧ th.fn = l.fn ∧ th.tsr.pl = 0 ∧ th.reg 1 = BitVec.ofNat 64 l.origin ∧
      ∀ i, i < 4 → th.reg (8 + i) = BitVec.ofNat 64 (dword l.bytes (3 + i)) := by
  rintro _ rfl
  simp only [State.launchThread, List.range_succ, List.range_zero, List.foldl_append, List.foldl_cons, List.foldl_nil,
    put_pc, put_fn, put_tsr]
  refine ⟨rfl, rfl, rfl, by simp (disch := decide) [reg_put_number], fun i hi => ?_⟩
  obtain rfl | rfl | rfl | rfl : i = 0 ∨ i = 1 ∨ i = 2 ∨ i = 3 := by omega
  all_goals simp (disch := decide) [reg_put_number]

/-- A thread of a running launch waits no more. -/
def State.withoutBirth (s : State) (l : Launch) (u : Nat) : State :=
  { s with running := s.running.map fun x => if x = l then { l with births := l.births.erase u } else x }

theorem slotFill_spec (hc : validCore c = true) (haway : (s.core c).away = false) (hin : (s.core c).inbound = [])
    (hsp : (s.core c).spillCount = 0) (hn : s.nextBirth c = some (l, u)) (hpair : launchPaired l.bytes = false) :
    ∃ t, exec (.slotFill c) s = .next t ∧ t.mem = s.mem ∧ (∀ v, v ≠ u → t.thr v = s.thr v) ∧
      ∀ v : Thread, v = t.thr u → v.st = .run ∧ v.pc = BitVec.ofNat 64 (dword l.bytes 0) ∧ v.fn = l.fn ∧
        v.tsr.pl = 0 ∧ v.reg 1 = BitVec.ofNat 64 l.origin ∧
        ∀ i, i < 4 → v.reg (8 + i) = BitVec.ofNat 64 (dword l.bytes (3 + i)) := by
  have hexec : exec (.slotFill c) s = .next (((s.withoutBirth l u).birth u
      ((s.withoutBirth l u).launchThread l c)).dueOnce (.slotFill c)) := by
    refine (eventIf_pos hc _).trans ?_
    rw [haway]
    simp only [State.fillSlot, hin, hsp, hn, hpair, bne_self_eq_false, Bool.false_eq_true, if_false]
    rfl
  refine ⟨_, hexec, ?_, fun v hv => ?_, ?_⟩
  · rw [dueOnce_mem]
    rfl
  · rw [dueOnce_thr, birth_thr_other _ hv]
    rfl
  · rintro _ rfl
    rw [dueOnce_thr, birth_thr_same]
    obtain ⟨hpc, hfn, hpl, hreg⟩ := launchThread_fields (s.withoutBirth l u) l c _ rfl
    exact ⟨rfl, hpc, hfn, hpl, hreg⟩

end

end Sys2Proof.Machine
end

section
/-! SUPPORT. The end of a quad group and of its scrub (R168, R340, R457). -/

namespace Sys2Proof.Machine

/-! ## QUAD_GROUP_COMPLETE (R457) -/

/-- `t` holds the same memory and quads as `s`. -/
structure State.SameQuads (s t : State) : Prop where
  mem : t.mem = s.mem
  quads : t.quads = s.quads

namespace State.SameQuads

variable {s t u : State}

theorem refl (s : State) : s.SameQuads s := ⟨rfl, rfl⟩

theorem trans (h : s.SameQuads t) (h' : t.SameQuads u) : s.SameQuads u :=
  ⟨h'.mem.trans h.mem, h'.quads.trans h.quads⟩

theorem foldl {β : Type} {f : State → β → State} (h : ∀ (s : State) (x : β), s.SameQuads (f s x)) (l : List β)
    (s : State) : s.SameQuads (l.foldl f s) :=
  List.foldlRecOn (motive := s.SameQuads) l f (refl s) fun _ ht x _ => ht.trans (h _ x)

theorem quad (h : s.SameQuads t) (q : Nat) : t.quad q = s.quad q := by
  unfold State.quad
  rw [h.quads]

theorem dueOnce (s : State) (e : Instr) : s.SameQuads (s.dueOnce e) := ⟨dueOnce_mem .., dueOnce_quads ..⟩

theorem books (h : s.BooksOnly t) : s.SameQuads t := by
  obtain ⟨_, _, _, _, rfl⟩ := h
  exact ⟨rfl, rfl⟩

theorem modThr (s : State) (t : Nat) (f : Thread → Thread) : s.SameQuads (s.modThr t f) := ⟨rfl, rfl⟩

theorem modFn (s : State) (f : Nat) (g : Func → Func) : s.SameQuads (s.modFn f g) := ⟨rfl, rfl⟩

theorem modBar (s : State) (x : Nat) (g : Barrier → Barrier) : s.SameQuads (s.modBar x g) := ⟨rfl, rfl⟩

theorem unwatchColl (s : State) (d x : Nat) (g : Coll → Coll) : s.SameQuads ((s.unwatch d x).modColl d x g) := ⟨rfl, rfl⟩

theorem dropImportsOf (s : State) (f : Nat) : s.SameQuads (s.dropImportsOf f) := ⟨rfl, rfl⟩

theorem running (s : State) (l : List Launch) : s.SameQuads { s with running := l } := ⟨rfl, rfl⟩

/-- An answer touches threads and the agenda. -/
theorem answerOp (s : State) (t : Nat) (replay : Bool) (r : Reply) : s.SameQuads (s.answerOp t replay r) := by
  unfold State.answerOp
  split
  · exact trans (modThr ..) (dueOnce ..)
  · split
    · exact trans (modThr ..) (dueOnce ..)
    · exact modThr ..

theorem barFree (s : State) (x : Nat) : s.SameQuads (s.barFree x) := by
  unfold State.barFree State.barWake
  refine trans (trans (modBar ..) (foldl ?_ _ _)) (modBar ..)
  exact fun _ _ => answerOp ..

theorem barRelease (s : State) (f : Nat) : s.SameQuads (s.barRelease f) := by
  unfold State.barRelease
  refine foldl (fun t x => ?_) _ _
  split
  · exact barFree ..
  · exact refl t

theorem edge (h : s.EdgeOnly t) : s.SameQuads t := by
  obtain ⟨_, _, _, rfl⟩ := h
  exact ⟨rfl, rfl⟩

theorem notifyAbort (s : State) (d x : Nat) : s.SameQuads (s.notifyAbort d x) := by
  unfold State.notifyAbort
  refine foldl (fun t m => ?_) _ _
  split
  · split
    · exact refl t
    · split
      · split
        · exact dueOnce ..
        · exact refl t
      · exact refl t
  · exact edge (.sendFrame ..)

theorem collRelease (s : State) (f d : Nat) : s.SameQuads (s.collRelease f d) := by
  unfold State.collRelease
  refine foldl (fun t x => ?_) _ _
  simp only
  split
  · exact refl t
  · refine trans ?_ (unwatchColl ..)
    split
    · exact notifyAbort ..
    · exact refl t

theorem release (s : State) (q f : Nat) : s.SameQuads (s.release q f) := by
  unfold State.release
  simp only
  have hbooks : s.SameQuads ((s.closeHolding q f).dropImportsOf f) :=
    (books (.closeHolding ..)).trans (dropImportsOf ..)
  generalize (s.closeHolding q f).dropImportsOf f = t at hbooks ⊢
  split
  · split
    · exact hbooks.trans (barRelease ..)
    · exact hbooks.trans ((collRelease ..).trans (barRelease ..))
  · split
    · exact hbooks
    · exact hbooks.trans (collRelease ..)

end State.SameQuads

section
variable {s : State} {q f n : Nat}

theorem not_stricken (h : ∀ i, i < 4 → (s.core (coreOfQuad q i)).place.service = .inService) : s.stricken q = false := by
  refine List.any_eq_false.mpr fun i hi => ?_
  simp [h i (List.mem_range.mp hi)]

/-- The group's hold has ended and its launch is noted no more where no quad is left of it. -/
def State.groupEnded (s : State) (q f n : Nat) : State :=
  let s := ((s.modQuad q fun k => { k with hold := .scrub none }).release q f).modFn f fun k =>
    { k with svcn := k.svcn + 1 }
  { s with running := s.running.filter fun l =>
    !(l.fn == f && l.number == n) || l.quads.any fun x => match (s.quad x).hold with
      | .held g m _ => g == f && m == n
      | _ => false }

theorem groupEnded_same (s : State) (q f n : Nat) :
    (s.modQuad q fun k => { k with hold := .scrub none }).SameQuads (s.groupEnded q f n) := by
  unfold State.groupEnded
  exact (State.SameQuads.release ..).trans ((State.SameQuads.modFn ..).trans (State.SameQuads.running ..))

theorem quadGroupComplete_spec (hq : q < 14400) (hh : (s.quad q).hold = .held f n false) (hd : s.groupDone q n = true)
    (hi : ∀ i, i < 4 → (s.core (coreOfQuad q i)).place.service = .inService) :
    ∃ t, exec (.quadGroupComplete q) s = .next t ∧ t.mem = s.mem ∧ (t.quad q).hold = .scrub none ∧
      .quadScrubEnd q ∈ t.agenda ∧ .placementPass ∈ t.agenda := by
  have hexec : exec (.quadGroupComplete q) s = .next (((s.groupEnded q f n).due (.quadScrubEnd q)).dueOnce
      .placementPass) := by
    refine (eventIf_pos (decide_eq_true hq) _).trans ?_
    rw [hh]
    simp only [hd, if_true, State.endGroup, not_stricken hi, Bool.false_eq_true, if_false]
    rfl
  have hsame := groupEnded_same s q f n
  refine ⟨_, hexec, ?_, ?_, ?_, mem_dueOnce_agenda.mpr (.inr rfl)⟩
  · rw [dueOnce_mem]
    exact hsame.mem
  · rw [dueOnce_quad, due_quad, hsame.quad, quad_modQuad_same]
  · exact mem_dueOnce_agenda.mpr (.inl (mem_due_agenda.mpr (.inr rfl)))

end

/-! ## QUAD_SCRUB_END (R168, R457) -/

/-- Memory whose entries are taken away by address. -/
theorem memGet_filter (keep : Nat → Bool) (m : List Host.Cell) (a : Nat) :
    memGet (m.filter fun c => keep c.1) a = if keep a then memGet m a else 0 := by
  induction m with
  | nil => simp [memGet]
  | cons c m ih =>
    obtain ⟨b, v⟩ := c
    by_cases hb : b = a
    · subst hb
      by_cases hk : keep b = true <;> simp_all [memGet]
    · by_cases hk : keep b = true <;> simp_all [memGet]

/-- What a scrub leaves reads zero in its range and nothing new elsewhere. -/
theorem memGet_scrub (s : State) (a n x : Nat) : memGet (s.scrub a n).mem x =
    if x < a ∨ a + n ≤ x then memGet s.mem x else 0 := by
  have h := memGet_filter (fun b => decide (b < a) || decide (a + n ≤ b)) s.mem x
  simp only [Bool.or_eq_true, decide_eq_true_eq] at h
  exact h

theorem scrub_keeps_zero {s : State} {x : Nat} (h : memGet s.mem x = 0) (a n : Nat) :
    memGet (s.scrub a n).mem x = 0 := by
  rw [memGet_scrub, h, ite_self]

/-- The TCM of a core of the quad reads zero. -/
def State.ZeroTcm (s : State) (q i : Nat) : Prop :=
  ∀ a, sramAddr (coreOfQuad q i) 0 0 ≤ a → a < sramAddr (coreOfQuad q i) 0 0 + 2 ^ 18 → memGet s.mem a = 0

theorem scrubSrams_zero (s : State) (q i : Nat) (hi : i < 4) : (s.scrubSrams q).ZeroTcm q i := by
  have hz : ((List.range 4).foldl (fun s i => s.scrub (sramAddr (coreOfQuad q i) 0 0) (2 ^ 18)) s).ZeroTcm q i := by
    refine foldl_establishes (good := fun i t => t.ZeroTcm q i) ?_ ?_ _ _ i (List.mem_range.mpr hi)
    · intro t j a hlo hhi
      rw [memGet_scrub, if_neg (by omega)]
    · exact fun t j k hj a hlo hhi => scrub_keeps_zero (hj a hlo hhi) ..
  intro a hlo hhi
  unfold State.scrubSrams
  simp only
  split
  · exact scrub_keeps_zero (hz a hlo hhi) ..
  · exact scrub_keeps_zero (scrub_keeps_zero (hz a hlo hhi) ..) ..

/-- A scrub of words leaves functions, threads and quads. -/
theorem scrubSrams_keeps {γ : Type} (p : State → γ) (hp : ∀ s a n, p (s.scrub a n) = p s) (s : State) (q : Nat) :
    p (s.scrubSrams q) = p s := by
  unfold State.scrubSrams
  simp only
  split
  · rw [hp, foldl_keeps p fun t i => hp t ..]
  · rw [hp, hp, foldl_keeps p fun t i => hp t ..]

/-- No function waits to resume on a quad. -/
def State.Unclaimed (s : State) (q : Nat) : Prop := ∀ p ∈ s.funcs, p.2.resume.contains q = false

theorem State.Unclaimed.modFn {s : State} {q : Nat} (h : s.Unclaimed q) (f : Nat) {g : Func → Func}
    (hg : ∀ k, (g k).resume = k.resume) : (s.modFn f g).Unclaimed q := by
  intro p hp
  rcases mem_funcs_modFn hp with rfl | ⟨_, hm⟩
  · rw [hg]
    exact smGet_of_forall (P := fun k : Func => k.resume.contains q = false) rfl h f
  · exact h p hm

theorem State.Unclaimed.tell {s : State} {q : Nat} (h : s.Unclaimed q) : s.tell.Unclaimed q := by
  have hbase : s.metersTold.Unclaimed q := h
  exact List.foldlRecOn (motive := fun t : State => t.Unclaimed q) _ _ hbase fun t ht x _ => ht.modFn _ fun _ => rfl

section
variable {s : State} {q : Nat}

theorem tell_mem (s : State) : s.tell.mem = s.mem := (tell_books s).mem

/-- A scrubbed quad: what its scrub leaves. -/
theorem scrubQuad_spec (s : State) (q : Nat) : (∀ i, i < 4 → (s.scrubQuad q).ZeroTcm q i) ∧
    ((s.scrubQuad q).quad q).waits = [] ∧ (s.Unclaimed q → (s.scrubQuad q).Unclaimed q) := by
  have hmem : (s.scrubQuad q).mem = (s.scrubSrams q).mem := by
    unfold State.scrubQuad
    rw [modQuad_mem, foldl_keeps State.mem fun t i => modCore_mem t .., tell_mem]
  have hfuncs : (s.scrubQuad q).funcs = (s.scrubSrams q).tell.funcs := by
    unfold State.scrubQuad
    rw [modQuad_funcs, foldl_keeps State.funcs fun t i => modCore_funcs t ..]
  refine ⟨fun i hi a hlo hhi => ?_, ?_, fun h => ?_⟩
  · rw [hmem]
    exact scrubSrams_zero s q i hi a hlo hhi
  · unfold State.scrubQuad
    rw [quad_modQuad_same]
  · have hs : (s.scrubSrams q).Unclaimed q := by
      unfold State.Unclaimed
      rw [scrubSrams_keeps State.funcs fun _ _ _ => rfl]
      exact h
    unfold State.Unclaimed
    rw [hfuncs]
    exact hs.tell

/-- A quad that no RESUME waits for becomes FREE. -/
theorem freeQuad_unclaimed (h : s.Unclaimed q) :
    s.freeQuad q = (s.modQuad q fun k => { k with hold := .free }).dueOnce .placementPass := by
  have hnone : s.funcs.find? (fun p => p.2.resume.contains q) = none :=
    List.find?_eq_none.mpr fun p hp => by
      rw [h p hp]
      decide
  rw [State.freeQuad, hnone]

theorem quadScrubEnd_spec {r : Option Nat} (hq : q < 14400) (hh : (s.quad q).hold = .scrub r)
    (hs : s.stricken q = false) (hr : ∀ p ∈ s.funcs, p.2.resume.contains q = false) :
    ∃ t, exec (.quadScrubEnd q) s = .next t ∧ (t.quad q).hold = .free ∧ (t.quad q).waits = [] ∧
      .placementPass ∈ t.agenda ∧ ∀ i a, i < 4 → sramAddr (coreOfQuad q i) 0 0 ≤ a →
        a < sramAddr (coreOfQuad q i) 0 0 + 2 ^ 18 → memGet t.mem a = 0 := by
  obtain ⟨hzero, hwaits, hclaim⟩ := scrubQuad_spec s q
  have hexec : exec (.quadScrubEnd q) s = .next (((s.scrubQuad q).modQuad q fun k =>
      { k with hold := .free }).dueOnce .placementPass) := by
    rw [← freeQuad_unclaimed (hclaim hr)]
    refine (eventIf_pos (decide_eq_true hq) _).trans ?_
    rw [hh]
    simp only [hs, Bool.false_eq_true, if_false]
  refine ⟨_, hexec, ?_, ?_, mem_dueOnce_agenda.mpr (.inr rfl), fun i a hi hlo hhi => ?_⟩
  · rw [dueOnce_quad, quad_modQuad_same]
  · rw [dueOnce_quad, quad_modQuad_same]
    dsimp only
    exact hwaits
  · rw [dueOnce_mem, modQuad_mem]
    exact hzero i hi a hlo hhi

end

end Sys2Proof.Machine
end

section
/-! SUPPORT. Moves of contexts, orders and rights that reach every quad (R101, R461, R467). -/

namespace Sys2Proof.Machine

/-! ## LIVE_MIGRATION_DONE (R101, R461) -/

section
variable {s : State} {c : Nat}

/-- The orders on a core are told to end. -/
def State.ordersTold (s : State) (c : Nat) : State :=
  s.orders.foldl (fun s o => if o.code < 2 && o.arg = c then s.due (.migrOrderEnd o.code c) else s) s

theorem ordersTold_keeps {γ : Type} (p : State → γ) (hp : ∀ s e, p (s.due e) = p s) (s : State) (c : Nat) :
    p (s.ordersTold c) = p s := by
  refine foldl_keeps p (fun t o => ?_) _ _
  split
  · exact hp ..
  · rfl

theorem ordersTold_agenda {i : Instr} (h : i ∈ s.agenda) : i ∈ (s.ordersTold c).agenda := by
  refine List.foldlRecOn (motive := fun t : State => i ∈ t.agenda) _ _ h fun t ht o _ => ?_
  split
  · exact mem_due_agenda.mpr (.inl ht)
  · exact ht

theorem ordersTold_tells (s : State) (c : Nat) :
    ∀ o ∈ s.orders, o.code < 2 → o.arg = c → .migrOrderEnd o.code c ∈ (s.ordersTold c).agenda := by
  refine foldl_establishes
    (good := fun o t => o.code < 2 → o.arg = c → .migrOrderEnd o.code c ∈ t.agenda) ?_ ?_ s.orders s
  · intro t o hcode harg
    rw [if_pos (by simp [hcode, harg])]
    exact mem_due_agenda.mpr (.inr rfl)
  · intro t o o' ht hcode harg
    split
    · exact mem_due_agenda.mpr (.inl (ht hcode harg))
    · exact ht hcode harg

theorem resettle_keeps {γ : Type} (p : State → γ) (ht : ∀ s t f, p (s.modThr t f) = p s)
    (ho : ∀ s k f, p (s.modOdie k f) = p s) (s : State) (c : Nat) : p (s.resettle c) = p s := by
  unfold State.resettle State.clearImports
  simp only
  refine Eq.trans ?_ (foldl_keeps p (f := fun s i => if (s.thr (c * 16 + i)).st = .free then s
    else s.modThr (c * 16 + i) fun th => { th with fbuf := [], ahead := none }) (fun t i => ?_) (List.range 16) s)
  · split
    · exact ho ..
    · rfl
  · split
    · rfl
    · exact ht ..

theorem State.EdgeOnly.orders {s t : State} (h : s.EdgeOnly t) : t.orders = s.orders := by
  obtain ⟨_, _, _, rfl⟩ := h
  rfl

/-- The context runs at its new place, with its fetch buffers empty. -/
def State.moved (s : State) (c : Nat) : State :=
  (s.unstated.2.modCore c fun k => { k with moving := false, cycleOff := s.unstated.1 }).resettle c

theorem moved_keeps (s : State) (c : Nat) :
    (s.moved c).mem = s.mem ∧ (s.moved c).orders = s.orders ∧ ((s.moved c).core c).moving = false := by
  refine ⟨resettle_keeps State.mem (fun _ _ _ => rfl) (fun _ _ _ => rfl) .., resettle_keeps State.orders (fun _ _ _ => rfl)
    (fun _ _ _ => rfl) .., ?_⟩
  refine (congrArg Core.moving (resettle_keeps (fun t => t.core c) (fun _ _ _ => rfl) (fun _ _ _ => rfl) ..)).trans ?_
  rw [core_modCore_same]

theorem liveMigrationDone_finishes (hc : validCore c = true) (hm : (s.core c).moving = true)
    (hl : (s.core c).leaving = false) :
    ∃ t, exec (.liveMigrationDone c) s = .next t ∧ t.mem = s.mem ∧ (t.core c).moving = false ∧
      .forwardEntryRemove c ∈ t.agenda ∧
      ∀ o ∈ s.orders, o.code < 2 → o.arg = c → .migrOrderEnd o.code c ∈ t.agenda := by
  have hexec : exec (.liveMigrationDone c) s =
      .next ((((s.moved c).stirCore c).dueOnce (.forwardEntryRemove c)).ordersTold c) := by
    refine (eventIf_pos hc _).trans ?_
    simp only [hl, Bool.not_false, if_true, State.finishMove, hm, Bool.not_true, Bool.false_eq_true, if_false]
    rfl
  obtain ⟨hmem, hord, hmoving⟩ := moved_keeps s c
  have hstir := (stirCore_edgeOnly (s.moved c) c).trans (.dueOnce _ (.forwardEntryRemove c))
  refine ⟨_, hexec, ?_, ?_, ?_, ?_⟩
  · rw [ordersTold_keeps State.mem fun _ _ => rfl, hstir.mem, hmem]
  · rw [ordersTold_keeps (fun t => t.core c) fun _ _ => rfl, hstir.core, hmoving]
  · exact ordersTold_agenda (mem_dueOnce_agenda.mpr (.inr rfl))
  · rw [← hord, ← hstir.orders]
    exact ordersTold_tells _ c

theorem goHome_keeps (s : State) (c : Nat) : (s.goHome c).mem = s.mem ∧ (s.goHome c).threads = s.threads := by
  unfold State.goHome State.vacate
  simp only [modCore_mem, modCore_threads, and_self]

theorem liveMigrationDone_goesHome (hc : validCore c = true) (hl : (s.core c).leaving = true)
    (ho : s.ordered 1 c = true) (hd : (s.core c).drained = true) :
    ∃ t, exec (.liveMigrationDone c) s = .next t ∧ t.mem = s.mem ∧ t.threads = s.threads ∧ (t.core c).moving = true ∧
      (t.core c).leaving = false ∧ .liveMigrationDone c ∈ t.agenda ∧ ∀ p : Place, p = (t.core c).place →
        p.exception = false ∧ p.fwd = true ∧ p.vacated = s.cycle ∧ p.index = dieIdx c ∧
          p.epoch = ((s.core c).place.epoch + 1) % 65536 := by
  have hexec : exec (.liveMigrationDone c) s = .next ((s.goHome c).due (.liveMigrationDone c)) := by
    refine (eventIf_pos hc _).trans ?_
    simp only [hl, ho, hd, Bool.not_true, Bool.false_eq_true, if_false, if_true]
  have hcore : ∀ k, k = ((s.goHome c).due (.liveMigrationDone c)).core c → k.moving = true ∧ k.leaving = false ∧
      k.place.exception = false ∧ k.place.fwd = true ∧ k.place.vacated = s.cycle ∧ k.place.index = dieIdx c ∧
        k.place.epoch = ((s.core c).place.epoch + 1) % 65536 := by
    have hvac : (State.core { s.vacate c with
        spareUsed := keyDel s.spareUsed ((s.core c).place.site * 64 + (s.core c).place.index) } c) =
          (s.vacate c).core c := rfl
    rintro _ rfl
    rw [due_core, State.goHome, core_modCore_same, hvac, State.vacate, core_modCore_same]
    exact ⟨rfl, rfl, rfl, rfl, rfl, rfl, rfl⟩
  obtain ⟨hmov, hlv, hplace⟩ := hcore _ rfl
  obtain ⟨hmem, hthr⟩ := goHome_keeps s c
  refine ⟨_, hexec, hmem, hthr, hmov, hlv, mem_due_agenda.mpr (.inr rfl), ?_⟩
  rintro _ rfl
  exact hplace

end

/-! ## MIGR_ORDER_END (R461) -/

section
variable {s : State}

/-- An event touches threads, functions, leases and the agenda. -/
theorem leaseEvent_part {γ : Type} (p : State → γ) (ht : ∀ s t f, p (s.modThr t f) = p s)
    (hd : ∀ s e, p (s.dueOnce e) = p s) (hf : ∀ s f g, p (s.modFn f g) = p s) (hl : ∀ s l g, p (s.modLse l g) = p s)
    (s : State) (l : Nat) (e : Event) : p (s.leaseEvent l e) = p s := by
  have offer (t : State) (u : Nat) : p (t.offerInterrupt u) = p t := by
    unfold State.offerInterrupt
    split
    · exact hd ..
    · rfl
  have queue (t : State) (u : Nat) : p (t.queueEvent u e) = p t := by
    unfold State.queueEvent
    simp only
    split
    · exact ht ..
    · rw [offer, ht]
  have fnEv (t : State) (f : Nat) : p (t.fnEvent f e) = p t := by
    unfold State.fnEvent
    split
    · exact queue ..
    · split <;> exact hf ..
  unfold State.leaseEvent
  simp only
  split
  · exact fnEv ..
  · split <;> exact hl ..

theorem reportOrder_spec (s : State) (o : Order) (stop f : Nat) : ∃ t, s.reportOrder o stop = t ∧ t.mem = s.mem ∧
    t.orders = s.orders.erase o ∧ (t.fn f).st = (s.fn f).st ∧ (t.fn f).resume = (s.fn f).resume := by
  refine ⟨_, rfl, ?_, ?_, ?_, ?_⟩
  · exact leaseEvent_part State.mem (fun _ _ _ => rfl) dueOnce_mem (fun _ _ _ => rfl) (fun _ _ _ => rfl) ..
  · exact leaseEvent_part State.orders (fun _ _ _ => rfl) dueOnce_orders (fun _ _ _ => rfl) (fun _ _ _ => rfl) ..
  · exact leaseEvent_keeps Func.st (fun _ _ => rfl) (fun _ _ => rfl) ..
  · exact leaseEvent_keeps Func.resume (fun _ _ => rfl) (fun _ _ => rfl) ..

theorem migrOrderEnd_core {o a : Nat} {x : Order} (hx : s.orders.find? (fun y => y.code == o && y.arg == a) = some x)
    (ho : o < 2) (hm : (s.core a).moving = false) (hl : (s.core a).leaving = false) :
    ∃ t, exec (.migrOrderEnd o a) s = .next t ∧ t.mem = s.mem ∧ t.orders = s.orders.erase x := by
  obtain ⟨t, ht, hmem, hord, _⟩ := reportOrder_spec s x x.stop 0
  have hexec : exec (.migrOrderEnd o a) s = .next (s.reportOrder x x.stop) := by
    refine (eventIf_pos (decide_eq_true (by omega)) _).trans ?_
    rw [hx]
    obtain rfl | rfl : o = 0 ∨ o = 1 := by omega
    all_goals simp only [hm, hl, Bool.or_self, Bool.false_eq_true, if_false]
  exact ⟨t, ht ▸ hexec, hmem, hord⟩

theorem migrOrderEnd_resume {a : Nat} {x : Order} (hx : s.orders.find? (fun y => y.code == 3 && y.arg == a) = some x)
    (hs : (s.fn a).saved = []) : ∃ t, exec (.migrOrderEnd 3 a) s = .next t ∧ t.mem = s.mem ∧ (t.fn a).st = .active ∧
      (t.fn a).resume = [] ∧ t.orders = s.orders.erase x := by
  have harg : x.arg = a := by
    have h := List.find?_some hx
    simp only [Bool.and_eq_true, beq_iff_eq] at h
    exact h.2
  obtain ⟨t, ht, hmem, hord, hst, hres⟩ := reportOrder_spec
    (s.modFn a fun k => { k with st := .active, saved := [], resume := [] }) x 0 a
  have hexec : exec (.migrOrderEnd 3 a) s = .next
      ((s.modFn a fun k => { k with st := .active, saved := [], resume := [] }).reportOrder x 0) := by
    refine (eventIf_pos (ok := decide (3 < 4)) rfl _).trans ?_
    rw [hx]
    simp only [State.endResume, harg, hs]
    rfl
  rw [fn_modFn_same] at hst hres
  exact ⟨t, ht ▸ hexec, hmem, hst, hres, hord⟩

end

/-! ## RIGHTS_PROPAGATED (R467) -/

/-- Every quad's copy of the masks is the service die's. -/
def State.rightsSpread (s : State) : State :=
  { s with quads := s.quads.map fun p => (p.1, { p.2 with rights := [] }) }

theorem rightsSpread_quad (s : State) (r : Nat) : s.rightsSpread.quad r = { s.quad r with rights := [] } :=
  smGet_map_same (fun k : Quad => { k with rights := [] }) {} rfl s.quads r

/-- An answer that a parked thread takes up. -/
theorem answerOp_parked {s : State} {t : Nat} {w : Park} (hst : (s.thr t).st = .parked w)
    (hf : (s.thr t).op.fetch = false) (r : Reply) : (s.answerOp t false r).thr t =
      { s.thr t with st := .run, op := { (s.thr t).op with reply := r, again := true } } := by
  unfold State.answerOp
  rw [if_neg (by decide), hf, if_neg (by decide), thr_modThr_same, hst]

theorem rightsPropagated_spec {s : State} {u : Nat} (hu : validThread u = true) :
    ∃ t, exec (.rightsPropagated u) s = .next t ∧ t.mem = s.mem ∧ (∀ r, (t.quad r).rights = []) ∧
      ((s.thr u).st = .parked .engine → (s.thr u).op.fetch = false →
        (t.thr u).st = .run ∧ (t.thr u).op.reply = .data (s.thr u).op.got ∧ (t.thr u).g = (s.thr u).g) := by
  have hexec : exec (.rightsPropagated u) s = .next (match (s.thr u).st with
      | .parked .engine => s.rightsSpread.answerOp u false (.data (s.thr u).op.got)
      | _ => s.rightsSpread) := eventIf_pos hu _
  have spread (t : State) (h : s.rightsSpread.SameQuads t) : t.mem = s.mem ∧ ∀ r, (t.quad r).rights = [] := by
    refine ⟨h.mem, fun r => ?_⟩
    rw [h.quad, rightsSpread_quad]
  by_cases he : (s.thr u).st = .parked .engine
  · rw [he] at hexec
    obtain ⟨hmem, hrights⟩ := spread _ (.answerOp _ u false (.data (s.thr u).op.got))
    refine ⟨_, hexec, hmem, hrights, fun _ hf => ?_⟩
    rw [answerOp_parked (s := s.rightsSpread) he hf]
    exact ⟨rfl, rfl, rfl⟩
  · refine ⟨s.rightsSpread, ?_, rfl, (spread _ (.refl _)).2, fun h => absurd h he⟩
    rw [hexec]
    split
    · exact absurd ‹_› he
    · rfl

/-- Settles O57: each event's own lemma above. -/
theorem partitionEvents : Obligations.PartitionEvents := by
  intro s c q f hc hq hf
  refine ⟨placementPass_nothing, ?_, fun l u ha hi hs hn hp => slotFill_spec hc ha hi hs hn hp,
    fun n hh hd hi => quadGroupComplete_spec hq hh hd hi, fun r hh hs hr => quadScrubEnd_spec hq hh hs hr,
    liveMigrationDone_finishes hc, liveMigrationDone_goesHome hc,
    fun o a x hx => ⟨fun ho hm hl => migrOrderEnd_core hx ho hm hl, fun ho hs => ?_⟩,
    fun u hu => rightsPropagated_spec hu⟩
  · intro l o hp hh hl hfl hfix hsus hlse hquads ho
    subst hl
    obtain ⟨t, ht, hrest⟩ := placeLaunch_spec s l o
    exact ⟨t, ht ▸ placementPass_places hp hh hfl hfix hsus hlse hquads ho, hrest⟩
  · subst ho
    exact migrOrderEnd_resume hx hs

end Sys2Proof.Machine
end

section
/-! SUPPORT. Answers that reach a waiting thread: accesses on its own paths, replies, timeouts, notices (R91, R307 to
R310). -/

namespace Sys2Proof.Machine

/-! ## Charges and gates -/

/-- An access charges quads' meters alone, but for a line of HBM. -/
theorem chargeAccess_meterOnly {d : Dest} (hd : d ≠ .hbm) (s : State) (c f : Nat) (op : HomeOp) :
    s.MeterOnly (s.chargeAccess c f d op) := by
  unfold State.chargeAccess
  split
  · exact (State.MeterOnly.charge ..).trans (.charge ..)
  · rw [if_neg hd]
    exact (State.MeterOnly.charge ..).trans (.charge ..)
  · unfold State.chargePacket
    simp only
    split
    · exact (State.MeterOnly.charge ..).trans ((State.MeterOnly.charge ..).trans ((State.MeterOnly.charge ..).trans
        (.charge ..)))
    · exact (State.MeterOnly.charge ..).trans ((State.MeterOnly.charge ..).trans (.charge ..))
  · exact (State.MeterOnly.charge ..).trans ((State.MeterOnly.charge ..).trans (.charge ..))

theorem chargeAccess_keeps {γ : Type} (p : Quad → γ) (hp : ∀ k m, p { k with meter := m } = p k) {d : Dest}
    (hd : d ≠ .hbm) (s : State) (c f : Nat) (op : HomeOp) (r : Nat) :
    p ((s.chargeAccess c f d op).quad r) = p (s.quad r) := by
  unfold State.chargeAccess
  split
  · rw [charge_keeps p hp, charge_keeps p hp]
  · rw [if_neg hd, charge_keeps p hp, charge_keeps p hp]
  · unfold State.chargePacket
    simp only
    split
    · rw [charge_keeps p hp, charge_keeps p hp, charge_keeps p hp, charge_keeps p hp]
    · rw [charge_keeps p hp, charge_keeps p hp, charge_keeps p hp]
  · rw [charge_keeps p hp, charge_keeps p hp, charge_keeps p hp]

/-- A charge leaves what waits and what bits stand. -/
theorem chargeAccess_noWaits {s : State} (h : s.noWaits) {d : Dest} (hd : d ≠ .hbm) (c f : Nat) (op : HomeOp) :
    (s.chargeAccess c f d op).noWaits := fun q =>
  ⟨(chargeAccess_keeps Quad.waits (fun _ _ => rfl) hd ..).trans (h q).1,
    (chargeAccess_keeps Quad.tickets (fun _ _ => rfl) hd ..).trans (h q).2⟩

/-- Traffic for a context that is present, with none held before it, acts at once (R311). -/
theorem gate_present {s : State} {c : Nat} (h : (s.core c).Present) (ev : Instr) (src payer : Option Nat) :
    s.gate c ev src payer = (true, s) := by
  simp [State.gate, h.here, h.noHeld]

theorem orphanOf_idle {s : State} {t : Nat} (h : (s.core (coreOf t)).munit = none) : s.orphanOf t = none := by
  simp [State.orphanOf, h]

theorem State.MeterOnly.poisoned {s t : State} (h : s.MeterOnly t) (x n : Nat) : t.poisoned x n = s.poisoned x n := by
  obtain ⟨_, _, rfl⟩ := h
  rfl

/-! ## Answers -/

section
variable {s : State} {t : Nat}

/-- A fault ends the operation. -/
theorem accessDone_trap (s : State) (t : Nat) (c : Cause) : s.accessDone t false (.trap c) = s.answerOp t false (.trap c) :=
  rfl

/-- The last access of an operation that a thread is parked for has been answered. -/
def Thread.answered (th : Thread) (bs : List Byte) : Thread :=
  { th with st := .run, op := { th.op.advance bs with reply := .ok, again := true } }

theorem accessDone_last {w : Park} {a : Access} (hst : (s.thr t).st = .parked w)
    (hw : w = .mem ∨ w = .engine ∨ w = .remote) (ht : (s.thr t).op.todo = [a]) (hf : (s.thr t).op.fetch = false)
    (bs : List Byte) : s.accessDone t false (.data bs) = s.modThr t fun th => th.answered bs := by
  have hdone : s.accessDone t false (.data bs) = (if (((s.modThr t fun th => { th with op := th.op.advance bs }).thr
      t).op.todo = []) then (s.modThr t fun th => { th with op := th.op.advance bs }).answerOp t false .ok
      else (s.modThr t fun th => { th with op := th.op.advance bs }).nextAccess t) := by
    simp only [State.accessDone, hst]
    obtain rfl | rfl | rfl := hw
    all_goals rfl
  have htodo : ((s.modThr t fun th => { th with op := th.op.advance bs }).thr t).op.todo = [] := by
    rw [thr_modThr_same]
    simp [Op.advance, ht]
  have hfetch : ((s.modThr t fun th => { th with op := th.op.advance bs }).thr t).op.fetch = false := by
    rw [thr_modThr_same]
    exact hf
  rw [hdone, if_pos htodo, State.answerOp, if_neg (by decide), hfetch, if_neg (by decide), modThr_modThr]
  simp only [State.modThr, hst, Thread.answered]

/-- A word that a thread waits for with reason FE is given. -/
theorem accessDone_fe (hst : (s.thr t).st = .parked .fe) (bs : List Byte) :
    s.accessDone t false (.data bs) = s.modThr t fun th =>
      { th with st := .run, op := { th.op with reply := .data bs, phase := 0 } } := by
  simp only [State.accessDone, hst, State.wakeSame, modThr_modThr]
  simp only [State.modThr, hst]

/-- A thread whose request is away is outstanding (R307). -/
theorem outstanding_of_away {th : Thread} (h : th.away = true) : th.outstanding = true := by
  rw [Thread.outstanding, h, Bool.true_or]

theorem away_of_remote {th : Thread} (hst : th.st = .parked .remote) (hp : th.op.phase ≠ 0) : th.away = true := by
  simp [Thread.away, hst, hp]

end

/-! ## ACCESS_REPLY (R91, R149, R156) -/

/-- An access of a thread at its own units. -/
structure Access.Own (a : Access) (c : Nat) : Prop where
  near : a.dest = .tcm c ∨ a.dest = .dsram (dieCore c)

theorem Access.Own.path {a : Access} {c : Nat} (h : a.Own c) : pathOf c a.dest = .own ∨ pathOf c a.dest = .mem := by
  obtain h | h := h.near
  · exact .inl (by rw [h]; exact if_pos rfl)
  · exact .inr (by rw [h]; exact if_pos rfl)

theorem Access.Own.notHbm {a : Access} {c : Nat} (h : a.Own c) : a.dest ≠ .hbm := by
  obtain h | h := h.near <;> simp [h]

theorem Access.Own.notDevice {a : Access} {c : Nat} (h : a.Own c) : a.dest ≠ .device := by
  obtain h | h := h.near <;> simp [h]

theorem performFor_load {s : State} {who : Waiter} {da : Word} {f x n : Nat} (hw : s.noWaits)
    (hp : s.poisoned x n = false) : s.performFor f who da (.load x n) = .reply s (.data (s.rd x n)) := by
  have hheld : (wordsOf x n).any s.wordHeld = false := List.any_eq_false.mpr fun y _ => by
    simp [wordHeld_of_noWaits hw y]
  rw [State.performFor, perform_load hheld hp]
  simp [HomeOp.wrote]

section
variable {s : State} {u x n : Nat} {a : Access}

theorem accessTurn_load (hn : s.noWaits) (htodo : (s.thr u).op.todo = [a]) (hph : (s.thr u).op.phase = 0)
    (ha : a.Own (coreOf u)) (hop : a.op = .load x n)
    (hq : 2 ≤ (s.thr u).tsr.pl.toNat ∨ s.quotaOk (quadOf (coreOf u)) (s.thr u).fn = true)
    (ho : 2 ≤ (s.thr u).tsr.pl.toNat ∨ s.ownerOk (s.thr u).fn a.dest x = true) (hp : s.poisoned x n = false) :
    s.accessTurn u =
      (s.chargeAccess (coreOf u) (s.thr u).fn a.dest (.load x n)).accessDone u false (.data (s.rd x n)) := by
  have hinj : s.mayInject (coreOf u) (s.thr u).fn (s.thr u).tsr.pl.toNat = true := by
    simpa [State.mayInject] using hq
  have howner : ((s.thr u).tsr.pl.toNat < 2 && !s.ownerOk (s.thr u).fn a.dest x) = false := by
    obtain h | h := ho
    · simp [Nat.not_lt.mpr h]
    · simp [h]
  have hmo := chargeAccess_meterOnly ha.notHbm s (coreOf u) (s.thr u).fn (.load x n)
  have hrd : (s.chargeAccess (coreOf u) (s.thr u).fn a.dest (.load x n)).rd x n = s.rd x n := by
    rw [State.rd, hmo.mem, State.rd]
  have hpo : (s.chargeAccess (coreOf u) (s.thr u).fn a.dest (.load x n)).poisoned x n = false := by
    rw [hmo.poisoned, hp]
  have hperf : (s.chargeAccess (coreOf u) (s.thr u).fn a.dest (.load x n)).performFor (s.thr u).fn
      (.thread u (s.thr u).gen.toNat false) a.da (.load x n) =
        .reply (s.chargeAccess (coreOf u) (s.thr u).fn a.dest (.load x n)) (.data (s.rd x n)) := by
    rw [← hrd]
    exact performFor_load (chargeAccess_noWaits hn ha.notHbm _ _ _) hpo
  unfold State.accessTurn
  simp only [htodo, hph, hop, HomeOp.addr, hinj, howner, ha.notDevice, bne_self_eq_false, Bool.not_true,
    Bool.false_eq_true, if_false]
  obtain h | h := ha.path
  · simp only [h, hperf]
  · simp only [h, hperf]

/-- An access of a thread at its own units performs, and the thread goes on with the bytes. -/
theorem accessReply_load (hu : validThread u = true) (hc : (s.core (coreOf u)).Present)
    (hm : (s.core (coreOf u)).munit = none) (hf : (s.thr u).op.fetch = false) (hn : s.noWaits)
    (hst : (s.thr u).st = .parked .mem ∨ (s.thr u).st = .parked .engine) (htodo : (s.thr u).op.todo = [a])
    (hph : (s.thr u).op.phase = 0) (ha : a.Own (coreOf u)) (hop : a.op = .load x n)
    (hq : 2 ≤ (s.thr u).tsr.pl.toNat ∨ s.quotaOk (quadOf (coreOf u)) (s.thr u).fn = true)
    (ho : 2 ≤ (s.thr u).tsr.pl.toNat ∨ s.ownerOk (s.thr u).fn a.dest x = true) (hp : s.poisoned x n = false) :
    ∃ t, exec (.accessReply u) s = .next t ∧ t.mem = s.mem ∧ t.thr u = (s.thr u).answered (s.rd x n) := by
  have hmo := chargeAccess_meterOnly ha.notHbm s (coreOf u) (s.thr u).fn (.load x n)
  have hfor : s.accessFor u = s.accessTurn u := by
    unfold State.accessFor
    obtain h | h := hst <;> rw [h]
  have hdone : ∃ w, (s.thr u).st = .parked w ∧ (w = .mem ∨ w = .engine ∨ w = .remote) := by
    obtain h | h := hst
    · exact ⟨_, h, .inl rfl⟩
    · exact ⟨_, h, .inr (.inl rfl)⟩
  obtain ⟨w, hpark, hw⟩ := hdone
  have hexec : exec (.accessReply u) s = .next
      ((s.chargeAccess (coreOf u) (s.thr u).fn a.dest (.load x n)).modThr u fun th => th.answered (s.rd x n)) := by
    refine (eventIf_pos hu _).trans ?_
    simp only [hc.here, orphanOf_idle hm, Option.isSome_none, Bool.false_eq_true, if_false, hfor,
      accessTurn_load hn htodo hph ha hop hq ho hp]
    rw [accessDone_last (w := w) (a := a) (by rw [hmo.thr, hpark]) hw (by rw [hmo.thr, htodo]) (by rw [hmo.thr, hf])]
  refine ⟨_, hexec, hmo.mem, ?_⟩
  rw [thr_modThr_same, hmo.thr]

end

end Sys2Proof.Machine
end

section
/-! SUPPORT. Replies, timeouts, notices and the ends of what is under way (R190, R305, R307 to R310). -/

namespace Sys2Proof.Machine

section
variable {s : State} {u n gen : Nat}

/-! ## REMOTE_REPLY (R307) -/

theorem dropItem_thr (s : State) (n u : Nat) : (s.dropItem n).thr u = s.thr u := rfl

/-- An answer for a thread of this panel reaches its core. -/
theorem remoteReply_delivers {r : Reply} {since : Nat} (hi : s.item? n = some (.answer u gen r false since))
    (hu : u < 2 ^ 20) (hc : (s.core (coreOf u)).Present) :
    exec (.remoteReply n) s = .next ((s.dropItem n).deliverReply u gen r false) := by
  refine congrArg Host.Outcome.next ?_
  rw [hi]
  simp only [Nat.not_le.mpr hu, if_false, gate_present hc, hc.served, Bool.not_true, Bool.false_eq_true]

theorem remoteReply_wakes {bs : List Byte} {since : Nat} {a : Access}
    (hi : s.item? n = some (.answer u gen (.data bs) false since)) (hu : u < 2 ^ 20) (hc : (s.core (coreOf u)).Present)
    (hg : (s.thr u).gen.toNat = gen) (hst : (s.thr u).st = .parked .remote) (hp : (s.thr u).op.phase ≠ 0)
    (ht : (s.thr u).op.todo = [a]) (hf : (s.thr u).op.fetch = false) :
    ∃ t, exec (.remoteReply n) s = .next t ∧ t.mem = s.mem ∧ t.thr u = (s.thr u).answered bs := by
  have hout := outstanding_of_away (away_of_remote hst hp)
  have hexec : exec (.remoteReply n) s = .next ((s.dropItem n).modThr u fun th => th.answered bs) := by
    rw [remoteReply_delivers hi hu hc]
    unfold State.deliverReply
    simp only [dropItem_thr, hout, hg, Bool.false_and, Bool.not_false, Bool.true_and, decide_true, Bool.false_eq_true,
      if_false, if_true]
    rw [accessDone_last (s := s.dropItem n) hst (.inr (.inr rfl)) ht hf]
  exact ⟨_, hexec, rfl, thr_modThr_same ..⟩

theorem remoteReply_stale {bs : List Byte} {since : Nat}
    (hi : s.item? n = some (.answer u gen (.data bs) false since)) (hu : u < 2 ^ 20) (hc : (s.core (coreOf u)).Present)
    (hm : (s.core (coreOf u)).munit = none) (hg : (s.thr u).gen.toNat ≠ gen) :
    ∃ t, exec (.remoteReply n) s = .next t ∧ t.mem = s.mem ∧ (t.thr u).st = (s.thr u).st ∧ (t.thr u).g = (s.thr u).g ∧
      (t.core (coreOf u)).stalereply = (s.core (coreOf u)).stalereply + 1 := by
  have horphan : (s.dropItem n).orphanOf u = none := orphanOf_idle hm
  have hexec : exec (.remoteReply n) s = .next ((s.dropItem n).staleReply u gen) := by
    rw [remoteReply_delivers hi hu hc]
    unfold State.deliverReply
    simp only [dropItem_thr, hg, horphan, Option.any_none, Bool.and_false, decide_false, Bool.false_eq_true, if_false]
  refine ⟨_, hexec, rfl, ?_, ?_, ?_⟩
  · rw [State.staleReply, State.stale, modCore_thr, thr_modThr_same]
    rfl
  · rw [State.staleReply, State.stale, modCore_thr, thr_modThr_same]
    rfl
  · rw [State.staleReply, State.stale, core_modCore_same]
    rfl

/-! ## REMOTE_TIMEOUT (R308) -/

theorem remoteTimeout_ends {e d : Nat} (hu : validThread u = true) (hc : (s.core (coreOf u)).Present)
    (hf : (s.thr u).op.fetch = false) (hg : (s.thr u).gen.toNat = e) (hst : (s.thr u).st = .parked .remote)
    (hp : (s.thr u).op.phase ≠ 0) (hd : (s.thr u).op.deadline = some d) (hlate : d ≤ s.cycle) :
    ∃ t x, exec (.remoteTimeout u e) s = .next t ∧ t.mem = s.mem ∧ (t.thr u).st = .run ∧
      (t.thr u).op.reply = .trap x ∧ x.code = 0x0B ∧ (t.thr u).gen = (s.thr u).gen + 1 ∧ (t.thr u).pc = (s.thr u).pc := by
  have haway := away_of_remote hst hp
  have hthr : (s.modThr u fun th => th.timedOut (th.op.deadline.getD 0 - (s.thr u).timeout)).thr u =
      (s.thr u).timedOut ((s.thr u).op.deadline.getD 0 - (s.thr u).timeout) := thr_modThr_same ..
  have hexec : exec (.remoteTimeout u e) s = .next ((s.modThr u fun th =>
      th.timedOut (th.op.deadline.getD 0 - (s.thr u).timeout)).answerOp u false (.trap { code := cTimeout, tval := s.tag u e })) := by
    refine (eventIf_pos hu _).trans ?_
    simp only [hg, haway, hd, Option.isSome_some, Option.any_some, hlate, hc.here, decide_true, Bool.and_self,
      Bool.not_true, Bool.or_self, Bool.false_eq_true, if_false, if_true, accessDone_trap]
  refine ⟨_, { code := cTimeout, tval := s.tag u e }, hexec, (State.SameQuads.answerOp ..).mem, ?_⟩
  rw [answerOp_parked (w := .remote) (by rw [hthr]; exact hst) (by rw [hthr]; exact hf), hthr]
  exact ⟨rfl, rfl, rfl, rfl, rfl⟩

/-! ## FABRIC_LIFETIME_EXPIRY (R309) -/

theorem fabricLifetimeExpiry_discards {it : Item} (hi : s.item? n = some it) (hl : s.itemSince it + 6000000 ≤ s.cycle) :
    exec (.fabricLifetimeExpiry n) s = .next (s.dropItem n) := by
  refine congrArg Host.Outcome.next ?_
  rw [hi]
  exact if_neg (Nat.not_lt.mpr hl)

/-! ## FE_QUEUED_NOTICE (R310) -/

theorem chargeQueued_meterOnly (s : State) (t f : Nat) (a : Access) : s.MeterOnly (s.chargeQueued t f a) := by
  unfold State.chargeQueued
  simp only
  split
  · exact (State.MeterOnly.charge ..).trans (.charge ..)
  · exact .refl s

theorem park_mem (s : State) (t : Nat) (w : Park) (o : Op) : (s.park t w o).mem = s.mem := by
  rw [State.park, offerInterrupt_mem]
  rfl

theorem park_thr_same (s : State) (t : Nat) (w : Park) (o : Op) : (s.park t w o).thr t =
    { s.thr t with st := .parked w, op := o, latch := if w = .engine then (s.thr t).latch else none } := by
  rw [State.park, offerInterrupt_thr, thr_modThr_same]

/-- What is left of the access of a thread that has been queued at the home of word `x`. -/
def Thread.queuedOp (th : Thread) (a : Access) (x : Nat) : Op :=
  { da := a.da, phase := 1, reply := th.op.reply, feAt := match a.dest with
    | .panel p => some (p, x)
    | _ => none }

theorem feQueuedNotice_waits {e x : Nat} {a : Access} {take : Bool} (hu : validThread u = true)
    (hc : (s.core (coreOf u)).Present) (hg : (s.thr u).gen.toNat = e) (hst : (s.thr u).st = .parked .remote)
    (hp : (s.thr u).op.phase ≠ 0) (ht : (s.thr u).op.todo = [a]) (hop : a.op = .drain take x) :
    ∃ t, exec (.feQueuedNotice u e) s = .next t ∧ t.mem = s.mem ∧ (t.thr u).st = .parked .fe ∧
      (t.thr u).pc = (s.thr u).pc ∧ (t.thr u).g = (s.thr u).g := by
  have haway := away_of_remote hst hp
  have hmo := chargeQueued_meterOnly s u (s.thr u).fn a
  obtain ⟨o, hexec⟩ : ∃ o, exec (.feQueuedNotice u e) s = .next (if (s.thr u).op.reply = .none
      then (s.chargeQueued u (s.thr u).fn a).park u .fe o
      else ((s.chargeQueued u (s.thr u).fn a).park u .fe o).dueOnce (.accessReply u)) := by
    refine ⟨(s.thr u).queuedOp a x, (eventIf_pos hu _).trans ?_⟩
    simp only [gate_present hc, hg, haway, ht, hop, bne_self_eq_false, Bool.not_true, Bool.or_self, Bool.false_eq_true,
      if_false, if_true]
    rfl
  have parked (t : State) (hm : t.mem = ((s.chargeQueued u (s.thr u).fn a).park u .fe o).mem)
      (hth : t.thr u = ((s.chargeQueued u (s.thr u).fn a).park u .fe o).thr u) :
      t.mem = s.mem ∧ (t.thr u).st = .parked .fe ∧ (t.thr u).pc = (s.thr u).pc ∧ (t.thr u).g = (s.thr u).g := by
    rw [hm, hth, park_mem, hmo.mem, park_thr_same, hmo.thr]
    exact ⟨rfl, rfl, rfl, rfl⟩
  refine ⟨_, hexec, ?_⟩
  split
  · exact parked _ rfl rfl
  · exact parked _ (dueOnce_mem ..) (dueOnce_thr ..)

/-! ## IMPORT_ENTRY_EXPIRY (R190) -/

section
variable {k f g : Nat} {x : ImportEntry}

/-- The entries of an import buffer that have not ended. -/
def State.importsKept (s : State) (k f g : Nat) : State :=
  s.modOdie k fun o => { o with imports := o.imports.filter fun x => !((x.fn == f && x.granule == g) && x.ends ≤ s.cycle) }

theorem importEntryExpiry_eq (hk : k < 16) : exec (.importEntryExpiry k f g) s = .next
    (if ((s.importsKept k f g).odie k).imports.any (fun x => x.fn == f && x.granule == g)
      then (s.importsKept k f g).defer (.importEntryExpiry k f g) else s.importsKept k f g) :=
  eventIf_pos (decide_eq_true hk) _

theorem importEntryExpiry_ends (hk : k < 16) (hi : (s.odie k).imports = [x]) (hf : x.fn = f) (hg : x.granule = g)
    (he : x.ends ≤ s.cycle) : ∃ t, exec (.importEntryExpiry k f g) s = .next t ∧ t.mem = s.mem ∧
      t.threads = s.threads ∧ (t.odie k).imports = [] := by
  have hkept : ((s.importsKept k f g).odie k).imports = [] := by
    rw [State.importsKept, odie_modOdie_same]
    simp [hi, hf, hg, he]
  refine ⟨s.importsKept k f g, ?_, rfl, rfl, hkept⟩
  rw [importEntryExpiry_eq hk, hkept]
  rfl

theorem importEntryExpiry_waits (hk : k < 16) (hi : (s.odie k).imports = [x]) (hf : x.fn = f) (hg : x.granule = g)
    (he : s.cycle < x.ends) : ∃ t, exec (.importEntryExpiry k f g) s = .next t ∧ (t.odie k).imports = [x] ∧
      .importEntryExpiry k f g ∈ t.agenda := by
  have hkept : ((s.importsKept k f g).odie k).imports = [x] := by
    rw [State.importsKept, odie_modOdie_same]
    simp [hi, he]
  refine ⟨(s.importsKept k f g).defer (.importEntryExpiry k f g), ?_, ?_, mem_dueOnce_agenda.mpr (.inr rfl)⟩
  · rw [importEntryExpiry_eq hk, hkept, if_pos (by simp [hf, hg])]
  · rw [State.defer, dueOnce_odie, hkept]

end

end

end Sys2Proof.Machine
end

section
/-! SUPPORT. Requests and journal entries at their homes (R156, R166, R169, R177, R310). -/

namespace Sys2Proof.Machine

/-! ## REMOTE_REQUEST_AT_HOME (R177) -/

theorem mem_smPut_self {α : Type} (m : SMap α) (k : Nat) (v : α) : (k, v) ∈ smPut m k v := by
  induction m with
  | nil => exact List.mem_singleton.mpr rfl
  | cons x m ih =>
    obtain ⟨j, w⟩ := x
    rw [smPut]
    split
    · exact List.mem_cons_of_mem _ ih
    · exact List.mem_cons_self

theorem unitAbsent_present {s : State} {e : Nat} (h : (s.core e).Present) : s.unitAbsent (.tcm e) = false := by
  simp [State.unitAbsent, contextOf, h.served]

theorem gateUnit_present {s : State} {e : Nat} (h : (s.core e).Present) (ev : Instr) (src : Option Nat) :
    s.gateUnit (.tcm e) ev src = (true, s) :=
  gate_present h ev src src

theorem ownerRefuses {s : State} {level f a : Nat} {d : Dest} (h : 2 ≤ level ∨ s.ownerOk f d a = true) :
    (decide (level < 2) && !s.ownerOk f d a) = false := by
  obtain h | h := h
  · simp [Nat.not_lt.mpr h]
  · simp [h]

section
variable {s : State} {n x k e : Nat} {r : Request}

theorem serveRequest_load (hn : s.noWaits) (hu : r.unit = .tcm e) (hc : (s.core e).Present) (hop : r.op = .load x k)
    (ht : r.thread < foreignBase) (ho : 2 ≤ r.level ∨ s.ownerOk r.fn (.tcm e) x = true) (hp : s.poisoned x k = false) :
    s.serveRequest n r =
      (s.dropItem n).launchItem (.answer r.thread r.gen (.data (s.rd x k)) r.replay s.cycle) true := by
  unfold State.serveRequest
  simp only [hu, gateUnit_present hc, unitAbsent_present hc, hop, HomeOp.addr, ownerRefuses ho, performFor_load hn hp,
    Bool.not_true, Bool.or_self, Bool.false_eq_true, if_false]
  unfold State.answerTo
  exact if_neg (Nat.not_le.mpr ht)

theorem remoteRequestAtHome_load (hn : s.noWaits) (hi : s.item? n = some (.request r)) (hu : r.unit = .tcm e)
    (hc : (s.core e).Present) (hop : r.op = .load x k) (ht : r.thread < foreignBase)
    (ho : 2 ≤ r.level ∨ s.ownerOk r.fn (.tcm e) x = true) (hp : s.poisoned x k = false) :
    ∃ t m, exec (.remoteRequestAtHome n) s = .next t ∧ t.mem = s.mem ∧ t.threads = s.threads ∧
      (m, .answer r.thread r.gen (.data (s.rd x k)) r.replay s.cycle) ∈ t.net ∧ .remoteReply m ∈ t.agenda := by
  have hexec : exec (.remoteRequestAtHome n) s = .next ((s.dropItem n).launchItem
      (.answer r.thread r.gen (.data (s.rd x k)) r.replay s.cycle) true) := by
    refine congrArg Host.Outcome.next ?_
    rw [hi]
    exact serveRequest_load hn hu hc hop ht ho hp
  exact ⟨_, s.nextNet, hexec, rfl, rfl, mem_smPut_self .., List.mem_append_right _ List.mem_cons_self⟩

end

/-! ## Fills of empty words (R168, R169) -/

/-- With nothing tabled, a change of a word grants nothing. -/
theorem grants_noWaits {s : State} (h : s.noWaits) (a : Nat) : s.grants a = s := by
  obtain ⟨hw, ht⟩ := h (homeQuad (unitAt a) a)
  simp [State.grants, State.grantLoop, State.waitersOf, hw, ht]

/-- A watch that is reached goes, and starts its run (R359). -/
theorem watchHit_watches (s : State) (a n : Nat) : ∃ w g, s.watchHit a n = { s with watches := w, agenda := g } := by
  unfold State.watchHit
  simp only
  split
  · exact ⟨_, _, rfl⟩
  · refine List.foldlRecOn (motive := fun t : State => ∃ w g, t = { s with watches := w, agenda := g }) _ _
      ⟨_, _, rfl⟩ fun t ht x _ => ?_
    obtain ⟨w, g, rfl⟩ := ht
    exact ⟨_, _, rfl⟩

/-- An empty word is filled. -/
def State.filled (s : State) (a : Nat) (bs : List Byte) : State :=
  ({ s.wr a bs with poison := keyDel s.poison a }.setFull a true).watchHit a 8

/-- `t` is `s` but for memory, the bits of words, watches and the agenda. -/
def State.WordsOnly (s t : State) : Prop :=
  ∃ m f p w g, t = { s with mem := m, full := f, poison := p, watches := w, agenda := g }

theorem filled_words (s : State) (a : Nat) (bs : List Byte) : s.WordsOnly (s.filled a bs) ∧
    (s.filled a bs).mem = memWrite s.mem a bs ∧ (s.filled a bs).full = keyAdd s.full a := by
  obtain ⟨w, g, h⟩ := watchHit_watches ({ s.wr a bs with poison := keyDel s.poison a }.setFull a true) a 8
  rw [State.filled, h]
  exact ⟨⟨_, _, _, _, _, rfl⟩, rfl, rfl⟩

theorem State.WordsOnly.quad {s t : State} (h : s.WordsOnly t) (q : Nat) : t.quad q = s.quad q := by
  obtain ⟨_, _, _, _, _, rfl⟩ := h
  rfl

theorem State.WordsOnly.core {s t : State} (h : s.WordsOnly t) (c : Nat) : t.core c = s.core c := by
  obtain ⟨_, _, _, _, _, rfl⟩ := h
  rfl

theorem State.WordsOnly.threads {s t : State} (h : s.WordsOnly t) : t.threads = s.threads := by
  obtain ⟨_, _, _, _, _, rfl⟩ := h
  rfl

theorem performFor_fill {s : State} (hn : s.noWaits) {a : Nat} (hf : s.isFull a = false) (f : Nat) (who : Waiter)
    (da : Word) (bs : List Byte) : s.performFor f who da (.fill a bs) = .reply (s.filled a bs) .ok := by
  have hwait : (s.filled a bs).noWaits := fun q => by
    rw [(filled_words s a bs).1.quad]
    exact hn q
  have hnone : s.waitersOf (homeQuad (unitAt a) a) a 1 = [] := by simp [State.waitersOf, (hn _).1]
  have harrive : s.feArrive who a (.fill bs) = .reply (s.filled a bs) .ok := by
    unfold State.feArrive
    simp only [wordHeld_of_noWaits hn, hf, WaitKind.cls, hnone, List.isEmpty_nil, Bool.not_false, Bool.or_true, Bool.and_self,
      Bool.false_eq_true, if_false, if_true]
    exact congrArg (Performed.reply · .ok) (grants_noWaits hwait a)
  rw [State.performFor, State.perform, State.performAt, harrive]
  simp [HomeOp.stores, HomeOp.wrote]

theorem State.MeterOnly.full {s t : State} (h : s.MeterOnly t) : t.full = s.full := by
  obtain ⟨_, _, rfl⟩ := h
  rfl

/-! ## FE_ARRIVAL (R169, R180) -/

/-- What the way of a store entry from its core leaves of the state. -/
structure State.Departed (s t : State) : Prop where
  mem : t.mem = s.mem
  full : t.full = s.full
  threads : t.threads = s.threads
  waits : s.noWaits → t.noWaits
  holder : ∀ q, t.holder q = s.holder q
  present : ∀ d, (s.core d).Present → (t.core d).Present

section
variable {s : State} {c i q d : Nat} {e : JEntry}

/-- A router's turn to a new site: a choice may be drawn, and the router noted. -/
theorem route_cases (s : State) (b : Nat) (d : Dest) : ∃ n, s.route b d = { s with fresh := n } ∨
    ∃ x, s.route b d = ({ s with fresh := n } : State).modCore x fun k =>
      { k with place := { k.place with switched := keyAdd k.place.switched b } } := by
  unfold State.route
  split
  · exact ⟨s.fresh, .inl rfl⟩
  · simp only
    split
    · exact ⟨s.fresh, .inl rfl⟩
    · split
      · exact ⟨s.fresh, .inl rfl⟩
      · split
        · exact ⟨s.fresh, .inr ⟨_, rfl⟩⟩
        · refine ⟨s.fresh + 1, ?_⟩
          split
          · exact .inr ⟨_, rfl⟩
          · exact .inl rfl

theorem route_core {γ : Type} (p : Core → γ)
    (hp : ∀ k l, p { k with place := { k.place with switched := l } } = p k) (s : State) (b : Nat) (d : Dest) (x : Nat) :
    p ((s.route b d).core x) = p (s.core x) := by
  obtain ⟨n, h | ⟨y, h⟩⟩ := route_cases s b d
  · rw [h]
    rfl
  · rw [h, core_modCore_keeps p _ _ x fun k => hp k _]
    rfl

theorem route_part {γ : Type} (p : State → γ) (hn : ∀ s n, p { s with fresh := n } = p s)
    (hc : ∀ s x f, p (s.modCore x f) = p s) (s : State) (b : Nat) (d : Dest) : p (s.route b d) = p s := by
  obtain ⟨n, h | ⟨y, h⟩⟩ := route_cases s b d
  · rw [h, hn]
  · rw [h, hc, hn]

theorem entryAt_of_journal {t : State} (h : (t.core c).journal = (s.core c).journal) : t.entryAt? c i q = s.entryAt? c i q := by
  rw [State.entryAt?, h, State.entryAt?]

/-- A change of an entry that keeps its sequence number is read back. -/
theorem entryAt_modEntryAt {f : JEntry → JEntry} (hf : ∀ e, (f e).seq = e.seq) :
    (s.modEntryAt c i f).entryAt? c i q = (s.entryAt? c i q).map f := by
  rw [State.entryAt?, State.modEntryAt, core_modCore_same, State.entryAt?]
  dsimp only
  induction (s.core c).journal with
  | nil => rfl
  | cons p l ih =>
    obtain ⟨j, b⟩ := p
    by_cases hj : j = i
    · by_cases hq : b.seq = q
      · simp [hj, hf, hq]
      · simp [hj, hf, hq] at ih ⊢
        exact ih
    · simp [hj] at ih ⊢
      exact ih

theorem present_of_eq {k k' : Core} (h : k.Present) (hm : k'.moving = k.moving) (hs : k'.place.service = k.place.service)
    (hh : k'.place.held = k.place.held) : k'.Present :=
  ⟨by rw [Core.away, hm, hs]; exact h.here, by rw [hs]; exact h.served, by rw [hh]; exact h.noHeld⟩

/-- An entry's way from its core is paid for. -/
def State.entryCharged (s : State) (c : Nat) (e : JEntry) : State :=
  (s.route c e.context).chargeAccess c e.fn e.unit (.store e.addr e.payload)

/-- An entry leaves its core. -/
def State.entryOut (s : State) (c i : Nat) (e : JEntry) : State :=
  (s.entryCharged c e).modEntryAt c i fun b => { b with left := true, since := (s.entryCharged c e).cycle }

theorem entryCharged_part {γ : Type} (p : State → γ) (hn : ∀ s n, p { s with fresh := n } = p s)
    (hc : ∀ s x f, p (s.modCore x f) = p s) (hm : ∀ s t : State, s.MeterOnly t → p t = p s) (s : State) (c : Nat)
    {e : JEntry} (hu : e.unit ≠ .hbm) : p (s.entryCharged c e) = p s :=
  (hm _ _ (chargeAccess_meterOnly hu ..)).trans (route_part p hn hc ..)

theorem entryCharged_core {γ : Type} (p : Core → γ)
    (hp : ∀ k l, p { k with place := { k.place with switched := l } } = p k) (s : State) (c : Nat) {e : JEntry}
    (hu : e.unit ≠ .hbm) (x : Nat) : p ((s.entryCharged c e).core x) = p (s.core x) := by
  rw [State.entryCharged, (chargeAccess_meterOnly hu ..).core, route_core p hp]

theorem entryCharged_quad {γ : Type} (p : Quad → γ) (hp : ∀ k m, p { k with meter := m } = p k) (s : State) (c : Nat)
    {e : JEntry} (hu : e.unit ≠ .hbm) (r : Nat) : p ((s.entryCharged c e).quad r) = p (s.quad r) := by
  rw [State.entryCharged, chargeAccess_keeps p hp hu]
  exact congrArg p (route_part (fun t => t.quad r) (fun _ _ => rfl) (fun _ _ _ => rfl) ..)

theorem entryOut_departed (s : State) (c i : Nat) {e : JEntry} (hu : e.unit ≠ .hbm) : s.Departed (s.entryOut c i e) := by
  have hkeep {γ : Type} (p : Core → γ) (hp : ∀ k l, p { k with place := { k.place with switched := l } } = p k)
      (hj : ∀ k l, p { k with journal := l } = p k) (x : Nat) : p ((s.entryOut c i e).core x) = p (s.core x) := by
    rw [State.entryOut, State.modEntryAt, core_modCore_keeps p _ c x fun k => hj k _, entryCharged_core p hp s c hu]
  have hquad {γ : Type} (p : Quad → γ) (hp : ∀ k m, p { k with meter := m } = p k) (r : Nat) :
      p ((s.entryOut c i e).quad r) = p (s.quad r) := entryCharged_quad p hp s c hu r
  constructor
  case mem => exact entryCharged_part State.mem (fun _ _ => rfl) (fun _ _ _ => rfl) (fun _ _ h => h.mem) s c hu
  case full => exact entryCharged_part State.full (fun _ _ => rfl) (fun _ _ _ => rfl) (fun _ _ h => h.full) s c hu
  case threads =>
    exact entryCharged_part State.threads (fun _ _ => rfl) (fun _ _ _ => rfl) (fun _ _ h => h.threads) s c hu
  case waits => exact fun h r => ⟨(hquad Quad.waits (fun _ _ => rfl) r).trans (h r).1,
    (hquad Quad.tickets (fun _ _ => rfl) r).trans (h r).2⟩
  case holder =>
    intro r
    rw [State.holder, hquad Quad.hold fun _ _ => rfl, State.holder]
  case present =>
    exact fun d h => present_of_eq h (hkeep Core.moving (fun _ _ => rfl) (fun _ _ => rfl) d)
      (hkeep (fun k => k.place.service) (fun _ _ => rfl) (fun _ _ => rfl) d)
      (hkeep (fun k => k.place.held) (fun _ _ => rfl) (fun _ _ => rfl) d)

theorem entryOut_entry {b : JEntry} (hu : e.unit ≠ .hbm) (h : s.entryAt? c i q = some b) :
    (s.entryOut c i e).entryAt? c i q = some { b with left := true, since := (s.entryCharged c e).cycle } := by
  have hj : (s.entryCharged c e).entryAt? c i q = some b := by
    rw [← h]
    exact entryAt_of_journal (entryCharged_core Core.journal (fun _ _ => rfl) s c hu c)
  unfold State.entryOut
  refine (entryAt_modEntryAt ?_).trans ?_
  · exact fun _ => rfl
  · rw [hj]
    rfl

/-- The state in which an entry that may leave, or has left, stands before its home. -/
theorem entryLeaves_goes (hu : e.unit ≠ .hbm) (he : s.entryAt? c i q = some e)
    (hl : e.left = true ∨ s.mayPerform e = true ∧ s.mayInject c e.fn e.level = true) :
    ∃ t, (s.entryLeaves c i e fun s => s.chargeAccess c e.fn e.unit (.store e.addr e.payload)) = (true, t) ∧
      s.Departed t ∧ ∃ b, t.entryAt? c i q = some b ∧ b.left = true := by
  by_cases hleft : e.left = true
  · exact ⟨s, if_pos hleft, ⟨rfl, rfl, rfl, id, fun _ => rfl, fun _ => id⟩, e, he, hleft⟩
  · obtain ⟨hp, hi⟩ := hl.resolve_left hleft
    refine ⟨s.entryOut c i e, ?_, entryOut_departed s c i hu, _, entryOut_entry hu he, rfl⟩
    rw [State.entryLeaves, if_neg hleft, hp, hi]
    rfl

theorem memGet_memWrite_same {m : List Host.Cell} (h : Memory.wf m = true) (a : Nat) (bs : List Byte) (j : Nat)
    (hj : j < bs.length) : memGet (memWrite m a bs) (a + j) = bs.getD j 0 := by
  induction bs generalizing m a j with
  | nil => exact absurd hj (Nat.not_lt_zero j)
  | cons b bs ih =>
    rw [memWrite]
    cases j with
    | zero =>
      rw [memGet_memWrite_other bs _ (by omega), Nat.add_zero, memGet_memPut_same m a b h]
      rfl
    | succ j =>
      have hnext := ih (memPut_wf m a b h) (a + 1) j (Nat.lt_of_succ_lt_succ hj)
      rw [Nat.add_right_comm] at hnext
      exact hnext

/-- A posted STF that leaves its core, or has left, finds an empty word of a present core. -/
theorem feArrival_fills (hc : validCore c = true) (hn : s.noWaits) (he : s.entryAt? c i q = some e)
    (hun : e.unserved = true) (hqu : e.queued = false)
    (hl : e.left = true ∨ s.mayPerform e = true ∧ s.mayInject c e.fn e.level = true) (hk : e.kind = .stf)
    (hu : e.unit = .tcm d) (hd : (s.core d).Present) (ho : 2 ≤ e.level ∨ s.ownerOk e.fn (.tcm d) e.addr = true)
    (hf : s.isFull e.addr = false) (hm : s.memOk) :
    ∃ t b, exec (.feArrival c i q) s = .next t ∧ t.threads = s.threads ∧ t.isFull e.addr = true ∧
      (∀ j, j < e.payload.length → memGet t.mem (e.addr + j) = e.payload.getD j 0) ∧
      (∀ a, a < e.addr ∨ e.addr + e.payload.length ≤ a → memGet t.mem a = memGet s.mem a) ∧
      t.entryAt? c i q = some b ∧ b.performed = true ∧ b.left = true ∧ .journalAck c i e.seq ∈ t.agenda := by
  obtain ⟨t, hleave, hdep, b, hb, hbl⟩ := entryLeaves_goes (by rw [hu]; exact fun h => nomatch h) he hl
  have howner : 2 ≤ e.level ∨ t.ownerOk e.fn (.tcm d) e.addr = true :=
    ho.imp_right fun h => by rwa [State.ownerOk, State.holds, hdep.holder]
  have hempty : t.isFull e.addr = false := by rwa [State.isFull, hdep.full]
  have hfill := performFor_fill (hdep.waits hn) hempty e.fn (.journal c i e.seq) e.report e.payload
  have hhome : t.entryAtHome (.journal c i e.seq) t.panelNo c e = (t.filled e.addr e.payload, .done) := by
    unfold State.entryAtHome
    simp only [hk, hu, unitAbsent_present (hdep.present d hd), ownerRefuses howner, hfill, Bool.false_eq_true, if_false,
      if_true]
  have hexec : exec (.feArrival c i q) s = .next ((t.filled e.addr e.payload).entryDone c i e.seq) := by
    refine (eventIf_pos hc _).trans ?_
    rw [he]
    dsimp only
    rw [State.serveEntry, hleave]
    simp only [hun, hqu, hu, gateUnit_present (hdep.present d hd), hhome, Bool.not_true, Bool.or_self, Bool.false_eq_true,
      if_false]
  obtain ⟨hwords, hmem, hfull⟩ := filled_words t e.addr e.payload
  refine ⟨_, { b with performed := true }, hexec, ?_, ?_, fun j hj => ?_, fun a ha => ?_, ?_, rfl, hbl,
    mem_due_agenda.mpr (.inr rfl)⟩
  · exact hwords.threads.trans hdep.threads
  · exact List.contains_iff_mem.mpr (hfull ▸ mem_keyAdd.mpr (.inl rfl))
  · refine (congrArg (memGet · _) (hmem.trans (by rw [hdep.mem]))).trans ?_
    exact memGet_memWrite_same hm _ _ j hj
  · refine (congrArg (memGet · _) (hmem.trans (by rw [hdep.mem]))).trans ?_
    exact memGet_memWrite_other _ _ ha
  · have hfilled : (t.filled e.addr e.payload).entryAt? c i q = some b :=
      (entryAt_of_journal (congrArg Core.journal (hwords.core c))).trans hb
    have hdone : ((t.filled e.addr e.payload).modEntryAt c i fun e => { e with performed := true }).entryAt? c i q =
        some { b with performed := true } := by
      refine (entryAt_modEntryAt ?_).trans ?_
      · exact fun _ => rfl
      · rw [hfilled]
        rfl
    exact hdone

end

end Sys2Proof.Machine
end

section
/-! SUPPORT. The wait tables' own turns: a confirmed grant, a re-probe, a posted store's end (R169, R170, R310). -/

namespace Sys2Proof.Machine

/-! ## FE_GRANT_CONFIRM (R310) -/

/-- Only one waiter is tabled, of the whole panel. -/
def State.OnlyWait (s : State) (q : Nat) (w : WaitEntry) : Prop :=
  ∀ k, (s.quad k).waits = (if k = q then [w] else []) ∧ (s.quad k).tickets = []

section
variable {s : State} {u e q : Nat} {w : WaitEntry} {take : Bool}

theorem dropWait_noWaits (h : s.OnlyWait q w) : (s.dropWait q w).noWaits := fun k => by
  obtain ⟨hw, ht⟩ := h k
  refine ⟨?_, ?_⟩
  · by_cases hk : k = q
    · subst hk
      rw [State.dropWait, quad_modQuad_same, hw, if_pos rfl, List.erase_cons_head]
    · rw [State.dropWait, quad_modQuad_other _ _ hk, hw, if_neg hk]
  · rw [← ht]
    refine quad_modQuad_keeps Quad.tickets _ _ _ ?_
    exact fun _ => rfl

/-- A word that is drained stays full unless the drain takes it. -/
def State.wordDrained (s : State) (a : Nat) (take : Bool) : State := if take then s.setFull a false else s

theorem wordDrained_keeps {γ : Type} (p : State → γ) (hp : ∀ (s : State) l, p { s with full := l } = p s) (s : State) (a : Nat)
    (take : Bool) : p (s.wordDrained a take) = p s := by
  cases take
  · rfl
  · exact hp ..

theorem wordDrained_full (s : State) (a : Nat) (take : Bool) : (s.wordDrained a take).isFull a = (s.isFull a && !take) := by
  cases take
  · exact (Bool.and_true _).symm
  · rw [Bool.not_true, Bool.and_false]
    simp [State.wordDrained, State.isFull, State.setFull, keyDel]

/-- The only tabled waiter's grant is applied: it leaves the table, and the word drains. -/
theorem endGrant_drain (h : s.OnlyWait q w) (hk : w.kind = .drain take) (hp : s.poison.contains w.addr = false) :
    s.endGrant q w true = ((s.dropWait q w).wordDrained w.addr take, .data (s.rd w.addr 8)) := by
  have hnone : ((s.dropWait q w).wordDrained w.addr take).noWaits := fun k => by
    rw [wordDrained_keeps (State.quad · k) fun _ _ => rfl]
    exact dropWait_noWaits h k
  have hgrant : (s.dropWait q w).applyGrant w.addr w.kind =
      ((s.dropWait q w).wordDrained w.addr take, .data (s.rd w.addr 8)) := by
    rw [hk]
    exact if_neg (by rw [State.dropWait, modQuad_poison, hp]; exact Bool.false_ne_true)
  unfold State.endGrant
  simp only [if_true, hgrant, grants_noWaits hnone]

theorem feGrantConfirm_drains (hheld : s.heldGrant u e = some (q, w)) (hu : u < foreignBase)
    (hno : s.agenda.contains (.feQueuedNotice u e) = false) (hc : (s.core (coreOf u)).Present)
    (hg : (s.thr u).gen.toNat = e) (hst : (s.thr u).st = .parked .fe) (hph : (s.thr u).op.phase ≠ 0)
    (hk : w.kind = .drain take) (hp : s.poison.contains w.addr = false) (h : s.OnlyWait q w) :
    ∃ t, exec (.feGrantConfirm u e) s = .next t ∧ t.mem = s.mem ∧ (t.thr u).st = .run ∧
      (t.thr u).op.reply = .data (s.rd w.addr 8) ∧ (t.quad q).waits = [] ∧
      t.isFull w.addr = (s.isFull w.addr && !take) := by
  have hthr : ((s.dropWait q w).wordDrained w.addr take).thr u = s.thr u := wordDrained_keeps (State.thr · u) (fun _ _ => rfl) ..
  have hexec : exec (.feGrantConfirm u e) s = .next (((s.dropWait q w).wordDrained w.addr take).modThr u fun th =>
      { th with st := .run, op := { th.op with reply := .data (s.rd w.addr 8), phase := 0 } }) := by
    refine congrArg Host.Outcome.next ?_
    rw [hheld]
    simp only [Nat.not_le.mpr hu, if_false, hno, Bool.false_eq_true, gate_present hc, Bool.not_true, hg, hst, decide_true,
      bne_iff_ne.mpr hph, BEq.rfl, Bool.and_self, if_true, endGrant_drain h hk hp]
    exact accessDone_fe (hthr ▸ hst) _
  refine ⟨_, hexec, wordDrained_keeps State.mem (fun _ _ => rfl) .., ?_, ?_, ?_, wordDrained_full ..⟩
  · rw [thr_modThr_same]
  · rw [thr_modThr_same]
  · exact (congrArg Quad.waits (wordDrained_keeps (State.quad · q) (fun _ _ => rfl) ..)).trans (dropWait_noWaits h q).1

end

/-! ## FE_REPROBE (R170) -/

section
variable {s : State} {q a : Nat} {w : WaitEntry}

/-- A word of which no tabled waiter can be granted stays as it is. -/
theorem grantLoop_none (h : s.waitersOf q a (if s.isFull a then 0 else 1) = []) (n : Nat) : s.grantLoop q a n = s := by
  cases n with
  | zero => rfl
  | succ n =>
    rw [State.grantLoop, h]
    exact ite_self s

/-- A word of which no tabled waiter can be granted, at a home without tickets. -/
theorem grants_none (h : s.waitersOf (homeQuad (unitAt a) a) a (if s.isFull a then 0 else 1) = [])
    (ht : (s.quad (homeQuad (unitAt a) a)).tickets = []) : s.grants a = s := by
  unfold State.grants
  simp only [grantLoop_none h, ht]

/-- The first ticket becomes the last tabled waiter. -/
def State.tabled (s : State) (q : Nat) (w : WaitEntry) (rest : List WaitEntry) : State :=
  ({ s with fresh := s.fresh + 1 } : State).modQuad q fun k => { k with waits := k.waits ++ [w], tickets := rest }

theorem tabled_same (s : State) (q : Nat) (w : WaitEntry) (rest : List WaitEntry) :
    (s.tabled q w rest).quad q = { s.quad q with waits := (s.quad q).waits ++ [w], tickets := rest } :=
  quad_modQuad_same ..

theorem feReprobe_tables (hq : q < 14400) (ht : (s.quad q).tickets = [w]) (hw : (s.quad q).waits = [])
    (hh : homeQuad (unitAt w.addr) w.addr = q) (hk : w.kind = .drain true) (hf : s.isFull w.addr = false) :
    ∃ t, exec (.feReprobe q) s = .next t ∧ t.mem = s.mem ∧ t.threads = s.threads ∧ (t.quad q).tickets = [] ∧
      (t.quad q).waits = [w] := by
  have hquad := tabled_same s q w []
  rw [hw, List.nil_append] at hquad
  have hstay : (s.tabled q w []).grants w.addr = s.tabled q w [] := by
    have hempty : (s.tabled q w []).isFull w.addr = false := hf
    refine grants_none ?_ ?_
    · rw [hh, hempty, State.waitersOf, hquad]
      simp [hk, WaitKind.cls]
    · rw [hh, hquad]
  have hready : State.reprobeReady { s with fresh := s.fresh + 1 } q w = false := by
    have hempty : State.isFull { s with fresh := s.fresh + 1 } w.addr = false := hf
    simp [State.reprobeReady, hk, hempty]
  have hexec : exec (.feReprobe q) s = .next (s.tabled q w []) := by
    refine (eventIf_pos (decide_eq_true hq) _).trans ?_
    have hwaits : (State.quad { s with fresh := s.fresh + 1 } q).waits = [] := hw
    simp only [ht, List.length_singleton, Nat.mod_one, List.getElem?_cons_zero, hready, hwaits, List.length_nil,
      Bool.false_eq_true, if_false, Nat.ofNat_pos, if_true]
    refine congrArg Host.Outcome.next ?_
    refine (congrArg (fun t : State => if (t.quad q).tickets = [] then t else t.dueOnce (.feReprobe q)) hstay).trans ?_
    exact if_pos (congrArg Quad.tickets hquad)
  exact ⟨_, hexec, rfl, rfl, congrArg Quad.tickets hquad, congrArg Quad.waits hquad⟩

end

/-! ## POSTED_STF_EXPIRE (R170) -/

/-- A quad tables no waiter of a journal entry, and holds no ticket of it. -/
def State.Without (s : State) (k c i q : Nat) : Prop :=
  ∀ v ∈ (s.quad k).waits ++ (s.quad k).tickets, isEntry c i q v = false

section
variable {s t : State} {k c i q r a : Nat}

theorem State.Without.of_quads (h : s.Without k c i q) (hq : t.quads = s.quads) : t.Without k c i q := by
  rw [State.Without, State.quad, hq]
  exact h

/-- A change of waits that brings no new waiter. -/
theorem State.Without.modWaits (h : s.Without k c i q) {f : List WaitEntry → List WaitEntry}
    (hf : ∀ l, ∀ v ∈ f l, ∃ x ∈ l, v.who = x.who) : (s.modQuad r fun x => { x with waits := f x.waits }).Without k c i q := by
  by_cases hr : k = r
  · intro v hv
    rw [← hr, quad_modQuad_same] at hv
    obtain hv | hv := List.mem_append.mp hv
    · obtain ⟨x, hx, hwho⟩ := hf _ v hv
      rw [isEntry, hwho]
      exact h x (List.mem_append_left _ hx)
    · exact h v (List.mem_append_right _ hv)
  · rw [State.Without, quad_modQuad_other _ _ hr]
    exact h

theorem State.Without.dropWait (h : s.Without k c i q) (w : WaitEntry) : (s.dropWait r w).Without k c i q :=
  h.modWaits fun _ v hv => ⟨v, List.mem_of_mem_erase hv, rfl⟩

theorem applyGrant_quads (s : State) (a : Nat) (k : WaitKind) : (s.applyGrant a k).1.quads = s.quads := by
  cases k with
  | drain take =>
    rw [State.applyGrant]
    split
    · rfl
    · cases take <;> rfl
  | fill bs =>
    obtain ⟨w, g, h⟩ := watchHit_watches ({ s.wr a bs with poison := keyDel s.poison a }.setFull a true) a 8
    rw [State.applyGrant, h]
    rfl
  | gen g => rfl

theorem giveWaiter_quads (s : State) (w : WaitEntry) (r : Reply) : (s.giveWaiter w r).quads = s.quads := by
  unfold State.giveWaiter
  split
  · split
    · unfold State.wakeSame
      rfl
    · rfl
  · rfl

theorem grantLoop_without (h : s.Without k c i q) (n : Nat) : (s.grantLoop r a n).Without k c i q := by
  induction n generalizing s with
  | zero => exact h
  | succ n ih =>
    rw [State.grantLoop]
    split
    · exact h
    · split
      · exact h
      · next w _ _ =>
        split
        · refine State.Without.of_quads (h.modWaits fun l v hv => ?_) rfl
          obtain ⟨x, hx, rfl⟩ := List.mem_map.mp hv
          exact ⟨x, hx, by split <;> rfl⟩
        · have hdrop := h.dropWait (r := r) w
          refine ih (hdrop.of_quads ?_)
          exact (giveWaiter_quads ..).trans (applyGrant_quads (s.dropWait r w) a w.kind)

theorem grants_without (h : s.Without k c i q) (a : Nat) : (s.grants a).Without k c i q := by
  unfold State.grants
  simp only
  have hloop := grantLoop_without (r := homeQuad (unitAt a) a) (a := a) h
    ((s.quad (homeQuad (unitAt a) a)).waits.length + 1)
  split
  · exact hloop
  · split
    · exact hloop.of_quads (dueOnce_quads ..)
    · exact hloop

/-- A home drops every wait of a journal entry. -/
def State.entryGone (s : State) (k c i q : Nat) : State :=
  s.modQuad k fun x => { x with waits := x.waits.filter (fun w => !isEntry c i q w)
                                tickets := x.tickets.filter (fun w => !isEntry c i q w) }

theorem entryGone_without (s : State) (k c i q : Nat) : (s.entryGone k c i q).Without k c i q := by
  intro v hv
  rw [State.entryGone, quad_modQuad_same] at hv
  obtain hv | hv := List.mem_append.mp hv
  · simpa using (List.mem_filter.mp hv).2
  · simpa using (List.mem_filter.mp hv).2

theorem postedStfExpire_drops {w : WaitEntry}
    (hw : s.quads.findSome? (fun p => ((p.2.waits ++ p.2.tickets).find? (isEntry c i q)).map fun w => (p.1, w)) = some (k, w))
    (hsome : ∀ e, s.entryAt? c i q = some e → e.since + 6000000 ≤ s.cycle)
    (hnone : s.entryAt? c i q = none → w.since + 6000000 ≤ s.cycle) :
    ∃ t, exec (.postedStfExpire c i q) s = .next t ∧
      ∀ v ∈ (t.quad k).waits ++ (t.quad k).tickets, isEntry c i q v = false := by
  have hexec : exec (.postedStfExpire c i q) s = .next ((s.entryGone k c i q).grants w.addr) := by
    refine congrArg Host.Outcome.next ?_
    rw [hw]
    cases he : s.entryAt? c i q with
    | none => exact if_neg (Nat.not_lt.mpr (hnone he))
    | some e => exact if_neg (Nat.not_lt.mpr (hsome e he))
  exact ⟨_, hexec, grants_without (entryGone_without s k c i q) _⟩

end

/-! ## What the answered accesses leave -/

section
variable {s : State} {u : Nat} {a : Access}

/-- A thread's last access answered: it runs, with the bytes, where it stood. -/
theorem answered_spec {t : State} {bs : List Byte} (ht : (s.thr u).op.todo = [a])
    (h : t.thr u = (s.thr u).answered bs) : (t.thr u).st = .run ∧ (t.thr u).op.reply = .ok ∧
      (t.thr u).op.got = (s.thr u).op.got ++ bs ∧ (t.thr u).op.todo = [] ∧ (t.thr u).g = (s.thr u).g ∧
      (t.thr u).pc = (s.thr u).pc := by
  rw [h]
  exact ⟨rfl, rfl, rfl, congrArg (List.drop 1) ht, rfl, rfl⟩

end

/-- Settles O59: each event's own lemma above. -/
theorem homeEvents : Obligations.HomeEvents := by
  intro s u c th hu hc hth hf hm hp
  subst hc hth
  refine ⟨?reply, fun n k x e r hn hi hu he hop ht ho hx => remoteRequestAtHome_load hn hi hu he hop ht ho hx,
    fun i q d e hn he hun hqu hl hk hud hd ho hfull hmem =>
      feArrival_fills (c := coreOf u) hu hn he hun hqu hl hk hud hd ho hfull hmem,
    fun n gen since bs hi hlt => ⟨?wakes, fun hg => remoteReply_stale hi hlt hp hm hg⟩,
    fun e d hg hst hph hd hl => remoteTimeout_ends hu hp hf hg hst hph hd hl,
    fun n it hi hl => fabricLifetimeExpiry_discards hi hl,
    fun e a x take hg hst hph ht hop => feQueuedNotice_waits hu hp hg hst hph ht hop,
    fun e q w take hheld hfor hno hg hst hph hk hpois hw => feGrantConfirm_drains hheld hfor hno hp hg hst hph hk hpois hw,
    fun q w hq ht hw hh hk hfull => feReprobe_tables hq ht hw hh hk hfull,
    fun i q k w hw hsome hnone => postedStfExpire_drops hw hsome hnone,
    fun k f g x hk hi hxf hxg =>
      ⟨importEntryExpiry_ends hk hi hxf hxg, importEntryExpiry_waits hk hi hxf hxg⟩⟩
  case reply =>
    intro a x n d hn hst ht hph hdest hop hq ho hx
    have hown : a.Own (coreOf u) := ⟨hdest.imp_right fun ⟨hd, heq⟩ => heq ▸ hd⟩
    obtain ⟨t, hexec, hmem, hthr⟩ := accessReply_load hu hp hm hf hn hst ht hph hown hop hq ho hx
    exact ⟨t, hexec, hmem, answered_spec ht hthr⟩
  case wakes =>
    intro a hg hst hph ht
    obtain ⟨t, hexec, hmem, hthr⟩ := remoteReply_wakes hi hlt hp hg hst hph ht hf
    obtain ⟨hrun, hok, hgot, -, hg, hpc⟩ := answered_spec ht hthr
    exact ⟨t, hexec, hmem, hrun, hok, hgot, hg, hpc⟩

end Sys2Proof.Machine
end

section
/-! SUPPORT. A word of a thread by itself is its meaning: once for the words of level 0 without a check of their own; with it
what is left of everything but the executing thread. -/

namespace Sys2Proof.Machine

/-- A word outside EXT.W and the optical engine, of level 0 and without a check of its own, that fits its PFX word. -/
theorem exec_of_run {i : Instr} {f : Form} {body : State → Res} {s : State} (h : s.Alone) (he : exec i s = run f body s)
    (hp : s.prefixFits f.pfx)
    (hm : majorNat f.word < 0x2B := by
      simp (disch := decide) only [majorNat, Laws.RoundTrip.fieldAbove, Laws.RoundTrip.fieldWhole, Nat.reduceSub]
      decide)
    (hn : f.early s = none := by rfl) (hl : f.level = 0 := by rfl) : exec i s = .next (settle s (body s)) := by
  have hx : majorNat f.word ≠ 0x38 := by omega
  rw [he, run_alone h (fun e => absurd e hx) hn (fun e => absurd e hm.ne) (hl ▸ Nat.zero_le _) hp]

/-- An integer word writes its value and goes on at the next word (R116). -/
theorem exec_of_runG {i : Instr} {f : Form} {d : BitVec 5} {v : State → Word} {s : State} (h : s.Plain)
    (he : exec i s = runG f d v s)
    (hm : majorNat f.word < 0x2B := by
      simp (disch := decide) only [majorNat, Laws.RoundTrip.fieldAbove, Laws.RoundTrip.fieldWhole, Nat.reduceSub]
      decide)
    (hn : f.early s = none := by rfl) (hl : f.level = 0 := by rfl) :
    exec i s = .next (s.after (s.setG d (v s))) :=
  exec_of_run (body := fun s => .done (s.setG d (v s))) h.alone he (State.prefixFits_none h _) hm hn hl

/-! ## What a completed word changes -/

theorem elsewhere_modThr (s : State) (f : Thread → Thread) : s.elsewhere (s.modThr s.cur f) :=
  ⟨rfl, fun _ hk => thr_modThr_other s f hk⟩

/-- A word that only changes its thread leaves everything else as it was. -/
theorem after_modMe (s : State) (f : Thread → Thread) :
    s.after (s.modMe f) = s.modThr s.cur fun th => (f th).complete (s.me.pc + 4) s.me.tsr.pp := by
  rw [after_def, State.modMe, modThr_modThr]

theorem elsewhere_after_modMe (s : State) (f : Thread → Thread) : s.elsewhere (s.after (s.modMe f)) :=
  after_modMe s f ▸ elsewhere_modThr s _

theorem thr_after_modMe (s : State) (f : Thread → Thread) :
    (s.after (s.modMe f)).thr s.cur = (f s.me).complete (s.me.pc + 4) s.me.tsr.pp := by
  rw [after_modMe, thr_modThr_same, State.me]

theorem reg_complete (th : Thread) (pc : Word) (b : Bool) (r : Nat) : (th.complete pc b).reg r = th.reg r :=
  reg_of_g (complete_g ..) r

end Sys2Proof.Machine
end

section
/-! SUPPORT. The integer instructions: their values as the tables of R119 to R124 state them, and what they leave. -/

namespace Sys2Proof.Machine

/-! ## Products, quotients and remainders (R119, R120) -/

theorem mulHigh_eq (a b : Word) : mulHigh a b = (a.signExtend 128 * b.signExtend 128).extractLsb' 64 64 := by
  have hp : a.signExtend 128 * b.signExtend 128 = BitVec.ofInt 128 (a.toInt * b.toInt) := by
    rw [BitVec.ofInt_mul]
    rfl
  rw [hp]
  apply BitVec.eq_of_toNat_eq
  simp only [mulHigh, BitVec.extractLsb'_toNat, BitVec.toNat_ofInt, Nat.shiftRight_eq_div_pow]
  omega

theorem mulHighU_eq (a b : Word) : mulHighU a b = (a.zeroExtend 128 * b.zeroExtend 128).extractLsb' 64 64 := by
  have hp : a.toNat * b.toNat < 2 ^ 128 := by
    have := Nat.mul_lt_mul'' a.isLt b.isLt
    omega
  apply BitVec.eq_of_toNat_eq
  simp only [mulHighU, BitVec.extractLsb'_toNat, BitVec.toNat_ofNat, BitVec.toNat_mul, BitVec.truncate_eq_setWidth,
    BitVec.toNat_setWidth_of_le (show 64 ≤ 128 by decide), Nat.shiftRight_eq_div_pow, Nat.mod_eq_of_lt hp]

section
variable {a b : Word}

theorem ne_zero_of_toInt (h : b.toInt ≠ 0) : b ≠ 0 := fun h0 => h (congrArg BitVec.toInt h0)

theorem divS_of_ne (h : b.toInt ≠ 0) : divS a b = BitVec.ofInt 64 (a.toInt.tdiv b.toInt) :=
  if_neg (ne_zero_of_toInt h)

theorem remS_of_ne (h : b.toInt ≠ 0) :
    remS a b = BitVec.ofInt 64 (a.toInt - a.toInt.tdiv b.toInt * b.toInt) := by
  rw [remS, if_neg (ne_zero_of_toInt h), Int.tmod_def, Int.mul_comm]

theorem divUn_of_ne (h : b.toInt ≠ 0) : divUn a b = BitVec.ofNat 64 (a.toNat / b.toNat) := by
  rw [divUn, if_neg (ne_zero_of_toInt h), ← BitVec.toNat_udiv, BitVec.ofNat_toNat, BitVec.setWidth_eq]

theorem remUn_of_ne (h : b.toInt ≠ 0) : remUn a b = BitVec.ofNat 64 (a.toNat % b.toNat) := by
  rw [remUn, if_neg (ne_zero_of_toInt h), ← BitVec.toNat_umod, BitVec.ofNat_toNat, BitVec.setWidth_eq]

theorem divS_zero (h : b = 0) : divS a b = BitVec.allOnes 64 := if_pos h

theorem remS_zero (h : b = 0) : remS a b = a := if_pos h

theorem divUn_zero (h : b = 0) : divUn a b = BitVec.allOnes 64 := if_pos h

theorem remUn_zero (h : b = 0) : remUn a b = a := if_pos h

end

section
variable {s : State} {d a b : BitVec 5}

theorem exec_div (h : s.Plain) : exec (.div d a b) s = .next (s.after (s.setG d (divS (s.g a) (s.g b)))) := by
  rw [exec_of_runG h rfl]

theorem exec_rem (h : s.Plain) : exec (.rem d a b) s = .next (s.after (s.setG d (remS (s.g a) (s.g b)))) := by
  rw [exec_of_runG h rfl]

theorem exec_divu (h : s.Plain) : exec (.divu d a b) s = .next (s.after (s.setG d (divUn (s.g a) (s.g b)))) := by
  rw [exec_of_runG h rfl]

theorem exec_remu (h : s.Plain) : exec (.remu d a b) s = .next (s.after (s.setG d (remUn (s.g a) (s.g b)))) := by
  rw [exec_of_runG h rfl]

end

/-- Settles O8: each form is its value in the model, which is the value of its row. -/
theorem integerArithmetic : Obligations.IntegerArithmetic := by
  unfold Obligations.IntegerArithmetic
  refine ⟨fun s d a b h => ⟨?_, ?_, ?_, ?_, ?_, ?_, ?_, ?_, ?_, fun k => ?_⟩,
    fun s d a b h => ⟨fun hb => ⟨?_, ?_, ?_, ?_⟩, fun hb => ⟨?_, ?_, ?_, ?_⟩, fun ha hb => ⟨?_, ?_⟩⟩⟩
  · rw [exec_of_runG h rfl]
  · rw [exec_of_runG h rfl]
  · rw [exec_of_runG h rfl]
  · rw [exec_of_runG h rfl, mulHigh_eq]
  · rw [exec_of_runG h rfl, mulHighU_eq]
  · rw [exec_of_runG h rfl]
  · rw [exec_of_runG h rfl]
  · rw [exec_of_runG h rfl]
  · rw [exec_of_runG h rfl]
  · rw [exec_of_runG h rfl, BitVec.shiftLeft_eq_mul_twoPow]
    rfl
  · rw [exec_div h, divS_of_ne hb]
  · rw [exec_rem h, remS_of_ne hb]
  · rw [exec_divu h, divUn_of_ne hb]
  · rw [exec_remu h, remUn_of_ne hb]
  · rw [exec_div h, divS_zero hb]
  · rw [exec_rem h, remS_zero hb]
  · rw [exec_divu h, divUn_zero hb]
  · rw [exec_remu h, remUn_zero hb]
  · rw [exec_div h, ha, hb]
    rfl
  · rw [exec_rem h, ha, hb]
    rfl

/-! ## Immediates, shifts, comparisons and extensions (R119, R123, R124) -/

theorem rotl_eq {n : Nat} (a : Word) (h : n < 64) : rotl a n = a.rotateLeft n := by
  rw [BitVec.rotateLeft_eq_rotateLeftAux_of_lt h, BitVec.rotateLeftAux, rotl]
  split
  next h0 => rw [h0, BitVec.shiftLeft_zero, BitVec.ushiftRight_eq_zero (by decide), BitVec.or_zero]
  · rfl

theorem boolWord_eq (p : Prop) [Decidable p] : boolWord (decide p) = if p then 1 else 0 := by
  simp only [boolWord, decide_eq_true_eq]

theorem boolWord_slt (x y : Word) : boolWord (x.slt y) = if x.toInt < y.toInt then 1 else 0 := boolWord_eq _

theorem boolWord_ult (x y : Word) : boolWord (x.ult y) = if x.toNat < y.toNat then 1 else 0 := boolWord_eq _

theorem boolWord_beq (x y : Word) : boolWord (x == y) = if x = y then 1 else 0 := boolWord_eq _

theorem ite_sle (x y u v : Word) : (if x.sle y then u else v) = if x.toInt ≤ y.toInt then u else v := by
  simp only [BitVec.sle, decide_eq_true_eq]

theorem ite_ule (x y u v : Word) : (if x.ule y then u else v) = if x.toNat ≤ y.toNat then u else v := by
  simp only [BitVec.ule, decide_eq_true_eq]

theorem toInt_sext (i : BitVec 16) : (sext i).toInt = i.toInt := BitVec.toInt_signExtend_of_le (by decide)

theorem lhi_eq (x : Word) (i : BitVec 16) : x <<< 16 ||| zext i = x.extractLsb' 0 48 ++ i := by
  refine BitVec.eq_of_getLsbD_eq fun k hk => ?_
  rw [BitVec.getLsbD_append]
  by_cases h : k < 16
  · simp [zext, h, hk]
  · have hi : i.getLsbD k = false := BitVec.getLsbD_of_ge i k (by omega)
    simp [zext, h, hk, hi, show k - 16 < 48 by omega, BitVec.getLsbD_eq_getElem (show k - 16 < 64 by omega)]

theorem signedOf_eq_toInt {w : Nat} (h : 0 < w) (x : Nat) : signedOf w x = (BitVec.ofNat w x).toInt := by
  obtain ⟨n, rfl⟩ : ∃ n, w = n + 1 := ⟨w - 1, by omega⟩
  have hlt : (x % 2 ^ (n + 1) < 2 ^ n) ↔ 2 * (x % 2 ^ (n + 1)) < 2 ^ (n + 1) := by omega
  simp only [signedOf, BitVec.toInt, BitVec.toNat_ofNat, Nat.add_sub_cancel, hlt]
  push_cast
  rfl

theorem exts_eq (x : Word) (n : Nat) :
    BitVec.ofInt 64 (signedOf (n + 1) x.toNat) = (x.extractLsb' 0 (n + 1)).signExtend 64 := by
  rw [signedOf_eq_toInt n.succ_pos]
  rfl

theorem extz_eq (x : Word) (n : Nat) :
    BitVec.ofNat 64 (x.toNat % 2 ^ (n + 1)) = (x.extractLsb' 0 (n + 1)).zeroExtend 64 := by
  apply BitVec.eq_of_toNat_eq
  simp

/-- Settles O9: each form is its value in the model, which is the value of its row. -/
theorem integerImmediatesAndShifts : Obligations.IntegerImmediatesAndShifts := by
  unfold Obligations.IntegerImmediatesAndShifts
  refine ⟨fun s d a h => ⟨fun i => ⟨?_, ?_, ?_, ?_, ?_, ?_, ?_⟩, fun n => ⟨?_, ?_, ?_, ?_⟩⟩,
    fun s d a b h => ⟨?_, ?_, ?_, ?_, ?_, ?_, ?_, ?_, ?_, ?_, ?_, fun c => ?_, fun w => ⟨?_, ?_⟩⟩⟩
  · rw [exec_of_runG h rfl, sext]
  · rw [exec_of_runG h rfl, zext]
  · rw [exec_of_runG h rfl, zext]
  · rw [exec_of_runG h rfl, zext]
  · rw [exec_of_runG h rfl, boolWord_slt, toInt_sext]
  · rw [exec_of_runG h rfl, boolWord_ult, sext]
  · rw [exec_of_runG h rfl, lhi_eq]
  · rw [exec_of_runG h rfl]
  · rw [exec_of_runG h rfl]
  · rw [exec_of_runG h rfl]
  · rw [exec_of_runG h rfl, rotl_eq _ n.isLt]
  · rw [exec_of_runG h rfl, shAmt]
  · rw [exec_of_runG h rfl, shAmt]
  · rw [exec_of_runG h rfl, shAmt]
  · rw [exec_of_runG h rfl, shAmt, rotl_eq _ (Nat.mod_lt _ (by decide))]
  · rw [exec_of_runG h rfl, ite_sle]
  · rw [exec_of_runG h rfl, ite_sle]
  · rw [exec_of_runG h rfl, ite_ule]
  · rw [exec_of_runG h rfl, ite_ule]
  · rw [exec_of_runG h rfl, boolWord_slt]
  · rw [exec_of_runG h rfl, boolWord_ult]
  · rw [exec_of_runG h rfl, boolWord_beq]
  · rw [exec_of_runG h rfl]
    simp only [bne_iff_ne]
  · rw [exec_of_runG h rfl, State.gn, exts_eq]
  · rw [exec_of_runG h rfl, State.gn, extz_eq]

/-! ## Counts of bits (R119) -/

theorem clz64_spec (a : Word) : clz64 a ≤ 64 ∧ (∀ i, 64 - clz64 a ≤ i → a.getLsbD i = false) ∧
    (clz64 a < 64 → a.getLsbD (63 - clz64 a) = true) := by
  unfold clz64
  split
  next h => simp [h]
  next h =>
    have h0 : a.toNat ≠ 0 := fun hn => h (BitVec.eq_of_toNat_eq hn)
    have hlog : a.toNat.log2 < 64 := (Nat.log2_lt h0).mpr a.isLt
    refine ⟨by omega, fun i hi => Nat.testBit_lt_two_pow ((Nat.log2_lt h0).mp (by omega)), fun _ => ?_⟩
    rw [show 63 - (63 - a.toNat.log2) = a.toNat.log2 by omega]
    exact Nat.testBit_log2 h0

theorem ctz64_spec (a : Word) : ctz64 a ≤ 64 ∧ (∀ i, i < ctz64 a → a.getLsbD i = false) ∧
    (ctz64 a < 64 → a.getLsbD (ctz64 a) = true) := by
  unfold ctz64
  cases hf : (List.range 64).find? fun i => a.getLsbD i with
  | none =>
    rw [List.find?_range_eq_none] at hf
    exact ⟨le_rfl, fun i hi => by simpa using hf i hi, fun h => absurd h (lt_irrefl 64)⟩
  | some n =>
    obtain ⟨hn, hmem, hlow⟩ := List.find?_range_eq_some.mp hf
    exact ⟨(List.mem_range.mp hmem).le, fun i hi => by simpa using hlow i hi, fun _ => hn⟩

theorem length_filter_eq_sum {α : Type} (p : α → Bool) (l : List α) :
    (l.filter p).length = (l.map fun x => (p x).toNat).sum := by
  induction l with
  | nil => rfl
  | cons x l ih => cases h : p x <;> simp [h, ih, Nat.add_comm]

theorem popc64_eq (a : Word) : popc64 a = ((List.range 64).map fun i => (a.getLsbD i).toNat).sum :=
  length_filter_eq_sum ..

/-! ## Fields (R121) -/

/-- `b` gives a field its position and its length. -/
structure IsField (b : Word) (pos len : Nat) : Prop where
  pos : pos = (b.extractLsb' 0 6).toNat
  len : len = if b.extractLsb' 8 6 = 0 then 64 else (b.extractLsb' 8 6).toNat

section
variable {b : Word} {pos len : Nat}

theorem fieldMask_eq (h : IsField b pos len) :
    fieldMask b = (pos, BitVec.ofNat 64 (2 ^ min len (64 - pos) - 1)) := by
  have hp : b.toNat % 64 = pos := h.pos.symm
  have hl : (if field b.toNat 13 8 = 0 then 64 else field b.toNat 13 8) = len := by
    simp only [h.len, ← BitVec.toNat_inj]
    rfl
  simp only [fieldMask, hp, hl]

theorem getLsbD_lowMask (n : Nat) {i : Nat} (h : i < 64) : (BitVec.ofNat 64 (2 ^ n - 1)).getLsbD i = decide (i < n) := by
  rw [BitVec.getLsbD_ofNat, Nat.testBit_two_pow_sub_one, decide_eq_true h, Bool.true_and]

theorem bext_bit (h : IsField b pos len) (a : Word) {i : Nat} (hi : i < 64) :
    ((a >>> (fieldMask b).1) &&& (fieldMask b).2).getLsbD i =
      (decide (i < len ∧ pos + i < 64) && a.getLsbD (pos + i)) := by
  rw [fieldMask_eq h, BitVec.getLsbD_and, BitVec.getLsbD_ushiftRight, getLsbD_lowMask _ hi, Bool.and_comm]
  congr 1
  exact decide_eq_decide.mpr (by omega)

theorem bins_bit (h : IsField b pos len) (a d : Word) {i : Nat} (hi : i < 64) :
    ((d &&& ~~~((fieldMask b).2 <<< (fieldMask b).1)) ||| ((a &&& (fieldMask b).2) <<< (fieldMask b).1)).getLsbD i =
      if pos ≤ i ∧ i < pos + len then a.getLsbD (i - pos) else d.getLsbD i := by
  have hm : (BitVec.ofNat 64 (2 ^ min len (64 - pos) - 1)).getLsbD (i - pos) = decide (i - pos < min len (64 - pos)) :=
    getLsbD_lowMask _ (by omega)
  simp only [fieldMask_eq h, BitVec.getLsbD_or, BitVec.getLsbD_and, BitVec.getLsbD_not, BitVec.getLsbD_shiftLeft, hm,
    hi]
  by_cases hp : pos ≤ i
  · by_cases hl : i < pos + len
    · simp [hp, hl, show ¬i < pos by omega, show i - pos < len ∧ i - pos < 64 - pos by omega]
    · simp [hp, hl, show ¬i < pos by omega, show ¬i - pos < len by omega]
  · simp [hp, show i < pos by omega]

end

/-! ## Core coordinates (R122) -/

theorem cxy_eq (a b : Word) : cxy a b =
    if a.toNat ≤ 239 ∧ b.toNat ≤ 239 then BitVec.ofNat 64 (b.toNat * 256 + a.toNat) else BitVec.allOnes 64 := by
  simp only [cxy, Bool.and_eq_true, decide_eq_true_eq]
  split
  next h =>
    apply BitVec.eq_of_toNat_eq
    have hor : b.toNat <<< 8 ||| a.toNat = b.toNat <<< 8 + a.toNat := (Nat.shiftLeft_add_eq_or_of_lt (by omega) _).symm
    rw [BitVec.toNat_or, BitVec.toNat_shiftLeft, BitVec.toNat_ofNat, Nat.mod_eq_of_lt (by omega), hor, Nat.shiftLeft_eq]
    omega
  · rfl

theorem field_eq_extractLsb' (a : Word) (hi lo : Nat) : field a.toNat hi lo = (a.extractLsb' lo (hi - lo + 1)).toNat :=
  (BitVec.extractLsb'_toNat ..).symm

theorem upper_eq_zero (a : Word) : a.extractLsb' 16 48 = 0 ↔ a.toNat < 65536 := by
  rw [← BitVec.toNat_inj, BitVec.extractLsb'_toNat, Nat.shiftRight_eq_div_pow]
  change a.toNat / 2 ^ 16 % 2 ^ 48 = 0 ↔ _
  omega

theorem signedOf_byte (a : Word) (lo : Nat) : signedOf 8 (a.toNat / 2 ^ lo) = (a.extractLsb' lo 8).toInt := by
  rw [signedOf_eq_toInt (by decide), ← Nat.shiftRight_eq_div_pow]
  rfl

theorem crel_eq {a b : Word} {x y dx dy : Int} (hx : x = (a.extractLsb' 0 8).toNat) (hy : y = (a.extractLsb' 8 8).toNat)
    (hdx : dx = (b.extractLsb' 0 8).toInt) (hdy : dy = (b.extractLsb' 8 8).toInt) : crel a b =
    if a.extractLsb' 16 48 = 0 ∧ x ≤ 239 ∧ y ≤ 239 ∧ 0 ≤ x + dx ∧ x + dx ≤ 239 ∧ 0 ≤ y + dy ∧ y + dy ≤ 239
    then BitVec.ofInt 64 ((y + dy) * 256 + (x + dx)) else BitVec.allOnes 64 := by
  have hsx : signedOf 8 b.toNat = dx := by rw [hdx, ← signedOf_byte, Nat.pow_zero, Nat.div_one]
  have hsy : signedOf 8 (b.toNat / 256) = dy := hdy ▸ signedOf_byte b 8
  have hlx : (a.extractLsb' 0 8).toNat ≤ 239 ↔ x ≤ 239 := by omega
  have hly : (a.extractLsb' 8 8).toNat ≤ 239 ↔ y ≤ 239 := by omega
  simp only [crel, field_eq_extractLsb', Nat.reduceSub, Nat.reduceAdd, hsx, hsy, hlx, hly, ← hx, ← hy, Bool.and_eq_true,
    decide_eq_true_eq, upper_eq_zero, and_assoc]
  rfl

/-- Settles O10: each count, field and core ID of the model has the bits or the coordinates that its rule gives. -/
theorem bitCountsAndCoordinates : Obligations.BitCountsAndCoordinates := by
  unfold Obligations.BitCountsAndCoordinates
  refine ⟨fun s d a b h => ⟨⟨_, ?_, clz64_spec (s.g a)⟩, ⟨_, ?_, ctz64_spec (s.g a)⟩, ?_, fun pos len hpos hlen =>
    ⟨⟨_, ?_, fun i => bext_bit ⟨hpos, hlen⟩ (s.g a)⟩, ⟨_, ?_, fun i => bins_bit ⟨hpos, hlen⟩ (s.g a) (s.g d)⟩⟩⟩,
    fun s d a b h => ⟨?_, ?_, fun x y dx dy hx hy hdx hdy => ?_⟩⟩
  · rw [exec_of_runG h rfl]
  · rw [exec_of_runG h rfl]
  · rw [exec_of_runG h rfl, popc64_eq]
  · rw [exec_of_runG h rfl]
  · rw [exec_of_runG h rfl]
  · rw [exec_of_runG h rfl]
  · rw [exec_of_runG h rfl, cxy_eq]
  · rw [exec_of_runG h rfl, crel_eq hx hy hdx hdy]

/-! ## What every integer instruction leaves (R116) -/

/-- Every integer instruction only writes its destination. -/
theorem integer_writes {s : State} {i : Instr} {d : BitVec 5} (h : s.Plain) (hi : i.isInteger d) :
    ∃ v, exec i s = .next (s.after (s.setG d v)) := by
  rcases hi with
    ⟨a, b, rfl | rfl | rfl | rfl | rfl | rfl | rfl | rfl | rfl | rfl | rfl | rfl | rfl | rfl | rfl | rfl | rfl | rfl |
      rfl | rfl | rfl | rfl | rfl | rfl | rfl | rfl | rfl | rfl⟩ |
    ⟨a, rfl | rfl | rfl⟩ | rfl | ⟨a, b, c, rfl⟩ | ⟨a, b, k, rfl⟩ | ⟨a, w, rfl | rfl⟩ |
    ⟨a, n, rfl | rfl | rfl | rfl | rfl | rfl | rfl⟩ | ⟨a, n, rfl | rfl | rfl | rfl⟩
  all_goals
    rw [exec_of_runG h rfl]
    exact ⟨_, rfl⟩

/-- Settles O11: the one value that the instruction writes, and registers read after a write. -/
theorem integerFrame : Obligations.IntegerFrame := by
  unfold Obligations.IntegerFrame
  refine ⟨fun s i d h hi => ?_, fun th d r v hr hd => ?_⟩
  · obtain ⟨v, hv⟩ := integer_writes h hi
    have hthr : (s.after (s.setG d v)).thr s.cur = (s.me.put d.toNat v).complete (s.me.pc + 4) false := by
      rw [State.setG, thr_after_modMe, h.noPrefix]
    refine ⟨_, hv, elsewhere_after_modMe s _, fun r hr => ?_, reg_zero _, ?_, ?_, v, hthr⟩
    · rw [hthr, reg_complete, reg_put_other _ v hr]
    · rw [hthr]
      rfl
    · rw [hthr]
      exact put_tsr ..
  · by_cases h : r = d
    · subst h
      by_cases h0 : r = 0
      · simp [h0]
      · rw [reg_put_same _ v h0 hr, if_pos ⟨rfl, h0⟩]
    · rw [reg_put_other _ v h, if_neg fun h' => h h'.1]

end Sys2Proof.Machine
end

section
/-! SUPPORT. Branches, LOOP and jumps: the place where the thread goes on, and what a transfer out of an open signed block
comes to (R114, R126 to R128). -/

namespace Sys2Proof.Machine

section
variable {s : State}

/-! ## Where a transfer leaves the thread -/

theorem goto_modMe (hb : s.mayBranch) (f : Thread → Thread) (pc : Word) :
    settle s (.goto (s.modMe f) pc) = s.modThr s.cur fun th => (f th).complete pc s.me.tsr.pp := by
  rw [settle_goto, jumped_of_mayBranch hb, State.modMe, modThr_modThr]

theorem goto_self (hb : s.mayBranch) (pc : Word) :
    settle s (.goto s pc) = s.modThr s.cur fun th => th.complete pc s.me.tsr.pp := by
  rw [settle_goto, jumped_of_mayBranch hb]

/-- R114. -/
theorem goto_openBlock (hb : ¬s.mayBranch) (s1 : State) (pc : Word) : settle s (.goto s1 pc) = s1.kill s.cur 0x20 :=
  if_pos (eq_true_of_ne_false hb)

theorem target_eq {n : Nat} (i : BitVec n) : s.target i = s.me.pc + 4 * i.signExtend 64 := by
  rw [State.target, BitVec.shiftLeft_eq_mul_twoPow, BitVec.mul_comm]
  rfl

theorem target_setG (d : BitVec 5) (v : Word) {n : Nat} (i : BitVec n) : (s.setG d v).target i = s.target i := by
  have hpc : (s.setG d v).me.pc = s.me.pc := by rw [State.setG, modMe_me, put_pc]
  rw [State.target, hpc, State.target]

/-! ## Conditional branches (R126) -/

/-- `ins` is a conditional branch by `i` on `ga` and `gb`, and `c` is its condition. -/
def State.branchesIf (s : State) (ins : Instr) (a b : BitVec 5) (i : BitVec 16) (c : Prop) : Prop :=
  (ins = .beq a b i ∧ c = (s.g a = s.g b)) ∨ (ins = .bne a b i ∧ c = (s.g a ≠ s.g b)) ∨
    (ins = .blt a b i ∧ c = ((s.g a).toInt < (s.g b).toInt)) ∨
    (ins = .bge a b i ∧ c = ((s.g b).toInt ≤ (s.g a).toInt)) ∨
    (ins = .bltu a b i ∧ c = ((s.g a).toNat < (s.g b).toNat)) ∨
    (ins = .bgeu a b i ∧ c = ((s.g b).toNat ≤ (s.g a).toNat))

variable {ins : Instr} {a b : BitVec 5} {i : BitVec 16} {c : Prop}

theorem exec_branch (h : s.Plain) (hi : s.branchesIf ins a b i c) :
    ∃ taken : Bool, (taken = true ↔ c) ∧ exec ins s = .next (settle s (branch taken i s)) := by
  have hp := State.prefixFits_none h none
  rcases hi with ⟨rfl, rfl⟩ | ⟨rfl, rfl⟩ | ⟨rfl, rfl⟩ | ⟨rfl, rfl⟩ | ⟨rfl, rfl⟩ | ⟨rfl, rfl⟩
  · exact ⟨_, beq_iff_eq, by rw [exec_of_run h.alone rfl hp]⟩
  · exact ⟨_, bne_iff_ne, by rw [exec_of_run h.alone rfl hp]⟩
  · exact ⟨_, decide_eq_true_iff, by rw [exec_of_run h.alone rfl hp]; rfl⟩
  · refine ⟨!(s.g a).slt (s.g b), ?_, by rw [exec_of_run h.alone rfl hp]⟩
    simp [BitVec.slt]
  · exact ⟨_, decide_eq_true_iff, by rw [exec_of_run h.alone rfl hp]; rfl⟩
  · refine ⟨!(s.g a).ult (s.g b), ?_, by rw [exec_of_run h.alone rfl hp]⟩
    simp [BitVec.ult]

theorem branch_settles (hb : s.mayBranch) (taken : Bool) (i : BitVec 16) : settle s (branch taken i s) =
    s.modThr s.cur fun th => th.complete (if taken then s.target i else s.me.pc + 4) s.me.tsr.pp := by
  cases taken
  · rfl
  · exact goto_self hb (s.target i)

end

/-- Settles O12: each form is `branch` on its condition. -/
theorem conditionalBranches : Obligations.ConditionalBranches := by
  unfold Obligations.ConditionalBranches
  intro s a b i ins c h hb hi
  obtain ⟨taken, hc, hexec⟩ := exec_branch h hi
  rw [branch_settles hb, h.noPrefix] at hexec
  refine ⟨_, _, hexec, fun hyes => ?_, fun hno => ?_, elsewhere_modThr s _, thr_modThr_same ..⟩
  · rw [if_pos (hc.mpr hyes), target_eq]
  · rw [if_neg (mt hc.mp hno)]

/-! ## LOOP (R127) -/

theorem branch_modMe {s : State} (hb : s.mayBranch) (f : Thread → Thread) (taken : Bool) (i : BitVec 16) :
    settle s (branch taken i (s.modMe f)) = s.modThr s.cur fun th =>
      (f th).complete (if taken then (s.modMe f).target i else s.me.pc + 4) s.me.tsr.pp := by
  cases taken
  · exact after_modMe s f
  · exact goto_modMe hb f _

theorem g_setG (s : State) (d r : BitVec 5) (v : Word) :
    (s.setG d v).g r = if r = d ∧ r ≠ 0 then v else s.g r := by
  have hd : r.toNat = d.toNat ↔ r = d := BitVec.toNat_inj
  have h0 : r.toNat = 0 ↔ r = 0 := BitVec.toNat_inj (y := 0#5)
  rw [State.g, State.setG, modMe_me, reg_put]
  simp only [hd, ne_eq, h0]
  rfl

theorem g_zero (s : State) : s.g 0 = 0 := reg_zero _

/-- The count of LOOP after its write: g0 reads 0. -/
theorem g_setG_count (s : State) (a : BitVec 5) (v : Word) : (s.setG a v).g a = if a = 0 then 0 else v := by
  by_cases ha : a = 0
  · rw [if_pos ha, ha, g_zero]
  · rw [if_neg ha, g_setG, if_pos ⟨rfl, ha⟩]

theorem exec_loop {s : State} (h : s.Plain) (hb : s.mayBranch) (a b : BitVec 5) (i : BitVec 16) :
    exec (.loop a b i) s = .next (s.modThr s.cur fun th => (th.put a.toNat (s.g a - 1)).complete
      (if (s.setG a (s.g a - 1)).g a ≠ (s.setG a (s.g a - 1)).g b then s.me.pc + 4 * i.signExtend 64
       else s.me.pc + 4) false) := by
  have hexec : exec (.loop a b i) s = .next (settle s (loopBody a b i s)) := by
    rw [exec_of_run h.alone rfl (State.prefixFits_none h _)]
  rw [hexec, loopBody, State.setG, branch_modMe hb, ← State.setG, target_setG, target_eq, h.noPrefix]
  simp only [bne_iff_ne]

/-- Settles O13: the branch compares the registers after the write of the count. -/
theorem loop : Obligations.Loop := by
  unfold Obligations.Loop
  intro s a b i h hb
  refine ⟨_, _, exec_loop h hb a b i, elsewhere_modThr s _, thr_modThr_same .., ?_⟩
  rintro x y rfl rfl
  have hba : (b = a ∧ b ≠ 0) = (b = a ∧ a ≠ 0) := propext (and_congr_right fun e => by rw [e])
  simp only [g_setG_count, g_setG, hba]

/-! ## Jumps (R128) -/

/-- Settles O14: each jump is its transfer, after the write of its link. -/
theorem jumps : Obligations.Jumps := by
  unfold Obligations.Jumps
  intro s h hb
  have hp := State.prefixFits_none h none
  have link (d : BitVec 5) (pc : Word) : settle s (.goto (s.setG d (s.me.pc + 4)) pc) =
      s.modThr s.cur fun th => (th.put d.toNat (s.me.pc + 4)).complete pc false := by
    rw [State.setG, goto_modMe hb, h.noPrefix]
  refine ⟨fun i => ?_, fun i => ?_, ?_⟩
  · have hexec : exec (.j i) s = .next (settle s (.goto s (s.target i))) := by rw [exec_of_run h.alone rfl hp]
    rw [goto_self hb, target_eq, h.noPrefix] at hexec
    exact ⟨_, hexec, elsewhere_modThr s _, thr_modThr_same ..⟩
  · have hexec : exec (.jal i) s = .next (settle s (.goto (s.setG 31#5 (s.me.pc + 4)) (s.target i))) := by
      rw [exec_of_run h.alone rfl hp]
    rw [link, target_eq] at hexec
    exact ⟨_, hexec, elsewhere_modThr s _, thr_modThr_same ..⟩
  · rintro d a i x rfl
    have hexec : exec (.jalr d a i) s = .next (settle s (jalrBody d a i s)) := by rw [exec_of_run h.alone rfl hp]
    refine ⟨fun hx => ?_, fun hx => ?_⟩
    · have hbody : jalrBody d a i s = .goto (s.setG d (s.me.pc + 4)) (s.g a + sext i) :=
        if_neg fun hne => bne_iff_ne.mp hne hx
      rw [hbody, link] at hexec
      exact ⟨_, hexec, elsewhere_modThr s _, thr_modThr_same ..⟩
    · have hbody : jalrBody d a i s = raise cMisalign (s.g a + sext i) 0 s := if_pos (bne_iff_ne.mpr hx)
      rw [hexec, hbody]
      rfl

end Sys2Proof.Machine
end

section
/-! SUPPORT. Scalar floating point: the words of both widths, what one rounding leaves in the thread, and the values of the
forms that round nothing (R118, R130 to R136). -/

namespace Sys2Proof.Machine

/-! ## Words of both widths -/

/-- A word of EXT.W class 00 at a core that lists the class. -/
theorem exec_of_wide {i : Instr} {f : Form} {body : State → Res} {s : State} (h : s.Alone) (hw : s.w64 s.here = true)
    (he : exec i s = run f body s) (hp : s.prefixFits f.pfx)
    (hm : majorNat f.word = 0x38 := by
      simp (disch := decide) only [majorNat, Laws.RoundTrip.fieldAbove, Laws.RoundTrip.fieldWhole, Nat.reduceSub]
      decide)
    (hc : extClass f.word = 0 := by
      simp (disch := decide) only [extClass, Laws.RoundTrip.fieldBelow, Laws.RoundTrip.fieldWhole]
      decide)
    (hn : f.early s = none := by rfl) (hl : f.level = 0 := by rfl) : exec i s = .next (settle s (body s)) := by
  have hlist : s.listsClass s.here (extClass f.word) = true := by simpa [State.listsClass, hc] using hw
  have ho : majorNat f.word ≠ 0x2B := by omega
  rw [he, run_alone h (fun _ => hlist) hn (fun e => absurd e ho) (hl ▸ Nat.zero_le _) hp]

/-- The scalar formats: FP32 at every core, FP64 where the core lists its class. -/
def State.hasFormat (s : State) (f : Nat) : Prop := f = 4 ∨ f = 14 ∧ s.w64 s.here = true

theorem exec_ofFormat {s : State} {f : Nat} {i4 i14 : Instr} {body : Nat → State → Res} (hf : s.hasFormat f)
    (h4 : exec i4 s = .next (settle s (body 4 s)))
    (h14 : s.w64 s.here = true → exec i14 s = .next (settle s (body 14 s))) :
    exec (if f = 4 then i4 else i14) s = .next (settle s (body f s)) := by
  rcases hf with rfl | ⟨rfl, hw⟩
  · rw [if_pos rfl, h4]
  · rw [if_neg (by decide), h14 hw]

/-! ## One rounding into a register (R118) -/

section
variable (s : State) (f : Nat) (d a b c : BitVec 5)

theorem settle_fpBin (op : Bool → Num → Num → Num × Flags) :
    settle s (fpBin f op d a b s) = s.after (s.roundedInto d f (op (s.rdn f) (s.fp f a) (s.fp f b))) := rfl

theorem settle_fpFma : settle s (fpFma f d a b c s) =
    s.after (s.roundedInto d f (numFma (s.rdn f) (s.fp f a) (s.fp f b) (s.fp f c))) := rfl

theorem settle_fpSqrt : settle s (fpSqrt f d a s) = s.after (s.roundedInto d f (numSqrt (s.fp f a))) := rfl

end

/-- Settles O15: each form is its exact operation, rounded once into its register. -/
theorem floatArithmetic : Obligations.FloatArithmetic := by
  unfold Obligations.FloatArithmetic
  refine fun s d a b c h => ⟨fun hp => ⟨?_, ?_, ?_, ?_, ?_, ?_⟩, fun hp hw => ⟨?_, ?_, ?_, ?_, ?_, ?_⟩⟩
  · rw [exec_of_run h rfl hp, settle_fpBin]
  · rw [exec_of_run h rfl hp, settle_fpBin]
  · rw [exec_of_run h rfl hp, settle_fpBin]
  · rw [exec_of_run h rfl hp, settle_fpBin]
  · rw [exec_of_run h rfl hp, settle_fpSqrt]
  · rw [exec_of_run h rfl hp, settle_fpFma]
  · rw [exec_of_wide h hw rfl hp, settle_fpBin]
  · rw [exec_of_wide h hw rfl hp, settle_fpBin]
  · rw [exec_of_wide h hw rfl hp, settle_fpBin]
  · rw [exec_of_wide h hw rfl hp, settle_fpBin]
  · rw [exec_of_wide h hw rfl hp, settle_fpSqrt]
  · rw [exec_of_wide h hw rfl hp, settle_fpFma]

end Sys2Proof.Machine
end

section
/-! SUPPORT. What a scalar floating-point word leaves in its thread, classes, signs and conversions (R118, R132 to R136). -/

namespace Sys2Proof.Machine

/-! ## Changes to the executing thread alone -/

theorem elsewhere_refl (s : State) : s.elsewhere s := ⟨rfl, fun _ _ => rfl⟩

theorem State.elsewhere.cur_eq {s t : State} (h : s.elsewhere t) : t.cur = s.cur :=
  congrArg (fun x : State => x.cur) (a₁ := { t with threads := s.threads }) h.1

theorem State.elsewhere.trans {s t u : State} (h : s.elsewhere t) (h' : t.elsewhere u) : s.elsewhere u := by
  have hcur := h.cur_eq
  obtain ⟨hst, hthr⟩ := h
  obtain ⟨htu, hthr'⟩ := h'
  refine ⟨?_, fun k hk => (hthr' k (hcur ▸ hk)).trans (hthr k hk)⟩
  calc { u with threads := s.threads } = { { u with threads := t.threads } with threads := s.threads } := rfl
    _ = { t with threads := s.threads } := by rw [htu]
    _ = s := hst

theorem elsewhere_modMe (s : State) (f : Thread → Thread) : s.elsewhere (s.modMe f) := elsewhere_modThr s f

theorem elsewhere_raise (s : State) (fl : Flags) : s.elsewhere (s.raise s.cur fl) := by
  unfold State.raise
  split
  · exact elsewhere_refl s
  · exact elsewhere_modThr s _

/-- The thread with flags ORed into TSR.FLAGS (R41). -/
def Thread.flagged (th : Thread) (fl : Flags) : Thread := { th with tsr := { th.tsr with flags := th.tsr.flags ||| fl } }

theorem flagged_reg (th : Thread) (fl : Flags) (k : Nat) : (th.flagged fl).reg k = th.reg k := reg_of_g rfl k

theorem raise_thr_same (s : State) (t : Nat) (fl : Flags) : (s.raise t fl).thr t = (s.thr t).flagged fl := by
  unfold State.raise
  split
  next h => rw [h, Thread.flagged, BitVec.or_zero]
  · exact thr_modThr_same ..

/-! ## A result in its register, with its flags and the step of the LFSR (R38, R118) -/

/-- The LFSR takes one step under RST. -/
def Thread.drawn (th : Thread) (mode : Nat) : Thread :=
  if mode = 4 then { th with rndlfsr := lfsrStep th.rndlfsr } else th

theorem drawn_g (th : Thread) (mode : Nat) : (th.drawn mode).g = th.g := by
  unfold Thread.drawn
  split <;> rfl

theorem drawn_tsr (th : Thread) (mode : Nat) : (th.drawn mode).tsr = th.tsr := by
  unfold Thread.drawn
  split <;> rfl

theorem drawn_pc (th : Thread) (mode : Nat) : (th.drawn mode).pc = th.pc := by
  unfold Thread.drawn
  split <;> rfl

theorem drawn_rndlfsr (th : Thread) (mode : Nat) :
    (th.drawn mode).rndlfsr = if mode = 4 then lfsrStep th.rndlfsr else th.rndlfsr := by
  unfold Thread.drawn
  split <;> rfl

/-- The state in which a word has written `v` with flags, rounded under a mode. -/
def State.fpResult (s : State) (d : BitVec 5) (v : Word) (fl : Flags) (mode : Nat) : State :=
  ((if mode = 4 then s.modMe fun th => { th with rndlfsr := lfsrStep th.rndlfsr } else s).setG d v).raise s.cur fl

section
variable (s : State) (d : BitVec 5) (v : Word) (fl : Flags) (mode : Nat)

theorem fpResult_elsewhere : s.elsewhere (s.fpResult d v fl mode) := by
  unfold State.fpResult
  split
  · exact ((elsewhere_modMe s _).trans (elsewhere_modMe _ _)).trans (elsewhere_raise _ _)
  · exact (elsewhere_modMe s _).trans (elsewhere_raise _ _)

theorem fpResult_thr : (s.fpResult d v fl mode).thr s.cur = ((s.me.drawn mode).put d.toNat v).flagged fl := by
  rw [State.fpResult, raise_thr_same, Thread.drawn]
  split
  · rw [State.setG, State.modMe, State.modMe, modThr_cur, thr_modThr_same, thr_modThr_same, State.me]
  · rw [State.setG, State.modMe, thr_modThr_same, State.me]

theorem fpResult_reg (k : Nat) :
    ((s.fpResult d v fl mode).thr s.cur).reg k = if k = d.toNat ∧ k ≠ 0 then v else s.me.reg k := by
  rw [fpResult_thr, flagged_reg, reg_put, reg_of_g (drawn_g s.me mode)]

theorem fpResult_tsr :
    ((s.fpResult d v fl mode).thr s.cur).tsr = { s.me.tsr with flags := s.me.tsr.flags ||| fl } := by
  rw [fpResult_thr, Thread.flagged, put_tsr, drawn_tsr]

theorem fpResult_rndlfsr : ((s.fpResult d v fl mode).thr s.cur).rndlfsr =
    if mode = 4 then lfsrStep s.me.rndlfsr else s.me.rndlfsr := by
  rw [fpResult_thr, ← drawn_rndlfsr]
  exact put_rndlfsr ..

theorem fpResult_pc : ((s.fpResult d v fl mode).thr s.cur).pc = s.me.pc := by
  rw [fpResult_thr, ← drawn_pc s.me mode]
  exact put_pc ..

end

/-- Format, mode and saturate bit with a PFX word pending and without one (R118). -/
theorem fpForm_eq {s : State} {nat fd mode : Nat} {sat : Bool}
    (hp : s.me.tsr.pp = true → fd = pfxD s.me.pfxsave ∧ sat = pfxSat s.me.pfxsave ∧
      mode = (if pfxRm s.me.pfxsave = 7 then s.me.tsr.rm.toNat else pfxRm s.me.pfxsave))
    (hn : s.me.tsr.pp = false → fd = nat ∧ sat = false ∧ mode = s.me.tsr.rm.toNat) :
    s.fpForm nat = (fd, mode, sat) := by
  cases hpp : s.me.tsr.pp
  · obtain ⟨rfl, rfl, rfl⟩ := hn hpp
    simp [State.fpForm, State.pending, hpp]
  · obtain ⟨rfl, rfl, rfl⟩ := hp hpp
    simp [State.fpForm, State.pending, hpp, roundMode]

theorem roundedInto_eq {s : State} {nat fd mode : Nat} {sat : Bool} (h : s.fpForm nat = (fd, mode, sat)) (d : BitVec 5)
    (x : Num × Flags) : s.roundedInto d nat x =
      s.fpResult d (BitVec.ofNat 64 (roundTo fd mode sat (lfsrZ (lfsrStep s.me.rndlfsr)) x.1).1)
        (x.2 ||| (roundTo fd mode sat (lfsrZ (lfsrStep s.me.rndlfsr)) x.1).2) mode := by
  by_cases hm : mode = 4
  · simp only [State.roundedInto, State.fpWrite, State.fpResult, State.setGn, h, hm, if_true, modMe_cur]
  · simp only [State.roundedInto, State.fpWrite, State.fpResult, State.setGn, h, hm, if_false]

/-! ## Operands in a format (R24, R26) -/

theorem readNum_mod {f : Nat} {k : FloatFmt} (hk : floatFmt f = some k) (n : Nat) :
    readNum f (n % 2 ^ (k.fbits + k.ebits + 1)) = readNum f n := by
  have hfrac : n % 2 ^ (k.fbits + k.ebits + 1) % 2 ^ k.fbits = n % 2 ^ k.fbits :=
    Nat.mod_mod_of_dvd n (pow_dvd_pow 2 (by omega))
  have hexp : n % 2 ^ (k.fbits + k.ebits + 1) / 2 ^ k.fbits % 2 ^ k.ebits = n / 2 ^ k.fbits % 2 ^ k.ebits := by
    rw [Nat.add_assoc, Nat.pow_add, Nat.mod_mul_right_div_self, Nat.mod_mod_of_dvd _ (pow_dvd_pow 2 (by omega))]
  have hneg : bitAt (n % 2 ^ (k.fbits + k.ebits + 1)) (k.fbits + k.ebits) = bitAt n (k.fbits + k.ebits) := by
    simp [bitAt, Nat.testBit_mod_two_pow]
  simp only [readNum, hk, hfrac, hexp, hneg]

section
variable {s : State} {f : Nat} (hf : s.hasFormat f)
include hf

theorem floatFmt_width : ∃ k, floatFmt f = some k ∧ fmtWidth f = k.fbits + k.ebits + 1 := by
  rcases hf with rfl | ⟨rfl, -⟩ <;> exact ⟨_, rfl, rfl⟩

theorem readNum_low (n : Nat) : readNum f (n % 2 ^ fmtWidth f) = readNum f n := by
  obtain ⟨k, hk, hw⟩ := floatFmt_width hf
  rw [hw, readNum_mod hk]

end

/-! ## Class and sign (R132) -/

/-- The class mask names one class, and the infinities and NaNs are told by their own. -/
theorem fpClassOf_spec {f : Nat} {k : FloatFmt} (hk : floatFmt f = some k) (n : Nat) :
    ∃ j, fpClassOf f n = 2 ^ j ∧ j < 10 ∧ (j = 0 ↔ readNum f n = .inf true) ∧ (j = 7 ↔ readNum f n = .inf false) ∧
      (j = 8 ↔ readNum f n = .nan true) ∧ (j = 9 ↔ readNum f n = .nan false) := by
  unfold fpClassOf
  rw [hk]
  cases readNum f n with
  | nan sig =>
    cases sig
    · exact ⟨9, by simp⟩
    · exact ⟨8, by simp⟩
  | inf neg =>
    cases neg
    · exact ⟨7, by simp⟩
    · exact ⟨0, by simp⟩
  | fin neg man exp st =>
    dsimp only
    split
    · cases neg
      · exact ⟨4, by simp⟩
      · exact ⟨3, by simp⟩
    · split
      · cases neg
        · exact ⟨5, by simp⟩
        · exact ⟨2, by simp⟩
      · cases neg
        · exact ⟨6, by simp⟩
        · exact ⟨1, by simp⟩

theorem testBit_bit (b : Bool) (j : Nat) : (bit b).testBit j = (decide (j = 0) && b) := by
  cases b <;> cases j <;> simp [bit, Nat.testBit_succ]

/-- The sign that FSGN and DSGN give their result. -/
def sgnBit (m : Nat) (sx sy : Bool) : Bool := if m = 0 then sy else if m = 1 then !sy else sx ^^ sy

theorem fpSgn_testBit (f m x y j : Nat) : (fpSgn f m x y).testBit j =
    if j < fmtWidth f - 1 then x.testBit j
    else decide (j = fmtWidth f - 1) && sgnBit m (x.testBit (fmtWidth f - 1)) (y.testBit (fmtWidth f - 1)) := by
  have hlt : x % 2 ^ (fmtWidth f - 1) < 2 ^ (fmtWidth f - 1) := Nat.mod_lt _ (by positivity)
  rw [fpSgn, Nat.add_comm, Nat.mul_comm, Nat.testBit_two_pow_mul_add _ hlt, testBit_bit]
  split
  next h => simp [h]
  next h =>
    congr 1
    exact decide_eq_decide.mpr (by omega)

theorem fpSgn_bits {s : State} {f : Nat} (hf : s.hasFormat f) (m : BitVec 5) (x y : Nat) :
    (∀ j, j < fmtWidth f - 1 → (fpSgn f m.toNat x y).testBit j = (x % 2 ^ fmtWidth f).testBit j) ∧
      (∀ j, fmtWidth f - 1 < j → (fpSgn f m.toNat x y).testBit j = false) ∧
      (fpSgn f m.toNat x y).testBit (fmtWidth f - 1) =
        if m = 0 then (y % 2 ^ fmtWidth f).testBit (fmtWidth f - 1)
        else if m = 1 then !(y % 2 ^ fmtWidth f).testBit (fmtWidth f - 1)
        else (x % 2 ^ fmtWidth f).testBit (fmtWidth f - 1) ^^ (y % 2 ^ fmtWidth f).testBit (fmtWidth f - 1) := by
  obtain ⟨k, -, hw⟩ := floatFmt_width hf
  have low (n : Nat) {j : Nat} (hj : j ≤ fmtWidth f - 1) : (n % 2 ^ fmtWidth f).testBit j = n.testBit j := by
    rw [Nat.testBit_mod_two_pow, decide_eq_true (by omega), Bool.true_and]
  have h0 : m.toNat = 0 ↔ m = 0 := BitVec.toNat_inj (y := 0#5)
  have h1 : m.toNat = 1 ↔ m = 1 := BitVec.toNat_inj (y := 1#5)
  refine ⟨fun j hj => ?_, fun j hj => ?_, ?_⟩
  · rw [fpSgn_testBit, if_pos hj, low x hj.le]
  · rw [fpSgn_testBit, if_neg (by omega), decide_eq_false (by omega), Bool.false_and]
  · simp only [fpSgn_testBit, lt_irrefl, if_false, decide_true, Bool.true_and, sgnBit, h0, h1, low _ le_rfl]

/-! ## The statement -/

theorem settle_fpCvt {s : State} (h : s.me.tsr.pp = false) (d a : BitVec 5) {fs fd : Nat} {r : Nat × Flags}
    (hr : r = convertBits fs fd s.me.tsr.rm.toNat false (lfsrZ (lfsrStep s.me.rndlfsr)) (s.gn a % 2 ^ fmtWidth fs)) :
    settle s (fpCvt d a fs fd s) = s.after (s.fpResult d (cvtResult fd r.1) r.2 s.me.tsr.rm.toNat) := by
  have hp : s.pending = none := by simp [State.pending, h]
  subst hr
  by_cases hm : s.me.tsr.rm.toNat = 4
  · simp only [fpCvt, hp, roundMode, hm, if_true, State.fpResult, settle_done, modMe_cur]
  · simp only [fpCvt, hp, roundMode, hm, if_false, State.fpResult, settle_done]

theorem settle_fpMinMax {s : State} (f : Nat) (wantMax : Bool) (d a b : BitVec 5) {r : Nat × Flags}
    (hr : r = minMaxBits f wantMax (s.gn a % 2 ^ fmtWidth f) (s.gn b % 2 ^ fmtWidth f)) :
    settle s (fpMinMax f wantMax d a b s) = s.after ((s.setGn d r.1).raise s.cur r.2) := by
  subst hr
  rfl

theorem settle_fpCmp {s : State} {f : Nat} (hf : s.hasFormat f) (d a b c : BitVec 5) {r : Bool × Flags}
    (hr : r = numCmp c.toNat (readNum f (s.gn a % 2 ^ fmtWidth f)) (readNum f (s.gn b % 2 ^ fmtWidth f))) :
    settle s (fpCmp f d a b c s) = s.after ((s.setG d (if r.1 then 1 else 0)).raise s.cur r.2) := by
  rw [readNum_low hf, readNum_low hf] at hr
  subst hr
  rfl

section
variable {s : State} (h : s.Plain) {f : Nat} (hf : s.hasFormat f) (d a b : BitVec 5)
include h hf

theorem exec_minimum : exec (if f = 4 then .fmin d a b else .dmin d a b) s =
    .next (settle s (fpMinMax f false d a b s)) :=
  exec_ofFormat (body := fun f => fpMinMax f false d a b) hf (by rw [exec_of_run h.alone rfl (State.prefixFits_none h _)])
    fun hw => by rw [exec_of_wide h.alone hw rfl (State.prefixFits_none h _)]

theorem exec_maximum : exec (if f = 4 then .fmax d a b else .dmax d a b) s =
    .next (settle s (fpMinMax f true d a b s)) :=
  exec_ofFormat (body := fun f => fpMinMax f true d a b) hf (by rw [exec_of_run h.alone rfl (State.prefixFits_none h _)])
    fun hw => by rw [exec_of_wide h.alone hw rfl (State.prefixFits_none h _)]

theorem exec_compare (c : BitVec 5) : exec (if f = 4 then .fcmp d a b c else .dcmp d a b c) s =
    .next (settle s (fpCmp f d a b c s)) :=
  exec_ofFormat (body := fun f => fpCmp f d a b c) hf (by rw [exec_of_run h.alone rfl (State.prefixFits_none h _)])
    fun hw => by rw [exec_of_wide h.alone hw rfl (State.prefixFits_none h _)]

theorem exec_class : exec (if f = 4 then .fclass d a else .dclass d a) s =
    .next (s.after (s.setG d (BitVec.ofNat 64 (fpClassOf f (s.gn a))))) :=
  exec_ofFormat (body := fun f s => .done (s.setG d (BitVec.ofNat 64 (fpClassOf f (s.gn a))))) hf
    (by rw [exec_of_run h.alone rfl (State.prefixFits_none h _)])
    fun hw => by rw [exec_of_wide h.alone hw rfl (State.prefixFits_none h _)]

theorem exec_sign (m : BitVec 5) : exec (if f = 4 then .fsgn d a b m else .dsgn d a b m) s =
    .next (s.after (s.setGn d (fpSgn f m.toNat (s.gn a) (s.gn b)))) :=
  exec_ofFormat (body := fun f s => .done (s.setGn d (fpSgn f m.toNat (s.gn a) (s.gn b)))) hf
    (by rw [exec_of_run h.alone rfl (State.prefixFits_none h _)]; rfl)
    fun hw => by rw [exec_of_wide h.alone hw rfl (State.prefixFits_none h _)]; rfl

theorem exec_convert (fs fd : BitVec 4) : exec (if f = 4 then .fcvt d a fs fd else .dcvt d a fs fd) s =
    .next (settle s (fpCvt d a fs.toNat fd.toNat s)) :=
  exec_ofFormat (body := fun _ => fpCvt d a fs.toNat fd.toNat) hf
    (by rw [exec_of_run h.alone rfl (State.prefixFits_none h _)])
    fun hw => by rw [exec_of_wide h.alone hw rfl (State.prefixFits_none h _)]

end

/-- Settles O16: what a rounding and a conversion leave is `fpResult`; each other form writes its own value. -/
theorem floatRounding : Obligations.FloatRounding := by
  unfold Obligations.FloatRounding
  refine ⟨?_, fun s d a b h f hf x y hx hy => ?_⟩
  · rintro s t d nat v fl fd mode sat rfl hp hn r rfl
    rw [roundedInto_eq (fpForm_eq hp hn), BitVec.or_assoc]
    exact ⟨fpResult_elsewhere .., fpResult_reg s d _ _ mode, fpResult_tsr .., fpResult_rndlfsr .., fpResult_pc ..⟩
  · subst hx hy
    obtain ⟨k, hk, hw⟩ := floatFmt_width hf
    refine ⟨fun r hr => ?_, fun r hr => ?_, fun c r hr => ?_, ?_, fun m hm => ⟨_, exec_sign h hf d a b m, ?_⟩, ?_⟩
    · rw [exec_minimum h hf, settle_fpMinMax f false d a b hr]
    · rw [exec_maximum h hf, settle_fpMinMax f true d a b hr]
    · rw [exec_compare h hf, settle_fpCmp hf d a b c hr]
    · rw [exec_class h hf, readNum_low hf]
      obtain ⟨j, hj, hclass⟩ := fpClassOf_spec hk (s.gn a)
      exact ⟨j, by rw [hj], hclass⟩
    · rintro w rfl
      exact fpSgn_bits hf m _ _
    · rintro fs fd - - r hr
      refine ⟨_, (exec_convert h hf d a fs fd).trans (congrArg _ (settle_fpCvt h.noPrefix d a hr)),
        fpResult_elsewhere .., fpResult_tsr .., fpResult_reg s d _ _ _⟩

end Sys2Proof.Machine
end

section
/-! SUPPORT. TRAP, PARK, TEXIT, TFORK, BSIG, PFX and REP: what each leaves in its thread, in a new thread and on the agenda
(R65, R96, R141 to R148). -/

namespace Sys2Proof.Machine

open Laws.RoundTrip (fieldAbove fieldBelow fieldWhole)

/-! ## TRAP (R141) -/

/-- The low half of TCAUSE is the code with the detail above it. -/
theorem tcause_low {a d : Nat} (ha : a < 256) (hd : d < 256) (r b : Bool) :
    (BitVec.ofNat 18 (a % 256 + (d % 256) <<< 8 + bit r <<< 16 + bit b <<< 17)).toNat % 65536 = a + d * 256 := by
  simp only [BitVec.toNat_ofNat, Nat.shiftLeft_eq, Nat.reducePow]
  omega

/-- TRAP counts as executed: its thread enters the handler with what is left of its signed block after the word. -/
def State.trapped (s : State) : State := s.modMe fun th => { th with blk := th.blkNext }

theorem trapped_me (s : State) : s.trapped.thr s.cur = { s.me with blk := s.me.blkNext } := thr_modThr_same ..

theorem exec_trap {s : State} (h : s.Plain) (a n : BitVec 5) : exec (.trap a n) s =
    .next (s.trapped.takeTrapAt s.cur { code := 5, detail := n.toNat, tval := s.g a } (s.me.pc + 4) false) := by
  rw [exec_of_run h.alone rfl (State.prefixFits_none h _)]
  rfl

theorem trap_entered {s t : State} (hth : s.me.tsr.th = false) {v : Word} {n : BitVec 5}
    (ht : t = s.trapped.takeTrapAt s.cur { code := 5, detail := n.toNat, tval := v } (s.me.pc + 4) false) :
    (t.thr s.cur).tepc = s.me.pc + 4 ∧ (t.thr s.cur).tval = v ∧ (t.thr s.cur).tcause.toNat % 65536 = 5 + n.toNat * 256 ∧
      (t.thr s.cur).tsr.th = true ∧ (t.thr s.cur).g = s.me.g ∧ t.mem = s.mem := by
  have hth' : (s.trapped.thr s.cur).tsr.th = false := by rw [trapped_me, hth]
  rw [ht, takeTrapAt_thr hth', trapped_me]
  exact ⟨rfl, rfl, tcause_low (a := 5) (by decide) (n.isLt.trans (by decide)) .., rfl, rfl,
    (takeTrapAt_memory hth' ..).1⟩

/-! ## PARK and TEXIT (R143, R144) -/

theorem dueOnce_agendaOnly (s : State) (e : Instr) (l : List Instr) :
    { s.dueOnce e with agenda := l } = { s with agenda := l } := by
  unfold State.dueOnce
  split <;> rfl

theorem State.elsewhere.agenda_kept {s t : State} (h : s.elsewhere t) : s.elsewhere { t with agenda := s.agenda } := by
  obtain ⟨hst, hthr⟩ := h
  refine ⟨?_, hthr⟩
  calc { { t with agenda := s.agenda } with threads := s.threads } =
        { { t with threads := s.threads } with agenda := s.agenda } := rfl
    _ = { s with agenda := s.agenda } := by rw [hst]
    _ = s := rfl

/-- A park changes its thread, and of the rest only the agenda. -/
theorem park_same (s : State) (w : Park) (o : Op) : s.elsewhere { s.park s.cur w o with agenda := s.agenda } := by
  have hagenda (u : State) : { u.offerInterrupt s.cur with agenda := s.agenda } = { u with agenda := s.agenda } := by
    unfold State.offerInterrupt
    split
    · exact dueOnce_agendaOnly ..
    · rfl
  rw [State.park, hagenda]
  exact (elsewhere_modThr s _).agenda_kept

section
variable {s : State} (h : s.Plain) (a : BitVec 5)
include h

theorem exec_park : exec (.park a) s = .next (settle s (parkBody a s)) := by
  rw [exec_of_run h.alone rfl (State.prefixFits_none h _)]

theorem exec_park_zero (hn : s.gn a = 0) : exec (.park a) s = .next (s.after s) := by
  have hbody : parkBody a s = .done s := by simp [parkBody, hn]
  rw [exec_park h, hbody, settle_done]

theorem fresh_phase : s.me.op.phase ≠ 1 := by
  rw [h.alone.freshOp]
  decide

theorem exec_park_forever (hn : s.gn a = 2 ^ 64 - 1) : exec (.park a) s = .next (s.park s.cur .sleep {}) := by
  have hbody : parkBody a s = .keep (s.park s.cur .sleep {}) := by simp [parkBody, hn, fresh_phase h]
  rw [exec_park h, hbody]
  rfl

theorem exec_park_until (h0 : s.gn a ≠ 0) (hn : s.gn a ≠ 2 ^ 64 - 1) : exec (.park a) s =
    .next ((s.park s.cur .sleep { deadline := some (s.cycle + s.gn a) }).due (.sleepDeadline s.cur)) := by
  have hbody : parkBody a s =
      .keep ((s.park s.cur .sleep { deadline := some (s.cycle + s.gn a) }).due (.sleepDeadline s.cur)) := by
    simp only [parkBody, h0, fresh_phase h, hn, decide_false, Bool.or_self, Bool.false_eq_true, if_false]
  rw [exec_park h, hbody]
  rfl

theorem exec_texit : exec .texit s =
    .next ((s.park s.cur .engine { aux := 0x54 }).due (.texitDrainDone s.cur)) := by
  rw [exec_of_run h.alone rfl (State.prefixFits_none h _)]
  rfl

end

/-! ## PFX (R64, R65, R147) -/

theorem getLsbD_of_field {n : Nat} (p : BitVec n) (i : Nat) : p.getLsbD i = (p.extractLsb' i 1).getLsbD 0 := by
  rw [BitVec.getLsbD_extractLsb']
  rfl

theorem getLsbD_zero_iff (x : BitVec 1) : x.getLsbD 0 = true ↔ x = 1 := by
  revert x
  decide

/-- The fields of a payload of layout K = 0. -/
theorem pfx_fields {p : BitVec 26} {a b d : BitVec 4} {r : BitVec 3} {x : BitVec 1} {e : BitVec 2}
    (hp : p = 0#1 ++ a ++ b ++ d ++ r ++ x ++ e ++ 0#7) :
    pfxA p = a.toNat ∧ pfxB p = b.toNat ∧ pfxD p = d.toNat ∧ pfxRm p = r.toNat ∧ (pfxSat p = true ↔ x = 1) ∧
      pfxSsel p = e.toNat := by
  have hk := congrArg (BitVec.extractLsb' 25 1) hp
  have ha := congrArg (BitVec.extractLsb' 21 4) hp
  have hb := congrArg (BitVec.extractLsb' 17 4) hp
  have hd := congrArg (BitVec.extractLsb' 13 4) hp
  have hr := congrArg (BitVec.extractLsb' 10 3) hp
  have hx := congrArg (BitVec.extractLsb' 9 1) hp
  have he := congrArg (BitVec.extractLsb' 7 2) hp
  simp (disch := decide) only [fieldAbove, fieldBelow, fieldWhole, Nat.reduceSub] at hk ha hb hd hr hx he
  have hK : pfxK p = false := by rw [pfxK, getLsbD_of_field, hk]; rfl
  have hS : pfxSat p = x.getLsbD 0 := by rw [pfxSat, getLsbD_of_field, hx]
  simp only [pfxA, pfxB, pfxD, pfxRm, pfxSsel, hK, hS, Bool.false_eq_true, if_false, ha, hb, hd, hr, he,
    getLsbD_zero_iff, and_self]

/-- The fields of a payload of layout K = 1. -/
theorem pfxTag_fields {p : BitVec 26} {g : BitVec 12} {r : BitVec 3} {x : BitVec 1} {f d : BitVec 4}
    (hp : p = 1#1 ++ g ++ r ++ x ++ f ++ d ++ 0#1) :
    pfxTag p = g.toNat ∧ pfxA p = f.toNat ∧ pfxB p = f.toNat ∧ pfxD p = d.toNat ∧ pfxRm p = r.toNat := by
  have hk := congrArg (BitVec.extractLsb' 25 1) hp
  have hg := congrArg (BitVec.extractLsb' 13 12) hp
  have hr := congrArg (BitVec.extractLsb' 10 3) hp
  have hf := congrArg (BitVec.extractLsb' 5 4) hp
  have hd := congrArg (BitVec.extractLsb' 1 4) hp
  simp (disch := decide) only [fieldAbove, fieldBelow, fieldWhole, Nat.reduceSub] at hk hg hr hf hd
  have hK : pfxK p = true := by rw [pfxK, getLsbD_of_field, hk]; rfl
  simp only [pfxTag, pfxA, pfxB, pfxD, pfxRm, hK, if_true, hg, hf, hd, hr, and_self]

/-- A PFX word saves its payload and leaves it pending. -/
def State.prefixed (s : State) (p : BitVec 26) : State :=
  s.after (s.modMe fun th => { th with pfxsave := p, tsr := { th.tsr with pp := true } })

theorem prefixed_thr {s : State} (h : s.Plain) (p : BitVec 26) : (s.prefixed p).thr s.cur =
    { s.me with pfxsave := p, tsr := { s.me.tsr with pp := true } }.complete (s.me.pc + 4) false := by
  rw [State.prefixed, thr_after_modMe, h.noPrefix]

theorem exec_pfx {s : State} (h : s.Plain) (a b d : BitVec 4) (r : BitVec 3) (x : BitVec 1) (e : BitVec 2) :
    exec (.pfx a b d r x e) s = .next (s.prefixed (0#1 ++ a ++ b ++ d ++ r ++ x ++ e ++ 0#7)) := by
  rw [exec_of_run h.alone rfl (State.prefixFits_none h _)]
  rfl

theorem exec_pfxTag {s : State} (h : s.Plain) (g : BitVec 12) (r : BitVec 3) (x : BitVec 1) (f d : BitVec 4) :
    exec (.pfxTag g r x f d) s = .next (s.prefixed (1#1 ++ g ++ r ++ x ++ f ++ d ++ 0#1)) := by
  rw [exec_of_run h.alone rfl (State.prefixFits_none h _)]
  rfl

/-! ## BSIG and REP (R67, R146, R148) -/

theorem exec_bsig {s : State} (h : s.Plain) (l : BitVec 10) (c : BitVec 16) :
    exec (.bsig l c) s = .next (s.after s) := by
  rw [exec_of_run h.alone rfl (State.prefixFits_none h _), settle_done]

theorem unissued_of_idle {th : Thread} (h : th.replaying = false) : th.unissued = false := by
  rw [Thread.replaying, Bool.or_eq_false_iff] at h
  have hfly : th.fly = none := Option.not_isSome_iff_eq_none.mp (by rw [h.2]; decide)
  simp [Thread.unissued, Thread.flyHold, h.1, hfly]

theorem exec_rep {s : State} (h : s.Plain) (n : BitVec 4) (k : BitVec 8) (x : BitVec 4) : exec (.rep n k x) s =
    .next (s.after (s.modMe fun th =>
      { th with rep := { want := n.toNat + 1, k := k.toNat + 1, s := x.toNat } })) := by
  have hbody : repBody n k x s = .done (s.modMe fun th =>
      { th with rep := { want := n.toNat + 1, k := k.toNat + 1, s := x.toNat } }) :=
    if_neg (ne_true_of_eq_false (unissued_of_idle h.alone.noReplays))
  rw [exec_of_run h.alone rfl (State.prefixFits_none h _), hbody, settle_done]

/-! ## TFORK (R96, R98, R145) -/

/-- The thread that TFORK creates: its pc, g1 and g8, and what it takes over from its parent. -/
theorem child_reg (p : Thread) (c : Nat) (pc arg : Word) :
    (p.child c pc arg).reg 1 = BitVec.ofNat 64 c ∧ (p.child c pc arg).reg 8 = arg ∧ (p.child c pc arg).reg 2 = 0 := by
  refine ⟨?_, ?_, ?_⟩
  · rw [Thread.child, reg_put_other _ _ (by decide), reg_put_same _ _ (by decide) (by decide)]
  · rw [Thread.child, reg_put_same _ _ (by decide) (by decide)]
  · rw [Thread.child, reg_put_other _ _ (by decide), reg_put_other _ _ (by decide)]
    rfl

theorem child_inherits (p : Thread) (c : Nat) (pc arg : Word) :
    (p.child c pc arg).pc = pc ∧ (p.child c pc arg).tsr.pl = p.tsr.pl ∧ (p.child c pc arg).tsr.th = false ∧
      (p.child c pc arg).fn = p.fn ∧ (p.child c pc arg).segs = p.segs ∧ (p.child c pc arg).stvec = p.stvec := by
  simp [Thread.child]

section
variable {s : State} (h : s.Plain) (d a b : BitVec 5)
include h

theorem exec_tfork : exec (.tfork d a b) s = .next (settle s (tforkBody d a b s)) := by
  rw [exec_of_run h.alone rfl (State.prefixFits_none h _)]

theorem tfork_misaligned (ha : (s.g a).extractLsb' 0 2 ≠ 0) :
    exec (.tfork d a b) s = .next (s.takeTrapAt s.cur { code := 9, tval := s.g a } s.me.pc false) := by
  have hbody : tforkBody d a b s = raise cMisalign (s.g a) 0 s := if_pos (bne_iff_ne.mpr ha)
  rw [exec_tfork h, hbody]
  rfl

variable (ha : (s.g a).extractLsb' 0 2 = 0) (hin : (s.core s.here).inbound = []) (hsp : (s.core s.here).spillCount = 0)
include ha hin hsp

theorem tfork_full (hs : s.freeSlot s.here false = none) :
    exec (.tfork d a b) s = .next (s.after (s.setG d (BitVec.allOnes 64))) := by
  have hbody : tforkBody d a b s = .done (s.setG d (BitVec.allOnes 64)) := by
    simp [tforkBody, ha, hin, hsp, h.alone.single, hs]
  rw [exec_tfork h, hbody, settle_done]

theorem tfork_creates {i : Nat} (hs : s.freeSlot s.here false = some i) : exec (.tfork d a b) s =
    .next (s.after ((s.birth (s.here * 16 + i) (s.me.child s.here (s.g a) (s.g b))).setGn d i)) := by
  have hbody : tforkBody d a b s =
      .done ((s.birth (s.here * 16 + i) (s.me.child s.here (s.g a) (s.g b))).setGn d i) := by
    simp [tforkBody, ha, hin, hsp, h.alone.single, hs]
  rw [exec_tfork h, hbody, settle_done]

end

/-- A created thread beside its parent's result: the child as it was born, and gd of the parent. -/
theorem birth_setGn_thr {s : State} {k : Nat} (hk : k ≠ s.cur) (c : Thread) (d : BitVec 5) (i : Nat) :
    ((s.after ((s.birth k c).setGn d i)).thr k =
      { c with st := .run, slot := slotOf k, gen := (s.thr k).gen, unanswered := (s.thr k).unanswered }) ∧
    (s.after ((s.birth k c).setGn d i)).thr s.cur =
      (s.me.put d.toNat (BitVec.ofNat 64 i)).complete (s.me.pc + 4) s.me.tsr.pp := by
  have hcur : ((s.birth k c).setGn d i).thr s.cur = s.me.put d.toNat (BitVec.ofNat 64 i) := by
    have hme : (s.birth k c).thr s.cur = s.me := birth_thr_other c hk.symm
    exact (thr_modThr_same ..).trans (by rw [← hme]; rfl)
  refine ⟨?_, ?_⟩
  · calc (s.after ((s.birth k c).setGn d i)).thr k
        = ((s.birth k c).setGn d i).thr k := thr_modThr_other _ _ hk
      _ = (s.birth k c).thr k := thr_modThr_other _ _ hk
      _ = _ := birth_thr_same ..
  · rw [after_def, thr_modThr_same, hcur]

/-- A completed word reads back what it wrote. -/
theorem read_complete_put {d : BitVec 5} (hd : d ≠ 0) (th : Thread) (v pc : Word) (b : Bool) :
    ((th.put d.toNat v).complete pc b).reg d.toNat = v := by
  rw [reg_complete, reg_put_same _ _ (fun h0 => hd (BitVec.eq_of_toNat_eq h0)) d.isLt]

/-- A taken branch or a jump is a transfer. -/
theorem exec_transfer {s : State} {ins : Instr} {a b : BitVec 5} {i : BitVec 16} (h : s.Plain)
    (hi : s.branchesIf ins a b i True ∨ ∃ x, ins = .j x) : ∃ pc, exec ins s = .next (settle s (.goto s pc)) := by
  rcases hi with hi | ⟨x, rfl⟩
  · obtain ⟨taken, htaken, hexec⟩ := exec_branch h hi
    rw [htaken.mpr trivial] at hexec
    exact ⟨_, hexec⟩
  · exact ⟨_, by rw [exec_of_run h.alone rfl (State.prefixFits_none h _)]⟩

/-- Settles O20: each form by its rule above; a transfer inside an open block is `goto_openBlock`. -/
theorem threadControl : Obligations.ThreadControl := by
  unfold Obligations.ThreadControl
  refine ⟨fun s a n h => ⟨?_, exec_park_zero h a, fun hn => ?_, fun h0 hn => ?_, ?_⟩,
    fun s h => ⟨exec_bsig h, ?_, ?_, ?_⟩,
    fun s d a b h => ⟨tfork_misaligned h d a b, fun ha hin hsp => ⟨tfork_full h d a b ha hin hsp, fun i hi hk => ?_⟩⟩,
    fun s a b i ins h hb hi => ?_⟩
  · refine ⟨_, exec_trap h a n, fun hth => takeTrapAt_kills ?_ .., fun hth => trap_entered hth rfl⟩
    rw [trapped_me, hth]
  · refine ⟨_, exec_park_forever h a hn, park_same .., ?_⟩
    rw [park_thr_same]
    exact ⟨rfl, rfl, rfl, rfl⟩
  · refine ⟨_, exec_park_until h a h0 hn, ?_⟩
    rw [due_thr, park_thr_same]
    exact ⟨rfl, rfl, rfl, rfl, mem_due_agenda.mpr (.inr rfl), park_same ..⟩
  · refine ⟨_, exec_texit h, ?_⟩
    rw [due_thr, park_thr_same, park_engine]
    exact ⟨rfl, rfl, rfl⟩
  · intro a b d r x e
    obtain ⟨ha, hb, hd, hr, hx, he⟩ := pfx_fields (a := a) (b := b) (d := d) (r := r) (x := x) (e := e) rfl
    refine ⟨_, exec_pfx h .., elsewhere_after_modMe .., ?_⟩
    rw [prefixed_thr h]
    exact ⟨rfl, ha, hb, hd, hr, hx, he, rfl, rfl⟩
  · intro g r x f d
    obtain ⟨hg, ha, hb, hd, hr⟩ := pfxTag_fields (g := g) (r := r) (x := x) (f := f) (d := d) rfl
    refine ⟨_, exec_pfxTag h .., elsewhere_after_modMe .., ?_⟩
    rw [prefixed_thr h]
    exact ⟨rfl, hg, ha, hb, hd, hr, rfl, rfl⟩
  · intro n k x
    refine ⟨_, exec_rep h n k x, elsewhere_after_modMe .., ?_⟩
    rw [thr_after_modMe]
    exact ⟨rfl, rfl, rfl, rfl, rfl⟩
  · obtain ⟨hchild, hparent⟩ := birth_setGn_thr hk (s.me.child s.here (s.g a) (s.g b)) d i
    obtain ⟨hpc, hpl, hth, hfn, hsegs, hvec⟩ := child_inherits s.me s.here (s.g a) (s.g b)
    obtain ⟨h1, h8, h2⟩ := child_reg s.me s.here (s.g a) (s.g b)
    refine ⟨_, _, tfork_creates h d a b ha hin hsp hi, rfl, ?_⟩
    rw [hchild, hparent]
    exact ⟨rfl, hpc, h1, h8, h2, hpl, hth, hfn, hsegs, hvec, fun hd => read_complete_put hd .., rfl, rfl⟩
  · have htaken : s.branchesIf ins a b i True ∨ ∃ x, ins = .j x := by
      simpa only [State.branchesIf, eq_iff_iff, true_iff, or_assoc] using hi
    obtain ⟨pc, hexec⟩ := exec_transfer h htaken
    rw [hexec, goto_openBlock hb]

end Sys2Proof.Machine
end

section
/-! SUPPORT. The bytes of a wide access, the segment registers and the segment check (R24, R153, R154, R176). -/

namespace Sys2Proof.Machine

/-! ## The bytes of a number (R24) -/

/-- What `n` bytes hold of a number, least significant first. -/
theorem ofBytes_toBytes (n x : Nat) : ofBytes (toBytes n x) = x % 256 ^ n := by
  induction n generalizing x with
  | zero => simp [toBytes, ofBytes, Nat.mod_one]
  | succ n ih => rw [toBytes, ofBytes, ih, BitVec.toNat_ofNat, Nat.pow_succ' (m := 256), Nat.mod_mul (a := 256)]

/-- Settles O23: writes keep the canonical form, are read back and touch their own bytes alone. -/
theorem memoryReadAfterWrite : Obligations.MemoryReadAfterWrite := by
  unfold Obligations.MemoryReadAfterWrite
  refine fun m a b n bs h => ⟨memWrite_wf bs m a h, memRead_memWrite_same bs m a h, memGet_memWrite_other bs m,
    memRead_memWrite_other bs m a n, ?_⟩
  rw [ofBytes_toBytes, Nat.mod_mod]

/-! ## SEGR and SEGW (R153, R176) -/

theorem segField_cases (f : BitVec 2) : f = 0 ∨ f = 1 ∨ f = 2 ∨ f = 3 := by
  revert f
  decide

/-- The fields of a segment register by their numbers. -/
theorem seg_word (g : Seg) (f : BitVec 2) : g.word f.toNat =
    if f = 0 then g.base else if f = 1 then BitVec.ofNat 64 g.limit else g.rights.zeroExtend 64 := by
  rcases segField_cases f with rfl | rfl | rfl | rfl <;> rfl

theorem seg_write (g : Seg) (f : BitVec 2) (w : Word) : g.write f.toNat w =
    if f = 0 then { g with base := w &&& ~~~63#64 }
    else if f = 1 then { g with limit := w.toNat % 2 ^ 61 } else { g with rights := w.setWidth 6 } := by
  rcases segField_cases f with rfl | rfl | rfl | rfl <;> rfl

theorem vget_vmod {α : Type} {n : Nat} (d : α) (v : Vector α n) (f : α → α) {i : Nat} (hi : i < n) (j : Nat) :
    vget d (vmod d v i f) j = if j = i then f (vget d v j) else vget d v j := by
  by_cases h : j = i
  · rw [if_pos h, h, vget_vmod_same d v f hi]
  · rw [if_neg h]
    simp [vmod, vget, List.getD_eq_getElem?_getD, List.getElem?_set_ne (Ne.symm h)]

/-- The thread after SEGW: one field of one segment register is written, and the fetch buffer is empty. -/
def Thread.segWritten (th : Thread) (n f : Nat) (w : Word) : Thread :=
  { th with segs := vmod {} th.segs n (fun g => g.write f w), fbuf := [], ahead := none }

section
variable {s : State} (h : s.Plain)
include h

theorem exec_segr (d : BitVec 5) (f : BitVec 2) (n : BitVec 3) :
    exec (.segr d f n) s = .next (s.after (s.setG d ((s.me.seg n.toNat).word f.toNat))) := by
  rw [exec_of_runG h rfl]

theorem exec_segw (hl : 1 ≤ s.level) (a : BitVec 5) (f : BitVec 2) (n : BitVec 3) :
    exec (.segw a f n) s = .next (s.after (s.modMe fun th => th.segWritten n.toNat f.toNat (s.g a))) := by
  have hm : majorNat (27#6 ++ 0#5 ++ a ++ 0#5 ++ f ++ n ++ 2#6) = 27 := by
    simp (disch := decide) only [majorNat, Laws.RoundTrip.fieldAbove, Laws.RoundTrip.fieldWhole, Nat.reduceSub]
    decide
  exact run_major h.alone 27 hm (by decide) (by decide) rfl hl (State.prefixFits_none h _)

end

theorem segWritten_seg (th : Thread) (f : BitVec 2) (n : BitVec 3) (w : Word) (m : Nat) :
    (th.segWritten n.toNat f.toNat w).seg m = if m = n.toNat then (th.seg m).write f.toNat w else th.seg m :=
  vget_vmod _ _ _ n.isLt m

/-! ## The segment check of levels U and S (R154) -/

theorem segment_field (ea : Word) : field ea.toNat 63 61 = ea.toNat / 2 ^ 61 := by
  have hlt := ea.isLt
  simp only [field, Nat.shiftRight_eq_div_pow]
  omega

theorem offset_field (ea : Word) : field ea.toNat 60 0 = ea.toNat % 2 ^ 61 := rfl

/-- The outcome of a failed segment check. -/
def segFault (d : Nat) (ea : Word) : Except Cause (Word × Dest × Nat) := .error { code := 8, detail := d, tval := ea }

/-- The last steps of the check: one unit holds all of the access, and a unit outside the home takes right M. -/
def State.unitCheck (s : State) (th : Thread) (g : Seg) (ea da : Word) (size : Nat) :
    Except Cause (Word × Dest × Nat) :=
  match s.locate da, s.locate (da + BitVec.ofNat 64 (size - 1)) with
  | some x, some y =>
    if unitOf x ≠ unitOf y then segFault 2 ea
    else if !g.rights.getLsbD 4 && !homeUnit th.home x.1 then segFault 1 ea
    else .ok (da, x)
  | _, _ => segFault 2 ea

section
variable {s : State} {th : Thread} {size : Nat} {ea da : Word} {g : Seg}

theorem unitCheck_nowhere (h : s.locate da = none ∨ s.locate (da + BitVec.ofNat 64 (size - 1)) = none ∨
      (s.locate da).map unitOf ≠ (s.locate (da + BitVec.ofNat 64 (size - 1))).map unitOf) :
    s.unitCheck th g ea da size = segFault 2 ea := by
  unfold State.unitCheck
  split
  next x y hx hy =>
    have hne : unitOf x ≠ unitOf y := by simpa [hx, hy] using h
    rw [if_pos hne]
  next => rfl

theorem unitCheck_unit {u v : Dest × Nat} (hu : s.locate da = some u)
    (hv : s.locate (da + BitVec.ofNat 64 (size - 1)) = some v) (huv : unitOf u = unitOf v) :
    s.unitCheck th g ea da size =
      if g.rights.getLsbD 4 = false ∧ homeUnit th.home u.1 = false then segFault 1 ea else .ok (da, u) := by
  simp [State.unitCheck, hu, hv, huv]

theorem unitCheck_ok {x : Dest × Nat} (h : s.unitCheck th g ea da size = .ok (da, x)) :
    s.locate da = some x ∧ (g.rights.getLsbD 4 = false → homeUnit th.home x.1 = true) := by
  unfold State.unitCheck segFault at h
  split at h
  next u v hu hv =>
    split at h
    · cases h
    · split at h
      · cases h
      next hm =>
        cases h
        exact ⟨hu, by simpa using hm⟩
  next => cases h

end

section
variable {s : State} {th : Thread} {q size need off : Nat} {ea da : Word} {g : Seg} (hl : th.tsr.pl.toNat < 2)
  (hg : g = th.seg (ea.toNat / 2 ^ 61)) (ho : off = ea.toNat % 2 ^ 61) (hda : da = g.base + BitVec.ofNat 64 off)
include hl hg ho hda

/-- R154. The check in its order. -/
theorem segCheck_low : s.segCheck th q ea size need =
    if g.limit < off + size - 1 then segFault 0 ea
    else if need &&& g.rights.toNat ≠ need then segFault 1 ea
    else if da.extractLsb' 62 2 ≠ g.base.extractLsb' 62 2 then segFault 0 ea
    else if da.extractLsb' 62 2 = 3 then segFault 1 ea
    else s.unitCheck th g ea da size := by
  subst hg ho hda
  simp only [State.segCheck, segment_field, offset_field, Nat.not_le.mpr hl, if_false, bne_iff_ne, beq_iff_eq]
  rfl

theorem segCheck_ok {x : Dest × Nat} (h : s.segCheck th q ea size need = .ok (da, x)) :
    off + size - 1 ≤ g.limit ∧ need &&& g.rights.toNat = need ∧ s.locate da = some x ∧
      (g.rights.getLsbD 4 = false → homeUnit th.home x.1 = true) := by
  rw [segCheck_low hl hg ho hda] at h
  unfold segFault at h
  split_ifs at h with hlim hr
  exact ⟨Nat.not_lt.mp hlim, not_not.mp hr, unitCheck_ok h⟩

end

/-- Settles O27: a read is the field by its number, a write changes its register alone, and the check is the chain of
`segCheck_low`. -/
theorem segmentRegistersAndCheck : Obligations.SegmentRegistersAndCheck := by
  unfold Obligations.SegmentRegistersAndCheck
  refine ⟨fun s h => ⟨?_, fun a f n hl => ⟨_, exec_segw h hl a f n, elsewhere_after_modMe s _, ?_⟩⟩, ?_⟩
  · rintro d f n g rfl
    rw [exec_segr h, seg_word]
  · rw [thr_after_modMe]
    refine ⟨rfl, rfl, rfl, fun m _ => ?_⟩
    rw [← seg_write]
    exact segWritten_seg s.me f n (s.g a) m
  · rintro s th q size need off ea da g hl hg ho hda r rfl
    have hlow := segCheck_low (s := s) (q := q) (size := size) (need := need) hl hg ho hda
    refine ⟨fun hlim => ?_, fun hlim hr => ?_, fun hlim hr hq => ?_, fun hlim hr hq => ?_,
      fun x hx => segCheck_ok hl hg ho hda hx⟩
    · rw [hlow, if_pos hlim]
      rfl
    · rw [hlow, if_neg hlim.not_gt, if_pos hr]
      rfl
    · rw [hlow, if_neg hlim.not_gt, if_neg (not_not.mpr hr), if_pos hq]
      rfl
    · rw [hlow, if_neg hlim.not_gt, if_neg (not_not.mpr hr), if_neg (not_not.mpr hq)]
      refine ⟨fun h3 => if_pos h3, ?_⟩
      rintro h3 x y rfl rfl
      rw [if_neg h3]
      exact ⟨unitCheck_nowhere, fun u v hu hv huv => unitCheck_unit hu hv huv⟩

end Sys2Proof.Machine
end

section
/-! SUPPORT. Words that wait for posted stores, and a thread that has left entries in the journal of its old core when it
migrated (R100, R166, R179). -/

namespace Sys2Proof.Machine

/-! ## Words that wait with reason MEM (R166) -/

/-- A word that waits for memory leaves its thread where it stands. -/
theorem waitMem_pc (s : State) (i : Instr) : ((settle s (waitMem i s)).thr s.cur).pc = s.me.pc := by
  rw [waitMem, settle_keep, dueOnce_thr, park_thr_same]
  rfl

/-- Such a word has not completed. -/
theorem not_completed_of_waits {s t : State} {i : Instr} (hw : exec i s = .next (settle s (waitMem i s)))
    (ht : exec i s = .next t) : (t.thr s.cur).pc ≠ s.me.pc + 4 := by
  have hst : settle s (waitMem i s) = t := Host.Outcome.next.inj (hw.symm.trans ht)
  rw [← hst, waitMem_pc]
  simp

/-- Bytes within one granule are one part. -/
theorem splitAt_one {g a n : Nat} (hn : n ≠ 0) (h : a % g + n ≤ g) (k : Nat) : splitAt g (k + 1) a n = [(a, n)] := by
  have hle : n ≤ g - a % g := by omega
  simp [splitAt, hn, hle]

theorem granule_ownTcm (c : Nat) : granule (pathOf c (.tcm c)) = 64 := by simp [pathOf, granule]

section
variable {s : State} {ea da : Word} {u x n need align kind : Nat} {fe : Bool}
  (hs : s.segCheck s.me (quadOf s.here) ea n need = .ok (da, .tcm u, x)) (ha : da.toNat % align = 0) (hn : n ≠ 0)
  (hx : x % granule (pathOf s.here (.tcm u)) + n ≤ granule (pathOf s.here (.tcm u)))
include hs ha hn hx

/-- An aligned access to a TCM within one granule of its path is one part. -/
theorem reach_tcm : s.reach s.cur ea n need align kind fe = .ok s da [(.tcm u, x, n)] := by
  have hsplit := splitAt_one hn hx (n / 16 + 1)
  have hseg : s.segCheck (s.thr s.cur) (quadOf (coreOf s.cur)) ea n need = .ok (da, .tcm u, x) := hs
  have hpart : splitAt (granule (pathOf (coreOf s.cur) (.tcm u))) (n / 16 + 2) x n = [(x, n)] := hsplit
  simp [State.reach, hseg, ha, hpart]

/-- The first issue of a memory word acts on that part. -/
theorem memAccess_tcm (h : s.Plain) (go : State → Word → List (Dest × Nat × Nat) → Res)
    (fin : List Byte → State → Res) : memAccess ea n need align kind fe go fin s = go s da [(.tcm u, x, n)] := by
  simp only [memAccess, h.noReply, reach_tcm hs ha hn hx]

end

/-- Of `n` bytes of the core's own TCM the thread has posted some, but not all. -/
def State.partlyPosted (s : State) (x n : Nat) : Prop :=
  (s.forwarded s.cur [(.tcm s.here, x, n)]).all (·.isSome) = false ∧
    (s.forwarded s.cur [(.tcm s.here, x, n)]).any (·.isSome) = true

section
variable {s : State} {b : BitVec 5} {ea da : Word} {x : Nat} (h : s.Plain) (hp : s.partlyPosted x 8)
include h hp

/-- A load of eight such bytes waits (R166). -/
theorem load_waits (ho : s.OwnTcm ea da x 8 1) (hx : x % 64 + 8 ≤ 64) (insn : Instr) (r : Bool)
    (fin fin' : List Byte → State → Res) :
    memAccess ea 8 rightR 1 0 false (loadGo insn ea 8 r fin) fin' s = waitMem insn s := by
  rw [memAccess_tcm (need := rightR) ho.place (Nat.mod_one _) (by decide) ((granule_ownTcm s.here).symm ▸ hx) h]
  obtain ⟨hall, hany⟩ := hp
  simp [loadGo, hall, hany]

theorem ld_waits {i : BitVec 13} (ho : s.OwnTcm (s.g b + i.signExtend 64) da x 8 1) (hx : x % 64 + 8 ≤ 64)
    (d : BitVec 5) : exec (.ld d b 3 i) s = .next (settle s (waitMem (.ld d b 3 i) s)) := by
  have hbody : ldBody (.ld d b 3 i) d b 3 i s = waitMem (.ld d b 3 i) s := by
    unfold ldBody
    exact load_waits h hp ho hx ..
  rw [exec_of_run h.alone rfl (State.prefixFits_none h _), hbody]

theorem lda_waits {q : BitVec 5} {i : BitVec 8} {sc : Scope} (hsc : s.checkScope s.cur (s.g q) = .ok sc)
    (ho : s.OwnTcm (s.g b + i.signExtend 64) da x 8 1) (hx : x % 64 + 8 ≤ 64) (d : BitVec 5) :
    exec (.lda d b q i) s = .next (settle s (waitMem (.lda d b q i) s)) := by
  have hbody : ldaBody (.lda d b q i) 8 d b q i s = waitMem (.lda d b q i) s := by
    rw [ldaBody, withScope, hsc]
    exact load_waits h hp ho hx ..
  rw [exec_of_run h.alone rfl (State.prefixFits_none h _), hbody]

/-- FEPROBE of a word of which the thread has posted a part waits (R179). -/
theorem feprobe_waits {i : BitVec 13} (ho : s.OwnTcm (s.g b + i.signExtend 64) da x 8 9) (hda : da.toNat % 8 = 0)
    (hx : x % 64 + 8 ≤ 64) (d : BitVec 5) :
    exec (.feprobe d b i) s = .next (settle s (waitMem (.feprobe d b i) s)) := by
  rw [exec_of_run h.alone rfl (State.prefixFits_none h _), feBody, State.ea, sext,
    memAccess_tcm (need := rightR + rightF) ho.place hda (by decide) ((granule_ownTcm s.here).symm ▸ hx) h]
  obtain ⟨-, hany⟩ := hp
  simp [hany]

end

/-- A byte stored to another TCM waits while the journal or its thread's share has no room (R166). -/
theorem stByte_waits {s : State} {r b : BitVec 5} {i : BitVec 13} {da : Word} {u x : Nat} (h : s.Plain)
    (hs : s.segCheck s.me (quadOf s.here) (s.g b + i.signExtend 64) 1 2 = .ok (da, .tcm u, x)) (hu : u ≠ s.here)
    (hroom : s.journalRoom s.cur 1 = false) :
    exec (.st r b 0 i) s = .next (settle s (waitMem (.st r b 0 i) s)) := by
  have hx : x % granule (pathOf s.here (.tcm u)) + 1 ≤ granule (pathOf s.here (.tcm u)) :=
    Nat.mod_lt x (by simp [pathOf, hu, granule])
  have hbody : stBody (.st r b 0 i) r b 0 i s = waitMem (.st r b 0 i) s := by
    have hn : sizeOf (0 : BitVec 3).toNat = 1 := rfl
    rw [stBody, hn, State.ea, sext, memAccess_tcm (need := rightW) hs (Nat.mod_one _) (by decide) hx h]
    simp [storeGo, firstUnit, pathOf, hu, hroom]
  rw [exec_of_run h.alone rfl (State.prefixFits_none h _), hbody]

/-! ## A thread that has migrated (R62, R100) -/

/-- A byte stored from core 0 to offset 0 of the TCM of core 257, by the thread that is now in slot 0 of that core: the
journal of core 0 still holds it, and names it by its thread's new slot. -/
def strayStore (i : Nat) : JEntry :=
  { thread := 4112, seq := i, fn := 0, kind := .st, unit := .tcm 257, addr := sramAddr 257 0 0,
    report := 0x1010000000000, bytes := [(0, 1)], order := i }

/-- Core 257 executes a thread that was born on core 0 and has left its sixteen journal entries there, as
`State.moveThread` does. Its segment 0 begins at `base`, with every right. -/
def migrated (base : Word) : State :=
  { State.reset with
    cur := 4112
    agenda := []
    threads := [(4112, { st := .run, nseq := 16,
                         segs := Vector.replicate 8 { base := base, limit := 255, rights := 0x1F } })]
    cores := [(0, { journal := (List.range 16).map fun i => (i, strayStore i), jorder := 16 })] }

/-- No stream is bound to a thread of a core at its reset values. -/
theorem streaming_of_emptyCore {s : State} {t : Nat} (h : s.core (coreOf t) = {}) : s.streaming t = false := by
  rw [State.streaming, h]
  simp

theorem migrated_plain (base : Word) : (migrated base).Plain where
  alone := {
    single := rfl
    noStreams := streaming_of_emptyCore (t := 4112) rfl
    noReplays := rfl
    residues := fun h => Bool.noConfusion h
    freshOp := rfl }
  noPrefix := rfl

/-- The migrated thread with segment 0 on the TCM of the core where it runs. -/
def atNewCore : State := migrated 0x1010000000000

theorem atNewCore_plain : atNewCore.Plain := migrated_plain _

/-- Its way to the first eight bytes of that TCM. -/
theorem atNewCore_own {ea : Word} {need : Nat} (hea : ea = 0) (h : need = 1 ∨ need = 9) :
    atNewCore.OwnTcm ea 0x1010000000000 (sramAddr 257 0 0) 8 need where
  place := by
    subst hea
    rcases h with rfl | rfl <;> rfl
  noPosted := rfl
  noWaiters _ := ⟨rfl, rfl⟩
  sound := rfl
  canon := rfl

/-- The first of those bytes is posted, the others are not. -/
theorem atNewCore_partlyPosted : atNewCore.partlyPosted (sramAddr 257 0 0) 8 := by
  unfold State.partlyPosted
  decide

/-- The scopes that its words name are granted. -/
theorem atNewCore_scope {q : Word} (h : q = 0 ∨ q = implicitScope false) :
    atNewCore.checkScope atNewCore.cur q = .ok { thread := false, spans := false, clamped := false } := by
  rcases h with rfl | rfl <;> rfl

/-- The migrated thread with segment 0 on the TCM of the core that it has left. -/
def atOldCore : State := migrated 0

theorem atOldCore_place {ea : Word} (hea : ea = 0) :
    atOldCore.segCheck atOldCore.me (quadOf atOldCore.here) ea 1 2 = .ok (0, .tcm 0, sramAddr 0 0 0) := by
  subst hea
  rfl

/-- Its entries are as many as a thread may hold. -/
theorem atOldCore_full : atOldCore.journalRoom atOldCore.cur 1 = false := by decide

/-- Refutes O24: `OwnTcm` speaks of the journal of the executing core alone; an LD of bytes that its thread posted in part
before it migrated waits for the entries that the old core holds. -/
theorem not_tcmLoadsAndStores : ¬ Obligations.TcmLoadsAndStores := by
  unfold Obligations.TcmLoadsAndStores
  rintro ⟨hld, -⟩
  have hown : atNewCore.OwnTcm (atNewCore.g 0 + (0#13).signExtend 64) _ _ 8 1 := atNewCore_own rfl (.inl rfl)
  obtain ⟨t, ht, -, hloaded⟩ := hld atNewCore 1 0 3 0 _ _ 8 atNewCore_plain (by decide) rfl hown
  exact not_completed_of_waits (ld_waits atNewCore_plain atNewCore_partlyPosted hown (by decide) 1) ht hloaded.pc

/-- Refutes O25: as an LD, an LDA waits for entries that the thread has left behind. -/
theorem not_orderedAccesses : ¬ Obligations.OrderedAccesses := by
  unfold Obligations.OrderedAccesses
  rintro ⟨hlda, -⟩
  have hown : atNewCore.OwnTcm (atNewCore.g 0 + (0#8).signExtend 64) _ _ 8 1 := atNewCore_own rfl (.inl rfl)
  have hscope : atNewCore.checkScope atNewCore.cur (atNewCore.g 0) = _ := atNewCore_scope (.inl rfl)
  obtain ⟨-, hld, -⟩ := hlda atNewCore 1 0 0 0 _ _ _ atNewCore_plain hscope
  obtain ⟨t, ht, hloaded⟩ := hld hown
  have hwaits := lda_waits atNewCore_plain atNewCore_partlyPosted hscope hown (by decide) 1
  exact not_completed_of_waits hwaits ht hloaded.pc

/-- Refutes O26: FEPROBE waits for the entries to its word that the thread has left behind. -/
theorem not_fullEmptyAndFences : ¬ Obligations.FullEmptyAndFences := by
  unfold Obligations.FullEmptyAndFences
  rintro ⟨hfe, -⟩
  have hown : atNewCore.OwnTcm (atNewCore.g 0 + (0#13).signExtend 64) _ _ 8 9 := atNewCore_own rfl (.inr rfl)
  obtain ⟨-, -, hprobe, -⟩ := hfe atNewCore 1 0 0 0x1010000000000 _ _ _ atNewCore_plain rfl (by decide)
    (atNewCore_scope (.inr rfl))
  obtain ⟨t, ht, hloaded, -⟩ := hprobe hown
  exact not_completed_of_waits (feprobe_waits atNewCore_plain atNewCore_partlyPosted hown (by decide) (by decide) 1) ht
    hloaded.pc

/-- Refutes O28: the journal of the executing core is empty, but the thread's share of sixteen entries is used up by
those that it has left behind, and its store waits. -/
theorem not_accessTrapsAndPostedStores : ¬ Obligations.AccessTrapsAndPostedStores := by
  unfold Obligations.AccessTrapsAndPostedStores
  rintro ⟨-, hst⟩
  have hplain : atOldCore.Plain := migrated_plain 0
  obtain ⟨t, e, ht, -, -, -, -, -, -, -, -, -, hpc, -⟩ :=
    hst atOldCore 0 0 0 0 _ _ _ 1 hplain (by decide) rfl (atOldCore_place rfl) (by decide) (by decide) rfl
  have hwaits := stByte_waits (r := 0) (b := 0) (i := 0) hplain (atOldCore_place rfl) (by decide) atOldCore_full
  exact not_completed_of_waits hwaits ht hpc

end Sys2Proof.Machine
end

section
/-! SUPPORT. A word that the vector unit takes at once: how it runs, and what the unit's taking of it leaves of the
state (R194 to R203, R411). -/

namespace Sys2Proof.Machine

open Laws.RoundTrip (fieldAbove fieldBelow fieldWhole)

/-! ## Words of the vector unit -/

/-- An instruction whose word `w` runs at the vector unit: of majors 0x20 to 0x23, or of EXT.W class 10. -/
structure UnitWord (i : Instr) (w : Half) : Prop where
  runs : ∀ s, exec i s = vecRun i w s
  coded : encode i = w
  major : majorNat w ≤ 0x23 ∨ majorNat w = 0x38 ∧ extClass w = 2

theorem unitWord_narrow {i : Instr} {w : Half} (hr : ∀ s, exec i s = vecRun i w s) (hc : encode i = w)
    (hm : majorNat w ≤ 0x23 := by
      simp (disch := decide) only [majorNat, fieldAbove, fieldWhole, Nat.reduceSub]
      decide) : ∃ w, UnitWord i w :=
  ⟨w, hr, hc, .inl hm⟩

theorem unitWord_wide {i : Instr} {w : Half} (hr : ∀ s, exec i s = vecRun i w s) (hc : encode i = w)
    (hm : majorNat w = 0x38 ∧ extClass w = 2 := by
      simp (disch := decide) only [majorNat, extClass, fieldAbove, fieldBelow, fieldWhole, Nat.reduceSub]
      decide) : ∃ w, UnitWord i w :=
  ⟨w, hr, hc, .inr hm⟩

theorem laneOp_unitWord {i : Instr} (h : i.isLaneOp = true) : ∃ w, UnitWord i w := by
  cases i <;> cases h
  case vdadd | vdsub | vdmul | vdfma | vdmin | vdmax | vdwid | vdnar => exact unitWord_wide (fun _ => rfl) rfl
  all_goals exact unitWord_narrow (fun _ => rfl) rfl

/-! ## A word that the unit takes at once (R199, R202, R203, R411) -/

/-- `t` is `s` but for the executing thread, the cores, the quads and what is due. -/
def State.OwnOnly (s t : State) : Prop :=
  (∃ qs cs a ths, t = { s with quads := qs, cores := cs, agenda := a, threads := ths }) ∧
    ∀ k, k ≠ s.cur → t.thr k = s.thr k

namespace State.OwnOnly

variable {s t u : State}

theorem refl (s : State) : s.OwnOnly s := ⟨⟨_, _, _, _, rfl⟩, fun _ _ => rfl⟩

theorem cur (h : s.OwnOnly t) : t.cur = s.cur := by obtain ⟨⟨_, _, _, _, rfl⟩, -⟩ := h; rfl

theorem mem (h : s.OwnOnly t) : t.mem = s.mem := by obtain ⟨⟨_, _, _, _, rfl⟩, -⟩ := h; rfl

theorem full (h : s.OwnOnly t) : t.full = s.full := by obtain ⟨⟨_, _, _, _, rfl⟩, -⟩ := h; rfl

theorem trans (h : s.OwnOnly t) (h' : t.OwnOnly u) : s.OwnOnly u := by
  have hcur := h.cur
  obtain ⟨⟨_, _, _, _, rfl⟩, hthr⟩ := h
  obtain ⟨⟨qs, cs, a, ths, rfl⟩, hthr'⟩ := h'
  exact ⟨⟨qs, cs, a, ths, rfl⟩, fun k hk => (hthr' k (hcur ▸ hk)).trans (hthr k hk)⟩

theorem of_meters (h : s.MeterOnly t) : s.OwnOnly t := by
  obtain ⟨qs, a, rfl⟩ := h
  exact ⟨⟨qs, s.cores, a, s.threads, rfl⟩, fun _ _ => rfl⟩

theorem modMe (s : State) (f : Thread → Thread) : s.OwnOnly (s.modMe f) :=
  ⟨⟨_, _, _, _, rfl⟩, fun _ hk => thr_modThr_other s f hk⟩

theorem modCore (s : State) (c : Nat) (f : Core → Core) : s.OwnOnly (s.modCore c f) :=
  ⟨⟨_, _, _, _, rfl⟩, fun _ _ => rfl⟩

theorem raise (s : State) (fl : Flags) : s.OwnOnly (s.raise s.cur fl) := by
  unfold State.raise
  split
  · exact refl s
  · exact modMe s _

theorem after (h : s.OwnOnly t) : s.OwnOnly (s.after t) := by
  rw [after_def, ← h.cur]
  exact h.trans (modMe t _)

end State.OwnOnly

theorem acceptVec_meterOnly (s : State) (o : UnitOp) : s.MeterOnly (s.acceptVec o) := by
  unfold State.acceptVec
  split <;> exact State.MeterOnly.chargeThread ..

/-- The unit has taken the thread's word. -/
def Thread.taken (th : Thread) : Thread := { th with op := { phase := 2 } }

/-- The shadow latch is empty (R202). -/
def Thread.unlatched (th : Thread) : Thread := { th with latch := none }

/-- The thread as the unit executes its word: every word but VSHADOW empties the shadow latch (R202). -/
def Thread.entered (th : Thread) (i : Instr) : Thread := if i = .vshadow then th.taken else th.taken.unlatched

/-- The unit has taken a word of the executing thread and charged for it (R411). -/
def State.vecTaken (s : State) (i : Instr) (w : Half) : State := (s.acceptVec (s.vecOp i w)).modMe Thread.taken

/-- The state in which the unit executes that word. -/
def State.entered (s : State) (i : Instr) (w : Half) : State :=
  if i = .vshadow then s.vecTaken i w else (s.vecTaken i w).modMe Thread.unlatched

section
variable (s : State) (i : Instr) (w : Half)

theorem vecTaken_ownOnly : s.OwnOnly (s.vecTaken i w) :=
  (State.OwnOnly.of_meters (acceptVec_meterOnly s _)).trans (.modMe _ _)

@[simp] theorem vecTaken_core (c : Nat) : (s.vecTaken i w).core c = s.core c := (acceptVec_meterOnly s _).core c

@[simp] theorem vecTaken_cur : (s.vecTaken i w).cur = s.cur := (vecTaken_ownOnly s i w).cur

@[simp] theorem vecTaken_here : (s.vecTaken i w).here = s.here := congrArg coreOf (vecTaken_cur s i w)

@[simp] theorem vecTaken_me : (s.vecTaken i w).me = s.me.taken := by
  have h := acceptVec_meterOnly s (s.vecOp i w)
  rw [State.vecTaken, modMe_me, State.me, h.cur, h.thr, State.me]

theorem entered_ownOnly : s.OwnOnly (s.entered i w) := by
  unfold State.entered
  split
  · exact vecTaken_ownOnly s i w
  · exact (vecTaken_ownOnly s i w).trans (.modMe _ _)

@[simp] theorem entered_cur : (s.entered i w).cur = s.cur := (entered_ownOnly s i w).cur

@[simp] theorem entered_here : (s.entered i w).here = s.here := congrArg coreOf (entered_cur s i w)

@[simp] theorem entered_core (c : Nat) : (s.entered i w).core c = s.core c := by
  unfold State.entered
  split <;> simp

@[simp] theorem entered_me : (s.entered i w).me = s.me.entered i := by
  unfold State.entered Thread.entered
  split <;> simp

end

/-- What an instruction reads, and what its reading checks, is a matter of the thread's registers alone. -/
theorem checkFail_taken (i : Instr) (th : Thread) :
    th.taken.checkFail (vecReads i th.taken) = th.checkFail (vecReads i th) := rfl

/-- A form that completes hands its cycle count to the latch (R202). -/
def Res.latched (r : Res) (n : Nat) : Res :=
  match r with
  | .done s => .done (s.modMe (Thread.latched · n))
  | r => r

section
variable {s : State} {i : Instr} (h : s.VectorReady i)
include h

/-- With no stream behind a vector register and sound lanes, the unit does what the form says. -/
theorem vecExec_taken (w : Half) : vecExec (s.vecOp i w) (s.vecTaken i w) =
    (vecEffect (s.vecOp i w) (s.entered i w)).latched ((s.vecTaken i w).latchCycles (s.vecOp i w)) := by
  have hi : (s.vecOp i w).insn = i := rfl
  have hent : (if i = .vshadow then s.vecTaken i w else (s.vecTaken i w).modMe fun th => { th with latch := none }) =
    s.entered i w := rfl
  simp only [vecExec, withVecStreams, hi, vecTaken_here, vecTaken_cur, vecTaken_core, vecTaken_me, h.noStreams,
    checkFail_taken, h.checked, hent, Bool.not_false, if_true]
  rfl

/-- With an idle queue and room in the quota, the unit takes the word at issue. -/
theorem vecIssue_taken (w : Half) : vecIssue i w s = vecExec (s.vecOp i w) (s.vecTaken i w) := by
  obtain ⟨hq, hv⟩ := h.idle
  simp only [vecIssue, h.alone.freshOp, hq, hv]
  rw [if_neg (by simp), if_pos (by simpa using h.quota)]
  rfl

/-- A word that the unit takes at once has the effect of its form. -/
theorem exec_entered {w : Half} (hw : UnitWord i w) : ∃ n,
    exec i s = .next (settle s ((vecEffect (s.vecOp i w) (s.entered i w)).latched n)) := by
  have hx : majorNat w = 0x38 → s.listsClass s.here (extClass w) = true := by
    intro hm
    have hc : extClass w = 2 := hw.major.elim (fun hlow => by omega) fun hwide => hwide.2
    have h64 : s.w64 s.here = true := h.listed (hw.coded ▸ hm)
    simpa [State.listsClass, hc] using h64
  have ho : majorNat w = 0x2B → s.hasOptical = true := fun hm => by
    rcases hw.major with hlow | ⟨hwide, -⟩ <;> omega
  have hrun := run_alone (body := vecIssue i w)
    (f := { word := w, pfx := vecRule i, srcs := (vecScalars i).1, dsts := (vecScalars i).2, same := vecSame i })
    h.alone hx rfl ho (Nat.zero_le _) h.fits
  rw [vecIssue_taken h, vecExec_taken h w] at hrun
  exact ⟨_, (hw.runs s).trans hrun⟩

/-- A form that completes at the unit completes. -/
theorem exec_taken {s2 : State} {w : Half} (hw : UnitWord i w)
    (he : vecEffect (s.vecOp i w) (s.entered i w) = .done s2) :
    ∃ n, exec i s = .next (s.after (s2.modMe (Thread.latched · n))) := by
  obtain ⟨n, ht⟩ := exec_entered h hw
  rw [he] at ht
  exact ⟨n, ht⟩

end

end Sys2Proof.Machine
end

section
/-! SUPPORT. What every form on registers leaves of its thread and of the machine (R194 to R207, R212 to R226). -/

namespace Sys2Proof.Machine

/-! ## What a form changes of its thread -/

/-- The thread `th'` is `th` but for the vector, scalar and mask registers that `i` writes, flags it adds, the LFSR, the
latch and the state of its operation; VSHADOW writes check fields of the latched register (R202). -/
structure Thread.Computes (i : Instr) (th th' : Thread) : Prop where
  vec : ∀ r, r < 8 → r ∉ vecWrites i → (i = .vshadow → ∀ k, th.latch = some k → r ≠ k.vd % 8) → th'.vec r = th.vec r
  data : ∀ r l, r < 8 → r ∉ vecWrites i → (th'.lane r l).data = (th.lane r l).data
  reg : ∀ r, r ∉ (vecScalars i).2 → th'.reg r = th.reg r
  mask : ∀ r, r < 4 → (∀ m, i.maskDest = some m → r ≠ m % 4) → th'.mask r = th.mask r
  flags : th'.tsr.flags &&& th.tsr.flags = th.tsr.flags
  level : th'.tsr.pl = th.tsr.pl

theorem or_keeps {n : Nat} {x y : BitVec n} (h : x &&& y = y) (z : BitVec n) : (x ||| z) &&& y = y := by
  ext k hk
  have hbit : (x &&& y)[k] = y[k] := by rw [h]
  rw [BitVec.getElem_and, BitVec.getElem_or]
  rw [BitVec.getElem_and] at hbit
  cases hy : y[k] <;> simp_all

theorem vec_mod_congr {th : Thread} {r r' : Nat} (h : r % 8 = r' % 8) : th.vec r = th.vec r' := by
  rw [Thread.vec, h, Thread.vec]

/-- A register that is not written keeps its lanes. -/
theorem vec_writeVec_other (th : Thread) {vd r : Nat} (bits : Nat) (vs : List (Option Nat)) (h : r % 8 ≠ vd % 8) :
    (th.writeVec vd bits vs).vec r = th.vec r := by
  simp [Thread.writeVec, Thread.vec, List.getD_eq_getElem?_getD, h.symm]

theorem vec_setLane_other (th : Thread) {vd r : Nat} (l : Nat) (x : Lane) (h : r % 8 ≠ vd % 8) :
    (th.setLane vd l x).vec r = th.vec r := by
  simp [Thread.setLane, Thread.vec, List.getD_eq_getElem?_getD, h.symm]

theorem mask_setMask_other (th : Thread) {m r : Nat} (v : Word) (h : r % 4 ≠ m % 4) :
    (th.setMask m v).mask r = th.mask r := by
  simp [Thread.setMask, Thread.mask, List.getD_eq_getElem?_getD, h.symm]

theorem vec_congr {th th' : Thread} (h : th'.v = th.v) (r : Nat) : th'.vec r = th.vec r := by
  rw [Thread.vec, h, Thread.vec]

theorem lane_congr {th th' : Thread} {r : Nat} (h : th'.vec r = th.vec r) (l : Nat) : th'.lane r l = th.lane r l := by
  rw [Thread.lane, h, Thread.lane]

theorem mask_congr {th th' : Thread} (h : th'.m = th.m) (r : Nat) : th'.mask r = th.mask r := by
  rw [Thread.mask, h, Thread.mask]

section
variable (th : Thread) (i : Instr)

@[simp] theorem entered_v : (th.entered i).v = th.v := by unfold Thread.entered; split <;> rfl

@[simp] theorem entered_g : (th.entered i).g = th.g := by unfold Thread.entered; split <;> rfl

@[simp] theorem entered_m : (th.entered i).m = th.m := by unfold Thread.entered; split <;> rfl

@[simp] theorem entered_tsr : (th.entered i).tsr = th.tsr := by unfold Thread.entered; split <;> rfl

end

namespace Thread.Computes

variable {i : Instr} {th th' th'' : Thread}

/-- Other vector, scalar and mask registers of a thread as they were, and its TSR. -/
theorem of_registers (hv : ∀ r, r < 8 → r ∉ vecWrites i → th'.vec r = th.vec r)
    (hg : ∀ r, r ∉ (vecScalars i).2 → th'.reg r = th.reg r)
    (hm : ∀ r, r < 4 → (∀ m, i.maskDest = some m → r ≠ m % 4) → th'.mask r = th.mask r) (ht : th'.tsr = th.tsr) :
    Computes i th th' where
  vec r hr hw _ := hv r hr hw
  data r l hr hw := congrArg Lane.data (lane_congr (hv r hr hw) l)
  reg := hg
  mask := hm
  flags := by rw [ht, BitVec.and_self]
  level := by rw [ht]

/-- Elements written into the destination. -/
theorem writeVec {d : BitVec 3} (hd : vecWrites i = [d.toNat]) (bits : Nat) (vs : List (Option Nat)) (l : BitVec 32)
    (hg : ∀ r, r ∉ (vecScalars i).2 → th'.reg r = th.reg r) (hv : th'.v = th.v)
    (hm : ∀ r, r < 4 → (∀ m, i.maskDest = some m → r ≠ m % 4) → th'.mask r = th.mask r) (ht : th'.tsr = th.tsr) :
    Computes i th ({ th' with rndlfsr := l }.writeVec d.toNat bits vs) :=
  of_registers
    (fun r hr hw => by
      have hne : r % 8 ≠ d.toNat % 8 := by
        rw [hd, List.mem_singleton] at hw
        rwa [Nat.mod_eq_of_lt hr, Nat.mod_eq_of_lt d.isLt]
      rw [vec_writeVec_other _ bits vs hne]
      exact vec_congr hv r)
    hg hm ht

theorem put {g : BitVec 5} (hg : (vecScalars i).2 = [g.toNat]) (v : Word) : Computes i th (th.put g.toNat v) :=
  of_registers (fun r _ _ => vec_congr (put_v ..) r)
    (fun r hr => reg_put_other th v (by rwa [hg, List.mem_singleton] at hr))
    (fun r _ _ => mask_congr (put_m ..) r) (put_tsr ..)

theorem setMask {d : BitVec 3} (hd : i.maskDest = some d.toNat) (v : Word) : Computes i th (th.setMask d.toNat v) :=
  of_registers (fun _ _ _ => rfl) (fun _ _ => rfl)
    (fun r hr hne => mask_setMask_other th v (by rw [Nat.mod_eq_of_lt hr]; exact hne _ hd)) rfl

theorem flagged (h : Computes i th th') (fl : Flags) : Computes i th (th'.flagged fl) :=
  { h with flags := or_keeps h.flags fl }

/-- From its issue to its end only the thread's operation, latch and pc differ from what the form leaves. -/
theorem settled (h : Computes i (th.entered i) th') (n : Nat) (pc : Word) (b : Bool) :
    Computes i th ((th'.latched n).complete pc b) where
  vec r hr hw hs := (h.vec r hr hw fun hi => by rw [hi]; exact hs hi).trans (vec_congr (entered_v th i) r)
  data r l hr hw := (h.data r l hr hw).trans (congrArg Lane.data (lane_congr (vec_congr (entered_v th i) r) l))
  reg r hr := (h.reg r hr).trans (reg_of_g (entered_g th i) r)
  mask r hr hm := (h.mask r hr hm).trans (mask_congr (entered_m th i) r)
  flags := by
    have hflags := h.flags
    rw [entered_tsr] at hflags
    cases b <;> exact hflags
  level := by
    have hlevel := h.level
    rw [entered_tsr] at hlevel
    cases b <;> exact hlevel

end Thread.Computes

section
variable {i : Instr} {u u' : State}

theorem modMe_raise_me (u : State) (f : Thread → Thread) (fl : Flags) :
    ((u.modMe f).raise u.cur fl).thr u.cur = (f u.me).flagged fl := by
  rw [raise_thr_same, State.modMe, thr_modThr_same, State.me]

theorem done_computes {f : Thread → Thread} (h : Thread.Computes i u.me (f u.me)) :
    ∃ t, Res.done (u.modMe f) = .done t ∧ u.OwnOnly t ∧ Thread.Computes i u.me (t.thr u.cur) :=
  ⟨_, rfl, .modMe u f, by rwa [State.modMe, thr_modThr_same]⟩

theorem setG_computes {g : BitVec 5} (hg : (vecScalars i).2 = [g.toNat]) (v : Word) :
    ∃ t, Res.done (u.setG g v) = .done t ∧ u.OwnOnly t ∧ Thread.Computes i u.me (t.thr u.cur) :=
  done_computes (f := fun th => th.put g.toNat v) (.put hg v)

/-- The state in which elements have been written, with their flags. -/
def State.vecWritten (u : State) (vd bits : Nat) (r : List (Option Nat) × Flags × BitVec 32) : State :=
  (u.modMe fun th => ({ th with rndlfsr := r.2.2 }).writeVec vd bits r.1).raise u.cur r.2.1

theorem vecDone_eq (vd bits : Nat) (r : List (Option Nat) × Flags × BitVec 32) (u : State) :
    vecDone vd bits r u = .done (u.vecWritten vd bits r) := rfl

theorem vecWritten_ownOnly (u : State) (vd bits : Nat) (r : List (Option Nat) × Flags × BitVec 32) :
    u.OwnOnly (u.vecWritten vd bits r) :=
  (State.OwnOnly.modMe u _).trans (.raise _ _)

theorem vecWritten_thr (u : State) (vd bits : Nat) (r : List (Option Nat) × Flags × BitVec 32) :
    (u.vecWritten vd bits r).thr u.cur =
      (({ u.me with rndlfsr := r.2.2 }).writeVec vd bits r.1).flagged r.2.1 :=
  modMe_raise_me ..

/-- Elements written after changes that leave the vector registers and TSR. -/
theorem vecWritten_computes_of {d : BitVec 3} (hd : vecWrites i = [d.toNat]) (hu : u.OwnOnly u')
    (hg : ∀ r, r ∉ (vecScalars i).2 → u'.me.reg r = u.me.reg r) (hv : u'.me.v = u.me.v)
    (hm : ∀ r, r < 4 → (∀ m, i.maskDest = some m → r ≠ m % 4) → u'.me.mask r = u.me.mask r)
    (ht : u'.me.tsr = u.me.tsr) (bits : Nat) (r : List (Option Nat) × Flags × BitVec 32) :
    Thread.Computes i u.me ((u'.vecWritten d.toNat bits r).thr u.cur) := by
  rw [← hu.cur, vecWritten_thr]
  exact (Thread.Computes.writeVec hd bits r.1 r.2.2 hg hv hm ht).flagged r.2.1

theorem vecWritten_computes {d : BitVec 3} (hd : vecWrites i = [d.toNat]) (bits : Nat)
    (r : List (Option Nat) × Flags × BitVec 32) :
    Thread.Computes i u.me ((u.vecWritten d.toNat bits r).thr u.cur) :=
  vecWritten_computes_of hd (.refl u) (fun _ _ => rfl) rfl (fun _ _ _ => rfl) rfl bits r

theorem vecDone_computes {d : BitVec 3} (hd : vecWrites i = [d.toNat]) (bits : Nat)
    (r : List (Option Nat) × Flags × BitVec 32) :
    ∃ t, vecDone d.toNat bits r u = .done t ∧ u.OwnOnly t ∧ Thread.Computes i u.me (t.thr u.cur) :=
  ⟨_, vecDone_eq .., vecWritten_ownOnly .., vecWritten_computes hd bits r⟩

end

theorem candidate_meterOnly (s : State) (q tag : Nat) (r : AuditRecord) : s.MeterOnly (s.candidate q tag r) := by
  unfold State.candidate
  split
  · exact .refl s
  · exact .modQuad ..

theorem vqnt_computes (d a k p : BitVec 3) (f : BitVec 4) (o : UnitOp) (u : State) :
    ∃ t, vqntBody d a k p f o u = .done t ∧ u.OwnOnly t ∧ Thread.Computes (.vqnt d a k p f) u.me (t.thr u.cur) := by
  have hown (v : Word) (q tag : Nat) (r : AuditRecord) :
      u.OwnOnly ((u.modMe fun th => th.put (16 + k.toNat) v).candidate q tag r) :=
    (State.OwnOnly.modMe u _).trans (.of_meters (candidate_meterOnly ..))
  have hcand (v : Word) (q tag : Nat) (r : AuditRecord) :
      ((u.modMe fun th => th.put (16 + k.toNat) v).candidate q tag r).me = u.me.put (16 + k.toNat) v := by
    rw [State.me, (candidate_meterOnly ..).thr, (candidate_meterOnly ..).cur, ← State.me, modMe_me]
  unfold vqntBody
  refine ⟨_, vecDone_eq .., (hown ..).trans (vecWritten_ownOnly ..), ?_⟩
  refine vecWritten_computes_of rfl (hown ..) ?_ ?_ ?_ ?_ _ _
  all_goals rw [hcand]
  · exact fun r hr => reg_put_other _ _ (by simpa [vecScalars] using hr)
  · exact put_v ..
  · exact fun r _ _ => mask_congr (put_m ..) r
  · exact put_tsr ..

theorem vcmp_computes (d a b m : BitVec 3) (w : BitVec 2) (e : BitVec 1) (t : BitVec 2) (sc : BitVec 1)
    (c : BitVec 3) (u : State) :
    ∃ v, vcmpBody d a b m w e t sc c u = .done v ∧ u.OwnOnly v ∧
      Thread.Computes (.vcmp d a b m w e t sc c) u.me (v.thr u.cur) := by
  refine ⟨_, rfl, (State.OwnOnly.modMe u _).trans (.raise _ _), ?_⟩
  rw [modMe_raise_me]
  exact (Thread.Computes.setMask rfl _).flagged _

/-- A lane of a register after a lane has been set. -/
theorem lane_setLane (th : Thread) (vd i r l : Nat) (x : Lane) :
    (th.setLane vd i x).lane r l = if r % 8 = vd % 8 ∧ l = i ∧ i < 64 then x else th.lane r l := by
  by_cases hv : r % 8 = vd % 8
  · have hvec : (th.setLane vd i x).vec r = (th.vec vd).setIfInBounds i x := by
      have h8 : vd % 8 < 8 := Nat.mod_lt _ (by decide)
      simp [Thread.setLane, Thread.vec, List.getD_eq_getElem?_getD, hv, h8]
    rw [Thread.lane, Thread.lane, hvec, vec_mod_congr hv]
    by_cases hl : l = i
    · subst hl
      by_cases h64 : l < 64 <;> simp [List.getD_eq_getElem?_getD, hv, h64]
    · simp [List.getD_eq_getElem?_getD, hl, Ne.symm hl]
  · simp only [hv, false_and, if_false]
    exact lane_congr (vec_setLane_other th i x hv) l

/-- VSHADOW gives a lane its check value. -/
def Thread.checked (vd : Nat) (th : Thread) (p : Nat × BitVec 32) : Thread :=
  let ck (v : BitVec 32) : BitVec 8 := BitVec.ofNat 8 (((toBytes 4 v.toNat).foldl (fun n b => n + b.toNat) 0) % 255)
  th.setLane vd p.1 { th.lane vd p.1 with ck := ck p.2, c := true }

/-- Check fields of one register aside, a thread's registers are as they were. -/
structure Thread.ChecksOnly (vd : Nat) (th th' : Thread) : Prop where
  vec : ∀ r, r % 8 ≠ vd % 8 → th'.vec r = th.vec r
  data : ∀ r l, (th'.lane r l).data = (th.lane r l).data
  g : th'.g = th.g
  m : th'.m = th.m
  tsr : th'.tsr = th.tsr

theorem checked_checksOnly {th th' : Thread} {vd : Nat} (h : Thread.ChecksOnly vd th th') (p : Nat × BitVec 32) :
    Thread.ChecksOnly vd th (th'.checked vd p) where
  vec r hr := (vec_setLane_other th' p.1 _ hr).trans (h.vec r hr)
  data r l := by
    rw [← h.data, Thread.checked, lane_setLane]
    split
    next hrl =>
      obtain ⟨hr, rfl, -⟩ := hrl
      rw [Thread.lane, Thread.lane, vec_mod_congr hr]
    · rfl
  g := h.g
  m := h.m
  tsr := h.tsr

theorem vshadow_computes (u : State) :
    ∃ t, vshadowBody u = .done t ∧ u.OwnOnly t ∧ Thread.Computes .vshadow u.me (t.thr u.cur) := by
  unfold vshadowBody
  cases hk : u.me.latch with
  | none => exact ⟨u, rfl, .refl u, .of_registers (fun _ _ _ => rfl) (fun _ _ => rfl) (fun _ _ _ => rfl) rfl⟩
  | some k =>
    have hfold : Thread.ChecksOnly k.vd u.me (k.lanes.foldl (Thread.checked k.vd) u.me) :=
      List.foldlRecOn (motive := Thread.ChecksOnly k.vd u.me) _ _ ⟨fun _ _ => rfl, fun _ _ => rfl, rfl, rfl, rfl⟩
        fun _ h p _ => checked_checksOnly h p
    refine done_computes { vec := fun r hr _ hne => hfold.vec r ?_, data := fun r l _ _ => hfold.data r l
                           reg := fun r _ => reg_of_g hfold.g r, mask := fun r _ _ => mask_congr hfold.m r
                           flags := ?_, level := ?_ }
    · rw [Nat.mod_eq_of_lt hr]
      exact hne rfl k hk
    · exact (congrArg (fun t : Tsr => t.flags &&& u.me.tsr.flags) hfold.tsr).trans BitVec.and_self
    · exact congrArg Tsr.pl hfold.tsr

theorem laneOp_effect {i : Instr} (hl : i.isLaneOp = true) (s u : State) (w : Half) :
    ∃ t, vecEffect (s.vecOp i w) u = .done t ∧ u.OwnOnly t ∧ Thread.Computes i u.me (t.thr u.cur) := by
  cases i <;> cases hl
  case vshadow => exact vshadow_computes u
  case vqnt => exact vqnt_computes ..
  case vcmp => exact vcmp_computes ..
  case vmand | vmor => exact done_computes (.setMask rfl _)
  case vpopc => exact setG_computes rfl _
  case vext => exact setG_computes rfl _
  all_goals exact vecDone_computes rfl _ _

/-! ## Completion -/

/-- A form that changes its thread as `Thread.Computes` says completes and leaves everything else. -/
theorem completes {s u' : State} {i : Instr} {w : Half} (hw : UnitWord i w) (h : s.VectorReady i)
    (he : vecEffect (s.vecOp i w) (s.entered i w) = .done u') (ho : (s.entered i w).OwnOnly u')
    (hc : Thread.Computes i (s.entered i w).me (u'.thr (s.entered i w).cur)) :
    ∃ t, exec i s = .next t ∧ s.VecFrame t i ∧ Thread.Computes i s.me (t.thr s.cur) ∧ (∀ c, t.core c = u'.core c) ∧
      (t.thr s.cur).v = (u'.thr s.cur).v ∧ (t.thr s.cur).g = (u'.thr s.cur).g ∧ (t.thr s.cur).m = (u'.thr s.cur).m := by
  obtain ⟨n, ht⟩ := exec_taken h hw he
  have hs : s.OwnOnly u' := (entered_ownOnly s i w).trans ho
  have hown : s.OwnOnly (s.after (u'.modMe (Thread.latched · n))) := (hs.trans (.modMe _ _)).after
  rw [entered_me, entered_cur] at hc
  have hthr : (s.after (u'.modMe (Thread.latched · n))).thr s.cur =
      ((u'.thr s.cur).latched n).complete (s.me.pc + 4) s.me.tsr.pp := by
    rw [after_thr, State.modMe, hs.cur, thr_modThr_same]
  have hcomp := hc.settled n (s.me.pc + 4) s.me.tsr.pp
  rw [← hthr] at hcomp
  refine ⟨_, ht, ?_, hcomp, fun _ => rfl, ?_, ?_, ?_⟩
  · exact { vec := fun r hr hw hs => hcomp.vec r hr hw hs, data := fun r l hr _ hw => hcomp.data r l hr hw
            mem := hown.mem, full := hown.full, others := hown.2
            pc := by rw [hthr]; rfl
            running := by rw [hthr]; rfl
            level := hcomp.level }
  all_goals
    rw [hthr]
    rfl

/-- A form on registers that writes a mask names one of the four. -/
theorem maskDest_lt {i : Instr} {m : Nat} (hl : i.isLaneOp = true) (hwf : i.wf = true) (hm : i.maskDest = some m) :
    m < 4 := by
  cases i <;> cases hl <;> cases hm
  all_goals
    simp only [Instr.wf, maskOk, Bool.and_eq_true, decide_eq_true_eq] at hwf
    omega

/-- Settles O29: each form on registers changes its thread as `Thread.Computes` says. -/
theorem vectorCompletion : Obligations.VectorCompletion := by
  unfold Obligations.VectorCompletion
  intro s i hl hwf h
  obtain ⟨w, hw⟩ := laneOp_unitWord hl
  obtain ⟨u', he, ho, hc⟩ := laneOp_effect hl s (s.entered i w) w
  obtain ⟨t, ht, hframe, hcomp, -⟩ := completes hw h he ho hc
  refine ⟨t, ht, hframe, hcomp.reg, fun r hr hne => hcomp.mask r hr fun m hm hrm => hne ?_, hcomp.flags⟩
  rw [hm, hrm, Nat.mod_eq_of_lt (maskDest_lt hl hwf hm)]

end Sys2Proof.Machine
end

section
/-! SUPPORT. Elements in the lanes of a register, and what a form that writes elements leaves in them
(R194 to R196, R201). -/

namespace Sys2Proof.Machine

/-! ## Elements in lanes (R194, R195, R201) -/

/-- The `j`-th element of a lane that elements have been written into. -/
theorem laneData_elem (bits : Nat) (old : Nat) (xs : List (Option Nat)) {j : Nat} {x : Option Nat}
    (hx : xs[j]? = some x) :
    laneData bits old xs / 2 ^ (j * bits) % 2 ^ bits = x.getD (old / 2 ^ (j * bits)) % 2 ^ bits := by
  induction xs generalizing old j with
  | nil => simp at hx
  | cons y ys ih =>
    cases j with
    | zero =>
      obtain rfl : y = x := by simpa using hx
      simp [laneData]
    | succ j =>
      have hpos : 0 < 2 ^ bits := Nat.two_pow_pos bits
      have hsplit : 2 ^ ((j + 1) * bits) = 2 ^ bits * 2 ^ (j * bits) := by rw [← Nat.pow_add]; congr 1; ring
      have hhead : (y.getD old % 2 ^ bits + 2 ^ bits * laneData bits (old / 2 ^ bits) ys) / 2 ^ bits =
          laneData bits (old / 2 ^ bits) ys := by
        rw [Nat.add_mul_div_left _ _ hpos, Nat.div_eq_of_lt (Nat.mod_lt _ hpos), Nat.zero_add]
      rw [laneData, hsplit, ← Nat.div_div_eq_div_mul, ← Nat.div_div_eq_div_mul, hhead]
      exact ih _ (by simpa using hx)

/-- The lane that holds the elements from `l * per`. -/
theorem writeLanes_get (bits per : Nat) (ls : List Lane) (vs : List (Option Nat)) {l : Nat} {x : Lane}
    (hx : ls[l]? = some x) :
    (writeLanes bits per ls vs)[l]? = some (if ((vs.drop (l * per)).take per).all (·.isNone) then x
      else
        { x with
          data := BitVec.ofNat 32 (laneData bits x.data.toNat ((vs.drop (l * per)).take per))
          c := false }) := by
  induction ls generalizing vs l with
  | nil => simp at hx
  | cons y ys ih =>
    cases l with
    | zero =>
      obtain rfl : y = x := by simpa using hx
      simp [writeLanes]
    | succ l =>
      rw [writeLanes, List.getElem?_cons_succ, ih _ (by simpa using hx), List.drop_drop, Nat.succ_mul, Nat.add_comm per]

theorem lane_getElem? (th : Thread) (r : Nat) {l : Nat} (hl : l < 64) : (th.vec r).toList[l]? = some (th.lane r l) := by
  simp [Thread.lane, List.getD_eq_getElem?_getD, hl]

/-- A lane of the register that elements are written into. -/
theorem lane_writeVec (th : Thread) (vd bits : Nat) (vs : List (Option Nat)) {l : Nat} (hl : l < 64) :
    (th.writeVec vd bits vs).lane vd l =
      if ((vs.drop (l * (32 / bits))).take (32 / bits)).all (·.isNone) then th.lane vd l
      else { th.lane vd l with
        data := BitVec.ofNat 32 (laneData bits (th.lane vd l).data.toNat ((vs.drop (l * (32 / bits))).take (32 / bits)))
        c := false } := by
  have h8 : vd % 8 < 8 := Nat.mod_lt _ (by decide)
  have hvec : ((th.writeVec vd bits vs).vec vd).toList = writeLanes bits (32 / bits) (th.vec vd).toList vs := by
    simp [Thread.writeVec, Thread.vec, List.getD_eq_getElem?_getD, h8]
  rw [Thread.lane, hvec, List.getD_eq_getElem?_getD, writeLanes_get _ _ _ _ (lane_getElem? th vd hl), Option.getD_some]

/-- Bits `k` to `k + b - 1` of a number lie below bit `w`. -/
theorem field_mod (n : Nat) {w k b : Nat} (h : k + b ≤ w) : n % 2 ^ w / 2 ^ k % 2 ^ b = n / 2 ^ k % 2 ^ b := by
  have hw : 2 ^ w = 2 ^ k * 2 ^ (w - k) := by rw [← Nat.pow_add, Nat.add_sub_cancel' (by omega)]
  rw [hw, Nat.mod_mul_right_div_self, Nat.mod_mod_of_dvd _ (Nat.pow_dvd_pow 2 (by omega))]

/-- An element that a list of elements has been written over: its entry, or itself where the entry is absent. -/
theorem at_writeVec (th : Thread) (vd : Nat) {bits e : Nat} {vs : List (Option Nat)} {x : Option Nat} (hb : bits ∣ 32)
    (hx : vs[e]? = some x) (he : e * bits < 2048) :
    (th.writeVec vd bits vs).at vd bits e = x.getD (th.at vd bits e) % 2 ^ bits := by
  obtain ⟨per, hper⟩ := hb
  have hbits : 0 < bits := Nat.pos_of_ne_zero (by rintro rfl; omega)
  have hp : 32 / bits = per := by rw [hper, Nat.mul_div_cancel_left _ hbits]
  have hpos : 0 < per := Nat.pos_of_ne_zero (by rintro rfl; omega)
  have hl : e * bits / 32 = e / per := by rw [hper, Nat.mul_comm bits, Nat.mul_div_mul_right _ _ hbits]
  have hj : e * bits % 32 = e % per * bits := by rw [hper, Nat.mul_comm bits, Nat.mul_mod_mul_right]
  have hlane : e / per < 64 := by rw [← hl]; omega
  have hjlt : e % per < per := Nat.mod_lt _ hpos
  have hentry : ((vs.drop (e / per * per)).take per)[e % per]? = some x := by
    rw [List.getElem?_take, if_pos hjlt, List.getElem?_drop, Nat.div_add_mod', hx]
  have hfits : e % per * bits + bits ≤ 32 := by
    calc e % per * bits + bits = (e % per + 1) * bits := by ring
      _ ≤ per * bits := Nat.mul_le_mul_right _ hjlt
      _ = 32 := by rw [hper, Nat.mul_comm]
  rw [Thread.at, Thread.at, hl, hj, lane_writeVec th vd bits vs hlane, hp, Nat.shiftRight_eq_div_pow,
    Nat.shiftRight_eq_div_pow]
  split
  next hnone =>
    obtain rfl : x = none := by
      simpa using List.all_eq_true.mp hnone x (List.mem_of_getElem? hentry)
    rw [Option.getD_none, Nat.mod_mod]
  · rw [BitVec.toNat_ofNat, field_mod _ hfits, laneData_elem _ _ _ hentry]
    cases x <;> simp

/-! ## Forms that write elements -/

theorem at_congr {th th' : Thread} (h : th'.v = th.v) (r bits e : Nat) : th'.at r bits e = th.at r bits e := by
  rw [Thread.at, lane_congr (vec_congr h r), Thread.at]

theorem writeVec_v_congr {th th' : Thread} (h : th'.v = th.v) (vd bits : Nat) (vs : List (Option Nat)) :
    (th'.writeVec vd bits vs).v = (th.writeVec vd bits vs).v := by
  simp only [Thread.writeVec, vec_congr h, h]

/-- A form that writes elements completes; each that it lists is its entry, or itself where the entry is absent. -/
theorem exec_elements {s : State} {i : Instr} {w : Half} {d : BitVec 3} {bits : Nat}
    {r : List (Option Nat) × Flags × BitVec 32} (hw : UnitWord i w) (h : s.VectorReady i) (hd : vecWrites i = [d.toNat])
    (he : vecEffect (s.vecOp i w) (s.entered i w) = vecDone d.toNat bits r (s.entered i w)) (hb : bits ∣ 32) :
    ∃ t, exec i s = .next t ∧ ∀ e x, r.1[e]? = some x → e * bits < 2048 →
      (t.thr s.cur).at d.toNat bits e = x.getD (s.me.at d.toNat bits e) % 2 ^ bits := by
  have hstep := vecWritten_computes (u := s.entered i w) hd bits r
  obtain ⟨t, ht, -, -, -, hv, -⟩ := completes hw h (he.trans (vecDone_eq ..)) (vecWritten_ownOnly ..) hstep
  have hv' : (t.thr s.cur).v = (s.me.writeVec d.toNat bits r.1).v := by
    rw [hv, ← entered_cur s i w, vecWritten_thr]
    exact writeVec_v_congr (by rw [entered_me]; exact entered_v ..) ..
  exact ⟨t, ht, fun e x hx h2048 => (at_congr hv' ..).trans (at_writeVec _ _ hb hx h2048)⟩

end Sys2Proof.Machine
end

section
/-! SUPPORT. Selection, shifts across lanes, permutation, broadcast, insertion, extraction, comparison and masks, form
by form (R207, R219, R220, R224). -/

namespace Sys2Proof.Machine

/-! ## What a form reads of the thread that entered the unit -/

theorem at_mod (th : Thread) (r bits e : Nat) : th.at r bits e % 2 ^ bits = th.at r bits e := Nat.mod_mod ..

section
variable (th : Thread) (i : Instr)

@[simp] theorem entered_at (r bits e : Nat) : (th.entered i).at r bits e = th.at r bits e :=
  at_congr (entered_v th i) ..

@[simp] theorem entered_reg (r : Nat) : (th.entered i).reg r = th.reg r := reg_of_g (entered_g th i) r

@[simp] theorem entered_mask (m : Nat) : (th.entered i).mask m = th.mask m := mask_congr (entered_m th i) m

@[simp] theorem entered_on (m : BitVec 3) (e : BitVec 1) (l : Nat) : (th.entered i).on m e l = th.on m e l := by
  rw [Thread.on, entered_mask, Thread.on]

@[simp] theorem entered_srcB (b : BitVec 3) (c : BitVec 1) (bits e : Nat) :
    (th.entered i).srcB b c bits e = th.srcB b c bits e := by
  rw [Thread.srcB, Thread.scalarAt, entered_reg, entered_at, ← Thread.scalarAt, ← Thread.srcB]

@[simp] theorem entered_pick (k : BitVec 3) (w : BitVec 2) : (th.entered i).pick k w = th.pick k w := by
  rw [Thread.pick, entered_reg, Thread.pick]

end

@[simp] theorem entered_gn (s : State) (i : Instr) (w : Half) (g : BitVec 5) : (s.entered i w).gn g = s.gn g := by
  rw [State.gn, State.g, entered_me, entered_reg, ← State.g, ← State.gn]

theorem width_dvd {w : Nat} (h : w < 3) : 8 <<< w ∣ 32 := by interval_cases w <;> decide

theorem elems_width {w : Nat} (h : w < 3) : elems w * (8 <<< w) = 2048 := by interval_cases w <;> decide

section
variable {s : State} {i : Instr} {w : Half} {d : BitVec 3} {bits N : Nat} (hw : UnitWord i w) (h : s.VectorReady i)
  (hd : vecWrites i = [d.toNat]) (hb : bits ∣ 32) (hN : N * bits ≤ 2048)
include hw h hd hb hN

/-- A form that lists an entry for each of its elements. -/
theorem exec_mapped {g : Nat → Option Nat} {fl : Flags} {l : BitVec 32}
    (he : vecEffect (s.vecOp i w) (s.entered i w) =
      vecDone d.toNat bits ((List.range N).map g, fl, l) (s.entered i w)) :
    ∃ t, exec i s = .next t ∧ ∀ e, e < N →
      (t.thr s.cur).at d.toNat bits e = (g e).getD (s.me.at d.toNat bits e) % 2 ^ bits := by
  obtain ⟨t, ht, hat⟩ := exec_elements hw h hd he hb
  refine ⟨t, ht, fun e hlt => hat e (g e) (by simp [hlt]) ?_⟩
  have hpos : 0 < bits := Nat.pos_of_dvd_of_pos hb (by decide)
  calc e * bits < N * bits := Nat.mul_lt_mul_of_pos_right hlt hpos
    _ ≤ 2048 := hN

end

section
variable {s : State} {i : Instr} {w : Half} (hw : UnitWord i w) (h : s.VectorReady i)
include hw h

/-- A form that writes a scalar register. -/
theorem exec_setG {g : BitVec 5} {v : Word} (hs : (vecScalars i).2 = [g.toNat])
    (he : vecEffect (s.vecOp i w) (s.entered i w) = .done ((s.entered i w).setG g v)) (hg : g ≠ 0) :
    ∃ t, exec i s = .next t ∧ (t.thr s.cur).reg g.toNat = v := by
  have hthr : ((s.entered i w).setG g v).thr (s.entered i w).cur = (s.entered i w).me.put g.toNat v :=
    thr_modThr_same ..
  obtain ⟨t, ht, -, -, -, -, hreg, -⟩ := completes hw h he (.modMe ..) (hthr ▸ .put hs v)
  refine ⟨t, ht, ?_⟩
  rw [reg_of_g hreg, ← entered_cur s i w, hthr, reg_put_same _ _ _ g.isLt]
  exact fun h0 => hg (BitVec.eq_of_toNat_eq h0)

/-- A form that writes a mask register. -/
theorem exec_setMask {d : BitVec 3} {f : Thread → Word} {fl : Flags} (hd : i.maskDest = some d.toNat)
    (he : vecEffect (s.vecOp i w) (s.entered i w) =
      .done (((s.entered i w).modMe fun th => th.setMask d.toNat (f th)).raise (s.entered i w).cur fl)) :
    ∃ t, exec i s = .next t ∧ (t.thr s.cur).mask d.toNat = f (s.me.entered i) := by
  have hthr := modMe_raise_me (s.entered i w) (fun th => th.setMask d.toNat (f th)) fl
  obtain ⟨t, ht, -, -, -, -, -, hmask⟩ := completes hw h he ((State.OwnOnly.modMe ..).trans (.raise ..))
    (hthr ▸ (Thread.Computes.setMask hd _).flagged fl)
  refine ⟨t, ht, ?_⟩
  rw [mask_congr hmask, ← entered_cur s i w, hthr, ← entered_me s i w]
  exact mask_setMask_same ..

end

theorem srcB_mod (th : Thread) (b : BitVec 3) (c : BitVec 1) (bits e : Nat) :
    th.srcB b c bits e % 2 ^ bits = th.srcB b c bits e := by
  unfold Thread.srcB Thread.scalarAt
  split
  · exact Nat.mod_mod ..
  · exact at_mod ..

/-- A rotation by `n` places brings an element back to where it came from. -/
theorem rotate_back {i n N : Nat} (hi : i < N) (hn : n < N) : ((i + n) % N + N - n) % N = i := by
  by_cases h : i + n < N
  · rw [Nat.mod_eq_of_lt h, Nat.add_right_comm, Nat.add_sub_cancel, Nat.add_mod_right, Nat.mod_eq_of_lt hi]
  · have hsub : (i + n) % N = i + n - N := by
      rw [Nat.mod_eq_sub_mod (by omega), Nat.mod_eq_of_lt (by omega)]
    rw [hsub, show i + n - N + N - n = i by omega, Nat.mod_eq_of_lt hi]

/-! ## Selection, shifts across lanes, permutation, broadcast and insertion (R207, R219, R220) -/

section
variable {s : State} {d a b m k : BitVec 3} {w : BitVec 2} {e u : BitVec 1} {nn : BitVec 7} {g : BitVec 5}

theorem vsel_lanes (h : s.VectorReady (.vsel d a b m u)) :
    ∃ t, exec (.vsel d a b m u) s = .next t ∧ ∀ l, l < 64 → (t.thr s.cur).at d.toNat 32 l =
      if (s.me.mask m.toNat).getLsbD l then s.me.at a.toNat 32 l else s.me.srcB b u 32 l := by
  obtain ⟨x, hx⟩ := laneOp_unitWord (i := .vsel d a b m u) rfl
  obtain ⟨t, ht, hat⟩ := exec_mapped (N := 64) hx h rfl (by decide) (by decide) rfl
  refine ⟨t, ht, fun l hl => ?_⟩
  rw [hat l hl]
  simp only [entered_me, entered_mask, entered_at, entered_srcB, Option.getD_some]
  split
  · exact at_mod ..
  · exact srcB_mod ..

section
variable (hw : w.toNat < 3)
include hw

/-- The lane shifts: each element comes from the source and the place that `shiftSrc` names. -/
theorem laneShift_elements {i : Instr} {x : Half} (op : Nat) (hx : UnitWord i x) (h : s.VectorReady i)
    (hd : vecWrites i = [d.toNat]) (he : ∀ u, vecEffect (s.vecOp i x) u = laneShift op d a b w nn u) :
    ∃ t, exec i s = .next t ∧ ∀ j, j < elems w.toNat → (t.thr s.cur).at d.toNat (8 <<< w.toNat) j =
      s.me.at (if (shiftSrc op nn.toNat (elems w.toNat) j).1 then a else b).toNat (8 <<< w.toNat)
        (shiftSrc op nn.toNat (elems w.toNat) j).2 := by
  obtain ⟨t, ht, hat⟩ := exec_mapped hx h hd (width_dvd hw) (elems_width hw).le (he _)
  refine ⟨t, ht, fun j hj => ?_⟩
  rw [hat j hj, Option.getD_some, entered_me, entered_at]
  exact at_mod ..

theorem vshup_elements (h : s.VectorReady (.vshup d a b w nn)) :
    ∃ t, exec (.vshup d a b w nn) s = .next t ∧ ∀ i, i < elems w.toNat →
      (t.thr s.cur).at d.toNat (8 <<< w.toNat) i =
        if nn.toNat ≤ i then s.me.at a.toNat (8 <<< w.toNat) (i - nn.toNat)
        else s.me.at b.toNat (8 <<< w.toNat) (elems w.toNat - nn.toNat + i) := by
  obtain ⟨x, hx⟩ := laneOp_unitWord (i := .vshup d a b w nn) rfl
  obtain ⟨t, ht, hat⟩ := laneShift_elements hw 0 hx h rfl fun _ => rfl
  refine ⟨t, ht, fun i hi => ?_⟩
  rw [hat i hi, shiftSrc]
  split <;> rfl

theorem vshdn_elements (h : s.VectorReady (.vshdn d a b w nn)) :
    ∃ t, exec (.vshdn d a b w nn) s = .next t ∧ ∀ i, i < elems w.toNat →
      (t.thr s.cur).at d.toNat (8 <<< w.toNat) i =
        if i + nn.toNat < elems w.toNat then s.me.at a.toNat (8 <<< w.toNat) (i + nn.toNat)
        else s.me.at b.toNat (8 <<< w.toNat) (i + nn.toNat - elems w.toNat) := by
  obtain ⟨x, hx⟩ := laneOp_unitWord (i := .vshdn d a b w nn) rfl
  obtain ⟨t, ht, hat⟩ := laneShift_elements hw 1 hx h rfl fun _ => rfl
  refine ⟨t, ht, fun i hi => ?_⟩
  rw [hat i hi, shiftSrc]
  split <;> rfl

theorem vrot_elements (hn : nn.toNat < elems w.toNat) (h : s.VectorReady (.vrot d a w nn)) :
    ∃ t, exec (.vrot d a w nn) s = .next t ∧ ∀ i, i < elems w.toNat →
      (t.thr s.cur).at d.toNat (8 <<< w.toNat) ((i + nn.toNat) % elems w.toNat) =
        s.me.at a.toNat (8 <<< w.toNat) i := by
  obtain ⟨x, hx⟩ := laneOp_unitWord (i := .vrot d a w nn) rfl
  obtain ⟨t, ht, hat⟩ := laneShift_elements (a := a) (b := a) hw 2 hx h rfl fun _ => rfl
  refine ⟨t, ht, fun i hi => ?_⟩
  have hsrc (j : Nat) : (shiftSrc 2 nn.toNat (elems w.toNat) j).2 = (j + elems w.toNat - nn.toNat) % elems w.toNat :=
    rfl
  rw [hat _ (Nat.mod_lt _ (by omega)), ite_self, hsrc, rotate_back hi hn]

theorem vperm_elements (h : s.VectorReady (.vperm d a b m w e)) :
    ∃ t, exec (.vperm d a b m w e) s = .next t ∧ ∀ i, i < elems w.toNat →
      (t.thr s.cur).at d.toNat (8 <<< w.toNat) i =
        if s.me.on m e (i * (8 <<< w.toNat) / 32) then
          s.me.at a.toNat (8 <<< w.toNat) (s.me.at b.toNat (8 <<< w.toNat) i % elems w.toNat)
        else s.me.at d.toNat (8 <<< w.toNat) i := by
  obtain ⟨x, hx⟩ := laneOp_unitWord (i := .vperm d a b m w e) rfl
  obtain ⟨t, ht, hat⟩ := exec_mapped hx h rfl (width_dvd hw) (elems_width hw).le rfl
  refine ⟨t, ht, fun i hi => ?_⟩
  rw [hat i hi]
  simp only [entered_me, entered_on, entered_at]
  split <;> exact at_mod ..

theorem vbcast_elements (h : s.VectorReady (.vbcast d w g)) :
    ∃ t, exec (.vbcast d w g) s = .next t ∧ ∀ i, i < elems w.toNat →
      (t.thr s.cur).at d.toNat (8 <<< w.toNat) i = s.gn g % 2 ^ (8 <<< w.toNat) := by
  obtain ⟨x, hx⟩ := laneOp_unitWord (i := .vbcast d w g) rfl
  obtain ⟨t, ht, hat⟩ := exec_mapped (N := elems w.toNat) (g := fun _ => some (s.gn g % 2 ^ (8 <<< w.toNat)))
    hx h rfl (width_dvd hw) (elems_width hw).le (by
      simp only [List.map_const', List.length_range]
      rw [← entered_gn s (.vbcast d w g) x g]
      rfl)
  refine ⟨t, ht, fun i hi => ?_⟩
  rw [hat i hi]
  exact Nat.mod_mod ..

theorem vins_elements (h : s.VectorReady (.vins d k w g)) :
    ∃ t, exec (.vins d k w g) s = .next t ∧ ∀ i, i < elems w.toNat →
      (t.thr s.cur).at d.toNat (8 <<< w.toNat) i =
        if i = s.me.pick k w then s.gn g % 2 ^ (8 <<< w.toNat) else s.me.at d.toNat (8 <<< w.toNat) i := by
  obtain ⟨x, hx⟩ := laneOp_unitWord (i := .vins d k w g) rfl
  obtain ⟨t, ht, hat⟩ := exec_mapped hx h rfl (width_dvd hw) (elems_width hw).le rfl
  refine ⟨t, ht, fun i hi => ?_⟩
  rw [hat i hi]
  simp only [entered_me, entered_pick, entered_gn]
  split
  · exact Nat.mod_mod ..
  · exact at_mod ..

end

theorem vext_value (hg : g ≠ 0) (h : s.VectorReady (.vext a k w g u)) :
    ∃ t, exec (.vext a k w g u) s = .next t ∧ (t.thr s.cur).reg g.toNat =
      if u = 1 then BitVec.ofNat 64 (s.me.at a.toNat (8 <<< w.toNat) (s.me.pick k w))
      else BitVec.ofInt 64 (signedOf (8 <<< w.toNat) (s.me.at a.toNat (8 <<< w.toNat) (s.me.pick k w))) := by
  obtain ⟨x, hx⟩ := laneOp_unitWord (i := .vext a k w g u) rfl
  obtain ⟨t, ht, hreg⟩ := exec_setG hx h rfl rfl hg
  refine ⟨t, ht, ?_⟩
  rw [hreg, entered_me, entered_pick, entered_at]

end

/-! ## Masks (R207, R224) -/

theorem raise_none (s : State) (t : Nat) : s.raise t 0#5 = s := if_pos rfl

section
variable {s : State} {d a b m : BitVec 3} {w t : BitVec 2} {e u : BitVec 1} {c : BitVec 3} {g : BitVec 5}

/-- The forms that combine two masks. -/
theorem maskOp_mask {i : Instr} (f : Word → Word → Word) (hl : i.isLaneOp = true) (h : s.VectorReady i)
    (hd : i.maskDest = some d.toNat)
    (he : ∀ x u, vecEffect (s.vecOp i x) u =
      .done (u.modMe fun th => th.setMask d.toNat (f (th.mask a.toNat) (th.mask b.toNat)))) :
    ∃ v, exec i s = .next v ∧ (v.thr s.cur).mask d.toNat = f (s.me.mask a.toNat) (s.me.mask b.toNat) := by
  obtain ⟨x, hx⟩ := laneOp_unitWord hl
  obtain ⟨v, hv, hm⟩ := exec_setMask (f := fun th => f (th.mask a.toNat) (th.mask b.toNat)) hx h hd
    ((he x _).trans (congrArg Res.done (raise_none ..).symm))
  refine ⟨v, hv, ?_⟩
  rw [hm, entered_mask, entered_mask]

theorem vmand_mask (h : s.VectorReady (.vmand d a b)) :
    ∃ v, exec (.vmand d a b) s = .next v ∧ (v.thr s.cur).mask d.toNat = s.me.mask a.toNat &&& s.me.mask b.toNat :=
  maskOp_mask (· &&& ·) rfl h rfl fun _ _ => rfl

theorem vmor_mask (h : s.VectorReady (.vmor d a b)) :
    ∃ v, exec (.vmor d a b) s = .next v ∧ (v.thr s.cur).mask d.toNat = s.me.mask a.toNat ||| s.me.mask b.toNat :=
  maskOp_mask (· ||| ·) rfl h rfl fun _ _ => rfl

theorem vpopc_count (hg : g ≠ 0) (h : s.VectorReady (.vpopc a g)) :
    ∃ v, exec (.vpopc a g) s = .next v ∧ (v.thr s.cur).reg g.toNat =
      BitVec.ofNat 64 ((List.range 64).map fun l => ((s.me.mask a.toNat).getLsbD l).toNat).sum := by
  obtain ⟨x, hx⟩ := laneOp_unitWord (i := .vpopc a g) rfl
  obtain ⟨v, hv, hreg⟩ := exec_setG hx h rfl rfl hg
  refine ⟨v, hv, ?_⟩
  rw [hreg, entered_me, entered_mask, List.countP_eq_length_filter, length_filter_eq_sum]
  rfl

/-- Bit `l` of a number set to `b`. -/
def putBit (v l : Nat) (b : Bool) : Nat :=
  let keep := v - (if v.testBit l then 2 ^ l else 0)
  if b then keep + 2 ^ l else keep

theorem putBit_eq (v l : Nat) (b : Bool) :
    putBit v l b = 2 ^ l * (2 * (v / 2 ^ l / 2) + b.toNat) + v % 2 ^ l := by
  have hv := Nat.div_add_mod v (2 ^ l)
  have hq := Nat.div_add_mod (v / 2 ^ l) 2
  generalize v / 2 ^ l / 2 = r at hq ⊢
  have hkeep : v - (if v.testBit l then 2 ^ l else 0) = 2 ^ l * (2 * r) + v % 2 ^ l := by
    rw [Nat.testBit_eq_decide_div_mod_eq]
    rcases Nat.mod_two_eq_zero_or_one (v / 2 ^ l) with h | h <;> rw [h] at hq ⊢
    · simp only [Nat.zero_ne_one, decide_false, Bool.false_eq_true, if_false, Nat.sub_zero]
      have hr : 2 * r = v / 2 ^ l := hq
      rw [hr, hv]
    · simp only [decide_true, if_true]
      rw [← hq, Nat.mul_add] at hv
      omega
  cases b
  · simp [putBit, hkeep]
  · simp only [putBit, hkeep, if_true, Bool.toNat_true]
    ring

theorem putBit_testBit (v l : Nat) (b : Bool) (k : Nat) :
    (putBit v l b).testBit k = if k = l then b else v.testBit k := by
  have hlt : v % 2 ^ l < 2 ^ l := Nat.mod_lt _ (Nat.two_pow_pos l)
  conv_rhs => rw [← Nat.div_add_mod v (2 ^ l)]
  rw [putBit_eq, Nat.testBit_two_pow_mul_add _ hlt, Nat.testBit_two_pow_mul_add _ hlt]
  rcases lt_trichotomy k l with h | rfl | h
  · simp [h, h.ne]
  · cases b <;> simp [Nat.testBit_zero]
  · obtain ⟨j, hj⟩ : ∃ j, k - l = j + 1 := ⟨k - l - 1, by omega⟩
    have hhalf : (2 * (v / 2 ^ l / 2) + b.toNat) / 2 = v / 2 ^ l / 2 := by cases b <;> simp [Nat.mul_add_div]
    rw [if_neg h.not_gt, if_neg h.not_gt, if_neg h.ne', hj, Nat.testBit_succ, Nat.testBit_succ, hhalf]

/-- A bit of a number in which the bits of a list have been set. -/
theorem foldl_putBit_testBit (p : Nat → Bool) (ls : List Nat) (v k : Nat) :
    (ls.foldl (fun v l => putBit v l (p l)) v).testBit k = if k ∈ ls then p k else v.testBit k := by
  induction ls generalizing v with
  | nil => simp
  | cons l ls ih =>
    rw [List.foldl_cons, ih, putBit_testBit]
    by_cases hk : k = l
    · simp [hk]
    · simp [hk]

theorem mem_onLanes (th : Thread) (m : BitVec 3) (e : BitVec 1) {l : Nat} (hl : l < 64) :
    l ∈ th.onLanes m e ↔ th.on m e l = true := by
  simp [Thread.onLanes, hl]

/-- Whether the elements `i` of two sources compare as a condition says, under an integer type. -/
def Thread.compares (th : Thread) (a b : BitVec 3) (w t : BitVec 2) (u : BitVec 1) (c : BitVec 3) (i : Nat) : Bool :=
  intCmp c.toNat (typeInt w.toNat t.toNat (th.at a.toNat (8 <<< w.toNat) i))
    (typeInt w.toNat t.toNat (th.srcB b u (8 <<< w.toNat) i))

@[simp] theorem entered_compares (th : Thread) (i : Instr) :
    (th.entered i).compares a b w t u c = th.compares a b w t u c := by
  funext j
  rw [Thread.compares, entered_at, entered_srcB, ← Thread.compares]

@[simp] theorem entered_onLanes (th : Thread) (i : Instr) : (th.entered i).onLanes m e = th.onLanes m e :=
  List.filter_congr fun _ _ => entered_on ..

/-- VCMP sets each selected lane's bit to the conjunction of its elements' comparisons. -/
theorem vcmpBody_eq (hf : typeFloat t.toNat = false) (s : State) : ∃ fl, vcmpBody d a b m w e t u c s =
    .done ((s.modMe fun th => th.setMask d.toNat (BitVec.ofNat 64 ((s.me.onLanes m e).foldl (fun v l =>
      putBit v l ((List.range (32 / (8 <<< w.toNat))).all fun j =>
        s.me.compares a b w t u c (l * (32 / (8 <<< w.toNat)) + j)))
        (s.me.mask d.toNat).toNat))).raise s.cur fl) := by
  simp only [vcmpBody, hf, List.foldl_map, List.all_map]
  exact ⟨_, rfl⟩

theorem vcmp_mask (ht : t.toNat < 2) (h : s.VectorReady (.vcmp d a b m w e t u c)) :
    ∃ v, exec (.vcmp d a b m w e t u c) s = .next v ∧ ∀ l, l < 64 → ((v.thr s.cur).mask d.toNat).getLsbD l =
      if s.me.on m e l then
        (List.range (32 / (8 <<< w.toNat))).all fun j => s.me.compares a b w t u c (l * (32 / (8 <<< w.toNat)) + j)
      else (s.me.mask d.toNat).getLsbD l := by
  obtain ⟨x, hx⟩ := laneOp_unitWord (i := .vcmp d a b m w e t u c) rfl
  obtain ⟨fl, he⟩ := vcmpBody_eq (d := d) (a := a) (b := b) (m := m) (w := w) (e := e) (u := u) (c := c)
    (by simpa [typeFloat] using ht) (s.entered (.vcmp d a b m w e t u c) x)
  obtain ⟨v, hv, hm⟩ := exec_setMask hx h rfl he
  refine ⟨v, hv, fun l hl => ?_⟩
  rw [hm, BitVec.getLsbD_ofNat, entered_me, foldl_putBit_testBit, entered_onLanes, entered_compares, entered_mask]
  simp only [hl, decide_true, Bool.true_and, mem_onLanes _ _ _ hl, BitVec.testBit_toNat]

end

/-- The comparison of integer elements by condition code. -/
theorem intCmp_eq (c : BitVec 3) (x y : Int) : intCmp c.toNat x y =
    if c = 0 then x == y else if c = 1 then x != y else if c = 2 then decide (x < y) else decide (x ≤ y) := by
  unfold intCmp
  split
  next hc => exact (if_pos (BitVec.eq_of_toNat_eq hc)).symm
  next hc =>
    obtain rfl : c = 1 := BitVec.eq_of_toNat_eq hc
    rfl
  next hc =>
    obtain rfl : c = 2 := BitVec.eq_of_toNat_eq hc
    rfl
  next h0 h1 h2 =>
    rw [if_neg fun h => h0 (congrArg BitVec.toNat h), if_neg fun h => h1 (congrArg BitVec.toNat h),
      if_neg fun h => h2 (congrArg BitVec.toNat h)]

/-- Settles O31: each form lists where its elements come from. -/
theorem vectorMovesAndMasks : Obligations.VectorMovesAndMasks := by
  unfold Obligations.VectorMovesAndMasks
  constructor
  · rintro s d a b m k w e u nn g n N p hw rfl rfl rfl
    exact ⟨fun h _ => vsel_lanes h, fun _ h => vshup_elements hw h, fun _ h => vshdn_elements hw h,
      fun hn h => vrot_elements hw hn h, fun h => vperm_elements hw h, fun h => vbcast_elements hw h,
      fun h => vins_elements hw h, fun h hg => vext_value hg h⟩
  · rintro s d a b m w t e u c g n rfl
    refine ⟨fun _ ht h => ?_, fun _ _ _ hand hor => ?_, fun _ hg h => vpopc_count hg h⟩
    · obtain ⟨v, hv, hmask⟩ := vcmp_mask ht h
      refine ⟨v, hv, fun l hl => ?_⟩
      simp only [hmask l hl, Thread.compares, intCmp_eq]
      rfl
    · obtain ⟨v, hv, hm⟩ := vmand_mask hand
      obtain ⟨v', hv', hm'⟩ := vmor_mask hor
      exact ⟨v, v', hv, hv', hm, hm'⟩

end Sys2Proof.Machine
end

section
/-! SUPPORT. Conversions, dequantisation, dot products and transcendentals, element by element, under a mode that is not
stochastic (R37, R213, R215, R222, R223). -/

namespace Sys2Proof.Machine

/-! ## Roundings that draw on nothing (R37, R38) -/

section
variable (z : Nat) (neg odd st : Bool) (lo sh : Nat)

theorem roundsUp_nearest :
    roundsUp 0 z neg odd st lo sh = (decide (2 ^ sh < 2 * lo) || (2 ^ sh == 2 * lo && (st || odd))) := rfl

theorem roundsUp_zero : roundsUp 1 z neg odd st lo sh = false := rfl

theorem roundsUp_up : roundsUp 2 z neg odd st lo sh = (!neg && (lo != 0 || st)) := rfl

theorem roundsUp_down : roundsUp 3 z neg odd st lo sh = (neg && (lo != 0 || st)) := rfl

end

section
variable {mode : Nat} (hm : mode < 4)
include hm

/-- Only stochastic rounding looks at the LFSR. -/
theorem roundsUp_draw (z : Nat) (neg odd st : Bool) (lo sh : Nat) :
    roundsUp mode z neg odd st lo sh = roundsUp mode 0 neg odd st lo sh := by
  obtain rfl | rfl | rfl | rfl : mode = 0 ∨ mode = 1 ∨ mode = 2 ∨ mode = 3 := by omega
  · rw [roundsUp_nearest, roundsUp_nearest]
  · rw [roundsUp_zero, roundsUp_zero]
  · rw [roundsUp_up, roundsUp_up]
  · rw [roundsUp_down, roundsUp_down]

theorem roundMag_draw (p : Nat) (emin : Int) (z : Nat) (neg : Bool) (man : Nat) (exp : Int) (st : Bool) :
    roundMag p emin mode z neg man exp st = roundMag p emin mode 0 neg man exp st := by
  simp only [roundMag, roundsUp_draw hm z]

theorem roundTo_draw (f : Nat) (sat : Bool) (z : Nat) (v : Num) : roundTo f mode sat z v = roundTo f mode sat 0 v := by
  unfold roundTo
  cases floatFmt f with
  | none =>
    cases v with
    | nan | inf => rfl
    | fin neg man exp st => simp only [roundsUp_draw hm z]
  | some k =>
    cases v with
    | nan | inf => rfl
    | fin neg man exp st => simp only [roundMag_draw hm _ _ z]

theorem convertBits_draw (fs fd : Nat) (sat : Bool) (z x : Nat) :
    convertBits fs fd mode sat z x = convertBits fs fd mode sat 0 x := by
  simp only [convertBits, roundTo_draw hm _ _ z]

end

/-- Without draws each element is by itself. -/
theorem elemFold_map (f : Nat → Nat → Option (Nat × Flags)) (es : List Nat) (l : BitVec 32) :
    (elemFold false f es l).1 = es.map fun e => (f e (lfsrZ l)).map (·.1) := by
  induction es with
  | nil => rfl
  | cons e es ih => exact congrArg (_ :: ·) ih

/-- Without a prefix an instruction rounds under TSR.RM and does not saturate. -/
theorem vecOp_mode {s : State} (hp : s.me.tsr.pp = false) (i : Instr) (w : Half) (j : Instr) :
    (s.vecOp i w).mode (s.me.entered j) = s.me.tsr.rm.toNat := by
  simp [UnitOp.mode, State.vecOp, State.pending, hp, roundMode]

theorem vecOp_sat {s : State} (hp : s.me.tsr.pp = false) (i : Instr) (w : Half) : (s.vecOp i w).sat = false := by
  simp [UnitOp.sat, State.vecOp, State.pending, hp]

/-- A form that computes its elements one by one, at a mode without draws, from element `d0`. -/
theorem exec_foldedFrom {s : State} {i : Instr} {w : Half} {d : BitVec 3} {bits d0 N : Nat} (hw : UnitWord i w)
    (h : s.VectorReady i) (hd : vecWrites i = [d.toNat]) (hb : bits ∣ 32) {rst : Bool}
    (hr : rst = false) {f : Nat → Nat → Option (Nat × Flags)} {l : BitVec 32}
    (he : vecEffect (s.vecOp i w) (s.entered i w) =
      vecDone d.toNat bits (List.replicate d0 none ++ (elemFold rst f (List.range N) l).1,
        (elemFold rst f (List.range N) l).2) (s.entered i w)) :
    ∃ t, exec i s = .next t ∧ ∀ e, e < N → (d0 + e) * bits < 2048 → (t.thr s.cur).at d.toNat bits (d0 + e) =
      ((f e (lfsrZ l)).map (·.1)).getD (s.me.at d.toNat bits (d0 + e)) % 2 ^ bits := by
  obtain ⟨t, ht, hat⟩ := exec_elements hw h hd he hb
  refine ⟨t, ht, fun e hlt hfits => hat _ _ ?_ hfits⟩
  simp [hr, elemFold_map, hlt]

/-- A form that computes its elements one by one, at a mode without draws. -/
theorem exec_folded {s : State} {i : Instr} {w : Half} {d : BitVec 3} {bits N : Nat} (hw : UnitWord i w)
    (h : s.VectorReady i) (hd : vecWrites i = [d.toNat]) (hb : bits ∣ 32) (hN : N * bits ≤ 2048) {rst : Bool}
    (hr : rst = false) {f : Nat → Nat → Option (Nat × Flags)} {l : BitVec 32}
    (he : vecEffect (s.vecOp i w) (s.entered i w) =
      vecDone d.toNat bits (elemFold rst f (List.range N) l) (s.entered i w)) :
    ∃ t, exec i s = .next t ∧ ∀ e, e < N → (t.thr s.cur).at d.toNat bits e =
      ((f e (lfsrZ l)).map (·.1)).getD (s.me.at d.toNat bits e) % 2 ^ bits := by
  refine exec_mapped hw h hd hb hN (g := fun e => (f e (lfsrZ l)).map (·.1))
    (fl := (elemFold rst f (List.range N) l).2.1) (l := (elemFold rst f (List.range N) l).2.2) ?_
  rw [he, hr, ← elemFold_map]

@[simp] theorem entered_scalarAt (th : Thread) (i : Instr) (k : BitVec 3) (bits : Nat) :
    (th.entered i).scalarAt k bits = th.scalarAt k bits := by
  rw [Thread.scalarAt, entered_reg, ← Thread.scalarAt]

/-! ## Ranges of a conversion (R213) -/

theorem cvtCode_width {f : Nat} (h : cvtCode f = true) : 0 < fmtWidth f ∧ fmtWidth f ∣ 32 := by
  have hf : f < 14 := by
    simp only [cvtCode, Bool.or_eq_true, decide_eq_true_eq, beq_iff_eq] at h
    omega
  revert h
  interval_cases f <;> decide

/-- The elements that a part of a conversion writes lie in the register. -/
theorem cvtRange_fits {fs fd k : Nat} (hk : cvtPart fs fd k = true) (hd : 0 < fmtWidth fd) {i : Nat}
    (hi : i < (cvtRange fs fd k).2.2) : ((cvtRange fs fd k).2.1 + i) * fmtWidth fd < 2048 := by
  have hk' : k < max (fmtWidth fs) (fmtWidth fd) / min (fmtWidth fs) (fmtWidth fd) := by simpa [cvtPart] using hk
  simp only [cvtRange] at hi ⊢
  generalize fmtWidth fs = ws at *
  generalize fmtWidth fd = wd at *
  have hn : 2048 / max ws wd * max ws wd ≤ 2048 := Nat.div_mul_le_self ..
  generalize 2048 / max ws wd = n at *
  split
  next hlt =>
    rw [max_eq_left hlt.le, min_eq_right hlt.le] at hk'
    rw [max_eq_left hlt.le] at hn
    calc (k * n + i) * wd < (k + 1) * n * wd := by gcongr; rw [Nat.succ_mul]; omega
      _ ≤ ws / wd * n * wd := by gcongr; exact hk'
      _ = n * (ws / wd * wd) := by ring
      _ ≤ n * ws := by gcongr; exact Nat.div_mul_le_self ..
      _ ≤ 2048 := hn
  next hge =>
    calc (0 + i) * wd < n * wd := by gcongr; omega
      _ ≤ n * max ws wd := by gcongr; exact le_max_right ..
      _ ≤ 2048 := hn

/-! ## Elements of each form -/

theorem wrapInt_lt (w : Nat) (x : Int) : wrapInt w x < 2 ^ w := by
  have hpos : (0 : Int) < 2 ^ w := by positivity
  have h0 := Int.emod_nonneg x hpos.ne'
  have h1 := Int.emod_lt_of_pos x hpos
  unfold wrapInt
  zify
  rwa [Int.toNat_of_nonneg h0]

theorem foldl_add_eq_sum {α : Type} (f : α → Int) (xs : List α) (x0 : Int) :
    xs.foldl (fun acc x => acc + f x) x0 = x0 + (xs.map f).sum := by
  induction xs generalizing x0 with
  | nil => simp
  | cons x xs ih => rw [List.foldl_cons, ih, List.map_cons, List.sum_cons, Int.add_assoc]

section
variable {s : State} {d a b k m p : BitVec 3} {fs ff : BitVec 4} {t : BitVec 2} {w : BitVec 1} {e : BitVec 1}
  (hrm : s.me.tsr.rm.toNat < 4) (hp : s.me.tsr.pp = false)
include hrm hp

theorem vcvt_elements (hwf : (Instr.vcvt d a k m fs ff e).wf = true) (h : s.VectorReady (.vcvt d a k m fs ff e))
    {s0 d0 n : Nat} (hrange : (s0, d0, n) = cvtRange fs.toNat ff.toNat k.toNat) :
    ∃ u, exec (.vcvt d a k m fs ff e) s = .next u ∧ ∀ i, i < n →
      (u.thr s.cur).at d.toNat (fmtWidth ff.toNat) (d0 + i) =
        if s.me.on m e ((d0 + i) * fmtWidth ff.toNat / 32) then
          (convertBits fs.toNat ff.toNat s.me.tsr.rm.toNat false 0 (s.me.at a.toNat (fmtWidth fs.toNat) (s0 + i))).1
            % 2 ^ fmtWidth ff.toNat
        else s.me.at d.toNat (fmtWidth ff.toNat) (d0 + i) := by
  obtain ⟨x, hx⟩ := laneOp_unitWord (i := .vcvt d a k m fs ff e) rfl
  have hmode := vecOp_mode hp (.vcvt d a k m fs ff e) x (.vcvt d a k m fs ff e)
  simp only [Instr.wf, Bool.and_eq_true] at hwf
  obtain ⟨⟨⟨-, hcode⟩, hpart⟩, -⟩ := hwf
  obtain ⟨hpos, hdvd⟩ := cvtCode_width hcode
  have hfits (i : Nat) := cvtRange_fits hpart hpos (i := i)
  simp only [cvtRange, Prod.mk.injEq] at hrange hfits
  obtain ⟨rfl, rfl, rfl⟩ := hrange
  obtain ⟨u, hu, hat⟩ := exec_foldedFrom hx h rfl hdvd
    (by rw [entered_me, hmode]; exact beq_eq_false_iff_ne.mpr hrm.ne) rfl
  refine ⟨u, hu, fun i hi => ?_⟩
  rw [hat i hi (hfits i hi), entered_me, hmode, vecOp_sat hp, convertBits_draw hrm, entered_on, entered_at]
  cases s.me.on m e _
  · exact at_mod ..
  · rfl

theorem vdqnt_elements (h : s.VectorReady (.vdqnt d a k p fs)) :
    ∃ u, exec (.vdqnt d a k p fs) s = .next u ∧ ∀ i, i < 64 → (u.thr s.cur).at d.toNat 32 i =
      (roundTo 4 s.me.tsr.rm.toNat false 0 (scaledNum fs.toNat (s.me.scalarAt k 8)
        (s.me.at a.toNat (if fs = 10 then 8 else 4) (64 * p.toNat + i)))).1 % 2 ^ 32 := by
  obtain ⟨x, hx⟩ := laneOp_unitWord (i := .vdqnt d a k p fs) rfl
  have hmode := vecOp_mode hp (.vdqnt d a k p fs) x (.vdqnt d a k p fs)
  obtain ⟨u, hu, hat⟩ := exec_folded (N := 64) hx h rfl (by decide) (by decide)
    (by rw [entered_me, hmode]; exact beq_eq_false_iff_ne.mpr hrm.ne) rfl
  refine ⟨u, hu, fun i hi => ?_⟩
  rw [hat i hi, entered_me, hmode, vecOp_sat hp, roundTo_draw hrm, entered_scalarAt, entered_at]
  rfl

omit hrm in
theorem vdot_lanes (ht : t.toNat < 2) (h : s.VectorReady (.vdot d a b m 0 e t)) :
    ∃ u, exec (.vdot d a b m 0 e t) s = .next u ∧ ∀ l, l < 64 → (u.thr s.cur).at d.toNat 32 l =
      if s.me.on m e l then
        wrapInt 32 (signedOf 32 (s.me.at d.toNat 32 l) + ((List.range 4).map fun j =>
          typeInt 0 t.toNat (s.me.at a.toNat 8 (4 * l + j)) * typeInt 0 t.toNat (s.me.at b.toNat 8 (4 * l + j))).sum)
      else s.me.at d.toNat 32 l := by
  obtain ⟨x, hx⟩ := laneOp_unitWord (i := .vdot d a b m 0 e t) rfl
  have hflt : typeFloat t.toNat = false := by simpa [typeFloat] using ht
  obtain ⟨u, hu, hat⟩ := exec_folded (N := 64) hx h rfl (by decide) (by decide) (by rw [hflt]; rfl) rfl
  refine ⟨u, hu, fun l hl => ?_⟩
  rw [hat l hl]
  simp only [hflt, entered_me, entered_at, entered_on, vecOp_sat hp]
  cases s.me.on m e l
  · exact at_mod ..
  · refine (Nat.mod_eq_of_lt (wrapInt_lt 32 _)).trans (congrArg (wrapInt 32) ?_)
    rw [List.foldl_map, foldl_add_eq_sum, Nat.mul_comm 4 l]
    rfl

theorem trans_lanes {i : Instr} {op : Nat} (hl : i.isLaneOp = true) (h : s.VectorReady i)
    (hd : vecWrites i = [d.toNat]) (he : ∀ x u, vecEffect (s.vecOp i x) u = transBody op d a m e (s.vecOp i x) u) :
    ∃ u, exec i s = .next u ∧ ∀ l, l < 64 → (u.thr s.cur).at d.toNat 32 l =
      if s.me.on m e l then
        (roundTo 4 s.me.tsr.rm.toNat false 0 (transOp op (readNum 4 (s.me.at a.toNat 32 l))).1).1 % 2 ^ 32
      else s.me.at d.toNat 32 l := by
  obtain ⟨x, hx⟩ := laneOp_unitWord hl
  have hmode := vecOp_mode hp i x i
  obtain ⟨u, hu, hat⟩ := exec_folded (N := 64) hx h hd (by decide) (by decide)
    (by rw [entered_me, hmode]; exact beq_eq_false_iff_ne.mpr hrm.ne) (he x _)
  refine ⟨u, hu, fun l hl => ?_⟩
  rw [hat l hl]
  simp only [entered_me, entered_on, entered_at, hmode, vecOp_sat hp, roundTo_draw hrm _ _ (lfsrZ _)]
  cases s.me.on m e l
  · exact at_mod ..
  · rfl

end

/-- Settles O32: each form computes its elements one by one, and draws nothing. -/
theorem vectorConversions : Obligations.VectorConversions := by
  unfold Obligations.VectorConversions
  rintro s d a b k m p fs ff t w1 e rm rfl hrm hp
  refine ⟨fun hwf h => ?_, fun _ h => vdqnt_elements hrm hp h, ?_, ?_⟩
  · obtain ⟨u, hu, hat⟩ := vcvt_elements hrm hp hwf h rfl
    refine ⟨u, hu, fun i s0 d0 n hrange hi => ?_⟩
    simp only [Prod.ext_iff] at hrange
    obtain ⟨rfl, rfl, rfl⟩ := hrange
    exact hat i hi
  · rintro ht rfl h
    exact vdot_lanes hp ht h
  · rintro i f h hi
    rcases hi with ⟨rfl, rfl⟩ | ⟨rfl, rfl⟩ | ⟨rfl, rfl⟩ | ⟨rfl, rfl⟩
    · exact trans_lanes hrm hp (op := 0) rfl h rfl fun _ _ => rfl
    · exact trans_lanes hrm hp (op := 1) rfl h rfl fun _ _ => rfl
    · exact trans_lanes hrm hp (op := 2) rfl h rfl fun _ _ => rfl
    · exact trans_lanes hrm hp (op := 3) rfl h rfl fun _ _ => rfl

end Sys2Proof.Machine
end

section
/-! SUPPORT. A vector load by a thread that has left entries in the journal of its old core when it migrated (R100,
R166, R179, R209). -/

namespace Sys2Proof.Machine

open Laws.RoundTrip (fieldAbove fieldWhole)

/-! ## What the unit's taking of a word leaves -/

section
variable (s : State) (i : Instr) (w : Half)

theorem entered_cores : (s.entered i w).cores = s.cores := by
  obtain ⟨_, _, ht⟩ := acceptVec_meterOnly s (s.vecOp i w)
  unfold State.entered State.vecTaken
  split <;> simp [ht]

theorem entered_panelCap : (s.entered i w).panelCap = s.panelCap := by
  obtain ⟨_, _, ht⟩ := acceptVec_meterOnly s (s.vecOp i w)
  unfold State.entered State.vecTaken
  split <;> simp [ht]

theorem entered_pc : (s.me.entered i).pc = s.me.pc := by unfold Thread.entered; split <;> rfl

theorem entered_reply : (s.me.entered i).op.reply = .none := by unfold Thread.entered; split <;> rfl

theorem entered_segs : (s.me.entered i).segs = s.me.segs := by unfold Thread.entered; split <;> rfl

theorem entered_home : (s.me.entered i).home = s.me.home := by unfold Thread.entered; split <;> rfl

end

/-- Which bytes a thread has posted is a matter of the journals. -/
theorem forwarded_congr {s u : State} (h : u.cores = s.cores) : u.forwarded = s.forwarded := by
  funext t parts
  simp only [State.forwarded, State.forwardByte, State.entriesOf, State.journalOf, h]

theorem locate_congr {s u : State} (h : u.panelCap = s.panelCap) : u.locate = s.locate := by
  unfold State.locate State.sysPanels State.panelNo
  rw [h]

theorem segCheck_congr {s u : State} {th th' : Thread} (h : u.panelCap = s.panelCap) (ht : th'.tsr = th.tsr)
    (hg : th'.segs = th.segs) (hh : th'.home = th.home) (hl : th.tsr.pl.toNat < 2)
    (q : Nat) (ea : Word) (n need : Nat) :
    u.segCheck th' q ea n need = s.segCheck th q ea n need := by
  have hl' : th'.tsr.pl.toNat < 2 := ht ▸ hl
  rw [segCheck_low hl' rfl rfl rfl, segCheck_low hl rfl rfl rfl]
  unfold State.unitCheck Thread.seg
  rw [hg, hh, locate_congr h]

/-! ## A vector load of bytes that its thread has posted (R179, R209) -/

/-- An access of 256 aligned bytes of the core's own TCM has four parts. -/
theorem reachBlock_own {s : State} {ea da : Word} {x need : Nat}
    (hs : s.segCheck s.me (quadOf s.here) ea 256 need = .ok (da, .tcm s.here, x)) (hda : da.toNat % 4 = 0)
    (hx : x % 64 = 0) (sel : Nat → Bool) (kind : Nat) :
    s.reachBlock ea sel need kind false = .ok s (partRuns sel ea da 0
      [(.tcm s.here, x, 64), (.tcm s.here, x + 64, 64), (.tcm s.here, x + 128, 64), (.tcm s.here, x + 192, 64)]) := by
  have hseg : s.segCheck (s.thr s.cur) (quadOf (coreOf s.cur)) ea 256 need = .ok (da, .tcm s.here, x) := hs
  have hsplit : splitAt (granule (pathOf (coreOf s.cur) (.tcm s.here))) 18 x 256 =
      [(x, 64), (x + 64, 64), (x + 128, 64), (x + 192, 64)] := by
    rw [show granule (pathOf (coreOf s.cur) (.tcm s.here)) = 64 from granule_ownTcm s.here]
    simp [splitAt, hx]
  simp [State.reachBlock, State.reach, hseg, hda, hsplit]

/-- All lanes of four aligned parts. -/
theorem partRuns_all (th : Thread) (ea da : Word) (d : Dest) (x : Nat) :
    (partRuns (th.on 0 0) ea da 0 [(d, x, 64), (d, x + 64, 64), (d, x + 128, 64), (d, x + 192, 64)]).map
      (fun r => (r.dest, r.addr, 4 * r.count)) = [(d, x, 64), (d, x + 64, 64), (d, x + 128, 64), (d, x + 192, 64)] :=
  rfl

section
variable {s : State} {d : BitVec 3} {b : BitVec 5} {i : BitVec 6} {da : Word} {x : Nat}

/-- A VLD of a byte that its thread has posted waits. -/
theorem vldBody_waits {o : UnitOp} (hr : o.replay = false) (hop : s.me.op.reply = .none)
    (hs : s.segCheck s.me (quadOf s.here) (s.vea b i) 256 rightR = .ok (da, .tcm s.here, x))
    (hda : da.toNat % 4 = 0) (hx : x % 64 = 0)
    (hany : (s.forwarded s.cur [(.tcm s.here, x, 64)]).any (·.isSome) = true) :
    vldBody d 0 0 b i o s = waitMem o.insn s := by
  have hreach := reachBlock_own hs hda hx (s.me.on 0 0) 0
  have hfwd : (s.forwarded s.cur [(.tcm s.here, x, 64), (.tcm s.here, x + 64, 64), (.tcm s.here, x + 128, 64),
      (.tcm s.here, x + 192, 64)]).any (·.isSome) = true := by
    have hfirst (ps : List (Dest × Nat × Nat)) : s.forwarded s.cur ((.tcm s.here, x, 64) :: ps) =
        s.forwarded s.cur [(.tcm s.here, x, 64)] ++ s.forwarded s.cur ps := by simp [State.forwarded]
    rw [hfirst, List.any_append, hany, Bool.true_or]
  simp only [vldBody, laneMem, UnitOp.going, hr, hop, hreach, laneAccess, partRuns_all, hfwd, UnitOp.wait,
    Bool.true_or, Bool.true_and, Bool.false_eq_true, if_false, if_true]

theorem vld_waits (h : s.VectorReady (.vld d 0 0 b i)) (hl : s.level < 2) (ho : s.OwnTcm (s.vea b i) da x 256 1)
    (hda : da.toNat % 4 = 0) (hx : x % 64 = 0)
    (hany : (s.forwarded s.cur [(.tcm s.here, x, 64)]).any (·.isSome) = true) :
    ∃ t, exec (.vld d 0 0 b i) s = .next t ∧ (t.thr s.cur).pc = s.me.pc := by
  obtain ⟨w, hw⟩ : ∃ w, UnitWord (.vld d 0 0 b i) w := unitWord_narrow (fun _ => rfl) rfl
  have hbody := vldBody_waits (s := s.entered (.vld d 0 0 b i) w) (d := d) (b := b) (i := i) (da := da) (x := x)
    (o := s.vecOp (.vld d 0 0 b i) w) rfl ?_ ?_ hda hx ?_
  · obtain ⟨n, ht⟩ := exec_entered h hw
    have heff : vecEffect (s.vecOp (.vld d 0 0 b i) w) (s.entered (.vld d 0 0 b i) w) =
      waitMem (.vld d 0 0 b i) (s.entered (.vld d 0 0 b i) w) := hbody
    rw [heff] at ht
    refine ⟨_, ht, ?_⟩
    have hpc := waitMem_pc (s.entered (.vld d 0 0 b i) w) (.vld d 0 0 b i)
    rw [entered_cur, entered_me] at hpc
    exact hpc.trans (entered_pc ..)
  · rw [entered_me]
    exact entered_reply ..
  · rw [entered_here, entered_me, State.vea, State.g, entered_me, entered_reg,
      segCheck_congr (entered_panelCap ..) (entered_tsr ..) (entered_segs ..) (entered_home ..) hl]
    exact ho.place
  · rw [forwarded_congr (entered_cores ..), entered_cur, entered_here, hany]

end

/-- The thread that has migrated, of a function whose allowance is unlimited (R411). -/
def unmetered : State := { atNewCore with funcs := [(0, { unl := true })] }

theorem unmetered_ready : unmetered.VectorReady (.vld 0 0 0 0 0) where
  alone := {
    single := rfl
    noStreams := streaming_of_emptyCore (t := 4112) rfl
    noReplays := rfl
    residues := fun h => Bool.noConfusion h
    freshOp := rfl }
  fits h := Bool.noConfusion h
  noStreams := by decide
  idle := ⟨rfl, rfl⟩
  quota := .inr rfl
  checked := rfl
  listed h := absurd h (by rw [show majorOf (encode (.vld 0 0 0 0 0)) = 0x21 from rfl]; decide)

theorem unmetered_own {ea : Word} (hea : ea = 0) : unmetered.OwnTcm ea 0x1010000000000 (sramAddr 257 0 0) 256 1 where
  place := by
    subst hea
    rw [segCheck_low (by decide) rfl rfl rfl, if_neg (by decide), if_neg (by decide), if_neg (by decide),
      if_neg (by decide)]
    exact unitCheck_unit (u := (.tcm 257, sramAddr 257 0 0)) (v := (.tcm 257, sramAddr 257 0 255)) rfl rfl rfl
  noPosted := rfl
  noWaiters _ := ⟨rfl, rfl⟩
  sound := poisoned_of_poison_nil rfl _ _
  canon := rfl

/-- Refutes O33: `OwnTcm` speaks of the journal of the executing core alone; a VLD of bytes that its thread posted in
part before it migrated waits for the entries that the old core holds. -/
theorem not_vectorMemory : ¬ Obligations.VectorMemory := by
  unfold Obligations.VectorMemory
  rintro ⟨hmem, -⟩
  have hown : unmetered.OwnTcm (unmetered.g 0 + 256 * (0#6).signExtend 64) _ _ 256 1 := unmetered_own rfl
  obtain ⟨hvld, -⟩ := hmem unmetered 0 0 0 _ 0x1010000000000 (sramAddr 257 0 0) rfl (by decide) (by decide)
  obtain ⟨t, ht, hframe, -⟩ := hvld unmetered_ready hown
  obtain ⟨t', ht', hpc⟩ := vld_waits unmetered_ready (by decide) (unmetered_own rfl) (by decide) (by decide) (by decide)
  have hsame : t' = t := Host.Outcome.next.inj (ht'.symm.trans ht)
  have hstays : unmetered.me.pc = unmetered.me.pc + 4 := (hsame ▸ hpc).symm.trans hframe.pc
  exact absurd hstays (by decide)

end Sys2Proof.Machine
end

section
/-! SUPPORT. VQSPLIT with room in the outlier queue, ORCV, and the exact accumulator (R216, R225). -/

namespace Sys2Proof.Machine

open Laws.RoundTrip (fieldAbove fieldBelow fieldWhole)

/-! ## VQSPLIT (R216) -/

/-- A value lies above a threshold in magnitude: neither is a NaN. -/
def Num.exceeds (x t : Num) : Bool :=
  match x, t with
  | .nan _, _ => false
  | _, .nan _ => false
  | .inf _, t => numLt t (.inf false)
  | .fin _ m e st, t => numLt t (.fin false m e st)

/-- The word of the lanes that `p` names. -/
def laneBits (p : Nat → Bool) : Word := BitVec.ofNat 64 ((allLanes.filter p).foldl (fun n l => n + 2 ^ l) 0)

/-- The entries of the lanes that `p` names have joined the outlier queue, and the mask names those lanes. -/
def State.outliersMoved (s : State) (a m : BitVec 3) (o : UnitOp) (p : Nat → Bool) : State :=
  (s.modCore (wideOf s.here) fun q =>
    { q with
      oq := q.oq ++ (allLanes.filter p).map fun l =>
        outlier (tagOf o.pfx) (slotOf s.cur) (quadIdx s.here) l (s.me.at a.toNat 32 l)
      oqWait := q.oqWait.filter fun x => !(x.thread == o.thread && x.replay == o.replay) }).modMe fun th =>
    th.setMask m.toNat (laneBits p)

/-- The lanes that remain when those that `p` names have moved to the outlier queue. -/
def Thread.remaining (th : Thread) (a : BitVec 3) (p : Nat → Bool) : List (Option Nat) :=
  (List.range 64).map fun l => some (if p l then 0 else th.at a.toNat 32 l)

/-- VQSPLIT under a choice of lanes. -/
def State.splitBy (s : State) (d a m : BitVec 3) (o : UnitOp) (p : Nat → Bool) : State :=
  (s.outliersMoved a m o p).vecWritten d.toNat 32 (s.me.remaining a p, 0#5, s.me.rndlfsr)

/-- The lanes whose values lie above the threshold. -/
def Thread.outlying (th : Thread) (a k : BitVec 3) (l : Nat) : Bool :=
  (readNum 4 (th.at a.toNat 32 l)).exceeds (readNum 4 (th.scalarAt k 32))

theorem vqsplitBody_room {s : State} (d a k m : BitVec 3) (o : UnitOp)
    (hq : (s.core (wideOf s.here)).oq.length ≤ 192) (hw : (s.core (wideOf s.here)).oqWait = []) :
    vqsplitBody d a k m o s = .done (s.splitBy d a m o (s.me.outlying a k)) := by
  have hgo : (decide (192 < (s.core (wideOf s.here)).oq.length) ||
      !oqFirst o (s.core (wideOf s.here)).oqWait) = false := by
    simp [oqFirst, hw, hq]
  have hbody : vqsplitBody d a k m o s = .done (s.splitBy d a m o fun l =>
      match readNum 4 (s.me.at a.toNat 32 l) with
      | .nan _ => false
      | .inf _ => !(readNum 4 (s.me.scalarAt k 32)).isNaN && numLt (readNum 4 (s.me.scalarAt k 32)) (.inf false)
      | .fin _ m e st =>
        !(readNum 4 (s.me.scalarAt k 32)).isNaN && numLt (readNum 4 (s.me.scalarAt k 32)) (.fin false m e st)) := by
    unfold vqsplitBody
    exact if_neg (by simp [hgo])
  rw [hbody]
  congr 2
  funext l
  rw [Thread.outlying]
  cases readNum 4 (s.me.at a.toNat 32 l) <;> cases readNum 4 (s.me.scalarAt k 32) <;> rfl

section
variable (u : State) (d a k m : BitVec 3) (o : UnitOp) (p : Nat → Bool)

theorem outliersMoved_me : (u.outliersMoved a m o p).me = u.me.setMask m.toNat (laneBits p) := modMe_me ..

theorem outliersMoved_ownOnly : u.OwnOnly (u.outliersMoved a m o p) := (State.OwnOnly.modCore ..).trans (.modMe ..)

theorem splitBy_ownOnly : u.OwnOnly (u.splitBy d a m o p) :=
  (outliersMoved_ownOnly ..).trans (vecWritten_ownOnly ..)

/-- VQSPLIT changes its destinations alone. -/
theorem splitBy_computes : Thread.Computes (.vqsplit d a k m) u.me ((u.splitBy d a m o p).thr u.cur) := by
  refine vecWritten_computes_of rfl (outliersMoved_ownOnly ..) ?_ ?_ ?_ ?_ _ _
  all_goals rw [outliersMoved_me]
  · exact fun _ _ => rfl
  · rfl
  · exact fun r hr hm => mask_setMask_other _ _ (by rw [Nat.mod_eq_of_lt hr]; exact hm _ rfl)
  · rfl

theorem splitBy_thr : (u.splitBy d a m o p).thr u.cur =
    ((u.me.setMask m.toNat (laneBits p)).writeVec d.toNat 32 (u.me.remaining a p)).flagged 0#5 := by
  have hthr := vecWritten_thr (u.outliersMoved a m o p) d.toNat 32 (u.me.remaining a p, 0#5, u.me.rndlfsr)
  rw [outliersMoved_me, (outliersMoved_ownOnly u a m o p).cur] at hthr
  exact hthr

theorem splitBy_at {l : Nat} (hl : l < 64) :
    ((u.splitBy d a m o p).thr u.cur).at d.toNat 32 l = if p l then 0 else u.me.at a.toNat 32 l := by
  have hentry : (u.me.remaining a p)[l]? = some (some (if p l then 0 else u.me.at a.toNat 32 l)) := by
    simp [Thread.remaining, hl]
  have hat := at_writeVec (bits := 32) (u.me.setMask m.toNat (laneBits p)) d.toNat (by decide) hentry (by omega)
  rw [splitBy_thr]
  refine hat.trans ?_
  rw [Option.getD_some]
  split
  · rfl
  · exact at_mod ..

theorem splitBy_mask : ((u.splitBy d a m o p).thr u.cur).mask m.toNat = laneBits p := by
  rw [splitBy_thr]
  exact mask_setMask_same ..

theorem splitBy_queue : ((u.splitBy d a m o p).core (wideOf u.here)).oq.length =
    (u.core (wideOf u.here)).oq.length + ((List.range 64).filter p).length := by
  have hcore : (u.splitBy d a m o p).core (wideOf u.here) = (u.outliersMoved a m o p).core (wideOf u.here) := rfl
  rw [hcore, State.outliersMoved, modMe_core, core_modCore_same, List.length_append, List.length_map]
  rfl

end

/-- The sum of the bits of lanes below `n`. -/
theorem foldl_two_pow (p : Nat → Bool) (n : Nat) :
    ((List.range n).filter p).foldl (fun v l => v + 2 ^ l) 0 < 2 ^ n ∧ ∀ k,
      (((List.range n).filter p).foldl (fun v l => v + 2 ^ l) 0).testBit k = (decide (k < n) && p k) := by
  induction n with
  | zero => simp
  | succ n ih =>
    obtain ⟨hlt, hbit⟩ := ih
    rw [List.range_succ, List.filter_append, List.foldl_append]
    generalize ((List.range n).filter p).foldl (fun v l => v + 2 ^ l) 0 = v at hlt hbit
    have hhalf : 2 ^ (n + 1) = 2 * 2 ^ n := by rw [Nat.pow_succ, Nat.mul_comm]
    cases hp : p n
    · have hsame : ([n].filter p).foldl (fun v l => v + 2 ^ l) v = v := by simp [hp]
      rw [hsame]
      refine ⟨by omega, fun k => (hbit k).trans ?_⟩
      by_cases hk : k = n
      · simp [hk, hp]
      · have hiff : k < n ↔ k < n + 1 := by omega
        simp [hiff]
    · have hadd : ([n].filter p).foldl (fun v l => v + 2 ^ l) v = 2 ^ n * 1 + v := by simp [hp, Nat.add_comm]
      rw [hadd]
      refine ⟨by omega, fun k => ?_⟩
      rw [Nat.testBit_two_pow_mul_add 1 hlt, hbit]
      rcases lt_trichotomy k n with hk | rfl | hk
      · simp [hk, Nat.lt_succ_of_lt hk]
      · simp [hp]
      · obtain ⟨j, rfl⟩ := Nat.exists_eq_add_of_lt hk
        simp [Nat.testBit_succ, Nat.add_assoc]

theorem laneBits_bit (p : Nat → Bool) {l : Nat} (hl : l < 64) : (laneBits p).getLsbD l = p l := by
  have hbit := (foldl_two_pow p 64).2 l
  rw [laneBits, BitVec.getLsbD_ofNat]
  simpa [allLanes, hl] using hbit

theorem vqsplit_splits {s : State} {d a k m : BitVec 3} (h : s.VectorReady (.vqsplit d a k m))
    (hq : (s.core (wideOf s.here)).oq.length ≤ 192) (hw : (s.core (wideOf s.here)).oqWait = []) :
    ∃ t, exec (.vqsplit d a k m) s = .next t ∧ s.VecFrame t (.vqsplit d a k m) ∧
      (∀ l, l < 64 → (t.thr s.cur).at d.toNat 32 l = if s.me.outlying a k l then 0 else s.me.at a.toNat 32 l) ∧
      (∀ l, l < 64 → ((t.thr s.cur).mask m.toNat).getLsbD l = s.me.outlying a k l) ∧
      (t.core (wideOf s.here)).oq.length =
        (s.core (wideOf s.here)).oq.length + ((List.range 64).filter (s.me.outlying a k)).length := by
  obtain ⟨w, hu⟩ : ∃ w, UnitWord (.vqsplit d a k m) w := unitWord_narrow (fun _ => rfl) rfl
  set u := s.entered (.vqsplit d a k m) w with hdef
  set o := s.vecOp (.vqsplit d a k m) w
  have hout : u.me.outlying a k = s.me.outlying a k := by
    funext l
    rw [hdef, entered_me, Thread.outlying, Thread.outlying, entered_at, Thread.scalarAt, entered_reg, Thread.scalarAt]
  have hroom := vqsplitBody_room (s := u) d a k m o (by simpa [hdef] using hq) (by simpa [hdef] using hw)
  rw [hout] at hroom
  obtain ⟨t, ht, hframe, -, hcore, hv, -, hm⟩ :=
    completes hu h hroom (splitBy_ownOnly ..) (splitBy_computes u d a k m o _)
  have hcur : s.cur = u.cur := (entered_cur ..).symm
  have hhere : s.here = u.here := (entered_here ..).symm
  refine ⟨t, ht, hframe, fun l hl => ?_, fun l hl => ?_, ?_⟩
  · rw [at_congr hv, hcur, splitBy_at _ _ _ _ _ _ hl, hdef, entered_me, entered_at]
  · rw [mask_congr hm, hcur, splitBy_mask, laneBits_bit _ hl]
  · rw [hcore, hhere, splitBy_queue, hdef, entered_core]

/-! ## ORCV, XACZ, XMAC and XRD (R225) -/

/-- The accumulator holds a finite value. -/
def Thread.holdsX (v : Int) (th : Thread) : Thread := { th with xacc := BitVec.ofInt 640 v, xstate := .finite }

/-- A word of EXT.W class 01 at a core that lists the class. -/
theorem exec_of_extra {i : Instr} {f : Form} {body : State → Res} {s : State} (h : s.Plain) (hw : s.xw s.here = true)
    (he : exec i s = run f body s)
    (hm : majorNat f.word = 0x38 ∧ extClass f.word = 1 := by
      simp (disch := decide) only [majorNat, extClass, fieldAbove, fieldBelow, fieldWhole, Nat.reduceSub]
      decide)
    (hn : f.early s = none := by rfl) (hl : f.level = 0 := by rfl) : exec i s = .next (settle s (body s)) := by
  obtain ⟨hmaj, hc⟩ := hm
  have hlist : s.listsClass s.here (extClass f.word) = true := by simpa [State.listsClass, hc] using hw
  have ho : majorNat f.word ≠ 0x2B := by omega
  rw [he, run_alone h.alone (fun _ => hlist) hn (fun e => absurd e ho) (hl ▸ Nat.zero_le _) (State.prefixFits_none h _)]

section
variable {s : State} (h : s.Plain) (hw : s.xw s.here = true)
include h hw

theorem orcv_empty (d : BitVec 5) (ho : (s.core s.here).oq = []) :
    exec (.orcv d) s = .next (s.after (s.setG d 0)) := by
  rw [exec_of_extra h hw rfl, orcvBody, ho, settle_done]

theorem orcv_oldest (d : BitVec 5) {v : Word} {vs : List Word} (ho : (s.core s.here).oq = v :: vs)
    (hq : (s.core s.here).oqWait = []) :
    ∃ t, exec (.orcv d) s = .next t ∧ s.Loaded t d v ∧ (t.core s.here).oq = vs := by
  rw [exec_of_extra h hw rfl, orcvBody, ho, settle_done]
  simp only [hq, if_true]
  set s1 := s.modCore s.here fun k => { k with oq := vs } with hs1
  have hthr : (s.after (s1.setG d v)).thr s.cur = (s.me.put d.toNat v).complete (s.me.pc + 4) s.me.tsr.pp := by
    rw [after_thr]
    exact congrArg (Thread.complete · (s.me.pc + 4) s.me.tsr.pp) (thr_modThr_same s1 s.cur fun th => th.put d.toNat v)
  have hoth (k : Nat) (hk : k ≠ s.cur) : (s.after (s1.setG d v)).thr k = s.thr k :=
    ((State.OwnOnly.modCore s s.here _).trans (.modMe s1 _)).after.2 k hk
  have hoq : ((s.after (s1.setG d v)).core s.here).oq = vs :=
    congrArg Core.oq (core_modCore_same s s.here fun k => { k with oq := vs })
  refine ⟨_, rfl, ?_, hoq⟩
  exact { reg := fun k => by rw [hthr, reg_complete, reg_put]
          pc := by rw [hthr]; rfl
          running := by rw [hthr]; rfl
          flags := by rw [hthr, h.noPrefix]; exact congrArg Tsr.flags (put_tsr ..)
          mem := rfl
          poison := rfl
          others := fun k hk => by rw [hoth k hk]; exact ⟨rfl, rfl⟩ }

theorem exec_xacz : exec .xacz s = .next (s.after (s.modMe fun th => { th with xacc := 0, xstate := .finite })) := by
  rw [exec_of_extra h hw rfl, settle_done]

theorem exec_xmac {a b : BitVec 5} {na nb : Bool} {ma mb : Nat} {ea eb : Int} {p : Int} (hx : s.me.xstate = .finite)
    (ha : s.fp 4 a = .fin na ma ea false) (hb : s.fp 4 b = .fin nb mb eb false)
    (hp : p = s.me.xacc.toInt + (if na = nb then 1 else -1) * (ma * mb * 2 ^ (ea + eb + 300).toNat : Nat))
    (hlt : p.natAbs < 2 ^ 639) :
    exec (.xmac a b) s = .next (s.after (s.modMe (Thread.holdsX p))) := by
  have hsum : s.me.xval + (if (na != nb) = true then -((ma * mb : Nat) * 2 ^ (ea + eb + 300).toNat : Int)
      else ((ma * mb : Nat) * 2 ^ (ea + eb + 300).toNat : Int)) = p := by
    rw [hp, Thread.xval]
    by_cases hn : na = nb <;> simp [hn]
  have hmac : s.me.xmac (s.fp 4 a) (s.fp 4 b) = (s.me.holdsX p, 0#5) := by
    simp only [Thread.xmac, ha, hb, numMul, hx, if_true]
    rw [hsum, Thread.setX, if_neg (by omega), Thread.holdsX]
  rw [exec_of_extra h hw rfl, xmacBody, hmac]
  exact congrArg (fun t => Host.Outcome.next (s.after t)) (raise_none ..)

theorem xrd_rounds (d : BitVec 5) (hx : s.me.xstate = .finite) :
    exec (.xrd d) s = .next (s.after (s.roundedInto d 4
      (.fin (s.me.xacc.toInt < 0) s.me.xacc.toInt.natAbs (-300) false, 0))) := by
  have hnum : s.me.xnum = .fin (s.me.xacc.toInt < 0) s.me.xacc.toInt.natAbs (-300) false := by
    rw [Thread.xnum, hx, Thread.xval]
  rw [exec_of_extra h hw rfl, hnum]
  rfl

/-- XACZ clears the accumulator. -/
theorem xacz_clears : ∃ t, exec .xacz s = .next t ∧ (t.thr s.cur).xacc = 0 ∧ (t.thr s.cur).xstate = .finite ∧
    (t.thr s.cur).g = s.me.g ∧ (t.thr s.cur).pc = s.me.pc + 4 ∧ s.elsewhere t := by
  refine ⟨_, exec_xacz h hw, ?_⟩
  rw [thr_after_modMe]
  exact ⟨rfl, rfl, rfl, rfl, elsewhere_after_modMe ..⟩

theorem xmac_adds {a b : BitVec 5} {na nb : Bool} {ma mb : Nat} {ea eb : Int} {p : Int} (hx : s.me.xstate = .finite)
    (ha : s.fp 4 a = .fin na ma ea false) (hb : s.fp 4 b = .fin nb mb eb false)
    (hp : p = s.me.xacc.toInt + (if na = nb then 1 else -1) * (ma * mb * 2 ^ (ea + eb + 300).toNat : Nat))
    (hlt : p.natAbs < 2 ^ 639) : ∃ t, exec (.xmac a b) s = .next t ∧ (t.thr s.cur).xacc.toInt = p ∧
      (t.thr s.cur).xstate = .finite ∧ (t.thr s.cur).g = s.me.g ∧ (t.thr s.cur).pc = s.me.pc + 4 ∧ s.elsewhere t := by
  refine ⟨_, exec_xmac h hw hx ha hb hp hlt, ?_⟩
  rw [thr_after_modMe]
  exact ⟨BitVec.toInt_ofInt_eq_self (by decide) (by omega) (by omega), rfl, rfl, rfl, elsewhere_after_modMe ..⟩

end

/-- Settles O34: each form has its effect at once. -/
theorem outliersAndExactSums : Obligations.OutliersAndExactSums := by
  unfold Obligations.OutliersAndExactSums
  intro s
  refine ⟨?_, ?_, ?_⟩
  · rintro d a k m q h rfl hq hw
    obtain ⟨t, ht, hframe, hat, hmask, hlen⟩ := vqsplit_splits h hq hw
    refine ⟨t, ht, hframe, fun out hout => ?_⟩
    obtain rfl : out = s.me.outlying a k := by
      funext l
      rw [hout l, Thread.outlying, Thread.scalarAt]
      rfl
    exact ⟨fun l hl => ⟨hat l hl, fun _ => hmask l hl⟩, hlen⟩
  · exact fun d h hw => ⟨fun _ _ ho hq => orcv_oldest h hw d ho hq, orcv_empty h hw d⟩
  · exact fun h hw => ⟨xacz_clears h hw, fun _ _ _ _ _ _ _ _ _ hx ha hb _ hp hlt => xmac_adds h hw hx ha hb hp hlt,
      xrd_rounds h hw⟩

end Sys2Proof.Machine
end

section
/-! SUPPORT. A word that the matrix unit takes at once: how it runs, and what the unit's taking of it leaves of the
state (R240, R243, R411). -/

namespace Sys2Proof.Machine

/-! ## Meters and triers' candidates -/

/-- A quad without its meter and its trier. -/
def Quad.bare (k : Quad) : Quad := { k with meter := {}, trier := {} }

/-- `t` is `s` but for quads' meters and triers, and what is due. -/
structure State.Metered (s t : State) : Prop where
  only : s.MeterOnly t
  bare : ∀ q, (t.quad q).bare = (s.quad q).bare

namespace State.Metered

variable {s t u : State}

theorem refl (s : State) : s.Metered s := ⟨.refl s, fun _ => rfl⟩

theorem trans (h : s.Metered t) (h' : t.Metered u) : s.Metered u :=
  ⟨h.only.trans h'.only, fun q => (h'.bare q).trans (h.bare q)⟩

theorem chargePart (s : State) (q f cls num den : Nat) : s.Metered (s.chargePart q f cls num den) :=
  ⟨.chargePart .., fun r => chargePart_keeps Quad.bare (fun _ _ => rfl) s q f cls num den r⟩

theorem charge (s : State) (q f cls n : Nat) : s.Metered (s.charge q f cls n) := chargePart ..

theorem chargeAccess {d : Dest} (hd : d ≠ .hbm) (s : State) (c f : Nat) (op : HomeOp) :
    s.Metered (s.chargeAccess c f d op) :=
  ⟨chargeAccess_meterOnly hd s c f op, fun r => chargeAccess_keeps Quad.bare (fun _ _ => rfl) hd s c f op r⟩

theorem candidate (s : State) (q tag : Nat) (r : AuditRecord) : s.Metered (s.candidate q tag r) := by
  refine ⟨candidate_meterOnly s q tag r, fun x => ?_⟩
  unfold State.candidate
  split
  · rfl
  · exact quad_modQuad_keeps Quad.bare s q x fun _ => rfl

theorem acceptMat (s : State) (t : Nat) (i : Instr) : s.Metered (s.acceptMat t i) :=
  List.foldlRecOn (motive := s.Metered) _ _ (refl s) fun _ h _ _ => h.trans (charge ..)

/-- A part of a quad beside its meter and trier. -/
theorem part {γ : Type} (h : s.Metered t) (p : Quad → γ) (hp : ∀ k, p k.bare = p k) (q : Nat) :
    p (t.quad q) = p (s.quad q) := by
  rw [← hp, h.bare, hp]

theorem wordHeld (h : s.Metered t) : t.wordHeld = s.wordHeld := wordHeld_congr (h.part Quad.waits fun _ => rfl)

theorem holder (h : s.Metered t) : t.holder = s.holder := by
  funext q
  rw [State.holder, h.part Quad.hold (fun _ => rfl), State.holder]

theorem ownerOk (h : s.Metered t) : t.ownerOk = s.ownerOk := by
  funext f d a
  have hres (x : Nat) : t.reservedSlice x = s.reservedSlice x := by
    obtain ⟨⟨_, _, rfl⟩, -⟩ := h
    rfl
  simp only [State.ownerOk, State.holds, h.holder, hres]

end State.Metered

/-! ## The word (R240) -/

/-- A core whose unit executes `o`. -/
def Core.busy (k : Core) (o : UnitOp) : Core := { k with munit := some o }

/-- A core whose unit is free. -/
def Core.freed (k : Core) : Core := { k with munit := none, morphan := none }

@[simp] theorem busy_tile (k : Core) (o : UnitOp) : (k.busy o).tile = k.tile := rfl

@[simp] theorem busy_ring (k : Core) (o : UnitOp) : (k.busy o).ring = k.ring := rfl

@[simp] theorem busy_stopped (k : Core) (o : UnitOp) : (k.busy o).stopped = k.stopped := rfl

@[simp] theorem busy_afmt (k : Core) (o : UnitOp) : (k.busy o).afmt = k.afmt := rfl

@[simp] theorem busy_accepts (k : Core) (o : UnitOp) : (k.busy o).accepts = k.accepts := rfl

@[simp] theorem freed_tile (k : Core) : k.freed.tile = k.tile := rfl

@[simp] theorem freed_ring (k : Core) : k.freed.ring = k.ring := rfl

/-- An instruction whose word `w` runs at the matrix unit. -/
structure MatWord (i : Instr) (w : Half) : Prop where
  runs : ∀ s, exec i s = matRun i w s
  major : majorNat w = 0x24

theorem matWord {i : Instr} {w : Half} (hr : ∀ s, exec i s = matRun i w s)
    (hm : majorNat w = 0x24 := by
      simp (disch := decide) only [majorNat, Laws.RoundTrip.fieldAbove, Laws.RoundTrip.fieldWhole, Nat.reduceSub]
      decide) : ∃ w, MatWord i w :=
  ⟨w, hr, hm⟩

/-- The unit has taken a word of the executing thread and charged for it (R411). -/
def State.matTaken (s : State) (i : Instr) (w : Half) : State :=
  (s.acceptMat s.cur i).modCore s.here (·.busy (s.unitOp i w false))

section
variable (s : State) (i : Instr) (w : Half)

@[simp] theorem matTaken_cur : (s.matTaken i w).cur = s.cur := (State.Metered.acceptMat s s.cur i).only.cur

@[simp] theorem matTaken_here : (s.matTaken i w).here = s.here := congrArg coreOf (matTaken_cur s i w)

@[simp] theorem matTaken_thr (u : Nat) : (s.matTaken i w).thr u = s.thr u :=
  (State.Metered.acceptMat s s.cur i).only.thr u

@[simp] theorem matTaken_me : (s.matTaken i w).me = s.me := by rw [State.me, matTaken_cur, matTaken_thr, State.me]

@[simp] theorem matTaken_mem : (s.matTaken i w).mem = s.mem := (State.Metered.acceptMat s s.cur i).only.mem

@[simp] theorem matTaken_full : (s.matTaken i w).full = s.full := (State.Metered.acceptMat s s.cur i).only.full

@[simp] theorem matTaken_poison : (s.matTaken i w).poison = s.poison := by
  obtain ⟨_, _, h⟩ := (State.Metered.acceptMat s s.cur i).only
  rw [State.matTaken, h]
  rfl

@[simp] theorem matTaken_core : (s.matTaken i w).core s.here = (s.core s.here).busy (s.unitOp i w false) := by
  rw [State.matTaken, core_modCore_same, (State.Metered.acceptMat s s.cur i).only.core]

@[simp] theorem matTaken_rd (a n : Nat) : (s.matTaken i w).rd a n = s.rd a n := by
  rw [State.rd, matTaken_mem, State.rd]

/-- What the unit's taking of a word leaves of quads. -/
theorem matTaken_quad (q : Nat) : (s.matTaken i w).quad q = (s.acceptMat s.cur i).quad q := modCore_quad ..

@[simp] theorem matTaken_holder : (s.matTaken i w).holder = s.holder := by
  rw [← (State.Metered.acceptMat s s.cur i).holder]
  rfl

end

/-- A turn of the unit that ends leaves the unit. -/
theorem matTurn_done {o : UnitOp} {s u : State}
    (hf : ((s.core s.here).directTiles o.insn).any (s.core s.here).filling = false) (he : matEffect o s = .done u) :
    matTurn o s = .done (o.leave u) := by
  simp only [matTurn, hf, Bool.and_false, Bool.false_eq_true, if_false, he]

section
variable {s u : State} {i : Instr} {w : Half}

theorem matIssue_taken (h : s.MatrixReady i) : matIssue i w s = matTurn (s.unitOp i w false) (s.matTaken i w) := by
  simp only [matIssue, h.alone.freshOp, h.idle, h.quota]
  rfl

/-- A word that the unit takes at once and whose effect completes, completes. -/
theorem exec_matDone (h : s.MatrixReady i) (hw : MatWord i w)
    (he : matEffect (s.unitOp i w false) (s.matTaken i w) = .done u) :
    exec i s = .next (s.after ((s.unitOp i w false).leave u)) := by
  have hm : majorNat (matForm i w s).word < 0x2B := by
    rw [show majorNat (matForm i w s).word = 0x24 from hw.major]
    decide
  have hfill : (((s.matTaken i w).core (s.matTaken i w).here).directTiles (s.unitOp i w false).insn).any
      ((s.matTaken i w).core (s.matTaken i w).here).filling = false := by
    rw [matTaken_here, matTaken_core]
    exact h.settled
  rw [exec_of_run (f := matForm i w s) (body := matIssue i w) h.alone (hw.runs s) h.fits hm, matIssue_taken h,
    matTurn_done hfill he, settle_done]

end

/-! ## What a word leaves (R240) -/

/-- What an effect leaves of the threads and of the unit: `t` keeps what `s` has of them. -/
structure State.UnitKeeps (s t : State) : Prop where
  regs : (t.thr s.cur).g = s.me.g
  vec : (t.thr s.cur).v = s.me.v ∧ (t.thr s.cur).m = s.me.m
  level : (t.thr s.cur).tsr.pl = s.me.tsr.pl
  others : ∀ k, k ≠ s.cur → t.thr k = s.thr k
  accg : (t.core s.here).accg = (s.core s.here).accg
  cur : t.cur = s.cur
  munit : (t.core s.here).munit = (s.core s.here).munit

namespace State.UnitKeeps

variable {s t u : State}

theorem here (h : s.UnitKeeps t) : t.here = s.here := congrArg coreOf h.cur

theorem refl (s : State) : s.UnitKeeps s := ⟨rfl, ⟨rfl, rfl⟩, rfl, fun _ _ => rfl, rfl, rfl, rfl⟩

theorem trans (h : s.UnitKeeps t) (h' : t.UnitKeeps u) : s.UnitKeeps u where
  regs := by rw [← h.regs, ← h.cur, h'.regs, State.me]
  vec := by rw [← h.vec.1, ← h.vec.2, ← h.cur, h'.vec.1, h'.vec.2]; exact ⟨rfl, rfl⟩
  level := by rw [← h.level, ← h.cur, h'.level, State.me]
  others k hk := (h'.others k (h.cur ▸ hk)).trans (h.others k hk)
  accg := by rw [← h.accg, ← h.here, h'.accg]
  cur := h'.cur.trans h.cur
  munit := by rw [← h.munit, ← h.here, h'.munit]

/-- Threads and cores as they were. -/
theorem of_same (ht : ∀ k, t.thr k = s.thr k) (hc : t.core s.here = s.core s.here) (hcur : t.cur = s.cur) :
    s.UnitKeeps t where
  regs := by rw [ht, State.me]
  vec := by rw [ht]; exact ⟨rfl, rfl⟩
  level := by rw [ht, State.me]
  others k _ := ht k
  accg := by rw [hc]
  cur := hcur
  munit := by rw [hc]

theorem metered (h : s.Metered t) : s.UnitKeeps t := of_same h.only.thr (h.only.core _) h.only.cur

theorem words (h : s.WordsOnly t) : s.UnitKeeps t := by
  obtain ⟨_, _, _, _, _, rfl⟩ := h
  exact of_same (fun _ => rfl) rfl rfl

theorem modCore (s : State) (c : Nat) {f : Core → Core} (ha : ∀ k, (f k).accg = k.accg)
    (hm : ∀ k, (f k).munit = k.munit) : s.UnitKeeps (s.modCore c f) where
  regs := rfl
  vec := ⟨rfl, rfl⟩
  level := rfl
  others _ _ := rfl
  accg := core_modCore_keeps Core.accg s c s.here ha
  cur := rfl
  munit := core_modCore_keeps Core.munit s c s.here hm

theorem modMe (s : State) {f : Thread → Thread} (hg : (f s.me).g = s.me.g) (hv : (f s.me).v = s.me.v)
    (hm : (f s.me).m = s.me.m) (hl : (f s.me).tsr.pl = s.me.tsr.pl) : s.UnitKeeps (s.modMe f) where
  regs := by rw [State.modMe, thr_modThr_same]; exact hg
  vec := by rw [State.modMe, thr_modThr_same]; exact ⟨hv, hm⟩
  level := by rw [State.modMe, thr_modThr_same]; exact hl
  others _ hk := thr_modThr_other s f hk
  accg := rfl
  cur := rfl
  munit := rfl

theorem raise (s : State) (fl : Flags) : s.UnitKeeps (s.raise s.cur fl) := by
  unfold State.raise
  split
  · exact refl s
  · exact modMe s rfl rfl rfl rfl

theorem offer (s : State) (c : Nat) : s.UnitKeeps (s.offer c) := by
  refine of_same (offer_thr s c) (offer_core s c _) ?_
  unfold State.offer
  split <;> simp

end State.UnitKeeps

/-- A word whose effect ends in `u`: it has completed in `t`, with the unit free again. -/
structure State.UnitEnds (s u t : State) : Prop where
  frame : s.MatFrame t
  mem : t.mem = u.mem
  full : t.full = u.full
  poison : t.poison = u.poison
  core : t.core s.here = (u.core s.here).freed
  thread : t.thr s.cur = (u.thr s.cur).complete (s.me.pc + 4) s.me.tsr.pp

/-- The flags are those that the effect has left. -/
theorem State.UnitEnds.flags {s u t : State} (h : s.UnitEnds u t) :
    (t.thr s.cur).tsr.flags = (u.thr s.cur).tsr.flags := by
  rw [h.thread]
  cases s.me.tsr.pp <;> rfl

@[simp] theorem leave_full (o : UnitOp) (s : State) : (o.leave s).full = s.full := by
  simp only [UnitOp.leave, State.offer]
  split <;> simp

@[simp] theorem leave_poison (o : UnitOp) (s : State) : (o.leave s).poison = s.poison := by
  simp only [UnitOp.leave, State.offer]
  split <;> simp

/-- Every word that the unit takes at once and that completes, completes so. -/
theorem matCompletes {s u : State} {i : Instr} {w : Half} (h : s.MatrixReady i) (hw : MatWord i w)
    (he : matEffect (s.unitOp i w false) (s.matTaken i w) = .done u) (hk : (s.matTaken i w).UnitKeeps u) :
    ∃ t, exec i s = .next t ∧ s.UnitEnds u t := by
  refine ⟨_, exec_matDone h hw he, ?_⟩
  obtain ⟨regs, vec, level, others, accg, -, munit⟩ := hk
  simp only [matTaken_cur, matTaken_me, matTaken_here, matTaken_core, matTaken_thr] at regs vec level others accg munit
  have hcore : (s.after ((s.unitOp i w false).leave u)).core s.here =
      (u.core s.here).freed :=
    leave_core (o := s.unitOp i w false) (u := s.unitOp i w false) munit rfl rfl
  have hthr : (s.after ((s.unitOp i w false).leave u)).thr s.cur =
      (u.thr s.cur).complete (s.me.pc + 4) s.me.tsr.pp := by rw [after_thr, leave_thr]
  refine ⟨?_, leave_mem .., leave_full .., leave_poison .., hcore, hthr⟩
  constructor
  case others =>
    intro k hk
    rw [after_def, thr_modThr_other _ _ hk, leave_thr, others k hk]
  case accg => rw [hcore]; exact accg
  case free => rw [hcore]; rfl
  all_goals rw [hthr]
  case regs => exact regs
  case vec => exact vec
  case pc => rfl
  case running => rfl
  case level =>
    rw [← level]
    cases s.me.tsr.pp <;> rfl

/-- A word whose effect is a change of its core alone. -/
theorem matChanges {s : State} {i : Instr} {w : Half} {f : Core → Core} (h : s.MatrixReady i) (hw : MatWord i w)
    (he : matEffect (s.unitOp i w false) (s.matTaken i w) = .done ((s.matTaken i w).modCore s.here f))
    (ha : ∀ k, (f k).accg = k.accg := by intro; rfl) (hm : ∀ k, (f k).munit = k.munit := by intro; rfl) :
    ∃ t, exec i s = .next t ∧ s.MatFrame t ∧ t.mem = s.mem ∧ t.full = s.full ∧
      t.core s.here = (f ((s.core s.here).busy (s.unitOp i w false))).freed := by
  obtain ⟨t, ht, hend⟩ := matCompletes h hw he (.modCore _ _ ha hm)
  refine ⟨t, ht, hend.frame, hend.mem.trans (matTaken_mem s i w), hend.full.trans (matTaken_full s i w), ?_⟩
  rw [hend.core, core_modCore_same, matTaken_core]

end Sys2Proof.Machine
end

section
/-! SUPPORT. Tiles: their descriptors, their rows and what a change of one leaves; TZERO, TMOV and TTRANS (R230, R256). -/

namespace Sys2Proof.Machine

/-! ## Files of registers and tiles -/

theorem vget_vmod_other {α : Type} {n i j : Nat} (d : α) (v : Vector α n) (f : α → α) (h : j ≠ i) :
    vget d (vmod d v i f) j = vget d v j := by
  simp [vmod, vget, List.getD_eq_getElem?_getD, h.symm]

theorem tile_modTile_other (k : Core) {t j : Nat} (f : Tile → Tile) (h : j % 16 ≠ t % 16) :
    (k.modTile t f).tile j = k.tile j :=
  vget_vmod_other ({} : Tile) k.tiles f h

/-! ## Fields of descriptors (R230) -/

/-- The mark is no field of a descriptor. -/
theorem desc_setPois (x : Tile) (b : Bool) : (x.setPois b).desc = x.desc := by
  have hbits {lo n : Nat} (h : lo + n ≤ 9 ∨ 9 < lo) :
      (x.setPois b).geom.extractLsb' lo n = x.geom.extractLsb' lo n := by
    refine BitVec.eq_of_getLsbD_eq fun i hi => ?_
    have hmark : poisBit.getLsbD (lo + i) = false := by
      rw [show poisBit = BitVec.twoPow 64 9 from rfl, BitVec.getLsbD_twoPow, decide_eq_false (show ¬9 = lo + i by omega)]
      rfl
    by_cases hlt : lo + i < 64
    · simp only [Tile.setPois, BitVec.getLsbD_extractLsb', hi, apply_ite (BitVec.getLsbD · (lo + i)), BitVec.getLsbD_and,
        BitVec.getLsbD_or, BitVec.getLsbD_not, hmark, hlt]
      simp
    · simp [BitVec.getLsbD_of_ge _ _ (Nat.le_of_not_lt hlt)]
  simp only [Tile.desc, geomOf, field_eq_extractLsb']
  simp only [Nat.reduceSub, Nat.reduceAdd]
  rw [hbits (by decide), hbits (by decide), hbits (by decide), hbits (by decide), hbits (by decide), hbits (by decide),
    hbits (by decide)]

/-- Bits 23 to 0 of a descriptor travel with a tile. -/
theorem take_geom (x y : Tile) :
    (x.take y).geom.extractLsb' 0 24 = y.geom.extractLsb' 0 24 ∧
      (x.take y).geom.extractLsb' 24 40 = x.geom.extractLsb' 24 40 := by
  have hmask (i : Nat) : descMask.getLsbD i = decide (i < 24) := Nat.testBit_two_pow_sub_one 24 i
  constructor
  · refine BitVec.eq_of_getLsbD_eq fun i hi => ?_
    simp only [Tile.take, BitVec.getLsbD_extractLsb', BitVec.getLsbD_or, BitVec.getLsbD_and, BitVec.getLsbD_not, hmask,
      Nat.zero_add, hi]
    simp
  · refine BitVec.eq_of_getLsbD_eq fun i hi => ?_
    have hlt : 24 + i < 64 := by omega
    have hge : ¬24 + i < 24 := by omega
    simp only [Tile.take, BitVec.getLsbD_extractLsb', BitVec.getLsbD_or, BitVec.getLsbD_and, BitVec.getLsbD_not, hmask,
      hlt, hge, hi]
    simp

/-- FMT, SP, KVM1 and NRM1 are among them. -/
theorem take_desc (x y : Tile) : (x.take y).desc.fmt = y.desc.fmt ∧ (x.take y).desc.kvm1 = y.desc.kvm1 ∧
    (x.take y).desc.nrm1 = y.desc.nrm1 := by
  have hlow := (take_geom x y).1
  have hfield {hi lo : Nat} (h : hi < 24) (hl : lo ≤ hi) :
      field (x.take y).geom.toNat hi lo = field y.geom.toNat hi lo := by
    have hsub (g : Word) : g.extractLsb' lo (hi - lo + 1) = (g.extractLsb' 0 24).extractLsb' lo (hi - lo + 1) := by
      ext i hi
      have : lo + i < 24 := by omega
      simp [this]
    rw [field_eq_extractLsb', field_eq_extractLsb', hsub, hlow, ← hsub]
  exact ⟨hfield (by decide) (by decide), hfield (by decide) (by decide), hfield (by decide) (by decide)⟩

/-! ## Rows of tiles (R229) -/

/-- A part of a concatenation of parts of one length. -/
theorem flatMap_part {α β : Type} {f : α → List β} {n : Nat} {l : List α} (h : ∀ x ∈ l, (f x).length = n) (i : Nat) :
    ((l.flatMap f).drop (n * i)).take n = (l[i]?.map f).getD [] := by
  induction l generalizing i with
  | nil => simp
  | cons x l ih =>
    have hx : (f x).length = n := h x List.mem_cons_self
    cases i with
    | zero => simp [← hx]
    | succ i =>
      have hdrop : ((x :: l).flatMap f).drop (n * (i + 1)) = (l.flatMap f).drop (n * i) := by
        rw [List.flatMap_cons, Nat.mul_succ, Nat.add_comm, ← List.drop_drop, List.drop_left' hx]
      rw [hdrop, ih (fun y hy => h y (List.mem_cons_of_mem x hy)), List.getElem?_cons_succ]

/-- A byte of a row. -/
theorem getD_row (l : List Byte) (n i : Nat) {b : Nat} (hb : b < n) :
    l.getD (n * i + b) 0 = ((l.drop (n * i)).take n).getD b 0 := by
  simp only [List.getD_eq_getElem?_getD, List.getElem?_take, List.getElem?_drop, hb, if_true]

/-- A byte of a transposed tile. -/
theorem transposed_at (w : Nat) (data : List Byte) {i b : Nat} (hi : i < 32) (hb : b < 64) :
    (transposed w data).getD (64 * i + b) 0 =
      if w = 1 then data.getD (64 * (b % 32) + (b / 32) * 32 + i) 0 else data.getD (64 * (b / 2) + 2 * i + b % 2) 0 := by
  rw [getD_row _ 64 i hb, transposed, flatMap_part (by simp)]
  simp [List.getD_eq_getElem?_getD, hi, hb]

/-! ## Words that write a tile (R256) -/

section
variable {s : State} {i : Instr} {w : Half} {d : Nat}

/-- A word whose effect is a change of one tile. -/
theorem matWritesTile {f : Tile → Tile} (h : s.MatrixReady i) (hw : MatWord i w) (hd : d < 16)
    (he : matEffect (s.unitOp i w false) (s.matTaken i w) = .done ((s.matTaken i w).modCore s.here (·.modTile d f))) :
    ∃ t, exec i s = .next t ∧ s.MatFrame t ∧ t.mem = s.mem ∧ t.full = s.full ∧
      (∀ j, j < 16 → j ≠ d → (t.core s.here).tile j = (s.core s.here).tile j) ∧
      (t.core s.here).tile d = f ((s.core s.here).tile d) := by
  obtain ⟨t, ht, hframe, hmem, hfull, hcore⟩ := matChanges h hw he
  refine ⟨t, ht, hframe, hmem, hfull, fun j hj hne => ?_, ?_⟩
  all_goals rw [hcore]
  · exact tile_modTile_other _ f (by omega)
  · exact tile_modTile_same ..

end

/-- A tile that TZERO has written. -/
def Tile.zeroed (x : Tile) (n : Nat) : Tile :=
  ({ x with data := List.replicate 2048 0, scale := List.replicate 32 127, mask := List.replicate 32 (lowBits n) } :
    Tile).setPois false

/-- A tile transposed, with a whole descriptor (R256). -/
def Tile.transpose (x : Tile) : Tile :=
  { x with data := transposed (fmtWidth x.desc.fmt / 8) x.data, scale := List.replicate 32 127
           mask := List.replicate 32 (BitVec.allOnes 64)
           geom := BitVec.ofNat 64 (setField (setField x.geom.toNat 23 19 31) 18 13 63) }

theorem transpose_desc (x : Tile) :
    x.transpose.desc.fmt = x.desc.fmt ∧ x.transpose.desc.kvm1 = 63 ∧ x.transpose.desc.nrm1 = 31 := by
  have hlt := x.geom.isLt
  simp only [Tile.transpose, Tile.desc, geomOf, field, setField, BitVec.toNat_ofNat, Nat.shiftRight_eq_div_pow,
    Nat.shiftLeft_eq]
  omega

section
variable {s : State} {a d : BitVec 5}

theorem tzero_effect (hok : ((s.core s.here).tile d.toNat).desc.ok = true) (w : Half) :
    matEffect (s.unitOp (.tzero d) w false) (s.matTaken (.tzero d) w) = .done ((s.matTaken (.tzero d) w).modCore s.here
      (·.modTile d.toNat (·.zeroed ((s.core s.here).tile d.toNat).desc.n))) := by
  show tzeroBody w d.toNat (s.matTaken (.tzero d) w) = _
  simp only [tzeroBody, matTaken_here, matTaken_core, busy_tile, hok, Bool.not_true, Bool.false_eq_true, if_false]
  rfl

theorem tmov_effect (hok : ((s.core s.here).tile a.toNat).desc.ok = true) (w : Half) :
    matEffect (s.unitOp (.tmov a d) w false) (s.matTaken (.tmov a d) w) = .done ((s.matTaken (.tmov a d) w).modCore s.here
      (·.modTile d.toNat fun y => if a.toNat = d.toNat then y else y.take ((s.core s.here).tile a.toNat))) := by
  show tmovBody w a.toNat d.toNat (s.matTaken (.tmov a d) w) = _
  simp only [tmovBody, matTaken_here, matTaken_core, busy_tile, hok, Bool.not_true, Bool.false_eq_true, if_false]

theorem ttrans_effect (hsp : ((s.core s.here).tile a.toNat).desc.sp = 0)
    (hf : ((s.core s.here).tile a.toNat).desc.fmt ∈ [0, 1, 5, 6, 7, 8]) (w : Half) :
    matEffect (s.unitOp (.ttrans a d) w false) (s.matTaken (.ttrans a d) w) = .done
      ((s.matTaken (.ttrans a d) w).modCore s.here
        (·.modTile d.toNat (·.take ((s.core s.here).tile a.toNat).transpose))) := by
  have hgo : (((s.core s.here).tile a.toNat).desc.sp != 0 ||
      !([0, 1, 5, 6, 7, 8] : List Nat).contains ((s.core s.here).tile a.toNat).desc.fmt) = false := by
    rw [hsp, List.contains_iff_mem.mpr hf]
    rfl
  show ttransBody w a.toNat d.toNat (s.matTaken (.ttrans a d) w) = _
  simp only [ttransBody, matTaken_here, matTaken_core, busy_tile, hgo, Bool.false_eq_true, if_false]
  rfl

/-- Data of a transposed tile by element (R256). -/
theorem transpose_data (x : Tile) (hf : x.desc.fmt ∈ [0, 1, 5, 6, 7, 8]) {i j : Nat} (hi : i < 32) :
    (x.desc.fmt ∉ [5, 6] → j < 64 →
      x.transpose.data.getD (64 * i + j) 0 = x.data.getD (64 * (j % 32) + 32 * (j / 32) + i) 0) ∧
    (x.desc.fmt ∈ [5, 6] → j < 32 → ∀ b, b < 2 →
      x.transpose.data.getD (64 * i + 2 * j + b) 0 = x.data.getD (64 * j + 2 * i + b) 0) := by
  simp only [List.mem_cons, List.not_mem_nil, or_false] at hf ⊢
  refine ⟨fun hn hj => ?_, fun hm hj b hb => ?_⟩
  · have hw : fmtWidth x.desc.fmt / 8 = 1 := by
      obtain h | h | h | h | h | h := hf <;> simp_all [fmtWidth]
    rw [Tile.transpose, transposed_at _ _ hi hj, if_pos hw, Nat.mul_comm 32]
  · have hw : ¬fmtWidth x.desc.fmt / 8 = 1 := by
      obtain h | h := hm <;> rw [h] <;> decide
    have hdiv : (2 * j + b) / 2 = j := by omega
    have hmod : (2 * j + b) % 2 = b := by omega
    rw [Nat.add_assoc (64 * i), Tile.transpose, transposed_at _ _ hi (by omega), if_neg hw, hdiv, hmod]

end

/-- Settles O35: each word writes its one tile, as its effect says. -/
theorem tileMoves : Obligations.TileMoves := by
  unfold Obligations.TileMoves
  rintro s a d k x rfl ha hd rfl
  refine ⟨fun h hok => ?_, fun h hok hne => ?_, fun h hok => ?_, fun h hsp hf => ?_⟩
  · obtain ⟨w, hw⟩ : ∃ w, MatWord (.tzero d) w := matWord fun _ => rfl
    obtain ⟨t, ht, hframe, hmem, hfull, hother, htile⟩ := matWritesTile h hw hd (tzero_effect hok w)
    refine ⟨t, ht, hframe, hmem, hfull, hother, ?_⟩
    rintro y rfl
    rw [htile]
    exact ⟨rfl, rfl, rfl, setPois_false_pois _, desc_setPois ..⟩
  · obtain ⟨w, hw⟩ : ∃ w, MatWord (.tmov a d) w := matWord fun _ => rfl
    obtain ⟨t, ht, hframe, hmem, hfull, hother, htile⟩ := matWritesTile h hw hd (tmov_effect hok w)
    rw [if_neg fun e => hne (BitVec.eq_of_toNat_eq e)] at htile
    refine ⟨t, ht, hframe, hmem, hfull, hother, ?_⟩
    rintro y rfl
    rw [htile]
    exact ⟨rfl, rfl, rfl, take_geom ..⟩
  · obtain ⟨w, hw⟩ : ∃ w, MatWord (.tmov a a) w := matWord fun _ => rfl
    obtain ⟨t, ht, hframe, hmem, hfull, hother, htile⟩ := matWritesTile h hw ha (tmov_effect hok w)
    rw [if_pos rfl] at htile
    refine ⟨t, ht, hframe, hmem, hfull, fun j hj => ?_⟩
    by_cases hja : j = a.toNat
    · rw [hja, htile]
    · exact hother j hj hja
  · obtain ⟨w, hw⟩ : ∃ w, MatWord (.ttrans a d) w := matWord fun _ => rfl
    obtain ⟨t, ht, hframe, hmem, hfull, hother, htile⟩ := matWritesTile h hw hd (ttrans_effect hsp hf w)
    refine ⟨t, ht, hframe, hmem, hfull, hother, ?_⟩
    rintro y rfl
    rw [htile]
    obtain ⟨hfmt, hkv, hnr⟩ := transpose_desc ((s.core s.here).tile a.toNat)
    obtain ⟨htf, htk, htn⟩ := take_desc ((s.core s.here).tile d.toNat) ((s.core s.here).tile a.toNat).transpose
    exact ⟨htf.trans hfmt, htk.trans hkv, htn.trans hnr, fun i j hi => transpose_data _ hf hi⟩

end Sys2Proof.Machine
end

section
/-! SUPPORT. Rows of tiles in the core's own TCM: the accesses of a row, what they read and what they write
(R149, R166, R252, R254, R255). -/

namespace Sys2Proof.Machine

/-! ## The parts of an access (R165) -/

/-- Parts that follow one another from `a` on and hold `n` bytes. -/
def Covers : Nat → Nat → List (Nat × Nat) → Prop
  | _, n, [] => n = 0
  | a, n, p :: ps => p.1 = a ∧ p.2 ≤ n ∧ Covers (a + p.2) (n - p.2) ps

theorem splitAt_covers {g : Nat} (hg : 0 < g) (fuel : Nat) {a n : Nat} (h : n ≤ g * fuel - a % g) :
    Covers a n (splitAt g fuel a n) := by
  induction fuel generalizing a n with
  | zero => exact Nat.le_zero.mp (by simpa using h)
  | succ fuel ih =>
    have hlt : a % g < g := Nat.mod_lt a hg
    simp only [splitAt]
    split
    next h0 => exact h0
    next h0 =>
      split
      next hle => exact ⟨rfl, Nat.le_refl n, Nat.sub_self n⟩
      next hgt =>
        have hnext : (a + (g - a % g)) % g = 0 := by
          have hsum : a + (g - a % g) = g * (a / g + 1) := by
            have := Nat.div_add_mod a g
            rw [Nat.mul_succ]
            omega
          rw [hsum, Nat.mul_mod_right]
        refine ⟨rfl, by omega, ih ?_⟩
        rw [hnext, Nat.mul_succ] at *
        omega

/-- Bytes read part by part. -/
theorem memRead_covers (m : List Host.Cell) {ps : List (Nat × Nat)} {a n : Nat} (h : Covers a n ps) :
    ps.flatMap (fun p => memRead m p.1 p.2) = memRead m a n := by
  induction ps generalizing a n with
  | nil => rw [show n = 0 from h]; rfl
  | cons p ps ih =>
    obtain ⟨hp, hle, hrest⟩ := h
    rw [List.flatMap_cons, ih hrest, hp, ← take_memRead m a hle, ← drop_memRead, List.take_append_drop]

/-- Bytes written in two parts. -/
theorem memWrite_append (m : List Host.Cell) (a : Nat) (bs cs : List Byte) :
    memWrite m a (bs ++ cs) = memWrite (memWrite m a bs) (a + bs.length) cs := by
  induction bs generalizing m a with
  | nil => rfl
  | cons b bs ih =>
    rw [List.cons_append, memWrite, ih, memWrite, List.length_cons, Nat.add_right_comm, Nat.add_assoc]

/-- The words of a part are words of the whole. -/
theorem wordsOf_subset {a n b k x : Nat} (hb : a ≤ b) (hk : b + k ≤ a + n) (h : x ∈ wordsOf b k) : x ∈ wordsOf a n := by
  unfold wordsOf at *
  by_cases hk0 : k = 0
  · simp [hk0] at h
  · rw [if_neg hk0] at h
    obtain ⟨i, hi, rfl⟩ := List.mem_map.mp h
    rw [List.mem_range] at hi
    rw [if_neg (by omega)]
    refine List.mem_map.mpr ⟨b / 8 + i - a / 8, List.mem_range.mpr ?_, ?_⟩
    all_goals
      have h1 : a / 8 ≤ b / 8 := Nat.div_le_div_right hb
      have h2 : (b + k - 1) / 8 ≤ (a + n - 1) / 8 := Nat.div_le_div_right (by omega)
      have h3 : b / 8 ≤ (b + k - 1) / 8 := Nat.div_le_div_right (by omega)
      omega

theorem poisoned_part {s : State} {a n b k : Nat} (h : s.poisoned a n = false) (hb : a ≤ b) (hk : b + k ≤ a + n) :
    s.poisoned b k = false :=
  List.any_eq_false.mpr fun x hx => List.any_eq_false.mp h x (wordsOf_subset hb hk hx)

/-! ## The way of a row (R154, R156, R165) -/

/-- A row access `(ea, n, align)` with rights `need` comes to `n` sound bytes of the core's own TCM at `x`. -/
def State.OwnRow (s : State) (r : Word × Nat × Nat) (x need : Nat) : Prop :=
  ∃ da : Word, s.segCheck s.me (quadOf s.here) r.1 r.2.1 need = .ok (da, .tcm s.here, x) ∧ da.toNat % r.2.2 = 0 ∧
    s.poisoned x r.2.1 = false

/-- The parts of such an access. -/
theorem reach_own {s : State} {ea da : Word} {n need align kind x : Nat}
    (hs : s.segCheck s.me (quadOf s.here) ea n need = .ok (da, .tcm s.here, x)) (ha : da.toNat % align = 0) :
    ∃ ps, Covers x n ps ∧ s.reach s.cur ea n need align kind false =
      .ok s da (ps.map fun p => (.tcm s.here, p.1, p.2)) := by
  have hseg : s.segCheck (s.thr s.cur) (quadOf (coreOf s.cur)) ea n need = .ok (da, .tcm s.here, x) := hs
  have hgran : granule (pathOf (coreOf s.cur) (.tcm s.here)) = 64 := granule_ownTcm s.here
  refine ⟨splitAt 64 (n / 16 + 2) x n, splitAt_covers (by decide) _ (by omega), ?_⟩
  simp [State.reach, hseg, ha, hgran]

/-- The executing thread reads `bs` by an access to its core's own TCM. -/
structure State.OwnLoad (s : State) (a : Access) (bs : List Byte) : Prop where
  dest : a.dest = .tcm s.here
  op : ∃ x n, a.op = .load x n ∧ s.poisoned x n = false ∧ s.rd x n = bs

/-- The executing thread writes `w.2` from `w.1` by an access to its core's own TCM. -/
structure State.OwnStore (s : State) (a : Access) (w : Nat × List Byte) : Prop where
  dest : a.dest = .tcm s.here
  op : a.op = .store w.1 w.2
  sound : s.poisoned w.1 w.2.length = false

/-- What writes leave of memory. -/
def memWrites (m : List Host.Cell) (ws : List (Nat × List Byte)) : List Host.Cell :=
  ws.foldl (fun m w => memWrite m w.1 w.2) m

/-- The accesses of a row that is read. -/
theorem rowParts_loads {s : State} (ea da : Word) {ps : List (Nat × Nat)} {x n : Nat} (h : Covers x n ps)
    (hp : s.poisoned x n = false) (off : Nat) :
    ∃ bss, List.Forall₂ s.OwnLoad (rowParts ea da (ps.map fun p => (.tcm s.here, p.1, p.2)) none off) bss ∧
      bss.flatten = s.rd x n := by
  refine ⟨ps.map fun p => s.rd p.1 p.2, ?_, ?_⟩
  · induction ps generalizing x n off with
    | nil => exact .nil
    | cons p ps ih =>
      obtain ⟨rfl, hle, hrest⟩ := h
      exact .cons ⟨rfl, _, _, rfl, poisoned_part hp (Nat.le_refl _) (by omega), rfl⟩
        (ih hrest (poisoned_part hp (by omega) (by omega)) (off + p.2))
  · rw [← List.flatMap_def]
    exact memRead_covers s.mem h

/-- The accesses of a row that is written. -/
theorem rowParts_stores {s : State} (ea da : Word) {ps : List (Nat × Nat)} {x n : Nat} (h : Covers x n ps)
    (hp : s.poisoned x n = false) {bs : List Byte} {off : Nat} (hl : bs.length = off + n) :
    ∃ ws, List.Forall₂ s.OwnStore (rowParts ea da (ps.map fun p => (.tcm s.here, p.1, p.2)) (some bs) off) ws ∧
      ∀ m, memWrites m ws = memWrite m x (bs.drop off) := by
  induction ps generalizing x n off with
  | nil =>
    obtain rfl : n = 0 := h
    refine ⟨[], .nil, fun m => ?_⟩
    rw [List.drop_of_length_le (by omega)]
    rfl
  | cons p ps ih =>
    obtain ⟨rfl, hle, hrest⟩ := h
    have hlen : ((bs.drop off).take p.2).length = p.2 := by
      rw [List.length_take, List.length_drop]
      omega
    obtain ⟨ws, hws, hmem⟩ := ih hrest (poisoned_part hp (by omega) (by omega)) (off := off + p.2) (by omega)
    refine ⟨(p.1, (bs.drop off).take p.2) :: ws, .cons ⟨rfl, rfl, ?_⟩ hws, fun m => ?_⟩
    · exact poisoned_part hp (Nat.le_refl _) (by rw [hlen]; omega)
    · have hsplit := memWrite_append m p.1 ((bs.drop off).take p.2) ((bs.drop off).drop p.2)
      rw [List.take_append_drop, hlen] at hsplit
      rw [hsplit, List.drop_drop, ← hmem]
      rfl

/-! ## All rows of a tile (R252, R254, R255) -/

section
variable {s : State} {row : Nat → Word × Nat × Nat} {A : Nat → Nat}

/-- Rows that are read come to loads of their bytes, in order. -/
theorem reachRows_loads {is : List Nat} (h : ∀ i ∈ is, s.OwnRow (row i) (A i) rightR) (acc : List Access) :
    ∃ l bss, s.reachRows false (is.map fun i => (row i, none)) acc = .ok s (acc ++ l) ∧ List.Forall₂ s.OwnLoad l bss ∧
      bss.flatten = is.flatMap fun i => s.rd (A i) (row i).2.1 := by
  induction is generalizing acc with
  | nil => exact ⟨[], [], by rw [List.append_nil]; rfl, .nil, rfl⟩
  | cons i is ih =>
    obtain ⟨da, hseg, hal, hp⟩ := h i List.mem_cons_self
    obtain ⟨ps, hps, hreach⟩ := reach_own (kind := 0) hseg hal
    obtain ⟨bss, hl, hbs⟩ := rowParts_loads (row i).1 da hps hp 0
    obtain ⟨l', bss', hrest, hl', hbs'⟩ := ih (fun j hj => h j (List.mem_cons_of_mem i hj))
      (acc ++ rowParts (row i).1 da (ps.map fun p => (.tcm s.here, p.1, p.2)) none 0)
    refine ⟨_, bss ++ bss', ?_, List.rel_append hl hl', ?_⟩
    · rw [← List.append_assoc, ← hrest, List.map_cons]
      simp only [State.reachRows, Option.isSome_none, Bool.false_eq_true, if_false, bit, hreach]
    · rw [List.flatten_append, hbs, hbs', List.flatMap_cons]

/-- Rows that are written come to stores of their bytes, in order. -/
theorem reachRows_stores {is : List Nat} {data : Nat → List Byte}
    (h : ∀ i ∈ is, s.OwnRow (row i) (A i) rightW ∧ (data i).length = (row i).2.1) (acc : List Access) :
    ∃ l ws, s.reachRows false (is.map fun i => (row i, some (data i))) acc = .ok s (acc ++ l) ∧
      List.Forall₂ s.OwnStore l ws ∧ ∀ m, memWrites m ws = memWrites m (is.map fun i => (A i, data i)) := by
  induction is generalizing acc with
  | nil => exact ⟨[], [], by rw [List.append_nil]; rfl, .nil, fun _ => rfl⟩
  | cons i is ih =>
    obtain ⟨⟨da, hseg, hal, hp⟩, hlen⟩ := h i List.mem_cons_self
    obtain ⟨ps, hps, hreach⟩ := reach_own (kind := 1) hseg hal
    obtain ⟨ws, hl, hmem⟩ := rowParts_stores (row i).1 da hps hp (bs := data i) (off := 0) (by omega)
    obtain ⟨l', ws', hrest, hl', hmem'⟩ := ih (fun j hj => h j (List.mem_cons_of_mem i hj))
      (acc ++ rowParts (row i).1 da (ps.map fun p => (.tcm s.here, p.1, p.2)) (some (data i)) 0)
    refine ⟨_, ws ++ ws', ?_, List.rel_append hl hl', fun m => ?_⟩
    · rw [← List.append_assoc, ← hrest, List.map_cons]
      simp only [State.reachRows, Option.isSome_some, if_true, bit, hreach]
    · have hcat : memWrites m (ws ++ ws') = memWrites (memWrites m ws) ws' := List.foldl_append
      rw [hcat, hmem, hmem', List.drop_zero]
      rfl

end

/-! ## Accesses to the core's own TCM (R149, R166) -/

/-- Loads from the core's own TCM that find sound words for which nothing waits. -/
theorem ownAccesses_loads {s : State} {l : List Access} {bss : List (List Byte)} (hl : List.Forall₂ s.OwnLoad l bss)
    (hw : ∀ a, s.wordHeld a = false) (got : List Byte) :
    ∃ t, ownAccesses s got l = .ok (t, got ++ bss.flatten) ∧ s.Metered t := by
  induction l generalizing s bss got with
  | nil =>
    cases hl
    exact ⟨s, by simp [ownAccesses], .refl s⟩
  | cons a l ih =>
    cases hl with
    | @cons _ bs _ bss ha hl =>
    obtain ⟨hd, x, n, hop, hp, hbs⟩ := ha
    have hm := State.Metered.chargeAccess (d := a.dest) (by simp [hd]) s s.here s.me.fn a.op
    have hhere : (s.chargeAccess s.here s.me.fn a.dest a.op).here = s.here := congrArg coreOf hm.only.cur
    have hheld := hm.wordHeld
    have hread := perform_load (s := s.chargeAccess s.here s.me.fn a.dest a.op)
      (who := .thread s.cur s.me.gen.toNat false) (da := a.da) (a := x) (n := n)
      (List.any_eq_false.mpr fun y _ => by simp [hheld, hw y]) (by rw [hm.only.poisoned, hp])
    have hnext : List.Forall₂ (s.chargeAccess s.here s.me.fn a.dest a.op).OwnLoad l bss := by
      refine hl.imp fun a bs ⟨hd, x, n, hop, hp, hbs⟩ =>
        ⟨hd.trans (congrArg Dest.tcm hhere.symm), x, n, hop, by rw [hm.only.poisoned, hp], ?_⟩
      rw [← hbs, State.rd, hm.only.mem, State.rd]
    obtain ⟨t, ht, hmt⟩ := ih hnext (fun y => by rw [hheld, hw y]) (got ++ bs)
    refine ⟨t, ?_, hm.trans hmt⟩
    have hrd : (s.chargeAccess s.here s.me.fn a.dest a.op).rd x n = bs := by rw [State.rd, hm.only.mem, ← hbs, State.rd]
    rw [← hop, hrd] at hread
    rw [ownAccesses, hread, List.flatten_cons, ← List.append_assoc]
    exact ht

/-- A store into sound words. -/
theorem storeAt_sound {s : State} {a : Nat} {bs : List Byte} (h : s.poisoned a bs.length = false) :
    ∃ t, s.storeAt a bs = some t ∧ s.WordsOnly t ∧ t.mem = memWrite s.mem a bs ∧ ∀ w ∈ t.poison, w ∈ s.poison := by
  have hpart : ((wordsOf a bs.length).filter fun w => !(a ≤ w && w + 8 ≤ a + bs.length)).any s.poison.contains =
      false :=
    List.any_eq_false.mpr fun w hw => List.any_eq_false.mp h w (List.mem_of_mem_filter hw)
  simp only [State.storeAt, hpart, Bool.false_eq_true, if_false]
  split
  · exact ⟨_, rfl, ⟨_, _, _, _, _, rfl⟩, rfl, fun _ hw => hw⟩
  · exact ⟨_, rfl, ⟨_, _, _, _, _, rfl⟩, rfl, fun _ hw => List.mem_of_mem_filter hw⟩

theorem poisoned_of_subset {s t : State} (h : ∀ w ∈ t.poison, w ∈ s.poison) {a n : Nat} (hs : s.poisoned a n = false) :
    t.poisoned a n = false := by
  refine List.any_eq_false.mpr fun w hw hc => List.any_eq_false.mp hs w hw ?_
  exact List.contains_iff_mem.mpr (h w (List.contains_iff_mem.mp hc))

/-- Such a store performs. -/
theorem perform_store {s : State} {a : Nat} {bs : List Byte} (hw : ∀ y, s.wordHeld y = false)
    (hp : s.poisoned a bs.length = false) (who : Waiter) (da : Word) :
    ∃ t, s.perform who da (.store a bs) = .reply t .ok ∧ s.WordsOnly t ∧ t.mem = memWrite s.mem a bs ∧
      ∀ w ∈ t.poison, w ∈ s.poison := by
  obtain ⟨u, hu, ⟨m, f, p, w, g, hwords⟩, hmem, hsub⟩ := storeAt_sound hp
  obtain ⟨w', g', hwatch⟩ := watchHit_watches u a bs.length
  have hheld : (wordsOf a bs.length).any s.wordHeld = false := List.any_eq_false.mpr fun y _ => by simp [hw y]
  refine ⟨u.watchHit a bs.length, ?_, ?_, ?_, ?_⟩
  · simp only [State.perform, State.performAt, hheld, hu, HomeOp.stores, HomeOp.addr, HomeOp.size, Bool.false_eq_true,
      if_false, if_true]
  · rw [hwatch, hwords]
    exact ⟨_, _, _, _, _, rfl⟩
  · rw [hwatch]
    exact hmem
  · rw [hwatch]
    exact hsub

theorem State.WordsOnly.cur {s t : State} (h : s.WordsOnly t) : t.cur = s.cur := by
  obtain ⟨_, _, _, _, _, rfl⟩ := h
  rfl

theorem State.WordsOnly.thr {s t : State} (h : s.WordsOnly t) (u : Nat) : t.thr u = s.thr u := by
  rw [State.thr, h.threads, State.thr]

/-- Stores into the core's own TCM, into sound words for which nothing waits. -/
theorem ownAccesses_stores {s : State} {l : List Access} {ws : List (Nat × List Byte)}
    (hl : List.Forall₂ s.OwnStore l ws) (hw : ∀ a, s.wordHeld a = false) (got : List Byte) :
    ∃ t, ownAccesses s got l = .ok (t, got) ∧ s.UnitKeeps t ∧ t.mem = memWrites s.mem ws ∧ ∀ c, t.core c = s.core c := by
  induction l generalizing s ws got with
  | nil =>
    cases hl
    exact ⟨s, rfl, .refl s, rfl, fun _ => rfl⟩
  | cons a l ih =>
    cases hl with
    | @cons _ w _ ws ha hl =>
    obtain ⟨hd, hop, hp⟩ := ha
    have hm := State.Metered.chargeAccess (d := a.dest) (by simp [hd]) s s.here s.me.fn a.op
    obtain ⟨u, hu, hwords, hmem, hsub⟩ := perform_store (s := s.chargeAccess s.here s.me.fn a.dest a.op) (a := w.1)
      (bs := w.2) (fun y => by rw [hm.wordHeld, hw y]) (by rw [hm.only.poisoned, hp])
      (.thread s.cur s.me.gen.toNat false) a.da
    have hcur : u.cur = s.cur := hwords.cur.trans hm.only.cur
    have hhere : u.here = s.here := congrArg coreOf hcur
    have hpoison (x n : Nat) (h : s.poisoned x n = false) : u.poisoned x n = false :=
      poisoned_of_subset hsub (by rw [hm.only.poisoned, h])
    have hnext : List.Forall₂ u.OwnStore l ws :=
      hl.imp fun a w ⟨hd, hop, hp⟩ => ⟨hd.trans (congrArg Dest.tcm hhere.symm), hop, hpoison _ _ hp⟩
    have hheld : u.wordHeld = s.wordHeld := by
      rw [← hm.wordHeld]
      exact wordHeld_congr fun q => by rw [hwords.quad]
    obtain ⟨t, ht, hkeep, htmem, hcore⟩ := ih hnext (fun y => by rw [hheld, hw y]) got
    refine ⟨t, ?_, (State.UnitKeeps.metered hm).trans ((State.UnitKeeps.words hwords).trans hkeep), ?_, fun c => ?_⟩
    · rw [← hop] at hu
      rw [ownAccesses, hu]
      exact ht
    · rw [htmem, hmem, hm.only.mem]
      rfl
    · rw [hcore, hwords.core, hm.only.core]

end Sys2Proof.Machine
end

section
/-! SUPPORT. TLD and TST of dense tiles in the core's own TCM, and slots that are filled at once
(R234, R252, R254, R255). -/

namespace Sys2Proof.Machine

/-! ## What the unit's taking of a word leaves of an access's checks -/

theorem State.Metered.segCheck {s t : State} (h : s.Metered t) : t.segCheck = s.segCheck := by
  have hrights (q l : Nat) : t.leaseRights q l = s.leaseRights q l := by
    have hq := h.part Quad.rights (fun _ => rfl) q
    obtain ⟨⟨_, _, rfl⟩, -⟩ := h
    simp only [State.leaseRights, hq]
    rfl
  have hholds (l c : Nat) : t.leaseHolds l c = s.leaseHolds l c := by
    have hq := h.holder
    obtain ⟨⟨_, _, rfl⟩, -⟩ := h
    simp only [State.leaseHolds, hq]
    rfl
  have hlevel : t.levelOk = s.levelOk := by
    funext th q x b
    simp only [State.levelOk, hrights, hholds]
  funext th q ea n need
  simp only [State.segCheck, hlevel]
  obtain ⟨⟨_, _, rfl⟩, -⟩ := h
  rfl

section
variable (s : State) (i : Instr) (w : Half)

theorem matTaken_segCheck : (s.matTaken i w).segCheck = s.segCheck := by
  rw [← (State.Metered.acceptMat s s.cur i).segCheck]
  rfl

theorem matTaken_poisoned (x n : Nat) : (s.matTaken i w).poisoned x n = s.poisoned x n := by
  rw [State.poisoned, matTaken_poison, State.poisoned]

theorem matTaken_wordHeld : (s.matTaken i w).wordHeld = s.wordHeld := by
  rw [← (State.Metered.acceptMat s s.cur i).wordHeld]
  rfl

theorem matTaken_ownsTcm (h : s.ownsTcm) : (s.matTaken i w).ownsTcm := by
  have howner : (s.matTaken i w).ownerOk s.me.fn (.tcm s.here) = s.ownerOk s.me.fn (.tcm s.here) := by
    funext a
    simp only [State.ownerOk, State.holds, matTaken_holder]
  simpa only [State.ownsTcm, State.level, matTaken_me, matTaken_here, howner] using h

end

/-- A row of the core's own TCM, as the unit finds it. -/
theorem ownRow_taken {s : State} {ea da : Word} {n align need x : Nat} (h : s.OwnTcm ea da x n need)
    (ha : da.toNat % align = 0) (i : Instr) (w : Half) : (s.matTaken i w).OwnRow (ea, n, align) x need :=
  ⟨da, by rw [matTaken_segCheck, matTaken_me, matTaken_here]; exact h.place, ha, by rw [matTaken_poisoned, h.sound]⟩

/-! ## Row accesses that end at once (R242, R252) -/

theorem forall₂_left {α β : Type} {R : α → β → Prop} {l : List α} {m : List β} (h : List.Forall₂ R l m) :
    ∀ a ∈ l, ∃ b, R a b := by
  induction h with
  | nil => simp
  | cons hab _ ih => exact List.forall_mem_cons.mpr ⟨⟨_, hab⟩, ih⟩

section
variable {s : State} {l : List Access}

/-- Accesses that all go to the core's own TCM pass the owner check of its rows and wait for nothing. -/
theorem rowAccesses_own (hd : ∀ a ∈ l, a.dest = .tcm s.here) (ho : s.ownsTcm) (hf : s.storeFail l = none) (o : UnitOp)
    (got : List Byte) (fin : List Byte → State → Res) {t : State} {bs : List Byte}
    (ht : ownAccesses s got l = .ok (t, bs)) : rowAccesses o got l fin s = fin bs t := by
  have hown : (l.all fun a => pathOf s.here a.dest == .own) = true :=
    List.all_eq_true.mpr fun a ha => by simp [hd a ha, pathOf]
  have howner : s.rowOwner l = none := by
    refine List.find?_eq_none.mpr fun a ha => ?_
    rw [hd a ha]
    obtain h2 | hall := ho
    · simp [Nat.not_lt.mpr h2]
    · simp [hall]
  simp only [rowAccesses, hown, howner, hf, ht, Bool.not_true, Bool.false_and, Bool.false_eq_true, if_false]

theorem rowAccesses_loads {bss : List (List Byte)} (hl : List.Forall₂ s.OwnLoad l bss)
    (hw : ∀ a, s.wordHeld a = false) (ho : s.ownsTcm) (o : UnitOp) (got : List Byte) (fin : List Byte → State → Res) :
    ∃ t, rowAccesses o got l fin s = fin (got ++ bss.flatten) t ∧ s.Metered t := by
  obtain ⟨t, ht, hm⟩ := ownAccesses_loads hl hw got
  refine ⟨t, rowAccesses_own (fun a ha => ?_) ho ?_ o got fin ht, hm⟩
  · obtain ⟨_, hload⟩ := forall₂_left hl a ha
    exact hload.dest
  · refine List.findSome?_eq_none_iff.mpr fun a ha => ?_
    obtain ⟨_, -, x, n, hop, -⟩ := forall₂_left hl a ha
    simp [hop]

theorem rowAccesses_stores {ws : List (Nat × List Byte)} (hl : List.Forall₂ s.OwnStore l ws)
    (hw : ∀ a, s.wordHeld a = false) (ho : s.ownsTcm) (o : UnitOp) (got : List Byte) (fin : List Byte → State → Res) :
    ∃ t, rowAccesses o got l fin s = fin got t ∧ s.UnitKeeps t ∧ t.mem = memWrites s.mem ws ∧
      ∀ c, t.core c = s.core c := by
  obtain ⟨t, ht, hrest⟩ := ownAccesses_stores hl hw got
  refine ⟨t, rowAccesses_own (fun a ha => ?_) ho ?_ o got fin ht, hrest⟩
  · obtain ⟨_, hstore⟩ := forall₂_left hl a ha
    exact hstore.dest
  · refine List.findSome?_eq_none_iff.mpr fun a ha => ?_
    obtain ⟨w, -, hop, hp⟩ := forall₂_left hl a ha
    have hbad : s.storeBad w.1 w.2.length = none := by
      refine List.find?_eq_none.mpr fun x hx hc => List.any_eq_false.mp hp x hx ?_
      exact ((Bool.and_eq_true _ _).mp hc).2
    simp [hop, State.storeUe, hbad]

end

/-! ## Dense tiles without scales (R30, R231) -/

/-- A dense tile of a format without scales or coded blocks. -/
structure Geom.Dense (g : Geom) : Prop where
  sp : g.sp = 0
  plain : g.fmt ∉ [10, 11, 12]
  width : fmtWidth g.fmt = 4 ∨ fmtWidth g.fmt = 8 ∨ fmtWidth g.fmt = 16
  kvm1 : g.kvm1 < 64
  nrm1 : g.nrm1 < 32

theorem dense_desc {x : Tile} (hok : x.desc.ok = true) (hsp : x.desc.sp = 0) (hf : x.desc.fmt ∉ [10, 11, 12]) :
    x.desc.Dense where
  sp := hsp
  plain := hf
  width := by
    have hlt : x.desc.fmt < 16 := Nat.mod_lt _ (by decide)
    have hcode : x.desc.fmt ∉ [2, 3, 4, 14, 15] := by
      simp only [Geom.ok, Bool.and_eq_true, Bool.not_eq_true'] at hok
      intro hmem
      rw [List.contains_iff_mem.mpr hmem] at hok
      exact Bool.noConfusion hok.1.1
    have hall : ∀ f, f < 16 → f ∉ [2, 3, 4, 14, 15] → f ∉ [10, 11, 12] →
        fmtWidth f = 4 ∨ fmtWidth f = 8 ∨ fmtWidth f = 16 := by decide
    exact hall _ hlt hcode hf
  kvm1 := Nat.mod_lt _ (by decide)
  nrm1 := Nat.mod_lt _ (by decide)

namespace Geom.Dense

variable {g : Geom}

theorem rowBytes (h : g.Dense) : g.rowBytes = 8 * fmtWidth g.fmt := by
  rw [Geom.rowBytes, Geom.n, if_pos h.sp]
  omega

theorem slots (h : g.Dense) : g.rowBytes ≤ 64 * g.slots ∧ (g.kvm1 + 1) * fmtWidth g.fmt ≤ 512 * g.slots := by
  have hk := h.kvm1
  have hfmt : g.fmt ≠ 14 := by
    intro he
    have := h.width
    rw [he] at this
    revert this
    decide
  have hb := h.rowBytes
  obtain hw | hw | hw := h.width
  all_goals
    rw [hw] at hb ⊢
    simp only [Geom.slots, Geom.pair, hb, bne_iff_ne.mpr hfmt]
    simp
    omega

theorem notScaled (h : g.Dense) : g.scaled = false := by
  have hf := h.plain
  simp only [List.mem_cons, List.not_mem_nil, or_false, not_or] at hf
  simp [Geom.scaled, hf.1, hf.2.1]

theorem notCoded (h : g.Dense) : g.fmt ≠ 12 := fun he => h.plain (by rw [he]; decide)

/-- The one access of a row. -/
theorem rowAccess (h : g.Dense) (a b : Word) (i : Nat) :
    g.rowAccess a b i = [(a + BitVec.ofNat 64 (i * g.stride), g.rowBytes, 32)] := by
  simp [Geom.rowAccess, h.sp, h.notScaled, h.notCoded]

end Geom.Dense

/-- A row as TLD writes it, from the bytes `R` of the rows that are read. -/
def Geom.loadedRow (g : Geom) (R : Nat → List Byte) (i : Nat) : TileRow :=
  if g.nrm1 < i then g.blank
  else { data := toBytes (64 * g.slots) (ofBytes (R i) % 2 ^ ((g.kvm1 + 1) * fmtWidth g.fmt)) }

theorem toBytes_length (n x : Nat) : (toBytes n x).length = n := by
  induction n generalizing x with
  | zero => rfl
  | succ n ih => rw [toBytes, List.length_cons, ih]

theorem ofBytes_zeros (n : Nat) : ofBytes (List.replicate n 0) = 0 := by
  induction n with
  | zero => rfl
  | succ n ih => rw [List.replicate_succ, ofBytes, ih]; rfl

theorem loadedRow_length (g : Geom) (R : Nat → List Byte) (i : Nat) : (g.loadedRow R i).data.length = 64 * g.slots := by
  unfold Geom.loadedRow
  split
  · exact List.length_replicate
  · exact toBytes_length ..

theorem loadedRow_value {g : Geom} (h : g.Dense) (R : Nat → List Byte) (i : Nat) :
    ofBytes (g.loadedRow R i).data =
      if i ≤ g.nrm1 then ofBytes (R i) % 2 ^ ((g.kvm1 + 1) * fmtWidth g.fmt) else 0 := by
  unfold Geom.loadedRow
  by_cases hi : g.nrm1 < i
  · rw [if_pos hi, if_neg (by omega)]
    exact ofBytes_zeros _
  · have hpow : 256 ^ (64 * g.slots) = 2 ^ (512 * g.slots) := by
      rw [show (256 : Nat) = 2 ^ 8 from rfl, ← Nat.pow_mul]
      congr 1
      omega
    have hlt : ofBytes (R i) % 2 ^ ((g.kvm1 + 1) * fmtWidth g.fmt) < 2 ^ (512 * g.slots) :=
      Nat.lt_of_lt_of_le (Nat.mod_lt _ (Nat.two_pow_pos _)) (Nat.pow_le_pow_right (by decide) h.slots.2)
    rw [if_neg hi, if_pos (by omega), ofBytes_toBytes, hpow, Nat.mod_eq_of_lt hlt]

/-- The rows of a tile from the bytes that have come. -/
theorem rows_dense {g : Geom} (h : g.Dense) {R : Nat → List Byte} (hR : ∀ i, (R i).length = g.rowBytes) (gb b : Word)
    (n i : Nat) (got : List Byte) (hgot : got = (List.range' i (g.nrm1 + 1 - i)).flatMap R) :
    g.rows gb n i b got = .ok ((List.range' i n).map (g.loadedRow R)) := by
  induction n generalizing i got with
  | zero => rfl
  | succ n ih =>
    rw [List.range'_succ, List.map_cons, Geom.rows]
    by_cases hi : g.nrm1 < i
    · have hnone : got = (List.range' (i + 1) (g.nrm1 + 1 - (i + 1))).flatMap R := by
        rw [hgot, show g.nrm1 + 1 - i = 0 by omega, show g.nrm1 + 1 - (i + 1) = 0 by omega]
        rfl
      rw [if_pos hi, ih (i + 1) got hnone, Geom.loadedRow, if_pos hi]
      rfl
    · have hgot' : got = R i ++ (List.range' (i + 1) (g.nrm1 + 1 - (i + 1))).flatMap R := by
        rw [hgot, show g.nrm1 + 1 - i = g.nrm1 + 1 - (i + 1) + 1 by omega, List.range'_succ, List.flatMap_cons]
      have htake : got.take g.rowBytes = R i := by rw [hgot', List.take_left' (hR i)]
      have hdrop : got.drop g.rowBytes = (List.range' (i + 1) (g.nrm1 + 1 - (i + 1))).flatMap R := by
        rw [hgot', List.drop_left' (hR i)]
      rw [if_neg hi, if_neg h.notCoded]
      simp only [Geom.row, h.sp, h.notScaled, htake, ih (i + 1) _ hdrop, Geom.loadedRow, hi, if_false, if_true,
        Bool.false_eq_true]
      rfl

/-! ## A tile with its rows written (R254) -/

section
variable {k : Core} {t t2 : Nat} {pair : Bool} {rs : List TileRow}

theorem putRows_tile_other {j : Nat} (h : j % 16 ≠ t % 16) (h2 : pair = true → j % 16 ≠ t2 % 16) :
    (k.putRows t t2 pair rs).tile j = k.tile j := by
  unfold Core.putRows
  cases pair with
  | false => exact tile_modTile_other _ _ h
  | true => exact (tile_modTile_other _ _ (h2 rfl)).trans (tile_modTile_other _ _ h)

theorem putRows_tile_same (h : pair = true → t % 16 ≠ t2 % 16) :
    (k.putRows t t2 pair rs).tile t = (k.tile t).withRows rs := by
  unfold Core.putRows
  cases pair with
  | false => exact tile_modTile_same ..
  | true => exact (tile_modTile_other _ _ (h rfl)).trans (tile_modTile_same ..)

theorem withRows_pois (x : Tile) (rs : List TileRow) : (x.withRows rs).pois = false := setPois_false_pois _

theorem withRows_desc (x : Tile) (rs : List TileRow) : (x.withRows rs).desc = x.desc := desc_setPois ..

/-- A row of a tile or of a pair that has been written. -/
theorem putRows_rowOf {n : Nat} (hn : n = if pair then 2 else 1)
    (h2 : pair = true → t2 = t + 1 ∧ t + 1 < 16) (hl : ∀ r ∈ rs, r.data.length = 64 * n) (i : Nat) :
    (k.putRows t t2 pair rs).rowOf t pair i = (rs[i]?.map (·.data)).getD [] := by
  have hfirst : ((((k.putRows t t2 pair rs).tile t).data.drop (64 * i)).take 64) =
      (rs[i]?.map fun r => r.data.take 64).getD [] := by
    rw [putRows_tile_same fun hp => by have := h2 hp; omega]
    refine flatMap_part (fun r hr => ?_) i
    rw [List.length_take, hl r hr]
    have : 1 ≤ n := by cases pair <;> simp at hn <;> omega
    omega
  simp only [Core.rowOf]
  rw [hfirst]
  cases hp : pair with
  | false =>
    rw [hp] at hn
    cases hr : rs[i]? with
    | none => rfl
    | some r =>
      have hlen := hl r (List.mem_of_getElem? hr)
      rw [hn] at hlen
      simpa using List.take_of_length_le (Nat.le_of_eq hlen)
  | true =>
    rw [hp] at hn h2
    obtain ⟨rfl, hlt⟩ := h2 rfl
    have hsecond : ((((k.putRows t (t + 1) true rs).tile (t + 1)).data.drop (64 * i)).take 64) =
        (rs[i]?.map fun r => (r.data.drop 64).take 64).getD [] := by
      rw [Core.putRows, if_pos rfl, tile_modTile_same]
      refine flatMap_part (fun r hr => ?_) i
      rw [List.length_take, List.length_drop, hl r hr, hn]
      rfl
    rw [if_pos rfl, hsecond]
    cases hr : rs[i]? with
    | none => rfl
    | some r =>
      have hlen := hl r (List.mem_of_getElem? hr)
      rw [hn] at hlen
      have hall : (r.data.drop 64).take 64 = r.data.drop 64 :=
        List.take_of_length_le (by rw [List.length_drop, hlen]; decide)
      simp [hall]

end

/-! ## Slots that are claimed and filled at once (R234) -/

theorem ring_modRing_same (k : Core) (r : Nat) (f : Ring → Ring) : (k.modRing r f).ring r = f (k.ring r) :=
  vget_vmod_same ({} : Ring) k.rings f (Nat.mod_lt r (by decide))

theorem ring_modRing_other (k : Core) {r j : Nat} (f : Ring → Ring) (hr : r < 4) (hj : j < 4) (h : j ≠ r) :
    (k.modRing r f).ring j = k.ring j :=
  vget_vmod_other _ _ _ (by omega)

/-- With no fill under way, slots at PI become FULL. -/
theorem fill_ready {r : Ring} (hp : r.pend = []) (hs : r.inStep) (n : Nat) :
    r.fill n = { r with pi := (r.pi + n) % r.len, nf := r.nf + n } := by
  have hpi : r.pi = (r.ci + r.nf) % r.len := by
    have := hs
    rwa [Ring.inStep, Ring.nl, hp, List.length_nil, Nat.add_zero] at this
  have hoff : (r.pi + r.len - (r.ci + r.nf) % r.len) % r.len = 0 := by
    rw [hpi, Nat.add_sub_cancel_left, Nat.mod_self]
  have hpend : ((List.range n).zip (List.replicate n false)).map
      (fun p => p.2 || (decide (0 ≤ p.1) && decide (p.1 < 0 + n))) = List.replicate n true := by
    refine List.eq_replicate_iff.mpr ⟨by simp, fun b hb => ?_⟩
    obtain ⟨p, hp, rfl⟩ := List.mem_map.mp hb
    have hlt : p.1 < n := List.mem_range.mp (List.of_mem_zip hp).1
    simp [hlt]
  simp only [Ring.fill, Ring.filled, Ring.claim, hp, List.nil_append, List.length_replicate, hoff, hpend, Ring.settle]
  simp

/-! ## TLD (R254) -/

/-- Rows that are needed are asked for together. -/
theorem tldGo_asks {o : UnitOp} {g : Geom} {fin : List Byte → State → Res} {n : Nat} {got : List Byte} {s : State}
    {rs : List (Word × Nat × Nat)} {l : List Access} (hneed : g.need o.a o.b got = .ok rs) (hrs : rs ≠ [])
    (hreach : s.reachRows o.replay (rs.map fun r => (r, none)) [] = .ok s l) :
    tldGo o g fin (n + 1) got s = rowAccesses o got l (fun bs s => tldGo o g fin n bs s) s := by
  rw [tldGo, hneed]
  cases rs with
  | nil => exact absurd rfl hrs
  | cons r rs => simp only [hreach]

section
variable {s : State} {g : Geom} {A : Nat → Nat}

/-- The unit reads all rows of a dense tile at once. -/
theorem tldGo_reads (hg : g.Dense) {o : UnitOp} (ho : s.ownsTcm) (hw : ∀ a, s.wordHeld a = false)
    (hrow : ∀ i, i ≤ g.nrm1 → s.OwnRow (o.a + BitVec.ofNat 64 (i * g.stride), g.rowBytes, 32) (A i) rightR)
    (hr : o.replay = false) (fin : List Byte → State → Res) :
    ∃ t, tldGo o g fin 70 [] s =
      fin ((List.range (g.nrm1 + 1)).flatMap fun i => s.rd (A i) g.rowBytes) t ∧ s.Metered t := by
  obtain ⟨l, bss, hreach, hl, hbs⟩ := reachRows_loads (s := s) (A := A) (is := List.range (g.nrm1 + 1))
    (row := fun i => (o.a + BitVec.ofNat 64 (i * g.stride), g.rowBytes, 32))
    (fun i hi => hrow i (Nat.le_of_lt_succ (List.mem_range.mp hi))) []
  rw [List.nil_append] at hreach
  obtain ⟨t, ht, hm⟩ := rowAccesses_loads hl hw ho o [] fun bs s => tldGo o g fin 69 bs s
  have hneed : g.need o.a o.b [] = .ok ((List.range (g.nrm1 + 1)).map fun i =>
      (o.a + BitVec.ofNat 64 (i * g.stride), g.rowBytes, 32)) := by
    rw [Geom.need, if_neg hg.notCoded, if_pos rfl, List.map_eq_flatMap, funext (hg.rowAccess o.a o.b)]
  have hpos : 0 < g.rowBytes := by
    have := hg.rowBytes
    have := hg.width
    omega
  have hsome : (List.range (g.nrm1 + 1)).flatMap (fun i => s.rd (A i) g.rowBytes) ≠ [] := by
    rw [List.range_succ_eq_map, List.flatMap_cons]
    intro hnil
    have hlen := congrArg List.length (List.append_eq_nil_iff.mp hnil).1
    rw [rd_length] at hlen
    exact absurd hlen hpos.ne'
  refine ⟨t, ?_, hm⟩
  rw [List.nil_append, hbs] at ht
  rw [tldGo_asks hneed (by simp) (by rw [hr, List.map_map]; exact hreach), ht, tldGo, Geom.need, if_neg hg.notCoded,
    if_neg hsome]

/-- The rows that TLD writes. -/
def State.tldRows (s : State) (g : Geom) (A : Nat → Nat) : List TileRow :=
  (List.range' 0 32).map (g.loadedRow fun i => s.rd (A i) g.rowBytes)

theorem tldRows_spec (hg : g.Dense) (gb b : Word) :
    g.rows gb 32 0 b ((List.range (g.nrm1 + 1)).flatMap fun i => s.rd (A i) g.rowBytes) = .ok (s.tldRows g A) :=
  rows_dense hg (fun i => rd_length s (A i) g.rowBytes) gb b 32 0 _ (by rw [List.range_eq_range', Nat.sub_zero])

theorem tldRows_row {k : Core} {d : Nat} (hg : g.Dense) (hp : g.pair = true → d + 1 < 16) {i : Nat} (hi : i < 32) :
    ofBytes ((k.putRows d (d + 1) g.pair (s.tldRows g A)).rowOf d g.pair i) =
      if i ≤ g.nrm1 then ofBytes (s.rd (A i) g.rowBytes) % 2 ^ ((g.kvm1 + 1) * fmtWidth g.fmt) else 0 := by
  have hlen : ∀ r ∈ s.tldRows g A, r.data.length = 64 * g.slots := by
    intro r hr
    obtain ⟨j, -, rfl⟩ := List.mem_map.mp hr
    exact loadedRow_length ..
  have hget : (s.tldRows g A)[i]? = some (g.loadedRow (fun i => s.rd (A i) g.rowBytes) i) := by
    simp [State.tldRows, hi]
  rw [putRows_rowOf rfl (fun h => ⟨rfl, hp h⟩) hlen, hget]
  exact loadedRow_value hg _ i

/-- The core after TLD into tile `d`, or into the slots at PI of ring `ring`. -/
def Core.tileLoaded (k : Core) (ring : Option Nat) (d : Nat) (g : Geom) (rs : List TileRow) : Core :=
  match ring with
  | some r => (k.putRows d (d + 1) g.pair rs).modRing r fun x => x.fill g.slots
  | none => k.putRows d (d + 1) g.pair rs

/-- What TLD asks of its target: a tile, or a ring whose slots at PI begin with it. -/
def Core.loadsInto (k : Core) (ring : Option Nat) (t d : Nat) (g : Geom) : Prop :=
  match ring with
  | none => d = t
  | some r => d = (k.ring r).tile (k.ring r).pi ∧ (k.ring r).len ≠ 0 ∧ g.slots ≤ (k.ring r).empties ∧
      (g.pair = true → (k.ring r).tile (((k.ring r).pi + 1) % (k.ring r).len) = d + 1)

/-- The end of a TLD, with the bytes of its rows. -/
def tldEnd (o : UnitOp) (ring : Option Nat) (d : Nat) (g : Geom) (bs : List Byte) (s : State) : Res :=
  match g.rows o.b 32 0 o.a bs with
  | .error c => .trap s c
  | .ok rs => .done (s.modCore s.here (·.tileLoaded ring d g rs))

/-- A TLD that finds its target ready reads its rows. -/
theorem tldBody_goes {o : UnitOp} {ring : Option Nat} {t d : Nat} (hs : o.started = false) (hr : o.replay = false)
    (hop : s.me.op.reply = .none) (hd : (s.core s.here).loadsInto ring t d g)
    (hgd : g = ((s.core s.here).tile d).desc) (hok : g.okAt d = true) (hg : g.Dense) :
    tldBody o ring t s =
      tldGo { o with geom := ((s.core s.here).tile d).geom } g
        (tldEnd { o with geom := ((s.core s.here).tile d).geom } ring d g) 70 [] s := by
  have hgeom : geomOf ((s.core s.here).tile d).geom = g := hgd.symm
  have hsp : (g.sp != 0) = false := by simp [hg.sp]
  cases ring with
  | none =>
    obtain rfl : d = t := hd
    simp only [tldBody, Option.isSome_none, Bool.false_and, Bool.false_eq_true, if_false, hs, hgeom, hok, hsp,
      UnitOp.going, hr, hop, Bool.not_true, Bool.or_self]
    rfl
  | some r =>
    obtain ⟨hdt, hlen, hroom, hpair⟩ := hd
    have hroom' : ¬((s.core s.here).ring r).empties < g.slots := Nat.not_lt.mpr hroom
    have hmax : max 1 ((s.core s.here).ring r).len = ((s.core s.here).ring r).len :=
      Nat.max_eq_right (Nat.one_le_iff_ne_zero.mpr hlen)
    simp only [tldBody, Option.isSome_some, Option.getD_some, if_true, Bool.true_and, ← hdt, hs, hgeom, hok, hsp,
      UnitOp.going, hr, hop, hmax, Bool.false_eq_true, if_false, Bool.not_true, Bool.false_and, Bool.or_self,
      decide_eq_false hlen, decide_eq_false hroom']
    cases hp : g.pair with
    | false =>
      simp only [Bool.false_and, Bool.false_eq_true, if_false]
      refine congrArg (tldGo _ g · 70 [] s) (funext fun bs => funext fun u => ?_)
      simp only [tldEnd, Core.tileLoaded, hp, Core.putRows, Bool.false_eq_true, if_false] <;> rfl
    | true =>
      simp only [hpair hp, Bool.true_and, bne_self_eq_false, Bool.false_eq_true, if_false]
      refine congrArg (tldGo _ g · 70 [] s) (funext fun bs => funext fun u => ?_)
      simp only [tldEnd, Core.tileLoaded, hp] <;> rfl

/-- TLD of a dense tile whose rows lie in the core's own TCM. -/
theorem tldBody_done {o : UnitOp} {ring : Option Nat} {t d : Nat} (hs : o.started = false) (hr : o.replay = false)
    (hop : s.me.op.reply = .none) (hd : (s.core s.here).loadsInto ring t d g)
    (hgd : g = ((s.core s.here).tile d).desc) (hok : g.okAt d = true) (hg : g.Dense) (ho : s.ownsTcm)
    (hw : ∀ a, s.wordHeld a = false)
    (hrow : ∀ i, i ≤ g.nrm1 → s.OwnRow (o.a + BitVec.ofNat 64 (i * g.stride), g.rowBytes, 32) (A i) rightR) :
    ∃ u, tldBody o ring t s = .done (u.modCore s.here (·.tileLoaded ring d g (s.tldRows g A))) ∧ s.Metered u := by
  rw [tldBody_goes hs hr hop hd hgd hok hg]
  obtain ⟨u, hu, hm⟩ := tldGo_reads (o := { o with geom := ((s.core s.here).tile d).geom }) hg ho hw hrow hr
    (tldEnd { o with geom := ((s.core s.here).tile d).geom } ring d g)
  refine ⟨u, ?_, hm⟩
  rw [hu, tldEnd, tldRows_spec hg]
  simp only [show u.here = s.here from congrArg coreOf hm.only.cur]

end

/-! ## TLD completes (R254) -/

/-- The rings and the rest of a core beside its tiles. -/
theorem putRows_rest (k : Core) (t t2 : Nat) (pair : Bool) (rs : List TileRow) :
    k.putRows t t2 pair rs = { k with tiles := (k.putRows t t2 pair rs).tiles } := by
  cases pair <;> rfl

theorem tileLoaded_rest (k : Core) (ring : Option Nat) (d : Nat) (g : Geom) (rs : List TileRow) :
    (k.tileLoaded ring d g rs).accg = k.accg ∧ (k.tileLoaded ring d g rs).munit = k.munit := by
  cases ring <;> simp only [Core.tileLoaded] <;> rw [putRows_rest] <;> exact ⟨rfl, rfl⟩

section
variable {s : State} {ins : Instr} {w : Half} {g : Geom} {A : Nat → Nat} {ring : Option Nat} {t d : Nat} {a : BitVec 5}

/-- Rows of the core's own TCM at `s.g a`, with rights `need`. -/
def State.TcmRows (s : State) (a : BitVec 5) (g : Geom) (A : Nat → Nat) (need : Nat) : Prop :=
  ∀ i, i ≤ g.nrm1 → ∃ da : Word, da.toNat % 32 = 0 ∧
    s.OwnTcm (s.g a + BitVec.ofNat 64 (i * g.stride)) da (A i) g.rowBytes need

theorem exec_tld (h : s.MatrixReady ins) (hw : MatWord ins w)
    (he : matEffect (s.unitOp ins w false) (s.matTaken ins w) = tldBody (s.unitOp ins w false) ring t (s.matTaken ins w))
    (ha : (matOperands ins s).1 = s.g a) (hd : (s.core s.here).loadsInto ring t d g) (ho : s.ownsTcm)
    (hgd : g = ((s.core s.here).tile d).desc) (hok : g.okAt d = true) (hg : g.Dense) (hrow : s.TcmRows a g A 1) :
    ∃ t, exec ins s = .next t ∧ s.MatFrame t ∧ t.mem = s.mem ∧ t.full = s.full ∧
      t.core s.here = (((s.core s.here).busy (s.unitOp ins w false)).tileLoaded ring d g (s.tldRows g A)).freed := by
  have hheld (x : Nat) : (s.matTaken ins w).wordHeld x = false := by
    obtain ⟨da, -, hown⟩ := hrow 0 (Nat.zero_le _)
    rw [matTaken_wordHeld, wordHeld_of_noWaits hown.noWaiters]
  obtain ⟨u, hu, hm⟩ := tldBody_done (s := s.matTaken ins w) (o := s.unitOp ins w false) (ring := ring) (t := t) (d := d)
    (g := g) (A := A) rfl rfl (by rw [matTaken_me, h.alone.freshOp]) (by rw [matTaken_here, matTaken_core]; exact hd)
    (by rw [matTaken_here, matTaken_core]; exact hgd) hok hg (matTaken_ownsTcm s ins w ho) hheld
    fun i hi => by
      obtain ⟨da, hal, hown⟩ := hrow i hi
      rw [show (s.unitOp ins w false).a = s.g a from ha]
      exact ownRow_taken hown hal ins w
  obtain ⟨t, ht, hend⟩ := matCompletes h hw (he.trans hu) ((State.UnitKeeps.metered hm).trans
    (.modCore _ _ (fun k => (tileLoaded_rest k ..).1) fun k => (tileLoaded_rest k ..).2))
  refine ⟨t, ht, hend.frame, ?_, ?_, ?_⟩
  · rw [hend.mem, modCore_mem, hm.only.mem, matTaken_mem]
  · rw [hend.full, modCore_full, hm.only.full, matTaken_full]
  · have hrows : (s.matTaken ins w).tldRows g A = s.tldRows g A := by simp only [State.tldRows, matTaken_rd]
    rw [hend.core, matTaken_here, core_modCore_same, hm.only.core, matTaken_core, hrows]

/-- What TLD leaves of a core's tiles and rings. -/
theorem tileLoaded_spec {k : Core} (hd : d < 16) (hok : g.okAt d = true) (hgd : g = (k.tile d).desc) (hg : g.Dense)
    (hring : ∀ r, ring = some r → r < 4 ∧ (k.ring r).pend = [] ∧ (k.ring r).inStep) :
    let c := k.tileLoaded ring d g (s.tldRows g A)
    (∀ j, j < 16 → j ≠ d → (g.pair = true → j ≠ d + 1) → c.tile j = k.tile j) ∧
      (c.tile d).pois = false ∧ (c.tile d).desc = g ∧
      (∀ i, i < 32 → ofBytes (c.rowOf d g.pair i) =
        if i ≤ g.nrm1 then ofBytes (s.rd (A i) g.rowBytes) % 2 ^ ((g.kvm1 + 1) * fmtWidth g.fmt) else 0) ∧
      ∀ r, r < 4 → c.ring r =
        if ring = some r then
          { k.ring r with pi := ((k.ring r).pi + g.slots) % (k.ring r).len, nf := (k.ring r).nf + g.slots }
        else k.ring r := by
  have hpair (hp : g.pair = true) : d + 1 < 16 := by
    simp only [Geom.okAt, hp, Bool.not_true, Bool.false_or, Bool.and_eq_true, beq_iff_eq] at hok
    omega
  have htile (j : Nat) : (k.tileLoaded ring d g (s.tldRows g A)).tile j =
      (k.putRows d (d + 1) g.pair (s.tldRows g A)).tile j := by cases ring <;> rfl
  have hsame := putRows_tile_same (k := k) (t := d) (t2 := d + 1) (pair := g.pair) (rs := s.tldRows g A) (by omega)
  refine ⟨fun j hj hjd hj2 => ?_, ?_, ?_, fun i hi => ?_, fun r hr => ?_⟩
  · rw [htile]
    exact putRows_tile_other (by omega) fun hp => by have := hj2 hp; have := hpair hp; omega
  · rw [htile, hsame, withRows_pois]
  · rw [htile, hsame, withRows_desc, ← hgd]
  · rw [← tldRows_row (k := k) hg hpair hi]
    simp only [Core.rowOf, htile]
  · have hput : (k.putRows d (d + 1) g.pair (s.tldRows g A)).ring r = k.ring r := by rw [putRows_rest]; rfl
    cases ring with
    | none => exact hput
    | some q =>
      obtain ⟨hq, hpend, hstep⟩ := hring q rfl
      by_cases hqr : q = r
      · subst hqr
        rw [if_pos rfl, ← fill_ready hpend hstep, ← hput]
        exact ring_modRing_same ..
      · rw [if_neg (by simpa using hqr), ← hput]
        exact ring_modRing_other _ _ hq hr (Ne.symm hqr)

end

/-! ## Writes to places that do not overlap -/

theorem memGet_memWrites_other {ws : List (Nat × List Byte)} {y : Nat}
    (h : ∀ w ∈ ws, y < w.1 ∨ w.1 + w.2.length ≤ y) (m : List Host.Cell) : memGet (memWrites m ws) y = memGet m y := by
  induction ws generalizing m with
  | nil => rfl
  | cons w ws ih =>
    obtain ⟨hw, hws⟩ := List.forall_mem_cons.mp h
    exact (ih hws _).trans (memGet_memWrite_other _ _ hw)

/-- Places of writes that do not overlap. -/
def Apart (w z : Nat × List Byte) : Prop := w.1 + w.2.length ≤ z.1 ∨ z.1 + z.2.length ≤ w.1

theorem memRead_memWrites_other {ws : List (Nat × List Byte)} {w : Nat × List Byte} (h : ∀ z ∈ ws, Apart w z)
    (m : List Host.Cell) : memRead (memWrites m ws) w.1 w.2.length = memRead m w.1 w.2.length := by
  induction ws generalizing m with
  | nil => rfl
  | cons z ws ih =>
    obtain ⟨hz, hws⟩ := List.forall_mem_cons.mp h
    exact (ih hws _).trans (memRead_memWrite_other _ _ _ _ hz)

theorem memRead_memWrites {ws : List (Nat × List Byte)} (h : ws.Pairwise Apart) {w : Nat × List Byte} (hw : w ∈ ws)
    {m : List Host.Cell} (hm : Memory.wf m = true) : memRead (memWrites m ws) w.1 w.2.length = w.2 := by
  induction ws generalizing m with
  | nil => cases hw
  | cons z ws ih =>
    obtain ⟨hz, hws⟩ := List.pairwise_cons.mp h
    obtain rfl | hin := List.mem_cons.mp hw
    · exact (memRead_memWrites_other hz _).trans (memRead_memWrite_same _ _ _ hm)
    · exact ih hws hin (memWrite_wf _ _ _ hm)

/-! ## TST (R255) -/

/-- The bytes of a row as TST writes them. -/
def Core.storedRow (k : Core) (t : Nat) (i : Nat) : List Byte :=
  (k.rowOf t (k.tile t).desc.pair i).take (k.tile t).desc.rowBytes

section
variable {s : State} {t : Nat} {A : Nat → Nat}

/-- The rows of a dense tile come to one write each. -/
theorem rowStores_dense {k : Core} (hg : (k.tile t).desc.Dense) (a b : Word) (is : List Nat) :
    is.flatMap (k.rowStores t a b) = is.map fun i =>
      ((a + BitVec.ofNat 64 (i * (k.tile t).desc.stride), (k.tile t).desc.rowBytes, 32), some (k.storedRow t i)) := by
  have hrow (i : Nat) : k.rowStores t a b i =
      [((a + BitVec.ofNat 64 (i * (k.tile t).desc.stride), (k.tile t).desc.rowBytes, 32), some (k.storedRow t i))] := by
    simp only [Core.rowStores, hg.rowAccess, hg.sp, hg.notCoded, if_true, if_false]
    rfl
  rw [List.map_eq_flatMap, funext hrow]

theorem tstBody_done {o : UnitOp} (hr : o.replay = false) (hop : s.me.op.reply = .none)
    (hok : ((s.core s.here).tile t).desc.okAt t = true) (hg : ((s.core s.here).tile t).desc.Dense)
    (hp : ((s.core s.here).tile t).pois = false)
    (hp2 : ((s.core s.here).tile t).desc.pair = true → ((s.core s.here).tile (t + 1)).pois = false) (ho : s.ownsTcm)
    (hw : ∀ a, s.wordHeld a = false)
    (hrow : ∀ i, i ≤ ((s.core s.here).tile t).desc.nrm1 →
      s.OwnRow (o.a + BitVec.ofNat 64 (i * ((s.core s.here).tile t).desc.stride), ((s.core s.here).tile t).desc.rowBytes, 32)
        (A i) rightW ∧ ((s.core s.here).storedRow t i).length = ((s.core s.here).tile t).desc.rowBytes) :
    ∃ u, tstBody o t s = .done u ∧ s.UnitKeeps u ∧
      u.mem = memWrites s.mem ((List.range (((s.core s.here).tile t).desc.nrm1 + 1)).map fun i =>
        (A i, (s.core s.here).storedRow t i)) ∧ ∀ c, u.core c = s.core c := by
  obtain ⟨l, ws, hreach, hl, hmem⟩ := reachRows_stores (s := s) (A := A)
    (is := List.range (((s.core s.here).tile t).desc.nrm1 + 1)) (data := (s.core s.here).storedRow t)
    (row := fun i => (o.a + BitVec.ofNat 64 (i * ((s.core s.here).tile t).desc.stride),
      ((s.core s.here).tile t).desc.rowBytes, 32))
    (fun i hi => hrow i (Nat.le_of_lt_succ (List.mem_range.mp hi))) []
  obtain ⟨u, hu, hkeep, humem, hcore⟩ := rowAccesses_stores hl hw ho o [] fun _ s => .done s
  refine ⟨u, ?_, hkeep, humem.trans (hmem s.mem), hcore⟩
  have hsp : (((s.core s.here).tile t).desc.sp != 0) = false := by simp [hg.sp]
  have hpair : (((s.core s.here).tile t).desc.pair && ((s.core s.here).tile (t + 1)).pois) = false := by
    cases hpr : ((s.core s.here).tile t).desc.pair with
    | false => rfl
    | true => exact hp2 hpr
  rw [List.nil_append] at hreach
  simp only [tstBody, hok, hsp, hp, hpair, UnitOp.going, hr, hop, rowStores_dense hg, hreach, hu, Bool.not_true,
    Bool.false_and, Bool.or_self, Bool.false_eq_true, if_false]

end

/-- What TST leaves. -/
theorem exec_tst {s : State} {a b d : BitVec 5} {g : Geom} {A : Nat → Nat} (h : s.MatrixReady (.tst a b d))
    (ho : s.ownsTcm) (hgd : g = ((s.core s.here).tile d.toNat).desc) (hok : g.okAt d.toNat = true) (hg : g.Dense)
    (hp : ((s.core s.here).tile d.toNat).pois = false)
    (hp2 : g.pair = true → ((s.core s.here).tile (d.toNat + 1)).pois = false) (hrow : s.TcmRows a g A 2)
    (hlen : ∀ i, i ≤ g.nrm1 → ((s.core s.here).storedRow d.toNat i).length = g.rowBytes) :
    ∃ t, exec (.tst a b d) s = .next t ∧ s.MatFrame t ∧
      t.mem = memWrites s.mem ((List.range (g.nrm1 + 1)).map fun i => (A i, (s.core s.here).storedRow d.toNat i)) ∧
      ∀ j, (t.core s.here).tile j = (s.core s.here).tile j := by
  subst hgd
  obtain ⟨w, hw⟩ : ∃ w, MatWord (.tst a b d) w := matWord fun _ => rfl
  have hheld (x : Nat) : (s.matTaken (.tst a b d) w).wordHeld x = false := by
    obtain ⟨da, -, hown⟩ := hrow 0 (Nat.zero_le _)
    rw [matTaken_wordHeld, wordHeld_of_noWaits hown.noWaiters]
  obtain ⟨u, hu, hkeep, hmem, hcore⟩ := tstBody_done (s := s.matTaken (.tst a b d) w) (t := d.toNat) (A := A)
    (o := s.unitOp (.tst a b d) w false) rfl (by rw [matTaken_me, h.alone.freshOp])
    (by simpa using hok) (by simpa using hg) (by simpa using hp) (by simpa using hp2) (matTaken_ownsTcm s _ w ho) hheld
    (by
      simp only [matTaken_here, matTaken_core, busy_tile]
      intro i hi
      obtain ⟨da, hal, hown⟩ := hrow i hi
      exact ⟨ownRow_taken hown hal _ w, hlen i hi⟩)
  obtain ⟨t, ht, hend⟩ := matCompletes h hw hu hkeep
  refine ⟨t, ht, hend.frame, ?_, fun j => ?_⟩
  · rw [hend.mem, hmem, matTaken_mem, matTaken_here, matTaken_core]
    rfl
  · rw [hend.core, hcore, matTaken_core]
    rfl

/-- Settles O36: TLD reads all rows and then writes its tile or slots; TST writes its rows. -/
theorem tileLoadAndStore : Obligations.TileLoadAndStore := by
  unfold Obligations.TileLoadAndStore
  constructor
  · rintro s a b n ins k d g A rfl hins h ho hgd hok hsp hf hrow
    have hg : g.Dense := hgd ▸ dense_desc (hgd ▸ ((Bool.and_eq_true _ _).mp hok).1) (hgd ▸ hsp) (hgd ▸ hf)
    obtain ⟨rfl, rfl, hd⟩ | ⟨rfl, hn, hd, hlen, hpi, hroom, hpend, hstep, hpair⟩ := hins
    · obtain ⟨w, hw⟩ : ∃ w, MatWord (.tld a b n) w := matWord fun _ => rfl
      obtain ⟨t, ht, hframe, hmem, hfull, hcore⟩ := exec_tld (ring := none) h hw rfl rfl rfl ho hgd hok hg hrow
      obtain ⟨hother, hpois, hdesc, hrows, hring⟩ := tileLoaded_spec (s := s) (A := A) (ring := none)
        (k := (s.core s.here).busy (s.unitOp (.tld a b n) w false)) hd hok hgd hg (by simp)
      refine ⟨t, ht, hframe, hmem, hfull, ?_⟩
      rw [hcore]
      refine ⟨hother, hpois, hdesc, hrows, fun r hr => ?_⟩
      simpa using hring r hr
    · obtain ⟨w, hw⟩ : ∃ w, MatWord (.tldRing a b n) w := matWord fun _ => rfl
      obtain ⟨t, ht, hframe, hmem, hfull, hcore⟩ := exec_tld (ring := some n.toNat) (t := 0) h hw rfl rfl
        ⟨hd, hlen, hroom, hpair⟩ ho hgd hok hg hrow
      obtain ⟨hother, hpois, hdesc, hrows, hring⟩ := tileLoaded_spec (s := s) (A := A) (ring := some n.toNat)
        (k := (s.core s.here).busy (s.unitOp (.tldRing a b n) w false))
        (hd ▸ Nat.mod_lt _ (by decide)) hok hgd hg (by rintro r ⟨⟩; exact ⟨hn, hpend, hstep⟩)
      refine ⟨t, ht, hframe, hmem, hfull, ?_⟩
      rw [hcore]
      refine ⟨hother, hpois, hdesc, hrows, fun r hr => ?_⟩
      simpa [eq_comm] using hring r hr
  · rintro s a b d k g A rfl hd h ho hgd hok hsp hf hp hp2 hlen - hrow hapart
    have hg : g.Dense := hgd ▸ dense_desc (hgd ▸ ((Bool.and_eq_true _ _).mp hok).1) (hgd ▸ hsp) (hgd ▸ hf)
    have hstored (i : Nat) : (s.core s.here).storedRow d.toNat i =
        ((s.core s.here).rowOf d.toNat g.pair i).take g.rowBytes := by rw [Core.storedRow, ← hgd]
    have hrowlen (i : Nat) (hi : i ≤ g.nrm1) : ((s.core s.here).storedRow d.toNat i).length = g.rowBytes := by
      have := hg.nrm1
      rw [hstored, List.length_take, hlen i (by omega), Nat.min_eq_left hg.slots.1]
    obtain ⟨t, ht, hframe, hmem, htile⟩ := exec_tst h ho hgd hok hg hp hp2 hrow hrowlen
    refine ⟨t, ht, hframe, fun i hi => ?_, fun y hy => ?_, fun j _ => htile j⟩
    · obtain ⟨da, -, hown⟩ := hrow 0 (Nat.zero_le _)
      have hpair : ((List.range (g.nrm1 + 1)).map fun i => (A i, (s.core s.here).storedRow d.toNat i)).Pairwise Apart := by
        refine List.pairwise_map.mpr ((List.nodup_range (n := g.nrm1 + 1)).imp_of_mem fun {i j} hi hj hne => ?_)
        have hi' := Nat.le_of_lt_succ (List.mem_range.mp hi)
        have hj' := Nat.le_of_lt_succ (List.mem_range.mp hj)
        simp only [Apart, hrowlen i hi', hrowlen j hj']
        exact hapart i j hi' hj' hne
      have hread := memRead_memWrites hpair (w := (A i, (s.core s.here).storedRow d.toNat i))
        (List.mem_map.mpr ⟨i, List.mem_range.mpr (Nat.lt_succ_of_le hi), rfl⟩) hown.canon
      rw [← hmem, hrowlen i hi, hstored] at hread
      exact hread
    · rw [hmem]
      refine memGet_memWrites_other (fun w hw => ?_) s.mem
      obtain ⟨i, hi, rfl⟩ := List.mem_map.mp hw
      have hi' := Nat.le_of_lt_succ (List.mem_range.mp hi)
      simp only [hrowlen i hi']
      exact hy i hi'

end Sys2Proof.Machine
end

section
/-! SUPPORT. The accumulator: its bytes in the core's SRAM, TACCZ, TMMA and TACCR (R238, R239, R253, R257, R259). -/

namespace Sys2Proof.Machine

/-! ## The sub-tile (R238, R239) -/

/-- A write of the sub-tile changes memory, poison, watches and what is due. -/
theorem putAcc_def (s : State) (a : Nat) (bs : List Byte) :
    ∃ p w g, s.putAcc a bs = { s with mem := memWrite s.mem a bs, poison := p, watches := w, agenda := g } := by
  simp only [State.putAcc]
  split
  all_goals
    obtain ⟨w, g, h⟩ := watchHit_watches _ a 4096
    rw [h]
    exact ⟨_, _, _, rfl⟩

theorem putAcc_mem (s : State) (a : Nat) (bs : List Byte) : (s.putAcc a bs).mem = memWrite s.mem a bs := by
  obtain ⟨_, _, _, h⟩ := putAcc_def s a bs
  rw [h]

theorem putAcc_thr (s : State) (a : Nat) (bs : List Byte) (u : Nat) : (s.putAcc a bs).thr u = s.thr u := by
  obtain ⟨_, _, _, h⟩ := putAcc_def s a bs
  rw [h]
  rfl

theorem State.UnitKeeps.putAcc (s : State) (a : Nat) (bs : List Byte) : s.UnitKeeps (s.putAcc a bs) := by
  refine .of_same (putAcc_thr s a bs) (putAcc_core ..) ?_
  obtain ⟨_, _, _, h⟩ := putAcc_def s a bs
  rw [h]

/-- The bytes of an element of a sub-tile that has been written. -/
theorem rd_element {s t : State} {x : Nat} {bs : List Byte} (hm : s.memOk) (ht : t.mem = memWrite s.mem x bs)
    (hl : bs.length = 4096) {e : Nat} (he : e < 1024) : t.rd (x + 4 * e) 4 = (bs.drop (4 * e)).take 4 := by
  have hall := memRead_memWrite_same bs s.mem x hm
  rw [State.rd, ht, ← take_memRead _ (x + 4 * e) (show 4 ≤ 4096 - 4 * e by omega), ← drop_memRead, ← hl, hall]

/-- Flags that are raised stay within their thread. -/
theorem raise_rest (s : State) (u : Nat) (fl : Flags) :
    (s.raise u fl).mem = s.mem ∧ (s.raise u fl).full = s.full ∧ ∀ c, (s.raise u fl).core c = s.core c := by
  unfold State.raise
  split <;> exact ⟨rfl, rfl, fun _ => rfl⟩

/-- A word whose effect ends with a step of the LFSR and with flags. -/
theorem matRaises {s v : State} {i : Instr} {w : Half} {l : BitVec 32} {fl : Flags} (h : s.MatrixReady i)
    (hw : MatWord i w) (he : matEffect (s.unitOp i w false) (s.matTaken i w) =
      .done ((v.modMe fun th => { th with rndlfsr := l }).raise s.cur fl))
    (hk : (s.matTaken i w).UnitKeeps v) (ht : v.thr s.cur = s.me) :
    ∃ t, exec i s = .next t ∧ s.MatFrame t ∧ t.mem = v.mem ∧ t.full = v.full ∧
      t.core s.here = (v.core s.here).freed ∧ (t.thr s.cur).tsr.flags &&& s.me.tsr.flags = s.me.tsr.flags := by
  have hcur : v.cur = s.cur := hk.cur.trans (matTaken_cur s i w)
  have hstep : v.UnitKeeps (v.modMe fun th => { th with rndlfsr := l }) := .modMe _ rfl rfl rfl rfl
  have hraise : (v.modMe fun th => { th with rndlfsr := l }).UnitKeeps
      ((v.modMe fun th => { th with rndlfsr := l }).raise s.cur fl) := hcur ▸ .raise _ fl
  obtain ⟨hmem, hfull, hcore⟩ := raise_rest (v.modMe fun th => { th with rndlfsr := l }) s.cur fl
  obtain ⟨t, hnext, hend⟩ := matCompletes h hw he (hk.trans (hstep.trans hraise))
  refine ⟨t, hnext, hend.frame, hend.mem.trans hmem, hend.full.trans hfull, ?_, ?_⟩
  · rw [hend.core, hcore, modMe_core]
  · have hflags : (t.thr s.cur).tsr.flags = s.me.tsr.flags ||| fl := by
      rw [hend.flags, raise_thr_same, Thread.flagged, State.modMe, hcur, thr_modThr_same, ht]
    rw [hflags]
    exact or_keeps BitVec.and_self fl

/-! ## The final rounding of 1,024 elements (R51, R253) -/

/-- Only stochastic rounding looks at the LFSR. -/
theorem accWord_draw {mode : Nat} (hm : mode < 4) (fd : Nat) (sat : Bool) (z : Nat) (x : Acc) :
    accWord fd mode sat z x = accWord fd mode sat 0 x := by
  cases x <;> simp only [accWord, roundTo_draw hm _ _ z]

theorem storeAccs_go {mode : Nat} (hm : mode < 4) (fd : Nat) (sat int : Bool) (xs : List Acc) (l : BitVec 32)
    (bs : List Byte) (fl : Flags) : (storeAccs.go fd mode sat int xs l bs fl).1 =
      bs.reverse ++ xs.flatMap fun x => toBytes 4 (accWord fd mode sat 0 x).1 := by
  have hmode : mode ≠ 4 := by omega
  induction xs generalizing bs fl with
  | nil => simp [storeAccs.go]
  | cons x xs ih =>
    simp only [storeAccs.go, hmode, decide_false, Bool.false_and, Bool.false_eq_true, if_false, ih,
      accWord_draw hm fd sat (lfsrZ l), List.flatMap_cons]
    simp

/-- Without draws each element is rounded by itself. -/
theorem storeAccs_bytes {mode : Nat} (hm : mode < 4) (fd : Nat) (sat : Bool) (xs : List Acc) (l : BitVec 32) :
    (storeAccs fd mode sat xs l).1 = xs.flatMap fun x => toBytes 4 (accWord fd mode sat 0 x).1 :=
  storeAccs_go hm fd sat _ xs l [] 0#5

/-- A value in the internal format is rounded as a value. -/
theorem accWord_roundX (fd mode z : Nat) (sat : Bool) (hf : fd ≠ 5 ∧ fd ≠ 6) (v : Num) :
    (accWord fd mode sat z (roundX v).1).1 = (roundTo fd mode sat z (roundX v).1.num).1 := by
  have hnum (x : Acc) (h : ∀ i, x ≠ .int i) : (accWord fd mode sat z x).1 = (roundTo fd mode sat z x.num).1 := by
    cases x <;> simp_all [accWord]
  refine hnum _ fun i => ?_
  cases v with
  | nan | inf => simp [roundX]
  | fin n m e st =>
    simp only [roundX]
    split
    · simp
    · split <;> simp

/-! ## Elements (R51, R52, R239) -/

theorem wrapInt_signedOf (x : Nat) : wrapInt 32 (signedOf 32 x) = x % 2 ^ 32 := by
  simp only [wrapInt, signedOf]
  split <;> omega

theorem ofBytes_lt (bs : List Byte) : ofBytes bs < 256 ^ bs.length := by
  induction bs with
  | nil => decide
  | cons b bs ih =>
    have hb := b.isLt
    rw [ofBytes, List.length_cons, Nat.pow_succ]
    omega

theorem flatMap_length_const {α β : Type} {f : α → List β} {n : Nat} {l : List α} (h : ∀ x ∈ l, (f x).length = n) :
    (l.flatMap f).length = l.length * n := by
  rw [List.length_flatMap, List.map_congr_left h, List.map_const', List.sum_replicate, smul_eq_mul]

/-- An element of an accumulator that is read. -/
theorem loadAccs_element (f : Nat) {bs : List Byte} {i : Nat} (hi : i < 1024) (d : Acc) :
    (loadAccs f bs).getD i d = (loadAccs f (toBytes 4 (ofBytes ((bs.drop (4 * i)).take 4)))).getD 0 .nan := by
  have hlt : ofBytes (toBytes 4 (ofBytes ((bs.drop (4 * i)).take 4))) = ofBytes ((bs.drop (4 * i)).take 4) := by
    rw [ofBytes_toBytes, Nat.mod_eq_of_lt]
    refine Nat.lt_of_lt_of_le (ofBytes_lt _) (Nat.pow_le_pow_right (by decide) ?_)
    exact List.length_take_le ..
  have htake : (toBytes 4 (ofBytes ((bs.drop (4 * i)).take 4))).take 4 = toBytes 4 (ofBytes ((bs.drop (4 * i)).take 4)) :=
    List.take_of_length_le (Nat.le_of_eq (toBytes_length ..))
  simp only [loadAccs, List.getD_eq_getElem?_getD, List.getElem?_map, chunksOf_getElem? 4 hi,
    chunksOf_getElem? 4 (show 0 < 1024 by decide), Nat.mul_zero, List.drop_zero, htake, hlt, Option.map_some,
    Option.getD_some]

theorem loadAccs_int {bs : List Byte} {i : Nat} (hi : i < 1024) (d : Acc) :
    (loadAccs 3 bs).getD i d = .int (signedOf 32 (ofBytes ((bs.drop (4 * i)).take 4))) := by
  simp only [loadAccs, List.getD_eq_getElem?_getD, List.getElem?_map, chunksOf_getElem? 4 hi, Option.map_some,
    Option.getD_some, if_true]

/-! ## TACCZ (R259) -/

section
variable {s : State} {i : Instr} {w : Half}

theorem matTaken_accAddr (s : State) (i : Instr) (w : Half) : (s.matTaken i w).accAddr s.here = s.accAddr s.here := by
  rw [State.accAddr, matTaken_core]
  rfl

theorem matTaken_accBad (s : State) (i : Instr) (w : Half) : (s.matTaken i w).accBad s.here = s.accBad s.here := by
  rw [State.accBad, matTaken_accAddr, State.subTileBad, matTaken_poisoned, matTaken_poison]
  rfl

theorem taccz_effect (h : (s.core s.here).stopped = false) (w : Half) :
    matEffect (s.unitOp .taccz w false) (s.matTaken .taccz w) =
      .done (((s.matTaken .taccz w).putAcc (s.accAddr s.here) (List.replicate 4096 0)).modCore s.here fun k =>
        { k with accPois := false }) := by
  show tacczBody w (s.matTaken .taccz w) = _
  simp only [tacczBody, matTaken_here, matTaken_core, busy_stopped, h, matTaken_accAddr, Bool.false_eq_true, if_false]

theorem exec_taccz (h : s.MatrixReady .taccz) (hst : (s.core s.here).stopped = false) (hm : s.memOk) :
    ∃ t, exec .taccz s = .next t ∧ s.MatFrame t ∧ t.rd (s.accAddr s.here) 4096 = List.replicate 4096 0 ∧
      (∀ y, y < s.accAddr s.here ∨ s.accAddr s.here + 4096 ≤ y → memGet t.mem y = memGet s.mem y) ∧
      (t.core s.here).accPois = false ∧ (t.thr s.cur).tsr.flags = s.me.tsr.flags ∧
      ∀ j, (t.core s.here).tile j = (s.core s.here).tile j := by
  obtain ⟨w, hw⟩ : ∃ w, MatWord .taccz w := matWord fun _ => rfl
  obtain ⟨t, ht, hend⟩ := matCompletes h hw (taccz_effect hst w)
    ((State.UnitKeeps.putAcc ..).trans (.modCore _ _ (fun _ => rfl) fun _ => rfl))
  have hmem : t.mem = memWrite s.mem (s.accAddr s.here) (List.replicate 4096 0) := by
    rw [hend.mem, modCore_mem, putAcc_mem, matTaken_mem]
  refine ⟨t, ht, hend.frame, ?_, fun y hy => ?_, ?_, ?_, fun j => ?_⟩
  · have hread := memRead_memWrite_same (List.replicate 4096 0) s.mem (s.accAddr s.here) hm
    rwa [List.length_replicate, ← hmem] at hread
  · rw [hmem]
    exact memGet_memWrite_other _ _ (by rwa [List.length_replicate])
  · rw [hend.core, core_modCore_same]
    rfl
  · rw [hend.flags, modCore_thr, putAcc_thr, matTaken_thr, State.me]
  · rw [hend.core, core_modCore_same, putAcc_core, matTaken_core]
    rfl

end

/-! ## TMMA (R257) -/

/-- The sums that a TMMA leaves in the accumulator, before their final rounding. -/
def State.tmmaSums (s : State) (ta tb : Nat) : List Acc :=
  (addChunks (s.core s.here) ta tb (intOperand ((s.core s.here).tile ta).desc.fmt) false
    (loadAccs (s.core s.here).afmt (s.rd (s.accAddr s.here) 4096))).1

/-- The bytes that a TMMA without a prefix writes, at a mode without draws. -/
def State.tmmaBytes (s : State) (ta tb : Nat) : List Byte :=
  (s.tmmaSums ta tb).flatMap fun x => toBytes 4 (accWord 4 s.me.tsr.rm.toNat false 0 x).1

section
variable {s : State} {ta tb : Nat}

theorem tmmaBody_adds {o : UnitOp} {xs : List Acc} {fl fl' : Flags} {bs : List Byte} {l : BitVec 32}
    (hst : (s.core s.here).stopped = false)
    (hacc : (s.core s.here).accepts (s.core s.here).afmt ta tb none o.pfx none = true)
    (hp : ∀ j, ((s.core s.here).tile j).pois = false) (hbad : s.accBad s.here = none)
    (hsum : addChunks (s.core s.here) ta tb (intOperand ((s.core s.here).tile ta).desc.fmt) o.sat
      (loadAccs (s.core s.here).afmt (s.rd (s.accAddr s.here) 4096)) = (xs, fl))
    (hbs : storeAccs (accDest o.pfx) (o.mode s.me) o.sat xs s.me.rndlfsr = (bs, fl', l)) {v : State}
    (hv : (s.chargeChunk s.here s.me.fn ta tb).chunkCandidate s.cur s.here ta tb o.pfx = v) :
    tmmaBody o ta tb s =
      .done (((v.putAcc (v.accAddr s.here) bs).modMe fun th => { th with rndlfsr := l }).raise v.cur (fl ||| fl')) := by
  have hfind (l : List Nat) : l.find? (fun t => ((s.core s.here).tile t).pois) = none :=
    List.find?_eq_none.mpr fun t _ => by simp [hp]
  unfold tmmaBody
  simp -iota only [hst, hacc, hfind, hbad, hsum, hv, Bool.not_true, Bool.or_self, Bool.false_eq_true, if_false]
  simp only [hbs]

/-- A TMMA without a prefix, at a mode without draws. -/
theorem tmmaBody_done {o : UnitOp} (hst : (s.core s.here).stopped = false) (hpfx : o.pfx = none)
    (hrm : s.me.tsr.rm.toNat < 4) (hacc : (s.core s.here).accepts (s.core s.here).afmt ta tb none none none = true)
    (hp : ∀ j, ((s.core s.here).tile j).pois = false) (hbad : s.accBad s.here = none) :
    ∃ v l fl, s.Metered v ∧ tmmaBody o ta tb s =
      .done (((v.putAcc (s.accAddr s.here) (s.tmmaBytes ta tb)).modMe fun th => { th with rndlfsr := l }).raise s.cur fl) := by
  have hsat : o.sat = false := by rw [UnitOp.sat, hpfx]
  have hmode : o.mode s.me = s.me.tsr.rm.toNat := by rw [UnitOp.mode, hpfx]; rfl
  rcases hsum : addChunks (s.core s.here) ta tb (intOperand ((s.core s.here).tile ta).desc.fmt) false
    (loadAccs (s.core s.here).afmt (s.rd (s.accAddr s.here) 4096)) with ⟨xs, fl⟩
  rcases hbs : storeAccs 4 s.me.tsr.rm.toNat false xs s.me.rndlfsr with ⟨bs, fl', l⟩
  have hbytes : s.tmmaBytes ta tb = bs := by
    rw [State.tmmaBytes, State.tmmaSums, hsum, ← storeAccs_bytes hrm 4 false xs s.me.rndlfsr, hbs]
  have hv : s.Metered ((s.chargeChunk s.here s.me.fn ta tb).chunkCandidate s.cur s.here ta tb o.pfx) :=
    (State.Metered.chargePart ..).trans (State.Metered.candidate ..)
  have hstore : storeAccs (accDest o.pfx) (o.mode s.me) o.sat xs s.me.rndlfsr = (bs, fl', l) := by
    rw [hpfx, hmode, hsat]
    exact hbs
  refine ⟨_, l, fl ||| fl', hv, ?_⟩
  rw [tmmaBody_adds hst (hpfx ▸ hacc) hp hbad (hsat ▸ hsum) hstore rfl, hbytes,
    hv.only.cur, State.accAddr, hv.only.core, State.accAddr]

theorem tmmaSums_length (s : State) (ta tb : Nat) : (s.tmmaSums ta tb).length = 1024 := by
  simp only [State.tmmaSums, addChunks, List.length_map, List.length_range]

theorem tmmaBytes_length (s : State) (ta tb : Nat) : (s.tmmaBytes ta tb).length = 4096 := by
  rw [State.tmmaBytes, flatMap_length_const fun _ _ => toBytes_length .., tmmaSums_length]

/-- An element that TMMA writes, from the one that it finds (R257). -/
theorem tmmaBytes_element (hacc : (s.core s.here).accepts (s.core s.here).afmt ta tb none none none = true) {m n : Nat}
    (hm : m < 32) (hn : n < 32) : ofBytes (((s.tmmaBytes ta tb).drop (4 * (32 * m + n))).take 4) =
      if intOperand ((s.core s.here).tile ta).desc.fmt then
        wrapInt 32 (signedOf 32 (ofBytes (s.rd (s.accAddr s.here + 4 * (32 * m + n)) 4)) +
          chunkSumInt ((s.core s.here).rowInts ta m) ((s.core s.here).rowInts tb n))
      else (roundTo 4 s.me.tsr.rm.toNat false 0
        (roundX (numAdd false
          ((loadAccs 4 (toBytes 4 (ofBytes (s.rd (s.accAddr s.here + 4 * (32 * m + n)) 4)))).getD 0 .nan).num
          (chunkSum ((s.core s.here).rowNums ta m) ((s.core s.here).rowNums tb n)).1).1).1.num).1 % 2 ^ 32 := by
  have hi : 32 * m + n < 1024 := by omega
  have hrow : (32 * m + n) / 32 = m := by omega
  have hcol : (32 * m + n) % 32 = n := by omega
  have hold : ((s.rd (s.accAddr s.here) 4096).drop (4 * (32 * m + n))).take 4 =
      s.rd (s.accAddr s.here + 4 * (32 * m + n)) 4 := by
    rw [State.rd, drop_memRead, take_memRead _ _ (by omega), State.rd]
  have hfmt : (s.core s.here).afmt = if intOperand ((s.core s.here).tile ta).desc.fmt then 3 else 4 := by
    simp only [Core.accepts, Bool.and_eq_true, beq_iff_eq] at hacc
    obtain ⟨⟨⟨-, h⟩, -⟩, -⟩ := hacc
    exact h
  rw [State.tmmaBytes, flatMap_part fun _ _ => toBytes_length ..]
  simp only [State.tmmaSums, addChunks, List.getElem?_map, List.getElem?_range hi, Option.map_some, Option.getD_some,
    ofBytes_toBytes, hrow, hcol, hfmt]
  cases intOperand ((s.core s.here).tile ta).desc.fmt with
  | true =>
    simp only [if_true, loadAccs_int hi, hold, addChunk, accWord, narrowInt, Bool.false_eq_true, if_false]
    rw [show fmtWidth 3 = 32 from rfl, wrapInt_signedOf, show 256 ^ 4 = 2 ^ 32 from rfl, Nat.mod_mod]
    exact Nat.mod_eq_of_lt (wrapInt_lt 32 _)
  | false =>
    simp only [Bool.false_eq_true, if_false, loadAccs_element 4 hi, hold, addChunk, accWord_roundX 4 _ _ _ (by decide)]
    rfl

theorem exec_tmma {a b : BitVec 5} (h : s.MatrixReady (.tmma a b)) (hpp : s.me.tsr.pp = false)
    (hst : (s.core s.here).stopped = false) (hrm : s.me.tsr.rm.toNat < 4)
    (hacc : (s.core s.here).accepts (s.core s.here).afmt a.toNat b.toNat none none none = true)
    (hp : ∀ j, ((s.core s.here).tile j).pois = false) (hbad : s.accBad s.here = none) :
    ∃ t, exec (.tmma a b) s = .next t ∧ s.MatFrame t ∧
      t.mem = memWrite s.mem (s.accAddr s.here) (s.tmmaBytes a.toNat b.toNat) ∧
      (t.thr s.cur).tsr.flags &&& s.me.tsr.flags = s.me.tsr.flags ∧
      ∀ j, (t.core s.here).tile j = (s.core s.here).tile j := by
  obtain ⟨w, hw⟩ : ∃ w, MatWord (.tmma a b) w := matWord fun _ => rfl
  have hbytes : (s.matTaken (.tmma a b) w).tmmaBytes a.toNat b.toNat = s.tmmaBytes a.toNat b.toNat := by
    simp only [State.tmmaBytes, State.tmmaSums, matTaken_here, matTaken_core, matTaken_me, matTaken_accAddr, matTaken_rd]
    rfl
  obtain ⟨v, l, fl, hv, hu⟩ := tmmaBody_done (s := s.matTaken (.tmma a b) w) (ta := a.toNat) (tb := b.toNat)
    (o := s.unitOp (.tmma a b) w false) (by simpa using hst) (by simp [State.unitOp, State.pending, hpp]) (by simpa using hrm)
    (by simpa using hacc) (by simpa using hp) (by simpa [matTaken_accBad] using hbad)
  rw [hbytes, matTaken_here, matTaken_accAddr, matTaken_cur] at hu
  obtain ⟨t, ht, hframe, hmem, -, hcore, hflags⟩ := matRaises h hw hu
    ((State.UnitKeeps.metered hv).trans (.putAcc ..)) (by rw [putAcc_thr, hv.only.thr, matTaken_thr, State.me])
  refine ⟨t, ht, hframe, ?_, hflags, fun j => ?_⟩
  · rw [hmem, putAcc_mem, hv.only.mem, matTaken_mem]
  · rw [hcore, putAcc_core, hv.only.core, matTaken_core]
    rfl

end

/-! ## TACCR (R259) -/

/-- Elements packed into one row, the first lowest. -/
def packedRow (w : Nat) (vs : List (Option Nat)) : Nat := vs.foldr (fun v acc => v.getD 0 % 2 ^ w + acc <<< w) 0

/-- The data of a tile whose columns from bit `lo` on are 32 by 32 elements. -/
def accRows (w lo : Nat) (vs : List (Option Nat)) (old : List Byte) : List Byte :=
  (List.range 32).flatMap fun m => toBytes 64 (setField (ofBytes ((old.drop (64 * m)).take 64)) (lo + 32 * w - 1) lo
    (packedRow w ((vs.drop (32 * m)).take 32)))

theorem packedRow_element (w : Nat) (vs : List (Option Nat)) (n : Nat) :
    packedRow w vs / 2 ^ (w * n) % 2 ^ w = (vs.getD n none).getD 0 % 2 ^ w := by
  induction vs generalizing n with
  | nil => simp [packedRow]
  | cons v vs ih =>
    have hsplit : packedRow w (v :: vs) = v.getD 0 % 2 ^ w + packedRow w vs * 2 ^ w := by
      rw [← Nat.shiftLeft_eq]
      rfl
    cases n with
    | zero => simp [hsplit]
    | succ n =>
      have hrest : packedRow w (v :: vs) / 2 ^ w = packedRow w vs := by
        rw [hsplit, Nat.add_mul_div_right _ _ (Nat.two_pow_pos w),
          Nat.div_eq_of_lt (Nat.mod_lt _ (Nat.two_pow_pos w)), Nat.zero_add]
      rw [Nat.mul_succ, Nat.add_comm, Nat.pow_add, ← Nat.div_div_eq_div_mul, hrest, ih n]
      rfl

/-- A part of a field that has been set. -/
theorem field_setField {x lo len v k b top : Nat} (hb : 0 < b) (hk : k + b ≤ len) (ht : lo + len ≤ top) :
    field (setField x (lo + len - 1) lo v % 2 ^ top) (lo + k + b - 1) (lo + k) = v / 2 ^ k % 2 ^ b := by
  have hhi : lo + len - 1 + 1 = lo + len := by omega
  have hlen : lo + len - 1 - lo + 1 = len := by omega
  have hwidth : lo + k + b - 1 - (lo + k) + 1 = b := by omega
  have hdiv : setField x (lo + len - 1) lo v / 2 ^ lo = v % 2 ^ len + x / 2 ^ (lo + len) * 2 ^ len := by
    rw [setField, hhi, hlen, Nat.shiftLeft_eq, Nat.shiftLeft_eq, Nat.shiftRight_eq_div_pow, Nat.pow_add,
      Nat.mul_comm (2 ^ lo), ← Nat.mul_assoc, ← Nat.add_mul, Nat.add_comm, Nat.add_mul_div_right _ _ (Nat.two_pow_pos lo),
      Nat.div_eq_of_lt (Nat.mod_lt _ (Nat.two_pow_pos lo)), Nat.zero_add, Nat.add_comm]
  rw [field, hwidth, Nat.shiftRight_eq_div_pow, field_mod _ (by omega), Nat.pow_add, ← Nat.div_div_eq_div_mul, hdiv,
    ← field_mod (w := len) _ hk, Nat.add_mul_mod_self_right, Nat.mod_mod, field_mod _ hk]

theorem pow_bytes (n : Nat) : 256 ^ n = 2 ^ (8 * n) := by rw [Nat.pow_mul]

theorem accRows_element {w lo m n : Nat} (hw : 0 < w) (hlo : lo + 32 * w ≤ 512) (hm : m < 32) (hn : n < 32)
    (vs : List (Option Nat)) (old : List Byte) :
    field (ofBytes (((accRows w lo vs old).drop (64 * m)).take 64)) (lo + w * n + w - 1) (lo + w * n) =
      (vs.getD (32 * m + n) none).getD 0 % 2 ^ w := by
  have hfit : w * n + w ≤ 32 * w := by rw [← Nat.mul_succ, Nat.mul_comm]; exact Nat.mul_le_mul_right w hn
  rw [accRows, flatMap_part fun _ _ => toBytes_length ..]
  simp only [List.getElem?_range hm, Option.map_some, Option.getD_some, ofBytes_toBytes, pow_bytes]
  rw [field_setField hw hfit hlo, packedRow_element]
  simp [List.getD_eq_getElem?_getD, hn]

/-- A tile that takes the mark of poison with what is written. -/
def Tile.marked (x : Tile) (p : Bool) : Tile := if p then x.setPois true else x

/-- A core that TACCR has written; both tiles of a pair take the mark. -/
def Core.halfWritten (k : Core) (d h w : Nat) (p : Bool) (data : List Byte) : Core :=
  let k := k.modTile (if w = 16 then d + h else d) fun y => Tile.marked { y with data := data } p
  if w = 16 then k.modTile (if h = 0 then d + 1 else d) (·.marked p) else k

section
variable {s : State} {d h : Nat} {f w : Nat}

/-- The element of TACCR: the accumulator's, converted. -/
def State.taccrElem (s : State) (f mode : Nat) (sat : Bool) (i z : Nat) : Option (Nat × Flags) :=
  some (convertBits (s.core s.here).afmt f mode sat z ((chunksOf 4 1024 (s.rd (s.accAddr s.here) 4096)).getD i 0))

theorem taccrBody_writes {o : UnitOp} {vs : List (Option Nat)} {fl : Flags} {l : BitVec 32}
    (hf : f = ((s.core s.here).tile d).desc.fmt) (hw : w = fmtWidth f) (hpfx : o.pfx = none)
    (hafmt : (s.core s.here).afmt = 3 ∨ (s.core s.here).afmt = 4) (hok : ((s.core s.here).tile d).desc.okAt d = true)
    (hpair : w = 16 → d % 2 = 0) (hmem : f ∈ [0, 1, 5, 6, 7, 8, 9, 13])
    (hfold : elemFold (o.mode s.me == 4) (s.taccrElem f (o.mode s.me) o.sat) (List.range 1024) s.me.rndlfsr =
      (vs, fl, l)) :
    taccrBody o d h s = .done (((s.modCore s.here (·.halfWritten d h w
      ((s.core s.here).accPois || (s.accBad s.here).isSome)
      (accRows w (if w = 16 then 0 else 32 * h * w) vs ((s.core s.here).tile (if w = 16 then d + h else d)).data))).modMe
        fun th => { th with rndlfsr := l }).raise s.cur fl) := by
  subst hf hw
  have hsrc : ((s.core s.here).afmt == 3 || (s.core s.here).afmt == 4) = true := by simpa using hafmt
  have hpr : (fmtWidth ((s.core s.here).tile d).desc.fmt == 16 && d % 2 == 1) = false := by
    simpa using hpair
  unfold State.taccrElem at hfold
  unfold taccrBody
  simp -iota only [hpfx, hsrc, hok, hpr, List.contains_iff_mem.mpr hmem, hfold, Bool.not_true, Bool.or_self,
    Bool.false_or]
  simp only [Bool.false_eq_true, if_false, Core.halfWritten, Tile.marked, accRows, packedRow]

theorem busy_halfWritten (k : Core) (o : UnitOp) (d h w : Nat) (p : Bool) (data : List Byte) :
    (k.busy o).halfWritten d h w p data = (k.halfWritten d h w p data).busy o := by
  simp only [Core.halfWritten]
  split <;> rfl

theorem halfWritten_rest (k : Core) (d h w : Nat) (p : Bool) (data : List Byte) :
    (k.halfWritten d h w p data).accg = k.accg ∧ (k.halfWritten d h w p data).munit = k.munit := by
  simp only [Core.halfWritten]
  split <;> exact ⟨rfl, rfl⟩

section
variable {e : Nat} (hh : h < 2) (hpair : w = 16 → d % 2 = 0) (he : e = if w = 16 then d + h else d)
include hh hpair he

theorem halfWritten_tile (k : Core) (p : Bool) (data : List Byte) :
    (k.halfWritten d h w p data).tile e = Tile.marked { k.tile e with data := data } p := by
  subst he
  by_cases hw : w = 16
  · have hd2 := hpair hw
    simp only [Core.halfWritten, hw, if_true]
    rw [tile_modTile_other _ _ (by split <;> omega), tile_modTile_same]
  · simp only [Core.halfWritten, hw, if_false]
    exact tile_modTile_same ..

theorem halfWritten_tile_other (hd : d < 16) (k : Core) (data : List Byte) {j : Nat} (hj : j < 16) (hje : j ≠ e) :
    (k.halfWritten d h w false data).tile j = k.tile j := by
  subst he
  by_cases hw : w = 16
  · have hd2 := hpair hw
    have hmark (k : Core) (i : Nat) : (k.modTile i (·.marked false)).tile j = k.tile j := by
      by_cases hi : j % 16 = i % 16
      · have hji (k : Core) : k.tile j = k.tile i := by rw [Core.tile, hi, Core.tile]
        rw [hji, hji, tile_modTile_same]
        rfl
      · exact tile_modTile_other _ _ hi
    rw [if_pos hw] at hje
    simp only [Core.halfWritten, hw, if_true]
    rw [hmark, tile_modTile_other _ _ (by omega)]
  · rw [if_neg hw] at hje
    simp only [Core.halfWritten, hw, if_false]
    exact tile_modTile_other _ _ (by omega)

end

theorem marked_data (x : Tile) (p : Bool) : (x.marked p).data = x.data := by cases p <;> rfl

theorem marked_pois (x : Tile) : (x.marked true).pois = true := by
  simp [Tile.marked, Tile.setPois, Tile.pois, poisBit]

/-- The elements that TACCR writes at a mode without draws. -/
theorem taccr_elements {vs : List (Option Nat)} {fl : Flags} {l : BitVec 32} {mode : Nat} (hm : mode < 4)
    (hfold : elemFold (mode == 4) (s.taccrElem f mode false) (List.range 1024) s.me.rndlfsr = (vs, fl, l)) {i : Nat}
    (hi : i < 1024) : (vs.getD i none).getD 0 =
      (convertBits (s.core s.here).afmt f mode false 0 (ofBytes (s.rd (s.accAddr s.here + 4 * i) 4))).1 := by
  have hrst : (mode == 4) = false := beq_false_of_ne (by omega)
  have hold : ((s.rd (s.accAddr s.here) 4096).drop (4 * i)).take 4 = s.rd (s.accAddr s.here + 4 * i) 4 := by
    rw [State.rd, drop_memRead, take_memRead _ _ (by omega), State.rd]
  have hvs : vs = (List.range 1024).map fun e => (s.taccrElem f mode false e (lfsrZ s.me.rndlfsr)).map (·.1) := by
    rw [hrst] at hfold
    rw [← elemFold_map, hfold]
  simp only [hvs, List.getD_eq_getElem?_getD, List.getElem?_map, List.getElem?_range hi, Option.map_some,
    Option.getD_some, State.taccrElem, chunksOf_getElem? 4 hi, hold, convertBits_draw hm _ _ _ (lfsrZ _)]

end

theorem exec_taccr {s : State} {d : BitVec 5} {h : BitVec 1} {f w e lo : Nat} (hr : s.MatrixReady (.taccr d h))
    (hf : f = ((s.core s.here).tile d.toNat).desc.fmt) (hw : w = fmtWidth f) (hpp : s.me.tsr.pp = false)
    (hafmt : (s.core s.here).afmt = 3 ∨ (s.core s.here).afmt = 4)
    (hok : ((s.core s.here).tile d.toNat).desc.okAt d.toNat = true) (hpair : w = 16 → d.toNat % 2 = 0)
    (hmem : f ∈ [0, 1, 5, 6, 7, 8, 9, 13]) (he : e = if w = 16 then d.toNat + h.toNat else d.toNat)
    (hlo : lo = if w = 16 then 0 else 32 * h.toNat * w) :
    ∃ t vs fl l, elemFold (s.me.tsr.rm.toNat == 4) (s.taccrElem f s.me.tsr.rm.toNat false) (List.range 1024)
        s.me.rndlfsr = (vs, fl, l) ∧
      exec (.taccr d h) s = .next t ∧ s.MatFrame t ∧ t.mem = s.mem ∧ t.full = s.full ∧
      (t.core s.here).tile = ((s.core s.here).halfWritten d.toNat h.toNat w
        ((s.core s.here).accPois || (s.accBad s.here).isSome) (accRows w lo vs ((s.core s.here).tile e).data)).tile := by
  obtain ⟨w', hw'⟩ : ∃ w, MatWord (.taccr d h) w := matWord fun _ => rfl
  rcases hfold : elemFold (s.me.tsr.rm.toNat == 4) (s.taccrElem f s.me.tsr.rm.toNat false) (List.range 1024)
    s.me.rndlfsr with ⟨vs, fl, l⟩
  have hpfx : (s.unitOp (.taccr d h) w' false).pfx = none := by simp [State.unitOp, State.pending, hpp]
  have hmode (th : Thread) : (s.unitOp (.taccr d h) w' false).mode th = th.tsr.rm.toNat := by
    rw [UnitOp.mode, hpfx]
    rfl
  have hsat : (s.unitOp (.taccr d h) w' false).sat = false := by rw [UnitOp.sat, hpfx]
  have helem : (s.matTaken (.taccr d h) w').taccrElem f s.me.tsr.rm.toNat false =
      s.taccrElem f s.me.tsr.rm.toNat false := by
    funext i z
    simp only [State.taccrElem, matTaken_here, matTaken_core, busy_afmt, matTaken_accAddr, matTaken_rd]
  have hu := taccrBody_writes (s := s.matTaken (.taccr d h) w') (o := s.unitOp (.taccr d h) w' false) (d := d.toNat)
    (h := h.toNat) (vs := vs) (fl := fl) (l := l) (by simpa using hf) hw hpfx (by simpa using hafmt) (by simpa using hok)
    hpair hmem (by rw [hmode, hsat, matTaken_me, helem]; exact hfold)
  rw [matTaken_cur, matTaken_here, ← he, ← hlo] at hu
  obtain ⟨t, ht, hframe, hmem, hfull, hcore, -⟩ := matRaises hr hw' hu
    (.modCore _ _ (fun k => (halfWritten_rest k ..).1) fun k => (halfWritten_rest k ..).2)
    (by rw [modCore_thr, matTaken_thr, State.me])
  refine ⟨t, vs, fl, l, rfl, ht, hframe, ?_, ?_, ?_⟩
  · rw [hmem, modCore_mem, matTaken_mem]
  · rw [hfull, modCore_full, matTaken_full]
  · rw [hcore, core_modCore_same, matTaken_core, matTaken_accBad, busy_halfWritten]
    rfl

/-- Settles O37: the sub-tile takes the rounded sums, and the columns of a tile its converted elements. -/
theorem accumulator : Obligations.Accumulator := by
  unfold Obligations.Accumulator
  constructor
  · rintro s a b k x rfl rfl hst hm
    refine ⟨fun h => ?_, fun h hpp hrm hacc hp hbad => ?_⟩
    · obtain ⟨t, ht, hframe, hzero, hrest, hpois, hflags, htile⟩ := exec_taccz h hst hm
      exact ⟨t, ht, hframe, hzero, hrest, hpois, hflags, fun j _ => htile j⟩
    · obtain ⟨t, ht, hframe, hmem, hflags, htile⟩ := exec_tmma h hpp hst hrm hacc hp hbad
      have hlen := tmmaBytes_length s a.toNat b.toNat
      refine ⟨t, ht, hframe, fun y hy => ?_, hflags, fun j _ => htile j, ?_⟩
      · rw [hmem]
        exact memGet_memWrite_other _ _ (by rwa [hlen])
      · rintro m n old hm' hn rfl
        rw [rd_element hm hmem hlen (by omega)]
        exact tmmaBytes_element hacc hm' hn
  · rintro s d h k f w x e lo rfl hf hw rfl hr hpp hrm hafmt hd hok hpair hmem he hlo
    obtain ⟨t, vs, fl, l, hfold, ht, hframe, htmem, hfull, htile⟩ :=
      exec_taccr hr hf hw hpp hafmt hok hpair hmem he hlo
    have hwidth : 0 < w ∧ w ≤ 16 ∧ (w ≠ 16 → w ≤ 8) := by
      subst hw
      simp only [List.mem_cons, List.not_mem_nil, or_false] at hmem
      obtain h | h | h | h | h | h | h | h := hmem <;> rw [h] <;> decide
    have hfit : lo + 32 * w ≤ 512 := by
      have hh := h.isLt
      rw [hlo]
      split
      · omega
      next hne =>
        obtain hz | ho : h.toNat = 0 ∨ h.toNat = 1 := by omega
        · simp only [hz]; omega
        · simp only [ho]; omega
    refine ⟨t, ht, hframe, htmem, hfull, fun m n hm hn => ?_, fun hp hb j hj hje => ?_, fun hp => ?_⟩
    all_goals rw [htile]
    · rw [halfWritten_tile h.isLt hpair he, marked_data, accRows_element hwidth.1 hfit hm hn,
        taccr_elements hrm hfold (by omega)]
    · rw [hp, hb]
      exact halfWritten_tile_other h.isLt hpair he hd _ _ hj hje
    · have hmark : ((s.core s.here).accPois || (s.accBad s.here).isSome) = true := by simpa using hp
      rw [halfWritten_tile h.isLt hpair he, hmark, marked_pois]

end Sys2Proof.Machine
end

section
/-! SUPPORT. Rings: claims and fills, slots that are consumed, held and released, and what these leave of a machine
(R234 to R237). -/

namespace Sys2Proof.Machine

/-! ## PI stands NF + NL slots past CI (R234) -/

theorem claim_inStep {g : Ring} (h : g.inStep) (n : Nat) : (g.claim n).inStep := by
  unfold Ring.inStep at h ⊢
  simp only [Ring.claim, Ring.nl, List.length_append, List.length_replicate] at h ⊢
  rw [h, Nat.mod_add_mod]
  congr 1
  omega

theorem claim_nl (g : Ring) (n : Nat) : (g.claim n).nl = g.nl + n := by
  simp [Ring.nl, Ring.claim]

/-- FULL and CLAIMED slots together stay as many when fills end. -/
theorem settle_count (g : Ring) : g.settle.nf + g.settle.nl = g.nf + g.nl := by
  have hle : (g.pend.takeWhile id).length ≤ g.pend.length := (List.takeWhile_sublist _).length_le
  simp only [Ring.settle, Ring.nl, List.length_drop]
  omega

theorem filled_count (g : Ring) (slot n : Nat) : (g.filled slot n).nf + (g.filled slot n).nl = g.nf + g.nl := by
  rw [Ring.filled, settle_count]
  simp [Ring.nl]

theorem filled_inStep {g : Ring} (h : g.inStep) (slot n : Nat) : (g.filled slot n).inStep := by
  have hcount := filled_count g slot n
  unfold Ring.inStep at h ⊢
  rw [Nat.add_assoc] at h ⊢
  rw [hcount]
  exact h

theorem consume_inStep {g : Ring} (h : g.inStep) {n : Nat} (hn : n ≤ g.nf) : (g.consume n).inStep := by
  unfold Ring.inStep at h ⊢
  simp only [Ring.consume, Ring.nl] at h ⊢
  rw [h, Nat.add_assoc ((g.ci + n) % g.len), Nat.mod_add_mod]
  congr 1
  omega

/-! ## Held slots are released (R237) -/

section
variable {k : Core} {r : Nat}

/-- One slot is released. -/
def Core.freeOldest (k : Core) (r : Nat) : Core :=
  { k with forwards := modOldest r (fun _ => none) k.forwards }.modRing r fun g =>
    { g with fi := (g.fi + 1) % g.len, nh := g.nh - 1 }

/-- The oldest held slot may be released: nothing is forwarded, or its forward has ended. -/
def Forward.over (f : Forward) : Bool := f.dest = none || f.phase = 2

theorem release_empty {n : Nat} (h : k.oldest r = none) : k.release r n = k := by
  cases n with
  | zero => rfl
  | succ n => rw [Core.release, h]

theorem release_over {n : Nat} {f : Forward} (h : k.oldest r = some f) (ho : f.over = true) :
    k.release r (n + 1) = (k.freeOldest r).release r n := by
  rw [Core.release, h]
  exact if_pos ho

theorem release_waits {n : Nat} {f : Forward} (h : k.oldest r = some f) (ho : f.over = false) : k.release r n = k := by
  cases n with
  | zero => rfl
  | succ n =>
    rw [Core.release, h]
    exact if_neg (by rw [← Forward.over, ho]; exact Bool.false_ne_true)

/-- What holds of a core and survives the release of a slot holds after all releases. -/
theorem release_induction {P : Core → Prop} (hstep : ∀ k, P k → P (k.freeOldest r)) (n : Nat) (h : P k) :
    P (k.release r n) := by
  induction n generalizing k with
  | zero => exact h
  | succ n ih =>
    cases ho : k.oldest r with
    | none => rwa [release_empty ho]
    | some f =>
      cases hf : f.over with
      | true => rw [release_over ho hf]; exact ih (hstep k h)
      | false => rwa [release_waits ho hf]

/-- Releases change rings and held slots alone. -/
theorem release_rest (k : Core) (r n : Nat) :
    k.release r n = { k with rings := (k.release r n).rings, forwards := (k.release r n).forwards } :=
  release_induction (P := fun t => t = { k with rings := t.rings, forwards := t.forwards })
    (fun t ht => by rw [ht]; rfl) n rfl

/-- What releases leave of rings: FI and NH of the one ring are all that changes. -/
structure Core.Freed (k t : Core) (r : Nat) : Prop where
  ring : t.ring r = { k.ring r with fi := (t.ring r).fi, nh := (t.ring r).nh }
  others : ∀ j, j < 4 → j ≠ r → t.ring j = k.ring j

theorem release_freed (hr : r < 4) (k : Core) (n : Nat) : k.Freed (k.release r n) r := by
  refine release_induction (P := fun t => k.Freed t r) (fun t ht => ?_) n ⟨rfl, fun _ _ _ => rfl⟩
  obtain ⟨hring, hother⟩ := ht
  have hsame : (t.freeOldest r).ring r = { t.ring r with
      fi := ((t.ring r).fi + 1) % (t.ring r).len, nh := (t.ring r).nh - 1 } := ring_modRing_same ..
  refine ⟨?_, fun j hj hne => ?_⟩
  · rw [hsame, hring]
  · rw [← hother j hj hne]
    exact ring_modRing_other _ _ hr hj hne

/-- Slots that are not forwarded are released at once. -/
theorem release_unforwarded (n m : Nat) {k : Core} (hn : (k.ring r).nh = n)
    (hf : k.forwards = List.replicate n { ring := r, dest := none }) :
    ((k.release r (n + m)).ring r).nh = 0 ∧ (k.release r (n + m)).forwards = [] := by
  induction n generalizing k with
  | zero =>
    have hnone : k.oldest r = none := by rw [Core.oldest, hf]; rfl
    rw [release_empty hnone]
    exact ⟨hn, hf⟩
  | succ n ih =>
    have hsome : k.oldest r = some { ring := r, dest := none } := by
      rw [Core.oldest, hf, List.replicate_succ, List.find?_cons, beq_self_eq_true]
    rw [Nat.add_right_comm, release_over hsome rfl]
    refine ih ?_ ?_
    · rw [Core.freeOldest, ring_modRing_same]
      exact Nat.sub_eq_of_eq_add hn
    · show modOldest r (fun _ => none) k.forwards = _
      rw [hf, List.replicate_succ, modOldest, if_pos rfl]
      rfl

end

/-! ## Machines that differ in the rings of a core (R236, R237) -/

/-- `t` is `s` but for rings and held slots of cores, and what is due. -/
structure State.SlotsOnly (s t : State) : Prop where
  only : ∃ cs g, t = { s with cores := cs, agenda := g }
  core : ∀ j, ∃ rs fs, t.core j = { s.core j with rings := rs, forwards := fs }

namespace State.SlotsOnly

variable {s t u : State}

theorem refl (s : State) : s.SlotsOnly s := ⟨⟨_, _, rfl⟩, fun _ => ⟨_, _, rfl⟩⟩

theorem trans (h : s.SlotsOnly t) (h' : t.SlotsOnly u) : s.SlotsOnly u := by
  refine ⟨?_, fun j => ?_⟩
  · obtain ⟨⟨_, _, rfl⟩, -⟩ := h
    obtain ⟨⟨cs, g, rfl⟩, -⟩ := h'
    exact ⟨cs, g, rfl⟩
  · obtain ⟨rs, fs, hu⟩ := h'.core j
    obtain ⟨rs', fs', ht⟩ := h.core j
    exact ⟨rs, fs, by rw [hu, ht]⟩

theorem modCore (s : State) (c : Nat) {f : Core → Core}
    (hf : ∀ k, f k = { k with rings := (f k).rings, forwards := (f k).forwards }) : s.SlotsOnly (s.modCore c f) := by
  refine ⟨⟨_, _, rfl⟩, fun j => ?_⟩
  by_cases hj : j = c
  · subst hj
    rw [core_modCore_same, hf]
    exact ⟨_, _, rfl⟩
  · rw [core_modCore_other _ _ hj]
    exact ⟨_, _, rfl⟩

theorem dueOnce (s : State) (e : Instr) : s.SlotsOnly (s.dueOnce e) := by
  unfold State.dueOnce
  split
  · exact refl s
  · exact ⟨⟨_, _, rfl⟩, fun _ => ⟨_, _, rfl⟩⟩

theorem offer (s : State) (c : Nat) : s.SlotsOnly (s.offer c) := by
  unfold State.offer
  split
  · exact refl s
  · exact dueOnce ..

theorem settleHeld (s : State) (c r : Nat) : s.SlotsOnly (s.settleHeld c r) := by
  have hfree := (modCore s c fun k => release_rest k r (k.forwards.length + 1)).trans (offer _ c)
  simp only [State.settleHeld]
  split
  · split
    · exact hfree.trans (dueOnce ..)
    · exact hfree
  · exact hfree

theorem consumeSlots (s : State) (c r n : Nat) : s.SlotsOnly (s.consumeSlots c r n) :=
  (modCore s c fun _ => rfl).trans (settleHeld _ c r)

theorem mem (h : s.SlotsOnly t) : t.mem = s.mem := by
  obtain ⟨⟨_, _, rfl⟩, -⟩ := h
  rfl

theorem poison (h : s.SlotsOnly t) : t.poison = s.poison := by
  obtain ⟨⟨_, _, rfl⟩, -⟩ := h
  rfl

theorem threads (h : s.SlotsOnly t) : t.threads = s.threads := by
  obtain ⟨⟨_, _, rfl⟩, -⟩ := h
  rfl

theorem thr (h : s.SlotsOnly t) (u : Nat) : t.thr u = s.thr u := by rw [State.thr, h.threads, State.thr]

theorem cur (h : s.SlotsOnly t) : t.cur = s.cur := by
  obtain ⟨⟨_, _, rfl⟩, -⟩ := h
  rfl

theorem unitKeeps (h : s.SlotsOnly t) : s.UnitKeeps t := by
  obtain ⟨rs, fs, hcore⟩ := h.core s.here
  exact { regs := by rw [h.thr]; rfl
          vec := by rw [h.thr]; exact ⟨rfl, rfl⟩
          level := by rw [h.thr]; rfl
          others := fun k _ => h.thr k
          accg := by rw [hcore]
          cur := h.cur
          munit := by rw [hcore] }

end State.SlotsOnly

/-! ## Slots that are consumed (R236, R237) -/

section
variable {c r n : Nat}

theorem settleHeld_core (s : State) (c r : Nat) :
    (s.settleHeld c r).core c = (s.core c).release r ((s.core c).forwards.length + 1) := by
  simp only [State.settleHeld]
  split
  · split <;> simp [offer_core]
  · simp [offer_core]

/-- A core whose `n` slots at CI have been handed to forwarding. -/
def Core.taken (k : Core) (c r n : Nat) : Core :=
  { k.modRing r (fun g => g.consume n) with
    forwards := k.forwards ++ List.replicate n { ring := r, dest := k.forwardDest c (k.ring r).fwd } }

theorem consumeSlots_core (s : State) (c r n : Nat) : (s.consumeSlots c r n).core c =
    ((s.core c).taken c r n).release r (((s.core c).taken c r n).forwards.length + 1) := by
  rw [State.consumeSlots, settleHeld_core, core_modCore_same]
  rfl

/-- What consuming slots leaves of rings: CI and NF of the one ring move. -/
theorem consumeSlots_rings (hr : r < 4) (s : State) (c n : Nat) :
    (∃ fi nh, ((s.consumeSlots c r n).core c).ring r = { ((s.core c).ring r).consume n with fi := fi, nh := nh }) ∧
      ∀ j, j < 4 → j ≠ r → ((s.consumeSlots c r n).core c).ring j = (s.core c).ring j := by
  have hfreed := release_freed hr ((s.core c).taken c r n) (((s.core c).taken c r n).forwards.length + 1)
  rw [← consumeSlots_core] at hfreed
  have hsame : ((s.core c).taken c r n).ring r = ((s.core c).ring r).consume n := ring_modRing_same ..
  refine ⟨⟨_, _, hfreed.ring.trans (by rw [hsame])⟩, fun j hj hne => ?_⟩
  rw [hfreed.others j hj hne]
  exact ring_modRing_other _ _ hr hj hne

/-- Slots that are not forwarded become EMPTY at once. -/
theorem consumeSlots_unforwarded {s : State} (hd : (s.core c).forwardDest c ((s.core c).ring r).fwd = none)
    (hf : (s.core c).forwards = []) (hh : ((s.core c).ring r).nh = 0) :
    (((s.consumeSlots c r n).core c).ring r).nh = 0 ∧ ((s.consumeSlots c r n).core c).forwards = [] := by
  have hforwards : ((s.core c).taken c r n).forwards = List.replicate n { ring := r, dest := none } := by
    simp only [Core.taken, hd, hf, List.nil_append]
  have hnh : (((s.core c).taken c r n).ring r).nh = n := by
    have hsame : ((s.core c).taken c r n).ring r = ((s.core c).ring r).consume n := ring_modRing_same ..
    rw [hsame, Ring.consume, hh, Nat.zero_add]
  rw [consumeSlots_core, hforwards, List.length_replicate]
  exact release_unforwarded n 1 hnh hforwards

end

end Sys2Proof.Machine
end

section
/-! SUPPORT. RINGDEF, the control instructions, MRECT, MSTAT and MCANCEL (R241, R247, R260, R261, R263). -/

namespace Sys2Proof.Machine

/-! ## Control instructions (R241, R261) -/

/-- A control instruction has the effect of its meaning. -/
theorem exec_ctrl {s : State} {i : Instr} {w : Half} {body : State → Res} (h : s.Plain)
    (he : exec i s = run (matForm i w s) body s)
    (hm : majorNat w = 0x24 := by
      simp (disch := decide) only [majorNat, Laws.RoundTrip.fieldAbove, Laws.RoundTrip.fieldWhole, Nat.reduceSub]
      decide) : exec i s = .next (settle s (body s)) := by
  refine exec_of_run h.alone he (State.prefixFits_none h _) ?_
  rw [show majorNat (matForm i w s).word = 0x24 from hm]
  decide

/-- A word that has written a register and changed cores. -/
theorem loaded_modCore {s : State} (h : s.Plain) (c : Nat) (f : Core → Core) (d : BitVec 5) (v : Word) :
    s.Loaded (s.after ((s.modCore c f).setG d v)) d v := by
  have hthr : (s.after ((s.modCore c f).setG d v)).thr s.cur =
      (s.me.put d.toNat v).complete (s.me.pc + 4) s.me.tsr.pp := by
    rw [after_thr]
    exact congrArg (Thread.complete · (s.me.pc + 4) s.me.tsr.pp)
      (thr_modThr_same (s.modCore c f) s.cur fun th => th.put d.toNat v)
  have hoth (k : Nat) (hk : k ≠ s.cur) : (s.after ((s.modCore c f).setG d v)).thr k = s.thr k :=
    ((State.OwnOnly.modCore s c f).trans (.modMe _ _)).after.2 k hk
  exact { reg := fun k => by rw [hthr, reg_complete, reg_put]
          pc := by rw [hthr]; rfl
          running := by rw [hthr]; rfl
          flags := by rw [hthr, h.noPrefix]; exact congrArg Tsr.flags (put_tsr ..)
          mem := rfl
          poison := rfl
          others := fun k hk => by rw [hoth k hk]; exact ⟨rfl, rfl⟩ }

theorem modCore_congr {s : State} {c : Nat} {f g : Core → Core} (h : f (s.core c) = g (s.core c)) :
    s.modCore c f = s.modCore c g := by
  simp only [State.modCore, h]

/-- The machine without the control instructions of a core that wait. -/
def State.noCtrl (s : State) : State := s.modCore s.here fun k => { k with ctrl := [] }

theorem noCtrl_core (s : State) : s.noCtrl.core s.here = { s.core s.here with ctrl := [] } := core_modCore_same ..

theorem noCtrl_of_empty {s : State} (h : (s.core s.here).ctrl = []) :
    (s.modCore s.here fun k => { k with ctrl := k.ctrl.filter (· != s.cur) }) = s.noCtrl :=
  modCore_congr (by simp only [h, List.filter_nil])

theorem ctrlEarlier_of_empty {s : State} {c : Nat} (h : (s.core c).ctrl = []) (t r : Nat) :
    s.ctrlEarlier c t r = false := by
  simp only [State.ctrlEarlier, h, List.takeWhile_nil, List.any_nil]

/-- What TFREE leaves of its core's rings. -/
theorem tfree_rings {k : Nat} (hk : k < 4) (n : Nat) (s : State) :
    let t := s.after (s.noCtrl.consumeSlots s.here k n)
    ((t.core s.here).ring k).nf = ((s.core s.here).ring k).nf - n ∧
      ((t.core s.here).ring k).ci = (((s.core s.here).ring k).ci + n) % ((s.core s.here).ring k).len ∧
      (∀ j, j < 4 → j ≠ k → (t.core s.here).ring j = (s.core s.here).ring j) ∧
      ((s.core s.here).forwardDest s.here ((s.core s.here).ring k).fwd = none → (s.core s.here).forwards = [] →
        ((s.core s.here).ring k).nh = 0 → ((t.core s.here).ring k).nh = 0 ∧ (t.core s.here).forwards = []) := by
  obtain ⟨⟨fi, nh, hring⟩, hother⟩ := consumeSlots_rings hk s.noCtrl s.here n
  have hunf := consumeSlots_unforwarded (s := s.noCtrl) (c := s.here) (r := k) (n := n)
  rw [noCtrl_core] at hring hother hunf
  rw [hring] at hunf
  simp only [after_core, hring]
  exact ⟨rfl, rfl, hother, hunf⟩

section
variable {s : State} {a r d : BitVec 5} (h : s.Plain)
include h

theorem exec_twait (hlen : s.gn a < ((s.core s.here).ring r.toNat).len)
    (hfull : s.gn a < ((s.core s.here).ring r.toNat).nf) : ∃ t, exec (.twait a r d) s = .next t ∧
      s.Loaded t d (BitVec.ofNat 64 ((((s.core s.here).ring r.toNat).first +
        (((s.core s.here).ring r.toNat).ci + s.gn a) % ((s.core s.here).ring r.toNat).len) % 16)) ∧
      ∀ j, (t.core s.here).ring j = (s.core s.here).ring j := by
  have hbad : ¬((s.core s.here).ring r.toNat).len = 0 ∧ ¬((s.core s.here).ring r.toNat).len ≤ s.gn a := by omega
  rw [exec_ctrl h rfl]
  simp only [ctrlBody, Core.ctrlReady, hbad, hfull, if_true, if_false, decide_true, decide_false, Bool.not_true,
    bne_self_eq_false, Bool.false_and, Bool.or_self, Bool.false_eq_true, settle_done]
  refine ⟨_, rfl, loaded_modCore h _ _ _ _, fun j => ?_⟩
  rw [after_core, State.setGn, State.setG, modMe_core, core_modCore_same]
  rfl

section
variable (hn : s.gn a ≠ 0) (hlen : s.gn a ≤ ((s.core s.here).ring r.toNat).len) (hctrl : (s.core s.here).ctrl = [])
include hn hlen hctrl

/-- TFREE on FULL slots. -/
theorem exec_tfree (hfull : s.gn a ≤ ((s.core s.here).ring r.toNat).nf) : exec (.tfree a r) s = .next (settle s
    (if !(s.core s.here).evenFor r.toNat ((s.core s.here).chunkSlots r.toNat) then
      illegal (36#6 ++ a ++ 0#5 ++ r ++ 0#5 ++ 18#6) 2 s.noCtrl
    else .done (s.noCtrl.consumeSlots s.here r.toNat (s.gn a)))) := by
  have hbad : ¬((s.core s.here).ring r.toNat).len = 0 ∧ ¬((s.core s.here).ring r.toNat).len < s.gn a := by omega
  rw [exec_ctrl h rfl]
  simp only [ctrlBody, Core.ctrlReady, hbad, hn, hfull, noCtrl_of_empty hctrl, ctrlEarlier_of_empty hctrl, if_true,
    if_false, decide_true, decide_false, Bool.not_true, Bool.and_false, Bool.or_self, Bool.false_eq_true,
    Nat.succ_ne_zero]

theorem exec_tfree_odd (hfull : s.gn a ≤ ((s.core s.here).ring r.toNat).nf)
    (hodd : (s.core s.here).evenFor r.toNat ((s.core s.here).chunkSlots r.toNat) = false) :
    exec (.tfree a r) s = .next ((s.modCore s.here fun k => { k with ctrl := [] }).takeTrapAt s.cur
      { code := 1, detail := 2, tval := (encode (.tfree a r)).zeroExtend 64 } s.me.pc false) := by
  rw [exec_tfree h hn hlen hctrl hfull, hodd, ← State.noCtrl]
  rfl

theorem exec_tfree_even (hfull : s.gn a ≤ ((s.core s.here).ring r.toNat).nf)
    (heven : (s.core s.here).evenFor r.toNat ((s.core s.here).chunkSlots r.toNat) = true) :
    exec (.tfree a r) s = .next (s.after (s.noCtrl.consumeSlots s.here r.toNat (s.gn a))) := by
  rw [exec_tfree h hn hlen hctrl hfull, heven]
  rfl

/-- TADV on EMPTY slots. -/
theorem exec_tadv (hroom : s.gn a ≤ (s.core s.here).empties r.toNat) : exec (.tadv a r) s =
    .next (s.after (s.noCtrl.modCore s.here fun k => k.modRing r.toNat fun g => g.fill (s.gn a))) := by
  have hbad : ¬((s.core s.here).ring r.toNat).len = 0 ∧ ¬((s.core s.here).ring r.toNat).len < s.gn a := by omega
  rw [exec_ctrl h rfl]
  simp only [ctrlBody, Core.ctrlReady, hbad, hn, hroom, noCtrl_of_empty hctrl, ctrlEarlier_of_empty hctrl, if_false,
    decide_true, decide_false, Bool.not_true, Bool.and_false, Bool.or_self, Bool.false_eq_true, Nat.succ_ne_zero,
    Nat.reduceEqDiff, settle_done]

end

end

/-- What consuming slots leaves of a word's thread. -/
theorem after_consumeSlots (s : State) (r n : Nat) :
    (s.after (s.noCtrl.consumeSlots s.here r n)).mem = s.mem ∧
      (s.after (s.noCtrl.consumeSlots s.here r n)).thr s.cur = s.me.complete (s.me.pc + 4) s.me.tsr.pp := by
  have hslots := State.SlotsOnly.consumeSlots s.noCtrl s.here r n
  refine ⟨(after_mem ..).trans hslots.mem, ?_⟩
  rw [after_thr, hslots.thr]
  rfl

theorem elsewhere_after_cores (s : State) (cs : SMap Core) :
    s.elsewhere { s.after { s with cores := cs } with cores := s.cores } :=
  ⟨rfl, fun _ hk => thr_modThr_other s (fun th => th.complete (s.me.pc + 4) s.me.tsr.pp) hk⟩

/-- TADV leaves what lies beside the cores. -/
theorem after_noCtrl_elsewhere (s : State) (f : Core → Core) :
    s.elsewhere { s.after (s.noCtrl.modCore s.here f) with cores := s.cores } := by
  obtain ⟨cs, hcs⟩ : ∃ cs, s.noCtrl.modCore s.here f = { s with cores := cs } := ⟨_, rfl⟩
  rw [hcs]
  exact elsewhere_after_cores s cs

/-! ## RINGDEF (R260) -/

theorem exec_ringdef {s : State} {a r : BitVec 5} {n : Nat} {x : Ring} (h : s.MatrixReady (.ringdef a r)) (hn : n = s.gn a)
    (hr : r.toNat < 4) (hx : x = { first := field n 3 0, fwd := field n 7 6, len := field n 12 8 })
    (hbits : n &&& 0x1FCF = n) (hfwd : x.fwd ≠ 3) (hlen : x.len ≤ 16) (hzero : x.len = 0 → n = 0)
    (hshare : ∀ j i, j < 4 → j ≠ r.toNat → i < x.len → x.tile i ∉ ((s.core s.here).ring j).tiles)
    (hst : (s.core s.here).stopped = false) (hnl : ((s.core s.here).ring r.toNat).nl = 0)
    (hnh : ((s.core s.here).ring r.toNat).nh = 0) :
    ∃ t, exec (.ringdef a r) s = .next t ∧ s.MatFrame t ∧ t.mem = s.mem ∧
      ∀ j, j < 4 → (t.core s.here).ring j = if j = r.toNat then x else (s.core s.here).ring j := by
  obtain ⟨w, hw⟩ : ∃ w, MatWord (.ringdef a r) w := matWord fun _ => rfl
  have hshares : ((List.range 4).any fun j =>
      j != r.toNat && ((s.core s.here).ring j).tiles.any x.tiles.contains) = false := by
    refine List.any_eq_false.mpr fun j hj hbad => ?_
    obtain ⟨hne, hin⟩ := (Bool.and_eq_true _ _).mp hbad
    obtain ⟨y, hy, hmem⟩ := List.any_eq_true.mp hin
    obtain ⟨i, hi, rfl⟩ := List.mem_map.mp (List.contains_iff_mem.mp hmem)
    exact hshare j i (List.mem_range.mp hj) (bne_iff_ne.mp hne) (List.mem_range.mp hi) hy
  have he : matEffect (s.unitOp (.ringdef a r) w false) (s.matTaken (.ringdef a r) w) =
      .done (((s.matTaken (.ringdef a r) w).modCore s.here fun k => k.modRing r.toNat fun _ => x).offer s.here) := by
    show ringdefBody (s.unitOp (.ringdef a r) w false) r.toNat _ = _
    have hop : (s.unitOp (.ringdef a r) w false).a.toNat = n := hn.symm
    have hf : field n 7 6 ≠ 3 := by simpa only [hx] using hfwd
    have hl : ¬16 < field n 12 8 := by simpa only [hx, not_lt] using hlen
    have hz : (decide (field n 12 8 = 0) && n != 0) = false := by
      simpa only [hx, Bool.and_eq_false_imp, decide_eq_true_eq, bne_eq_false_iff_eq] using hzero
    simp only [ringdefBody, hop, ← hx, matTaken_here, matTaken_core, busy_ring, busy_stopped, hbits, hst, hnl, hnh,
      hshares, hf, hl, hz, bne_self_eq_false, decide_false, Bool.or_self, Bool.false_and, Bool.false_eq_true, if_false]
  have hslots : (s.matTaken (.ringdef a r) w).SlotsOnly
      (((s.matTaken (.ringdef a r) w).modCore s.here fun k => k.modRing r.toNat fun _ => x).offer s.here) :=
    (State.SlotsOnly.modCore _ _ fun _ => rfl).trans (.offer ..)
  obtain ⟨t, ht, hend⟩ := matCompletes h hw he hslots.unitKeeps
  refine ⟨t, ht, hend.frame, ?_, fun j hj => ?_⟩
  · rw [hend.mem, hslots.mem, matTaken_mem]
  · rw [hend.core, offer_core, core_modCore_same, matTaken_core, freed_ring]
    split
    next hj' => rw [hj', ring_modRing_same]
    next hj' => rw [ring_modRing_other _ _ hr hj hj', busy_ring]

/-! ## MRECT (R263) -/

section
variable {s : State} {a : BitVec 5}

/-- A word whose effect is another rectangle. -/
theorem exec_mrect {v : BitVec 33} (h : s.MatrixReady (.mrect a))
    (he : ∀ w, mrectBody (s.unitOp (.mrect a) w false) (s.matTaken (.mrect a) w) =
      .done ((s.matTaken (.mrect a) w).modCore s.here fun k => { k with mrect := v })) :
    ∃ t, exec (.mrect a) s = .next t ∧ s.MatFrame t ∧ t.mem = s.mem ∧ (t.core s.here).mrect = v := by
  obtain ⟨w, hw⟩ : ∃ w, MatWord (.mrect a) w := matWord fun _ => rfl
  obtain ⟨t, ht, hframe, hmem, -, hcore⟩ := matChanges h hw (he w)
  refine ⟨t, ht, hframe, hmem, ?_⟩
  rw [hcore]
  rfl

theorem mrect_cleared (m : BitVec 33) : BitVec.ofNat 33 (field m.toNat 31 0) = m &&& 0xFFFFFFFF#33 := by
  refine BitVec.eq_of_toNat_eq ?_
  have hmask : m.toNat &&& (2 ^ 32 - 1) = m.toNat % 2 ^ 32 := Nat.and_two_pow_sub_one_eq_mod ..
  simp only [field, BitVec.toNat_ofNat, BitVec.toNat_and, Nat.shiftRight_zero]
  norm_num at hmask ⊢
  omega

theorem mrect_set (q : Word) : BitVec.ofNat 33 (2 ^ 32 + field q.toNat 31 0) = 1#1 ++ q.extractLsb' 0 32 := by
  refine BitVec.eq_of_toNat_eq ?_
  have hlt := (q.extractLsb' 0 32).isLt
  have hf : field q.toNat 31 0 = (q.extractLsb' 0 32).toNat := field_eq_extractLsb' q 31 0
  rw [BitVec.toNat_append, ← Nat.shiftLeft_add_eq_or_of_lt hlt, BitVec.toNat_ofNat, hf, Nat.mod_eq_of_lt (by omega)]
  rfl

/-- MRECT of 0. -/
theorem exec_mrect_zero (h : s.MatrixReady (.mrect a)) (h0 : s.g a = 0) :
    ∃ t, exec (.mrect a) s = .next t ∧ s.MatFrame t ∧ t.mem = s.mem ∧
      (t.core s.here).mrect = (s.core s.here).mrect &&& 0xFFFFFFFF#33 := by
  refine exec_mrect h fun w => ?_
  have hop : (s.unitOp (.mrect a) w false).a.toNat = 0 := congrArg BitVec.toNat h0
  simp only [mrectBody, hop, if_true, matTaken_here]
  refine congrArg Res.done (modCore_congr ?_)
  rw [matTaken_core, ← mrect_cleared]
  rfl

/-- A rectangle by its bounds. -/
theorem rect_fields {q : Word} {x0 y0 x1 y1 : Nat} (hq : q.toNat = x0 + 256 * y0 + 65536 * x1 + 16777216 * y1)
    (hx0 : x0 < 256) (hy0 : y0 < 256) (hx1 : x1 ≤ 239) (hy1 : y1 ≤ 239) :
    field q.toNat 7 0 = x0 ∧ field q.toNat 15 8 = y0 ∧ field q.toNat 23 16 = x1 ∧ field q.toNat 31 24 = y1 ∧
      q.extractLsb' 40 24 = 0 ∧ scopeKind q = 0 := by
  have hhigh : q.extractLsb' 40 24 = 0 := by
    refine BitVec.eq_of_toNat_eq ?_
    simp only [BitVec.extractLsb'_toNat, hq, Nat.shiftRight_eq_div_pow]
    simp
    omega
  have hkind : scopeKind q = 0 := by
    simp only [scopeKind, BitVec.extractLsb'_toNat, hq, Nat.shiftRight_eq_div_pow]
    omega
  refine ⟨?_, ?_, ?_, ?_, hhigh, hkind⟩
  all_goals
    rw [hq]
    simp only [field, Nat.shiftRight_eq_div_pow]
    omega

/-- MRECT of a rectangle that contains the core, in quads of its function. -/
theorem exec_mrect_rect {x0 y0 x1 y1 : Nat} (h : s.MatrixReady (.mrect a)) (h0 : s.g a ≠ 0)
    (hq : s.gn a = x0 + 256 * y0 + 65536 * x1 + 16777216 * y1) (hx0 : x0 < 256) (hy0 : y0 < 256) (hx1 : x1 ≤ 239)
    (hy1 : y1 ≤ 239) (hxl : x0 ≤ xOf s.here) (hxr : xOf s.here ≤ x1) (hyl : y0 ≤ yOf s.here) (hyr : yOf s.here ≤ y1)
    (hquads : ∀ i j, x0 / 2 ≤ i → i ≤ x1 / 2 → y0 / 2 ≤ j → j ≤ y1 / 2 →
      s.holder (j * 120 + i) = some s.me.fn) :
    ∃ t, exec (.mrect a) s = .next t ∧ s.MatFrame t ∧ t.mem = s.mem ∧
      (t.core s.here).mrect = 1#1 ++ (s.g a).extractLsb' 0 32 := by
  refine exec_mrect h fun w => ?_
  obtain ⟨fx0, fy0, fx1, fy1, hhigh, hkind⟩ := rect_fields hq hx0 hy0 hx1 hy1
  have hop : (s.unitOp (.mrect a) w false).a = s.g a := rfl
  have hne : (s.g a).toNat ≠ 0 := fun e => h0 (BitVec.eq_of_toNat_eq e)
  have hvalid : scopeValid (s.g a) = true := by
    simp only [scopeValid, hhigh, hkind, fx0, fy0, fx1, fy1]
    simp
    omega
  have hhold : (((List.range (x1 / 2 - x0 / 2 + 1)).flatMap fun i => (List.range (y1 / 2 - y0 / 2 + 1)).map fun j =>
      (y0 / 2 + j) * 120 + x0 / 2 + i).any fun q => s.holder q != some s.me.fn) = false := by
    refine List.any_eq_false.mpr fun q hq hbad => ?_
    obtain ⟨i, hi, hq⟩ := List.mem_flatMap.mp hq
    obtain ⟨j, hj, rfl⟩ := List.mem_map.mp hq
    have hi' := List.mem_range.mp hi
    have hj' := List.mem_range.mp hj
    have := hquads (x0 / 2 + i) (y0 / 2 + j) (by omega) (by omega) (by omega) (by omega)
    rw [← Nat.add_assoc] at this
    exact bne_iff_ne.mp hbad this
  simp only [mrectBody, hop, hne, matTaken_here, matTaken_holder, matTaken_me, hvalid, hkind, fx0, fy0, fx1, fy1, hhold,
    hxl, hxr, hyl, hyr, mrect_set, decide_true, Bool.and_self, Bool.not_true, bne_self_eq_false, Bool.or_self,
    Bool.false_eq_true, if_false]

end

/-! ## MSTAT (R247) -/

/-- A bit of a word, from its number. -/
theorem getLsbD_of_div {x i : Nat} {b : Bool} (hi : i < 64) (h : x / 2 ^ i % 2 = bit b) :
    (BitVec.ofNat 64 x).getLsbD i = b := by
  rw [BitVec.getLsbD_ofNat, Nat.testBit_eq_decide_div_mod_eq, h, decide_eq_true hi, Bool.true_and]
  cases b <;> rfl

/-- Bits of a word, from its number. -/
theorem extract_of_div {x lo n y : Nat} (hi : lo + n ≤ 64) (h : x / 2 ^ lo % 2 ^ n = y) :
    ((BitVec.ofNat 64 x).extractLsb' lo n).toNat = y := by
  rw [BitVec.extractLsb'_toNat, BitVec.toNat_ofNat, Nat.shiftRight_eq_div_pow, field_mod _ hi, h]

/-- The fields of a number of the status word's layout. -/
theorem status_layout {v p u f c t a b s e n : Nat} (hv : v ≤ 1) (hp : p ≤ 1) (hu : u ≤ 1) (hf : f ≤ 1) (hc : c < 16)
    (ht : t < 16) (ha : a < 4) (hb : b < 4) (hs : s ≤ 1) (he : e ≤ 1) (hn : n < 65536) : ∀ x,
    x = v * 2 ^ 63 + p * 2 ^ 62 + u * 2 ^ 61 + f * 2 ^ 60 + c * 2 ^ 56 + t * 2 ^ 52 + a * 2 ^ 50 + b * 2 ^ 48 +
      s * 2 ^ 47 + e * 2 ^ 16 + n →
    x / 2 ^ 63 % 2 = v ∧ x / 2 ^ 62 % 2 = p ∧ x / 2 ^ 60 % 2 = f ∧ x / 2 ^ 61 % 2 = u ∧ x / 2 ^ 47 % 2 = s ∧
      x / 2 ^ 16 % 2 = e ∧ x / 2 ^ 56 % 2 ^ 4 = c ∧ x / 2 ^ 52 % 2 ^ 4 = t ∧ x / 2 ^ 50 % 2 ^ 2 = a ∧
      x / 2 ^ 48 % 2 ^ 2 = b ∧ x / 2 ^ 0 % 2 ^ 16 = n := by
  rintro x rfl
  refine ⟨?_, ?_, ?_, ?_, ?_, ?_, ?_, ?_, ?_, ?_, ?_⟩ <;> omega

theorem bit_le (b : Bool) : bit b ≤ 1 := by cases b <;> decide

/-- The status word by its fields. -/
theorem mstat_fields (k : Core) : ∀ v : Word, v = BitVec.ofNat 64 k.mstat →
    v.getLsbD 63 = k.mrec.v ∧ v.getLsbD 62 = k.accPois ∧ v.getLsbD 60 = k.fref ∧
    v.getLsbD 61 = (k.munit.isSome || k.mop.isSome || k.mq != []) ∧ v.getLsbD 47 = k.mrec.sparse ∧
    v.getLsbD 16 = k.mrec.acce ∧ (v.extractLsb' 56 4).toNat = k.mrec.cause % 16 ∧
    (v.extractLsb' 52 4).toNat = k.mrec.tile % 16 ∧ (v.extractLsb' 50 2).toNat = k.mrec.ra % 4 ∧
    (v.extractLsb' 48 2).toNat = k.mrec.rb % 4 ∧ (v.extractLsb' 0 16).toNat = k.mrec.chunk % 65536 := by
  rintro v rfl
  obtain ⟨hv, hp, hf, hu, hs, he, hc, ht, ha, hb, hn⟩ := status_layout (bit_le k.mrec.v) (bit_le k.accPois)
    (bit_le (k.munit.isSome || k.mop.isSome || k.mq != [])) (bit_le k.fref) (Nat.mod_lt k.mrec.cause (by decide))
    (Nat.mod_lt k.mrec.tile (by decide)) (Nat.mod_lt k.mrec.ra (by decide)) (Nat.mod_lt k.mrec.rb (by decide))
    (bit_le k.mrec.sparse) (bit_le k.mrec.acce) (Nat.mod_lt k.mrec.chunk (by decide)) k.mstat
    (by simp only [Core.mstat, Nat.shiftLeft_eq])
  exact ⟨getLsbD_of_div (by decide) hv, getLsbD_of_div (by decide) hp, getLsbD_of_div (by decide) hf,
    getLsbD_of_div (by decide) hu, getLsbD_of_div (by decide) hs, getLsbD_of_div (by decide) he,
    extract_of_div (by decide) hc, extract_of_div (by decide) ht, extract_of_div (by decide) ha,
    extract_of_div (by decide) hb, extract_of_div (by decide) hn⟩

theorem exec_mstat {s : State} (h : s.Plain) (d : BitVec 5) : ∃ t, exec (.mstat d) s = .next t ∧ s.elsewhere t ∧
    (t.thr s.cur).pc = s.me.pc + 4 ∧
    (d ≠ 0 → (t.thr s.cur).reg d.toNat = BitVec.ofNat 64 (s.core s.here).mstat) := by
  refine ⟨_, exec_of_runG h rfl, elsewhere_after_modMe .., ?_, fun hd => ?_⟩
  · rw [State.setG, thr_after_modMe]
    rfl
  · have hd' : d.toNat ≠ 0 := fun e => hd (BitVec.eq_of_toNat_eq e)
    rw [State.setG, thr_after_modMe, reg_complete, reg_put, if_pos ⟨rfl, hd'⟩]

/-! ## MCANCEL (R263) -/

section
variable {s : State} {c : Nat}

/-- The record's chunk has been consumed from both its rings. -/
def State.recordDrained (s : State) (c : Nat) : State :=
  (s.consumeSlots c (s.core c).mrec.ra ((s.core c).chunkSlots (s.core c).mrec.ra)).consumeSlots c (s.core c).mrec.rb
    ((s.core c).chunkSlots (s.core c).mrec.rb)

/-- FREF is clear and no record is left. -/
def Core.recordless (k : Core) : Core := { k with fref := false, mrec := {} }

/-- The record has been discarded, and with cause 3 the sub-tile poisoned. -/
def State.cancelled (s : State) (c : Nat) (drain : Bool) : State :=
  let t := (if drain then s.recordDrained c else s).modCore c fun k => k.recordless
  if (s.core c).mrec.cause = 3 then { t with poison := (wordsOf (t.accAddr c) 4096).foldl keyAdd t.poison } else t

theorem mcancelBody_stopped {o : UnitOp} {drain : Bool} (hst : (s.core s.here).stopped = true)
    (hfull : drain = true → ∀ r, r = (s.core s.here).mrec.ra ∨ r = (s.core s.here).mrec.rb →
      (s.core s.here).chunkFull r = true ∧ (s.core s.here).evenFor r ((s.core s.here).chunkSlots r) = true) :
    mcancelBody o drain s = .done (s.cancelled s.here drain) := by
  cases drain with
  | false =>
    simp only [mcancelBody, State.cancelled, Core.recordless, hst, Bool.not_true, Bool.false_and, Bool.false_eq_true,
      if_false]
  | true =>
    obtain ⟨hfa, hea⟩ := hfull rfl _ (.inl rfl)
    obtain ⟨hfb, heb⟩ := hfull rfl _ (.inr rfl)
    simp only [mcancelBody, State.cancelled, State.recordDrained, Core.recordless, hst, hfa, hfb, hea, heb, Bool.and_self,
      Bool.not_true, Bool.and_false, Bool.false_eq_true, if_false, if_true]

theorem recordDrained_slots (s : State) (c : Nat) : s.SlotsOnly (s.recordDrained c) :=
  (State.SlotsOnly.consumeSlots ..).trans (.consumeSlots ..)

/-- Both rings of the record have moved by their chunk. -/
theorem recordDrained_rings {a b : Nat} (ha : a < 4) (hb : b < 4) (hne : a ≠ b) (hra : a = (s.core c).mrec.ra)
    (hrb : b = (s.core c).mrec.rb) : ∀ r, r = a ∨ r = b →
      (((s.recordDrained c).core c).ring r).nf = ((s.core c).ring r).nf - (s.core c).chunkSlots r ∧
      (((s.recordDrained c).core c).ring r).ci =
        (((s.core c).ring r).ci + (s.core c).chunkSlots r) % ((s.core c).ring r).len := by
  subst hra hrb
  obtain ⟨⟨fi, nh, hfirst⟩, hkeep⟩ := consumeSlots_rings ha s c ((s.core c).chunkSlots (s.core c).mrec.ra)
  obtain ⟨⟨fi', nh', hsecond⟩, hkeep'⟩ := consumeSlots_rings hb
    (s.consumeSlots c (s.core c).mrec.ra ((s.core c).chunkSlots (s.core c).mrec.ra)) c
    ((s.core c).chunkSlots (s.core c).mrec.rb)
  rintro r (rfl | rfl)
  · rw [State.recordDrained, hkeep' _ ha hne, hfirst]
    exact ⟨rfl, rfl⟩
  · rw [State.recordDrained, hsecond, hkeep _ hb hne.symm]
    exact ⟨rfl, rfl⟩

/-- The machine whose record's chunk has been consumed, where the drain form asks for it. -/
theorem maybeDrained_slots (s : State) (c : Nat) (drain : Bool) :
    s.SlotsOnly (if drain then s.recordDrained c else s) := by
  split
  · exact recordDrained_slots s c
  · exact .refl s

theorem cancelled_def (s : State) (c : Nat) (drain : Bool) : ∃ p, s.cancelled c drain =
    { (if drain then s.recordDrained c else s).modCore c Core.recordless with
      poison := p } := by
  simp only [State.cancelled]
  split <;> exact ⟨_, rfl⟩

/-- What a cancelled record leaves. -/
theorem cancelled_keeps (s : State) (drain : Bool) :
    s.UnitKeeps (s.cancelled s.here drain) ∧ (s.cancelled s.here drain).mem = s.mem ∧
      (s.cancelled s.here drain).core s.here =
        ((if drain then s.recordDrained s.here else s).core s.here).recordless := by
  have hslots := maybeDrained_slots s s.here drain
  obtain ⟨p, hp⟩ := cancelled_def s s.here drain
  rw [hp]
  have hmod := hslots.unitKeeps.trans (.modCore _ s.here (f := Core.recordless) (fun _ => rfl) fun _ => rfl)
  exact ⟨hmod.trans (.of_same (fun _ => rfl) rfl rfl), hslots.mem, core_modCore_same _ s.here Core.recordless⟩

theorem mem_foldl_keyAdd {x : Nat} {ks : List Nat} (h : x ∈ ks) (l : List Nat) : x ∈ ks.foldl keyAdd l := by
  induction ks generalizing l with
  | nil => cases h
  | cons k ks ih =>
    by_cases hx : x ∈ ks
    · exact ih hx _
    · obtain rfl | hx' := List.mem_cons.mp h
      · have hkeep (ks l : List Nat) (hl : x ∈ l) : x ∈ ks.foldl keyAdd l :=
          List.foldlRecOn (motive := (x ∈ ·)) ks keyAdd hl fun _ hb _ _ => mem_keyAdd.mpr (.inr hb)
        exact hkeep ks _ (mem_keyAdd.mpr (.inl rfl))
      · exact absurd hx' hx

/-- A record of cause 3 leaves its sub-tile poisoned. -/
theorem cancelled_poisoned (s : State) (drain : Bool) (h : (s.core s.here).mrec.cause = 3) :
    (s.cancelled s.here drain).poisoned (s.accAddr s.here) 4096 = true := by
  have hslots := maybeDrained_slots s s.here drain
  have haddr : ((if drain then s.recordDrained s.here else s).modCore s.here Core.recordless).accAddr s.here =
      s.accAddr s.here := by
    obtain ⟨rs, fs, hcore⟩ := hslots.core s.here
    rw [State.accAddr, core_modCore_same, hcore, State.accAddr]
    rfl
  have hword : s.accAddr s.here / 8 * 8 ∈ wordsOf (s.accAddr s.here) 4096 := by
    rw [wordsOf, if_neg (by decide)]
    exact List.mem_map.mpr ⟨0, List.mem_range.mpr (Nat.succ_pos _), rfl⟩
  simp only [State.cancelled, h, if_true, haddr, State.poisoned]
  exact List.any_eq_true.mpr ⟨_, hword, List.contains_iff_mem.mpr (mem_foldl_keyAdd hword _)⟩

/-- MCANCEL where no operation is stopped. -/
theorem mcancelBody_idle {o : UnitOp} {drain : Bool} (hst : (s.core s.here).stopped = false) :
    mcancelBody o drain s = .done (s.modCore s.here fun k => { k with fref := false }) := by
  simp only [mcancelBody, hst, Bool.not_false, if_true]

end

section
variable {s : State} {i : Instr} {drain : Bool}

theorem mcancel_word (hi : i = if drain then .mcancelDrain else .mcancel) : ∃ w, MatWord i w ∧
    matEffect (s.unitOp i w false) (s.matTaken i w) = mcancelBody (s.unitOp i w false) drain (s.matTaken i w) := by
  cases drain with
  | false =>
    subst hi
    obtain ⟨w, hw⟩ : ∃ w, MatWord .mcancel w := matWord fun _ => rfl
    exact ⟨w, hw, rfl⟩
  | true =>
    subst hi
    obtain ⟨w, hw⟩ : ∃ w, MatWord .mcancelDrain w := matWord fun _ => rfl
    exact ⟨w, hw, rfl⟩

theorem exec_mcancel_idle (hi : i = if drain then .mcancelDrain else .mcancel) (h : s.MatrixReady i)
    (hst : (s.core s.here).stopped = false) : ∃ t, exec i s = .next t ∧ s.MatFrame t ∧ t.mem = s.mem ∧
      (t.core s.here).fref = false ∧ (t.core s.here).mrec = (s.core s.here).mrec ∧
      (t.core s.here).rings = (s.core s.here).rings := by
  obtain ⟨w, hw, he⟩ := mcancel_word (s := s) hi
  rw [mcancelBody_idle (by rw [matTaken_here, matTaken_core]; exact hst), matTaken_here] at he
  obtain ⟨t, ht, hframe, hmem, -, hcore⟩ := matChanges h hw he
  refine ⟨t, ht, hframe, hmem, ?_⟩
  rw [hcore]
  exact ⟨rfl, rfl, rfl⟩

theorem exec_mcancel_stopped (hi : i = if drain then .mcancelDrain else .mcancel) (h : s.MatrixReady i)
    (hst : (s.core s.here).stopped = true)
    (hfull : drain = true → ∀ r, r = (s.core s.here).mrec.ra ∨ r = (s.core s.here).mrec.rb →
      (s.core s.here).chunkFull r = true ∧ (s.core s.here).evenFor r ((s.core s.here).chunkSlots r) = true) :
    ∃ t w, exec i s = .next t ∧ s.MatFrame t ∧ t.mem = s.mem ∧ (t.core s.here).fref = false ∧
      (t.core s.here).mrec = {} ∧
      ((s.core s.here).mrec.cause = 3 → t.poisoned (s.accAddr s.here) 4096 = true) ∧
      (t.core s.here).rings =
        ((if drain then (s.matTaken i w).recordDrained s.here else s.matTaken i w).core s.here).rings := by
  obtain ⟨w, hw, he⟩ := mcancel_word (s := s) hi
  rw [mcancelBody_stopped (by rw [matTaken_here, matTaken_core]; exact hst)
    (by rw [matTaken_here, matTaken_core]; exact hfull)] at he
  obtain ⟨hkeep, hmem, hcore⟩ := cancelled_keeps (s.matTaken i w) drain
  obtain ⟨t, ht, hend⟩ := matCompletes h hw he hkeep
  rw [matTaken_here] at hcore hmem
  refine ⟨t, w, ht, hend.frame, ?_, ?_, ?_, fun hc => ?_, ?_⟩
  · rw [hend.mem, matTaken_here, hmem, matTaken_mem]
  · rw [hend.core, matTaken_here, hcore]
    rfl
  · rw [hend.core, matTaken_here, hcore]
    rfl
  · have hp := cancelled_poisoned (s.matTaken i w) drain (by rw [matTaken_here, matTaken_core]; exact hc)
    rw [State.poisoned, hend.poison]
    rw [matTaken_here, matTaken_accAddr] at hp
    rwa [matTaken_here]
  · rw [hend.core, matTaken_here, hcore]
    rfl

end

theorem ring_congr {k k' : Core} (h : k.rings = k'.rings) (r : Nat) : k.ring r = k'.ring r := by
  rw [Core.ring, h, Core.ring]

theorem taken_recordDrained_rings {s : State} {i : Instr} {w : Half} {a b : Nat} (ha : a < 4) (hb : b < 4) (hne : a ≠ b)
    (hra : a = (s.core s.here).mrec.ra) (hrb : b = (s.core s.here).mrec.rb) : ∀ r, r = a ∨ r = b →
      ((((s.matTaken i w).recordDrained s.here).core s.here).ring r).nf =
        ((s.core s.here).ring r).nf - (s.core s.here).chunkSlots r ∧
      ((((s.matTaken i w).recordDrained s.here).core s.here).ring r).ci =
        (((s.core s.here).ring r).ci + (s.core s.here).chunkSlots r) % ((s.core s.here).ring r).len := by
  have h := recordDrained_rings (s := s.matTaken i w) (c := s.here) ha hb hne (by rw [matTaken_core]; exact hra)
    (by rw [matTaken_core]; exact hrb)
  rw [matTaken_core] at h
  exact h

/-- MCANCEL, and its drain form where both chunks are FULL. -/
theorem exec_mcancel {s : State} {i : Instr} (hi : i = .mcancel ∨ i = .mcancelDrain) (h : s.MatrixReady i)
    (hfull : i = .mcancelDrain → (s.core s.here).stopped = true →
      ∀ r, r = (s.core s.here).mrec.ra ∨ r = (s.core s.here).mrec.rb →
        (s.core s.here).chunkFull r = true ∧ (s.core s.here).evenFor r ((s.core s.here).chunkSlots r) = true) :
    ∃ t, exec i s = .next t ∧ s.MatFrame t ∧ t.mem = s.mem ∧ (t.core s.here).fref = false ∧
      (t.core s.here).mrec = (if (s.core s.here).stopped then {} else (s.core s.here).mrec) ∧
      ((s.core s.here).stopped = true → (s.core s.here).mrec.cause = 3 → s.poison = [] →
        t.poisoned (s.accAddr s.here) 4096 = true) ∧
      (i = .mcancelDrain → (s.core s.here).stopped = true → (s.core s.here).mrec.ra < 4 → (s.core s.here).mrec.rb < 4 →
        (s.core s.here).mrec.ra ≠ (s.core s.here).mrec.rb →
        ∀ r, r = (s.core s.here).mrec.ra ∨ r = (s.core s.here).mrec.rb →
          ((t.core s.here).ring r).nf = ((s.core s.here).ring r).nf - (s.core s.here).chunkSlots r ∧
          ((t.core s.here).ring r).ci =
            (((s.core s.here).ring r).ci + (s.core s.here).chunkSlots r) % ((s.core s.here).ring r).len) ∧
      (i = .mcancel ∨ (s.core s.here).stopped = false → ∀ r, r < 4 → (t.core s.here).ring r = (s.core s.here).ring r) := by
  obtain ⟨drain, hdrain, hiff⟩ : ∃ drain : Bool, i = (if drain then .mcancelDrain else .mcancel) ∧
      (drain = true ↔ i = .mcancelDrain) := by
    obtain rfl | rfl := hi
    · exact ⟨false, rfl, by simp⟩
    · exact ⟨true, rfl, by simp⟩
  cases hst : (s.core s.here).stopped with
  | false =>
    obtain ⟨t, ht, hframe, hmem, hfref, hrec, hrings⟩ := exec_mcancel_idle hdrain h hst
    exact ⟨t, ht, hframe, hmem, hfref, hrec, nofun, fun _ => nofun, fun _ r _ => ring_congr hrings r⟩
  | true =>
    obtain ⟨t, w, ht, hframe, hmem, hfref, hrec, hpois, hrings⟩ :=
      exec_mcancel_stopped hdrain h hst fun hd => hfull (hiff.mp hd) hst
    refine ⟨t, ht, hframe, hmem, hfref, hrec, fun _ hc _ => hpois hc, fun hd _ ha hb hne r hr => ?_, fun hno r _ => ?_⟩
    · rw [hiff.mpr hd, if_pos rfl] at hrings
      rw [ring_congr hrings]
      exact taken_recordDrained_rings ha hb hne rfl rfl r hr
    · have hfalse : drain = false := by
        obtain hm | hs := hno
        · exact Bool.eq_false_iff.mpr fun hd => by rw [hiff.mp hd] at hm; exact Instr.noConfusion hm
        · exact absurd hs (by decide)
      rw [hfalse] at hrings
      rw [ring_congr hrings, if_neg Bool.false_ne_true, matTaken_core, busy_ring]

/-- Settles O38: control instructions act where nothing waits, and the record and rectangle change as the unit says. -/
theorem ringsAndMatrixControl : Obligations.RingsAndMatrixControl := by
  unfold Obligations.RingsAndMatrixControl
  refine ⟨?_, fun g n slot h => ⟨claim_inStep h n, claim_nl g n, filled_inStep h slot n, filled_count g slot n,
    consume_inStep h⟩, ?_⟩
  · rintro s a r d k g n rfl hr rfl rfl
    refine ⟨?_, fun h hlen hfull => exec_twait h hlen hfull, ?_, ?_, ?_⟩
    · rintro x rfl h hbits hfwd hlen hzero hshare hst hnl hnh
      exact exec_ringdef h rfl hr rfl hbits hfwd hlen hzero hshare hst hnl hnh
    · intro h hn hlen hroom hctrl hpend hstep
      refine ⟨_, exec_tadv h hn hlen hctrl hroom, after_noCtrl_elsewhere .., ?_, fun j hj => ?_⟩
      · rw [after_thr]
        rfl
      · rw [after_core, core_modCore_same, noCtrl_core]
        split
        next hjr => rw [hjr, ring_modRing_same, ← fill_ready hpend hstep]; rfl
        next hjr => rw [ring_modRing_other _ _ hr hj hjr]; rfl
    · exact fun h hn hlen hfull hctrl hodd => exec_tfree_odd h hn hlen hctrl hfull hodd
    · intro h hn hlen hfull hctrl heven
      obtain ⟨hmem, hthr⟩ := after_consumeSlots s r.toNat (s.gn a)
      refine ⟨_, exec_tfree_even h hn hlen hctrl hfull heven, hmem, ?_, ?_, tfree_rings hr (s.gn a) s⟩
      · rw [hthr]; rfl
      · rw [hthr]; rfl
  · rintro s a d k rfl
    refine ⟨exec_mrect_zero, fun x0 y0 x1 y1 h h0 hq hx0 hy0 hx1 hy1 hxl hxr hyl hyr hquads =>
      exec_mrect_rect h h0 hq hx0 hy0 hx1 hy1 hxl hxr hyl hyr hquads, fun h => ?_, fun i hi h hfull => ?_⟩
    · obtain ⟨t, ht, helse, hpc, hreg⟩ := exec_mstat h d
      exact ⟨t, ht, helse, hpc, fun hd v hv => mstat_fields _ v (hv.trans (hreg hd))⟩
    · exact exec_mcancel hi h hfull

end Sys2Proof.Machine
end

section
/-! SUPPORT. Tiles on their way: arrivals, forwards and the end of a TSEND; a held operation goes on
(R235, R237, R245, R262). -/

namespace Sys2Proof.Machine

/-- Arrivals that nothing waits with are not offered. -/
theorem offer_none {s : State} {c : Nat} (h : (s.core c).arrivals = []) : s.offer c = s := if_pos h

/-- Traffic to a context that is here and has nothing held acts now. -/
theorem gate_open {s : State} {c : Nat} (ha : (s.core c).away = false) (hh : (s.core c).place.held = []) (ev : Instr)
    (src payer : Option Nat) : s.gate c ev src payer = (true, s) := by
  simp only [State.gate, ha, hh, Bool.false_eq_true, if_false]

section
variable {s : State} {c : Nat} (hc : validCore c = true) (ha : (s.core c).away = false)
include hc ha

/-! ## TMMAS_RESUME (R245) -/

theorem tmmasResume_goes {m : MatOp} (hm : (s.core c).mop = some m) (hh : m.held ≠ 0)
    (hl : (s.core c).leaving = false) (hg : (s.core c).ganged = false) (hb : (s.fn m.fn).boundary = false) :
    ∃ t, exec (.tmmasResume c) s = .next t ∧ t.mem = s.mem ∧ t.threads = s.threads ∧
      (t.core c).mop = some { m with held := 0, fmts := none } ∧ (t.core c).mrec = {} ∧ .tmmasChunk c ∈ t.agenda := by
  show ∃ t, execTmmasResume c s = .next t ∧ _
  simp only [execTmmasResume, eventIf_pos hc, hm, hh, ha, hl, hg, hb, Bool.or_self, Bool.false_and, Bool.false_eq_true,
    if_false]
  refine ⟨_, rfl, by simp, by simp, ?_, ?_, mem_dueOnce_agenda.mpr (.inr rfl)⟩ <;> simp

/-! ## TSEND_ACCEPT (R262, R309) -/

end

theorem tsendAccept_exec {s : State} {n : Nat} (hn : validThread n = true) (ha : (s.core (coreOf n)).away = false)
    (hh : (s.core (coreOf n)).place.held = []) (e : Nat) : exec (.tsendAccept n e) s = .next
      (if (s.thr n).gen.toNat = e && (s.thr n).flyHold == .remote then s.answerOp n true .ok
      else if (s.thr n).gen.toNat = e && (s.thr n).st = .parked .remote then s.answerOp n false .ok
      else s.staleReply n e) := by
  show execTsendAccept n e s = _
  simp only [execTsendAccept, eventIf_pos hn, State.toCore, gate_open ha hh, if_true]

theorem answerOp_parked_mem {s : State} {n : Nat} (hf : (s.thr n).op.fetch = false) (r : Reply) :
    (s.answerOp n false r).mem = s.mem := by
  simp only [State.answerOp, hf, Bool.false_eq_true, if_false, modThr_mem]

theorem tsendAccept_resumes {s : State} {n e : Nat} (hn : validThread n = true)
    (ha : (s.core (coreOf n)).away = false) (hh : (s.core (coreOf n)).place.held = [])
    (hg : (s.thr n).gen.toNat = e) (hfly : (s.thr n).flyHold ≠ .remote) (hst : (s.thr n).st = .parked .remote)
    (hf : (s.thr n).op.fetch = false) :
    ∃ t, exec (.tsendAccept n e) s = .next t ∧ t.mem = s.mem ∧ (t.thr n).st = .run ∧ (t.thr n).op.reply = .ok ∧
      (t.thr n).g = (s.thr n).g ∧ (t.thr n).pc = (s.thr n).pc := by
  have hthr := answerOp_parked hst hf .ok
  have hexec : exec (.tsendAccept n e) s = .next (s.answerOp n false .ok) := by
    rw [tsendAccept_exec hn ha hh]
    simp only [hg, hst, beq_false_of_ne hfly, decide_true, Bool.and_false, Bool.and_self, Bool.false_eq_true, if_false,
      if_true]
  refine ⟨_, hexec, answerOp_parked_mem hf .ok, ?_⟩
  rw [hthr]
  exact ⟨rfl, rfl, rfl, rfl⟩

theorem tsendAccept_stale {s : State} {n e : Nat} (hn : validThread n = true) (ha : (s.core (coreOf n)).away = false)
    (hh : (s.core (coreOf n)).place.held = []) (hg : (s.thr n).gen.toNat ≠ e) :
    ∃ t, exec (.tsendAccept n e) s = .next t ∧ t.mem = s.mem ∧
      (t.core (coreOf n)).stalereply = (s.core (coreOf n)).stalereply + 1 ∧
      t.thr n = { s.thr n with unanswered := (s.thr n).unanswered.filter fun u => u.1 != e } ∧
      ∀ m, m ≠ n → t.thr m = s.thr m := by
  have hexec : exec (.tsendAccept n e) s = .next (s.staleReply n e) := by
    rw [tsendAccept_exec hn ha hh]
    simp only [hg, decide_false, Bool.false_and, Bool.false_eq_true, if_false]
  refine ⟨_, hexec, rfl, ?_, ?_, fun m hm => ?_⟩
  · rw [State.staleReply, State.stale, core_modCore_same]
    rfl
  · rw [State.staleReply, State.stale, modCore_thr, thr_modThr_same]
  · rw [State.staleReply, State.stale, modCore_thr, thr_modThr_other _ _ hm]

/-! ## Arrivals (R235) -/

/-- The machine without the arrivals of a core. -/
def State.noArrivals (s : State) (c : Nat) : State := s.modCore c fun k => { k with arrivals := [] }

theorem noArrivals_core (s : State) (c : Nat) : (s.noArrivals c).core c = { s.core c with arrivals := [] } :=
  core_modCore_same ..

/-- The end of a TSEND's tile is told to its thread, or its refusal. -/
theorem arrived_sent (s : State) (c : Nat) {a : Arrival} (h : a.forward = false) :
    s.arrived c a false = s.due (.tsendAccept a.thread a.gen) ∧
      s.arrived c a true = s.launchItem (.answer a.thread a.gen
        (.trap { code := cSeg, detail := 3, tval := BitVec.ofNat 64 c }) ((s.thr a.thread).flyHold == .remote) s.cycle)
        true := by
  simp only [State.arrived, h, Bool.false_eq_true, if_false, if_true, true_and]

/-! ## FORWARD_ACCEPT (R237) -/

/-- A tile leaves for another core: what its way and its charges leave as they were. -/
theorem tileSent_keeps (s : State) (c f d : Nat) : ∀ v, v = (s.route c (.tcm d)).chargeTile c f d →
    v.mem = s.mem ∧ v.threads = s.threads ∧ ∀ x, (v.core x).forwards = (s.core x).forwards ∧
      (v.core x).arrivals = (s.core x).arrivals := by
  rintro v rfl
  have hm : (s.route c (.tcm d)).Metered ((s.route c (.tcm d)).chargeTile c f d) :=
    (State.Metered.charge ..).trans (.charge ..)
  refine ⟨?_, ?_, fun x => ?_⟩
  · rw [hm.only.mem]
    exact route_part State.mem (fun _ _ => rfl) (fun _ _ _ => rfl) s c _
  · obtain ⟨⟨_, _, h⟩, -⟩ := hm
    rw [h]
    exact route_part State.threads (fun _ _ => rfl) (fun _ _ _ => rfl) s c _
  · rw [hm.only.core]
    exact ⟨route_core Core.forwards (fun _ _ => rfl) s c _ x, route_core Core.arrivals (fun _ _ => rfl) s c _ x⟩

section
variable {s : State} {c : Nat} (hc : validCore c = true) (ha : (s.core c).away = false)
include hc ha

/-- A held slot whose tile has been taken becomes EMPTY. -/
theorem forwardAccept_frees {f : Forward} (hf : (s.core c).forwards = [f]) (hr : f.ring < 4) (hp : f.phase = 2) :
    ∃ t, exec (.forwardAccept c f.ring) s = .next t ∧ t.mem = s.mem ∧ t.threads = s.threads ∧
      (t.core c).forwards = [] ∧ (t.core c).ring f.ring = { (s.core c).ring f.ring with
        fi := (((s.core c).ring f.ring).fi + 1) % ((s.core c).ring f.ring).len
        nh := ((s.core c).ring f.ring).nh - 1 } := by
  have hold : (s.core c).oldest f.ring = some f := by
    rw [Core.oldest, hf, List.find?_cons, beq_self_eq_true]
  have hexec : exec (.forwardAccept c f.ring) s = .next (s.settleHeld c f.ring) := by
    show execForwardAccept c f.ring s = _
    obtain ⟨ring, dest, phase⟩ := f
    obtain rfl : phase = 2 := hp
    have hok : (validCore c && decide (ring < 4)) = true := by rw [hc, decide_eq_true hr]; rfl
    simp only [execForwardAccept, eventIf_pos hok, ha, hold, Bool.false_eq_true, if_false]
  have hover : f.over = true := by simp [Forward.over, hp]
  have hslots := State.SlotsOnly.settleHeld s c f.ring
  have hempty : ((s.core c).freeOldest f.ring).oldest f.ring = none := by
    show (modOldest f.ring (fun _ => none) (s.core c).forwards).find? _ = none
    rw [hf, modOldest, if_pos rfl]
    rfl
  have hcore : (s.settleHeld c f.ring).core c = (s.core c).freeOldest f.ring := by
    rw [settleHeld_core, hf, List.length_singleton, release_over hold hover, release_empty hempty]
  refine ⟨_, hexec, hslots.mem, hslots.threads, ?_, ?_⟩
  · rw [hcore]
    show modOldest f.ring (fun _ => none) (s.core c).forwards = []
    rw [hf, modOldest, if_pos rfl]
    rfl
  · rw [hcore]
    exact ring_modRing_same ..

/-- A held slot's tile is sent on. -/
theorem forwardAccept_sends {f : Forward} {d h : Nat} (hf : (s.core c).forwards = [f]) (hr : f.ring < 4)
    (hd : f.dest = some d) (hp : f.phase = 0) (hne : d ≠ c) (hh : s.holder (quadOf c) = some h)
    (hq : s.quotaOk (quadOf c) h = true) :
    ∃ t a, exec (.forwardAccept c f.ring) s = .next t ∧ t.mem = s.mem ∧ t.threads = s.threads ∧
      (t.core c).forwards = [{ f with phase := 1 }] ∧ (t.core d).arrivals = (s.core d).arrivals ++ [a] ∧
      a.ring = f.ring ∧
      a.tile = (s.core c).tile (((s.core c).ring f.ring).tile ((s.core c).ring f.ring).fi) ∧ a.src = c ∧
      a.forward = true ∧ .tileArrival d ∈ t.agenda := by
  have hold : (s.core c).oldest f.ring = some f := by
    rw [Core.oldest, hf, List.find?_cons, beq_self_eq_true]
  obtain ⟨ring, dest, phase⟩ := f
  obtain rfl : dest = some d := hd
  obtain rfl : phase = 0 := hp
  have hok : (validCore c && decide (ring < 4)) = true := by rw [hc, decide_eq_true hr]; rfl
  show ∃ t a, execForwardAccept c ring s = .next t ∧ _
  simp only [execForwardAccept, eventIf_pos hok, ha, hold, hh, hq, Option.getD_some, Bool.not_true, Bool.false_eq_true,
    if_false]
  obtain ⟨hmem, hthr, hcore⟩ := tileSent_keeps s c h d _ rfl
  refine ⟨_, .mk ring ((s.core c).tile (((s.core c).ring ring).tile ((s.core c).ring ring).fi)) c true 0 0, rfl,
    ?_, ?_, ?_, ?_, rfl, rfl, rfl, rfl, mem_dueOnce_agenda.mpr (.inr rfl)⟩
  · rw [dueOnce_mem, modCore_mem, modCore_mem, hmem]
  · rw [dueOnce_threads, modCore_threads, modCore_threads, hthr]
  · rw [dueOnce_core, core_modCore_other _ _ hne.symm, core_modCore_same]
    show modOldest ring _ ((State.chargeTile _ c h d).core c).forwards = _
    rw [(hcore c).1, hf, modOldest, if_pos rfl]
    rfl
  · rw [dueOnce_core, core_modCore_same, core_modCore_other _ _ hne]
    show (State.core _ d).arrivals ++ _ = _
    rw [(hcore d).2]

/-! ## TILE_ARRIVAL (R235) -/

theorem tileArrival_exec {a : Arrival} {bad : Bool} (hh : (s.core c).place.held = [])
    (harr : (s.core c).arrivals = [a]) (hn : s.nextArrival c [] [a] = some (a, bad)) :
    exec (.tileArrival c) s = .next (((if bad then s.noArrivals c
      else (s.noArrivals c).modCore c fun k => k.claim a).arrived c a bad).offer c) := by
  have hnone : (s.modCore c fun k => { k with arrivals := k.arrivals.erase a }) = s.noArrivals c :=
    modCore_congr (by rw [harr, List.erase_cons_head])
  show execTileArrival c s = _
  simp only [execTileArrival, eventIf_pos hc, gate_open ha hh, harr, hn, hnone, Bool.not_true, Bool.false_eq_true,
    if_false]

theorem tileArrival_claims {a : Arrival} {f : Nat} (hh : (s.core c).place.held = []) (harr : (s.core c).arrivals = [a])
    (hfwd : a.forward = false) (hf : s.holder (quadOf a.src) = some f) (hacc : s.acceptCode f c = 0)
    (hlen : ((s.core c).ring a.ring).len ≠ 0) (hroom : (s.core c).empties a.ring ≠ 0) :
    ∃ t, exec (.tileArrival c) s = .next t ∧ t.mem = s.mem ∧ t.threads = s.threads ∧ (t.core c).arrivals = [] ∧
      (t.core c).ring a.ring = ((s.core c).ring a.ring).fill 1 ∧ .tsendAccept a.thread a.gen ∈ t.agenda ∧
      (t.core c).tile (((s.core c).ring a.ring).tile ((s.core c).ring a.ring).pi) =
        ((s.core c).tile (((s.core c).ring a.ring).tile ((s.core c).ring a.ring).pi)).take a.tile := by
  have hnext : s.nextArrival c [] [a] = some (a, false) := by
    simp [State.nextArrival, hf, hacc, hlen, hroom]
  refine ⟨_, tileArrival_exec hc ha hh harr hnext, ?_⟩
  rw [if_neg Bool.false_ne_true, (arrived_sent _ c hfwd).1]
  have hcore : ((((s.noArrivals c).modCore c fun k => k.claim a).due (.tsendAccept a.thread a.gen)).core c) =
      Core.claim { s.core c with arrivals := [] } a := by
    rw [due_core, core_modCore_same, noArrivals_core]
  rw [offer_none (by rw [hcore]; rfl), hcore]
  exact ⟨rfl, rfl, rfl, ring_modRing_same .., mem_due_agenda.mpr (.inr rfl), tile_modTile_same ..⟩

theorem tileArrival_refuses {a : Arrival} {f : Nat} (hh : (s.core c).place.held = []) (harr : (s.core c).arrivals = [a])
    (hfwd : a.forward = false) (hf : s.holder (quadOf a.src) = some f) (hacc : s.acceptCode f c ≠ 0) :
    ∃ t, exec (.tileArrival c) s = .next t ∧ t.mem = s.mem ∧ t.threads = s.threads ∧ (t.core c).arrivals = [] ∧
      (t.core c).tiles = (s.core c).tiles ∧ (t.core c).rings = (s.core c).rings ∧ .remoteReply s.nextNet ∈ t.agenda ∧
      t.net = smPut s.net s.nextNet (.answer a.thread a.gen
        (.trap { code := cSeg, detail := 3, tval := BitVec.ofNat 64 c }) ((s.thr a.thread).flyHold == .remote) s.cycle) := by
  have hnext : s.nextArrival c [] [a] = some (a, true) := by
    simp [State.nextArrival, hf, hacc]
  refine ⟨_, tileArrival_exec hc ha hh harr hnext, ?_⟩
  rw [if_pos rfl, (arrived_sent _ c hfwd).2]
  have hcore (it : Item) : ((s.noArrivals c).launchItem it true).core c = { s.core c with arrivals := [] } :=
    noArrivals_core s c
  rw [offer_none (by rw [hcore]), hcore]
  exact ⟨rfl, rfl, rfl, rfl, rfl, List.mem_append_right _ List.mem_cons_self, rfl⟩

end

end Sys2Proof.Machine
end

section
/-! SUPPORT. MATRIX_UNIT_START: the unit starts its oldest instruction, here a TZERO (R240, R256). -/

namespace Sys2Proof.Machine

/-- A core whose unit has taken `o` from its queue. -/
def Core.taking (k : Core) (o : UnitOp) : Core := { k with mq := k.mq.erase o, munit := some o }

/-- A thread whose word the unit executes. -/
def Thread.inUnit (th : Thread) : Thread := { th with op := { th.op with phase := 2 } }

/-- The unit of core `c` has taken `o` from its queue, and its thread runs (R240). -/
def State.begun (s : State) (c : Nat) (o : UnitOp) : State :=
  ((s.modCore c (·.taking o)).modThr o.thread Thread.inUnit).runBy o.thread

section
variable {s : State} {c : Nat} {o : UnitOp} {d : BitVec 5}

theorem begun_core (s : State) (c : Nat) (o : UnitOp) : (s.begun c o).core c = (s.core c).taking o :=
  core_modCore_same s c (·.taking o)

theorem begun_me (s : State) (c : Nat) (o : UnitOp) : (s.begun c o).me = (s.thr o.thread).inUnit :=
  thr_modThr_same (s.modCore c (·.taking o)) o.thread Thread.inUnit

theorem begun_streaming (hc : coreOf o.thread = c) : (s.begun c o).streaming o.thread = s.streaming o.thread := by
  rw [State.streaming, hc, begun_core, State.streaming, hc]
  rfl

theorem ctrlTurn_empty (h : (s.core c).ctrl = []) : s.ctrlTurn c = s := by
  rw [State.ctrlTurn, h, List.foldl_nil]

theorem sendTurn_empty (h : (s.core c).sendBuf = []) : s.sendTurn c = s := by
  rw [State.sendTurn, h, List.foldl_nil]

/-- A free unit starts the one instruction of its queue. -/
theorem matrixTurn_starts (hu : (s.core c).munit = none) (hop : (s.core c).mop = none) (hw : (s.core c).mwait = [])
    (hq : (s.core c).mq = [o]) :
    s.matrixTurn c = nextOf (s.begun c o) (matRun o.insn o.word (s.begun c o)) := by
  have hadmit : s.admitMat c 0 = s := rfl
  have hnext : (s.core c).nextUnitOp = some o := by simp [Core.nextUnitOp, hq, hop]
  simp only [State.matrixTurn, hu, hop, hw, List.length_nil, hadmit, ite_self, hnext, Option.isSome_none, Bool.false_and,
    Bool.false_eq_true, if_false]
  rfl

/-! ## The TZERO (R256) -/

theorem addressWord_tzero (d : BitVec 5) : addressWord (encode (.tzero d)) = false := by
  have hlow : ∀ d : BitVec 5, ((36#6 ++ 0#10 ++ d ++ 0#5 ++ 2#6).extractLsb' 0 11).toNat = 2 := by decide
  simp only [addressWord, majorNat_tzero]
  rw [show encode (.tzero d) = 36#6 ++ 0#10 ++ d ++ 0#5 ++ 2#6 from rfl, hlow]
  decide

theorem tzeroBody_zeroes {w : Half} {n : Nat} (h : ((s.core s.here).tile n).desc.ok = true) : tzeroBody w n s =
    .done (s.modCore s.here (·.modTile n (·.zeroed ((s.core s.here).tile n).desc.n))) := by
  simp only [tzeroBody, h, Bool.not_true, Bool.false_eq_true, if_false]
  rfl

/-- The word that the unit executes goes on. -/
theorem matIssue_continues {i : Instr} {w : Half} (hp : s.me.op.phase = 2) (hu : (s.core s.here).munit = some o)
    (ho : o.thread = s.cur) (hr : o.replay = false) : matIssue i w s = matTurn o s := by
  simp only [matIssue, hp, hu, ho, hr, decide_true, Bool.true_or, if_true, Bool.not_false, Bool.and_self]

/-- The unit of the executing thread's core zeroes a tile for it. -/
theorem tzero_runs {n : Nat} (hi : o.insn = .tzero d) (hw : o.word = encode (.tzero d)) (ho : o.thread = s.cur)
    (hr : o.replay = false) (hu : (s.core s.here).munit = some o) (hp : s.me.op.phase = 2) (hd : d.toNat < 16)
    (hok : ((s.core s.here).tile d.toNat).desc.ok = true) (hf : (s.core s.here).filling d.toNat = false)
    (hpair : s.me.tsr.pair = false) (hpp : s.me.tsr.pp = false) (hrep : s.me.replaying = false)
    (hs : s.streaming s.cur = false) (hn : n = ((s.core s.here).tile d.toNat).desc.n) :
    matRun o.insn o.word s = .next (s.after (o.leave (s.modCore s.here (·.modTile d.toNat (·.zeroed n))))) := by
  have hmajor : majorNat (matForm o.insn o.word s).word < 0x2B := by
    show majorNat o.word < 0x2B
    rw [hw, majorNat_tzero]
    decide
  have haddr : addressWord (matForm o.insn o.word s).word = false := by
    show addressWord o.word = false
    rw [hw, addressWord_tzero]
  have hfill : ((s.core s.here).directTiles o.insn).any (s.core s.here).filling = false := by
    simp [hi, Core.directTiles, Nat.mod_eq_of_lt hd, hf]
  have heff : matEffect o s = .done (s.modCore s.here (·.modTile d.toNat (·.zeroed n))) := by
    rw [matEffect, hi, hn]
    exact tzeroBody_zeroes hok
  rw [matRun, run_settles hpair hs hpp (Nat.zero_le _) rfl hmajor (Thread.heldBack_of_idle hrep _) haddr,
    matIssue_continues hp hu ho hr, matTurn_done hfill heff, settle_done]

/-! ## MATRIX_UNIT_START (R240) -/

/-- The core once the unit has zeroed a tile and is free. -/
theorem leave_zeroed {n : Nat} (ho : coreOf o.thread = c) (hu : (s.core c).munit = some o) :
    (o.leave (s.modCore c (·.modTile d.toNat (·.zeroed n)))).core c =
      ((s.core c).modTile d.toNat (·.zeroed n)).freed := by
  subst ho
  have hcore := core_modCore_same s (coreOf o.thread) (·.modTile d.toNat (·.zeroed n))
  have hunit : ((s.modCore (coreOf o.thread) (·.modTile d.toNat (·.zeroed n))).core (coreOf o.thread)).munit = some o := by
    rw [hcore]
    exact hu
  rw [leave_core hunit rfl rfl, hcore]
  rfl

theorem matrixUnitStart_zeroes (hc : validCore c = true) (ha : (s.core c).away = false)
    (hctrl : (s.core c).ctrl = []) (hwait : (s.core c).mwait = []) (hq : (s.core c).mq = [o])
    (hu : (s.core c).munit = none) (hop : (s.core c).mop = none)
    (hsend : (s.core c).sendBuf = []) (hi : o.insn = .tzero d) (hw : o.word = encode (.tzero d)) (hr : o.replay = false)
    (ho : coreOf o.thread = c) (hd : d.toNat < 16) (hok : ((s.core c).tile d.toNat).desc.ok = true)
    (hf : (s.core c).filling d.toNat = false) (hpair : (s.thr o.thread).tsr.pair = false)
    (hpp : (s.thr o.thread).tsr.pp = false) (hrep : (s.thr o.thread).replaying = false)
    (hs : s.streaming o.thread = false) :
    ∃ t, exec (.matrixUnitStart c) s = .next t ∧ t.mem = s.mem ∧ (t.core c).mq = [] ∧ (t.core c).munit = none ∧
      (t.thr o.thread).pc = (s.thr o.thread).pc + 4 ∧ (t.thr o.thread).st = .run ∧
      (t.thr o.thread).g = (s.thr o.thread).g ∧
      ((t.core c).tile d.toNat).data = List.replicate 2048 0 ∧ ((t.core c).tile d.toNat).pois = false ∧
      ∀ j, j < 16 → j ≠ d.toNat → (t.core c).tile j = (s.core c).tile j := by
  have hhere : (s.begun c o).here = c := ho
  have hme := begun_me s c o
  have hunit : ((s.begun c o).core c).munit = some o := by rw [begun_core]; rfl
  have hrun := tzero_runs (s := s.begun c o) (o := o) (d := d) hi hw rfl hr (by rw [hhere, hunit])
    (by rw [hme]; rfl) hd (by rw [hhere, begun_core]; exact hok) (by rw [hhere, begun_core]; exact hf)
    (by rw [hme]; exact hpair) (by rw [hme]; exact hpp) (by rw [hme]; exact hrep)
    ((begun_streaming ho).trans hs) rfl
  rw [hhere, begun_core] at hrun
  have hcore := leave_zeroed (s := s.begun c o) (d := d) (n := (((s.core c).taking o).tile d.toNat).desc.n) ho hunit
  rw [begun_core] at hcore
  have hmq : ((s.core c).mq.erase o) = [] := by rw [hq, List.erase_cons_head]
  set n := (((s.core c).taking o).tile d.toNat).desc.n
  set t := (s.begun c o).after (o.leave ((s.begun c o).modCore c (·.modTile d.toNat (·.zeroed n)))) with ht
  have htcore : t.core c = (((s.core c).taking o).modTile d.toNat (·.zeroed n)).freed := (after_core ..).trans hcore
  have hwork : (t.core c).matrixWork = false := by
    have hparts (k : Core) : k.freed.matrixWork = (k.ctrl != [] || k.mwait != [] || k.mq != [] || k.sendBuf != []) := by
      simp [Core.matrixWork, Core.freed]
    have hlists : (((s.core c).taking o).modTile d.toNat (·.zeroed n)).ctrl = [] ∧
        (((s.core c).taking o).modTile d.toNat (·.zeroed n)).mwait = [] ∧
        (((s.core c).taking o).modTile d.toNat (·.zeroed n)).mq = [] ∧
        (((s.core c).taking o).modTile d.toNat (·.zeroed n)).sendBuf = [] := ⟨hctrl, hwait, hmq, hsend⟩
    obtain ⟨h1, h2, h3, h4⟩ := hlists
    rw [htcore, hparts, h1, h2, h3, h4]
    rfl
  have hsent : t.sendTurn c = t := sendTurn_empty (by rw [htcore]; exact hsend)
  have hexec : exec (.matrixUnitStart c) s = .next t := by
    show execMatrixUnitStart c s = _
    simp only [execMatrixUnitStart, eventIf_pos hc, ha, ctrlTurn_empty hctrl, matrixTurn_starts hu hop hwait hq, hrun,
      nextOf, hsent, hwork, Bool.false_eq_true, if_false]
  have hthr : t.thr o.thread = (s.thr o.thread).inUnit.complete ((s.thr o.thread).pc + 4) (s.thr o.thread).tsr.pp := by
    have hpc := after_thr (s.begun c o) (o.leave ((s.begun c o).modCore c (·.modTile d.toNat (·.zeroed n))))
    rw [leave_thr, modCore_thr, hme] at hpc
    exact hpc.trans (congrArg (Thread.complete · _ _) hme)
  refine ⟨t, hexec, ?_, ?_, ?_, ?_, ?_, ?_, ?_, ?_, fun j hj hne => ?_⟩
  · rw [ht, after_mem, leave_mem]
    rfl
  · rw [htcore]
    exact hmq
  · rw [htcore]
    rfl
  · rw [hthr]
    rfl
  · rw [hthr]
    rfl
  · rw [hthr]
    rfl
  · rw [htcore, freed_tile, tile_modTile_same]
    rfl
  · rw [htcore, freed_tile, tile_modTile_same]
    exact setPois_false_pois _
  · rw [htcore, freed_tile, tile_modTile_other _ _ (by omega)]
    rfl

end

end Sys2Proof.Machine
end

section
/-! SUPPORT. TMMAS_CHUNK: the steps of a multi-chunk operation (R244); with it the events of the matrix unit are settled. -/

namespace Sys2Proof.Machine

section
variable {s : State} {c : Nat} {m : MatOp}

/-- A step of the operation of a core whose context runs. -/
theorem tmmasChunk_steps (hc : validCore c = true) (ha : (s.core c).away = false) (hctrl : (s.core c).ctrl = [])
    (hl : (s.core c).leaving = false) (hm : (s.core c).mop = some m) :
    exec (.tmmasChunk c) s = .next (s.matStep c m) := by
  show execTmmasChunk c s = _
  simp only [execTmmasChunk, eventIf_pos hc, ha, hl, ctrlTurn_empty hctrl, hm, Bool.false_eq_true, if_false]

/-! ## The accumulator is loaded (R244) -/

/-- A core whose operation in progress is the one given. -/
def Core.running (k : Core) (m : MatOp) : Core := { k with mop := some m }

theorem matStep_loads (hh : m.held = 0) (hload : m.loaded = false) (hbad : s.subTileBad (accAt c m.accg) = none) :
    s.matStep c m = (s.modCore c fun k => k.running
      { m with loaded := true, acc := loadAccs (afmtOf m.accg) (s.rd (accAt c m.accg) 4096) }).defer (.tmmasChunk c) := by
  simp only [State.matStep, Core.running, hh, hload, hbad, bne_self_eq_false, Bool.false_eq_true, if_false, Bool.not_false,
    if_true]

/-! ## A chunk is added (R244) -/

/-- The operation after the chunk of two tiles of a core. -/
def MatOp.added (m : MatOp) (k : Core) (ta tb : Nat) : MatOp :=
  { m with acc := (addChunks k ta tb (intOperand (k.tile ta).desc.fmt) m.sat m.acc).1
           flags := m.flags ||| (addChunks k ta tb (intOperand (k.tile ta).desc.fmt) m.sat m.acc).2
           chunk := m.chunk + 1
           fmts := some (m.fmts.getD ((k.tile ta).desc.fmt, (k.tile tb).desc.fmt)) }

theorem added_fields (m : MatOp) (k : Core) (ta tb : Nat) : (m.added k ta tb).chunk = m.chunk + 1 ∧
    (m.added k ta tb).op = m.op ∧ (m.added k ta tb).accg = m.accg ∧
    (m.added k ta tb).acc = (addChunks k ta tb (intOperand (k.tile ta).desc.fmt) m.sat m.acc).1 ∧
    (m.added k ta tb).flags = m.flags ||| (addChunks k ta tb (intOperand (k.tile ta).desc.fmt) m.sat m.acc).2 := by
  simp only [MatOp.added, and_self]

theorem chunkCandidate_metered (s : State) (c f u ta tb : Nat) (pfx : Option (BitVec 26)) :
    s.Metered ((s.chargeChunk c f ta tb).chunkCandidate u c ta tb pfx) :=
  (State.Metered.chargePart ..).trans (State.Metered.candidate ..)

/-- A chunk of one slot in each ring goes through Accepts and the quota. -/
theorem matChunk_adds {ra rb ta tb : Nat} (hr : m.rings = (ra, rb))
    (ht : (s.core c).chunkTiles m = (ta, tb)) (hna : (s.core c).chunkSlots ra = 1) (hnb : (s.core c).chunkSlots rb = 1)
    (hb : (s.fn m.fn).boundary = false) (hpa : ((s.core c).tile ta).pois = false)
    (hpb : ((s.core c).tile tb).pois = false)
    (hacc : (s.core c).accepts (afmtOf m.accg) ta tb (some m.sparse) m.op.pfx m.fmts = true) (hd : m.dead = false)
    (hmay : s.mayAccept m.op.thread = true) :
    ∃ v, s.Metered v ∧ s.matChunk c m = (((v.modCore c fun k => k.running
      (m.added (s.core c) ta tb)).consumeSlots c ra 1).consumeSlots c rb 1).defer (.tmmasChunk c) := by
  have heven (r : Nat) : (s.core c).evenFor r 1 = true := rfl
  have hfind : ((List.range 1).map (ta + ·) ++ (List.range 1).map (tb + ·)).find?
      (fun t => ((s.core c).tile t).pois) = none := by simp [hpa, hpb]
  refine ⟨_, chunkCandidate_metered s c m.fn m.op.thread ta tb m.op.pfx, ?_⟩
  simp only [State.matChunk, hr, ht]
  rw [hna, hnb]
  simp only [Core.running, MatOp.added, hfind, hb, hacc, heven, hmay, hd, Bool.false_and, Bool.and_self, Bool.or_true,
    Bool.or_self, Bool.not_true, Bool.false_eq_true, if_false]

/-! ## The final rounding (R39, R244) -/

theorem matFinish_stores {bs : List Byte} {fl : Flags} {l : BitVec 32} (hd : m.dead = false)
    (hbs : storeAccs (accDest m.op.pfx) m.mode m.sat m.acc (s.thr m.op.thread).rndlfsr = (bs, fl, l)) :
    s.matFinish c m = (((s.putAcc (accAt c m.accg) bs).raise m.op.thread (m.flags ||| fl)).modThr m.op.thread
      fun th => { th with rndlfsr := l }).endMat c m .ok := by
  unfold State.matFinish
  simp -iota only [hd, State.raiseFor, Bool.false_eq_true, if_false]
  simp only [hbs]

/-- The end of an operation whose thread lives and is parked. -/
theorem endMat_resumes (hd : m.dead = false) (hr : m.op.replay = false)
    (hst : (s.thr m.op.thread).st = .parked .engine) (hf : (s.thr m.op.thread).op.fetch = false) :
    ((s.endMat c m .ok).core c).mop = none ∧ (s.endMat c m .ok).mem = s.mem ∧ (s.endMat c m .ok).thr m.op.thread =
      { s.thr m.op.thread with st := .run, op := { (s.thr m.op.thread).op with reply := .ok, again := true } } := by
  have hthr : ((s.modCore c fun k => { k with mop := none }).dueOnce (.matrixUnitStart c)).thr m.op.thread =
      s.thr m.op.thread := by rw [dueOnce_thr, modCore_thr]
  have hend : s.endMat c m .ok = ((s.modCore c fun k => { k with mop := none }).dueOnce
      (.matrixUnitStart c)).answerOp m.op.thread false .ok := by
    simp only [State.endMat, hd, hr, Bool.false_eq_true, if_false]
  rw [hend]
  refine ⟨?_, ?_, ?_⟩
  · rw [State.answerOp, if_neg (by decide), hthr, hf, if_neg (by decide), modThr_core, dueOnce_core, core_modCore_same]
  · rw [answerOp_parked_mem (hthr ▸ hf), dueOnce_mem, modCore_mem]
  · rw [answerOp_parked (hthr ▸ hst) (hthr ▸ hf), hthr]

/-! ## The steps, as MATRIX_UNIT gives them (R244) -/

section
variable (hc : validCore c = true) (ha : (s.core c).away = false) (hctrl : (s.core c).ctrl = [])
  (hl : (s.core c).leaving = false) (hm : (s.core c).mop = some m) (hh : m.held = 0)
include hc ha hctrl hl hm hh

theorem tmmasChunk_loads (hload : m.loaded = false) (hbad : s.subTileBad (accAt c m.accg) = none) :
    ∃ t, exec (.tmmasChunk c) s = .next t ∧ t.mem = s.mem ∧ t.threads = s.threads ∧ .tmmasChunk c ∈ t.agenda ∧
      (t.core c).mop = some { m with loaded := true, acc := loadAccs (afmtOf m.accg) (s.rd (accAt c m.accg) 4096) } := by
  refine ⟨_, (tmmasChunk_steps hc ha hctrl hl hm).trans (congrArg _ (matStep_loads hh hload hbad)), ?_, ?_,
    mem_dueOnce_agenda.mpr (.inr rfl), ?_⟩
  · rw [State.defer, dueOnce_mem, modCore_mem]
  · rw [State.defer, dueOnce_threads, modCore_threads]
  · rw [State.defer, dueOnce_core, core_modCore_same, Core.running]

theorem tmmasChunk_adds {ra rb ta tb : Nat} (hload : m.loaded = true)
    (hlast : m.chunk ≤ (m.accg.extractLsb' 48 16).toNat) (hr : m.rings = (ra, rb))
    (ht : (s.core c).chunkTiles m = (ta, tb)) (hra : ra < 4) (hrb : rb < 4) (hne : ra ≠ rb)
    (hna : (s.core c).chunkSlots ra = 1) (hnb : (s.core c).chunkSlots rb = 1) (hfa : 0 < ((s.core c).ring ra).nf)
    (hfb : 0 < ((s.core c).ring rb).nf) (hb : (s.fn m.fn).boundary = false) (hpa : ((s.core c).tile ta).pois = false)
    (hpb : ((s.core c).tile tb).pois = false)
    (hacc : (s.core c).accepts (afmtOf m.accg) ta tb (some m.sparse) m.op.pfx m.fmts = true) (hd : m.dead = false)
    (hmay : s.mayAccept m.op.thread = true) :
    ∃ t, exec (.tmmasChunk c) s = .next t ∧ t.mem = s.mem ∧ .tmmasChunk c ∈ t.agenda ∧
      (t.core c).mop = some (m.added (s.core c) ta tb) ∧ ∀ r, r = ra ∨ r = rb →
        ((t.core c).ring r).ci = (((s.core c).ring r).ci + 1) % ((s.core c).ring r).len ∧
        ((t.core c).ring r).nf = ((s.core c).ring r).nf - 1 := by
  have hmore : ¬ field m.accg.toNat 63 48 < m.chunk := by
    rw [field_eq_extractLsb']
    exact Nat.not_lt.mpr hlast
  have hfull : (s.core c).chunkFull ra = true ∧ (s.core c).chunkFull rb = true := by
    simp only [Core.chunkFull, hna, hnb, hfa, hfb, Nat.succ_le_of_lt, decide_true, Bool.and_self, and_self]
  obtain ⟨v, hv, hchunk⟩ := matChunk_adds hr ht hna hnb hb hpa hpb hacc hd hmay
  have hstep : s.matStep c m = s.matChunk c m := by
    simp only [State.matStep, hr, hh, hload, hmore, hfull, bne_self_eq_false, Bool.not_true, Bool.and_self,
      Bool.false_eq_true, if_false, if_true]
  obtain ⟨⟨fi, nh, hfirst⟩, hkeep⟩ := consumeSlots_rings hra
    (v.modCore c fun k => k.running (m.added (s.core c) ta tb)) c 1
  obtain ⟨⟨fi', nh', hsecond⟩, hkeep'⟩ := consumeSlots_rings hrb
    ((v.modCore c fun k => k.running (m.added (s.core c) ta tb)).consumeSlots c ra 1) c 1
  have hslots := (State.SlotsOnly.consumeSlots (v.modCore c fun k => k.running (m.added (s.core c) ta tb)) c ra 1).trans
    (.consumeSlots _ c rb 1)
  have hring (r : Nat) : ((v.modCore c fun k => k.running (m.added (s.core c) ta tb)).core c).ring r =
      (s.core c).ring r := by
    rw [core_modCore_same, ← hv.only.core]
    rfl
  refine ⟨_, (tmmasChunk_steps hc ha hctrl hl hm).trans (congrArg _ (hstep.trans hchunk)), ?_,
    mem_dueOnce_agenda.mpr (.inr rfl), ?_, ?_⟩
  · rw [State.defer, dueOnce_mem, hslots.mem, modCore_mem, hv.only.mem]
  · obtain ⟨rs, fs, hcore⟩ := hslots.core c
    rw [State.defer, dueOnce_core, hcore, core_modCore_same, Core.running]
  · rintro r (rfl | rfl) <;> rw [State.defer, dueOnce_core]
    · rw [hkeep' _ hra hne, hfirst, hring]
      exact ⟨rfl, rfl⟩
    · rw [hsecond, hkeep _ hrb hne.symm, hring]
      exact ⟨rfl, rfl⟩

theorem tmmasChunk_finishes {bs : List Byte} {fl : Flags} {l : BitVec 32} (hload : m.loaded = true)
    (hlast : (m.accg.extractLsb' 48 16).toNat < m.chunk) (hd : m.dead = false) (hr : m.op.replay = false)
    (hst : (s.thr m.op.thread).st = .parked .engine) (hf : (s.thr m.op.thread).op.fetch = false) (hmem : s.memOk)
    (hbs : storeAccs (accDest m.op.pfx) m.mode m.sat m.acc (s.thr m.op.thread).rndlfsr = (bs, fl, l)) :
    ∃ t, exec (.tmmasChunk c) s = .next t ∧ (t.core c).mop = none ∧
      (∀ i, i < bs.length → memGet t.mem (accAt c m.accg + i) = bs.getD i 0) ∧
      (∀ a, a < accAt c m.accg ∨ accAt c m.accg + bs.length ≤ a → memGet t.mem a = memGet s.mem a) ∧
      ∀ u : Thread, u = t.thr m.op.thread → u.st = .run ∧ u.op.reply = .ok ∧ u.pc = (s.thr m.op.thread).pc ∧
        u.g = (s.thr m.op.thread).g ∧ u.tsr.flags = (s.thr m.op.thread).tsr.flags ||| (m.flags ||| fl) ∧
        u.rndlfsr = l := by
  have hdone : field m.accg.toNat 63 48 < m.chunk := by rwa [field_eq_extractLsb']
  have hstep : s.matStep c m = s.matFinish c m := by
    simp only [State.matStep, hh, hload, hdone, bne_self_eq_false, Bool.not_true, Bool.false_eq_true, if_false, if_true]
  have hthr : (((s.putAcc (accAt c m.accg) bs).raise m.op.thread (m.flags ||| fl)).modThr m.op.thread
      fun th => { th with rndlfsr := l }).thr m.op.thread =
        { (s.thr m.op.thread).flagged (m.flags ||| fl) with rndlfsr := l } := by
    rw [thr_modThr_same, raise_thr_same, putAcc_thr]
  obtain ⟨hmop, hm', ht⟩ := endMat_resumes (c := c) (m := m) (s := ((s.putAcc (accAt c m.accg) bs).raise m.op.thread
    (m.flags ||| fl)).modThr m.op.thread fun th => { th with rndlfsr := l }) hd hr (hthr ▸ hst) (hthr ▸ hf)
  rw [modThr_mem, (raise_rest _ _ _).1, putAcc_mem] at hm'
  refine ⟨_, (tmmasChunk_steps hc ha hctrl hl hm).trans (congrArg _ (hstep.trans (matFinish_stores hd hbs))), hmop,
    fun i hi => ?_, fun a hout => ?_, ?_⟩
  · rw [hm', memGet_memWrite_same hmem _ _ _ hi]
  · rw [hm', memGet_memWrite_other _ _ hout]
  · rintro u rfl
    rw [ht, hthr]
    exact ⟨rfl, rfl, rfl, rfl, rfl, rfl⟩

end

end

/-! ## O50 -/

/-- Settles O50, event by event: each clause is the statement of the event's own lemma. -/
theorem matrixEvents : Obligations.MatrixEvents := by
  unfold Obligations.MatrixEvents
  rintro s c k hc rfl ha
  refine ⟨?unitStart, ?chunk, ?resume, ?arrival, ?forward, ?accept⟩
  case unitStart =>
    rintro o d th hctrl hwait hq hu horph hop hsend hi hw hr ho hd hok hf rfl hpair hpp hrep hres hst hs
    exact matrixUnitStart_zeroes hc ha hctrl hwait hq hu hop hsend hi hw hr ho hd hok hf hpair hpp hrep hs
  case chunk =>
    rintro m x last hctrl hl hm hh rfl rfl
    refine ⟨tmmasChunk_loads hc ha hctrl hl hm hh, ?_, ?_⟩
    · rintro ra rb ta tb hload hlast hr ht hra hrb hne hna hnb hfa hfb hb hpa hpb hacc hd hmay
      obtain ⟨t, hnext, hmem, hdue, hmop, hrings⟩ := tmmasChunk_adds hc ha hctrl hl hm hh hload hlast hr.symm ht.symm hra
        hrb hne hna hnb hfa hfb hb hpa hpb hacc hd hmay
      obtain ⟨hchunk, hop, haccg, hsums, hflags⟩ := added_fields m (s.core c) ta tb
      exact ⟨t, _, hnext, hmem, hdue, hmop, hchunk, hop, haccg, hsums, hflags, hrings⟩
    · rintro bs fl l th hload hlast hd hr rfl hst hf hmem hbs
      exact tmmasChunk_finishes hc ha hctrl hl hm hh hload hlast hd hr hst hf hmem hbs.symm
  case resume => exact fun m hm hh hl hg hb => tmmasResume_goes hc ha hm hh hl hg hb
  case arrival =>
    intro a hh harr hfwd hring
    exact ⟨fun f hf hacc hlen hroom => tileArrival_claims hc ha hh harr hfwd hf hacc hlen hroom,
      fun f hf hacc => tileArrival_refuses hc ha hh harr hfwd hf hacc⟩
  case forward =>
    intro f hf hr
    exact ⟨fun d h hd hp hne hh hq => forwardAccept_sends hc ha hf hr hd hp hne hh hq,
      fun hp => forwardAccept_frees hc ha hf hr hp⟩
  case accept =>
    rintro n e th hn rfl hh rfl
    exact ⟨fun hg hfly hst hf => tsendAccept_resumes hn ha hh hg hfly hst hf, fun hg => tsendAccept_stale hn ha hh hg⟩

end Sys2Proof.Machine
end
